-- ==== Sys2Proof/Word.lean ====
section
/-! DEFINITION. Word.lean: the widths the manual names (R6) and their plainest arithmetic. -/

namespace Sys2Proof

/-- A byte, a half, a word and a double (R6). -/
abbrev Byte := BitVec 8
abbrev Half := BitVec 16
abbrev Word := BitVec 32
abbrev Dword := BitVec 64

/-- A virtual or physical address: 48 bits (R109, R374). -/
abbrev Addr := BitVec 48

/-- A set of lanes of one wave, bit l for lane l. -/
abbrev Mask := BitVec 32

/-- A map from numbers to values held as plain data: a list of pairs, keys strictly rising. -/
abbrev Tab (α : Type) := List (Nat × α)

/-- `bits x hi lo` of R136 on an exact natural number. -/
def nbits (x hi lo : Nat) : Nat := x / 2 ^ lo % 2 ^ (hi + 1 - lo)

/-- Field of `len` bits at bit `lo` of a word. -/
def fld (w : Word) (lo len : Nat) : Nat := w.toNat / 2 ^ lo % 2 ^ len

/-- The low `n` bits of `x` read as a signed integer (`sext` of R136). -/
def sextN (x n : Nat) : Int :=
  let y := x % 2 ^ n
  if 2 * y < 2 ^ n then (y : Int) else (y : Int) - (2 ^ n : Nat)

/-- Bits [31:0] of an exact integer (`trunc32` of R136). -/
def trunc32 (x : Int) : Word := BitVec.ofInt 32 x

/-- Bits [63:0] of an exact integer (`trunc64` of R136). -/
def trunc64 (x : Int) : Dword := BitVec.ofInt 64 x

/-- The low and the high word of a double (R59: the even register holds the low word). -/
def lo32 (x : Dword) : Word := x.extractLsb' 0 32
def hi32 (x : Dword) : Word := x.extractLsb' 32 32

/-- A double from its high and low words. -/
def pair64 (hi lo : Word) : Dword := hi ++ lo

end Sys2Proof
end

