-- ==== Sys2Proof/Machine/Num.lean ====
section
/-! DEFINITION. Machine/Num.lean: the floating-point formats of chapter 3, their exact values, and rounding.
A finite value is a sign and a dyadic magnitude `m * 2^e`; nothing is approximated before the one rounding. -/

namespace Sys2Proof.Machine

/-- A floating-point format (Table 3.1). `ieee` is false for E4M3, which has no infinity. -/
structure FFmt where
  expBits : Nat
  fracBits : Nat
  bias : Nat
  ieee : Bool
  deriving DecidableEq, Repr

def fp32 : FFmt := ⟨8, 23, 127, true⟩
def fp16 : FFmt := ⟨5, 10, 15, true⟩
def bf16 : FFmt := ⟨8, 7, 127, true⟩
def e4m3 : FFmt := ⟨4, 3, 7, false⟩
def e5m2 : FFmt := ⟨5, 2, 15, true⟩

/-- The bits below the sign. -/
def FFmt.magBits (F : FFmt) : Nat := F.expBits + F.fracBits
/-- The first magnitude code that is not finite. -/
def FFmt.topCode (F : FFmt) : Nat :=
  if F.ieee then (2 ^ F.expBits - 1) * 2 ^ F.fracBits else 2 ^ F.magBits - 1
/-- The code with a sign. -/
def FFmt.signed (F : FFmt) (neg : Bool) (code : Nat) : Nat := if neg then 2 ^ F.magBits + code else code
/-- The canonical NaN (Table 3.1). -/
def FFmt.nan (F : FFmt) : Nat :=
  if F.ieee then F.topCode + 2 ^ (F.fracBits - 1) else F.topCode
/-- The exponent of the smallest normal. -/
def FFmt.emin (F : FFmt) : Int := 1 - (F.bias : Int)

/-- What an encoding denotes (`value` of R136). -/
inductive FVal where
  | nan (sig : Bool) | inf (neg : Bool) | fin (neg : Bool) (m : Nat) (e : Int)
  deriving DecidableEq, Repr

/-- Decode an encoding of a format (R61, R63, R64). -/
def FFmt.value (F : FFmt) (x : Nat) : FVal :=
  let neg := x / 2 ^ F.magBits % 2 == 1
  let mag := x % 2 ^ F.magBits
  let ex := mag / 2 ^ F.fracBits
  let fr := mag % 2 ^ F.fracBits
  if F.topCode ≤ mag then
    if F.ieee && fr == 0 then .inf neg
    else .nan (decide (16 ≤ F.magBits + 1) && decide (fr / 2 ^ (F.fracBits - 1) = 0))
  else if ex = 0 then .fin neg fr (F.emin - F.fracBits)
  else .fin neg (2 ^ F.fracBits + fr) ((ex : Int) - 1 + F.emin - F.fracBits)

/-- A subnormal encoding. -/
def FFmt.subnormal (F : FFmt) (x : Nat) : Bool :=
  let mag := x % 2 ^ F.magBits
  decide (mag ≠ 0) && decide (mag < 2 ^ F.fracBits)

/-- Decode, reading a subnormal as a zero of its sign under FTZ (R70). -/
def FFmt.input (F : FFmt) (ftz : Bool) (x : Nat) : FVal :=
  if ftz && F.subnormal x then .fin (x / 2 ^ F.magBits % 2 == 1) 0 0 else F.value x

def FVal.isNan : FVal → Bool
  | .nan _ => true
  | .inf _ | .fin .. => false
def FVal.isSig : FVal → Bool
  | .nan s => s
  | .inf _ | .fin .. => false
def FVal.isInf : FVal → Bool
  | .inf _ => true
  | .nan _ | .fin .. => false
def FVal.isZero : FVal → Bool
  | .fin _ m _ => m == 0
  | .nan _ | .inf _ => false
def FVal.neg : FVal → Bool
  | .inf n => n
  | .fin n _ _ => n
  | .nan _ => false
def FVal.negate : FVal → FVal
  | .inf n => .inf (!n)
  | .fin n m e => .fin (!n) m e
  | .nan s => .nan s

/-- Rounding directions of FPMODE.RM (Table 3.2). -/
inductive RMode where
  | rne | rz | ru | rd
  deriving DecidableEq, Repr

def RMode.ofCode (x : Nat) : RMode :=
  match x % 4 with
  | 0 => .rne
  | 1 => .rz
  | 2 => .ru
  | _ => .rd

/-! Exceptions, laid out as FPFLAGS (Table 3.3). `fTiny` marks an exact tiny result, an underflow only where its trap
is enabled (R72). -/
def fIV : Nat := 16
def fDZ : Nat := 8
def fOF : Nat := 4
def fUF : Nat := 2
def fNX : Nat := 1
def fTiny : Nat := 32

/-- Whether a magnitude `n + rem/den` moves up (R69). -/
def roundsUp (mode : RMode) (neg : Bool) (n rem den : Nat) : Bool :=
  match mode with
  | .rne => decide (den < 2 * rem) || (decide (2 * rem = den) && n % 2 == 1)
  | .rz => false
  | .ru => !neg && decide (rem ≠ 0)
  | .rd => neg && decide (rem ≠ 0)

/-- The exponent of a positive ratio: `2^E ≤ num/den < 2^(E+1)`. -/
def ratioExp (num den : Nat) : Int :=
  let g : Int := (Nat.log2 num : Int) - (Nat.log2 den : Int)
  let below := if 0 ≤ g then decide (num < den * 2 ^ g.toNat) else decide (num * 2 ^ (-g).toNat < den)
  if below then g - 1 else g

/-- `num/den` in units of `2^q`: the whole part, and the remainder over its denominator. -/
def scaled (num den : Nat) (q : Int) : Nat × Nat × Nat :=
  if 0 ≤ q then
    let d := den * 2 ^ q.toNat
    (num / d, num % d, d)
  else
    let n := num * 2 ^ (-q).toNat
    (n / den, n % den, den)

/-- Round a non-negative ratio into a format: the magnitude code and the exceptions met (R69). -/
def FFmt.roundMag (F : FFmt) (mode : RMode) (neg : Bool) (num den : Nat) : Nat × Nat :=
  if num = 0 then (0, 0)
  else
    let ex := ratioExp num den
    let be : Int := if F.emin ≤ ex then ex else F.emin
    let (n, rem, d) := scaled num den (be - F.fracBits)
    let n' := if roundsUp mode neg n rem d then n + 1 else n
    let code := (be - F.emin).toNat * 2 ^ F.fracBits + n'
    let inexact := decide (rem ≠ 0)
    let tiny := decide (ex < F.emin) &&
      !(decide (ex = F.emin - 1) &&
        (let (u, r, dd) := scaled num den (ex - F.fracBits)
         roundsUp mode neg u r dd && decide (u + 1 = 2 ^ (F.fracBits + 1))))
    if F.topCode ≤ code then
      let toInf := match mode with
        | .rne => true
        | .rz => false
        | .ru => !neg
        | .rd => neg
      (if toInf && F.ieee then F.topCode else F.topCode - 1, fOF + fNX)
    else (code, (if inexact then fNX else 0) + (if tiny then (if inexact then fUF else fTiny) else 0))

/-- Round a signed ratio under a mode and FTZ (`fround` of R136, R69, R70). -/
def FFmt.roundRatio (F : FFmt) (mode : RMode) (ftz neg : Bool) (num den : Nat) : Nat × Nat :=
  let (code, fl) := F.roundMag mode neg num den
  if ftz && decide (num ≠ 0) && decide (code < 2 ^ F.fracBits) then (F.signed neg 0, fUF + fNX)
  else (F.signed neg code, fl)

/-- Round an exact value. A NaN gives the canonical NaN, with IV where it comes of an invalid operation (R63, R71). -/
def FFmt.round (F : FFmt) (mode : RMode) (ftz : Bool) (x : FVal) : Nat × Nat :=
  match x with
  | .nan sig => (F.nan, if sig then fIV else 0)
  | .inf neg => (F.signed neg (if F.ieee then F.topCode else F.topCode - 1), 0)
  | .fin neg m e =>
    if 0 ≤ e then F.roundRatio mode ftz neg (m * 2 ^ e.toNat) 1 else F.roundRatio mode ftz neg m (2 ^ (-e).toNat)

/-- `round_to(F, x, RNE)` of R136. -/
def FFmt.rne (F : FFmt) (x : FVal) : Nat := (F.round .rne false x).1

/-- The exact product. `nan true` marks an invalid operation or a signalling input (R71). -/
def FVal.mul (a b : FVal) : FVal :=
  match a, b with
  | .nan s, .nan t => .nan (s || t)
  | .nan s, _ => .nan s
  | _, .nan t => .nan t
  | .inf n, .inf k => .inf (xor n k)
  | .inf n, .fin k m _ => if m = 0 then .nan true else .inf (xor n k)
  | .fin k m _, .inf n => if m = 0 then .nan true else .inf (xor n k)
  | .fin n m e, .fin k p f => .fin (xor n k) (m * p) (e + f)

/-- The signed integer a finite value is in units of `2^q`, for `q` no more than its exponent. -/
def FVal.units (q : Int) : FVal → Int
  | .fin neg m e => let v : Int := ((m * 2 ^ (e - q).toNat : Nat) : Int); if neg then -v else v
  | .nan _ | .inf _ => 0

/-- The least exponent among finite values. -/
def minExp : List FVal → Int
  | [] => 0
  | [.fin _ _ e] => e
  | .fin _ _ e :: r => if e ≤ minExp r then e else minExp r
  | _ :: r => minExp r

/-- The exact sum. A zero sum of zeros of one sign keeps it; any other exact zero sum is +, or − under RD (R69). A NaN
term decides before infinities of both signs do (log entry 55). -/
def FVal.sum (mode : RMode) (xs : List FVal) : FVal :=
  if xs.any FVal.isNan then .nan (xs.any FVal.isSig)
  else if xs.any (fun x => x.isInf && x.neg) && xs.any (fun x => x.isInf && !x.neg) then .nan true
  else if xs.any FVal.isInf then .inf (xs.any (fun x => x.isInf && x.neg))
  else
    let q := minExp xs
    let t := (xs.map (FVal.units q)).foldl (· + ·) 0
    if t = 0 then
      if xs.all (fun x => x.isZero && x.neg) then .fin true 0 0
      else if xs.all (fun x => x.isZero && !x.neg) then .fin false 0 0
      else .fin (decide (mode = .rd)) 0 0
    else .fin (decide (t < 0)) t.natAbs q

/-- Numbers in order: -1, 0 or 1 (neither a NaN). −0 and +0 are equal. -/
def FVal.order (a b : FVal) : Int :=
  match a, b with
  | .inf n, .inf k => if n == k then 0 else if n then -1 else 1
  | .inf n, _ => if n then -1 else 1
  | _, .inf k => if k then 1 else -1
  | a, b =>
    let q := minExp [a, b]
    let x := a.units q
    let y := b.units q
    if x < y then -1 else if y < x then 1 else 0

/-- A quotient rounded (R71, R184). -/
def FFmt.div (F : FFmt) (mode : RMode) (ftz : Bool) (a b : FVal) : Nat × Nat :=
  let n := xor a.neg b.neg
  match a, b with
  | .nan s, .nan t => (F.nan, if s || t then fIV else 0)
  | .nan s, _ => (F.nan, if s then fIV else 0)
  | _, .nan t => (F.nan, if t then fIV else 0)
  | .inf _, .inf _ => (F.nan, fIV)
  | .inf _, .fin .. => (F.signed n F.topCode, 0)
  | .fin .., .inf _ => (F.signed n 0, 0)
  | .fin _ m e, .fin _ p f =>
    if p = 0 then (if m = 0 then (F.nan, fIV) else (F.signed n F.topCode, fDZ))
    else
      let g := e - f
      if 0 ≤ g then F.roundRatio mode ftz n (m * 2 ^ g.toNat) p else F.roundRatio mode ftz n m (p * 2 ^ (-g).toNat)

/-- Newton steps of the integer square root, down from an estimate no less than the root. -/
def isqrtAux : Nat → Nat → Nat → Nat
  | 0, _, x => x
  | fuel + 1, n, x =>
    let y := (x + n / x) / 2
    if y < x then isqrtAux fuel n y else x

/-- The integer square root. -/
def isqrt (n : Nat) : Nat := if n = 0 then 0 else isqrtAux (Nat.log2 n + 2) n (2 ^ (Nat.log2 n / 2 + 1))

/-- A square root correctly rounded (R69, R71). The root is taken to 40 bits and its inexactness kept as half a unit. -/
def FFmt.sqrt (F : FFmt) (mode : RMode) (ftz : Bool) (a : FVal) : Nat × Nat :=
  match a with
  | .nan s => (F.nan, if s then fIV else 0)
  | .inf neg => if neg then (F.nan, fIV) else (F.topCode, 0)
  | .fin neg m e =>
    if m = 0 then (F.signed neg 0, 0)
    else if neg then (F.nan, fIV)
    else
      let m1 := if e % 2 = 0 then m else 2 * m
      let e1 := if e % 2 = 0 then e else e - 1
      let big := m1 * 2 ^ 80
      let r := isqrt big
      let x := if r * r = big then 2 * r else 2 * r + 1
      F.round mode ftz (.fin false x (e1 / 2 - 41))

/-- FMIN (`least`) and FMAX by Table 3.4: the chosen operand's value, its code and the exceptions. -/
def FFmt.minMax (F : FFmt) (least ftz : Bool) (x y : Nat) : Nat × Nat :=
  let a := F.input ftz x
  let b := F.input ftz y
  let keep (v : FVal) (c : Nat) : Nat := if v.isZero then F.signed v.neg 0 else c
  if a.isNan && b.isNan then (F.nan, if a.isSig || b.isSig then fIV else 0)
  else if a.isNan then (keep b y, if a.isSig then fIV else 0)
  else if b.isNan then (keep a x, if b.isSig then fIV else 0)
  else
    let o := FVal.order a b
    let aLess := decide (o < 0) || (decide (o = 0) && a.isZero && a.neg)
    if aLess == least then (keep a x, 0) else (keep b y, 0)

/-- Floating-point conditions (Table 8.2). -/
inductive FCond where
  | eq | ne | lt | le | un | od
  deriving DecidableEq, Repr

/-- A comparison and the exceptions it meets (R181). -/
def fcmpF (c : FCond) (ftz : Bool) (x y : Nat) : Bool × Nat :=
  let a := fp32.input ftz x
  let b := fp32.input ftz y
  let un := a.isNan || b.isNan
  let o := FVal.order a b
  (match c with
    | .eq => !un && decide (o = 0)
    | .ne => un || decide (o ≠ 0)
    | .lt => !un && decide (o < 0)
    | .le => !un && decide (o ≤ 0)
    | .un => un
    | .od => !un,
   if a.isSig || b.isSig then fIV else 0)

/-- A finite value rounded to an integer, and whether it changed (R73, R187). -/
def FVal.toInt (mode : RMode) (neg : Bool) (m : Nat) (e : Int) : Int × Bool :=
  let (n, rem, d) := if 0 ≤ e then (m * 2 ^ e.toNat, 0, 1) else (m / 2 ^ (-e).toNat, m % 2 ^ (-e).toNat, 2 ^ (-e).toNat)
  let n' := if roundsUp mode neg n rem d then n + 1 else n
  (if neg then -(n' : Int) else (n' : Int), decide (rem ≠ 0))

/-- Table 3.5: a conversion to an integer in `[lo, hi]`, and its exceptions. -/
def FVal.saturate (mode : RMode) (lo hi : Int) (x : FVal) : Int × Nat :=
  match x with
  | .nan _ => (0, fIV)
  | .inf neg => (if neg then lo else hi, fIV)
  | .fin neg m e =>
    let (n, inexact) := FVal.toInt mode neg m e
    if n < lo then (lo, fIV) else if hi < n then (hi, fIV) else (n, if inexact then fNX else 0)

/-- A conversion to E4M3 or E5M2 (R65): RNE, no FTZ, E4M3 saturating; UF where an inexact result is subnormal or zero. -/
def FFmt.pack8 (F : FFmt) (x : Nat) : Nat × Nat :=
  match fp32.value x with
  | .nan sig => (F.nan, if sig then fIV else 0)
  | .inf neg => (F.signed neg (if F.ieee then F.topCode else F.topCode - 1), 0)
  | .fin neg m e =>
    let (c, fl) := F.round .rne false (.fin neg m e)
    if fl / fOF % 2 = 1 then (c, fOF + fNX)
    else if fl % 2 = 0 then (c, 0)
    else (c, if c % 2 ^ F.magBits < 2 ^ F.fracBits then fUF + fNX else fNX)

/-- Widen a value exactly to FP32 (R66). -/
def FFmt.widen (F : FFmt) (x : Nat) : Word :=
  BitVec.ofNat 32 (match F.value x with
    | .nan _ => fp32.nan
    | v => (fp32.round .rne false v).1)

/-- A signed integer as an exact value. -/
def FVal.ofInt (x : Int) : FVal := .fin (decide (x < 0)) x.natAbs 0

end Sys2Proof.Machine
end

