-- ==== Sys2Proof/Syntax.lean ====
section
/-! DEFINITION. Syntax.lean: the instructions and the machine events of the opcode table, one constructor a row,
with their operands already taken out of the encoding (Tables 5.1 to 5.8 and the field tables of each chapter). -/

namespace Sys2Proof

/-- A vector register code 0-111, before the window is added (R114, R119). -/
abbrev VReg := Fin 112
/-- A uniform register s0-s63 (R115). -/
abbrev SReg := Fin 64
/-- A mask register m0-m11 (R116). -/
abbrev MReg := Fin 12
/-- A buffer record q0-q15 (R46). -/
abbrev QReg := Fin 16
/-- A fold k0-k15 (R224). -/
abbrev Fold := Fin 16
/-- An accumulator slot a0-a7 (R245). -/
abbrev Slot := Fin 8

/-- A vector operand read as a source (Table 5.5). -/
inductive VSrc where
  | reg (n : VReg) | latch (k : Fin 4) | sreg (k : Fin 8) | zero | lane | lit (w : Word)
  deriving DecidableEq, Repr

/-- A vector operand written: a register, or code 124, which discards (Table 5.5). -/
inductive VDst where
  | reg (n : VReg) | discard
  deriving DecidableEq, Repr

/-- A uniform operand read as a source (R115). -/
inductive USrc where
  | reg (n : SReg) | zero | lit (w : Word)
  deriving DecidableEq, Repr

/-- A uniform operand written, or code 124, which discards (R115). -/
inductive UDst where
  | reg (n : SReg) | discard
  deriving DecidableEq, Repr

/-- A mask source of class 6: m0-m11, 14 the active lanes, 15 zero (R192). -/
inductive MSrc where
  | reg (n : MReg) | active | none
  deriving DecidableEq, Repr

/-- Access widths of Table 5.2, codes 0-6. -/
inductive Width where
  | w1 | w2 | w4 | w8 | w16 | u1 | u2
  deriving DecidableEq, Repr

/-- Hints of Table 5.3, codes 0-3. -/
inductive Hint where
  | normal | stream | keep | bypassL1
  deriving DecidableEq, Repr

/-- Scopes of Table 4.1, codes 0-7. -/
inductive Scope where
  | lane | wave | group | cluster | die | device | pod | system
  deriving DecidableEq, Repr

/-- Orderings of an atomic (R124). -/
inductive Ord where
  | rlx | acq | rel | ar
  deriving DecidableEq, Repr

/-- Atomic operations, AOP codes 0-15 (R124, Table 9.7). -/
inductive Aop where
  | add | min | max | minu | maxu | and | or | xor | xchg | cas
  | add64 | min64 | maxu64 | minu64 | cas64 | fadd
  deriving DecidableEq, Repr

/-- Comparisons of WAITU, codes 0-7 (R125, R218). -/
inductive Cmp where
  | eq | ne | lt | ge | ltu | geu | anyset | allclr
  deriving DecidableEq, Repr

/-- Page formats, codes 0-7 (Table 2.6). -/
inductive PFmt where
  | raw | f32 | f16 | bf16 | e4m3 | e5m2 | int8 | int4
  deriving DecidableEq, Repr

/-- Group lengths 32, 64 and 128, codes 1-3 (Table 11.2). -/
inductive GLen where
  | g32 | g64 | g128
  deriving DecidableEq, Repr

/-- Accumulator types, codes 0-2 (Table 11.2). -/
inductive Acc where
  | f32 | f16 | bf16
  deriving DecidableEq, Repr

/-- Texel formats of SAMPLE, W codes 0-6 (Table 9.5). -/
inductive Texel where
  | f32x1 | f32x2 | f32x4 | f16x4 | f16x2 | un8x4 | f16x1
  deriving DecidableEq, Repr

/-- The opaque images MST and MLD move, KIND codes 1-4 (Table 11.2, R260). -/
inductive PlaneKind where
  | active | shadow | activeScales | shadowScales
  deriving DecidableEq, Repr

/-- Face culling of a ray, codes 0-2 (Table 12.7). -/
inductive Cull where
  | none | back | front
  deriving DecidableEq, Repr

/-- The memory extension word of Table 5.6 where SCOPE must be 0. -/
structure MemExt where
  hint : Hint
  nol2 : Bool
  off : BitVec 24
  deriving DecidableEq, Repr

/-- The H field: a hint of its own, or code 7 with an extension word (R112, R123). -/
inductive MemMod where
  | short (h : Hint) | ext (x : MemExt)
  deriving DecidableEq, Repr

/-- The extension word of STREL and LDACQ: Table 5.6 with its SCOPE. -/
structure ScopeMod where
  scope : Scope
  hint : Hint
  nol2 : Bool
  off : BitVec 24
  deriving DecidableEq, Repr

/-- The extension word of ATOM and RED (R124). -/
structure AtomMod where
  op : Aop
  ord : Ord
  scope : Scope
  hint : Hint
  off : BitVec 16
  deriving DecidableEq, Repr

/-- The extension word of WAITU (R125). -/
structure WaitMod where
  cmp : Cmp
  opnd : SReg
  tmo : SReg
  scope : Scope
  deriving DecidableEq, Repr

/-- The format of a B tile: BFMT and, for the grouped integer formats, GRP (Table 11.2). -/
structure BFmt where
  fmt : PFmt
  grp : Option GLen
  deriving DecidableEq, Repr

/-- The extension word of MMA and MMAG less Q (Table 11.2). -/
structure MmaMod where
  af : PFmt
  bf : BFmt
  acc : Acc
  rows : BitVec 7
  sat : Bool
  ovr : Bool
  deriving DecidableEq, Repr

/-- The extension word of MST and MLD with KIND 0 (Table 11.2). -/
structure TileMod where
  pf : PFmt
  acc : Acc
  rows : BitVec 7
  sat : Bool
  deriving DecidableEq, Repr

/-- The extension word of NEV (Table 11.11); FMASK 15 is `none`. -/
structure NevMod where
  q : QReg
  mem : Bool
  fmask : Option MReg
  nin : BitVec 7
  nout : BitVec 5
  trapen : Bool
  deriving DecidableEq, Repr

/-- The extension word of TRACE and TRACEOCC (Table 12.7). -/
structure TraceMod where
  hdr : SReg
  gen : SReg
  tmo : SReg
  cull : Cull
  deriving DecidableEq, Repr

/-- Where the data of an uncorrectable error lived (R415): a clean copy; a line in its home, or dirty and committed in a core;
a line of a store buffer; a word of a pen; a block of a commons window; a word of an array's stores; a register of some lanes. -/
inductive LostData where
  | clean
  | line (n : Nat)
  | dirty (core n : Nat)
  | buffered (wg n : Nat)
  | pen (wg word : Nat)
  | commons (ctx block : Nat)
  | array (core word : Nat)
  | reg (key n : Nat) (lanes : Mask)
  deriving DecidableEq, Repr

/-- Every row of the opcode table. The first 293 are instructions of Table 5.8, with `n` the NW bit where the
format has one that may be set (R122); the rest are the machine's own events, which have no encoding. -/
inductive Instr where
  | bra (off : BitVec 20)
  | brin (m : MReg) (off : BitVec 20)
  | brout (m : MReg) (off : BitVec 20)
  | bany (m : MReg) (off : BitVec 20)
  | ball (m : MReg) (off : BitVec 20)
  | call (m : Option MReg) (off : BitVec 20)
  | bsz (s : SReg) (off : BitVec 18)
  | bsnz (s : SReg) (off : BitVec 18)
  | jmpi (a : VSrc)
  | calli (a : VSrc)
  | ret
  | join (m : MReg)
  | leave (m : MReg)
  | waitm (m : MReg)
  | yield
  | nop
  | trap (code : BitVec 14)
  | brk
  | exit
  | win (k : BitVec 5)
  | winadd (k : BitVec 7)
  | rdcr (d : SReg) (cr : BitVec 7)
  | rdcrD (d : SReg) (cr : BitVec 7)
  | wrcr (a : USrc) (cr : BitVec 7)
  | rte
  | rdst (d : SReg) (a : USrc) (item : BitVec 7)
  | wrst (d a : USrc) (item : BitVec 7)
  | launch (d a : VReg)
  | gbar
  | sleept (a : USrc)
  | sleeptAbs (a : USrc)
  | wake
  | setmodeFpmode (a : USrc)
  | setmodeFpflags (a : USrc)
  | setmodeOobflags (a : USrc)
  | setmodeDegencount (a : USrc)
  | add (n : Bool) (d : VDst) (a b : VSrc)
  | sub (n : Bool) (d : VDst) (a b : VSrc)
  | mul (n : Bool) (d : VDst) (a b : VSrc)
  | mulhi (n : Bool) (d : VDst) (a b : VSrc)
  | mulhiu (n : Bool) (d : VDst) (a b : VSrc)
  | mad (n : Bool) (d : VDst) (a b : VSrc)
  | madw (n : Bool) (d : VDst) (a b : VSrc)
  | add64 (n : Bool) (d : VDst) (a b : VSrc)
  | sub64 (n : Bool) (d : VDst) (a b : VSrc)
  | mul64 (n : Bool) (d : VDst) (a b : VSrc)
  | min (n : Bool) (d : VDst) (a b : VSrc)
  | max (n : Bool) (d : VDst) (a b : VSrc)
  | minu (n : Bool) (d : VDst) (a b : VSrc)
  | maxu (n : Bool) (d : VDst) (a b : VSrc)
  | absd (n : Bool) (d : VDst) (a b : VSrc)
  | csel (n : Bool) (d : VDst) (a b : VSrc)
  | and (n : Bool) (d : VDst) (a b : VSrc)
  | or (n : Bool) (d : VDst) (a b : VSrc)
  | xor (n : Bool) (d : VDst) (a b : VSrc)
  | andn (n : Bool) (d : VDst) (a b : VSrc)
  | shl (n : Bool) (d : VDst) (a b : VSrc)
  | srl (n : Bool) (d : VDst) (a b : VSrc)
  | sra (n : Bool) (d : VDst) (a b : VSrc)
  | rot (n : Bool) (d : VDst) (a b : VSrc)
  | shl64 (n : Bool) (d : VDst) (a b : VSrc)
  | srl64 (n : Bool) (d : VDst) (a b : VSrc)
  | sra64 (n : Bool) (d : VDst) (a b : VSrc)
  | bfe (n : Bool) (d : VDst) (a b : VSrc)
  | bfeu (n : Bool) (d : VDst) (a b : VSrc)
  | bfi (n : Bool) (d : VDst) (a b : VSrc)
  | popc (n : Bool) (d : VDst) (a : VSrc)
  | clz (n : Bool) (d : VDst) (a : VSrc)
  | brev (n : Bool) (d : VDst) (a : VSrc)
  | divs (d : VDst) (a b : VSrc)
  | divu (d : VDst) (a b : VSrc)
  | rems (d : VDst) (a b : VSrc)
  | remu (d : VDst) (a b : VSrc)
  | addsat (n : Bool) (d : VDst) (a b : VSrc)
  | subsat (n : Bool) (d : VDst) (a b : VSrc)
  | bmix (n : Bool) (d : VDst) (a b : VSrc)
  | icmpEq (n : Bool) (d : VDst) (a b : VSrc)
  | icmpNe (n : Bool) (d : VDst) (a b : VSrc)
  | icmpLt (n : Bool) (d : VDst) (a b : VSrc)
  | icmpLe (n : Bool) (d : VDst) (a b : VSrc)
  | icmpLtu (n : Bool) (d : VDst) (a b : VSrc)
  | icmpLeu (n : Bool) (d : VDst) (a b : VSrc)
  | icmpmEq (d : MReg) (a b : VSrc)
  | icmpmNe (d : MReg) (a b : VSrc)
  | icmpmLt (d : MReg) (a b : VSrc)
  | icmpmLe (d : MReg) (a b : VSrc)
  | icmpmLtu (d : MReg) (a b : VSrc)
  | icmpmLeu (d : MReg) (a b : VSrc)
  | min64 (n : Bool) (d : VDst) (a b : VSrc)
  | max64 (n : Bool) (d : VDst) (a b : VSrc)
  | minu64 (n : Bool) (d : VDst) (a b : VSrc)
  | maxu64 (n : Bool) (d : VDst) (a b : VSrc)
  | addi (d : VDst) (a : VSrc) (k : BitVec 11)
  | andi (d : VDst) (a : VSrc) (k : BitVec 11)
  | ori (d : VDst) (a : VSrc) (k : BitVec 11)
  | xori (d : VDst) (a : VSrc) (k : BitVec 11)
  | shli (d : VDst) (a : VSrc) (k : BitVec 5)
  | srli (d : VDst) (a : VSrc) (k : BitVec 5)
  | srai (d : VDst) (a : VSrc) (k : BitVec 5)
  | muli (d : VDst) (a : VSrc) (k : BitVec 11)
  | fadd (n : Bool) (d : VDst) (a b : VSrc)
  | fsub (n : Bool) (d : VDst) (a b : VSrc)
  | fmul (n : Bool) (d : VDst) (a b : VSrc)
  | ffma (n : Bool) (d : VDst) (a b : VSrc)
  | ffms (n : Bool) (d : VDst) (a b : VSrc)
  | fnma (n : Bool) (d : VDst) (a b : VSrc)
  | fmin (n : Bool) (d : VDst) (a b : VSrc)
  | fmax (n : Bool) (d : VDst) (a b : VSrc)
  | fcmpEq (n : Bool) (d : VDst) (a b : VSrc)
  | fcmpNe (n : Bool) (d : VDst) (a b : VSrc)
  | fcmpLt (n : Bool) (d : VDst) (a b : VSrc)
  | fcmpLe (n : Bool) (d : VDst) (a b : VSrc)
  | fcmpUn (n : Bool) (d : VDst) (a b : VSrc)
  | fcmpOd (n : Bool) (d : VDst) (a b : VSrc)
  | fcmpmEq (d : MReg) (a b : VSrc)
  | fcmpmNe (d : MReg) (a b : VSrc)
  | fcmpmLt (d : MReg) (a b : VSrc)
  | fcmpmLe (d : MReg) (a b : VSrc)
  | fcmpmUn (d : MReg) (a b : VSrc)
  | fcmpmOd (d : MReg) (a b : VSrc)
  | hadd2 (n : Bool) (d : VDst) (a b : VSrc)
  | hmul2 (n : Bool) (d : VDst) (a b : VSrc)
  | hfma2 (n : Bool) (d : VDst) (a b : VSrc)
  | hmin2 (n : Bool) (d : VDst) (a b : VSrc)
  | hmax2 (n : Bool) (d : VDst) (a b : VSrc)
  | badd2 (n : Bool) (d : VDst) (a b : VSrc)
  | bmul2 (n : Bool) (d : VDst) (a b : VSrc)
  | bfma2 (n : Bool) (d : VDst) (a b : VSrc)
  | fdot2h (n : Bool) (d : VDst) (a b : VSrc)
  | fdot4q8 (n : Bool) (d : VDst) (a b : VSrc)
  | fcopysign (n : Bool) (d : VDst) (a b : VSrc)
  | fldexp (n : Bool) (d : VDst) (a b : VSrc)
  | fdiv (d : VDst) (a b : VSrc)
  | frcp (n : Bool) (d : VDst) (a : VSrc)
  | frsq (n : Bool) (d : VDst) (a : VSrc)
  | fsqrt (n : Bool) (d : VDst) (a : VSrc)
  | fexp2 (n : Bool) (d : VDst) (a : VSrc)
  | flog2 (n : Bool) (d : VDst) (a : VSrc)
  | fsinp (n : Bool) (d : VDst) (a : VSrc)
  | fcosp (n : Bool) (d : VDst) (a : VSrc)
  | ffloor (n : Bool) (d : VDst) (a : VSrc)
  | fceil (n : Bool) (d : VDst) (a : VSrc)
  | ftrunc (n : Bool) (d : VDst) (a : VSrc)
  | frint (n : Bool) (d : VDst) (a : VSrc)
  | ffract (n : Bool) (d : VDst) (a : VSrc)
  | fclass (n : Bool) (d : VDst) (a : VSrc)
  | cvtF32S32 (n : Bool) (d : VDst) (a : VSrc)
  | cvtF32U32 (n : Bool) (d : VDst) (a : VSrc)
  | cvtS32F32 (n : Bool) (d : VDst) (a : VSrc)
  | cvtU32F32 (n : Bool) (d : VDst) (a : VSrc)
  | packh (n : Bool) (d : VDst) (a b : VSrc)
  | cvtF32HLo (n : Bool) (d : VDst) (a : VSrc)
  | cvtF32HHi (n : Bool) (d : VDst) (a : VSrc)
  | packb (n : Bool) (d : VDst) (a b : VSrc)
  | cvtF32BLo (n : Bool) (d : VDst) (a : VSrc)
  | cvtF32BHi (n : Bool) (d : VDst) (a : VSrc)
  | pk8E4 (n : Bool) (d : VDst) (a b : VSrc)
  | pk8E5 (n : Bool) (d : VDst) (a b : VSrc)
  | unpk8E4 (n : Bool) (d : VDst) (a b : VSrc)
  | unpk8E5 (n : Bool) (d : VDst) (a b : VSrc)
  | shfl (n : Bool) (d : VDst) (a b : VSrc)
  | shflup (n : Bool) (d : VDst) (a b : VSrc)
  | shfldn (n : Bool) (d : VDst) (a b : VSrc)
  | shflx (n : Bool) (d : VDst) (a b : VSrc)
  | ballot (d : UDst) (a : VSrc)
  | vany (n : Bool) (d : VDst) (a : VSrc)
  | vall (n : Bool) (d : VDst) (a : VSrc)
  | matchEq (n : Bool) (d : VDst) (a : VSrc)
  | elect (n : Bool) (d : VDst)
  | elects (n : Bool) (d : VDst)
  | redadd (n : Bool) (d : VDst) (a : VSrc)
  | redmin (n : Bool) (d : VDst) (a : VSrc)
  | redmax (n : Bool) (d : VDst) (a : VSrc)
  | redand (n : Bool) (d : VDst) (a : VSrc)
  | redor (n : Bool) (d : VDst) (a : VSrc)
  | redxor (n : Bool) (d : VDst) (a : VSrc)
  | mand (d : MReg) (a b : MSrc)
  | mor (d : MReg) (a b : MSrc)
  | mxor (d : MReg) (a b : MSrc)
  | mandn (d : MReg) (a b : MSrc)
  | mact (d : MReg)
  | mclr (d : MReg)
  | mpop (d : UDst) (a : MSrc)
  | mfromv (d : MReg) (a : VSrc)
  | mtov (n : Bool) (d : VDst) (a : MSrc)
  | mtos (d : UDst) (a : MSrc)
  | mfroms (d : MReg) (a : USrc)
  | prefixadd (n : Bool) (d : VDst) (a : VSrc)
  | sadd (d : UDst) (a b : USrc)
  | ssub (d : UDst) (a b : USrc)
  | smul (d : UDst) (a b : USrc)
  | smad (d : UDst) (a b : USrc)
  | sand (d : UDst) (a b : USrc)
  | sor (d : UDst) (a b : USrc)
  | sxor (d : UDst) (a b : USrc)
  | sshl (d : UDst) (a b : USrc)
  | sshr (d : UDst) (a b : USrc)
  | ssra (d : UDst) (a b : USrc)
  | smin (d : UDst) (a b : USrc)
  | smax (d : UDst) (a b : USrc)
  | sminu (d : UDst) (a b : USrc)
  | smaxu (d : UDst) (a b : USrc)
  | sadd64 (d : UDst) (a b : USrc)
  | scmpEq (d : UDst) (a b : USrc)
  | scmpNe (d : UDst) (a b : USrc)
  | scmpLt (d : UDst) (a b : USrc)
  | scmpLe (d : UDst) (a b : USrc)
  | scmpLtu (d : UDst) (a b : USrc)
  | scmpLeu (d : UDst) (a b : USrc)
  | sbcast (d : VDst) (a : USrc)
  | srdlane (d : UDst) (a : VReg) (b : USrc)
  | swrlane (d : VDst) (a b : USrc)
  | sdivu (d : UDst) (a b : USrc)
  | sremu (d : UDst) (a b : USrc)
  | ssel (d : UDst) (a b : USrc)
  | sfadd (d : UDst) (a b : USrc)
  | sfmul (d : UDst) (a b : USrc)
  | sffma (d : UDst) (a b : USrc)
  | scvtf (d : UDst) (a : USrc)
  | scvti (d : UDst) (a : USrc)
  | ld (q : QReg) (w : Width) (x : MemMod) (d : VDst) (a : VSrc)
  | st (q : QReg) (w : Width) (x : MemMod) (d a : VSrc)
  | ldro (q : QReg) (w : Width) (x : MemMod) (d : VDst) (a : VSrc)
  | ldf (q : QReg) (x : MemMod) (d : VDst) (a : VSrc)
  | pref (q : QReg) (w : Width) (x : MemMod) (a : VSrc)
  | ldl (w : Width) (x : MemMod) (d : VDst) (a : VSrc)
  | stl (w : Width) (x : MemMod) (d a : VSrc)
  | ldu (q : QReg) (w : Width) (x : MemMod) (d : SReg) (a : USrc)
  | recset (q : QReg) (a : SReg)
  | recget (q : QReg) (d : SReg)
  | recld (q : QReg) (a : SReg)
  | sample (q : QReg) (t : Texel) (x : MemMod) (d a : VReg)
  | cacheWb (q : QReg) (w : Width) (a : VSrc)
  | cacheInv (q : QReg) (w : Width) (a : VSrc)
  | ldp (w : Width) (d : VDst) (a : VSrc) (off : BitVec 7)
  | stp (w : Width) (d a : VSrc) (off : BitVec 7)
  | ldpd (w : Width) (d : VDst) (a : VSrc) (off : BitVec 7)
  | stpd (w : Width) (d a : VSrc) (off : BitVec 7)
  | ldc (w : Width) (d : VDst) (a : VSrc) (off : BitVec 7)
  | stc (w : Width) (d a : VSrc) (off : BitVec 7)
  | atomp (op : Aop) (d : VReg) (a : VSrc) (off : BitVec 7) (spare : BitVec 6)
  | atom (q : QReg) (x : AtomMod) (d : VReg) (a : VSrc)
  | red (q : QReg) (x : AtomMod) (d a : VSrc)
  | fenceAcq (scope : Scope)
  | fenceRel (scope : Scope)
  | fenceAr (scope : Scope)
  | fenceSc (scope : Scope)
  | fencero (scope : Scope)
  | waitu (q : QReg) (wide : Bool) (d : SReg) (a : USrc) (x : WaitMod)
  | strel (q : QReg) (w : Width) (x : ScopeMod) (d a : VSrc)
  | ldacq (q : QReg) (w : Width) (x : ScopeMod) (d : VDst) (a : VSrc)
  | kick (d : UDst) (a b : USrc)
  | advance (d : UDst)
  | finit (k : Fold) (a : USrc)
  | farrive (d : UDst) (k : Fold)
  | farriveRank (k : Fold) (b : USrc)
  | fwait (d : UDst) (k : Fold) (b : USrc)
  | ftest (d : UDst) (k : Fold) (b : USrc)
  | fexpect (k : Fold) (a b : USrc)
  | waitc (c : Fin 3) (b : USrc)
  | rdcnt (d : UDst) (c : Fin 4)
  | copy (d : UDst) (a : SReg)
  | mshape (a : USrc)
  | mlds (a b : USrc) (f : BFmt)
  | mldsg (a b : USrc) (f : BFmt) (q : QReg)
  | mscale (a : USrc) (int4 : Bool) (g : GLen)
  | mswap
  | mma (t : Slot) (a b : USrc) (x : MmaMod)
  | mmag (t : Slot) (a b : USrc) (x : MmaMod) (q : QReg)
  | mzero (t : Slot) (acc : Acc)
  | mst (t : Slot) (a b : USrc) (x : TileMod)
  | mld (t : Slot) (a b : USrc) (x : TileMod)
  | mstPlane (a : USrc) (k : PlaneKind)
  | mldPlane (a : USrc) (k : PlaneKind)
  | mstat (d : UDst) (clear : Bool)
  | mrel
  | nev (d : VReg) (a b : VSrc) (x : NevMod)
  | netldFetch (a : USrc)
  | netldDrop (a : USrc)
  | emitc (d : UDst) (a : USrc) (b : SReg)
  | raster (d : UDst) (a : SReg)
  | present (d : UDst) (a : SReg)
  | trace (d a : VReg) (x : TraceMod)
  | traceocc (d a : VReg) (x : TraceMod)
  | build (d : UDst) (a : SReg)
  | refit (d : UDst) (a : SReg)
  | cairnw (d : UDst) (a : SReg) (b : USrc)
  | genpin (d : UDst) (a : SReg) (b : USrc)
  | gendrop (d : UDst) (a : SReg) (b : USrc)
  | refill (d : VReg) (a : Option MReg) (b : SReg) (outm : Option MReg)
  | pixpush (d : VDst) (a : VSrc) (b : SReg)
  | nodedec (d a b : VReg)
  | morton (d a : VReg) (b : SReg)
  | pathStarvation (key : Nat)
  | readyWaveStarvation (key : Nat)
  | laneBurstCount (key : Nat) (lanes : Mask)
  | loadReturn (key id : Nat)
  | divideResult (key id : Nat)
  | fdivResult (key id : Nat)
  | launchStatus (key id : Nat)
  | committedStorePerform (core line : Nat)
  | paddockAccessPerform (core id : Nat)
  | sideLogReplay (core index : Nat)
  | tetherArm (id : Nat)
  | tetherWake (index : Nat)
  | tetherTimeout (id : Nat)
  | tetherArmRetry (id : Nat)
  | sleeptDeadline (key : Nat)
  | copyRowComplete (core id : Nat)
  | copyRequestFail (core id : Nat)
  | remoteArrivalApply (index : Nat)
  | fwaitWake (key : Nat)
  | arrayFillComplete (core id : Nat)
  | mmaRowComplete (core id : Nat)
  | arrayOpComplete (core id : Nat)
  | arraySerialOpStart (core id : Nat)
  | bandWake (core band : Nat)
  | bandIdleOff (core band : Nat)
  | flockTileClose (core tile : Nat)
  | flockTileComplete (core tile : Nat)
  | nevHandleComplete (key id : Nat)
  | cairnPark (ray : Nat)
  | cairnResume (ray : Nat)
  | cairnTimeout (ray : Nat)
  | rayEnd (ray : Nat)
  | buildStart (job : Nat)
  | buildSlotTake (job : Nat)
  | cairnRaise (job cell : Nat)
  | treeLink (job : Nat)
  | buildFail (job status : Nat)
  | compactorReclaim (ctx hdr slot : Nat)
  | compactorFree (ctx hdr slot : Nat)
  | rasterStart (job : Nat)
  | rasterSmallqResume (job : Nat)
  | rasterTileFlush (job tile : Nat)
  | rasterTileFinish (job tile : Nat)
  | rasterDone (job : Nat)
  | presentImageRead (stream : Nat)
  | collieDecision (stream : Nat)
  | streamSlotSend (stream : Nat)
  | hostQueueTake (queue : Nat)
  | childLaunchTake (ctx : Nat)
  | waitEventMet (grid : Nat)
  | drovePlace (grid : Nat) (cores : List Nat)
  | penClaimComplete (core : Nat)
  | claimTimeout (core : Nat)
  | backfillStop (grid cluster : Nat)
  | timedStart (drove : Nat)
  | timesliceExpire (grid : Nat)
  | debugPreempt (drove : Nat)
  | thermalMigrate (drove : Nat) (cores : List Nat)
  | trapEntry (key : Nat)
  | savedTetherWake (index : Nat)
  | savedWaveDeadline (wg index : Nat)
  | droveRestore (drove : Nat) (cores : List Nat)
  | waveEnd (key : Nat)
  | gridRetire (grid : Nat)
  | contextEnable (ctx : Nat)
  | contextKill (ctx : Nat)
  | schedulerBlockRead
  | policyBlockRead
  | powerBlockRead
  | fabricBlockRead
  | pagerTableRead (ctx : Nat)
  | inval
  | invalComplete (index : Nat)
  | migrate
  | dup
  | undup
  | hotcfg
  | frames
  | brand
  | attest
  | upcall (ctx va kind : Nat)
  | pagerWaitTimeout (ctx index : Nat)
  | pagerMap (ctx index : Nat)
  | pagerRefuse (ctx index : Nat)
  | hotIntervalEnd (die : Nat)
  | dupCollapseAck (entry site : Nat)
  | hostRdmaWrite (pa : Nat) (bytes : List Byte)
  | hostRdmaRead (pa n : Nat)
  | hostRdmaAtomic (pa : Nat) (op : Aop) (x y : Dword)
  | flitReceive (link seq tag : Nat) (crc : Bool) (response : Nat)
  | linkRetrainDone (link : Nat) (good : Bool)
  | eccCorrected (unit loc syndrome : Nat)
  | uncorrectableError (unit loc : Nat) (data : LostData)
  | selftestStart (unit loc : Nat)
  | selftestResult (unit loc : Nat) (pass : Bool)
  | hirselMessageReceive (peer seq from_ brand kind va : Nat) (bytes : List Byte)
  | hirselAck (id : Nat) (bytes : List Byte)
  | hirselRetransmit (id : Nat)
  | fabricTimeout (id : Nat)
  | ptpMessage (offset : Int)
  | announceTimeout
  | budgetMessage (member demand freq : Nat)
  | budgetEpoch
  | powerLimitStretch (site : Nat)
  | currentLimitStretch (site : Nat)
  | droopStretch (site : Nat)
  | thermalTrip (site : Nat)
  | thermalTripEnd (site : Nat)
  | firmwareFreeze
  | watchdogFloor
  | firmwareSignal (slot : Nat)
  | firmwareSlotTakeover
  | firmwareVerify (slot version : Nat) (image : List Byte)
  | functionReady (fn : Nat)
  | hostWriteAck (index : Nat)
  | portDown (port : Nat)
  | portUp (port : Nat)
  | portmodeDrainDone
  | clockStretchEnd (site : Nat)
  | bandWakeRateWaitEnd (core band : Nat)
  deriving DecidableEq, Repr

end Sys2Proof
end

