-- ==== Sys2Proof/Config.lean ====
section
/-! DEFINITION. Config.lean: what the manual leaves to the part or leaves open. Each value it leaves open is an opaque
constant here, so that nothing can be proved of it; the assumption log names each. -/

namespace Sys2Proof.Config

/-- A byte of a pen that its workgroup has not written (R32): workgroup, offset (log entry 10). -/
opaque penByte : Nat → Nat → Byte
/-- A byte of a lane store that its lane has not written (R32): workgroup, lane in the workgroup, offset (log entry 10). -/
opaque laneByte : Nat → Nat → Nat → Byte
/-- A return-stack entry beyond a lane's depth, and a spilled entry never pushed (R366): workgroup, lane, entry
(log entry 10). -/
opaque stackEntry : Nat → Nat → Nat → Dword
/-- A register, mask or record of a wave that starts a restore (R371): workgroup, wave, lane, number (log entry 10). -/
opaque restored : Nat → Nat → Nat → Nat → Word
/-- Whether a core still holds a cached translation at a clk (R379): CYCLE, context, page (log entry 11). -/
opaque tlbKept : Nat → Nat → Nat → Bool
/-- Whether the path cache still holds a line at a clk (R52): CYCLE, core, line (log entry 11). -/
opaque pathKept : Nat → Nat → Nat → Bool
/-- The clk until which a core may keep its copy of a line that a store of another core has just changed (R85): CYCLE,
core, line (log entry 26). -/
opaque copyUntil : Nat → Nat → Nat → Nat
/-- Whether the lines of a pen way being claimed that hold uncommitted stores find room in the ways left to L1 (R43): CYCLE,
core (log entry 36). -/
opaque claimRoom : Nat → Nat → Bool
/-- The bits that stand in a grouped INT4 plane for an out-of-bounds element whose group's zero point no INT4 can be (R253): the
scale entry (log entry 53). -/
opaque zeroBits : Nat → Nat
/-- The approximated functions before their bounds are applied (R186): FRCP, FRSQ, FEXP2, FLOG2, FSINP, FCOSP in order,
each a function of the operand alone (log entry 12). -/
opaque approx : Nat → Word → Word
/-- Whether an XMSS signature of an image verifies (R444): image bytes (log entry 13). -/
opaque verifies : List Byte → Bool
/-- SHAKE256 with 32 bytes of output (R445, R446; log entry 13). -/
opaque shake256 : List Byte → List Byte
/-- The device's XMSS signature at a one-time index (R446): index, message (log entry 13). -/
opaque sign : Nat → List Byte → List Byte
/-- The pod device whose path-table entry carries the accesses to a brand (R422; log entry 15). -/
opaque brandDevice : Nat → Nat
/-- A value that an instruction or event leaves open: which, and the number of the use (log entry 14). -/
opaque freeWord : Nat → Nat → Word

end Sys2Proof.Config
end

