-- ==== Sys2Proof/WellFormed.lean ====
section
/-! DEFINITION. WellFormed.lean: the conditions an encoding must meet beyond its field codes, decided from the
instruction words alone; a word that fails one raises ILLEGAL (R129). -/

namespace Sys2Proof

/-- An even number: the low half of a register pair (R59, R117). -/
def even (n : Nat) : Bool := n % 2 == 0

/-- A 64-bit vector source (R117): an even register, or one of s0, s2, s4 and s6. -/
def VSrc.pair : VSrc → Bool
  | .reg n => even n.val
  | .sreg k => even k.val
  | .latch _ | .zero | .lane | .lit _ => true

/-- A 64-bit vector destination (R117). -/
def VDst.pair : VDst → Bool
  | .reg n => even n.val
  | .discard => true

/-- A 64-bit uniform source (R174). -/
def USrc.pair : USrc → Bool
  | .reg n => even n.val
  | .zero | .lit _ => true

/-- A 64-bit uniform destination (R174). -/
def UDst.pair : UDst → Bool
  | .reg n => even n.val
  | .discard => true

/-- The target operand of JMPI and CALLI: a 64-bit operand other than codes 124 to 127 (R142). -/
def VSrc.jump : VSrc → Bool
  | .reg n => even n.val
  | .sreg k => even k.val
  | .latch _ => true
  | .zero | .lane | .lit _ => false

/-- Operand A of a shuffle: codes 0-111, 124 and 125 (R192). -/
def VSrc.shuffled : VSrc → Bool
  | .reg _ | .zero | .lane => true
  | .latch _ | .sreg _ | .lit _ => false

/-- A register code 0-111. -/
def VSrc.isReg : VSrc → Bool
  | .reg _ => true
  | .latch _ | .sreg _ | .zero | .lane | .lit _ => false

/-- Widths a store accepts: codes 0-4 (R112). -/
def Width.stored : Width → Bool
  | .w1 | .w2 | .w4 | .w8 | .w16 => true
  | .u1 | .u2 => false

/-- A load destination of a width: an even register for 8 bytes, a multiple of 4 for 16 (R198, R199). -/
def VDst.fits (w : Width) : VDst → Bool
  | .discard => true
  | .reg n => match w with
    | .w8 => even n.val
    | .w16 => n.val % 4 == 0
    | .w1 | .w2 | .w4 | .u1 | .u2 => true

/-- A store's data of a width (R198, R199): for 16 bytes a register group or zero. -/
def VSrc.fits (w : Width) (a : VSrc) : Bool :=
  match w with
  | .w8 => a.pair
  | .w16 => match a with
    | .reg n => n.val % 4 == 0
    | .zero => true
    | .latch _ | .sreg _ | .lane | .lit _ => false
  | .w1 | .w2 | .w4 | .u1 | .u2 => true

/-- The s registers LDU writes (R208). -/
def fitsS (w : Width) (d : Nat) : Bool :=
  match w with
  | .w8 => even d
  | .w16 => d % 4 == 0
  | .w1 | .w2 | .w4 | .u1 | .u2 => true

/-- Atomic operations on 8 bytes: AOP 10 to 14 (Table 9.2). -/
def Aop.wide : Aop → Bool
  | .add64 | .min64 | .maxu64 | .minu64 | .cas64 => true
  | .add | .min | .max | .minu | .maxu | .and | .or | .xor | .xchg | .cas | .fadd => false

/-- The register group D of ATOM and ATOMP (R213). -/
def Aop.groupOk (op : Aop) (d : Nat) : Bool :=
  match op with
  | .add | .min | .max | .minu | .maxu | .and | .or | .xor | .xchg | .fadd => true
  | .cas | .add64 | .min64 | .maxu64 | .minu64 => even d
  | .cas64 => d % 4 == 0

/-- What RED accepts: no XCHG, CAS or CAS64, no acquire (R124). -/
def AtomMod.redOk (x : AtomMod) : Bool :=
  (match x.op with
   | .xchg | .cas | .cas64 => false
   | .add | .min | .max | .minu | .maxu | .and | .or | .xor
   | .add64 | .min64 | .maxu64 | .minu64 | .fadd => true) &&
  (match x.ord with
   | .rlx | .rel => true
   | .acq | .ar => false)

/-- A B format: codes 2-7, with a group length exactly for the integer formats (Table 11.3). -/
def BFmt.wf (f : BFmt) : Bool :=
  match f.fmt with
  | .f16 | .bf16 | .e4m3 | .e5m2 => f.grp.isNone
  | .int8 | .int4 => f.grp.isSome
  | .raw | .f32 => false

/-- The rows of Table 11.5 that pair an A format with a B format. -/
def pairOk (a b : PFmt) : Bool :=
  match a with
  | .f16 | .bf16 => b == .f16 || b == .bf16
  | .e4m3 | .e5m2 | .int8 => b == .e4m3 || b == .e5m2 || b == .int8
  | .int4 => b == .int4
  | .raw | .f32 => false

/-- ROWS from 1 to 64 (Table 11.2). -/
def rowsOk (r : BitVec 7) : Bool := decide (1 ≤ r.toNat) && decide (r.toNat ≤ 64)

/-- An FP32 tile is named by its even slot (R246). -/
def tileOk (acc : Acc) (t : Nat) : Bool :=
  match acc with
  | .f32 => even t
  | .f16 | .bf16 => true

/-- MMA and MMAG (Table 11.3). -/
def MmaMod.wf (x : MmaMod) : Bool := x.bf.wf && pairOk x.af x.bf.fmt && rowsOk x.rows

/-- MST and MLD of a tile: pen data in formats 1-5 (Table 11.3). -/
def TileMod.wf (x : TileMod) : Bool :=
  (match x.pf with
   | .f32 | .f16 | .bf16 | .e4m3 | .e5m2 => true
   | .raw | .int8 | .int4 => false) && rowsOk x.rows

/-- NEV: IN 1-64 and OUT 1-16 (R269). -/
def NevMod.wf (x : NevMod) : Bool :=
  decide (1 ≤ x.nin.toNat) && decide (x.nin.toNat ≤ 64) &&
  decide (1 ≤ x.nout.toNat) && decide (x.nout.toNat ≤ 16)

/-- The literal of a vector source. -/
def VSrc.lits : VSrc → List Word
  | .lit x => [x]
  | .reg _ | .latch _ | .sreg _ | .zero | .lane => []

/-- The literal of a uniform source. -/
def USrc.lits : USrc → List Word
  | .lit x => [x]
  | .reg _ | .zero => []

/-- The literals an instruction names (R118). An event of the machine names none. -/
def Instr.lits : Instr → List Word
  | .bra _ => []
  | .brin _ _ => []
  | .brout _ _ => []
  | .bany _ _ => []
  | .ball _ _ => []
  | .call _ _ => []
  | .bsz _ _ => []
  | .bsnz _ _ => []
  | .jmpi a => a.lits
  | .calli a => a.lits
  | .ret => []
  | .join _ => []
  | .leave _ => []
  | .waitm _ => []
  | .yield => []
  | .nop => []
  | .trap _ => []
  | .brk => []
  | .exit => []
  | .win _ => []
  | .winadd _ => []
  | .rdcr _ _ => []
  | .rdcrD _ _ => []
  | .wrcr a _ => a.lits
  | .rte => []
  | .rdst _ a _ => a.lits
  | .wrst d a _ => d.lits ++ a.lits
  | .launch _ _ => []
  | .gbar => []
  | .sleept a => a.lits
  | .sleeptAbs a => a.lits
  | .wake => []
  | .setmodeFpmode a => a.lits
  | .setmodeFpflags a => a.lits
  | .setmodeOobflags a => a.lits
  | .setmodeDegencount a => a.lits
  | .add _ _ a b => a.lits ++ b.lits
  | .sub _ _ a b => a.lits ++ b.lits
  | .mul _ _ a b => a.lits ++ b.lits
  | .mulhi _ _ a b => a.lits ++ b.lits
  | .mulhiu _ _ a b => a.lits ++ b.lits
  | .mad _ _ a b => a.lits ++ b.lits
  | .madw _ _ a b => a.lits ++ b.lits
  | .add64 _ _ a b => a.lits ++ b.lits
  | .sub64 _ _ a b => a.lits ++ b.lits
  | .mul64 _ _ a b => a.lits ++ b.lits
  | .min _ _ a b => a.lits ++ b.lits
  | .max _ _ a b => a.lits ++ b.lits
  | .minu _ _ a b => a.lits ++ b.lits
  | .maxu _ _ a b => a.lits ++ b.lits
  | .absd _ _ a b => a.lits ++ b.lits
  | .csel _ _ a b => a.lits ++ b.lits
  | .and _ _ a b => a.lits ++ b.lits
  | .or _ _ a b => a.lits ++ b.lits
  | .xor _ _ a b => a.lits ++ b.lits
  | .andn _ _ a b => a.lits ++ b.lits
  | .shl _ _ a b => a.lits ++ b.lits
  | .srl _ _ a b => a.lits ++ b.lits
  | .sra _ _ a b => a.lits ++ b.lits
  | .rot _ _ a b => a.lits ++ b.lits
  | .shl64 _ _ a b => a.lits ++ b.lits
  | .srl64 _ _ a b => a.lits ++ b.lits
  | .sra64 _ _ a b => a.lits ++ b.lits
  | .bfe _ _ a b => a.lits ++ b.lits
  | .bfeu _ _ a b => a.lits ++ b.lits
  | .bfi _ _ a b => a.lits ++ b.lits
  | .popc _ _ a => a.lits
  | .clz _ _ a => a.lits
  | .brev _ _ a => a.lits
  | .divs _ a b => a.lits ++ b.lits
  | .divu _ a b => a.lits ++ b.lits
  | .rems _ a b => a.lits ++ b.lits
  | .remu _ a b => a.lits ++ b.lits
  | .addsat _ _ a b => a.lits ++ b.lits
  | .subsat _ _ a b => a.lits ++ b.lits
  | .bmix _ _ a b => a.lits ++ b.lits
  | .icmpEq _ _ a b => a.lits ++ b.lits
  | .icmpNe _ _ a b => a.lits ++ b.lits
  | .icmpLt _ _ a b => a.lits ++ b.lits
  | .icmpLe _ _ a b => a.lits ++ b.lits
  | .icmpLtu _ _ a b => a.lits ++ b.lits
  | .icmpLeu _ _ a b => a.lits ++ b.lits
  | .icmpmEq _ a b => a.lits ++ b.lits
  | .icmpmNe _ a b => a.lits ++ b.lits
  | .icmpmLt _ a b => a.lits ++ b.lits
  | .icmpmLe _ a b => a.lits ++ b.lits
  | .icmpmLtu _ a b => a.lits ++ b.lits
  | .icmpmLeu _ a b => a.lits ++ b.lits
  | .min64 _ _ a b => a.lits ++ b.lits
  | .max64 _ _ a b => a.lits ++ b.lits
  | .minu64 _ _ a b => a.lits ++ b.lits
  | .maxu64 _ _ a b => a.lits ++ b.lits
  | .addi _ a _ => a.lits
  | .andi _ a _ => a.lits
  | .ori _ a _ => a.lits
  | .xori _ a _ => a.lits
  | .shli _ a _ => a.lits
  | .srli _ a _ => a.lits
  | .srai _ a _ => a.lits
  | .muli _ a _ => a.lits
  | .fadd _ _ a b => a.lits ++ b.lits
  | .fsub _ _ a b => a.lits ++ b.lits
  | .fmul _ _ a b => a.lits ++ b.lits
  | .ffma _ _ a b => a.lits ++ b.lits
  | .ffms _ _ a b => a.lits ++ b.lits
  | .fnma _ _ a b => a.lits ++ b.lits
  | .fmin _ _ a b => a.lits ++ b.lits
  | .fmax _ _ a b => a.lits ++ b.lits
  | .fcmpEq _ _ a b => a.lits ++ b.lits
  | .fcmpNe _ _ a b => a.lits ++ b.lits
  | .fcmpLt _ _ a b => a.lits ++ b.lits
  | .fcmpLe _ _ a b => a.lits ++ b.lits
  | .fcmpUn _ _ a b => a.lits ++ b.lits
  | .fcmpOd _ _ a b => a.lits ++ b.lits
  | .fcmpmEq _ a b => a.lits ++ b.lits
  | .fcmpmNe _ a b => a.lits ++ b.lits
  | .fcmpmLt _ a b => a.lits ++ b.lits
  | .fcmpmLe _ a b => a.lits ++ b.lits
  | .fcmpmUn _ a b => a.lits ++ b.lits
  | .fcmpmOd _ a b => a.lits ++ b.lits
  | .hadd2 _ _ a b => a.lits ++ b.lits
  | .hmul2 _ _ a b => a.lits ++ b.lits
  | .hfma2 _ _ a b => a.lits ++ b.lits
  | .hmin2 _ _ a b => a.lits ++ b.lits
  | .hmax2 _ _ a b => a.lits ++ b.lits
  | .badd2 _ _ a b => a.lits ++ b.lits
  | .bmul2 _ _ a b => a.lits ++ b.lits
  | .bfma2 _ _ a b => a.lits ++ b.lits
  | .fdot2h _ _ a b => a.lits ++ b.lits
  | .fdot4q8 _ _ a b => a.lits ++ b.lits
  | .fcopysign _ _ a b => a.lits ++ b.lits
  | .fldexp _ _ a b => a.lits ++ b.lits
  | .fdiv _ a b => a.lits ++ b.lits
  | .frcp _ _ a => a.lits
  | .frsq _ _ a => a.lits
  | .fsqrt _ _ a => a.lits
  | .fexp2 _ _ a => a.lits
  | .flog2 _ _ a => a.lits
  | .fsinp _ _ a => a.lits
  | .fcosp _ _ a => a.lits
  | .ffloor _ _ a => a.lits
  | .fceil _ _ a => a.lits
  | .ftrunc _ _ a => a.lits
  | .frint _ _ a => a.lits
  | .ffract _ _ a => a.lits
  | .fclass _ _ a => a.lits
  | .cvtF32S32 _ _ a => a.lits
  | .cvtF32U32 _ _ a => a.lits
  | .cvtS32F32 _ _ a => a.lits
  | .cvtU32F32 _ _ a => a.lits
  | .packh _ _ a b => a.lits ++ b.lits
  | .cvtF32HLo _ _ a => a.lits
  | .cvtF32HHi _ _ a => a.lits
  | .packb _ _ a b => a.lits ++ b.lits
  | .cvtF32BLo _ _ a => a.lits
  | .cvtF32BHi _ _ a => a.lits
  | .pk8E4 _ _ a b => a.lits ++ b.lits
  | .pk8E5 _ _ a b => a.lits ++ b.lits
  | .unpk8E4 _ _ a b => a.lits ++ b.lits
  | .unpk8E5 _ _ a b => a.lits ++ b.lits
  | .shfl _ _ a b => a.lits ++ b.lits
  | .shflup _ _ a b => a.lits ++ b.lits
  | .shfldn _ _ a b => a.lits ++ b.lits
  | .shflx _ _ a b => a.lits ++ b.lits
  | .ballot _ a => a.lits
  | .vany _ _ a => a.lits
  | .vall _ _ a => a.lits
  | .matchEq _ _ a => a.lits
  | .elect _ _ => []
  | .elects _ _ => []
  | .redadd _ _ a => a.lits
  | .redmin _ _ a => a.lits
  | .redmax _ _ a => a.lits
  | .redand _ _ a => a.lits
  | .redor _ _ a => a.lits
  | .redxor _ _ a => a.lits
  | .mand _ _ _ => []
  | .mor _ _ _ => []
  | .mxor _ _ _ => []
  | .mandn _ _ _ => []
  | .mact _ => []
  | .mclr _ => []
  | .mpop _ _ => []
  | .mfromv _ a => a.lits
  | .mtov _ _ _ => []
  | .mtos _ _ => []
  | .mfroms _ a => a.lits
  | .prefixadd _ _ a => a.lits
  | .sadd _ a b => a.lits ++ b.lits
  | .ssub _ a b => a.lits ++ b.lits
  | .smul _ a b => a.lits ++ b.lits
  | .smad _ a b => a.lits ++ b.lits
  | .sand _ a b => a.lits ++ b.lits
  | .sor _ a b => a.lits ++ b.lits
  | .sxor _ a b => a.lits ++ b.lits
  | .sshl _ a b => a.lits ++ b.lits
  | .sshr _ a b => a.lits ++ b.lits
  | .ssra _ a b => a.lits ++ b.lits
  | .smin _ a b => a.lits ++ b.lits
  | .smax _ a b => a.lits ++ b.lits
  | .sminu _ a b => a.lits ++ b.lits
  | .smaxu _ a b => a.lits ++ b.lits
  | .sadd64 _ a b => a.lits ++ b.lits
  | .scmpEq _ a b => a.lits ++ b.lits
  | .scmpNe _ a b => a.lits ++ b.lits
  | .scmpLt _ a b => a.lits ++ b.lits
  | .scmpLe _ a b => a.lits ++ b.lits
  | .scmpLtu _ a b => a.lits ++ b.lits
  | .scmpLeu _ a b => a.lits ++ b.lits
  | .sbcast _ a => a.lits
  | .srdlane _ _ b => b.lits
  | .swrlane _ a b => a.lits ++ b.lits
  | .sdivu _ a b => a.lits ++ b.lits
  | .sremu _ a b => a.lits ++ b.lits
  | .ssel _ a b => a.lits ++ b.lits
  | .sfadd _ a b => a.lits ++ b.lits
  | .sfmul _ a b => a.lits ++ b.lits
  | .sffma _ a b => a.lits ++ b.lits
  | .scvtf _ a => a.lits
  | .scvti _ a => a.lits
  | .ld _ _ _ _ a => a.lits
  | .st _ _ _ d a => d.lits ++ a.lits
  | .ldro _ _ _ _ a => a.lits
  | .ldf _ _ _ a => a.lits
  | .pref _ _ _ a => a.lits
  | .ldl _ _ _ a => a.lits
  | .stl _ _ d a => d.lits ++ a.lits
  | .ldu _ _ _ _ a => a.lits
  | .recset _ _ => []
  | .recget _ _ => []
  | .recld _ _ => []
  | .sample _ _ _ _ _ => []
  | .cacheWb _ _ a => a.lits
  | .cacheInv _ _ a => a.lits
  | .ldp _ _ a _ => a.lits
  | .stp _ d a _ => d.lits ++ a.lits
  | .ldpd _ _ a _ => a.lits
  | .stpd _ d a _ => d.lits ++ a.lits
  | .ldc _ _ a _ => a.lits
  | .stc _ d a _ => d.lits ++ a.lits
  | .atomp _ _ a _ _ => a.lits
  | .atom _ _ _ a => a.lits
  | .red _ _ d a => d.lits ++ a.lits
  | .fenceAcq _ => []
  | .fenceRel _ => []
  | .fenceAr _ => []
  | .fenceSc _ => []
  | .fencero _ => []
  | .waitu _ _ _ a _ => a.lits
  | .strel _ _ _ d a => d.lits ++ a.lits
  | .ldacq _ _ _ _ a => a.lits
  | .kick _ a b => a.lits ++ b.lits
  | .advance _ => []
  | .finit _ a => a.lits
  | .farrive _ _ => []
  | .farriveRank _ b => b.lits
  | .fwait _ _ b => b.lits
  | .ftest _ _ b => b.lits
  | .fexpect _ a b => a.lits ++ b.lits
  | .waitc _ b => b.lits
  | .rdcnt _ _ => []
  | .copy _ _ => []
  | .mshape a => a.lits
  | .mlds a b _ => a.lits ++ b.lits
  | .mldsg a b _ _ => a.lits ++ b.lits
  | .mscale a _ _ => a.lits
  | .mswap => []
  | .mma _ a b _ => a.lits ++ b.lits
  | .mmag _ a b _ _ => a.lits ++ b.lits
  | .mzero _ _ => []
  | .mst _ a b _ => a.lits ++ b.lits
  | .mld _ a b _ => a.lits ++ b.lits
  | .mstPlane a _ => a.lits
  | .mldPlane a _ => a.lits
  | .mstat _ _ => []
  | .mrel => []
  | .nev _ a b _ => a.lits ++ b.lits
  | .netldFetch a => a.lits
  | .netldDrop a => a.lits
  | .emitc _ a _ => a.lits
  | .raster _ _ => []
  | .present _ _ => []
  | .trace _ _ _ => []
  | .traceocc _ _ _ => []
  | .build _ _ => []
  | .refit _ _ => []
  | .cairnw _ _ b => b.lits
  | .genpin _ _ b => b.lits
  | .gendrop _ _ b => b.lits
  | .refill _ _ _ _ => []
  | .pixpush _ a _ => a.lits
  | .nodedec _ _ _ => []
  | .morton _ _ _ => []
  | .pathStarvation _ => []
  | .readyWaveStarvation _ => []
  | .laneBurstCount _ _ => []
  | .loadReturn _ _ => []
  | .divideResult _ _ => []
  | .fdivResult _ _ => []
  | .launchStatus _ _ => []
  | .committedStorePerform _ _ => []
  | .paddockAccessPerform _ _ => []
  | .sideLogReplay _ _ => []
  | .tetherArm _ => []
  | .tetherWake _ => []
  | .tetherTimeout _ => []
  | .tetherArmRetry _ => []
  | .sleeptDeadline _ => []
  | .copyRowComplete _ _ => []
  | .copyRequestFail _ _ => []
  | .remoteArrivalApply _ => []
  | .fwaitWake _ => []
  | .arrayFillComplete _ _ => []
  | .mmaRowComplete _ _ => []
  | .arrayOpComplete _ _ => []
  | .arraySerialOpStart _ _ => []
  | .bandWake _ _ => []
  | .bandIdleOff _ _ => []
  | .flockTileClose _ _ => []
  | .flockTileComplete _ _ => []
  | .nevHandleComplete _ _ => []
  | .cairnPark _ => []
  | .cairnResume _ => []
  | .cairnTimeout _ => []
  | .rayEnd _ => []
  | .buildStart _ => []
  | .buildSlotTake _ => []
  | .cairnRaise _ _ => []
  | .treeLink _ => []
  | .buildFail _ _ => []
  | .compactorReclaim _ _ _ => []
  | .compactorFree _ _ _ => []
  | .rasterStart _ => []
  | .rasterSmallqResume _ => []
  | .rasterTileFlush _ _ => []
  | .rasterTileFinish _ _ => []
  | .rasterDone _ => []
  | .presentImageRead _ => []
  | .collieDecision _ => []
  | .streamSlotSend _ => []
  | .hostQueueTake _ => []
  | .childLaunchTake _ => []
  | .waitEventMet _ => []
  | .drovePlace _ _ => []
  | .penClaimComplete _ => []
  | .claimTimeout _ => []
  | .backfillStop _ _ => []
  | .timedStart _ => []
  | .timesliceExpire _ => []
  | .debugPreempt _ => []
  | .thermalMigrate _ _ => []
  | .trapEntry _ => []
  | .savedTetherWake _ => []
  | .savedWaveDeadline _ _ => []
  | .droveRestore _ _ => []
  | .waveEnd _ => []
  | .gridRetire _ => []
  | .contextEnable _ => []
  | .contextKill _ => []
  | .schedulerBlockRead => []
  | .policyBlockRead => []
  | .powerBlockRead => []
  | .fabricBlockRead => []
  | .pagerTableRead _ => []
  | .inval => []
  | .invalComplete _ => []
  | .migrate => []
  | .dup => []
  | .undup => []
  | .hotcfg => []
  | .frames => []
  | .brand => []
  | .attest => []
  | .upcall _ _ _ => []
  | .pagerWaitTimeout _ _ => []
  | .pagerMap _ _ => []
  | .pagerRefuse _ _ => []
  | .hotIntervalEnd _ => []
  | .dupCollapseAck _ _ => []
  | .hostRdmaWrite _ _ => []
  | .hostRdmaRead _ _ => []
  | .hostRdmaAtomic _ _ _ _ => []
  | .flitReceive _ _ _ _ _ => []
  | .linkRetrainDone _ _ => []
  | .eccCorrected _ _ _ => []
  | .uncorrectableError _ _ _ => []
  | .selftestStart _ _ => []
  | .selftestResult _ _ _ => []
  | .hirselMessageReceive _ _ _ _ _ _ _ => []
  | .hirselAck _ _ => []
  | .hirselRetransmit _ => []
  | .fabricTimeout _ => []
  | .ptpMessage _ => []
  | .announceTimeout => []
  | .budgetMessage _ _ _ => []
  | .budgetEpoch => []
  | .powerLimitStretch _ => []
  | .currentLimitStretch _ => []
  | .droopStretch _ => []
  | .thermalTrip _ => []
  | .thermalTripEnd _ => []
  | .firmwareFreeze => []
  | .watchdogFloor => []
  | .firmwareSignal _ => []
  | .firmwareSlotTakeover => []
  | .firmwareVerify _ _ _ => []
  | .functionReady _ => []
  | .hostWriteAck _ => []
  | .portDown _ => []
  | .portUp _ => []
  | .portmodeDrainDone => []
  | .clockStretchEnd _ => []
  | .bandWakeRateWaitEnd _ _ => []

/-- The conditions of each instruction beyond its operand codes (R129, R130). -/
def Instr.fieldsOk : Instr → Bool
  | .bra _ => true
  | .brin _ _ => true
  | .brout _ _ => true
  | .bany _ _ => true
  | .ball _ _ => true
  | .call _ _ => true
  | .bsz _ _ => true
  | .bsnz _ _ => true
  | .jmpi a => a.jump
  | .calli a => a.jump
  | .ret => true
  | .join _ => true
  | .leave _ => true
  | .waitm _ => true
  | .yield => true
  | .nop => true
  | .trap _ => true
  | .brk => true
  | .exit => true
  | .win _ => true
  | .winadd _ => true
  | .rdcr _ cr => (decide (cr.toNat < 16) || decide (64 ≤ cr.toNat))
  | .rdcrD d cr => (cr == 0#7 || cr == 2#7) && even d.val
  | .wrcr _ cr => decide (64 ≤ cr.toNat)
  | .rte => true
  | .rdst _ _ _ => true
  | .wrst _ _ _ => true
  | .launch d a => even d.val && even a.val
  | .gbar => true
  | .sleept _ => true
  | .sleeptAbs a => a.pair
  | .wake => true
  | .setmodeFpmode _ => true
  | .setmodeFpflags _ => true
  | .setmodeOobflags _ => true
  | .setmodeDegencount _ => true
  | .add _ _ _ _ => true
  | .sub _ _ _ _ => true
  | .mul _ _ _ _ => true
  | .mulhi _ _ _ _ => true
  | .mulhiu _ _ _ _ => true
  | .mad _ _ _ _ => true
  | .madw _ d _ _ => d.pair
  | .add64 _ d a b => d.pair && a.pair && b.pair
  | .sub64 _ d a b => d.pair && a.pair && b.pair
  | .mul64 _ d a b => d.pair && a.pair && b.pair
  | .min _ _ _ _ => true
  | .max _ _ _ _ => true
  | .minu _ _ _ _ => true
  | .maxu _ _ _ _ => true
  | .absd _ _ _ _ => true
  | .csel _ _ _ _ => true
  | .and _ _ _ _ => true
  | .or _ _ _ _ => true
  | .xor _ _ _ _ => true
  | .andn _ _ _ _ => true
  | .shl _ _ _ _ => true
  | .srl _ _ _ _ => true
  | .sra _ _ _ _ => true
  | .rot _ _ _ _ => true
  | .shl64 _ d a _ => d.pair && a.pair
  | .srl64 _ d a _ => d.pair && a.pair
  | .sra64 _ d a _ => d.pair && a.pair
  | .bfe _ _ _ _ => true
  | .bfeu _ _ _ _ => true
  | .bfi _ _ _ _ => true
  | .popc _ _ _ => true
  | .clz _ _ _ => true
  | .brev _ _ _ => true
  | .divs _ _ _ => true
  | .divu _ _ _ => true
  | .rems _ _ _ => true
  | .remu _ _ _ => true
  | .addsat _ _ _ _ => true
  | .subsat _ _ _ _ => true
  | .bmix _ _ _ _ => true
  | .icmpEq _ _ _ _ => true
  | .icmpNe _ _ _ _ => true
  | .icmpLt _ _ _ _ => true
  | .icmpLe _ _ _ _ => true
  | .icmpLtu _ _ _ _ => true
  | .icmpLeu _ _ _ _ => true
  | .icmpmEq _ _ _ => true
  | .icmpmNe _ _ _ => true
  | .icmpmLt _ _ _ => true
  | .icmpmLe _ _ _ => true
  | .icmpmLtu _ _ _ => true
  | .icmpmLeu _ _ _ => true
  | .min64 _ d a b => d.pair && a.pair && b.pair
  | .max64 _ d a b => d.pair && a.pair && b.pair
  | .minu64 _ d a b => d.pair && a.pair && b.pair
  | .maxu64 _ d a b => d.pair && a.pair && b.pair
  | .addi _ _ _ => true
  | .andi _ _ _ => true
  | .ori _ _ _ => true
  | .xori _ _ _ => true
  | .shli _ _ _ => true
  | .srli _ _ _ => true
  | .srai _ _ _ => true
  | .muli _ _ _ => true
  | .fadd _ _ _ _ => true
  | .fsub _ _ _ _ => true
  | .fmul _ _ _ _ => true
  | .ffma _ _ _ _ => true
  | .ffms _ _ _ _ => true
  | .fnma _ _ _ _ => true
  | .fmin _ _ _ _ => true
  | .fmax _ _ _ _ => true
  | .fcmpEq _ _ _ _ => true
  | .fcmpNe _ _ _ _ => true
  | .fcmpLt _ _ _ _ => true
  | .fcmpLe _ _ _ _ => true
  | .fcmpUn _ _ _ _ => true
  | .fcmpOd _ _ _ _ => true
  | .fcmpmEq _ _ _ => true
  | .fcmpmNe _ _ _ => true
  | .fcmpmLt _ _ _ => true
  | .fcmpmLe _ _ _ => true
  | .fcmpmUn _ _ _ => true
  | .fcmpmOd _ _ _ => true
  | .hadd2 _ _ _ _ => true
  | .hmul2 _ _ _ _ => true
  | .hfma2 _ _ _ _ => true
  | .hmin2 _ _ _ _ => true
  | .hmax2 _ _ _ _ => true
  | .badd2 _ _ _ _ => true
  | .bmul2 _ _ _ _ => true
  | .bfma2 _ _ _ _ => true
  | .fdot2h _ _ _ _ => true
  | .fdot4q8 _ _ _ _ => true
  | .fcopysign _ _ _ _ => true
  | .fldexp _ _ _ _ => true
  | .fdiv _ _ _ => true
  | .frcp _ _ _ => true
  | .frsq _ _ _ => true
  | .fsqrt _ _ _ => true
  | .fexp2 _ _ _ => true
  | .flog2 _ _ _ => true
  | .fsinp _ _ _ => true
  | .fcosp _ _ _ => true
  | .ffloor _ _ _ => true
  | .fceil _ _ _ => true
  | .ftrunc _ _ _ => true
  | .frint _ _ _ => true
  | .ffract _ _ _ => true
  | .fclass _ _ _ => true
  | .cvtF32S32 _ _ _ => true
  | .cvtF32U32 _ _ _ => true
  | .cvtS32F32 _ _ _ => true
  | .cvtU32F32 _ _ _ => true
  | .packh _ _ _ _ => true
  | .cvtF32HLo _ _ _ => true
  | .cvtF32HHi _ _ _ => true
  | .packb _ _ _ _ => true
  | .cvtF32BLo _ _ _ => true
  | .cvtF32BHi _ _ _ => true
  | .pk8E4 _ _ _ _ => true
  | .pk8E5 _ _ _ _ => true
  | .unpk8E4 _ _ _ _ => true
  | .unpk8E5 _ _ _ _ => true
  | .shfl _ _ a _ => a.shuffled
  | .shflup _ _ a _ => a.shuffled
  | .shfldn _ _ a _ => a.shuffled
  | .shflx _ _ a _ => a.shuffled
  | .ballot _ _ => true
  | .vany _ _ _ => true
  | .vall _ _ _ => true
  | .matchEq _ _ _ => true
  | .elect _ _ => true
  | .elects _ _ => true
  | .redadd _ _ _ => true
  | .redmin _ _ _ => true
  | .redmax _ _ _ => true
  | .redand _ _ _ => true
  | .redor _ _ _ => true
  | .redxor _ _ _ => true
  | .mand _ _ _ => true
  | .mor _ _ _ => true
  | .mxor _ _ _ => true
  | .mandn _ _ _ => true
  | .mact _ => true
  | .mclr _ => true
  | .mpop _ _ => true
  | .mfromv _ _ => true
  | .mtov _ _ _ => true
  | .mtos _ _ => true
  | .mfroms _ _ => true
  | .prefixadd _ _ _ => true
  | .sadd _ _ _ => true
  | .ssub _ _ _ => true
  | .smul _ _ _ => true
  | .smad _ _ _ => true
  | .sand _ _ _ => true
  | .sor _ _ _ => true
  | .sxor _ _ _ => true
  | .sshl _ _ _ => true
  | .sshr _ _ _ => true
  | .ssra _ _ _ => true
  | .smin _ _ _ => true
  | .smax _ _ _ => true
  | .sminu _ _ _ => true
  | .smaxu _ _ _ => true
  | .sadd64 d a b => d.pair && a.pair && b.pair
  | .scmpEq _ _ _ => true
  | .scmpNe _ _ _ => true
  | .scmpLt _ _ _ => true
  | .scmpLe _ _ _ => true
  | .scmpLtu _ _ _ => true
  | .scmpLeu _ _ _ => true
  | .sbcast _ _ => true
  | .srdlane _ _ _ => true
  | .swrlane _ _ _ => true
  | .sdivu _ _ _ => true
  | .sremu _ _ _ => true
  | .ssel _ _ _ => true
  | .sfadd _ _ _ => true
  | .sfmul _ _ _ => true
  | .sffma _ _ _ => true
  | .scvtf _ _ => true
  | .scvti _ _ => true
  | .ld _ w _ d _ => d.fits w
  | .st _ w _ d _ => w.stored && d.fits w
  | .ldro _ w _ d _ => d.fits w
  | .ldf _ _ _ _ => true
  | .pref _ _ _ _ => true
  | .ldl w _ d _ => d.fits w
  | .stl w _ d _ => w.stored && d.fits w
  | .ldu _ w _ d _ => fitsS w d.val
  | .recset _ a => decide (a.val ≤ 60)
  | .recget _ d => decide (d.val ≤ 60)
  | .recld _ a => even a.val
  | .sample _ _ _ d a => decide (d.val % 4 = 0) && even a.val
  | .cacheWb _ _ _ => true
  | .cacheInv _ _ _ => true
  | .ldp w d _ _ => d.fits w
  | .stp w d _ _ => w.stored && d.fits w
  | .ldpd w d _ _ => d.fits w
  | .stpd w d _ _ => w.stored && d.fits w
  | .ldc w d _ _ => d.fits w
  | .stc w d _ _ => w.stored && d.fits w
  | .atomp op d _ _ spare => op.groupOk d.val && spare == 0#6
  | .atom _ x d _ => x.op.groupOk d.val
  | .red _ x d _ => x.redOk && (!x.op.wide || d.pair)
  | .fenceAcq _ => true
  | .fenceRel _ => true
  | .fenceAr _ => true
  | .fenceSc _ => true
  | .fencero _ => true
  | .waitu _ wide d _ x => (!wide || (even d.val && even x.opnd.val)) && decide (d.val + (if wide then 2 else 1) ≤ 63)
  | .strel _ w _ d _ => w.stored && d.fits w
  | .ldacq _ w _ d _ => d.fits w
  | .kick _ _ _ => true
  | .advance _ => true
  | .finit _ _ => true
  | .farrive _ _ => true
  | .farriveRank _ _ => true
  | .fwait _ _ _ => true
  | .ftest _ _ _ => true
  | .fexpect _ _ _ => true
  | .waitc _ _ => true
  | .rdcnt _ _ => true
  | .copy _ a => decide (a.val ≤ 56)
  | .mshape _ => true
  | .mlds _ _ f => f.wf
  | .mldsg _ _ f _ => f.wf
  | .mscale _ _ _ => true
  | .mswap => true
  | .mma t _ _ x => x.wf && tileOk x.acc t.val
  | .mmag t _ _ x _ => x.wf && tileOk x.acc t.val
  | .mzero t acc => tileOk acc t.val
  | .mst t _ _ x => x.wf && tileOk x.acc t.val
  | .mld t _ _ x => x.wf && tileOk x.acc t.val
  | .mstPlane _ _ => true
  | .mldPlane _ _ => true
  | .mstat _ _ => true
  | .mrel => true
  | .nev _ a _ x => x.wf && (x.mem || (x.q.val == 0 && a.isReg))
  | .netldFetch _ => true
  | .netldDrop _ => true
  | .emitc _ _ b => even b.val
  | .raster _ a => even a.val
  | .present _ a => even a.val
  | .trace d a x => decide (d.val % 4 = 0) && decide (a.val % 8 = 0) && even x.hdr.val
  | .traceocc d a x => decide (d.val % 4 = 0) && decide (a.val % 8 = 0) && even x.hdr.val
  | .build _ a => even a.val
  | .refit _ a => even a.val
  | .cairnw _ a _ => even a.val
  | .genpin _ a _ => even a.val
  | .gendrop _ a _ => even a.val
  | .refill _ _ b _ => even b.val
  | .pixpush _ _ b => even b.val
  | .nodedec d a b => decide (d.val ≤ 106) && decide (a.val % 4 = 0) && even b.val
  | .morton _ a b => decide (a.val ≤ 109) && decide (b.val ≤ 59)
  | .pathStarvation _ => true
  | .readyWaveStarvation _ => true
  | .laneBurstCount _ _ => true
  | .loadReturn _ _ => true
  | .divideResult _ _ => true
  | .fdivResult _ _ => true
  | .launchStatus _ _ => true
  | .committedStorePerform _ _ => true
  | .paddockAccessPerform _ _ => true
  | .sideLogReplay _ _ => true
  | .tetherArm _ => true
  | .tetherWake _ => true
  | .tetherTimeout _ => true
  | .tetherArmRetry _ => true
  | .sleeptDeadline _ => true
  | .copyRowComplete _ _ => true
  | .copyRequestFail _ _ => true
  | .remoteArrivalApply _ => true
  | .fwaitWake _ => true
  | .arrayFillComplete _ _ => true
  | .mmaRowComplete _ _ => true
  | .arrayOpComplete _ _ => true
  | .arraySerialOpStart _ _ => true
  | .bandWake _ _ => true
  | .bandIdleOff _ _ => true
  | .flockTileClose _ _ => true
  | .flockTileComplete _ _ => true
  | .nevHandleComplete _ _ => true
  | .cairnPark _ => true
  | .cairnResume _ => true
  | .cairnTimeout _ => true
  | .rayEnd _ => true
  | .buildStart _ => true
  | .buildSlotTake _ => true
  | .cairnRaise _ _ => true
  | .treeLink _ => true
  | .buildFail _ _ => true
  | .compactorReclaim _ _ _ => true
  | .compactorFree _ _ _ => true
  | .rasterStart _ => true
  | .rasterSmallqResume _ => true
  | .rasterTileFlush _ _ => true
  | .rasterTileFinish _ _ => true
  | .rasterDone _ => true
  | .presentImageRead _ => true
  | .collieDecision _ => true
  | .streamSlotSend _ => true
  | .hostQueueTake _ => true
  | .childLaunchTake _ => true
  | .waitEventMet _ => true
  | .drovePlace _ _ => true
  | .penClaimComplete _ => true
  | .claimTimeout _ => true
  | .backfillStop _ _ => true
  | .timedStart _ => true
  | .timesliceExpire _ => true
  | .debugPreempt _ => true
  | .thermalMigrate _ _ => true
  | .trapEntry _ => true
  | .savedTetherWake _ => true
  | .savedWaveDeadline _ _ => true
  | .droveRestore _ _ => true
  | .waveEnd _ => true
  | .gridRetire _ => true
  | .contextEnable _ => true
  | .contextKill _ => true
  | .schedulerBlockRead => true
  | .policyBlockRead => true
  | .powerBlockRead => true
  | .fabricBlockRead => true
  | .pagerTableRead _ => true
  | .inval => true
  | .invalComplete _ => true
  | .migrate => true
  | .dup => true
  | .undup => true
  | .hotcfg => true
  | .frames => true
  | .brand => true
  | .attest => true
  | .upcall _ _ _ => true
  | .pagerWaitTimeout _ _ => true
  | .pagerMap _ _ => true
  | .pagerRefuse _ _ => true
  | .hotIntervalEnd _ => true
  | .dupCollapseAck _ _ => true
  | .hostRdmaWrite _ _ => true
  | .hostRdmaRead _ _ => true
  | .hostRdmaAtomic _ _ _ _ => true
  | .flitReceive _ _ _ _ _ => true
  | .linkRetrainDone _ _ => true
  | .eccCorrected _ _ _ => true
  | .uncorrectableError _ _ _ => true
  | .selftestStart _ _ => true
  | .selftestResult _ _ _ => true
  | .hirselMessageReceive _ _ _ _ _ _ _ => true
  | .hirselAck _ _ => true
  | .hirselRetransmit _ => true
  | .fabricTimeout _ => true
  | .ptpMessage _ => true
  | .announceTimeout => true
  | .budgetMessage _ _ _ => true
  | .budgetEpoch => true
  | .powerLimitStretch _ => true
  | .currentLimitStretch _ => true
  | .droopStretch _ => true
  | .thermalTrip _ => true
  | .thermalTripEnd _ => true
  | .firmwareFreeze => true
  | .watchdogFloor => true
  | .firmwareSignal _ => true
  | .firmwareSlotTakeover => true
  | .firmwareVerify _ _ _ => true
  | .functionReady _ => true
  | .hostWriteAck _ => true
  | .portDown _ => true
  | .portUp _ => true
  | .portmodeDrainDone => true
  | .clockStretchEnd _ => true
  | .bandWakeRateWaitEnd _ _ => true

/-- A well-formed instruction: at most one literal (R118) and every condition of its entry. -/
def Instr.wf (i : Instr) : Bool := decide (i.lits.length ≤ 1) && i.fieldsOk

/-- The rows of the table that have an encoding; the others are events of the machine. -/
def Instr.encoded : Instr → Bool
  | .bra _ => true
  | .brin _ _ => true
  | .brout _ _ => true
  | .bany _ _ => true
  | .ball _ _ => true
  | .call _ _ => true
  | .bsz _ _ => true
  | .bsnz _ _ => true
  | .jmpi _ => true
  | .calli _ => true
  | .ret => true
  | .join _ => true
  | .leave _ => true
  | .waitm _ => true
  | .yield => true
  | .nop => true
  | .trap _ => true
  | .brk => true
  | .exit => true
  | .win _ => true
  | .winadd _ => true
  | .rdcr _ _ => true
  | .rdcrD _ _ => true
  | .wrcr _ _ => true
  | .rte => true
  | .rdst _ _ _ => true
  | .wrst _ _ _ => true
  | .launch _ _ => true
  | .gbar => true
  | .sleept _ => true
  | .sleeptAbs _ => true
  | .wake => true
  | .setmodeFpmode _ => true
  | .setmodeFpflags _ => true
  | .setmodeOobflags _ => true
  | .setmodeDegencount _ => true
  | .add _ _ _ _ => true
  | .sub _ _ _ _ => true
  | .mul _ _ _ _ => true
  | .mulhi _ _ _ _ => true
  | .mulhiu _ _ _ _ => true
  | .mad _ _ _ _ => true
  | .madw _ _ _ _ => true
  | .add64 _ _ _ _ => true
  | .sub64 _ _ _ _ => true
  | .mul64 _ _ _ _ => true
  | .min _ _ _ _ => true
  | .max _ _ _ _ => true
  | .minu _ _ _ _ => true
  | .maxu _ _ _ _ => true
  | .absd _ _ _ _ => true
  | .csel _ _ _ _ => true
  | .and _ _ _ _ => true
  | .or _ _ _ _ => true
  | .xor _ _ _ _ => true
  | .andn _ _ _ _ => true
  | .shl _ _ _ _ => true
  | .srl _ _ _ _ => true
  | .sra _ _ _ _ => true
  | .rot _ _ _ _ => true
  | .shl64 _ _ _ _ => true
  | .srl64 _ _ _ _ => true
  | .sra64 _ _ _ _ => true
  | .bfe _ _ _ _ => true
  | .bfeu _ _ _ _ => true
  | .bfi _ _ _ _ => true
  | .popc _ _ _ => true
  | .clz _ _ _ => true
  | .brev _ _ _ => true
  | .divs _ _ _ => true
  | .divu _ _ _ => true
  | .rems _ _ _ => true
  | .remu _ _ _ => true
  | .addsat _ _ _ _ => true
  | .subsat _ _ _ _ => true
  | .bmix _ _ _ _ => true
  | .icmpEq _ _ _ _ => true
  | .icmpNe _ _ _ _ => true
  | .icmpLt _ _ _ _ => true
  | .icmpLe _ _ _ _ => true
  | .icmpLtu _ _ _ _ => true
  | .icmpLeu _ _ _ _ => true
  | .icmpmEq _ _ _ => true
  | .icmpmNe _ _ _ => true
  | .icmpmLt _ _ _ => true
  | .icmpmLe _ _ _ => true
  | .icmpmLtu _ _ _ => true
  | .icmpmLeu _ _ _ => true
  | .min64 _ _ _ _ => true
  | .max64 _ _ _ _ => true
  | .minu64 _ _ _ _ => true
  | .maxu64 _ _ _ _ => true
  | .addi _ _ _ => true
  | .andi _ _ _ => true
  | .ori _ _ _ => true
  | .xori _ _ _ => true
  | .shli _ _ _ => true
  | .srli _ _ _ => true
  | .srai _ _ _ => true
  | .muli _ _ _ => true
  | .fadd _ _ _ _ => true
  | .fsub _ _ _ _ => true
  | .fmul _ _ _ _ => true
  | .ffma _ _ _ _ => true
  | .ffms _ _ _ _ => true
  | .fnma _ _ _ _ => true
  | .fmin _ _ _ _ => true
  | .fmax _ _ _ _ => true
  | .fcmpEq _ _ _ _ => true
  | .fcmpNe _ _ _ _ => true
  | .fcmpLt _ _ _ _ => true
  | .fcmpLe _ _ _ _ => true
  | .fcmpUn _ _ _ _ => true
  | .fcmpOd _ _ _ _ => true
  | .fcmpmEq _ _ _ => true
  | .fcmpmNe _ _ _ => true
  | .fcmpmLt _ _ _ => true
  | .fcmpmLe _ _ _ => true
  | .fcmpmUn _ _ _ => true
  | .fcmpmOd _ _ _ => true
  | .hadd2 _ _ _ _ => true
  | .hmul2 _ _ _ _ => true
  | .hfma2 _ _ _ _ => true
  | .hmin2 _ _ _ _ => true
  | .hmax2 _ _ _ _ => true
  | .badd2 _ _ _ _ => true
  | .bmul2 _ _ _ _ => true
  | .bfma2 _ _ _ _ => true
  | .fdot2h _ _ _ _ => true
  | .fdot4q8 _ _ _ _ => true
  | .fcopysign _ _ _ _ => true
  | .fldexp _ _ _ _ => true
  | .fdiv _ _ _ => true
  | .frcp _ _ _ => true
  | .frsq _ _ _ => true
  | .fsqrt _ _ _ => true
  | .fexp2 _ _ _ => true
  | .flog2 _ _ _ => true
  | .fsinp _ _ _ => true
  | .fcosp _ _ _ => true
  | .ffloor _ _ _ => true
  | .fceil _ _ _ => true
  | .ftrunc _ _ _ => true
  | .frint _ _ _ => true
  | .ffract _ _ _ => true
  | .fclass _ _ _ => true
  | .cvtF32S32 _ _ _ => true
  | .cvtF32U32 _ _ _ => true
  | .cvtS32F32 _ _ _ => true
  | .cvtU32F32 _ _ _ => true
  | .packh _ _ _ _ => true
  | .cvtF32HLo _ _ _ => true
  | .cvtF32HHi _ _ _ => true
  | .packb _ _ _ _ => true
  | .cvtF32BLo _ _ _ => true
  | .cvtF32BHi _ _ _ => true
  | .pk8E4 _ _ _ _ => true
  | .pk8E5 _ _ _ _ => true
  | .unpk8E4 _ _ _ _ => true
  | .unpk8E5 _ _ _ _ => true
  | .shfl _ _ _ _ => true
  | .shflup _ _ _ _ => true
  | .shfldn _ _ _ _ => true
  | .shflx _ _ _ _ => true
  | .ballot _ _ => true
  | .vany _ _ _ => true
  | .vall _ _ _ => true
  | .matchEq _ _ _ => true
  | .elect _ _ => true
  | .elects _ _ => true
  | .redadd _ _ _ => true
  | .redmin _ _ _ => true
  | .redmax _ _ _ => true
  | .redand _ _ _ => true
  | .redor _ _ _ => true
  | .redxor _ _ _ => true
  | .mand _ _ _ => true
  | .mor _ _ _ => true
  | .mxor _ _ _ => true
  | .mandn _ _ _ => true
  | .mact _ => true
  | .mclr _ => true
  | .mpop _ _ => true
  | .mfromv _ _ => true
  | .mtov _ _ _ => true
  | .mtos _ _ => true
  | .mfroms _ _ => true
  | .prefixadd _ _ _ => true
  | .sadd _ _ _ => true
  | .ssub _ _ _ => true
  | .smul _ _ _ => true
  | .smad _ _ _ => true
  | .sand _ _ _ => true
  | .sor _ _ _ => true
  | .sxor _ _ _ => true
  | .sshl _ _ _ => true
  | .sshr _ _ _ => true
  | .ssra _ _ _ => true
  | .smin _ _ _ => true
  | .smax _ _ _ => true
  | .sminu _ _ _ => true
  | .smaxu _ _ _ => true
  | .sadd64 _ _ _ => true
  | .scmpEq _ _ _ => true
  | .scmpNe _ _ _ => true
  | .scmpLt _ _ _ => true
  | .scmpLe _ _ _ => true
  | .scmpLtu _ _ _ => true
  | .scmpLeu _ _ _ => true
  | .sbcast _ _ => true
  | .srdlane _ _ _ => true
  | .swrlane _ _ _ => true
  | .sdivu _ _ _ => true
  | .sremu _ _ _ => true
  | .ssel _ _ _ => true
  | .sfadd _ _ _ => true
  | .sfmul _ _ _ => true
  | .sffma _ _ _ => true
  | .scvtf _ _ => true
  | .scvti _ _ => true
  | .ld _ _ _ _ _ => true
  | .st _ _ _ _ _ => true
  | .ldro _ _ _ _ _ => true
  | .ldf _ _ _ _ => true
  | .pref _ _ _ _ => true
  | .ldl _ _ _ _ => true
  | .stl _ _ _ _ => true
  | .ldu _ _ _ _ _ => true
  | .recset _ _ => true
  | .recget _ _ => true
  | .recld _ _ => true
  | .sample _ _ _ _ _ => true
  | .cacheWb _ _ _ => true
  | .cacheInv _ _ _ => true
  | .ldp _ _ _ _ => true
  | .stp _ _ _ _ => true
  | .ldpd _ _ _ _ => true
  | .stpd _ _ _ _ => true
  | .ldc _ _ _ _ => true
  | .stc _ _ _ _ => true
  | .atomp _ _ _ _ _ => true
  | .atom _ _ _ _ => true
  | .red _ _ _ _ => true
  | .fenceAcq _ => true
  | .fenceRel _ => true
  | .fenceAr _ => true
  | .fenceSc _ => true
  | .fencero _ => true
  | .waitu _ _ _ _ _ => true
  | .strel _ _ _ _ _ => true
  | .ldacq _ _ _ _ _ => true
  | .kick _ _ _ => true
  | .advance _ => true
  | .finit _ _ => true
  | .farrive _ _ => true
  | .farriveRank _ _ => true
  | .fwait _ _ _ => true
  | .ftest _ _ _ => true
  | .fexpect _ _ _ => true
  | .waitc _ _ => true
  | .rdcnt _ _ => true
  | .copy _ _ => true
  | .mshape _ => true
  | .mlds _ _ _ => true
  | .mldsg _ _ _ _ => true
  | .mscale _ _ _ => true
  | .mswap => true
  | .mma _ _ _ _ => true
  | .mmag _ _ _ _ _ => true
  | .mzero _ _ => true
  | .mst _ _ _ _ => true
  | .mld _ _ _ _ => true
  | .mstPlane _ _ => true
  | .mldPlane _ _ => true
  | .mstat _ _ => true
  | .mrel => true
  | .nev _ _ _ _ => true
  | .netldFetch _ => true
  | .netldDrop _ => true
  | .emitc _ _ _ => true
  | .raster _ _ => true
  | .present _ _ => true
  | .trace _ _ _ => true
  | .traceocc _ _ _ => true
  | .build _ _ => true
  | .refit _ _ => true
  | .cairnw _ _ _ => true
  | .genpin _ _ _ => true
  | .gendrop _ _ _ => true
  | .refill _ _ _ _ => true
  | .pixpush _ _ _ => true
  | .nodedec _ _ _ => true
  | .morton _ _ _ => true
  | .pathStarvation _ => false
  | .readyWaveStarvation _ => false
  | .laneBurstCount _ _ => false
  | .loadReturn _ _ => false
  | .divideResult _ _ => false
  | .fdivResult _ _ => false
  | .launchStatus _ _ => false
  | .committedStorePerform _ _ => false
  | .paddockAccessPerform _ _ => false
  | .sideLogReplay _ _ => false
  | .tetherArm _ => false
  | .tetherWake _ => false
  | .tetherTimeout _ => false
  | .tetherArmRetry _ => false
  | .sleeptDeadline _ => false
  | .copyRowComplete _ _ => false
  | .copyRequestFail _ _ => false
  | .remoteArrivalApply _ => false
  | .fwaitWake _ => false
  | .arrayFillComplete _ _ => false
  | .mmaRowComplete _ _ => false
  | .arrayOpComplete _ _ => false
  | .arraySerialOpStart _ _ => false
  | .bandWake _ _ => false
  | .bandIdleOff _ _ => false
  | .flockTileClose _ _ => false
  | .flockTileComplete _ _ => false
  | .nevHandleComplete _ _ => false
  | .cairnPark _ => false
  | .cairnResume _ => false
  | .cairnTimeout _ => false
  | .rayEnd _ => false
  | .buildStart _ => false
  | .buildSlotTake _ => false
  | .cairnRaise _ _ => false
  | .treeLink _ => false
  | .buildFail _ _ => false
  | .compactorReclaim _ _ _ => false
  | .compactorFree _ _ _ => false
  | .rasterStart _ => false
  | .rasterSmallqResume _ => false
  | .rasterTileFlush _ _ => false
  | .rasterTileFinish _ _ => false
  | .rasterDone _ => false
  | .presentImageRead _ => false
  | .collieDecision _ => false
  | .streamSlotSend _ => false
  | .hostQueueTake _ => false
  | .childLaunchTake _ => false
  | .waitEventMet _ => false
  | .drovePlace _ _ => false
  | .penClaimComplete _ => false
  | .claimTimeout _ => false
  | .backfillStop _ _ => false
  | .timedStart _ => false
  | .timesliceExpire _ => false
  | .debugPreempt _ => false
  | .thermalMigrate _ _ => false
  | .trapEntry _ => false
  | .savedTetherWake _ => false
  | .savedWaveDeadline _ _ => false
  | .droveRestore _ _ => false
  | .waveEnd _ => false
  | .gridRetire _ => false
  | .contextEnable _ => false
  | .contextKill _ => false
  | .schedulerBlockRead => false
  | .policyBlockRead => false
  | .powerBlockRead => false
  | .fabricBlockRead => false
  | .pagerTableRead _ => false
  | .inval => false
  | .invalComplete _ => false
  | .migrate => false
  | .dup => false
  | .undup => false
  | .hotcfg => false
  | .frames => false
  | .brand => false
  | .attest => false
  | .upcall _ _ _ => false
  | .pagerWaitTimeout _ _ => false
  | .pagerMap _ _ => false
  | .pagerRefuse _ _ => false
  | .hotIntervalEnd _ => false
  | .dupCollapseAck _ _ => false
  | .hostRdmaWrite _ _ => false
  | .hostRdmaRead _ _ => false
  | .hostRdmaAtomic _ _ _ _ => false
  | .flitReceive _ _ _ _ _ => false
  | .linkRetrainDone _ _ => false
  | .eccCorrected _ _ _ => false
  | .uncorrectableError _ _ _ => false
  | .selftestStart _ _ => false
  | .selftestResult _ _ _ => false
  | .hirselMessageReceive _ _ _ _ _ _ _ => false
  | .hirselAck _ _ => false
  | .hirselRetransmit _ => false
  | .fabricTimeout _ => false
  | .ptpMessage _ => false
  | .announceTimeout => false
  | .budgetMessage _ _ _ => false
  | .budgetEpoch => false
  | .powerLimitStretch _ => false
  | .currentLimitStretch _ => false
  | .droopStretch _ => false
  | .thermalTrip _ => false
  | .thermalTripEnd _ => false
  | .firmwareFreeze => false
  | .watchdogFloor => false
  | .firmwareSignal _ => false
  | .firmwareSlotTakeover => false
  | .firmwareVerify _ _ _ => false
  | .functionReady _ => false
  | .hostWriteAck _ => false
  | .portDown _ => false
  | .portUp _ => false
  | .portmodeDrainDone => false
  | .clockStretchEnd _ => false
  | .bandWakeRateWaitEnd _ _ => false

end Sys2Proof
end

