-- ==== Sys2Proof/Decode.lean ====
section
/-! DEFINITION. Decode.lean: instruction words to instructions and back. The decoder takes the fields out once and
refuses by name; the encoder is written from the same tables of "Instruction Words and the Opcode Map" and of the
instruction chapters. -/

namespace Sys2Proof

/-- Why a word is no instruction; the machine raises ILLEGAL for each (R129). -/
inductive DecodeErr where
  /-- fewer words than the frame of the first word calls for (R108) -/
  | short
  /-- class 0xF, or a sub-op Table 5.8 reserves -/
  | reservedOp
  /-- a field defined as zero, or not used by the entry, is not zero -/
  | nonzeroField
  /-- an operand code its role forbids (R114, R115) -/
  | operand
  /-- a mask code its role forbids (R116) -/
  | mask
  /-- a width, hint, scope, kind, comparison or format code that is reserved (R112, R123 to R125) -/
  | code
  /-- NW = 1 where nothing is pushed (R122) -/
  | nw
  /-- a second literal, an odd pair or another combination an entry forbids (R118, R129) -/
  | combination
  deriving DecidableEq, Repr

abbrev Dec (α : Type) := Except DecodeErr α

/-! ## Operand codes (5.3) -/

def VSrc.code : VSrc → Nat
  | .reg n => n.val
  | .latch k => 112 + k.val
  | .sreg k => 116 + k.val
  | .zero => 124
  | .lane => 125
  | .lit _ => 127

def VDst.code : VDst → Nat
  | .reg n => n.val
  | .discard => 124

def USrc.code : USrc → Nat
  | .reg n => n.val
  | .zero => 124
  | .lit _ => 127

def UDst.code : UDst → Nat
  | .reg n => n.val
  | .discard => 124

def MSrc.code : MSrc → Nat
  | .reg n => n.val
  | .active => 14
  | .none => 15

/-- A mask code with 15 for none (R116). -/
def optM : Option MReg → Nat
  | some m => m.val
  | none => 15

def Width.code : Width → Nat
  | .w1 => 0 | .w2 => 1 | .w4 => 2 | .w8 => 3 | .w16 => 4 | .u1 => 5 | .u2 => 6

def Hint.code : Hint → Nat
  | .normal => 0 | .stream => 1 | .keep => 2 | .bypassL1 => 3

def Scope.code : Scope → Nat
  | .lane => 0 | .wave => 1 | .group => 2 | .cluster => 3 | .die => 4 | .device => 5 | .pod => 6 | .system => 7

def Ord.code : Ord → Nat
  | .rlx => 0 | .acq => 1 | .rel => 2 | .ar => 3

def Aop.code : Aop → Nat
  | .add => 0 | .min => 1 | .max => 2 | .minu => 3 | .maxu => 4 | .and => 5 | .or => 6 | .xor => 7
  | .xchg => 8 | .cas => 9 | .add64 => 10 | .min64 => 11 | .maxu64 => 12 | .minu64 => 13 | .cas64 => 14 | .fadd => 15

def Cmp.code : Cmp → Nat
  | .eq => 0 | .ne => 1 | .lt => 2 | .ge => 3 | .ltu => 4 | .geu => 5 | .anyset => 6 | .allclr => 7

def PFmt.code : PFmt → Nat
  | .raw => 0 | .f32 => 1 | .f16 => 2 | .bf16 => 3 | .e4m3 => 4 | .e5m2 => 5 | .int8 => 6 | .int4 => 7

def GLen.code : GLen → Nat
  | .g32 => 1 | .g64 => 2 | .g128 => 3

def optG : Option GLen → Nat
  | some g => g.code
  | none => 0

def Acc.code : Acc → Nat
  | .f32 => 0 | .f16 => 1 | .bf16 => 2

def Texel.code : Texel → Nat
  | .f32x1 => 0 | .f32x2 => 1 | .f32x4 => 2 | .f16x4 => 3 | .f16x2 => 4 | .un8x4 => 5 | .f16x1 => 6

def PlaneKind.code : PlaneKind → Nat
  | .active => 1 | .shadow => 2 | .activeScales => 3 | .shadowScales => 4

def Cull.code : Cull → Nat
  | .none => 0 | .back => 1 | .front => 2

/-- A number below `n`, or the named refusal. -/
def below (n c : Nat) (e : DecodeErr) : Dec (Fin n) :=
  if h : c < n then .ok ⟨c, h⟩ else .error e

def vsrc (lit : Word) (c : Nat) : Dec VSrc :=
  if h : c < 112 then .ok (.reg ⟨c, h⟩)
  else match c with
    | 112 => .ok (.latch 0) | 113 => .ok (.latch 1) | 114 => .ok (.latch 2) | 115 => .ok (.latch 3)
    | 116 => .ok (.sreg 0) | 117 => .ok (.sreg 1) | 118 => .ok (.sreg 2) | 119 => .ok (.sreg 3)
    | 120 => .ok (.sreg 4) | 121 => .ok (.sreg 5) | 122 => .ok (.sreg 6) | 123 => .ok (.sreg 7)
    | 124 => .ok .zero | 125 => .ok .lane | 127 => .ok (.lit lit)
    | _ => .error .operand

def vdst (c : Nat) : Dec VDst :=
  if h : c < 112 then .ok (.reg ⟨c, h⟩) else if c = 124 then .ok .discard else .error .operand

def vreg (c : Nat) : Dec VReg := below 112 c .operand

def usrc (lit : Word) (c : Nat) : Dec USrc :=
  if h : c < 64 then .ok (.reg ⟨c, h⟩)
  else match c with
    | 124 => .ok .zero | 127 => .ok (.lit lit)
    | _ => .error .operand

def udst (c : Nat) : Dec UDst :=
  if h : c < 64 then .ok (.reg ⟨c, h⟩) else if c = 124 then .ok .discard else .error .operand

def sreg (c : Nat) : Dec SReg := below 64 c .operand

def mreg (c : Nat) : Dec MReg := below 12 c .mask

def msrc (c : Nat) : Dec MSrc :=
  if h : c < 12 then .ok (.reg ⟨c, h⟩)
  else match c with
    | 14 => .ok .active | 15 => .ok .none
    | _ => .error .mask

/-- A mask register, or 15 for none. -/
def mreg15 (c : Nat) : Dec (Option MReg) :=
  if h : c < 12 then .ok (some ⟨c, h⟩) else if c = 15 then .ok none else .error .mask

/-- A mask register, or 14 for the active lanes (REFILL's A, Table 12.1). -/
def mreg14 (c : Nat) : Dec (Option MReg) :=
  if h : c < 12 then .ok (some ⟨c, h⟩) else if c = 14 then .ok none else .error .mask

def width (c : Nat) : Dec Width :=
  match c with
  | 0 => .ok .w1 | 1 => .ok .w2 | 2 => .ok .w4 | 3 => .ok .w8 | 4 => .ok .w16 | 5 => .ok .u1 | 6 => .ok .u2
  | _ => .error .code

def hint (c : Nat) : Dec Hint :=
  match c with
  | 0 => .ok .normal | 1 => .ok .stream | 2 => .ok .keep | 3 => .ok .bypassL1
  | _ => .error .code

def scope (c : Nat) : Dec Scope :=
  match c with
  | 0 => .ok .lane | 1 => .ok .wave | 2 => .ok .group | 3 => .ok .cluster
  | 4 => .ok .die | 5 => .ok .device | 6 => .ok .pod | 7 => .ok .system
  | _ => .error .code

def ord (c : Nat) : Dec Ord :=
  match c with
  | 0 => .ok .rlx | 1 => .ok .acq | 2 => .ok .rel | 3 => .ok .ar
  | _ => .error .code

def aop (c : Nat) : Dec Aop :=
  match c with
  | 0 => .ok .add | 1 => .ok .min | 2 => .ok .max | 3 => .ok .minu
  | 4 => .ok .maxu | 5 => .ok .and | 6 => .ok .or | 7 => .ok .xor
  | 8 => .ok .xchg | 9 => .ok .cas | 10 => .ok .add64 | 11 => .ok .min64
  | 12 => .ok .maxu64 | 13 => .ok .minu64 | 14 => .ok .cas64 | 15 => .ok .fadd
  | _ => .error .code

def cmp (c : Nat) : Dec Cmp :=
  match c with
  | 0 => .ok .eq | 1 => .ok .ne | 2 => .ok .lt | 3 => .ok .ge
  | 4 => .ok .ltu | 5 => .ok .geu | 6 => .ok .anyset | 7 => .ok .allclr
  | _ => .error .code

def pfmt (c : Nat) : Dec PFmt :=
  match c with
  | 0 => .ok .raw | 1 => .ok .f32 | 2 => .ok .f16 | 3 => .ok .bf16
  | 4 => .ok .e4m3 | 5 => .ok .e5m2 | 6 => .ok .int8 | 7 => .ok .int4
  | _ => .error .code

def glen (c : Nat) : Dec (Option GLen) :=
  match c with
  | 0 => .ok none | 1 => .ok (some .g32) | 2 => .ok (some .g64) | 3 => .ok (some .g128)
  | _ => .error .code

def acc (c : Nat) : Dec Acc :=
  match c with
  | 0 => .ok .f32 | 1 => .ok .f16 | 2 => .ok .bf16
  | _ => .error .code

def texel (c : Nat) : Dec Texel :=
  match c with
  | 0 => .ok .f32x1 | 1 => .ok .f32x2 | 2 => .ok .f32x4 | 3 => .ok .f16x4
  | 4 => .ok .f16x2 | 5 => .ok .un8x4 | 6 => .ok .f16x1
  | _ => .error .code

def planeKind (c : Nat) : Dec PlaneKind :=
  match c with
  | 1 => .ok .active | 2 => .ok .shadow | 3 => .ok .activeScales | 4 => .ok .shadowScales
  | _ => .error .code

def cull (c : Nat) : Dec Cull :=
  match c with
  | 0 => .ok .none | 1 => .ok .back | 2 => .ok .front
  | _ => .error .code

/-- A field that must be zero. -/
def zeroField (c : Nat) : Dec Unit := if c = 0 then .ok () else .error .nonzeroField

/-- The NW bit of a form that must not set it (R122). -/
def noNw (c : Nat) : Dec Unit := if c = 0 then .ok () else .error .nw

/-- A one-bit field. -/
def flag (c : Nat) : Bool := c == 1

/-! ## First words (Table 5.1) -/

/-- The fields of a first word, read in every layout at once; each layout uses its own. -/
structure First where
  word : Word
  ext : Word
  lit : Word

def First.nw (f : First) : Nat := fld f.word 21 1
def First.d (f : First) : Nat := fld f.word 14 7
def First.a (f : First) : Nat := fld f.word 7 7
def First.b (f : First) : Nat := fld f.word 0 7
/-- Format I. -/
def First.id (f : First) : Nat := fld f.word 18 7
def First.ia (f : First) : Nat := fld f.word 11 7
/-- Formats B, BS and J. -/
def First.m (f : First) : Nat := fld f.word 20 4
def First.off20 (f : First) : BitVec 20 := BitVec.ofNat 20 (fld f.word 0 20)
def First.off18 (f : First) : BitVec 18 := BitVec.ofNat 18 (fld f.word 0 18)
/-- Format M. -/
def First.q (f : First) : Nat := fld f.word 20 4
def First.w (f : First) : Nat := fld f.word 17 3
def First.h (f : First) : Nat := fld f.word 14 3
/-- Format P. -/
def First.pw (f : First) : Nat := fld f.word 21 3

/-- A format R word. -/
def encR (cls op nw d a b : Nat) : Word :=
  BitVec.ofNat 32 (cls * 2 ^ 28 + op * 2 ^ 22 + nw * 2 ^ 21 + d * 2 ^ 14 + a * 2 ^ 7 + b)
/-- A format I word of class 3. -/
def encI (op d a imm : Nat) : Word := BitVec.ofNat 32 (3 * 2 ^ 28 + op * 2 ^ 25 + d * 2 ^ 18 + a * 2 ^ 11 + imm)
/-- A format B word. -/
def encB (op m off : Nat) : Word := BitVec.ofNat 32 (op * 2 ^ 24 + m * 2 ^ 20 + off)
/-- A format BS word. -/
def encBS (op s off : Nat) : Word := BitVec.ofNat 32 (op * 2 ^ 24 + s * 2 ^ 18 + off)
/-- A format J word. -/
def encJ (op m a : Nat) : Word := BitVec.ofNat 32 (op * 2 ^ 24 + m * 2 ^ 20 + a * 2 ^ 7)
/-- A format M word. -/
def encM (cls op q w h d a : Nat) : Word :=
  BitVec.ofNat 32 (cls * 2 ^ 28 + op * 2 ^ 24 + q * 2 ^ 20 + w * 2 ^ 17 + h * 2 ^ 14 + d * 2 ^ 7 + a)
/-- A format P word of class 9. -/
def encP (op w d a off : Nat) : Word :=
  BitVec.ofNat 32 (9 * 2 ^ 28 + op * 2 ^ 24 + w * 2 ^ 21 + d * 2 ^ 14 + a * 2 ^ 7 + off)

/-- The H field of a hint or of an extension word. -/
def MemMod.h : MemMod → Nat
  | .short h => h.code
  | .ext _ => 7

/-! ## Extension words -/

/-- Table 5.6. -/
def encMemExt (scope : Nat) (h : Hint) (nol2 : Bool) (off : BitVec 24) : Word :=
  BitVec.ofNat 32 (scope * 2 ^ 28 + h.code * 2 ^ 25 + nol2.toNat * 2 ^ 24 + off.toNat)

def MemMod.words : MemMod → List Word
  | .short _ => []
  | .ext x => [encMemExt 0 x.hint x.nol2 x.off]

def ScopeMod.word (x : ScopeMod) : Word := encMemExt x.scope.code x.hint x.nol2 x.off

/-- R124. -/
def AtomMod.word (x : AtomMod) : Word :=
  BitVec.ofNat 32 (x.op.code * 2 ^ 28 + x.ord.code * 2 ^ 26 + x.scope.code * 2 ^ 22 + x.hint.code * 2 ^ 19 + x.off.toNat)

/-- R125. -/
def WaitMod.word (x : WaitMod) : Word :=
  BitVec.ofNat 32 (x.cmp.code * 2 ^ 29 + x.opnd.val * 2 ^ 23 + x.tmo.val * 2 ^ 17 + x.scope.code * 2 ^ 13)

/-- Table 11.2. -/
def encMat (af bf acc rows grp sat ovr q kind : Nat) : Word :=
  BitVec.ofNat 32 (af * 2 ^ 29 + bf * 2 ^ 26 + acc * 2 ^ 24 + rows * 2 ^ 17 + grp * 2 ^ 15 + sat * 2 ^ 14
    + ovr * 2 ^ 13 + q * 2 ^ 9 + kind * 2 ^ 6)

def BFmt.word (f : BFmt) (q : Nat) : Word := encMat 0 f.fmt.code 0 0 (optG f.grp) 0 0 q 0

def MmaMod.word (x : MmaMod) (q : Nat) : Word :=
  encMat x.af.code x.bf.fmt.code x.acc.code x.rows.toNat (optG x.bf.grp) x.sat.toNat x.ovr.toNat q 0

def TileMod.word (x : TileMod) : Word := encMat x.pf.code 0 x.acc.code x.rows.toNat 0 x.sat.toNat 0 0 0

/-- Table 11.11. -/
def NevMod.word (x : NevMod) : Word :=
  BitVec.ofNat 32 (x.q.val * 2 ^ 28 + x.mem.toNat * 2 ^ 27 + optM x.fmask * 2 ^ 23 + x.nin.toNat * 2 ^ 16
    + x.nout.toNat * 2 ^ 11 + x.trapen.toNat * 2 ^ 10)

/-- Table 12.7. -/
def TraceMod.word (x : TraceMod) : Word :=
  BitVec.ofNat 32 (x.hdr.val * 2 ^ 26 + x.gen.val * 2 ^ 20 + x.tmo.val * 2 ^ 14 + x.cull.code * 2 ^ 12)

/-- Table 5.6 as every form but STREL and LDACQ reads it: SCOPE must be 0 (R123). -/
def memMod (f : First) : Dec MemMod :=
  if f.h = 7 then do
    zeroField (fld f.ext 28 4)
    let h ← hint (fld f.ext 25 3)
    .ok (.ext ⟨h, flag (fld f.ext 24 1), BitVec.ofNat 24 (fld f.ext 0 24)⟩)
  else do
    let h ← hint f.h
    .ok (.short h)

def scopeMod (f : First) : Dec ScopeMod :=
  if f.h = 7 then do
    let s ← scope (fld f.ext 28 4)
    let h ← hint (fld f.ext 25 3)
    .ok ⟨s, h, flag (fld f.ext 24 1), BitVec.ofNat 24 (fld f.ext 0 24)⟩
  else .error .code

/-- R124; W must be that of the operation (Table 9.2). -/
def atomMod (f : First) : Dec AtomMod :=
  if f.h = 7 then do
    zeroField (fld f.ext 16 3)
    let op ← aop (fld f.ext 28 4)
    let o ← ord (fld f.ext 26 2)
    let s ← scope (fld f.ext 22 4)
    let h ← hint (fld f.ext 19 3)
    if f.w = (if op.wide then 3 else 2) then .ok ⟨op, o, s, h, BitVec.ofNat 16 (fld f.ext 0 16)⟩ else .error .code
  else .error .code

def waitMod (f : First) : Dec WaitMod := do
  zeroField (fld f.ext 0 13)
  let c ← cmp (fld f.ext 29 3)
  let o ← sreg (fld f.ext 23 6)
  let t ← sreg (fld f.ext 17 6)
  let s ← scope (fld f.ext 13 4)
  .ok ⟨c, o, t, s⟩

/-- The fields of a matrix extension word (Table 11.2). -/
structure MatExt where
  af : Nat
  bf : Nat
  acc : Nat
  rows : Nat
  grp : Nat
  sat : Nat
  ovr : Nat
  q : Nat
  kind : Nat

def matExt (x : Word) : Dec MatExt := do
  zeroField (fld x 0 6)
  .ok ⟨fld x 29 3, fld x 26 3, fld x 24 2, fld x 17 7, fld x 15 2, fld x 14 1, fld x 13 1, fld x 9 4, fld x 6 3⟩

def bFmt (e : MatExt) : Dec BFmt := do
  zeroField (e.af + e.acc + e.rows + e.sat + e.ovr + e.kind)
  let f ← pfmt e.bf
  let g ← glen e.grp
  .ok ⟨f, g⟩

def mmaMod (e : MatExt) : Dec MmaMod := do
  zeroField e.kind
  let af ← pfmt e.af
  let bf ← pfmt e.bf
  let g ← glen e.grp
  let c ← acc e.acc
  .ok ⟨af, ⟨bf, g⟩, c, BitVec.ofNat 7 e.rows, flag e.sat, flag e.ovr⟩

def tileMod (e : MatExt) : Dec TileMod := do
  zeroField (e.bf + e.grp + e.ovr + e.q)
  let pf ← pfmt e.af
  let c ← acc e.acc
  .ok ⟨pf, c, BitVec.ofNat 7 e.rows, flag e.sat⟩

def nevMod (x : Word) : Dec NevMod := do
  zeroField (fld x 0 10)
  let q ← below 16 (fld x 28 4) .operand
  let m ← mreg15 (fld x 23 4)
  .ok ⟨q, flag (fld x 27 1), m, BitVec.ofNat 7 (fld x 16 7), BitVec.ofNat 5 (fld x 11 5), flag (fld x 10 1)⟩

def traceMod (x : Word) : Dec TraceMod := do
  zeroField (fld x 0 12)
  let h ← sreg (fld x 26 6)
  let g ← sreg (fld x 20 6)
  let t ← sreg (fld x 14 6)
  let c ← cull (fld x 12 2)
  .ok ⟨h, g, t, c⟩

/-! ## Shapes: one decoder for each layout of operands -/

namespace Shape

def bOff (mk : BitVec 20 → Instr) (f : First) : Dec Instr := do
  if f.m = 15 then .ok () else .error .mask
  .ok (mk f.off20)

def bMask (mk : MReg → BitVec 20 → Instr) (f : First) : Dec Instr := do
  let m ← mreg f.m
  .ok (mk m f.off20)

def bCall (mk : Option MReg → BitVec 20 → Instr) (f : First) : Dec Instr := do
  let m ← mreg15 f.m
  .ok (mk m f.off20)

def bs (mk : SReg → BitVec 18 → Instr) (f : First) : Dec Instr := do
  let s ← sreg (fld f.word 18 6)
  .ok (mk s f.off18)

def jVec (mk : VSrc → Instr) (f : First) : Dec Instr := do
  if f.m = 15 then .ok () else .error .mask
  zeroField (fld f.word 14 6)
  zeroField f.b
  let a ← vsrc f.lit f.a
  .ok (mk a)

def jNone (mk : Instr) (f : First) : Dec Instr := do
  if f.m = 15 then .ok () else .error .mask
  zeroField (fld f.word 14 6)
  zeroField f.b
  zeroField f.a
  .ok mk

def jMask (mk : MReg → Instr) (f : First) : Dec Instr := do
  let m ← mreg f.m
  zeroField (fld f.word 14 6)
  zeroField f.b
  zeroField f.a
  .ok (mk m)

def r0 (mk : Instr) (f : First) : Dec Instr := do
  noNw f.nw
  zeroField f.d
  zeroField f.a
  zeroField f.b
  .ok mk

def rTrap (mk : BitVec 14 → Instr) (f : First) : Dec Instr := do
  noNw f.nw
  zeroField f.d
  .ok (mk (BitVec.ofNat 14 (fld f.word 0 14)))

def rWin (mk : BitVec 5 → Instr) (f : First) : Dec Instr := do
  noNw f.nw
  zeroField f.d
  zeroField f.a
  zeroField (f.b / 32)
  .ok (mk (BitVec.ofNat 5 f.b))

def rWinadd (mk : BitVec 7 → Instr) (f : First) : Dec Instr := do
  noNw f.nw
  zeroField f.d
  zeroField f.a
  .ok (mk (BitVec.ofNat 7 f.b))

def rRdcr (mk : SReg → BitVec 7 → Instr) (f : First) : Dec Instr := do
  noNw f.nw
  let d ← sreg f.d
  .ok (mk d (BitVec.ofNat 7 f.b))

def rRdcrD (mk : SReg → BitVec 7 → Instr) (f : First) : Dec Instr := do
  noNw f.nw
  let d ← sreg f.d
  .ok (mk d (BitVec.ofNat 7 f.b))

def rWrcr (mk : USrc → BitVec 7 → Instr) (f : First) : Dec Instr := do
  noNw f.nw
  zeroField f.d
  let a ← usrc f.lit f.a
  .ok (mk a (BitVec.ofNat 7 f.b))

def rRdst (mk : SReg → USrc → BitVec 7 → Instr) (f : First) : Dec Instr := do
  noNw f.nw
  let d ← sreg f.d
  let a ← usrc f.lit f.a
  .ok (mk d a (BitVec.ofNat 7 f.b))

def rWrst (mk : USrc → USrc → BitVec 7 → Instr) (f : First) : Dec Instr := do
  noNw f.nw
  let d ← usrc f.lit f.d
  let a ← usrc f.lit f.a
  .ok (mk d a (BitVec.ofNat 7 f.b))

def rLaunch (mk : VReg → VReg → Instr) (f : First) : Dec Instr := do
  noNw f.nw
  zeroField f.b
  let d ← vreg f.d
  let a ← vreg f.a
  .ok (mk d a)

def rSleept (mk : USrc → Instr) (f : First) : Dec Instr := do
  noNw f.nw
  zeroField f.d
  let a ← usrc f.lit f.a
  .ok (mk a)

def rSleeptA (mk : USrc → Instr) (f : First) : Dec Instr := do
  noNw f.nw
  zeroField f.d
  let a ← usrc f.lit f.a
  .ok (mk a)

def rMode0 (mk : USrc → Instr) (f : First) : Dec Instr := do
  noNw f.nw
  zeroField f.d
  let a ← usrc f.lit f.a
  .ok (mk a)

def rMode1 (mk : USrc → Instr) (f : First) : Dec Instr := do
  noNw f.nw
  zeroField f.d
  let a ← usrc f.lit f.a
  .ok (mk a)

def rMode2 (mk : USrc → Instr) (f : First) : Dec Instr := do
  noNw f.nw
  zeroField f.d
  let a ← usrc f.lit f.a
  .ok (mk a)

def rMode3 (mk : USrc → Instr) (f : First) : Dec Instr := do
  noNw f.nw
  zeroField f.d
  let a ← usrc f.lit f.a
  .ok (mk a)

def vvv (mk : Bool → VDst → VSrc → VSrc → Instr) (f : First) : Dec Instr := do
  let d ← vdst f.d
  let a ← vsrc f.lit f.a
  let b ← vsrc f.lit f.b
  .ok (mk (flag f.nw) d a b)

def vv (mk : Bool → VDst → VSrc → Instr) (f : First) : Dec Instr := do
  zeroField f.b
  let d ← vdst f.d
  let a ← vsrc f.lit f.a
  .ok (mk (flag f.nw) d a)

def vvvQ (mk : VDst → VSrc → VSrc → Instr) (f : First) : Dec Instr := do
  noNw f.nw
  let d ← vdst f.d
  let a ← vsrc f.lit f.a
  let b ← vsrc f.lit f.b
  .ok (mk d a b)

def mvv (mk : MReg → VSrc → VSrc → Instr) (f : First) : Dec Instr := do
  noNw f.nw
  let d ← mreg f.d
  let a ← vsrc f.lit f.a
  let b ← vsrc f.lit f.b
  .ok (mk d a b)

def vi11 (mk : VDst → VSrc → BitVec 11 → Instr) (f : First) : Dec Instr := do
  let d ← vdst f.id
  let a ← vsrc f.lit f.ia
  .ok (mk d a (BitVec.ofNat 11 (fld f.word 0 11)))

def vi5 (mk : VDst → VSrc → BitVec 5 → Instr) (f : First) : Dec Instr := do
  zeroField (fld f.word 5 6)
  let d ← vdst f.id
  let a ← vsrc f.lit f.ia
  .ok (mk d a (BitVec.ofNat 5 (fld f.word 0 5)))

def uv (mk : UDst → VSrc → Instr) (f : First) : Dec Instr := do
  noNw f.nw
  zeroField f.b
  let d ← udst f.d
  let a ← vsrc f.lit f.a
  .ok (mk d a)

def v (mk : Bool → VDst → Instr) (f : First) : Dec Instr := do
  zeroField f.a
  zeroField f.b
  let d ← vdst f.d
  .ok (mk (flag f.nw) d)

def mmm (mk : MReg → MSrc → MSrc → Instr) (f : First) : Dec Instr := do
  noNw f.nw
  let d ← mreg f.d
  let a ← msrc f.a
  let b ← msrc f.b
  .ok (mk d a b)

def m (mk : MReg → Instr) (f : First) : Dec Instr := do
  noNw f.nw
  zeroField f.a
  zeroField f.b
  let d ← mreg f.d
  .ok (mk d)

def um (mk : UDst → MSrc → Instr) (f : First) : Dec Instr := do
  noNw f.nw
  zeroField f.b
  let d ← udst f.d
  let a ← msrc f.a
  .ok (mk d a)

def mv (mk : MReg → VSrc → Instr) (f : First) : Dec Instr := do
  noNw f.nw
  zeroField f.b
  let d ← mreg f.d
  let a ← vsrc f.lit f.a
  .ok (mk d a)

def vm (mk : Bool → VDst → MSrc → Instr) (f : First) : Dec Instr := do
  zeroField f.b
  let d ← vdst f.d
  let a ← msrc f.a
  .ok (mk (flag f.nw) d a)

def mu (mk : MReg → USrc → Instr) (f : First) : Dec Instr := do
  noNw f.nw
  zeroField f.b
  let d ← mreg f.d
  let a ← usrc f.lit f.a
  .ok (mk d a)

def uuu (mk : UDst → USrc → USrc → Instr) (f : First) : Dec Instr := do
  noNw f.nw
  let d ← udst f.d
  let a ← usrc f.lit f.a
  let b ← usrc f.lit f.b
  .ok (mk d a b)

def vu (mk : VDst → USrc → Instr) (f : First) : Dec Instr := do
  noNw f.nw
  zeroField f.b
  let d ← vdst f.d
  let a ← usrc f.lit f.a
  .ok (mk d a)

def uru (mk : UDst → VReg → USrc → Instr) (f : First) : Dec Instr := do
  noNw f.nw
  let d ← udst f.d
  let a ← vreg f.a
  let b ← usrc f.lit f.b
  .ok (mk d a b)

def vuu (mk : VDst → USrc → USrc → Instr) (f : First) : Dec Instr := do
  noNw f.nw
  let d ← vdst f.d
  let a ← usrc f.lit f.a
  let b ← usrc f.lit f.b
  .ok (mk d a b)

def uu (mk : UDst → USrc → Instr) (f : First) : Dec Instr := do
  noNw f.nw
  zeroField f.b
  let d ← udst f.d
  let a ← usrc f.lit f.a
  .ok (mk d a)

def mLd (mk : QReg → Width → MemMod → VDst → VSrc → Instr) (f : First) : Dec Instr := do
  let q ← below 16 f.q .operand
  let w ← width f.w
  let x ← memMod f
  let d ← vdst f.a
  let a ← vsrc f.lit f.b
  .ok (mk q w x d a)

def mSt (mk : QReg → Width → MemMod → VSrc → VSrc → Instr) (f : First) : Dec Instr := do
  let q ← below 16 f.q .operand
  let w ← width f.w
  let x ← memMod f
  let d ← vsrc f.lit f.a
  let a ← vsrc f.lit f.b
  .ok (mk q w x d a)

def mLdf (mk : QReg → MemMod → VDst → VSrc → Instr) (f : First) : Dec Instr := do
  if f.w = 2 then .ok () else .error .code
  let q ← below 16 f.q .operand
  let x ← memMod f
  let d ← vdst f.a
  let a ← vsrc f.lit f.b
  .ok (mk q x d a)

def mPref (mk : QReg → Width → MemMod → VSrc → Instr) (f : First) : Dec Instr := do
  zeroField f.a
  let q ← below 16 f.q .operand
  let w ← width f.w
  let x ← memMod f
  let a ← vsrc f.lit f.b
  .ok (mk q w x a)

def mLdl (mk : Width → MemMod → VDst → VSrc → Instr) (f : First) : Dec Instr := do
  zeroField f.q
  let w ← width f.w
  let x ← memMod f
  let d ← vdst f.a
  let a ← vsrc f.lit f.b
  .ok (mk w x d a)

def mStl (mk : Width → MemMod → VSrc → VSrc → Instr) (f : First) : Dec Instr := do
  zeroField f.q
  let w ← width f.w
  let x ← memMod f
  let d ← vsrc f.lit f.a
  let a ← vsrc f.lit f.b
  .ok (mk w x d a)

def mLdu (mk : QReg → Width → MemMod → SReg → USrc → Instr) (f : First) : Dec Instr := do
  let q ← below 16 f.q .operand
  let w ← width f.w
  let x ← memMod f
  let d ← sreg f.a
  let a ← usrc f.lit f.b
  .ok (mk q w x d a)

def mRecset (mk : QReg → SReg → Instr) (f : First) : Dec Instr := do
  zeroField f.w
  zeroField f.h
  zeroField f.a
  let q ← below 16 f.q .operand
  let a ← sreg f.b
  .ok (mk q a)

def mRecget (mk : QReg → SReg → Instr) (f : First) : Dec Instr := do
  zeroField f.w
  zeroField f.h
  zeroField f.b
  let q ← below 16 f.q .operand
  let d ← sreg f.a
  .ok (mk q d)

def mRecld (mk : QReg → SReg → Instr) (f : First) : Dec Instr := do
  zeroField f.w
  zeroField f.h
  zeroField f.a
  let q ← below 16 f.q .operand
  let a ← sreg f.b
  .ok (mk q a)

def mSample (mk : QReg → Texel → MemMod → VReg → VReg → Instr) (f : First) : Dec Instr := do
  let q ← below 16 f.q .operand
  let t ← texel f.w
  let x ← memMod f
  let d ← vreg f.a
  let a ← vreg f.b
  .ok (mk q t x d a)

def mCacheWb (mk : QReg → Width → VSrc → Instr) (f : First) : Dec Instr := do
  zeroField f.a
  let q ← below 16 f.q .operand
  let w ← width f.w
  let a ← vsrc f.lit f.b
  .ok (mk q w a)

def mCacheInv (mk : QReg → Width → VSrc → Instr) (f : First) : Dec Instr := do
  zeroField f.a
  let q ← below 16 f.q .operand
  let w ← width f.w
  let a ← vsrc f.lit f.b
  .ok (mk q w a)

def pLd (mk : Width → VDst → VSrc → BitVec 7 → Instr) (f : First) : Dec Instr := do
  let w ← width f.pw
  let d ← vdst f.d
  let a ← vsrc f.lit f.a
  .ok (mk w d a (BitVec.ofNat 7 f.b))

def pSt (mk : Width → VSrc → VSrc → BitVec 7 → Instr) (f : First) : Dec Instr := do
  let w ← width f.pw
  let d ← vsrc f.lit f.d
  let a ← vsrc f.lit f.a
  .ok (mk w d a (BitVec.ofNat 7 f.b))

def pAtom (mk : Aop → VReg → VSrc → BitVec 7 → BitVec 6 → Instr) (f : First) : Dec Instr := do
  zeroField (fld f.ext 0 22)
  let op ← aop (fld f.ext 28 4)
  if f.pw = (if op.wide then 3 else 2) then .ok () else .error .code
  let d ← vreg f.d
  let a ← vsrc f.lit f.a
  .ok (mk op d a (BitVec.ofNat 7 f.b) (BitVec.ofNat 6 (fld f.ext 22 6)))

def aAtom (mk : QReg → AtomMod → VReg → VSrc → Instr) (f : First) : Dec Instr := do
  let q ← below 16 f.q .operand
  let x ← atomMod f
  let d ← vreg f.a
  let a ← vsrc f.lit f.b
  .ok (mk q x d a)

def aRed (mk : QReg → AtomMod → VSrc → VSrc → Instr) (f : First) : Dec Instr := do
  let q ← below 16 f.q .operand
  let x ← atomMod f
  let d ← vsrc f.lit f.a
  let a ← vsrc f.lit f.b
  .ok (mk q x d a)

def aFenceAcq (mk : Scope → Instr) (f : First) : Dec Instr := do
  zeroField f.h
  zeroField f.a
  zeroField f.b
  let s ← scope f.q
  .ok (mk s)

def aFenceRel (mk : Scope → Instr) (f : First) : Dec Instr := do
  zeroField f.h
  zeroField f.a
  zeroField f.b
  let s ← scope f.q
  .ok (mk s)

def aFenceAr (mk : Scope → Instr) (f : First) : Dec Instr := do
  zeroField f.h
  zeroField f.a
  zeroField f.b
  let s ← scope f.q
  .ok (mk s)

def aFenceSc (mk : Scope → Instr) (f : First) : Dec Instr := do
  zeroField f.h
  zeroField f.a
  zeroField f.b
  let s ← scope f.q
  .ok (mk s)

def aFencero (mk : Scope → Instr) (f : First) : Dec Instr := do
  zeroField f.w
  zeroField f.h
  zeroField f.a
  zeroField f.b
  let s ← scope f.q
  .ok (mk s)

def aWaitu (mk : QReg → Bool → SReg → USrc → WaitMod → Instr) (f : First) : Dec Instr := do
  if f.h = 7 then .ok () else .error .code
  if f.w = 2 ∨ f.w = 3 then .ok () else .error .code
  let q ← below 16 f.q .operand
  let d ← sreg f.a
  let a ← usrc f.lit f.b
  let x ← waitMod f
  .ok (mk q (f.w == 3) d a x)

def aStrel (mk : QReg → Width → ScopeMod → VSrc → VSrc → Instr) (f : First) : Dec Instr := do
  let q ← below 16 f.q .operand
  let w ← width f.w
  let x ← scopeMod f
  let d ← vsrc f.lit f.a
  let a ← vsrc f.lit f.b
  .ok (mk q w x d a)

def aLdacq (mk : QReg → Width → ScopeMod → VDst → VSrc → Instr) (f : First) : Dec Instr := do
  let q ← below 16 f.q .operand
  let w ← width f.w
  let x ← scopeMod f
  let d ← vdst f.a
  let a ← vsrc f.lit f.b
  .ok (mk q w x d a)

def u (mk : UDst → Instr) (f : First) : Dec Instr := do
  noNw f.nw
  zeroField f.a
  zeroField f.b
  let d ← udst f.d
  .ok (mk d)

def ku (mk : Fold → USrc → Instr) (f : First) : Dec Instr := do
  noNw f.nw
  zeroField f.b
  let k ← below 16 f.d .operand
  let a ← usrc f.lit f.a
  .ok (mk k a)

def uk (mk : UDst → Fold → Instr) (f : First) : Dec Instr := do
  noNw f.nw
  zeroField f.b
  let d ← udst f.d
  let k ← below 16 f.a .operand
  .ok (mk d k)

def kRank (mk : Fold → USrc → Instr) (f : First) : Dec Instr := do
  noNw f.nw
  let k ← if f.a < 16 then .error .operand else below 16 (f.a - 16) .operand
  let b ← usrc f.lit f.b
  .ok (mk k b)

def uku (mk : UDst → Fold → USrc → Instr) (f : First) : Dec Instr := do
  noNw f.nw
  let d ← udst f.d
  let k ← below 16 f.a .operand
  let b ← usrc f.lit f.b
  .ok (mk d k b)

def kuu (mk : Fold → USrc → USrc → Instr) (f : First) : Dec Instr := do
  noNw f.nw
  let k ← below 16 f.d .operand
  let a ← usrc f.lit f.a
  let b ← usrc f.lit f.b
  .ok (mk k a b)

def cu (mk : Fin 3 → USrc → Instr) (f : First) : Dec Instr := do
  noNw f.nw
  zeroField f.d
  let c ← below 3 f.a .code
  let b ← usrc f.lit f.b
  .ok (mk c b)

def uc (mk : UDst → Fin 4 → Instr) (f : First) : Dec Instr := do
  noNw f.nw
  zeroField f.b
  let d ← udst f.d
  let c ← below 4 f.a .code
  .ok (mk d c)

def uCopy (mk : UDst → SReg → Instr) (f : First) : Dec Instr := do
  noNw f.nw
  zeroField f.b
  let d ← udst f.d
  let a ← sreg f.a
  .ok (mk d a)

def sU (mk : USrc → Instr) (f : First) : Dec Instr := do
  noNw f.nw
  zeroField f.d
  zeroField f.b
  let a ← usrc f.lit f.a
  .ok (mk a)

def xMlds (mk : USrc → USrc → BFmt → Instr) (f : First) : Dec Instr := do
  noNw f.nw
  zeroField f.d
  let a ← usrc f.lit f.a
  let b ← usrc f.lit f.b
  let e ← matExt f.ext
  zeroField e.q
  let g ← bFmt e
  .ok (mk a b g)

def xMldsg (mk : USrc → USrc → BFmt → QReg → Instr) (f : First) : Dec Instr := do
  noNw f.nw
  zeroField f.d
  let a ← usrc f.lit f.a
  let b ← usrc f.lit f.b
  let e ← matExt f.ext
  let q ← below 16 e.q .operand
  let g ← bFmt e
  .ok (mk a b g q)

def xScale (mk : USrc → Bool → GLen → Instr) (f : First) : Dec Instr := do
  noNw f.nw
  zeroField f.d
  let a ← usrc f.lit f.a
  zeroField (f.b / 8)
  let g ← glen (f.b % 4)
  let h ← match g with | some x => .ok x | none => .error .code
  .ok (mk a (flag (f.b / 4)) h)

def xMma (mk : Slot → USrc → USrc → MmaMod → Instr) (f : First) : Dec Instr := do
  noNw f.nw
  let t ← below 8 f.d .operand
  let a ← usrc f.lit f.a
  let b ← usrc f.lit f.b
  let e ← matExt f.ext
  zeroField e.q
  let x ← mmaMod e
  .ok (mk t a b x)

def xMmag (mk : Slot → USrc → USrc → MmaMod → QReg → Instr) (f : First) : Dec Instr := do
  noNw f.nw
  let t ← below 8 f.d .operand
  let a ← usrc f.lit f.a
  let b ← usrc f.lit f.b
  let e ← matExt f.ext
  let q ← below 16 e.q .operand
  let x ← mmaMod e
  .ok (mk t a b x q)

def xZero (mk : Slot → Acc → Instr) (f : First) : Dec Instr := do
  noNw f.nw
  zeroField f.b
  let t ← below 8 f.d .operand
  let c ← Sys2Proof.acc f.a
  .ok (mk t c)

def xMst (mk : Slot → USrc → USrc → TileMod → Instr) (f : First) : Dec Instr := do
  noNw f.nw
  let t ← below 8 f.d .operand
  let a ← usrc f.lit f.a
  let b ← usrc f.lit f.b
  let e ← matExt f.ext
  let x ← tileMod e
  .ok (mk t a b x)

def xPlane (mk : USrc → PlaneKind → Instr) (f : First) : Dec Instr := do
  noNw f.nw
  zeroField f.d
  if f.b = 124 then .ok () else .error .operand
  let a ← usrc f.lit f.a
  let e ← matExt f.ext
  zeroField (e.af + e.bf + e.acc + e.rows + e.grp + e.sat + e.ovr + e.q)
  let k ← planeKind e.kind
  .ok (mk a k)

def xStat (mk : UDst → Bool → Instr) (f : First) : Dec Instr := do
  noNw f.nw
  zeroField f.b
  let d ← udst f.d
  if f.a < 2 then .ok () else .error .code
  .ok (mk d (flag f.a))

def nev (mk : VReg → VSrc → VSrc → NevMod → Instr) (f : First) : Dec Instr := do
  noNw f.nw
  let d ← vreg f.d
  let a ← vsrc f.lit f.a
  let b ← vsrc f.lit f.b
  let x ← nevMod f.ext
  .ok (mk d a b x)

def netld0 (mk : USrc → Instr) (f : First) : Dec Instr := do
  noNw f.nw
  zeroField f.d
  let a ← usrc f.lit f.a
  .ok (mk a)

def netld1 (mk : USrc → Instr) (f : First) : Dec Instr := do
  noNw f.nw
  zeroField f.d
  let a ← usrc f.lit f.a
  .ok (mk a)

def uuP (mk : UDst → USrc → SReg → Instr) (f : First) : Dec Instr := do
  noNw f.nw
  let d ← udst f.d
  let a ← usrc f.lit f.a
  let b ← sreg f.b
  .ok (mk d a b)

def uP (mk : UDst → SReg → Instr) (f : First) : Dec Instr := do
  noNw f.nw
  zeroField f.b
  let d ← udst f.d
  let a ← sreg f.a
  .ok (mk d a)

def trace (mk : VReg → VReg → TraceMod → Instr) (f : First) : Dec Instr := do
  noNw f.nw
  zeroField f.b
  let d ← vreg f.d
  let a ← vreg f.a
  let x ← traceMod f.ext
  .ok (mk d a x)

def uPu (mk : UDst → SReg → USrc → Instr) (f : First) : Dec Instr := do
  noNw f.nw
  let d ← udst f.d
  let a ← sreg f.a
  let b ← usrc f.lit f.b
  .ok (mk d a b)

def refill (mk : VReg → Option MReg → SReg → Option MReg → Instr) (f : First) : Dec Instr := do
  noNw f.nw
  let d ← vreg f.d
  let a ← mreg14 f.a
  let b ← sreg f.b
  zeroField (fld f.ext 0 28)
  let o ← mreg15 (fld f.ext 28 4)
  .ok (mk d a b o)

def pixpush (mk : VDst → VSrc → SReg → Instr) (f : First) : Dec Instr := do
  noNw f.nw
  let d ← vdst f.d
  let a ← vsrc f.lit f.a
  let b ← sreg f.b
  .ok (mk d a b)

def nodedec (mk : VReg → VReg → VReg → Instr) (f : First) : Dec Instr := do
  noNw f.nw
  let d ← vreg f.d
  let a ← vreg f.a
  let b ← vreg f.b
  .ok (mk d a b)

def morton (mk : VReg → VReg → SReg → Instr) (f : First) : Dec Instr := do
  noNw f.nw
  let d ← vreg f.d
  let a ← vreg f.a
  let b ← sreg f.b
  .ok (mk d a b)

end Shape

/-! ## The opcode map (Table 5.8) -/

def decodeClass0 (f : First) : Dec Instr :=
  match fld f.word 24 4 with
  | 0 => Shape.bOff .bra f
  | 1 => Shape.bMask .brin f
  | 2 => Shape.bMask .brout f
  | 3 => Shape.bMask .bany f
  | 4 => Shape.bMask .ball f
  | 5 => Shape.bCall .call f
  | 6 => Shape.bs .bsz f
  | 7 => Shape.bs .bsnz f
  | 8 => Shape.jVec .jmpi f
  | 9 => Shape.jVec .calli f
  | 10 => Shape.jNone .ret f
  | 11 => Shape.jMask .join f
  | 12 => Shape.jMask .leave f
  | 13 => Shape.jMask .waitm f
  | 14 => Shape.jNone .yield f
  | _ => .error .reservedOp

def decodeClass1 (f : First) : Dec Instr :=
  match fld f.word 22 6 with
  | 0 => Shape.r0 .nop f
  | 1 => Shape.rTrap .trap f
  | 2 => Shape.r0 .brk f
  | 3 => Shape.r0 .exit f
  | 4 => Shape.rWin .win f
  | 5 => Shape.rWinadd .winadd f
  | 6 =>
    if f.a = 0 then Shape.rRdcr .rdcr f
    else if f.a = 1 then Shape.rRdcrD .rdcrD f
    else .error .code
  | 7 => Shape.rWrcr .wrcr f
  | 8 => Shape.r0 .rte f
  | 9 => Shape.rRdst .rdst f
  | 10 => Shape.rWrst .wrst f
  | 11 => Shape.rLaunch .launch f
  | 12 => Shape.r0 .gbar f
  | 13 =>
    if f.b = 0 then Shape.rSleept .sleept f
    else if f.b = 1 then Shape.rSleeptA .sleeptAbs f
    else .error .code
  | 14 => Shape.r0 .wake f
  | 15 =>
    if f.b = 0 then Shape.rMode0 .setmodeFpmode f
    else if f.b = 1 then Shape.rMode1 .setmodeFpflags f
    else if f.b = 2 then Shape.rMode2 .setmodeOobflags f
    else if f.b = 3 then Shape.rMode3 .setmodeDegencount f
    else .error .code
  | _ => .error .reservedOp

def decodeClass2 (f : First) : Dec Instr :=
  match fld f.word 22 6 with
  | 0 => Shape.vvv .add f
  | 1 => Shape.vvv .sub f
  | 2 => Shape.vvv .mul f
  | 3 => Shape.vvv .mulhi f
  | 4 => Shape.vvv .mulhiu f
  | 5 => Shape.vvv .mad f
  | 6 => Shape.vvv .madw f
  | 7 => Shape.vvv .add64 f
  | 8 => Shape.vvv .sub64 f
  | 9 => Shape.vvv .mul64 f
  | 10 => Shape.vvv .min f
  | 11 => Shape.vvv .max f
  | 12 => Shape.vvv .minu f
  | 13 => Shape.vvv .maxu f
  | 14 => Shape.vvv .absd f
  | 15 => Shape.vvv .csel f
  | 16 => Shape.vvv .and f
  | 17 => Shape.vvv .or f
  | 18 => Shape.vvv .xor f
  | 19 => Shape.vvv .andn f
  | 20 => Shape.vvv .shl f
  | 21 => Shape.vvv .srl f
  | 22 => Shape.vvv .sra f
  | 23 => Shape.vvv .rot f
  | 24 => Shape.vvv .shl64 f
  | 25 => Shape.vvv .srl64 f
  | 26 => Shape.vvv .sra64 f
  | 27 => Shape.vvv .bfe f
  | 28 => Shape.vvv .bfeu f
  | 29 => Shape.vvv .bfi f
  | 30 => Shape.vv .popc f
  | 31 => Shape.vv .clz f
  | 32 => Shape.vv .brev f
  | 33 => Shape.vvvQ .divs f
  | 34 => Shape.vvvQ .divu f
  | 35 => Shape.vvvQ .rems f
  | 36 => Shape.vvvQ .remu f
  | 37 => Shape.vvv .addsat f
  | 38 => Shape.vvv .subsat f
  | 39 => Shape.vvv .bmix f
  | 40 => Shape.vvv .icmpEq f
  | 41 => Shape.vvv .icmpNe f
  | 42 => Shape.vvv .icmpLt f
  | 43 => Shape.vvv .icmpLe f
  | 44 => Shape.vvv .icmpLtu f
  | 45 => Shape.vvv .icmpLeu f
  | 46 => Shape.mvv .icmpmEq f
  | 47 => Shape.mvv .icmpmNe f
  | 48 => Shape.mvv .icmpmLt f
  | 49 => Shape.mvv .icmpmLe f
  | 50 => Shape.mvv .icmpmLtu f
  | 51 => Shape.mvv .icmpmLeu f
  | 52 => Shape.vvv .min64 f
  | 53 => Shape.vvv .max64 f
  | 54 => Shape.vvv .minu64 f
  | 55 => Shape.vvv .maxu64 f
  | _ => .error .reservedOp

def decodeClass3 (f : First) : Dec Instr :=
  match fld f.word 25 3 with
  | 0 => Shape.vi11 .addi f
  | 1 => Shape.vi11 .andi f
  | 2 => Shape.vi11 .ori f
  | 3 => Shape.vi11 .xori f
  | 4 => Shape.vi5 .shli f
  | 5 => Shape.vi5 .srli f
  | 6 => Shape.vi5 .srai f
  | 7 => Shape.vi11 .muli f
  | _ => .error .reservedOp

def decodeClass4 (f : First) : Dec Instr :=
  match fld f.word 22 6 with
  | 0 => Shape.vvv .fadd f
  | 1 => Shape.vvv .fsub f
  | 2 => Shape.vvv .fmul f
  | 3 => Shape.vvv .ffma f
  | 4 => Shape.vvv .ffms f
  | 5 => Shape.vvv .fnma f
  | 6 => Shape.vvv .fmin f
  | 7 => Shape.vvv .fmax f
  | 8 => Shape.vvv .fcmpEq f
  | 9 => Shape.vvv .fcmpNe f
  | 10 => Shape.vvv .fcmpLt f
  | 11 => Shape.vvv .fcmpLe f
  | 12 => Shape.vvv .fcmpUn f
  | 13 => Shape.vvv .fcmpOd f
  | 14 => Shape.mvv .fcmpmEq f
  | 15 => Shape.mvv .fcmpmNe f
  | 16 => Shape.mvv .fcmpmLt f
  | 17 => Shape.mvv .fcmpmLe f
  | 18 => Shape.mvv .fcmpmUn f
  | 19 => Shape.mvv .fcmpmOd f
  | 20 => Shape.vvv .hadd2 f
  | 21 => Shape.vvv .hmul2 f
  | 22 => Shape.vvv .hfma2 f
  | 23 => Shape.vvv .hmin2 f
  | 24 => Shape.vvv .hmax2 f
  | 25 => Shape.vvv .badd2 f
  | 26 => Shape.vvv .bmul2 f
  | 27 => Shape.vvv .bfma2 f
  | 28 => Shape.vvv .fdot2h f
  | 29 => Shape.vvv .fdot4q8 f
  | 30 => Shape.vvv .fcopysign f
  | 31 => Shape.vvv .fldexp f
  | 32 => Shape.vvvQ .fdiv f
  | _ => .error .reservedOp

def decodeClass5 (f : First) : Dec Instr :=
  match fld f.word 22 6 with
  | 0 => Shape.vv .frcp f
  | 1 => Shape.vv .frsq f
  | 2 => Shape.vv .fsqrt f
  | 3 => Shape.vv .fexp2 f
  | 4 => Shape.vv .flog2 f
  | 5 => Shape.vv .fsinp f
  | 6 => Shape.vv .fcosp f
  | 7 => Shape.vv .ffloor f
  | 8 => Shape.vv .fceil f
  | 9 => Shape.vv .ftrunc f
  | 10 => Shape.vv .frint f
  | 11 => Shape.vv .ffract f
  | 12 => Shape.vv .fclass f
  | 16 => Shape.vv .cvtF32S32 f
  | 17 => Shape.vv .cvtF32U32 f
  | 18 => Shape.vv .cvtS32F32 f
  | 19 => Shape.vv .cvtU32F32 f
  | 20 => Shape.vvv .packh f
  | 21 => Shape.vv .cvtF32HLo f
  | 22 => Shape.vv .cvtF32HHi f
  | 23 => Shape.vvv .packb f
  | 24 => Shape.vv .cvtF32BLo f
  | 25 => Shape.vv .cvtF32BHi f
  | 26 => Shape.vvv .pk8E4 f
  | 27 => Shape.vvv .pk8E5 f
  | 28 => Shape.vvv .unpk8E4 f
  | 29 => Shape.vvv .unpk8E5 f
  | _ => .error .reservedOp

def decodeClass6 (f : First) : Dec Instr :=
  match fld f.word 22 6 with
  | 0 => Shape.vvv .shfl f
  | 1 => Shape.vvv .shflup f
  | 2 => Shape.vvv .shfldn f
  | 3 => Shape.vvv .shflx f
  | 4 => Shape.uv .ballot f
  | 5 => Shape.vv .vany f
  | 6 => Shape.vv .vall f
  | 7 => Shape.vv .matchEq f
  | 8 => Shape.v .elect f
  | 9 => Shape.v .elects f
  | 10 => Shape.vv .redadd f
  | 11 => Shape.vv .redmin f
  | 12 => Shape.vv .redmax f
  | 13 => Shape.vv .redand f
  | 14 => Shape.vv .redor f
  | 15 => Shape.vv .redxor f
  | 16 => Shape.mmm .mand f
  | 17 => Shape.mmm .mor f
  | 18 => Shape.mmm .mxor f
  | 19 => Shape.mmm .mandn f
  | 20 => Shape.m .mact f
  | 21 => Shape.m .mclr f
  | 22 => Shape.um .mpop f
  | 23 => Shape.mv .mfromv f
  | 24 => Shape.vm .mtov f
  | 25 => Shape.um .mtos f
  | 26 => Shape.mu .mfroms f
  | 27 => Shape.vv .prefixadd f
  | _ => .error .reservedOp

def decodeClass7 (f : First) : Dec Instr :=
  match fld f.word 22 6 with
  | 0 => Shape.uuu .sadd f
  | 1 => Shape.uuu .ssub f
  | 2 => Shape.uuu .smul f
  | 3 => Shape.uuu .smad f
  | 4 => Shape.uuu .sand f
  | 5 => Shape.uuu .sor f
  | 6 => Shape.uuu .sxor f
  | 7 => Shape.uuu .sshl f
  | 8 => Shape.uuu .sshr f
  | 9 => Shape.uuu .ssra f
  | 10 => Shape.uuu .smin f
  | 11 => Shape.uuu .smax f
  | 12 => Shape.uuu .sminu f
  | 13 => Shape.uuu .smaxu f
  | 14 => Shape.uuu .sadd64 f
  | 15 => Shape.uuu .scmpEq f
  | 16 => Shape.uuu .scmpNe f
  | 17 => Shape.uuu .scmpLt f
  | 18 => Shape.uuu .scmpLe f
  | 19 => Shape.uuu .scmpLtu f
  | 20 => Shape.uuu .scmpLeu f
  | 21 => Shape.vu .sbcast f
  | 22 => Shape.uru .srdlane f
  | 23 => Shape.vuu .swrlane f
  | 24 => Shape.uuu .sdivu f
  | 25 => Shape.uuu .sremu f
  | 26 => Shape.uuu .ssel f
  | 27 => Shape.uuu .sfadd f
  | 28 => Shape.uuu .sfmul f
  | 29 => Shape.uuu .sffma f
  | 30 => Shape.uu .scvtf f
  | 31 => Shape.uu .scvti f
  | _ => .error .reservedOp

def decodeClass8 (f : First) : Dec Instr :=
  match fld f.word 24 4 with
  | 0 => Shape.mLd .ld f
  | 1 => Shape.mSt .st f
  | 2 => Shape.mLd .ldro f
  | 3 => Shape.mLdf .ldf f
  | 4 => Shape.mPref .pref f
  | 5 => Shape.mLdl .ldl f
  | 6 => Shape.mStl .stl f
  | 7 => Shape.mLdu .ldu f
  | 8 => Shape.mRecset .recset f
  | 9 => Shape.mRecget .recget f
  | 10 => Shape.mRecld .recld f
  | 11 => Shape.mSample .sample f
  | 12 =>
    if f.h = 0 then Shape.mCacheWb .cacheWb f
    else if f.h = 1 then Shape.mCacheInv .cacheInv f
    else .error .code
  | _ => .error .reservedOp

def decodeClass9 (f : First) : Dec Instr :=
  match fld f.word 24 4 with
  | 0 => Shape.pLd .ldp f
  | 1 => Shape.pSt .stp f
  | 2 => Shape.pLd .ldpd f
  | 3 => Shape.pSt .stpd f
  | 4 => Shape.pLd .ldc f
  | 5 => Shape.pSt .stc f
  | 6 => Shape.pAtom .atomp f
  | _ => .error .reservedOp

noncomputable def decodeClass10 (f : First) : Dec Instr :=
  match fld f.word 24 4 with
  | 0 => Shape.aAtom .atom f
  | 1 => Shape.aRed .red f
  | 2 =>
    if f.w = 0 then Shape.aFenceAcq .fenceAcq f
    else if f.w = 1 then Shape.aFenceRel .fenceRel f
    else if f.w = 2 then Shape.aFenceAr .fenceAr f
    else if f.w = 3 then Shape.aFenceSc .fenceSc f
    else .error .code
  | 3 => Shape.aFencero .fencero f
  | 4 => Shape.aWaitu .waitu f
  | 5 => Shape.aStrel .strel f
  | 6 => Shape.aLdacq .ldacq f
  | _ => .error .reservedOp

noncomputable def decodeClass11 (f : First) : Dec Instr :=
  match fld f.word 22 6 with
  | 0 => Shape.uuu .kick f
  | 1 => Shape.u .advance f
  | 2 => Shape.ku .finit f
  | 3 =>
    if f.d = 124 ∧ 16 ≤ f.a then Shape.kRank .farriveRank f
    else Shape.uk .farrive f
  | 4 => Shape.uku .fwait f
  | 5 => Shape.uku .ftest f
  | 6 => Shape.kuu .fexpect f
  | 7 => Shape.cu .waitc f
  | 8 => Shape.uc .rdcnt f
  | 9 => Shape.uCopy .copy f
  | _ => .error .reservedOp

noncomputable def decodeClass12 (f : First) : Dec Instr :=
  match fld f.word 22 6 with
  | 0 => Shape.sU .mshape f
  | 1 => Shape.xMlds .mlds f
  | 2 => Shape.xMldsg .mldsg f
  | 3 => Shape.xScale .mscale f
  | 4 => Shape.r0 .mswap f
  | 5 => Shape.xMma .mma f
  | 6 => Shape.xMmag .mmag f
  | 7 => Shape.xZero .mzero f
  | 8 =>
    if fld f.ext 6 3 = 0 then Shape.xMst .mst f
    else Shape.xPlane .mstPlane f
  | 9 =>
    if fld f.ext 6 3 = 0 then Shape.xMst .mld f
    else Shape.xPlane .mldPlane f
  | 10 => Shape.xStat .mstat f
  | 11 => Shape.r0 .mrel f
  | _ => .error .reservedOp

noncomputable def decodeClass13 (f : First) : Dec Instr :=
  match fld f.word 22 6 with
  | 0 => Shape.nev .nev f
  | 1 =>
    if f.b = 0 then Shape.netld0 .netldFetch f
    else if f.b = 1 then Shape.netld1 .netldDrop f
    else .error .code
  | 2 => Shape.uuP .emitc f
  | 3 => Shape.uP .raster f
  | 4 => Shape.uP .present f
  | _ => .error .reservedOp

noncomputable def decodeClass14 (f : First) : Dec Instr :=
  match fld f.word 22 6 with
  | 0 => Shape.trace .trace f
  | 1 => Shape.trace .traceocc f
  | 2 => Shape.uP .build f
  | 3 => Shape.uP .refit f
  | 4 => Shape.uPu .cairnw f
  | 5 => Shape.uPu .genpin f
  | 6 => Shape.uPu .gendrop f
  | 7 => Shape.refill .refill f
  | 8 => Shape.pixpush .pixpush f
  | 9 => Shape.nodedec .nodedec f
  | 10 => Shape.morton .morton f
  | _ => .error .reservedOp

noncomputable def decodeFirst (f : First) : Dec Instr :=
  match fld f.word 28 4 with
  | 0 => decodeClass0 f
  | 1 => decodeClass1 f
  | 2 => decodeClass2 f
  | 3 => decodeClass3 f
  | 4 => decodeClass4 f
  | 5 => decodeClass5 f
  | 6 => decodeClass6 f
  | 7 => decodeClass7 f
  | 8 => decodeClass8 f
  | 9 => decodeClass9 f
  | 10 => decodeClass10 f
  | 11 => decodeClass11 f
  | 12 => decodeClass12 f
  | 13 => decodeClass13 f
  | 14 => decodeClass14 f
  | _ => .error .reservedOp

/-! ## Framing (R108) -/

/-- The op of a class 1 to 7 or 0xB to 0xE word. -/
def op6 (w : Word) : Nat := fld w 22 6

/-- The fields of the first word that its class and op read as a source (R108, Tables 5.4 to 12.1); log entry 2 says how the
field tables were read, and that a field of mask, fold or counter numbers is no source. -/
def sourceCodes (w : Word) : List Nat :=
  let d := fld w 14 7
  let a := fld w 7 7
  let b := fld w 0 7
  let op := op6 w
  match fld w 28 4 with
  | 0 => if fld w 24 4 = 8 ∨ fld w 24 4 = 9 then [a] else []
  | 1 => match op with
    | 7 | 9 | 11 | 13 | 15 => [a]
    | 10 => [d, a]
    | _ => []
  | 2 => if 56 ≤ op then [] else match op with
    | 5 | 6 | 15 | 29 | 39 => [d, a, b]
    | 30 | 31 | 32 => [a]
    | _ => [a, b]
  | 3 => [fld w 11 7]
  | 4 => if 33 ≤ op then [] else match op with
    | 3 | 4 | 5 | 22 | 27 | 28 | 29 => [d, a, b]
    | _ => [a, b]
  | 5 => match op with
    | 26 | 27 => [d, a, b]
    | 20 | 23 | 28 | 29 => [a, b]
    | 13 | 14 | 15 => []
    | _ => if 30 ≤ op then [] else [a]
  | 6 => match op with
    | 0 | 1 | 2 | 3 => [a, b]
    | 4 | 5 | 6 | 7 | 10 | 11 | 12 | 13 | 14 | 15 | 23 | 26 | 27 => [a]
    | _ => []
  | 7 => if 32 ≤ op then [] else match op with
    | 3 | 26 | 29 => [d, a, b]
    | 21 | 30 | 31 => [a]
    | _ => [a, b]
  | 8 => match fld w 24 4 with
    | 1 | 6 => [a, b]
    | 0 | 2 | 3 | 4 | 5 | 7 | 8 | 10 | 11 | 12 => [b]
    | _ => []
  | 9 => match fld w 24 4 with
    | 1 | 3 | 5 | 6 => [d, a]
    | 0 | 2 | 4 => [a]
    | _ => []
  | 10 => match fld w 24 4 with
    | 0 | 1 | 5 => [a, b]
    | 4 | 6 => [b]
    | _ => []
  | 11 => match op with
    | 0 | 6 => [a, b]
    | 2 | 9 => [a]
    | 3 | 4 | 5 | 7 => [b]
    | _ => []
  | 12 => match op with
    | 1 | 2 | 5 | 6 | 8 | 9 => [a, b]
    | 0 | 3 => [a]
    | _ => []
  | 13 => match op with
    | 0 | 2 => [a, b]
    | 1 | 3 | 4 => [a]
    | _ => []
  | 14 => match op with
    | 4 | 5 | 6 | 8 | 9 | 10 => [a, b]
    | 0 | 1 | 2 | 3 => [a]
    | 7 => [b]
    | _ => []
  | _ => []

/-- Whether a literal word follows (R108). -/
def hasLit (w : Word) : Bool := (sourceCodes w).any (· == 127)

/-- Whether an extension word follows (Table 5.7). -/
def hasExt (w : Word) : Bool :=
  let h7 := fld w 14 3 == 7
  match fld w 28 4 with
  | 8 => h7
  | 9 => fld w 24 4 == 6
  | 10 => match fld w 24 4 with
    | 0 | 1 | 4 | 5 | 6 => true
    | _ => h7
  | 12 => match op6 w with
    | 1 | 2 | 5 | 6 | 8 | 9 => true
    | _ => false
  | 13 => op6 w == 0
  | 14 => match op6 w with
    | 0 | 1 | 7 => true
    | _ => false
  | _ => false

/-- The words of an instruction, from its first word alone (R108). -/
def frameLen (w : Word) : Nat := 1 + (hasExt w).toNat + (hasLit w).toNat

/-- A word framed with an extension word its op does not accept (R123, R198). -/
def extRefused (w : Word) : Bool :=
  match fld w 28 4 with
  | 10 => (fld w 24 4 == 2 || fld w 24 4 == 3) && hasExt w
  | _ => false

/-- Decode the words of one instruction, laid out as R108 says. -/
noncomputable def decode (ws : List Word) : Dec Instr :=
  match ws with
  | [] => .error .short
  | w :: rest =>
    if rest.length + 1 < frameLen w then .error .short
    else if extRefused w then .error .nonzeroField
    else do
      let i ← decodeFirst ⟨w, rest.headD 0, ws.getD (frameLen w - 1) 0⟩
      if i.wf then .ok i else .error .combination

/-- A word from four bytes, least significant first (R6). -/
def wordOfBytes (b0 b1 b2 b3 : Byte) : Word := b3 ++ b2 ++ b1 ++ b0

/-- Words from bytes in memory order; bytes that do not fill a word are left off. -/
def wordsOfBytes : List Byte → List Word
  | b0 :: b1 :: b2 :: b3 :: rest => wordOfBytes b0 b1 b2 b3 :: wordsOfBytes rest
  | [] | [_] | [_, _] | [_, _, _] => []

/-- Decode the bytes of one instruction as they lie in memory. -/
noncomputable def decodeBytes (bs : List Byte) : Dec Instr := decode (wordsOfBytes bs)

/-- The bytes of a word, least significant first (R6). -/
def bytesOfWord (w : Word) : List Byte :=
  [w.extractLsb' 0 8, w.extractLsb' 8 8, w.extractLsb' 16 8, w.extractLsb' 24 8]

/-- The three words an instruction word number spells, the first word least significant. -/
def tableWords (w : Nat) : List Word :=
  [BitVec.ofNat 32 w, BitVec.ofNat 32 (w / 2 ^ 32), BitVec.ofNat 32 (w / 2 ^ 64)]

/-- The instruction the decoder reads from `w`, numbered as the opcode table numbers bits; bits at or above `n` are 0. -/
noncomputable def decodeTableWord (n w : Nat) : Option Instr :=
  match decode (tableWords (w % 2 ^ n)) with
  | .ok i => some i
  | .error _ => none

/-! ## The encoder -/

/-- The first word of an instruction; an event has none and gives 0. -/
def Instr.word : Instr → Word
  | .bra off => encB 0 15 off.toNat
  | .brin m off => encB 1 m.val off.toNat
  | .brout m off => encB 2 m.val off.toNat
  | .bany m off => encB 3 m.val off.toNat
  | .ball m off => encB 4 m.val off.toNat
  | .call m off => encB 5 (optM m) off.toNat
  | .bsz s off => encBS 6 s.val off.toNat
  | .bsnz s off => encBS 7 s.val off.toNat
  | .jmpi a => encJ 8 15 a.code
  | .calli a => encJ 9 15 a.code
  | .ret => encJ 10 15 0
  | .join m => encJ 11 m.val 0
  | .leave m => encJ 12 m.val 0
  | .waitm m => encJ 13 m.val 0
  | .yield => encJ 14 15 0
  | .nop => encR 1 0 0 0 0 0
  | .trap code => encR 1 1 0 0 (code.toNat / 128) (code.toNat % 128)
  | .brk => encR 1 2 0 0 0 0
  | .exit => encR 1 3 0 0 0 0
  | .win k => encR 1 4 0 0 0 k.toNat
  | .winadd k => encR 1 5 0 0 0 k.toNat
  | .rdcr d cr => encR 1 6 0 d.val 0 cr.toNat
  | .rdcrD d cr => encR 1 6 0 d.val 1 cr.toNat
  | .wrcr a cr => encR 1 7 0 0 a.code cr.toNat
  | .rte => encR 1 8 0 0 0 0
  | .rdst d a item => encR 1 9 0 d.val a.code item.toNat
  | .wrst d a item => encR 1 10 0 d.code a.code item.toNat
  | .launch d a => encR 1 11 0 d.val a.val 0
  | .gbar => encR 1 12 0 0 0 0
  | .sleept a => encR 1 13 0 0 a.code 0
  | .sleeptAbs a => encR 1 13 0 0 a.code 1
  | .wake => encR 1 14 0 0 0 0
  | .setmodeFpmode a => encR 1 15 0 0 a.code 0
  | .setmodeFpflags a => encR 1 15 0 0 a.code 1
  | .setmodeOobflags a => encR 1 15 0 0 a.code 2
  | .setmodeDegencount a => encR 1 15 0 0 a.code 3
  | .add n d a b => encR 2 0 n.toNat d.code a.code b.code
  | .sub n d a b => encR 2 1 n.toNat d.code a.code b.code
  | .mul n d a b => encR 2 2 n.toNat d.code a.code b.code
  | .mulhi n d a b => encR 2 3 n.toNat d.code a.code b.code
  | .mulhiu n d a b => encR 2 4 n.toNat d.code a.code b.code
  | .mad n d a b => encR 2 5 n.toNat d.code a.code b.code
  | .madw n d a b => encR 2 6 n.toNat d.code a.code b.code
  | .add64 n d a b => encR 2 7 n.toNat d.code a.code b.code
  | .sub64 n d a b => encR 2 8 n.toNat d.code a.code b.code
  | .mul64 n d a b => encR 2 9 n.toNat d.code a.code b.code
  | .min n d a b => encR 2 10 n.toNat d.code a.code b.code
  | .max n d a b => encR 2 11 n.toNat d.code a.code b.code
  | .minu n d a b => encR 2 12 n.toNat d.code a.code b.code
  | .maxu n d a b => encR 2 13 n.toNat d.code a.code b.code
  | .absd n d a b => encR 2 14 n.toNat d.code a.code b.code
  | .csel n d a b => encR 2 15 n.toNat d.code a.code b.code
  | .and n d a b => encR 2 16 n.toNat d.code a.code b.code
  | .or n d a b => encR 2 17 n.toNat d.code a.code b.code
  | .xor n d a b => encR 2 18 n.toNat d.code a.code b.code
  | .andn n d a b => encR 2 19 n.toNat d.code a.code b.code
  | .shl n d a b => encR 2 20 n.toNat d.code a.code b.code
  | .srl n d a b => encR 2 21 n.toNat d.code a.code b.code
  | .sra n d a b => encR 2 22 n.toNat d.code a.code b.code
  | .rot n d a b => encR 2 23 n.toNat d.code a.code b.code
  | .shl64 n d a b => encR 2 24 n.toNat d.code a.code b.code
  | .srl64 n d a b => encR 2 25 n.toNat d.code a.code b.code
  | .sra64 n d a b => encR 2 26 n.toNat d.code a.code b.code
  | .bfe n d a b => encR 2 27 n.toNat d.code a.code b.code
  | .bfeu n d a b => encR 2 28 n.toNat d.code a.code b.code
  | .bfi n d a b => encR 2 29 n.toNat d.code a.code b.code
  | .popc n d a => encR 2 30 n.toNat d.code a.code 0
  | .clz n d a => encR 2 31 n.toNat d.code a.code 0
  | .brev n d a => encR 2 32 n.toNat d.code a.code 0
  | .divs d a b => encR 2 33 0 d.code a.code b.code
  | .divu d a b => encR 2 34 0 d.code a.code b.code
  | .rems d a b => encR 2 35 0 d.code a.code b.code
  | .remu d a b => encR 2 36 0 d.code a.code b.code
  | .addsat n d a b => encR 2 37 n.toNat d.code a.code b.code
  | .subsat n d a b => encR 2 38 n.toNat d.code a.code b.code
  | .bmix n d a b => encR 2 39 n.toNat d.code a.code b.code
  | .icmpEq n d a b => encR 2 40 n.toNat d.code a.code b.code
  | .icmpNe n d a b => encR 2 41 n.toNat d.code a.code b.code
  | .icmpLt n d a b => encR 2 42 n.toNat d.code a.code b.code
  | .icmpLe n d a b => encR 2 43 n.toNat d.code a.code b.code
  | .icmpLtu n d a b => encR 2 44 n.toNat d.code a.code b.code
  | .icmpLeu n d a b => encR 2 45 n.toNat d.code a.code b.code
  | .icmpmEq d a b => encR 2 46 0 d.val a.code b.code
  | .icmpmNe d a b => encR 2 47 0 d.val a.code b.code
  | .icmpmLt d a b => encR 2 48 0 d.val a.code b.code
  | .icmpmLe d a b => encR 2 49 0 d.val a.code b.code
  | .icmpmLtu d a b => encR 2 50 0 d.val a.code b.code
  | .icmpmLeu d a b => encR 2 51 0 d.val a.code b.code
  | .min64 n d a b => encR 2 52 n.toNat d.code a.code b.code
  | .max64 n d a b => encR 2 53 n.toNat d.code a.code b.code
  | .minu64 n d a b => encR 2 54 n.toNat d.code a.code b.code
  | .maxu64 n d a b => encR 2 55 n.toNat d.code a.code b.code
  | .addi d a k => encI 0 d.code a.code k.toNat
  | .andi d a k => encI 1 d.code a.code k.toNat
  | .ori d a k => encI 2 d.code a.code k.toNat
  | .xori d a k => encI 3 d.code a.code k.toNat
  | .shli d a k => encI 4 d.code a.code k.toNat
  | .srli d a k => encI 5 d.code a.code k.toNat
  | .srai d a k => encI 6 d.code a.code k.toNat
  | .muli d a k => encI 7 d.code a.code k.toNat
  | .fadd n d a b => encR 4 0 n.toNat d.code a.code b.code
  | .fsub n d a b => encR 4 1 n.toNat d.code a.code b.code
  | .fmul n d a b => encR 4 2 n.toNat d.code a.code b.code
  | .ffma n d a b => encR 4 3 n.toNat d.code a.code b.code
  | .ffms n d a b => encR 4 4 n.toNat d.code a.code b.code
  | .fnma n d a b => encR 4 5 n.toNat d.code a.code b.code
  | .fmin n d a b => encR 4 6 n.toNat d.code a.code b.code
  | .fmax n d a b => encR 4 7 n.toNat d.code a.code b.code
  | .fcmpEq n d a b => encR 4 8 n.toNat d.code a.code b.code
  | .fcmpNe n d a b => encR 4 9 n.toNat d.code a.code b.code
  | .fcmpLt n d a b => encR 4 10 n.toNat d.code a.code b.code
  | .fcmpLe n d a b => encR 4 11 n.toNat d.code a.code b.code
  | .fcmpUn n d a b => encR 4 12 n.toNat d.code a.code b.code
  | .fcmpOd n d a b => encR 4 13 n.toNat d.code a.code b.code
  | .fcmpmEq d a b => encR 4 14 0 d.val a.code b.code
  | .fcmpmNe d a b => encR 4 15 0 d.val a.code b.code
  | .fcmpmLt d a b => encR 4 16 0 d.val a.code b.code
  | .fcmpmLe d a b => encR 4 17 0 d.val a.code b.code
  | .fcmpmUn d a b => encR 4 18 0 d.val a.code b.code
  | .fcmpmOd d a b => encR 4 19 0 d.val a.code b.code
  | .hadd2 n d a b => encR 4 20 n.toNat d.code a.code b.code
  | .hmul2 n d a b => encR 4 21 n.toNat d.code a.code b.code
  | .hfma2 n d a b => encR 4 22 n.toNat d.code a.code b.code
  | .hmin2 n d a b => encR 4 23 n.toNat d.code a.code b.code
  | .hmax2 n d a b => encR 4 24 n.toNat d.code a.code b.code
  | .badd2 n d a b => encR 4 25 n.toNat d.code a.code b.code
  | .bmul2 n d a b => encR 4 26 n.toNat d.code a.code b.code
  | .bfma2 n d a b => encR 4 27 n.toNat d.code a.code b.code
  | .fdot2h n d a b => encR 4 28 n.toNat d.code a.code b.code
  | .fdot4q8 n d a b => encR 4 29 n.toNat d.code a.code b.code
  | .fcopysign n d a b => encR 4 30 n.toNat d.code a.code b.code
  | .fldexp n d a b => encR 4 31 n.toNat d.code a.code b.code
  | .fdiv d a b => encR 4 32 0 d.code a.code b.code
  | .frcp n d a => encR 5 0 n.toNat d.code a.code 0
  | .frsq n d a => encR 5 1 n.toNat d.code a.code 0
  | .fsqrt n d a => encR 5 2 n.toNat d.code a.code 0
  | .fexp2 n d a => encR 5 3 n.toNat d.code a.code 0
  | .flog2 n d a => encR 5 4 n.toNat d.code a.code 0
  | .fsinp n d a => encR 5 5 n.toNat d.code a.code 0
  | .fcosp n d a => encR 5 6 n.toNat d.code a.code 0
  | .ffloor n d a => encR 5 7 n.toNat d.code a.code 0
  | .fceil n d a => encR 5 8 n.toNat d.code a.code 0
  | .ftrunc n d a => encR 5 9 n.toNat d.code a.code 0
  | .frint n d a => encR 5 10 n.toNat d.code a.code 0
  | .ffract n d a => encR 5 11 n.toNat d.code a.code 0
  | .fclass n d a => encR 5 12 n.toNat d.code a.code 0
  | .cvtF32S32 n d a => encR 5 16 n.toNat d.code a.code 0
  | .cvtF32U32 n d a => encR 5 17 n.toNat d.code a.code 0
  | .cvtS32F32 n d a => encR 5 18 n.toNat d.code a.code 0
  | .cvtU32F32 n d a => encR 5 19 n.toNat d.code a.code 0
  | .packh n d a b => encR 5 20 n.toNat d.code a.code b.code
  | .cvtF32HLo n d a => encR 5 21 n.toNat d.code a.code 0
  | .cvtF32HHi n d a => encR 5 22 n.toNat d.code a.code 0
  | .packb n d a b => encR 5 23 n.toNat d.code a.code b.code
  | .cvtF32BLo n d a => encR 5 24 n.toNat d.code a.code 0
  | .cvtF32BHi n d a => encR 5 25 n.toNat d.code a.code 0
  | .pk8E4 n d a b => encR 5 26 n.toNat d.code a.code b.code
  | .pk8E5 n d a b => encR 5 27 n.toNat d.code a.code b.code
  | .unpk8E4 n d a b => encR 5 28 n.toNat d.code a.code b.code
  | .unpk8E5 n d a b => encR 5 29 n.toNat d.code a.code b.code
  | .shfl n d a b => encR 6 0 n.toNat d.code a.code b.code
  | .shflup n d a b => encR 6 1 n.toNat d.code a.code b.code
  | .shfldn n d a b => encR 6 2 n.toNat d.code a.code b.code
  | .shflx n d a b => encR 6 3 n.toNat d.code a.code b.code
  | .ballot d a => encR 6 4 0 d.code a.code 0
  | .vany n d a => encR 6 5 n.toNat d.code a.code 0
  | .vall n d a => encR 6 6 n.toNat d.code a.code 0
  | .matchEq n d a => encR 6 7 n.toNat d.code a.code 0
  | .elect n d => encR 6 8 n.toNat d.code 0 0
  | .elects n d => encR 6 9 n.toNat d.code 0 0
  | .redadd n d a => encR 6 10 n.toNat d.code a.code 0
  | .redmin n d a => encR 6 11 n.toNat d.code a.code 0
  | .redmax n d a => encR 6 12 n.toNat d.code a.code 0
  | .redand n d a => encR 6 13 n.toNat d.code a.code 0
  | .redor n d a => encR 6 14 n.toNat d.code a.code 0
  | .redxor n d a => encR 6 15 n.toNat d.code a.code 0
  | .mand d a b => encR 6 16 0 d.val a.code b.code
  | .mor d a b => encR 6 17 0 d.val a.code b.code
  | .mxor d a b => encR 6 18 0 d.val a.code b.code
  | .mandn d a b => encR 6 19 0 d.val a.code b.code
  | .mact d => encR 6 20 0 d.val 0 0
  | .mclr d => encR 6 21 0 d.val 0 0
  | .mpop d a => encR 6 22 0 d.code a.code 0
  | .mfromv d a => encR 6 23 0 d.val a.code 0
  | .mtov n d a => encR 6 24 n.toNat d.code a.code 0
  | .mtos d a => encR 6 25 0 d.code a.code 0
  | .mfroms d a => encR 6 26 0 d.val a.code 0
  | .prefixadd n d a => encR 6 27 n.toNat d.code a.code 0
  | .sadd d a b => encR 7 0 0 d.code a.code b.code
  | .ssub d a b => encR 7 1 0 d.code a.code b.code
  | .smul d a b => encR 7 2 0 d.code a.code b.code
  | .smad d a b => encR 7 3 0 d.code a.code b.code
  | .sand d a b => encR 7 4 0 d.code a.code b.code
  | .sor d a b => encR 7 5 0 d.code a.code b.code
  | .sxor d a b => encR 7 6 0 d.code a.code b.code
  | .sshl d a b => encR 7 7 0 d.code a.code b.code
  | .sshr d a b => encR 7 8 0 d.code a.code b.code
  | .ssra d a b => encR 7 9 0 d.code a.code b.code
  | .smin d a b => encR 7 10 0 d.code a.code b.code
  | .smax d a b => encR 7 11 0 d.code a.code b.code
  | .sminu d a b => encR 7 12 0 d.code a.code b.code
  | .smaxu d a b => encR 7 13 0 d.code a.code b.code
  | .sadd64 d a b => encR 7 14 0 d.code a.code b.code
  | .scmpEq d a b => encR 7 15 0 d.code a.code b.code
  | .scmpNe d a b => encR 7 16 0 d.code a.code b.code
  | .scmpLt d a b => encR 7 17 0 d.code a.code b.code
  | .scmpLe d a b => encR 7 18 0 d.code a.code b.code
  | .scmpLtu d a b => encR 7 19 0 d.code a.code b.code
  | .scmpLeu d a b => encR 7 20 0 d.code a.code b.code
  | .sbcast d a => encR 7 21 0 d.code a.code 0
  | .srdlane d a b => encR 7 22 0 d.code a.val b.code
  | .swrlane d a b => encR 7 23 0 d.code a.code b.code
  | .sdivu d a b => encR 7 24 0 d.code a.code b.code
  | .sremu d a b => encR 7 25 0 d.code a.code b.code
  | .ssel d a b => encR 7 26 0 d.code a.code b.code
  | .sfadd d a b => encR 7 27 0 d.code a.code b.code
  | .sfmul d a b => encR 7 28 0 d.code a.code b.code
  | .sffma d a b => encR 7 29 0 d.code a.code b.code
  | .scvtf d a => encR 7 30 0 d.code a.code 0
  | .scvti d a => encR 7 31 0 d.code a.code 0
  | .ld q w x d a => encM 8 0 q.val w.code x.h d.code a.code
  | .st q w x d a => encM 8 1 q.val w.code x.h d.code a.code
  | .ldro q w x d a => encM 8 2 q.val w.code x.h d.code a.code
  | .ldf q x d a => encM 8 3 q.val 2 x.h d.code a.code
  | .pref q w x a => encM 8 4 q.val w.code x.h 0 a.code
  | .ldl w x d a => encM 8 5 0 w.code x.h d.code a.code
  | .stl w x d a => encM 8 6 0 w.code x.h d.code a.code
  | .ldu q w x d a => encM 8 7 q.val w.code x.h d.val a.code
  | .recset q a => encM 8 8 q.val 0 0 0 a.val
  | .recget q d => encM 8 9 q.val 0 0 d.val 0
  | .recld q a => encM 8 10 q.val 0 0 0 a.val
  | .sample q t x d a => encM 8 11 q.val t.code x.h d.val a.val
  | .cacheWb q w a => encM 8 12 q.val w.code 0 0 a.code
  | .cacheInv q w a => encM 8 12 q.val w.code 1 0 a.code
  | .ldp w d a off => encP 0 w.code d.code a.code off.toNat
  | .stp w d a off => encP 1 w.code d.code a.code off.toNat
  | .ldpd w d a off => encP 2 w.code d.code a.code off.toNat
  | .stpd w d a off => encP 3 w.code d.code a.code off.toNat
  | .ldc w d a off => encP 4 w.code d.code a.code off.toNat
  | .stc w d a off => encP 5 w.code d.code a.code off.toNat
  | .atomp op d a off _ => encP 6 (if op.wide then 3 else 2) d.val a.code off.toNat
  | .atom q x d a => encM 10 0 q.val (if x.op.wide then 3 else 2) 7 d.val a.code
  | .red q x d a => encM 10 1 q.val (if x.op.wide then 3 else 2) 7 d.code a.code
  | .fenceAcq scope => encM 10 2 scope.code 0 0 0 0
  | .fenceRel scope => encM 10 2 scope.code 1 0 0 0
  | .fenceAr scope => encM 10 2 scope.code 2 0 0 0
  | .fenceSc scope => encM 10 2 scope.code 3 0 0 0
  | .fencero scope => encM 10 3 scope.code 0 0 0 0
  | .waitu q wide d a _ => encM 10 4 q.val (if wide then 3 else 2) 7 d.val a.code
  | .strel q w _ d a => encM 10 5 q.val w.code 7 d.code a.code
  | .ldacq q w _ d a => encM 10 6 q.val w.code 7 d.code a.code
  | .kick d a b => encR 11 0 0 d.code a.code b.code
  | .advance d => encR 11 1 0 d.code 0 0
  | .finit k a => encR 11 2 0 k.val a.code 0
  | .farrive d k => encR 11 3 0 d.code k.val 0
  | .farriveRank k b => encR 11 3 0 124 (16 + k.val) b.code
  | .fwait d k b => encR 11 4 0 d.code k.val b.code
  | .ftest d k b => encR 11 5 0 d.code k.val b.code
  | .fexpect k a b => encR 11 6 0 k.val a.code b.code
  | .waitc c b => encR 11 7 0 0 c.val b.code
  | .rdcnt d c => encR 11 8 0 d.code c.val 0
  | .copy d a => encR 11 9 0 d.code a.val 0
  | .mshape a => encR 12 0 0 0 a.code 0
  | .mlds a b _ => encR 12 1 0 0 a.code b.code
  | .mldsg a b _ _ => encR 12 2 0 0 a.code b.code
  | .mscale a int4 g => encR 12 3 0 0 a.code ((if int4 then 4 else 0) + g.code)
  | .mswap => encR 12 4 0 0 0 0
  | .mma t a b _ => encR 12 5 0 t.val a.code b.code
  | .mmag t a b _ _ => encR 12 6 0 t.val a.code b.code
  | .mzero t acc => encR 12 7 0 t.val acc.code 0
  | .mst t a b _ => encR 12 8 0 t.val a.code b.code
  | .mld t a b _ => encR 12 9 0 t.val a.code b.code
  | .mstPlane a _ => encR 12 8 0 0 a.code 124
  | .mldPlane a _ => encR 12 9 0 0 a.code 124
  | .mstat d clear => encR 12 10 0 d.code clear.toNat 0
  | .mrel => encR 12 11 0 0 0 0
  | .nev d a b _ => encR 13 0 0 d.val a.code b.code
  | .netldFetch a => encR 13 1 0 0 a.code 0
  | .netldDrop a => encR 13 1 0 0 a.code 1
  | .emitc d a b => encR 13 2 0 d.code a.code b.val
  | .raster d a => encR 13 3 0 d.code a.val 0
  | .present d a => encR 13 4 0 d.code a.val 0
  | .trace d a _ => encR 14 0 0 d.val a.val 0
  | .traceocc d a _ => encR 14 1 0 d.val a.val 0
  | .build d a => encR 14 2 0 d.code a.val 0
  | .refit d a => encR 14 3 0 d.code a.val 0
  | .cairnw d a b => encR 14 4 0 d.code a.val b.code
  | .genpin d a b => encR 14 5 0 d.code a.val b.code
  | .gendrop d a b => encR 14 6 0 d.code a.val b.code
  | .refill d a b _ => encR 14 7 0 d.val (match a with | some m => m.val | none => 14) b.val
  | .pixpush d a b => encR 14 8 0 d.code a.code b.val
  | .nodedec d a b => encR 14 9 0 d.val a.val b.val
  | .morton d a b => encR 14 10 0 d.val a.val b.val
  | .pathStarvation _ => 0
  | .readyWaveStarvation _ => 0
  | .laneBurstCount _ _ => 0
  | .loadReturn _ _ => 0
  | .divideResult _ _ => 0
  | .fdivResult _ _ => 0
  | .launchStatus _ _ => 0
  | .committedStorePerform _ _ => 0
  | .paddockAccessPerform _ _ => 0
  | .sideLogReplay _ _ => 0
  | .tetherArm _ => 0
  | .tetherWake _ => 0
  | .tetherTimeout _ => 0
  | .tetherArmRetry _ => 0
  | .sleeptDeadline _ => 0
  | .copyRowComplete _ _ => 0
  | .copyRequestFail _ _ => 0
  | .remoteArrivalApply _ => 0
  | .fwaitWake _ => 0
  | .arrayFillComplete _ _ => 0
  | .mmaRowComplete _ _ => 0
  | .arrayOpComplete _ _ => 0
  | .arraySerialOpStart _ _ => 0
  | .bandWake _ _ => 0
  | .bandIdleOff _ _ => 0
  | .flockTileClose _ _ => 0
  | .flockTileComplete _ _ => 0
  | .nevHandleComplete _ _ => 0
  | .cairnPark _ => 0
  | .cairnResume _ => 0
  | .cairnTimeout _ => 0
  | .rayEnd _ => 0
  | .buildStart _ => 0
  | .buildSlotTake _ => 0
  | .cairnRaise _ _ => 0
  | .treeLink _ => 0
  | .buildFail _ _ => 0
  | .compactorReclaim _ _ _ => 0
  | .compactorFree _ _ _ => 0
  | .rasterStart _ => 0
  | .rasterSmallqResume _ => 0
  | .rasterTileFlush _ _ => 0
  | .rasterTileFinish _ _ => 0
  | .rasterDone _ => 0
  | .presentImageRead _ => 0
  | .collieDecision _ => 0
  | .streamSlotSend _ => 0
  | .hostQueueTake _ => 0
  | .childLaunchTake _ => 0
  | .waitEventMet _ => 0
  | .drovePlace _ _ => 0
  | .penClaimComplete _ => 0
  | .claimTimeout _ => 0
  | .backfillStop _ _ => 0
  | .timedStart _ => 0
  | .timesliceExpire _ => 0
  | .debugPreempt _ => 0
  | .thermalMigrate _ _ => 0
  | .trapEntry _ => 0
  | .savedTetherWake _ => 0
  | .savedWaveDeadline _ _ => 0
  | .droveRestore _ _ => 0
  | .waveEnd _ => 0
  | .gridRetire _ => 0
  | .contextEnable _ => 0
  | .contextKill _ => 0
  | .schedulerBlockRead => 0
  | .policyBlockRead => 0
  | .powerBlockRead => 0
  | .fabricBlockRead => 0
  | .pagerTableRead _ => 0
  | .inval => 0
  | .invalComplete _ => 0
  | .migrate => 0
  | .dup => 0
  | .undup => 0
  | .hotcfg => 0
  | .frames => 0
  | .brand => 0
  | .attest => 0
  | .upcall _ _ _ => 0
  | .pagerWaitTimeout _ _ => 0
  | .pagerMap _ _ => 0
  | .pagerRefuse _ _ => 0
  | .hotIntervalEnd _ => 0
  | .dupCollapseAck _ _ => 0
  | .hostRdmaWrite _ _ => 0
  | .hostRdmaRead _ _ => 0
  | .hostRdmaAtomic _ _ _ _ => 0
  | .flitReceive _ _ _ _ _ => 0
  | .linkRetrainDone _ _ => 0
  | .eccCorrected _ _ _ => 0
  | .uncorrectableError _ _ _ => 0
  | .selftestStart _ _ => 0
  | .selftestResult _ _ _ => 0
  | .hirselMessageReceive _ _ _ _ _ _ _ => 0
  | .hirselAck _ _ => 0
  | .hirselRetransmit _ => 0
  | .fabricTimeout _ => 0
  | .ptpMessage _ => 0
  | .announceTimeout => 0
  | .budgetMessage _ _ _ => 0
  | .budgetEpoch => 0
  | .powerLimitStretch _ => 0
  | .currentLimitStretch _ => 0
  | .droopStretch _ => 0
  | .thermalTrip _ => 0
  | .thermalTripEnd _ => 0
  | .firmwareFreeze => 0
  | .watchdogFloor => 0
  | .firmwareSignal _ => 0
  | .firmwareSlotTakeover => 0
  | .firmwareVerify _ _ _ => 0
  | .functionReady _ => 0
  | .hostWriteAck _ => 0
  | .portDown _ => 0
  | .portUp _ => 0
  | .portmodeDrainDone => 0
  | .clockStretchEnd _ => 0
  | .bandWakeRateWaitEnd _ _ => 0

/-- The extension word of an instruction, where it carries one. -/
def Instr.extWords : Instr → List Word
  | .bra _ => []
  | .brin _ _ => []
  | .brout _ _ => []
  | .bany _ _ => []
  | .ball _ _ => []
  | .call _ _ => []
  | .bsz _ _ => []
  | .bsnz _ _ => []
  | .jmpi _ => []
  | .calli _ => []
  | .ret => []
  | .join _ => []
  | .leave _ => []
  | .waitm _ => []
  | .yield => []
  | .nop => []
  | .trap _ => []
  | .brk => []
  | .exit => []
  | .win _ => []
  | .winadd _ => []
  | .rdcr _ _ => []
  | .rdcrD _ _ => []
  | .wrcr _ _ => []
  | .rte => []
  | .rdst _ _ _ => []
  | .wrst _ _ _ => []
  | .launch _ _ => []
  | .gbar => []
  | .sleept _ => []
  | .sleeptAbs _ => []
  | .wake => []
  | .setmodeFpmode _ => []
  | .setmodeFpflags _ => []
  | .setmodeOobflags _ => []
  | .setmodeDegencount _ => []
  | .add _ _ _ _ => []
  | .sub _ _ _ _ => []
  | .mul _ _ _ _ => []
  | .mulhi _ _ _ _ => []
  | .mulhiu _ _ _ _ => []
  | .mad _ _ _ _ => []
  | .madw _ _ _ _ => []
  | .add64 _ _ _ _ => []
  | .sub64 _ _ _ _ => []
  | .mul64 _ _ _ _ => []
  | .min _ _ _ _ => []
  | .max _ _ _ _ => []
  | .minu _ _ _ _ => []
  | .maxu _ _ _ _ => []
  | .absd _ _ _ _ => []
  | .csel _ _ _ _ => []
  | .and _ _ _ _ => []
  | .or _ _ _ _ => []
  | .xor _ _ _ _ => []
  | .andn _ _ _ _ => []
  | .shl _ _ _ _ => []
  | .srl _ _ _ _ => []
  | .sra _ _ _ _ => []
  | .rot _ _ _ _ => []
  | .shl64 _ _ _ _ => []
  | .srl64 _ _ _ _ => []
  | .sra64 _ _ _ _ => []
  | .bfe _ _ _ _ => []
  | .bfeu _ _ _ _ => []
  | .bfi _ _ _ _ => []
  | .popc _ _ _ => []
  | .clz _ _ _ => []
  | .brev _ _ _ => []
  | .divs _ _ _ => []
  | .divu _ _ _ => []
  | .rems _ _ _ => []
  | .remu _ _ _ => []
  | .addsat _ _ _ _ => []
  | .subsat _ _ _ _ => []
  | .bmix _ _ _ _ => []
  | .icmpEq _ _ _ _ => []
  | .icmpNe _ _ _ _ => []
  | .icmpLt _ _ _ _ => []
  | .icmpLe _ _ _ _ => []
  | .icmpLtu _ _ _ _ => []
  | .icmpLeu _ _ _ _ => []
  | .icmpmEq _ _ _ => []
  | .icmpmNe _ _ _ => []
  | .icmpmLt _ _ _ => []
  | .icmpmLe _ _ _ => []
  | .icmpmLtu _ _ _ => []
  | .icmpmLeu _ _ _ => []
  | .min64 _ _ _ _ => []
  | .max64 _ _ _ _ => []
  | .minu64 _ _ _ _ => []
  | .maxu64 _ _ _ _ => []
  | .addi _ _ _ => []
  | .andi _ _ _ => []
  | .ori _ _ _ => []
  | .xori _ _ _ => []
  | .shli _ _ _ => []
  | .srli _ _ _ => []
  | .srai _ _ _ => []
  | .muli _ _ _ => []
  | .fadd _ _ _ _ => []
  | .fsub _ _ _ _ => []
  | .fmul _ _ _ _ => []
  | .ffma _ _ _ _ => []
  | .ffms _ _ _ _ => []
  | .fnma _ _ _ _ => []
  | .fmin _ _ _ _ => []
  | .fmax _ _ _ _ => []
  | .fcmpEq _ _ _ _ => []
  | .fcmpNe _ _ _ _ => []
  | .fcmpLt _ _ _ _ => []
  | .fcmpLe _ _ _ _ => []
  | .fcmpUn _ _ _ _ => []
  | .fcmpOd _ _ _ _ => []
  | .fcmpmEq _ _ _ => []
  | .fcmpmNe _ _ _ => []
  | .fcmpmLt _ _ _ => []
  | .fcmpmLe _ _ _ => []
  | .fcmpmUn _ _ _ => []
  | .fcmpmOd _ _ _ => []
  | .hadd2 _ _ _ _ => []
  | .hmul2 _ _ _ _ => []
  | .hfma2 _ _ _ _ => []
  | .hmin2 _ _ _ _ => []
  | .hmax2 _ _ _ _ => []
  | .badd2 _ _ _ _ => []
  | .bmul2 _ _ _ _ => []
  | .bfma2 _ _ _ _ => []
  | .fdot2h _ _ _ _ => []
  | .fdot4q8 _ _ _ _ => []
  | .fcopysign _ _ _ _ => []
  | .fldexp _ _ _ _ => []
  | .fdiv _ _ _ => []
  | .frcp _ _ _ => []
  | .frsq _ _ _ => []
  | .fsqrt _ _ _ => []
  | .fexp2 _ _ _ => []
  | .flog2 _ _ _ => []
  | .fsinp _ _ _ => []
  | .fcosp _ _ _ => []
  | .ffloor _ _ _ => []
  | .fceil _ _ _ => []
  | .ftrunc _ _ _ => []
  | .frint _ _ _ => []
  | .ffract _ _ _ => []
  | .fclass _ _ _ => []
  | .cvtF32S32 _ _ _ => []
  | .cvtF32U32 _ _ _ => []
  | .cvtS32F32 _ _ _ => []
  | .cvtU32F32 _ _ _ => []
  | .packh _ _ _ _ => []
  | .cvtF32HLo _ _ _ => []
  | .cvtF32HHi _ _ _ => []
  | .packb _ _ _ _ => []
  | .cvtF32BLo _ _ _ => []
  | .cvtF32BHi _ _ _ => []
  | .pk8E4 _ _ _ _ => []
  | .pk8E5 _ _ _ _ => []
  | .unpk8E4 _ _ _ _ => []
  | .unpk8E5 _ _ _ _ => []
  | .shfl _ _ _ _ => []
  | .shflup _ _ _ _ => []
  | .shfldn _ _ _ _ => []
  | .shflx _ _ _ _ => []
  | .ballot _ _ => []
  | .vany _ _ _ => []
  | .vall _ _ _ => []
  | .matchEq _ _ _ => []
  | .elect _ _ => []
  | .elects _ _ => []
  | .redadd _ _ _ => []
  | .redmin _ _ _ => []
  | .redmax _ _ _ => []
  | .redand _ _ _ => []
  | .redor _ _ _ => []
  | .redxor _ _ _ => []
  | .mand _ _ _ => []
  | .mor _ _ _ => []
  | .mxor _ _ _ => []
  | .mandn _ _ _ => []
  | .mact _ => []
  | .mclr _ => []
  | .mpop _ _ => []
  | .mfromv _ _ => []
  | .mtov _ _ _ => []
  | .mtos _ _ => []
  | .mfroms _ _ => []
  | .prefixadd _ _ _ => []
  | .sadd _ _ _ => []
  | .ssub _ _ _ => []
  | .smul _ _ _ => []
  | .smad _ _ _ => []
  | .sand _ _ _ => []
  | .sor _ _ _ => []
  | .sxor _ _ _ => []
  | .sshl _ _ _ => []
  | .sshr _ _ _ => []
  | .ssra _ _ _ => []
  | .smin _ _ _ => []
  | .smax _ _ _ => []
  | .sminu _ _ _ => []
  | .smaxu _ _ _ => []
  | .sadd64 _ _ _ => []
  | .scmpEq _ _ _ => []
  | .scmpNe _ _ _ => []
  | .scmpLt _ _ _ => []
  | .scmpLe _ _ _ => []
  | .scmpLtu _ _ _ => []
  | .scmpLeu _ _ _ => []
  | .sbcast _ _ => []
  | .srdlane _ _ _ => []
  | .swrlane _ _ _ => []
  | .sdivu _ _ _ => []
  | .sremu _ _ _ => []
  | .ssel _ _ _ => []
  | .sfadd _ _ _ => []
  | .sfmul _ _ _ => []
  | .sffma _ _ _ => []
  | .scvtf _ _ => []
  | .scvti _ _ => []
  | .ld _ _ x _ _ => x.words
  | .st _ _ x _ _ => x.words
  | .ldro _ _ x _ _ => x.words
  | .ldf _ x _ _ => x.words
  | .pref _ _ x _ => x.words
  | .ldl _ x _ _ => x.words
  | .stl _ x _ _ => x.words
  | .ldu _ _ x _ _ => x.words
  | .recset _ _ => []
  | .recget _ _ => []
  | .recld _ _ => []
  | .sample _ _ x _ _ => x.words
  | .cacheWb _ _ _ => []
  | .cacheInv _ _ _ => []
  | .ldp _ _ _ _ => []
  | .stp _ _ _ _ => []
  | .ldpd _ _ _ _ => []
  | .stpd _ _ _ _ => []
  | .ldc _ _ _ _ => []
  | .stc _ _ _ _ => []
  | .atomp op _ _ _ spare => [BitVec.ofNat 32 (op.code * 2 ^ 28 + spare.toNat * 2 ^ 22)]
  | .atom _ x _ _ => [x.word]
  | .red _ x _ _ => [x.word]
  | .fenceAcq _ => []
  | .fenceRel _ => []
  | .fenceAr _ => []
  | .fenceSc _ => []
  | .fencero _ => []
  | .waitu _ _ _ _ x => [x.word]
  | .strel _ _ x _ _ => [x.word]
  | .ldacq _ _ x _ _ => [x.word]
  | .kick _ _ _ => []
  | .advance _ => []
  | .finit _ _ => []
  | .farrive _ _ => []
  | .farriveRank _ _ => []
  | .fwait _ _ _ => []
  | .ftest _ _ _ => []
  | .fexpect _ _ _ => []
  | .waitc _ _ => []
  | .rdcnt _ _ => []
  | .copy _ _ => []
  | .mshape _ => []
  | .mlds _ _ f => [f.word 0]
  | .mldsg _ _ f q => [f.word q.val]
  | .mscale _ _ _ => []
  | .mswap => []
  | .mma _ _ _ x => [x.word 0]
  | .mmag _ _ _ x q => [x.word q.val]
  | .mzero _ _ => []
  | .mst _ _ _ x => [x.word]
  | .mld _ _ _ x => [x.word]
  | .mstPlane _ k => [encMat 0 0 0 0 0 0 0 0 k.code]
  | .mldPlane _ k => [encMat 0 0 0 0 0 0 0 0 k.code]
  | .mstat _ _ => []
  | .mrel => []
  | .nev _ _ _ x => [x.word]
  | .netldFetch _ => []
  | .netldDrop _ => []
  | .emitc _ _ _ => []
  | .raster _ _ => []
  | .present _ _ => []
  | .trace _ _ x => [x.word]
  | .traceocc _ _ x => [x.word]
  | .build _ _ => []
  | .refit _ _ => []
  | .cairnw _ _ _ => []
  | .genpin _ _ _ => []
  | .gendrop _ _ _ => []
  | .refill _ _ _ outm => [BitVec.ofNat 32 (optM outm * 2 ^ 28)]
  | .pixpush _ _ _ => []
  | .nodedec _ _ _ => []
  | .morton _ _ _ => []
  | .pathStarvation _ => []
  | .readyWaveStarvation _ => []
  | .laneBurstCount _ _ => []
  | .loadReturn _ _ => []
  | .divideResult _ _ => []
  | .fdivResult _ _ => []
  | .launchStatus _ _ => []
  | .committedStorePerform _ _ => []
  | .paddockAccessPerform _ _ => []
  | .sideLogReplay _ _ => []
  | .tetherArm _ => []
  | .tetherWake _ => []
  | .tetherTimeout _ => []
  | .tetherArmRetry _ => []
  | .sleeptDeadline _ => []
  | .copyRowComplete _ _ => []
  | .copyRequestFail _ _ => []
  | .remoteArrivalApply _ => []
  | .fwaitWake _ => []
  | .arrayFillComplete _ _ => []
  | .mmaRowComplete _ _ => []
  | .arrayOpComplete _ _ => []
  | .arraySerialOpStart _ _ => []
  | .bandWake _ _ => []
  | .bandIdleOff _ _ => []
  | .flockTileClose _ _ => []
  | .flockTileComplete _ _ => []
  | .nevHandleComplete _ _ => []
  | .cairnPark _ => []
  | .cairnResume _ => []
  | .cairnTimeout _ => []
  | .rayEnd _ => []
  | .buildStart _ => []
  | .buildSlotTake _ => []
  | .cairnRaise _ _ => []
  | .treeLink _ => []
  | .buildFail _ _ => []
  | .compactorReclaim _ _ _ => []
  | .compactorFree _ _ _ => []
  | .rasterStart _ => []
  | .rasterSmallqResume _ => []
  | .rasterTileFlush _ _ => []
  | .rasterTileFinish _ _ => []
  | .rasterDone _ => []
  | .presentImageRead _ => []
  | .collieDecision _ => []
  | .streamSlotSend _ => []
  | .hostQueueTake _ => []
  | .childLaunchTake _ => []
  | .waitEventMet _ => []
  | .drovePlace _ _ => []
  | .penClaimComplete _ => []
  | .claimTimeout _ => []
  | .backfillStop _ _ => []
  | .timedStart _ => []
  | .timesliceExpire _ => []
  | .debugPreempt _ => []
  | .thermalMigrate _ _ => []
  | .trapEntry _ => []
  | .savedTetherWake _ => []
  | .savedWaveDeadline _ _ => []
  | .droveRestore _ _ => []
  | .waveEnd _ => []
  | .gridRetire _ => []
  | .contextEnable _ => []
  | .contextKill _ => []
  | .schedulerBlockRead => []
  | .policyBlockRead => []
  | .powerBlockRead => []
  | .fabricBlockRead => []
  | .pagerTableRead _ => []
  | .inval => []
  | .invalComplete _ => []
  | .migrate => []
  | .dup => []
  | .undup => []
  | .hotcfg => []
  | .frames => []
  | .brand => []
  | .attest => []
  | .upcall _ _ _ => []
  | .pagerWaitTimeout _ _ => []
  | .pagerMap _ _ => []
  | .pagerRefuse _ _ => []
  | .hotIntervalEnd _ => []
  | .dupCollapseAck _ _ => []
  | .hostRdmaWrite _ _ => []
  | .hostRdmaRead _ _ => []
  | .hostRdmaAtomic _ _ _ _ => []
  | .flitReceive _ _ _ _ _ => []
  | .linkRetrainDone _ _ => []
  | .eccCorrected _ _ _ => []
  | .uncorrectableError _ _ _ => []
  | .selftestStart _ _ => []
  | .selftestResult _ _ _ => []
  | .hirselMessageReceive _ _ _ _ _ _ _ => []
  | .hirselAck _ _ => []
  | .hirselRetransmit _ => []
  | .fabricTimeout _ => []
  | .ptpMessage _ => []
  | .announceTimeout => []
  | .budgetMessage _ _ _ => []
  | .budgetEpoch => []
  | .powerLimitStretch _ => []
  | .currentLimitStretch _ => []
  | .droopStretch _ => []
  | .thermalTrip _ => []
  | .thermalTripEnd _ => []
  | .firmwareFreeze => []
  | .watchdogFloor => []
  | .firmwareSignal _ => []
  | .firmwareSlotTakeover => []
  | .firmwareVerify _ _ _ => []
  | .functionReady _ => []
  | .hostWriteAck _ => []
  | .portDown _ => []
  | .portUp _ => []
  | .portmodeDrainDone => []
  | .clockStretchEnd _ => []
  | .bandWakeRateWaitEnd _ _ => []

/-- The words of a well-formed instruction: first word, extension word, literal word (R108). -/
def encode (i : Instr) : List Word := i.word :: (i.extWords ++ i.lits)

/-- How many words an instruction occupies. -/
def Instr.len (i : Instr) : Nat := (encode i).length

end Sys2Proof
end

