-- ==== Sys2Proof/Machine/Assoc.lean ====
section
/-! DEFINITION. Machine/Assoc.lean: maps held as lists of pairs with strictly rising keys, and byte memories of the
same form. One reader and one writer serve every sparse store of the machine. -/

namespace Sys2Proof.Machine

/-- The value at key `k`. -/
def tabGet {α : Type} (t : Tab α) (k : Nat) : Option α :=
  match t with
  | [] => none
  | (j, v) :: r => if j = k then some v else tabGet r k

/-- Set key `k`, keeping the keys rising. -/
def tabSet {α : Type} (t : Tab α) (k : Nat) (v : α) : Tab α :=
  match t with
  | [] => [(k, v)]
  | (j, w) :: r => if j < k then (j, w) :: tabSet r k v else if j = k then (k, v) :: r else (k, v) :: (j, w) :: r

/-- Drop key `k`. -/
def tabErase {α : Type} (t : Tab α) (k : Nat) : Tab α :=
  match t with
  | [] => []
  | (j, w) :: r => if j = k then r else (j, w) :: tabErase r k

/-- Change the value at `k` where there is one. -/
def tabMod {α : Type} (t : Tab α) (k : Nat) (f : α → α) : Tab α :=
  match t with
  | [] => []
  | (j, w) :: r => if j = k then (j, f w) :: r else (j, w) :: tabMod r k f

/-- The keys strictly rise. -/
def tabRising {α : Type} : Tab α → Bool
  | [] => true
  | [_] => true
  | (j, _) :: (k, v) :: r => decide (j < k) && tabRising ((k, v) :: r)

/-- A byte memory: cells in rising order of address, none equal to what an unlisted address reads as, which is 0. -/
abbrev Memory := List Host.Cell

/-- What an address that no cell lists reads as (log entry 5). -/
def Memory.unlisted : Byte := 0#8

/-- Read one byte. -/
def Memory.get (m : Memory) (a : Nat) : Byte := (tabGet m a).getD Memory.unlisted

/-- Write one byte in canonical form. -/
def Memory.set (m : Memory) (a : Nat) (b : Byte) : Memory :=
  if b = Memory.unlisted then tabErase m a else tabSet m a b

/-- The canonical form: rising addresses, no cell that reads as an unlisted address does. -/
def Memory.wf (m : Memory) : Bool := tabRising m && m.all (fun c => decide (c.2 ≠ Memory.unlisted))

/-- Write bytes at rising addresses from `a`. -/
def Memory.setBytes (m : Memory) (a : Nat) (bs : List Byte) : Memory :=
  match bs with
  | [] => m
  | b :: r => Memory.setBytes (m.set a b) (a + 1) r

/-- The `n` bytes from `a`, in order. -/
def Memory.getBytes (m : Memory) (a n : Nat) : List Byte := (List.range n).map (fun i => m.get (a + i))

/-- A natural number from bytes, least significant first (R6). -/
def natOfBytes : List Byte → Nat
  | [] => 0
  | b :: r => b.toNat + 256 * natOfBytes r

/-- The `n` low bytes of a number, least significant first (R6). -/
def bytesOfNat (n x : Nat) : List Byte :=
  match n with
  | 0 => []
  | k + 1 => BitVec.ofNat 8 x :: bytesOfNat k (x / 256)

/-- Element `i` of a list, replaced. -/
def setAt {α : Type} (l : List α) (i : Nat) (v : α) : List α := l.set i v

/-- Change element `i` of a list where there is one. -/
def modAt {α : Type} (l : List α) (i : Nat) (f : α → α) : List α :=
  match l, i with
  | [], _ => []
  | x :: r, 0 => f x :: r
  | x :: r, k + 1 => x :: modAt r k f

/-- The lane numbers of a set, in increasing order (R9). -/
def lanesOf (m : Mask) : List Nat := (List.range 32).filter (fun l => m.getLsbD l)

/-- The set of lanes that meet `p`. -/
def maskOf (p : Nat → Bool) : Mask :=
  (List.range 32).foldl (fun acc l => if p l then acc ||| (1#32 <<< l) else acc) 0#32

/-- The number of 1 bits (`popc` of R136). -/
def popcN (n x : Nat) : Nat := (List.range n).foldl (fun acc i => acc + (x / 2 ^ i) % 2) 0

/-- The lowest lane of a set (`lowest` of R136). -/
def lowestLane (m : Mask) : Option Nat := (lanesOf m).head?

/-- The whole units of `d` that cover `n`. -/
def ceilDiv (n d : Nat) : Nat := (n + d - 1) / d

/-- `n` rounded up to a multiple of `d`. -/
def roundUp (n d : Nat) : Nat := ceilDiv n d * d

end Sys2Proof.Machine
end

