-- ==== Sys2Proof/Machine/State.lean ====
section
/-! DEFINITION. Machine/State.lean: everything the manual gives the module, as plain data, and the state after reset.
Waves, workgroups, droves, grids and contexts are records in tables; engines hold their queues; memory is the physical
memory of the six memory dies and the host aperture. -/

namespace Sys2Proof.Machine

open Sys2Proof

/-! ## Lanes and waves (chapter 1) -/

/-- One bypass latch: 64 bits, a width tag and a valid bit (5.5). -/
structure Latch where
  val : Dword
  wide : Bool
  valid : Bool
  deriving DecidableEq, Repr

/-- Lane states (Table 1.2, Table 21.3 item 2). A `regWait` lane is held at an instruction that names a register owed to
it; a `stalled` lane is held by an engine with no room and issues the same instruction again. -/
inductive LaneState where
  | never | ready | join (m : MReg) | waitm (m : MReg) | sleeper (b : Fin 32) | exited | gbar | regWait | stalled
  deriving DecidableEq, Repr

/-- A deferred SHADOW of a completed FDIV (R184): the register, and the FDIV's address. -/
structure Deferred where
  reg : Nat
  iaddr : Addr
  deriving DecidableEq, Repr

/-- One lane (R18). Registers are physical; stack entries and the lane store list only what has been written. -/
structure Lane where
  pc : Addr
  state : LaneState
  regs : List Word
  latches : List Latch
  hw : Nat
  spilled : Nat
  rstk : Tab Dword
  spill : Tab Dword
  store : Tab Byte
  burst : Nat
  idle : Nat
  poison : List Nat
  deferred : List Deferred
  deriving DecidableEq, Repr

/-- A result owed to a wave by a split-phase instruction (R201, R171, R184, R160, R209). -/
inductive OwedKind where
  | load | atomic | div | fdiv | launch | record | trace
  deriving DecidableEq, Repr

/-- Where an owed result goes: physical vector registers from the first, s registers, or a record. -/
inductive OwedDest where
  | vec (r n : Nat) | uni (r n : Nat) | recd (q : Nat) | nowhere
  deriving DecidableEq, Repr

/-- One scoreboard slot: the result per lane, whether it has been written, the lanes whose instructions have named its register since (R24). -/
structure Owed where
  id : Nat
  kind : OwedKind
  dest : OwedDest
  lanes : Mask
  data : Tab (List Word)
  flags : Nat
  bad : Mask
  acq : Bool
  arrived : Bool
  named : Mask
  iaddr : Addr
  deriving DecidableEq, Repr

/-- A trap to be taken: what its record will hold (Table 21.2). -/
structure TrapReq where
  cause : Nat
  info : Word
  lanes : Mask
  iaddr : Addr
  resume : Addr
  faddr : Addr
  slotB : Bool
  arrayf : Bool
  deferred : Bool
  restore : Bool
  deriving DecidableEq, Repr

/-- What a wave-blocked wave waits for (Table 19.8, Table 21.4). `page` and `fdiv` are holds of the wave outside that table:
an access waiting for the pager (R201), with the upcall's KIND and the trap a refusal raises, and an FDIV with an enabled
trap (R184). -/
inductive Wait where
  | none
  | waitu (dest : Nat) (wide : Bool)
  | fwait (dest : Option Nat) (fold phase : Nat)
  | waitc (cls thr : Nat)
  | gbar
  | sleept (deadline : Nat)
  | cairnw (dest : Option Nat)
  | page (ctx page kind : Nat) (t : TrapReq)
  | fdiv
  deriving DecidableEq, Repr

/-- The hidden state captured at entry and restored by RTE (Table 21.3), as the words RDST reads and WRST writes. -/
structure Hidden where
  pclo : List Word
  pchi : List Word
  lstate : List Word
  hv : List Word
  wave : List Word
  shv : List Word
  qhv : List Word
  deriving DecidableEq, Repr

/-- One NEV whose rows have not all landed (R270, R274). -/
structure NevOp where
  id : Nat
  d : Nat
  nin : Nat
  nout : Nat
  lanes : Mask
  failed : Mask
  causes : Tab Nat
  fmask : Option MReg
  trapen : Bool
  left : Nat
  results : Tab (List Word)
  iaddr : Addr
  deriving DecidableEq, Repr

/-- One counted operation of a wave: its class, its number, and whether it has completed (R100). -/
structure Counted where
  cls : Nat
  id : Nat
  complete : Bool
  deriving DecidableEq, Repr

/-- The MTX, FLK and TRC counts (R242). -/
structure Counts where
  mtx : Nat
  flk : Nat
  trc : Nat
  deriving DecidableEq, Repr

/-- One wave in a slot. -/
structure Wave where
  lanes : List Lane
  s : List Word
  m : List Mask
  q : List (BitVec 128)
  nregs : Nat
  wb : Nat
  fpmode : Word
  fpflags : Word
  oobflags : Word
  penpass : Word
  degen : Word
  counts : Counts
  ops : List Counted
  handler : Bool
  trap : BitVec 512
  hidden : Hidden
  owed : List Owed
  wait : Wait
  pend : Option TrapReq
  causes : List TrapReq
  preempt : Option Nat
  nevs : List NevOp
  age : Nat
  issued : Nat
  lastClk : Nat
  wg : Nat
  index : Nat
  rteReady : Bool
  starved : Option Addr
  deriving DecidableEq, Repr

/-- The issue that `exec` carries out: whose lanes, at which PC, in which slot, and where execution continues. In slot B
of the same wave `before` is the wave before slot A wrote (R23), `kept` the registers slot A wrote, whose values remain,
and `left` the mask bits that LEAVE cleared, which a later whole-register write of the clk leaves cleared (R146). `start`
is the wave before this issue began, to which it returns when it is held and issues again. `pairs` says of slot A that slot
B of the clk issues a group of the same wave, so that the release conditions of LEAVE and EXIT are evaluated after it
(R146); `beside` says of slot B which wave and PC slot A issued. -/
structure Issue where
  key : Nat
  lanes : Mask
  pc : Addr
  next : Addr
  slotB : Bool
  before : Option Wave
  start : Option Wave
  keptV : List (Nat × Mask)
  keptS : List Nat
  keptM : List Nat
  keptQ : List Nat
  left : List (Nat × Mask)
  pairs : Bool
  beside : Option (Nat × Addr)
  deriving DecidableEq, Repr

/-! ## Workgroups, droves, grids and contexts -/

/-- A fold (Table 10.4); without INIT the counts hold what is held for the first FINIT (R235). -/
structure FoldState where
  init : Bool
  members : Nat
  arrived : Nat
  counts : List Word
  phase : Nat
  err : Bool
  remote : Bool
  lastErr : Bool
  lastRemote : Bool
  deriving DecidableEq, Repr

/-- What memory keeps of a lane while its wave is saved: its lane store and its spill region (R35, R369). -/
structure KeptLane where
  store : Tab Byte
  spill : Tab Dword
  deriving DecidableEq, Repr

/-- A workgroup: its pen, its store buffer, its folds, its copy tickets and schedule, its save area. `due` holds causes that
fell due in its waves, by index, while they were saved (R390). `penUnits` numbers the KiB of its core's pen ways its pen
occupies (R42, R44); `roTouched` the lines it has written since its last FENCERO, and `roSeen` the bytes that were in its
store buffer then (R104, R217); `kept` the lane stores and spill regions of its waves, by index and lane, while they are
saved (R35, R369). -/
structure Workgroup where
  core : Nat
  rank : Nat
  drove : Nat
  nwaves : Nat
  pen : Tab Byte
  penZero : Bool
  penPoison : List Nat
  penBytes : Nat
  penUnits : List Nat
  sbuf : Tab Byte
  whole : List Nat
  folds : List FoldState
  tickets : Nat
  stages : List Nat
  saveBase : Nat
  saveSlot : Option Nat
  status : List (Tab Word)
  lease : Nat
  roTouched : List Nat
  roSeen : Tab Byte
  kept : Tab (List KeptLane)
  ended : List Nat
  due : List (Nat × TrapReq)
  deriving DecidableEq, Repr

/-- Where a drove stands: on its cores, being prepared for a save, saved, awaiting a placement of its own again (after a
replay, or taken away before its START), restoring, or ended. -/
inductive DrovePhase where
  | resident | draining (trigger : Nat) | saved | relaunch | restoring | ended
  deriving DecidableEq, Repr

/-- A drove of a grid, by its coordinates (R14). `avoid` is the cluster a replay must leave, `target` the cores a migration
goes to, `waitSince` when it last began to wait for a placement. -/
structure Drove where
  grid : Nat
  x : Nat
  y : Nat
  z : Nat
  wgs : List Nat
  phase : DrovePhase
  placed : Nat
  lastMove : Nat
  replayable : Bool
  relaunches : Nat
  order : Nat
  started : Bool
  wakes : Nat
  avoid : Option Nat
  target : List Nat
  waitSince : Nat
  deriving DecidableEq, Repr

/-- Where a grid stands (R339, R347): a child in its queue and not yet taken, held on its wait event, eligible, running; a
record that names no grid is retired. -/
inductive GridPhase where
  | queued | held | eligible | running | retired
  deriving DecidableEq, Repr

/-- A grid, with the launch record it was taken from (Table 19.4). `since` is when its next drove began to wait, `shun` the
clusters whose pen claims for it were abandoned (R354). -/
structure Grid where
  ctx : Nat
  parent : Option Nat
  depth : Nat
  phase : GridPhase
  entry : Addr
  dx : Nat
  dy : Nat
  dz : Nat
  drove : Nat
  waves : Nat
  lastl : Nat
  regs : Nat
  sregs : Nat
  folds : Nat
  lease : Nat
  prio : Nat
  flags : Nat
  pen : Nat
  lanestore : Nat
  start : Nat
  waitva : Nat
  waitval : Nat
  sigva : Nat
  sched : List Nat
  params : List Word
  records : List (BitVec 128)
  nextDrove : Nat
  status : Nat
  sbovf : Bool
  replayed : Bool
  eligibleAt : Nat
  since : Nat
  queue : Nat
  child : Bool
  barrier : Nat
  shun : List Nat
  deriving DecidableEq, Repr

/-- A pager region (Table 22.4). -/
structure Region where
  lo : Nat
  hi : Nat
  pagesize : Nat
  attr : Nat
  pctx : Nat
  slots : Nat
  scalebase : Nat
  upring : Nat
  fill : Nat
  stopped : Bool
  deriving DecidableEq, Repr

/-- An upcall outstanding (R386). `slot` is none while it waits for a frame, a slot or ring room; `region` is the entry's
index and `reg` the entry as it was; `record` is the VA of its record. -/
structure Upcall where
  region : Nat
  reg : Region
  page : Nat
  kind : Nat
  slot : Option Nat
  frames : List Nat
  record : Nat
  since : Nat
  late : Bool
  refused : Bool
  deriving DecidableEq, Repr

/-- A context: its live descriptor (Table 19.2), its commons window, its pagers and frames, its save areas and spill area. -/
structure Context where
  live : Bool
  ptroot : Nat
  trapvec : Addr
  savepool : Nat
  areasize : Nat
  areas : Nat
  spillbase : Nat
  spillcap : Nat
  commonsSize : Nat
  pagertab : Nat
  netbase : Nat
  netcount : Nat
  flockwait : Nat
  flockshare : Nat
  maxprio : Nat
  homebrand : Nat
  nbrands : Nat
  brandtab : Nat
  commons : Memory
  commonsPoison : List Nat
  areasUsed : List Nat
  pagerGen : Nat
  regions : List Region
  frames : List Nat
  upcalls : List Upcall
  childq : List Nat
  deriving DecidableEq, Repr

/-! ## Memory-side units -/

/-- A cached translation (R379): the page's base and size, and the leaf it holds. -/
structure TlbEntry where
  ctx : Nat
  va : Nat
  size : Nat
  leaf : Nat
  leafPa : Nat
  deriving DecidableEq, Repr

/-- Who a tether wakes (R102, R341, R372, R294). -/
inductive Waiter where
  | wave (key : Nat)
  | saved (wg index : Nat)
  | ray (id : Nat)
  | grid (id : Nat)
  deriving DecidableEq, Repr

/-- A tether, in a die's table or spilled into its context's area as entry `spill` (R221, Table 19.9); not yet armed its
`deadline` is the timeout, and `parked` says that arming found no room. -/
structure Tether where
  id : Nat
  pa : Nat
  wide : Bool
  cmp : Cmp
  opnd : Nat
  deadline : Option Nat
  ctx : Nat
  waiter : Waiter
  spill : Option Nat
  parked : Bool
  scope : Scope
  deriving DecidableEq, Repr

/-- A tether's wake, posted and not yet delivered (R219). -/
structure Wake where
  waiter : Waiter
  value : Nat
  status : Nat
  deriving DecidableEq, Repr

/-- A core's copy of a line from before a store performed since, which its loads return until the copy is invalidated, at
clk `expires` (R85). -/
structure OldCopy where
  core : Nat
  line : Nat
  expires : Nat
  bytes : List Byte
  deriving DecidableEq, Repr

/-- A line in the state committed (R85): the bytes a workgroup of this core has committed and the device has not performed,
and whether one instruction wrote them all (R409). -/
structure Committed where
  line : Nat
  bytes : Tab Byte
  whole : Bool
  deriving DecidableEq, Repr

/-- A side-log entry (R388): the lanes' writes or reductions of one line, in program order. -/
structure SideEntry where
  ctx : Nat
  va : Nat
  wg : Nat
  wave : Nat
  lanes : Mask
  writes : List (Nat × List Byte)
  red : Option Aop
  xdata : Bool
  iaddr : Addr
  recq : Nat
  deriving DecidableEq, Repr

/-- A paddock access on its way to a pen of the drove (R96): the lanes that name one rank, each with its offset and, for
a store, its bytes; a load delivers into slot `owed` of its wave. `handler` says that it was issued in handler mode. -/
structure PadAcc where
  id : Nat
  wave : Nat
  rank : Nat
  target : Nat
  width : Nat
  signed : Bool
  store : Bool
  parts : List (Nat × Nat × List Byte)
  owed : Option Nat
  handler : Bool
  deriving DecidableEq, Repr

/-- A copy request accepted by a drover (Table 10.2), with its progress: the row, the destination of the row, the row's
bytes once read, the messages outstanding for a remote row and what they have brought, and whether it is to fail. -/
structure CopyReq where
  id : Nat
  wg : Nat
  ctx : Nat
  bits : BitVec 256
  ticket : Nat
  row : Nat
  dest : Nat
  data : Option (List Byte)
  sent : Option (List Nat)
  got : Tab (List Byte)
  failed : Bool
  deriving DecidableEq, Repr

/-- A remote fold arrival posted and not yet applied (R237), with the wave, workgroup and core it comes from. -/
structure Arrival where
  target : Nat
  fold : Nat
  wave : Nat
  wg : Nat
  core : Nat
  deriving DecidableEq, Repr

/-- An operation accepted by the array queue (R247), with the operands captured at issue, the clk it was accepted in and the age
of its wave. -/
structure ArrayOp where
  id : Nat
  word : Word
  ext : Word
  a : Word
  b : Word
  recd : BitVec 128
  prog : Nat
  wave : Nat
  waveIx : Nat
  lanes : Mask
  iaddr : Addr
  clk : Nat
  age : Nat
  deriving DecidableEq, Repr

/-- One band of columns: powered, waking until a clk, and last used (R251, R436). -/
structure Band where
  on : Bool
  waking : Option Nat
  deferred : Bool
  lastUse : Nat
  deriving DecidableEq, Repr

/-- The matrix array of a core and its lease (chapter 11). `zeroA` and `zeroS` name the elements of each plane that read as
the true value 0 whatever their group's zero point (R253); `poison` names the poisoned words of its stores (R415). -/
structure MatrixArray where
  lessee : Option Nat
  slots : Memory
  active : Memory
  shadow : Memory
  activeScales : Memory
  shadowScales : Memory
  tagA : Nat
  tagS : Nat
  forbidden : List Nat
  zeroA : List Nat
  zeroS : List Nat
  bands : Nat
  sticky : Nat
  queue : List ArrayOp
  stopped : Bool
  poison : List Nat
  band : List Band
  deriving DecidableEq, Repr

/-- A row of a flock tile: the NEV, its lane, and its inputs (R272). -/
structure FlockRow where
  wave : Nat
  nev : Nat
  lane : Nat
  mem : Option Nat
  inputs : List Half
  deriving DecidableEq, Repr

/-- A tile the flock unit gathers for one handle of one context. -/
structure FlockTile where
  ctx : Nat
  handle : Nat
  rows : List FlockRow
  first : Nat
  closed : Bool
  deriving DecidableEq, Repr

/-- A row handed to the flock unit in this clk, with the age of its wave (R272). -/
structure FlockEntry where
  age : Nat
  ctx : Nat
  handle : Nat
  row : FlockRow
  deriving DecidableEq, Repr

/-- A pen claim in progress on a core (R43, R354). -/
structure Claim where
  grid : Nat
  ways : Nat
  since : Nat
  joined : Nat
  deriving DecidableEq, Repr

/-- Units a self-test may hold (Table 24.6): the SEQ of the error, whether the test runs, and whether the unit has a lasting
fault and waits for its core's residents to leave (R401). -/
structure Quarantine where
  unit : Nat
  loc : Nat
  seq : Nat
  testing : Bool
  lasting : Bool
  deriving DecidableEq, Repr

/-- Per-core units. -/
structure Core where
  committed : List Committed
  path : Tab (List Byte)
  tlb : List TlbEntry
  sideLog : List SideEntry
  paddock : List PadAcc
  drover : List CopyReq
  array : MatrixArray
  tiles : List FlockTile
  inbox : List FlockEntry
  weights : Tab (List Byte)
  penWays : Nat
  claim : Option Claim
  window : Option (Tab Byte)
  deriving DecidableEq, Repr

/-- Per-quarter issue state (R26) and its grants (R435): `reads` counts the registers of the issue, which the quarter gathers
until clk `busy`. -/
structure Quarter where
  cur : Option Nat
  choose : Bool
  yielded : Option Nat
  starved : Option Nat
  grants : Nat
  reads : Nat
  busy : Nat
  deriving DecidableEq, Repr

/-! ## Rays, builds, raster and frames -/

/-- A ratio with a positive denominator. -/
structure Ratio where
  num : Int
  den : Nat
  deriving DecidableEq, Repr

/-- A hit of a ray: exact t, cluster, triangle, and the two weights in 65535ths. -/
structure Hit where
  t : Ratio
  cluster : Nat
  tri : Nat
  u : Nat
  v : Nat
  deriving DecidableEq, Repr

/-- A ray between its TRACE and its hit record (R294). `slot` is the slot of the header it has registered in, `ended` the
status it ends with once that is settled, `parked` the VA of the word it waits on, `root` the root it read, `seen` the cairn
words that rose while it waited, `found` the hits it had found when it last began to wait. -/
structure Ray where
  id : Nat
  op : Nat
  wave : Nat
  lane : Nat
  ctx : Nat
  hdr : Nat
  gen : Nat
  slot : Option Nat
  ended : Option Nat
  tmo : Nat
  deadline : Option Nat
  cull : Cull
  occ : Bool
  words : List Word
  parked : Option Nat
  root : Nat
  seen : List Nat
  found : List Hit
  deriving DecidableEq, Repr

/-- How far a build or refit has got (R284, R287): queued, checked, its slot taken, its provisional spine written. -/
inductive BuildPhase where
  | queued | checked | taken | building
  deriving DecidableEq, Repr

/-- A cluster as a builder has gathered it: its sort key, its triangles, and its box in units of 2^-149 (R285). -/
structure BuildCluster where
  id : Nat
  key : Nat
  nt : Nat
  lo : Int × Int × Int
  hi : Int × Int × Int
  deriving DecidableEq, Repr

/-- A build command (Table 12.5) in the device's queue or running: its bytes once read, the slot and generation it took, the
live slot a refit starts from, its clusters in sorted order, the next free pool node, the cairns raised, and the count of open
values its nodes start at. -/
structure BuildJob where
  id : Nat
  refit : Bool
  ctx : Nat
  va : Nat
  phase : BuildPhase
  cmd : List Byte
  slot : Nat
  gen : Nat
  live : Nat
  clusters : List BuildCluster
  next : Nat
  raised : List Nat
  free : Nat
  deriving DecidableEq, Repr

/-- A raster command queued or running (Table 13.3): its bytes once read, the classifier's place (cluster and triangle), the
counts, the large triangles in classifier order, the tiles merged, whether every triangle is classified, the status it ends
with early, and of each tile flushed early how many of the large triangles its slot stands for (R313). -/
structure RasterJob where
  id : Nat
  ctx : Nat
  va : Nat
  cmd : List Byte
  running : Bool
  cluster : Nat
  tri : Nat
  nlarge : Nat
  nsmall : Nat
  ndisc : Nat
  large : List (Nat × Nat)
  finished : List Nat
  classified : Bool
  ended : Option Nat
  flushed : List (Nat × Nat)
  deriving DecidableEq, Repr

/-- A frame record accepted by a stream (Table 13.6): its slot, its image once read, and whether it cannot be sent. -/
structure FrameRec where
  ctx : Nat
  va : Nat
  slot : Nat
  frameno : Nat
  image : Nat
  pitch : Nat
  owner : Nat
  pixels : Option (List (List Nat))
  refused : Bool
  deriving DecidableEq, Repr

/-- A slot the collie has decided and the stream has not yet sent: the frame, or none for a substitute, and its FRAMENO where
there was a record. -/
structure SlotFrame where
  slot : Nat
  frame : Option FrameRec
  frameno : Option Nat
  deriving DecidableEq, Repr

/-- A frame sent: slot, RTP timestamp, FRAMENO, flag word, and pixels as three channel codes each (R427). -/
structure SentFrame where
  slot : Nat
  rtp : Nat
  frameno : Nat
  flags : Nat
  pixels : List (List Nat)
  deriving DecidableEq, Repr

/-- A stream of the stream engine: its descriptor as last read (Table 25.2), its records, the next slot to decide, the slots
decided, the pose last taken, whether the reserve has been filled, what it has sent, and the slots that went to a frame of their
own. -/
structure Stream where
  desc : List Byte
  queue : List FrameRec
  next : Nat
  decided : List SlotFrame
  pose : Option (List Word)
  reserve : Bool
  sent : List SentFrame
  filled : List Nat
  deriving DecidableEq, Repr

/-! ## The package -/

/-- One die-to-die link (R397, R403). -/
structure Link where
  up : Bool
  expected : Nat
  naks : Nat
  retraining : Bool
  retrains : Nat
  lastRetrain : Nat
  done : List (Nat × Nat)
  out : List (Nat × Nat)
  deriving DecidableEq, Repr

/-- One compute site: its clock stretches, its thermal trip and its last-level TLB. -/
structure Site where
  live : Bool
  tlb : List TlbEntry
  droop : Bool
  current : Bool
  power : Bool
  trip : Bool
  wakes : List Nat
  deriving DecidableEq, Repr

/-- One memory die: whether it serves, when its interval began, its hot-page sketch and candidates. -/
structure MemDie where
  live : Bool
  since : Nat
  sketch : Tab Nat
  cands : List (Nat × List Nat × Bool)
  deriving DecidableEq, Repr

/-- The harvest block (Table 23.2). -/
structure Harvest where
  hgen : Nat
  dieEn : Nat
  coreEn : List Nat
  chanEn : List Nat
  deriving DecidableEq, Repr

/-- The scheduler block as last read (Table 20.1). -/
structure SchedBlock where
  tslice : Nat
  backwait : Nat
  claimwait : Nat
  timedlead : Nat
  preempt : Nat
  thermhi : Nat
  thermgap : Nat
  modes : Nat
  migmin : Nat
  gen : Nat
  deriving DecidableEq, Repr

/-- The reliability policy block as last read (Table 24.2). -/
structure PolicyBlock where
  cerate : Nat
  ueact : Nat
  replaymax : Nat
  sticky : Nat
  testmove : Nat
  gen : Nat
  deriving DecidableEq, Repr

/-- The power block as last read, and what the controller writes (Table 26.3). -/
structure PowerBlock where
  devcap : Nat
  rackcap : Nat
  rackmask : Nat
  freqmask : Nat
  boost : Nat
  rationmin : Nat
  gen : Nat
  grant : Nat
  freq : Nat
  powerNow : Nat
  frozen : Bool
  floorHold : Bool
  slot : Nat
  pendingSlot : Option Nat
  demands : Tab (Nat × Nat)
  epoch : Nat
  watchdog : Nat
  deriving DecidableEq, Repr

/-- The fabric block as last read (Table 25.1), with the port modes in force. -/
structure FabricBlock where
  podid : Nat
  devno : Nat
  ptpdom : Nat
  ptpport : Nat
  ptpmode : Nat
  portmode : Nat
  wanted : Nat
  fabtmo : Nat
  pathtab : Nat
  streamtab : Nat
  gen : Nat
  deriving DecidableEq, Repr

/-- The IEEE 1588 clock (R425). -/
structure Ptp where
  locked : Bool
  holdover : Bool
  good : Nat
  offset : Int
  slew : Int
  deriving DecidableEq, Repr

/-- A hirsel message sent and not acknowledged (R422). -/
structure Message where
  id : Nat
  core : Nat
  req : Nat
  brand : Nat
  device : Nat
  offset : Nat
  port : Nat
  sent : Nat
  deriving DecidableEq, Repr

/-- A firmware image slot: its version and its measurement (R444, R445). -/
structure Firmware where
  version : Nat
  verified : Bool
  measure : List Byte
  deriving DecidableEq, Repr

/-- The bring-up record and what the hub ROM and the fuses hold (Table 27.2, R444, R446). -/
structure Boot where
  ready : Word
  serial : Dword
  tables : List Nat
  idkey : List Byte
  hubImage : Firmware
  slotA : Firmware
  slotB : Firmware
  mgmt : List Byte
  minVersion : Nat
  fuse : Nat
  deriving DecidableEq, Repr

/-- The error queue's own counters (R413), the records the hub holds when the ring cannot be written, and when each unit erred
and had a corrected error recorded. -/
structure Errors where
  seq : Nat
  held : List (List Byte)
  recent : List (Nat × Nat)
  corrected : List (Nat × Nat)
  deriving DecidableEq, Repr

/-- An entry of the duplication table (R394). -/
structure DupEntry where
  ctx : Nat
  va : Nat
  home : Nat
  reads : List (Option Nat)
  acks : Option (List Nat)
  waiting : List (Nat × List Byte)
  deriving DecidableEq, Repr

/-- A maintenance command under way (R381): its number in the ring, where it lies, its bytes, when it was taken, the leaf it
read and where that lies, the physical ranges whose stores it waits for, and the duplication entry it collapses. -/
structure Maint where
  index : Nat
  pa : Nat
  bytes : List Byte
  since : Nat
  leaf : Nat
  leafPa : Nat
  ranges : List (Nat × Nat)
  dup : Option Nat
  deriving DecidableEq, Repr

/-- A write to host memory not yet acknowledged by the host's adapter (R107). -/
structure HostWrite where
  core : Nat
  line : Nat
  deriving DecidableEq, Repr

/-- A write of the shepherd to a context whose page a pager has yet to serve: its parts, each at a VA (R342, R386). -/
structure Posted where
  ctx : Nat
  parts : List (Nat × List Byte)
  deriving DecidableEq, Repr

/-- A fault of a core's arithmetic, to strike the next checked result of a unit (R77): of a quarter's floating-point units 0
to 3, the lanes whose bits `at_` has; of the array's adders (4) and the flock unit's (5), addition `at_` of the operation. The
bits of `flip` are wrong. -/
structure Upset where
  core : Nat
  unit : Nat
  at_ : Nat
  flip : Word
  deriving DecidableEq, Repr

/-- What the world outside the model decides next: let the machine issue, let an event of the table come about, let an upset
strike, or let the hottest junction sensor of a cluster read another number of °C. -/
inductive Turn where
  | issue
  | occur (e : Instr)
  | upset (u : Upset)
  | sense (cluster reading : Nat)
  deriving DecidableEq, Repr

/-- What the host sends over port.0 and the home has yet to perform, because an earlier message waits for a collapse (R107,
R395). -/
inductive HostMsg where
  | write (cells : List (Nat × Byte))
  | atomic (pa : Nat) (op : Aop) (x y : Dword)
  deriving DecidableEq, Repr

/-- The state of the module. `old` holds the copies of lines that cores have not yet had invalidated (R85); `freed` the entries
of the spill areas that this step frees, by context, until it ends (R345); `inbound` the host's messages that wait (R107);
`killed` the live contexts whose ENABLE has been written 0 (R333); `rejected` what the shepherd found of a queue's record whose
page was refused, until the queue's turn (R338); `sensors` the readings of each cluster's hottest sensor, the newest first, with
the TIME each began (R357). -/
structure State where
  cycle : Dword
  time : Dword
  subNs : Nat
  cursor : Nat
  slotB : Option Issue
  portMem : Bool
  portTile : Bool
  iss : Issue
  agenda : List Turn
  upset : Option Upset
  fresh : Nat
  free : Nat
  mem : Memory
  poisoned : List Nat
  old : List OldCopy
  waves : Tab Wave
  quarters : Tab Quarter
  cores : Tab Core
  sites : List Site
  dies : List MemDie
  links : List Link
  wgs : Tab Workgroup
  droves : Tab Drove
  grids : Tab Grid
  ctxs : Tab Context
  tethers : List Tether
  unarmed : List Tether
  freed : List (Nat × Nat)
  wakes : List Wake
  tableCap : Nat
  arrivals : List Arrival
  rays : List Ray
  builds : List BuildJob
  trees : List (Nat × Nat)
  reclaims : List (Nat × Nat × Nat)
  rasters : List RasterJob
  streams : Tab Stream
  dups : Tab DupEntry
  blockedWalks : List (Nat × Nat)
  maint : List Maint
  hostWrites : List HostWrite
  hostRead : List Byte
  messages : List Message
  peers : Tab (List Nat)
  brands : List Nat
  portsUp : Nat
  harvest : Harvest
  sched : SchedBlock
  backfill : List (Nat × Nat)
  reserved : List (Nat × Nat)
  queueTurn : Nat
  posted : List Posted
  policy : PolicyBlock
  power : PowerBlock
  fabric : FabricBlock
  ptp : Ptp
  boot : Boot
  errors : Errors
  quarantined : List Quarantine
  hotInterval : Nat
  hotOn : Bool
  inbound : List HostMsg
  killed : List Nat
  rejected : Tab (Nat × Grid)
  sensors : Tab (List (Nat × Nat))
  deriving DecidableEq, Repr

/-- Why the machine stops. Each is a case to which the manual gives no effect. -/
inductive Fault where
  /-- `step`, safe: an entry of the agenda is no event of the table but an instruction, which only a wave issues. -/
  | notAnEvent
  deriving DecidableEq, Repr

/-- Why an instruction is not carried out. -/
inductive Refusal where
  /-- `exec`, safe: the model gives this row no meaning yet. -/
  | notModelled (mnemonic : String)
  deriving DecidableEq, Repr

/-! ## Reset -/

/-- A link after bring-up: sequence numbers from 0. -/
def Link.init : Link := ⟨true, 0, 0, false, 0, 0, [], []⟩

/-- A site with nothing cached and no limit acting. -/
def Site.init (live : Bool) : Site := ⟨live, [], false, false, false, false, []⟩

def MemDie.init : MemDie := ⟨true, 0, [], []⟩

/-- An idle issue: no lanes. -/
def Issue.init : Issue := ⟨0, 0#32, 0#48, 0#48, false, none, none, [], [], [], [], [], false, none⟩

def Band.init : Band := ⟨false, none, false, 0⟩

/-- The array with no lease (R246). -/
def MatrixArray.init : MatrixArray :=
  ⟨none, [], [], [], [], [], 0, 0, [], [], [], 15, 0, [], false, [], List.replicate 4 Band.init⟩

def Core.init : Core := ⟨[], [], [], [], [], [], MatrixArray.init, [], [], [], 0, none, none⟩

def Quarter.init : Quarter := ⟨none, true, none, none, 8, 0, 0⟩

/-- The defaults of Table 20.1. -/
def SchedBlock.init : SchedBlock := ⟨2000, 500, 100, 200, 0x7F, 95, 10, 3, 10000, 0⟩

/-- The defaults of Table 24.2. -/
def PolicyBlock.init : PolicyBlock := ⟨16, 0, 2, 4, 1, 0⟩

/-- The defaults of Table 26.3, at the nominal point. -/
def PowerBlock.init : PowerBlock := ⟨10000, 0, 0, 0, 1, 1, 0, 10000, 1050, 0, false, false, 0, none, [], 0, 0⟩

/-- The defaults of Table 25.1. -/
def FabricBlock.init : FabricBlock := ⟨0, 0, 0, 0, 0, 0, 0, 100, 0, 0, 0⟩

def Ptp.init : Ptp := ⟨false, false, 0, 0, 0⟩

/-- The unit the model takes (log entry 6): site.1 dark, every core of the other two and every HBM channel live. -/
def Harvest.init : Harvest := ⟨0, 0x3FD, [2 ^ 160 - 1, 0, 2 ^ 160 - 1], List.replicate 6 (2 ^ 64 - 1)⟩

/-- Images not yet verified. -/
def Firmware.init : Firmware := ⟨0, false, List.replicate 32 0#8⟩

/-- The bring-up record before any function is ready; the places of its tables are the model's (log entry 6). -/
def Boot.init : Boot :=
  ⟨0#32, 0#64, [0x10000, 0x30000, 0x40000, 0x50000, 0x50100, 0x50200, 0x50300, 0x60000, 0x70000, 0x71000, 0x80000],
    List.replicate 68 0#8, Firmware.init, Firmware.init, Firmware.init, List.replicate 32 0#8, 0, 0⟩

def Errors.init : Errors := ⟨1, [], [], []⟩

/-- The module right after the hub's reset: CYCLE counts from 0 (R154), no function ready (R440), no context live (R333),
nothing resident and memory with nothing listed. -/
def State.reset : State where
  cycle := 0#64
  time := 0#64
  subNs := 0
  cursor := 0
  slotB := none
  portMem := false
  portTile := false
  iss := Issue.init
  agenda := []
  upset := none
  fresh := 1
  free := 0
  mem := []
  poisoned := []
  old := []
  waves := []
  quarters := []
  cores := []
  sites := [Site.init true, Site.init false, Site.init true]
  dies := List.replicate 6 MemDie.init
  links := List.replicate 9 Link.init
  wgs := []
  droves := []
  grids := []
  ctxs := []
  tethers := []
  unarmed := []
  freed := []
  wakes := []
  tableCap := 8192
  arrivals := []
  rays := []
  builds := []
  trees := []
  reclaims := []
  rasters := []
  streams := []
  dups := []
  blockedWalks := []
  maint := []
  hostWrites := []
  hostRead := []
  messages := []
  peers := []
  brands := []
  portsUp := 0
  harvest := Harvest.init
  sched := SchedBlock.init
  backfill := []
  reserved := []
  queueTurn := 1023
  posted := []
  policy := PolicyBlock.init
  power := PowerBlock.init
  fabric := FabricBlock.init
  ptp := Ptp.init
  boot := Boot.init
  errors := Errors.init
  quarantined := []
  hotInterval := 1000
  hotOn := false
  inbound := []
  killed := []
  rejected := []
  sensors := []

end Sys2Proof.Machine
end

