-- ==== Sys2Proof/Machine/Operands.lean ====
section
/-! DEFINITION. Machine/Operands.lean: which registers an instruction names (R119, R121, R24), the classes that issue
rules speak of (R22, R24, R138), and the operand forms read and written (R114 to R117). -/

namespace Sys2Proof

/-- The vector codes, latches, s registers and records an instruction names, sources and destinations alike. -/
structure Named where
  vs : List Nat
  ls : List Nat
  ss : List Nat
  qs : List Nat
  deriving DecidableEq, Repr

def Named.none : Named := ⟨[], [], [], []⟩
def Named.v (n k : Nat) : Named := ⟨(List.range k).map (n + ·), [], [], []⟩
def Named.s (n k : Nat) : Named := ⟨[], [], (List.range k).map (n + ·), []⟩
def Named.q (q : QReg) : Named := ⟨[], [], [], [q.val]⟩
def Named.and (a b : Named) : Named := ⟨a.vs ++ b.vs, a.ls ++ b.ls, a.ss ++ b.ss, a.qs ++ b.qs⟩

/-- A source of `k` registers. -/
def VSrc.named (a : VSrc) (k : Nat) : Named :=
  match a with
  | .reg n => Named.v n.val k
  | .latch i => ⟨[], [i.val], [], []⟩
  | .sreg i => Named.s i.val k
  | .zero | .lane | .lit _ => Named.none
def VDst.named (d : VDst) (k : Nat) : Named :=
  match d with
  | .reg n => Named.v n.val k
  | .discard => Named.none
def USrc.named (a : USrc) (k : Nat) : Named :=
  match a with
  | .reg n => Named.s n.val k
  | .zero | .lit _ => Named.none
def UDst.named (d : UDst) (k : Nat) : Named :=
  match d with
  | .reg n => Named.s n.val k
  | .discard => Named.none

/-- Bytes of an access (Table 5.2). -/
def Width.bytes : Width → Nat
  | .w1 | .u1 => 1
  | .w2 | .u2 => 2
  | .w4 => 4
  | .w8 => 8
  | .w16 => 16

/-- Registers of an access (Table 5.2). -/
def Width.regs : Width → Nat
  | .w1 | .u1 | .w2 | .u2 | .w4 => 1
  | .w8 => 2
  | .w16 => 4

/-- Registers of the operand group of an atomic (R213). -/
def Aop.group : Aop → Nat
  | .add | .min | .max | .minu | .maxu | .and | .or | .xor | .xchg | .fadd => 1
  | .cas | .add64 | .min64 | .maxu64 | .minu64 => 2
  | .cas64 => 4

/-- Everything an instruction names. -/
def Instr.named : Instr → Named
  | .bra _ => Named.none
  | .brin _ _ => Named.none
  | .brout _ _ => Named.none
  | .bany _ _ => Named.none
  | .ball _ _ => Named.none
  | .call _ _ => Named.none
  | .bsz s _ => Named.s s.val 1
  | .bsnz s _ => Named.s s.val 1
  | .jmpi a => a.named 2
  | .calli a => a.named 2
  | .ret => Named.none
  | .join _ => Named.none
  | .leave _ => Named.none
  | .waitm _ => Named.none
  | .yield => Named.none
  | .nop => Named.none
  | .trap _ => Named.none
  | .brk => Named.none
  | .exit => Named.none
  | .win _ => Named.none
  | .winadd _ => Named.none
  | .rdcr d _ => Named.s d.val 1
  | .rdcrD d _ => Named.s d.val 2
  | .wrcr a _ => a.named 1
  | .rte => Named.none
  | .rdst d a _ => (Named.s d.val 1).and (a.named 1)
  | .wrst d a _ => (d.named 1).and (a.named 1)
  | .launch d a => (Named.v d.val 2).and (Named.v a.val 2)
  | .gbar => Named.none
  | .sleept a => a.named 1
  | .sleeptAbs a => a.named 2
  | .wake => Named.none
  | .setmodeFpmode a => a.named 1
  | .setmodeFpflags a => a.named 1
  | .setmodeOobflags a => a.named 1
  | .setmodeDegencount a => a.named 1
  | .add _ d a b => ((d.named 1).and (a.named 1)).and (b.named 1)
  | .sub _ d a b => ((d.named 1).and (a.named 1)).and (b.named 1)
  | .mul _ d a b => ((d.named 1).and (a.named 1)).and (b.named 1)
  | .mulhi _ d a b => ((d.named 1).and (a.named 1)).and (b.named 1)
  | .mulhiu _ d a b => ((d.named 1).and (a.named 1)).and (b.named 1)
  | .mad _ d a b => ((d.named 1).and (a.named 1)).and (b.named 1)
  | .madw _ d a b => ((d.named 2).and (a.named 1)).and (b.named 1)
  | .add64 _ d a b => ((d.named 2).and (a.named 2)).and (b.named 2)
  | .sub64 _ d a b => ((d.named 2).and (a.named 2)).and (b.named 2)
  | .mul64 _ d a b => ((d.named 2).and (a.named 2)).and (b.named 2)
  | .min _ d a b => ((d.named 1).and (a.named 1)).and (b.named 1)
  | .max _ d a b => ((d.named 1).and (a.named 1)).and (b.named 1)
  | .minu _ d a b => ((d.named 1).and (a.named 1)).and (b.named 1)
  | .maxu _ d a b => ((d.named 1).and (a.named 1)).and (b.named 1)
  | .absd _ d a b => ((d.named 1).and (a.named 1)).and (b.named 1)
  | .csel _ d a b => ((d.named 1).and (a.named 1)).and (b.named 1)
  | .and _ d a b => ((d.named 1).and (a.named 1)).and (b.named 1)
  | .or _ d a b => ((d.named 1).and (a.named 1)).and (b.named 1)
  | .xor _ d a b => ((d.named 1).and (a.named 1)).and (b.named 1)
  | .andn _ d a b => ((d.named 1).and (a.named 1)).and (b.named 1)
  | .shl _ d a b => ((d.named 1).and (a.named 1)).and (b.named 1)
  | .srl _ d a b => ((d.named 1).and (a.named 1)).and (b.named 1)
  | .sra _ d a b => ((d.named 1).and (a.named 1)).and (b.named 1)
  | .rot _ d a b => ((d.named 1).and (a.named 1)).and (b.named 1)
  | .shl64 _ d a b => ((d.named 2).and (a.named 2)).and (b.named 1)
  | .srl64 _ d a b => ((d.named 2).and (a.named 2)).and (b.named 1)
  | .sra64 _ d a b => ((d.named 2).and (a.named 2)).and (b.named 1)
  | .bfe _ d a b => ((d.named 1).and (a.named 1)).and (b.named 1)
  | .bfeu _ d a b => ((d.named 1).and (a.named 1)).and (b.named 1)
  | .bfi _ d a b => ((d.named 1).and (a.named 1)).and (b.named 1)
  | .popc _ d a => (d.named 1).and (a.named 1)
  | .clz _ d a => (d.named 1).and (a.named 1)
  | .brev _ d a => (d.named 1).and (a.named 1)
  | .divs d a b => ((d.named 1).and (a.named 1)).and (b.named 1)
  | .divu d a b => ((d.named 1).and (a.named 1)).and (b.named 1)
  | .rems d a b => ((d.named 1).and (a.named 1)).and (b.named 1)
  | .remu d a b => ((d.named 1).and (a.named 1)).and (b.named 1)
  | .addsat _ d a b => ((d.named 1).and (a.named 1)).and (b.named 1)
  | .subsat _ d a b => ((d.named 1).and (a.named 1)).and (b.named 1)
  | .bmix _ d a b => ((d.named 1).and (a.named 1)).and (b.named 1)
  | .icmpEq _ d a b => ((d.named 1).and (a.named 1)).and (b.named 1)
  | .icmpNe _ d a b => ((d.named 1).and (a.named 1)).and (b.named 1)
  | .icmpLt _ d a b => ((d.named 1).and (a.named 1)).and (b.named 1)
  | .icmpLe _ d a b => ((d.named 1).and (a.named 1)).and (b.named 1)
  | .icmpLtu _ d a b => ((d.named 1).and (a.named 1)).and (b.named 1)
  | .icmpLeu _ d a b => ((d.named 1).and (a.named 1)).and (b.named 1)
  | .icmpmEq _ a b => (a.named 1).and (b.named 1)
  | .icmpmNe _ a b => (a.named 1).and (b.named 1)
  | .icmpmLt _ a b => (a.named 1).and (b.named 1)
  | .icmpmLe _ a b => (a.named 1).and (b.named 1)
  | .icmpmLtu _ a b => (a.named 1).and (b.named 1)
  | .icmpmLeu _ a b => (a.named 1).and (b.named 1)
  | .min64 _ d a b => ((d.named 2).and (a.named 2)).and (b.named 2)
  | .max64 _ d a b => ((d.named 2).and (a.named 2)).and (b.named 2)
  | .minu64 _ d a b => ((d.named 2).and (a.named 2)).and (b.named 2)
  | .maxu64 _ d a b => ((d.named 2).and (a.named 2)).and (b.named 2)
  | .addi d a _ => (d.named 1).and (a.named 1)
  | .andi d a _ => (d.named 1).and (a.named 1)
  | .ori d a _ => (d.named 1).and (a.named 1)
  | .xori d a _ => (d.named 1).and (a.named 1)
  | .shli d a _ => (d.named 1).and (a.named 1)
  | .srli d a _ => (d.named 1).and (a.named 1)
  | .srai d a _ => (d.named 1).and (a.named 1)
  | .muli d a _ => (d.named 1).and (a.named 1)
  | .fadd _ d a b => ((d.named 1).and (a.named 1)).and (b.named 1)
  | .fsub _ d a b => ((d.named 1).and (a.named 1)).and (b.named 1)
  | .fmul _ d a b => ((d.named 1).and (a.named 1)).and (b.named 1)
  | .ffma _ d a b => ((d.named 1).and (a.named 1)).and (b.named 1)
  | .ffms _ d a b => ((d.named 1).and (a.named 1)).and (b.named 1)
  | .fnma _ d a b => ((d.named 1).and (a.named 1)).and (b.named 1)
  | .fmin _ d a b => ((d.named 1).and (a.named 1)).and (b.named 1)
  | .fmax _ d a b => ((d.named 1).and (a.named 1)).and (b.named 1)
  | .fcmpEq _ d a b => ((d.named 1).and (a.named 1)).and (b.named 1)
  | .fcmpNe _ d a b => ((d.named 1).and (a.named 1)).and (b.named 1)
  | .fcmpLt _ d a b => ((d.named 1).and (a.named 1)).and (b.named 1)
  | .fcmpLe _ d a b => ((d.named 1).and (a.named 1)).and (b.named 1)
  | .fcmpUn _ d a b => ((d.named 1).and (a.named 1)).and (b.named 1)
  | .fcmpOd _ d a b => ((d.named 1).and (a.named 1)).and (b.named 1)
  | .fcmpmEq _ a b => (a.named 1).and (b.named 1)
  | .fcmpmNe _ a b => (a.named 1).and (b.named 1)
  | .fcmpmLt _ a b => (a.named 1).and (b.named 1)
  | .fcmpmLe _ a b => (a.named 1).and (b.named 1)
  | .fcmpmUn _ a b => (a.named 1).and (b.named 1)
  | .fcmpmOd _ a b => (a.named 1).and (b.named 1)
  | .hadd2 _ d a b => ((d.named 1).and (a.named 1)).and (b.named 1)
  | .hmul2 _ d a b => ((d.named 1).and (a.named 1)).and (b.named 1)
  | .hfma2 _ d a b => ((d.named 1).and (a.named 1)).and (b.named 1)
  | .hmin2 _ d a b => ((d.named 1).and (a.named 1)).and (b.named 1)
  | .hmax2 _ d a b => ((d.named 1).and (a.named 1)).and (b.named 1)
  | .badd2 _ d a b => ((d.named 1).and (a.named 1)).and (b.named 1)
  | .bmul2 _ d a b => ((d.named 1).and (a.named 1)).and (b.named 1)
  | .bfma2 _ d a b => ((d.named 1).and (a.named 1)).and (b.named 1)
  | .fdot2h _ d a b => ((d.named 1).and (a.named 1)).and (b.named 1)
  | .fdot4q8 _ d a b => ((d.named 1).and (a.named 1)).and (b.named 1)
  | .fcopysign _ d a b => ((d.named 1).and (a.named 1)).and (b.named 1)
  | .fldexp _ d a b => ((d.named 1).and (a.named 1)).and (b.named 1)
  | .fdiv d a b => ((d.named 1).and (a.named 1)).and (b.named 1)
  | .frcp _ d a => (d.named 1).and (a.named 1)
  | .frsq _ d a => (d.named 1).and (a.named 1)
  | .fsqrt _ d a => (d.named 1).and (a.named 1)
  | .fexp2 _ d a => (d.named 1).and (a.named 1)
  | .flog2 _ d a => (d.named 1).and (a.named 1)
  | .fsinp _ d a => (d.named 1).and (a.named 1)
  | .fcosp _ d a => (d.named 1).and (a.named 1)
  | .ffloor _ d a => (d.named 1).and (a.named 1)
  | .fceil _ d a => (d.named 1).and (a.named 1)
  | .ftrunc _ d a => (d.named 1).and (a.named 1)
  | .frint _ d a => (d.named 1).and (a.named 1)
  | .ffract _ d a => (d.named 1).and (a.named 1)
  | .fclass _ d a => (d.named 1).and (a.named 1)
  | .cvtF32S32 _ d a => (d.named 1).and (a.named 1)
  | .cvtF32U32 _ d a => (d.named 1).and (a.named 1)
  | .cvtS32F32 _ d a => (d.named 1).and (a.named 1)
  | .cvtU32F32 _ d a => (d.named 1).and (a.named 1)
  | .packh _ d a b => ((d.named 1).and (a.named 1)).and (b.named 1)
  | .cvtF32HLo _ d a => (d.named 1).and (a.named 1)
  | .cvtF32HHi _ d a => (d.named 1).and (a.named 1)
  | .packb _ d a b => ((d.named 1).and (a.named 1)).and (b.named 1)
  | .cvtF32BLo _ d a => (d.named 1).and (a.named 1)
  | .cvtF32BHi _ d a => (d.named 1).and (a.named 1)
  | .pk8E4 _ d a b => ((d.named 1).and (a.named 1)).and (b.named 1)
  | .pk8E5 _ d a b => ((d.named 1).and (a.named 1)).and (b.named 1)
  | .unpk8E4 _ d a b => ((d.named 1).and (a.named 1)).and (b.named 1)
  | .unpk8E5 _ d a b => ((d.named 1).and (a.named 1)).and (b.named 1)
  | .shfl _ d a b => ((d.named 1).and (a.named 1)).and (b.named 1)
  | .shflup _ d a b => ((d.named 1).and (a.named 1)).and (b.named 1)
  | .shfldn _ d a b => ((d.named 1).and (a.named 1)).and (b.named 1)
  | .shflx _ d a b => ((d.named 1).and (a.named 1)).and (b.named 1)
  | .ballot d a => (d.named 1).and (a.named 1)
  | .vany _ d a => (d.named 1).and (a.named 1)
  | .vall _ d a => (d.named 1).and (a.named 1)
  | .matchEq _ d a => (d.named 1).and (a.named 1)
  | .elect _ d => d.named 1
  | .elects _ d => d.named 1
  | .redadd _ d a => (d.named 1).and (a.named 1)
  | .redmin _ d a => (d.named 1).and (a.named 1)
  | .redmax _ d a => (d.named 1).and (a.named 1)
  | .redand _ d a => (d.named 1).and (a.named 1)
  | .redor _ d a => (d.named 1).and (a.named 1)
  | .redxor _ d a => (d.named 1).and (a.named 1)
  | .mand _ _ _ => Named.none
  | .mor _ _ _ => Named.none
  | .mxor _ _ _ => Named.none
  | .mandn _ _ _ => Named.none
  | .mact _ => Named.none
  | .mclr _ => Named.none
  | .mpop d _ => d.named 1
  | .mfromv _ a => a.named 1
  | .mtov _ d _ => d.named 1
  | .mtos d _ => d.named 1
  | .mfroms _ a => a.named 1
  | .prefixadd _ d a => (d.named 1).and (a.named 1)
  | .sadd d a b => ((d.named 1).and (a.named 1)).and (b.named 1)
  | .ssub d a b => ((d.named 1).and (a.named 1)).and (b.named 1)
  | .smul d a b => ((d.named 1).and (a.named 1)).and (b.named 1)
  | .smad d a b => ((d.named 1).and (a.named 1)).and (b.named 1)
  | .sand d a b => ((d.named 1).and (a.named 1)).and (b.named 1)
  | .sor d a b => ((d.named 1).and (a.named 1)).and (b.named 1)
  | .sxor d a b => ((d.named 1).and (a.named 1)).and (b.named 1)
  | .sshl d a b => ((d.named 1).and (a.named 1)).and (b.named 1)
  | .sshr d a b => ((d.named 1).and (a.named 1)).and (b.named 1)
  | .ssra d a b => ((d.named 1).and (a.named 1)).and (b.named 1)
  | .smin d a b => ((d.named 1).and (a.named 1)).and (b.named 1)
  | .smax d a b => ((d.named 1).and (a.named 1)).and (b.named 1)
  | .sminu d a b => ((d.named 1).and (a.named 1)).and (b.named 1)
  | .smaxu d a b => ((d.named 1).and (a.named 1)).and (b.named 1)
  | .sadd64 d a b => ((d.named 2).and (a.named 2)).and (b.named 2)
  | .scmpEq d a b => ((d.named 1).and (a.named 1)).and (b.named 1)
  | .scmpNe d a b => ((d.named 1).and (a.named 1)).and (b.named 1)
  | .scmpLt d a b => ((d.named 1).and (a.named 1)).and (b.named 1)
  | .scmpLe d a b => ((d.named 1).and (a.named 1)).and (b.named 1)
  | .scmpLtu d a b => ((d.named 1).and (a.named 1)).and (b.named 1)
  | .scmpLeu d a b => ((d.named 1).and (a.named 1)).and (b.named 1)
  | .sbcast d a => (d.named 1).and (a.named 1)
  | .srdlane d a b => ((d.named 1).and (Named.v a.val 1)).and (b.named 1)
  | .swrlane d a b => ((d.named 1).and (a.named 1)).and (b.named 1)
  | .sdivu d a b => ((d.named 1).and (a.named 1)).and (b.named 1)
  | .sremu d a b => ((d.named 1).and (a.named 1)).and (b.named 1)
  | .ssel d a b => ((d.named 1).and (a.named 1)).and (b.named 1)
  | .sfadd d a b => ((d.named 1).and (a.named 1)).and (b.named 1)
  | .sfmul d a b => ((d.named 1).and (a.named 1)).and (b.named 1)
  | .sffma d a b => ((d.named 1).and (a.named 1)).and (b.named 1)
  | .scvtf d a => (d.named 1).and (a.named 1)
  | .scvti d a => (d.named 1).and (a.named 1)
  | .ld q w _ d a => ((Named.q q).and (d.named w.regs)).and (a.named 1)
  | .st q w _ d a => ((Named.q q).and (d.named w.regs)).and (a.named 1)
  | .ldro q w _ d a => ((Named.q q).and (d.named w.regs)).and (a.named 1)
  | .ldf q _ d a => ((Named.q q).and (d.named 1)).and (a.named 1)
  | .pref q _ _ a => (Named.q q).and (a.named 1)
  | .ldl w _ d a => (d.named w.regs).and (a.named 1)
  | .stl w _ d a => (d.named w.regs).and (a.named 1)
  | .ldu q w _ d a => ((Named.q q).and (Named.s d.val w.regs)).and (a.named 1)
  | .recset q a => (Named.q q).and (Named.s a.val 4)
  | .recget q d => (Named.q q).and (Named.s d.val 4)
  | .recld q a => (Named.q q).and (Named.s a.val 2)
  | .sample q _ _ d a => ((Named.q q).and (Named.v d.val 4)).and (Named.v a.val 2)
  | .cacheWb q _ a => (Named.q q).and (a.named 1)
  | .cacheInv q _ a => (Named.q q).and (a.named 1)
  | .ldp w d a _ => (d.named w.regs).and (a.named 1)
  | .stp w d a _ => (d.named w.regs).and (a.named 1)
  | .ldpd w d a _ => (d.named w.regs).and (a.named 1)
  | .stpd w d a _ => (d.named w.regs).and (a.named 1)
  | .ldc w d a _ => (d.named w.regs).and (a.named 1)
  | .stc w d a _ => (d.named w.regs).and (a.named 1)
  | .atomp op d a _ _ => (Named.v d.val op.group).and (a.named 1)
  | .atom q x d a => ((Named.q q).and (Named.v d.val x.op.group)).and (a.named 1)
  | .red q x d a => ((Named.q q).and (d.named (if x.op.wide then 2 else 1))).and (a.named 1)
  | .fenceAcq _ => Named.none
  | .fenceRel _ => Named.none
  | .fenceAr _ => Named.none
  | .fenceSc _ => Named.none
  | .fencero _ => Named.none
  | .waitu q wide d a x => ((((Named.q q).and (Named.s d.val (if wide then 3 else 2))).and (a.named 1)).and (Named.s x.opnd.val (if wide then 2 else 1))).and (Named.s x.tmo.val 1)
  | .strel q w _ d a => ((Named.q q).and (d.named w.regs)).and (a.named 1)
  | .ldacq q w _ d a => ((Named.q q).and (d.named w.regs)).and (a.named 1)
  | .kick d a b => ((d.named 1).and (a.named 1)).and (b.named 1)
  | .advance d => d.named 1
  | .finit _ a => a.named 1
  | .farrive d _ => d.named 1
  | .farriveRank _ b => b.named 1
  | .fwait d _ b => (d.named 1).and (b.named 1)
  | .ftest d _ b => (d.named 1).and (b.named 1)
  | .fexpect _ a b => (a.named 1).and (b.named 1)
  | .waitc _ b => b.named 1
  | .rdcnt d _ => d.named 1
  | .copy d a => (d.named 1).and (Named.s a.val 8)
  | .mshape a => a.named 1
  | .mlds a b _ => (a.named 1).and (b.named 1)
  | .mldsg a b _ q => ((a.named 1).and (b.named 1)).and (Named.q q)
  | .mscale a _ _ => a.named 1
  | .mswap => Named.none
  | .mma _ a b _ => (a.named 1).and (b.named 1)
  | .mmag _ a b _ q => ((a.named 1).and (b.named 1)).and (Named.q q)
  | .mzero _ _ => Named.none
  | .mst _ a b _ => (a.named 1).and (b.named 1)
  | .mld _ a b _ => (a.named 1).and (b.named 1)
  | .mstPlane a _ => a.named 1
  | .mldPlane a _ => a.named 1
  | .mstat d _ => d.named 1
  | .mrel => Named.none
  | .nev d a b x => (((Named.v d.val x.nout.toNat).and (a.named (if x.mem then 1 else (x.nin.toNat + 1) / 2))).and (b.named 1)).and ((if x.mem then Named.q x.q else Named.none))
  | .netldFetch a => a.named 1
  | .netldDrop a => a.named 1
  | .emitc d a b => ((d.named 1).and (a.named 1)).and (Named.s b.val 2)
  | .raster d a => (d.named 1).and (Named.s a.val 2)
  | .present d a => (d.named 1).and (Named.s a.val 2)
  | .trace d a x => ((((Named.v d.val 4).and (Named.v a.val 8)).and (Named.s x.hdr.val 2)).and (Named.s x.gen.val 1)).and (Named.s x.tmo.val 1)
  | .traceocc d a x => ((((Named.v d.val 4).and (Named.v a.val 8)).and (Named.s x.hdr.val 2)).and (Named.s x.gen.val 1)).and (Named.s x.tmo.val 1)
  | .build d a => (d.named 1).and (Named.s a.val 2)
  | .refit d a => (d.named 1).and (Named.s a.val 2)
  | .cairnw d a b => ((d.named 1).and (Named.s a.val 2)).and (b.named 1)
  | .genpin d a b => ((d.named 1).and (Named.s a.val 2)).and (b.named 1)
  | .gendrop d a b => ((d.named 1).and (Named.s a.val 2)).and (b.named 1)
  | .refill d _ b _ => (Named.v d.val 1).and (Named.s b.val 2)
  | .pixpush d a b => ((d.named 1).and (a.named 1)).and (Named.s b.val 2)
  | .nodedec d a b => ((Named.v d.val 6).and (Named.v a.val 4)).and (Named.v b.val 2)
  | .morton d a b => ((Named.v d.val 1).and (Named.v a.val 3)).and (Named.s b.val 5)
  | .pathStarvation _ | .readyWaveStarvation _ | .laneBurstCount _ _ | .loadReturn _ _ | .divideResult _ _
  | .fdivResult _ _ | .launchStatus _ _ | .committedStorePerform _ _ | .paddockAccessPerform _ _ | .sideLogReplay _ _
  | .tetherArm _ | .tetherWake _ | .tetherTimeout _ | .tetherArmRetry _ | .sleeptDeadline _ | .copyRowComplete _ _
  | .copyRequestFail _ _ | .remoteArrivalApply _ | .fwaitWake _ | .arrayFillComplete _ _ | .mmaRowComplete _ _
  | .arrayOpComplete _ _ | .arraySerialOpStart _ _ | .bandWake _ _ | .bandIdleOff _ _ | .flockTileClose _ _
  | .flockTileComplete _ _ | .nevHandleComplete _ _ | .cairnPark _ | .cairnResume _ | .cairnTimeout _ | .rayEnd _
  | .buildStart _ | .buildSlotTake _ | .cairnRaise _ _ | .treeLink _ | .buildFail _ _ | .compactorReclaim _ _ _
  | .compactorFree _ _ _ | .rasterStart _ | .rasterSmallqResume _ | .rasterTileFlush _ _ | .rasterTileFinish _ _
  | .rasterDone _ | .presentImageRead _ | .collieDecision _ | .streamSlotSend _ | .hostQueueTake _
  | .childLaunchTake _ | .waitEventMet _ | .drovePlace _ _ | .penClaimComplete _ | .claimTimeout _
  | .backfillStop _ _ | .timedStart _ | .timesliceExpire _ | .debugPreempt _ | .thermalMigrate _ _ | .trapEntry _
  | .savedTetherWake _ | .savedWaveDeadline _ _ | .droveRestore _ _ | .waveEnd _ | .gridRetire _ | .contextEnable _
  | .contextKill _ | .schedulerBlockRead | .policyBlockRead | .powerBlockRead | .fabricBlockRead | .pagerTableRead _
  | .inval | .invalComplete _ | .migrate | .dup | .undup | .hotcfg | .frames | .brand | .attest | .upcall _ _ _
  | .pagerWaitTimeout _ _ | .pagerMap _ _ | .pagerRefuse _ _ | .hotIntervalEnd _ | .dupCollapseAck _ _
  | .hostRdmaWrite _ _ | .hostRdmaRead _ _ | .hostRdmaAtomic _ _ _ _ | .flitReceive _ _ _ _ _ | .linkRetrainDone _ _
  | .eccCorrected _ _ _ | .uncorrectableError _ _ _ | .selftestStart _ _ | .selftestResult _ _ _
  | .hirselMessageReceive _ _ _ _ _ _ _ | .hirselAck _ _ | .hirselRetransmit _ | .fabricTimeout _ | .ptpMessage _
  | .announceTimeout | .budgetMessage _ _ _ | .budgetEpoch | .powerLimitStretch _ | .currentLimitStretch _
  | .droopStretch _ | .thermalTrip _ | .thermalTripEnd _ | .firmwareFreeze | .watchdogFloor | .firmwareSignal _
  | .firmwareSlotTakeover | .firmwareVerify _ _ _ | .functionReady _ | .hostWriteAck _ | .portDown _ | .portUp _
  | .portmodeDrainDone | .clockStretchEnd _ | .bandWakeRateWaitEnd _ _ => Named.none

/-- The class of an instruction (Table 5.8); an event of the machine has none, written 16. -/
def Instr.cls : Instr → Nat
  | .bra _ | .brin _ _ | .brout _ _ | .bany _ _ | .ball _ _ | .call _ _ | .bsz _ _ | .bsnz _ _ | .jmpi _ | .calli _
  | .ret | .join _ | .leave _ | .waitm _ | .yield => 0
  | .nop | .trap _ | .brk | .exit | .win _ | .winadd _ | .rdcr _ _ | .rdcrD _ _ | .wrcr _ _ | .rte | .rdst _ _ _
  | .wrst _ _ _ | .launch _ _ | .gbar | .sleept _ | .sleeptAbs _ | .wake | .setmodeFpmode _ | .setmodeFpflags _
  | .setmodeOobflags _ | .setmodeDegencount _ => 1
  | .add _ _ _ _ | .sub _ _ _ _ | .mul _ _ _ _ | .mulhi _ _ _ _ | .mulhiu _ _ _ _ | .mad _ _ _ _ | .madw _ _ _ _
  | .add64 _ _ _ _ | .sub64 _ _ _ _ | .mul64 _ _ _ _ | .min _ _ _ _ | .max _ _ _ _ | .minu _ _ _ _ | .maxu _ _ _ _
  | .absd _ _ _ _ | .csel _ _ _ _ | .and _ _ _ _ | .or _ _ _ _ | .xor _ _ _ _ | .andn _ _ _ _ | .shl _ _ _ _
  | .srl _ _ _ _ | .sra _ _ _ _ | .rot _ _ _ _ | .shl64 _ _ _ _ | .srl64 _ _ _ _ | .sra64 _ _ _ _ | .bfe _ _ _ _
  | .bfeu _ _ _ _ | .bfi _ _ _ _ | .popc _ _ _ | .clz _ _ _ | .brev _ _ _ | .divs _ _ _ | .divu _ _ _ | .rems _ _ _
  | .remu _ _ _ | .addsat _ _ _ _ | .subsat _ _ _ _ | .bmix _ _ _ _ | .icmpEq _ _ _ _ | .icmpNe _ _ _ _
  | .icmpLt _ _ _ _ | .icmpLe _ _ _ _ | .icmpLtu _ _ _ _ | .icmpLeu _ _ _ _ | .icmpmEq _ _ _ | .icmpmNe _ _ _
  | .icmpmLt _ _ _ | .icmpmLe _ _ _ | .icmpmLtu _ _ _ | .icmpmLeu _ _ _ | .min64 _ _ _ _ | .max64 _ _ _ _
  | .minu64 _ _ _ _ | .maxu64 _ _ _ _ => 2
  | .addi _ _ _ | .andi _ _ _ | .ori _ _ _ | .xori _ _ _ | .shli _ _ _ | .srli _ _ _ | .srai _ _ _ | .muli _ _ _ => 3
  | .fadd _ _ _ _ | .fsub _ _ _ _ | .fmul _ _ _ _ | .ffma _ _ _ _ | .ffms _ _ _ _ | .fnma _ _ _ _ | .fmin _ _ _ _
  | .fmax _ _ _ _ | .fcmpEq _ _ _ _ | .fcmpNe _ _ _ _ | .fcmpLt _ _ _ _ | .fcmpLe _ _ _ _ | .fcmpUn _ _ _ _
  | .fcmpOd _ _ _ _ | .fcmpmEq _ _ _ | .fcmpmNe _ _ _ | .fcmpmLt _ _ _ | .fcmpmLe _ _ _ | .fcmpmUn _ _ _
  | .fcmpmOd _ _ _ | .hadd2 _ _ _ _ | .hmul2 _ _ _ _ | .hfma2 _ _ _ _ | .hmin2 _ _ _ _ | .hmax2 _ _ _ _
  | .badd2 _ _ _ _ | .bmul2 _ _ _ _ | .bfma2 _ _ _ _ | .fdot2h _ _ _ _ | .fdot4q8 _ _ _ _ | .fcopysign _ _ _ _
  | .fldexp _ _ _ _ | .fdiv _ _ _ => 4
  | .frcp _ _ _ | .frsq _ _ _ | .fsqrt _ _ _ | .fexp2 _ _ _ | .flog2 _ _ _ | .fsinp _ _ _ | .fcosp _ _ _
  | .ffloor _ _ _ | .fceil _ _ _ | .ftrunc _ _ _ | .frint _ _ _ | .ffract _ _ _ | .fclass _ _ _ | .cvtF32S32 _ _ _
  | .cvtF32U32 _ _ _ | .cvtS32F32 _ _ _ | .cvtU32F32 _ _ _ | .packh _ _ _ _ | .cvtF32HLo _ _ _ | .cvtF32HHi _ _ _
  | .packb _ _ _ _ | .cvtF32BLo _ _ _ | .cvtF32BHi _ _ _ | .pk8E4 _ _ _ _ | .pk8E5 _ _ _ _ | .unpk8E4 _ _ _ _
  | .unpk8E5 _ _ _ _ => 5
  | .shfl _ _ _ _ | .shflup _ _ _ _ | .shfldn _ _ _ _ | .shflx _ _ _ _ | .ballot _ _ | .vany _ _ _ | .vall _ _ _
  | .matchEq _ _ _ | .elect _ _ | .elects _ _ | .redadd _ _ _ | .redmin _ _ _ | .redmax _ _ _ | .redand _ _ _
  | .redor _ _ _ | .redxor _ _ _ | .mand _ _ _ | .mor _ _ _ | .mxor _ _ _ | .mandn _ _ _ | .mact _ | .mclr _
  | .mpop _ _ | .mfromv _ _ | .mtov _ _ _ | .mtos _ _ | .mfroms _ _ | .prefixadd _ _ _ => 6
  | .sadd _ _ _ | .ssub _ _ _ | .smul _ _ _ | .smad _ _ _ | .sand _ _ _ | .sor _ _ _ | .sxor _ _ _ | .sshl _ _ _
  | .sshr _ _ _ | .ssra _ _ _ | .smin _ _ _ | .smax _ _ _ | .sminu _ _ _ | .smaxu _ _ _ | .sadd64 _ _ _
  | .scmpEq _ _ _ | .scmpNe _ _ _ | .scmpLt _ _ _ | .scmpLe _ _ _ | .scmpLtu _ _ _ | .scmpLeu _ _ _ | .sbcast _ _
  | .srdlane _ _ _ | .swrlane _ _ _ | .sdivu _ _ _ | .sremu _ _ _ | .ssel _ _ _ | .sfadd _ _ _ | .sfmul _ _ _
  | .sffma _ _ _ | .scvtf _ _ | .scvti _ _ => 7
  | .ld _ _ _ _ _ | .st _ _ _ _ _ | .ldro _ _ _ _ _ | .ldf _ _ _ _ | .pref _ _ _ _ | .ldl _ _ _ _ | .stl _ _ _ _
  | .ldu _ _ _ _ _ | .recset _ _ | .recget _ _ | .recld _ _ | .sample _ _ _ _ _ | .cacheWb _ _ _ | .cacheInv _ _ _ => 8
  | .ldp _ _ _ _ | .stp _ _ _ _ | .ldpd _ _ _ _ | .stpd _ _ _ _ | .ldc _ _ _ _ | .stc _ _ _ _ | .atomp _ _ _ _ _ => 9
  | .atom _ _ _ _ | .red _ _ _ _ | .fenceAcq _ | .fenceRel _ | .fenceAr _ | .fenceSc _ | .fencero _
  | .waitu _ _ _ _ _ | .strel _ _ _ _ _ | .ldacq _ _ _ _ _ => 10
  | .kick _ _ _ | .advance _ | .finit _ _ | .farrive _ _ | .farriveRank _ _ | .fwait _ _ _ | .ftest _ _ _
  | .fexpect _ _ _ | .waitc _ _ | .rdcnt _ _ | .copy _ _ => 11
  | .mshape _ | .mlds _ _ _ | .mldsg _ _ _ _ | .mscale _ _ _ | .mswap | .mma _ _ _ _ | .mmag _ _ _ _ _ | .mzero _ _
  | .mst _ _ _ _ | .mld _ _ _ _ | .mstPlane _ _ | .mldPlane _ _ | .mstat _ _ | .mrel => 12
  | .nev _ _ _ _ | .netldFetch _ | .netldDrop _ | .emitc _ _ _ | .raster _ _ | .present _ _ => 13
  | .trace _ _ _ | .traceocc _ _ _ | .build _ _ | .refit _ _ | .cairnw _ _ _ | .genpin _ _ _ | .gendrop _ _ _
  | .refill _ _ _ _ | .pixpush _ _ _ | .nodedec _ _ _ | .morton _ _ _ => 14
  | .pathStarvation _ | .readyWaveStarvation _ | .laneBurstCount _ _ | .loadReturn _ _ | .divideResult _ _
  | .fdivResult _ _ | .launchStatus _ _ | .committedStorePerform _ _ | .paddockAccessPerform _ _ | .sideLogReplay _ _
  | .tetherArm _ | .tetherWake _ | .tetherTimeout _ | .tetherArmRetry _ | .sleeptDeadline _ | .copyRowComplete _ _
  | .copyRequestFail _ _ | .remoteArrivalApply _ | .fwaitWake _ | .arrayFillComplete _ _ | .mmaRowComplete _ _
  | .arrayOpComplete _ _ | .arraySerialOpStart _ _ | .bandWake _ _ | .bandIdleOff _ _ | .flockTileClose _ _
  | .flockTileComplete _ _ | .nevHandleComplete _ _ | .cairnPark _ | .cairnResume _ | .cairnTimeout _ | .rayEnd _
  | .buildStart _ | .buildSlotTake _ | .cairnRaise _ _ | .treeLink _ | .buildFail _ _ | .compactorReclaim _ _ _
  | .compactorFree _ _ _ | .rasterStart _ | .rasterSmallqResume _ | .rasterTileFlush _ _ | .rasterTileFinish _ _
  | .rasterDone _ | .presentImageRead _ | .collieDecision _ | .streamSlotSend _ | .hostQueueTake _
  | .childLaunchTake _ | .waitEventMet _ | .drovePlace _ _ | .penClaimComplete _ | .claimTimeout _
  | .backfillStop _ _ | .timedStart _ | .timesliceExpire _ | .debugPreempt _ | .thermalMigrate _ _ | .trapEntry _
  | .savedTetherWake _ | .savedWaveDeadline _ _ | .droveRestore _ _ | .waveEnd _ | .gridRetire _ | .contextEnable _
  | .contextKill _ | .schedulerBlockRead | .policyBlockRead | .powerBlockRead | .fabricBlockRead | .pagerTableRead _
  | .inval | .invalComplete _ | .migrate | .dup | .undup | .hotcfg | .frames | .brand | .attest | .upcall _ _ _
  | .pagerWaitTimeout _ _ | .pagerMap _ _ | .pagerRefuse _ _ | .hotIntervalEnd _ | .dupCollapseAck _ _
  | .hostRdmaWrite _ _ | .hostRdmaRead _ _ | .hostRdmaAtomic _ _ _ _ | .flitReceive _ _ _ _ _ | .linkRetrainDone _ _
  | .eccCorrected _ _ _ | .uncorrectableError _ _ _ | .selftestStart _ _ | .selftestResult _ _ _
  | .hirselMessageReceive _ _ _ _ _ _ _ | .hirselAck _ _ | .hirselRetransmit _ | .fabricTimeout _ | .ptpMessage _
  | .announceTimeout | .budgetMessage _ _ _ | .budgetEpoch | .powerLimitStretch _ | .currentLimitStretch _
  | .droopStretch _ | .thermalTrip _ | .thermalTripEnd _ | .firmwareFreeze | .watchdogFloor | .firmwareSignal _
  | .firmwareSlotTakeover | .firmwareVerify _ _ _ | .functionReady _ | .hostWriteAck _ | .portDown _ | .portUp _
  | .portmodeDrainDone | .clockStretchEnd _ | .bandWakeRateWaitEnd _ _ => 16

/-- The yield-class instructions, always potential switch points (R24). -/
def Instr.yieldClass : Instr → Bool
  | .bra _ | .brin _ _ | .brout _ _ | .bany _ _ | .ball _ _ | .call _ _ | .bsz _ _ | .bsnz _ _ | .jmpi _ | .calli _
  | .ret | .join _ | .leave _ | .waitm _ | .yield | .waitc _ _ | .fwait _ _ _ | .waitu _ _ _ _ _ | .gbar | .sleept _
  | .sleeptAbs _ | .elect _ _ | .elects _ _ | .wake | .nev _ _ _ _ | .cairnw _ _ _ | .launch _ _ => true
  | .nop | .trap _ | .brk | .exit | .win _ | .winadd _ | .rdcr _ _ | .rdcrD _ _ | .wrcr _ _ | .rte | .rdst _ _ _
  | .wrst _ _ _ | .setmodeFpmode _ | .setmodeFpflags _ | .setmodeOobflags _ | .setmodeDegencount _ | .add _ _ _ _
  | .sub _ _ _ _ | .mul _ _ _ _ | .mulhi _ _ _ _ | .mulhiu _ _ _ _ | .mad _ _ _ _ | .madw _ _ _ _ | .add64 _ _ _ _
  | .sub64 _ _ _ _ | .mul64 _ _ _ _ | .min _ _ _ _ | .max _ _ _ _ | .minu _ _ _ _ | .maxu _ _ _ _ | .absd _ _ _ _
  | .csel _ _ _ _ | .and _ _ _ _ | .or _ _ _ _ | .xor _ _ _ _ | .andn _ _ _ _ | .shl _ _ _ _ | .srl _ _ _ _
  | .sra _ _ _ _ | .rot _ _ _ _ | .shl64 _ _ _ _ | .srl64 _ _ _ _ | .sra64 _ _ _ _ | .bfe _ _ _ _ | .bfeu _ _ _ _
  | .bfi _ _ _ _ | .popc _ _ _ | .clz _ _ _ | .brev _ _ _ | .divs _ _ _ | .divu _ _ _ | .rems _ _ _ | .remu _ _ _
  | .addsat _ _ _ _ | .subsat _ _ _ _ | .bmix _ _ _ _ | .icmpEq _ _ _ _ | .icmpNe _ _ _ _ | .icmpLt _ _ _ _
  | .icmpLe _ _ _ _ | .icmpLtu _ _ _ _ | .icmpLeu _ _ _ _ | .icmpmEq _ _ _ | .icmpmNe _ _ _ | .icmpmLt _ _ _
  | .icmpmLe _ _ _ | .icmpmLtu _ _ _ | .icmpmLeu _ _ _ | .min64 _ _ _ _ | .max64 _ _ _ _ | .minu64 _ _ _ _
  | .maxu64 _ _ _ _ | .addi _ _ _ | .andi _ _ _ | .ori _ _ _ | .xori _ _ _ | .shli _ _ _ | .srli _ _ _ | .srai _ _ _
  | .muli _ _ _ | .fadd _ _ _ _ | .fsub _ _ _ _ | .fmul _ _ _ _ | .ffma _ _ _ _ | .ffms _ _ _ _ | .fnma _ _ _ _
  | .fmin _ _ _ _ | .fmax _ _ _ _ | .fcmpEq _ _ _ _ | .fcmpNe _ _ _ _ | .fcmpLt _ _ _ _ | .fcmpLe _ _ _ _
  | .fcmpUn _ _ _ _ | .fcmpOd _ _ _ _ | .fcmpmEq _ _ _ | .fcmpmNe _ _ _ | .fcmpmLt _ _ _ | .fcmpmLe _ _ _
  | .fcmpmUn _ _ _ | .fcmpmOd _ _ _ | .hadd2 _ _ _ _ | .hmul2 _ _ _ _ | .hfma2 _ _ _ _ | .hmin2 _ _ _ _
  | .hmax2 _ _ _ _ | .badd2 _ _ _ _ | .bmul2 _ _ _ _ | .bfma2 _ _ _ _ | .fdot2h _ _ _ _ | .fdot4q8 _ _ _ _
  | .fcopysign _ _ _ _ | .fldexp _ _ _ _ | .fdiv _ _ _ | .frcp _ _ _ | .frsq _ _ _ | .fsqrt _ _ _ | .fexp2 _ _ _
  | .flog2 _ _ _ | .fsinp _ _ _ | .fcosp _ _ _ | .ffloor _ _ _ | .fceil _ _ _ | .ftrunc _ _ _ | .frint _ _ _
  | .ffract _ _ _ | .fclass _ _ _ | .cvtF32S32 _ _ _ | .cvtF32U32 _ _ _ | .cvtS32F32 _ _ _ | .cvtU32F32 _ _ _
  | .packh _ _ _ _ | .cvtF32HLo _ _ _ | .cvtF32HHi _ _ _ | .packb _ _ _ _ | .cvtF32BLo _ _ _ | .cvtF32BHi _ _ _
  | .pk8E4 _ _ _ _ | .pk8E5 _ _ _ _ | .unpk8E4 _ _ _ _ | .unpk8E5 _ _ _ _ | .shfl _ _ _ _ | .shflup _ _ _ _
  | .shfldn _ _ _ _ | .shflx _ _ _ _ | .ballot _ _ | .vany _ _ _ | .vall _ _ _ | .matchEq _ _ _ | .redadd _ _ _
  | .redmin _ _ _ | .redmax _ _ _ | .redand _ _ _ | .redor _ _ _ | .redxor _ _ _ | .mand _ _ _ | .mor _ _ _
  | .mxor _ _ _ | .mandn _ _ _ | .mact _ | .mclr _ | .mpop _ _ | .mfromv _ _ | .mtov _ _ _ | .mtos _ _ | .mfroms _ _
  | .prefixadd _ _ _ | .sadd _ _ _ | .ssub _ _ _ | .smul _ _ _ | .smad _ _ _ | .sand _ _ _ | .sor _ _ _ | .sxor _ _ _
  | .sshl _ _ _ | .sshr _ _ _ | .ssra _ _ _ | .smin _ _ _ | .smax _ _ _ | .sminu _ _ _ | .smaxu _ _ _ | .sadd64 _ _ _
  | .scmpEq _ _ _ | .scmpNe _ _ _ | .scmpLt _ _ _ | .scmpLe _ _ _ | .scmpLtu _ _ _ | .scmpLeu _ _ _ | .sbcast _ _
  | .srdlane _ _ _ | .swrlane _ _ _ | .sdivu _ _ _ | .sremu _ _ _ | .ssel _ _ _ | .sfadd _ _ _ | .sfmul _ _ _
  | .sffma _ _ _ | .scvtf _ _ | .scvti _ _ | .ld _ _ _ _ _ | .st _ _ _ _ _ | .ldro _ _ _ _ _ | .ldf _ _ _ _
  | .pref _ _ _ _ | .ldl _ _ _ _ | .stl _ _ _ _ | .ldu _ _ _ _ _ | .recset _ _ | .recget _ _ | .recld _ _
  | .sample _ _ _ _ _ | .cacheWb _ _ _ | .cacheInv _ _ _ | .ldp _ _ _ _ | .stp _ _ _ _ | .ldpd _ _ _ _
  | .stpd _ _ _ _ | .ldc _ _ _ _ | .stc _ _ _ _ | .atomp _ _ _ _ _ | .atom _ _ _ _ | .red _ _ _ _ | .fenceAcq _
  | .fenceRel _ | .fenceAr _ | .fenceSc _ | .fencero _ | .strel _ _ _ _ _ | .ldacq _ _ _ _ _ | .kick _ _ _
  | .advance _ | .finit _ _ | .farrive _ _ | .farriveRank _ _ | .ftest _ _ _ | .fexpect _ _ _ | .rdcnt _ _
  | .copy _ _ | .mshape _ | .mlds _ _ _ | .mldsg _ _ _ _ | .mscale _ _ _ | .mswap | .mma _ _ _ _ | .mmag _ _ _ _ _
  | .mzero _ _ | .mst _ _ _ _ | .mld _ _ _ _ | .mstPlane _ _ | .mldPlane _ _ | .mstat _ _ | .mrel | .netldFetch _
  | .netldDrop _ | .emitc _ _ _ | .raster _ _ | .present _ _ | .trace _ _ _ | .traceocc _ _ _ | .build _ _
  | .refit _ _ | .genpin _ _ _ | .gendrop _ _ _ | .refill _ _ _ _ | .pixpush _ _ _ | .nodedec _ _ _ | .morton _ _ _
  | .pathStarvation _ | .readyWaveStarvation _ | .laneBurstCount _ _ | .loadReturn _ _ | .divideResult _ _
  | .fdivResult _ _ | .launchStatus _ _ | .committedStorePerform _ _ | .paddockAccessPerform _ _ | .sideLogReplay _ _
  | .tetherArm _ | .tetherWake _ | .tetherTimeout _ | .tetherArmRetry _ | .sleeptDeadline _ | .copyRowComplete _ _
  | .copyRequestFail _ _ | .remoteArrivalApply _ | .fwaitWake _ | .arrayFillComplete _ _ | .mmaRowComplete _ _
  | .arrayOpComplete _ _ | .arraySerialOpStart _ _ | .bandWake _ _ | .bandIdleOff _ _ | .flockTileClose _ _
  | .flockTileComplete _ _ | .nevHandleComplete _ _ | .cairnPark _ | .cairnResume _ | .cairnTimeout _ | .rayEnd _
  | .buildStart _ | .buildSlotTake _ | .cairnRaise _ _ | .treeLink _ | .buildFail _ _ | .compactorReclaim _ _ _
  | .compactorFree _ _ _ | .rasterStart _ | .rasterSmallqResume _ | .rasterTileFlush _ _ | .rasterTileFinish _ _
  | .rasterDone _ | .presentImageRead _ | .collieDecision _ | .streamSlotSend _ | .hostQueueTake _
  | .childLaunchTake _ | .waitEventMet _ | .drovePlace _ _ | .penClaimComplete _ | .claimTimeout _
  | .backfillStop _ _ | .timedStart _ | .timesliceExpire _ | .debugPreempt _ | .thermalMigrate _ _ | .trapEntry _
  | .savedTetherWake _ | .savedWaveDeadline _ _ | .droveRestore _ _ | .waveEnd _ | .gridRetire _ | .contextEnable _
  | .contextKill _ | .schedulerBlockRead | .policyBlockRead | .powerBlockRead | .fabricBlockRead | .pagerTableRead _
  | .inval | .invalComplete _ | .migrate | .dup | .undup | .hotcfg | .frames | .brand | .attest | .upcall _ _ _
  | .pagerWaitTimeout _ _ | .pagerMap _ _ | .pagerRefuse _ _ | .hotIntervalEnd _ | .dupCollapseAck _ _
  | .hostRdmaWrite _ _ | .hostRdmaRead _ _ | .hostRdmaAtomic _ _ _ _ | .flitReceive _ _ _ _ _ | .linkRetrainDone _ _
  | .eccCorrected _ _ _ | .uncorrectableError _ _ _ | .selftestStart _ _ | .selftestResult _ _ _
  | .hirselMessageReceive _ _ _ _ _ _ _ | .hirselAck _ _ | .hirselRetransmit _ | .fabricTimeout _ | .ptpMessage _
  | .announceTimeout | .budgetMessage _ _ _ | .budgetEpoch | .powerLimitStretch _ | .currentLimitStretch _
  | .droopStretch _ | .thermalTrip _ | .thermalTripEnd _ | .firmwareFreeze | .watchdogFloor | .firmwareSignal _
  | .firmwareSlotTakeover | .firmwareVerify _ _ _ | .functionReady _ | .hostWriteAck _ | .portDown _ | .portUp _
  | .portmodeDrainDone | .clockStretchEnd _ | .bandWakeRateWaitEnd _ _ => false

/-- The instructions that issue alone (R138, R367). -/
def Instr.alone : Instr → Bool
  | .win _ | .winadd _ | .setmodeFpmode _ | .setmodeFpflags _ | .setmodeOobflags _ | .setmodeDegencount _ | .wrcr _ _
  | .wrst _ _ _ | .rte => true
  | .bra _ | .brin _ _ | .brout _ _ | .bany _ _ | .ball _ _ | .call _ _ | .bsz _ _ | .bsnz _ _ | .jmpi _ | .calli _
  | .ret | .join _ | .leave _ | .waitm _ | .yield | .nop | .trap _ | .brk | .exit | .rdcr _ _ | .rdcrD _ _
  | .rdst _ _ _ | .launch _ _ | .gbar | .sleept _ | .sleeptAbs _ | .wake | .add _ _ _ _ | .sub _ _ _ _ | .mul _ _ _ _
  | .mulhi _ _ _ _ | .mulhiu _ _ _ _ | .mad _ _ _ _ | .madw _ _ _ _ | .add64 _ _ _ _ | .sub64 _ _ _ _
  | .mul64 _ _ _ _ | .min _ _ _ _ | .max _ _ _ _ | .minu _ _ _ _ | .maxu _ _ _ _ | .absd _ _ _ _ | .csel _ _ _ _
  | .and _ _ _ _ | .or _ _ _ _ | .xor _ _ _ _ | .andn _ _ _ _ | .shl _ _ _ _ | .srl _ _ _ _ | .sra _ _ _ _
  | .rot _ _ _ _ | .shl64 _ _ _ _ | .srl64 _ _ _ _ | .sra64 _ _ _ _ | .bfe _ _ _ _ | .bfeu _ _ _ _ | .bfi _ _ _ _
  | .popc _ _ _ | .clz _ _ _ | .brev _ _ _ | .divs _ _ _ | .divu _ _ _ | .rems _ _ _ | .remu _ _ _ | .addsat _ _ _ _
  | .subsat _ _ _ _ | .bmix _ _ _ _ | .icmpEq _ _ _ _ | .icmpNe _ _ _ _ | .icmpLt _ _ _ _ | .icmpLe _ _ _ _
  | .icmpLtu _ _ _ _ | .icmpLeu _ _ _ _ | .icmpmEq _ _ _ | .icmpmNe _ _ _ | .icmpmLt _ _ _ | .icmpmLe _ _ _
  | .icmpmLtu _ _ _ | .icmpmLeu _ _ _ | .min64 _ _ _ _ | .max64 _ _ _ _ | .minu64 _ _ _ _ | .maxu64 _ _ _ _
  | .addi _ _ _ | .andi _ _ _ | .ori _ _ _ | .xori _ _ _ | .shli _ _ _ | .srli _ _ _ | .srai _ _ _ | .muli _ _ _
  | .fadd _ _ _ _ | .fsub _ _ _ _ | .fmul _ _ _ _ | .ffma _ _ _ _ | .ffms _ _ _ _ | .fnma _ _ _ _ | .fmin _ _ _ _
  | .fmax _ _ _ _ | .fcmpEq _ _ _ _ | .fcmpNe _ _ _ _ | .fcmpLt _ _ _ _ | .fcmpLe _ _ _ _ | .fcmpUn _ _ _ _
  | .fcmpOd _ _ _ _ | .fcmpmEq _ _ _ | .fcmpmNe _ _ _ | .fcmpmLt _ _ _ | .fcmpmLe _ _ _ | .fcmpmUn _ _ _
  | .fcmpmOd _ _ _ | .hadd2 _ _ _ _ | .hmul2 _ _ _ _ | .hfma2 _ _ _ _ | .hmin2 _ _ _ _ | .hmax2 _ _ _ _
  | .badd2 _ _ _ _ | .bmul2 _ _ _ _ | .bfma2 _ _ _ _ | .fdot2h _ _ _ _ | .fdot4q8 _ _ _ _ | .fcopysign _ _ _ _
  | .fldexp _ _ _ _ | .fdiv _ _ _ | .frcp _ _ _ | .frsq _ _ _ | .fsqrt _ _ _ | .fexp2 _ _ _ | .flog2 _ _ _
  | .fsinp _ _ _ | .fcosp _ _ _ | .ffloor _ _ _ | .fceil _ _ _ | .ftrunc _ _ _ | .frint _ _ _ | .ffract _ _ _
  | .fclass _ _ _ | .cvtF32S32 _ _ _ | .cvtF32U32 _ _ _ | .cvtS32F32 _ _ _ | .cvtU32F32 _ _ _ | .packh _ _ _ _
  | .cvtF32HLo _ _ _ | .cvtF32HHi _ _ _ | .packb _ _ _ _ | .cvtF32BLo _ _ _ | .cvtF32BHi _ _ _ | .pk8E4 _ _ _ _
  | .pk8E5 _ _ _ _ | .unpk8E4 _ _ _ _ | .unpk8E5 _ _ _ _ | .shfl _ _ _ _ | .shflup _ _ _ _ | .shfldn _ _ _ _
  | .shflx _ _ _ _ | .ballot _ _ | .vany _ _ _ | .vall _ _ _ | .matchEq _ _ _ | .elect _ _ | .elects _ _
  | .redadd _ _ _ | .redmin _ _ _ | .redmax _ _ _ | .redand _ _ _ | .redor _ _ _ | .redxor _ _ _ | .mand _ _ _
  | .mor _ _ _ | .mxor _ _ _ | .mandn _ _ _ | .mact _ | .mclr _ | .mpop _ _ | .mfromv _ _ | .mtov _ _ _ | .mtos _ _
  | .mfroms _ _ | .prefixadd _ _ _ | .sadd _ _ _ | .ssub _ _ _ | .smul _ _ _ | .smad _ _ _ | .sand _ _ _ | .sor _ _ _
  | .sxor _ _ _ | .sshl _ _ _ | .sshr _ _ _ | .ssra _ _ _ | .smin _ _ _ | .smax _ _ _ | .sminu _ _ _ | .smaxu _ _ _
  | .sadd64 _ _ _ | .scmpEq _ _ _ | .scmpNe _ _ _ | .scmpLt _ _ _ | .scmpLe _ _ _ | .scmpLtu _ _ _ | .scmpLeu _ _ _
  | .sbcast _ _ | .srdlane _ _ _ | .swrlane _ _ _ | .sdivu _ _ _ | .sremu _ _ _ | .ssel _ _ _ | .sfadd _ _ _
  | .sfmul _ _ _ | .sffma _ _ _ | .scvtf _ _ | .scvti _ _ | .ld _ _ _ _ _ | .st _ _ _ _ _ | .ldro _ _ _ _ _
  | .ldf _ _ _ _ | .pref _ _ _ _ | .ldl _ _ _ _ | .stl _ _ _ _ | .ldu _ _ _ _ _ | .recset _ _ | .recget _ _
  | .recld _ _ | .sample _ _ _ _ _ | .cacheWb _ _ _ | .cacheInv _ _ _ | .ldp _ _ _ _ | .stp _ _ _ _ | .ldpd _ _ _ _
  | .stpd _ _ _ _ | .ldc _ _ _ _ | .stc _ _ _ _ | .atomp _ _ _ _ _ | .atom _ _ _ _ | .red _ _ _ _ | .fenceAcq _
  | .fenceRel _ | .fenceAr _ | .fenceSc _ | .fencero _ | .waitu _ _ _ _ _ | .strel _ _ _ _ _ | .ldacq _ _ _ _ _
  | .kick _ _ _ | .advance _ | .finit _ _ | .farrive _ _ | .farriveRank _ _ | .fwait _ _ _ | .ftest _ _ _
  | .fexpect _ _ _ | .waitc _ _ | .rdcnt _ _ | .copy _ _ | .mshape _ | .mlds _ _ _ | .mldsg _ _ _ _ | .mscale _ _ _
  | .mswap | .mma _ _ _ _ | .mmag _ _ _ _ _ | .mzero _ _ | .mst _ _ _ _ | .mld _ _ _ _ | .mstPlane _ _
  | .mldPlane _ _ | .mstat _ _ | .mrel | .nev _ _ _ _ | .netldFetch _ | .netldDrop _ | .emitc _ _ _ | .raster _ _
  | .present _ _ | .trace _ _ _ | .traceocc _ _ _ | .build _ _ | .refit _ _ | .cairnw _ _ _ | .genpin _ _ _
  | .gendrop _ _ _ | .refill _ _ _ _ | .pixpush _ _ _ | .nodedec _ _ _ | .morton _ _ _ | .pathStarvation _
  | .readyWaveStarvation _ | .laneBurstCount _ _ | .loadReturn _ _ | .divideResult _ _ | .fdivResult _ _
  | .launchStatus _ _ | .committedStorePerform _ _ | .paddockAccessPerform _ _ | .sideLogReplay _ _ | .tetherArm _
  | .tetherWake _ | .tetherTimeout _ | .tetherArmRetry _ | .sleeptDeadline _ | .copyRowComplete _ _
  | .copyRequestFail _ _ | .remoteArrivalApply _ | .fwaitWake _ | .arrayFillComplete _ _ | .mmaRowComplete _ _
  | .arrayOpComplete _ _ | .arraySerialOpStart _ _ | .bandWake _ _ | .bandIdleOff _ _ | .flockTileClose _ _
  | .flockTileComplete _ _ | .nevHandleComplete _ _ | .cairnPark _ | .cairnResume _ | .cairnTimeout _ | .rayEnd _
  | .buildStart _ | .buildSlotTake _ | .cairnRaise _ _ | .treeLink _ | .buildFail _ _ | .compactorReclaim _ _ _
  | .compactorFree _ _ _ | .rasterStart _ | .rasterSmallqResume _ | .rasterTileFlush _ _ | .rasterTileFinish _ _
  | .rasterDone _ | .presentImageRead _ | .collieDecision _ | .streamSlotSend _ | .hostQueueTake _
  | .childLaunchTake _ | .waitEventMet _ | .drovePlace _ _ | .penClaimComplete _ | .claimTimeout _
  | .backfillStop _ _ | .timedStart _ | .timesliceExpire _ | .debugPreempt _ | .thermalMigrate _ _ | .trapEntry _
  | .savedTetherWake _ | .savedWaveDeadline _ _ | .droveRestore _ _ | .waveEnd _ | .gridRetire _ | .contextEnable _
  | .contextKill _ | .schedulerBlockRead | .policyBlockRead | .powerBlockRead | .fabricBlockRead | .pagerTableRead _
  | .inval | .invalComplete _ | .migrate | .dup | .undup | .hotcfg | .frames | .brand | .attest | .upcall _ _ _
  | .pagerWaitTimeout _ _ | .pagerMap _ _ | .pagerRefuse _ _ | .hotIntervalEnd _ | .dupCollapseAck _ _
  | .hostRdmaWrite _ _ | .hostRdmaRead _ _ | .hostRdmaAtomic _ _ _ _ | .flitReceive _ _ _ _ _ | .linkRetrainDone _ _
  | .eccCorrected _ _ _ | .uncorrectableError _ _ _ | .selftestStart _ _ | .selftestResult _ _ _
  | .hirselMessageReceive _ _ _ _ _ _ _ | .hirselAck _ _ | .hirselRetransmit _ | .fabricTimeout _ | .ptpMessage _
  | .announceTimeout | .budgetMessage _ _ _ | .budgetEpoch | .powerLimitStretch _ | .currentLimitStretch _
  | .droopStretch _ | .thermalTrip _ | .thermalTripEnd _ | .firmwareFreeze | .watchdogFloor | .firmwareSignal _
  | .firmwareSlotTakeover | .firmwareVerify _ _ _ | .functionReady _ | .hostWriteAck _ | .portDown _ | .portUp _
  | .portmodeDrainDone | .clockStretchEnd _ | .bandWakeRateWaitEnd _ _ => false

/-- The vector codes an instruction reads (R415, R184): its sources, and D where its form reads D. -/
def Instr.readsV : Instr → List Nat
  | .bra _ => []
  | .brin _ _ => []
  | .brout _ _ => []
  | .bany _ _ => []
  | .ball _ _ => []
  | .call _ _ => []
  | .bsz _ _ => []
  | .bsnz _ _ => []
  | .jmpi a => (a.named 2).vs
  | .calli a => (a.named 2).vs
  | .ret => []
  | .join _ => []
  | .leave _ => []
  | .waitm _ => []
  | .yield => []
  | .nop => []
  | .trap _ => []
  | .brk => []
  | .exit => []
  | .win _ => []
  | .winadd _ => []
  | .rdcr _ _ => []
  | .rdcrD _ _ => []
  | .wrcr _ _ => []
  | .rte => []
  | .rdst _ _ _ => []
  | .wrst _ _ _ => []
  | .launch _ a => (Named.v a.val 2).vs
  | .gbar => []
  | .sleept _ => []
  | .sleeptAbs _ => []
  | .wake => []
  | .setmodeFpmode _ => []
  | .setmodeFpflags _ => []
  | .setmodeOobflags _ => []
  | .setmodeDegencount _ => []
  | .add _ _ a b => (a.named 1).vs ++ (b.named 1).vs
  | .sub _ _ a b => (a.named 1).vs ++ (b.named 1).vs
  | .mul _ _ a b => (a.named 1).vs ++ (b.named 1).vs
  | .mulhi _ _ a b => (a.named 1).vs ++ (b.named 1).vs
  | .mulhiu _ _ a b => (a.named 1).vs ++ (b.named 1).vs
  | .mad _ d a b => (d.named 1).vs ++ (a.named 1).vs ++ (b.named 1).vs
  | .madw _ d a b => (d.named 2).vs ++ (a.named 1).vs ++ (b.named 1).vs
  | .add64 _ _ a b => (a.named 2).vs ++ (b.named 2).vs
  | .sub64 _ _ a b => (a.named 2).vs ++ (b.named 2).vs
  | .mul64 _ _ a b => (a.named 2).vs ++ (b.named 2).vs
  | .min _ _ a b => (a.named 1).vs ++ (b.named 1).vs
  | .max _ _ a b => (a.named 1).vs ++ (b.named 1).vs
  | .minu _ _ a b => (a.named 1).vs ++ (b.named 1).vs
  | .maxu _ _ a b => (a.named 1).vs ++ (b.named 1).vs
  | .absd _ _ a b => (a.named 1).vs ++ (b.named 1).vs
  | .csel _ d a b => (d.named 1).vs ++ (a.named 1).vs ++ (b.named 1).vs
  | .and _ _ a b => (a.named 1).vs ++ (b.named 1).vs
  | .or _ _ a b => (a.named 1).vs ++ (b.named 1).vs
  | .xor _ _ a b => (a.named 1).vs ++ (b.named 1).vs
  | .andn _ _ a b => (a.named 1).vs ++ (b.named 1).vs
  | .shl _ _ a b => (a.named 1).vs ++ (b.named 1).vs
  | .srl _ _ a b => (a.named 1).vs ++ (b.named 1).vs
  | .sra _ _ a b => (a.named 1).vs ++ (b.named 1).vs
  | .rot _ _ a b => (a.named 1).vs ++ (b.named 1).vs
  | .shl64 _ _ a b => (a.named 2).vs ++ (b.named 1).vs
  | .srl64 _ _ a b => (a.named 2).vs ++ (b.named 1).vs
  | .sra64 _ _ a b => (a.named 2).vs ++ (b.named 1).vs
  | .bfe _ _ a b => (a.named 1).vs ++ (b.named 1).vs
  | .bfeu _ _ a b => (a.named 1).vs ++ (b.named 1).vs
  | .bfi _ d a b => (d.named 1).vs ++ (a.named 1).vs ++ (b.named 1).vs
  | .popc _ _ a => (a.named 1).vs
  | .clz _ _ a => (a.named 1).vs
  | .brev _ _ a => (a.named 1).vs
  | .divs _ a b => (a.named 1).vs ++ (b.named 1).vs
  | .divu _ a b => (a.named 1).vs ++ (b.named 1).vs
  | .rems _ a b => (a.named 1).vs ++ (b.named 1).vs
  | .remu _ a b => (a.named 1).vs ++ (b.named 1).vs
  | .addsat _ _ a b => (a.named 1).vs ++ (b.named 1).vs
  | .subsat _ _ a b => (a.named 1).vs ++ (b.named 1).vs
  | .bmix _ d a b => (d.named 1).vs ++ (a.named 1).vs ++ (b.named 1).vs
  | .icmpEq _ _ a b => (a.named 1).vs ++ (b.named 1).vs
  | .icmpNe _ _ a b => (a.named 1).vs ++ (b.named 1).vs
  | .icmpLt _ _ a b => (a.named 1).vs ++ (b.named 1).vs
  | .icmpLe _ _ a b => (a.named 1).vs ++ (b.named 1).vs
  | .icmpLtu _ _ a b => (a.named 1).vs ++ (b.named 1).vs
  | .icmpLeu _ _ a b => (a.named 1).vs ++ (b.named 1).vs
  | .icmpmEq _ a b => (a.named 1).vs ++ (b.named 1).vs
  | .icmpmNe _ a b => (a.named 1).vs ++ (b.named 1).vs
  | .icmpmLt _ a b => (a.named 1).vs ++ (b.named 1).vs
  | .icmpmLe _ a b => (a.named 1).vs ++ (b.named 1).vs
  | .icmpmLtu _ a b => (a.named 1).vs ++ (b.named 1).vs
  | .icmpmLeu _ a b => (a.named 1).vs ++ (b.named 1).vs
  | .min64 _ _ a b => (a.named 2).vs ++ (b.named 2).vs
  | .max64 _ _ a b => (a.named 2).vs ++ (b.named 2).vs
  | .minu64 _ _ a b => (a.named 2).vs ++ (b.named 2).vs
  | .maxu64 _ _ a b => (a.named 2).vs ++ (b.named 2).vs
  | .addi _ a _ => (a.named 1).vs
  | .andi _ a _ => (a.named 1).vs
  | .ori _ a _ => (a.named 1).vs
  | .xori _ a _ => (a.named 1).vs
  | .shli _ a _ => (a.named 1).vs
  | .srli _ a _ => (a.named 1).vs
  | .srai _ a _ => (a.named 1).vs
  | .muli _ a _ => (a.named 1).vs
  | .fadd _ _ a b => (a.named 1).vs ++ (b.named 1).vs
  | .fsub _ _ a b => (a.named 1).vs ++ (b.named 1).vs
  | .fmul _ _ a b => (a.named 1).vs ++ (b.named 1).vs
  | .ffma _ d a b => (d.named 1).vs ++ (a.named 1).vs ++ (b.named 1).vs
  | .ffms _ d a b => (d.named 1).vs ++ (a.named 1).vs ++ (b.named 1).vs
  | .fnma _ d a b => (d.named 1).vs ++ (a.named 1).vs ++ (b.named 1).vs
  | .fmin _ _ a b => (a.named 1).vs ++ (b.named 1).vs
  | .fmax _ _ a b => (a.named 1).vs ++ (b.named 1).vs
  | .fcmpEq _ _ a b => (a.named 1).vs ++ (b.named 1).vs
  | .fcmpNe _ _ a b => (a.named 1).vs ++ (b.named 1).vs
  | .fcmpLt _ _ a b => (a.named 1).vs ++ (b.named 1).vs
  | .fcmpLe _ _ a b => (a.named 1).vs ++ (b.named 1).vs
  | .fcmpUn _ _ a b => (a.named 1).vs ++ (b.named 1).vs
  | .fcmpOd _ _ a b => (a.named 1).vs ++ (b.named 1).vs
  | .fcmpmEq _ a b => (a.named 1).vs ++ (b.named 1).vs
  | .fcmpmNe _ a b => (a.named 1).vs ++ (b.named 1).vs
  | .fcmpmLt _ a b => (a.named 1).vs ++ (b.named 1).vs
  | .fcmpmLe _ a b => (a.named 1).vs ++ (b.named 1).vs
  | .fcmpmUn _ a b => (a.named 1).vs ++ (b.named 1).vs
  | .fcmpmOd _ a b => (a.named 1).vs ++ (b.named 1).vs
  | .hadd2 _ _ a b => (a.named 1).vs ++ (b.named 1).vs
  | .hmul2 _ _ a b => (a.named 1).vs ++ (b.named 1).vs
  | .hfma2 _ d a b => (d.named 1).vs ++ (a.named 1).vs ++ (b.named 1).vs
  | .hmin2 _ _ a b => (a.named 1).vs ++ (b.named 1).vs
  | .hmax2 _ _ a b => (a.named 1).vs ++ (b.named 1).vs
  | .badd2 _ _ a b => (a.named 1).vs ++ (b.named 1).vs
  | .bmul2 _ _ a b => (a.named 1).vs ++ (b.named 1).vs
  | .bfma2 _ d a b => (d.named 1).vs ++ (a.named 1).vs ++ (b.named 1).vs
  | .fdot2h _ d a b => (d.named 1).vs ++ (a.named 1).vs ++ (b.named 1).vs
  | .fdot4q8 _ d a b => (d.named 1).vs ++ (a.named 1).vs ++ (b.named 1).vs
  | .fcopysign _ _ a b => (a.named 1).vs ++ (b.named 1).vs
  | .fldexp _ _ a b => (a.named 1).vs ++ (b.named 1).vs
  | .fdiv _ a b => (a.named 1).vs ++ (b.named 1).vs
  | .frcp _ _ a => (a.named 1).vs
  | .frsq _ _ a => (a.named 1).vs
  | .fsqrt _ _ a => (a.named 1).vs
  | .fexp2 _ _ a => (a.named 1).vs
  | .flog2 _ _ a => (a.named 1).vs
  | .fsinp _ _ a => (a.named 1).vs
  | .fcosp _ _ a => (a.named 1).vs
  | .ffloor _ _ a => (a.named 1).vs
  | .fceil _ _ a => (a.named 1).vs
  | .ftrunc _ _ a => (a.named 1).vs
  | .frint _ _ a => (a.named 1).vs
  | .ffract _ _ a => (a.named 1).vs
  | .fclass _ _ a => (a.named 1).vs
  | .cvtF32S32 _ _ a => (a.named 1).vs
  | .cvtF32U32 _ _ a => (a.named 1).vs
  | .cvtS32F32 _ _ a => (a.named 1).vs
  | .cvtU32F32 _ _ a => (a.named 1).vs
  | .packh _ _ a b => (a.named 1).vs ++ (b.named 1).vs
  | .cvtF32HLo _ _ a => (a.named 1).vs
  | .cvtF32HHi _ _ a => (a.named 1).vs
  | .packb _ _ a b => (a.named 1).vs ++ (b.named 1).vs
  | .cvtF32BLo _ _ a => (a.named 1).vs
  | .cvtF32BHi _ _ a => (a.named 1).vs
  | .pk8E4 _ d a b => (d.named 1).vs ++ (a.named 1).vs ++ (b.named 1).vs
  | .pk8E5 _ d a b => (d.named 1).vs ++ (a.named 1).vs ++ (b.named 1).vs
  | .unpk8E4 _ _ a b => (a.named 1).vs ++ (b.named 1).vs
  | .unpk8E5 _ _ a b => (a.named 1).vs ++ (b.named 1).vs
  | .shfl _ _ a b => (a.named 1).vs ++ (b.named 1).vs
  | .shflup _ _ a b => (a.named 1).vs ++ (b.named 1).vs
  | .shfldn _ _ a b => (a.named 1).vs ++ (b.named 1).vs
  | .shflx _ _ a b => (a.named 1).vs ++ (b.named 1).vs
  | .ballot _ a => (a.named 1).vs
  | .vany _ _ a => (a.named 1).vs
  | .vall _ _ a => (a.named 1).vs
  | .matchEq _ _ a => (a.named 1).vs
  | .elect _ _ => []
  | .elects _ _ => []
  | .redadd _ _ a => (a.named 1).vs
  | .redmin _ _ a => (a.named 1).vs
  | .redmax _ _ a => (a.named 1).vs
  | .redand _ _ a => (a.named 1).vs
  | .redor _ _ a => (a.named 1).vs
  | .redxor _ _ a => (a.named 1).vs
  | .mand _ _ _ => []
  | .mor _ _ _ => []
  | .mxor _ _ _ => []
  | .mandn _ _ _ => []
  | .mact _ => []
  | .mclr _ => []
  | .mpop _ _ => []
  | .mfromv _ a => (a.named 1).vs
  | .mtov _ _ _ => []
  | .mtos _ _ => []
  | .mfroms _ _ => []
  | .prefixadd _ _ a => (a.named 1).vs
  | .sadd _ _ _ => []
  | .ssub _ _ _ => []
  | .smul _ _ _ => []
  | .smad _ _ _ => []
  | .sand _ _ _ => []
  | .sor _ _ _ => []
  | .sxor _ _ _ => []
  | .sshl _ _ _ => []
  | .sshr _ _ _ => []
  | .ssra _ _ _ => []
  | .smin _ _ _ => []
  | .smax _ _ _ => []
  | .sminu _ _ _ => []
  | .smaxu _ _ _ => []
  | .sadd64 _ _ _ => []
  | .scmpEq _ _ _ => []
  | .scmpNe _ _ _ => []
  | .scmpLt _ _ _ => []
  | .scmpLe _ _ _ => []
  | .scmpLtu _ _ _ => []
  | .scmpLeu _ _ _ => []
  | .sbcast _ _ => []
  | .srdlane _ a _ => (Named.v a.val 1).vs
  | .swrlane _ _ _ => []
  | .sdivu _ _ _ => []
  | .sremu _ _ _ => []
  | .ssel _ _ _ => []
  | .sfadd _ _ _ => []
  | .sfmul _ _ _ => []
  | .sffma _ _ _ => []
  | .scvtf _ _ => []
  | .scvti _ _ => []
  | .ld _ _ _ _ a => (a.named 1).vs
  | .st _ w _ d a => (d.named w.regs).vs ++ (a.named 1).vs
  | .ldro _ _ _ _ a => (a.named 1).vs
  | .ldf _ _ _ a => (a.named 1).vs
  | .pref _ _ _ a => (a.named 1).vs
  | .ldl _ _ _ a => (a.named 1).vs
  | .stl w _ d a => (d.named w.regs).vs ++ (a.named 1).vs
  | .ldu _ _ _ _ _ => []
  | .recset _ _ => []
  | .recget _ _ => []
  | .recld _ _ => []
  | .sample _ _ _ _ a => (Named.v a.val 2).vs
  | .cacheWb _ _ a => (a.named 1).vs
  | .cacheInv _ _ a => (a.named 1).vs
  | .ldp _ _ a _ => (a.named 1).vs
  | .stp w d a _ => (d.named w.regs).vs ++ (a.named 1).vs
  | .ldpd _ _ a _ => (a.named 1).vs
  | .stpd w d a _ => (d.named w.regs).vs ++ (a.named 1).vs
  | .ldc _ _ a _ => (a.named 1).vs
  | .stc w d a _ => (d.named w.regs).vs ++ (a.named 1).vs
  | .atomp op d a _ _ => (Named.v d.val op.group).vs ++ (a.named 1).vs
  | .atom _ x d a => (Named.v d.val x.op.group).vs ++ (a.named 1).vs
  | .red _ x d a => (d.named (if x.op.wide then 2 else 1)).vs ++ (a.named 1).vs
  | .fenceAcq _ => []
  | .fenceRel _ => []
  | .fenceAr _ => []
  | .fenceSc _ => []
  | .fencero _ => []
  | .waitu _ _ _ _ _ => []
  | .strel _ w _ d a => (d.named w.regs).vs ++ (a.named 1).vs
  | .ldacq _ _ _ _ a => (a.named 1).vs
  | .kick _ _ _ => []
  | .advance _ => []
  | .finit _ _ => []
  | .farrive _ _ => []
  | .farriveRank _ _ => []
  | .fwait _ _ _ => []
  | .ftest _ _ _ => []
  | .fexpect _ _ _ => []
  | .waitc _ _ => []
  | .rdcnt _ _ => []
  | .copy _ _ => []
  | .mshape _ => []
  | .mlds _ _ _ => []
  | .mldsg _ _ _ _ => []
  | .mscale _ _ _ => []
  | .mswap => []
  | .mma _ _ _ _ => []
  | .mmag _ _ _ _ _ => []
  | .mzero _ _ => []
  | .mst _ _ _ _ => []
  | .mld _ _ _ _ => []
  | .mstPlane _ _ => []
  | .mldPlane _ _ => []
  | .mstat _ _ => []
  | .mrel => []
  | .nev _ a b x => (a.named (if x.mem then 1 else (x.nin.toNat + 1) / 2)).vs ++ (b.named 1).vs
  | .netldFetch _ => []
  | .netldDrop _ => []
  | .emitc _ _ _ => []
  | .raster _ _ => []
  | .present _ _ => []
  | .trace _ a _ => (Named.v a.val 8).vs
  | .traceocc _ a _ => (Named.v a.val 8).vs
  | .build _ _ => []
  | .refit _ _ => []
  | .cairnw _ _ _ => []
  | .genpin _ _ _ => []
  | .gendrop _ _ _ => []
  | .refill _ _ _ _ => []
  | .pixpush _ a _ => (a.named 1).vs
  | .nodedec _ a b => (Named.v a.val 4).vs ++ (Named.v b.val 2).vs
  | .morton _ a _ => (Named.v a.val 3).vs
  | .pathStarvation _ | .readyWaveStarvation _ | .laneBurstCount _ _ | .loadReturn _ _ | .divideResult _ _
  | .fdivResult _ _ | .launchStatus _ _ | .committedStorePerform _ _ | .paddockAccessPerform _ _ | .sideLogReplay _ _
  | .tetherArm _ | .tetherWake _ | .tetherTimeout _ | .tetherArmRetry _ | .sleeptDeadline _ | .copyRowComplete _ _
  | .copyRequestFail _ _ | .remoteArrivalApply _ | .fwaitWake _ | .arrayFillComplete _ _ | .mmaRowComplete _ _
  | .arrayOpComplete _ _ | .arraySerialOpStart _ _ | .bandWake _ _ | .bandIdleOff _ _ | .flockTileClose _ _
  | .flockTileComplete _ _ | .nevHandleComplete _ _ | .cairnPark _ | .cairnResume _ | .cairnTimeout _ | .rayEnd _
  | .buildStart _ | .buildSlotTake _ | .cairnRaise _ _ | .treeLink _ | .buildFail _ _ | .compactorReclaim _ _ _
  | .compactorFree _ _ _ | .rasterStart _ | .rasterSmallqResume _ | .rasterTileFlush _ _ | .rasterTileFinish _ _
  | .rasterDone _ | .presentImageRead _ | .collieDecision _ | .streamSlotSend _ | .hostQueueTake _
  | .childLaunchTake _ | .waitEventMet _ | .drovePlace _ _ | .penClaimComplete _ | .claimTimeout _
  | .backfillStop _ _ | .timedStart _ | .timesliceExpire _ | .debugPreempt _ | .thermalMigrate _ _ | .trapEntry _
  | .savedTetherWake _ | .savedWaveDeadline _ _ | .droveRestore _ _ | .waveEnd _ | .gridRetire _ | .contextEnable _
  | .contextKill _ | .schedulerBlockRead | .policyBlockRead | .powerBlockRead | .fabricBlockRead | .pagerTableRead _
  | .inval | .invalComplete _ | .migrate | .dup | .undup | .hotcfg | .frames | .brand | .attest | .upcall _ _ _
  | .pagerWaitTimeout _ _ | .pagerMap _ _ | .pagerRefuse _ _ | .hotIntervalEnd _ | .dupCollapseAck _ _
  | .hostRdmaWrite _ _ | .hostRdmaRead _ _ | .hostRdmaAtomic _ _ _ _ | .flitReceive _ _ _ _ _ | .linkRetrainDone _ _
  | .eccCorrected _ _ _ | .uncorrectableError _ _ _ | .selftestStart _ _ | .selftestResult _ _ _
  | .hirselMessageReceive _ _ _ _ _ _ _ | .hirselAck _ _ | .hirselRetransmit _ | .fabricTimeout _ | .ptpMessage _
  | .announceTimeout | .budgetMessage _ _ _ | .budgetEpoch | .powerLimitStretch _ | .currentLimitStretch _
  | .droopStretch _ | .thermalTrip _ | .thermalTripEnd _ | .firmwareFreeze | .watchdogFloor | .firmwareSignal _
  | .firmwareSlotTakeover | .firmwareVerify _ _ _ | .functionReady _ | .hostWriteAck _ | .portDown _ | .portUp _
  | .portmodeDrainDone | .clockStretchEnd _ | .bandWakeRateWaitEnd _ _ => []

/-- The instructions of handler mode (R128). -/
def Instr.privileged : Instr → Bool
  | .rte | .rdst _ _ _ | .wrst _ _ _ | .wrcr _ _ => true
  | .rdcr _ cr => decide (64 ≤ cr.toNat)
  | .bra _ | .brin _ _ | .brout _ _ | .bany _ _ | .ball _ _ | .call _ _ | .bsz _ _ | .bsnz _ _ | .jmpi _ | .calli _
  | .ret | .join _ | .leave _ | .waitm _ | .yield | .nop | .trap _ | .brk | .exit | .win _ | .winadd _ | .rdcrD _ _
  | .launch _ _ | .gbar | .sleept _ | .sleeptAbs _ | .wake | .setmodeFpmode _ | .setmodeFpflags _
  | .setmodeOobflags _ | .setmodeDegencount _ | .add _ _ _ _ | .sub _ _ _ _ | .mul _ _ _ _ | .mulhi _ _ _ _
  | .mulhiu _ _ _ _ | .mad _ _ _ _ | .madw _ _ _ _ | .add64 _ _ _ _ | .sub64 _ _ _ _ | .mul64 _ _ _ _ | .min _ _ _ _
  | .max _ _ _ _ | .minu _ _ _ _ | .maxu _ _ _ _ | .absd _ _ _ _ | .csel _ _ _ _ | .and _ _ _ _ | .or _ _ _ _
  | .xor _ _ _ _ | .andn _ _ _ _ | .shl _ _ _ _ | .srl _ _ _ _ | .sra _ _ _ _ | .rot _ _ _ _ | .shl64 _ _ _ _
  | .srl64 _ _ _ _ | .sra64 _ _ _ _ | .bfe _ _ _ _ | .bfeu _ _ _ _ | .bfi _ _ _ _ | .popc _ _ _ | .clz _ _ _
  | .brev _ _ _ | .divs _ _ _ | .divu _ _ _ | .rems _ _ _ | .remu _ _ _ | .addsat _ _ _ _ | .subsat _ _ _ _
  | .bmix _ _ _ _ | .icmpEq _ _ _ _ | .icmpNe _ _ _ _ | .icmpLt _ _ _ _ | .icmpLe _ _ _ _ | .icmpLtu _ _ _ _
  | .icmpLeu _ _ _ _ | .icmpmEq _ _ _ | .icmpmNe _ _ _ | .icmpmLt _ _ _ | .icmpmLe _ _ _ | .icmpmLtu _ _ _
  | .icmpmLeu _ _ _ | .min64 _ _ _ _ | .max64 _ _ _ _ | .minu64 _ _ _ _ | .maxu64 _ _ _ _ | .addi _ _ _ | .andi _ _ _
  | .ori _ _ _ | .xori _ _ _ | .shli _ _ _ | .srli _ _ _ | .srai _ _ _ | .muli _ _ _ | .fadd _ _ _ _ | .fsub _ _ _ _
  | .fmul _ _ _ _ | .ffma _ _ _ _ | .ffms _ _ _ _ | .fnma _ _ _ _ | .fmin _ _ _ _ | .fmax _ _ _ _ | .fcmpEq _ _ _ _
  | .fcmpNe _ _ _ _ | .fcmpLt _ _ _ _ | .fcmpLe _ _ _ _ | .fcmpUn _ _ _ _ | .fcmpOd _ _ _ _ | .fcmpmEq _ _ _
  | .fcmpmNe _ _ _ | .fcmpmLt _ _ _ | .fcmpmLe _ _ _ | .fcmpmUn _ _ _ | .fcmpmOd _ _ _ | .hadd2 _ _ _ _
  | .hmul2 _ _ _ _ | .hfma2 _ _ _ _ | .hmin2 _ _ _ _ | .hmax2 _ _ _ _ | .badd2 _ _ _ _ | .bmul2 _ _ _ _
  | .bfma2 _ _ _ _ | .fdot2h _ _ _ _ | .fdot4q8 _ _ _ _ | .fcopysign _ _ _ _ | .fldexp _ _ _ _ | .fdiv _ _ _
  | .frcp _ _ _ | .frsq _ _ _ | .fsqrt _ _ _ | .fexp2 _ _ _ | .flog2 _ _ _ | .fsinp _ _ _ | .fcosp _ _ _
  | .ffloor _ _ _ | .fceil _ _ _ | .ftrunc _ _ _ | .frint _ _ _ | .ffract _ _ _ | .fclass _ _ _ | .cvtF32S32 _ _ _
  | .cvtF32U32 _ _ _ | .cvtS32F32 _ _ _ | .cvtU32F32 _ _ _ | .packh _ _ _ _ | .cvtF32HLo _ _ _ | .cvtF32HHi _ _ _
  | .packb _ _ _ _ | .cvtF32BLo _ _ _ | .cvtF32BHi _ _ _ | .pk8E4 _ _ _ _ | .pk8E5 _ _ _ _ | .unpk8E4 _ _ _ _
  | .unpk8E5 _ _ _ _ | .shfl _ _ _ _ | .shflup _ _ _ _ | .shfldn _ _ _ _ | .shflx _ _ _ _ | .ballot _ _ | .vany _ _ _
  | .vall _ _ _ | .matchEq _ _ _ | .elect _ _ | .elects _ _ | .redadd _ _ _ | .redmin _ _ _ | .redmax _ _ _
  | .redand _ _ _ | .redor _ _ _ | .redxor _ _ _ | .mand _ _ _ | .mor _ _ _ | .mxor _ _ _ | .mandn _ _ _ | .mact _
  | .mclr _ | .mpop _ _ | .mfromv _ _ | .mtov _ _ _ | .mtos _ _ | .mfroms _ _ | .prefixadd _ _ _ | .sadd _ _ _
  | .ssub _ _ _ | .smul _ _ _ | .smad _ _ _ | .sand _ _ _ | .sor _ _ _ | .sxor _ _ _ | .sshl _ _ _ | .sshr _ _ _
  | .ssra _ _ _ | .smin _ _ _ | .smax _ _ _ | .sminu _ _ _ | .smaxu _ _ _ | .sadd64 _ _ _ | .scmpEq _ _ _
  | .scmpNe _ _ _ | .scmpLt _ _ _ | .scmpLe _ _ _ | .scmpLtu _ _ _ | .scmpLeu _ _ _ | .sbcast _ _ | .srdlane _ _ _
  | .swrlane _ _ _ | .sdivu _ _ _ | .sremu _ _ _ | .ssel _ _ _ | .sfadd _ _ _ | .sfmul _ _ _ | .sffma _ _ _
  | .scvtf _ _ | .scvti _ _ | .ld _ _ _ _ _ | .st _ _ _ _ _ | .ldro _ _ _ _ _ | .ldf _ _ _ _ | .pref _ _ _ _
  | .ldl _ _ _ _ | .stl _ _ _ _ | .ldu _ _ _ _ _ | .recset _ _ | .recget _ _ | .recld _ _ | .sample _ _ _ _ _
  | .cacheWb _ _ _ | .cacheInv _ _ _ | .ldp _ _ _ _ | .stp _ _ _ _ | .ldpd _ _ _ _ | .stpd _ _ _ _ | .ldc _ _ _ _
  | .stc _ _ _ _ | .atomp _ _ _ _ _ | .atom _ _ _ _ | .red _ _ _ _ | .fenceAcq _ | .fenceRel _ | .fenceAr _
  | .fenceSc _ | .fencero _ | .waitu _ _ _ _ _ | .strel _ _ _ _ _ | .ldacq _ _ _ _ _ | .kick _ _ _ | .advance _
  | .finit _ _ | .farrive _ _ | .farriveRank _ _ | .fwait _ _ _ | .ftest _ _ _ | .fexpect _ _ _ | .waitc _ _
  | .rdcnt _ _ | .copy _ _ | .mshape _ | .mlds _ _ _ | .mldsg _ _ _ _ | .mscale _ _ _ | .mswap | .mma _ _ _ _
  | .mmag _ _ _ _ _ | .mzero _ _ | .mst _ _ _ _ | .mld _ _ _ _ | .mstPlane _ _ | .mldPlane _ _ | .mstat _ _ | .mrel
  | .nev _ _ _ _ | .netldFetch _ | .netldDrop _ | .emitc _ _ _ | .raster _ _ | .present _ _ | .trace _ _ _
  | .traceocc _ _ _ | .build _ _ | .refit _ _ | .cairnw _ _ _ | .genpin _ _ _ | .gendrop _ _ _ | .refill _ _ _ _
  | .pixpush _ _ _ | .nodedec _ _ _ | .morton _ _ _ | .pathStarvation _ | .readyWaveStarvation _
  | .laneBurstCount _ _ | .loadReturn _ _ | .divideResult _ _ | .fdivResult _ _ | .launchStatus _ _
  | .committedStorePerform _ _ | .paddockAccessPerform _ _ | .sideLogReplay _ _ | .tetherArm _ | .tetherWake _
  | .tetherTimeout _ | .tetherArmRetry _ | .sleeptDeadline _ | .copyRowComplete _ _ | .copyRequestFail _ _
  | .remoteArrivalApply _ | .fwaitWake _ | .arrayFillComplete _ _ | .mmaRowComplete _ _ | .arrayOpComplete _ _
  | .arraySerialOpStart _ _ | .bandWake _ _ | .bandIdleOff _ _ | .flockTileClose _ _ | .flockTileComplete _ _
  | .nevHandleComplete _ _ | .cairnPark _ | .cairnResume _ | .cairnTimeout _ | .rayEnd _ | .buildStart _
  | .buildSlotTake _ | .cairnRaise _ _ | .treeLink _ | .buildFail _ _ | .compactorReclaim _ _ _
  | .compactorFree _ _ _ | .rasterStart _ | .rasterSmallqResume _ | .rasterTileFlush _ _ | .rasterTileFinish _ _
  | .rasterDone _ | .presentImageRead _ | .collieDecision _ | .streamSlotSend _ | .hostQueueTake _
  | .childLaunchTake _ | .waitEventMet _ | .drovePlace _ _ | .penClaimComplete _ | .claimTimeout _
  | .backfillStop _ _ | .timedStart _ | .timesliceExpire _ | .debugPreempt _ | .thermalMigrate _ _ | .trapEntry _
  | .savedTetherWake _ | .savedWaveDeadline _ _ | .droveRestore _ _ | .waveEnd _ | .gridRetire _ | .contextEnable _
  | .contextKill _ | .schedulerBlockRead | .policyBlockRead | .powerBlockRead | .fabricBlockRead | .pagerTableRead _
  | .inval | .invalComplete _ | .migrate | .dup | .undup | .hotcfg | .frames | .brand | .attest | .upcall _ _ _
  | .pagerWaitTimeout _ _ | .pagerMap _ _ | .pagerRefuse _ _ | .hotIntervalEnd _ | .dupCollapseAck _ _
  | .hostRdmaWrite _ _ | .hostRdmaRead _ _ | .hostRdmaAtomic _ _ _ _ | .flitReceive _ _ _ _ _ | .linkRetrainDone _ _
  | .eccCorrected _ _ _ | .uncorrectableError _ _ _ | .selftestStart _ _ | .selftestResult _ _ _
  | .hirselMessageReceive _ _ _ _ _ _ _ | .hirselAck _ _ | .hirselRetransmit _ | .fabricTimeout _ | .ptpMessage _
  | .announceTimeout | .budgetMessage _ _ _ | .budgetEpoch | .powerLimitStretch _ | .currentLimitStretch _
  | .droopStretch _ | .thermalTrip _ | .thermalTripEnd _ | .firmwareFreeze | .watchdogFloor | .firmwareSignal _
  | .firmwareSlotTakeover | .firmwareVerify _ _ _ | .functionReady _ | .hostWriteAck _ | .portDown _ | .portUp _
  | .portmodeDrainDone | .clockStretchEnd _ | .bandWakeRateWaitEnd _ _ => false

/-- The memory port (classes 8, 9 and 0xA) and the tile port (classes 0xB to 0xE) of a quarter (R22). -/
def Instr.memPort (i : Instr) : Bool := decide (8 ≤ i.cls) && decide (i.cls ≤ 10)
def Instr.tilePort (i : Instr) : Bool := decide (11 ≤ i.cls) && decide (i.cls ≤ 14)

/-- The offset `o` of R204. -/
def MemMod.offset : MemMod → Int
  | .short _ => 0
  | .ext x => x.off.toInt

namespace Machine

def Latch.blank : Latch := ⟨0#64, false, false⟩

/-- A lane that was never launched: no registers, nothing live (R13). -/
def Lane.blank : Lane :=
  ⟨0#48, .never, [], List.replicate 4 Latch.blank, 0, 0, [], [], [], 0, 0, [], []⟩

def Hidden.blank : Hidden := ⟨[], [], [], [], [], [], []⟩

/-- A slot that holds no wave. -/
def Wave.blank : Wave where
  lanes := []
  s := []
  m := []
  q := []
  nregs := 0
  wb := 0
  fpmode := 0#32
  fpflags := 0#32
  oobflags := 0#32
  penpass := 0#32
  degen := 0#32
  counts := ⟨0, 0, 0⟩
  ops := []
  handler := false
  trap := 0#512
  hidden := Hidden.blank
  owed := []
  wait := .none
  pend := Option.none
  causes := []
  preempt := Option.none
  nevs := []
  age := 0
  issued := 0
  lastClk := 0
  wg := 0
  index := 0
  rteReady := false
  starved := Option.none

def Wave.lane (w : Wave) (l : Nat) : Lane := w.lanes.getD l Lane.blank
def Wave.modLane (w : Wave) (l : Nat) (f : Lane → Lane) : Wave := { w with lanes := modAt w.lanes l f }
/-- Change every lane of a set. -/
def Wave.modLanes (w : Wave) (ls : Mask) (f : Nat → Lane → Lane) : Wave :=
  { w with lanes := w.lanes.mapIdx (fun l x => if ls.getLsbD l then f l x else x) }

def LaneState.live : LaneState → Bool
  | .never | .exited => false
  | .ready | .join _ | .waitm _ | .sleeper _ | .gbar | .regWait | .stalled => true

/-- The launched lanes, the live lanes and the ready lanes of a wave (R13, R18). -/
def Wave.launched (w : Wave) : Mask := maskOf (fun l => decide ((w.lane l).state ≠ .never))
def Wave.live (w : Wave) : Mask := maskOf (fun l => (w.lane l).state.live)
def Wave.ready (w : Wave) : Mask := maskOf (fun l => decide ((w.lane l).state = .ready))

/-! ## Reading operands -/

/-- Physical register `WB + n` of a lane; a lane never launched has none and reads 0 (R119, Table 8.7). -/
def Wave.vreg (w : Wave) (l n : Nat) : Word := (w.lane l).regs.getD (w.wb + n) 0#32
def Wave.sreg (w : Wave) (n : Nat) : Word := w.s.getD n 0#32
def Wave.mreg (w : Wave) (n : Nat) : Mask := w.m.getD n 0#32
def Wave.qreg (w : Wave) (n : Nat) : BitVec 128 := w.q.getD n 0#128
def Wave.sreg64 (w : Wave) (n : Nat) : Dword := pair64 (w.sreg (n + 1)) (w.sreg n)

/-- A literal read as 64 bits is sign-extended (R117). -/
def lit64 (x : Word) : Dword := x.signExtend 64

/-- `vget(lane, code, 32)` (Table 5.5, R121). -/
def Wave.v32 (w : Wave) (l : Nat) (a : VSrc) : Word :=
  match a with
  | .reg n => w.vreg l n.val
  | .latch k => lo32 ((w.lane l).latches.getD k.val Latch.blank).val
  | .sreg k => w.sreg k.val
  | .zero => 0#32
  | .lane => BitVec.ofNat 32 l
  | .lit x => x

/-- `vget(lane, code, 64)` (R117, R121). -/
def Wave.v64 (w : Wave) (l : Nat) (a : VSrc) : Dword :=
  match a with
  | .reg n => pair64 (w.vreg l (n.val + 1)) (w.vreg l n.val)
  | .latch k => ((w.lane l).latches.getD k.val Latch.blank).val
  | .sreg k => w.sreg64 k.val
  | .zero => 0#64
  | .lane => BitVec.ofNat 64 l
  | .lit x => lit64 x

/-- The D field of a form that reads it (R163). -/
def Wave.vd32 (w : Wave) (l : Nat) (d : VDst) : Word :=
  match d with
  | .reg n => w.vreg l n.val
  | .discard => 0#32
def Wave.vd64 (w : Wave) (l : Nat) (d : VDst) : Dword :=
  match d with
  | .reg n => pair64 (w.vreg l (n.val + 1)) (w.vreg l n.val)
  | .discard => 0#64

/-- `sget(code, 32)` and `sget(code, 64)` (R115, R117). -/
def Wave.u32 (w : Wave) (a : USrc) : Word :=
  match a with
  | .reg n => w.sreg n.val
  | .zero => 0#32
  | .lit x => x
def Wave.u64 (w : Wave) (a : USrc) : Dword :=
  match a with
  | .reg n => w.sreg64 n.val
  | .zero => 0#64
  | .lit x => lit64 x
def Wave.ud32 (w : Wave) (d : UDst) : Word :=
  match d with
  | .reg n => w.sreg n.val
  | .discard => 0#32

/-- `mget` of a class 6 source (R192). -/
def Wave.msrc (w : Wave) (active : Mask) (a : MSrc) : Mask :=
  match a with
  | .reg n => w.mreg n.val
  | .active => active
  | .none => 0#32

end Machine

end Sys2Proof
end

