-- ==== Sys2Proof/Machine/Mem.lean ====
section
/-! DEFINITION. Machine/Mem.lean: the records of the machine by number, physical memory and its home, the tether check
of every performed write (R102, R219), the states of a store (R85), the pens, the lane stores and the path cache. -/

namespace Sys2Proof.Machine

open Sys2Proof

/-! ## Records by number -/

def Workgroup.blank : Workgroup where
  core := 0
  rank := 0
  drove := 0
  nwaves := 0
  pen := []
  penZero := false
  penPoison := []
  penBytes := 0
  penUnits := []
  sbuf := []
  whole := []
  folds := []
  tickets := 0
  stages := []
  saveBase := 0
  saveSlot := Option.none
  status := []
  lease := 0
  roTouched := []
  roSeen := []
  kept := []
  ended := []
  due := []

def Drove.blank : Drove := ⟨0, 0, 0, 0, [], .resident, 0, 0, false, 0, 0, false, 0, none, [], 0⟩

def Grid.blank : Grid where
  ctx := 0
  parent := Option.none
  depth := 0
  phase := .retired
  entry := 0#48
  dx := 1
  dy := 1
  dz := 1
  drove := 1
  waves := 1
  lastl := 32
  regs := 8
  sregs := 64
  folds := 0
  lease := 0
  prio := 0
  flags := 0
  pen := 0
  lanestore := 0
  start := 0
  waitva := 0
  waitval := 0
  sigva := 0
  sched := []
  params := []
  records := []
  nextDrove := 0
  status := 0
  sbovf := false
  replayed := false
  eligibleAt := 0
  since := 0
  queue := 0
  child := false
  barrier := 0
  shun := []

def Context.blank : Context where
  live := false
  ptroot := 0
  trapvec := 0#48
  savepool := 0
  areasize := 0
  areas := 0
  spillbase := 0
  spillcap := 0
  commonsSize := 0
  pagertab := 0
  netbase := 0
  netcount := 0
  flockwait := 16
  flockshare := 0
  maxprio := 0
  homebrand := 0
  nbrands := 0
  brandtab := 0
  commons := []
  commonsPoison := []
  areasUsed := []
  pagerGen := 0
  regions := []
  frames := []
  upcalls := []
  childq := []

/-- The core and the quarter of a wave slot's key `((site * 160 + core) * 4 + quarter) * 16 + slot`. -/
def keyCore (key : Nat) : Nat := key / 64
def keyQuarter (key : Nat) : Nat := key / 16
def coreSite (core : Nat) : Nat := core / 160
/-- The mesh position of a core, and its cluster among the 20 of each site (R350). -/
def coreX (core : Nat) : Nat := core % 160 % 16
def coreY (core : Nat) : Nat := core % 160 / 16
def clusterOf (core : Nat) : Nat := coreSite core * 20 + coreY core / 2 * 4 + coreX core / 4

def State.wave (s : State) (key : Nat) : Wave := (tabGet s.waves key).getD Wave.blank
def State.modWave (s : State) (key : Nat) (f : Wave → Wave) : State := { s with waves := tabMod s.waves key f }
def State.wg (s : State) (id : Nat) : Workgroup := (tabGet s.wgs id).getD Workgroup.blank
def State.modWg (s : State) (id : Nat) (f : Workgroup → Workgroup) : State := { s with wgs := tabMod s.wgs id f }
def State.drove (s : State) (id : Nat) : Drove := (tabGet s.droves id).getD Drove.blank
def State.modDrove (s : State) (id : Nat) (f : Drove → Drove) : State := { s with droves := tabMod s.droves id f }
def State.grid (s : State) (id : Nat) : Grid := (tabGet s.grids id).getD Grid.blank
def State.modGrid (s : State) (id : Nat) (f : Grid → Grid) : State := { s with grids := tabMod s.grids id f }
def State.ctx (s : State) (c : Nat) : Context := (tabGet s.ctxs c).getD Context.blank
def State.modCtx (s : State) (c : Nat) (f : Context → Context) : State := { s with ctxs := tabMod s.ctxs c f }
def State.core (s : State) (c : Nat) : Core := (tabGet s.cores c).getD Core.init
/-- A core is listed once something is written to it. -/
def State.modCore (s : State) (c : Nat) (f : Core → Core) : State := { s with cores := tabSet s.cores c (f (s.core c)) }
def State.quarter (s : State) (q : Nat) : Quarter := (tabGet s.quarters q).getD Quarter.init
def State.modQuarter (s : State) (q : Nat) (f : Quarter → Quarter) : State :=
  { s with quarters := tabSet s.quarters q (f (s.quarter q)) }

def State.wgGrid (s : State) (wg : Nat) : Nat := (s.drove (s.wg wg).drove).grid
def State.wgCtx (s : State) (wg : Nat) : Nat := (s.grid (s.wgGrid wg)).ctx
def State.waveGrid (s : State) (key : Nat) : Nat := s.wgGrid (s.wave key).wg
def State.waveCtx (s : State) (key : Nat) : Nat := s.wgCtx (s.wave key).wg

/-- A number never used before. -/
def State.freshId (s : State) : Nat × State := (s.fresh, { s with fresh := s.fresh + 1 })
/-- An open value of kind `k`, and the count advanced (log entry 14). -/
def State.freeWord (s : State) (k : Nat) : Word × State := (Config.freeWord k s.free, { s with free := s.free + 1 })

/-! ## Physical memory (R374) -/

/-- The first address of the host aperture, and the end of the physical addresses. -/
def hostBase : Nat := 2 ^ 41
def physEnd : Nat := 2 ^ 46

/-- The memory die that is the home of an address. -/
def homeDie (pa : Nat) : Nat := pa / 2 ^ 38

/-- `capacity(mdie.n)` of R400. -/
def State.capacity (s : State) (n : Nat) : Nat :=
  popcN 64 (s.harvest.chanEn.getD n 0) * 2000000000 / 2 ^ 29 * 2 ^ 29

def hostAperture (pa : Nat) : Bool := decide (hostBase ≤ pa) && decide (pa < physEnd)
/-- Populated physical addresses: HBM within its capacity, and the host aperture. -/
def State.populated (s : State) (pa : Nat) : Bool :=
  (decide (homeDie pa < 6) && decide (pa % 2 ^ 38 < s.capacity (homeDie pa))) || hostAperture pa

/-- The number of a 128-byte line (R50). -/
def lineOf (a : Nat) : Nat := a / 128

/-- A line whose data is lost: poisoned, or of a die that is fenced (R408, R409). -/
def State.lost (s : State) (line : Nat) : Bool :=
  s.poisoned.contains line || (decide (homeDie (line * 128) < 6) && !(s.dies.getD (homeDie (line * 128)) MemDie.init).live)

/-- The comparison of a tether (R218). -/
def cmpHolds (c : Cmp) (wide : Bool) (x y : Nat) : Bool :=
  let n := if wide then 64 else 32
  match c with
  | .eq => decide (x = y)
  | .ne => decide (x ≠ y)
  | .lt => decide (sextN x n < sextN y n)
  | .ge => decide (sextN y n ≤ sextN x n)
  | .ltu => decide (x < y)
  | .geu => decide (y ≤ x)
  | .anyset => decide (x &&& y ≠ 0)
  | .allclr => decide (x &&& y = 0)

def Tether.bytes (t : Tether) : Nat := if t.wide then 8 else 4
def Memory.nat (m : Memory) (a n : Nat) : Nat := natOfBytes (m.getBytes a n)

/-- Whether a tether is satisfied by writes to these addresses, given memory after them (R219). -/
def Tether.met (m : Memory) (cells : List (Nat × Byte)) (t : Tether) : Bool :=
  cells.any (fun c => decide (t.pa ≤ c.1) && decide (c.1 < t.pa + t.bytes)) &&
    cmpHolds t.cmp t.wide (m.nat t.pa t.bytes) t.opnd

/-- Bytes at rising addresses from `a`. -/
def cellsFrom (a : Nat) (bs : List Byte) : List (Nat × Byte) := bs.mapIdx (fun i b => (a + i, b))

def Memory.setCells (m : Memory) (cells : List (Nat × Byte)) : Memory := cells.foldl (fun m c => m.set c.1 c.2) m

/-- The entries of the spill areas that tethers hold, by context (R221). -/
def spilledEntries (ts : List Tether) : List (Nat × Nat) := ts.filterMap (fun t => t.spill.map (fun i => (t.ctx, i)))

/-- The address of a table that the bring-up record gives (R442): 0 the context table, 1 the queue table, 2 the maintenance
ring, 3 to 6 the scheduler, policy, power and fabric blocks, 7 the error queue, 8 the harvest block, 9 the hot-page area, 10 the
duplication table. -/
def State.table (s : State) (i : Nat) : Nat := s.boot.tables.getD i 0

/-- A byte of a table or a block of `n` bytes at `base`, by its place in entries of `m` bytes. -/
def placedIn (base n m a : Nat) (p : Nat → Bool) : Bool := decide (base ≤ a) && decide (a < base + n) && p ((a - base) % m)

/-- Places from `lo` to before `hi`. -/
def fromTo (lo hi o : Nat) : Bool := decide (lo ≤ o) && decide (o < hi)

/-- The fields of the tables of R442 and of the stream descriptors that software may only read, and the reserved bytes of the
headers: what software writes there is ignored (R8). Reserved bytes of the blocks that R346 checks are not among them
(log entry 24). -/
def State.readOnly (s : State) (a : Nat) : Bool :=
  let header := fun (o : Nat) => fromTo 16 20 o || fromTo 22 64 o
  placedIn (s.table 1) 65536 64 a header || placedIn (s.table 2) 64 64 a header ||
  placedIn (s.table 5) 64 64 a (fromTo 28 46) || placedIn (s.table 6) 64 64 a (fromTo 32 36) ||
  placedIn (s.table 7) 64 64 a (fun o => fromTo 12 16 o || fromTo 20 64 o) ||
  placedIn (s.table 8) 256 256 a (fun _ => true) || placedIn (s.table 9) 6144 1024 a (fun _ => true) ||
  placedIn (s.table 10) 131072 32 a (fun _ => true) ||
  (decide (s.fabric.streamtab ≠ 0) && placedIn s.fabric.streamtab 8192 128 a (fromTo 56 60))

/-- What of a write of software is taken. -/
def State.heeded (s : State) (cells : List (Nat × Byte)) : List (Nat × Byte) := cells.filter (fun c => !s.readOnly c.1)

/-- A write performed at its home as one step: memory takes the bytes, every older copy of their lines is invalidated, and
every tether they satisfy is freed and its wake posted with the value (R102, R219, R222). -/
def State.perform (s : State) (cells : List (Nat × Byte)) : State :=
  let m := s.mem.setCells cells
  { s with
    mem := m
    old := s.old.filter (fun o => !cells.any (fun c => decide (lineOf c.1 = o.line)))
    wakes := s.wakes ++ (s.tethers.filter (Tether.met m cells)).map (fun t => ⟨t.waiter, m.nat t.pa t.bytes, 0⟩)
    tethers := s.tethers.filter (fun t => !Tether.met m cells t)
    freed := s.freed ++ spilledEntries (s.tethers.filter (Tether.met m cells)) }

def State.performBytes (s : State) (a : Nat) (bs : List Byte) : State := s.perform (cellsFrom a bs)

/-- Drop the tethers of a waiter (R222). -/
def State.dropTethers (s : State) (p : Waiter → Bool) : State :=
  { s with
    tethers := s.tethers.filter (fun t => !p t.waiter)
    freed := s.freed ++ spilledEntries (s.tethers.filter (fun t => p t.waiter))
    unarmed := s.unarmed.filter (fun t => !p t.waiter)
    wakes := s.wakes.filter (fun k => !p k.waiter) }

/-! ## The states of a store (R85, R86) -/

def committedByte (cs : List Committed) (pa : Nat) : Option Byte :=
  (cs.find? (fun c => decide (c.line = lineOf pa))).bind (fun c => tabGet c.bytes pa)

/-- The copy of a line from before a store that the core has not yet seen (R85). -/
def State.oldCopy (s : State) (core line : Nat) : Option OldCopy :=
  s.old.find? (fun o => decide (o.core = core) && decide (o.line = line) && decide (s.cycle.toNat < o.expires))

/-- A performed byte as a core reads it: from its older copy of the line while it has one (R85). -/
def State.homeByte (s : State) (core pa : Nat) : Byte :=
  match s.oldCopy core (lineOf pa) with
  | some o => o.bytes.getD (pa % 128) 0#8
  | none => s.mem.get pa

/-- The home address of a location whose replica a read reaches (R394); any other address is its own home. -/
def State.homeOf (s : State) (pa : Nat) : Nat :=
  match s.dups.find? (fun d => d.2.reads.any (fun r => r.any (fun b => decide (b / 2 ^ 16 = pa / 2 ^ 16)))) with
  | some d => d.2.home + pa % 2 ^ 16
  | none => pa

/-- A byte as a lane of a workgroup reads it through L1: its own buffered stores, then what its core has committed, then
what is performed (R85). Stores lie at their home, whichever copy of a duplicated page the read reaches (R106). -/
def State.viewByte (s : State) (core wg pa : Nat) : Byte :=
  match tabGet (s.wg wg).sbuf (s.homeOf pa) with
  | some b => b
  | none => (committedByte (s.core core).committed (s.homeOf pa)).getD (s.homeByte core pa)

def State.viewBytes (s : State) (core wg pa n : Nat) : List Byte := (List.range n).map (fun i => s.viewByte core wg (pa + i))
def State.viewNat (s : State) (core wg pa n : Nat) : Nat := natOfBytes (s.viewBytes core wg pa n)

/-- The lines a store buffer holds. -/
def linesOf (t : Tab Byte) : List Nat := (t.map (fun c => lineOf c.1)).eraseDups

/-- Add committed bytes to their line, of which one instruction wrote all (`whole`) or not. -/
def addCommitted (whole : List Nat) (cs : List Committed) (pa : Nat) (b : Byte) : List Committed :=
  if cs.any (fun c => decide (c.line = lineOf pa)) then
    cs.map (fun c => if c.line = lineOf pa then
      { c with bytes := tabSet c.bytes pa b, whole := c.whole || whole.contains (lineOf pa) } else c)
  else cs ++ [⟨lineOf pa, [(pa, b)], whole.contains (lineOf pa)⟩]

/-- A commit point of a workgroup (R86): its buffered stores become committed, all together; a replayable drove is
replayable no longer (R88). The path cache drops the lines of those that a FENCERO has made its workgroup's path reads see, so
that they are never seen to go back (R104). -/
def State.commit (s : State) (wg : Nat) : State :=
  let w := s.wg wg
  let s1 := s.modCore w.core (fun c =>
    { c with
      committed := w.sbuf.foldl (fun cs x => addCommitted w.whole cs x.1 x.2) c.committed
      path := c.path.filter (fun l => !(linesOf w.roSeen).contains l.1) })
  (s1.modWg wg (fun w => { w with sbuf := [], whole := [], roSeen := [] })).modDrove w.drove (fun d => { d with replayable := false })

/-- The duplication entry whose home page holds a physical address. -/
def State.dupOf (s : State) (pa : Nat) : Option Nat :=
  (s.dups.find? (fun d => decide (d.2.home / 2 ^ 16 = pa / 2 ^ 16))).map Prod.fst

/-- The first write to a duplicated page starts its collapse: the dies that hold a replica are yet to acknowledge. -/
def State.startCollapse (s : State) (i : Nat) : State :=
  { s with dups := tabMod s.dups i (fun d => { d with acks := some (d.acks.getD []) }) }

/-- One committed line is performed at device scope (R85); a line of a duplicated page waits for its collapse (R395). A line
of which one instruction wrote every byte is poisoned no more (R409). -/
def State.performLine (s : State) (core line : Nat) : State :=
  match (s.core core).committed.find? (fun c => decide (c.line = line)) with
  | none => s
  | some c =>
    match s.dupOf (line * 128) with
    | some i => s.startCollapse i
    | none =>
    let s1 := s.modCore core (fun k => { k with committed := k.committed.filter (fun d => decide (d.line ≠ line)) })
    let s2 := s1.perform (s.heeded c.bytes)
    { s2 with
      poisoned := if c.whole then s2.poisoned.filter (fun l => decide (l ≠ line)) else s2.poisoned
      hostWrites := if hostAperture (line * 128) then s2.hostWrites ++ [⟨core, line⟩] else s2.hostWrites }

/-- A committed line is performed while other cores keep the copies of it they have, until each is invalidated (R85). -/
def State.performSpread (s : State) (core line : Nat) : State :=
  let t := s.performLine core line
  if (s.core core).committed.any (fun c => decide (c.line = line)) && (s.dupOf (line * 128)).isNone then
    { t with old := t.old ++ ((s.cores.map Prod.fst).filter (fun k => decide (k ≠ core))).map (fun k =>
        ⟨k, line, Config.copyUntil s.cycle.toNat k line, (List.range 128).map (fun i => s.homeByte k (line * 128 + i))⟩) }
  else t

/-- Every committed line of a core is performed and no older copy of any line is left: what a release at scope cluster or
wider completes (R91). -/
def State.performAll (s : State) (core : Nat) : State :=
  { ((s.core core).committed.map Committed.line).foldl (fun s l => s.performLine core l) s with old := [] }

/-- The lines a workgroup, or an engine acting for it, has written: its next FENCERO at group scope drops them (R217). -/
def State.touchRo (s : State) (wg : Nat) (lines : List Nat) : State :=
  s.modWg wg (fun w => { w with roTouched := (w.roTouched ++ lines).eraseDups })

/-- A global store enters the store buffer (R85). -/
def State.buffer (s : State) (wg : Nat) (cells : List (Nat × Byte)) : State :=
  (s.modWg wg (fun w => { w with sbuf := cells.foldl (fun t c => tabSet t c.1 c.2) w.sbuf })).touchRo wg
    (cells.map (fun c => lineOf c.1))

/-- The lines the resident workgroups of a core hold in their store buffers (R87). -/
def State.bufferedLines (s : State) (core : Nat) : Nat :=
  (s.wgs.filter (fun x => decide (x.2.core = core))).foldl (fun n x => n + (linesOf x.2.sbuf).length) 0

/-! ## The read-only path (R52, R104) -/

/-- A byte read through the path cache, whose lines the access has just brought in (`pathFill`): the cached line, which no
store reaches (R52), but for the workgroup's own buffered stores that a FENCERO follows (R104). Lines are cached by their home
address. -/
def State.pathByte (s : State) (core wg pa : Nat) : Byte :=
  match tabGet (s.wg wg).roSeen (s.homeOf pa) with
  | some b => b
  | none =>
    match tabGet (s.core core).path (lineOf (s.homeOf pa)) with
    | some bs => bs.getD (pa % 128) 0#8
    | none => (committedByte (s.core core).committed (s.homeOf pa)).getD (s.mem.get pa)

/-- A line as the path cache takes it in: what the core has committed over what is performed. -/
def State.pathLine (s : State) (core line : Nat) : List Byte :=
  (List.range 128).map (fun i => (committedByte (s.core core).committed (s.homeOf (line * 128) + i)).getD (s.mem.get (line * 128 + i)))

/-- A path read brings its line into the path cache, unless the cache still holds it (R52). -/
def State.pathFill (s : State) (core line : Nat) : State :=
  let home := lineOf (s.homeOf (line * 128))
  if (tabGet (s.core core).path home).isSome && Config.pathKept s.cycle.toNat core home then s
  else s.modCore core (fun c => { c with path := tabSet c.path home (s.pathLine core line) })

/-! ## Pens and lane stores -/

/-- The first address of the staging window and its end (R370). -/
def windowBase : Nat := 0x100000
def windowEnd : Nat := 0x110000

/-- A byte of a workgroup's pen; the staging window of its core for the window's addresses. -/
def State.penByte (s : State) (wg a : Nat) : Byte :=
  let w := s.wg wg
  if windowBase ≤ a then (tabGet ((s.core w.core).window.getD []) a).getD 0#8
  else (tabGet w.pen a).getD (if w.penZero then 0#8 else Config.penByte wg a)

def State.penBytesAt (s : State) (wg a n : Nat) : List Byte := (List.range n).map (fun i => s.penByte wg (a + i))
def State.penNat (s : State) (wg a n : Nat) : Nat := natOfBytes (s.penBytesAt wg a n)

/-- Write bytes of a pen. A whole aligned word written is poisoned no more (R415). -/
def State.penSet (s : State) (wg a : Nat) (bs : List Byte) : State :=
  if windowBase ≤ a then
    s.modCore (s.wg wg).core (fun c =>
      { c with window := some ((cellsFrom a bs).foldl (fun t x => tabSet t x.1 x.2) (c.window.getD [])) })
  else s.modWg wg (fun w =>
    { w with
      pen := (cellsFrom a bs).foldl (fun t x => tabSet t x.1 x.2) w.pen
      penPoison := if 4 ≤ bs.length then w.penPoison.filter (fun p => !(decide (a ≤ 4 * p) && decide (4 * p + 4 ≤ a + bs.length)))
        else w.penPoison })

/-- A byte of a lane's store. -/
def Wave.storeByte (w : Wave) (l a : Nat) : Byte :=
  (tabGet (w.lane l).store a).getD (Config.laneByte w.wg (32 * w.index + l) a)
def Wave.storeBytes (w : Wave) (l a n : Nat) : List Byte := (List.range n).map (fun i => w.storeByte l (a + i))

/-- TIME read as a number of ns (R154). -/
def State.now (s : State) : Nat := s.time.toNat

end Sys2Proof.Machine
end

