-- ==== Sys2Proof/Machine/Translate.lean ====
section
/-! DEFINITION. Machine/Translate.lean: page tables, walks and cached translations (R374 to R380, R394), and the error
records every unit writes (R413, R414). -/

namespace Sys2Proof.Machine

open Sys2Proof

/-! ## Error records -/

/-- What an error record says beyond its number and time (Table 24.4). -/
structure Report where
  kind : Nat
  sev : Nat
  action : Nat
  unit : Nat
  loc : Nat
  ctx : Nat
  grid : Nat
  addr : Nat
  detail : Nat
  deriving DecidableEq, Repr

def Report.plain (kind sev : Nat) : Report := ⟨kind, sev, 0, 11, 0, 0xFF, 0, 0, 0⟩

/-- LOC of Table 24.4 for a core. -/
def locOfCore (core quarter : Nat) : Nat := coreSite core + core % 160 * 16 + quarter * 4096

def Report.bytes (r : Report) (seq time repeats : Nat) : List Byte :=
  bytesOfNat 8 seq ++ bytesOfNat 8 time ++ bytesOfNat 1 r.kind ++ bytesOfNat 1 r.sev ++ bytesOfNat 1 r.action ++
  bytesOfNat 1 r.unit ++ bytesOfNat 4 r.loc ++ bytesOfNat 1 r.ctx ++ bytesOfNat 3 0 ++ bytesOfNat 4 r.grid ++
  bytesOfNat 8 r.addr ++ bytesOfNat 4 r.detail ++ bytesOfNat 4 repeats ++ bytesOfNat 16 0

/-- Key of a unit in the count of its errors in the last second. -/
def Report.unitKey (r : Report) : Nat := r.unit * 2 ^ 32 + r.loc

/-- Errors of a unit within the last second of TIME (REPEAT of Table 24.4). -/
def State.recentErrors (s : State) (unit : Nat) : Nat :=
  (s.errors.recent.filter (fun e => decide (e.1 = unit) && decide (s.now ≤ e.2 + 1000000000))).length

/-- Write an error record: into the ring where there is room, else it is dropped and LOST counts it; SEQ always advances.
While the ring's die is fenced the hub holds up to 256 records (R413). -/
def State.report (s : State) (r : Report) : State :=
  let rep := s.recentErrors r.unitKey + 1
  let bs := r.bytes s.errors.seq s.now rep
  let s1 := { s with errors := { s.errors with
    seq := s.errors.seq + 1
    recent := s.errors.recent ++ [(r.unitKey, s.now)] } }
  let h := s.table 7
  let ring := s.mem.nat h 8
  let cap := s.mem.nat (h + 8) 4
  let tail := s.mem.nat (h + 12) 4
  let head := s.mem.nat (h + 16) 4
  if (s.dies.getD (homeDie ring) MemDie.init).live then
    if (tail + 2 ^ 32 - head) % 2 ^ 32 = cap || cap = 0 then
      let lost := s.mem.nat (h + 20) 4
      s1.performBytes (h + 20) (bytesOfNat 4 (if lost = 2 ^ 32 - 1 then lost else lost + 1))
    else
      (s1.performBytes (ring + 64 * (tail % cap)) bs).performBytes (h + 12) (bytesOfNat 4 ((tail + 1) % 2 ^ 32))
  else { s1 with errors := { s1.errors with
    held := if s1.errors.held.length < 256 then s1.errors.held ++ [bs] else s1.errors.held } }

/-! ## Page-table entries (Tables 22.1, 22.2) -/

/-- A level of the table: its number, the VA bit where its index starts, and the index's bits. -/
def levels : List (Nat × Nat × Nat) := [(3, 39, 9), (2, 29, 10), (1, 21, 8), (0, 16, 5)]

def pteValid (e : Nat) : Bool := nbits e 0 0 == 1
def pteWrite (e : Nat) : Bool := nbits e 1 1 == 1
def pteExec (e : Nat) : Bool := nbits e 2 2 == 1
def pteLeaf (e : Nat) : Bool := nbits e 3 3 == 1
def pteDup (e : Nat) : Bool := nbits e 5 5 == 1
def pteDirty (e : Nat) : Bool := nbits e 7 7 == 1
def pteFmt (e : Nat) : Nat := nbits e 10 8
def pteGrp (e : Nat) : Nat := nbits e 12 11
def pteDupix (e : Nat) : Nat := nbits e 31 16
def pteScaleV (e : Nat) : Nat := nbits e 63 32
def ptePa (e : Nat) : Nat := nbits e 109 64
def pteSlice (e : Nat) : Nat := nbits e 127 112

/-- A well-formed leaf of a page of `size` bytes (R378). -/
def State.leafOk (s : State) (e size : Nat) : Bool :=
  let grouped := pteFmt e == 6 || pteFmt e == 7
  nbits e 111 110 == 0 && nbits e 15 13 == 0 && nbits e 4 4 == 0 &&
  ptePa e % size == 0 && s.populated (ptePa e) &&
  (if grouped then pteGrp e != 0 else pteGrp e == 0 && pteScaleV e == 0 && pteSlice e == 0) &&
  (pteDup e || pteDupix e == 0)

/-- A well-formed table entry that leads to a table of `size` bytes (R376, R378). -/
def State.tableOk (s : State) (e size : Nat) : Bool :=
  e == 1 + ptePa e * 2 ^ 64 && ptePa e % size == 0 && s.populated (ptePa e)

/-- How a walk ends: a leaf, with the page's VA and size and where the leaf lies; not present; malformed. -/
inductive Walk where
  | leaf (x : TlbEntry) | absent | bad (pa : Nat)
  deriving DecidableEq, Repr

/-- Walk from a table down (R375, R377). -/
def State.walkFrom (s : State) (ctx va : Nat) : List (Nat × Nat × Nat) → Nat → Walk
  | [], _ => .absent
  | (lvl, lo, bits) :: rest, table =>
    let at_ := table + 16 * (va / 2 ^ lo % 2 ^ bits)
    let e := s.mem.nat at_ 16
    if !pteValid e then .absent
    else if pteLeaf e then
      if lvl = 3 then .bad at_
      else if s.leafOk e (2 ^ lo) then .leaf ⟨ctx, va / 2 ^ lo * 2 ^ lo, 2 ^ lo, e, at_⟩
      else .bad at_
    else
      match rest with
      | [] => .bad at_
      | (_, _, b2) :: _ => if s.tableOk e (16 * 2 ^ b2) then s.walkFrom ctx va rest (ptePa e) else .bad at_

/-- A whole walk of a context's table. -/
def State.walk (s : State) (ctx va : Nat) : Walk := s.walkFrom ctx va levels (s.ctx ctx).ptroot

/-- What an access needs of its page. -/
inductive Need where
  | read | write (xdata : Bool) | fetch
  deriving DecidableEq, Repr

def Need.writes : Need → Bool
  | .write _ => true
  | .read | .fetch => false

/-- A leaf that allows the access (R378, R110, R51). -/
def Need.allowed (n : Need) (e : Nat) : Bool :=
  match n with
  | .read => true
  | .write x => pteWrite e && (!pteExec e || x)
  | .fetch => pteExec e

/-- The physical address of a byte through a leaf: the replica of the site for reads of a duplicated page, the home for
writes (R394). -/
def State.paOf (s : State) (site : Nat) (home : Bool) (x : TlbEntry) (va : Nat) : Nat :=
  let base := ptePa x.leaf
  let rep :=
    if pteDup x.leaf && !home then
      match tabGet s.dups (pteDupix x.leaf) with
      | some d => if d.acks.isSome then base else ((d.reads.getD site none).getD base)
      | none => base
    else base
  rep + (va - x.va)

/-- The translation of one access. -/
inductive Trans where
  | ok (pa leaf : Nat) (page : TlbEntry)
  | absent
  | denied
  | malformed (pte : Nat)
  deriving DecidableEq, Repr

def TlbEntry.covers (x : TlbEntry) (ctx va : Nat) : Bool :=
  decide (x.ctx = ctx) && decide (x.va ≤ va) && decide (va < x.va + x.size)

/-- A cached translation still held by the core or its die at this clk (R379). -/
def State.tlbHit (s : State) (core ctx va : Nat) : Option TlbEntry :=
  let held := fun (x : TlbEntry) => x.covers ctx va && Config.tlbKept s.cycle.toNat ctx (x.va / 2 ^ 16)
  match (s.core core).tlb.find? held with
  | some x => some x
  | none => ((s.sites.getD (coreSite core) (Site.init false)).tlb).find? held

/-- A walk of this page is blocked by a maintenance command (R393). -/
def State.walkBlocked (s : State) (ctx va : Nat) : Bool := s.blockedWalks.any (fun b => decide (b = (ctx, va / 2 ^ 16)))

/-- Translate an access of a core, by a cached entry or a walk. A page whose walk is blocked waits as an absent one. -/
def State.translate (s : State) (core ctx va : Nat) (n : Need) : Trans :=
  let r := match s.tlbHit core ctx va with
    | some x => Walk.leaf x
    | none => if s.walkBlocked ctx va then .absent else s.walk ctx va
  match r with
  | .absent => .absent
  | .bad p => .malformed p
  | .leaf x => if n.allowed x.leaf then .ok (s.paOf (coreSite core) n.writes x va) x.leaf x else .denied

/-- Bits set in a leaf by an OR at its home, which clears none (R377). -/
def State.orLeaf (s : State) (leafPa bits : Nat) : State :=
  let e := s.mem.nat leafPa 1
  if e ||| bits = e then s else s.performBytes leafPa (bytesOfNat 1 (e ||| bits))

/-- A translation is held by the core or its die. -/
def State.tlbHolds (s : State) (core : Nat) (x : TlbEntry) : Bool :=
  (s.core core).tlb.contains x || ((s.sites.getD (coreSite core) (Site.init false)).tlb).contains x

/-- The effects of a translation: a walk sets ACCESSED and caches the entry; a write through an entry whose DIRTY is 0 sets
DIRTY (R377). A cached entry that needs neither writes nothing. -/
def State.touch (s : State) (core : Nat) (x : TlbEntry) (write : Bool) : State :=
  let bits := (if s.tlbHolds core x then 0 else 0x40) ||| (if write && !pteDirty x.leaf then 0x80 else 0)
  let y := { x with leaf := x.leaf ||| bits }
  (s.orLeaf x.leafPa bits).modCore core (fun c =>
    { c with tlb := if c.tlb.contains y then c.tlb else if c.tlb.contains x then c.tlb.map (fun z => if z = x then y else z) else c.tlb ++ [y] })

/-- Touch every page of a list of translations. -/
def State.touchAll (s : State) (core : Nat) (write : Bool) (ts : List Trans) : State :=
  ts.foldl (fun s t =>
    match t with
    | .ok _ _ x => s.touch core x write
    | .absent | .denied | .malformed _ => s) s

/-! ## Pages a pager serves (R386) -/

/-- The pager region of a context that covers an address. -/
def Context.regionOf (c : Context) (va : Nat) : Option Nat :=
  c.regions.findIdx? (fun r => decide (r.lo ≤ va) && decide (va < r.hi))

/-- Bytes of a region's page. -/
def Region.pageBytes (r : Region) : Nat := if r.pagesize = 0 then 2 ^ 16 else if r.pagesize = 1 then 2 ^ 21 else 2 ^ 29

/-- A page that has been refused in this step is served no more. -/
def Context.refusedNow (c : Context) (va : Nat) : Bool :=
  c.upcalls.any (fun u => u.refused && decide (u.page ≤ va) &&
    decide (va < u.page + u.reg.pageBytes))

/-- An absent page is waited for where a pager serves it; a blocked walk waits too: it is no missing page (R393). -/
def State.servable (s : State) (ctx va : Nat) : Bool :=
  (((s.ctx ctx).regionOf va).isSome && !(s.ctx ctx).refusedNow va) || s.walkBlocked ctx va

/-- The VA of a region's page that holds an address. -/
def Region.pageBase (r : Region) (va : Nat) : Nat := va / r.pageBytes * r.pageBytes

/-- An upcall for the page of an address is outstanding. -/
def Context.asked (c : Context) (va : Nat) : Bool :=
  c.upcalls.any (fun u => decide (u.page ≤ va) &&
    decide (va < u.page + u.reg.pageBytes))

/-- An access that finds no page joins the upcall outstanding for it, or asks for one (R386). -/
def State.askPage (s : State) (ctx va kind : Nat) : State :=
  let c := s.ctx ctx
  match c.regionOf va, s.walk ctx va with
  | some i, .absent =>
    if c.asked va then s
    else
      match c.regions[i]? with
      | some r => s.modCtx ctx (fun c => { c with upcalls := c.upcalls ++ [⟨i, r, r.pageBase va, kind, none, [], 0, s.now, false, false⟩] })
      | none => s
  | _, _ => s

/-- Accesses of the shepherd and the engines of the hub, which have no core: a walk, with no cached entry. -/
def State.hubTranslate (s : State) (ctx va : Nat) (n : Need) : Trans :=
  match (if s.walkBlocked ctx va then .absent else s.walk ctx va) with
  | .absent => .absent
  | .bad p => .malformed p
  | .leaf x => if n.allowed x.leaf then .ok (ptePa x.leaf + (va - x.va)) x.leaf x else .denied

/-- The pieces of a range of VAs, page by page. -/
def pagePieces : Nat → Nat → Nat → List (Nat × Nat)
  | 0, _, _ => []
  | fuel + 1, va, n =>
    if n = 0 then []
    else
      let k := Nat.min n (2 ^ 16 - va % 2 ^ 16)
      (va, k) :: pagePieces fuel (va + k) (n - k)
def piecesOf (va n : Nat) : List (Nat × Nat) := pagePieces (n / 2 ^ 16 + 2) va n

/-- The pages of a range of VAs as the hub finds them. -/
def State.hubPages (s : State) (ctx va n : Nat) (need : Need) : List (Trans × Nat × Nat) :=
  if 2 ^ 48 < va + n then [(.denied, va, n)] else (piecesOf va n).map (fun p => (s.hubTranslate ctx p.1 need, p))

/-- The physical addresses of a range for the hub, where every page of it can be accessed. -/
def State.hubPas (s : State) (ctx va n : Nat) (need : Need) : Option (List Nat) :=
  (s.hubPages ctx va n need).foldr (fun t acc =>
    match acc, t.1 with
    | some l, .ok pa _ _ => some ((List.range t.2.2).map (pa + ·) ++ l)
    | _, _ => none) (some [])

/-- The walks of a range of VAs set ACCESSED and DIRTY (R377). -/
def State.hubSeen (s : State) (ctx va n : Nat) (need : Need) : State :=
  (s.hubPages ctx va n need).foldl (fun u t =>
    match t.1 with
    | .ok _ _ x => u.orLeaf x.leafPa (if need.writes then 0xC0 else 0x40)
    | .absent | .denied | .malformed _ => u) s

/-- Read `n` bytes at a VA for the hub; none where a page cannot be read. -/
def State.hubRead (s : State) (ctx va n : Nat) : Option (List Byte) :=
  (s.hubPas ctx va n .read).map (fun pas => pas.map s.mem.get)

/-- Write bytes at a VA for the hub, where every page is mapped writable. A write to a duplicated page is held until its
collapse (R395). -/
def State.hubWrite (s : State) (ctx va : Nat) (bs : List Byte) : State :=
  match s.hubPas ctx va bs.length (.write true) with
  | some pas =>
    let u := s.hubSeen ctx va bs.length (.write true)
    match pas.findSome? u.dupOf with
    | some i =>
      let v := u.startCollapse i
      { v with dups := tabMod v.dups i (fun d => { d with waiting := d.waiting ++ (pas.zip bs).map (fun c => (c.1, [c.2])) }) }
    | none => u.perform (pas.zip bs)
  | none => s

/-- Parts at several VAs written by the hub as one step, where every page is mapped writable. -/
def State.hubWriteAll (s : State) (ctx : Nat) (parts : List (Nat × List Byte)) : State :=
  match parts.foldr (fun p acc =>
    match acc, s.hubPas ctx p.1 p.2.length (.write true) with
    | some cs, some pas => some (pas.zip p.2 ++ cs)
    | _, _ => none) (some []) with
  | some cells => (parts.foldl (fun u p => u.hubSeen ctx p.1 p.2.length (.write true)) s).perform cells
  | none => s

/-- The shepherd writes parts one after another; where a page of them is yet to be served they wait for it (R386). -/
def State.hubPost (s : State) (ctx : Nat) (parts : List (Nat × List Byte)) : State :=
  let ts := parts.foldl (fun l p => l ++ s.hubPages ctx p.1 p.2.length (.write true)) []
  match ts.find? (fun t => decide (t.1 = .absent) && s.servable ctx t.2.1) with
  | some t => ({ s with posted := s.posted ++ [⟨ctx, parts⟩] } : State).askPage ctx t.2.1 1
  | none => parts.foldl (fun u p => u.hubWrite ctx p.1 p.2) s

/-- A number at a VA for the hub, 0 where it is not mapped. -/
def State.hubNat (s : State) (ctx va n : Nat) : Nat := natOfBytes ((s.hubRead ctx va n).getD [])

end Sys2Proof.Machine
end

