-- ==== Sys2Proof/Machine/Ops.lean ====
section
/-! DEFINITION. Machine/Ops.lean: the named operations every meaning is written with: registers and latches of the
issuing wave, program counters, mask release, grids killed, taking a trap (R361) and returning from one (R367). -/

namespace Sys2Proof.Machine

open Sys2Proof

/-- The outcome of a meaning. -/
abbrev Out := Host.Outcome State Fault Refusal

/-! ## The issuing wave -/

/-- The wave whose instruction is issuing, as it stands now. -/
def State.cur (s : State) : Wave := s.wave s.iss.key
/-- The wave as its operands are read: before any write of the clk (R23). -/
def State.src (s : State) : Wave := s.iss.before.getD s.cur
/-- The active lanes. -/
def State.active (s : State) : Mask := s.iss.lanes
def State.modCur (s : State) (f : Wave → Wave) : State := s.modWave s.iss.key f
def State.curCore (s : State) : Nat := keyCore s.iss.key
def State.curWg (s : State) : Nat := s.cur.wg
def State.curCtx (s : State) : Nat := s.wgCtx s.cur.wg
def State.curGrid (s : State) : Nat := s.wgGrid s.cur.wg

/-! ## Register writes (R23, R119, R197) -/

/-- In slot B, the lanes whose register slot A wrote; slot A's value remains (R23). -/
def Issue.blockedV (i : Issue) (r : Nat) : Mask :=
  if i.slotB then i.keptV.foldl (fun m k => if k.1 = r then m ||| k.2 else m) 0#32 else 0#32
/-- Slot A notes what it writes. -/
def Issue.noteV (i : Issue) (r : Nat) (ls : Mask) : Issue := if i.slotB then i else { i with keptV := (r, ls) :: i.keptV }

/-- Write physical register `r` of a set of lanes. -/
def Wave.setReg (w : Wave) (ls : Mask) (r : Nat) (f : Nat → Word) : Wave :=
  w.modLanes ls (fun l x => { x with
    regs := setAt x.regs r (f l)
    poison := x.poison.filter (fun p => decide (p ≠ r))
    deferred := x.deferred.filter (fun d => decide (d.reg ≠ r)) })

/-- `vset` of register `n` in a set of lanes of the issuing wave. -/
def State.putV (s : State) (ls : Mask) (n : Nat) (f : Nat → Word) : State :=
  let r := s.cur.wb + n
  let s1 := s.modCur (fun w => w.setReg (ls &&& ~~~ s.iss.blockedV r) r f)
  { s1 with iss := s.iss.noteV r ls }

/-- `sset` of one s register: slot A's value remains (R174). -/
def State.putS (s : State) (n : Nat) (x : Word) : State :=
  if s.iss.slotB && s.iss.keptS.contains n then s
  else
    let s1 := s.modCur (fun w => { w with s := setAt w.s n x })
    { s1 with iss := if s.iss.slotB then s.iss else { s.iss with keptS := n :: s.iss.keptS } }

/-- `sset` through a destination field. -/
def State.putU (s : State) (d : UDst) (x : Word) : State :=
  match d with
  | .reg n => s.putS n.val x
  | .discard => s

/-- `sset` of a pair. -/
def State.putU64 (s : State) (d : UDst) (x : Dword) : State :=
  match d with
  | .reg n => (s.putS n.val (lo32 x)).putS (n.val + 1) (hi32 x)
  | .discard => s

/-- A record written by an instruction: slot A's value remains (R23). -/
def State.putQ (s : State) (n : Nat) (x : BitVec 128) : State :=
  if s.iss.slotB && s.iss.keptQ.contains n then s
  else
    let s1 := s.modCur (fun w => { w with q := setAt w.q n x })
    { s1 with iss := if s.iss.slotB then s.iss else { s.iss with keptQ := n :: s.iss.keptQ } }

/-- A vector destination, 32 bits wide. -/
def State.putD (s : State) (d : VDst) (f : Nat → Word) : State :=
  match d with
  | .reg n => s.putV s.active n.val f
  | .discard => s

/-- A vector destination, 64 bits wide (R59). -/
def State.putD64 (s : State) (d : VDst) (f : Nat → Dword) : State :=
  match d with
  | .reg n => (s.putV s.active n.val (fun l => lo32 (f l))).putV s.active (n.val + 1) (fun l => hi32 (f l))
  | .discard => s

/-- The latch push of R120. -/
def Lane.push (x : Lane) (v : Dword) (wide : Bool) : Lane :=
  { x with latches := ⟨v, wide, true⟩ :: x.latches.take 3 }
def State.push (s : State) (wide : Bool) (f : Nat → Dword) : State :=
  s.modCur (fun w => w.modLanes s.active (fun l x => x.push (f l) wide))

/-- Latches become invalid (R25). -/
def Lane.dropLatches (x : Lane) : Lane := { x with latches := List.replicate 4 Latch.blank }

/-- A potential switch point opens a new burst for a set of lanes (R24, R25). -/
def Wave.openBurst (w : Wave) (ls : Mask) : Wave := w.modLanes ls (fun _ x => { x.dropLatches with burst := 0 })

/-! ## Program counters and mask release -/

/-- Give each lane of a set its PC. -/
def Wave.setPc (w : Wave) (ls : Mask) (f : Nat → Addr) : Wave := w.modLanes ls (fun l x => { x with pc := f l })
/-- The active lanes continue at next_pc. -/
def State.adv (s : State) : State := s.modCur (fun w => w.setPc s.active (fun _ => s.iss.next))
/-- The active lanes are held and issue the same instruction again: nothing of this issue stays. -/
def State.retry (s : State) (st : LaneState) : State :=
  s.modCur (fun w => (s.iss.start.getD w).modLanes s.active (fun _ x => { x with state := st }))
/-- The whole wave is held and the instruction issues again. -/
def State.retryWave (s : State) (wt : Wait) : State := s.modCur (fun w => { s.iss.start.getD w with wait := wt })
/-- The active lanes take a state. -/
def State.hold (s : State) (st : LaneState) : State := s.modCur (fun w => w.modLanes s.active (fun _ x => { x with state := st }))

/-- The lanes held at a JOIN or WAITM on mask `n`. -/
def Wave.arrived (w : Wave) (n : MReg) : Mask :=
  maskOf (fun l => decide ((w.lane l).state = .join n) || decide ((w.lane l).state = .waitm n))

/-- The release condition of mask `n` (R144): the lanes it releases now. -/
def Wave.releases (w : Wave) (n : MReg) : Mask :=
  let a := w.arrived n
  let m := w.mreg n.val
  if (m &&& w.live) &&& ~~~ a = 0#32 then a else a &&& ~~~ m

/-- Release lanes: each continues after its own JOIN or WAITM. -/
def Wave.releaseMask (w : Wave) (n : MReg) : Wave :=
  w.modLanes (w.releases n) (fun _ x => { x with state := .ready, pc := x.pc + 4#48 })

/-- Evaluate the release condition of every mask register (R144). -/
def Wave.releaseAll (w : Wave) : Wave := (List.finRange 12).foldl Wave.releaseMask w

/-- Write a whole mask register: 0 in exited and never-launched lanes (R197); the bits LEAVE cleared in the same clk
stay cleared (R146); then the release condition. -/
def State.putM (s : State) (d : MReg) (x : Mask) : State :=
  if s.iss.slotB && s.iss.keptM.contains d.val then s
  else
    let gone := s.iss.left.foldl (fun m k => if k.1 = d.val then m ||| k.2 else m) 0#32
    let s1 := s.modCur (fun w => ({ w with m := setAt w.m d.val (x &&& w.live &&& ~~~ gone) }).releaseMask d)
    { s1 with iss := if s.iss.slotB then s.iss else { s.iss with keptM := d.val :: s.iss.keptM } }

/-! ## Signals and killed grids -/

/-- STATUS of a signal event (Table 19.6). -/
def Grid.statusWord (g : Grid) (status : Nat) : Nat :=
  status + (if g.sbovf then 256 else 0) + (if g.replayed then 512 else 0)

/-- Write a signal event: bytes 8-31, then DONE as a release at system scope; with SIGVA 0 a rejection or a kill is
reported by a record of KIND 0x28 (R342). The handle is 0 where nothing started; `killed` is false for a rejection. -/
def State.signal (s : State) (handle : Nat) (g : Grid) (status : Nat) (killed : Bool) : State :=
  if g.sigva = 0 then
    if status = 0 then s
    else s.report { Report.plain 0x28 (if killed then 2 else 1) with
      ctx := g.ctx, grid := handle, detail := g.statusWord status, action := if killed then 2 else 0 }
  else
    s.hubPost g.ctx [(g.sigva + 8,
        bytesOfNat 4 (g.statusWord status) ++ bytesOfNat 4 handle ++ bytesOfNat 8 s.now ++ bytesOfNat 8 0),
      (g.sigva, bytesOfNat 8 1)]

/-- The KiB of a core's pen ways that the pens of its resident workgroups occupy. -/
def State.unitsUsed (s : State) (core : Nat) : List Nat :=
  ((s.wgs.filter (fun x => decide (x.2.core = core))).map (fun x => x.2.penUnits)).flatten

/-- The ways of a core that the pen of some resident workgroup occupies: no pen is moved between ways (R42, R44). -/
def State.waysNeeded (s : State) (core : Nat) : Nat := ((s.unitsUsed core).map (· / 64)).eraseDups.length

/-- The KiB a pen of `n` bytes takes on a core: free ones of ways already occupied first. -/
def State.unitsFor (s : State) (core n : Nat) : List Nat :=
  let used := s.unitsUsed core
  let free := (List.range 896).filter (fun u => !used.contains u)
  let old := free.filter (fun u => used.any (fun x => decide (x / 64 = u / 64)))
  (old ++ free.filter (fun u => !old.contains u)).take (n / 1024)

/-- A waiter that belongs to a workgroup. -/
def State.waiterOf (s : State) (wg : Nat) (w : Waiter) : Bool :=
  match w with
  | .wave k => decide ((s.wave k).wg = wg)
  | .saved g _ => decide (g = wg)
  | .ray id => (s.rays.find? (fun r => decide (r.id = id))).any (fun r => decide ((s.wave r.wave).wg = wg))
  | .grid _ => false

/-- A workgroup leaves its core (R44, R246): its waves, engine work, lease and pen ways go. -/
def State.leaveCore (s : State) (wg : Nat) : State :=
  let core := (s.wg wg).core
  let mine := fun (k : Nat) => decide ((s.wave k).wg = wg)
  let s1 := s.modCore core (fun c => { c with
    drover := c.drover.filter (fun r => decide (r.wg ≠ wg))
    paddock := c.paddock.filter (fun p => !mine p.wave)
    tiles := c.tiles.map (fun t => { t with rows := t.rows.filter (fun r => !mine r.wave) })
    inbox := c.inbox.filter (fun e => !mine e.row.wave)
    array := if c.array.lessee = some wg then { MatrixArray.init with band := c.array.band } else c.array
    window := if c.array.lessee = some wg then none else c.window })
  let s2 := { s1 with
    rays := s1.rays.filter (fun r => !mine r.wave)
    waves := s1.waves.filter (fun x => decide (x.2.wg ≠ wg)) }
  let s3 := s2.modWg wg (fun w => { w with penBytes := 0, penUnits := [] })
  s3.modCore core (fun c => { c with
    penWays := Nat.min c.penWays (s3.waysNeeded core + (c.claim.map Claim.joined).getD 0) })

/-- A workgroup is gone: everything of it is released, its save area returns to the pool and its tethers are removed
(R222, R343). -/
def State.dropWg (s : State) (wg : Nat) : State :=
  let ctx := s.wgCtx wg
  let slot := (s.wg wg).saveSlot
  let s1 := (s.dropTethers (s.waiterOf wg)).leaveCore wg
  let s2 := s1.modCtx ctx (fun c => { c with
    areasUsed := match slot with
      | some a => c.areasUsed.filter (fun x => decide (x ≠ a))
      | none => c.areasUsed })
  { s2 with wgs := tabErase s2.wgs wg }

/-- Whether grid `a` is `g` or a descendant of it, within `fuel` generations. -/
def State.descends (s : State) (g : Nat) : Nat → Nat → Bool
  | 0, _ => false
  | fuel + 1, a =>
    decide (a = g) || (match (s.grid a).parent with
      | some p => s.descends g fuel p
      | none => false)

/-- The frame records of a killed grid can no longer be sent (R428). -/
def FrameRec.disown (id : Nat) (r : FrameRec) : FrameRec := if r.owner = id then { r with refused := true } else r
def Stream.disown (id : Nat) (x : Nat × Stream) : Nat × Stream :=
  (x.1, { x.2 with queue := x.2.queue.map (FrameRec.disown id) })

/-- The claims of a grid are given up: ways that joined return to L1. -/
def State.dropClaims (s : State) (id : Nat) : State :=
  { s with cores := s.cores.map (fun c => (c.1,
      match c.2.claim with
      | some k => if k.grid = id then { c.2 with claim := none, penWays := c.2.penWays - k.joined } else c.2
      | none => c.2)) }

/-- Resources kept for a grid are kept no longer (R349, R356). -/
def State.unreserve (s : State) (id : Nat) : State :=
  { s with
    reserved := s.reserved.filter (fun r => decide (r.2 ≠ id))
    backfill := s.backfill.filter (fun b => decide (b.1 ≠ id)) }

/-- Waves of a core held because the side log was full try again (R388). -/
def State.freeLog (s : State) (core : Nat) : State :=
  { s with waves := s.waves.map (fun x => (x.1,
      match x.2.wait with
      | .page _ _ 1 _ => if keyCore x.1 = core then { x.2 with wait := .none } else x.2
      | _ => x.2)) }

/-- Kill one grid: nothing of it stays, and its signal event reports the status. -/
def State.killOne (s : State) (status id : Nat) : State :=
  let g := s.grid id
  let ds := s.droves.filter (fun d => decide (d.2.grid = id))
  let wgs := ds.foldl (fun l d => l ++ d.2.wgs) []
  let s1 := wgs.foldl (fun s w =>
    (((s.modCore (s.wg w).core (fun c => { c with sideLog := c.sideLog.filter (fun e => decide (e.wg ≠ w)) })).freeLog (s.wg w).core).dropWg w)) s
  let s2 := ((s1.dropTethers (fun w => decide (w = .grid id))).dropClaims id).unreserve id
  let s3 := { s2 with
    droves := s2.droves.filter (fun d => decide (d.2.grid ≠ id))
    grids := tabErase s2.grids id
    arrivals := s2.arrivals.filter (fun a => !wgs.contains a.target && !wgs.contains a.wg)
    streams := s2.streams.map (Stream.disown id) }
  let s4 := s3.modCtx g.ctx (fun c => { c with childq := c.childq.filter (fun x => decide (x ≠ id)) })
  s4.signal (if g.replayed || ds.any (fun d => d.2.started) then id else 0) g status true

/-- Kill a grid and every descendant (R363, R373). -/
def State.killGrid (s : State) (status id : Nat) : State :=
  let fam := (s.grids.map Prod.fst).filter (fun a => s.descends id (s.grids.length + 1) a)
  fam.foldl (fun s a => s.killOne status a) s

/-! ## Taking a trap (R361 to R365) -/

/-- Causes of Table 21.1. -/
def causeIllegal : Nat := 0x01
def causePrivileged : Nat := 0x02
def causeLatch : Nat := 0x03
def causeWindow : Nat := 0x04
def causeMisalign : Nat := 0x05
def causeBounds : Nat := 0x06
def causeAccess : Nat := 0x07
def causeFormat : Nat := 0x08
def causeShadow : Nat := 0x09
def causeFpexc : Nat := 0x0A
def causeNevfault : Nat := 0x0B
def causeStack : Nat := 0x0C
def causeUser : Nat := 0x0D
def causeBreak : Nat := 0x0E
def causeGbar : Nat := 0x0F
def causeLaunch : Nat := 0x10
def causePreempt : Nat := 0x11
def causeError : Nat := 0x12
def causeArray : Nat := 0x13

/-- A trap of the issuing instruction: its lanes keep the instruction's PC (R362). -/
def State.mkTrap (s : State) (cause info : Nat) (lanes : Mask) (faddr : Nat) : TrapReq :=
  ⟨cause, BitVec.ofNat 32 info, lanes, s.iss.pc, s.iss.pc, BitVec.ofNat 48 faddr, s.iss.slotB, false, false, false⟩

/-- The trap record (Table 21.2). -/
def TrapReq.record (t : TrapReq) : BitVec 512 :=
  BitVec.ofNat 512 (t.cause + t.restore.toNat * 2 ^ 8 + t.slotB.toNat * 2 ^ 9 + t.arrayf.toNat * 2 ^ 10 +
    t.deferred.toNat * 2 ^ 11 + t.lanes.toNat * 2 ^ 32 + t.iaddr.toNat * 2 ^ 64 + t.resume.toNat * 2 ^ 128 +
    t.info.toNat * 2 ^ 192 + t.faddr.toNat * 2 ^ 256)

/-- The state word of a lane (item 2 of Table 21.3). A lane held for a register or an engine stands ready at its PC. -/
def LaneState.word : LaneState → Nat
  | .never => 0
  | .ready | .regWait | .stalled => 1
  | .join m => 2 + m.val * 16
  | .waitm m => 3 + m.val * 16
  | .sleeper b => 4 + b.val * 256
  | .exited => 5
  | .gbar => 6

/-- The WAIT word (Table 21.4). -/
def Wait.word : Wait → Nat
  | .none | .page .. | .fdiv => 0
  | .waitu d wide => 1 + d * 16 + wide.toNat * 2 ^ 10
  | .fwait d k p => 2 + d.getD 0 * 16 + d.isNone.toNat * 2 ^ 11 + k * 2 ^ 16 + p % 256 * 2 ^ 20
  | .waitc c t => 3 + c * 2 ^ 12 + t % 256 * 2 ^ 20
  | .gbar => 4
  | .sleept _ => 5
  | .cairnw d => 6 + d.getD 0 * 16 + d.isNone.toNat * 2 ^ 11

/-- WAITKIND of Table 19.8. -/
def Wait.kind (w : Wait) : Nat := w.word % 16

/-- The wait a WAIT word says, with the deadline kept in the status block (R372). -/
def Wait.ofWord (x deadline : Nat) : Wait :=
  let dest := nbits x 9 4
  let nodest := nbits x 11 11 == 1
  let d := if nodest then Option.none else some dest
  match x % 16 with
  | 1 => .waitu dest (nbits x 10 10 == 1)
  | 2 => .fwait d (nbits x 19 16) (nbits x 27 20)
  | 3 => .waitc (nbits x 13 12) (nbits x 27 20)
  | 4 => .gbar
  | 5 => .sleept deadline
  | 6 => .cairnw d
  | _ => .none

def word32 (x : Nat) : Word := BitVec.ofNat 32 x
def lane32 : List Nat := List.range 32

/-- The hidden state captured at entry (R361, Table 21.3). -/
def Wave.capture (w : Wave) : Hidden where
  pclo := lane32.map (fun l => (w.lane l).pc.setWidth 32)
  pchi := lane32.map (fun l => word32 ((w.lane l).pc.toNat / 2 ^ 32 + (w.lane l).hw * 2 ^ 16 + (w.lane l).spilled * 2 ^ 20))
  lstate := lane32.map (fun l => word32 (w.lane l).state.word)
  hv := (List.range 64).map (fun i => (w.lane (i / 2)).regs.getD (i % 2) 0#32)
  wave := [word32 w.wb, 0#32, w.penpass, w.oobflags, w.degen, w.fpmode, w.fpflags, word32 w.wait.word]
  shv := [w.sreg 60, w.sreg 61, w.sreg 62, w.sreg 63]
  qhv := (List.range 4).map (fun i => word32 ((w.qreg 15).toNat / 2 ^ (32 * i)))

/-- The save-area record put into q15 (R365). -/
def saveRecord (base size : Nat) : BitVec 128 :=
  if base = 0 then 0#128 else BitVec.ofNat 128 (base + 4 * 2 ^ 48 + size / 4 * 2 ^ 68 + 2 ^ 104)

/-- The number under which what is noted of physical register 0 or 1 stands while the register is held in item HV (R361). -/
def heldReg (r : Nat) : Nat := 512 + r

/-- What is noted of the data of physical registers 0 and 1, lost or of a failed check, goes with them into item HV. -/
def Lane.holdLow (x : Lane) : Lane :=
  { x with
    poison := x.poison.map (fun r => if r < 2 then heldReg r else r)
    deferred := x.deferred.map (fun d => if d.reg < 2 then { d with reg := heldReg d.reg } else d) }

/-- And returns with them, over what the handler's own registers held. -/
def Lane.giveLow (x : Lane) : Lane :=
  { x with
    poison := (x.poison.filter (fun r => decide (2 ≤ r))).map (fun r => if 512 ≤ r then r - 512 else r)
    deferred := (x.deferred.filter (fun d => decide (2 ≤ d.reg))).map (fun d => if 512 ≤ d.reg then { d with reg := d.reg - 512 } else d) }

/-- A word of item HV is written: what was noted of it is gone (R361). -/
def Lane.dropHeld (x : Lane) (r : Nat) : Lane :=
  { x with
    poison := x.poison.filter (fun n => decide (n ≠ heldReg r))
    deferred := x.deferred.filter (fun d => decide (d.reg ≠ heldReg r)) }

/-- Handler mode: the wave as the handler's first instruction finds it. -/
def Wave.intoHandler (w : Wave) (t : TrapReq) (vec : Addr) (q15 : BitVec 128) : Wave :=
  let h := w.capture
  { w with
    lanes := w.lanes.mapIdx (fun l x =>
      if x.state.live then
        { x.dropLatches.holdLow with
          pc := vec, state := .ready, burst := 0, idle := 0
          regs := setAt (setAt x.regs 0 (BitVec.ofNat 32 l)) 1 0#32 }
      else x.dropLatches)
    q := setAt w.q 15 q15
    wb := 0
    handler := true
    trap := t.record
    hidden := h
    wait := .none
    pend := none
    rteReady := false
    starved := none }

/-- A wake has been posted to a wave and not yet delivered: it is delivered before the wave is captured (R372). -/
def State.wakeOwed (s : State) (key : Nat) : Bool := s.wakes.any (fun k => decide (k.waiter = .wave key))

/-- Rebind the tethers of a wave to its status block (R372). -/
def State.rebindSaved (s : State) (key : Nat) : State :=
  let w := s.wave key
  let f := fun (t : Tether) => if t.waiter = .wave key then { t with waiter := .saved w.wg w.index } else t
  { s with
    tethers := s.tethers.map f
    unarmed := s.unarmed.map f }

/-- Write words of a wave's status block: the model's copy, and the save area where there is one (Table 19.8). -/
def State.setStatus (s : State) (wg index : Nat) (words : List (Nat × Word)) : State :=
  let s1 := s.modWg wg (fun g => { g with
    status := modAt g.status index (fun t => words.foldl (fun t x => tabSet t x.1 x.2) t) })
  let base := (s.wg wg).saveBase
  if base = 0 then s1
  else words.foldl (fun s x =>
    if x.1 < 16 then s.hubPost (s.wgCtx wg) [(base + 0x100 + 64 * index + 4 * x.1, bytesOfNat 4 x.2.toNat)] else s) s1

/-- The word of a status block. -/
def State.status (s : State) (wg index i : Nat) : Nat :=
  (((tabGet ((s.wg wg).status.getD index []) i).getD 0#32)).toNat
/-- Marks, in the model's copy of the status block, that a wake has been recorded. -/
def wokenMark : Nat := 16

/-- The trap record of a context with no handler, and of a double trap: the grid and its descendants are killed (R363,
R448). -/
def State.killTrapped (s : State) (key : Nat) (t : TrapReq) : State :=
  let g := s.waveGrid key
  let s1 := s.report { Report.plain 0x20 2 with
    ctx := s.waveCtx key, grid := g, addr := t.iaddr.toNat, detail := t.cause, action := 2,
    loc := locOfCore (keyCore key) (keyQuarter key % 4) }
  s1.killGrid 1 g

/-- The quarter that issues a wave is to choose afresh (R26). -/
def State.rechoose (s : State) (key : Nat) : State :=
  if (s.quarter (keyQuarter key)).cur = some key then s.modQuarter (keyQuarter key) (fun q => { q with choose := true }) else s

/-- Trap entry (R361): the wave enters handler mode with its hidden state captured and its record written. -/
def State.enterTrap (s : State) (key : Nat) (t : TrapReq) : State :=
  let ctx := s.ctx (s.waveCtx key)
  let w := s.wave key
  if ctx.trapvec = 0#48 then s.killTrapped key t
  else
    let deadline := match w.wait with
      | .sleept d => d
      | .none | .waitu .. | .fwait .. | .waitc .. | .gbar | .cairnw .. | .page .. | .fdiv =>
        ((s.tethers.find? (fun x => decide (x.waiter = .wave key))).bind Tether.deadline).getD 0
    let s1 := s.rebindSaved key
    let s2 := s1.setStatus w.wg w.index
      [(1, word32 w.wait.kind), (2, 0#32), (3, 0#32), (4, 0#32), (6, word32 deadline), (7, word32 (deadline / 2 ^ 32)), (wokenMark, 0#32)]
    let q15 := saveRecord (s.wg w.wg).saveBase ctx.areasize
    (s2.modWave key (fun w => w.intoHandler t ctx.trapvec q15)).rechoose key

/-- No scoreboarded result is owed to the wave (R201). -/
def Wave.owedNothing (w : Wave) : Bool := w.owed.all Owed.arrived

/-- The issuing instruction raises a trap: a double trap in handler mode (R363), else entry as soon as nothing is owed. -/
def State.raise (s : State) (t : TrapReq) : State :=
  let w := s.cur
  if w.handler then s.killTrapped s.iss.key t
  else
    let s1 := s.modCur (fun w => (w.setPc s.active (fun _ => t.resume)).modLanes s.active (fun _ x =>
      { x with state := if x.state.live then .ready else x.state }))
    if w.owedNothing then s1.enterTrap s.iss.key t
    else s1.modCur (fun w => { w with pend := some t })

/-! ## Checks at issue (R130) -/

/-- Lanes in which a named latch is invalid (R121). -/
def Wave.latchFails (w : Wave) (active : Mask) (ls : List Nat) : Mask :=
  maskOf (fun l => active.getLsbD l && ls.any (fun k => !((w.lane l).latches.getD k Latch.blank).valid))

/-- A register beyond the allocation (R119). -/
def Wave.windowFails (w : Wave) (vs : List Nat) : Bool := vs.any (fun n => decide (w.nregs ≤ w.wb + n))

/-- The lanes that read a poisoned register (R415). -/
def Wave.poisonReads (w : Wave) (active : Mask) (vs : List Nat) : Mask :=
  maskOf (fun l => active.getLsbD l && vs.any (fun n => (w.lane l).poison.contains (w.wb + n)))

/-- The trap of the checks that stand before an entry's own, if any: ILLEGAL, PRIVILEGED, WINDOW, LATCH (R130). `bad` is
what the entry itself calls ILLEGAL in this state. -/
def State.issueTrap (s : State) (i : Instr) (bad : Bool) : Option TrapReq :=
  let w := s.src
  if !i.wf || bad then some (s.mkTrap causeIllegal 0 s.active 0)
  else if i.privileged && !w.handler then some (s.mkTrap causePrivileged 0 s.active 0)
  else if w.windowFails i.named.vs then some (s.mkTrap causeWindow 0 s.active 0)
  else if w.latchFails s.active i.named.ls ≠ 0#32 then some (s.mkTrap causeLatch 0 (w.latchFails s.active i.named.ls) 0)
  else none

/-- An instruction: the checks at issue, the traps of its entry, then its effect. -/
def checked (i : Instr) (bad : State → Bool) (own : State → Option TrapReq) (eff : State → State) (s : State) : Out :=
  match s.issueTrap i (bad s) with
  | some t => .next (s.raise t)
  | none =>
    match own s with
    | some t => .next (s.raise t)
    | none => .next (eff s)

/-- An entry with no traps of its own. -/
def noTrap (_ : State) : Option TrapReq := none
/-- An entry that calls nothing ILLEGAL beyond its encoding. -/
def lawful (_ : State) : Bool := false

/-- An entry with no trap of its own and nothing ILLEGAL beyond its encoding. -/
def plain (i : Instr) (eff : State → State) (s : State) : Out := checked i lawful noTrap eff s

/-! ## Returning from a trap (R367) -/

/-- PC, depths and state that a lane takes from the hidden items. -/
def Hidden.pc (h : Hidden) (l : Nat) : Nat := (h.pclo.getD l 0#32).toNat + (fld (h.pchi.getD l 0#32) 0 16) * 2 ^ 32
def Hidden.hw (h : Hidden) (l : Nat) : Nat := fld (h.pchi.getD l 0#32) 16 4
def Hidden.spilled (h : Hidden) (l : Nat) : Nat := fld (h.pchi.getD l 0#32) 20 7
def Hidden.code (h : Hidden) (l : Nat) : Nat := fld (h.lstate.getD l 0#32) 0 3
def Hidden.maskNo (h : Hidden) (l : Nat) : Nat := fld (h.lstate.getD l 0#32) 4 4
def Hidden.bell (h : Hidden) (l : Nat) : Nat := fld (h.lstate.getD l 0#32) 8 5
def Hidden.waveItem (h : Hidden) (i : Nat) : Word := h.wave.getD i 0#32

/-- A lane's items that a rule forbids: checked at RTE (R367). A lane never launched can be nothing else. -/
def Wave.badItems (w : Wave) (l : Nat) : Bool :=
  let h := w.hidden
  (decide ((w.lane l).state = .never) && h.code l != 0) || (w.lane l).state.live &&
  (h.pc l % 4 != 0 || decide (8 < h.hw l) || decide (64 < h.spilled l) ||
   (match h.code l with
    | 1 | 5 | 6 => false
    | 2 | 3 => decide (12 ≤ h.maskNo l)
    | 4 => decide (h.bell l = l) || !(w.lane (h.bell l)).state.live || decide (h.code (h.bell l) = 5)
    | _ => true))

/-- A WAIT word that no wait is, of a workgroup with so many folds: CLASS 3, a DEST past s63 or of the wrong parity, a fold that
does not exist, a NODEST that its instruction does not have (Table 21.4, R125). -/
def badWaitWord (x folds : Nat) : Bool :=
  let dest := nbits x 9 4
  let nodest := nbits x 11 11 == 1
  match x % 16 with
  | 0 | 4 | 5 => false
  | 1 => nodest || (if nbits x 10 10 = 1 then decide (dest % 2 = 1) || decide (61 < dest) else decide (62 < dest))
  | 2 => decide (folds ≤ nbits x 19 16) || (nodest && dest != 0)
  | 3 => decide (nbits x 13 12 = 3)
  | 6 => nodest && dest != 0
  | _ => true

/-- Whether RTE raises a double trap for what WRST has written. -/
def Wave.rteRefused (w : Wave) : Bool :=
  decide (w.nregs ≤ (w.hidden.waveItem 0).toNat) || (w.hidden.waveItem 0).toNat % 8 != 0 ||
  decide (6 < (w.hidden.waveItem 7).toNat % 16) || lane32.any w.badItems

/-- A lane or the wave stands at a barrier. -/
def Wave.itemsAtGbar (w : Wave) : Bool :=
  decide ((w.hidden.waveItem 7).toNat % 16 = 4) || lane32.any (fun l => (w.lane l).state.live && decide (w.hidden.code l = 6))

/-- The state of a lane after RTE. A lane at a JOIN or WAITM arrives again (R147). -/
def Hidden.laneState (h : Hidden) (l : Nat) : LaneState :=
  match h.code l with
  | 4 => .sleeper ⟨h.bell l % 32, Nat.mod_lt _ (by decide)⟩
  | 5 => .exited
  | 6 => .gbar
  | _ => .ready

/-- The wave as RTE leaves it, before its wait is resumed. -/
def Wave.outOfHandler (w : Wave) : Wave :=
  let h := w.hidden
  let gone := maskOf (fun l => (w.lane l).state.live && decide (h.code l = 5))
  { w with
    m := w.m.map (fun x => x &&& ~~~ gone)
    lanes := w.lanes.mapIdx (fun l x =>
      let y := { x.dropLatches.giveLow with
        burst := 0
        regs := setAt (setAt x.regs 0 (h.hv.getD (2 * l) 0#32)) 1 (h.hv.getD (2 * l + 1) 0#32) }
      if x.state.live then
        { y with pc := BitVec.ofNat 48 (h.pc l), state := h.laneState l, hw := h.hw l, spilled := h.spilled l }
      else if x.state = .exited then y
      else x)
    s := setAt (setAt (setAt (setAt w.s 60 (h.shv.getD 0 0#32)) 61 (h.shv.getD 1 0#32)) 62 (h.shv.getD 2 0#32)) 63 (h.shv.getD 3 0#32)
    q := setAt w.q 15 (BitVec.ofNat 128 (natOfBytes (h.qhv.foldl (fun bs x => bs ++ bytesOfNat 4 x.toNat) [])))
    wb := (h.waveItem 0).toNat
    penpass := h.waveItem 2
    oobflags := h.waveItem 3 &&& 0xFFFF#32
    degen := h.waveItem 4
    fpmode := h.waveItem 5 &&& 0x1F07#32
    fpflags := h.waveItem 6 &&& 0x1F#32
    handler := false
    rteReady := false
    pend := none }

/-- A wave's wait ends with a value and a status (R219, R291): the registers are written and the wave is ready. -/
def Wave.wake (w : Wave) (value status : Nat) : Wave :=
  match w.wait with
  | .waitu d wide =>
    let s1 := setAt w.s d (word32 value)
    let s2 := if wide then setAt (setAt s1 (d + 1) (word32 (value / 2 ^ 32))) (d + 2) (word32 status)
      else setAt s1 (d + 1) (word32 status)
    { w with s := s2, wait := .none }
  | .cairnw d =>
    { w with wait := .none, s := match d with
        | some r => setAt w.s r (word32 status)
        | Option.none => w.s }
  | .none | .fwait .. | .waitc .. | .gbar | .sleept _ | .page .. | .fdiv => w

/-- Resume the wait the WAIT word says (R372): a recorded wake is delivered, else the tether is rebound to the slot. -/
def State.resumeWait (s : State) (key : Nat) : State :=
  let w := s.wave key
  let deadline := s.status w.wg w.index 6 + s.status w.wg w.index 7 * 2 ^ 32
  let wait := Wait.ofWord (w.hidden.waveItem 7).toNat deadline
  let s1 := s.modWave key (fun w => { w with wait := wait })
  match wait with
  | .waitu .. | .cairnw .. =>
    if s.status w.wg w.index wokenMark = 1 then
      s1.modWave key (fun x => x.wake (s.status w.wg w.index 2 + s.status w.wg w.index 3 * 2 ^ 32) (s.status w.wg w.index 4))
    else
      let f := fun (t : Tether) => if t.waiter = .saved w.wg w.index then { t with waiter := .wave key } else t
      { s1 with
        tethers := s1.tethers.map f
        unarmed := s1.unarmed.map f
        wakes := s1.wakes.map (fun k => if k.waiter = .saved w.wg w.index then { k with waiter := .wave key } else k) }
  | .none | .fwait .. | .waitc .. | .gbar | .sleept _ | .page .. | .fdiv => s1

/-- One wave returns: its state is restored, its wait resumed, and the array queue it stopped runs on (R263). -/
def State.returnOne (s : State) (key : Nat) : State :=
  let s1 := s.modWave key Wave.outOfHandler
  let s2 := s1.resumeWait key
  let wg := (s.wave key).wg
  s2.modCore (keyCore key) (fun c => { c with
    array := if c.array.lessee = some wg then { c.array with stopped := false } else c.array })

/-- The keys of the waves of a drove. -/
def State.droveWaves (s : State) (drove : Nat) : List Nat :=
  (s.waves.filter (fun x => decide ((s.wg x.2.wg).drove = drove))).map Prod.fst

end Sys2Proof.Machine
end

