-- ==== Sys2Proof/Machine/Flags.lean ====
section
/-! DEFINITION. Machine/Flags.lean: FPMODE and FPFLAGS, the exceptions of an instruction (R72), the shadow check (R77,
R78), and the scoreboard's slots (R201, R24). -/

namespace Sys2Proof.Machine

open Sys2Proof

/-! ## FPMODE and FPFLAGS (Tables 3.2, 3.3) -/

def Wave.rm (w : Wave) : RMode := RMode.ofCode (fld w.fpmode 0 2)
def Wave.ftz (w : Wave) : Bool := fld w.fpmode 2 1 == 1
/-- The trap enables, laid out as FPFLAGS: TIV to TNX stand in bits 8 to 12, IV to NX in bits 4 to 0. -/
def Wave.traps (w : Wave) : Nat :=
  fld w.fpmode 8 1 * 16 + fld w.fpmode 9 1 * 8 + fld w.fpmode 10 1 * 4 + fld w.fpmode 11 1 * 2 + fld w.fpmode 12 1

/-- The exceptions an element met: an exact tiny result counts where underflow traps (R72). -/
def excOf (traps fl : Nat) : Nat :=
  (fl % 32) ||| (if fl / fTiny % 2 = 1 && traps / fUF % 2 = 1 then fUF else 0)

/-- The exceptions of a set of lanes, combined by OR. -/
def combined (ls : Mask) (f : Nat → Nat) : Nat := (lanesOf ls).foldl (fun acc l => acc ||| f l) 0

/-- FPEXC where an enabled exception is met; LANES are those that met one (R72, R449). -/
def State.fpTrap (s : State) (fl : Nat → Nat) : Option TrapReq :=
  let t := s.src.traps
  let own := fun l => excOf t (fl l)
  let all := combined s.active own
  if all &&& t = 0 then none
  else some (s.mkTrap causeFpexc all (maskOf (fun l => s.active.getLsbD l && decide (own l &&& t ≠ 0))) 0)

/-- The exceptions of a completed instruction join FPFLAGS. -/
def State.raiseFlags (s : State) (fl : Nat) : State :=
  s.modCur (fun w => { w with fpflags := w.fpflags ||| BitVec.ofNat 32 (fl % 32) })

/-! ## Shadow checking (R77) -/

/-- What the unit gives: one FP32, two FP16, two BF16, or one FP8 byte. -/
inductive FKind where
  | single | halves | bhalves | e4 | e5
  deriving DecidableEq, Repr

/-- The elements of a result of a kind: format and lowest bit. -/
def FKind.elems : FKind → List (FFmt × Nat)
  | .single => [(fp32, 0)]
  | .halves => [(fp16, 0), (fp16, 16)]
  | .bhalves => [(bf16, 0), (bf16, 16)]
  | .e4 => [(e4m3, 0)]
  | .e5 => [(e5m2, 0)]

/-- The bits of a result of a kind. -/
def FKind.bits : FKind → Word
  | .single | .halves | .bhalves => 0xFFFFFFFF#32
  | .e4 | .e5 => 0xFF#32

/-- Class of a value: zero, finite, infinite, NaN. -/
def FVal.cls (v : FVal) : Nat := if v.isNan then 3 else if v.isInf then 2 else if v.isZero then 0 else 1

/-- The exponent a shadow compares, and the top three fraction bits; E5M2, which has two, is taken with a zero bit below them
(log entry 50). -/
def FFmt.shadowParts (F : FFmt) (x : Nat) : Nat × Nat :=
  let mag := x % 2 ^ F.magBits
  let ex := mag / 2 ^ F.fracBits
  let fr := mag % 2 ^ F.fracBits
  (if ex = 0 then 1 else ex, fr * 8 / 2 ^ F.fracBits)

/-- The check of R77 between a main result and what the shadow computed. -/
def FFmt.shadowFails (F : FFmt) (x y : Nat) : Bool :=
  let a := F.value x
  let b := F.value y
  let (ex, fx) := F.shadowParts x
  let (ey, fy) := F.shadowParts y
  if FVal.cls a ≠ FVal.cls b then true
  else if a.isNan then false
  else if a.neg != b.neg then true
  else if FVal.cls a ≠ 1 then false
  else decide (ex + 1 < ey) || decide (ey + 1 < ex) ||
    (decide (ex = ey) && (decide (fx + 1 < fy) || decide (fy + 1 < fx)))

/-- Whether a wrong word of a kind fails its check. -/
def FKind.fails (k : FKind) (x y : Word) : Bool :=
  k.elems.any (fun e => e.1.shadowFails (fld x e.2 (e.1.magBits + 1)) (fld y e.2 (e.1.magBits + 1)))

/-- The active lanes whose results an upset strikes. -/
def State.strikes (s : State) : Mask :=
  match s.upset with
  | some u => if keyCore s.iss.key = u.core && keyQuarter s.iss.key % 4 = u.unit then BitVec.ofNat 32 u.at_ &&& s.active else 0#32
  | none => 0#32

/-- The bits an upset flips. -/
def State.flip (s : State) : Word := (s.upset.map Upset.flip).getD 0#32

/-- A result of a kind as a unit that an upset strikes gives it. -/
def State.struckWord (s : State) (k : FKind) (x : Word) : Word := x ^^^ (s.flip &&& k.bits)

/-- The struck lanes of `who` whose results fail their check. -/
def State.shadowLanes (s : State) (who : Mask) (k : FKind) (val : Nat → Word) : Mask :=
  maskOf (fun l => who.getLsbD l && k.fails (s.struckWord k (val l)) (val l))

/-- A result as the unit produced it, the upset applied in the lanes of `who`. -/
def State.struck (s : State) (who : Mask) (k : FKind) (val : Nat → Word) (l : Nat) : Word :=
  if who.getLsbD l then s.struckWord k (val l) else val l

/-- An upset that has struck is spent. -/
def State.spend (s : State) : State := if s.strikes = 0#32 then s else { s with upset := none }

/-- A unit that erred takes no new work until its test ends (R417). -/
def State.quarantine (s : State) (unit loc : Nat) : State :=
  if s.quarantined.any (fun q => decide (q.unit = unit) && decide (q.loc = loc)) then s
  else { s with quarantined := s.quarantined ++ [⟨unit, loc, s.errors.seq, false, false⟩] }

/-- A failed check of a wave's quarter writes its record and quarantines the unit (R78, R417). -/
def State.shadowFound (s : State) (key : Nat) : State :=
  let loc := locOfCore (keyCore key) (keyQuarter key % 4)
  (s.quarantine 1 loc).report { Report.plain 0x04 1 with
    unit := 1, loc := loc, ctx := s.waveCtx key, grid := s.wgGrid (s.wave key).wg, detail := causeShadow }

/-- The issuing instruction's check has failed, and the upset is spent. -/
def State.shadowRecord (s : State) : State := { s.shadowFound s.iss.key with upset := none }

/-- The issuing instruction is struck by an upset whose check fails. -/
def State.shadowTrap (s : State) (who : Mask) (k : FKind) (val : Nat → Word) : Option TrapReq :=
  let ls := s.shadowLanes who k val
  if ls = 0#32 then none else some (s.mkTrap causeShadow 0 ls 0)

/-- A SIMT floating-point instruction: the checks at issue, SHADOW, FPEXC, then its effect with the results as the unit
gave them and the exceptions in FPFLAGS. `f` gives each lane's result and exceptions from the wave as read, `who` the lanes
whose results are struck. -/
def floatingIn (who : State → Mask) (i : Instr) (k : FKind) (f : Wave → Nat → Word × Nat) (put : (Nat → Word) → State → State)
    (s : State) : Out :=
  match s.issueTrap i false with
  | some t => .next (s.raise t)
  | none =>
    let val := fun l => (f s.src l).1
    let fl := fun l => (f s.src l).2
    match s.shadowTrap (who s) k val with
    | some t => .next (s.shadowRecord.raise t)
    | none =>
      match s.fpTrap fl with
      | some t => .next (s.raise t)
      | none => .next ((put (s.struck (who s) k val) s.spend).raiseFlags (combined s.active fl)).adv
def floating : Instr → FKind → (Wave → Nat → Word × Nat) → ((Nat → Word) → State → State) → State → Out := floatingIn State.strikes

/-- An instruction whose result is no floating-point value: no shadow, but flags (R179). -/
def flagged (i : Instr) (fl : Wave → Nat → Nat) (eff : State → State) (s : State) : Out :=
  checked i lawful (fun s => s.fpTrap (fl s.src))
    (fun s => ((eff s).raiseFlags (combined s.active (fl s.src))).adv) s

/-! ## The scoreboard (R201, R202) -/

/-- Take a scoreboard slot in the issuing wave. -/
def State.owe (s : State) (kind : OwedKind) (dest : OwedDest) (lanes : Mask) (data : Tab (List Word)) (flags : Nat)
    (bad : Mask) (acq : Bool) : State :=
  let (id, s1) := s.freshId
  s1.modCur (fun w => { w with owed := w.owed ++ [⟨id, kind, dest, lanes, data, flags, bad, acq, false, 0#32, s.iss.pc⟩] })

/-- The vector registers, s registers and record a slot owes. -/
def OwedDest.vs : OwedDest → List Nat
  | .vec r n => (List.range n).map (r + ·)
  | .uni .. | .recd _ | .nowhere => []
def OwedDest.ss : OwedDest → List Nat
  | .uni r n => (List.range n).map (r + ·)
  | .vec .. | .recd _ | .nowhere => []
def OwedDest.qs : OwedDest → List Nat
  | .recd q => [q]
  | .vec .. | .uni .. | .nowhere => []

/-- Whether an instruction names what a slot owes (R24). -/
def Owed.namedBy (o : Owed) (w : Wave) (n : Named) : Bool :=
  o.dest.vs.any (fun r => n.vs.any (fun v => decide (w.wb + v = r))) ||
  o.dest.ss.any (fun r => n.ss.contains r) || o.dest.qs.any (fun r => n.qs.contains r)

/-- Write a record from four words. -/
def recordOf (ws : List Word) : BitVec 128 := BitVec.ofNat 128 (natOfBytes (ws.foldl (fun bs x => bs ++ bytesOfNat 4 x.toNat) []))

/-- A result reaches its registers in the lanes that are still live (R151, R201), where a deferred SHADOW is pending no more
(R361). -/
def Wave.receive (w : Wave) (o : Owed) : Wave :=
  match o.dest with
  | .vec r _ =>
    w.modLanes (o.lanes &&& w.live) (fun l x => { x with
      regs := ((tabGet o.data l).getD []).foldl (fun (p : List Word × Nat) v => (setAt p.1 p.2 v, p.2 + 1)) (x.regs, r) |>.1
      poison := x.poison.filter (fun p => !o.dest.vs.contains p)
      deferred := x.deferred.filter (fun p => !o.dest.vs.contains p.reg) })
  | .uni r _ =>
    { w with s := (((tabGet o.data 0).getD []).foldl (fun (p : List Word × Nat) v => (setAt p.1 p.2 v, p.2 + 1)) (w.s, r)).1 }
  | .recd q => { w with q := setAt w.q q (recordOf ((tabGet o.data 0).getD [])) }
  | .nowhere => w

/-- The lanes whose instructions may name what a slot owes: any live lane may name an s register or a record. -/
def Owed.namers (o : Owed) (w : Wave) : Mask := if o.dest.vs.isEmpty then w.live else o.lanes

/-- A slot whose result has been written and whose register every lane has named since is free; LAUNCH makes no switch
point of a later one (R24). -/
def Owed.spent (o : Owed) (w : Wave) : Bool :=
  o.arrived && ((o.namers w &&& w.live &&& ~~~ o.named) == 0#32 || decide (o.dest = .nowhere) || decide (o.kind = .launch))

/-- The lanes whose LAUNCH has not been answered (R160). -/
def Wave.launching (w : Wave) : Mask :=
  w.owed.foldl (fun m o => if o.kind = .launch && !o.arrived then m ||| o.lanes else m) 0#32

/-- The lanes held for a register issue again once something arrives; those a LAUNCH holds wait for its statuses. -/
def Wave.wakeRegs (w : Wave) : Wave :=
  w.modLanes (~~~ w.launching) (fun _ x => if x.state = .regWait then { x with state := .ready } else x)

/-- The lanes of a split FDIV whose shadow failed, which is written in none of them, trap at their first reader (R78, R184;
log entry 51). -/
def Wave.defer (w : Wave) (o : Owed) : Wave :=
  match o.dest with
  | .vec r _ => w.modLanes (o.lanes &&& w.live) (fun _ x => { x with
      deferred := x.deferred.filter (fun p => decide (p.reg ≠ r)) ++ [⟨r, o.iaddr⟩] })
  | .uni .. | .recd _ | .nowhere => w

/-- A result arrives: registers and flags; or a shadow failure of a split FDIV, which leaves both as they are. -/
def Wave.arrive (w : Wave) (id : Nat) : Wave :=
  match w.owed.find? (fun o => decide (o.id = id)) with
  | none => w
  | some o =>
    if o.arrived then w
    else
      let w0 := if o.bad = 0#32 then { w.receive o with fpflags := w.fpflags ||| BitVec.ofNat 32 (o.flags % 32) } else w.defer o
      let w1 := ({ w0 with owed := w0.owed.map (fun x => if x.id = id then { x with arrived := true } else x) } : Wave).wakeRegs
      { w1 with owed := w1.owed.filter (fun x => !x.spent w1) }

end Sys2Proof.Machine
end

