-- ==== Sys2Proof/Machine/Records.lean ====
section
/-! DEFINITION. Machine/Records.lean: buffer records and their checks (R46 to R51), lost data (R416), what an access
that finds no page does (R386, R388), the store buffer and the side log, and what a release waits for (R91, R107). -/

namespace Sys2Proof.Machine

open Sys2Proof

/-! ## Buffer records (Table 2.4) -/

/-- A buffer record's fields. -/
structure Rec where
  base : Nat
  stride : Nat
  extent : Nat
  swz : Nat
  oob : Bool
  rdonly : Bool
  xdata : Bool
  deriving DecidableEq, Repr

def Rec.ofBits (x : BitVec 128) : Rec :=
  let n := x.toNat
  ⟨nbits n 47 0, nbits n 67 48, nbits n 99 68, nbits n 103 100, nbits n 104 104 == 1, nbits n 105 105 == 1, nbits n 106 106 == 1⟩

/-- A record whose use raises ILLEGAL (R46). -/
def recBad (x : BitVec 128) : Bool :=
  let r := Rec.ofBits x
  decide (nbits x.toNat 127 107 ≠ 0) || decide (3 ≤ r.swz) || (decide (r.stride = 0) && decide (r.swz ≠ 0))

def Rec.width (r : Rec) : Nat := r.extent % 2 ^ 16
def Rec.height (r : Rec) : Nat := r.extent / 2 ^ 16

/-- Morton order within an 8 × 8 tile (R47). -/
def zorder (x y : Nat) : Nat :=
  x % 2 + y % 2 * 2 + x / 2 % 2 * 4 + y / 2 % 2 * 8 + x / 4 % 2 * 16 + y / 4 % 2 * 32

/-- `swz(i)` of R47. -/
def Rec.swizzled (r : Rec) (i : Nat) : Nat :=
  match r.swz with
  | 1 =>
    let x := i % 2 ^ 16
    let y := i / 2 ^ 16
    (y / 8 * ceilDiv r.width 8 + x / 8) * 64 + zorder (x % 8) (y % 8)
  | 2 => i ^^^ (i / 32 % 32)
  | _ => i

/-- `inbounds(i)` of R47. -/
def Rec.holds (r : Rec) (i : Nat) : Bool :=
  if r.swz = 1 then decide (i % 2 ^ 16 < r.width) && decide (i / 2 ^ 16 < r.height) else decide (i < r.extent)

/-- `inb` of R47. -/
def Rec.inb (r : Rec) (i : Nat) (o : Int) (w : Nat) : Bool :=
  if r.stride = 0 then decide (0 ≤ o) && decide ((i : Int) + o + w ≤ r.extent)
  else decide (0 ≤ o) && decide (o + w ≤ r.stride) && r.holds i

/-- `addr` of R47, exact. -/
def Rec.addr (r : Rec) (i : Nat) (o : Int) : Int :=
  if r.stride = 0 then (r.base : Int) + i + o else (r.base : Int) + r.swizzled i * r.stride + o

/-- One active lane's element: in bounds or not, and its address. -/
structure Elem where
  lane : Nat
  inb : Bool
  va : Int
  deriving DecidableEq, Repr

def Elem.a (e : Elem) : Nat := e.va.toNat

/-- The elements of an access of width `w` with an index for each active lane. -/
def elemsOf (r : Rec) (act : Mask) (o : Int) (w : Nat) (idx : Nat → Word) : List Elem :=
  (lanesOf act).map (fun l => ⟨l, r.inb (idx l).toNat o w, r.addr (idx l).toNat o⟩)

/-- The lanes of a list of elements. -/
def laneSet (es : List Elem) : Mask := maskOf (fun l => es.any (fun e => decide (e.lane = l)))

/-- FADDR: 48 bits of the address formed by the first of a list of lanes. -/
def faddrOf (es : List Elem) : Nat :=
  match es.head? with
  | some e => (e.va % 2 ^ 48).toNat
  | none => 0

/-- A trap of a list of failing elements. -/
def State.elemTrap (s : State) (cause info : Nat) (es : List Elem) : TrapReq := s.mkTrap cause info (laneSet es) (faddrOf es)

/-- The checks of R47 in their order: bounds under OOBMODE 1, alignment, the 2^48 limit. -/
def State.checkElems (s : State) (r : Rec) (q align w : Nat) (es : List Elem) : Option TrapReq :=
  let out := es.filter (fun e => !e.inb)
  let ins := es.filter Elem.inb
  let mis := ins.filter (fun e => decide (e.va % (align : Int) ≠ 0))
  let far := ins.filter (fun e => decide ((2 : Int) ^ 48 < e.va + w))
  if r.oob && !out.isEmpty then some (s.elemTrap causeBounds q out)
  else if !mis.isEmpty then some (s.elemTrap causeMisalign q mis)
  else if !far.isEmpty then some (s.elemTrap causeAccess q far)
  else none

/-- Bit `q` of OOBFLAGS is set where a lane is out of bounds, in both modes (R48). -/
def State.noteOob (s : State) (q : Nat) (es : List Elem) : State :=
  if es.any (fun e => !e.inb) then s.modCur (fun w => { w with oobflags := w.oobflags ||| (1#32 <<< q) }) else s

/-! ## Lost data (R416) -/

/-- What R416 decides for a drove. -/
inductive Verdict where
  | replay | kill | trap
  deriving DecidableEq, Repr

/-- Flags of a launch (Table 19.4). -/
def Grid.replay (g : Grid) : Bool := g.flags / 2 % 2 == 1
def Grid.deterministic (g : Grid) : Bool := g.flags / 4 % 2 == 1
def Grid.timed (g : Grid) : Bool := g.flags / 8 % 2 == 1
def Grid.depthTrap (g : Grid) : Bool := g.flags / 16 % 2 == 1

/-- The rules of R416 in their order: `stop` where the error was met in handler mode or in a store-buffer line. -/
def State.verdict (s : State) (wg : Nat) (stop : Bool) : Verdict :=
  let d := s.drove (s.wg wg).drove
  if (s.grid d.grid).replay && d.replayable && decide (d.relaunches < s.policy.replaymax) then .replay
  else if stop then .kill
  else if s.policy.ueact = 1 then .trap
  else .kill

/-- Everything of a workgroup is discarded, its side-log entries too. -/
def State.discardWg (s : State) (wg : Nat) : State :=
  ((s.modCore (s.wg wg).core (fun c => { c with sideLog := c.sideLog.filter (fun e => decide (e.wg ≠ wg)) })).dropWg wg)

/-- A replayable drove is taken from its cores to be relaunched whole on another cluster (R88, R416). -/
def State.relaunch (s : State) (d : Nat) : State :=
  let old := (s.drove d).wgs.head?.map (fun w => clusterOf (s.wg w).core)
  let s1 := (s.drove d).wgs.foldl State.discardWg s
  let (n, s2) := s1.freshId
  let s3 := s2.modDrove d (fun x =>
    { x with
      wgs := []
      phase := .relaunch
      relaunches := x.relaunches + 1
      order := n
      avoid := old
      started := false
      target := []
      waitSince := s.now })
  s3.modGrid (s3.drove d).grid (fun g => { g with replayed := true })

/-- The record of lost data, with what was done about it. -/
def State.lossRecord (s : State) (wg kind pa act : Nat) : State :=
  s.report { Report.plain kind 2 with
    action := act, ctx := s.wgCtx wg, grid := s.wgGrid wg, addr := pa, loc := locOfCore (s.wg wg).core 0, unit := 11 }

/-- The issuing instruction reads lost data: the lanes that consumed it, and the address. -/
def State.consume (s : State) (lanes : Mask) (faddr pa : Nat) : State :=
  let wg := s.curWg
  match s.verdict wg s.cur.handler with
  | .replay => (s.lossRecord wg 0x07 pa 1).relaunch (s.wg wg).drove
  | .kill => (s.lossRecord wg 0x07 pa 2).killGrid 5 s.curGrid
  | .trap => (s.lossRecord wg 0x07 pa 3).raise (s.mkTrap causeError s.errors.seq lanes faddr)

/-- A wave takes a cause as soon as it may (R361, R263). -/
def State.due (s : State) (key : Nat) (t : TrapReq) : State :=
  s.modWave key (fun w => { w with causes := w.causes ++ [t] })

/-- An address the manual gives no value for (log entry 14). -/
def State.freeAddr (s : State) : Addr × State :=
  let (x, s1) := s.freeWord 1
  let (y, s2) := s1.freeWord 2
  ((pair64 x y).setWidth 48, s2)

/-- A cause that falls due in a wave outside its own instruction: its lanes keep their PCs, and RESUME is what they hold when it
is taken (R362). -/
def State.fallDue (s : State) (key cause info : Nat) (lanes : Mask) (iaddr : Addr) (faddr : Nat) (arrayf : Bool) : State :=
  s.due key ⟨cause, word32 info, lanes, iaddr, 0#48, BitVec.ofNat 48 faddr, false, arrayf, false, false⟩

/-- The lowest-numbered wave of a workgroup with a live lane. -/
def State.lowestWave (s : State) (wg : Nat) : Option Nat :=
  let mine := s.waves.filter (fun x => decide (x.2.wg = wg) && decide (x.2.live ≠ 0#32))
  (mine.foldl (fun best x =>
    match best with
    | none => some x
    | some b => if x.2.index < b.2.index then some x else best) none).map Prod.fst

/-- Data of a workgroup is lost after its instruction has gone: a store-buffer line (`stop`), or what an engine, an array
operation or a paddock access of it read. `who` is the wave that consumed it, with the lanes and the instruction; where none
did, the lowest-numbered live wave takes ERROR. -/
def State.affect (s : State) (wg kind pa : Nat) (stop : Bool) (who : Option (Nat × Mask × Addr)) : State :=
  match s.verdict wg stop with
  | .replay => (s.lossRecord wg kind pa 1).relaunch (s.wg wg).drove
  | .kill => (s.lossRecord wg kind pa 2).killGrid 5 (s.wgGrid wg)
  | .trap =>
    let s1 := s.lossRecord wg kind pa 3
    let taker := match who with
      | some w => some w
      | none => (s.lowestWave wg).map (fun k => (k, (s.wave k).live, 0#48))
    match taker with
    | some (k, ls, at_) =>
      s1.fallDue k causeError s.errors.seq ls at_ 0 false
    | none => s1

/-! ## Pages that are not present (R386, R388) -/

/-- The page number an access waits on. -/
def pageOf (va : Nat) : Nat := va / 2 ^ 16

/-- The side-log entries of a core (Table 1.4). -/
def sideLogSize : Nat := 256

/-- A later access by a workgroup to a page with its own side-logged write waits for the replay (R106). -/
def State.sideWaits (s : State) (core wg ctx va : Nat) : Bool :=
  (s.core core).sideLog.any (fun e => decide (e.wg = wg) && decide (e.ctx = ctx) && decide (pageOf e.va = pageOf va))

/-- A malformed entry met by an access also leaves an error record (R378). -/
def State.malformed (s : State) (ctx grid va : Nat) : State :=
  s.report { Report.plain 0x21 2 with ctx := ctx, grid := grid, addr := va }

/-- The same of an access of an engine or the hub, where the entry was malformed. -/
def State.metBad (s : State) (ctx grid va : Nat) (bad : Bool) : State := if bad then s.malformed ctx grid va else s

/-- How the translation of an instruction's in-bounds elements ends: every element with its physical address; some absent
and none refused; or ACCESS. -/
inductive Reach where
  | all (ts : List (Elem × Trans))
  | some (ts : List (Elem × Trans)) (absent : List Elem)
  | access (t : TrapReq) (bad : Bool) (va : Nat)
  deriving DecidableEq, Repr

/-- An element that may not be accessed: forbidden, malformed, or absent with no pager. -/
def State.refusedElem (s : State) (ctx : Nat) (x : Elem × Trans) : Bool :=
  match x.2 with
  | .denied | .malformed _ => true
  | .absent => !s.servable ctx x.1.a
  | .ok .. => false

def Trans.isBad : Trans → Bool
  | .malformed _ => true
  | .denied | .absent | .ok .. => false

def Trans.isAbsent : Trans → Bool
  | .absent => true
  | .denied | .malformed _ | .ok .. => false

/-- Physical address of a translation. -/
def Trans.pa : Trans → Nat
  | .ok pa _ _ => pa
  | .absent | .denied | .malformed _ => 0

/-- Translate the in-bounds elements of the issuing instruction (R50). -/
def State.reach (s : State) (q : Nat) (n : Need) (es : List Elem) : Reach :=
  let ctx := s.curCtx
  let ts := (es.filter Elem.inb).map (fun e => (e, s.translate s.curCore ctx e.a n))
  let refused := ts.filter (s.refusedElem ctx)
  let absent := (ts.filter (fun x => x.2.isAbsent)).map Prod.fst
  match refused with
  | x :: _ => .access (s.elemTrap causeAccess q (refused.map Prod.fst)) (refused.any (fun y => y.2.isBad)) x.1.a
  | [] => if absent.isEmpty then .all ts else .some ts absent

/-- The issuing wave waits for the pager to serve a page, and takes ACCESS if it is refused (R201, R387). -/
def State.awaitPage (s : State) (kind q : Nat) (absent : List Elem) : State :=
  let va := (absent.head?.map Elem.a).getD 0
  let mine := absent.filter (fun e => decide (pageOf e.a = pageOf va))
  (s.retryWave (.page s.curCtx (pageOf va) kind (s.elemTrap causeAccess q mine))).askPage s.curCtx va kind

/-- ACCESS, with the record of a malformed entry. -/
def State.refuse (s : State) (t : TrapReq) (bad : Bool) (va : Nat) : State :=
  (if bad then s.malformed s.curCtx s.curGrid va else s).raise t

/-! ## Hot pages (R391) -/

/-- The row hashes of the sketch. -/
def hotHash (i p : Nat) : Nat :=
  (p * ([0x9E3779B1, 0x85EBCA77, 0xC2B2AE3D, 0x27D4EB2F].getD i 0)) % 2 ^ 32 / 2 ^ 20

def satAdd (n : Nat) : Nat := if n < 65535 then n + 1 else n

/-- A page's estimate. -/
def MemDie.estimate (d : MemDie) (p : Nat) : Nat :=
  (List.range 4).foldl (fun m i => Nat.min m ((tabGet d.sketch (i * 4096 + hotHash i p)).getD 0)) 65535

/-- Count one request of a site for a page, and keep the candidate list (R391). -/
def MemDie.count (d : MemDie) (p site : Nat) : MemDie :=
  let d1 := { d with sketch := (List.range 4).foldl (fun t i =>
    let k := i * 4096 + hotHash i p
    tabSet t k (satAdd ((tabGet t k).getD 0))) d.sketch }
  let bump := fun (c : Nat × List Nat × Bool) => if c.1 = p then (c.1, modAt c.2.1 site satAdd, c.2.2) else c
  let fresh := (p, modAt [0, 0, 0] site satAdd, false)
  if d1.cands.any (fun c => decide (c.1 = p)) then { d1 with cands := d1.cands.map bump }
  else if d1.cands.length < 64 then { d1 with cands := d1.cands ++ [fresh] }
  else
    let least := d1.cands.foldl (fun m c => Nat.min m (d1.estimate c.1)) 65536
    if least < d1.estimate p then
      match (d1.cands.reverse.findIdx? (fun c => decide (d1.estimate c.1 = least))) with
      | some j => { d1 with cands := (d1.cands.eraseIdx (63 - j)) ++ [fresh] }
      | none => d1
    else d1

/-- The line requests of an access reach their homes. -/
def State.hotCount (s : State) (core : Nat) (pas : List Nat) : State :=
  if s.hotOn then
    { s with dies := (pas.map lineOf).eraseDups.foldl (fun ds l =>
        modAt ds (homeDie (l * 128)) (fun d => d.count (l * 128 / 2 ^ 16) (coreSite core))) s.dies }
  else s

/-! ## Stores (R85 to R87, R388) -/

/-- Whether the bytes of a line a workgroup reads come from a poisoned line of memory (R409). -/
def State.poisonedRead (s : State) (core wg pa n : Nat) : Bool :=
  s.lost (lineOf pa) &&
  (List.range n).any (fun i => (tabGet (s.wg wg).sbuf (s.homeOf (pa + i))).isNone &&
    (committedByte (s.core core).committed (s.homeOf (pa + i))).isNone)

/-- The bytes of one line enter the store buffer; beyond 512 lines the workgroup's own buffer commits first and SBOVF is
set (R87). -/
def State.bufferLine (s : State) (wg : Nat) (cells : List (Nat × Byte)) : State :=
  let g := s.wg wg
  let line := lineOf ((cells.head?.map Prod.fst).getD 0)
  if !(linesOf g.sbuf).contains line && decide (512 ≤ s.bufferedLines g.core) then
    (((s.commit wg).modGrid (s.wgGrid wg) (fun x => { x with sbovf := true })).buffer wg cells)
  else s.buffer wg cells

/-- Buffer the cells of one instruction line by line, in the order of their first cell; a line it writes whole is noted
(R409). -/
def State.bufferAll (s : State) (wg : Nat) (cells : List (Nat × Byte)) : State :=
  ((cells.map (fun c => lineOf c.1)).eraseDups).foldl
    (fun s l =>
      let mine := cells.filter (fun c => decide (lineOf c.1 = l))
      let s1 := s.bufferLine wg mine
      if (mine.map Prod.fst).eraseDups.length = 128 then s1.modWg wg (fun w => { w with whole := l :: w.whole }) else s1) s

/-- Retire faulting elements into the side log, one entry a line (R388). -/
def State.sideLogAdd (s : State) (q : Nat) (absent : List Elem) (red : Option Aop) (xdata : Bool) (bytes : Nat → List Byte) : State :=
  let lines := (absent.map (fun e => lineOf e.a)).eraseDups
  let w := s.cur
  let entry := fun l =>
    let mine := absent.filter (fun e => decide (lineOf e.a = l))
    (⟨s.curCtx, l * 128, w.wg, w.index, laneSet mine, mine.map (fun e => (e.a, bytes e.lane)), red, xdata, s.iss.pc, q⟩ : SideEntry)
  lines.foldl (fun t l => t.askPage s.curCtx (l * 128) 1)
    (s.modCore s.curCore (fun c => { c with sideLog := c.sideLog ++ lines.map entry }))

/-- Room in the side log for the lines of some faulting elements. -/
def State.sideRoom (s : State) (absent : List Elem) : Bool :=
  decide ((s.core s.curCore).sideLog.length + ((absent.map (fun e => lineOf e.a)).eraseDups).length ≤ sideLogSize)

/-! ## Paddock accesses performed (R37, R39 to R41, R96) -/

/-- The words an access of `w` bytes at `a` touches. -/
def wordsOf (a w : Nat) : List Nat := (List.range (Nat.max 1 (w / 4))).map (fun i => a / 4 + i)

/-- The greatest count over the 32 banks. -/
def bankMax (words : List Nat) : Nat :=
  (List.range 32).foldl (fun m b => Nat.max m (words.filter (fun x => decide (x % 32 = b))).length) 0

/-- Lanes a group of R39 holds. -/
def passGroup (w : Nat) : Nat := if w ≤ 4 then 32 else if w = 8 then 16 else 8

/-- Passes of an access by lanes at addresses (R39). -/
def passesOf (w : Nat) (xs : List (Nat × Nat)) : Nat :=
  (List.range (32 / passGroup w)).foldl (fun n g =>
    let mine := xs.filter (fun x => decide (x.1 / passGroup w = g))
    if mine.isEmpty then n
    else n + Nat.max 1 (bankMax ((mine.foldl (fun ws x => ws ++ wordsOf x.2 w) []).eraseDups))) 0

/-- Passes of ATOMP: lanes on a bank, distinct words or not (R40). -/
def atomPasses (w : Nat) (xs : List (Nat × Nat)) : Nat := bankMax (xs.foldl (fun ws x => ws ++ wordsOf x.2 w) [])

def Wave.addPasses (w : Wave) (n : Nat) : Wave := { w with penpass := w.penpass + BitVec.ofNat 32 n }

/-- The words of one part of a paddock load. -/
def PadAcc.words (p : PadAcc) (bs : List Byte) : List Word :=
  if p.signed then [trunc32 (sextN (natOfBytes bs) (8 * p.width))]
  else (List.range (Nat.max 1 (p.width / 4))).map (fun i => BitVec.ofNat 32 (natOfBytes bs / 2 ^ (32 * i)))

/-- Passes of a paddock access are counted; of one issued before the wave entered its handler, in the value that RTE restores
too (R41). -/
def Wave.countPasses (w : Wave) (handler : Bool) (n : Nat) : Wave :=
  let v := w.addPasses n
  if w.handler && !handler then
    { v with hidden := { v.hidden with wave := modAt v.hidden.wave 2 (fun x => x + BitVec.ofNat 32 n) } }
  else v

/-- A paddock access is carried out in its target pen: passes are counted there, stores by increasing lane (R41, R96). -/
def State.padPerform (s : State) (core : Nat) (p : PadAcc) : State :=
  let s1 := s.modCore core (fun c => { c with paddock := c.paddock.filter (fun q => decide (q.id ≠ p.id)) })
  let s2 := s1.modWave p.wave (fun w => w.countPasses p.handler (passesOf p.width (p.parts.map (fun x => (x.1, x.2.1)))))
  if p.store then p.parts.foldl (fun t x => t.penSet p.target x.2.1 x.2.2) s2
  else
    let lost := p.parts.filter (fun x => (wordsOf x.2.1 p.width).any (fun y => (s2.wg p.target).penPoison.contains y))
    let at_ := ((s.wave p.wave).owed.find? (fun o => decide (p.owed = some o.id))).map Owed.iaddr
    let data := p.parts.map (fun x => (x.1, p.words (s2.penBytesAt p.target x.2.1 p.width)))
    let s3 := s2.modWave p.wave (fun w => { w with owed := w.owed.map (fun o =>
      if p.owed = some o.id then { o with data := data.foldl (fun t x => tabSet t x.1 x.2) o.data } else o) })
    if lost.isEmpty then s3
    else s3.affect (s.wave p.wave).wg 0x07 0 (s.wave p.wave).handler
      (some (p.wave, maskOf (fun l => lost.any (fun x => decide (x.1 = l))), at_.getD 0#48))

/-- Every paddock access of a workgroup is performed, in order: what a release at scope group or wider awaits of them (R91,
R96), and what the workgroup does before it leaves its core. -/
def State.padAll (s : State) (wg : Nat) : State :=
  let core := (s.wg wg).core
  ((s.core core).paddock.filter (fun p => decide ((s.wave p.wave).wg = wg))).foldl (fun t p => t.padPerform core p) s

/-! ## Releases (R91, R107) -/

/-- What a release at a scope of code `n` by a workgroup on a core still waits for, after what it performs at once: side-logged
writes, writes held by a collapse, acknowledgements of remote and host writes, its own and any it may have observed. -/
def State.releaseHeld (s : State) (core wg n : Nat) : Bool :=
  let c := s.core core
  decide (3 ≤ n) &&
  (c.sideLog.any (fun e => decide (e.wg = wg)) || !c.committed.isEmpty || (decide (6 ≤ n) && !s.messages.isEmpty) ||
   (decide (n = 7) && !s.hostWrites.isEmpty))

/-- Copies a workgroup's drover has accepted and not finished are accesses of the lane that issued them (R82): a release at
cluster or wider waits for those that write within its scope (log entry 48). -/
def State.copiesHeld (s : State) (wg n : Nat) : Bool :=
  decide (3 ≤ n) && (s.core (s.wg wg).core).drover.any (fun r =>
    decide (r.wg = wg) && (decide (6 ≤ n) || decide (nbits r.bits.toNat 229 227 ≠ 4)))

def State.releaseWaits (s : State) (wg : Nat) (scope : Scope) : Bool :=
  s.releaseHeld (s.wg wg).core wg scope.code || s.copiesHeld wg scope.code

/-- The part of a release that comes about at issue: at every scope but lane's the workgroup's paddock accesses are performed;
at cluster or wider the store buffer commits and what the core has committed is performed for every core. -/
def State.releaseCode (s : State) (wg n : Nat) : State :=
  let s1 := if n = 0 then s else s.padAll wg
  if 3 ≤ n then (s1.commit wg).performAll (s.wg wg).core else s1

def State.release (s : State) (wg : Nat) (scope : Scope) : State := s.releaseCode wg scope.code

/-- What follows for a wave that is still in its slot: lost data met by a paddock access may have ended its drove (R415). -/
def State.stillHere (s : State) (key : Nat) (eff : State → State) : State := if (tabGet s.waves key).isSome then eff s else s

/-- An instruction that releases before its own effect: it is held until the release completes. -/
def State.releasing (s : State) (scope : Scope) (eff : State → State) : State :=
  (s.release s.curWg scope).stillHere s.iss.key (fun s1 => if s1.releaseWaits s.curWg scope then s1.retry .stalled else eff s1)

end Sys2Proof.Machine
end

