-- ==== Sys2Proof/Machine/Control.lean ====
section
/-! DEFINITION. Machine/Control.lean: branches, calls, reconvergence, EXIT, the window, mode registers and waiting
(chapter 6), each a meaning of its own. -/

namespace Sys2Proof.Machine

open Sys2Proof

/-! ## Branches (R140) -/

/-- A branch target: words from the address after the instruction (R109), modulo the 48 bits of an address (log entry 56). -/
def State.target20 (s : State) (off : BitVec 20) : Addr := s.iss.next + (off.signExtend 48 <<< 2)
def State.target18 (s : State) (off : BitVec 18) : Addr := s.iss.next + (off.signExtend 48 <<< 2)

/-- Each active lane goes to `t` where `p` holds of it, else to next_pc. -/
def State.branch (s : State) (t : Addr) (p : Nat → Bool) : State :=
  s.modCur (fun w => w.setPc s.active (fun l => if p l then t else s.iss.next))

def execBra (off : BitVec 20) (s : State) : Out :=
  plain (.bra off) (fun s => s.branch (s.target20 off) (fun _ => true)) s
def execBrin (m : MReg) (off : BitVec 20) (s : State) : Out :=
  plain (.brin m off) (fun s => s.branch (s.target20 off) (fun l => (s.src.mreg m.val).getLsbD l)) s
def execBrout (m : MReg) (off : BitVec 20) (s : State) : Out :=
  plain (.brout m off) (fun s => s.branch (s.target20 off) (fun l => !(s.src.mreg m.val).getLsbD l)) s
def execBany (m : MReg) (off : BitVec 20) (s : State) : Out :=
  plain (.bany m off) (fun s => s.branch (s.target20 off) (fun _ => s.src.mreg m.val &&& s.active != 0#32)) s
def execBall (m : MReg) (off : BitVec 20) (s : State) : Out :=
  plain (.ball m off) (fun s => s.branch (s.target20 off) (fun _ => s.active &&& ~~~ s.src.mreg m.val == 0#32)) s
def execBsz (r : SReg) (off : BitVec 18) (s : State) : Out :=
  plain (.bsz r off) (fun s => s.branch (s.target18 off) (fun _ => s.src.sreg r.val == 0#32)) s
def execBsnz (r : SReg) (off : BitVec 18) (s : State) : Out :=
  plain (.bsnz r off) (fun s => s.branch (s.target18 off) (fun _ => s.src.sreg r.val != 0#32)) s

/-! ## The return stack (R141) -/

/-- The depth of a lane's return stack. -/
def Lane.depth (x : Lane) : Nat := x.hw + x.spilled
/-- Hardware entry `e`, oldest first, of lane number `n` of its workgroup. -/
def Lane.entry (x : Lane) (wg n e : Nat) : Dword := (tabGet x.rstk e).getD (Config.stackEntry wg n e)
/-- Spilled entry `e`, oldest first. -/
def Lane.spilledEntry (x : Lane) (wg n e : Nat) : Dword := (tabGet x.spill e).getD (Config.stackEntry wg n (8 + e))

/-- Push a return address: a ninth hardware entry spills the oldest. -/
def Lane.pushRet (x : Lane) (wg n : Nat) (a : Addr) : Lane :=
  if x.hw < 8 then { x with rstk := tabSet x.rstk x.hw (a.setWidth 64), hw := x.hw + 1 }
  else { x with
    spill := tabSet x.spill x.spilled (x.entry wg n 0)
    spilled := x.spilled + 1
    rstk := (List.range 7).foldr (fun e t => (e, x.entry wg n (e + 1)) :: t) [(7, a.setWidth 64)] }

/-- Where the hardware part is empty and the spill region is not, the newest spilled entry moves back. -/
def Lane.refill (x : Lane) (wg n : Nat) : Lane :=
  if x.hw = 0 ∧ x.spilled ≠ 0 then
    { x with rstk := tabSet x.rstk 0 (x.spilledEntry wg n (x.spilled - 1)), hw := 1, spilled := x.spilled - 1 }
  else x

/-- The newest entry, and the lane after it is popped. -/
def Lane.popRet (x : Lane) (wg n : Nat) : Dword × Lane :=
  let h := Nat.min x.hw 8
  if h = 0 then (x.spilledEntry wg n (x.spilled - 1), ({ x with spilled := x.spilled - 1 } : Lane).refill wg n)
  else (x.entry wg n (h - 1), ({ x with hw := h - 1 } : Lane).refill wg n)

/-- The lane number within the workgroup (Table 1.5). -/
def Wave.laneIndex (w : Wave) (l : Nat) : Nat := 32 * w.index + l

/-- The callers of a CALL (R142). -/
def State.callers (s : State) (m : Option MReg) : Mask :=
  match m with
  | some r => s.active &&& s.src.mreg r.val
  | none => s.active

def State.fullStacks (s : State) (ls : Mask) : Mask := maskOf (fun l => ls.getLsbD l && decide ((s.src.lane l).depth = 72))
def State.emptyStacks (s : State) (ls : Mask) : Mask := maskOf (fun l => ls.getLsbD l && decide ((s.src.lane l).depth = 0))
/-- Lanes whose jump target is no word of the 48-bit space. -/
def State.badTargets (s : State) (a : VSrc) : Mask :=
  maskOf (fun l => s.active.getLsbD l && (let t := s.src.v64 l a; t.toNat % 4 != 0 || decide (2 ^ 48 ≤ t.toNat)))

def State.callStack (s : State) (ls : Mask) (t : Nat → Addr) : State :=
  s.modCur (fun w => (w.modLanes ls (fun l x => x.pushRet w.wg (w.laneIndex l) s.iss.next)).setPc s.active
    (fun l => if ls.getLsbD l then t l else s.iss.next))

def execCall (m : Option MReg) (off : BitVec 20) (s : State) : Out :=
  checked (.call m off) lawful
    (fun s =>
      let f := s.fullStacks (s.callers m)
      if f = 0#32 then none else some (s.mkTrap causeStack 1 f 0))
    (fun s => s.callStack (s.callers m) (fun _ => s.target20 off)) s

/-- The traps of CALLI: the lowest lane that fails a check raises it, STACK before MISALIGN in one lane (R142). -/
def State.calliTrap (s : State) (a : VSrc) : Option TrapReq :=
  let f := s.fullStacks s.active
  let b := s.badTargets a
  match lowestLane (f ||| b) with
  | none => none
  | some l => some (if f.getLsbD l then s.mkTrap causeStack 1 f 0 else s.mkTrap causeMisalign 16 b 0)

def execCalli (a : VSrc) (s : State) : Out :=
  checked (.calli a) lawful (fun s => s.calliTrap a)
    (fun s => s.callStack s.active (fun l => (s.src.v64 l a).setWidth 48)) s

def execJmpi (a : VSrc) (s : State) : Out :=
  checked (.jmpi a) lawful
    (fun s => if s.badTargets a = 0#32 then none else some (s.mkTrap causeMisalign 16 (s.badTargets a) 0))
    (fun s => s.modCur (fun w => w.setPc s.active (fun l => (s.src.v64 l a).setWidth 48))) s

def execRet (s : State) : Out :=
  checked .ret lawful
    (fun s => if s.emptyStacks s.active = 0#32 then none else some (s.mkTrap causeStack 0 (s.emptyStacks s.active) 0))
    (fun s => s.modCur (fun w => w.modLanes s.active (fun l x =>
      let p := x.popRet w.wg (w.laneIndex l)
      { p.2 with pc := p.1.setWidth 48 }))) s

/-! ## Reconvergence (R144 to R146) -/

/-- Lanes of the mask arrive and are held; the others continue; then the release condition. -/
def State.arriveAt (s : State) (m : MReg) (st : LaneState) : State :=
  let mk := s.src.mreg m.val
  s.modCur (fun w =>
    ((w.modLanes (s.active &&& mk) (fun _ x => { x with state := st })).setPc (s.active &&& ~~~ mk) (fun _ => s.iss.next)).releaseMask m)

def execJoin (m : MReg) (s : State) : Out := plain (.join m) (fun s => s.arriveAt m (.join m)) s
/-- WAITM: what its lanes have done before it happens before what the released lanes do after it, so the paddock accesses still on
their way are performed first (R95, R145). -/
def execWaitm (m : MReg) (s : State) : Out :=
  plain (.waitm m) (fun s => (s.padAll s.curWg).stillHere s.iss.key (fun s => s.arriveAt m (.waitm m))) s

def execLeave (m : MReg) (s : State) : Out :=
  plain (.leave m) (fun s =>
    let s1 := s.adv.modCur (fun w =>
      let v := { w with m := modAt w.m m.val (fun x => x &&& ~~~ s.active) }
      if s.iss.pairs then v else v.releaseMask m)
    { s1 with iss := if s.iss.slotB then s.iss else { s.iss with left := (m.val, s.active) :: s.iss.left } }) s

/-! ## YIELD, NOP, TRAP, BRK and EXIT -/

/-- The quarter that issues the wave chooses afresh, without it (R26, R148). A wave that another one's slot B yields leaves
the quarter with its choice. -/
def State.yieldTurn (s : State) : State :=
  if (s.quarter (keyQuarter s.iss.key)).cur = some s.iss.key then
    s.modQuarter (keyQuarter s.iss.key) (fun q => { q with yielded := some s.iss.key, choose := true })
  else s

def execYield (s : State) : Out := plain .yield (fun s => s.yieldTurn.adv) s
def execNop (s : State) : Out := plain .nop State.adv s

/-- TRAP and BRK resume at next_pc (R150). -/
def execTrap (code : BitVec 14) (s : State) : Out :=
  checked (.trap code) lawful (fun s => some { s.mkTrap causeUser code.toNat s.active 0 with resume := s.iss.next }) id s
def execBrk (s : State) : Out :=
  checked .brk lawful (fun s => some { s.mkTrap causeBreak 0 s.active 0 with resume := s.iss.next }) id s

/-- Release the sleepers of the bellwethers in `bs`: each resumes after its ELECTS (R27). -/
def Wave.releaseSleepers (w : Wave) (bs : Mask) (f : Lane → Lane) : Wave :=
  { w with lanes := w.lanes.map (fun x =>
    match x.state with
    | .sleeper b => if bs.getLsbD b.val then { f x with state := .ready } else x
    | .never | .ready | .join _ | .waitm _ | .exited | .gbar | .regWait | .stalled => x) }

/-- A wave all of whose live lanes have arrived at GBAR is blocked there (R157). -/
def Wave.gbarBlock (w : Wave) : Wave :=
  if w.live ≠ 0#32 && lane32.all (fun l => !(w.lane l).state.live || decide ((w.lane l).state = .gbar)) then
    { w with wait := .gbar }
  else w

/-- Whether every wave of a grid has come to its barrier: every drove is placed and none is saved, and every wave has ended or is
blocked there (R157, R322). -/
def State.gbarDone (s : State) (grid : Nat) : Bool :=
  let g := s.grid grid
  decide (g.nextDrove = g.dx * g.dy * g.dz) &&
  s.droves.all (fun d => !decide (d.2.grid = grid) || decide (d.2.phase = .resident ∨ d.2.phase = .ended)) &&
  s.waves.any (fun x => decide (s.wgGrid x.2.wg = grid) && decide (x.2.wait = .gbar)) &&
  s.waves.all (fun x => !decide (s.wgGrid x.2.wg = grid) || decide (x.2.wait = .gbar) || decide (x.2.live = 0#32))

/-- The arrived lanes continue after their own GBAR. -/
def Wave.gbarGo (w : Wave) : Wave :=
  { w with
    wait := .none
    lanes := w.lanes.map (fun x => if x.state = .gbar then { x with state := .ready, pc := x.pc + 4#48 } else x) }

/-- Complete the barrier of a grid where its condition holds, once every access made before it is performed: what the cores of its
workgroups have committed at once, then their side-logged writes and copies (R106, R157, R322). -/
def State.gbarCheck (s : State) (grid : Nat) : State :=
  if s.gbarDone grid then
    let mine := s.wgs.filter (fun x => decide (s.wgGrid x.1 = grid))
    let s1 := ((mine.map (fun x => x.2.core)).eraseDups).foldl State.performAll s
    if mine.any (fun x => s1.releaseWaits x.1 .device) then s1 else
    { s1.modGrid grid (fun g => { g with barrier := g.barrier + 1 }) with
      waves := s1.waves.map (fun x => if s.wgGrid x.2.wg = grid then (x.1, x.2.gbarGo) else x) }
  else s

/-- Barriers that waited for something to be performed may now complete. -/
def State.gbarChecks (s : State) : State := (s.grids.map Prod.fst).foldl State.gbarCheck s

/-- EXIT of a set of lanes of a wave (R151). With a write of slot B of the same wave to come, the release conditions wait
for it (R146). -/
def Wave.exitLanes (w : Wave) (ls : Mask) (pairs : Bool) : Wave :=
  let w1 := w.modLanes ls (fun _ x => { x with state := .exited, hw := 0, spilled := 0, rstk := [], spill := [], deferred := [] })
  let w2 := { w1 with m := w1.m.map (fun x => x &&& ~~~ ls) }
  let w3 := w2.releaseSleepers ls id
  (if pairs then w3 else w3.releaseAll).gbarBlock

def execExit (s : State) : Out :=
  plain .exit (fun s =>
    let s1 := s.modCur (fun w => w.exitLanes s.active s.iss.pairs)
    s1.gbarCheck s.curGrid) s

/-! ## The window and the mode registers (R152, R155) -/

/-- A new window base, or WINDOW. -/
def setWindow (i : Instr) (nwb : State → Int) (s : State) : Out :=
  checked i lawful
    (fun s => if nwb s < 0 ∨ (s.src.nregs : Int) ≤ nwb s then some (s.mkTrap causeWindow 0 s.active 0) else none)
    (fun s => (s.modCur (fun w => { w with wb := (nwb s).toNat })).adv) s

def execWin (k : BitVec 5) (s : State) : Out := setWindow (.win k) (fun _ => 8 * (k.toNat : Int)) s
def execWinadd (k : BitVec 7) (s : State) : Out := setWindow (.winadd k) (fun s => (s.src.wb : Int) + 8 * k.toInt) s

/-- Bits of FPMODE that hold something (Table 3.2). -/
def fpmodeBits : Word := 0x1F07#32

def execSetmodeFpmode (a : USrc) (s : State) : Out :=
  plain (.setmodeFpmode a) (fun s => (s.modCur (fun w => { w with fpmode := s.src.u32 a &&& fpmodeBits })).adv) s

/-- An FDIV of the wave has not arrived (R184). -/
def Wave.fdivPending (w : Wave) : Bool := w.owed.any (fun o => decide (o.kind = .fdiv) && !o.arrived)

/-- SETMODE of FPFLAGS waits for every FDIV of the wave (R184). -/
def execSetmodeFpflags (a : USrc) (s : State) : Out :=
  plain (.setmodeFpflags a) (fun s =>
    if s.cur.fdivPending then s.retry .regWait
    else (s.modCur (fun w => { w with fpflags := s.src.u32 a &&& 0x1F#32 })).adv) s
def execSetmodeOobflags (a : USrc) (s : State) : Out :=
  plain (.setmodeOobflags a) (fun s =>
    (s.modCur (fun w => { w with oobflags := w.oobflags &&& ~~~ (s.src.u32 a &&& 0xFFFF#32) })).adv) s
def execSetmodeDegencount (a : USrc) (s : State) : Out :=
  plain (.setmodeDegencount a) (fun s => (s.modCur (fun w => { w with degen := s.src.u32 a })).adv) s

/-! ## Waiting (R157 to R159) -/

/-- Bit 0 of a grid's flags: launched with GBAR (Table 19.4). -/
def Grid.hasGbar (g : Grid) : Bool := g.flags % 2 == 1

def execGbar (s : State) : Out :=
  checked .gbar lawful
    (fun s => if (s.grid s.curGrid).hasGbar then none else some (s.mkTrap causeGbar 0 s.active 0))
    (fun s =>
      (s.release s.curWg .device).stillHere s.iss.key (fun s1 =>
        ((s1.hold .gbar).modCur Wave.gbarBlock).gbarCheck s.curGrid)) s

/-- The wave sleeps until a deadline; one already passed makes this a YIELD (R158). -/
def State.sleepUntil (s : State) (deadline : Nat) : State :=
  if deadline ≤ s.now then s.yieldTurn.adv
  else (s.modCur (fun w => { w with wait := .sleept deadline })).adv

def execSleept (a : USrc) (s : State) : Out :=
  plain (.sleept a) (fun s => s.sleepUntil (s.now + (s.src.u32 a).toNat)) s
def execSleeptAbs (a : USrc) (s : State) : Out :=
  plain (.sleeptAbs a) (fun s => s.sleepUntil (s.src.u64 a).toNat) s

def execWake (s : State) : Out :=
  plain .wake (fun s =>
    (s.modCur (fun w => w.releaseSleepers s.active (fun x => { x.dropLatches with burst := 0, pc := s.iss.next }))).adv) s

/-- SLEEPT_DEADLINE (R158): a sleeping wave whose deadline has passed is ready. -/
def execSleeptDeadline (key : Nat) (s : State) : Out :=
  match (s.wave key).wait with
  | .sleept d => .next (if d ≤ s.now then s.modWave key (fun w => { w with wait := .none }) else s)
  | .none | .waitu .. | .fwait .. | .waitc .. | .gbar | .cairnw .. | .page .. | .fdiv => .next s

end Sys2Proof.Machine
end

