-- ==== Sys2Proof/Machine/Integer.lean ====
section
/-! DEFINITION. Machine/Integer.lean: classes 2 and 3 (chapter 7): the results of Tables 7.1 to 7.6 and a meaning for
each form. -/

namespace Sys2Proof.Machine

open Sys2Proof

/-! ## How classes 2 and 3 deliver (R163, R171) -/

/-- A 32-bit result: written unless NW, and pushed. `f` reads the wave as it stood before the clk. -/
def State.result32 (s : State) (n : Bool) (d : VDst) (f : Wave → Nat → Word) : State :=
  ((if n then s else s.putD d (f s.src)).push false (fun l => (f s.src l).setWidth 64)).adv

/-- A 64-bit result: an entry tagged 64. -/
def State.result64 (s : State) (n : Bool) (d : VDst) (f : Wave → Nat → Dword) : State :=
  ((if n then s else s.putD64 d (f s.src)).push true (f s.src)).adv

def alu32 (i : Instr) (n : Bool) (d : VDst) (f : Wave → Nat → Word) (s : State) : Out :=
  plain i (fun s => s.result32 n d f) s
def alu64 (i : Instr) (n : Bool) (d : VDst) (f : Wave → Nat → Dword) (s : State) : Out :=
  plain i (fun s => s.result64 n d f) s

/-- A form of two 32-bit operands. -/
def binary (i : Instr) (n : Bool) (d : VDst) (a b : VSrc) (f : Word → Word → Word) (s : State) : Out :=
  alu32 i n d (fun w l => f (w.v32 l a) (w.v32 l b)) s
/-- A form that reads d. -/
def ternary (i : Instr) (n : Bool) (d : VDst) (a b : VSrc) (f : Word → Word → Word → Word) (s : State) : Out :=
  alu32 i n d (fun w l => f (w.vd32 l d) (w.v32 l a) (w.v32 l b)) s
/-- A form of two 64-bit operands. -/
def binary64 (i : Instr) (n : Bool) (d : VDst) (a b : VSrc) (f : Dword → Dword → Dword) (s : State) : Out :=
  alu64 i n d (fun w l => f (w.v64 l a) (w.v64 l b)) s

/-- The lanes of a set with a word each, as a scoreboard slot holds them. -/
def perLane (ls : Mask) (f : Nat → Word) : Tab (List Word) := (lanesOf ls).map (fun l => (l, [f l]))

/-- A scoreboarded division (R171): no push, no slot for D = 124. -/
def divide (i : Instr) (kind : OwedKind) (d : VDst) (f : Wave → Nat → Word) (s : State) : Out :=
  plain i (fun s =>
    (match d with
      | .reg r => s.owe kind (.vec (s.src.wb + r.val) 1) s.active (perLane s.active (f s.src)) 0 0#32 false
      | .discard => s).adv) s

/-- A comparison into a mask: the active lanes where it holds (R170, R181, R197). -/
def State.lanesWhere (s : State) (p : Nat → Bool) : Mask := maskOf (fun l => s.active.getLsbD l && p l)

/-! ## Results (Table 7.1) -/

def mulhiS (a b : Word) : Word := hi32 (trunc64 (a.toInt * b.toInt))
def mulhiU (a b : Word) : Word := hi32 (trunc64 ((a.toNat : Int) * b.toNat))
def maxS (a b : Word) : Word := if b.toInt ≤ a.toInt then a else b
def minS (a b : Word) : Word := if a.toInt ≤ b.toInt then a else b
def minU (a b : Word) : Word := if a.toNat ≤ b.toNat then a else b
def maxU (a b : Word) : Word := if b.toNat ≤ a.toNat then a else b
def absDiff (a b : Word) : Word := trunc32 ((a.toInt - b.toInt).natAbs : Nat)
/-- The count of a shift (R165). -/
def count5 (b : Word) : Nat := fld b 0 5
def count6 (b : Word) : Nat := fld b 0 6
def shl32 (a b : Word) : Word := a <<< count5 b
def srl32 (a b : Word) : Word := a >>> count5 b
def sra32 (a b : Word) : Word := a.sshiftRight (count5 b)
def rotl32 (a b : Word) : Word := a.rotateLeft (count5 b)

/-- Bit fields (R166). -/
def bfLen (b : Word) : Nat := Nat.min (fld b 8 6) (32 - fld b 0 5)
def bfeU (a b : Word) : Word := BitVec.ofNat 32 (fld a (fld b 0 5) (bfLen b))
def bfeS (a b : Word) : Word :=
  if bfLen b = 0 then 0#32 else trunc32 (sextN (fld a (fld b 0 5) (bfLen b)) (bfLen b))
def bfMask (b : Word) : Word := BitVec.ofNat 32 ((2 ^ bfLen b - 1) * 2 ^ fld b 0 5)
def bfInsert (dd a b : Word) : Word := (dd &&& ~~~ bfMask b) ||| ((a <<< fld b 0 5) &&& bfMask b)

def popcount (a : Word) : Word := BitVec.ofNat 32 (popcN 32 a.toNat)
def leadingZeros (a : Word) : Word := if a = 0#32 then 32#32 else BitVec.ofNat 32 (31 - Nat.log2 a.toNat)
def bitReverse (a : Word) : Word := maskOf (fun i => a.getLsbD (31 - i))

/-- Division at the limits (R169, Table 7.4). -/
def divS (a b : Word) : Word := if b = 0#32 then 0xFFFFFFFF#32 else trunc32 (Int.tdiv a.toInt b.toInt)
def remS (a b : Word) : Word := if b = 0#32 then a else trunc32 (Int.tmod a.toInt b.toInt)
def divU (a b : Word) : Word := if b = 0#32 then 0xFFFFFFFF#32 else BitVec.ofNat 32 (a.toNat / b.toNat)
def remU (a b : Word) : Word := if b = 0#32 then a else BitVec.ofNat 32 (a.toNat % b.toNat)

/-- Saturation to a signed word. -/
def clampS (x : Int) : Word :=
  trunc32 (if x < -2147483648 then -2147483648 else if 2147483647 < x then 2147483647 else x)

/-- One byte of BMIX (R167). -/
def bmixByte (v : Dword) (f : Nat) : Nat :=
  let y := nbits v.toNat (8 * (f % 8) + 7) (8 * (f % 8))
  match f / 8 % 4 with
  | 0 => y
  | 1 => 0
  | 2 => if 128 ≤ y then 255 else 0
  | _ => 255
def bmix (dd a b : Word) : Word :=
  let v := pair64 dd a
  BitVec.ofNat 32 (natOfBytes ((List.range 4).map (fun i => BitVec.ofNat 8 (bmixByte v (fld b (5 * i) 5)))))

/-- Integer conditions (Table 7.3). -/
inductive ICond where
  | eq | ne | lt | le | ltu | leu
  deriving DecidableEq, Repr

def ICond.holds (c : ICond) (a b : Word) : Bool :=
  match c with
  | .eq => decide (a = b)
  | .ne => decide (a ≠ b)
  | .lt => decide (a.toInt < b.toInt)
  | .le => decide (a.toInt ≤ b.toInt)
  | .ltu => decide (a.toNat < b.toNat)
  | .leu => decide (a.toNat ≤ b.toNat)

/-- A condition as a word (R168). -/
def allOnes (p : Bool) : Word := if p then 0xFFFFFFFF#32 else 0#32

/-- An integer comparison into a mask (R170). -/
def icmpm (i : Instr) (d : MReg) (c : ICond) (a b : VSrc) (s : State) : Out :=
  plain i (fun s => (s.putM d (s.lanesWhere (fun l => c.holds (s.src.v32 l a) (s.src.v32 l b)))).adv) s

/-! ## Class 2 -/

def execAdd (n : Bool) (d : VDst) (a b : VSrc) (s : State) : Out := binary (.add n d a b) n d a b (fun x y => x + y) s
def execSub (n : Bool) (d : VDst) (a b : VSrc) (s : State) : Out := binary (.sub n d a b) n d a b (fun x y => x - y) s
def execMul (n : Bool) (d : VDst) (a b : VSrc) (s : State) : Out := binary (.mul n d a b) n d a b (fun x y => x * y) s
def execMulhi (n : Bool) (d : VDst) (a b : VSrc) (s : State) : Out := binary (.mulhi n d a b) n d a b (mulhiS) s
def execMulhiu (n : Bool) (d : VDst) (a b : VSrc) (s : State) : Out := binary (.mulhiu n d a b) n d a b (mulhiU) s
def execMad (n : Bool) (d : VDst) (a b : VSrc) (s : State) : Out := ternary (.mad n d a b) n d a b (fun z x y => z + x * y) s
def execMadw (n : Bool) (d : VDst) (a b : VSrc) (s : State) : Out :=
  alu64 (.madw n d a b) n d (fun w l => w.vd64 l d + (w.v32 l a).setWidth 64 * (w.v32 l b).setWidth 64) s
def execAdd64 (n : Bool) (d : VDst) (a b : VSrc) (s : State) : Out := binary64 (.add64 n d a b) n d a b (fun x y => x + y) s
def execSub64 (n : Bool) (d : VDst) (a b : VSrc) (s : State) : Out := binary64 (.sub64 n d a b) n d a b (fun x y => x - y) s
def execMul64 (n : Bool) (d : VDst) (a b : VSrc) (s : State) : Out := binary64 (.mul64 n d a b) n d a b (fun x y => x * y) s
def execMin (n : Bool) (d : VDst) (a b : VSrc) (s : State) : Out := binary (.min n d a b) n d a b (minS) s
def execMax (n : Bool) (d : VDst) (a b : VSrc) (s : State) : Out := binary (.max n d a b) n d a b (maxS) s
def execMinu (n : Bool) (d : VDst) (a b : VSrc) (s : State) : Out := binary (.minu n d a b) n d a b (minU) s
def execMaxu (n : Bool) (d : VDst) (a b : VSrc) (s : State) : Out := binary (.maxu n d a b) n d a b (maxU) s
def execAbsd (n : Bool) (d : VDst) (a b : VSrc) (s : State) : Out := binary (.absd n d a b) n d a b (absDiff) s
def execCsel (n : Bool) (d : VDst) (a b : VSrc) (s : State) : Out := ternary (.csel n d a b) n d a b (fun z x y => if z ≠ 0#32 then x else y) s
def execAnd (n : Bool) (d : VDst) (a b : VSrc) (s : State) : Out := binary (.and n d a b) n d a b (fun x y => x &&& y) s
def execOr (n : Bool) (d : VDst) (a b : VSrc) (s : State) : Out := binary (.or n d a b) n d a b (fun x y => x ||| y) s
def execXor (n : Bool) (d : VDst) (a b : VSrc) (s : State) : Out := binary (.xor n d a b) n d a b (fun x y => x ^^^ y) s
def execAndn (n : Bool) (d : VDst) (a b : VSrc) (s : State) : Out := binary (.andn n d a b) n d a b (fun x y => x &&& ~~~ y) s
def execShl (n : Bool) (d : VDst) (a b : VSrc) (s : State) : Out := binary (.shl n d a b) n d a b (shl32) s
def execSrl (n : Bool) (d : VDst) (a b : VSrc) (s : State) : Out := binary (.srl n d a b) n d a b (srl32) s
def execSra (n : Bool) (d : VDst) (a b : VSrc) (s : State) : Out := binary (.sra n d a b) n d a b (sra32) s
def execRot (n : Bool) (d : VDst) (a b : VSrc) (s : State) : Out := binary (.rot n d a b) n d a b (rotl32) s
def execShl64 (n : Bool) (d : VDst) (a b : VSrc) (s : State) : Out :=
  alu64 (.shl64 n d a b) n d (fun w l => w.v64 l a <<< count6 (w.v32 l b)) s
def execSrl64 (n : Bool) (d : VDst) (a b : VSrc) (s : State) : Out :=
  alu64 (.srl64 n d a b) n d (fun w l => w.v64 l a >>> count6 (w.v32 l b)) s
def execSra64 (n : Bool) (d : VDst) (a b : VSrc) (s : State) : Out :=
  alu64 (.sra64 n d a b) n d (fun w l => (w.v64 l a).sshiftRight (count6 (w.v32 l b))) s
def execBfe (n : Bool) (d : VDst) (a b : VSrc) (s : State) : Out := binary (.bfe n d a b) n d a b (bfeS) s
def execBfeu (n : Bool) (d : VDst) (a b : VSrc) (s : State) : Out := binary (.bfeu n d a b) n d a b (bfeU) s
def execBfi (n : Bool) (d : VDst) (a b : VSrc) (s : State) : Out := ternary (.bfi n d a b) n d a b (bfInsert) s
def execPopc (n : Bool) (d : VDst) (a : VSrc) (s : State) : Out := alu32 (.popc n d a) n d (fun w l => popcount (w.v32 l a)) s
def execClz (n : Bool) (d : VDst) (a : VSrc) (s : State) : Out := alu32 (.clz n d a) n d (fun w l => leadingZeros (w.v32 l a)) s
def execBrev (n : Bool) (d : VDst) (a : VSrc) (s : State) : Out := alu32 (.brev n d a) n d (fun w l => bitReverse (w.v32 l a)) s
def execDivs (d : VDst) (a b : VSrc) (s : State) : Out := divide (.divs d a b) .div d (fun w l => divS (w.v32 l a) (w.v32 l b)) s
def execDivu (d : VDst) (a b : VSrc) (s : State) : Out := divide (.divu d a b) .div d (fun w l => divU (w.v32 l a) (w.v32 l b)) s
def execRems (d : VDst) (a b : VSrc) (s : State) : Out := divide (.rems d a b) .div d (fun w l => remS (w.v32 l a) (w.v32 l b)) s
def execRemu (d : VDst) (a b : VSrc) (s : State) : Out := divide (.remu d a b) .div d (fun w l => remU (w.v32 l a) (w.v32 l b)) s
def execAddsat (n : Bool) (d : VDst) (a b : VSrc) (s : State) : Out := binary (.addsat n d a b) n d a b (fun x y => clampS (x.toInt + y.toInt)) s
def execSubsat (n : Bool) (d : VDst) (a b : VSrc) (s : State) : Out := binary (.subsat n d a b) n d a b (fun x y => clampS (x.toInt - y.toInt)) s
def execBmix (n : Bool) (d : VDst) (a b : VSrc) (s : State) : Out := ternary (.bmix n d a b) n d a b (bmix) s
def execIcmpEq (n : Bool) (d : VDst) (a b : VSrc) (s : State) : Out := binary (.icmpEq n d a b) n d a b (fun x y => allOnes (ICond.holds .eq x y)) s
def execIcmpNe (n : Bool) (d : VDst) (a b : VSrc) (s : State) : Out := binary (.icmpNe n d a b) n d a b (fun x y => allOnes (ICond.holds .ne x y)) s
def execIcmpLt (n : Bool) (d : VDst) (a b : VSrc) (s : State) : Out := binary (.icmpLt n d a b) n d a b (fun x y => allOnes (ICond.holds .lt x y)) s
def execIcmpLe (n : Bool) (d : VDst) (a b : VSrc) (s : State) : Out := binary (.icmpLe n d a b) n d a b (fun x y => allOnes (ICond.holds .le x y)) s
def execIcmpLtu (n : Bool) (d : VDst) (a b : VSrc) (s : State) : Out := binary (.icmpLtu n d a b) n d a b (fun x y => allOnes (ICond.holds .ltu x y)) s
def execIcmpLeu (n : Bool) (d : VDst) (a b : VSrc) (s : State) : Out := binary (.icmpLeu n d a b) n d a b (fun x y => allOnes (ICond.holds .leu x y)) s
def execIcmpmEq (d : MReg) (a b : VSrc) (s : State) : Out := icmpm (.icmpmEq d a b) d .eq a b s
def execIcmpmNe (d : MReg) (a b : VSrc) (s : State) : Out := icmpm (.icmpmNe d a b) d .ne a b s
def execIcmpmLt (d : MReg) (a b : VSrc) (s : State) : Out := icmpm (.icmpmLt d a b) d .lt a b s
def execIcmpmLe (d : MReg) (a b : VSrc) (s : State) : Out := icmpm (.icmpmLe d a b) d .le a b s
def execIcmpmLtu (d : MReg) (a b : VSrc) (s : State) : Out := icmpm (.icmpmLtu d a b) d .ltu a b s
def execIcmpmLeu (d : MReg) (a b : VSrc) (s : State) : Out := icmpm (.icmpmLeu d a b) d .leu a b s
def execMin64 (n : Bool) (d : VDst) (a b : VSrc) (s : State) : Out := binary64 (.min64 n d a b) n d a b (fun x y => if x.toInt ≤ y.toInt then x else y) s
def execMax64 (n : Bool) (d : VDst) (a b : VSrc) (s : State) : Out := binary64 (.max64 n d a b) n d a b (fun x y => if y.toInt ≤ x.toInt then x else y) s
def execMinu64 (n : Bool) (d : VDst) (a b : VSrc) (s : State) : Out := binary64 (.minu64 n d a b) n d a b (fun x y => if x.toNat ≤ y.toNat then x else y) s
def execMaxu64 (n : Bool) (d : VDst) (a b : VSrc) (s : State) : Out := binary64 (.maxu64 n d a b) n d a b (fun x y => if y.toNat ≤ x.toNat then x else y) s

/-- DIVIDE_RESULT (R171): the oldest division of a wave still under way writes its register. -/
def execDivideResult (key id : Nat) (s : State) : Out :=
  match (s.wave key).owed.find? (fun o => decide (o.kind = .div) && !o.arrived) with
  | some o => .next (if o.id = id then s.modWave key (fun w => w.arrive id) else s)
  | none => .next s

/-! ## Class 3 (R173) -/

/-- The immediate, sign-extended. -/
def imm32 (k : BitVec 11) : Word := k.signExtend 32

def execAddi (d : VDst) (a : VSrc) (k : BitVec 11) (s : State) : Out := alu32 (.addi d a k) false d (fun w l => w.v32 l a + imm32 k) s
def execAndi (d : VDst) (a : VSrc) (k : BitVec 11) (s : State) : Out := alu32 (.andi d a k) false d (fun w l => w.v32 l a &&& imm32 k) s
def execOri (d : VDst) (a : VSrc) (k : BitVec 11) (s : State) : Out := alu32 (.ori d a k) false d (fun w l => w.v32 l a ||| imm32 k) s
def execXori (d : VDst) (a : VSrc) (k : BitVec 11) (s : State) : Out := alu32 (.xori d a k) false d (fun w l => w.v32 l a ^^^ imm32 k) s
def execShli (d : VDst) (a : VSrc) (k : BitVec 5) (s : State) : Out := alu32 (.shli d a k) false d (fun w l => w.v32 l a <<< k.toNat) s
def execSrli (d : VDst) (a : VSrc) (k : BitVec 5) (s : State) : Out := alu32 (.srli d a k) false d (fun w l => w.v32 l a >>> k.toNat) s
def execSrai (d : VDst) (a : VSrc) (k : BitVec 5) (s : State) : Out := alu32 (.srai d a k) false d (fun w l => (w.v32 l a).sshiftRight k.toNat) s
def execMuli (d : VDst) (a : VSrc) (k : BitVec 11) (s : State) : Out := alu32 (.muli d a k) false d (fun w l => w.v32 l a * imm32 k) s

end Sys2Proof.Machine
end

