-- ==== Sys2Proof/Machine/MemoryOps.lean ====
section
/-! DEFINITION. Machine/MemoryOps.lean: class 8 (9.2 to 9.6) and the arrival of what loads and atomics owe. -/

namespace Sys2Proof.Machine

open Sys2Proof

/-! ## Delivery (R201, Table 5.2) -/

/-- The registers a load of a width writes, from its bytes. -/
def widthLoad (w : Width) (bs : List Byte) : List Word :=
  let n := natOfBytes bs
  match w with
  | .w1 => [trunc32 (sextN n 8)]
  | .w2 => [trunc32 (sextN n 16)]
  | .w4 | .u1 | .u2 => [BitVec.ofNat 32 n]
  | .w8 => [BitVec.ofNat 32 n, BitVec.ofNat 32 (n / 2 ^ 32)]
  | .w16 => (List.range 4).map (fun i => BitVec.ofNat 32 (n / 2 ^ (32 * i)))

/-- Zero in every destination register (R48). -/
def widthZeros (w : Width) : List Word := List.replicate w.regs 0#32

/-- Owe a vector destination its words; code 124 takes no slot (R199). -/
def State.owed (s : State) (kind : OwedKind) (d : VDst) (n : Nat) (acq : Bool) (data : Tab (List Word)) : State :=
  match d with
  | .reg r => s.owe kind (.vec (s.src.wb + r.val) n) s.active data 0 0#32 acq
  | .discard => s

/-- The bytes a store of a width takes from a vector source (R199). -/
def Wave.storeData (w : Wave) (l : Nat) (d : VSrc) (wd : Width) : List Byte :=
  match wd with
  | .w8 => bytesOfNat 8 (w.v64 l d).toNat
  | .w16 =>
    match d with
    | .reg n => (List.range 4).foldl (fun bs i => bs ++ bytesOfNat 4 (w.vreg l (n.val + i)).toNat) []
    | .latch _ | .sreg _ | .zero | .lane | .lit _ => List.replicate 16 0#8
  | .w1 | .w2 | .w4 | .u1 | .u2 => bytesOfNat wd.bytes (w.v32 l d).toNat

/-! ## The shape of a record access -/

/-- Check, translate and carry out an access that reads through record `q`: `eff` gets every in-bounds element with its
translation. -/
def State.reading (s : State) (q align w : Nat) (r : Rec) (es : List Elem) (kind : Nat)
    (eff : List (Elem × Trans) → State → State) : State :=
  match s.checkElems r q align w es with
  | some t => (s.noteOob q es).raise t
  | none =>
    match s.reach q .read es with
    | .access t bad va => (s.noteOob q es).refuse t bad va
    | .some _ absent => s.awaitPage kind q absent
    | .all ts =>
      if ts.any (fun x => s.sideWaits s.curCore s.curWg s.curCtx x.1.a) then s.retry .stalled
      else
        let lost := ts.filter (fun x => s.poisonedRead s.curCore s.curWg x.2.pa w)
        match lost with
        | x :: _ => (s.noteOob q es).consume (laneSet (lost.map Prod.fst)) (faddrOf (lost.map Prod.fst)) x.2.pa
        | [] => eff ts (((s.noteOob q es).touchAll s.curCore false (ts.map Prod.snd)).hotCount s.curCore (ts.map (fun x => x.2.pa)))

/-- The words each active lane loads: from its element, or zero out of bounds. -/
def loadWords (act : Mask) (w : Width) (ts : List (Elem × Trans)) (bytes : Nat → List Byte) : Tab (List Word) :=
  (lanesOf act).map (fun l => (l,
    match ts.find? (fun x => decide (x.1.lane = l)) with
    | some x => widthLoad w (bytes x.2.pa)
    | none => widthZeros w))

/-- A record load through L1 (`path` false) or the path cache (R204, R52). -/
def State.recordLoad (s : State) (q : QReg) (w : Width) (o : Int) (d : VDst) (a : VSrc) (path acq : Bool) : State :=
  let r := Rec.ofBits (s.src.qreg q.val)
  let es := elemsOf r s.active o w.bytes (fun l => s.src.v32 l a)
  s.reading q.val w.bytes w.bytes r es 0 (fun ts t =>
    let t1 := if path then (ts.map (fun x => lineOf x.2.pa)).eraseDups.foldl (fun t l => t.pathFill t.curCore l) t else t
    let rd := fun pa => if path then (List.range w.bytes).map (fun i => t1.pathByte t1.curCore t1.curWg (pa + i))
      else t1.viewBytes t1.curCore t1.curWg pa w.bytes
    (t1.owed .load d w.regs acq (loadWords t1.active w ts rd)).adv)

/-- A record store enters the store buffer; its faulting lines retire into the side log (R204, R388). `eff` follows. -/
def State.recordStore (s : State) (q : QReg) (w : Width) (o : Int) (d a : VSrc) (eff : State → State) : State :=
  let r := Rec.ofBits (s.src.qreg q.val)
  let es := elemsOf r s.active o w.bytes (fun l => s.src.v32 l a)
  if r.rdonly then s.raise (s.elemTrap causeAccess q.val es)
  else
    match s.checkElems r q.val w.bytes w.bytes es with
    | some t => (s.noteOob q.val es).raise t
    | none =>
      let go := fun (ts : List (Elem × Trans)) (absent : List Elem) =>
        let here := ts.filter (fun x => !x.2.isAbsent)
        if here.any (fun x => s.sideWaits s.curCore s.curWg s.curCtx x.1.a) then s.retry .stalled
        else if !s.sideRoom absent then s.awaitPage 1 q.val absent
        else
          let bytes := fun l => s.src.storeData l d w
          let cells := here.foldl (fun cs x => cs ++ cellsFrom x.2.pa (bytes x.1.lane)) []
          let s1 := ((s.noteOob q.val es).touchAll s.curCore true (here.map Prod.snd)).hotCount s.curCore (here.map (fun x => x.2.pa))
          eff ((s1.bufferAll s1.curWg cells).sideLogAdd q.val absent none r.xdata bytes)
      match s.reach q.val (.write r.xdata) es with
      | .access t bad va => (s.noteOob q.val es).refuse t bad va
      | .some ts absent => go ts absent
      | .all ts => go ts []

/-- A form that uses record `q`, whose contents may make it ILLEGAL (R46). -/
def recForm (i : Instr) (q : QReg) (eff : State → State) (s : State) : Out :=
  checked i (fun s => recBad (s.src.qreg q.val)) noTrap eff s

/-! ## LD, ST, LDRO, PREF, CACHE -/

def execLd (q : QReg) (w : Width) (x : MemMod) (d : VDst) (a : VSrc) (s : State) : Out :=
  recForm (.ld q w x d a) q (fun s => s.recordLoad q w x.offset d a false false) s
def execSt (q : QReg) (w : Width) (x : MemMod) (d a : VSrc) (s : State) : Out :=
  recForm (.st q w x d a) q (fun s => s.recordStore q w x.offset d a State.adv) s
def execLdro (q : QReg) (w : Width) (x : MemMod) (d : VDst) (a : VSrc) (s : State) : Out :=
  recForm (.ldro q w x d a) q (fun s => s.recordLoad q w x.offset d a true false) s

/-- Lines asked for by address: the lanes that pass every check are translated, the others drop silently (R205, R210). -/
def State.askable (s : State) (q : QReg) (w : Width) (o : Int) (a : VSrc) : List Trans :=
  let r := Rec.ofBits (s.src.qreg q.val)
  let es := (elemsOf r s.active o w.bytes (fun l => s.src.v32 l a)).filter
    (fun e => e.inb && decide (e.va % (w.bytes : Int) = 0) && decide (e.va + w.bytes ≤ (2 : Int) ^ 48))
  es.map (fun e => s.translate s.curCore s.curCtx e.a .read)

def State.askLines (s : State) (q : QReg) (w : Width) (o : Int) (a : VSrc) : State :=
  (s.touchAll s.curCore false (s.askable q w o a)).adv

def execPref (q : QReg) (w : Width) (x : MemMod) (a : VSrc) (s : State) : Out :=
  recForm (.pref q w x a) q (fun s => s.askLines q w x.offset a) s
/-- A line of the core's L1 is written back to L2, which performs what the core has committed of it, and for an invalidation
dropped, with any older copy of it; a line that holds buffered stores of any workgroup stays as it is (R210). -/
def State.cacheLine (s : State) (core : Nat) (drop : Bool) (line : Nat) : State :=
  if s.wgs.any (fun g => decide (g.2.core = core) && (linesOf g.2.sbuf).contains line) then s
  else
    let t := s.performSpread core line
    if drop then { t with old := t.old.filter (fun o => !(decide (o.core = core) && decide (o.line = line))) } else t

/-- CACHE acts on the L1 line of each active lane that passes every check (R210). -/
def State.cacheLines (s : State) (q : QReg) (w : Width) (a : VSrc) (drop : Bool) : State :=
  let pas := (s.askable q w 0 a).filterMap (fun t =>
    match t with
    | .ok pa _ _ => some (lineOf (s.homeOf pa))
    | .absent | .denied | .malformed _ => none)
  (pas.eraseDups.foldl (fun t l => t.cacheLine s.curCore drop l) (s.touchAll s.curCore false (s.askable q w 0 a))).adv

def execCacheWb (q : QReg) (w : Width) (a : VSrc) (s : State) : Out :=
  recForm (.cacheWb q w a) q (fun s => s.cacheLines q w a false) s
def execCacheInv (q : QReg) (w : Width) (a : VSrc) (s : State) : Out :=
  recForm (.cacheInv q w a) q (fun s => s.cacheLines q w a true) s

/-! ## LDF and the page formats (2.9) -/

/-- Bits of an element of a format code; a raw page has none (Table 2.6). -/
def fmtBits (f : Nat) : Nat :=
  match f with
  | 1 => 32
  | 2 | 3 => 16
  | 4 | 5 | 6 => 8
  | 7 => 4
  | _ => 0

/-- Where element `i` lies: byte address and bit within it (R53, R55). -/
def elemAt (base i bits : Nat) : Nat × Nat := (base + i * bits / 8, i * bits % 8)

/-- Group length of a leaf's GRP code. -/
def grpLen (g : Nat) : Nat := 16 * 2 ^ g

/-- The least power of two no less than `n`, within `fuel` doublings of `p`. -/
def pow2From (n : Nat) : Nat → Nat → Nat
  | 0, p => p
  | fuel + 1, p => if n ≤ p then p else pow2From n fuel (2 * p)

/-- The VA of the scale entry of element `e` of a grouped page (R57). -/
def scaleVa (leaf pageSize e : Nat) : Nat :=
  let groups := pageSize * 8 / fmtBits (pteFmt leaf) / grpLen (pteGrp leaf)
  pteScaleV leaf * 2 ^ 16 + pteSlice leaf * pow2From (groups * 4) 40 1 + e / grpLen (pteGrp leaf) * 4

/-- The exact value `s × (q − z)` of a grouped element (R56); a zero takes the sign of the product (log entry 54). -/
def groupedValue (q : Int) (scale : Nat) : FVal :=
  (fp16.value (scale % 2 ^ 16)).mul (FVal.ofInt (q - sextN (scale / 2 ^ 16) 8))

/-- Decode an ungrouped element; FP32 passes unchanged (R56). -/
def decodeElem (f x : Nat) : Word :=
  match f with
  | 1 => BitVec.ofNat 32 x
  | 2 => fp16.widen x
  | 3 => bf16.widen x
  | 4 => e4m3.widen x
  | _ => e5m2.widen x

/-- An element of a leaf: its signed integer where grouped. -/
def groupedInt (f x : Nat) : Int := if f = 7 then sextN x 4 else sextN x 8

/-- Whether a leaf is grouped. -/
def grouped (leaf : Nat) : Bool := pteFmt leaf == 6 || pteFmt leaf == 7

/-- The scale entry's address for an element at `va` through a grouped page. -/
def scaleOf (x : Trans) (va bit : Nat) : Nat :=
  match x with
  | .ok _ leaf page => scaleVa leaf page.size (((va - page.va) * 8 + bit) / fmtBits (pteFmt leaf))
  | .absent | .denied | .malformed _ => 0

def Trans.leaf : Trans → Nat
  | .ok _ leaf _ => leaf
  | .absent | .denied | .malformed _ => 0

/-- LDF once its elements are placed: their pages, then their scales, then the values (R55 to R57). -/
def State.decodeLoad (s : State) (q : QReg) (d : VDst) (r : Rec) (bits : Nat) (es : List Elem) (bit : Nat → Nat) : State :=
  let w := Nat.max 1 (bits / 8)
  s.reading q.val w w r es 0 (fun ts t =>
    let wrong := ts.filter (fun x => decide (fmtBits (pteFmt x.2.leaf) ≠ bits))
    if !wrong.isEmpty then t.raise (s.elemTrap causeFormat 0 (wrong.map Prod.fst))
    else
      let scaled := ts.filter (fun x => grouped x.2.leaf)
      let scs : List Elem := scaled.map (fun x => ⟨x.1.lane, true, (scaleOf x.2 x.1.a (bit x.1.lane) : Int)⟩)
      match s.reach q.val .read scs with
      | .access tr bad va => t.refuse tr bad va
      | .some _ absent => s.awaitPage 3 q.val absent
      | .all us =>
        let odd := us.filter (fun u => decide (pteFmt u.2.leaf ≠ 0))
        let lost := us.filter (fun u => s.poisonedRead s.curCore s.curWg u.2.pa 4)
        if us.any (fun u => s.sideWaits s.curCore s.curWg s.curCtx u.1.a) then s.retry .stalled
        else if !odd.isEmpty then t.raise (s.elemTrap causeFormat 0 (odd.map Prod.fst))
        else if !lost.isEmpty then t.consume (laneSet (lost.map Prod.fst)) (faddrOf (lost.map Prod.fst)) ((lost.head?.map (fun u => u.2.pa)).getD 0)
        else
          let t1 := t.touchAll t.curCore false (us.map Prod.snd)
          let raw := fun (x : Elem × Trans) =>
            t1.viewNat t1.curCore t1.curWg x.2.pa w / 2 ^ bit x.1.lane % 2 ^ bits
          let value := fun (x : Elem × Trans) =>
            match us.find? (fun u => decide (u.1.lane = x.1.lane)) with
            | some u => BitVec.ofNat 32 (fp32.rne (groupedValue (groupedInt (pteFmt x.2.leaf) (raw x))
                (t1.viewNat t1.curCore t1.curWg u.2.pa 4)))
            | none => decodeElem (pteFmt x.2.leaf) (raw x)
          let data := (lanesOf t1.active).map (fun l => (l,
            match ts.find? (fun x => decide (x.1.lane = l)) with
            | some x => [value x]
            | none => [0#32]))
          (t1.owed .load d 1 false data).adv)

/-- The bits of an element under LDF: those of the format of the page that holds byte BASE, where it is mapped and tagged
(R55). -/
def State.baseBits (s : State) (r : Rec) : Option Nat :=
  match s.translate s.curCore s.curCtx r.base .read with
  | .ok _ leaf _ => if fmtBits (pteFmt leaf) = 0 then none else some (fmtBits (pteFmt leaf))
  | .absent | .denied | .malformed _ => none

/-- LDF: the element size is that of the page of BASE (R55). Bounds are judged first: the address a failed lane forms follows
from that size where a lane is in bounds and the page gives one; else it is an open value. The INFO of a FORMAT trap is 0
whichever page is wrong, since no rule gives it one (log entry 49). -/
def State.formatLoad (s : State) (q : QReg) (d : VDst) (a : VSrc) : State :=
  let r := Rec.ofBits (s.src.qreg q.val)
  let idx := fun l => (s.src.v32 l a).toNat
  let inb := (lanesOf s.active).filter (fun l => decide (idx l < r.extent))
  let place := fun bits => (lanesOf s.active).map (fun l =>
    (⟨l, decide (idx l < r.extent), ((elemAt r.base (idx l) bits).1 : Int)⟩ : Elem))
  let out := fun bits => (place bits).filter (fun e => !e.inb)
  let s0 := s.noteOob q.val (place 8)
  if r.oob && !(out 8).isEmpty then
    match (if inb.isEmpty then none else s.baseBits r) with
    | some bits => s0.raise (s0.elemTrap causeBounds q.val (out bits))
    | none =>
      let (at_, t) := s0.freeAddr
      t.raise { t.elemTrap causeBounds q.val (out 8) with faddr := at_ }
  else
    match inb with
    | [] => s.decodeLoad q d r 8 (place 8) (fun _ => 0)
    | _ :: _ =>
      let base : List Elem := inb.map (fun l => ⟨l, true, (r.base : Int)⟩)
      match s.reach q.val .read base with
      | .access t bad va => s0.refuse t bad va
      | .some _ absent => s.awaitPage 0 q.val absent
      | .all bs =>
        match s.baseBits r with
        | none => s0.raise (s.elemTrap causeFormat 0 base)
        | some bits =>
          (s.touchAll s.curCore false (bs.map Prod.snd)).decodeLoad q d r bits (place bits)
            (fun l => (elemAt r.base (idx l) bits).2)

def execLdf (q : QReg) (x : MemMod) (d : VDst) (a : VSrc) (s : State) : Out :=
  checked (.ldf q x d a)
    (fun s => recBad (s.src.qreg q.val) || decide ((Rec.ofBits (s.src.qreg q.val)).swz ≠ 0) || decide (x.offset ≠ 0)) noTrap
    (fun s => s.formatLoad q d a) s

/-! ## SAMPLE (R206) -/

/-- Bytes of a texel (Table 9.5). -/
def texelBytes : Texel → Nat
  | .f32x1 | .f16x2 | .un8x4 => 4
  | .f32x2 | .f16x4 => 8
  | .f32x4 => 16
  | .f16x1 => 2

/-- Channels a format holds, as exact values; UNORM8 channels are left in units of 1/255. -/
def texelChannels (t : Texel) (bs : List Byte) : List FVal :=
  let n := natOfBytes bs
  let f32 := fun i => fp32.value (n / 2 ^ (32 * i) % 2 ^ 32)
  let f16 := fun i => fp16.value (n / 2 ^ (16 * i) % 2 ^ 16)
  match t with
  | .f32x1 => [f32 0]
  | .f32x2 => [f32 0, f32 1]
  | .f32x4 => [f32 0, f32 1, f32 2, f32 3]
  | .f16x4 => [f16 0, f16 1, f16 2, f16 3]
  | .f16x2 => [f16 0, f16 1]
  | .un8x4 => (List.range 4).map (fun i => FVal.ofInt ((n / 2 ^ (8 * i) % 256 : Nat) : Int))
  | .f16x1 => [f16 0]

/-- `floor` and the 1/256ths of `clamp(c × n − 0.5, −1, n)` for a coordinate (R206). -/
def texelPos (c : Word) (n : Nat) : Int × Nat :=
  let at256 : Int :=
    match fp32.value c.toNat with
    | .nan _ => -128
    | .inf neg => if neg then -256 else n * 256
    | .fin neg m e =>
      let v : Int := if neg then -(m : Int) else m
      if 0 ≤ e then v * 2 ^ e.toNat * n * 256 - 128 else (v * n * 256) / 2 ^ (-e).toNat - 128
  let x := if at256 < -256 then -256 else if (n : Int) * 256 < at256 then (n : Int) * 256 else at256
  (x / 256, (x % 256).toNat)

/-- A texel coordinate clamped to the edge. -/
def clampTexel (x : Int) (n : Nat) : Nat := if x < 0 then 0 else if (n : Int) ≤ x then n - 1 else x.toNat

/-- The texels of non-zero weight: index `yi << 16 | xi` and weight in 65536ths. -/
def texelsOf (width height : Nat) (u v : Word) : List (Nat × Nat) :=
  let (x0, fx) := texelPos u width
  let (y0, fy) := texelPos v height
  ([(0, 0), (1, 0), (0, 1), (1, 1)].map (fun (p : Nat × Nat) =>
    (clampTexel (y0 + p.2) height * 2 ^ 16 + clampTexel (x0 + p.1) width,
      (if p.1 = 1 then fx else 256 - fx) * (if p.2 = 1 then fy else 256 - fy)))).filter (fun t => decide (t.2 ≠ 0))

/-- One channel: the exact weighted sum, rounded once. -/
def blend (un : Bool) (ts : List (Nat × FVal)) : Word :=
  let terms := ts.map (fun t => FVal.mul (.fin false t.1 (-16)) t.2)
  match FVal.sum .rne terms with
  | .fin neg m e =>
    if un then BitVec.ofNat 32 (fp32.roundRatio .rne false neg m (255 * 2 ^ (-e).toNat)).1
    else BitVec.ofNat 32 (fp32.rne (.fin neg m e))
  | v => BitVec.ofNat 32 (fp32.rne v)

/-- The four channels of a sample. -/
def sampleOf (t : Texel) (texels : List (Nat × List Byte)) : List Word :=
  let chans := texels.map (fun x => (x.1, texelChannels t x.2))
  let have_ := (texelChannels t []).length
  (List.range 4).map (fun c =>
    if c < have_ then blend (decide (t = .un8x4)) (chans.map (fun x => (x.1, x.2.getD c (.fin false 0 0))))
    else if c = 3 then 0x3F800000#32 else 0#32)

def State.sample (s : State) (q : QReg) (t : Texel) (o : Int) (d a : VReg) : State :=
  let r := Rec.ofBits (s.src.qreg q.val)
  let w := texelBytes t
  let texels := fun l => if r.width = 0 ∨ r.height = 0 then [(2 ^ 32 - 1, 0)]
    else texelsOf r.width r.height (s.src.vreg l a.val) (s.src.vreg l (a.val + 1))
  let es := (lanesOf s.active).foldl (fun es l =>
    es ++ (texels l).map (fun x => (⟨l, r.inb x.1 o w, r.addr x.1 o⟩ : Elem))) []
  s.reading q.val w w r es 0 (fun ts z =>
    let z1 := (ts.map (fun x => lineOf x.2.pa)).eraseDups.foldl (fun z l => z.pathFill z.curCore l) z
    let rd := fun pa => (List.range w).map (fun i => z1.pathByte z1.curCore z1.curWg (pa + i))
    let data := (lanesOf z1.active).map (fun l =>
      let mine := ts.filter (fun x => decide (x.1.lane = l))
      (l, if mine.isEmpty then [0#32, 0#32, 0#32, 0#32]
        else sampleOf t ((texels l).zipWith (fun y (x : Elem × Trans) => (y.2, rd x.2.pa)) mine)))
    (z1.owed .load (.reg d) 4 false data).adv)

def execSample (q : QReg) (t : Texel) (x : MemMod) (d a : VReg) (s : State) : Out :=
  checked (.sample q t x d a)
    (fun s =>
      let r := Rec.ofBits (s.src.qreg q.val)
      recBad (s.src.qreg q.val) || decide (r.swz ≠ 1) || decide (r.stride ≠ texelBytes t)) noTrap
    (fun s => s.sample q t x.offset d a) s

/-! ## Lane store (R34, R207) -/

/-- User bytes of a lane store: `.lanestore` rounded up to 16 (R34). -/
def State.laneStoreBytes (s : State) : Nat := roundUp (s.grid s.curGrid).lanestore 16

/-- The byte offsets of LDL and STL, exact. -/
def State.laneElems (s : State) (w : Nat) (o : Int) (a : VSrc) : List Elem :=
  (lanesOf s.active).map (fun l =>
    let off : Int := (s.src.v32 l a).toNat + o
    ⟨l, decide (0 ≤ off) && decide (off + w ≤ s.laneStoreBytes), off⟩)

/-- The checks of R34 and R36: bounds over every active lane, then alignment; no record has part in it. -/
def State.offsetTrap (s : State) (w : Nat) (es : List Elem) : Option TrapReq :=
  let out := es.filter (fun e => !e.inb)
  let mis := es.filter (fun e => decide (e.va % (w : Int) ≠ 0))
  if !out.isEmpty then some (s.elemTrap causeBounds 16 out)
  else if !mis.isEmpty then some (s.elemTrap causeMisalign 16 mis)
  else none

def execLdl (w : Width) (x : MemMod) (d : VDst) (a : VSrc) (s : State) : Out :=
  checked (.ldl w x d a) lawful (fun s => s.offsetTrap w.bytes (s.laneElems w.bytes x.offset a))
    (fun s =>
      let es := s.laneElems w.bytes x.offset a
      (s.owed .load d w.regs false (es.map (fun e => (e.lane, widthLoad w (s.src.storeBytes e.lane e.a w.bytes))))).adv) s

def execStl (w : Width) (x : MemMod) (d a : VSrc) (s : State) : Out :=
  checked (.stl w x d a) lawful (fun s => s.offsetTrap w.bytes (s.laneElems w.bytes x.offset a))
    (fun s =>
      let es := s.laneElems w.bytes x.offset a
      (es.foldl (fun t e => t.modCur (fun v => v.modLane e.lane (fun y =>
        { y with store := (cellsFrom e.a (s.src.storeData e.lane d w)).foldl (fun t c => tabSet t c.1 c.2) y.store }))) s).adv) s

/-! ## LDU and the records (R208, R209) -/

/-- Owe s registers of the wave. -/
def State.owedU (s : State) (d : SReg) (n : Nat) (ws : List Word) : State :=
  s.owe .load (.uni d.val n) s.active [(0, ws)] 0 0#32 false

def execLdu (q : QReg) (w : Width) (x : MemMod) (d : SReg) (a : USrc) (s : State) : Out :=
  recForm (.ldu q w x d a) q
    (fun s =>
      let r := Rec.ofBits (s.src.qreg q.val)
      let es := elemsOf r s.active x.offset w.bytes (fun _ => s.src.u32 a)
      s.reading q.val w.bytes w.bytes r es 0 (fun ts t =>
        (t.owedU d w.regs (match ts with
          | y :: _ => widthLoad w (t.viewBytes t.curCore t.curWg y.2.pa w.bytes)
          | [] => widthZeros w)).adv)) s

def execRecset (q : QReg) (a : SReg) (s : State) : Out :=
  plain (.recset q a) (fun s => (s.putQ q.val (recordOf ((List.range 4).map (fun i => s.src.sreg (a.val + i))))).adv) s
def execRecget (q : QReg) (d : SReg) (s : State) : Out :=
  plain (.recget q d) (fun s =>
    ((List.range 4).foldl (fun t i => t.putS (d.val + i) (BitVec.ofNat 32 ((s.src.qreg q.val).toNat / 2 ^ (32 * i)))) s).adv) s

/-- The traps of RECLD: alignment to 16, then bits [63:48]. -/
def State.recldTrap (s : State) (a : SReg) : Option TrapReq :=
  let va := (s.src.sreg64 a.val).toNat
  let lanes := s.active
  if va % 16 ≠ 0 then some (s.mkTrap causeMisalign 16 lanes (va % 2 ^ 48))
  else if 2 ^ 48 ≤ va then some (s.mkTrap causeAccess 16 lanes (va % 2 ^ 48))
  else none

/-- A plain record that stands for no record: a byte buffer of the whole address space. -/
def Rec.all : Rec := ⟨0, 0, 2 ^ 48, 0, false, false, false⟩

def execRecld (q : QReg) (a : SReg) (s : State) : Out :=
  checked (.recld q a) lawful (fun s => s.recldTrap a)
    (fun s =>
      let va := (s.src.sreg64 a.val).toNat
      let es : List Elem := (lanesOf s.active).map (fun l => ⟨l, true, (va : Int)⟩)
      s.reading 16 16 16 Rec.all es 0 (fun ts t =>
        let ws := (ts.head?.map (fun y => widthLoad .w16 (t.viewBytes t.curCore t.curWg y.2.pa 16))).getD []
        (t.owe .record (.recd q.val) t.active [(0, ws)] 0 0#32 false).adv)) s

/-! ## Arrival (R201) -/

/-- A result of one of these kinds is written to its destination, and what was held for it is ready. -/
def State.arrival (s : State) (key id : Nat) (kinds : List OwedKind) : State :=
  match (s.wave key).owed.find? (fun o => decide (o.id = id)) with
  | none => s
  | some o =>
    if kinds.contains o.kind && !(s.core (keyCore key)).paddock.any (fun p => decide (p.owed = some id)) then
      s.modWave key (fun w => w.arrive id)
    else s

/-- LOAD_RETURN: a paddock load returns once every rank it names has answered. -/
def execLoadReturn (key id : Nat) (s : State) : Out := .next (s.arrival key id [.load, .atomic, .record])

end Sys2Proof.Machine
end

