-- ==== Sys2Proof/Machine/Atomics.lean ====
section
/-! DEFINITION. Machine/Atomics.lean: class 0xA less WAITU (9.8, 9.9): the operations of Table 9.7, ATOM, RED, the fences,
STREL and LDACQ. -/

namespace Sys2Proof.Machine

open Sys2Proof

/-! ## Table 9.7 -/

/-- An AOP that works on 64 bits. -/
def aopWide : Aop → Bool
  | .add64 | .min64 | .maxu64 | .minu64 | .cas64 => true
  | .add | .min | .max | .minu | .maxu | .and | .or | .xor | .xchg | .cas | .fadd => false

def aopBytes (op : Aop) : Nat := if aopWide op then 8 else 4

/-- The new value, none where nothing is written. `x` is the operand, or the compare value with `y` the new one. -/
def aopNew (op : Aop) (old x y : Nat) : Option Nat :=
  match op with
  | .add => some ((old + x) % 2 ^ 32)
  | .min => some (if sextN old 32 ≤ sextN x 32 then old else x)
  | .max => some (if sextN x 32 ≤ sextN old 32 then old else x)
  | .minu => some (Nat.min old x)
  | .maxu => some (Nat.max old x)
  | .and => some (old &&& x)
  | .or => some (old ||| x)
  | .xor => some (old ^^^ x)
  | .xchg => some x
  | .cas => if old = x then some y else none
  | .add64 => some ((old + x) % 2 ^ 64)
  | .min64 => some (if sextN old 64 ≤ sextN x 64 then old else x)
  | .maxu64 => some (Nat.max old x)
  | .minu64 => some (Nat.min old x)
  | .cas64 => if old = x then some y else none
  | .fadd => some (fp32.rne (FVal.sum .rne [fp32.value old, fp32.value x]))

/-- The operands of a returning form, from its register group: x, and y of a compare-and-swap (R213). -/
def Wave.groupOperands (w : Wave) (l : Nat) (op : Aop) (d : VReg) : Nat × Nat :=
  let r := fun i => (w.vreg l (d.val + i)).toNat
  match op with
  | .cas => (r 0, r 1)
  | .cas64 => (r 0 + r 1 * 2 ^ 32, r 2 + r 3 * 2 ^ 32)
  | .add64 | .min64 | .maxu64 | .minu64 => (r 0 + r 1 * 2 ^ 32, 0)
  | .add | .min | .max | .minu | .maxu | .and | .or | .xor | .xchg | .fadd => (r 0, 0)

/-- The operand of a reduction (R213). -/
def Wave.redOperand (w : Wave) (l : Nat) (op : Aop) (d : VSrc) : Nat :=
  if aopWide op then (w.v64 l d).toNat else (w.v32 l d).toNat

/-- The words an old value returns to (R213). -/
def aopWords (op : Aop) (old : Nat) : List Word :=
  if aopWide op then [BitVec.ofNat 32 old, BitVec.ofNat 32 (old / 2 ^ 32)] else [BitVec.ofNat 32 old]

/-! ## Global atomics (R213 to R215) -/

/-- One atomic update at its home: the old value and the state after it. -/
def State.rmw (s : State) (op : Aop) (pa x y : Nat) : Nat × State :=
  let old := s.mem.nat pa (aopBytes op)
  match aopNew op old x y with
  | none => (old, s)
  | some new =>
    let s1 := (s.perform (s.heeded (cellsFrom pa (bytesOfNat (aopBytes op) new)))).touchRo s.curWg [lineOf pa]
    (old, if hostAperture pa then { s1 with hostWrites := s1.hostWrites ++ [⟨s.curCore, lineOf pa⟩] } else s1)

/-- The lanes of an atomic in increasing order, each seeing the one before; the old value of each. -/
def State.rmwLanes (s : State) (op : Aop) (ts : List (Elem × Trans)) (arg : Nat → Nat × Nat) : Tab (List Word) × State :=
  ts.foldl (fun (p : Tab (List Word) × State) x =>
    let (old, t) := p.2.rmw op x.2.pa (arg x.1.lane).1 (arg x.1.lane).2
    (p.1 ++ [(x.1.lane, aopWords op old)], t)) ([], s)

/-- The lines an access acts on at their home are performed first, and every other copy of them is invalidated (R94); a line
of a duplicated page waits for its collapse (R395). -/
def State.ownLines (s : State) (pas : List Nat) : State :=
  (pas.map lineOf).eraseDups.foldl (fun s l =>
    match s.dupOf (l * 128) with
    | some i => s.startCollapse i
    | none => { s.performLine s.curCore l with old := (s.performLine s.curCore l).old.filter (fun o => decide (o.line ≠ l)) }) s

/-- An ordering that releases, and one that acquires. -/
def ordReleases : Ord → Bool
  | .rel | .ar => true
  | .rlx | .acq => false
def ordAcquires : Ord → Bool
  | .acq | .ar => true
  | .rlx | .rel => false

/-- ATOM and RED: the checks, the commit, the release, then the lanes. `eff` takes the old values and the faulting
elements. -/
def State.atomic (s : State) (q : QReg) (x : AtomMod) (a : VSrc) (arg : Nat → Nat × Nat) (returning : Bool)
    (eff : Tab (List Word) → List Elem → State → State) : State :=
  let r := Rec.ofBits (s.src.qreg q.val)
  let w := aopBytes x.op
  let es := elemsOf r s.active x.off.toInt w (fun l => s.src.v32 l a)
  if r.rdonly then s.raise (s.elemTrap causeAccess q.val es)
  else
    match s.checkElems r q.val w w es with
    | some t => (s.noteOob q.val es).raise t
    | none =>
      let go := fun (ts : List (Elem × Trans)) (absent : List Elem) =>
        let here := ts.filter (fun y => !y.2.isAbsent)
        if here.any (fun y => s.sideWaits s.curCore s.curWg s.curCtx y.1.a) then s.retry .stalled
        else if !s.sideRoom absent then s.awaitPage 1 q.val absent
        else
          (if ordReleases x.ord then s.releasing x.scope else fun eff => eff s) (fun s1 =>
            let s2 := (s1.commit s1.curWg).ownLines (here.map (fun y => y.2.pa))
            if here.any (fun y => (s2.dupOf y.2.pa).isSome) then s2.retry .stalled
            else
              let lost := here.filter (fun y => s2.lost (lineOf y.2.pa))
              match lost with
              | y :: _ => (s.noteOob q.val es).consume (laneSet (lost.map Prod.fst)) (faddrOf (lost.map Prod.fst)) y.2.pa
              | [] =>
                let s3 := ((s2.noteOob q.val es).touchAll s.curCore true (here.map Prod.snd)).hotCount s.curCore
                  (here.map (fun y => y.2.pa))
                let (olds, s4) := s3.rmwLanes x.op here arg
                eff olds absent s4)
      match s.reach q.val (.write r.xdata) es with
      | .access t bad va => (s.noteOob q.val es).refuse t bad va
      | .some ts absent => if returning then s.awaitPage 0 q.val absent else go ts absent
      | .all ts => go ts []

def execAtom (q : QReg) (x : AtomMod) (d : VReg) (a : VSrc) (s : State) : Out :=
  recForm (.atom q x d a) q
    (fun s => s.atomic q x a (fun l => s.src.groupOperands l x.op d) true (fun olds _ t =>
      let n := if aopWide x.op then 2 else 1
      let data := (lanesOf t.active).map (fun l => (l, (tabGet olds l).getD (List.replicate n 0#32)))
      (t.owe .atomic (.vec (s.src.wb + d.val) n) t.active data 0 0#32 (ordAcquires x.ord)).adv)) s

def execRed (q : QReg) (x : AtomMod) (d a : VSrc) (s : State) : Out :=
  recForm (.red q x d a) q
    (fun s => s.atomic q x a (fun l => (s.src.redOperand l x.op d, 0)) false (fun _ absent t =>
      (t.sideLogAdd q.val absent (some x.op) (Rec.ofBits (s.src.qreg q.val)).xdata
        (fun l => bytesOfNat (aopBytes x.op) (s.src.redOperand l x.op d))).adv)) s

/-! ## Fences (R216, R217) -/

/-- A fence that acquires only: the paddock loads before it are performed; every other load reads its value at its own issue
(R92). At scope lane it orders nothing. -/
noncomputable def execFenceAcq (scope : Scope) (s : State) : Out :=
  plain (.fenceAcq scope) (fun s => (if scope.code = 0 then s else s.padAll s.curWg).stillHere s.iss.key State.adv) s
noncomputable def execFenceRel (scope : Scope) (s : State) : Out := plain (.fenceRel scope) (fun s => s.releasing scope State.adv) s
noncomputable def execFenceAr (scope : Scope) (s : State) : Out := plain (.fenceAr scope) (fun s => s.releasing scope State.adv) s
/-- The order of the sc fences is the order in which they issue (R93). -/
noncomputable def execFenceSc (scope : Scope) (s : State) : Out := plain (.fenceSc scope) (fun s => s.releasing scope State.adv) s

/-- What a FENCERO drops of the path cache: at group scope or narrower the lines the workgroup has written since its last
one; wider all of it, with the weight cache (R217, R271). The workgroup's path reads see the stores it has buffered from then
on (R104). -/
def State.dropPathOf (s : State) (wg : Nat) (scope : Scope) : State :=
  let own := (s.wg wg).roTouched
  (s.modCore (s.wg wg).core (fun c =>
    if 3 ≤ scope.code then { c with path := [], weights := [] }
    else { c with path := c.path.filter (fun l => !own.contains l.1) })).modWg wg (fun w => { w with roTouched := [], roSeen := w.sbuf })

/-- At scope cluster or wider a FENCERO first acts as an acquire (R217). -/
noncomputable def execFencero (scope : Scope) (s : State) : Out :=
  plain (.fencero scope) (fun s =>
    (if 3 ≤ scope.code then s.padAll s.curWg else s).stillHere s.iss.key (fun t => (t.dropPathOf t.curWg scope).adv)) s

/-! ## STREL and LDACQ -/

/-- A release, then its store; at cluster or wider that store leaves with it (R86). -/
noncomputable def execStrel (q : QReg) (w : Width) (x : ScopeMod) (d a : VSrc) (s : State) : Out :=
  recForm (.strel q w x d a) q (fun s =>
    s.recordStore q w x.off.toInt d a (fun t =>
      s.releasing x.scope (fun s1 =>
        let t1 := s1.recordStore q w x.off.toInt d a State.adv
        if 3 ≤ x.scope.code then t1.commit t.curWg else t1))) s

noncomputable def execLdacq (q : QReg) (w : Width) (x : ScopeMod) (d : VDst) (a : VSrc) (s : State) : Out :=
  recForm (.ldacq q w x d a) q (fun s => s.recordLoad q w x.off.toInt d a false true) s

end Sys2Proof.Machine
end

