-- ==== Sys2Proof/Machine/Tethers.lean ====
section
/-! DEFINITION. Machine/Tethers.lean: WAITU (R218) and the life of a tether: arming, waking, timing out (R102, R219 to
R222), with the spill area (R221, R345). -/

namespace Sys2Proof.Machine

open Sys2Proof

/-! ## WAITU -/

/-- Write the value and status of a WAITU that ends at once. -/
def State.waituNow (s : State) (wide : Bool) (d : SReg) (value status : Nat) : State :=
  let s1 := s.putS d.val (word32 value)
  if wide then (s1.putS (d.val + 1) (word32 (value / 2 ^ 32))).putS (d.val + 2) (word32 status)
  else s1.putS (d.val + 1) (word32 status)

/-- The home address of an element's location (R394). -/
def homePa (va : Nat) (t : Trans) : Nat :=
  match t with
  | .ok _ leaf page => ptePa leaf + (va - page.va)
  | .absent | .denied | .malformed _ => 0

/-- Any buffered store of a workgroup to a location. -/
def State.buffers (s : State) (wg pa n : Nat) : Bool := (List.range n).any (fun i => (tabGet (s.wg wg).sbuf (pa + i)).isSome)

noncomputable def execWaitu (q : QReg) (wide : Bool) (d : SReg) (a : USrc) (x : WaitMod) (s : State) : Out :=
  recForm (.waitu q wide d a x) q (fun s =>
    let r := Rec.ofBits (s.src.qreg q.val)
    let w := if wide then 8 else 4
    let es := elemsOf r s.active 0 w (fun _ => s.src.u32 a)
    s.reading q.val w w r es 0 (fun ts t =>
      match ts with
      | [] => (t.waituNow wide d 0 3).adv
      | y :: _ =>
        let pa := homePa y.1.a y.2
        let t1 := if t.buffers t.curWg pa w then t.commit t.curWg else t
        let (id, t2) := t1.freshId
        let y := if wide then (s.src.sreg64 x.opnd.val).toNat else (s.src.sreg x.opnd.val).toNat
        let tmo := (s.src.sreg x.tmo.val).toNat
        let tether : Tether :=
          ⟨id, pa, wide, x.cmp, y, if tmo = 0 then none else some tmo, t.curCtx, .wave s.iss.key, none, false, x.scope⟩
        (({ t2 with unarmed := t2.unarmed ++ [tether] }).modCur (fun v => { v with wait := .waitu d.val wide })).adv)) s

/-! ## Arming (R102, R221) -/

/-- The entries of a context's spill area in use. -/
def State.spillUsed (s : State) (ctx : Nat) : Nat :=
  (s.tethers.filter (fun t => decide (t.ctx = ctx) && t.spill.isSome)).length

/-- The first free entry of a context's spill area. -/
def State.freeSpill (s : State) (ctx : Nat) : Option Nat :=
  (List.range (s.spillUsed ctx + 1)).find? (fun i =>
    decide (i < (s.ctx ctx).spillcap) && !s.tethers.any (fun t => decide (t.ctx = ctx) && decide (t.spill = some i)))

/-- Room in the table of a home die. -/
def State.tableRoom (s : State) (die : Nat) : Bool :=
  decide ((s.tethers.filter (fun t => t.spill.isNone && decide (homeDie t.pa = die))).length < s.tableCap)

/-- The number a comparison's code stands for in WATCH. -/
def Tether.watch (t : Tether) : Nat := t.pa + t.cmp.code * 2 ^ 46 + t.wide.toNat * 2 ^ 49 + 2 ^ 50

/-- A waiter's number in a spill entry: what the model takes for the context-local number (log entry 9). -/
def State.waiterNumber (s : State) : Waiter → Nat
  | .wave k => (s.wave k).wg * 32 + (s.wave k).index
  | .saved g i => g * 32 + i
  | .ray id => id
  | .grid id => id

/-- The entry of a spilled tether (Table 19.9): NEXT names the next entry on the same line. -/
def State.spillEntry (s : State) (t : Tether) (i : Nat) : List Byte :=
  let later := s.tethers.filter (fun u => decide (u.ctx = t.ctx) && decide (lineOf u.pa = lineOf t.pa) && decide (i < u.spill.getD 0))
  let next := later.foldl (fun n u => if n = 0 then u.spill.getD 0 + 1 else Nat.min n (u.spill.getD 0 + 1)) 0
  bytesOfNat 8 t.watch ++ bytesOfNat 8 t.opnd ++ bytesOfNat 8 (t.deadline.getD 0) ++ bytesOfNat 4 (s.waiterNumber t.waiter) ++ bytesOfNat 4 next

/-- Write the spill area of a context as its spilled tethers stand. -/
def State.syncSpill (s : State) (ctx : Nat) : State :=
  (s.tethers.filter (fun t => decide (t.ctx = ctx))).foldl (fun u t =>
    match t.spill with
    | some i => u.hubWrite ctx ((u.ctx ctx).spillbase + 64 + 32 * i) (u.spillEntry t i)
    | none => u) s

/-- At the end of a step the entries it has freed are written invalid, and the lists they stood in are linked anew (R345). -/
def State.tidySpill (s : State) : State :=
  match s.freed with
  | [] => s
  | fs =>
    let s1 := fs.foldl (fun u f => u.hubWrite f.1 ((u.ctx f.1).spillbase + 64 + 32 * f.2) (bytesOfNat 32 0)) { s with freed := [] }
    (fs.map Prod.fst).eraseDups.foldl State.syncSpill s1

/-- A tether of a saved wave that is armed only now has its deadline noted in the wave's status block (Table 19.8). -/
def State.noteDeadline (s : State) (t : Tether) : State :=
  match t.waiter, t.deadline with
  | .saved wg ix, some d => s.setStatus wg ix [(6, word32 d), (7, word32 (d / 2 ^ 32))]
  | _, _ => s

/-- One atomic step at the home: the comparison holds and a wake with status 2 is posted, or the tether is armed in the
table or the spill area, or it stays parked and an error record reports it. -/
def State.arm (s : State) (t : Tether) : State :=
  let value := s.mem.nat t.pa t.bytes
  let s1 := { s with unarmed := s.unarmed.filter (fun u => decide (u.id ≠ t.id)) }
  if cmpHolds t.cmp t.wide value t.opnd then { s1 with wakes := s1.wakes ++ [⟨t.waiter, value, 2⟩] }
  else
    let armed := { t with deadline := t.deadline.map (fun d => s.now + d), parked := false }
    if s1.tableRoom (homeDie t.pa) then ({ s1 with tethers := s1.tethers ++ [armed] }).noteDeadline armed
    else
      match s1.freeSpill t.ctx with
      | some i => (({ s1 with tethers := s1.tethers ++ [{ armed with spill := some i }] }).syncSpill t.ctx).noteDeadline armed
      | none =>
        let s2 := { s with unarmed := s.unarmed.map (fun u => if u.id = t.id then { u with parked := true } else u) }
        if t.parked then s2 else s2.report { Report.plain 0x24 1 with ctx := t.ctx, addr := t.pa }

/-- A store its own core has committed to the location, and not performed, stands before the arming (R218). -/
def State.armBlocked (s : State) (t : Tether) : Bool :=
  match t.waiter with
  | .wave key => (s.core (keyCore key)).committed.any (fun c => decide (c.line = lineOf t.pa))
  | .saved .. | .ray _ | .grid _ => false

/-- TETHER_ARM: the first arming of a tether. -/
noncomputable def execTetherArm (id : Nat) (s : State) : Out :=
  match s.unarmed.find? (fun t => decide (t.id = id) && !t.parked) with
  | some t => .next (if s.armBlocked t then s else s.arm t)
  | none => .next s

/-- TETHER_ARM_RETRY: a parked tether arms again once an entry is free. -/
noncomputable def execTetherArmRetry (id : Nat) (s : State) : Out :=
  match s.unarmed.find? (fun t => decide (t.id = id) && t.parked) with
  | some t => .next (if s.tableRoom (homeDie t.pa) || (s.freeSpill t.ctx).isSome then s.arm t else s)
  | none => .next s

/-! ## Waking (R219, R220) -/

/-- TETHER_WAKE: a posted wake reaches its wave, which writes value and status and is ready. -/
noncomputable def execTetherWake (index : Nat) (s : State) : Out :=
  match s.wakes[index]? with
  | none => .next s
  | some k =>
    match k.waiter with
    | .wave key =>
      .next (({ s with wakes := s.wakes.eraseIdx index }).modWave key (fun w => w.wake k.value k.status))
    | .saved .. | .ray _ | .grid _ => .next s

/-- TETHER_TIMEOUT: an armed tether's deadline has passed; status 1 with the value then at the home. -/
noncomputable def execTetherTimeout (id : Nat) (s : State) : Out :=
  match s.tethers.find? (fun t => decide (t.id = id)) with
  | none => .next s
  | some t =>
    match t.deadline with
    | none => .next s
    | some d =>
      if d ≤ s.now then
        .next { s with
          tethers := s.tethers.filter (fun u => decide (u.id ≠ id))
          freed := s.freed ++ spilledEntries [t]
          wakes := s.wakes ++ [⟨t.waiter, s.mem.nat t.pa t.bytes, 1⟩] }
      else .next s

end Sys2Proof.Machine
end

