-- ==== Sys2Proof/Machine/Pen.lean ====
section
/-! DEFINITION. Machine/Pen.lean: class 9 (9.7): the pen, the paddock, the commons and ATOMP, whose passes PENPASS counts
(R41). -/

namespace Sys2Proof.Machine

open Sys2Proof

/-! ## Pen accesses (R36, R95) -/

/-- `trunc32(vget(lane, A, 32) + off7 × w)` (R211). -/
def Wave.penAddr (w : Wave) (l : Nat) (a : VSrc) (off : BitVec 7) (bytes : Nat) : Nat :=
  ((w.v32 l a).toNat + off.toNat * bytes) % 2 ^ 32

/-- The staging window is open to a wave: handler mode, of the lessee, in a PREEMPT entry (R370). -/
def State.windowOpen (s : State) : Bool :=
  let w := s.cur
  w.handler && decide (w.trap.toNat % 256 = causePreempt) && decide ((s.core s.curCore).array.lessee = some w.wg)

/-- Bytes of a pen, or of the window, that hold an access. -/
def State.penHolds (s : State) (a w : Nat) : Bool :=
  decide (a + w ≤ (s.wg s.curWg).penBytes) || (s.windowOpen && decide (windowBase ≤ a) && decide (a + w ≤ windowEnd))

/-- The active lanes' pen addresses. -/
def State.penElems (s : State) (a : VSrc) (off : BitVec 7) (w : Nat) : List Elem :=
  (lanesOf s.active).map (fun l => let p := s.src.penAddr l a off w; ⟨l, s.penHolds p w, (p : Int)⟩)

/-- Write the registers of a destination in place. -/
def State.putWords (s : State) (d : VDst) (n : Nat) (data : Nat → List Word) : State :=
  match d with
  | .reg r => (List.range n).foldl (fun t i => t.putV t.active (r.val + i) (fun l => (data l).getD i 0#32)) s
  | .discard => s

/-- Lanes that read a poisoned word of a pen (R415). -/
def State.penLost (s : State) (wg w : Nat) (es : List Elem) : List Elem :=
  es.filter (fun e => (wordsOf e.a w).any (fun x => (s.wg wg).penPoison.contains x))

/-- Use of the window claims it from an L1 way (R370). -/
def State.claimWindow (s : State) (es : List Elem) : State :=
  if es.any (fun e => decide (windowBase ≤ e.a)) then
    s.modCore s.curCore (fun c => { c with window := some (c.window.getD []) })
  else s

def execLdp (w : Width) (d : VDst) (a : VSrc) (off : BitVec 7) (s : State) : Out :=
  checked (.ldp w d a off) lawful (fun s => s.offsetTrap w.bytes (s.penElems a off w.bytes))
    (fun s =>
      let es := s.penElems a off w.bytes
      let lost := s.penLost s.curWg w.bytes es
      if !lost.isEmpty then s.consume (laneSet lost) (faddrOf lost) 0
      else
        let s1 := s.claimWindow es
        let data := fun l => widthLoad w (s1.penBytesAt s1.curWg (s1.src.penAddr l a off w.bytes) w.bytes)
        ((s1.putWords d w.regs data).modCur (fun v => v.addPasses (passesOf w.bytes (es.map (fun e => (e.lane, e.a)))))).adv) s

def execStp (w : Width) (d a : VSrc) (off : BitVec 7) (s : State) : Out :=
  checked (.stp w d a off) lawful (fun s => s.offsetTrap w.bytes (s.penElems a off w.bytes))
    (fun s =>
      let es := s.penElems a off w.bytes
      let s1 := es.foldl (fun t e => t.penSet t.curWg e.a (s.src.storeData e.lane d w)) (s.claimWindow es)
      (s1.modCur (fun v => v.addPasses (passesOf w.bytes (es.map (fun e => (e.lane, e.a)))))).adv) s

/-- One lane's update of a pen word. -/
def State.penRmw (s : State) (op : Aop) (a x y : Nat) : Nat × State :=
  let old := s.penNat s.curWg a (aopBytes op)
  match aopNew op old x y with
  | none => (old, s)
  | some new => (old, s.penSet s.curWg a (bytesOfNat (aopBytes op) new))

def execAtomp (op : Aop) (d : VReg) (a : VSrc) (off : BitVec 7) (spare : BitVec 6) (s : State) : Out :=
  checked (.atomp op d a off spare) lawful (fun s => s.offsetTrap (aopBytes op) (s.penElems a off (aopBytes op)))
    (fun s =>
      let es := s.penElems a off (aopBytes op)
      let lost := s.penLost s.curWg (aopBytes op) es
      if !lost.isEmpty then s.consume (laneSet lost) (faddrOf lost) 0
      else
        let (olds, s1) := es.foldl (fun (p : Tab (List Word) × State) e =>
          let (old, t) := p.2.penRmw op e.a (s.src.groupOperands e.lane op d).1 (s.src.groupOperands e.lane op d).2
          (p.1 ++ [(e.lane, aopWords op old)], t)) (([] : Tab (List Word)), s.claimWindow es)
        let s2 := s1.putWords (.reg d) (if aopWide op then 2 else 1) (fun l => (tabGet olds l).getD [])
        (s2.modCur (fun v => v.addPasses (atomPasses (aopBytes op) (es.map (fun e => (e.lane, e.a)))))).adv) s

/-! ## The paddock (R37, R96) -/

/-- RANK and OFFSET of a paddock address (Table 2.2). -/
def padRank (a : Nat) : Nat := a / 2 ^ 20 % 8
def padOffset (a : Nat) : Nat := a % 2 ^ 20

/-- The workgroup of a rank of the issuing wave's drove. -/
def State.rankWg (s : State) (rank : Nat) : Option Nat := (s.drove (s.wg s.curWg).drove).wgs[rank]?

/-- The checks of R37 for one address: the rank exists, the upper bits are zero, the bytes lie in that pen. -/
def State.padHolds (s : State) (a w : Nat) : Bool :=
  decide (a < 2 ^ 23) && (match s.rankWg (padRank a) with
    | some g => decide (padOffset a + w ≤ (s.wg g).penBytes)
    | none => false)

def State.padElems (s : State) (a : VSrc) (off : BitVec 7) (w : Nat) : List Elem :=
  (lanesOf s.active).map (fun l => let p := s.src.penAddr l a off w; ⟨l, s.padHolds p w, (p : Int)⟩)

/-- Queue an access for each rank named, in rank order. -/
def State.padQueue (s : State) (w : Width) (es : List Elem) (store : Bool) (bytes : Nat → List Byte) (owed : Option Nat) : State :=
  (List.range 8).foldl (fun t rank =>
    let mine := es.filter (fun e => decide (padRank e.a = rank))
    match mine, t.rankWg rank with
    | _ :: _, some g =>
      let (id, t1) := t.freshId
      t1.modCore t.curCore (fun c => { c with
        paddock := c.paddock ++ [⟨id, s.iss.key, rank, g, w.bytes, decide (w = .w1 ∨ w = .w2), store,
          mine.map (fun e => (e.lane, padOffset e.a, bytes e.lane)), owed, s.cur.handler⟩] })
    | _, _ => t) s

def execLdpd (w : Width) (d : VDst) (a : VSrc) (off : BitVec 7) (s : State) : Out :=
  checked (.ldpd w d a off) lawful (fun s => s.offsetTrap w.bytes (s.padElems a off w.bytes))
    (fun s =>
      let s1 := s.owed .load d w.regs false []
      let owed := match d with
        | .reg _ => some s.fresh
        | .discard => none
      (s1.padQueue w (s.padElems a off w.bytes) false (fun _ => []) owed).adv) s

/-- An STPD that names another rank ends the drove's replayable period (R88). -/
def execStpd (w : Width) (d a : VSrc) (off : BitVec 7) (s : State) : Out :=
  checked (.stpd w d a off) lawful (fun s => s.offsetTrap w.bytes (s.padElems a off w.bytes))
    (fun s =>
      let es := s.padElems a off w.bytes
      let away := es.any (fun e => decide (padRank e.a ≠ (s.wg s.curWg).rank))
      let s1 := s.padQueue w es true (fun l => s.src.storeData l d w) none
      (if away then s1.modDrove (s.wg s.curWg).drove (fun x => { x with replayable := false }) else s1).adv) s

/-- PADDOCK_ACCESS_PERFORM: one lane's accesses to one rank keep their order, so the first of its wave to that rank goes. -/
noncomputable def execPaddockAccessPerform (core id : Nat) (s : State) : Out :=
  match (s.core core).paddock.find? (fun p => decide (p.id = id)) with
  | none => .next s
  | some p =>
    match (s.core core).paddock.find? (fun x => decide (x.wave = p.wave) && decide (x.rank = p.rank)) with
    | some x => .next (if x.id = p.id then s.padPerform core p else s)
    | none => .next s

/-! ## The commons (R45, R97) -/

def State.comElems (s : State) (a : VSrc) (off : BitVec 7) (w : Nat) : List Elem :=
  (lanesOf s.active).map (fun l =>
    let p := s.src.penAddr l a off w
    ⟨l, decide (p + w ≤ (s.ctx s.curCtx).commonsSize), (p : Int)⟩)

/-- A commons block that is poisoned, or whose die no longer serves (R334, R408). -/
def State.comLost (s : State) (es : List Elem) : List Elem :=
  es.filter (fun e => (s.ctx s.curCtx).commonsPoison.contains (lineOf e.a) ||
    !(s.dies.getD (e.a / 4096 % 6) MemDie.init).live)

def execLdc (w : Width) (d : VDst) (a : VSrc) (off : BitVec 7) (s : State) : Out :=
  checked (.ldc w d a off) lawful (fun s => s.offsetTrap w.bytes (s.comElems a off w.bytes))
    (fun s =>
      let es := s.comElems a off w.bytes
      let lost := s.comLost es
      if !lost.isEmpty then s.consume (laneSet lost) (faddrOf lost) 0
      else (s.owed .load d w.regs false
        (es.map (fun e => (e.lane, widthLoad w ((s.ctx s.curCtx).commons.getBytes e.a w.bytes))))).adv) s

/-- Blocks of 128 bytes that one store writes whole. -/
def wholeBlocks (cells : List (Nat × Byte)) : List Nat :=
  ((cells.map (fun c => lineOf c.1)).eraseDups).filter (fun b =>
    decide (((cells.map Prod.fst).eraseDups.filter (fun a => decide (lineOf a = b))).length = 128))

/-- An STC is performed at its home at once and ends the replayable period (R88, R97). -/
def execStc (w : Width) (d a : VSrc) (off : BitVec 7) (s : State) : Out :=
  checked (.stc w d a off) lawful (fun s => s.offsetTrap w.bytes (s.comElems a off w.bytes))
    (fun s =>
      let cells := (s.comElems a off w.bytes).foldl (fun cs e => cs ++ cellsFrom e.a (s.src.storeData e.lane d w)) []
      let s1 := s.modCtx s.curCtx (fun c => { c with
        commons := c.commons.setCells cells
        commonsPoison := c.commonsPoison.filter (fun b => !(wholeBlocks cells).contains b) })
      (s1.modDrove (s.wg s.curWg).drove (fun x => { x with replayable := false })).adv) s

end Sys2Proof.Machine
end

