-- ==== Sys2Proof/Machine/Async.lean ====
section
/-! DEFINITION. Machine/Async.lean: class 0xB (chapter 10): the drover's requests and tickets, folds, remote arrivals and
the per-wave counters. -/

namespace Sys2Proof.Machine

open Sys2Proof

/-- A drove being prepared for a save, or whose start is awaited, issues nothing outside handler mode (R355, R368). -/
def DrovePhase.halts : DrovePhase → Bool
  | .draining _ => true
  | .resident | .saved | .relaunch | .restoring | .ended => false

/-! ## Counters (R100, R242) -/

/-- Class numbers of MTX, FLK and TRC. -/
def clsMtx : Nat := 0
def clsFlk : Nat := 1
def clsTrc : Nat := 2

def Counts.get (c : Counts) (k : Nat) : Nat := if k = 0 then c.mtx else if k = 1 then c.flk else c.trc
def Counts.set (c : Counts) (k n : Nat) : Counts :=
  if k = 0 then { c with mtx := n } else if k = 1 then { c with flk := n } else { c with trc := n }

/-- A wave blocked at WAITC continues once its count has come down (R243). -/
def Wave.waitcCheck (w : Wave) : Wave :=
  match w.wait with
  | .waitc c t => if w.counts.get c ≤ t then { w with wait := .none } else w
  | .none | .waitu .. | .fwait .. | .gbar | .sleept _ | .cairnw _ | .page .. | .fdiv => w

/-- Credit the completed operations of a class that no older one of the class precedes (R100). -/
def creditPrefix (cls : Nat) : List Counted → List Counted × Nat
  | [] => ([], 0)
  | o :: r =>
    if o.cls = cls then
      if o.complete then let (r', n) := creditPrefix cls r; (r', n + 1) else (o :: r, 0)
    else let (r', n) := creditPrefix cls r; (o :: r', n)

/-- An operation of a wave completes: its completion and those behind it are credited in issue order (R100). -/
def Wave.completeOp (w : Wave) (id : Nat) : Wave :=
  match w.ops.find? (fun o => decide (o.id = id)) with
  | none => w
  | some o =>
    let (ops, n) := creditPrefix o.cls (w.ops.map (fun x => if x.id = id then { x with complete := true } else x))
    { w with ops := ops, counts := w.counts.set o.cls (w.counts.get o.cls - n) }.waitcCheck

/-- A counted instruction adds one at issue and its operation takes a number; at 255 its lanes are held (R242). -/
def State.counted (s : State) (cls : Nat) (eff : Nat → State → State) : State :=
  if 255 ≤ s.cur.counts.get cls then s.retry .stalled
  else
    let (id, s1) := s.freshId
    eff id (s1.modCur (fun w =>
      { w with counts := w.counts.set cls (w.counts.get cls + 1), ops := w.ops ++ [⟨cls, id, false⟩] }))

/-! ## Folds (R234 to R240) -/

/-- A fold before its first FINIT, with nothing held. -/
def FoldState.init0 : FoldState := ⟨false, 0, 0, List.replicate 8 0#32, 0, false, false, false, false⟩

/-- Complete phases as long as arrivals and counters allow (R238). -/
def FoldState.completeAux : Nat → FoldState → FoldState
  | 0, f => f
  | fuel + 1, f =>
    if f.init && decide (0 < f.members) && decide (f.members ≤ f.arrived) && f.counts.all (fun c => decide (c = 0#32)) then
      FoldState.completeAux fuel { f with
        arrived := f.arrived - f.members
        phase := (f.phase + 1) % 256
        lastErr := f.err
        lastRemote := f.remote
        err := false
        remote := false }
    else f
def FoldState.complete (f : FoldState) : FoldState := f.completeAux (f.arrived + 1)

/-- An arrival; ARRIVED has 11 bits (R237). -/
def FoldState.arrive (f : FoldState) (far : Bool) : FoldState :=
  { f with arrived := (f.arrived + 1) % 2048, remote := f.remote || (far && f.init) }.complete

/-- `n` bytes credited to a slot, held as a debt below zero before the first FINIT (R235, R236). -/
def FoldState.credit (f : FoldState) (slot n : Nat) (bad : Bool) : FoldState :=
  { f with counts := modAt f.counts slot (fun c => c - BitVec.ofNat 32 n), err := f.err || bad }.complete

/-- FINIT: the first initialises, every one sets MEMBERS and applies the completion rule (R235). -/
def FoldState.finit (f : FoldState) (members : Nat) : FoldState :=
  if f.init then { f with members := members }.complete
  else { f with init := true, members := members, phase := 0, remote := decide (0 < f.arrived) }.complete

/-- Whether phase `p` has completed (R239). -/
def FoldState.past (f : FoldState) (p : Nat) : Bool :=
  let d := (f.phase + 256 - p % 256) % 256
  decide (1 ≤ d) && decide (d ≤ 127)

def FoldState.status (f : FoldState) : Word := if f.lastErr then 3#32 else 1#32

def State.fold (s : State) (wg k : Nat) : FoldState := ((s.wg wg).folds.getD k FoldState.init0)
def State.modFold (s : State) (wg k : Nat) (f : FoldState → FoldState) : State :=
  s.modWg wg (fun w => { w with folds := modAt w.folds k f })

/-- A fold number not below the workgroup's `.folds` (R224). -/
def State.noFold (s : State) (k : Fold) : Bool := decide ((s.wg s.curWg).folds.length ≤ k.val)
/-- A fold that does not exist or has no INIT (R235). -/
def State.rawFold (s : State) (k : Fold) : Bool := s.noFold k || !(s.fold s.curWg k.val).init

/-- A trap that belongs to no record (Table 21.1). -/
def State.trap16 (s : State) (cause faddr : Nat) : TrapReq := s.mkTrap cause 16 s.active faddr

noncomputable def execFinit (k : Fold) (a : USrc) (s : State) : Out :=
  checked (.finit k a) (fun s => s.noFold k)
    (fun s =>
      let m := (s.src.u32 a).toNat
      if m = 0 ∨ 1023 < m then some (s.trap16 causeBounds 0) else none)
    (fun s => (s.modFold s.curWg k.val (fun f => f.finit (s.src.u32 a).toNat)).adv) s

/-- FARRIVE: a release at group scope (R237, R240). -/
noncomputable def execFarrive (d : UDst) (k : Fold) (s : State) : Out :=
  checked (.farrive d k) (fun s => s.rawFold k) noTrap
    (fun s => (s.release s.curWg .group).stillHere s.iss.key (fun s =>
      ((s.modFold s.curWg k.val (fun f => f.arrive false)).putU d (BitVec.ofNat 32 (s.fold s.curWg k.val).phase)).adv)) s

/-- FARRIVE.RANK: a release at cluster scope, posted; the lanes continue (R237). -/
noncomputable def execFarriveRank (k : Fold) (b : USrc) (s : State) : Out :=
  checked (.farriveRank k b) (fun s => s.noFold k)
    (fun s => if (s.rankWg (s.src.u32 b).toNat).isNone then some (s.trap16 causeBounds 0) else none)
    (fun s =>
      match s.rankWg (s.src.u32 b).toNat with
      | none => s
      | some g =>
        (s.release s.curWg .cluster).stillHere s.iss.key (fun s1 =>
          ({ s1 with arrivals := s1.arrivals ++ [(⟨g, k.val, s.iss.key, s.curWg, s.curCore⟩ : Arrival)] } : State).adv)) s

/-- FEXPECT raises the debt of a slot (R236). -/
noncomputable def execFexpect (k : Fold) (a b : USrc) (s : State) : Out :=
  checked (.fexpect k a b) (fun s => s.rawFold k) noTrap
    (fun s => (s.modFold s.curWg k.val (fun f =>
      { f with counts := modAt f.counts (fld (s.src.u32 a) 0 3) (fun c => c + s.src.u32 b) }.complete)).adv) s

/-- The phase an operand names. -/
def Wave.phaseArg (w : Wave) (b : USrc) : Nat := fld (w.u32 b) 0 8

/-- The s register of a destination. -/
def destReg (d : UDst) : Option Nat :=
  match d with
  | .reg n => some n.val
  | .discard => none

/-- FWAIT: status at once, or the whole wave waits for the phase. -/
noncomputable def execFwait (d : UDst) (k : Fold) (b : USrc) (s : State) : Out :=
  checked (.fwait d k b) (fun s => s.rawFold k) noTrap
    (fun s =>
      let f := s.fold s.curWg k.val
      let p := s.src.phaseArg b
      if f.past p then (s.putU d f.status).adv
      else (s.modCur (fun w => { w with wait := .fwait (destReg d) k.val p })).adv) s

noncomputable def execFtest (d : UDst) (k : Fold) (b : USrc) (s : State) : Out :=
  checked (.ftest d k b) (fun s => s.rawFold k) noTrap
    (fun s =>
      let f := s.fold s.curWg k.val
      (s.putU d (if f.past (s.src.phaseArg b) then f.status else 0#32)).adv) s

/-- FWAIT_WAKE: the phase a wave waits for has completed (R239). -/
noncomputable def execFwaitWake (key : Nat) (s : State) : Out :=
  let w := s.wave key
  match w.wait with
  | .fwait d k p =>
    let f := s.fold w.wg k
    .next (if f.past p then s.modWave key (fun w => { w with
        wait := .none
        s := match d with
          | some r => setAt w.s r f.status
          | Option.none => w.s })
      else s)
  | .none | .waitu .. | .waitc .. | .gbar | .sleept _ | .cairnw _ | .page .. | .fdiv => .next s

/-- A posted arrival goes once the release it makes has completed and no earlier one of its wave at its target is left. -/
def State.arrivalReady (s : State) (i : Nat) (a : Arrival) : Bool :=
  !s.releaseHeld a.core a.wg 3 && !((s.arrivals.take i).any (fun b => decide (b.wave = a.wave) && decide (b.target = a.target)))

/-- REMOTE_ARRIVAL_APPLY (R237). -/
noncomputable def execRemoteArrivalApply (index : Nat) (s : State) : Out :=
  match s.arrivals[index]? with
  | none => .next s
  | some a =>
    .next (if s.arrivalReady index a then
      ({ s with arrivals := s.arrivals.eraseIdx index }).modFold a.target a.fold (fun f => f.arrive true)
    else s)

/-! ## Requests (R225, R226) -/

/-- The fields of a request record (Table 10.2). -/
structure Req where
  rsv : Nat
  stage : Nat
  credit : Bool
  slot : Nat
  fold : Nat
  mcast : Nat
  redop : Nat
  dkind : Nat
  skind : Nat
  dstride : Nat
  sstride : Nat
  rows : Nat
  width : Nat
  dst : Nat
  src : Nat
  deriving DecidableEq, Repr

def Req.ofNat (n : Nat) : Req :=
  ⟨nbits n 255 254, nbits n 253 248, nbits n 247 247 == 1, nbits n 246 244, nbits n 243 240, nbits n 239 232, nbits n 231 230,
    nbits n 229 227, nbits n 226 224, nbits n 223 192, nbits n 191 160, nbits n 159 148, nbits n 147 128, nbits n 127 64, nbits n 63 0⟩

/-- Bits of an address word that hold the address (Table 10.3). -/
def kindBits (k : Nat) : Nat :=
  match k with
  | 0 => 48
  | 1 => 20
  | 2 => 23
  | 3 => 32
  | _ => 64

/-- The rank a paddock or pen address names; none for a kind that is no pen. -/
def kindRank (own k a : Nat) : Option Nat := if k = 1 then some own else if k = 2 then some (padRank a) else none
/-- The address within its level. -/
def kindAddr (k a : Nat) : Nat := if k = 2 then padOffset a else if k = 4 then a % 2 ^ 48 else a

/-- The destinations of a request of a workgroup of rank `own`: the pen's rank, where it is a pen (R227). -/
def Req.dests (q : Req) (own : Nat) : List (Option Nat) :=
  if q.dkind = 2 ∧ q.mcast ≠ 0 then ((List.range 8).filter (fun r => q.mcast.testBit r)).map some
  else [kindRank own q.dkind q.dst]

/-- The element size of a reduction. -/
def Req.elem (q : Req) : Nat := if q.redop = 2 then 2 else 4

/-- The end of the rows of a side. -/
def Req.span (q : Req) (a stride : Nat) : Nat := a + (q.rows - 1) * stride + q.width

/-- The workgroup of a rank of a workgroup's drove. -/
def State.peerOf (s : State) (wg rank : Nat) : Option Nat := (s.drove (s.wg wg).drove).wgs[rank]?

/-- Whether a request credits an uninitialised fold of its own workgroup. -/
def State.creditsRaw (s : State) (wg : Nat) (q : Req) : Bool :=
  (q.dests (s.wg wg).rank).any (fun r => r.isNone || decide (r = some (s.wg wg).rank)) && !(s.fold wg q.fold).init

/-- Check 1 of R226; `held` for stage 0, whose credits are held. -/
def State.reqIllegal (s : State) (wg : Nat) (held : Bool) (q : Req) : Bool :=
  decide (q.rsv ≠ 0) || decide (4 < q.skind) || decide (4 < q.dkind) || decide (2 ^ kindBits q.skind ≤ q.src) ||
  decide (2 ^ kindBits q.dkind ≤ q.dst) || decide (q.rows = 0) || decide (q.width = 0) ||
  (decide (q.mcast ≠ 0) && decide (q.dkind ≠ 2)) ||
  (decide (q.redop ≠ 0) && (decide (q.dkind = 1) || decide (q.dkind = 2)) && decide (q.skind = 4)) ||
  (q.credit && (decide ((s.wg wg).folds.length ≤ q.fold) || (!held && s.creditsRaw wg q)))

/-- Whether a side reaches outside its pen, paddock target or commons window. -/
def State.sideOut (s : State) (wg : Nat) (q : Req) (k : Nat) (rank : Option Nat) (a stride : Nat) : Bool :=
  match rank with
  | some r =>
    (match s.peerOf wg r with
      | some g => decide ((s.wg g).penBytes < q.span a stride)
      | none => true)
  | none => decide (k = 3) && decide ((s.ctx (s.wgCtx wg)).commonsSize < q.span a stride)

/-- Check 2 of R226: the address of the side that fails it. -/
def State.reqBounds (s : State) (wg : Nat) (q : Req) : Option Nat :=
  let own := (s.wg wg).rank
  if s.sideOut wg q q.skind (kindRank own q.skind q.src) (kindAddr q.skind q.src) q.sstride then some q.src
  else if (q.dests own).any (fun r => s.sideOut wg q q.dkind r (kindAddr q.dkind q.dst) q.dstride) then some q.dst
  else none

/-- Check 3 of R226. -/
def Req.misaligned (q : Req) : Bool :=
  decide (q.redop ≠ 0) && [q.width, q.sstride, q.dstride, q.src, q.dst].any (fun x => decide (x % q.elem ≠ 0))

/-- Check 4 of R226: no VA of the model names a lane store (R35), so only the end of the space is left. -/
def Req.beyond (q : Req) : Option Nat :=
  let far := fun k a stride => (decide (k = 0) || decide (k = 4)) && decide (2 ^ 48 < q.span (kindAddr k a) stride)
  if far q.skind q.src q.sstride then some q.src else if far q.dkind q.dst q.dstride then some q.dst else none

/-- The checks of R226 over the records of one instruction, one kind of check after another: cause and address. -/
def State.reqsFail (s : State) (wg : Nat) (held : Bool) (qs : List Req) : Option (Nat × Nat) :=
  if qs.any (s.reqIllegal wg held) then some (causeIllegal, 0)
  else
    match qs.findSome? (s.reqBounds wg) with
    | some a => some (causeBounds, a)
    | none =>
      if qs.any Req.misaligned then some (causeMisalign, 0)
      else (qs.findSome? Req.beyond).map (fun a => (causeAccess, a))

/-- The trap of a failed check. -/
def State.reqTrap (s : State) (qs : List Req) : Option TrapReq :=
  (s.reqsFail s.curWg false qs).map (fun f =>
    if f.1 = causeIllegal then s.mkTrap causeIllegal 0 s.active 0 else s.trap16 f.1 f.2)

/-! ## Acceptance (R227, R230 to R233) -/

/-- Requests a drover holds at once (R232). -/
def droverSize : Nat := 256

/-- Accept requests in order: each takes the next ticket of its workgroup. -/
def State.acceptReqs (s : State) (wg : Nat) (rs : List Nat) : State :=
  rs.foldl (fun t r =>
    let (id, t1) := t.freshId
    let n := (t1.wg wg).tickets + 1
    (t1.modWg wg (fun w => { w with tickets := n })).modCore (t1.wg wg).core (fun c => { c with
      drover := c.drover ++ [⟨id, wg, t1.wgCtx wg, BitVec.ofNat 256 r, n, 0, 0, none, none, [], false⟩] })) s

/-- The scope code of a source (Table 4.2). -/
def srcScope (k : Nat) : Nat :=
  match k with
  | 1 => 2
  | 2 => 3
  | 0 | 3 => 5
  | _ => 6

/-- The drover accepts a batch behind its release, then the instruction writes its result and does what else it does; without
the release or the room the lanes are held (R230). -/
def State.kickOff (s : State) (d : UDst) (rs : List Nat) (result : State → Nat) (also : State → State) : State :=
  let wg := s.curWg
  let scope := rs.foldl (fun m r => Nat.max m (srcScope (Req.ofNat r).skind)) 0
  ((s.releaseCode wg scope).commit wg).stillHere s.iss.key (fun s2 =>
    if s2.releaseHeld s2.curCore wg scope || decide (droverSize < (s2.core s2.curCore).drover.length + rs.length) then
      s2.retry .stalled
    else
      let s3 := also (s2.acceptReqs wg rs)
      (s3.putU d (BitVec.ofNat 32 (result s3))).adv)

/-- A record of 32 bytes in the pen. -/
def State.penRecord (s : State) (a i : Nat) : Nat := s.penNat s.curWg (a + 32 * i) 32

/-- The records KICK names. -/
def State.kickRecords (s : State) (a b : USrc) : List Nat :=
  (List.range (s.src.u32 b).toNat).map (s.penRecord (s.src.u32 a).toNat)

/-- The traps of KICK in their order (R230). -/
def State.kickTrap (s : State) (a b : USrc) : Option TrapReq :=
  let n := (s.src.u32 b).toNat
  let p := (s.src.u32 a).toNat
  if n = 0 then none
  else if 64 < n then some (s.trap16 causeBounds 0)
  else if p % 32 ≠ 0 then some (s.trap16 causeMisalign p)
  else if (s.wg s.curWg).penBytes < p + 32 * n then some (s.trap16 causeBounds p)
  else s.reqTrap ((s.kickRecords a b).map Req.ofNat)

/-- Words of a range of the pen that are poisoned (R415). -/
def State.penRangeLost (s : State) (wg a n : Nat) : Bool :=
  (s.wg wg).penPoison.any (fun p => decide (a < 4 * p + 4) && decide (4 * p < a + n))

noncomputable def execKick (d : UDst) (a b : USrc) (s : State) : Out :=
  checked (.kick d a b) lawful (fun s => s.kickTrap a b)
    (fun s =>
      let n := (s.src.u32 b).toNat
      if n = 0 then (s.putU d (BitVec.ofNat 32 (s.wg s.curWg).tickets)).adv
      else if s.penRangeLost s.curWg (s.src.u32 a).toNat (32 * n) then s.consume s.active (s.src.u32 a).toNat 0
      else s.kickOff d (s.kickRecords a b) (fun t => (t.wg t.curWg).tickets) id) s

/-- The record in eight s registers (R225). -/
def Wave.copyRecord (w : Wave) (a : SReg) : Nat :=
  natOfBytes ((List.range 8).foldl (fun bs i => bs ++ bytesOfNat 4 (w.sreg (a.val + i)).toNat) [])

noncomputable def execCopy (d : UDst) (a : SReg) (s : State) : Out :=
  checked (.copy d a) lawful (fun s => s.reqTrap [Req.ofNat (s.src.copyRecord a)])
    (fun s => s.kickOff d [s.src.copyRecord a] (fun t => (t.wg t.curWg).tickets) id) s

/-- The requests of a stage of the grid's schedule (R233). -/
def Grid.stageReqs (g : Grid) (stage : Nat) : List Nat := g.sched.filter (fun r => decide ((Req.ofNat r).stage = stage))

noncomputable def execAdvance (d : UDst) (s : State) : Out :=
  checked (.advance d) lawful
    (fun s =>
      match (s.wg s.curWg).stages with
      | [] => none
      | st :: _ => s.reqTrap (((s.grid s.curGrid).stageReqs st).map Req.ofNat))
    (fun s =>
      match (s.wg s.curWg).stages with
      | [] => (s.putU d 0xFFFFFFFF#32).adv
      | st :: rest =>
        let wg := s.curWg
        s.kickOff d ((s.grid s.curGrid).stageReqs st) (fun _ => st) (fun t => t.modWg wg (fun w => { w with stages := rest }))) s

/-! ## Progress (R226 to R229) -/

/-- A range of VAs as an engine acting for a workgroup sees it: translated; missing a page that a pager serves; held, while the
page's walks are blocked (R393) or a write of the workgroup to it is in the side log (R106); or refused, perhaps by a malformed
entry. -/
inductive Span where
  | ok (ts : List (Trans × Nat))
  | wait (va : Nat)
  | held
  | refused (va : Nat) (bad : Bool)
  deriving DecidableEq, Repr

def State.spanOf (s : State) (core wg ctx va n : Nat) (need : Need) : Span :=
  let ts := (piecesOf va n).map (fun p => (s.translate core ctx p.1 need, p))
  match ts.find? (fun t => s.refusedElem ctx (⟨0, true, (t.2.1 : Int)⟩, t.1)) with
  | some t => .refused t.2.1 t.1.isBad
  | none =>
    match ts.find? (fun t => t.1.isAbsent && !s.walkBlocked ctx t.2.1) with
    | some t => .wait t.2.1
    | none =>
      if ts.any (fun t => t.1.isAbsent || s.sideWaits core wg ctx t.2.1) then .held
      else .ok (ts.map (fun t => (t.1, t.2.2)))

/-- The physical ranges of a translated span. -/
def spanBytes (ts : List (Trans × Nat)) : List (Nat × Nat) := ts.map (fun t => (t.1.pa, t.2))
/-- The physical addresses of a translated span, in order. -/
def spanPas (ts : List (Trans × Nat)) : List Nat := (spanBytes ts).foldl (fun l p => l ++ (List.range p.2).map (p.1 + ·)) []

/-- A write performed at its homes for a core, after what the core has committed of its lines: a whole line written is
poisoned no more, and a write to host memory waits for its acknowledgement (R83, R99, R107, R409). -/
def State.performFrom (s : State) (core : Nat) (cells : List (Nat × Byte)) : State :=
  let lines := (cells.map (fun c => lineOf c.1)).eraseDups
  let s1 := (lines.foldl (fun t l => t.performLine core l) s).perform (s.heeded cells)
  { s1 with
    poisoned := s1.poisoned.filter (fun l => !(wholeBlocks cells).contains l)
    hostWrites := s1.hostWrites ++ (lines.filter (fun l => hostAperture (l * 128))).map (fun l => ⟨core, l⟩) }

/-- One element combined (R228). -/
def reduceElem (op x y : Nat) : Nat :=
  match op with
  | 1 => fp32.rne (FVal.sum .rne [fp32.value x, fp32.value y])
  | 2 => bf16.rne (FVal.sum .rne [bf16.value x, bf16.value y])
  | _ => (fp32.minMax false false x y).1

/-- The bytes a destination ends with: the source's, or each element combined with it. -/
def Req.combine (q : Req) (old new : List Byte) : List Byte :=
  if q.redop = 0 then new
  else (List.range (q.width / q.elem)).foldl (fun bs i =>
    bs ++ bytesOfNat q.elem (reduceElem q.redop (natOfBytes ((old.drop (i * q.elem)).take q.elem)) (natOfBytes ((new.drop (i * q.elem)).take q.elem)))) []

def State.modCopy (s : State) (core id : Nat) (f : CopyReq → CopyReq) : State :=
  s.modCore core (fun c => { c with drover := c.drover.map (fun r => if r.id = id then f r else r) })

/-- What an engine read of lost data does: the operation fails as at a refused page, and the drove is affected (R415). -/
def State.copyLost (s : State) (core : Nat) (r : CopyReq) (pa : Nat) : State :=
  (s.modCopy core r.id (fun x => { x with failed := true })).affect r.wg 0x07 pa false none

/-- The fold a destination's credit goes to. -/
def State.creditWg (s : State) (wg : Nat) (dest : Option Nat) : Nat := (dest.bind (s.peerOf wg)).getD wg

/-- Credit bytes of a request for one destination. -/
def State.creditCopy (s : State) (r : CopyReq) (q : Req) (dest : Option Nat) (n : Nat) (bad : Bool) : State :=
  if q.credit then s.modFold (s.creditWg r.wg dest) q.fold (fun f => f.credit q.slot n bad) else s

/-- A destination of the current row is done: its credit, then the next destination, row, or the end. -/
def State.copyDone (s : State) (core : Nat) (r : CopyReq) (q : Req) (dests : List (Option Nat)) : State :=
  let s1 := s.creditCopy r q (dests.getD r.dest none) q.width false
  if r.dest + 1 < dests.length then s1.modCopy core r.id (fun x => { x with dest := x.dest + 1, sent := none })
  else if r.row + 1 < q.rows then
    s1.modCopy core r.id (fun x => { x with row := x.row + 1, dest := 0, data := none, sent := none, got := [] })
  else s1.modCore core (fun c => { c with drover := c.drover.filter (fun x => decide (x.id ≠ r.id)) })

/-! ### Remote rows (R422) -/

/-- The first live port of the path-table entry of a device. -/
def State.pathPort (s : State) (device : Nat) : Option Nat :=
  ((List.range 4).map (fun i => s.mem.nat (s.fabric.pathtab + 4 * device + i) 1)).find?
    (fun p => decide (1 ≤ p) && decide (p ≤ 12) && s.portsUp.testBit p && decide (nbits s.fabric.portmode (2 * p + 1) (2 * p) = 1) &&
      decide (nbits s.fabric.wanted (2 * p + 1) (2 * p) = 1))

/-- Send a row as messages of at most 4 KiB; with no live port, or a revoked brand, the request fails (R419, R424). -/
def State.sendRow (s : State) (core : Nat) (r : CopyReq) (q : Req) (brand : Nat) : State :=
  let dev := Config.brandDevice brand
  match s.pathPort dev with
  | none => s.modCopy core r.id (fun x => { x with failed := true })
  | some p =>
    if s.brands.contains brand then s.modCopy core r.id (fun x => { x with failed := true })
    else
      let n := ceilDiv q.width 4096
      let ids := (List.range n).map (s.fresh + ·)
      let ms := ids.map (fun id => (⟨id, core, r.id, brand, dev, 4096 * (id - s.fresh), p, s.now⟩ : Message))
      ({ s with fresh := s.fresh + n, messages := s.messages ++ ms }).modCopy core r.id (fun x => { x with sent := some ids })

/-- A range of a commons window that is poisoned, or whose die no longer serves (R334, R408). -/
def State.comRangeLost (s : State) (ctx a n : Nat) : Bool :=
  (s.ctx ctx).commonsPoison.any (fun b => decide (a < 128 * b + 128) && decide (128 * b < a + n)) ||
  (List.range 6).any (fun d => !(s.dies.getD d MemDie.init).live &&
    (List.range (n / 4096 + 2)).any (fun i => decide ((a / 4096 + i) % 6 = d) && decide ((a / 4096 + i) * 4096 < a + n)))

/-- The row's source bytes, where they can be read now. -/
inductive RowSource where
  | bytes (bs : List Byte)
  | remote
  | later (va : Option Nat)
  | lost (pa : Nat)
  deriving DecidableEq, Repr

def State.rowSource (s : State) (core : Nat) (r : CopyReq) (q : Req) : RowSource :=
  let a := kindAddr q.skind q.src + r.row * q.sstride
  match kindRank (s.wg r.wg).rank q.skind q.src with
  | some rank =>
    let g := (s.peerOf r.wg rank).getD r.wg
    if s.penRangeLost g a q.width then .lost 0 else .bytes (s.penBytesAt g a q.width)
  | none =>
    if q.skind = 3 then
      if s.comRangeLost r.ctx a q.width then .lost 0
      else .bytes ((s.ctx r.ctx).commons.getBytes a q.width)
    else if q.skind = 4 then .remote
    else
      match s.spanOf core r.wg r.ctx a q.width .read with
      | .ok ts =>
        (match (spanPas ts).find? (fun pa => s.lost (lineOf pa)) with
          | some pa => .lost pa
          | none => .bytes ((spanPas ts).map s.mem.get))
      | .wait va => .later (some va)
      | .held | .refused .. => .later none

/-- The pages of a global side of the current row are to be touched as the drover reaches them (R377). -/
def State.rowTouch (s : State) (core wg ctx va n : Nat) (write : Bool) : State :=
  match s.spanOf core wg ctx va n (if write then .write false else .read) with
  | .ok ts => s.touchAll core write (ts.map Prod.fst)
  | .wait _ | .held | .refused .. => s

/-- Write the row's bytes at one destination. -/
def State.rowWrite (s : State) (core : Nat) (r : CopyReq) (q : Req) (dests : List (Option Nat)) (bs : List Byte) : State :=
  let a := kindAddr q.dkind q.dst + r.row * q.dstride
  match dests.getD r.dest none with
  | some rank =>
    let g := (s.peerOf r.wg rank).getD r.wg
    (s.penSet g a (q.combine (s.penBytesAt g a q.width) bs)).copyDone core r q dests
  | none =>
    if q.dkind = 3 then
      let new := q.combine ((s.ctx r.ctx).commons.getBytes a q.width) bs
      (s.modCtx r.ctx (fun c => { c with
        commons := c.commons.setBytes a new
        commonsPoison := c.commonsPoison.filter (fun b => !(wholeBlocks (cellsFrom a new)).contains b) })).copyDone core r q dests
    else if q.dkind = 4 then
      match r.sent with
      | none => s.sendRow core r q (q.dst / 2 ^ 48)
      | some [] => s.copyDone core r q dests
      | some _ => s
    else
      match s.spanOf core r.wg r.ctx a q.width (.write false) with
      | .wait va => s.askPage r.ctx va 4
      | .held | .refused .. => s
      | .ok ts =>
        let pas := spanPas ts
        match pas.findSome? s.dupOf with
        | some i => s.startCollapse i
        | none =>
          let s1 := (pas.map lineOf).eraseDups.foldl (fun t l => t.performLine core l) (s.rowTouch core r.wg r.ctx a q.width true)
          let new := q.combine (pas.map s1.mem.get) bs
          (((s1.performFrom core (pas.zip new)).touchRo r.wg ((pas.map lineOf).eraseDups)).copyDone core r q dests)

/-- Requests of one workgroup start in the order they were accepted (R227). -/
def State.mayStart (s : State) (core : Nat) (r : CopyReq) : Bool :=
  r.data.isSome || decide (0 < r.row) || decide (0 < r.dest) || r.sent.isSome ||
  (s.core core).drover.all (fun x => !(decide (x.wg = r.wg) && decide (x.ticket < r.ticket)) || x.data.isSome || decide (0 < x.row) || x.sent.isSome || x.failed)

/-- One step of a request: its row is read if it has not been, then performed at the next destination and credited. -/
def State.copyStep (s : State) (core : Nat) (r : CopyReq) : State :=
  let q := Req.ofNat r.bits.toNat
  let dests := q.dests (s.wg r.wg).rank
  match r.data with
  | some bs => s.rowWrite core r q dests bs
  | none =>
    match s.rowSource core r q with
    | .later va => (match va with
      | some a => s.askPage r.ctx a 4
      | none => s)
    | .lost pa => s.copyLost core r pa
    | .remote =>
      (match r.sent with
        | none => s.sendRow core r q (q.src / 2 ^ 48)
        | some [] =>
          let bs := r.got.foldl (fun l x => l ++ x.2) []
          (s.modCopy core r.id (fun x => { x with data := some bs, sent := none })).rowWrite core
            { r with data := some bs, sent := none } q dests bs
        | some _ => s)
    | .bytes bs =>
      let s1 := if q.skind = 0 then s.rowTouch core r.wg r.ctx (q.src + r.row * q.sstride) q.width false else s
      (s1.modCopy core r.id (fun x => { x with data := some bs })).rowWrite core { r with data := some bs } q dests bs

/-- COPY_ROW_COMPLETE (R227, R99). -/
noncomputable def execCopyRowComplete (core id : Nat) (s : State) : Out :=
  match (s.core core).drover.find? (fun r => decide (r.id = id)) with
  | none => .next s
  | some r => .next (if r.failed || !s.mayStart core r then s else (s.copyStep core r).gbarChecks)

/-- A global row of a request that no page will ever serve: its VA, and whether a malformed entry refuses it (R229, R378). -/
def State.copyRefused (s : State) (core : Nat) (r : CopyReq) : Option (Nat × Bool) :=
  let q := Req.ofNat r.bits.toNat
  let side := fun (k a stride : Nat) (n : Need) =>
    if k = 0 then
      match s.spanOf core r.wg r.ctx (a + r.row * stride) q.width n with
      | .refused va bad => some (va, bad)
      | .ok _ | .wait _ | .held => none
    else none
  match (if r.data.isNone then side q.skind q.src q.sstride .read else none) with
  | some x => some x
  | none => side q.dkind q.dst q.dstride (.write false)

/-- A failed request credits what it has not yet credited, with ERR, and leaves a record (R229). -/
def State.failCopy (s : State) (core : Nat) (r : CopyReq) : State :=
  let q := Req.ofNat r.bits.toNat
  let dests := q.dests (s.wg r.wg).rank
  let s1 := dests.zipIdx.foldl (fun t d =>
    t.creditCopy r q d.1 ((q.rows - r.row - (if d.2 < r.dest then 1 else 0)) * q.width) true) s
  let s2 := s1.report { Report.plain 0x09 2 with
    unit := 8, loc := locOfCore core 0, ctx := r.ctx, grid := s.wgGrid r.wg, addr := q.src }
  ({ s2 with messages := s2.messages.filter (fun m => decide (m.req ≠ r.id)) }).modCore core
    (fun c => { c with drover := c.drover.filter (fun x => decide (x.id ≠ r.id)) })

/-- COPY_REQUEST_FAIL. -/
noncomputable def execCopyRequestFail (core id : Nat) (s : State) : Out :=
  match (s.core core).drover.find? (fun r => decide (r.id = id)) with
  | none => .next s
  | some r =>
    match s.copyRefused core r with
    | some x => .next ((s.metBad r.ctx (s.wgGrid r.wg) x.1 x.2).failCopy core r).gbarChecks
    | none => .next (if r.failed then (s.failCopy core r).gbarChecks else s)

/-! ## WAITC and RDCNT (R243) -/

noncomputable def execWaitc (c : Fin 3) (b : USrc) (s : State) : Out :=
  plain (.waitc c b) (fun s =>
    let t := fld (s.src.u32 b) 0 8
    if s.cur.counts.get c.val ≤ t then s.adv
    else (s.modCur (fun w => { w with wait := .waitc c.val t })).adv) s

/-- DONE: requests 1 to n have all completed or failed (R232). -/
def State.doneCount (s : State) (wg : Nat) : Nat :=
  ((s.core (s.wg wg).core).drover.filter (fun r => decide (r.wg = wg))).foldl (fun n r => Nat.min n (r.ticket - 1)) (s.wg wg).tickets

noncomputable def execRdcnt (d : UDst) (c : Fin 4) (s : State) : Out :=
  plain (.rdcnt d c) (fun s =>
    (s.putU d (BitVec.ofNat 32 (if c.val = 3 then s.doneCount s.curWg else s.cur.counts.get c.val))).adv) s

end Sys2Proof.Machine
end

