-- ==== Sys2Proof/Machine/Matrix.lean ====
section
/-! DEFINITION. Machine/Matrix.lean: class 0xC (chapter 11): the array's lease, its queue, planes, accumulator tiles, rows,
bands and faults. -/

namespace Sys2Proof.Machine

open Sys2Proof

/-! ## Formats -/

/-- Bits of an element of a format; a raw byte where it has none. -/
def PFmt.bits (f : PFmt) : Nat := Nat.max 4 (fmtBits f.code)

/-- The K-step of a B format (Table 11.5). -/
def kStep (f : PFmt) : Nat :=
  match f with
  | .f16 | .bf16 | .f32 | .raw => 64
  | .e4m3 | .e5m2 | .int8 => 256
  | .int4 => 512

/-- Bytes of one K-step. -/
def kBytes (f : PFmt) : Nat := kStep f * PFmt.bits f / 8

/-- The value of an element that needs no scale; an integer format gives the integer (R60, R64). -/
def plainValue (f : PFmt) (x : Nat) : FVal :=
  match f with
  | .f32 => fp32.value x
  | .f16 => fp16.value x
  | .bf16 => bf16.value x
  | .e4m3 => e4m3.value x
  | .e5m2 => e5m2.value x
  | .int8 | .raw => FVal.ofInt (sextN x 8)
  | .int4 => FVal.ofInt (sextN x 4)

/-- Element `i` of packed bytes, where a nibble's low half comes first (Table 2.6). -/
def packedElem (f : PFmt) (byte : Nat → Byte) (base i : Nat) : Nat :=
  let (a, bit) := elemAt base i (PFmt.bits f)
  natOfBytes ((List.range (Nat.max 1 (PFmt.bits f / 8))).map (fun j => byte (a + j))) / 2 ^ bit % 2 ^ PFmt.bits f

/-- The accumulator's format. -/
def Acc.fmt : Acc → FFmt
  | .f32 => fp32
  | .f16 => fp16
  | .bf16 => bf16
def accBytes : Acc → Nat
  | .f32 => 4
  | .f16 | .bf16 => 2
/-- The format of pen data of MST and MLD. -/
def PFmt.ffmt : PFmt → FFmt
  | .f32 | .raw | .int8 | .int4 => fp32
  | .f16 => fp16
  | .bf16 => bf16
  | .e4m3 => e4m3
  | .e5m2 => e5m2

/-- A scale code of Table 11.4. -/
def scaleCode (int4 : Bool) (g : GLen) : Nat := g.code + (if int4 then 4 else 0)
/-- The code a grouped B format asks of the scale tag. -/
def groupedCode (f : BFmt) : Nat := optG f.grp + (if f.fmt = .int4 then 4 else 0)

/-- A plane's part of a tag, and a scale store's (item 9 of Table 21.3). -/
def planeTag (f : BFmt) : Nat := f.fmt.code + optG f.grp * 8 + 32
def scaleTag (code : Nat) : Nat := code * 64 + 2 ^ 13

/-! ## Queue entries (R247) -/

/-- Which side an operation belongs to: 0 fill, 1 compute, 2 neither, 3 not queued. -/
def sideOf (i : Instr) : Nat :=
  match i with
  | .mlds .. | .mldsg .. | .mscale .. => 0
  | .mma .. | .mmag .. | .mzero .. | .mst .. | .mld .. => 1
  | .mswap | .mstPlane .. | .mldPlane .. => 2
  | _ => 3

/-- A first word with the literal code of A and B replaced, since a captured entry holds its operands. -/
def unlit (w : Word) : Word :=
  let fix := fun (lo : Nat) (x : Word) => if fld x lo 7 = 127 then x - BitVec.ofNat 32 (3 * 2 ^ lo) else x
  fix 7 (fix 0 w)

/-- The operation an entry holds. -/
noncomputable def ArrayOp.instr (o : ArrayOp) : Option Instr :=
  match decode [unlit o.word, o.ext] with
  | .ok i => if sideOf i < 3 then some i else none
  | .error _ => none

noncomputable def ArrayOp.side (o : ArrayOp) : Nat := (o.instr.map sideOf).getD 3

/-- Whether an entry may run: its side's order, and nothing younger than an operation of neither side passes it. -/
noncomputable def mayRun (q : List ArrayOp) (o : ArrayOp) : Bool :=
  let older := q.takeWhile (fun x => decide (x.id ≠ o.id))
  older.all (fun x => decide (x.side ≠ 2) && decide (x.side ≠ o.side)) && (decide (o.side ≠ 2) || older.isEmpty)

/-- The array executes: not stopped, not under test, and its drove not being prepared for a save (R262, R263, R417). -/
def State.arrayRuns (s : State) (core : Nat) : Bool :=
  let a := (s.core core).array
  match a.lessee with
  | none => false
  | some wg => !a.stopped && !(s.drove (s.wg wg).drove).phase.halts &&
    !s.quarantined.any (fun x => decide (x.unit = 2) && decide (x.loc = locOfCore core 0))

def State.modArray (s : State) (core : Nat) (f : MatrixArray → MatrixArray) : State :=
  s.modCore core (fun c => { c with array := f c.array })

/-- The wave that issued an entry, where it is still there. -/
def State.opWave (s : State) (core : Nat) (o : ArrayOp) : Option Nat :=
  match tabGet s.waves o.wave with
  | some w => if (s.core core).array.lessee = some w.wg && decide (w.index = o.waveIx) then some o.wave else none
  | none => none

/-- An entry leaves the queue and its completion is credited (R247, R100). -/
def State.finishOp (s : State) (core : Nat) (o : ArrayOp) : State :=
  let s1 := match s.opWave core o with
    | some k => s.modWave k (fun w => w.completeOp o.id)
    | none => s
  s1.modArray core (fun a => { a with queue := a.queue.filter (fun x => decide (x.id ≠ o.id)) })

def State.modOp (s : State) (core : Nat) (o : ArrayOp) (f : ArrayOp → ArrayOp) : State :=
  s.modArray core (fun a => { a with queue := a.queue.map (fun x => if x.id = o.id then f x else x) })

/-- An array fault (R263): the queue stops, and the issuing wave, or the lowest-numbered live one, takes it. -/
def State.arrayFault (s : State) (core : Nat) (o : ArrayOp) (cause info faddr : Nat) : State :=
  let s1 := s.modArray core (fun a => { a with stopped := true })
  let taker := match (s.opWave core o).filter (fun k => decide ((s.wave k).live ≠ 0#32)) with
    | some k => some k
    | none => ((s.core core).array.lessee).bind s.lowestWave
  match taker with
  | some k => s1.fallDue k cause info o.lanes o.iaddr faddr true
  | none => s1

/-- Poisoned data an array operation read: an array fault with cause ERROR, or what R416 decides otherwise. -/
def State.arrayLost (s : State) (core : Nat) (o : ArrayOp) (pa : Nat) : State :=
  match (s.core core).array.lessee with
  | none => s
  | some wg =>
    match s.verdict wg false with
    | .replay => (s.lossRecord wg 0x07 pa 1).relaunch (s.wg wg).drove
    | .kill => (s.lossRecord wg 0x07 pa 2).killGrid 5 (s.wgGrid wg)
    | .trap => (s.lossRecord wg 0x07 pa 3).arrayFault core o causeError s.errors.seq 0

/-! ## Bands (R251, R436) -/

/-- Columns that take part. -/
def MatrixArray.cols (a : MatrixArray) : Nat := 64 * popcN 4 a.bands

/-- Band wakes of a die within the last microsecond (R432). -/
def State.recentWakes (s : State) (site : Nat) : List Nat :=
  ((s.sites.getD site (Site.init false)).wakes).filter (fun t => decide (s.now < t + 1000))

/-- A sleeping band starts its 200 clk wake, or waits for the wake rate. -/
def State.startWake (s : State) (core b : Nat) : State :=
  let site := coreSite core
  let band := ((s.core core).array.band).getD b Band.init
  if band.on || band.waking.isSome then s
  else if (s.recentWakes site).length < 16 then
    { s.modArray core (fun a => { a with band := modAt a.band b (fun x => { x with waking := some (s.cycle.toNat + 200), deferred := false }) }) with
      sites := modAt s.sites site (fun t => { t with wakes := s.recentWakes site ++ [s.now] }) }
  else s.modArray core (fun a => { a with band := modAt a.band b (fun x => { x with deferred := true }) })

/-- Whether the bands of a mask are all powered. -/
def MatrixArray.powered (a : MatrixArray) (mask : Nat) : Bool :=
  (List.range 4).all (fun b => !mask.testBit b || (a.band.getD b Band.init).on)

/-- Use bands: where one sleeps the operation waits while it wakes; `eff` runs with all of them on. -/
def State.withBands (s : State) (core mask : Nat) (eff : State → State) : State :=
  let bs := (List.range 4).filter (fun b => mask.testBit b)
  if (s.core core).array.powered mask then
    eff (s.modArray core (fun a => { a with
      band := bs.foldl (fun l b => modAt l b (fun x => { x with lastUse := s.cycle.toNat })) a.band }))
  else bs.foldl (fun t b => t.startWake core b) s

/-- BAND_WAKE: the 200 clk have passed. -/
noncomputable def execBandWake (core band : Nat) (s : State) : Out :=
  match (((s.core core).array.band).getD band Band.init).waking with
  | none => .next s
  | some t =>
    .next (if t ≤ s.cycle.toNat then
      s.modArray core (fun a => { a with band := modAt a.band band (fun x => { x with on := true, waking := none, lastUse := s.cycle.toNat }) })
    else s)

/-- BAND_WAKE_RATE_WAIT_END: a deferred wake starts once the window allows (R432). -/
noncomputable def execBandWakeRateWaitEnd (core band : Nat) (s : State) : Out :=
  .next (if (((s.core core).array.band).getD band Band.init).deferred && decide ((s.recentWakes (coreSite core)).length < 16) then
    s.startWake core band else s)

/-- Whether a tile of the core's flock unit is running, which uses every band (R273). -/
def State.flockBusy (s : State) (core : Nat) : Bool := (s.core core).tiles.any FlockTile.closed

/-- BAND_IDLE_OFF (R436). -/
noncomputable def execBandIdleOff (core band : Nat) (s : State) : Out :=
  let a := (s.core core).array
  let x := a.band.getD band Band.init
  .next (if x.on && !(a.lessee.isSome && a.bands.testBit band) && !s.flockBusy core && decide (x.lastUse + 2000 ≤ s.cycle.toNat) then
    s.modArray core (fun a => { a with band := modAt a.band band (fun x => { x with on := false }) })
  else s)

/-! ## Element fetches from pages (R55, R253, R256) -/

/-- An element of a page: its bits with its scale entry, or why there is none. -/
inductive PageElem where
  | got (x : Nat) (scale : Option Nat) (pages : List Trans)
  | wait (va : Nat)
  | refused (va : Nat) (bad : Bool)
  | format (va : Nat)
  | lost (pa : Nat)
  deriving DecidableEq, Repr

/-- Element `i` of format `f` past `base`, from a page of code `page`; grouped pages need group length code `grp`. -/
def State.pageElem (s : State) (core wg ctx base i : Nat) (f : PFmt) (page grp : Nat) : PageElem :=
  let (va, bit) := elemAt base i (PFmt.bits f)
  let n := Nat.max 1 (PFmt.bits f / 8)
  match s.spanOf core wg ctx va 1 .read with
  | .refused va bad => .refused va bad
  | .wait va => .wait va
  | .held => .wait va
  | .ok ts =>
    match (ts.headD (.absent, 0)).1 with
    | .ok pa leaf page_ =>
      let t := Trans.ok pa leaf page_
      if pteFmt leaf ≠ page || (grouped leaf && decide (pteGrp leaf ≠ grp)) then .format va
      else if s.poisonedRead core wg pa n then .lost pa
      else
        let x := s.viewNat core wg pa n / 2 ^ bit % 2 ^ PFmt.bits f
        if grouped leaf then
          let sva := scaleOf t va bit
          (match s.spanOf core wg ctx sva 4 .read with
            | .refused va bad => .refused va bad
            | .wait va => .wait va
            | .held => .wait sva
            | .ok us =>
              (match (us.headD (.absent, 0)).1 with
                | .ok spa sleaf spage =>
                  if pteFmt sleaf ≠ 0 then .format sva
                  else if s.poisonedRead core wg spa 4 then .lost spa
                  else .got x (some (s.viewNat core wg spa 4)) [t, .ok spa sleaf spage]
                | .absent | .denied | .malformed _ => .wait sva))
        else .got x none [t]
    | .absent | .denied | .malformed _ => .wait va

/-! ## Running an operation -/

/-- How an operation, or a row of one, comes out. -/
inductive ArrayRun where
  | done (s : State)
  | wait (va : Nat)
  | fault (cause info faddr : Nat) (bad : Bool)
  | lost (pa : Nat)
  | shadow
  deriving DecidableEq, Repr

/-- Poison keys: the region of the store and the word in it. -/
def poisonKey (region word : Nat) : Nat := region * 2 ^ 20 + word
/-- Poison in the words of a byte range of a region. -/
def MatrixArray.poisonIn (a : MatrixArray) (region lo n : Nat) : Bool :=
  a.poison.any (fun p => decide (p / 2 ^ 20 = region) && decide (lo < 4 * (p % 2 ^ 20) + 4) && decide (4 * (p % 2 ^ 20) < lo + n))
/-- A write that covers a byte range clears its poison. -/
def MatrixArray.clearPoison (a : MatrixArray) (region lo n : Nat) : MatrixArray :=
  { a with poison := a.poison.filter (fun p =>
    !(decide (p / 2 ^ 20 = region) && decide (lo ≤ 4 * (p % 2 ^ 20)) && decide (4 * (p % 2 ^ 20) + 4 ≤ lo + n))) }

/-- Bytes a plane keeps for a column, and where the scale entry of a group and a column lies. -/
def colBytes : Nat := 256
def scaleAt (j n : Nat) : Nat := (j * 256 + n) * 4

/-- A column of the shadow plane is filled. -/
def MatrixArray.fillCol (a : MatrixArray) (n : Nat) (bs : List Byte) : MatrixArray :=
  { a with shadow := a.shadow.setBytes (n * colBytes) bs }.clearPoison 2 (n * colBytes) bs.length

/-- MLDS (R252). -/
def State.runMlds (s : State) (core wg : Nat) (o : ArrayOp) (f : BFmt) : ArrayRun :=
  let n := (s.core core).array.cols
  let a := o.a.toNat
  let b := o.b.toNat
  let len := kBytes f.fmt
  if (List.range n).any (fun c => s.penRangeLost wg (a + c * b) len) then .lost 0
  else .done (s.modArray core (fun x =>
    let y := (List.range n).foldl (fun y c => y.fillCol c (s.penBytesAt wg (a + c * b) len)) x
    { y with tagS := y.tagS / 64 * 64 + planeTag f, zeroS := y.zeroS.filter (fun z => decide (n ≤ z % 256)) }))

/-- Bytes of a list of packed elements. -/
def packBytes (f : PFmt) (xs : List Nat) : List Byte :=
  let bits := PFmt.bits f
  bytesOfNat (xs.length * bits / 8) (xs.zipIdx.foldl (fun acc x => acc + x.1 * 2 ^ (x.2 * bits)) 0)

/-- The first element that could not be had. -/
def firstStop (l : List PageElem) : Option PageElem := l.find? (fun x =>
  match x with
  | .got .. => false
  | .wait _ | .refused .. | .format _ | .lost _ => true)

/-- What stops an operation that met such an element, read through record `q`. -/
def PageElem.stop (x : PageElem) (q prog : Nat) : ArrayRun :=
  match x with
  | .wait va => .wait va
  | .refused va bad => .fault causeAccess q va bad
  | .format va => .fault causeFormat prog va false
  | .lost pa => .lost pa
  | .got .. => .wait 0

def PageElem.bits : PageElem → Nat
  | .got x _ _ => x
  | .wait _ | .refused .. | .format _ | .lost _ => 0
def PageElem.scale : PageElem → Nat
  | .got _ (some v) _ => v
  | .got _ none _ | .wait _ | .refused .. | .format _ | .lost _ => 0
def PageElem.pages : PageElem → List Trans
  | .got _ _ ps => ps
  | .wait _ | .refused .. | .format _ | .lost _ => []

/-- The bits of an out-of-bounds element of a grouped plane, which reads as the true value 0: its group's zero point, by which
it also reads as 0 once MST and MLD have copied the plane (R253, R260, R67; log entry 53). -/
def zeroBits (f : PFmt) (entry : Nat) : Nat :=
  let z := sextN (nbits entry 23 16) 8
  if f = .int8 ∨ (-8 ≤ z ∧ z ≤ 7) then nbits entry 23 16 % 2 ^ PFmt.bits f else Config.zeroBits entry % 2 ^ PFmt.bits f

/-- The elements of a list of indices through a record: those in bounds fetched, the others none. -/
def State.recordElems (s : State) (core wg : Nat) (o : ArrayOp) (f : PFmt) (page grp : Nat) (is : List Nat) : List (Option PageElem) :=
  let r := Rec.ofBits o.recd
  is.map (fun i => if i < r.extent then some (s.pageElem core wg (s.wgCtx wg) r.base i f page grp) else none)

/-- MLDSG (R253): the columns, their scales where grouped, and the tags. -/
def State.runMldsg (s : State) (core wg : Nat) (o : ArrayOp) (f : BFmt) (q : Nat) : ArrayRun :=
  let n := (s.core core).array.cols
  let k := kStep f.fmt
  let g := grpLen (optG f.grp)
  let cols := (List.range n).map (fun c => s.recordElems core wg o f.fmt f.fmt.code (optG f.grp)
    ((List.range k).map (fun i => o.a.toNat + c * o.b.toNat + i)))
  match firstStop (cols.foldl (fun l c => l ++ c.filterMap id) []) with
  | some x => x.stop q 0
  | none =>
    let s1 := s.touchAll core false ((cols.foldl (fun l c => l ++ (c.filterMap id).foldl (fun l x => l ++ x.pages) []) []).eraseDups)
    .done (s1.modArray core (fun x =>
      let entry := fun (c : List (Option PageElem)) (j : Nat) => ((c.drop (j * g)).head?.bind id).map PageElem.scale |>.getD 0
      let blank := fun (c : List (Option PageElem)) (i : Nat) => if f.grp.isNone then 0 else zeroBits f.fmt (entry c (i / g))
      let y := cols.zipIdx.foldl (fun y c => y.fillCol c.2 (packBytes f.fmt (c.1.zipIdx.map (fun e => (e.1.map PageElem.bits).getD (blank c.1 e.2))))) x
      let zs := cols.zipIdx.foldl (fun l c => l ++ (c.1.zipIdx.filter (fun e => e.1.isNone)).map (fun e => e.2 * 256 + c.2))
        (y.zeroS.filter (fun z => decide (n ≤ z % 256)))
      if f.grp.isNone then { y with tagS := y.tagS / 64 * 64 + planeTag f, zeroS := zs }
      else
        let scales := cols.zipIdx.foldl (fun m c => (List.range (k / g)).foldl (fun m j =>
          m.setBytes (scaleAt j c.2) (bytesOfNat 4 (entry c.1 j))) m) y.shadowScales
        ({ y with tagS := planeTag f + scaleTag (groupedCode f), zeroS := zs, shadowScales := scales }).clearPoison 4 0 16384))

/-- MSCALE (R254). -/
def State.runMscale (s : State) (core wg : Nat) (o : ArrayOp) (int4 : Bool) (g : GLen) : ArrayRun :=
  let n := (s.core core).array.cols
  let groups := (if int4 then 512 else 256) / grpLen g.code
  let a := o.a.toNat
  if s.penRangeLost wg a (groups * n * 4) then .lost 0
  else .done (s.modArray core (fun x =>
    let m := (List.range groups).foldl (fun m j => (List.range n).foldl (fun m c =>
      m.setBytes (scaleAt j c) (s.penBytesAt wg (a + (j * n + c) * 4) 4)) m) x.shadowScales
    ({ x with shadowScales := m, tagS := x.tagS % 64 + scaleTag (scaleCode int4 g) }).clearPoison 4 0 16384))

/-! ### Rows (R74 to R76, R256) -/

/-- One addition of a chunk sum: the new accumulator and the sticky bits it sets (R76, R256). -/
def accAdd (F : FFmt) (single sat : Bool) (acc : Nat) (sum : FVal) : Nat × Nat :=
  let a := F.value acc
  let x := FVal.sum .rne [a, sum]
  let (code, fl) := F.round .rne false x
  if x.isNan then (F.nan, 4)
  else if fl / fOF % 2 = 1 then
    if sat && !single then (F.signed x.neg (F.topCode - 1), 1) else (F.signed x.neg F.topCode, 2)
  else (code, 0)

/-- The products of a chunk, summed exactly. -/
def chunkSum (as bs : List FVal) : FVal := FVal.sum .rne ((as.zip bs).map (fun p => p.1.mul p.2))

/-- Chunks of 32 elements. -/
def chunksOf (xs : List FVal) (n : Nat) : List (List FVal) := (List.range n).map (fun c => (xs.drop (32 * c)).take 32)

/-- One accumulator element after a K-step: its code, the sticky bits its additions set, and whether the shadow check of one
fails (R77). An upset gives the wrong result `x ^^^ v` to the addition of chunk `c`. -/
def accStep (F : FFmt) (single sat : Bool) (start : Nat) (as bs : List FVal) (hit : Option (Nat × Nat)) : Nat × Nat × Bool :=
  let n := as.length / 32
  ((chunksOf as n).zip (chunksOf bs n)).zipIdx.foldl (fun (p : Nat × Nat × Bool) c =>
    let (x, st) := accAdd F single sat p.1 (chunkSum c.1.1 c.1.2)
    match hit with
    | some (k, v) => if k = c.2 then ((x ^^^ v), p.2.1 ||| st, F.shadowFails (x ^^^ v) x) else (x, p.2.1 ||| st, p.2.2)
    | none => (x, p.2.1 ||| st, p.2.2)) (start, 0, false)

/-- Element (k, n) of the active plane as a true value (R67). -/
def MatrixArray.planeValue (a : MatrixArray) (f : BFmt) (k n : Nat) : FVal :=
  let x := packedElem f.fmt (fun i => a.active.get i) (n * colBytes) k
  match f.grp with
  | none => plainValue f.fmt x
  | some g =>
    if a.zeroA.contains (k * 256 + n) then .fin false 0 0
    else
      let q : Int := if f.fmt = .int4 then sextN x 4 else sextN x 8
      groupedValue q (a.activeScales.nat (scaleAt (k / grpLen g.code) n) 4)

/-- The active plane and scales an operation needs are there (R256). -/
def MatrixArray.tagged (a : MatrixArray) (f : BFmt) : Bool :=
  decide (a.tagA % 64 = planeTag f) && (f.grp.isNone || decide (a.tagA / 64 = groupedCode f + 128))

/-- Byte address of element (m, n) of a tile. -/
def tileAt (slot : Nat) (acc : Acc) (m n : Nat) : Nat := slot * 32768 + (m * 256 + n) * accBytes acc
/-- Bytes a tile takes. -/
def tileBytes (acc : Acc) : Nat := 64 * 256 * accBytes acc

/-- The elements of row `m` of A: from the pen, or through the record. -/
def State.rowOfA (s : State) (core wg : Nat) (o : ArrayOp) (x : MmaMod) (q : Option QReg) (m : Nat) : ArrayRun ⊕ (List FVal × List Trans) :=
  let k := kStep x.bf.fmt
  match q with
  | none =>
    let base := o.a.toNat + m * o.b.toNat
    if s.penRangeLost wg base (k * PFmt.bits x.af / 8) then .inl (.lost 0)
    else .inr ((List.range k).map (fun i => plainValue x.af (packedElem x.af (s.penByte wg) base i)), [])
  | some r =>
    let page := match x.af with
      | .int8 | .int4 => 0
      | .raw | .f32 | .f16 | .bf16 | .e4m3 | .e5m2 => x.af.code
    let es := s.recordElems core wg o x.af page 0 ((List.range k).map (fun i => o.a.toNat + m * o.b.toNat + i))
    match firstStop (es.filterMap id) with
    | some e => .inl (e.stop r.val o.prog)
    | none => .inr (es.map (fun e => (e.map (fun v => plainValue x.af v.bits)).getD (.fin false 0 0)), es.foldl (fun l e => l ++ (e.map PageElem.pages).getD []) [])

/-- Poison a row would read. -/
def MatrixArray.rowPoison (a : MatrixArray) (t : Slot) (x : MmaMod) (m : Nat) : Bool :=
  (!x.ovr && a.poisonIn 0 (tileAt t.val x.acc m 0) (a.cols * accBytes x.acc)) ||
  (List.range a.cols).any (fun n => a.poisonIn 1 (n * colBytes) (kBytes x.bf.fmt)) ||
  (match x.bf.grp with
    | some g => (List.range a.cols).any (fun n => (List.range (kStep x.bf.fmt / grpLen g.code)).any (fun j => a.poisonIn 3 (scaleAt j n) 4))
    | none => false)

/-- An upset of a core's array (unit 4) or flock unit (5): the addition it strikes of `total`, and the bits it flips. -/
def State.arrayUpset (s : State) (core unit total : Nat) : Option (Nat × Nat) :=
  match s.upset with
  | some u => if u.core = core && u.unit = unit && decide (0 < total) then some (u.at_ % total, u.flip.toNat) else none
  | none => none

/-- Row PROG of an MMA or MMAG: every column together, and PROG advances; a failed shadow leaves it unapplied (R78). -/
def State.runRow (s : State) (core wg : Nat) (o : ArrayOp) (t : Slot) (x : MmaMod) (q : Option QReg) : ArrayRun :=
  let a := (s.core core).array
  let F := Acc.fmt x.acc
  let m := o.prog
  if !a.tagged x.bf then .fault causeArray o.prog 0 false
  else if a.rowPoison t x m then .lost 0
  else
    match s.rowOfA core wg o x q m with
    | .inl r => r
    | .inr (as, pages) =>
      let k := kStep x.bf.fmt
      let hit := s.arrayUpset core 4 (a.cols * (k / 32))
      let new := (List.range a.cols).map (fun n =>
        let start := if x.ovr then 0 else a.slots.nat (tileAt t.val x.acc m n) (accBytes x.acc)
        accStep F (x.acc == .f32) x.sat start as ((List.range k).map (fun i => a.planeValue x.bf i n))
          ((hit.filter (fun h => decide (h.1 / (k / 32) = n))).map (fun h => (h.1 % (k / 32), h.2 % 2 ^ (8 * accBytes x.acc)))))
      if new.any (fun v => v.2.2) then .shadow
      else
        let sticky := new.foldl (fun b v => b ||| v.2.1) 0
        let s1 := (s.touchAll core false pages.eraseDups).modArray core (fun y => { y with
          slots := new.zipIdx.foldl (fun mem v => mem.setBytes (tileAt t.val x.acc m v.2) (bytesOfNat (accBytes x.acc) v.1.1)) y.slots
          sticky := y.sticky ||| sticky
          queue := y.queue.map (fun e => if e.id = o.id then { e with prog := m + 1 } else e) })
        .done { s1 with upset := if hit.isSome then none else s1.upset }

/-! ### Tiles (R258 to R260) -/

/-- A value moved between formats, and whether SAT changed it (R259). -/
def convertTile (F G : FFmt) (sat : Bool) (x : Nat) : Nat × Bool :=
  if F = G then (x, false)
  else
    let (c, fl) := G.round .rne false (F.value x)
    if fl / fOF % 2 = 1 && G.ieee then (if sat then (G.signed (F.value x).neg (G.topCode - 1), true) else (c, false)) else (c, false)

def PFmt.bytes (f : PFmt) : Nat := Nat.max 1 (PFmt.bits f / 8)

/-- MST of a tile. -/
def State.runMst (s : State) (core wg : Nat) (o : ArrayOp) (t : Slot) (x : TileMod) : ArrayRun :=
  let a := (s.core core).array
  let rows := x.rows.toNat
  if a.poisonIn 0 (tileAt t.val x.acc 0 0) (rows * 256 * accBytes x.acc) then .lost 0
  else
    let row := fun m => (List.range 256).map (fun n =>
      convertTile (Acc.fmt x.acc) (PFmt.ffmt x.pf) x.sat (a.slots.nat (tileAt t.val x.acc m n) (accBytes x.acc)))
    let s1 := (List.range rows).foldl (fun u m =>
      u.penSet wg (o.a.toNat + m * o.b.toNat) ((row m).foldl (fun (bs : List Byte) (v : Nat × Bool) => bs ++ bytesOfNat (PFmt.bytes x.pf) v.1) [])) s
    let satd := (List.range rows).any (fun m => (row m).any Prod.snd)
    .done (s1.modArray core (fun y => { y with sticky := if satd then y.sticky ||| 1 else y.sticky }))

/-- MLD of a tile. -/
def State.runMld (s : State) (core wg : Nat) (o : ArrayOp) (t : Slot) (x : TileMod) : ArrayRun :=
  let rows := x.rows.toNat
  let w := PFmt.bytes x.pf
  if (List.range rows).any (fun m => s.penRangeLost wg (o.a.toNat + m * o.b.toNat) (256 * w)) then .lost 0
  else
    let row := fun m => (List.range 256).map (fun n =>
      convertTile (PFmt.ffmt x.pf) (Acc.fmt x.acc) x.sat (s.penNat wg (o.a.toNat + m * o.b.toNat + n * w) w))
    let satd := (List.range rows).any (fun m => (row m).any Prod.snd)
    .done (s.modArray core (fun y =>
      ({ y with
        slots := (List.range rows).foldl (fun mem m =>
          mem.setBytes (tileAt t.val x.acc m 0) ((row m).foldl (fun (bs : List Byte) (v : Nat × Bool) => bs ++ bytesOfNat (accBytes x.acc) v.1) [])) y.slots
        sticky := if satd then y.sticky ||| 1 else y.sticky }).clearPoison 0 (tileAt t.val x.acc 0 0) (rows * 256 * accBytes x.acc)))

/-- The store a KIND names, its poison region and its size (R260). -/
def MatrixArray.image (a : MatrixArray) : PlaneKind → Memory
  | .active => a.active
  | .shadow => a.shadow
  | .activeScales => a.activeScales
  | .shadowScales => a.shadowScales
def MatrixArray.setImage (a : MatrixArray) (k : PlaneKind) (m : Memory) : MatrixArray :=
  match k with
  | .active => { a with active := m, zeroA := [] }
  | .shadow => { a with shadow := m, zeroS := [] }
  | .activeScales => { a with activeScales := m }
  | .shadowScales => { a with shadowScales := m }
def imageBytes : PlaneKind → Nat
  | .active | .shadow => 65536
  | .activeScales | .shadowScales => 16384

/-- MSWAP (R255). -/
def MatrixArray.swap (a : MatrixArray) : MatrixArray :=
  let other := fun p =>
    let r := p / 2 ^ 20
    poisonKey (if r = 1 then 2 else if r = 2 then 1 else if r = 3 then 4 else if r = 4 then 3 else r) (p % 2 ^ 20)
  { a with
    active := a.shadow, shadow := a.active, activeScales := a.shadowScales, shadowScales := a.activeScales
    tagA := a.tagS, tagS := a.tagA, zeroA := a.zeroS, zeroS := a.zeroA, poison := a.poison.map other }

/-- The whole of an operation other than MMA and MMAG. -/
noncomputable def State.runOp (s : State) (core wg : Nat) (o : ArrayOp) (i : Instr) : ArrayRun :=
  match i with
  | .mlds _ _ f => s.runMlds core wg o f
  | .mldsg _ _ f q => s.runMldsg core wg o f q.val
  | .mscale _ int4 g => s.runMscale core wg o int4 g
  | .mswap => .done (s.modArray core MatrixArray.swap)
  | .mzero t acc => .done (s.modArray core (fun a =>
      ({ a with slots := a.slots.filter (fun c => !(decide (tileAt t.val acc 0 0 ≤ c.1) && decide (c.1 < tileAt t.val acc 0 0 + tileBytes acc))) }).clearPoison
        0 (tileAt t.val acc 0 0) (tileBytes acc)))
  | .mst t _ _ x => s.runMst core wg o t x
  | .mld t _ _ x => s.runMld core wg o t x
  | .mstPlane _ k =>
    if (s.core core).array.poisonIn k.code 0 (imageBytes k) then .lost 0
    else .done (s.penSet wg o.a.toNat (((s.core core).array.image k).getBytes 0 (imageBytes k)))
  | .mldPlane _ k =>
    if s.penRangeLost wg o.a.toNat (imageBytes k) then .lost 0
    else .done (s.modArray core (fun a => (a.setImage k (Memory.setBytes [] 0 (s.penBytesAt wg o.a.toNat (imageBytes k)))).clearPoison k.code 0 (imageBytes k)))
  | _ => .done s

/-- The bands an operation works on. -/
def opBands (a : MatrixArray) (i : Instr) : Nat :=
  match i with
  | .mlds .. | .mldsg .. | .mma .. | .mmag .. => a.bands
  | _ => 0

/-- Every row left of an MMA or MMAG, at most `fuel`. -/
noncomputable def State.runRows (s : State) (core wg : Nat) (o : ArrayOp) (t : Slot) (x : MmaMod) (q : Option QReg) : Nat → ArrayRun
  | 0 => .done s
  | fuel + 1 =>
    if x.rows.toNat ≤ o.prog then .done s
    else
      match s.runRow core wg o t x q with
      | .done u => u.runRows core wg { o with prog := o.prog + 1 } t x q fuel
      | r => r

/-- A whole operation at once. -/
noncomputable def State.runWhole (s : State) (core wg : Nat) (o : ArrayOp) (i : Instr) : ArrayRun :=
  match i with
  | .mma t _ _ x => s.runRows core wg o t x none 64
  | .mmag t _ _ x q => s.runRows core wg o t x (some q) 64
  | j => s.runOp core wg o j

/-- A failed shadow check of the array: its record, and the adder taken out of service until its test (R78, R417). -/
def State.adderShadow (s : State) (core wg : Nat) : State :=
  { (s.quarantine 2 (locOfCore core 0)).report { Report.plain 0x04 1 with
      unit := 2, loc := locOfCore core 0, ctx := s.wgCtx wg, grid := s.wgGrid wg, detail := causeShadow } with upset := none }

/-- What an event makes of a run: the state, or a fault of the operation. -/
def State.afterRun (s : State) (core wg : Nat) (o : ArrayOp) (r : ArrayRun) (eff : State → State) : State :=
  match r with
  | .done u => eff u
  | .wait va => s.askPage (s.wgCtx wg) va 4
  | .fault c i f bad => (s.metBad (s.wgCtx wg) (s.wgGrid wg) f bad).arrayFault core o c i f
  | .lost pa => s.arrayLost core o pa
  | .shadow => (s.adderShadow core wg).arrayFault core o causeShadow 1 0

/-! ## Events -/

/-- An entry that may run now, with its operation and the lessee. -/
noncomputable def State.runnable (s : State) (core id : Nat) : Option (ArrayOp × Instr × Nat) :=
  let a := (s.core core).array
  match a.queue.find? (fun o => decide (o.id = id)), a.lessee with
  | some o, some wg =>
    match o.instr with
    | some i => if s.arrayRuns core && mayRun a.queue o then some (o, i, wg) else none
    | none => none
  | _, _ => none

/-- ARRAY_FILL_COMPLETE (R252 to R254). -/
noncomputable def execArrayFillComplete (core id : Nat) (s : State) : Out :=
  match s.runnable core id with
  | none => .next s
  | some (o, i, wg) =>
    .next (if sideOf i = 0 then
      s.withBands core (opBands (s.core core).array i) (fun t =>
        t.afterRun core wg o (t.runOp core wg o i) (fun u => u.finishOp core o))
    else s)

/-- The tile, the extension and the record of an MMA or MMAG. -/
def mmaParts (i : Instr) : Option (Slot × MmaMod × Option QReg) :=
  match i with
  | .mma t _ _ x => some (t, x, none)
  | .mmag t _ _ x q => some (t, x, some q)
  | _ => none

/-- MMA_ROW_COMPLETE (R256). -/
noncomputable def execMmaRowComplete (core id : Nat) (s : State) : Out :=
  match s.runnable core id with
  | none => .next s
  | some (o, i, wg) =>
    match mmaParts i with
    | none => .next s
    | some (t, x, q) =>
      .next (if o.prog < x.rows.toNat then
        s.withBands core (s.core core).array.bands (fun u => u.afterRun core wg o (u.runRow core wg o t x q) (fun v => v))
      else s)

/-- ARRAY_SERIAL_OP_START (R247): PROG 1 marks that it has been done. -/
noncomputable def execArraySerialOpStart (core id : Nat) (s : State) : Out :=
  match s.runnable core id with
  | none => .next s
  | some (o, i, wg) =>
    .next (if sideOf i = 2 ∧ o.prog = 0 then
      s.afterRun core wg o (s.runOp core wg o i) (fun u => u.modOp core o (fun e => { e with prog := 1 }))
    else s)

/-- ARRAY_OP_COMPLETE (R247): a compute operation, or one of neither side that has been done. -/
noncomputable def execArrayOpComplete (core id : Nat) (s : State) : Out :=
  match s.runnable core id with
  | none => .next s
  | some (o, i, wg) =>
    match mmaParts i with
    | some (_, x, _) => .next (if x.rows.toNat ≤ o.prog then s.finishOp core o else s)
    | none =>
      .next (if sideOf i = 1 then s.afterRun core wg o (s.runOp core wg o i) (fun u => u.finishOp core o)
      else if sideOf i = 2 ∧ o.prog = 1 then s.finishOp core o
      else s)

/-! ## Issue -/

/-- ARRAY: no lease, or a slot at or above it (R245). -/
def State.arrayTrap (s : State) (slots : List Nat) : Option TrapReq :=
  if (s.core s.curCore).array.lessee ≠ some s.curWg || slots.any (fun t => decide ((s.wg s.curWg).lease ≤ t)) then
    some (s.mkTrap causeArray 0 s.active 0)
  else none

/-- The slots a tile takes. -/
def tileSlots (t : Slot) (acc : Acc) : List Nat :=
  match acc with
  | .f32 => [t.val, t.val + 1]
  | .f16 | .bf16 => [t.val]

/-- MISALIGN then BOUNDS of a pen operand (R252, R254, R259): the addresses that must be multiples of 16, and the span, which
`holds` says lies in the pen. -/
def State.spanTrap (s : State) (holds : Bool) (al : List Nat) (a : Nat) : Option TrapReq :=
  if al.any (fun x => decide (x % 16 ≠ 0)) then some (s.trap16 causeMisalign a)
  else if !holds then some (s.trap16 causeBounds a)
  else none
def State.penTrap (s : State) (al : List Nat) (a n : Nat) : Option TrapReq :=
  s.spanTrap (decide (a + n ≤ (s.wg s.curWg).penBytes)) al a
/-- The same of MST and MLD, which may name the window (R370). -/
def State.windowTrap (s : State) (al : List Nat) (a n : Nat) : Option TrapReq := s.spanTrap (s.penHolds a n) al a

/-- The checks of R253 over every element of an operand from global memory. -/
def State.globalTrap (s : State) (q : QReg) (f : BFmt) (ef : PFmt) (a b count k : Nat) : Option TrapReq :=
  let r := Rec.ofBits (s.src.qreg q.val)
  let g := grpLen (optG f.grp)
  let is := (List.range count).foldl (fun l c => l ++ (List.range k).map (fun i => a + c * b + i)) []
  let va := fun i => (elemAt r.base i (PFmt.bits ef)).1
  let trap := fun c i => { s.trap16 c (va i) with info := word32 q.val }
  if f.grp.isSome && (decide (a % g ≠ 0) || decide (b % g ≠ 0)) then some (trap causeMisalign a)
  else
    match (if r.oob then is.find? (fun i => decide (r.extent ≤ i)) else none) with
    | some i => some (trap causeBounds i)
    | none =>
      match is.find? (fun i => decide (i < r.extent) && decide (va i % Nat.max 1 (PFmt.bits ef / 8) ≠ 0)) with
      | some i => some (trap causeMisalign i)
      | none => (is.find? (fun i => decide (i < r.extent) && decide (2 ^ 48 ≤ va i))).map (trap causeAccess)

/-- Bit Q of OOBFLAGS where an element is out of bounds (R48). -/
def State.globalOob (s : State) (q : QReg) (a b count k : Nat) : State :=
  let r := Rec.ofBits (s.src.qreg q.val)
  if decide (0 < count) && decide (0 < k) && decide (r.extent < a + (count - 1) * b + k) then
    s.modCur (fun w => { w with oobflags := w.oobflags ||| (1#32 <<< q.val) })
  else s

/-- A new entry of the queue: behind those accepted before, but before those that younger waves of other quarters entered in
this clk (R247). -/
def enterQueue (o : ArrayOp) (q : List ArrayOp) : List ArrayOp :=
  let later := q.reverse.takeWhile (fun x =>
    decide (x.clk = o.clk) && decide (keyQuarter x.wave ≠ keyQuarter o.wave) && decide (o.age < x.age))
  q.take (q.length - later.length) ++ o :: later.reverse

/-- A handler's operation bypasses the queue and is done at once (R262), but for the wake of a band and the service of a page. -/
noncomputable def State.atOnce (s : State) (core : Nat) (o : ArrayOp) (i : Instr) : State :=
  let mask := opBands (s.core core).array i
  if !(s.core core).array.powered mask then (s.withBands core mask id).retry .stalled
  else
    match s.runWhole core s.curWg o i with
    | .done u => u.adv
    | .wait va =>
      if (s.translate core s.curCtx va .read).isAbsent then
        (s.retryWave (.page s.curCtx (pageOf va) 0 (s.mkTrap causeAccess 16 s.active va))).askPage s.curCtx va 4
      else s.retry .stalled
    | .fault c f v bad => (s.metBad s.curCtx s.curGrid v bad).raise (s.mkTrap c f s.active v)
    | .lost pa => s.consume s.active 0 pa
    | .shadow => (s.adderShadow core s.curWg).raise (s.mkTrap causeShadow 1 s.active 0)

/-- A queued operation enters the queue (R247). -/
noncomputable def State.enqueue (s : State) (i : Instr) (a b : Word) (recd : BitVec 128) : State :=
  let core := s.curCore
  let op : Nat → ArrayOp := fun id =>
    ⟨id, i.word, i.extWords.headD 0#32, a, b, recd, 0, s.iss.key, s.cur.index, s.active, s.iss.pc, s.cycle.toNat, s.cur.age⟩
  if s.cur.handler then s.atOnce core (op 0) i
  else if 8 ≤ (s.core core).array.queue.length then s.retry .stalled
  else s.counted clsMtx (fun id t => (t.modArray core (fun x => { x with queue := enterQueue (op id) x.queue })).adv)

/-- An operation that waits for the queue to empty, then acts at once; a handler's does not wait (R247, R262). -/
def State.whenEmpty (s : State) (eff : State → State) : State :=
  if s.cur.handler || (s.core s.curCore).array.queue.isEmpty then eff s else s.retry .stalled

/-- The trap of a check, or the next one. -/
def orTrap (a : Option TrapReq) (b : Option TrapReq) : Option TrapReq := if a.isSome then a else b

def bandMasks : List Nat := [1, 3, 7, 15]

noncomputable def execMshape (a : USrc) (s : State) : Out :=
  checked (.mshape a) lawful
    (fun s => orTrap (s.arrayTrap []) (if bandMasks.contains (fld (s.src.u32 a) 0 4) then none else some (s.trap16 causeBounds 0)))
    (fun s => s.whenEmpty (fun t => (t.modArray t.curCore (fun x => { x with bands := fld (s.src.u32 a) 0 4 })).adv)) s

noncomputable def execMlds (a b : USrc) (f : BFmt) (s : State) : Out :=
  checked (.mlds a b f) lawful
    (fun s =>
      let x := (s.src.u32 a).toNat
      let y := (s.src.u32 b).toNat
      orTrap (s.arrayTrap []) (s.penTrap [x, y] x (((s.core s.curCore).array.cols - 1) * y + kBytes f.fmt)))
    (fun s => s.enqueue (.mlds a b f) (s.src.u32 a) (s.src.u32 b) 0#128) s

/-- A record whose form the array may not use (R46, R55). -/
def swizzled (x : BitVec 128) : Bool := recBad x || decide ((Rec.ofBits x).swz ≠ 0)

/-- An operation with an operand in global memory: the bit of OOBFLAGS is set whatever OOBMODE makes of the element (R48). -/
noncomputable def State.globalOp (s : State) (i : Instr) (slots : List Nat) (q : QReg) (f : BFmt) (ef : PFmt) (a b : USrc)
    (count k : Nat) : Out :=
  let x := (s.src.u32 a).toNat
  let y := (s.src.u32 b).toNat
  match orTrap (s.issueTrap i (swizzled (s.src.qreg q.val))) (s.arrayTrap slots) with
  | some t => .next (s.raise t)
  | none =>
    let s1 := s.globalOob q x y count k
    match s.globalTrap q f ef x y count k with
    | some t => .next (s1.raise t)
    | none => .next (s1.enqueue i (s.src.u32 a) (s.src.u32 b) (s.src.qreg q.val))

noncomputable def execMldsg (a b : USrc) (f : BFmt) (q : QReg) (s : State) : Out :=
  s.globalOp (.mldsg a b f q) [] q f f.fmt a b (s.core s.curCore).array.cols (kStep f.fmt)

noncomputable def execMscale (a : USrc) (int4 : Bool) (g : GLen) (s : State) : Out :=
  checked (.mscale a int4 g) lawful
    (fun s =>
      let x := (s.src.u32 a).toNat
      orTrap (s.arrayTrap []) (s.penTrap [x] x ((if int4 then 512 else 256) / grpLen g.code * (s.core s.curCore).array.cols * 4)))
    (fun s => s.enqueue (.mscale a int4 g) (s.src.u32 a) 0#32 0#128) s

noncomputable def execMswap (s : State) : Out :=
  checked .mswap lawful (fun s => s.arrayTrap []) (fun s => s.enqueue .mswap 0#32 0#32 0#128) s

noncomputable def execMma (t : Slot) (a b : USrc) (x : MmaMod) (s : State) : Out :=
  checked (.mma t a b x) lawful
    (fun s =>
      let p := (s.src.u32 a).toNat
      let y := (s.src.u32 b).toNat
      orTrap (s.arrayTrap (tileSlots t x.acc))
        (s.penTrap [p, y] p ((x.rows.toNat - 1) * y + kStep x.bf.fmt * PFmt.bits x.af / 8)))
    (fun s => s.enqueue (.mma t a b x) (s.src.u32 a) (s.src.u32 b) 0#128) s

noncomputable def execMmag (t : Slot) (a b : USrc) (x : MmaMod) (q : QReg) (s : State) : Out :=
  s.globalOp (.mmag t a b x q) (tileSlots t x.acc) q x.bf x.af a b x.rows.toNat (kStep x.bf.fmt)

noncomputable def execMzero (t : Slot) (acc : Acc) (s : State) : Out :=
  checked (.mzero t acc) lawful (fun s => s.arrayTrap (tileSlots t acc)) (fun s => s.enqueue (.mzero t acc) 0#32 0#32 0#128) s

/-- The span of a tile's rows in the pen. -/
def tileSpan (x : TileMod) (stride : Nat) : Nat := (x.rows.toNat - 1) * stride + 256 * PFmt.bytes x.pf

noncomputable def execMst (t : Slot) (a b : USrc) (x : TileMod) (s : State) : Out :=
  checked (.mst t a b x) lawful
    (fun s =>
      let p := (s.src.u32 a).toNat
      let y := (s.src.u32 b).toNat
      orTrap (s.arrayTrap (tileSlots t x.acc)) (s.windowTrap [p, y] p (tileSpan x y)))
    (fun s => s.enqueue (.mst t a b x) (s.src.u32 a) (s.src.u32 b) 0#128) s

noncomputable def execMld (t : Slot) (a b : USrc) (x : TileMod) (s : State) : Out :=
  checked (.mld t a b x) lawful
    (fun s =>
      let p := (s.src.u32 a).toNat
      let y := (s.src.u32 b).toNat
      orTrap (s.arrayTrap (tileSlots t x.acc)) (s.windowTrap [p, y] p (tileSpan x y)))
    (fun s => s.enqueue (.mld t a b x) (s.src.u32 a) (s.src.u32 b) 0#128) s

noncomputable def execMstPlane (a : USrc) (k : PlaneKind) (s : State) : Out :=
  checked (.mstPlane a k) lawful
    (fun s => orTrap (s.arrayTrap []) (s.windowTrap [(s.src.u32 a).toNat] (s.src.u32 a).toNat (imageBytes k)))
    (fun s => s.enqueue (.mstPlane a k) (s.src.u32 a) 0#32 0#128) s

noncomputable def execMldPlane (a : USrc) (k : PlaneKind) (s : State) : Out :=
  checked (.mldPlane a k) lawful
    (fun s => orTrap (s.arrayTrap []) (s.windowTrap [(s.src.u32 a).toNat] (s.src.u32 a).toNat (imageBytes k)))
    (fun s => s.enqueue (.mldPlane a k) (s.src.u32 a) 0#32 0#128) s

/-- PROG of the oldest compute operation. -/
noncomputable def MatrixArray.prog (a : MatrixArray) : Nat :=
  ((a.queue.find? (fun o => decide (o.side = 1))).map ArrayOp.prog).getD 0

noncomputable def execMstat (d : UDst) (clear : Bool) (s : State) : Out :=
  checked (.mstat d clear) lawful (fun s => s.arrayTrap [])
    (fun s => s.whenEmpty (fun t =>
      let a := (t.core t.curCore).array
      let t1 := t.putU d (word32 (a.sticky + a.prog * 2 ^ 16))
      (if clear then t1.modArray t1.curCore (fun x => { x with sticky := 0 }) else t1).adv)) s

/-- The lease ends: everything of the array is zero again, its bands as they are powered (R246, R264). -/
def State.endLease (s : State) (core : Nat) : State :=
  s.modCore core (fun c => { c with array := { MatrixArray.init with band := c.array.band }, window := none })

/-- MREL: the workgroup holds no lease any more, here or where it may be restored (R245, R264). -/
noncomputable def execMrel (s : State) : Out :=
  checked .mrel lawful (fun s => s.arrayTrap [])
    (fun s => s.whenEmpty (fun t => ((t.endLease t.curCore).modWg t.curWg (fun g => { g with lease := 0 })).adv)) s

/-- ARRAYSHAPE as a wave reads it (Table 11.6). -/
def State.arrayShape (s : State) (core wg : Nat) : Nat :=
  let a := (s.core core).array
  if a.lessee = some wg then
    a.bands + (List.range 4).foldl (fun n b => n + (if (a.band.getD b Band.init).on then 2 ^ (4 + b) else 0)) 0 +
      (if a.band.any (fun b => b.waking.isSome) then 256 else 0)
  else 0

end Sys2Proof.Machine
end

