-- ==== Sys2Proof/Machine/Flock.lean ====
section
/-! DEFINITION. Machine/Flock.lean: NEV, NETLD and the flock unit (11.9 to 11.12): the network table, the gathering of rows
into tiles, the evaluation of a row, and the landing of a NEV. -/

namespace Sys2Proof.Machine

open Sys2Proof

/-! ## The network table (R266, R267) -/

/-- A network entry's fields (Table 11.9). -/
structure NetEntry where
  nin : Nat
  layers : Nat
  bias : Bool
  wfmt : Nat
  valid : Bool
  acts : List Nat
  outs : List Nat
  wva : Nat
  bva : Nat
  deriving DecidableEq, Repr

def NetEntry.ofNat (e : Nat) : NetEntry :=
  let n := nbits e 10 8 + 1
  ⟨nbits e 7 0, n, nbits e 11 11 == 1, nbits e 14 12, nbits e 15 15 == 1, (List.range n).map (fun l => nbits e (17 + 2 * l) (16 + 2 * l)),
    (List.range n).map (fun l => nbits e (39 + 8 * l) (32 + 8 * l) + 1), nbits e 143 96, nbits e 207 160⟩

/-- The last layer's output width. -/
def NetEntry.nout (x : NetEntry) : Nat := x.outs.getLast?.getD 0

/-- VALID, no reserved field set, every field in range (Table 11.12, NET). -/
def netOk (e : Nat) : Bool :=
  let x := NetEntry.ofNat e
  x.valid && nbits e 511 208 == 0 && nbits e 159 144 == 0 &&
  (List.range 8).all (fun l => decide (l < x.layers) || (nbits e (39 + 8 * l) (32 + 8 * l) == 0 && nbits e (17 + 2 * l) (16 + 2 * l) == 0)) &&
  decide (2 ≤ x.wfmt) && decide (1 ≤ x.nin) && decide (x.nin ≤ 64) && decide (x.nout ≤ 16)

/-- A weight format by its page code. -/
def pageFmt (c : Nat) : PFmt :=
  match c with
  | 1 => .f32
  | 2 => .f16
  | 3 => .bf16
  | 4 => .e4m3
  | 5 => .e5m2
  | 6 => .int8
  | 7 => .int4
  | _ => .raw

/-- Input widths of the layers. -/
def NetEntry.ins (x : NetEntry) : List Nat := x.nin :: x.outs.dropLast

/-- The element indices of the weights, layer after layer, output after output (R267). -/
def NetEntry.weightIxs (x : NetEntry) (g : Nat) : List Nat :=
  ((x.ins.zip x.outs).foldl (fun (p : List Nat × Nat) l =>
    let c := roundUp l.1 g
    (p.1 ++ (List.range l.2).foldl (fun is j => is ++ (List.range l.1).map (fun k => p.2 + j * c + k)) [], p.2 + c * l.2)) ([], 0)).1

/-- Why a fetch of the flock unit gives nothing: a page to be served, a page refused (by a malformed entry), data lost or of no
use, or a page whose accesses only wait (R393, R106). -/
inductive FetchStop where
  | absent (va : Nat)
  | refused (va : Nat) (bad : Bool)
  | lost
  | held
  deriving DecidableEq, Repr

/-- How a fetch of a network ends: the entry, its weights and biases as words, or the failure of Table 11.12. -/
inductive NetLoad where
  | ok (bytes : List Byte) (pages : List Trans)
  | net (x : FetchStop)
  | weight (x : FetchStop)
  deriving DecidableEq, Repr

/-- Bytes of a range of VAs as an engine reads them, with the pages used. -/
def State.engineBytes (s : State) (core wg ctx va n : Nat) : Except FetchStop (List Byte × List Trans) :=
  match s.spanOf core wg ctx va n .read with
  | .ok ts =>
    let pas := spanPas ts
    if pas.any (fun pa => s.poisonedRead core wg pa 1) then .error .lost
    else .ok (pas.map (s.viewByte core wg), ts.map Prod.fst)
  | .wait a => .error (.absent a)
  | .held => .error .held
  | .refused a bad => .error (.refused a bad)

/-- What a failed fetch leaves beyond its failure: a page not present is sent to the pager, a malformed entry is recorded. -/
def State.fetchFailed (s : State) (ctx grid : Nat) (x : FetchStop) : State :=
  match x with
  | .absent va => s.askPage ctx va 4
  | .refused va bad => s.metBad ctx grid va bad
  | .lost | .held => s

/-- The same of an element of a page. -/
def PageElem.fetchStop (s : State) (ctx : Nat) (x : PageElem) : FetchStop :=
  match x with
  | .wait va => if (s.walk ctx va) = .absent then .absent va else .held
  | .refused va bad => .refused va bad
  | .format _ | .lost _ | .got .. => .lost

/-- The word a weight is kept as: every weight format is exact in FP32 (R66, R67). -/
def weightWord (f : PFmt) (x : PageElem) : Nat :=
  match x with
  | .got b (some sc) _ => fp32.rne (groupedValue (if f = .int4 then sextN b 4 else sextN b 8) sc)
  | .got b none _ => fp32.rne (plainValue f b)
  | .wait _ | .refused .. | .format _ | .lost _ => 0

/-- Fetch a handle's entry, weights and biases (R267, Table 11.12), as relaxed loads of a workgroup (R101). -/
def State.loadNet (s : State) (core wg ctx handle : Nat) : NetLoad :=
  match s.engineBytes core wg ctx ((s.ctx ctx).netbase + 64 * handle) 64 with
  | .error a => .net a
  | .ok (eb, p0) =>
    let e := natOfBytes eb
    let x := NetEntry.ofNat e
    if !netOk e then .net .lost
    else if x.wva % 256 ≠ 0 ∨ x.bva % 4 ≠ 0 then .weight .lost
    else
      let f := pageFmt x.wfmt
      let grp := if x.wfmt = 6 ∨ x.wfmt = 7 then pteGrp (s.translate core ctx x.wva .read).leaf else 0
      let g := if x.wfmt = 6 ∨ x.wfmt = 7 then grpLen grp else 32
      let ws := (x.weightIxs g).map (fun i => s.pageElem core wg ctx x.wva i f x.wfmt grp)
      match firstStop ws with
      | some e => .weight (e.fetchStop s ctx)
      | none =>
        let outs := x.outs.foldl (· + ·) 0
        let biases := if x.bias then s.engineBytes core wg ctx x.bva (4 * outs) else .ok (List.replicate (4 * outs) 0#8, [])
        match biases with
        | .error a => .weight a
        | .ok (bb, p1) =>
          .ok (eb ++ ws.foldl (fun bs w => bs ++ bytesOfNat 4 (weightWord f w)) [] ++ bb)
            (p0 ++ p1 ++ ws.foldl (fun l (w : PageElem) => l ++ w.pages) []).eraseDups

/-! ## Evaluating a row (R268) -/

/-- Word `i` of a list of bytes. -/
def wordAt (bs : List Byte) (i : Nat) : Nat := natOfBytes ((bs.drop (4 * i)).take 4)

/-- The activations of Table 11.10 on an FP32 result. -/
def activate (code y : Nat) : Nat :=
  let v := fp32.value y
  if v.isNan then fp32.nan
  else
    match code with
    | 1 => if v.neg then 0 else y
    | 2 => if v.neg && !v.isZero then fp32.rne (v.mul (.fin false 1 (-4))) else y
    | 3 => if v.neg then 0 else if 0 < FVal.order v (.fin false 1 0) then fp32.rne (.fin false 1 0) else y
    | _ => y

/-- One output of a layer: chunks of 32 products, the last padded with zeros, then bias and activation; and whether the shadow
check of an addition fails. An upset strikes one addition: those of the chunks are numbered first, that of the bias last. -/
def neuron (act : Nat) (xs ws : List FVal) (bias : Nat) (hit : Option (Nat × Nat)) : Nat × Bool :=
  let n := ceilDiv xs.length 32
  let pad := List.replicate (32 * n - xs.length) (FVal.fin false 0 0)
  let acc := accStep fp32 true false 0 (xs ++ pad) (ws ++ pad) hit
  let y := fp32.rne (FVal.sum .rne [fp32.value acc.1, fp32.value bias])
  match hit with
  | some (k, v) => if k = n then (activate act (y ^^^ v), fp32.shadowFails (y ^^^ v) y) else (activate act y, acc.2.2)
  | none => (activate act y, acc.2.2)

/-- The layers from one on: `w` and `b` count the weights and biases already used; `hit` numbers the additions from here. -/
def netLayers (net : List Byte) (biasAt : Nat) : List (Nat × Nat × Nat) → Nat → Nat → List FVal → Option (Nat × Nat) → List Nat × Bool
  | [], _, _, _, _ => ([], false)
  | (act, nin, nout) :: rest, w, b, xs, hit =>
    let per := ceilDiv nin 32 + 1
    let ys := (List.range nout).map (fun j =>
      neuron act xs ((List.range nin).map (fun k => fp32.value (wordAt net (16 + w + j * nin + k)))) (wordAt net (biasAt + b + j))
        ((hit.filter (fun h => decide (h.1 / per = j))).map (fun h => (h.1 % per, h.2))))
    let bad := ys.any Prod.snd
    match rest with
    | [] => (ys.map Prod.fst, bad)
    | _ :: _ =>
      let r := netLayers net biasAt rest (w + nin * nout) (b + nout) (ys.map (fun y => fp16.value (fp16.rne (fp32.value y.1))))
        ((hit.filter (fun h => decide (per * nout ≤ h.1))).map (fun h => (h.1 - per * nout, h.2)))
      (r.1, bad || r.2)

/-- The outputs of a row, FP32 words, and whether the shadow check of an addition fails (R77). -/
def evalRow (net : List Byte) (inputs : List Half) (hit : Option (Nat × Nat)) : List Nat × Bool :=
  let x := NetEntry.ofNat (natOfBytes (net.take 64))
  let nw := (x.ins.zip x.outs).foldl (fun n l => n + l.1 * l.2) 0
  netLayers net (16 + nw) (x.acts.zip (x.ins.zip x.outs)) 0 0 (inputs.map (fun h => fp16.value h.toNat)) hit
def evalNet (net : List Byte) (inputs : List Half) : List Nat := (evalRow net inputs none).1

/-- Additions that a row makes. -/
def NetEntry.additions (x : NetEntry) : Nat := (x.ins.zip x.outs).foldl (fun n l => n + l.2 * (ceilDiv l.1 32 + 1)) 0

/-! ## NEV operations of a wave -/

def Wave.modNev (w : Wave) (id : Nat) (f : NevOp → NevOp) : Wave :=
  { w with nevs := w.nevs.map (fun n => if n.id = id then f n else n) }

/-- A lane of a NEV fails with a cause bit (Table 11.12), beside those it has failed with. -/
def NevOp.fail (n : NevOp) (lane cause : Nat) : NevOp :=
  { n with failed := n.failed ||| (1#32 <<< lane), causes := tabSet n.causes lane ((tabGet n.causes lane).getD 0 ||| cause) }

/-- Bits of the NEVFAULT causes. -/
def nevHandle : Nat := 1
def nevInput : Nat := 2
def nevShape : Nat := 4
def nevNet : Nat := 8
def nevWeight : Nat := 16
def nevShadow : Nat := 32

/-- A wave with a NEV's results: outputs of the lanes that succeeded and are live, and its fault mask (R274). -/
def Wave.landNev (w : Wave) (n : NevOp) : Wave :=
  let good := n.lanes &&& ~~~ n.failed &&& w.live
  let bad := n.failed &&& w.live
  let w1 := w.modLanes good (fun l x => { x with
    regs := (((tabGet n.results l).getD []).foldl (fun (p : List Word × Nat) v => (setAt p.1 p.2 v, p.2 + 1)) (x.regs, n.d)).1
    poison := x.poison.filter (fun p => !(decide (n.d ≤ p) && decide (p < n.d + n.nout)))
    deferred := x.deferred.filter (fun p => !(decide (n.d ≤ p.reg) && decide (p.reg < n.d + n.nout))) })
  let w2 := match n.fmask with
    | some m => ({ w1 with m := modAt w1.m m.val (fun x => (x &&& ~~~ n.lanes) ||| bad) }).releaseMask m
    | none => w1
  { w2 with nevs := w2.nevs.filter (fun k => decide (k.id ≠ n.id)) }.completeOp n.id

/-- A NEV lands when its last row is done; NEVFAULT then falls due where TRAPEN asks for it (R274). -/
def State.landNev (s : State) (key id : Nat) : State :=
  match (s.wave key).nevs.find? (fun n => decide (n.id = id)) with
  | none => s
  | some n =>
    let bad := n.failed &&& (s.wave key).live
    let causes := (lanesOf bad).foldl (fun c l => c ||| (tabGet n.causes l).getD 0) 0
    let s1 := s.modWave key (fun w => w.landNev n)
    if n.trapen && decide (bad ≠ 0#32) then s1.fallDue key causeNevfault causes bad n.iaddr 0 false else s1

/-- A row is done: its lane's outputs, or its failure. -/
def State.rowDone (s : State) (r : FlockRow) (res : Except Nat (List Nat)) : State :=
  let s1 := s.modWave r.wave (fun w => w.modNev r.nev (fun n =>
    let n1 := match res with
      | .ok ys => { n with results := tabSet n.results r.lane (ys.map word32) }
      | .error c => n.fail r.lane c
    { n1 with left := n1.left - 1 }))
  match (s1.wave r.wave).nevs.find? (fun n => decide (n.id = r.nev)) with
  | some n => if n.left = 0 then s1.landNev r.wave r.nev else s1
  | none => s1

/-! ## Gathering (R272) -/

/-- A row's inputs are read as its tile is formed; a lane whose page is not there fails with INPUT and does not wait. A row that
is held keeps its address and is read later. -/
def State.formRow (s : State) (core ctx : Nat) (r : FlockRow) : State × FlockRow :=
  match r.mem with
  | none => (s, r)
  | some va =>
    match (s.wave r.wave).nevs.find? (fun n => decide (n.id = r.nev)) with
    | none => (s, { r with mem := none })
    | some n =>
      match s.engineBytes core (s.wave r.wave).wg ctx va (2 * n.nin) with
      | .ok (bs, ps) =>
        (s.touchAll core false ps,
          { r with mem := none, inputs := (List.range n.nin).map (fun j => BitVec.ofNat 16 (natOfBytes ((bs.drop (2 * j)).take 2))) })
      | .error .held => (s, r)
      | .error x =>
        ((s.fetchFailed ctx (s.wgGrid (s.wave r.wave).wg) x).modWave r.wave (fun w => w.modNev r.nev (fun n => n.fail r.lane nevInput)),
          { r with mem := none })

/-- The rows of a tile that are still to be read. -/
def State.formRows (s : State) (core : Nat) (t : FlockTile) : State × FlockTile :=
  let (s1, rows) := t.rows.foldl (fun (p : State × List FlockRow) r =>
    let (u, r') := p.1.formRow core t.ctx r
    (u, p.2 ++ [r'])) (s, [])
  (s1, { t with rows := rows })

/-- A tile closes: its rows are formed and it joins the closed tiles in closing order. -/
def State.closeTile (s : State) (core i : Nat) : State :=
  match (s.core core).tiles[i]? with
  | none => s
  | some t =>
    let (s1, t1) := s.formRows core t
    s1.modCore core (fun c => { c with tiles := c.tiles.eraseIdx i ++ [{ t1 with closed := true }] })

/-- The open tile of a handle of a context. -/
def openTile (ts : List FlockTile) (ctx handle : Nat) : Option Nat :=
  ts.findIdx? (fun t => !t.closed && decide (t.ctx = ctx) && decide (t.handle = handle))

/-- A row joins its handle's open tile, or opens one; 64 rows close it. -/
def State.enterRow (s : State) (core : Nat) (e : FlockEntry) : State :=
  let ts := (s.core core).tiles
  match openTile ts e.ctx e.handle with
  | none => s.modCore core (fun c => { c with tiles := c.tiles ++ [⟨e.ctx, e.handle, [e.row], s.cycle.toNat, false⟩] })
  | some i =>
    let s1 := s.modCore core (fun c => { c with tiles := modAt c.tiles i (fun t => { t with rows := t.rows ++ [e.row] }) })
    if 63 ≤ ((ts[i]?).map (fun t => t.rows.length)).getD 0 then s1.closeTile core i else s1

/-- Insert by wave age, older first, behind those of the same age. -/
def insertByAge (e : FlockEntry) : List FlockEntry → List FlockEntry
  | [] => [e]
  | x :: r => if e.age < x.age then e :: x :: r else x :: insertByAge e r

/-- The rows of one clk enter in wave-age order (R272). -/
def State.flockEnter (s : State) : State :=
  (s.cores.filter (fun c => !c.2.inbox.isEmpty)).foldl (fun t c =>
    let rows := c.2.inbox.foldl (fun l e => insertByAge e l) []
    rows.foldl (fun u e => u.enterRow c.1 e) (t.modCore c.1 (fun x => { x with inbox := [] }))) s

/-- FLOCK_TILE_CLOSE: FLOCK_WAIT has passed, or the wave of a row is to be pre-empted. -/
noncomputable def execFlockTileClose (core tile : Nat) (s : State) : Out :=
  match (s.core core).tiles[tile]? with
  | none => .next s
  | some t =>
    let leaving := t.rows.any (fun r => (s.drove (s.wg (s.wave r.wave).wg).drove).phase.halts)
    .next (if !t.closed && (leaving || decide (t.first + (s.ctx t.ctx).flockwait ≤ s.cycle.toNat)) then s.closeTile core tile else s)

/-! ## Running a tile (R273, R274) -/

/-- Key of a handle in a core's weight cache. -/
def netKey (ctx handle : Nat) : Nat := ctx * 65536 + handle

/-- The network a tile or a NETLD uses: as the core has cached it, else fetched afresh (R271). -/
def State.netOf (s : State) (core wg ctx handle : Nat) : NetLoad :=
  match tabGet (s.core core).weights (netKey ctx handle) with
  | some bs => .ok bs []
  | none => s.loadNet core wg ctx handle

/-- The state with a network in the weight cache. -/
def State.cacheNet (s : State) (core ctx handle : Nat) (bs : List Byte) (ps : List Trans) : State :=
  (s.touchAll core false ps).modCore core (fun c => { c with weights := tabSet c.weights (netKey ctx handle) bs })

/-- What a row of a tile gives, its network at hand, and whether the shadow check of an addition fails. -/
def State.rowResult (s : State) (net : List Byte) (r : FlockRow) (hit : Option (Nat × Nat)) : Except Nat (List Nat) × Bool :=
  match (s.wave r.wave).nevs.find? (fun n => decide (n.id = r.nev)) with
  | none => (.ok [], false)
  | some n =>
    let x := NetEntry.ofNat (natOfBytes (net.take 64))
    if x.nin ≠ n.nin ∨ x.nout ≠ n.nout then (.error nevShape, false)
    else if (tabGet n.causes r.lane).isSome then (.error 0, false)
    else
      let y := evalRow net r.inputs hit
      (.ok y.1, y.2)

/-- A failed shadow check of the flock unit's adders: a record, no trap (Table 11.12). -/
def State.flockShadow (s : State) (core ctx : Nat) : State :=
  { (s.quarantine 2 (locOfCore core 0)).report { Report.plain 0x04 1 with unit := 2, loc := locOfCore core 0, ctx := ctx, detail := causeShadow } with upset := none }

/-- The lanes of a tile's rows all fail with a cause. -/
def State.tileFails (s : State) (t : FlockTile) (cause : Nat) : State := t.rows.foldl (fun u r => u.rowDone r (.error cause)) s

/-- The grid of a tile's first row, for a record. -/
def State.tileWg (s : State) (t : FlockTile) : Nat := ((t.rows.head?).map (fun r => (s.wave r.wave).wg)).getD 0

/-- A closed tile runs on its network: every row by itself, but a failed shadow check fails them all (R268, R274). -/
def State.runTile (s : State) (core : Nat) (t : FlockTile) (load : NetLoad) : State :=
  match load with
  | .net x => (s.fetchFailed t.ctx (s.wgGrid (s.tileWg t)) x).tileFails t nevNet
  | .weight x => (s.fetchFailed t.ctx (s.wgGrid (s.tileWg t)) x).tileFails t nevWeight
  | .ok net ps =>
    let s1 := s.cacheNet core t.ctx t.handle net ps
    let per := (NetEntry.ofNat (natOfBytes (net.take 64))).additions
    let hit := s.arrayUpset core 5 (t.rows.length * per)
    let res := t.rows.zipIdx.map (fun r => (r.1, s1.rowResult net r.1
      ((hit.filter (fun h => decide (h.1 / per = r.2))).map (fun h => (h.1 % per, h.2 % 2 ^ 32)))))
    if res.any (fun x => x.2.2) then (s1.flockShadow core t.ctx).tileFails t nevShadow
    else res.foldl (fun v x => v.rowDone x.1 x.2.1) { s1 with upset := if hit.isSome then none else s1.upset }

/-- A fetch that only waits. -/
def NetLoad.waits : NetLoad → Bool
  | .net .held | .weight .held => true
  | .ok .. | .net _ | .weight _ => false

/-- FLOCK_TILE_COMPLETE: closed tiles run in the order they closed, on every band, while no test holds the unit. A tile waits
for rows and a network whose accesses wait. -/
noncomputable def execFlockTileComplete (core tile : Nat) (s : State) : Out :=
  let ts := (s.core core).tiles
  match ts[tile]? with
  | none => .next s
  | some t =>
    let held := s.quarantined.any (fun x => decide (x.unit = 2) && decide (x.loc = locOfCore core 0))
    .next (if t.closed && !held && !(ts.take tile).any FlockTile.closed then
      let (s1, t1) := s.formRows core t
      let s2 := s1.modCore core (fun c => { c with tiles := modAt c.tiles tile (fun _ => t1) })
      let load := s2.netOf core (s2.tileWg t1) t1.ctx t1.handle
      if t1.rows.any (fun r => r.mem.isSome) || load.waits then s2
      else s2.withBands core 15 (fun u => (u.modCore core (fun c => { c with tiles := c.tiles.eraseIdx tile })).runTile core t1 load)
    else s)

/-- NEV_HANDLE_COMPLETE: a NEV that formed no row lands in the clk after its issue. -/
noncomputable def execNevHandleComplete (key id : Nat) (s : State) : Out :=
  match (s.wave key).nevs.find? (fun n => decide (n.id = id)) with
  | none => .next s
  | some n => .next (if n.left = 0 then s.landNev key id else s)

/-! ## Issue (R269 to R271) -/

/-- NEV.M's elements: record, index, `w` of 2 × IN bytes. -/
def State.nevElems (s : State) (a : VSrc) (x : NevMod) : List Elem :=
  elemsOf (Rec.ofBits (s.src.qreg x.q.val)) s.active 0 (2 * x.nin.toNat) (fun l => s.src.v32 l a)

/-- The traps of NEV.M (R269): bounds under OOBMODE, then alignment to 4. -/
def State.nevTrap (s : State) (a : VSrc) (x : NevMod) : Option TrapReq :=
  if x.mem then s.checkElems (Rec.ofBits (s.src.qreg x.q.val)) x.q.val 4 (2 * x.nin.toNat) (s.nevElems a x) else none

/-- The register inputs of a lane, two to a register, the low half first. -/
def Wave.nevInputs (w : Wave) (l : Nat) (a : VSrc) (n : Nat) : List Half :=
  match a with
  | .reg r => (List.range n).map (fun j => BitVec.ofNat 16 (fld (w.vreg l (r.val + j / 2)) (16 * (j % 2)) 16))
  | .latch _ | .sreg _ | .zero | .lane | .lit _ => List.replicate n 0#16

noncomputable def execNev (d : VReg) (a b : VSrc) (x : NevMod) (s : State) : Out :=
  match s.issueTrap (.nev d a b x) (x.mem && recBad (s.src.qreg x.q.val)) with
  | some t => .next (s.raise t)
  | none =>
    match s.nevTrap a x with
    | some t => .next ((if x.mem then s.noteOob x.q.val (s.nevElems a x) else s).raise t)
    | none =>
      .next (s.counted clsFlk (fun id s0 =>
        let s1 := if x.mem then s0.noteOob x.q.val (s.nevElems a x) else s0
        let n := x.nin.toNat
        let handle := fun l => (s.src.v32 l b).toNat
        let lost := (lanesOf s.active).filter (fun l => decide ((s.ctx s.curCtx).netcount ≤ handle l))
        let op : NevOp := lost.foldl (fun o l => o.fail l nevHandle)
          ⟨id, s.cur.wb + d.val, n, x.nout.toNat, s.active, 0#32, [], x.fmask, x.trapen, (lanesOf s.active).length - lost.length, [], s.iss.pc⟩
        let row := fun l =>
          let e := (s.nevElems a x).find? (fun e => decide (e.lane = l))
          let inputs := if x.mem then List.replicate n 0#16 else s.src.nevInputs l a n
          (⟨s.cur.age, s.curCtx, handle l, ⟨s.iss.key, id, l,
            (if x.mem then (e.filter Elem.inb).map Elem.a else none), inputs⟩⟩ : FlockEntry)
        let rows := ((lanesOf s.active).filter (fun l => !lost.contains l)).map row
        ((s1.modCur (fun w => { w with nevs := w.nevs ++ [op] })).modCore s.curCore (fun c => { c with inbox := c.inbox ++ rows })).adv))

/-- A fetch of NETLD that fails leaves the record of a malformed entry at most (R378). -/
def State.metFetch (s : State) (x : FetchStop) : State :=
  match x with
  | .refused va bad => s.metBad s.curCtx s.curGrid va bad
  | .absent _ | .lost | .held => s

/-- NETLD of a handle below NETCOUNT. -/
noncomputable def State.netld (s : State) (a : USrc) (eff : Nat → State → State) : State :=
  let h := (s.src.u32 a).toNat
  (if h < (s.ctx s.curCtx).netcount then eff h s else s).adv

/-- NETLD #0: a handle already cached stays as it was cached, and a fetch that meets no data raises nothing (R271). -/
noncomputable def execNetldFetch (a : USrc) (s : State) : Out :=
  plain (.netldFetch a) (fun s => s.netld a (fun h s =>
    match s.netOf s.curCore s.curWg s.curCtx h with
    | .ok bs ps => s.cacheNet s.curCore s.curCtx h bs ps
    | .net x | .weight x => s.metFetch x)) s

noncomputable def execNetldDrop (a : USrc) (s : State) : Out :=
  plain (.netldDrop a) (fun s => s.netld a (fun h s =>
    s.modCore s.curCore (fun c => { c with weights := tabErase c.weights (netKey s.curCtx h) }))) s

end Sys2Proof.Machine
end

