-- ==== Sys2Proof/Machine/Lane.lean ====
section
/-! DEFINITION. Machine/Lane.lean: class 6 (8.5, 8.6): shuffles, votes, reductions, scans and masks. -/

namespace Sys2Proof.Machine

open Sys2Proof

/-- A shuffle: lane `l` takes register A of the lane its count names (R193, R190). -/
def shuffle (i : Instr) (n : Bool) (d : VDst) (a b : VSrc) (src : Nat → Nat → Nat) (s : State) : Out :=
  alu32 i n d (fun w l => w.v32 (src l (count5 (w.v32 l b))) a) s

/-- A form whose result depends on the whole active set (R191). -/
def gather (i : Instr) (n : Bool) (d : VDst) (f : Mask → Wave → Nat → Word) (s : State) : Out :=
  alu32 i n d (f s.active) s

/-- The active lanes whose value meets `p`. -/
def lanesThat (act : Mask) (p : Nat → Bool) : Mask := maskOf (fun l => act.getLsbD l && p l)

/-- The active lanes' values folded in increasing lane order (R195). -/
def reduceLanes (act : Mask) (f : Word → Word → Word) (val : Nat → Word) : Word :=
  match lanesOf act with
  | [] => 0#32
  | l :: r => r.foldl (fun acc k => f acc (val k)) (val l)

/-- A reduction. -/
def reduction (i : Instr) (n : Bool) (d : VDst) (a : VSrc) (f : Word → Word → Word) (s : State) : Out :=
  gather i n d (fun act w _ => reduceLanes act f (fun k => w.v32 k a)) s

/-- The exclusive scan of R195: the sum over the active lanes below. -/
def scanBelow (act : Mask) (val : Nat → Word) (l : Nat) : Word :=
  (lanesOf act).foldl (fun acc k => if k < l then acc + val k else acc) 0#32

/-- A whole-register mask write (R197), from the wave as read. -/
def maskForm (i : Instr) (d : MReg) (f : Mask → Wave → Mask) (s : State) : Out :=
  plain i (fun s => (s.putM d (f s.active s.src)).adv) s

/-- A form that writes an s register from the active set. -/
def setForm (i : Instr) (d : UDst) (f : Mask → Wave → Word) (s : State) : Out :=
  plain i (fun s => (s.putU d (f s.active s.src)).adv) s

def execShfl (n : Bool) (d : VDst) (a b : VSrc) (s : State) : Out := shuffle (.shfl n d a b) n d a b (fun _ k => k) s
def execShflup (n : Bool) (d : VDst) (a b : VSrc) (s : State) : Out :=
  shuffle (.shflup n d a b) n d a b (fun l k => if k ≤ l then l - k else l) s
def execShfldn (n : Bool) (d : VDst) (a b : VSrc) (s : State) : Out :=
  shuffle (.shfldn n d a b) n d a b (fun l k => if l + k ≤ 31 then l + k else l) s
def execShflx (n : Bool) (d : VDst) (a b : VSrc) (s : State) : Out :=
  shuffle (.shflx n d a b) n d a b (fun l k => l ^^^ k) s

def execBallot (d : UDst) (a : VSrc) (s : State) : Out :=
  setForm (.ballot d a) d (fun act w => lanesThat act (fun l => w.v32 l a != 0#32)) s
def execVany (n : Bool) (d : VDst) (a : VSrc) (s : State) : Out :=
  gather (.vany n d a) n d (fun act w _ => if lanesThat act (fun l => w.v32 l a != 0#32) ≠ 0#32 then 0xFFFFFFFF#32 else 0#32) s
def execVall (n : Bool) (d : VDst) (a : VSrc) (s : State) : Out :=
  gather (.vall n d a) n d (fun act w _ => if lanesThat act (fun l => w.v32 l a == 0#32) = 0#32 then 0xFFFFFFFF#32 else 0#32) s
def execMatchEq (n : Bool) (d : VDst) (a : VSrc) (s : State) : Out :=
  gather (.matchEq n d a) n d (fun act w l => lanesThat act (fun k => w.v32 k a == w.v32 l a)) s

/-- 1 in the bellwether, 0 in the other active lanes (R196). -/
def bellwether (act : Mask) (l : Nat) : Word := if lowestLane act = some l then 1#32 else 0#32

def execElect (n : Bool) (d : VDst) (s : State) : Out := gather (.elect n d) n d (fun act _ l => bellwether act l) s

/-- Every active lane but the bellwether sleeps under it (R27, R159). -/
def Wave.sleepUnder (w : Wave) (act : Mask) : Wave :=
  match lowestLane act with
  | some b => w.modLanes (act &&& ~~~ (1#32 <<< b)) (fun _ x =>
      { x with state := .sleeper ⟨b % 32, Nat.mod_lt _ (by decide)⟩ })
  | none => w

def execElects (n : Bool) (d : VDst) (s : State) : Out :=
  plain (.elects n d) (fun s => (s.result32 n d (fun _ l => bellwether s.active l)).modCur (fun w => w.sleepUnder s.active)) s

def execRedadd (n : Bool) (d : VDst) (a : VSrc) (s : State) : Out := reduction (.redadd n d a) n d a (fun x y => x + y) s
def execRedmin (n : Bool) (d : VDst) (a : VSrc) (s : State) : Out := reduction (.redmin n d a) n d a minS s
def execRedmax (n : Bool) (d : VDst) (a : VSrc) (s : State) : Out := reduction (.redmax n d a) n d a maxS s
def execRedand (n : Bool) (d : VDst) (a : VSrc) (s : State) : Out := reduction (.redand n d a) n d a (fun x y => x &&& y) s
def execRedor (n : Bool) (d : VDst) (a : VSrc) (s : State) : Out := reduction (.redor n d a) n d a (fun x y => x ||| y) s
def execRedxor (n : Bool) (d : VDst) (a : VSrc) (s : State) : Out := reduction (.redxor n d a) n d a (fun x y => x ^^^ y) s

def execMand (d : MReg) (a b : MSrc) (s : State) : Out :=
  maskForm (.mand d a b) d (fun act w => w.msrc act a &&& w.msrc act b) s
def execMor (d : MReg) (a b : MSrc) (s : State) : Out :=
  maskForm (.mor d a b) d (fun act w => w.msrc act a ||| w.msrc act b) s
def execMxor (d : MReg) (a b : MSrc) (s : State) : Out :=
  maskForm (.mxor d a b) d (fun act w => w.msrc act a ^^^ w.msrc act b) s
def execMandn (d : MReg) (a b : MSrc) (s : State) : Out :=
  maskForm (.mandn d a b) d (fun act w => w.msrc act a &&& ~~~ w.msrc act b) s
def execMact (d : MReg) (s : State) : Out := maskForm (.mact d) d (fun act _ => act) s
def execMclr (d : MReg) (s : State) : Out := maskForm (.mclr d) d (fun _ _ => 0#32) s
def execMpop (d : UDst) (a : MSrc) (s : State) : Out := setForm (.mpop d a) d (fun act w => popcount (w.msrc act a)) s
def execMfromv (d : MReg) (a : VSrc) (s : State) : Out :=
  maskForm (.mfromv d a) d (fun act w => lanesThat act (fun l => w.v32 l a != 0#32)) s
def execMtov (n : Bool) (d : VDst) (a : MSrc) (s : State) : Out :=
  gather (.mtov n d a) n d (fun act w l => if (w.msrc act a).getLsbD l then 0xFFFFFFFF#32 else 0#32) s
def execMtos (d : UDst) (a : MSrc) (s : State) : Out := setForm (.mtos d a) d (fun act w => w.msrc act a) s
def execMfroms (d : MReg) (a : USrc) (s : State) : Out := maskForm (.mfroms d a) d (fun _ w => w.u32 a) s
def execPrefixadd (n : Bool) (d : VDst) (a : VSrc) (s : State) : Out :=
  gather (.prefixadd n d a) n d (fun act w l => scanBelow act (fun k => w.v32 k a) l) s

end Sys2Proof.Machine
end

