-- ==== Sys2Proof/Machine/Trees.lean ====
section
/-! DEFINITION. Machine/Trees.lean: clusters, tree headers and nodes in memory (12.2, 12.3), boxes as decoded (R282), the
exact segment tests of rays (R295), and Morton codes (R301). Finite FP32 values are exact integers in units of 2^-149. -/

namespace Sys2Proof.Machine

open Sys2Proof

/-! ## Exact values -/

/-- A finite FP32 in units of 2^-149. -/
def f32Units (x : Word) : Int := FVal.units (-149) (fp32.value x.toNat)
def f32Finite (x : Word) : Bool := !(fp32.value x.toNat).isNan && !(fp32.value x.toNat).isInf

def Ratio.le (a b : Ratio) : Bool := decide (a.num * b.den ≤ b.num * a.den)
def Ratio.lt (a b : Ratio) : Bool := decide (a.num * b.den < b.num * a.den)
/-- `n / d` for a non-zero `d`. -/
def Ratio.of (n d : Int) : Ratio := if d < 0 then ⟨-n, d.natAbs⟩ else ⟨n, d.natAbs⟩
/-- A ratio rounded to FP32. -/
def Ratio.f32 (mode : RMode) (r : Ratio) : Word :=
  BitVec.ofNat 32 (fp32.roundRatio mode false (decide (r.num < 0)) r.num.natAbs r.den).1
/-- The nearest integer to a non-negative ratio, a tie going to the even one. -/
def Ratio.near (r : Ratio) : Nat :=
  let n := r.num.toNat / r.den
  let rem := r.num.toNat % r.den
  if r.den < 2 * rem ∨ (2 * rem = r.den ∧ n % 2 = 1) then n + 1 else n
/-- A number of units of 2^-149. -/
def Ratio.units (n : Int) : Ratio := ⟨n, 2 ^ 149⟩

/-- A vector of exact integers. -/
structure V3 where
  x : Int
  y : Int
  z : Int
  deriving DecidableEq, Repr

def V3.sub (a b : V3) : V3 := ⟨a.x - b.x, a.y - b.y, a.z - b.z⟩
def V3.dot (a b : V3) : Int := a.x * b.x + a.y * b.y + a.z * b.z
def V3.cross (a b : V3) : V3 := ⟨a.y * b.z - a.z * b.y, a.z * b.x - a.x * b.z, a.x * b.y - a.y * b.x⟩
def V3.ax (a : V3) (i : Nat) : Int := if i = 0 then a.x else if i = 1 then a.y else a.z

/-! ## Bytes of records -/

/-- The `n` bytes at `a` of some bytes, as a number. -/
def bytesAt (bs : List Byte) (a n : Nat) : Nat := natOfBytes ((bs.drop a).take n)
def byteAt (bs : List Byte) (a : Nat) : Nat := (bs.getD a 0#8).toNat
def wordOf (bs : List Byte) (a : Nat) : Word := BitVec.ofNat 32 (bytesAt bs a 4)
/-- The bytes of a range are all zero. -/
def zeroBytes (bs : List Byte) (a n : Nat) : Bool := ((bs.drop a).take n).all (fun b => decide (b = 0#8))

/-! ## Clusters (Table 12.2, R278) -/

/-- Axis bounds of a cluster as FP32 words: LO and HI. -/
def clusterLo (bs : List Byte) (ax : Nat) : Word := wordOf bs (4 * ax)
def clusterHi (bs : List Byte) (ax : Nat) : Word := wordOf bs (12 + 4 * ax)
def clusterNv (bs : List Byte) : Nat := byteAt bs 24
def clusterNt (bs : List Byte) : Nat := byteAt bs 25
/-- Vertex index `k` of triangle `t`. -/
def triIndex (bs : List Byte) (t k : Nat) : Nat := byteAt bs (416 + 3 * t + k)

def axes : List Nat := [0, 1, 2]

/-- A malformed cluster. -/
def clusterBad (bs : List Byte) : Bool :=
  decide (clusterNv bs = 0) || decide (64 < clusterNv bs) || decide (64 < clusterNt bs) ||
  !zeroBytes bs 26 2 || !zeroBytes bs 608 32 ||
  axes.any (fun a => !f32Finite (clusterLo bs a) || !f32Finite (clusterHi bs a) ||
    decide (f32Units (clusterHi bs a) < f32Units (clusterLo bs a))) ||
  (List.range (clusterNt bs)).any (fun t => axes.any (fun k => decide (clusterNv bs ≤ triIndex bs t k)))

/-- A stored coordinate decoded: lo + (q / 65535) × (hi − lo), rounded once. -/
def decodeCoord (lo hi : Int) (q : Nat) : Int :=
  f32Units (Ratio.f32 .rne ⟨65535 * lo + q * (hi - lo), 65535 * 2 ^ 149⟩)

/-- Vertex `j` of a cluster. -/
def clusterVertex (bs : List Byte) (j : Nat) : V3 :=
  let c := fun ax => decodeCoord (f32Units (clusterLo bs ax)) (f32Units (clusterHi bs ax)) (bytesAt bs (32 + 6 * j + 2 * ax) 2)
  ⟨c 0, c 1, c 2⟩

/-! ## Headers (Table 12.3) -/

/-- One generation slot of a header. -/
structure TreeSlot where
  pool : Nat
  clus : Nat
  cairn : Nat
  root : Nat
  pin : Nat
  nclus : Nat
  gen : Nat
  state : Nat
  cdepth : Nat
  clean : Bool
  deriving DecidableEq, Repr

def treeSlot (h : List Byte) (i : Nat) : TreeSlot :=
  let b := 64 * i
  ⟨bytesAt h b 8, bytesAt h (b + 8) 8, bytesAt h (b + 16) 8, bytesAt h (b + 24) 4, bytesAt h (b + 28) 4, bytesAt h (b + 32) 4,
    byteAt h (b + 36), byteAt h (b + 37), byteAt h (b + 38), zeroBytes h (b + 39) 25⟩

/-- The places a slot names are aligned and its depth is in range (Table 12.3). -/
def TreeSlot.placed (t : TreeSlot) : Bool :=
  decide (t.pool % 128 = 0) && decide (t.cairn % 4 = 0) && decide (1 ≤ t.cdepth) && decide (t.cdepth ≤ 3)

/-- Reserved bytes of a header are zero. -/
def headerClean (h : List Byte) : Bool := (treeSlot h 0).clean && (treeSlot h 1).clean && zeroBytes h 129 127

/-- A header with slot `i` in use is well formed (R279). -/
def headerOk (h : List Byte) (i : Nat) : Bool := headerClean h && (treeSlot h i).placed

/-- The slot that holds a generation and can be reached (R290, R294). -/
def slotOfGen (h : List Byte) (gen : Nat) : Option Nat :=
  [0, 1].find? (fun i =>
    let t := treeSlot h i
    decide (t.gen = gen) && decide (1 ≤ t.state) && decide (t.state ≤ 3))

/-- Spine nodes above the cairns: 1, 9 or 73 (R286). -/
def spineNodes (cdepth : Nat) : Nat := if cdepth = 1 then 1 else if cdepth = 2 then 9 else 73
/-- The cairn a node reference's index names by its place (R294). -/
def cairnAt (cdepth ix : Nat) : Option Nat :=
  if spineNodes cdepth ≤ ix ∧ ix < spineNodes cdepth + 8 ^ cdepth then some (ix - spineNodes cdepth + 1) else none
/-- The VA of cairn word `k` (R287). -/
def cairnVa (cairn k : Nat) : Nat := cairn + 4 * (k - 1)

/-! ## Nodes (Table 12.4, R281, R282) -/

def nodeCount (bs : List Byte) : Nat := byteAt bs 15 % 16
def nodeExp (bs : List Byte) (ax : Nat) : Int := sextN (byteAt bs (12 + ax)) 8
def nodeRef (bs : List Byte) (c : Nat) : Nat := bytesAt bs (64 + 4 * c) 4

/-- A node that a ray may not use: its generation, a reserved byte, a count or exponent out of range. -/
def nodeBad (gen : Nat) (bs : List Byte) : Bool :=
  decide (byteAt bs 100 ≠ gen) || decide (8 < nodeCount bs) || decide (64 ≤ byteAt bs 15) ||
  !zeroBytes bs 102 2 || !zeroBytes bs 112 16 || axes.any (fun a => decide (byteAt bs (12 + a) = 0x80))

/-- One edge of a box: ORIGIN + q × 2^EXP, rounded (R282). -/
def decodeEdge (mode : RMode) (origin : Word) (q : Nat) (e : Int) : Word :=
  BitVec.ofNat 32 (fp32.round mode false (FVal.sum mode [fp32.value origin.toNat, .fin false q e])).1

/-- A box as decoded: a low and a high FP32 for each axis. -/
abbrev Box := List (Word × Word)

/-- The box without bounds. -/
def wholeBox : Box := List.replicate 3 (0xFF800000#32, 0x7F800000#32)

/-- A child's box from the node's origin, exponents and six box bytes. -/
def decodeBox (origin : Nat → Word) (exp : Nat → Int) (q : Nat → Nat) : Box :=
  if axes.any (fun a => !f32Finite (origin a)) then wholeBox
  else axes.map (fun a => (decodeEdge .rd (origin a) (q (2 * a)) (exp a), decodeEdge .ru (origin a) (q (2 * a + 1)) (exp a)))

/-- Child `c`'s box of a node. -/
def nodeBox (bs : List Byte) (c : Nat) : Box :=
  decodeBox (fun a => wordOf bs (4 * a)) (nodeExp bs) (fun i => byteAt bs (16 + 6 * c + i))

/-! ## Segments (R295) -/

/-- The ray of eight FP32 words. -/
def rayO (ws : List Word) : V3 := ⟨f32Units (ws.getD 0 0#32), f32Units (ws.getD 1 0#32), f32Units (ws.getD 2 0#32)⟩
def rayD (ws : List Word) : V3 := ⟨f32Units (ws.getD 4 0#32), f32Units (ws.getD 5 0#32), f32Units (ws.getD 6 0#32)⟩
def rayMin (ws : List Word) : FVal := fp32.value (ws.getD 3 0#32).toNat
def rayMax (ws : List Word) : FVal := fp32.value (ws.getD 7 0#32).toNat

/-- How a ray is classed before it starts (Table 12.8): DEGEN, MISS, or traced. -/
def rayClass (ws : List Word) : Option Nat :=
  if [0, 1, 2, 4, 5, 6].any (fun i => !f32Finite (ws.getD i 0#32)) ∨ rayD ws = ⟨0, 0, 0⟩ ∨ (rayMin ws).isNan ∨ (rayMax ws).isNan then
    some 2
  else if FVal.order (rayMax ws) (rayMin ws) < 0 then some 1
  else none

/-- Bounds on t: lower ones and upper ones; none where nothing can be met. -/
abbrev Bounds := Option (List Ratio × List Ratio)

def Bounds.and (a b : Bounds) : Bounds :=
  match a, b with
  | some x, some y => some (x.1 ++ y.1, x.2 ++ y.2)
  | _, _ => none

/-- The bounds a value in units of 2^-149 sets, where it is finite. -/
def finBound (v : FVal) (f : Int → Ratio) : List Ratio :=
  match v with
  | .fin .. => [f (v.units (-149))]
  | .inf _ | .nan _ => []

/-- The range of t itself. -/
def rangeBounds (ws : List Word) : Bounds :=
  if (rayMin ws).isInf && !(rayMin ws).neg || (rayMax ws).isInf && (rayMax ws).neg then none
  else some (finBound (rayMin ws) Ratio.units, finBound (rayMax ws) Ratio.units)

/-- The t at which one axis lies within a box's bounds. -/
def axisBounds (o d : Int) (lo hi : FVal) : Bounds :=
  if 0 < FVal.order lo hi then none
  else if d = 0 then
    if (lo.isInf || decide (lo.units (-149) ≤ o)) && (hi.isInf || decide (o ≤ hi.units (-149))) then some ([], []) else none
  else
    let at_ := fun v => Ratio.of (v - o) d
    if 0 < d then some (finBound lo at_, finBound hi at_) else some (finBound hi at_, finBound lo at_)

def Bounds.open_ (b : Bounds) : Bool :=
  match b with
  | some (ls, us) => ls.all (fun l => us.all (fun u => l.le u))
  | none => false

/-- Whether the segment, up to a best t, meets a box. -/
def meetsBox (ws : List Word) (best : Option Ratio) (b : Box) : Bool :=
  let axis := fun (a : Nat) =>
    let (lo, hi) := b.getD a (0#32, 0#32)
    axisBounds ((rayO ws).ax a) ((rayD ws).ax a) (fp32.value lo.toNat) (fp32.value hi.toNat)
  (Bounds.and (some ([], best.toList)) (Bounds.and (rangeBounds ws) (Bounds.and (axis 0) (Bounds.and (axis 1) (axis 2))))).open_

/-- A triangle against the segment: t and the exact weights of v1 and v2. -/
def triHit (ws : List Word) (cull : Cull) (v0 v1 v2 : V3) : Option (Ratio × Ratio × Ratio) :=
  let d := rayD ws
  let e1 := v1.sub v0
  let e2 := v2.sub v0
  let p := d.cross e2
  let det := e1.dot p
  let s := (rayO ws).sub v0
  let q := s.cross e1
  let t := Ratio.of (e2.dot q) det
  let u := Ratio.of (s.dot p) det
  let v := Ratio.of (d.dot q) det
  let zero : Ratio := ⟨0, 1⟩
  let culled : Bool := match cull with
    | .none => false
    | .back => decide (det < 0)
    | .front => decide (0 < det)
  let inRange : Bool := match rangeBounds ws with
    | some (ls, us) => ls.all (fun l => l.le t) && us.all (fun x => t.le x)
    | none => false
  if det = 0 ∨ culled then none
  else if zero.le u && zero.le v && decide (u.num + v.num ≤ det.natAbs) && inRange then some (t, u, v)
  else none

/-- The weight of a vertex as UNORM16. -/
def unorm16 (r : Ratio) : Nat := Ratio.near ⟨65535 * r.num, r.den⟩

/-- The hits of a cluster, by triangle. -/
def clusterHits (ws : List Word) (cull : Cull) (id : Nat) (bs : List Byte) : List Hit :=
  (List.range (clusterNt bs)).foldl (fun hs t =>
    match triHit ws cull (clusterVertex bs (triIndex bs t 0)) (clusterVertex bs (triIndex bs t 1)) (clusterVertex bs (triIndex bs t 2)) with
    | some (x, u, v) => hs ++ [⟨x, id, t, unorm16 u, unorm16 v⟩]
    | none => hs) []

/-- Least t, then the lower cluster, then the lower triangle (R295). -/
def Hit.before (a b : Hit) : Bool :=
  a.t.lt b.t || (!b.t.lt a.t && (decide (a.cluster < b.cluster) || (decide (a.cluster = b.cluster) && decide (a.tri < b.tri))))

def bestHit (hs : List Hit) : Option Hit :=
  hs.foldl (fun b h =>
    match b with
    | none => some h
    | some x => if h.before x then some h else some x) none

/-- The hit record (Table 12.9). -/
def hitRecord (status : Nat) (h : Option Hit) : List Word :=
  match h with
  | some x => [x.t.f32 .rne, word32 x.cluster, word32 (status * 2 ^ 24 + x.tri * 2 ^ 16), word32 (x.u + x.v * 2 ^ 16)]
  | none => [0x7F800000#32, 0xFFFFFFFF#32, word32 (status * 2 ^ 24 + 0xFF * 2 ^ 16), 0#32]

/-! ## Morton codes (R301) -/

/-- The axes of an order code, first to third. -/
def orderAxes (code : Nat) : List Nat :=
  match code with
  | 0 => [0, 1, 2]
  | 1 => [0, 2, 1]
  | 2 => [1, 0, 2]
  | 3 => [1, 2, 0]
  | 4 => [2, 0, 1]
  | _ => [2, 1, 0]

/-- The code of three cell numbers of 10 bits, under an order. -/
def mortonCode (order : List Nat) (q : Nat → Nat) : Nat :=
  (List.range 10).foldl (fun c i =>
    c + (q (order.getD 0 0) / 2 ^ i % 2) * 2 ^ (3 * i + 2) + (q (order.getD 1 1) / 2 ^ i % 2) * 2 ^ (3 * i + 1) +
      (q (order.getD 2 2) / 2 ^ i % 2) * 2 ^ (3 * i)) 0

/-- `clamp(floor(n / d × 1024), 0, 1023)` for a positive `d`. -/
def mortonCell (n d : Int) : Nat :=
  let x := n * 1024 / d
  if x < 0 then 0 else if 1023 < x then 1023 else x.toNat

/-- The cell of a coordinate: exact, with NaN giving 0. -/
def mortonAxis (p corner side : Word) : Nat :=
  let s := fp32.value side.toNat
  let pv := fp32.value p.toNat
  let cv := fp32.value corner.toNat
  if s.isNan || s.isZero || s.neg || pv.isNan || cv.isNan then 0
  else if s.isInf || (pv.isInf && cv.isInf && pv.neg == cv.neg) then 0
  else if pv.isInf || cv.isInf then (if (if pv.isInf then pv.neg else !cv.neg) then 0 else 1023)
  else mortonCell (f32Units p - f32Units corner) (f32Units side)

end Sys2Proof.Machine
end

