-- ==== Sys2Proof/Machine/Rays.lean ====
section
/-! DEFINITION. Machine/Rays.lean: the forms of class 0xE less BUILD and REFIT: TRACE, TRACEOCC, CAIRNW, GENPIN, GENDROP,
REFILL, PIXPUSH, NODEDEC and MORTON (12.5 to 12.8), and what happens to a ray until it ends (R293 to R297). -/

namespace Sys2Proof.Machine

open Sys2Proof

/-! ## VAs in s pairs -/

/-- A 64-bit VA of a pair whose bits [63:48] are not zero raises ACCESS; one that is not aligned, MISALIGN (R276). It is
no record and no fetch, so FADDR is 0 (Table 21.2). -/
def State.vaTrap (s : State) (va align : Nat) : Option TrapReq :=
  if va % align ≠ 0 then some (s.trap16 causeMisalign 0)
  else if 2 ^ 48 ≤ va then some (s.trap16 causeAccess 0)
  else none

def Wave.pairVa (w : Wave) (a : SReg) : Nat := (w.sreg64 a.val).toNat

/-- A step at a home follows what its workgroup has stored there before it (R83): stores still buffered in those lines are
committed, and the committed ones of the core performed. -/
def State.ownHome (s : State) (pas : List Nat) : State :=
  let ls := (pas.map lineOf).eraseDups
  let s1 := if (s.wg s.curWg).sbuf.any (fun c => ls.contains (lineOf c.1)) then s.commit s.curWg else s
  s1.ownLines pas

/-- Nothing of the core is left to be performed in some lines. -/
def State.homeSettled (s : State) (pas : List Nat) : Bool :=
  (s.core s.curCore).committed.all (fun c => !(pas.map lineOf).contains c.line)

/-- The bytes of a home. -/
def homeRange (va n : Nat) (t : Trans) : List Nat := (List.range n).map (homePa va t + ·)

/-- One address of the issuing instruction, reached for the hub's step at its home: `eff` gets its translation. -/
def State.atHome (s : State) (va n : Nat) (need : Need) (eff : Trans → State → State) : State :=
  let x : Elem := ⟨0, true, (va : Int)⟩
  let trap := s.trap16 causeAccess 0
  if 2 ^ 48 < va + n then s.raise trap
  else
    let t := s.translate s.curCore s.curCtx va need
    if s.refusedElem s.curCtx (x, t) then s.refuse trap t.isBad va
    else
      match t with
      | .absent => (s.retryWave (.page s.curCtx (pageOf va) 0 trap)).askPage s.curCtx va (if need.writes then 1 else 0)
      | .ok pa leaf page =>
        match (if need.writes then s.dupOf (homePa va t) else none) with
        | some i => (s.startCollapse i).retry .stalled
        | none =>
          let own := s.ownHome (homeRange va n t)
          if s.sideWaits s.curCore s.curWg s.curCtx va || !own.homeSettled (homeRange va n t) then own.retry .stalled
          else if own.lost (lineOf pa) then own.consume s.active 0 pa
          else eff (.ok pa leaf page) (own.touchAll s.curCore need.writes [t])
      | .denied | .malformed _ => s

/-- Several addresses in turn; `eff` gets their translations in order. -/
def State.atHomes (s : State) (need : Need) (eff : List Trans → State → State) : List (Nat × Nat) → List Trans → State
  | [], ts => eff ts s
  | (va, n) :: r, ts => s.atHome va n need (fun t u => u.atHomes need eff r (ts ++ [t]))

/-! ## GENPIN and GENDROP (R290) -/

/-- The bytes of a header at its home. -/
def State.headerAt (s : State) (pa n : Nat) : List Byte := s.mem.getBytes pa n

/-- One step at the header's home slice on the pin count of a generation. -/
def State.pinStep (s : State) (drop : Bool) (d : UDst) (a : SReg) (b : USrc) : State :=
  let hdr := s.src.pairVa a
  let gen := fld (s.src.u32 b) 0 8
  s.atHome hdr 256 (.write false) (fun t u =>
    let pa := homePa hdr t
    let h := u.headerAt pa 256
    match slotOfGen h gen with
    | none => (u.putU d 1#32).adv
    | some i =>
      let pin := (treeSlot h i).pin
      if (if drop then decide (pin = 0) else decide (pin = 2 ^ 32 - 1)) then (u.putU d 2#32).adv
      else ((u.performFrom u.curCore (cellsFrom (pa + 64 * i + 28) (bytesOfNat 4 (if drop then pin - 1 else pin + 1)))).putU d 0#32).adv)

noncomputable def execGenpin (d : UDst) (a : SReg) (b : USrc) (s : State) : Out :=
  checked (.genpin d a b) lawful (fun s => s.vaTrap (s.src.pairVa a) 256) (fun s => s.pinStep false d a b) s
noncomputable def execGendrop (d : UDst) (a : SReg) (b : USrc) (s : State) : Out :=
  checked (.gendrop d a b) lawful (fun s => s.vaTrap (s.src.pairVa a) 256) (fun s => s.pinStep true d a b) s

/-! ## CAIRNW (R291) -/

/-- Look the slot up and arm, as one step. -/
def State.cairnWait (s : State) (d : UDst) (a : SReg) (b : USrc) : State :=
  let hdr := s.src.pairVa a
  let k := fld (s.src.u32 b) 0 16
  let gen := fld (s.src.u32 b) 16 8
  s.atHome hdr 256 .read (fun t u =>
    let h := u.headerAt t.pa 256
    match slotOfGen h gen with
    | none => (u.putU d 1#32).adv
    | some i =>
      let x := treeSlot h i
      if k = 0 ∨ 8 ^ x.cdepth < k then (u.putU d 3#32).adv
      else
        let va := cairnVa x.cairn k
        u.atHome va 4 .read (fun c v =>
          let (id, v1) := v.freshId
          let tether : Tether := ⟨id, homePa va c, false, .eq, 1, none, v.curCtx, .wave s.iss.key, none, false, .device⟩
          let v2 := { v1 with unarmed := v1.unarmed ++ [tether] }
          ((v2.modCur (fun w => { w with wait := .cairnw (destReg d) })).adv).arm tether))

noncomputable def execCairnw (d : UDst) (a : SReg) (b : USrc) (s : State) : Out :=
  checked (.cairnw d a b) lawful (fun s => s.vaTrap (s.src.pairVa a) 256) (fun s => s.cairnWait d a b) s

/-! ## The pending-pixel queue (R298 to R300) -/

/-- A queue header as its step reads it. -/
structure PixQueue where
  ring : Nat
  cap : Nat
  head : Nat
  tail : Nat
  bad : Bool
  deriving DecidableEq, Repr

def pixQueue (bs : List Byte) : PixQueue :=
  let cap := bytesAt bs 8 4
  ⟨bytesAt bs 0 8, cap, bytesAt bs 12 4, bytesAt bs 16 4,
    !zeroBytes bs 20 44 || decide (cap = 0) || decide (2 ^ 24 < cap) || decide (cap &&& (cap - 1) ≠ 0)⟩

/-- Ids in the queue. -/
def PixQueue.held (p : PixQueue) : Nat := (p.tail + 2 ^ 32 - p.head) % 2 ^ 32
/-- The VA of entry `j`. -/
def PixQueue.entry (p : PixQueue) (j : Nat) : Nat := p.ring + 4 * (j % 2 ^ 32 % p.cap)

/-- The queue's header, then the entries `from` up, then the effect of the step. -/
def State.queueStep (s : State) (va : Nat) (need : Need) (count : PixQueue → Nat) (first : PixQueue → Nat)
    (eff : Nat → PixQueue → List Trans → State → State) : State :=
  s.atHome va 64 (.write false) (fun t u =>
    let pa := homePa va t
    let p := pixQueue (u.headerAt pa 64)
    if p.bad then u.raise (u.trap16 causeBounds 0)
    else u.atHomes need (fun ts v => eff pa p ts v) ((List.range (count p)).map (fun i => (p.entry (first p + i), 4))) [])

noncomputable def execPixpush (d : VDst) (a : VSrc) (b : SReg) (s : State) : Out :=
  checked (.pixpush d a b) lawful (fun s => s.vaTrap (s.src.pairVa b) 64)
    (fun s => s.releasing .device (fun s =>
      let lanes := lanesOf s.active
      let room := fun (p : PixQueue) => Nat.min lanes.length (p.cap - p.held)
      s.queueStep (s.src.pairVa b) (.write false) room PixQueue.tail (fun pa p ts u =>
        let taken := lanes.take (room p)
        let cells := (taken.zip ts).foldl (fun cs x =>
          cs ++ cellsFrom (homePa (p.entry (p.tail + cs.length / 4)) x.2) (bytesOfNat 4 (s.src.v32 x.1 a).toNat)) []
        ((u.performFrom u.curCore (cells ++ cellsFrom (pa + 16) (bytesOfNat 4 (p.tail + taken.length)))).putD d
          (fun l => if taken.contains l then 1#32 else 0#32)).adv))) s

noncomputable def execRefill (d : VReg) (a : Option MReg) (b : SReg) (outm : Option MReg) (s : State) : Out :=
  checked (.refill d a b outm) lawful (fun s => s.vaTrap (s.src.pairVa b) 64)
    (fun s =>
      let able := match a with
        | some m => s.active &&& s.src.mreg m.val
        | none => s.active
      let lanes := lanesOf able
      let count := fun (p : PixQueue) => Nat.min lanes.length p.held
      s.queueStep (s.src.pairVa b) .read count PixQueue.head (fun pa p ts u =>
        let got := lanes.take (count p)
        let got' := maskOf (fun l => got.contains l)
        let value := fun l => (got.zip ts).foldl (fun v x => if x.1 = l then BitVec.ofNat 32 (u.mem.nat x.2.pa 4) else v) 0#32
        let u1 := (u.performFrom u.curCore (cellsFrom (pa + 12) (bytesOfNat 4 (p.head + got.length)))).putV got' d.val value
        (match outm with
          | some m => u1.putM m got'
          | none => u1).adv)) s

/-! ## NODEDEC and MORTON -/

/-- The six words of a decoded box: lo x, y, z then hi x, y, z (R302). -/
def Wave.nodeBoxWords (w : Wave) (l : Nat) (a b : VReg) : List Word :=
  let exps := (w.vreg l (a.val + 3)).toNat
  let qs := (pair64 (w.vreg l (b.val + 1)) (w.vreg l b.val)).toNat
  let box := decodeBox (fun i => w.vreg l (a.val + i)) (fun i => sextN (exps / 2 ^ (8 * i)) 8) (fun i => qs / 2 ^ (8 * i) % 256)
  box.map Prod.fst ++ box.map Prod.snd

noncomputable def execNodedec (d a b : VReg) (s : State) : Out :=
  plain (.nodedec d a b) (fun s => (s.putWords (.reg d) 6 (fun l => s.src.nodeBoxWords l a b)).adv) s

/-- MORTON: an order code of 6 or 7 raises BOUNDS (R301). -/
noncomputable def execMorton (d a : VReg) (b : SReg) (s : State) : Out :=
  checked (.morton d a b) lawful
    (fun s => if 6 ≤ fld (s.src.sreg (b.val + 4)) 0 3 then some (s.trap16 causeBounds 0) else none)
    (fun s =>
      let order := orderAxes (fld (s.src.sreg (b.val + 4)) 0 3)
      (s.putV s.active d.val (fun l => word32 (mortonCode order (fun ax =>
        mortonAxis (s.src.vreg l (a.val + ax)) (s.src.sreg (b.val + ax)) (s.src.sreg (b.val + 3)))))).adv) s

/-! ## What a ray reads -/

/-- Why a ray goes no further now. -/
inductive RayStop where
  | wait (va : Nat) | fault | malformed (va : Nat) | lost (pa : Nat) | park (va : Nat)
  deriving DecidableEq, Repr

/-- Bytes a traversal unit of a core reads as relaxed loads of the issuing lane (R101). -/
def State.rayBytes (s : State) (r : Ray) (va n : Nat) : Except RayStop (List Byte × List Trans) :=
  let core := keyCore r.wave
  let wg := (s.wave r.wave).wg
  if 2 ^ 48 < va + n then .error .fault
  else
    match s.spanOf core wg r.ctx va n .read with
    | .wait a => .error (.wait a)
    | .held => .error (.wait va)
    | .refused a bad => .error (if bad then .malformed a else .fault)
    | .ok ts =>
      let pas := spanPas ts
      match pas.find? (fun pa => s.poisonedRead core wg pa 1) with
      | some pa => .error (.lost pa)
      | none => .ok (pas.map (s.viewByte core wg), ts.map Prod.fst)

/-- A walk so far: the hits in the order found, and the pages read. -/
structure Walked where
  hits : List Hit
  pages : List Trans
  deriving DecidableEq, Repr

/-- The best t that bounds a TRACE; TRACEOCC takes any hit. -/
def Walked.best (w : Walked) (occ : Bool) : Option Ratio := if occ then none else (bestHit w.hits).map Hit.t

/-- A node reference of a walk: what it says, by type (R281). -/
def State.visit (s : State) (r : Ray) (t : TreeSlot) (ref : Nat) (w : Walked) : Except (RayStop × Walked) (List (Nat × Box) × Walked) :=
  let off := ref % 2 ^ 30
  let stop := fun (e : RayStop) (w : Walked) => (Except.error (e, w) : Except (RayStop × Walked) (List (Nat × Box) × Walked))
  match ref / 2 ^ 30 with
  | 0 => .ok ([], w)
  | 1 =>
    if off % 2 = 1 then stop .fault w
    else
      let guard : Except RayStop (List Trans) :=
        match cairnAt t.cdepth (off / 2) with
        | none => .ok []
        | some k =>
          let va := cairnVa t.cairn k
          if r.seen.contains va then .ok []
          else
            match s.rayBytes r va 4 with
            | .error e => .error e
            | .ok (bs, ps) => if natOfBytes bs = 0 then .error (.park va) else .ok ps
      match guard with
      | .error e => stop e w
      | .ok gp =>
        match s.rayBytes r (t.pool + 64 * off) 128 with
        | .error e => stop e w
        | .ok (bs, ps) =>
          let w1 := { w with pages := w.pages ++ gp ++ ps }
          if nodeBad t.gen bs then stop .fault w1
          else .ok ((List.range (nodeCount bs)).map (fun c => (nodeRef bs c, nodeBox bs c)), w1)
  | 2 =>
    if off % 10 ≠ 0 ∨ t.nclus ≤ off / 10 then stop .fault w
    else
      match s.rayBytes r (t.clus + 64 * off) 640 with
      | .error e => stop e w
      | .ok (bs, ps) =>
        let w1 := { w with pages := w.pages ++ ps }
        if clusterBad bs then stop .fault w1
        else .ok ([], { w1 with hits := w1.hits ++ clusterHits r.words r.cull (off / 10) bs })
  | _ => stop .fault w

/-- Walk on from a list of references still to enter, children in the order of their node (log entry 16); `past` passes by the
cairns that have not risen. -/
def State.walkTree (s : State) (r : Ray) (t : TreeSlot) (past : Bool) :
    Nat → List (Nat × Box) → Walked → Except (RayStop × Walked) Walked
  | 0, _, w => .ok w
  | _, [], w => .ok w
  | fuel + 1, (ref, box) :: rest, w =>
    if meetsBox r.words (w.best r.occ) box then
      match s.visit r t ref w with
      | .ok (kids, w1) => s.walkTree r t past fuel (kids ++ rest) w1
      | .error (.park va, w1) => if past then s.walkTree r t past fuel rest w1 else .error (.park va, w1)
      | .error e => .error e
    else s.walkTree r t past fuel rest w

/-- The slot a ray registers in, or the status it ends with (R294 step 1). -/
def State.register (s : State) (r : Ray) : Except RayStop (Ray × List Trans) :=
  match r.slot with
  | some _ => .ok (r, [])
  | none =>
    match s.rayBytes r r.hdr 256 with
    | .error e => .error e
    | .ok (h, ps) =>
      .ok (match slotOfGen h r.gen with
        | some i => { r with slot := some i }
        | none => { r with ended := some 3 }, ps)

/-- The root a ray walks from: the one it has read, else ROOT as it stands. -/
def State.rootOf (s : State) (r : Ray) : Nat :=
  if r.root = 0 then
    match s.rayBytes r (r.hdr + 64 * r.slot.getD 0 + 24) 4 with
    | .ok (bs, _) => natOfBytes bs
    | .error _ => 0
  else r.root

/-- How far a walking ray gets: it stops with what it has, or it has met every box it must. A malformed header is a FAULT
(R279). -/
def State.walkRay (s : State) (past : Bool) (r : Ray) : Except (RayStop × Walked) Walked :=
  let none_ : Walked := ⟨[], []⟩
  match s.rayBytes r r.hdr 256 with
  | .error e => .error (e, none_)
  | .ok (h, ps) =>
    let t := treeSlot h (r.slot.getD 0)
    let w : Walked := ⟨[], ps⟩
    let root := s.rootOf r
    if !headerOk h (r.slot.getD 0) then .error (.fault, w)
    else if root = 0 then .error (.park (r.hdr + 64 * r.slot.getD 0 + 24), w)
    else s.walkTree r t past (2 ^ 40) [(root, wholeBox)] w

/-- As a ray walks: it stops at the first word that holds 0. -/
def State.runRay (s : State) (r : Ray) : Except (RayStop × Walked) Walked := s.walkRay false r

/-! ## A ray ends -/

def State.modRay (s : State) (id : Nat) (f : Ray → Ray) : State :=
  { s with rays := s.rays.map (fun r => if r.id = id then f r else r) }

/-- A ray writes its hit record; the last of its issue completes the operation (R292, R100). -/
def State.endRay (s : State) (r : Ray) (status : Nat) (h : Option Hit) : State :=
  let s0 : State := { s with rays := s.rays.filter (fun x => decide (x.id ≠ r.id)) }
  let s1 := s0.dropTethers (fun w => decide (w = Waiter.ray r.id))
  let last := !s1.rays.any (fun x => decide (x.op = r.op))
  s1.modWave r.wave (fun w =>
    let w0 : Wave := { w with
      owed := w.owed.map (fun o => if o.id = r.id then { o with data := [(r.lane, hitRecord status h)] } else o)
      degen := if status = 2 then w.degen + 1#32 else w.degen }
    let w1 := w0.arrive r.id
    if last then w1.completeOp r.op else w1)

/-- One of some hits, left open (R295, log entry 16). -/
def State.anyOf (s : State) (hs : List Hit) : Option Hit × State :=
  let (x, s1) := s.freeWord 16
  (hs[x.toNat % hs.length]?, s1)

/-- The hits a ray has found when its wait begins: those of before, and of the ones it meets past no cairn that is still down
some, left open as the order of its walk is (R294, log entry 16). TRACEOCC has found none, or it would have ended. -/
def State.findSome (s : State) (r : Ray) : List Hit × State :=
  if r.occ then ([], s)
  else
    let hs := match s.walkRay true r with
      | .ok w => w.hits
      | .error (_, w) => w.hits
    (r.found ++ (hs.zipIdx.filter (fun h => (Config.freeWord 17 (s.free + h.2)).getLsbD 0)).map Prod.fst,
      { s with free := s.free + hs.length })

/-- A page refused to a ray: FAULT, and the error record of a malformed entry (R294, R378). -/
def State.faultRay (s : State) (r : Ray) (bad : Option Nat) : State :=
  let s1 := s.endRay r 5 none
  match bad with
  | some va => s1.malformed r.ctx (s.wgGrid (s.wave r.wave).wg) va
  | none => s1

/-- The lane that reads lost data is affected, and its ray ends with FAULT (R415, R416). -/
def State.rayLost (s : State) (r : Ray) (pa : Nat) : State :=
  let at_ := ((s.wave r.wave).owed.find? (fun o => decide (o.id = r.id))).map Owed.iaddr
  (s.endRay r 5 none).affect (s.wave r.wave).wg 0x07 pa (s.wave r.wave).handler (some (r.wave, 1#32 <<< r.lane, at_.getD 0#48))

/-- A ray whose pages are all present goes on to its end, or stays where it is. -/
def State.rayOn (s : State) (r : Ray) : State :=
  match s.runRay r with
  | .ok w =>
    let s1 := s.touchAll (keyCore r.wave) false w.pages
    if r.occ then
      let (h, s2) := s1.anyOf w.hits
      s2.endRay r (if h.isSome then 0 else 1) h
    else s1.endRay r (if (bestHit w.hits).isSome then 0 else 1) (bestHit w.hits)
  | .error (e, w) =>
    if r.occ && !w.hits.isEmpty then
      let (h, s1) := s.anyOf w.hits
      (s1.touchAll (keyCore r.wave) false w.pages).endRay r 0 h
    else
      match e with
      | .park _ => s
      | .wait va => s.askPage r.ctx va 4
      | .fault => (s.touchAll (keyCore r.wave) false w.pages).faultRay r none
      | .malformed va => (s.touchAll (keyCore r.wave) false w.pages).faultRay r (some va)
      | .lost pa => s.rayLost r pa

/-- RAY_END: a ray that nothing delays ends and writes its record. -/
noncomputable def execRayEnd (ray : Nat) (s : State) : Out :=
  match s.rays.find? (fun r => decide (r.id = ray)) with
  | none => .next s
  | some r =>
    if r.parked.isSome then .next s
    else
      match r.ended with
      | some st => .next (s.endRay r st none)
      | none =>
        match s.register r with
        | .error (.wait va) => .next (s.askPage r.ctx va 4)
        | .error (.lost pa) => .next (s.rayLost r pa)
        | .error .fault | .error (.park _) => .next (s.faultRay r none)
        | .error (.malformed va) => .next (s.faultRay r (some va))
        | .ok (r1, ps) =>
          let s1 := (s.touchAll (keyCore r.wave) false ps).modRay ray (fun _ => r1)
          match r1.ended with
          | some st => .next (s1.endRay r1 st none)
          | none => .next (s1.rayOn r1)

/-- A ray at an unraised cairn or an unset ROOT ends with CAIRNTIMEOUT and the best hit it has found (Table 12.9). -/
def State.timeOutRay (s : State) (r : Ray) : State := s.endRay r 4 (bestHit r.found)

/-- A ray arrives at a word that holds 0: its wait begins, with a tether on the word, unless its wave is to be pre-empted
(R294, R296). -/
def State.parkRay (s0 : State) (r : Ray) (va : Nat) : State :=
  let (found, s) := s0.findSome r
  if (s.wave r.wave).preempt.isSome then s.timeOutRay { r with found := found }
  else
    match s.translate (keyCore r.wave) r.ctx va .read with
    | .ok pa leaf page =>
      let (id, s1) := s.freshId
      let root := decide (va = r.hdr + 64 * r.slot.getD 0 + 24)
      let tether : Tether := ⟨id, homePa va (.ok pa leaf page), false, if root then .ne else .eq, if root then 0 else 1, none, r.ctx,
        .ray r.id, none, false, .device⟩
      let s2 := ({ s1 with unarmed := s1.unarmed ++ [tether] }).modRay r.id (fun x => { x with
        parked := some va
        found := found
        root := s.rootOf r
        deadline := if r.deadline.isSome ∨ r.tmo = 0 then r.deadline else some (s.now + r.tmo) })
      s2.arm tether
    | .absent | .denied | .malformed _ => s

/-- CAIRN_PARK. -/
noncomputable def execCairnPark (ray : Nat) (s : State) : Out :=
  match s.rays.find? (fun r => decide (r.id = ray)) with
  | none => .next s
  | some r =>
    if r.parked.isSome || r.ended.isSome || r.slot.isNone then .next s
    else
      match s.runRay r with
      | .error (.park va, w) => .next (if r.occ && !w.hits.isEmpty then s else s.parkRay r va)
      | .error (.wait _, _) | .error (.fault, _) | .error (.malformed _, _) | .error (.lost _, _) | .ok _ => .next s

/-- The tether of a parked ray has been satisfied. -/
def State.rayWoken (s : State) (ray : Nat) : Option Nat := s.wakes.findIdx? (fun k => decide (k.waiter = .ray ray))

/-- CAIRN_RESUME: the tether of a parked ray is satisfied, and the ray goes on at that node. -/
def State.resumeRay (s : State) (ray : Nat) : State :=
  match s.rayWoken ray with
  | none => s
  | some i =>
    ({ s with wakes := s.wakes.eraseIdx i }).modRay ray (fun r => { r with
      parked := none
      seen := r.parked.toList ++ r.seen })

noncomputable def execCairnResume (ray : Nat) (s : State) : Out := .next (s.resumeRay ray)

/-- CAIRN_TIMEOUT: not of a ray whose word has been written and whose wake is on its way. -/
noncomputable def execCairnTimeout (ray : Nat) (s : State) : Out :=
  match s.rays.find? (fun r => decide (r.id = ray)) with
  | none => .next s
  | some r =>
    match r.parked, r.deadline with
    | some _, some d => .next (if d ≤ s.now ∧ (s.rayWoken ray).isNone then s.timeOutRay r else s)
    | _, _ => .next s

/-- Rays parked in a wave that is to be pre-empted end at once; one whose word has been written goes on (R296). -/
def State.unparkWave (s : State) (key : Nat) : State :=
  (s.rays.filter (fun r => decide (r.wave = key) && r.parked.isSome)).foldl
    (fun t r => if (t.rayWoken r.id).isSome then t.resumeRay r.id else t.timeOutRay r) s

/-! ## TRACE and TRACEOCC (R292, R293) -/

/-- The ray registers of a lane. -/
def Wave.rayWords (w : Wave) (l : Nat) (a : VReg) : List Word := (List.range 8).map (fun i => w.vreg l (a.val + i))

/-- One lane's ray starts: it owes its four registers, and registers in its slot where its class lets it. -/
def State.startRay (s : State) (op l : Nat) (d a : VReg) (x : TraceMod) (occ : Bool) : State :=
  let words := s.src.rayWords l a
  let id := s.fresh
  let s1 := s.owe .trace (.vec (s.src.wb + d.val) 4) (1#32 <<< l) [] 0 0#32 false
  let r : Ray := ⟨id, op, s.iss.key, l, s.curCtx, s.src.pairVa x.hdr, fld (s.src.sreg x.gen.val) 0 8, none, rayClass words,
    (s.src.sreg x.tmo.val).toNat, none, x.cull, occ, words, none, 0, [], []⟩
  let r1 : Ray × List Trans :=
    if r.ended.isSome then (r, [])
    else
      match s.register r with
      | .ok y => y
      | .error .fault => ({ r with ended := some 5 }, [])
      | .error (.malformed _) | .error (.wait _) | .error (.lost _) | .error (.park _) => (r, [])
  let s2 := s1.touchAll s.curCore false r1.2
  { s2 with rays := s2.rays ++ [r1.1] }

def State.traceAll (s : State) (d a : VReg) (x : TraceMod) (occ : Bool) : State :=
  s.counted clsTrc (fun op t => ((lanesOf t.active).foldl (fun u l => u.startRay op l d a x occ) t).adv)

noncomputable def execTrace (d a : VReg) (x : TraceMod) (s : State) : Out :=
  checked (.trace d a x) lawful (fun s => s.vaTrap (s.src.pairVa x.hdr) 256) (fun s => s.traceAll d a x false) s
noncomputable def execTraceocc (d a : VReg) (x : TraceMod) (s : State) : Out :=
  checked (.traceocc d a x) lawful (fun s => s.vaTrap (s.src.pairVa x.hdr) 256) (fun s => s.traceAll d a x true) s

end Sys2Proof.Machine
end

