-- ==== Sys2Proof/Machine/Build.lean ====
section
/-! DEFINITION. Machine/Build.lean: BUILD and REFIT (R284), the tree a build writes (R285 to R287, R324), the refit of a live
one (R288), and the compactor (R289). -/

namespace Sys2Proof.Machine

open Sys2Proof

/-! ## The command (Table 12.5) -/

/-- The fields of a build command. -/
structure BuildCmd where
  hdr : Nat
  clus : Nat
  nclus : Nat
  cdepth : Nat
  ratio : Nat
  pool : Nat
  pbytes : Nat
  cairn : Nat
  scratch : Nat
  clean : Bool
  deriving DecidableEq, Repr

def buildCmd (bs : List Byte) : BuildCmd :=
  ⟨bytesAt bs 0 8, bytesAt bs 8 8, bytesAt bs 16 4, byteAt bs 20, bytesAt bs 22 2, bytesAt bs 24 8, bytesAt bs 32 8, bytesAt bs 40 8,
    bytesAt bs 48 8, zeroBytes bs 21 1 && zeroBytes bs 60 68⟩

/-- RATIO is finite and at least 1.0. -/
def ratioOk (r : Nat) : Bool := decide (r < 0x7C00) && decide (0x3C00 ≤ r)

/-- The live slot a refit starts from. -/
def liveSlot (h : List Byte) (nclus : Nat) : Option Nat :=
  [0, 1].find? (fun i => decide ((treeSlot h i).state = 2) && decide ((treeSlot h i).nclus = nclus))

/-- What of the command alone is malformed (R284). -/
def BuildCmd.bad (c : BuildCmd) (refit : Bool) : Bool :=
  !c.clean || decide (c.hdr % 256 ≠ 0) || decide (c.nclus = 0) || decide (16777215 < c.nclus) || decide (c.pool % 128 ≠ 0) ||
  decide (c.cairn % 4 ≠ 0) || (if refit then !ratioOk c.ratio else decide (c.cdepth < 1) || decide (3 < c.cdepth))

/-! ## Submitting (R284) -/

/-- Commands the device's queue holds. -/
def buildQueueSize : Nat := 16

def State.submitBuild (s : State) (refit : Bool) (d : UDst) (a : SReg) : State :=
  s.releasing .device (fun s =>
    if buildQueueSize ≤ s.builds.length then (s.putU d 1#32).adv
    else
      let (id, s1) := s.freshId
      let job : BuildJob := ⟨id, refit, s.curCtx, s.src.pairVa a, .queued, [], 0, 0, 0, [], 0, [], 0⟩
      (({ s1 with builds := s1.builds ++ [job] } : State).putU d 0#32).adv)

noncomputable def execBuild (d : UDst) (a : SReg) (s : State) : Out :=
  checked (.build d a) lawful (fun s => s.vaTrap (s.src.pairVa a) 128) (fun s => s.submitBuild false d a) s
noncomputable def execRefit (d : UDst) (a : SReg) (s : State) : Out :=
  checked (.refit d a) lawful (fun s => s.vaTrap (s.src.pairVa a) 128) (fun s => s.submitBuild true d a) s

/-! ## What the builders reach -/

/-- Why an engine of the hub goes no further now: a page to wait for, the status it ends with, or a malformed page-table entry
it has met at a VA, which is a refused page with an error record (R378). -/
inductive BuildStop where
  | wait (va : Nat) | fail (status : Nat) | malformed (va : Nat)
  deriving DecidableEq, Repr

/-- The status a stop ends with, if it does. -/
def BuildStop.status (e : BuildStop) : Option Nat :=
  match e with
  | .wait _ => none
  | .fail x => some x
  | .malformed _ => some 3

/-- What a stop leaves behind: an upcall for the page it waits for, or the error record of a malformed entry. -/
def State.stopped (s : State) (ctx : Nat) (e : BuildStop) : State :=
  match e with
  | .wait va => s.askPage ctx va 4
  | .fail _ => s
  | .malformed va => s.malformed ctx 0 va

/-- A range of a context as the hub reaches it; lost data counts as a refused page (R415). -/
def State.reachHub (s : State) (ctx va n : Nat) (need : Need) : Except BuildStop (List Nat) :=
  let ps := s.hubPages ctx va n need
  match ps.find? (fun t => s.refusedElem ctx (⟨0, true, (t.2.1 : Int)⟩, t.1)) with
  | some t => .error (if t.1.isBad then .malformed t.2.1 else .fail 3)
  | none =>
    match ps.find? (fun t => t.1.isAbsent) with
    | some t => .error (.wait t.2.1)
    | none =>
      let pas := (s.hubPas ctx va n need).getD []
      if !need.writes && pas.any (fun pa => s.lost (lineOf pa)) then .error (.fail 3) else .ok pas

/-- Bytes of a range as the hub reads them. -/
def State.readHub (s : State) (ctx va n : Nat) : Except BuildStop (List Byte) :=
  match s.reachHub ctx va n .read with
  | .ok pas => .ok (pas.map s.mem.get)
  | .error e => .error e

/-- Every range of a list can be written. -/
def State.canWrite (s : State) (ctx : Nat) : List (Nat × Nat) → Except BuildStop Unit
  | [] => .ok ()
  | (va, n) :: r =>
    match s.reachHub ctx va n (.write true) with
    | .ok _ => s.canWrite ctx r
    | .error e => .error e

/-! ## Boxes and nodes as built (R282, R286) -/

/-- A box in units of 2^-149. -/
structure IBox where
  lo : V3
  hi : V3
  deriving DecidableEq, Repr

def V3.min (a b : V3) : V3 := ⟨Min.min a.x b.x, Min.min a.y b.y, Min.min a.z b.z⟩
def V3.max (a b : V3) : V3 := ⟨Max.max a.x b.x, Max.max a.y b.y, Max.max a.z b.z⟩
def IBox.union (a b : IBox) : IBox := ⟨a.lo.min b.lo, a.hi.max b.hi⟩
def IBox.ext (b : IBox) (ax : Nat) : Int := b.hi.ax ax - b.lo.ax ax
/-- Surface area, in units of 2^-298. -/
def IBox.area (b : IBox) : Nat := (2 * (b.ext 0 * b.ext 1 + b.ext 1 * b.ext 2 + b.ext 2 * b.ext 0)).toNat

def unionAll : List IBox → Option IBox
  | [] => none
  | b :: r => some (r.foldl IBox.union b)

def BuildCluster.box (c : BuildCluster) : IBox := ⟨⟨c.lo.1, c.lo.2.1, c.lo.2.2⟩, ⟨c.hi.1, c.hi.2.1, c.hi.2.2⟩⟩

/-- The least `k` from `k` up, within `fuel`, with `ext` at most 255 × 2^k. -/
def expFrom (ext : Int) : Nat → Nat → Nat
  | 0, k => k
  | fuel + 1, k => if ext ≤ 255 * 2 ^ k then k else expFrom ext fuel (k + 1)
/-- EXP of an extent (R282). -/
def boxExp (ext : Int) : Int := (expFrom ext 300 22 : Int) - 149

/-- A child of a node being written: its reference, its box, and its term of the cost: C of a node, NT / 8 of a cluster; none
where an edge of a box overflowed FP32, for which the cost has no stated value (log entry 16). -/
structure Piece where
  ref : Nat
  box : IBox
  term : Option Ratio
  deriving DecidableEq, Repr

def nodeRefOf (ix : Nat) : Nat := 2 ^ 30 + 2 * ix
def clusterRefOf (id : Nat) : Nat := 2 ^ 31 + 10 * id
def BuildCluster.piece (c : BuildCluster) : Piece := ⟨clusterRefOf c.id, c.box, some ⟨c.nt, 8⟩⟩

def Ratio.reduce (r : Ratio) : Ratio :=
  let g := Nat.gcd r.num.natAbs r.den
  if g = 0 then r else ⟨r.num / g, r.den / g⟩
def Ratio.add (a b : Ratio) : Ratio := Ratio.reduce ⟨a.num * b.den + b.num * a.den, a.den * b.den⟩
def Ratio.mul (a b : Ratio) : Ratio := Ratio.reduce ⟨a.num * b.num, a.den * b.den⟩

/-- The words of ORIGIN and the exponents of a node over a box. -/
def originWord (b : IBox) (ax : Nat) : Word := Ratio.f32 .rne (Ratio.units (b.lo.ax ax))

/-- The six box bytes of a child (R282). -/
def encodeChild (b : IBox) (c : IBox) : List Nat :=
  axes.foldl (fun l ax =>
    let unit : Int := 2 ^ (boxExp (b.ext ax) + 149).toNat
    l ++ [((c.lo.ax ax - b.lo.ax ax) / unit).toNat, (-((-(c.hi.ax ax - b.lo.ax ax)) / unit)).toNat]) []

/-- A child's box as decoded from the node, where no edge is infinite. -/
def decodedChild (b : IBox) (c : IBox) : Option IBox :=
  let q := encodeChild b c
  let d := decodeBox (originWord b) (fun ax => boxExp (b.ext ax)) (fun i => q.getD i 0)
  if d.all (fun x => f32Finite x.1 && f32Finite x.2) then
    let lo := fun i => f32Units (d.getD i (0#32, 0#32)).1
    let hi := fun i => f32Units (d.getD i (0#32, 0#32)).2
    some ⟨⟨lo 0, lo 1, lo 2⟩, ⟨hi 0, hi 1, hi 2⟩⟩
  else none

/-- The cost of a node with children (R286). -/
def nodeCost (b : IBox) (kids : List Piece) : Option Ratio :=
  let decs := kids.map (fun k => (decodedChild b k.box, k.term))
  let whole := unionAll (decs.filterMap Prod.fst)
  let san := (whole.map IBox.area).getD 0
  decs.foldl (fun acc d =>
    match acc, d with
    | some c, (some x, some t) => some (c.add (if san = 0 then t else Ratio.mul ⟨x.area, san⟩ t))
    | _, _ => none) (some ⟨1, 1⟩)

/-- What identifies a node beside its children. -/
structure NodeTag where
  flags : Nat
  qual : Nat
  cairnix : Nat
  gen : Nat
  level : Nat
  cbuild : Word
  parent : Nat
  deriving DecidableEq, Repr

/-- The 128 bytes of a node (Table 12.4). -/
def nodeBytes (b : Option IBox) (kids : List Piece) (t : NodeTag) : List Byte :=
  let head := match b with
    | some x => axes.foldl (fun l ax => l ++ bytesOfNat 4 (originWord x ax).toNat) [] ++
        axes.map (fun ax => BitVec.ofInt 8 (boxExp (x.ext ax)))
    | none => bytesOfNat 15 0
  let boxes := kids.foldl (fun l k => l ++ ((b.map (fun x => encodeChild x k.box)).getD []).map (BitVec.ofNat 8)) []
  let refs := kids.foldl (fun l k => l ++ bytesOfNat 4 k.ref) []
  let fill := fun (n : Nat) (l : List Byte) => l ++ List.replicate (n - l.length) 0#8
  head ++ bytesOfNat 1 (t.flags + kids.length) ++ fill 48 boxes ++ fill 32 refs ++ bytesOfNat 2 t.qual ++ bytesOfNat 2 t.cairnix ++
    bytesOfNat 1 t.gen ++ bytesOfNat 1 t.level ++ bytesOfNat 2 0 ++ bytesOfNat 4 t.cbuild.toNat ++ bytesOfNat 4 t.parent ++ bytesOfNat 16 0

/-- CBUILD of a cost; an unstated one is an open value. -/
def cbuildWord (free ix : Nat) (c : Option Ratio) : Word :=
  match c with
  | some r => r.f32 .rne
  | none => Config.freeWord 18 (free + ix)

/-- Nodes written so far, and the next index to give out. -/
structure Emit where
  next : Nat
  nodes : List (Nat × List Byte)
  deriving DecidableEq, Repr

/-- Generation and count of open values of a build. -/
structure BuildEnv where
  gen : Nat
  free : Nat
  deriving DecidableEq, Repr

/-- Write a node over its children: it becomes a piece of its parent. -/
def Emit.put (e : Emit) (v : BuildEnv) (ix flags cairnix level parent : Nat) (kids : List Piece) : Piece × Emit :=
  let b := unionAll (kids.map Piece.box)
  let c := match b with
    | some x => nodeCost x kids
    | none => some ⟨1, 1⟩
  let bs := nodeBytes b kids ⟨flags, 0x3C00, cairnix, v.gen, level, cbuildWord v.free ix c, parent⟩
  (⟨nodeRefOf ix, b.getD ⟨⟨0, 0, 0⟩, ⟨0, 0, 0⟩⟩, c⟩, { e with nodes := e.nodes ++ [(ix, bs)] })

/-- The parts of sorted clusters by the three key bits after `used` (R286). -/
def keyParts (used : Nat) (cs : List BuildCluster) : List (List BuildCluster) :=
  ((List.range 8).map (fun v => cs.filter (fun c => decide (c.key / 2 ^ (27 - used) % 8 = v)))).filter (fun g => !g.isEmpty)

/-- Levels with a single part are skipped. -/
def skipLevels (cs : List BuildCluster) : Nat → Nat → Nat
  | 0, used => used
  | fuel + 1, used => if used < 30 ∧ (keyParts used cs).length = 1 then skipLevels cs fuel (used + 3) else used

/-- Consecutive runs of `k` elements. -/
def runsOf {α : Type} (k : Nat) : Nat → List α → List (List α)
  | 0, _ => []
  | fuel + 1, l => if l.isEmpty then [] else l.take k :: runsOf k fuel (l.drop k)

/-- The least power of 8, from `p` up, of which 8 cover `n`. -/
def runSize (n : Nat) : Nat → Nat → Nat
  | 0, p => p
  | fuel + 1, p => if n ≤ 8 * p then p else runSize n fuel (8 * p)

/-- Children in order, each written after the one before. -/
def Emit.each {α : Type} (e : Emit) (xs : List α) (f : α → Emit → Piece × Emit) : List Piece × Emit :=
  xs.foldl (fun p x => let (k, e1) := f x p.2; (p.1 ++ [k], e1)) ([], e)

/-- An 8-ary tree over clusters of equal keys (R286). -/
def emitRun (v : BuildEnv) : Nat → Nat → Nat → List BuildCluster → Emit → Piece × Emit
  | _, _, _, [c], e => (c.piece, e)
  | 0, _, _, _, e => (⟨0, ⟨⟨0, 0, 0⟩, ⟨0, 0, 0⟩⟩, none⟩, e)
  | fuel + 1, level, parent, cs, e =>
    let ix := e.next
    let (kids, e1) := ({ e with next := ix + 1 } : Emit).each (runsOf (runSize cs.length 10 1) 8 cs)
      (emitRun v fuel (level + 1) (nodeRefOf ix))
    e1.put v ix 0 0 level parent kids

/-- A part of the clusters below the cairn level: a reference, or a node and what lies below it (R286). -/
def emitPart (v : BuildEnv) : Nat → Nat → Nat → Nat → List BuildCluster → Emit → Piece × Emit
  | _, _, _, _, [c], e => (c.piece, e)
  | 0, _, _, _, _, e => (⟨0, ⟨⟨0, 0, 0⟩, ⟨0, 0, 0⟩⟩, none⟩, e)
  | fuel + 1, used, level, parent, cs, e =>
    let u := skipLevels cs 10 used
    if 30 ≤ u then emitRun v 12 level parent cs e
    else
      let ix := e.next
      let (kids, e1) := ({ e with next := ix + 1 } : Emit).each (keyParts u cs) (emitPart v fuel (u + 3) (level + 1) (nodeRefOf ix))
      e1.put v ix 0 0 level parent kids

/-! ## Gathering and sorting (R285) -/

/-- The axes from the longest extent to the shortest, ties x, y, z. -/
def axisOrder (b : IBox) : List Nat :=
  let x := b.ext 0
  let y := b.ext 1
  let z := b.ext 2
  if y ≤ x ∧ z ≤ x then (if z ≤ y then [0, 1, 2] else [0, 2, 1])
  else if z ≤ y then (if z ≤ x then [1, 0, 2] else [1, 2, 0])
  else (if y ≤ x then [2, 0, 1] else [2, 1, 0])

/-- The key of a cluster under a cube. -/
def clusterKey (cube : IBox) (c : IBox) : Nat :=
  let side := Max.max (cube.ext 0) (Max.max (cube.ext 1) (cube.ext 2))
  if side = 0 then 0
  else mortonCode (axisOrder cube) (fun ax => mortonCell (c.lo.ax ax + c.hi.ax ax - 2 * cube.lo.ax ax) (2 * side))

def BuildCluster.before (a b : BuildCluster) : Bool := decide (a.key < b.key) || (decide (a.key = b.key) && decide (a.id < b.id))
def insertCluster (c : BuildCluster) : List BuildCluster → List BuildCluster
  | [] => [c]
  | d :: r => if c.before d then c :: d :: r else d :: insertCluster c r

/-- Clusters keyed under a cube and sorted by key and id. -/
def sortClusters (cube : IBox) (cs : List BuildCluster) : List BuildCluster :=
  (cs.map (fun c => { c with key := clusterKey cube c.box })).foldl (fun l c => insertCluster c l) []

/-- A cluster of a stream as gathered. -/
def gatherOne (id : Nat) (bs : List Byte) : BuildCluster :=
  let lo := fun a => f32Units (clusterLo bs a)
  let hi := fun a => f32Units (clusterHi bs a)
  ⟨id, 0, clusterNt bs, (lo 0, lo 1, lo 2), (hi 0, hi 1, hi 2)⟩

/-- The clusters from `id` up; INVALID where one is malformed. -/
def State.gather (s : State) (ctx clus : Nat) : Nat → Nat → Except BuildStop (List BuildCluster)
  | 0, _ => .ok []
  | n + 1, id =>
    match s.readHub ctx (clus + 640 * id) 640 with
    | .error e => .error e
    | .ok bs =>
      if clusterBad bs then .error (.fail 4)
      else
        match s.gather ctx clus n (id + 1) with
        | .ok r => .ok (gatherOne id bs :: r)
        | .error e => .error e

/-! ## The plan of a build (R286, R287, R324) -/

/-- The clusters of cell `k`. -/
def cellOf (cdepth k : Nat) (cs : List BuildCluster) : List BuildCluster :=
  cs.filter (fun c => decide (c.key / 2 ^ (30 - 3 * cdepth) = k - 1))

/-- Index of a spine node: level and place. -/
def spineIx (lv p : Nat) : Nat := (8 ^ lv - 1) / 7 + p

/-- A cairn node and the nodes below it. -/
def emitCell (v : BuildEnv) (cdepth k : Nat) (cs : List BuildCluster) (e : Emit) : Piece × Emit :=
  let ix := spineNodes cdepth + k - 1
  let (kids, e1) := e.each (keyParts (3 * cdepth) (cellOf cdepth k cs)) (emitPart v 12 (3 * cdepth + 3) (cdepth + 1) (nodeRefOf ix))
  e1.put v ix 0x20 k cdepth (nodeRefOf (spineIx (cdepth - 1) ((k - 1) / 8))) kids

/-- Whether a spine node at level `lv`, place `p`, covers any cluster. -/
def spineHolds (lv p : Nat) (cs : List BuildCluster) : Bool := cs.any (fun c => decide (c.key / 2 ^ (30 - 3 * lv) = p))

/-- The final spine's nodes in level order, and the index of each. -/
def finalSpine (cdepth : Nat) (cs : List BuildCluster) : List (Nat × Nat) :=
  (List.range cdepth).foldl (fun l lv => l ++ ((List.range (8 ^ lv)).filter (fun p => spineHolds lv p cs)).map (fun p => (lv, p))) []
def spinePlace (spine : List (Nat × Nat)) (base lv p : Nat) : Nat := base + (spine.findIdx (fun x => decide (x = (lv, p))))

/-- Write the final spine from a node down (R287 stage 3). -/
def emitSpine (v : BuildEnv) (cdepth base : Nat) (spine : List (Nat × Nat)) (cs : List BuildCluster) :
    Nat → Nat → Nat → Nat → Emit → Piece × Emit
  | 0, _, _, _, e => (⟨0, ⟨⟨0, 0, 0⟩, ⟨0, 0, 0⟩⟩, none⟩, e)
  | fuel + 1, lv, p, parent, e =>
    let ix := spinePlace spine base lv p
    let qs := ((List.range 8).map (fun j => 8 * p + j)).filter (fun q => spineHolds (lv + 1) q cs)
    let (kids, e1) := e.each qs (fun q e =>
      if lv + 1 = cdepth then ((emitCell v cdepth (q + 1) cs e).1, e) else emitSpine v cdepth base spine cs fuel (lv + 1) q (nodeRefOf ix) e)
    e1.put v ix 0x10 0 lv parent kids

/-- The pool nodes a build uses. -/
def buildNodes (v : BuildEnv) (cdepth : Nat) (cs : List BuildCluster) : Nat :=
  let base := spineNodes cdepth + 8 ^ cdepth
  let cells := (List.range (8 ^ cdepth)).foldl (fun e i => (emitCell v cdepth (i + 1) cs e).2) ⟨base, []⟩
  cells.next + (finalSpine cdepth cs).length

/-- The bytes of a provisional spine node (R287, R324). -/
def provisional (gen cdepth lv p : Nat) (scene : IBox) : List Byte :=
  let first := spineIx (lv + 1) (8 * p)
  let kids := (List.range 8).map (fun j => (⟨nodeRefOf (first + j), scene, none⟩ : Piece))
  let parent := if lv = 0 then 0 else nodeRefOf (spineIx (lv - 1) (p / 8))
  nodeBytes (some scene) kids ⟨0x10, 0x3C00, 0, gen, lv, 0#32, if cdepth = 0 then 0 else parent⟩

def BuildJob.command (j : BuildJob) : BuildCmd := buildCmd j.cmd
def BuildJob.env (j : BuildJob) : BuildEnv := ⟨j.gen, j.free⟩

/-- What a build needs before it writes its spine: its clusters sorted, room in the pool, and every page it will write. -/
def State.buildPlan (s : State) (j : BuildJob) : Except BuildStop (List BuildCluster × IBox) :=
  let c := j.command
  match s.gather j.ctx c.clus c.nclus 0 with
  | .error e => .error e
  | .ok cs =>
    match unionAll (cs.map BuildCluster.box) with
    | none => .error (.fail 4)
    | some scene =>
      let sorted := sortClusters scene cs
      let n := buildNodes ⟨j.gen, s.free⟩ c.cdepth sorted
      if c.pbytes < 128 * n then .error (.fail 2)
      else
        match s.canWrite j.ctx [(c.pool, 128 * n), (c.cairn, 4 * 8 ^ c.cdepth), (c.scratch, 8 * c.nclus), (c.hdr, 256), (j.va + 56, 4)] with
        | .error e => .error e
        | .ok _ => .ok (sorted, scene)

def State.modBuild (s : State) (id : Nat) (f : BuildJob → BuildJob) : State :=
  { s with builds := s.builds.map (fun j => if j.id = id then f j else j) }

/-- The ranges nodes of a pool take. -/
def nodeRanges (pool : Nat) (ns : List (Nat × List Byte)) : List (Nat × Nat) := ns.map (fun n => (pool + 128 * n.1, 128))

/-- Write nodes of a pool. -/
def State.putNodes (s : State) (ctx pool : Nat) (ns : List (Nat × List Byte)) : State :=
  ns.foldl (fun u n => u.hubWrite ctx (pool + 128 * n.1) n.2) s

/-- Bytes of one page left open. -/
def State.spoilPiece (s : State) (ctx va n : Nat) : State :=
  let bs := (List.range n).map (fun i => BitVec.truncate 8 (Config.freeWord 20 (s.free + i)))
  ({ s with free := s.free + n }).hubWrite ctx va bs

/-- A range left open, page by page, where it can be written. -/
def State.spoil (s : State) (ctx va n : Nat) : State := (piecesOf va n).foldl (fun t p => t.spoilPiece ctx p.1 p.2) s

/-- SCRATCH is unpredictable after a build or refit: open values (R324). -/
def State.spoilScratch (s : State) (j : BuildJob) : State := s.spoil j.ctx j.command.scratch (8 * j.command.nclus)

/-- Stage 1 of R287: cairn words 0, the provisional spine, then ROOT as a release. -/
def State.startSpine (s : State) (j : BuildJob) : State :=
  match s.buildPlan j with
  | .error (.wait va) => s.askPage j.ctx va 4
  | .error (.fail _) | .error (.malformed _) => s
  | .ok (cs, scene) =>
    let c := j.command
    let base := spineNodes c.cdepth + 8 ^ c.cdepth
    let s1 := (s.hubSeen j.ctx c.clus (640 * c.nclus) .read).hubWrite j.ctx c.cairn (bytesOfNat (4 * 8 ^ c.cdepth) 0)
    let nodes := (List.range c.cdepth).foldl (fun l lv =>
      l ++ (List.range (8 ^ lv)).map (fun p => (spineIx lv p, provisional j.gen c.cdepth lv p scene))) []
    let s2 := (s1.putNodes j.ctx c.pool nodes).spoilScratch j
    let s3 := s2.hubWrite j.ctx (c.hdr + 64 * j.slot + 24) (bytesOfNat 4 (nodeRefOf 0))
    ({ s3 with free := s3.free + base + buildNodes j.env c.cdepth cs } : State).modBuild j.id (fun x => { x with
      phase := .building, clusters := cs, next := base, free := s3.free })

/-! ## Events -/

def State.dropBuild (s : State) (id : Nat) : State := { s with builds := s.builds.filter (fun j => decide (j.id ≠ id)) }

/-- A command ends at its check: DONE gets its status, and no slot is taken. -/
def State.refuseBuild (s : State) (j : BuildJob) (status : Nat) : State :=
  (s.hubWrite j.ctx (j.va + 56) (bytesOfNat 4 status)).dropBuild j.id

/-- A stop of the check: a page to wait for, or the end of the command. -/
def State.stopCheck (s : State) (j : BuildJob) (e : BuildStop) : State :=
  match e.status with
  | none => s.stopped j.ctx e
  | some x => (s.stopped j.ctx e).refuseBuild j x

/-- Commands naming one header run one at a time in acceptance order. -/
def State.buildTurn (s : State) (j : BuildJob) (hdr : Nat) : Bool :=
  (s.builds.takeWhile (fun x => decide (x.id ≠ j.id))).all (fun x =>
    decide ((x.ctx, if x.cmd = [] then s.hubNat x.ctx x.va 8 else x.command.hdr) ≠ (j.ctx, hdr)))

/-- BUILD_START: the command and its header are read and checked (R284). -/
noncomputable def execBuildStart (job : Nat) (s : State) : Out :=
  match s.builds.find? (fun j => decide (j.id = job)) with
  | none => .next s
  | some j =>
    if j.phase ≠ .queued then .next s
    else
      match s.readHub j.ctx j.va 128 with
      | .error e => .next (s.stopCheck j e)
      | .ok bs =>
        let c := buildCmd bs
        let s0 := s.hubSeen j.ctx j.va 128 .read
        if !s.buildTurn j c.hdr then .next s
        else if c.bad j.refit then .next (s0.refuseBuild j 4)
        else
          match s.canWrite j.ctx [(c.hdr, 256)], s.readHub j.ctx c.hdr 256 with
          | .error e, _ | .ok _, .error e => .next (s0.stopCheck j e)
          | .ok _, .ok h =>
            if !headerClean h || (j.refit && (liveSlot h c.nclus).isNone) then .next (s0.refuseBuild j 4)
            else .next (s0.modBuild job (fun x => { x with phase := .checked, cmd := bs }))

/-- BUILD_SLOT_TAKE: one step at the header's home slice; then a build's provisional spine (R284, R287). -/
noncomputable def execBuildSlotTake (job : Nat) (s : State) : Out :=
  match s.builds.find? (fun j => decide (j.id = job)) with
  | none => .next s
  | some j =>
    let c := j.command
    match j.phase, s.readHub j.ctx c.hdr 256 with
    | .checked, .ok h =>
      (match [0, 1].find? (fun i => decide ((treeSlot h i).state = 0)) with
        | none => .next s
        | some i =>
          let live := (liveSlot h c.nclus).getD 0
          let from_ := treeSlot h live
          let gen := byteAt h 128
          let head := bytesOfNat 8 c.pool ++ bytesOfNat 8 c.clus ++ bytesOfNat 8 (if j.refit then from_.cairn else c.cairn) ++ bytesOfNat 4 0
          let tail := bytesOfNat 4 c.nclus ++ bytesOfNat 1 gen ++ bytesOfNat 1 1 ++ bytesOfNat 1 (if j.refit then from_.cdepth else c.cdepth)
          let s1 := s.hubWriteAll j.ctx [(c.hdr + 64 * i, head), (c.hdr + 64 * i + 32, tail), (c.hdr + 128, bytesOfNat 1 (gen + 1))]
          let j1 := { j with phase := .taken, slot := i, gen := gen, live := live }
          let s2 := { s1.modBuild job (fun _ => j1) with trees := ((j.ctx, c.hdr) :: s1.trees).eraseDups }
          .next (if j.refit then s2 else s2.startSpine j1))
    | _, _ => .next s

/-- The builders that are left take a cell: with two, each half has its own; with one, the half with key bit 29 = 0 goes first
(R285). -/
def State.cellTurn (s : State) (j : BuildJob) (cell : Nat) : Bool :=
  let half := 8 ^ j.command.cdepth / 2
  decide (2 ≤ (s.sites.filter Site.live).length) || decide (cell ≤ half) || (List.range half).all (fun i => j.raised.contains (i + 1))

/-- CAIRN_RAISE: the subtree of a cell is complete: its nodes, its cairn node, then its cairn word as a release (R287). -/
noncomputable def execCairnRaise (job cell : Nat) (s : State) : Out :=
  match s.builds.find? (fun j => decide (j.id = job)) with
  | none => .next s
  | some j0 =>
    if j0.refit then .next s
    else
      let s1 := if j0.phase = .taken then s.startSpine j0 else s
      match s1.builds.find? (fun j => decide (j.id = job)) with
      | none => .next s1
      | some j =>
        let c := j.command
        if j.phase ≠ .building ∨ cell = 0 ∨ 8 ^ c.cdepth < cell ∨ j.raised.contains cell ∨ s1.cellTurn j cell = false then .next s1
        else
          let (_, e) := emitCell j.env c.cdepth cell j.clusters ⟨j.next, []⟩
          match s1.canWrite j.ctx (nodeRanges c.pool e.nodes ++ [(cairnVa c.cairn cell, 4)]) with
          | .error (.wait va) => .next (s1.askPage j.ctx va 4)
          | .error (.fail _) | .error (.malformed _) => .next s1
          | .ok _ =>
            .next (((s1.putNodes j.ctx c.pool e.nodes).hubWrite j.ctx (cairnVa c.cairn cell) (bytesOfNat 4 1)).modBuild job
              (fun x => { x with raised := cell :: x.raised, next := e.next }))

/-- The link step and DONE (R287, R284): ROOT, STATE 2, the other live slot superseded, in one step. -/
def State.linkTree (s : State) (j : BuildJob) (root : Nat) : State :=
  let c := j.command
  let h := (s.hubRead j.ctx c.hdr 256).getD []
  let other := 1 - j.slot
  let both := decide ((treeSlot h other).state = 2)
  let s1 := s.hubWriteAll j.ctx ([(c.hdr + 64 * j.slot + 24, bytesOfNat 4 root), (c.hdr + 64 * j.slot + 37, bytesOfNat 1 2)] ++
    (if both then [(c.hdr + 64 * other + 37, bytesOfNat 1 3)] else []))
  (s1.hubWrite j.ctx (j.va + 56) (bytesOfNat 4 (1 + j.gen * 256))).dropBuild j.id

/-! ## REFIT (R288) -/

/-- A node of the live generation with its refitted bytes: its clusters, its box, its cost, the references it holds, its level,
whether it is a spine node, and whether its QUAL exceeds RATIO. -/
structure RNode where
  ix : Nat
  bytes : List Byte
  ids : List Nat
  box : Option IBox
  cost : Option Ratio
  refs : List Nat
  level : Nat
  spine : Bool
  worse : Bool
  deriving DecidableEq, Repr

/-- QUAL of a refitted node: C ÷ CBUILD rounded to FP16, of a C above 0. -/
def qualOf (free ix : Nat) (c : Option Ratio) (cbuild : Word) : Nat :=
  match c, fp32.value cbuild.toNat with
  | none, _ => (Config.freeWord 19 (free + ix)).toNat % 2 ^ 16
  | some _, .nan _ => fp16.nan
  | some _, .inf neg => fp16.signed neg 0
  | some r, .fin neg m e =>
    if m = 0 then fp16.signed neg 0x7C00
    else (fp16.roundRatio .rne false neg (r.num.natAbs * 2 ^ 149) (r.den * ((FVal.fin false m e).units (-149)).natAbs)).1

/-- A node's QUAL exceeds RATIO. -/
def qualOver (q ratio : Nat) : Bool := !(fp16.value q).isNan && decide (0 < FVal.order (fp16.value q) (fp16.value ratio))

/-- Steps 1 to 3 of R288 for a node and all below it. -/
def State.refitNode (s : State) (ctx pool gen free ratio oldGen : Nat) (cs : List BuildCluster) :
    Nat → Nat → Except BuildStop (RNode × List RNode)
  | 0, _ => .error (.fail 4)
  | fuel + 1, ix =>
    match s.readHub ctx (pool + 128 * ix) 128 with
    | .error e => .error e
    | .ok bs =>
      if nodeBad oldGen bs then .error (.fail 4)
      else
        let refs := (List.range (nodeCount bs)).map (nodeRef bs)
        let step := fun (acc : Except BuildStop (List Piece × List Nat × List RNode)) (ref : Nat) =>
          match acc with
          | .error e => Except.error e
          | .ok (ps, ids, ns) =>
            let off := ref % 2 ^ 30
            match ref / 2 ^ 30 with
            | 1 =>
              if off % 2 = 1 then Except.error (BuildStop.fail 4)
              else
                match s.refitNode ctx pool gen free ratio oldGen cs fuel (off / 2) with
                | .error e => .error e
                | .ok (n, more) => .ok (ps ++ [⟨ref, n.box.getD ⟨⟨0, 0, 0⟩, ⟨0, 0, 0⟩⟩, n.cost⟩], ids ++ n.ids, ns ++ more)
            | 2 =>
              (match cs.find? (fun c => decide (off = 10 * c.id)) with
                | some c => .ok (ps ++ [c.piece], ids ++ [c.id], ns)
                | none => .error (.fail 4))
            | _ => .error (.fail 4)
        match refs.foldl step (.ok ([], [], [])) with
        | .error e => .error e
        | .ok (kids, ids, ns) =>
          let box := unionAll (kids.map Piece.box)
          let cost := match box with
            | some b => nodeCost b kids
            | none => some ⟨1, 1⟩
          let cb := wordOf bs 104
          let q := qualOf free ix cost cb
          let tag : NodeTag := ⟨byteAt bs 15 / 16 * 16, q, bytesAt bs 98 2, gen, byteAt bs 101, cb, bytesAt bs 108 4⟩
          let n : RNode := ⟨ix, nodeBytes box kids tag, ids, box, cost, refs, byteAt bs 101, byteAt bs 15 / 16 % 2 == 1, qualOver q ratio⟩
          .ok (n, n :: ns)

/-- The nodes a generation's pool holds below `base` that none of some nodes is: kept by a refit at their places, refitted where
what they refer to still makes a subtree (R288, R324). -/
def State.oldNodes (s : State) (live : TreeSlot) (ctx gen base : Nat) (node : Nat → Except BuildStop (RNode × List RNode))
    (ns : List RNode) : Except BuildStop (List (Nat × List Byte)) :=
  ((List.range base).filter (fun ix => decide (spineNodes live.cdepth ≤ ix) && !ns.any (fun n => decide (n.ix = ix)))).foldl
    (fun acc ix =>
      match acc, s.readHub ctx (live.pool + 128 * ix) 128 with
      | .error e, _ => .error e
      | .ok _, .error e => .error e
      | .ok l, .ok bs =>
        if byteAt bs 100 ≠ live.gen then .ok l
        else
          match node ix with
          | .ok (n, _) => .ok (l ++ [(ix, n.bytes)])
          | .error (.wait va) => .error (.wait va)
          | .error (.fail _) | .error (.malformed _) => .ok (l ++ [(ix, bs.take 100 ++ bytesOfNat 1 gen ++ bs.drop 101)]))
    (.ok [])

def rnode (ns : List RNode) (ix : Nat) : Option RNode := ns.find? (fun n => decide (n.ix = ix))

/-- The topmost nodes to be rebuilt, each with its parent. -/
def topOver (ns : List RNode) : Nat → Option Nat → Nat → List (RNode × Option Nat)
  | 0, _, _ => []
  | fuel + 1, parent, ix =>
    match rnode ns ix with
    | none => []
    | some n =>
      if n.worse then [(n, parent)]
      else (n.refs.filter (fun r => decide (r / 2 ^ 30 = 1))).foldl (fun l r => l ++ topOver ns fuel (some ix) (r % 2 ^ 30 / 2)) []

/-- A node's bytes with its references replaced. -/
def replaceRefs (f : Nat → Nat) (bs : List Byte) : List Byte :=
  bs.take 64 ++ (List.range 8).foldl (fun l c => l ++ bytesOfNat 4 (if nodeRef bs c = 0 then 0 else f (nodeRef bs c))) [] ++ bs.drop 96
/-- A node's bytes with PARENT replaced. -/
def replaceParent (p : Nat) (bs : List Byte) : List Byte := bs.take 108 ++ bytesOfNat 4 p ++ bs.drop 112

/-- Step 4 for one node: its subtree built again under its own box, with no cairns; the root of a tree stays a node. -/
def rebuild (v : BuildEnv) (cs : List BuildCluster) (n : RNode) (parent : Nat) (e : Emit) : Piece × Emit :=
  let mine := cs.filter (fun c => n.ids.contains c.id)
  let sorted := sortClusters (n.box.getD ⟨⟨0, 0, 0⟩, ⟨0, 0, 0⟩⟩) mine
  match sorted with
  | [c] => if n.level = 0 then ({ e with next := e.next + 1 } : Emit).put v e.next 0 0 0 0 [c.piece] else (c.piece, e)
  | _ => emitPart v 12 0 n.level parent sorted e

/-- The nodes a refit writes, the root it links and the number of pool nodes it uses. -/
def State.refitPlan (s : State) (j : BuildJob) : Except BuildStop (List (Nat × List Byte) × Nat) :=
  let c := j.command
  match s.readHub j.ctx c.hdr 256 with
  | .error e => .error e
  | .ok h =>
    let live := treeSlot h j.live
    match s.gather j.ctx c.clus c.nclus 0 with
    | .error e => .error e
    | .ok cs =>
      let node := s.refitNode j.ctx live.pool j.gen s.free c.ratio live.gen cs 64
      let cells := (List.range (8 ^ live.cdepth)).foldl (fun acc i =>
        match acc, node (spineNodes live.cdepth + i) with
        | .ok l, .ok (_, ns) => Except.ok (l ++ ns)
        | .error e, _ => .error e
        | .ok _, .error e => .error e) (Except.ok ([] : List RNode))
      match node (live.root % 2 ^ 30 / 2), cells with
      | .error e, _ => .error e
      | .ok _, .error e => .error e
      | .ok (root, ns), .ok cell =>
        let all := ns ++ cell.filter (fun n => (rnode ns n.ix).isNone)
        let base := all.foldl (fun m n => Nat.max m (n.ix + 1)) 0
        let v : BuildEnv := ⟨j.gen, s.free + base⟩
        let tops := topOver ns 64 none root.ix
        let spine := ns.filter (fun n => n.spine && !tops.any (fun t => t.1.ids = n.ids && decide (t.1.ix = n.ix)))
        let count := (tops.foldl (fun e t => (rebuild v cs t.1 0 e).2) ⟨base, []⟩).next
        let mapped := fun ix => match spine.findIdx? (fun n => decide (n.ix = ix)) with
          | some i => count + i
          | none => ix
        let (subs, e) := tops.foldl (fun (p : List (Nat × Nat) × Emit) t =>
          let (k, e1) := rebuild v cs t.1 ((t.2.map (fun x => nodeRefOf (mapped x))).getD 0) p.2
          (p.1 ++ [(nodeRefOf t.1.ix, k.ref)], e1)) ([], ⟨base, []⟩)
        let turn := fun r => match subs.find? (fun x => decide (x.1 = r)) with
          | some x => x.2
          | none => if r / 2 ^ 30 = 1 then nodeRefOf (mapped (r % 2 ^ 30 / 2)) else r
        let up := fun (n : RNode) => (spine.find? (fun m => m.refs.contains (nodeRefOf n.ix))).map RNode.ix
        let copies := all.map (fun n => (n.ix, replaceRefs turn n.bytes))
        let sorts := if tops.isEmpty then [] else [(c.scratch, 8 * c.nclus)]
        let fresh := spine.map (fun n =>
          (mapped n.ix, replaceParent (((up n).map (fun p => nodeRefOf (mapped p))).getD 0) (replaceRefs turn n.bytes)))
        let total := count + spine.length
        if c.pbytes < 128 * total then .error (.fail 2)
        else
          match s.oldNodes live j.ctx j.gen base node all, s.canWrite j.ctx ([(c.pool, 128 * total), (c.hdr, 256), (j.va + 56, 4)] ++ sorts) with
          | .error x, _ | .ok _, .error x => .error x
          | .ok old, .ok _ => .ok (copies ++ old ++ e.nodes ++ fresh, turn (nodeRefOf root.ix))

/-- TREE_LINK: every cairn has risen, or a refit's work is done: the final spine, then the link (R287, R288). -/
noncomputable def execTreeLink (job : Nat) (s : State) : Out :=
  match s.builds.find? (fun j => decide (j.id = job)) with
  | none => .next s
  | some j =>
    let c := j.command
    if j.refit then
      if j.phase ≠ .taken then .next s
      else
        match s.refitPlan j with
        | .error (.wait va) => .next (s.askPage j.ctx va 4)
        | .error (.fail _) | .error (.malformed _) => .next s
        | .ok (ns, root) =>
          let s1 := ((s.hubSeen j.ctx c.clus (640 * c.nclus) .read).putNodes j.ctx c.pool ns).spoilScratch j
          .next (({ s1 with free := s1.free + 2 * ns.length + c.pbytes } : State).linkTree j root)
    else if j.phase = .building ∧ j.raised.length = 8 ^ c.cdepth then
      let spine := finalSpine c.cdepth j.clusters
      let (root, e) := emitSpine j.env c.cdepth j.next spine j.clusters 4 0 0 0 ⟨j.next + spine.length, []⟩
      match s.canWrite j.ctx (nodeRanges c.pool e.nodes ++ [(c.hdr, 256), (j.va + 56, 4)]) with
      | .error (.wait va) => .next (s.askPage j.ctx va 4)
      | .error (.fail _) | .error (.malformed _) => .next s
      | .ok _ => .next ((s.putNodes j.ctx c.pool e.nodes).linkTree j root.ref)
    else .next s

/-- A header of a running build that software has spoiled is a FAULT (R279). -/
def State.headerStop (s : State) (j : BuildJob) : Option BuildStop :=
  match s.readHub j.ctx j.command.hdr 256 with
  | .error e => some e
  | .ok h => if headerOk h j.slot && (!j.refit || headerOk h j.live) then none else some (.fail 3)

/-- What keeps a running build from going on now: the pages it uses, POOLFULL, a malformed cluster (R284 step 4). -/
def State.buildStop (s : State) (j : BuildJob) : Option BuildStop :=
  let c := j.command
  let stop := fun (α : Type) (r : Except BuildStop α) => match r with
    | .error e => some e
    | .ok _ => none
  match j.phase, s.headerStop j with
  | .queued, _ | .checked, _ => none
  | _, some e => some e
  | .taken, none => if j.refit then stop _ (s.refitPlan j) else stop _ (s.buildPlan j)
  | .building, none =>
    stop _ (s.canWrite j.ctx [(c.pool, 128 * buildNodes j.env c.cdepth j.clusters), (c.cairn, 4 * 8 ^ c.cdepth), (c.scratch, 8 * c.nclus),
      (c.hdr, 256), (j.va + 56, 4)])

/-- The slot of an ended build is free again, its SCRATCH left open; NEXTGEN keeps its value. -/
def State.freeSlot (s : State) (j : BuildJob) : State :=
  match j.phase with
  | .queued | .checked => s
  | .taken | .building => (s.spoilScratch j).hubWrite j.ctx (j.command.hdr + 64 * j.slot + 37) (bytesOfNat 1 0)

/-- BUILD_FAIL (R284 step 4). -/
noncomputable def execBuildFail (job status : Nat) (s : State) : Out :=
  match s.builds.find? (fun j => decide (j.id = job)) with
  | none => .next s
  | some j =>
    match s.buildStop j with
    | none => .next s
    | some e =>
      if e.status = some status then
        let s1 := s.stopped j.ctx e
        .next (((s1.freeSlot j).hubWrite j.ctx (j.va + 56) (bytesOfNat 4 (status + j.gen * 256))).dropBuild job)
      else .next s

/-- The builds of a killed context are abandoned: their slots are free, and DONE is not written (R284). -/
def State.abandonBuilds (s : State) (ctx : Nat) : State :=
  (s.builds.filter (fun j => decide (j.ctx = ctx))).foldl (fun t j => (t.freeSlot j).dropBuild j.id) s

/-! ## The compactor (R289) -/

/-- The header of a tree the builders have written, and its byte STATE of a slot can be written. -/
def State.compactable (s : State) (ctx hdr slot : Nat) : Except BuildStop Unit := s.canWrite ctx [(hdr + 64 * slot + 37, 1)]

/-- COMPACTOR_RECLAIM: of a slot in STATE 3 whose PIN is 0, STATE := 4, in one step. -/
noncomputable def execCompactorReclaim (ctx hdr slot : Nat) (s : State) : Out :=
  if !s.trees.contains (ctx, hdr) || decide (1 < slot) then .next s
  else
    match s.readHub ctx hdr 256, s.compactable ctx hdr slot with
    | .error (.wait va), _ | .ok _, .error (.wait va) => .next (s.askPage ctx va 4)
    | .error (.fail _), _ | .error (.malformed _), _ | .ok _, .error (.fail _) | .ok _, .error (.malformed _) => .next s
    | .ok h, .ok _ =>
      let t := treeSlot h slot
      if t.state = 3 ∧ t.pin = 0 ∧ s.reclaims.contains (ctx, hdr, slot) = false then
        let s1 := s.hubWrite ctx (hdr + 64 * slot + 37) (bytesOfNat 1 4)
        .next { s1 with reclaims := s1.reclaims ++ [(ctx, hdr, slot)] }
      else .next s

/-- COMPACTOR_FREE: every ray that started in the slot has ended. -/
noncomputable def execCompactorFree (ctx hdr slot : Nat) (s : State) : Out :=
  if s.reclaims.contains (ctx, hdr, slot) &&
      !s.rays.any (fun r => decide (r.ctx = ctx) && decide (r.hdr = hdr) && decide (r.slot = some slot)) then
    match s.compactable ctx hdr slot with
    | .error (.wait va) => .next (s.askPage ctx va 4)
    | .error (.fail _) | .error (.malformed _) => .next s
    | .ok _ =>
      let s1 := s.hubWrite ctx (hdr + 64 * slot + 37) (bytesOfNat 1 0)
      .next { s1 with reclaims := s1.reclaims.filter (fun x => decide (x ≠ (ctx, hdr, slot))) }
  else .next s

end Sys2Proof.Machine
end

