-- ==== Sys2Proof/Machine/Raster.lean ====
section
/-! DEFINITION. Machine/Raster.lean: class 0xD ops 2 to 4: EMITC, RASTER and PRESENT (chapter 13), what becomes of a raster
command, and the stream engine with its collie (25.4, 25.5). -/

namespace Sys2Proof.Machine

open Sys2Proof

/-! ## EMITC (R306) -/

/-- The traps of EMITC in their order. -/
def State.emitTrap (s : State) (a : USrc) (b : SReg) : Option TrapReq :=
  let p := (s.src.u32 a).toNat
  if p % 16 ≠ 0 then some (s.trap16 causeMisalign p)
  else if (s.wg s.curWg).penBytes < p + 640 then some (s.trap16 causeBounds p)
  else s.vaTrap (s.src.pairVa b) 64

/-- The drove's replayable period ends (R88). -/
def State.endReplay (s : State) : State := s.modDrove (s.wg s.curWg).drove (fun d => { d with replayable := false })

noncomputable def execEmitc (d : UDst) (a : USrc) (b : SReg) (s : State) : Out :=
  checked (.emitc d a b) lawful (fun s => s.emitTrap a b)
    (fun s =>
      let p := (s.src.u32 a).toNat
      let bytes := s.penBytesAt s.curWg p 640
      if s.penRangeLost s.curWg p 640 then s.consume s.active p 0
      else if clusterBad bytes then ((s.putU d 0xFFFFFFFE#32).endReplay).adv
      else
        s.atHome (s.src.pairVa b) 64 (.write false) (fun t u =>
          let pa := homePa (s.src.pairVa b) t
          let h := u.headerAt pa 64
          let cap := bytesAt h 8 4
          let count := bytesAt h 12 4
          if !zeroBytes h 16 48 || decide (cap = 0) || decide (16777215 < cap) then ((u.putU d 0xFFFFFFFD#32).endReplay).adv
          else if cap ≤ count then ((u.putU d 0xFFFFFFFF#32).endReplay).adv
          else
            let va := bytesAt h 0 8 + 640 * count
            u.atHomes (.write false) (fun ts v =>
              let pas := ((piecesOf va 640).zip ts).foldl (fun l x => l ++ (List.range x.1.2).map (homePa x.1.1 x.2 + ·)) []
              ((((v.performFrom v.curCore (cellsFrom (pa + 12) (bytesOfNat 4 (count + 1)))).performFrom v.curCore (pas.zip bytes)).putU d
                (BitVec.ofNat 32 count)).endReplay).adv) (piecesOf va 640) [])) s

/-! ## RASTER: submission (R308) -/

/-- Commands the hub's raster queue holds. -/
def rasterQueueSize : Nat := 16

noncomputable def execRaster (d : UDst) (a : SReg) (s : State) : Out :=
  checked (.raster d a) lawful (fun s => s.vaTrap (s.src.pairVa a) 128)
    (fun s => s.releasing .device (fun s =>
      if rasterQueueSize ≤ s.rasters.length then (s.putU d 1#32).adv
      else
        let (id, s1) := s.freshId
        let job : RasterJob := ⟨id, s.curCtx, s.src.pairVa a, [], false, 0, 0, 0, 0, 0, [], [], false, none, []⟩
        (({ s1 with rasters := s1.rasters ++ [job] } : State).putU d 0#32).adv)) s

/-! ## The command (Table 13.3) -/

/-- The fields of a raster command. -/
structure RasterCmd where
  clus : Nat
  first : Nat
  count : Nat
  width : Nat
  height : Nat
  msaa : Nat
  cull : Nat
  small : Nat
  vis : Nat
  smallq : Nat
  spill : Nat
  spillb : Nat
  clean : Bool
  deriving DecidableEq, Repr

def rasterCmd (b : List Byte) : RasterCmd :=
  ⟨bytesAt b 0 8, bytesAt b 8 4, bytesAt b 12 4, bytesAt b 16 4, bytesAt b 20 4, byteAt b 24, byteAt b 25, bytesAt b 28 4, bytesAt b 32 8,
    bytesAt b 40 8, bytesAt b 48 8, bytesAt b 56 8, zeroBytes b 26 2 && zeroBytes b 80 48⟩

/-- Tile columns and rows, and the bytes of a tile's slot (R312). -/
def RasterCmd.tileCols (c : RasterCmd) : Nat := ceilDiv c.width 64
def RasterCmd.tileRows (c : RasterCmd) : Nat := ceilDiv c.height 64
def RasterCmd.tileBytes (c : RasterCmd) : Nat := 32768 * 2 ^ c.msaa + 128

/-- A malformed command (R307). -/
def RasterCmd.bad (c : RasterCmd) : Bool :=
  let v := fp32.value c.small
  decide (c.width = 0) || decide (16384 < c.width) || decide (c.height = 0) || decide (16384 < c.height) ||
  decide (3 < c.msaa) || decide (2 < c.cull) || v.isNan || (v.neg && !v.isZero) ||
  decide (c.vis % 128 ≠ 0) || decide (c.smallq % 64 ≠ 0) || decide (c.spill % 128 ≠ 0) ||
  decide (c.spillb < c.tileCols * c.tileRows * c.tileBytes) || !c.clean

/-! ## Classification (R309) -/

/-- Where a triangle goes. -/
inductive Route where
  | discard | small | large
  deriving DecidableEq, Repr

/-- Twice the signed screen area, in units of 2^-298. -/
def screenArea2 (v0 v1 v2 : V3) : Int := (v1.x - v0.x) * (v2.y - v0.y) - (v2.x - v0.x) * (v1.y - v0.y)

def min3 (a b c : Int) : Int := Min.min a (Min.min b c)
def max3 (a b c : Int) : Int := Max.max a (Max.max b c)

/-- The area is below SMALL. -/
def areaSmall (small : Nat) (area2 : Nat) : Bool :=
  match fp32.value small with
  | .inf _ => true
  | .nan _ => false
  | .fin _ m e => decide (area2 < (m * 2 ^ (e + 149).toNat) * 2 ^ 150)

def RasterCmd.route (c : RasterCmd) (v0 v1 v2 : V3) : Route :=
  let n := (v1.sub v0).cross (v2.sub v0)
  let px := fun (k : Nat) => (k : Int) * 2 ^ 149
  if n = ⟨0, 0, 0⟩ ∨ (c.cull = 1 ∧ 0 < n.z) ∨ (c.cull = 2 ∧ n.z < 0) then .discard
  else if max3 v0.x v1.x v2.x < 0 ∨ px c.width ≤ min3 v0.x v1.x v2.x ∨ max3 v0.y v1.y v2.y < 0 ∨ px c.height ≤ min3 v0.y v1.y v2.y then
    .discard
  else if areaSmall c.small (screenArea2 v0 v1 v2).natAbs then .small
  else .large

/-- The vertices of a triangle of a cluster. -/
def triVerts (bs : List Byte) (t : Nat) : V3 × V3 × V3 :=
  (clusterVertex bs (triIndex bs t 0), clusterVertex bs (triIndex bs t 1), clusterVertex bs (triIndex bs t 2))

def RasterJob.command (j : RasterJob) : RasterCmd := rasterCmd j.cmd

/-- How one push to SMALLQ ends. -/
inductive Pushed where
  | done (s : State) | full | stop (e : BuildStop)

/-- Push an id as PIXPUSH does (R299, R309). -/
def State.pushSmall (s : State) (ctx va id : Nat) : Pushed :=
  match s.reachHub ctx va 64 (.write false) with
  | .error e => .stop e
  | .ok pas =>
    let q := pixQueue (pas.map s.mem.get)
    if q.bad then .stop (.fail 2)
    else if q.cap ≤ q.held then .full
    else
      match s.reachHub ctx (q.entry q.tail) 4 (.write false) with
      | .error e => .stop e
      | .ok es =>
        .done ((s.hubSeen ctx va 64 (.write false)).perform (es.zip (bytesOfNat 4 id) ++ (pas.drop 16).zip (bytesOfNat 4 (q.tail + 1))))

/-- A page that is not there: the command waits for it, or ends with FAULT. -/
def RasterJob.stop (j : RasterJob) (s : State) (e : BuildStop) : RasterJob × State :=
  (if e.status.isSome then { j with ended := some 2 } else j, s.stopped j.ctx e)

/-- Classify triangle after triangle until the end, a full queue, a missing page or a refused one. -/
def classify : Nat → RasterJob → State → RasterJob × State
  | 0, j, s => (j, s)
  | fuel + 1, j, s =>
    let c := j.command
    if c.count ≤ j.cluster then ({ j with classified := true }, s)
    else
      let id := c.first + j.cluster
      match s.readHub j.ctx (c.clus + 640 * id) 640 with
      | .error e => j.stop s e
      | .ok bs =>
        if clusterBad bs then classify fuel { j with cluster := j.cluster + 1, tri := 0, ndisc := j.ndisc + Nat.min 64 (clusterNt bs) } s
        else if clusterNt bs ≤ j.tri then classify fuel { j with cluster := j.cluster + 1, tri := 0 } s
        else
          let (v0, v1, v2) := triVerts bs j.tri
          let k := { j with tri := j.tri + 1 }
          match c.route v0 v1 v2 with
          | .discard => classify fuel { k with ndisc := j.ndisc + 1 } s
          | .large => classify fuel { k with nlarge := j.nlarge + 1, large := j.large ++ [(id, j.tri)] } s
          | .small =>
            match s.pushSmall j.ctx c.smallq (id * 64 + j.tri) with
            | .done t => classify fuel { k with nsmall := j.nsmall + 1 } t
            | .full => (j, s)
            | .stop e => j.stop s e

def State.setRaster (s : State) (j : RasterJob) : State :=
  { s with rasters := s.rasters.map (fun x => if x.id = j.id then j else x) }

/-- The same for the command's own record. -/
def State.stopRaster (s : State) (j : RasterJob) (e : BuildStop) : State :=
  let (j1, s1) := j.stop s e
  s1.setRaster j1

/-- Classify what is left of a command. -/
def State.classifyJob (s : State) (j : RasterJob) : State :=
  let (j1, s1) := classify (66 * j.command.count + 66) j s
  s1.setRaster j1

/-- RASTER_START: commands run one at a time in acceptance order; the first is read and its triangles classified. -/
noncomputable def execRasterStart (job : Nat) (s : State) : Out :=
  match s.rasters.head? with
  | none => .next s
  | some j =>
    if j.id ≠ job ∨ j.running then .next s
    else
      match s.readHub j.ctx j.va 128 with
      | .error (.wait va) => .next (s.askPage j.ctx va 4)
      | .error e => .next (s.stopRaster { j with running := true } e)
      | .ok bs =>
        let j1 := { j with running := true, cmd := bs }
        if (rasterCmd bs).bad then .next (s.setRaster { j1 with ended := some 3 })
        else .next ((s.hubSeen j.ctx j.va 128 .read).classifyJob j1)

def State.findRaster (s : State) (job : Nat) : Option RasterJob :=
  s.rasters.find? (fun j => decide (j.id = job) && j.running && j.ended.isNone)

/-- RASTER_SMALLQ_RESUME: a classifier that waited goes on. -/
noncomputable def execRasterSmallqResume (job : Nat) (s : State) : Out :=
  match s.findRaster job with
  | none => .next s
  | some j => .next (if j.classified then s else s.classifyJob j)

/-! ## Coverage (R310) -/

/-- The samples of a pixel in sixteenths (Table 13.5). -/
def samplesOf (msaa : Nat) : List (Nat × Nat) :=
  match msaa with
  | 0 => [(8, 8)]
  | 1 => [(4, 4), (12, 12)]
  | 2 => [(6, 2), (14, 6), (2, 10), (10, 14)]
  | _ => [(9, 5), (7, 11), (13, 9), (5, 3), (3, 13), (1, 7), (11, 15), (15, 1)]

/-- The edge function of a directed edge at a point, positive on the interior's side for a triangle of positive area. -/
def edgeAt (a b : V3) (x y : Int) : Int := (b.x - a.x) * (y - a.y) - (b.y - a.y) * (x - a.x)

/-- A top or a left edge of a triangle of positive area, y running down the rows: its interior lies below it or to its
right. -/
def topLeft (a b : V3) : Bool := decide (b.y < a.y) || (decide (a.y = b.y) && decide (a.x < b.x))

/-- Whether a point is on the covered side of an edge. -/
def insideEdge (a b : V3) (x y : Int) : Bool :=
  let e := edgeAt a b x y
  decide (0 < e) || (decide (e = 0) && topLeft a b)

/-- The vis of a triangle at a sample, if it covers it and is kept there. -/
def visAt (v0 v1 v2 : V3) (prim : Nat) (x y : Int) : Option Nat :=
  let (p, q) := if screenArea2 v0 v1 v2 < 0 then (v2, v1) else (v1, v2)
  let area := screenArea2 v0 p q
  if area = 0 then none
  else if insideEdge v0 p x y && insideEdge p q x y && insideEdge q v0 x y then
    let z := edgeAt p q x y * v0.z + edgeAt q v0 x y * p.z + edgeAt v0 p x y * q.z
    let depth := (Ratio.mk z (area.natAbs * 2 ^ 149)).f32 .rne
    if 0 < depth.toNat ∧ depth.toNat ≤ 0x3F800000 then some (depth.toNat * 2 ^ 32 + prim) else none
  else none

/-- Coordinates a half-open pixel range of a tile shares with the pixels a triangle may touch. -/
def pixelRange (tile limit : Nat) (lo hi : Int) : List Nat :=
  let first := Nat.max (64 * tile) (lo / 2 ^ 149).toNat
  let last := Nat.min (Nat.min (64 * tile + 64) limit) ((hi / 2 ^ 149).toNat + 1)
  (List.range (last - first)).map (first + ·)

/-- The writes of one triangle to the visibility buffer within a tile: VA and vis (R311). -/
def RasterCmd.triMerges (c : RasterCmd) (tx ty prim : Nat) (v0 v1 v2 : V3) : List (Nat × Nat) :=
  (pixelRange ty c.height (min3 v0.y v1.y v2.y) (max3 v0.y v1.y v2.y)).foldl (fun l j =>
    (pixelRange tx c.width (min3 v0.x v1.x v2.x) (max3 v0.x v1.x v2.x)).foldl (fun l i =>
      (samplesOf c.msaa).zipIdx.foldl (fun l k =>
        match visAt v0 v1 v2 prim ((16 * i + k.1.1 : Nat) * 2 ^ 145) ((16 * j + k.1.2 : Nat) * 2 ^ 145) with
        | some v => l ++ [(c.vis + ((j * c.width + i) * 2 ^ c.msaa + k.2) * 8, v)]
        | none => l) l) l) []

/-- The merges of a tile: every large triangle that touches it. -/
def State.tileMerges (s : State) (j : RasterJob) (tile : Nat) : Except BuildStop (List (Nat × Nat)) :=
  let c := j.command
  j.large.foldl (fun acc p =>
    match acc, s.readHub j.ctx (c.clus + 640 * p.1) 640 with
    | .error e, _ => .error e
    | .ok _, .error e => .error e
    | .ok l, .ok bs =>
      let (v0, v1, v2) := triVerts bs p.2
      .ok (l ++ c.triMerges (tile % c.tileCols) (tile / c.tileCols) (p.1 * 64 + p.2) v0 v1 v2)) (.ok [])

/-- A device-scope MAXU64 of the rasteriser at one sample. -/
def State.maxAt (s : State) (pas : List Nat) (v : Nat) : State :=
  let pa := pas.headD 0
  s.performBytes pa (bytesOfNat 8 (Nat.max (s.mem.nat pa 8) v))

/-- Merge a list of samples; the first page refused ends it, those before it stand. -/
def State.mergeAll (s : State) (ctx : Nat) : List (Nat × Nat) → State × Bool
  | [] => (s, true)
  | (va, v) :: r =>
    match s.reachHub ctx va 8 (.write false) with
    | .ok pas =>
      if pas.any (fun pa => s.lost (lineOf pa)) then (s, false)
      else (((s.hubSeen ctx va 8 (.write false)).maxAt pas v)).mergeAll ctx r
    | .error e => (s.stopped ctx e, false)

/-- The first page of the samples that must be waited for, and any that a collapse holds. -/
def State.mergeWait (s : State) (ctx : Nat) (ms : List (Nat × Nat)) : Option Nat :=
  ms.findSome? (fun m =>
    match s.reachHub ctx m.1 8 (.write false) with
    | .error (.wait va) => some va
    | .error (.fail _) | .error (.malformed _) | .ok _ => none)
def State.mergeDup (s : State) (ctx : Nat) (ms : List (Nat × Nat)) : Option Nat :=
  ms.findSome? (fun m =>
    match s.reachHub ctx m.1 8 (.write false) with
    | .ok pas => pas.findSome? s.dupOf
    | .error _ => none)

/-- The compute site whose rasteriser has a tile: of two live sites the lower takes the even columns, one alone takes every
column (R312). -/
def State.tileSite (s : State) (c : RasterCmd) (tile : Nat) : Option Nat :=
  let live := [0, 2].filter (fun i => (s.sites.getD i (Site.init false)).live)
  live[tile % c.tileCols % Nat.max 1 live.length]?

/-- Whether a triangle's bounding box reaches a tile: it is binned there (R312). -/
def State.binned (s : State) (j : RasterJob) (tile : Nat) (p : Nat × Nat) : Except BuildStop Bool :=
  let c := j.command
  match s.readHub j.ctx (c.clus + 640 * p.1) 640 with
  | .error e => .error e
  | .ok bs =>
    let (v0, v1, v2) := triVerts bs p.2
    .ok (!(pixelRange (tile % c.tileCols) c.width (min3 v0.x v1.x v2.x) (max3 v0.x v1.x v2.x)).isEmpty &&
      !(pixelRange (tile / c.tileCols) c.height (min3 v0.y v1.y v2.y) (max3 v0.y v1.y v2.y)).isEmpty)

/-- Whether a tile's bin holds a large triangle that its slot does not stand for yet. -/
def State.binFilled (s : State) (j : RasterJob) (tile : Nat) : Except BuildStop Bool :=
  (j.large.drop ((tabGet j.flushed tile).getD 0)).foldl (fun acc p =>
    match acc, s.binned j tile p with
    | .error e, _ => .error e
    | .ok true, _ => .ok true
    | .ok false, x => x) (.ok false)

/-- The slot of a tile in the spill area: its VA. -/
def RasterCmd.slotVa (c : RasterCmd) (tile : Nat) : Nat := c.spill + tile * c.tileBytes

/-- The slot of a tile that has been flushed is read back whole (R313); of any other nothing is read. -/
def State.reload (s : State) (j : RasterJob) (tile : Nat) : Except BuildStop Unit :=
  match tabGet j.flushed tile with
  | none => .ok ()
  | some _ =>
    match s.readHub j.ctx (j.command.slotVa tile) j.command.tileBytes with
    | .ok _ => .ok ()
    | .error e => .error e

/-- RASTER_TILE_FINISH: a tile whose bin holds every large triangle of the command is merged, its slot read back first where it
was flushed (R311, R313). -/
noncomputable def execRasterTileFinish (job tile : Nat) (s : State) : Out :=
  match s.findRaster job with
  | none => .next s
  | some j =>
    if !j.classified || j.finished.contains tile || decide (j.command.tileCols * j.command.tileRows ≤ tile) ||
        (s.tileSite j.command tile).isNone then .next s
    else
      match s.reload j tile, s.tileMerges j tile with
      | .error e, _ | .ok _, .error e => .next (s.stopRaster j e)
      | .ok _, .ok ms =>
        match s.mergeWait j.ctx ms, s.mergeDup j.ctx ms with
        | some va, _ => .next (s.askPage j.ctx va 4)
        | none, some i => .next (s.startCollapse i)
        | none, none =>
          let (t, ok) := s.mergeAll j.ctx ms
          .next (t.setRaster (if ok then { j with finished := tile :: j.finished } else { j with ended := some 2 }))

/-- RASTER_TILE_FLUSH: bin space has run out before every triangle is classified: a tile whose bin holds triangles is written to
its slot of the spill area, in a form of the hardware's own, its slot read back first where it was flushed before (R313). How
much bin space there is the spec leaves open, so when this comes about is decided outside (log entry 17). -/
noncomputable def execRasterTileFlush (job tile : Nat) (s : State) : Out :=
  match s.findRaster job with
  | none => .next s
  | some j =>
    let c := j.command
    if j.classified ∨ c.tileCols * c.tileRows ≤ tile ∨ (s.tileSite c tile).isNone then .next s
    else
      match s.binFilled j tile, s.reload j tile, s.reachHub j.ctx (c.slotVa tile) c.tileBytes (.write false) with
      | .error e, _, _ | .ok true, .error e, _ | .ok true, .ok _, .error e => .next (s.stopRaster j e)
      | .ok false, _, _ => .next s
      | .ok true, .ok _, .ok _ =>
        .next ((s.spoil j.ctx (c.slotVa tile) c.tileBytes).setRaster { j with flushed := tabSet j.flushed tile j.large.length })

/-- Whether a large triangle's pixels reach a tile. -/
def RasterJob.tilesDone (j : RasterJob) : Bool :=
  j.large.isEmpty || (List.range (j.command.tileCols * j.command.tileRows)).all (fun t => j.finished.contains t)

/-- RASTER_DONE: the counts, then DONE as a release (R308). -/
noncomputable def execRasterDone (job : Nat) (s : State) : Out :=
  match s.rasters.find? (fun j => decide (j.id = job) && j.running) with
  | none => .next s
  | some j =>
    if j.ended.isSome || (j.classified && j.tilesDone) then
      let s1 := s.hubWrite j.ctx (j.va + 68) (bytesOfNat 4 j.nlarge ++ bytesOfNat 4 j.nsmall ++ bytesOfNat 4 j.ndisc)
      let s2 := s1.hubWrite j.ctx (j.va + 64) (bytesOfNat 4 (j.ended.getD 1))
      .next { s2 with rasters := s2.rasters.filter (fun x => decide (x.id ≠ job)) }
    else .next s

/-! ## Streams (Table 25.2) -/

def Stream.blank : Stream := ⟨[], [], 0, [], none, false, [], []⟩
def State.stream (s : State) (n : Nat) : Stream := (tabGet s.streams n).getD Stream.blank
def State.setStream (s : State) (n : Nat) (x : Stream) : State := { s with streams := tabSet s.streams n x }

def Stream.enabled (x : Stream) : Bool := decide (byteAt x.desc 0 = 1)
def Stream.port (x : Stream) : Nat := byteAt x.desc 1
def Stream.pfmt (x : Stream) : Nat := byteAt x.desc 2
def Stream.segs (x : Stream) : Nat := byteAt x.desc 3
def Stream.width (x : Stream) : Nat := bytesAt x.desc 4 4
def Stream.height (x : Stream) : Nat := bytesAt x.desc 8 4
def Stream.guardNs (x : Stream) : Nat := bytesAt x.desc 12 4 * 1000
def Stream.epoch (x : Stream) : Nat := bytesAt x.desc 16 8
def Stream.period (x : Stream) : Nat := bytesAt x.desc 24 8
def Stream.enslot (x : Stream) : Nat := bytesAt x.desc 32 8
def Stream.resva (x : Stream) : Nat := bytesAt x.desc 40 8
def Stream.poseva (x : Stream) : Nat := bytesAt x.desc 48 8
def Stream.slotTime (x : Stream) (j : Nat) : Nat := x.epoch + j * x.period
/-- The slot that begins at a time, if one does. -/
def Stream.slotAt (x : Stream) (t : Nat) : Option Nat :=
  if x.epoch ≤ t ∧ 0 < x.period ∧ (t - x.epoch) % x.period = 0 then some ((t - x.epoch) / x.period) else none

/-- Bytes of a pixel. -/
def pixelBytes (pfmt : Nat) : Nat := if pfmt = 2 then 8 else 4
/-- The three channels of a pixel (log entry 17). -/
def pixelCodes (pfmt : Nat) (bs : List Byte) : List Nat :=
  match pfmt with
  | 0 => [byteAt bs 0, byteAt bs 1, byteAt bs 2]
  | 1 => (List.range 3).map (fun i => bytesAt bs 0 4 / 2 ^ (10 * i) % 1024)
  | _ => [bytesAt bs 0 2, bytesAt bs 2 2, bytesAt bs 4 2]

/-! ## PRESENT (R315) -/

/-- Records a stream queues. -/
def streamQueueSize : Nat := 4

/-- The status PRESENT gives a record, and the slot of one accepted. -/
def State.presentStatus (s : State) (bs : List Byte) : Nat × Nat :=
  let n := byteAt bs 21
  let x := s.stream n
  let image := bytesAt bs 0 8
  let ok := decide (n < 64) && x.enabled && decide (image % 128 = 0) && decide (image < 2 ^ 48) && decide (bytesAt bs 8 4 = x.width) &&
    decide (bytesAt bs 12 4 = x.height) && decide (bytesAt bs 16 4 % 128 = 0) && decide (byteAt bs 20 ≤ 2) && decide (byteAt bs 20 = x.pfmt) &&
    zeroBytes bs 22 2 && zeroBytes bs 40 24
  match x.slotAt (bytesAt bs 24 8) with
  | none => (3, 0)
  | some j =>
    if !ok || decide (j < x.enslot) || x.queue.any (fun r => decide (r.slot = j)) || x.filled.contains j then (3, j)
    else if j < x.next then (2, j)
    else if streamQueueSize ≤ x.queue.length then (1, j)
    else (0, j)

noncomputable def execPresent (d : UDst) (a : SReg) (s : State) : Out :=
  checked (.present d a) lawful (fun s => s.vaTrap (s.src.pairVa a) 64)
    (fun s => s.releasing .device (fun s =>
      let va := s.src.pairVa a
      s.atHome va 64 (.write false) (fun t u =>
        let pa := homePa va t
        let bs := u.headerAt pa 64
        let n := byteAt bs 21
        let (status, slot) := u.presentStatus bs
        let done := (u.putU d (BitVec.ofNat 32 status)).adv
        match status with
        | 0 =>
          let x := u.stream n
          let r : FrameRec := ⟨u.curCtx, va, slot, bytesAt bs 32 4, bytesAt bs 0 8, bytesAt bs 16 4, u.curGrid, none, false⟩
          (done.setStream n { x with queue := x.queue ++ [r] }).performBytes (u.fabric.streamtab + 128 * n + 56) (bytesOfNat 4 u.curGrid)
        | 1 => done
        | k => done.performFrom u.curCore (cellsFrom (pa + 36) (bytesOfNat 4 k))))) s

/-- The rows of an image as the engine reads them. -/
def State.imageRows (s : State) (ctx image pitch width bpp : Nat) : Nat → Nat → Except BuildStop (List (List Byte))
  | 0, _ => .ok []
  | n + 1, y =>
    match s.readHub ctx (image + y * pitch) (width * bpp) with
    | .error e => .error e
    | .ok bs =>
      match s.imageRows ctx image pitch width bpp n (y + 1) with
      | .ok r => .ok (bs :: r)
      | .error e => .error e

/-- PRESENT_IMAGE_READ: a record's image has been read whole; it goes into the reserve, then SENT := 1 (R315, R427). -/
noncomputable def execPresentImageRead (stream : Nat) (s : State) : Out :=
  let x := s.stream stream
  match x.queue.find? (fun r => r.pixels.isNone && !r.refused) with
  | none => .next s
  | some r =>
    let bpp := pixelBytes x.pfmt
    match s.imageRows r.ctx r.image r.pitch x.width bpp x.height 0 with
    | .error (.wait va) => .next (s.askPage r.ctx va 4)
    | .error e =>
      .next ((s.stopped r.ctx e).setStream stream { x with queue := x.queue.map (fun q => if q.slot = r.slot then { q with refused := true } else q) })
    | .ok rows =>
      let flat := rows.foldl (· ++ ·) []
      let px := rows.foldl (fun l row => l ++ (List.range x.width).map (fun i => pixelCodes x.pfmt ((row.drop (i * bpp)).take bpp))) []
      let s1 := s.performBytes x.resva flat
      let s2 := s1.setStream stream { x with
        reserve := true
        queue := x.queue.map (fun q => if q.slot = r.slot then { q with pixels := some px } else q) }
      .next (s2.hubWrite r.ctx (r.va + 36) (bytesOfNat 4 1))

/-! ## The collie (R428 to R430) -/

/-- The matrices of a pose record. -/
def State.poseAt (s : State) (pa : Nat) : Option (List Word) :=
  if s.mem.nat pa 4 % 2 = 0 then some ((List.range 144).map (fun i => BitVec.ofNat 32 (s.mem.nat (pa + 16 + 4 * i) 4))) else none

/-- COLLIE_DECISION: at DEADLINE − GUARD of the stream's next slot. -/
noncomputable def execCollieDecision (stream : Nat) (s : State) : Out :=
  let x := s.stream stream
  if !x.enabled || decide (s.now + x.guardNs < x.slotTime x.next) then .next s
  else
    let r := x.queue.find? (fun q => decide (q.slot = x.next))
    let frame := r.bind (fun q => if q.pixels.isSome && !q.refused then some q else none)
    let x1 := { x with
      queue := x.queue.filter (fun q => decide (q.slot ≠ x.next))
      next := x.next + 1
      decided := x.decided ++ [⟨x.next, frame, r.map FrameRec.frameno⟩]
      filled := if frame.isSome then x.filled ++ [x.next] else x.filled
      pose := (s.poseAt x.poseva).orElse (fun _ => x.pose) }
    let s1 := s.setStream stream x1
    if frame.isSome then .next s1
    else
      let s2 := match r with
        | some q => s1.hubWrite q.ctx (q.va + 36) (bytesOfNat 4 2)
        | none => s1
      .next (s2.report { Report.plain 0x27 1 with
        ctx := (r.map FrameRec.ctx).getD 0xFF, grid := (r.map FrameRec.owner).getD 0, addr := (r.map FrameRec.va).getD 0 })

/-- The identity, for each band (R430). -/
def identityPose : List Word :=
  (List.range 144).map (fun i => if i % 9 % 4 = 0 then 0x3F800000#32 else 0#32)

/-- A row of a band's matrix on the centre of a pixel, in units of 2^-150; none where it is not finite. -/
def poseRow (pose : List Word) (band row px py : Nat) : Option Int :=
  let m := fun k => pose.getD (9 * band + 3 * row + k) 0#32
  if [0, 1, 2].all (fun k => f32Finite (m k)) then
    some (f32Units (m 0) * (2 * px + 1 : Nat) + f32Units (m 1) * (2 * py + 1 : Nat) + f32Units (m 2) * 2)
  else none

/-- The texel and the 1/256ths of `clamp(n / d − 0.5, −1, size)`. -/
def warpPos (n d : Int) (size : Nat) : Int × Nat :=
  let at256 := n * 256 / d - 128
  let x := if at256 < -256 then -256 else if (size : Int) * 256 < at256 then (size : Int) * 256 else at256
  (x / 256, (x % 256).toNat)

/-- One channel of a substitute: the weighted sum rounded to the stream's format. -/
def blendCode (pfmt : Nat) (ts : List (Nat × Nat)) : Nat :=
  if pfmt = 2 then fp16.rne (FVal.sum .rne (ts.map (fun t => FVal.mul (.fin false t.1 (-16)) (fp16.value t.2))))
  else Ratio.near ⟨((ts.foldl (fun n t => n + t.1 * t.2) 0 : Nat) : Int), 65536⟩

/-- A pixel of a substitute (R429). -/
def State.warpPixel (s : State) (x : Stream) (px py : Nat) : List Nat :=
  let band := py / ceilDiv x.height (Nat.max 1 x.segs)
  let pose := x.pose.getD identityPose
  match poseRow pose band 0 px py, poseRow pose band 1 px py, poseRow pose band 2 px py with
  | some u, some v, some w =>
    if w ≤ 0 ∨ !x.reserve then [0, 0, 0]
    else
      let (x0, fx) := warpPos u w x.width
      let (y0, fy) := warpPos v w x.height
      let bpp := pixelBytes x.pfmt
      let ts := ([(0, 0), (1, 0), (0, 1), (1, 1)].map (fun (p : Nat × Nat) =>
        (clampTexel (x0 + p.1) x.width, clampTexel (y0 + p.2) x.height,
          (if p.1 = 1 then fx else 256 - fx) * (if p.2 = 1 then fy else 256 - fy)))).filter (fun t => decide (t.2.2 ≠ 0))
      let codes := ts.map (fun t => (t.2.2, pixelCodes x.pfmt (s.mem.getBytes (x.resva + (t.2.1 * x.width + t.1) * bpp) bpp)))
      (List.range 3).map (fun c => blendCode x.pfmt (codes.map (fun t => (t.1, t.2.getD c 0))))
  | _, _, _ => [0, 0, 0]

/-- STREAM_SLOT_SEND: the frame or its substitute, and the ancillary packet, leave on a port in stream mode (R427). -/
noncomputable def execStreamSlotSend (stream : Nat) (s : State) : Out :=
  let x := s.stream stream
  match x.decided with
  | [] => .next s
  | d :: rest =>
    if s.now < x.slotTime d.slot then .next s
    else
      let (free, s1) := match d.frameno with
        | some n => (n, s)
        | none => let (w, t) := s.freeWord 21; (w.toNat, t)
      let pixels := match d.frame with
        | some r => r.pixels.getD []
        | none => (List.range x.height).foldl (fun l y => l ++ (List.range x.width).map (fun i => s.warpPixel x i y)) []
      let frame : SentFrame := ⟨d.slot, x.slotTime d.slot * 9 / 100000 % 2 ^ 32, free,
        (if d.frame.isNone then 1 else 0) + (if s.ptp.locked then 0 else 2), pixels⟩
      let live := s.portsUp.testBit x.port && decide (nbits s.fabric.portmode (2 * x.port + 1) (2 * x.port) = 2)
      .next (s1.setStream stream { x with decided := rest, sent := if live then x.sent ++ [frame] else x.sent })

end Sys2Proof.Machine
end

