-- ==== Sys2Proof/Machine/System.lean ====
section
/-! DEFINITION. Machine/System.lean: control registers (R153 to R156, R335, R336), the hidden-state items (R366), the
staging of a return from the handler (R367) and LAUNCH at its issue (R160). -/

namespace Sys2Proof.Machine

open Sys2Proof

/-! ## RDCR (Table 6.3, Table 19.3) -/

/-- SAVESIZE: bytes a workgroup's save area needs (R343). -/
def Grid.saveBytes (g : Grid) : Nat :=
  0x1000 + (128 * g.regs + 4096) * g.waves + roundUp (roundUp g.pen 1024) 4096 +
    (if g.lease = 0 then 0 else 32768 * g.lease + 163840)

/-- LANEBASE (Table 6.3), from the place of the workgroup in its grid (R12) and not from what s48 to s52 now hold
(log entry 57). -/
def State.laneBase (s : State) : Nat :=
  let w := s.cur
  let d := s.drove (s.wg w.wg).drove
  let g := s.grid d.grid
  let gx := g.dx * g.drove
  ((d.z * g.dy + d.y) * gx + (d.x * g.drove + (s.wg w.wg).rank)) * 32 * g.waves + w.index * 32

/-- The words of control registers 0 to 15; those of the wave as they stood before any write of the clk (R23, R316). -/
def State.userCr (s : State) (cr : Nat) : Nat :=
  let w := s.src
  match cr with
  | 0 => s.cycle.toNat
  | 1 => s.cycle.toNat / 2 ^ 32
  | 2 => s.time.toNat
  | 3 => s.time.toNat / 2 ^ 32
  | 4 => w.fpmode.toNat
  | 5 => w.fpflags.toNat
  | 6 => w.oobflags.toNat
  | 7 => (s.grid s.curGrid).depth
  | 8 => s.curGrid
  | 9 => s.arrayShape s.curCore s.curWg
  | 10 => (s.ctx s.curCtx).netbase / 2 ^ 16
  | 11 => w.penpass.toNat
  | 12 => coreSite s.curCore * 2 ^ 16 + s.curCore % 160 * 2 ^ 8 + keyQuarter s.iss.key % 4
  | 13 => w.degen.toNat
  | 14 => s.curCtx
  | _ => s.laneBase

/-- The words of control registers 64 to 91. -/
def State.systemCr (s : State) (cr : Nat) : Nat :=
  let c := s.ctx s.curCtx
  let g := s.wg s.curWg
  match cr with
  | 80 => g.saveBase
  | 81 => g.saveBase / 2 ^ 32
  | 82 => (s.grid s.curGrid).saveBytes
  | 83 => s.spillUsed s.curCtx
  | 84 => c.netbase / 2 ^ 16
  | 85 => c.netcount
  | 86 => c.flockwait
  | 87 => c.flockshare
  | 88 => c.commonsSize
  | 89 => c.nbrands * 2 ^ 16 + c.homebrand
  | 90 => (s.grid s.curGrid).prio
  | 91 => c.childq.length
  | _ => s.cur.trap.toNat / 2 ^ (32 * (cr - 64))

/-- A control register as RDCR reads it; none for a number that no table assigns. -/
def State.readCr (s : State) (cr : Nat) : Option Word :=
  if cr < 16 then some (word32 (s.userCr cr))
  else if 64 ≤ cr ∧ cr ≤ 91 then some (word32 (s.systemCr cr))
  else none

/-- RDCR: cr 16–63 and, in handler mode, 92–127 are ILLEGAL; 64–127 in a user kernel PRIVILEGED (R153, R335). FPFLAGS is
read once every FDIV of the wave has arrived (R184). -/
def execRdcr (d : SReg) (cr : BitVec 7) (s : State) : Out :=
  checked (.rdcr d cr) (fun s => (s.readCr cr.toNat).isNone && (s.cur.handler || decide (cr.toNat < 64))) noTrap
    (fun s =>
      if cr.toNat = 5 ∧ s.cur.fdivPending then s.retry .regWait
      else (s.putS d.val ((s.readCr cr.toNat).getD 0#32)).adv) s

def execRdcrD (d : SReg) (cr : BitVec 7) (s : State) : Out :=
  checked (.rdcrD d cr) lawful noTrap
    (fun s =>
      let x := if cr.toNat = 0 then s.cycle else s.time
      ((s.putS d.val (lo32 x)).putS (d.val + 1) (hi32 x)).adv) s

/-! ## WRCR (R156, R336) -/

/-- The values a writable register accepts (Table 19.3). -/
def crAccepts (cr x : Nat) : Bool :=
  match cr with
  | 84 => true
  | 85 => decide (x ≤ 65536)
  | 86 => decide (16 ≤ x) && decide (x ≤ 65535)
  | _ => decide (x ≤ 16)

/-- A context's register takes a value. -/
def Context.writeCr (c : Context) (cr x : Nat) : Context :=
  match cr with
  | 84 => { c with netbase := x * 2 ^ 16 }
  | 85 => { c with netcount := x }
  | 86 => { c with flockwait := x }
  | _ => { c with flockshare := x }

/-- The weight caches drop a context's entries (R271). -/
def State.dropWeights (s : State) (ctx : Nat) : State :=
  { s with cores := s.cores.map (fun c => (c.1, { c.2 with weights := c.2.weights.filter (fun e => decide (e.1 / 65536 ≠ ctx)) })) }

/-- WRCR takes effect for every wave of the context as one step. -/
def execWrcr (a : USrc) (cr : BitVec 7) (s : State) : Out :=
  checked (.wrcr a cr) (fun s => s.cur.handler && !(decide (84 ≤ cr.toNat) && decide (cr.toNat ≤ 87)))
    (fun s => if crAccepts cr.toNat (s.src.u32 a).toNat then none else some (s.trap16 causeBounds 0))
    (fun s =>
      let s1 := s.modCtx s.curCtx (fun c => c.writeCr cr.toNat (s.src.u32 a).toNat)
      (if cr.toNat ≤ 85 then s1.dropWeights s.curCtx else s1).adv) s

/-! ## Hidden-state items (Table 21.3) -/

/-- The indices of items 0 to 9. -/
def itemRange : List Nat := [32, 32, 32, 64, 8, 4, 4, 512, 256, 68]

/-- An index outside the range of its item; of item 8 also a fold or a word that does not exist (R366). -/
def State.itemOut (s : State) (item ix : Nat) : Bool :=
  decide (itemRange.getD item 0 ≤ ix) ||
    (decide (item = 8) && (decide (9 < ix % 16) || decide ((s.wg s.curWg).folds.length ≤ ix / 16)))

/-- An item that does not exist for the issuing wave: item 9 is the lessee's (R366). -/
def State.noItem (s : State) (item : Nat) : Bool :=
  decide (9 < item) || (decide (item = 9) && decide ((s.core s.curCore).array.lessee ≠ some s.curWg))

/-- The live counts as one word. -/
def Counts.word (c : Counts) : Nat := c.mtx + c.flk * 2 ^ 8 + c.trc * 2 ^ 16

/-- A word of a fold (item 8). -/
def FoldState.item (f : FoldState) (j : Nat) : Word :=
  if j = 0 then
    word32 (f.init.toNat + f.members * 2 + f.arrived * 2 ^ 11 + f.err.toNat * 2 ^ 22 + f.remote.toNat * 2 ^ 23 +
      f.lastErr.toNat * 2 ^ 24 + f.lastRemote.toNat * 2 ^ 25)
  else if j ≤ 8 then f.counts.getD (j - 1) 0#32
  else word32 f.phase

/-- Write a word of a fold. -/
def FoldState.setItem (f : FoldState) (j : Nat) (x : Word) : FoldState :=
  let n := x.toNat
  if j = 0 then
    { f with
      init := nbits n 0 0 == 1
      members := nbits n 10 1
      arrived := nbits n 21 11
      err := nbits n 22 22 == 1
      remote := nbits n 23 23 == 1
      lastErr := nbits n 24 24 == 1
      lastRemote := nbits n 25 25 == 1 }
  else if j ≤ 8 then { f with counts := setAt f.counts (j - 1) x }
  else { f with phase := n % 256 }

/-- A word of a queue entry of the array. -/
def ArrayOp.item (o : ArrayOp) (j : Nat) : Word :=
  match j with
  | 0 => o.word
  | 1 => o.ext
  | 2 => o.a
  | 3 => o.b
  | 4 => word32 o.prog
  | 5 => word32 o.waveIx
  | _ => 0#32
def ArrayOp.setItem (o : ArrayOp) (j : Nat) (x : Word) : ArrayOp :=
  match j with
  | 0 => { o with word := x }
  | 1 => { o with ext := x }
  | 2 => { o with a := x }
  | 3 => { o with b := x }
  | 4 => { o with prog := x.toNat }
  | 5 => { o with waveIx := x.toNat }
  | _ => o

/-- A word of item 9; none for an entry beyond the queue's, which no rule gives a value. -/
def MatrixArray.item (a : MatrixArray) (ix : Nat) : Option Word :=
  match ix with
  | 0 => some (word32 (a.tagA + a.tagS * 2 ^ 16))
  | 1 => some (word32 a.bands)
  | 2 => some (word32 a.sticky)
  | 3 => some (word32 a.queue.length)
  | k => (a.queue[(k - 4) / 8]?).map (fun o => o.item ((k - 4) % 8))

/-- The halves of an entry of the return stack. -/
def halfOf (x : Dword) (h : Nat) : Word := if h = 0 then lo32 x else hi32 x
def setHalf (x : Dword) (h : Nat) (y : Word) : Dword := if h = 0 then pair64 (hi32 x) y else pair64 y (lo32 x)

/-- An item's word (R366): items 0 to 6 as captured but for the live counts, items 7 to 9 live. -/
def State.readItem (s : State) (item ix : Nat) : Option Word :=
  let w := s.cur
  let h := w.hidden
  match item with
  | 0 => some (h.pclo.getD ix 0#32)
  | 1 => some (h.pchi.getD ix 0#32)
  | 2 => some (h.lstate.getD ix 0#32)
  | 3 => some (h.hv.getD ix 0#32)
  | 4 => some (if ix = 1 then word32 w.counts.word else h.wave.getD ix 0#32)
  | 5 => some (h.shv.getD ix 0#32)
  | 6 => some (h.qhv.getD ix 0#32)
  | 7 =>
    let l := ix / 16
    some (halfOf ((w.lane l).entry w.wg (w.laneIndex l) (ix / 2 % 8)) (ix % 2))
  | 8 => some ((s.fold w.wg (ix / 16)).item (ix % 16))
  | _ => (s.core s.curCore).array.item ix

/-- RDST: an index outside its range is BOUNDS. -/
def State.itemTrap (s : State) (a : USrc) (item : Nat) : Option TrapReq :=
  if s.itemOut item (s.src.u32 a).toNat then some (s.trap16 causeBounds 0) else none

def execRdst (d : SReg) (a : USrc) (item : BitVec 7) (s : State) : Out :=
  checked (.rdst d a item) (fun s => s.noItem item.toNat) (fun s => s.itemTrap a item.toNat)
    (fun s =>
      match s.readItem item.toNat (s.src.u32 a).toNat with
      | some x => (s.putS d.val x).adv
      | none => let (x, s1) := s.freeWord 22; (s1.putS d.val x).adv) s

/-- A queue entry a handler makes room for: its address and lanes are in no item (R366), so they are open values. -/
def State.freshOp (s : State) : ArrayOp × State :=
  let (id, s1) := s.freshId
  let (at_, s2) := s1.freeAddr
  let (ls, s3) := s2.freeWord 23
  (⟨id, 0#32, 0#32, 0#32, 0#32, 0#128, 0, s.iss.key, 0, ls, at_, 0, 0⟩, s3)

/-- The queue takes a length: entries are dropped from its end or made. -/
def State.queueLength (s : State) : Nat → Nat → State
  | 0, n => s.modArray s.curCore (fun a => { a with queue := a.queue.take n })
  | fuel + 1, n =>
    if (s.core s.curCore).array.queue.length < n then
      let (o, s1) := s.freshOp
      (s1.modArray s1.curCore (fun a => { a with queue := a.queue ++ [o] })).queueLength fuel n
    else s.queueLength 0 n

/-- A word of item 9 that a rule forbids (R246, R251, R366): checked at RTE (R367). -/
def arrayWordBad (ix nwaves : Nat) (x : Word) : Bool :=
  match ix with
  | 1 => !([1, 3, 7, 15].contains x.toNat)
  | 3 => decide (8 < x.toNat)
  | k => decide (4 ≤ k) && decide ((k - 4) % 8 = 5) && decide (nwaves ≤ x.toNat)

/-- A word written to item 9. -/
def State.writeArray (s : State) (ix : Nat) (x : Word) : State :=
  match ix with
  | 0 => s.modArray s.curCore (fun a => { a with tagA := x.toNat % 2 ^ 14, tagS := x.toNat / 2 ^ 16 % 2 ^ 14 })
  | 1 => s.modArray s.curCore (fun a => { a with bands := x.toNat % 16 })
  | 2 => s.modArray s.curCore (fun a => { a with sticky := x.toNat % 8 })
  | 3 => s.queueLength 8 (Nat.min 8 x.toNat)
  | k => s.modArray s.curCore (fun a => { a with queue := modAt a.queue ((k - 4) / 8) (fun o => o.setItem ((k - 4) % 8) x) })

/-- A word written to an item: to the captured copy, or to the live state (R366). -/
def State.writeItem (s : State) (item ix : Nat) (x : Word) : State :=
  let put := fun (f : Hidden → Hidden) => s.modCur (fun w => { w with hidden := f w.hidden })
  match item with
  | 0 => put (fun h => { h with pclo := setAt h.pclo ix x })
  | 1 => put (fun h => { h with pchi := setAt h.pchi ix x })
  | 2 => put (fun h => { h with lstate := setAt h.lstate ix x })
  | 3 =>
    (put (fun h => { h with hv := setAt h.hv ix x })).modCur (fun w => w.modLane (ix / 2) (fun y => y.dropHeld (ix % 2)))
  | 4 =>
    if ix = 1 then s.modCur (fun w => { w with counts := ⟨fld x 0 8, fld x 8 8, fld x 16 8⟩ })
    else put (fun h => { h with wave := setAt h.wave ix x })
  | 5 => put (fun h => { h with shv := setAt h.shv ix x })
  | 6 => put (fun h => { h with qhv := setAt h.qhv ix x })
  | 7 =>
    s.modCur (fun w => w.modLane (ix / 16) (fun y =>
      { y with rstk := tabSet y.rstk (ix / 2 % 8) (setHalf (y.entry w.wg (w.laneIndex (ix / 16)) (ix / 2 % 8)) (ix % 2) x) }))
  | 8 => s.modFold s.curWg (ix / 16) (fun f => (f.setItem (ix % 16) x).complete)
  | _ =>
    let bad := arrayWordBad ix (s.wg s.curWg).nwaves x
    (s.writeArray ix x).modArray s.curCore (fun a => { a with
      forbidden := if bad then ix :: a.forbidden else a.forbidden.filter (fun i => decide (i ≠ ix)) })

def execWrst (d a : USrc) (item : BitVec 7) (s : State) : Out :=
  checked (.wrst d a item) (fun s => s.noItem item.toNat) (fun s => s.itemTrap a item.toNat)
    (fun s => (s.writeItem item.toNat (s.src.u32 a).toNat (s.src.u32 d)).adv) s

/-! ## RTE (R367) -/

def Wave.trapCause (w : Wave) : Nat := w.trap.toNat % 256
def Wave.trapRestore (w : Wave) : Bool := w.trap.getLsbD 8
def Wave.trapArrayf (w : Wave) : Bool := w.trap.getLsbD 10

/-- Every wave of a workgroup has ended. -/
def Workgroup.over (g : Workgroup) : Bool := decide (g.nwaves ≤ g.ended.length)

/-- A drove being prepared for a save has left its cores: it is saved, or ended where every workgroup of it has (R356). -/
def State.saveCheck (s : State) (d : Nat) : State :=
  let x := s.drove d
  match x.phase with
  | .draining _ =>
    if !(s.droveWaves d).isEmpty then s
    else if x.wgs.all (fun g => (s.wg g).over) then s.modDrove d (fun x => { x with phase := .ended })
    else
      let (n, s1) := s.freshId
      let s2 := (x.wgs.filter (fun g => !(s.wg g).over)).foldl (fun t g => (t.performAll (t.wg g).core).leaveCore g) s1
      s2.modDrove d (fun x => { x with phase := .saved, order := n, waitSince := s.now })
  | .resident | .saved | .relaunch | .restoring | .ended => s

/-- RTE of a PREEMPT entry: the stores are committed, the status block says saved, and the slot is free. The lane stores and
spill regions stay in memory (R369). -/
def State.giveUp (s : State) (key : Nat) : State :=
  let w := s.wave key
  let s1 := (((s.padAll w.wg).commit w.wg).setStatus w.wg w.index [(0, 1#32)]).modWg w.wg (fun g => { g with
    kept := tabSet g.kept w.index (w.lanes.map (fun x => ⟨x.store, x.spill⟩)) })
  ({ s1 with waves := tabErase s1.waves key }).saveCheck (s1.wg w.wg).drove

/-- Another array fault of the workgroup is yet to be taken or returned from. -/
def State.faultLeft (s : State) (wg key : Nat) : Bool :=
  s.waves.any (fun x => decide (x.2.wg = wg) &&
    (x.2.causes.any TrapReq.arrayf || (decide (x.1 ≠ key) && x.2.handler && x.2.trapArrayf)))

/-- RTE of an ordinary entry: the wave is as its items say, its wait resumed; the array runs on unless another fault of it
is pending (R263). -/
def State.returnTrap (s : State) (key : Nat) : State :=
  let wg := (s.wave key).wg
  let was := (s.core (keyCore key)).array.stopped
  let s1 := (s.returnOne key).modWave key Wave.waitcCheck
  let s2 := if s.faultLeft wg key then s1.modArray (keyCore key) (fun a => { a with stopped := was }) else s1
  (s2.modWave key (fun w => w.gbarBlock)).gbarCheck (s2.wgGrid wg)

/-- The record an entry of the queue reads through. -/
noncomputable def ArrayOp.recordNo (o : ArrayOp) : Option QReg :=
  match o.instr with
  | some (.mldsg _ _ _ q) => some q
  | some (.mmag _ _ _ _ q) => some q
  | _ => none

/-- The operations a restored queue holds for a wave count in its MTX again (R262); their records are the wave's, since no
item holds them (log entry 18). -/
noncomputable def State.adoptOps (s : State) (key : Nat) : State :=
  let w := s.wave key
  let core := keyCore key
  if (s.core core).array.lessee = some w.wg then
    let mine := (s.core core).array.queue.filter (fun o => decide (o.waveIx = w.index))
    (s.modArray core (fun a => { a with queue := a.queue.map (fun o =>
      if o.waveIx = w.index then { o with wave := key, recd := ((o.recordNo).map (fun q => w.qreg q.val)).getD 0#128 } else o) })).modWave key
      (fun w => { w with ops := mine.map (fun o => ⟨clsMtx, o.id, false⟩) })
  else s

/-- The save areas of a drove return to their pool (R343). -/
def State.freeAreas (s : State) (wgs : List Nat) : State :=
  wgs.foldl (fun t g =>
    let ctx := t.wgCtx g
    match (t.wg g).saveSlot with
    | some a => (t.modCtx ctx (fun c => { c with areasUsed := c.areasUsed.filter (fun x => decide (x ≠ a)) })).modWg g
        (fun x => { x with saveSlot := none, saveBase := 0 })
    | none => t) s

/-- Causes that fell due in a wave while it was saved are its own again. -/
def State.takeDue (s : State) (key : Nat) : State :=
  let w := s.wave key
  let mine := (s.wg w.wg).due.filter (fun t => decide (t.1 = w.index))
  (s.modWave key (fun v => { v with causes := v.causes ++ mine.map Prod.snd })).modWg w.wg
    (fun g => { g with due := g.due.filter (fun t => decide (t.1 ≠ w.index)) })

/-- RTE of a restore: once every wave of the drove has reached its own, all of them resume, the staging window goes back
and the save areas are free. -/
noncomputable def State.restoreCheck (s : State) (d : Nat) : State :=
  let keys := s.droveWaves d
  if decide ((s.drove d).phase = .restoring) && keys.all (fun k => (s.wave k).rteReady) then
    let s1 := keys.foldl (fun t k => ((t.adoptOps k).returnOne k).takeDue k) s
    let s2 := (s1.drove d).wgs.foldl (fun t g => t.modCore (t.wg g).core (fun c => { c with
      window := if c.array.lessee = some g then none else c.window })) s1
    let s3 := ((s2.freeAreas (s2.drove d).wgs).modDrove d (fun x => { x with phase := .resident }))
    let s4 := keys.foldl (fun t k => t.modWave k (fun w => w.waitcCheck.gbarBlock)) s3
    s4.gbarCheck (s4.drove d).grid
  else s

/-- What WRST has written that a rule forbids elsewhere, beyond the items of the lanes and the window (R367): a WAIT word that no
wait is, a place at the barrier of a grid that has none, a fold of no members, and what item 9 may not hold. -/
def State.itemsRefused (s : State) (key : Nat) : Bool :=
  let w := s.wave key
  let g := s.wg w.wg
  let a := (s.core (keyCore key)).array
  badWaitWord (w.hidden.waveItem 7).toNat g.folds.length || (w.itemsAtGbar && !(s.grid (s.wgGrid w.wg)).hasGbar) ||
  g.folds.any (fun f => f.init && decide (f.members = 0)) || (decide (a.lessee = some w.wg) && !a.forbidden.isEmpty)

/-- What RTE finds forbidden is a double trap (R367, R363). -/
def State.badReturn (s : State) : State := s.killTrapped s.iss.key (s.mkTrap causeIllegal 0 s.active 0)

noncomputable def execRte (s : State) : Out :=
  plain .rte (fun s =>
    let w := s.cur
    if w.trapCause = causePreempt && !w.trapRestore then s.giveUp s.iss.key
    else if w.rteRefused || s.itemsRefused s.iss.key then s.badReturn
    else if w.trapRestore then
      (s.modCur (fun w => { w with rteReady := true })).restoreCheck (s.wg s.curWg).drove
    else s.returnTrap s.iss.key) s

/-! ## LAUNCH (R160, R16) -/

/-- The greatest nesting depth. -/
def maxDepth : Nat := 10

/-- A lane of a LAUNCH whose record has not been judged: its VA, and a third word that marks it. -/
def launchArg (x : Dword) : List Word := [lo32 x, hi32 x, 0#32]

/-- The lanes whose address no launch record can have, then the depth. -/
def State.launchTrap (s : State) (a : VReg) : Option TrapReq :=
  let bad := maskOf (fun l => s.active.getLsbD l &&
    (let x := (s.src.v64 l (.reg a)).toNat; decide (2 ^ 48 ≤ x) || x % 256 != 0))
  if bad ≠ 0#32 then some (s.mkTrap causeMisalign 16 bad 0)
  else
    let g := s.grid s.curGrid
    if decide (g.depth = maxDepth) && g.depthTrap then some (s.mkTrap causeLaunch 0 s.active 0) else none

/-- LAUNCH: a release at device scope and a commit point; the lanes are held until the shepherd has answered for all of
them. -/
noncomputable def execLaunch (d a : VReg) (s : State) : Out :=
  checked (.launch d a) lawful (fun s => s.launchTrap a)
    (fun s => (s.endReplay).releasing .device (fun s =>
      let data := (lanesOf s.active).map (fun l => (l, launchArg (s.src.v64 l (.reg a))))
      ((s.owe .launch (.vec (s.cur.wb + d.val) 2) s.active data 0 0#32 false).adv).hold .regWait)) s

end Sys2Proof.Machine
end

