-- ==== Sys2Proof/Machine/Issue.lean ====
section
/-! DEFINITION. Machine/Issue.lean: which wave and group a quarter issues (R20 to R22, R26), fetching (R108, R110), what
holds an instruction (R24, R190, R202) and how an issue begins (R24, R25). -/

namespace Sys2Proof.Machine

open Sys2Proof

/-! ## Which waves may issue -/

/-- A quarter whose floating-point unit or registers are under test issues nothing (R417). -/
def State.quarterHeld (s : State) (q : Nat) : Bool :=
  s.quarantined.any (fun x => (decide (x.unit = 1) || decide (x.unit = 3)) && decide (x.loc = locOfCore (q / 4) (q % 4)))

/-- A wave that is ready: a lane can issue and nothing holds the wave. -/
def State.issuable (s : State) (key : Nat) : Bool :=
  let w := s.wave key
  let d := s.drove (s.wg w.wg).drove
  decide (w.ready ≠ 0#32) && decide (w.wait = .none) && w.pend.isNone && !w.rteReady && d.started &&
  !s.quarterHeld (keyQuarter key) &&
  (w.handler || (w.causes.isEmpty && w.preempt.isNone && !d.phase.halts))

/-- The quarters that hold waves, rising. -/
def State.quarterList (s : State) : List Nat := (s.waves.map (fun x => keyQuarter x.1)).eraseDups

/-- The ready waves of a quarter. -/
def State.readyKeys (s : State) (q : Nat) : List Nat :=
  ((s.waves.map Prod.fst).filter (fun k => decide (keyQuarter k = q))).filter s.issuable

/-- The oldest of some waves (R26). -/
def State.oldest (s : State) (keys : List Nat) : Option Nat :=
  keys.foldl (fun b k =>
    match b with
    | none => some k
    | some j => if (s.wave k).age < (s.wave j).age then some k else some j) none

/-- The wave a quarter issues (R26): one that starved, else the wave it issued last until a choice is due, else the oldest
ready one, a yielding wave left out where another is ready. -/
def State.chooseWave (s : State) (q : Nat) : Option Nat :=
  let u := s.quarter q
  let keys := s.readyKeys q
  match u.starved.bind (fun k => keys.find? (fun j => decide (j = k))) with
  | some k => some k
  | none =>
    match (if u.choose then none else u.cur.bind (fun k => keys.find? (fun j => decide (j = k)))) with
    | some k => some k
    | none =>
      let others := keys.filter (fun k => decide (u.yielded ≠ some k))
      s.oldest (if others.isEmpty then keys else others)

/-! ## Path groups (R19 to R21) -/

/-- The path groups of a wave, by the first lane of each. -/
def Wave.groups (w : Wave) : List (Addr × Mask) :=
  let r := lanesOf w.ready
  ((r.map (fun l => (w.lane l).pc)).eraseDups).map (fun pc => (pc, maskOf (fun l => r.contains l && decide ((w.lane l).pc = pc))))

/-- The most populous group, the lower PC on a tie. -/
def mostPopulous (gs : List (Addr × Mask)) : Option (Addr × Mask) :=
  gs.foldl (fun b g =>
    match b with
    | none => some g
    | some h =>
      let n := popcN 32 g.2.toNat
      let m := popcN 32 h.2.toNat
      if m < n ∨ (n = m ∧ g.1.toNat < h.1.toNat) then some g else some h) none

/-- A starved group, else the most populous (R21). -/
def Wave.groupForB (w : Wave) (gs : List (Addr × Mask)) : Option (Addr × Mask) :=
  match w.starved.bind (fun pc => gs.find? (fun g => decide (g.1 = pc))) with
  | some g => some g
  | none => mostPopulous gs

/-- An issue of a group, before its words are known. -/
def issueOf (key : Nat) (g : Addr × Mask) (slotB : Bool) (before : Option Wave) : Issue :=
  { Issue.init with key := key, lanes := g.2, pc := g.1, next := g.1, slotB := slotB, before := before }

/-- What slot A of a quarter issues, once the operands of the issue before are gathered (R435). -/
def State.slotAOf (s : State) (q : Nat) : Option Issue :=
  if s.cycle.toNat < (s.quarter q).busy then none
  else (s.chooseWave q).bind (fun k => (mostPopulous (s.wave k).groups).map (fun g => issueOf k g false none))

/-- A group of the oldest other ready wave of the quarter, where slot A's wave has no second group (R20). -/
def State.otherWave (s : State) (key : Nat) (pc : Addr) : Option Issue :=
  (s.oldest ((s.readyKeys (keyQuarter key)).filter (fun k => decide (k ≠ key)))).bind
    (fun k => ((s.wave k).groupForB (s.wave k).groups).map (fun g =>
      { issueOf k g true none with beside := some (key, pc) }))

/-- What slot B issues beside slot A: another group of the wave, or where it has one group only, a group of the oldest other
ready wave. -/
def State.slotBOf (s : State) (a : Issue) : Option Issue :=
  let w := s.wave a.key
  match w.groupForB (w.groups.filter (fun g => decide (g.1 ≠ a.pc))) with
  | some g => some { issueOf a.key g true (some w) with beside := some (a.key, a.pc) }
  | none => s.otherWave a.key a.pc

/-- A group still stands where it was chosen, ready. -/
def Wave.stands (w : Wave) (pc : Addr) (ls : Mask) : Bool :=
  (lanesOf ls).all (fun l => decide ((w.lane l).state = .ready) && decide ((w.lane l).pc = pc))

/-- What slot B issues in place of a group that a register owed to it holds, and which is therefore not ready (R18, R20). -/
def State.slotBAgain (s : State) (b : Issue) : Option Issue :=
  match b.beside with
  | none => none
  | some (key, pc) =>
    let mine := match b.before with
      | some v => v.groups.filter (fun g => decide (g.1 ≠ pc) && (s.wave key).stands g.1 g.2)
      | none => []
    match (b.before.getD Wave.blank).groupForB mine with
    | some g => some { b with lanes := g.2, pc := g.1, next := g.1 }
    | none => s.otherWave key pc

/-- Whether slot B's group may still issue after slot A's instruction. One of slot A's own wave does unless slot A trapped or
waits for a page: what parks the wave parks it after the clk (R20, R138; log entry 35). -/
def State.mayIssueB (s : State) (b : Issue) : Bool :=
  let w := s.wave b.key
  w.stands b.pc b.lanes &&
  (match b.before with
    | some v => w.pend.isNone && (w.handler == v.handler) &&
        (match w.wait with
          | .page .. => false
          | .none | .waitu .. | .fwait .. | .waitc .. | .gbar | .sleept _ | .cairnw .. | .fdiv => true)
    | none => s.issuable b.key)

/-! ## Fetching (R108, R110) -/

/-- The words of an instruction, or why they cannot be fetched. -/
inductive Fetched where
  | words (ws : List Word) (pages : List Trans)
  | access (va : Nat) (bad : Bool)
  | absent (va : Nat)
  | lost (va pa : Nat)
  deriving DecidableEq, Repr

/-- Fetch one word. -/
def State.fetchWord (s : State) (core ctx va : Nat) : Fetched :=
  match s.translate core ctx va .fetch with
  | .denied => .access va false
  | .malformed _ => .access va true
  | .absent => if s.servable ctx va then .absent va else .access va false
  | .ok pa leaf page =>
    if s.lost (lineOf pa) then .lost va pa else .words [BitVec.ofNat 32 (s.mem.nat pa 4)] [.ok pa leaf page]

/-- Fetch the words that follow the first. -/
def State.fetchMore (s : State) (core ctx : Nat) : Nat → Nat → List Word → List Trans → Fetched
  | 0, _, ws, ps => .words ws ps
  | n + 1, va, ws, ps =>
    match s.fetchWord core ctx va with
    | .words w p => s.fetchMore core ctx n ((va + 4) % 2 ^ 48) (ws ++ w) (ps ++ p)
    | f => f

/-- Every word of the instruction at a PC. -/
def State.fetch (s : State) (key : Nat) (pc : Addr) : Fetched :=
  let core := keyCore key
  let ctx := s.waveCtx key
  match s.fetchWord core ctx pc.toNat with
  | .words ws ps => s.fetchMore core ctx (frameLen (ws.headD 0#32) - 1) ((pc.toNat + 4) % 2 ^ 48) ws ps
  | f => f

/-! ## What holds an instruction -/

/-- Point the issue at a group. -/
def State.aim (s : State) (b : Issue) : State := { s with iss := { b with start := some (s.wave b.key) } }

/-- The register and the lanes that an instruction reads or writes of other lanes (R190, R176), by the wave `v` as its
operands are read. -/
def reachesAcross (i : Instr) (v : Wave) (act : Mask) : Option (Nat × Mask) :=
  let from_ := fun (a b : VSrc) (f : Nat → Nat → Nat) =>
    match a with
    | .reg n => some (n.val, maskOf (fun k => (lanesOf act).any (fun l => decide (f l (count5 (v.v32 l b)) = k))))
    | .latch _ | .sreg _ | .zero | .lane | .lit _ => none
  match i with
  | .shfl _ _ a b => from_ a b (fun _ k => k)
  | .shflup _ _ a b => from_ a b (fun l k => if k ≤ l then l - k else l)
  | .shfldn _ _ a b => from_ a b (fun l k => if l + k ≤ 31 then l + k else l)
  | .shflx _ _ a b => from_ a b (fun l k => l ^^^ k)
  | .srdlane _ a b => some (a.val, 1#32 <<< (fld (v.u32 b) 0 5))
  | .swrlane d _ b =>
    match d with
    | .reg n => some (n.val, 1#32 <<< (fld (v.u32 b) 0 5))
    | .discard => none
  | _ => none

/-- The lanes of a slot whose registers an instruction reaches from other lanes. -/
def Owed.reached (o : Owed) (w v : Wave) (i : Instr) (act : Mask) : Mask :=
  match reachesAcross i v act with
  | some (r, ls) => if o.dest.vs.contains (w.wb + r) then o.lanes &&& ls else 0#32
  | none => 0#32

/-- A slot that an instruction of some lanes names (R24, R190), its operands read from `v`. -/
def Owed.touchedBy (o : Owed) (w v : Wave) (i : Instr) (act : Mask) : Bool :=
  (o.namedBy w i.named && decide (o.namers w &&& act ≠ 0#32)) || decide (o.reached w v i act &&& w.live ≠ 0#32)

/-- An instruction that must wait at issue: for a register owed, or behind an atomic or load that acquires (R92, R202). -/
def Wave.holdsFor (w v : Wave) (i : Instr) (act : Mask) : Bool :=
  w.owed.any (fun o => !o.arrived && (o.touchedBy w v i act || (o.acq && i.memPort && decide (o.lanes &&& act ≠ 0#32))))

/-- The first instruction of a lane of the group to name a slot's registers since it was taken (R24). -/
def Wave.firstNames (w v : Wave) (i : Instr) (act : Mask) : Bool :=
  w.owed.any (fun o => o.touchedBy w v i act &&
    decide (((o.namers w &&& act) ||| o.reached w v i act) &&& ~~~ o.named ≠ 0#32))

/-- A potential switch point for a group (R24). -/
def Wave.switches (w v : Wave) (i : Instr) (act : Mask) : Bool :=
  i.yieldClass || w.firstNames v i act || (lanesOf act).any (fun l => decide (63 ≤ (w.lane l).burst))

/-- The lanes a slot's readers name from now on. -/
def Owed.nameBy (o : Owed) (w v : Wave) (i : Instr) (act : Mask) : Owed :=
  if o.touchedBy w v i act then { o with named := o.named ||| act ||| o.reached w v i act } else o

/-- A wave as an instruction of a group issues: counts of bursts and of issues, slots named, latches opened (R21, R24, R25). -/
def Wave.issueBegins (w v : Wave) (i : Instr) (act : Mask) (pc : Addr) (counts : Bool) (clk : Nat) : Wave :=
  let sw := w.switches v i act
  let owed := (w.owed.map (fun o => o.nameBy w v i act)).filter (fun o => !o.spent w)
  { w with
    owed := owed
    issued := if counts then w.issued + 1 else w.issued
    lastClk := clk
    starved := if w.starved = some pc then none else w.starved
    lanes := w.lanes.mapIdx (fun l x =>
      if act.getLsbD l then
        let y := { x with idle := 0, burst := if sw then 0 else x.burst + 1 }
        if sw then y.dropLatches else y
      else if counts && decide (x.state = .ready) then { x with idle := x.idle + 1 } else x) }

/-- An issue takes ⌈r / g⌉ clk to gather the vector registers its slots read (R435). -/
def Quarter.gather (q : Quarter) (slotB : Bool) (n clk : Nat) : Quarter :=
  let r := (if slotB then q.reads else 0) + n
  { q with reads := r, busy := clk + Nat.max 1 (ceilDiv r (Nat.max 1 q.grants)) }

/-- An issue begins: the wave, its quarter's choice, and the operands slot B reads (R23 to R26). -/
def State.begin (s : State) (i : Instr) (len : Nat) : State :=
  let b := s.iss
  let w := s.wave b.key
  let v := b.before.getD w
  let sw := w.switches v i b.lanes
  let same := b.before.isSome
  let s1 := s.modWave b.key (fun w => w.issueBegins v i b.lanes b.pc (!same) s.cycle.toNat)
  let s2 := s1.modQuarter (keyQuarter b.key) (fun q =>
    if b.slotB then (if same then { q with choose := q.choose || sw } else q)
    else { q with cur := some b.key, choose := sw, yielded := none, starved := if q.starved = some b.key then none else q.starved })
  let s3 := s2.modQuarter (keyQuarter b.key) (fun q => q.gather b.slotB i.readsV.length s.cycle.toNat)
  { s3 with iss := { b with
    next := b.pc + BitVec.ofNat 48 (4 * len)
    before := b.before.map (fun v => if sw then v.openBurst b.lanes else v) } }

/-! ## Lost and deferred registers -/

/-- The lanes that read a register whose FDIV failed its shadow, and the FDIV's address (R184). -/
def Wave.deferredReads (w : Wave) (act : Mask) (vs : List Nat) : List (Nat × Addr) :=
  (lanesOf act).foldl (fun acc l =>
    match (w.lane l).deferred.find? (fun d => vs.any (fun n => decide (w.wb + n = d.reg))) with
    | some d => acc ++ [(l, d.iaddr)]
    | none => acc) []

/-- The deferred failures of some lanes are taken. -/
def Wave.dropDeferred (w : Wave) (ls : Mask) (vs : List Nat) : Wave :=
  w.modLanes ls (fun _ x => { x with deferred := x.deferred.filter (fun d => !vs.any (fun n => decide (w.wb + n = d.reg))) })

/-- What the entry of an instruction calls ILLEGAL in this state beyond its encoding: its record (R46, R55, R208, R253), its
fold (R235), its control register (R153, R156) or its item (R366). -/
def State.ownIllegal (s : State) (i : Instr) : Bool :=
  let rec_ := fun (q : QReg) => Rec.ofBits (s.src.qreg q.val)
  let bad := fun (q : QReg) => recBad (s.src.qreg q.val)
  match i with
  | .ld q .. | .ldro q .. | .st q .. | .pref q .. | .ldu q .. | .cacheWb q .. | .cacheInv q .. | .atom q .. | .red q ..
  | .waitu q .. | .strel q .. | .ldacq q .. => bad q
  | .ldf q x _ _ => bad q || decide ((rec_ q).swz ≠ 0) || decide (x.offset ≠ 0)
  | .sample q t .. => bad q || decide ((rec_ q).swz ≠ 1) || decide ((rec_ q).stride ≠ texelBytes t)
  | .mldsg _ _ _ q | .mmag _ _ _ _ q => swizzled (s.src.qreg q.val)
  | .nev _ _ _ x => x.mem && bad x.q
  | .finit k _ | .farriveRank k _ => s.noFold k
  | .farrive _ k | .fwait _ k _ | .ftest _ k _ | .fexpect k _ _ => s.rawFold k
  | .rdcr _ cr => (s.readCr cr.toNat).isNone && (s.cur.handler || decide (cr.toNat < 64))
  | .wrcr _ cr => s.cur.handler && !(decide (84 ≤ cr.toNat) && decide (cr.toNat ≤ 87))
  | .rdst _ _ item | .wrst _ _ item => s.noItem item.toNat
  | _ => false

/-- A read of a poisoned register (R416), or of one whose FDIV failed its shadow outside handler mode (R184, R361). -/
def State.badRead (s : State) (i : Instr) : Option State :=
  match s.issueTrap i (s.ownIllegal i) with
  | some _ => none
  | none =>
    let w := s.src
    let lost := w.poisonReads s.active i.readsV
    let late := w.deferredReads s.active i.readsV
    if lost ≠ 0#32 then some (s.consume lost 0 0)
    else if w.handler then none
    else
      match late with
      | [] => none
      | (_, at_) :: _ =>
        let ls := maskOf (fun l => late.any (fun x => decide (x.1 = l) && decide (x.2 = at_)))
        let t := { s.mkTrap causeShadow 0 ls 0 with iaddr := at_, deferred := true }
        some ((s.modCur (fun v => v.dropDeferred ls i.readsV)).raise t)

/-! ## One turn of a quarter -/

/-- What a step does next: nothing but a change of its own, an event, or an issue, with the group slot B is to issue. -/
inductive Work where
  | idle (s : State)
  | stop (f : Fault)
  | event (e : Instr) (s : State)
  | issue (i : Instr) (s : State) (b : Option Issue)
  deriving DecidableEq, Repr

/-- Prepare the issue of a group: fetch, holds, then the beginning of the issue. `beside` gives slot B's group once the
instruction is known; `may` says whether the port and the slot let it issue; `held` is what follows where a register owed
holds the group, `past` what follows where it does not issue for another reason. -/
noncomputable def State.prepare (s : State) (b : Issue) (may : Instr → Bool) (beside : Instr → Option Issue)
    (held past : State → State) : Work :=
  let a := s.aim b
  let trap := fun (cause va : Nat) => a.mkTrap cause 16 b.lanes va
  match s.fetch b.key b.pc with
  | .access va bad => .idle (past (a.refuse (trap causeAccess va) bad va))
  | .absent va =>
    .idle (past ((a.retryWave (.page (s.waveCtx b.key) (pageOf va) 2 (trap causeAccess va))).askPage (s.waveCtx b.key) va 2))
  | .lost va pa => .idle (past (a.consume b.lanes va pa))
  | .words ws ps =>
    match decode ws with
    | .error _ => .idle (past (a.raise (a.mkTrap causeIllegal 0 b.lanes 0)))
    | .ok i =>
      let w := s.wave b.key
      if !may i then .idle (past s)
      else if w.holdsFor (b.before.getD w) i b.lanes then .idle (held (a.retry .regWait))
      else
        let t := (a.touchAll (keyCore b.key) false ps).begin i ws.length
        match t.badRead i with
        | some u => .idle (past u)
        | none => .issue i t (beside i)

/-- The group slot B may issue beside an instruction of slot A (R138). -/
def State.besideA (s : State) (a : Issue) (i : Instr) : Option Issue := if i.alone then none else s.slotBOf a

/-- A port both slots need, or an instruction that issues alone, keeps slot B empty in this clk (R22, R138). -/
def portsFree (memA tileA : Bool) (i : Instr) : Bool := !i.alone && !(memA && i.memPort) && !(tileA && i.tilePort)

/-- A lane an engine holds issues again. -/
def Wave.wakeStalled (w : Wave) : Wave :=
  { w with lanes := w.lanes.map (fun x => if x.state = .stalled then { x with state := .ready } else x) }

/-- The correction of TIME in a clk that adds `ns` to it: one nanosecond in 4096 clk, within 500 ppm, and never backwards
(R425; log entry 23). -/
def State.slewNow (s : State) (ns : Nat) : Int :=
  if s.cycle.toNat % 4096 = 0 ∧ 1 ≤ ns then (if 0 < s.ptp.slew then 1 else if s.ptp.slew < 0 then -1 else 0) else 0

/-- Nanoseconds by which a stretched clk is longer: open (R7, R432, R433; log entry 14). The model's one clk is that of every
die, so a stretch of any of them is one of it (log entry 23). -/
def State.stretchNs (s : State) : Nat × State :=
  if s.sites.any (fun x => x.power || x.droop || x.current) then let (x, t) := s.freeWord 27; (x.toNat % 65536, t) else (0, s)

/-- One clk passes (R154): TIME counts nanoseconds at the operating point. Rows of the clk enter their tiles, and lanes an
engine holds try again. -/
def State.tick (s0 : State) : State :=
  let (extra, s) := s0.flockEnter.stretchNs
  let f := Nat.max 1 s.power.freq
  let ns := (s.subNs + 1000) / f + extra
  let d := s.slewNow ns
  { s with
    waves := s.waves.map (fun x => (x.1, x.2.wakeStalled))
    cycle := s.cycle + 1#64
    time := s.time + BitVec.ofInt 64 ((ns : Int) + d)
    subNs := (s.subNs + 1000) % f
    ptp := { s.ptp with slew := s.ptp.slew - d }
    cursor := 0 }

/-- A wave that has stopped being ready makes the quarter that issues it choose afresh (R26). -/
def State.noteStop (s : State) (key : Nat) : State := if s.issuable key then s else s.rechoose key

/-- A quarter issues nothing in a clk: where the wave it issues has stopped being ready it chooses afresh. -/
def State.noteIdle (s : State) (q : Nat) : State :=
  match (s.quarter q).cur with
  | some k => s.noteStop k
  | none => s

/-- Slot B of a clk has issued, or does not: the release conditions that LEAVE and EXIT of slot A left to it are evaluated
(R146). -/
def State.closeB (s : State) (b : Issue) : State :=
  if b.slotB && b.before.isSome then s.modWave b.key Wave.releaseAll else s

/-- A group chosen for slot B is held by a register: another group takes its place, or slot B stays empty. -/
def State.chooseB (s : State) (b : Issue) : State :=
  match s.slotBAgain b with
  | some c => { (if c.before.isSome then s else s.closeB b) with slotB := some c }
  | none => s.closeB b

/-- The turn of the next quarter: slot B of the clk if it is still to issue, else slot A, else the clk ends. -/
noncomputable def State.issueTurn (s : State) : Work :=
  match s.slotB with
  | some b =>
    let s1 := { s with slotB := none }
    if s.mayIssueB b then
      s1.prepare b (portsFree s.portMem s.portTile) (fun _ => none) (fun t => t.chooseB b) (fun t => (t.closeB b).noteStop b.key)
    else .idle (s1.closeB b)
  | none =>
    match s.quarterList.find? (fun q => decide (s.cursor ≤ q)) with
    | none => .idle s.tick
    | some q =>
      match s.slotAOf q with
      | none => .idle ({ s with cursor := q + 1 }.noteIdle q)
      | some a =>
        match s.prepare a (fun _ => true) (s.besideA a) (fun t => t.noteStop a.key) (fun t => t.noteStop a.key) with
        | .issue i t b =>
          .issue i { t with
            cursor := q + 1
            portMem := i.memPort
            portTile := i.tilePort
            iss := { t.iss with pairs := b.any (fun x => x.before.isSome) } } b
        | w => w

/-- After an instruction: slot B of the same wave keeps what slot A wrote (R23, R146), or the clk of the quarter is over. -/
def State.settle (s : State) (b : Option Issue) : State :=
  let s1 := (if b.isNone then s.closeB s.iss else s).noteStop s.iss.key
  { s1 with
    slotB := b.map (fun x =>
      if x.before.isSome then
        { x with keptV := s.iss.keptV, keptS := s.iss.keptS, keptM := s.iss.keptM, keptQ := s.iss.keptQ, left := s.iss.left }
      else x)
    iss := Issue.init }

end Sys2Proof.Machine
end

