-- ==== Sys2Proof/Machine/Launch.lean ====
section
/-! DEFINITION. Machine/Launch.lean: the clusters and what fits them (R29, R42, R350 to R352), launch records (R337,
R338), and how grids leave the host queues and the child-launch queues (R339 to R341, R347). -/

namespace Sys2Proof.Machine

open Sys2Proof

/-! ## Cores and clusters (R350) -/

/-- A core that CORE_EN says is live (R399). -/
def State.coreLive (s : State) (core : Nat) : Bool := (s.harvest.coreEn.getD (coreSite core) 0).testBit (core % 160)

/-- The eight cores of cluster `c` of the 60, row by row. -/
def clusterCores (c : Nat) : List Nat :=
  (List.range 8).map (fun i => c / 20 * 160 + (c % 20 / 4 * 2 + i / 4) * 16 + (c % 20 % 4 * 4 + i % 4))

/-- How far apart two numbers are. -/
def apart (a b : Nat) : Nat := a - b + (b - a)

/-- Cores that differ by 1 in exactly one of x and y. -/
def adjacent (a b : Nat) : Bool :=
  decide (coreSite a = coreSite b) && decide (apart (coreX a) (coreX b) + apart (coreY a) (coreY b) = 1)

/-- The cores of a set reached from some of them. -/
def reachFrom (set : List Nat) : Nat → List Nat → List Nat
  | 0, seen => seen
  | fuel + 1, seen =>
    reachFrom set fuel (seen ++ set.filter (fun c => !seen.contains c && seen.any (adjacent c)))

/-- A connected set of cores of one cluster. -/
def connectedSet (set : List Nat) : Bool :=
  match set with
  | [] => false
  | c :: r => r.all (fun x => decide (clusterOf x = clusterOf c)) && set.eraseDups.length == set.length &&
    set.all (fun x => (reachFrom set 8 [c]).contains x)

/-- The subsets of `n` elements. -/
def subsetsOf : Nat → List Nat → List (List Nat)
  | 0, _ => [[]]
  | _ + 1, [] => []
  | n + 1, x :: r => (subsetsOf n r).map (fun t => x :: t) ++ subsetsOf (n + 1) r

/-- The connected sets of `n` among some cores of a cluster. -/
def setsOf (n : Nat) (cores : List Nat) : List (List Nat) := (subsetsOf n cores).filter connectedSet

/-! ## Room (Table 1.4) -/

/-- What is free on a core: wave slots and register units of 128 bytes a quarter, the pen bytes resident and the ways a pen may
have, and the lease. The lane store lies in memory (R35), of which the manual gives no amount, so it is never short; the folds
are the workgroup's own (log entry 59). -/
structure Room where
  slots : List Nat
  units : List Nat
  pen : Nat
  ways : Nat
  lease : Bool
  deriving DecidableEq, Repr

/-- An empty core. -/
def Room.empty : Room := ⟨[16, 16, 16, 16], [1024, 1024, 1024, 1024], 0, 14, true⟩

/-- What a workgroup takes of a core: waves of so many registers, pen bytes, the lease. -/
structure Load where
  waves : Nat
  regs : Nat
  pen : Nat
  lease : Bool
  deriving DecidableEq, Repr

/-- The quarter a wave of `regs` registers goes to: the one with most free slots among those with room (log entry 19). -/
def Room.quarter (r : Room) (regs : Nat) : Option Nat :=
  let ok := (List.range 4).filter (fun q => decide (0 < r.slots.getD q 0) && decide (regs ≤ r.units.getD q 0))
  ok.find? (fun q => ok.all (fun p => decide (r.slots.getD p 0 ≤ r.slots.getD q 0)))

/-- Place `n` waves: the quarter of each. -/
def Room.waves (r : Room) (regs : Nat) : Nat → Option (List Nat × Room)
  | 0 => some ([], r)
  | n + 1 =>
    match r.quarter regs with
    | none => none
    | some q =>
      let r1 := { r with slots := modAt r.slots q (· - 1), units := modAt r.units q (· - regs) }
      (r1.waves regs n).map (fun t => (q :: t.1, t.2))

/-- Bytes of a grid's pen (R36). -/
def Grid.penBytes (g : Grid) : Nat := roundUp g.pen 1024

/-- What a workgroup of a grid takes as it starts. -/
def Grid.load (g : Grid) : Load := ⟨g.waves, g.regs, g.penBytes, decide (0 < g.lease)⟩

/-- Place one workgroup (R29, R42, R245). -/
def Room.take (r : Room) (x : Load) : Option (List Nat × Room) :=
  if r.ways < ceilDiv (r.pen + x.pen) 65536 || (x.lease && !r.lease) then none
  else (r.waves x.regs x.waves).map (fun t => (t.1, { t.2 with pen := r.pen + x.pen, lease := r.lease && !x.lease }))

/-- How many workgroups of a kind fit together, up to a limit; one where it takes a lease (R352). -/
def Room.count (r : Room) (x : Load) : Nat → Nat
  | 0 => 0
  | fuel + 1 =>
    match r.take x with
    | none => 0
    | some (_, r1) => 1 + r1.count x fuel

/-- The room of a core, with some droves left out of account; the lease is free once MREL or the lessee's leaving has ended
it (R245, R246). -/
def State.roomOf (s : State) (core : Nat) (skip : List Nat) : Room :=
  let here := fun (wg : Nat) => decide ((s.wg wg).core = core) && !skip.contains (s.wg wg).drove
  let ws := s.waves.filter (fun x => here x.2.wg)
  let inQ := fun (q : Nat) => ws.filter (fun x => decide (keyQuarter x.1 % 4 = q))
  { slots := (List.range 4).map (fun q => 16 - (inQ q).length)
    units := (List.range 4).map (fun q => 1024 - (inQ q).foldl (fun n x => n + x.2.nregs) 0)
    pen := (s.wgs.filter (fun x => here x.1)).foldl (fun n x => n + x.2.penBytes) 0
    ways := 14
    lease := match (s.core core).array.lessee with
      | some wg => skip.contains (s.wg wg).drove
      | none => true }

/-! ## Fit and residency (R338, R351, R352) -/

/-- The live cores of a cluster. -/
def State.liveCores (s : State) (c : Nat) : List Nat := (clusterCores c).filter s.coreLive
def allClusters : List Nat := List.range 60

/-- One workgroup fits an empty core, some cluster holds a connected set of S live cores, and the save area is large enough. -/
def State.noFit (s : State) (g : Grid) : Bool :=
  (Room.empty.take g.load).isNone || allClusters.all (fun c => (setsOf g.drove (s.liveCores c)).isEmpty) ||
  decide ((s.ctx g.ctx).areasize < g.saveBytes)

/-- The most droves that connected sets hold at once within the cores' room: every way to use each set is tried, so the
answer is exact. -/
def packMost : List (List Nat) → Tab Nat → Nat
  | [], _ => 0
  | set :: rest, caps =>
    let most := set.foldl (fun m c => Nat.min m ((tabGet caps c).getD 0)) 64
    (List.range (most + 1)).foldl (fun best n =>
      Nat.max best (n + packMost rest (set.foldl (fun t c => tabMod t c (· - n)) caps))) 0

/-- The droves of one way to pack: each set in turn as often as it goes. -/
def packFast (sets : List (List Nat)) (caps : Tab Nat) : Nat :=
  (sets.foldl (fun (p : Nat × Tab Nat) set =>
    let most := set.foldl (fun m c => Nat.min m ((tabGet p.2 c).getD 0)) 64
    (p.1 + most, set.foldl (fun t c => tabMod t c (· - most)) p.2)) (0, caps)).1

/-- Room left for one more of a set. -/
def roomIn (caps : Tab Nat) (set : List Nat) : Nat := set.foldl (fun m c => Nat.min m ((tabGet caps c).getD 0)) 64

/-- The droves of another way to pack: always the set whose cores have most room left, up to a limit. -/
def packEven (sets : List (List Nat)) : Nat → Tab Nat → Nat
  | 0, _ => 0
  | fuel + 1, caps =>
    match sets.find? (fun x => decide (0 < roomIn caps x) && sets.all (fun y => decide (roomIn caps y ≤ roomIn caps x))) with
    | none => 0
    | some x => 1 + packEven sets fuel (x.foldl (fun t c => tabMod t c (· - 1)) caps)

/-- `need` is covered by what `f` gives of each. -/
def covers (f : Nat → Nat) : List Nat → Nat → Bool
  | [], need => decide (need = 0)
  | c :: r, need => if need = 0 then true else covers f r (need - f c)

/-- Workgroups of a grid that a core holds together. -/
def Room.holds (r : Room) (g : Grid) : Nat := r.count g.load (if g.lease = 0 then 64 else 1)

/-- Every drove of a grid fits at once in some clusters, by the room of each usable core. Two packings that are easily tried
answer most cases and the cores' room bounds the rest; between them the exact search decides. -/
def wholeFits (g : Grid) (clusters : List Nat) (cores : Nat → List Nat) (room : Nat → Room) : Bool :=
  let need := g.dx * g.dy * g.dz
  let caps := fun c => (cores c).map (fun k => (k, (room k).holds g))
  let sets := fun c => setsOf g.drove (cores c)
  if covers (fun c => packFast (sets c) (caps c)) clusters need then true
  else if !covers (fun c => ((caps c).foldl (fun n x => n + x.2) 0) / Nat.max 1 g.drove) clusters need then false
  else if covers (fun c => packEven (sets c) 512 (caps c)) clusters need then true
  else covers (fun c => packMost (sets c) (caps c)) clusters need

/-! ## Launch records (Table 19.4) -/

/-- The record's fields as a grid. -/
def gridOf (ctx : Nat) (b : List Byte) : Grid :=
  { Grid.blank with
    ctx := ctx
    entry := BitVec.ofNat 48 (bytesAt b 0 8)
    dx := bytesAt b 8 2
    dy := bytesAt b 10 2
    dz := bytesAt b 12 2
    drove := byteAt b 14
    waves := byteAt b 15
    lastl := byteAt b 16
    regs := 8 * byteAt b 17
    sregs := byteAt b 18
    folds := byteAt b 19
    lease := byteAt b 20
    prio := byteAt b 21
    flags := bytesAt b 22 2
    pen := bytesAt b 24 4
    lanestore := bytesAt b 28 4
    start := bytesAt b 32 8
    waitva := bytesAt b 40 8
    waitval := bytesAt b 48 8
    sigva := bytesAt b 56 8
    records := (List.range 8).map (fun i => BitVec.ofNat 128 (bytesAt b (128 + 16 * i) 16)) }

def schedVa (b : List Byte) : Nat := bytesAt b 64 8
def schedCount (b : List Byte) : Nat := byteAt b 72
def paramVa (b : List Byte) : Nat := bytesAt b 80 8

/-- An address field of the record: aligned, and in the 48-bit space. -/
def vaOk (va align : Nat) : Bool := decide (va % align = 0) && decide (va < 2 ^ 48)

/-- A field outside its limits, or a reserved byte that is not zero (R337, R338). A pen beyond 896 KiB is NOFIT (R42). -/
def recordBad (maxprio : Nat) (b : List Byte) : Bool :=
  let g := gridOf 0 b
  !(vaOk (bytesAt b 0 8) 4 && decide (0 < g.dx) && decide (0 < g.dy) && decide (0 < g.dz) &&
    decide (1 ≤ g.drove) && decide (g.drove ≤ 8) && decide (1 ≤ g.waves) && decide (g.waves ≤ 32) &&
    decide (1 ≤ g.lastl) && decide (g.lastl ≤ 32) && decide (8 ≤ g.regs) && decide (g.regs ≤ 256) &&
    decide (16 ≤ g.sregs) && decide (g.sregs ≤ 64) && decide (g.sregs % 8 = 0) && decide (g.folds ≤ 16) &&
    decide (g.lease ≤ 8) && decide (g.prio ≤ maxprio) && decide (g.flags < 32) && decide (g.lanestore ≤ 2 ^ 24) &&
    vaOk g.waitva 8 && vaOk g.sigva 32 && vaOk (schedVa b) 32 && decide (schedCount b ≤ 64) &&
    (decide (schedVa b = 0) == decide (schedCount b = 0)) && vaOk (paramVa b) 64 &&
    zeroBytes b 73 7 && zeroBytes b 88 40)

/-- What the shepherd finds when it takes a record: a page to wait for; a rejection with its status of Table 6.8, and what a
page it could not read was; or a grid. -/
inductive Taken where
  | wait (va : Nat) | bad (status : Nat) (g : Grid) (met : Option BuildStop) | ok (g : Grid)
  deriving DecidableEq, Repr

/-- A grid whose signal event cannot lie where it is said to. -/
def Grid.unsignalled (g : Grid) : Grid := if vaOk g.sigva 32 then g else { g with sigva := 0 }

/-- The words s0 to s15 of a parameter block. -/
def paramWords (b : List Byte) : List Word := (List.range 16).map (fun i => BitVec.ofNat 32 (bytesAt b (4 * i) 4))

/-- A range of the record that is read only where its VA is not zero. -/
def State.readPart (s : State) (ctx va n : Nat) : Except BuildStop (List Byte) := if va = 0 then .ok [] else s.readHub ctx va n

/-- A drove of a grid as its workgroups would stand, to check stage 0 of its schedule by. -/
def State.trial (s : State) (g : Grid) : State :=
  let n := s.fresh
  let wg := fun (r : Nat) =>
    { Workgroup.blank with rank := r, drove := n + 1, penBytes := g.penBytes, folds := List.replicate g.folds FoldState.init0 }
  { s with
    grids := tabSet s.grids n g
    droves := tabSet s.droves (n + 1) { Drove.blank with grid := n, wgs := (List.range g.drove).map (n + 2 + ·) }
    wgs := (List.range g.drove).foldl (fun t r => tabSet t (n + 2 + r) (wg r)) s.wgs }

/-- Stage 0 of the schedule fails the checks of R226 in some workgroup (R233). -/
def State.stage0Bad (s : State) (g : Grid) : Bool :=
  (List.range g.drove).any (fun r => ((s.trial g).reqsFail (s.fresh + 2 + r) true ((g.stageReqs 0).map Req.ofNat)).isSome)

/-- Read a launch record, its parameter block and its schedule, and check them (R338, R233). -/
def State.readLaunch (s : State) (ctx va : Nat) : Taken :=
  match s.readHub ctx va 256 with
  | .error (.wait v) => .wait v
  | .error (.fail x) => .bad 4 { Grid.blank with ctx := ctx } (some (.fail x))
  | .error (.malformed v) => .bad 4 { Grid.blank with ctx := ctx } (some (.malformed v))
  | .ok b =>
    let g := (gridOf ctx b).unsignalled
    if recordBad (s.ctx ctx).maxprio b then .bad 4 g none
    else
      match s.readPart ctx (paramVa b) 64, s.readPart ctx (schedVa b) (32 * schedCount b) with
      | .error (.wait v), _ => .wait v
      | .ok _, .error (.wait v) => .wait v
      | .error (.fail x), _ => .bad 4 g (some (.fail x))
      | .error (.malformed v), _ => .bad 4 g (some (.malformed v))
      | .ok _, .error (.fail x) => .bad 4 g (some (.fail x))
      | .ok _, .error (.malformed v) => .bad 4 g (some (.malformed v))
      | .ok p, .ok q =>
        let g1 := { g with params := paramWords p, sched := (List.range (schedCount b)).map (fun i => bytesAt q (32 * i) 32) }
        if s.stage0Bad g1 then .bad 4 g1 none
        else if s.noFit g1 then .bad 2 g1 none
        else if g1.hasGbar && !wholeFits g1 allClusters s.liveCores (fun _ => Room.empty) then .bad 3 g1 none
        else .ok g1

/-- What a page the shepherd could not read leaves behind (R378). -/
def State.metPage (s : State) (ctx : Nat) (met : Option BuildStop) : State :=
  match met with
  | some e => s.stopped ctx e
  | none => s

/-- The reads of a record, its parameter block and its schedule as the tables record them (R377). -/
def State.launchSeen (s : State) (ctx va : Nat) : State :=
  match s.readHub ctx va 256 with
  | .error _ => s
  | .ok b => ((s.hubSeen ctx va 256 .read).hubSeen ctx (paramVa b) (if paramVa b = 0 then 0 else 64) .read).hubSeen ctx (schedVa b)
      (32 * schedCount b) .read

/-- STATUS of a signal event for a status of Table 6.8 (Table 19.6). -/
def signalStatus (status : Nat) : Nat := if status = 4 then 1 else status

/-! ## Grids from acceptance to eligibility (R341, R347) -/

/-- A rejected grid is gone, and its signal event says why. -/
def State.rejectGrid (s : State) (id status : Nat) : State :=
  let g := s.grid id
  let s1 := (s.dropTethers (fun w => decide (w = .grid id))).modCtx g.ctx (fun c => { c with childq := c.childq.filter (fun x => decide (x ≠ id)) })
  ({ s1 with grids := tabErase s1.grids id }).signal 0 g status false

/-- A grid is eligible from now; a child without a wait event is since LAUNCH accepted it (R347, R348). -/
def State.makeEligible (s : State) (id : Nat) : State :=
  s.modGrid id (fun g => { g with
    phase := .eligible
    eligibleAt := if g.child && decide (g.waitva = 0) then g.eligibleAt else s.now
    since := if g.child && decide (g.waitva = 0) then g.eligibleAt else s.now })

/-- The shepherd watches a grid's wait event: a tether GEU of 64 bits at system scope at the home of WAITVA; a page not yet
there is asked for, and one that no pager serves rejects the launch. -/
def State.watchEvent (s : State) (id : Nat) : State :=
  let g := s.grid id
  match s.hubTranslate g.ctx g.waitva .read with
  | .ok pa _ _ =>
    let (t, s1) := (s.hubSeen g.ctx g.waitva 8 .read).freshId
    { s1 with unarmed := s1.unarmed ++ [⟨t, pa, true, .geu, g.waitval, none, g.ctx, .grid id, none, false, .system⟩] }
  | .absent => if s.servable g.ctx g.waitva then s.askPage g.ctx g.waitva 0 else s.rejectGrid id 1
  | .denied => s.rejectGrid id 1
  | .malformed _ => (s.malformed g.ctx 0 g.waitva).rejectGrid id 1

/-- A grid that has passed its check is held on its wait event, or eligible. -/
def State.pendGrid (s : State) (id : Nat) : State :=
  if (s.grid id).waitva = 0 then s.makeEligible id
  else (s.modGrid id (fun g => { g with phase := .held })).watchEvent id

/-- A grid's wait event is being watched, or has been met. -/
def State.watching (s : State) (id : Nat) : Bool :=
  s.tethers.any (fun t => decide (t.waiter = .grid id)) || s.unarmed.any (fun t => decide (t.waiter = .grid id)) ||
  s.wakes.any (fun k => decide (k.waiter = .grid id))

/-- WAIT_EVENT_MET: the wake posted for a held grid makes it eligible. A grid whose page was not there watches again. -/
noncomputable def execWaitEventMet (grid : Nat) (s : State) : Out :=
  if (s.grid grid).phase ≠ .held then .next s
  else if s.wakes.any (fun k => decide (k.waiter = .grid grid)) then
    .next (({ s with wakes := s.wakes.filter (fun k => decide (k.waiter ≠ Waiter.grid grid)) } : State).makeEligible grid)
  else if s.watching grid then .next s
  else .next (s.watchEvent grid)

/-! ## LAUNCH_STATUS and CHILD_LAUNCH_TAKE (R160, R339) -/

/-- Children a context's queue holds. -/
def childQueueSize : Nat := 1024

/-- Note a lane's answer; with the last of them the statuses reach their registers and the lanes go on. -/
def State.answer (s : State) (key id l status handle : Nat) : State :=
  let s1 := s.modWave key (fun w => { w with owed := w.owed.map (fun o =>
    if o.id = id then { o with data := tabSet o.data l [word32 status, word32 handle] } else o) })
  let left := ((s1.wave key).owed.find? (fun o => decide (o.id = id))).any (fun o => o.data.any (fun d => decide (d.2.length = 3)))
  if left then s1 else s1.arrival key id [.launch]

/-- One lane's record is judged (Table 6.8). -/
def State.judge (s : State) (key id l va : Nat) : State :=
  let parent := s.waveGrid key
  let g := s.grid parent
  if maxDepth ≤ g.depth then s.answer key id l 1 0
  else if childQueueSize ≤ (s.ctx g.ctx).childq.length then s.answer key id l 5 0
  else
    match s.readLaunch g.ctx va with
    | .wait v => s.askPage g.ctx v 0
    | .bad st c met =>
      let s1 := s.metPage g.ctx met
      (if c.records.isEmpty then s1 else s1.signal 0 c (signalStatus st) false).answer key id l st 0
    | .ok c =>
      let (child, s1) := (s.launchSeen g.ctx va).freshId
      let c1 := { c with parent := some parent, depth := g.depth + 1, phase := .queued, queue := 1024, child := true, eligibleAt := s.now }
      (({ s1 with grids := tabSet s1.grids child c1 }).modCtx g.ctx (fun x => { x with childq := x.childq ++ [child] })).answer
        key id l 0 child

/-- LAUNCH_STATUS: the lowest lane of a LAUNCH that has no answer yet is judged. -/
noncomputable def execLaunchStatus (key id : Nat) (s : State) : Out :=
  match (s.wave key).owed.find? (fun o => decide (o.id = id) && decide (o.kind = .launch) && !o.arrived) with
  | none => .next s
  | some o =>
    match o.data.find? (fun d => decide (d.2.length = 3)) with
    | none => .next s
    | some (l, ws) => .next (s.judge key id l (pair64 (ws.getD 1 0#32) (ws.getD 0 0#32)).toNat)

/-- CHILD_LAUNCH_TAKE: the first child of a context's queue that has not been taken. -/
noncomputable def execChildLaunchTake (ctx : Nat) (s : State) : Out :=
  match (s.ctx ctx).childq.find? (fun g => decide ((s.grid g).phase = .queued)) with
  | some g => .next (s.pendGrid g)
  | none => .next s

/-! ## Host queues (R340) -/

/-- A host queue's header (Table 19.5). -/
structure HostQueue where
  pa : Nat
  ring : Nat
  cap : Nat
  tail : Nat
  head : Nat
  ctx : Nat
  enable : Nat
  deriving DecidableEq, Repr

def State.hostQueue (s : State) (q : Nat) : HostQueue :=
  let pa := s.table 1 + 64 * q
  let f := fun i n => s.mem.nat (pa + i) n
  ⟨pa, f 0 8, f 8 4, f 12 4, f 16 4, f 20 1, f 21 1⟩

/-- CAP is a power of two from 1 to 65,536. -/
def capOk (cap : Nat) : Bool := (List.range 17).any (fun i => decide (cap = 2 ^ i))

/-- A queue that is watched and holds a record. -/
def HostQueue.waiting (h : HostQueue) : Bool := decide (h.enable = 1) && decide (h.head ≠ h.tail)
/-- A TAIL behind HEAD or more than CAP ahead of it, or a ring no queue can have. -/
def HostQueue.broken (h : HostQueue) : Bool :=
  decide (h.cap < (h.tail + 2 ^ 32 - h.head) % 2 ^ 32) || !capOk h.cap || decide (h.ring % 256 ≠ 0)
def HostQueue.recordVa (h : HostQueue) : Nat := h.ring + 256 * (h.head % h.cap)

/-- Whether a record waits for a page. -/
def Taken.waits : Taken → Bool
  | .wait _ => true
  | .bad .. | .ok _ => false

/-- What the shepherd finds of the record at a queue's HEAD, or has found of it when a page it waited for was refused (R338). -/
def State.queueRecord (s : State) (q : Nat) : Taken :=
  let h := s.hostQueue q
  match tabGet s.rejected q with
  | some (st, g) => .bad st g none
  | none => s.readLaunch h.ctx h.recordVa

/-- A queue whose turn counts: it holds a record that can be taken now, of a live context. -/
def State.queueReady (s : State) (q : Nat) : Bool :=
  let h := s.hostQueue q
  h.waiting && (s.ctx h.ctx).live && (h.broken || !(s.queueRecord q).waits)

/-- The shepherd runs (Table 27.1). -/
def State.hubReady (s : State) : Bool := s.boot.ready.getLsbD 0

/-- Round robin in increasing queue number (R347): no ready queue stands between the last one taken from and this one. -/
def State.queueIsNext (s : State) (q : Nat) : Bool :=
  !((List.range 1024).any (fun i => decide ((i + 1023 - s.queueTurn) % 1024 < (q + 1023 - s.queueTurn) % 1024) && s.queueReady i))

/-- The record at HEAD is taken, and HEAD + 1 written as a release. -/
def State.takeHead (s : State) (q : Nat) (h : HostQueue) : State :=
  ({ s with queueTurn := q, rejected := tabErase s.rejected q }).performBytes (h.pa + 16) (bytesOfNat 4 ((h.head + 1) % 2 ^ 32))

/-- HOST_QUEUE_TAKE. -/
noncomputable def execHostQueueTake (queue : Nat) (s : State) : Out :=
  let h := s.hostQueue queue
  if !s.hubReady || 1024 ≤ queue || !h.waiting || !(s.ctx h.ctx).live then .next s
  else if h.broken then
    .next ((s.performBytes (h.pa + 21) [0#8]).report { Report.plain 0x25 1 with ctx := h.ctx, addr := h.pa })
  else
    match s.queueRecord queue with
    | .wait va => .next (s.askPage h.ctx va 0)
    | .bad st g met =>
      .next (if s.queueIsNext queue then ((s.metPage h.ctx met).takeHead queue h).signal 0 g (signalStatus st) false else s)
    | .ok g =>
      if s.queueIsNext queue then
        let (id, s1) := ((s.launchSeen h.ctx h.recordVa).takeHead queue h).freshId
        .next (({ s1 with grids := tabSet s1.grids id { g with queue := queue } }).pendGrid id)
      else .next s

/-- A page that a queue's record waits for is refused: the record is rejected, at once or at its queue's turn (R338, R347). -/
noncomputable def State.refuseRecord (queue : Nat) (s : State) : Out :=
  match execHostQueueTake queue s with
  | .next t =>
    if t ≠ s then .next t
    else
      match s.queueRecord queue with
      | .bad st g met =>
        let h := s.hostQueue queue
        .next (if s.hubReady && h.waiting && (s.ctx h.ctx).live && (tabGet s.rejected queue).isNone then
          { s.metPage h.ctx met with rejected := tabSet s.rejected queue (st, g) } else s)
      | .wait _ | .ok _ => .next s
  | .fault f => .fault f
  | .refused f => .refused f

end Sys2Proof.Machine
end

