-- ==== Sys2Proof/Machine/Traps.lean ====
section
/-! DEFINITION. Machine/Traps.lean: entering handler mode as an event (R361, R363, R448), how a drove is prepared for a
save (R343, R368, Table 21.6), and what reaches a saved wave (R372, R373). -/

namespace Sys2Proof.Machine

open Sys2Proof

/-! ## What a pre-emption waits for (Table 21.6) -/

/-- A load or another access of the wave is waiting for the pager; a fetch has issued nothing yet. -/
def Wave.pageHeld (w : Wave) : Bool :=
  match w.wait with
  | .page _ _ kind _ => decide (kind ≠ 2)
  | .none | .waitu .. | .fwait .. | .waitc .. | .gbar | .sleept _ | .cairnw _ | .fdiv => false

/-- A wave has nothing outstanding that a save awaits and no cause to take first; one already in its PREEMPT entry has
none. -/
def Wave.quiet (w : Wave) : Bool :=
  if w.handler then decide (w.trapCause = causePreempt)
  else w.pend.isNone && w.causes.isEmpty && !w.pageHeld && w.owedNothing && w.nevs.isEmpty &&
    w.lanes.all (fun x => x.deferred.isEmpty)

/-- The outstanding work of a drove has drained. -/
def State.drained (s : State) (d : Nat) : Bool :=
  let keys := s.droveWaves d
  let wgs := (s.drove d).wgs
  keys.all (fun k => (s.wave k).quiet) && s.rays.all (fun r => !keys.contains r.wave) &&
  s.arrivals.all (fun a => !wgs.contains a.target && !wgs.contains a.wg) &&
  wgs.all (fun g => (s.core (s.wg g).core).drover.all (fun r => decide (r.wg ≠ g)) &&
    (s.core (s.wg g).core).paddock.all (fun p => decide ((s.wave p.wave).wg ≠ g)))

/-! ## Entry -/

/-- The PC that some lanes of a wave hold, for RESUME (R362, Table 21.2): open where they hold several (log entry 14). -/
def State.heldPc (s : State) (key : Nat) (ls : Mask) : Addr × State :=
  let w := s.wave key
  match ((lanesOf (ls &&& w.live)).map (fun l => (w.lane l).pc)).eraseDups with
  | [pc] => (pc, s)
  | _ => s.freeAddr

/-- A cause that fell due is taken: its lanes keep the PCs they hold. -/
def State.enterDue (s : State) (key : Nat) (t : TrapReq) : State :=
  let (pc, s1) := s.heldPc key t.lanes
  s1.enterTrap key { t with resume := pc }

/-- The trap of a wave that a pre-emption reaches: its lanes keep their PCs. It has no trapping instruction, so IADDR is
open (log entry 14). -/
def State.preemptTrap (s : State) (key trigger : Nat) : TrapReq × State :=
  let (at_, s1) := s.freeAddr
  let (resume, s2) := s1.heldPc key (s.wave key).live
  (⟨causePreempt, word32 trigger, (s.wave key).live, at_, resume, 0#48, false, false, false, false⟩, s2)

/-- A deferred SHADOW of a wave, taken before a PREEMPT (R361): the lane that held it. -/
def Wave.deferredTrap (w : Wave) : Option (Nat × Deferred) :=
  lane32.findSome? (fun l => (w.lane l).deferred.head?.map (fun d => (l, d)))

/-- A deferred SHADOW is taken with DEFERRED set, at the lane's PC. -/
def State.enterDeferred (s : State) (key l : Nat) (d : Deferred) : State :=
  let pc := ((s.wave key).lane l).pc
  let s1 := s.modWave key (fun w => w.modLane l (fun x => { x with deferred := x.deferred.drop 1 }))
  s1.enterTrap key ⟨causeShadow, 0#32, 1#32 <<< l, d.iaddr, pc, 0#48, false, false, true, false⟩

/-- TRAP_ENTRY: the trap an instruction raised, once nothing is owed and no wake is on its way; else outside handler mode the
causes that fell due, one at a time; then, for a PREEMPT, a deferred SHADOW first. -/
def execTrapEntry (key : Nat) (s : State) : Out :=
  let w := s.wave key
  if !w.owedNothing || s.wakeOwed key then .next s
  else
    match w.pend with
    | some t => .next (s.enterTrap key t)
    | none =>
      if w.handler then .next s
      else
        match w.causes with
        | t :: rest => .next ((s.modWave key (fun w => { w with causes := rest })).enterDue key t)
        | [] =>
          match w.preempt with
          | none => .next s
          | some trigger =>
            match w.deferredTrap with
            | some (l, d) => .next (s.enterDeferred key l d)
            | none =>
              if s.drained (s.wg w.wg).drove then
                let (t, s1) := s.preemptTrap key trigger
                .next ((s1.enterTrap key t).modWave key (fun w => { w with preempt := none }))
              else .next s

/-! ## Starting a pre-emption (R343, R368) -/

/-- The workgroups of a drove that have not ended. -/
def State.openWgs (s : State) (d : Nat) : List Nat := (s.drove d).wgs.filter (fun g => !(s.wg g).over)

/-- A free save area for each workgroup of a drove. -/
def State.canSave (s : State) (d : Nat) : Bool :=
  let c := s.ctx (s.grid (s.drove d).grid).ctx
  decide ((s.openWgs d).length + c.areasUsed.length ≤ c.areas)

/-- The first area that is free. -/
def Context.freeArea (c : Context) : Nat :=
  ((List.range (c.areasUsed.length + 1)).find? (fun i => !c.areasUsed.contains i)).getD 0

/-- The header of a save area (Table 19.7): its seven values a word each, in the table's order (log entry 20). -/
def State.areaHeader (s : State) (wg : Nat) : List Byte :=
  let g := s.grid (s.wgGrid wg)
  [g.waves, g.regs, g.penBytes, g.lease, g.folds, (s.wg wg).rank, s.wgGrid wg].foldl (fun b x => b ++ bytesOfNat 4 x) [] ++ bytesOfNat 228 0

/-- The status block of a wave as its area first holds it: STATE, what is already known of its wait, and zeros (Table 19.8). -/
def State.statusWords (s : State) (wg index : Nat) : List (Nat × Word) :=
  (0, if (s.wg wg).ended.contains index then 2#32 else 0#32) ::
    (List.range 15).map (fun k => (k + 1, if (s.wg wg).ended.contains index then 0#32 else word32 (s.status wg index (k + 1))))

/-- A workgroup takes a save area: its header is written, and the status of each of its waves says not saved, or ended. -/
def State.takeArea (s : State) (wg : Nat) : State :=
  let ctx := s.wgCtx wg
  let c := s.ctx ctx
  let a := c.freeArea
  let base := c.savepool + a * c.areasize
  let s1 := (s.modCtx ctx (fun c => { c with areasUsed := c.areasUsed ++ [a] })).modWg wg (fun g => { g with saveSlot := some a, saveBase := base })
  let s2 := s1.hubPost ctx [(base, s1.areaHeader wg)]
  (List.range (s.wg wg).nwaves).foldl (fun t i => t.setStatus wg i (t.statusWords wg i)) s2

/-- A drove none of whose waves has become ready: before its START (R355), or with its stage 0 still to be accepted (R232). -/
def State.early (s : State) (d : Nat) : Bool := !(s.drove d).started

/-- A grid that is placed whole, none of its droves started (R352). -/
def State.wholeEarly (s : State) (id : Nat) : Bool :=
  (s.grid id).hasGbar && s.droves.all (fun d => decide (d.2.grid ≠ id) || !d.2.started)

/-- The droves that leave their cores with one that has not started: all those of a grid that is placed whole. -/
def State.goesWith (s : State) (d : Nat) : List Nat :=
  let id := (s.drove d).grid
  if s.wholeEarly id then (s.droves.filter (fun x => decide (x.2.grid = id))).map Prod.fst else [d]

/-- A drove that has not started leaves its cores without a save, to be placed again; a grid that is placed whole waits for its
cores anew (R352, R355). -/
def State.takeBack (s : State) (d : Nat) : State :=
  let id := (s.drove d).grid
  if s.wholeEarly id then
    let ds := s.goesWith d
    let s1 := (ds.foldl (fun l x => l ++ (s.drove x).wgs) []).foldl State.dropWg s
    ({ s1 with droves := s1.droves.filter (fun x => !ds.contains x.1) }).modGrid id
      (fun g => { g with phase := .eligible, nextDrove := 0, since := s.now })
  else
    let (n, s1) := ((s.drove d).wgs.foldl State.dropWg s).freshId
    s1.modDrove d (fun x => { x with wgs := [], phase := .relaunch, order := n, avoid := none, waitSince := s.now })

/-- A drove is made ready for a save: areas, then its waves stop at their next instruction boundary, and its parked rays end
(R296). Without a free area for each workgroup nothing starts. -/
def State.preemptDrove (s : State) (d trigger : Nat) : State :=
  if (s.drove d).phase ≠ .resident then s
  else if s.early d then s.takeBack d
  else if !s.canSave d then s
  else
    let s1 := (s.openWgs d).foldl State.takeArea s
    let s2 := s1.modDrove d (fun x => { x with phase := .draining trigger, wakes := 0 })
    (s2.droveWaves d).foldl (fun t k => (t.modWave k (fun w => { w with preempt := some trigger })).unparkWave k) s2

/-- A context's droves may be pre-empted: it has a trap handler (R448). -/
def State.hasHandler (s : State) (d : Nat) : Bool := decide ((s.ctx (s.grid (s.drove d).grid).ctx).trapvec ≠ 0#48)

/-- DEBUG_PREEMPT: without a trap handler the grid is killed (R448). -/
noncomputable def execDebugPreempt (drove : Nat) (s : State) : Out :=
  if (s.drove drove).phase ≠ .resident then .next s
  else if s.hasHandler drove then .next (s.preemptDrove drove 3)
  else .next (s.killGrid 4 (s.drove drove).grid)

/-! ## What reaches a saved wave (R372, R373) -/

/-- A wake or a passed deadline of a wave that is saved, or is being saved: its drove is delayed no longer (R373). -/
def Drove.woken (d : Drove) (now : Nat) : Drove :=
  if d.phase.halts || d.phase == .saved then { d with wakes := d.wakes + 1, waitSince := if d.wakes = 0 then now else d.waitSince } else d

/-- SAVED_TETHER_WAKE: the home slice writes value and status into the status block, then posts the wake (R344). -/
noncomputable def execSavedTetherWake (index : Nat) (s : State) : Out :=
  match s.wakes[index]? with
  | none => .next s
  | some k =>
    match k.waiter with
    | .saved wg ix =>
      let s1 := ({ s with wakes := s.wakes.eraseIdx index }).setStatus wg ix
        [(2, word32 k.value), (3, word32 (k.value / 2 ^ 32)), (4, word32 k.status), (wokenMark, 1#32)]
      .next (s1.modDrove (s1.wg wg).drove (fun d => d.woken s.now))
    | .wave _ | .ray _ | .grid _ => .next s

/-- The deadline kept in a wave's status block, 0 for none. -/
def State.savedDeadline (s : State) (wg index : Nat) : Nat := s.status wg index 6 + s.status wg index 7 * 2 ^ 32

/-- SAVED_WAVE_DEADLINE: a sleep of a saved wave is over, so its drove, where nothing else has woken it, is delayed no longer. -/
noncomputable def execSavedWaveDeadline (wg index : Nat) (s : State) : Out :=
  let d := (s.wg wg).drove
  if (s.drove d).phase = .saved && decide ((s.drove d).wakes = 0) && decide (s.savedDeadline wg index ≠ 0) && decide (s.savedDeadline wg index ≤ s.now) then
    .next (s.modDrove d (fun d => d.woken s.now))
  else .next s

end Sys2Proof.Machine
end

