-- ==== Sys2Proof/Machine/Sched.lean ====
section
/-! DEFINITION. Machine/Sched.lean: the order of eligible work (R348, R349), placing droves and starting their waves (R31,
R350 to R355, R360), whom to pre-empt (R356 to R358), restoring (R371, R373), and the end of waves, workgroups, droves and
grids (R17, R19, R151). -/

namespace Sys2Proof.Machine

open Sys2Proof

/-! ## The order (R348) -/

/-- Lists of numbers in dictionary order. -/
def listBefore : List Nat → List Nat → Bool
  | [], _ => false
  | _ :: _, [] => false
  | a :: r, b :: q => decide (a < b) || (decide (a = b) && listBefore r q)

/-- A drove start that waits: a grid's next drove, or a drove of it to be placed again or restored, with its place in the
order. -/
structure Cand where
  grid : Nat
  drove : Option Nat
  key : List Nat
  deriving DecidableEq, Repr

def Grid.droves (g : Grid) : Nat := g.dx * g.dy * g.dz

/-- A timed grid too early to be placed (R355). -/
def State.tooEarly (s : State) (g : Grid) : Bool := g.timed && decide (s.now + s.sched.timedlead * 1000 < g.start)

/-- Waves of a saved drove that have not ended, by workgroup and index. -/
def State.savedWaves (s : State) (d : Nat) : List (Nat × Nat) :=
  (s.openWgs d).foldl (fun l g =>
    l ++ (((List.range (s.wg g).nwaves).filter (fun i => !(s.wg g).ended.contains i)).map (fun i => (g, i)))) []

/-- A saved drove all of whose waves are blocked, none at a GBAR, with nothing to wake it (R373). -/
def State.delayed (s : State) (d : Nat) : Bool :=
  let kinds := (s.savedWaves d).map (fun w => s.status w.1 w.2 1)
  decide ((s.drove d).wakes = 0) && kinds.all (fun k => decide (k ≠ 0) && decide (k ≠ 4))

/-- The old cores of a saved drove have performed everything it did (R80, Table 21.6). -/
def State.settled (s : State) (d : Nat) : Bool :=
  (s.drove d).wgs.all (fun g => (s.core (s.wg g).core).sideLog.all (fun e => decide (e.wg ≠ g)) && (s.core (s.wg g).core).committed.isEmpty)

/-- A drove waits for a placement of its own; one that migrates is restored at once (R358). -/
def State.waits (s : State) (d : Nat) : Bool :=
  match (s.drove d).phase with
  | .saved => s.settled d && (!s.delayed d || !(s.drove d).target.isEmpty)
  | .relaunch => !s.tooEarly (s.grid (s.drove d).grid)
  | .resident | .draining _ | .restoring | .ended => false

/-- A drove's place: the saved droves of a GBAR grid first in their priority (R353). -/
def State.droveCand (s : State) (d : Nat) : Cand :=
  let x := s.drove d
  let g := s.grid x.grid
  ⟨x.grid, some d, [7 - g.prio, if x.phase = .saved && g.hasGbar then 0 else 1, x.order]⟩

/-- A grid whose next drove waits. -/
def State.gridWaits (s : State) (g : Grid) : Bool :=
  (decide (g.phase = .eligible) || decide (g.phase = .running)) && decide (g.nextDrove < g.droves) && !s.tooEarly g

/-- Everything that waits. -/
def State.cands (s : State) : List Cand :=
  ((s.droves.map Prod.fst).filter s.waits).map s.droveCand ++
  (s.grids.filter (fun g => s.gridWaits g.2)).map (fun g => ⟨g.1, none, [7 - g.2.prio, 2, g.2.eligibleAt, g.2.queue, g.1]⟩)

/-- The first of some that wait. -/
def firstCand (cs : List Cand) : Option Cand :=
  cs.foldl (fun b c =>
    match b with
    | none => some c
    | some h => if listBefore c.key h.key then some c else some h) none

/-- The head of the order (R349). -/
def State.head (s : State) : Option Cand := firstCand s.cands

/-- Since when a candidate waits. -/
def State.waitFrom (s : State) (c : Cand) : Nat :=
  match c.drove with
  | some d => (s.drove d).waitSince
  | none => (s.grid c.grid).since

/-! ## Where it may go (R350, R354) -/

/-- A core takes a placement: live, of a site that is ready (R443), not quarantined (R417), not kept for another one (R349,
R356) nor the target of a migration (R358), unless of a lower priority. -/
def State.coreTakes (s : State) (c : Cand) (core : Nat) : Bool :=
  let p := (s.grid c.grid).prio
  s.coreLive core && s.harvest.dieEn.testBit (coreSite core) && s.boot.ready.getLsbD (1 + coreSite core) &&
  (s.sites.getD (coreSite core) (Site.init false)).live &&
  s.quarantined.all (fun q => decide (q.loc % 4096 ≠ locOfCore core 0)) &&
  s.reserved.all (fun r => !(decide (r.1 = core) && decide (r.2 ≠ c.grid) && decide (p ≤ (s.grid r.2).prio))) &&
  s.droves.all (fun d => !(d.2.target.contains core && decide (c.drove ≠ some d.1) && decide (p ≤ (s.grid d.2.grid).prio))) &&
  s.backfill.all (fun b => !(decide (b.2 = clusterOf core) && decide (b.1 ≠ c.grid)))

/-- The cores of a cluster that take a placement. -/
def State.takers (s : State) (c : Cand) (k : Nat) : List Nat := (clusterCores k).filter (s.coreTakes c)

/-- What each workgroup of a placement takes of its core: of a drove to be restored the waves that have not ended, and the lease only
where the workgroup still holds it (R371, R245). -/
def State.loadsOf (s : State) (c : Cand) : List Load :=
  let g := s.grid c.grid
  match c.drove with
  | some d =>
    if (s.drove d).wgs.isEmpty then List.replicate g.drove g.load
    else (s.drove d).wgs.map (fun w =>
      if (s.wg w).over then ⟨0, 0, 0, false⟩
      else { g.load with waves := (s.wg w).nwaves - (s.wg w).ended.length, lease := decide (0 < (s.wg w).lease) })
  | none => List.replicate g.drove g.load

/-- Cores for a placement's workgroups in the order of their ranks: each takes one it fits. -/
def arrange (fits : Load → Nat → Bool) : List Load → List Nat → Option (List Nat)
  | [], _ => some []
  | x :: r, cores => cores.findSome? (fun k => if fits x k then (arrange fits r (cores.filter (fun j => decide (j ≠ k)))).map (k :: ·) else none)

/-- The pen ways a core has for a grid's placement: those that joined for another's claim are not among them. -/
def State.waysFor (s : State) (id core : Nat) : Nat :=
  let c := s.core core
  c.penWays - (match c.claim with
    | some k => if k.grid = id then 0 else k.joined
    | none => 0)

/-- The room of a core for a placement, some droves left out of account; with no more pen ways than the core now has, where
`now` is set. -/
def State.roomFor (s : State) (id : Nat) (now : Bool) (skip : List Nat) (core : Nat) : Room :=
  let r := s.roomOf core skip
  if now then { r with ways := Nat.min 14 (s.waysFor id core) } else r

/-- The cores of a set in the order of the ranks, where the placement fits them. -/
def State.setFits (s : State) (c : Cand) (now : Bool) (skip set : List Nat) : Option (List Nat) :=
  arrange (fun x k => ((s.roomFor c.grid now skip k).take x).isSome) (s.loadsOf c) set

/-- A grid that is placed whole or not at all, none of it placed yet (R352). -/
def State.whole (s : State) (c : Cand) : Bool :=
  c.drove.isNone && (s.grid c.grid).hasGbar && decide ((s.grid c.grid).nextDrove = 0)

/-- A placement fits in some clusters, some droves left out of account. -/
def State.fitsIn (s : State) (c : Cand) (now : Bool) (skip clusters : List Nat) : Bool :=
  let g := s.grid c.grid
  if s.whole c then wholeFits g clusters (s.takers c) (s.roomFor c.grid now skip)
  else clusters.any (fun k => (setsOf g.drove (s.takers c k)).any (fun set => (s.setFits c now skip set).isSome))

/-- The clusters of a placement: a replayed drove leaves the one it failed on (R88). -/
def State.clustersFor (s : State) (c : Cand) : List Nat :=
  allClusters.filter (fun k => c.drove.all (fun d => decide ((s.drove d).avoid ≠ some k)))

/-- A placement fits, the pen ways it lacks claimed first; some droves left out of account. -/
def State.canPlace (s : State) (c : Cand) (skip : List Nat) : Bool := s.fitsIn c false skip (s.clustersFor c)

/-- A placement fits as the cores now stand. -/
def State.fitsNow (s : State) (c : Cand) : Bool := s.fitsIn c true [] (s.clustersFor c)

/-- The clusters a placement tries: others than those on which its claims were abandoned, while it fits there (R354). -/
def State.tries (s : State) (c : Cand) : List Nat :=
  let others := (s.clustersFor c).filter (fun k => !(s.grid c.grid).shun.contains k)
  if s.fitsIn c false [] others then others else s.clustersFor c

/-- The target of a migration, while its drove can be restored there (R358). -/
def State.targetOf (s : State) (c : Cand) : List Nat :=
  match c.drove with
  | some d =>
    let set := (s.drove d).target
    if set.all (s.coreTakes c) && decide (s.setFits c false [] set = some set) then set else []
  | none => []

/-- Cores named for a placement, rank by rank, are ones it may use. -/
def State.setOk (s : State) (c : Cand) (set : List Nat) : Bool :=
  decide (set.length = (s.grid c.grid).drove) && connectedSet set && set.all (s.coreTakes c) &&
  set.all (fun k => (s.tries c).contains (clusterOf k)) && ((s.targetOf c).isEmpty || decide (s.targetOf c = set)) &&
  ((s.loadsOf c).zip set).all (fun x => ((s.roomOf x.2 []).take x.1).isSome)

/-- What stands before a candidate and keeps it from going first: one that fits now; a saved drove of a GBAR grid (R353). -/
def State.stops (s : State) (c : Cand) : Bool :=
  s.fitsNow c || (c.drove.any (fun d => decide ((s.drove d).phase = .saved)) && (s.grid c.grid).hasGbar)

/-- What may be placed: the head; behind it, where nothing earlier in the order can be placed now, what fits as the cores stand,
or what no earlier claim is meant for (R43, R348, R349, R353). -/
def State.mayGo (s : State) (c : Cand) : Bool :=
  let before := s.cands.filter (fun h => listBefore h.key c.key)
  s.cands.contains c && (before.isEmpty ||
    (before.all (fun h => !s.stops h) && (s.fitsNow c || before.all (fun h => !s.canPlace h []))))

/-! ## Pen claims (R43, R354) -/

/-- The ways a core lacks for the workgroup that a placement on some cores, rank by rank, puts there. -/
def State.waysShort (s : State) (c : Cand) (cores : List Nat) (core : Nat) : Nat :=
  match ((s.loadsOf c).zip cores).find? (fun x => decide (x.2 = core)) with
  | some (x, _) => ceilDiv ((s.roomOf core []).pen + x.pen) 65536 - s.waysFor c.grid core
  | none => 0

/-- A core claims ways for a grid: a claim it has of the grid grows. -/
def Core.claim1 (c : Core) (id n now : Nat) : Core :=
  { c with claim := some (match c.claim with
    | some k => { k with ways := k.joined + n, since := if k.joined < k.ways then k.since else now }
    | none => ⟨id, n, now, 0⟩) }

/-- Claim what cores lack, each `short` of it, on all of them at once; a core runs one claim at a time, and a grid claims on one
choice of cores at a time. -/
def State.claimWays (s : State) (id : Nat) (cores : List Nat) (short : Nat → Nat) : State :=
  if cores.any (fun c => decide (0 < short c) && (s.core c).claim.any (fun k => decide (k.grid ≠ id))) ||
    s.cores.any (fun c => !cores.contains c.1 && c.2.claim.any (fun k => decide (k.grid = id))) then s
  else cores.eraseDups.foldl (fun t c => if 0 < short c then t.modCore c (fun x => x.claim1 id (short c) t.now) else t) s

/-- Claims that a placement used are over. -/
def State.useClaims (s : State) (id : Nat) (cores : List Nat) : State :=
  cores.foldl (fun t c => t.modCore c (fun x => { x with claim := x.claim.filter (fun k => decide (k.grid ≠ id)) })) s

/-- Lines of uncommitted stores in the ways being claimed find room in the others: open while the core has such lines (R43;
log entry 36). -/
def State.claimRoom (s : State) (core : Nat) : Bool := decide (s.bufferedLines core = 0) || Config.claimRoom s.cycle.toNat core

/-- PEN_CLAIM_COMPLETE: one claimed way is empty of lines and joins the pen. -/
noncomputable def execPenClaimComplete (core : Nat) (s : State) : Out :=
  match (s.core core).claim with
  | none => .next s
  | some k =>
    .next (if k.joined < k.ways && s.claimRoom core then
      s.modCore core (fun x => { x with penWays := x.penWays + 1, claim := some { k with joined := k.joined + 1 } })
    else s)

/-- The clusters on which a grid has claims. -/
def State.claimClusters (s : State) (id : Nat) : List Nat :=
  ((s.cores.filter (fun c => c.2.claim.any (fun k => decide (k.grid = id)))).map (fun c => clusterOf c.1)).eraseDups

/-- CLAIM_TIMEOUT: a claim still waiting after CLAIMWAIT is abandoned on all its cores, and another cluster is tried. -/
noncomputable def execClaimTimeout (core : Nat) (s : State) : Out :=
  match (s.core core).claim with
  | none => .next s
  | some k =>
    .next (if k.joined < k.ways && decide (k.since + s.sched.claimwait * 1000 ≤ s.now) then
      (s.dropClaims k.grid).modGrid k.grid (fun g => { g with shun := (g.shun ++ s.claimClusters k.grid).eraseDups })
    else s)

/-! ## Starting waves (R31) -/

/-- Registers at wave start (Table 1.5). -/
def Grid.startRegs (g : Grid) (index l : Nat) : List Word := word32 (index * 32 + l) :: List.replicate (g.regs - 1) 0#32

/-- A lane at wave start; lanes beyond the last-wave count are never launched (R13). -/
def Grid.startLane (g : Grid) (index l : Nat) : Lane :=
  if index + 1 = g.waves ∧ g.lastl ≤ l then Lane.blank
  else { Lane.blank with pc := g.entry, state := .ready, regs := g.startRegs index l }

/-- s0 to s63 at wave start. -/
def Grid.startS (g : Grid) (handle : Nat) (d : Drove) (rank index : Nat) : List Word :=
  g.params.take 16 ++ List.replicate (16 - g.params.length) 0#32 ++ List.replicate 32 0#32 ++
  [d.x * g.drove + rank, d.y, d.z, rank, index, g.waves, g.depth, handle].map word32 ++ List.replicate 8 0#32

/-- A wave as it starts. -/
def Grid.startWave (g : Grid) (handle : Nat) (d : Drove) (wg rank index age clk : Nat) : Wave :=
  { Wave.blank with
    lanes := lane32.map (g.startLane index)
    s := g.startS handle d rank index
    m := List.replicate 12 0#32
    q := g.records.take 8 ++ List.replicate (16 - (g.records.take 8).length) 0#128
    nregs := g.regs
    age := age
    lastClk := clk
    wg := wg
    index := index }

/-- The first free slot of a quarter. -/
def State.freeWaveSlot (s : State) (quarter : Nat) : Nat :=
  ((List.range 16).find? (fun i => (tabGet s.waves (quarter * 16 + i)).isNone)).getD 0

/-- Put waves into the quarters found for them, ages in order (R360). -/
def State.putWaves (s : State) (core : Nat) (make : Nat → Nat → Wave) : List (Nat × Nat) → State
  | [] => s
  | (index, q) :: r =>
    let (age, s1) := s.freshId
    let key := (core * 4 + q) * 16 + s1.freeWaveSlot (core * 4 + q)
    ({ s1 with waves := tabSet s1.waves key (make index age) }).putWaves core make r

/-- The lease of a core begins (R245, R246). -/
def State.startLease (s : State) (core wg : Nat) (stopped : Bool) : State :=
  s.modCore core (fun c => { c with array := { MatrixArray.init with lessee := some wg, band := c.array.band, stopped := stopped } })

/-- One workgroup is placed and its waves stand at the entry. -/
def State.startWg (s : State) (id d rank core : Nat) : State :=
  let g := s.grid id
  match (s.roomOf core []).take g.load with
  | none => s
  | some (qs, _) =>
    let (wg, s1) := s.freshId
    let record : Workgroup := { Workgroup.blank with
      core := core
      rank := rank
      drove := d
      nwaves := g.waves
      penBytes := g.penBytes
      penUnits := s.unitsFor core g.penBytes
      folds := List.replicate g.folds FoldState.init0
      stages := ((g.sched.map (fun r => (Req.ofNat r).stage)).eraseDups.filter (fun x => decide (x ≠ 0))).mergeSort (fun a b => decide (a ≤ b))
      status := List.replicate g.waves []
      lease := g.lease }
    let s2 := ({ s1 with wgs := tabSet s1.wgs wg record }).modDrove d (fun x => { x with wgs := x.wgs ++ [wg] })
    let s3 := if g.lease = 0 then s2 else s2.startLease core wg false
    s3.putWaves core (fun i age => g.startWave id (s3.drove d) wg rank i age s3.cycle.toNat) ((List.range g.waves).zip qs)

/-- The drovers of a drove's cores have room for stage 0 of its schedule (R232). -/
def State.stage0Room (s : State) (d : Nat) : Bool :=
  let n := ((s.grid (s.drove d).grid).stageReqs 0).length
  (s.drove d).wgs.all (fun w => decide ((s.core (s.wg w).core).drover.length + n ≤ droverSize))

/-- A drove's waves become ready, once stage 0 of the schedule has been accepted for each workgroup (R233): its grid runs, and a
child leaves its queue (R339). -/
def State.startDrove (s : State) (d : Nat) : State :=
  let id := (s.drove d).grid
  if s.stage0Room d then
    (((s.drove d).wgs.foldl (fun t w => t.acceptReqs w ((s.grid id).stageReqs 0)) s).modDrove d (fun x => { x with started := true })).modCtx
      (s.grid id).ctx (fun c => { c with childq := c.childq.filter (fun x => decide (x ≠ id)) })
  else s

/-- A timed drove waits for START; placed after it, it starts at once and LATESTART is recorded (R355). -/
def State.startOrWait (s : State) (id d : Nat) : State :=
  let g := s.grid id
  if g.timed && decide (s.now < g.start) then s
  else
    let s1 := s.startDrove d
    if g.timed && decide (g.start < s.now) then s1.report { Report.plain 0x26 1 with ctx := g.ctx, grid := id } else s1

/-- The workgroups of some droves are placed in one step: their waves take their ages in the order of the ranks (R360). -/
def State.standAll (s : State) (id : Nat) (xs : List (Nat × List Nat)) : State :=
  let s1 := (List.range (s.grid id).drove).foldl (fun t rank =>
    xs.foldl (fun u x => u.startWg id x.1 rank (x.2.getD rank 0)) t) s
  let s2 := xs.foldl (fun t x => t.modDrove x.1 (fun d =>
    { d with phase := .resident, placed := s.now, replayable := (s.grid id).replay, avoid := none })) s1
  s2.modGrid id (fun g => { g with phase := .running, since := s.now, shun := [] })

/-- The next new drove of a grid, by its number: x first, then y, then z (log entry 58: the order is the model's choice). -/
def State.newDrove (s : State) (id : Nat) : Nat × State :=
  let g := s.grid id
  let n := g.nextDrove
  let (d, s1) := s.freshId
  let record : Drove := { Drove.blank with grid := id, x := n % g.dx, y := n / g.dx % g.dy, z := n / (g.dx * g.dy) }
  (d, ({ s1 with droves := tabSet s1.droves d record }).modGrid id (fun g => { g with nextDrove := n + 1 }))

/-- Split a list of cores by droves. -/
def chunks (n : Nat) : Nat → List Nat → List (List Nat)
  | 0, _ => []
  | fuel + 1, l => if l.isEmpty then [] else l.take n :: chunks n fuel (l.drop n)

/-- The sets fit together: each in the room the earlier ones leave. -/
def State.setsFit (s : State) (c : Cand) (sets : List (List Nat)) : Bool :=
  let used := fun (k : Nat) => (sets.filter (fun t => t.contains k)).length
  sets.all (s.setOk c) && (sets.flatten).all (fun k => decide (used k ≤ (s.roomOf k []).holds (s.grid c.grid)))

/-- The pen ways a core lacks for all the workgroups it is to take. -/
def State.wholeShort (s : State) (id : Nat) (cores : List Nat) (core : Nat) : Nat :=
  ceilDiv ((s.roomOf core []).pen + (cores.filter (fun c => decide (c = core))).length * (s.grid id).penBytes) 65536 - s.waysFor id core

/-- Claims and cores kept for a grid's placement are over as it is made. -/
def State.takeCores (s : State) (id : Nat) (cores : List Nat) : State := ((s.useClaims id cores).dropClaims id).unreserve id

/-- Place a whole grid: no drove of it starts before all have their cores. -/
def State.placeWhole (s : State) (c : Cand) (cores : List Nat) : State :=
  let g := s.grid c.grid
  let sets := chunks g.drove cores.length cores
  if !(decide (sets.length = g.droves) && s.setsFit c sets) then s
  else if cores.any (fun k => decide (0 < s.wholeShort c.grid cores k)) then s.claimWays c.grid cores (s.wholeShort c.grid cores)
  else
    let (ds, s1) := sets.foldl (fun (p : List (Nat × List Nat) × State) set =>
      let (d, t) := p.2.newDrove c.grid
      (p.1 ++ [(d, set)], t)) (([] : List (Nat × List Nat)), s.takeCores c.grid cores)
    ds.foldl (fun t x => t.startOrWait c.grid x.1) (s1.standAll c.grid ds)

/-- Place one drove: a new one, or one taken away before its START or for a replay. -/
def State.placeOne (s : State) (c : Cand) (cores : List Nat) : State :=
  if !s.setOk c cores then s
  else if cores.any (fun k => decide (0 < s.waysShort c cores k)) then s.claimWays c.grid cores (s.waysShort c cores)
  else
    let s1 := s.takeCores c.grid cores
    let (d, s2) := match c.drove with
      | some d => (d, s1)
      | none => s1.newDrove c.grid
    (s2.standAll c.grid [(d, cores)]).startOrWait c.grid d

/-! ## Whom to pre-empt (R356) -/

/-- Insertion sort by a key of numbers. -/
def insertKey (x : List Nat × Nat) : List (List Nat × Nat) → List (List Nat × Nat)
  | [] => [x]
  | y :: r => if listBefore x.1 y.1 then x :: y :: r else y :: insertKey x r
def sortKeys (xs : List (List Nat × Nat)) : List Nat := (xs.foldr insertKey []).map Prod.snd

/-- Droves already on their way out for a grid. -/
def State.leaving (s : State) (id : Nat) : List Nat :=
  (s.droves.filter (fun d => d.2.phase.halts && d.2.wgs.any (fun w => s.reserved.contains ((s.wg w).core, id)))).map Prod.fst

/-- The fewest victims, in order, with which the placement fits, those that leave with them counted too; none where even all
would not do. -/
def State.enough (s : State) (c : Cand) : List Nat → List Nat → List Nat
  | [], _ => []
  | v :: rest, chosen =>
    let next := chosen ++ (if s.early v then s.goesWith v else [v])
    if s.canPlace c next then next else s.enough c rest next

/-- A drove of a GBAR grid keeps its cores while another one of the grid is saved (R353, R322). -/
def State.keepsCores (s : State) (d : Nat) : Bool :=
  let id := (s.drove d).grid
  (s.grid id).hasGbar && s.droves.any (fun x => decide (x.2.grid = id) && decide (x.1 ≠ d) && (x.2.phase.halts || x.2.phase == .saved))

/-- A drove may be a victim of a placement of a grid at all. -/
def State.victimOk (s : State) (id d : Nat) : Bool :=
  decide ((s.drove d).phase = .resident) && decide ((s.grid (s.drove d).grid).ctx ≠ (s.grid id).ctx) && s.hasHandler d &&
  (s.early d || s.canSave d) && !s.keepsCores d

/-- Of each GBAR grid only the first drove: the others keep their cores once it is saved (R353). -/
def State.onePerGbar (s : State) : List Nat → List Nat → List Nat
  | [], _ => []
  | d :: r, seen =>
    let id := (s.drove d).grid
    if (s.grid id).hasGbar && seen.contains id then s.onePerGbar r seen else d :: s.onePerGbar r (id :: seen)

/-- Pre-empt the victims; their cores are kept for the placement. -/
def State.takeVictims (s : State) (c : Cand) (trigger : Nat) (pool : List Nat) : State :=
  let gone := s.leaving c.grid
  if s.canPlace c gone then s
  else
    let vs := (s.enough c (s.onePerGbar pool []) gone).filter (fun v => !gone.contains v)
    vs.foldl (fun t v =>
      let cores := (t.drove v).wgs.map (fun w => (t.wg w).core)
      ({ t with reserved := t.reserved ++ cores.map (fun k => (k, c.grid)) }).preemptDrove v trigger) s

/-- Priority: lowest first, then the most recently placed. -/
def State.priorityPool (s : State) (id : Nat) : List Nat :=
  let p := (s.grid id).prio
  sortKeys ((s.droves.filter (fun d => s.victimOk id d.1 && decide ((s.grid d.2.grid).prio < p) &&
    s.sched.preempt.testBit (s.grid d.2.grid).prio)).map (fun d => ([(s.grid d.2.grid).prio, 2 ^ 64 - d.2.placed], d.1)))

/-- Timeslice: equal priority, resident for a slice, the first placed first; DETERMINISTIC grids and timed droves before
START never. -/
def State.slicePool (s : State) (id : Nat) : List Nat :=
  let g := s.grid id
  sortKeys ((s.droves.filter (fun d => s.victimOk id d.1 && !s.early d.1 && decide ((s.grid d.2.grid).prio = g.prio) &&
    !(s.grid d.2.grid).deterministic && decide (d.2.placed + s.sched.tslice * 1000 ≤ s.now))).map (fun d => ([d.2.placed], d.1)))

/-- What waits for a grid: a drove of it that awaits a placement, before its next new one. -/
def State.candOf (s : State) (id : Nat) (saved : Bool) : Option Cand :=
  firstCand (s.cands.filter (fun c => decide (c.grid = id) &&
    (match c.drove with
      | some d => decide ((s.drove d).phase = .saved) == saved
      | none => !saved)))

/-- The head cannot be placed, and pre-empts (R356). -/
def State.headPreempts (s : State) (c : Cand) : State :=
  if s.head = some c then s.takeVictims c 0 (s.priorityPool c.grid) else s

/-- DROVE_PLACE: the next drove of a grid, or all of it under R352, on the cores the dispatcher chose. -/
noncomputable def execDrovePlace (grid : Nat) (cores : List Nat) (s : State) : Out :=
  match s.candOf grid false with
  | none => .next s
  | some c =>
    if !s.mayGo c then .next s
    else if !s.canPlace c [] then .next (s.headPreempts c)
    else .next (if s.whole c then s.placeWhole c cores else s.placeOne c cores)

/-- BACKFILL_STOP: the head has waited BACKWAIT, and one cluster that could hold its drove takes no other placement. -/
noncomputable def execBackfillStop (grid cluster : Nat) (s : State) : Out :=
  match s.head with
  | none => .next s
  | some h =>
    let g := s.grid grid
    let could := (setsOf g.drove (s.liveCores cluster)).any (fun _ => (Room.empty.take g.load).isSome)
    .next (if decide (h.grid = grid) && !s.fitsNow h && decide (s.waitFrom h + s.sched.backwait * 1000 ≤ s.now) &&
        s.backfill.all (fun b => decide (b.1 ≠ grid)) && could then
      { s with backfill := s.backfill ++ [(grid, cluster)] }
    else s)

/-- TIMED_START: TIME has reached START and a placed drove's waves become ready; so do those of any drove that waited for room
for stage 0 of its schedule (R232). -/
noncomputable def execTimedStart (drove : Nat) (s : State) : Out :=
  let d := s.drove drove
  let g := s.grid d.grid
  .next (if decide (d.phase = .resident) && !d.started && (!g.timed || decide (g.start ≤ s.now)) then s.startDrove drove else s)

/-- TIMESLICE_EXPIRE: what waits for a grid has waited TSLICE. -/
noncomputable def execTimesliceExpire (grid : Nat) (s : State) : Out :=
  match firstCand (s.cands.filter (fun c => decide (c.grid = grid))) with
  | none => .next s
  | some c =>
    .next (if s.sched.modes.testBit 1 && decide (s.waitFrom c + s.sched.tslice * 1000 ≤ s.now) && !s.canPlace c [] then
      s.takeVictims c 1 (s.slicePool grid)
    else s)

/-! ## Thermal migration (R357, R358) -/

/-- Waves of a drove. -/
def State.waveCount (s : State) (d : Nat) : Nat := (s.droveWaves d).length

/-- The cluster of a drove. -/
def State.droveCluster (s : State) (d : Nat) : Option Nat := (s.drove d).wgs.head?.map (fun w => clusterOf (s.wg w).core)

/-- A drove that may migrate. -/
def State.migrates (s : State) (d : Nat) : Bool :=
  let x := s.drove d
  decide (x.phase = .resident) && x.started && !(s.grid x.grid).deterministic && s.hasHandler d && s.canSave d &&
  x.wgs.all (fun w => (s.core (s.wg w).core).drover.all (fun r => decide (r.wg ≠ w))) && !s.keepsCores d &&
  (decide (x.lastMove = 0) || decide (x.lastMove + s.sched.migmin * 1000 ≤ s.now))

/-- The one taken: the most waves, then the youngest. -/
def State.moreToMove (s : State) (a b : Nat) : Bool :=
  decide (s.waveCount b < s.waveCount a) || (decide (s.waveCount a = s.waveCount b) && decide ((s.drove b).placed < (s.drove a).placed))

/-- What a cluster's hottest sensor reads, and whether it has read above THERMHI for 1 ms (log entry 21). -/
def State.hottest (s : State) (cluster : Nat) : Option Nat := (((tabGet s.sensors cluster).getD []).head?).map Prod.fst
def State.tooHot (s : State) (cluster : Nat) : Bool :=
  let rs := (tabGet s.sensors cluster).getD []
  let recent := rs.takeWhile (fun r => decide (s.now < r.2 + 1000000))
  recent.all (fun r => decide (s.sched.thermhi < r.1)) && ((rs.drop recent.length).head?).any (fun r => decide (s.sched.thermhi < r.1))

/-- A sensor reads another temperature: what it read before the last millisecond is forgotten. -/
def State.sense (s : State) (cluster reading : Nat) : State :=
  let rs := (reading, s.now) :: (tabGet s.sensors cluster).getD []
  let recent := rs.takeWhile (fun r => decide (s.now < r.2 + 1000000))
  { s with sensors := tabSet s.sensors cluster (recent ++ (rs.drop recent.length).take 1) }

/-- A cluster reads at least THERMGAP below another. -/
def State.cooler (s : State) (a b : Nat) : Bool :=
  match s.hottest a, s.hottest b with
  | some x, some y => decide (x + s.sched.thermgap ≤ y)
  | _, _ => false

/-- THERMAL_MIGRATE: the cluster of the drove has been too hot, and the cores named are in one cool enough. -/
noncomputable def execThermalMigrate (drove : Nat) (cores : List Nat) (s : State) : Out :=
  let d := s.drove drove
  match s.droveCluster drove with
  | none => .next s
  | some here =>
    let c : Cand := ⟨d.grid, some drove, []⟩
    let rivals := s.droves.filter (fun x => decide (s.droveCluster x.1 = some here))
    let moving := rivals.any (fun x => !x.2.target.isEmpty && (x.2.phase.halts || x.2.phase == .saved))
    let first := rivals.all (fun x => !(s.migrates x.1 && s.moreToMove x.1 drove))
    .next (if s.sched.modes.testBit 0 && s.tooHot here && s.migrates drove && !moving && first && s.setOk c cores &&
        cores.all (fun k => s.cooler (clusterOf k) here) then
      (s.modDrove drove (fun x => { x with target := cores, lastMove := s.now })).preemptDrove drove 2
    else s)

/-! ## Restoring (R371, R373) -/

/-- What a restored wave holds in place `n` of part `p` before its handler has loaded it: open (log entry 10). -/
def restoredAt (wg index p n : Nat) : Word := Config.restored wg index p n

/-- The hidden items of a wave that starts a restore. -/
def restoredHidden (wg index : Nat) : Hidden :=
  let f := fun (base n : Nat) => (List.range n).map (fun i => restoredAt wg index 35 (base + i))
  ⟨f 0 32, f 32 32, f 64 32, f 96 64, f 160 8, f 168 4, f 172 4⟩

/-- A lane of it: every launched lane runs the handler, its lane store and its spilled return addresses where they lie in
memory (R35, R369). -/
def Grid.restoredLane (g : Grid) (wg index : Nat) (vec : Addr) (kept : List KeptLane) (l : Nat) : Lane :=
  if index + 1 = g.waves ∧ g.lastl ≤ l then Lane.blank
  else { Lane.blank with
    pc := vec
    state := .ready
    store := (kept.getD l ⟨[], []⟩).store
    spill := (kept.getD l ⟨[], []⟩).spill
    regs := word32 l :: 0#32 :: (List.range (g.regs - 2)).map (fun n => restoredAt wg index l (n + 2)) }

/-- A wave that starts a restore: in handler mode, its registers open but for v0, v1 and q15. -/
def Grid.restoredWave (g : Grid) (wg : Nat) (vec : Addr) (q15 : BitVec 128) (kept : List KeptLane) (t : TrapReq) (index age clk : Nat) : Wave :=
  let at_ := fun (p n : Nat) => restoredAt wg index p n
  let w : Wave := { Wave.blank with
    lanes := lane32.map (g.restoredLane wg index vec kept)
    s := (List.range 64).map (at_ 32)
    m := (List.range 12).map (at_ 33)
    q := (List.range 15).map (fun n => recordOf ((List.range 4).map (fun i => at_ 34 (4 * n + i)))) ++ [q15]
    nregs := g.regs
    fpmode := at_ 36 0 &&& fpmodeBits
    fpflags := at_ 36 1 &&& 0x1F#32
    oobflags := at_ 36 2 &&& 0xFFFF#32
    penpass := at_ 36 3
    degen := at_ 36 4
    handler := true
    hidden := restoredHidden wg index
    age := age
    lastClk := clk
    wg := wg
    index := index }
  { w with trap := ({ t with lanes := w.live } : TrapReq).record }

/-- The trap that starts a restore: its trigger, IADDR and RESUME are open, the trigger one of the five there are. -/
def State.restoreTrap (s : State) : TrapReq × State :=
  let (trigger, s0) := s.freeWord 24
  let (at_, s1) := s0.freeAddr
  let (resume, s2) := s1.freeAddr
  (⟨causePreempt, word32 (trigger.toNat % 5), 0#32, at_, resume, 0#48, false, false, false, true⟩, s2)

/-- One workgroup of a saved drove stands on a core again, its pen zeroed. The core's path cache drops its lines, since reads
through it never go back (R104). -/
def State.restoreWg (s : State) (id wg core : Nat) : State :=
  let g := s.grid id
  let c := s.ctx g.ctx
  let live := (List.range (s.wg wg).nwaves).filter (fun i => !(s.wg wg).ended.contains i)
  match (s.roomOf core []).take { g.load with waves := live.length, lease := decide (0 < (s.wg wg).lease) } with
  | none => s
  | some (qs, _) =>
    let s1 := s.modWg wg (fun x => { x with
      core := core
      penBytes := g.penBytes
      penUnits := s.unitsFor core g.penBytes
      pen := []
      penZero := true
      penPoison := []
      folds := List.replicate g.folds FoldState.init0 })
    let s2 := (if (s.wg wg).lease = 0 then s1 else s1.startLease core wg true).modCore core (fun k => { k with path := [] })
    let (t, s3) := s2.restoreTrap
    let s4 := s3.putWaves core (fun i age => g.restoredWave wg c.trapvec (saveRecord (s.wg wg).saveBase c.areasize)
      ((tabGet (s.wg wg).kept i).getD []) t i age s3.cycle.toNat) (live.zip qs)
    s4.modWg wg (fun x => { x with kept := [] })

/-- DROVE_RESTORE: a saved drove on the cores the dispatcher chose, each wave in its handler. A head that cannot be placed
pre-empts. -/
noncomputable def execDroveRestore (drove : Nat) (cores : List Nat) (s : State) : Out :=
  if !((s.drove drove).phase = .saved && s.waits drove) then .next s
  else
    let c := s.droveCand drove
    if !s.mayGo c then .next s
    else if !s.canPlace c [] then .next (s.headPreempts c)
    else if !s.setOk c cores then .next s
    else if cores.any (fun k => decide (0 < s.waysShort c cores k)) then .next (s.claimWays c.grid cores (s.waysShort c cores))
    else
      let s1 := (s.takeCores c.grid cores).modGrid c.grid (fun g => { g with shun := [] })
      let s2 := ((s1.drove drove).wgs.zip cores).foldl (fun t x => if (t.wg x.1).over then t else t.restoreWg c.grid x.1 x.2) s1
      .next (s2.modDrove drove (fun x => { x with phase := .restoring, placed := s.now, target := [] }))

/-! ## Ends (R17, R19, R151) -/

/-- A wave has ended: its lanes have exited and nothing is owed to it. -/
def Wave.done (w : Wave) : Bool :=
  w.launched != 0#32 && w.live == 0#32 && w.owedNothing && decide (w.counts.mtx = 0) && decide (w.counts.flk = 0) && decide (w.counts.trc = 0)

/-- The last wave of a workgroup waits for the copies that the workgroup's drover has accepted (R98, R227). -/
def State.copiesOwed (s : State) (wg index : Nat) : Bool :=
  (List.range (s.wg wg).nwaves).all (fun i => decide (i = index) || (s.wg wg).ended.contains i) &&
  (s.core (s.wg wg).core).drover.any (fun r => decide (r.wg = wg))

/-- A workgroup ends: its stores commit, its core's resources and its save area are free (R86, R44). -/
def State.endWg (s : State) (wg : Nat) : State :=
  let s1 := (s.dropTethers (s.waiterOf wg)).commit wg
  (s1.leaveCore wg).freeAreas [wg]

/-- A drove whose workgroups have all ended is over. -/
def State.endDrove (s : State) (d : Nat) : State :=
  if (s.drove d).phase = .resident && (s.drove d).wgs.all (fun g => (s.wg g).over) then s.modDrove d (fun x => { x with phase := .ended })
  else s

/-- WAVE_END: the slot is free; the last wave ends its workgroup; a barrier, a save or a restore that waited for the wave goes
on. -/
noncomputable def execWaveEnd (key : Nat) (s : State) : Out :=
  match tabGet s.waves key with
  | none => .next s
  | some w =>
    if !w.done || s.copiesOwed w.wg w.index then .next s
    else
      let wg := w.wg
      let d := (s.wg wg).drove
      let s1 := (s.padAll wg).setStatus wg w.index [(0, 2#32)]
      let s2 := (({ s1 with waves := tabErase s1.waves key } : State).dropTethers (fun k => decide (k = Waiter.wave key) || decide (k = Waiter.saved wg w.index))).modWg wg
        (fun g => { g with ended := g.ended ++ [w.index] })
      let s3 := if (s2.wg wg).over then s2.endWg wg else s2
      let s4 := ((s3.endDrove d).saveCheck d).restoreCheck d
      .next ((s4.modQuarter (keyQuarter key) (fun q => if q.cur = some key then { q with cur := none, choose := true } else q)).gbarCheck
        (s4.drove d).grid)

/-- Everything a grid did is over and performed: its droves ended, its children retired, and for each workgroup what a release at
system scope awaits (R17, R98, R107). -/
def State.gridOver (s : State) (id : Nat) : Bool :=
  let g := s.grid id
  let mine := s.wgs.filter (fun x => decide (s.wgGrid x.1 = id))
  decide (g.phase = .running) && decide (g.nextDrove = g.droves) &&
  s.droves.all (fun d => decide (d.2.grid ≠ id) || decide (d.2.phase = .ended)) &&
  s.grids.all (fun x => decide (x.2.parent ≠ some id)) &&
  mine.all (fun x => !s.releaseHeld x.2.core x.1 7)

/-- GRID_RETIRE: the signal event says OK as a release at system scope, and the grid is gone. -/
noncomputable def execGridRetire (grid : Nat) (s : State) : Out :=
  let mine := s.wgs.filter (fun x => decide (s.wgGrid x.1 = grid))
  let s1 := if decide ((s.grid grid).phase = .running) && decide ((s.grid grid).nextDrove = (s.grid grid).droves) &&
      s.droves.all (fun d => decide (d.2.grid ≠ grid) || decide (d.2.phase = .ended)) then
    (mine.map (fun x => x.2.core)).eraseDups.foldl State.performAll s else s
  if !s1.gridOver grid then .next s1
  else
    let g := s1.grid grid
    let s2 := { s1 with
      wgs := s1.wgs.filter (fun x => !mine.any (fun m => decide (m.1 = x.1)))
      droves := s1.droves.filter (fun d => decide (d.2.grid ≠ grid))
      grids := tabErase s1.grids grid }
    .next ((s2.unreserve grid).signal grid g g.status true)

end Sys2Proof.Machine
end

