-- ==== Sys2Proof/Machine/Upkeep.lean ====
section
/-! DEFINITION. Machine/Upkeep.lean: what keeps a core going by itself (R21, R24, R26, R85), the life of a context (R333,
R334), and the scheduler and policy blocks (R346, R412). -/

namespace Sys2Proof.Machine

open Sys2Proof

/-! ## Issue (R21, R24, R26) -/

/-- A group of a wave passed over for 64 issues of it. -/
def Wave.passedOver (w : Wave) : Option Addr :=
  (w.groups.find? (fun g => (lanesOf g.2).any (fun l => decide (64 ≤ (w.lane l).idle)))).map Prod.fst

/-- PATH_STARVATION: the group takes slot B at the wave's next issue. -/
def execPathStarvation (key : Nat) (s : State) : Out :=
  match (s.wave key).passedOver with
  | some pc => .next (s.modWave key (fun w => { w with starved := some (w.starved.getD pc) }))
  | none => .next s

/-- A ready wave that has not issued for 1024 clk. -/
def State.overdue (s : State) (key : Nat) : Bool := s.issuable key && decide ((s.wave key).lastClk + 1024 ≤ s.cycle.toNat)

/-- READY_WAVE_STARVATION: the oldest such wave of its quarter is picked next. -/
def execReadyWaveStarvation (key : Nat) (s : State) : Out :=
  let q := keyQuarter key
  if s.oldest ((s.readyKeys q).filter s.overdue) = some key then .next (s.modQuarter q (fun u => { u with starved := some key }))
  else .next s

/-- LANE_BURST_COUNT: the next instruction of the group is the 64th of a lane, so it is a switch point for all of its lanes. -/
def execLaneBurstCount (key : Nat) (lanes : Mask) (s : State) : Out :=
  let w := s.wave key
  if w.groups.any (fun g => decide (g.2 = lanes)) && (lanesOf lanes).any (fun l => decide (63 ≤ (w.lane l).burst)) then
    .next (s.modWave key (fun w => w.modLanes lanes (fun _ x => { x.dropLatches with burst := 64 })))
  else .next s

/-! ## Performing what is committed (R85) -/

/-- COMMITTED_STORE_PERFORM. -/
def execCommittedStorePerform (core line : Nat) (s : State) : Out := .next (s.performSpread core line).gbarChecks

/-! ## Contexts (R333, R334) -/

/-- The descriptor of a context as memory holds it. -/
def State.descriptor (s : State) (ctx : Nat) : List Byte := s.mem.getBytes (s.table 0 + 256 * ctx) 256
def descEnable (b : List Byte) : Nat := bytesAt b 88 8

/-- A VA field: aligned, in the 48-bit space. -/
def descVa (b : List Byte) (at_ align : Nat) : Bool := vaOk (bytesAt b at_ 8) align

/-- Every field in range and every reserved byte zero (Table 19.2). -/
def descOk (b : List Byte) : Bool :=
  decide (bytesAt b 0 8 % 8192 = 0) && decide (bytesAt b 0 8 < 2 ^ 46) && descVa b 8 4 && descVa b 16 65536 &&
  decide (bytesAt b 24 4 % 65536 = 0) &&
  decide (1 ≤ bytesAt b 28 4) && decide (bytesAt b 28 4 ≤ 65535) &&
  descVa b 32 64 && decide (64 ≤ bytesAt b 40 4) && decide (bytesAt b 40 4 ≤ 1048576) &&
  decide (bytesAt b 44 4 % 24576 = 0) && decide (bytesAt b 44 4 ≤ 100663296) &&
  descVa b 48 1 && descVa b 56 65536 && decide (bytesAt b 64 4 ≤ 65536) &&
  decide (16 ≤ bytesAt b 68 2) && decide (byteAt b 70 ≤ 16) && decide (byteAt b 71 ≤ 7) &&
  decide (bytesAt b 74 2 ≤ 4096) && descVa b 80 1 && zeroBytes b 76 4 && zeroBytes b 96 160

/-- The context a descriptor describes. -/
def contextOf (b : List Byte) : Context :=
  { Context.blank with
    live := true
    ptroot := bytesAt b 0 8
    trapvec := BitVec.ofNat 48 (bytesAt b 8 8)
    savepool := bytesAt b 16 8
    areasize := bytesAt b 24 4
    areas := bytesAt b 28 4
    spillbase := bytesAt b 32 8
    spillcap := bytesAt b 40 4
    commonsSize := bytesAt b 44 4
    pagertab := bytesAt b 48 8
    netbase := bytesAt b 56 8
    netcount := bytesAt b 64 4
    flockwait := bytesAt b 68 2
    flockshare := byteAt b 70
    maxprio := byteAt b 71
    homebrand := bytesAt b 72 2
    nbrands := bytesAt b 74 2
    brandtab := bytesAt b 80 8 }

/-- Bytes of commons on each memory die, and what the windows of the live contexts take of it (R334). -/
def commonsCap : Nat := 2 ^ 24
def State.commonsUsed (s : State) : Nat := s.ctxs.foldl (fun n c => n + c.2.commonsSize / 6) 0

/-- A window fits: within what is left on each die, and only with every memory die live. -/
def State.commonsFits (s : State) (size : Nat) : Bool :=
  decide (size = 0) || (decide (s.commonsUsed + size / 6 ≤ commonsCap) && s.dies.all MemDie.live)

/-- CONTEXT_ENABLE: a descriptor in order makes its context live; any other is turned off, with a record. -/
def execContextEnable (ctx : Nat) (s : State) : Out :=
  let b := s.descriptor ctx
  if !s.hubReady || 256 ≤ ctx || (s.ctx ctx).live || descEnable b ≠ 1 then .next s
  else if descOk b && s.commonsFits (bytesAt b 44 4) then .next { s with ctxs := tabSet s.ctxs ctx (contextOf b) }
  else
    .next ((s.performBytes (s.table 0 + 256 * ctx + 88) (bytesOfNat 8 0)).report
      { Report.plain 0x25 1 with ctx := ctx, addr := s.table 0 + 256 * ctx })

/-- The page-table entry of a page of `2^lo` bytes, where the tables above it are there. -/
def State.entryAt (s : State) (va lo : Nat) : List (Nat × Nat × Nat) → Nat → Option Nat
  | [], _ => none
  | (_, l, bits) :: rest, table =>
    let at_ := table + 16 * (va / 2 ^ l % 2 ^ bits)
    if l = lo then some at_
    else
      let e := s.mem.nat at_ 16
      match rest with
      | [] => none
      | (_, _, b2) :: _ => if pteValid e && !pteLeaf e && s.tableOk e (16 * 2 ^ b2) then s.entryAt va lo rest (ptePa e) else none

/-- The entry of a page of a context. -/
def State.leafSlot (s : State) (ctx va lo : Nat) : Option Nat := s.entryAt va lo levels (s.ctx ctx).ptroot

/-- Cached translations that meet a test are dropped everywhere. -/
def State.dropTlb (s : State) (p : TlbEntry → Bool) : State :=
  { s with
    cores := s.cores.map (fun c => (c.1, { c.2 with tlb := c.2.tlb.filter (fun x => !p x) }))
    sites := s.sites.map (fun x => { x with tlb := x.tlb.filter (fun y => !p y) }) }

/-- An entry maps part of a range of a context. -/
def TlbEntry.meets (x : TlbEntry) (ctx lo hi : Nat) : Bool := decide (x.ctx = ctx) && decide (x.va < hi) && decide (lo < x.va + x.size)

/-- The number of the lowest VA bit of a page of a region. -/
def Region.shift (r : Region) : Nat := if r.pagesize = 0 then 16 else if r.pagesize = 1 then 21 else 29

/-- The VA, in PCTX, of a fill slot. -/
def Region.slotVa (r : Region) (slot : Nat) : Nat := r.fill + slot * r.pageBytes

/-- A fill slot is unmapped, and no translation of it is left. -/
def State.unmapSlot (s : State) (r : Region) (slot : Nat) : State :=
  let va := r.slotVa slot
  let s1 := match s.leafSlot r.pctx va r.shift with
    | some pa => s.performBytes pa (bytesOfNat 16 0)
    | none => s
  s1.dropTlb (fun x => x.meets r.pctx va (va + r.pageBytes))

/-- The fill slots that upcalls of a context hold are unmapped. -/
def State.unmapSlots (s : State) (ctx : Nat) : State :=
  (s.ctx ctx).upcalls.foldl (fun t u =>
    match u.slot with
    | some n => t.unmapSlot u.reg n
    | none => t) s

/-- Bytes of a message of the host wait for a collapse. -/
def State.hostBusy (s : State) : Bool := s.dups.any (fun d => !d.2.waiting.isEmpty)

/-- A message of the host at its home: bytes for duplicated pages start their collapse and wait for it, in order. -/
def State.hostWrite (s : State) (cells : List (Nat × Byte)) : State :=
  let held := cells.filter (fun c => (s.dupOf c.1).isSome)
  held.foldl (fun t c =>
    match t.dupOf c.1 with
    | some i =>
      let u := t.startCollapse i
      { u with dups := tabMod u.dups i (fun d => { d with waiting := d.waiting ++ [(c.1, [c.2])] }) }
    | none => t) (s.perform (s.heeded (cells.filter (fun c => (s.dupOf c.1).isNone))))

/-- A host's atomic of 8 bytes at its home. -/
def State.hostAtomic (s : State) (pa : Nat) (op : Aop) (x y : Dword) : State :=
  let old := s.mem.nat pa 8
  let s1 := match aopNew op old x.toNat y.toNat with
    | some new => s.perform (s.heeded (cellsFrom pa (bytesOfNat 8 new)))
    | none => s
  { s1 with hostRead := bytesOfNat 8 old }

/-- The host's messages in order: all lines of one are performed before any of the next (R107; log entry 24 takes them as of
one queue pair). -/
def State.hostRun : State → List HostMsg → State
  | s, [] => { s with inbound := [] }
  | s, m :: rest =>
    if s.hostBusy then { s with inbound := m :: rest }
    else
      match m with
      | .write cells => (s.hostWrite cells).hostRun rest
      | .atomic pa op x y =>
        match s.dupOf pa with
        | some i => { s.startCollapse i with inbound := m :: rest }
        | none => (s.hostAtomic pa op x y).hostRun rest

/-- Exactly `n` bytes. -/
def padTo (n : Nat) (bs : List Byte) : List Byte := bs.take n ++ List.replicate (n - bs.length) 0#8

/-- An entry of the duplication table as software reads it: the home PA and each site's read PA; zero once collapsed (R394; log
entry 24 places the fields). -/
def State.publishDup (s : State) (i : Nat) : State :=
  let pas := match tabGet s.dups i with
    | some d => d.home :: d.reads.map (fun (r : Option Nat) => r.getD d.home)
    | none => []
  s.performBytes (s.table 10 + 32 * i) (padTo 32 (pas.foldl (fun b p => b ++ bytesOfNat 8 p) []))

/-- What the engines and the shepherd hold for a context goes with it; the host's writes to its duplicated pages are performed
at their homes. -/
def State.dropContext (s0 : State) (ctx : Nat) : State :=
  let held := (s0.dups.filter (fun d => decide (d.2.ctx = ctx))).foldl (fun l d => l ++ d.2.waiting) []
  let gone := (s0.dups.filter (fun d => decide (d.2.ctx = ctx))).map Prod.fst
  let s1 := gone.foldl State.publishDup { s0 with dups := s0.dups.filter (fun d => decide (d.2.ctx ≠ ctx)) }
  let s := (held.foldl (fun t w => t.perform (t.heeded (cellsFrom w.1 w.2))) s1).hostRun s1.inbound
  { s with
    tethers := s.tethers.filter (fun t => decide (t.ctx ≠ ctx))
    unarmed := s.unarmed.filter (fun t => decide (t.ctx ≠ ctx))
    rasters := s.rasters.filter (fun j => decide (j.ctx ≠ ctx))
    posted := s.posted.filter (fun p => decide (p.ctx ≠ ctx))
    trees := s.trees.filter (fun x => decide (x.1 ≠ ctx))
    reclaims := s.reclaims.filter (fun x => decide (x.1 ≠ ctx))
    blockedWalks := s.blockedWalks.filter (fun b => decide (b.1 ≠ ctx))
    rejected := s.rejected.filter (fun x => decide (x.2.2.ctx ≠ ctx))
    killed := s.killed.filter (fun c => decide (c ≠ ctx))
    ctxs := tabErase s.ctxs ctx }

/-- The live contexts whose ENABLE a step has left 0 are to be killed, whatever is written there later (R333). -/
def State.noteKills (s : State) : State :=
  { s with killed := s.killed ++ ((s.ctxs.filter (fun c => c.2.live && decide (descEnable (s.descriptor c.1) = 0) &&
      !s.killed.contains c.1)).map Prod.fst) }

/-- CONTEXT_KILL: every grid of the context ends as killed by system software, then nothing of it is left. -/
def execContextKill (ctx : Nat) (s : State) : Out :=
  if !(s.ctx ctx).live || (descEnable (s.descriptor ctx) ≠ 0 && !s.killed.contains ctx) then .next s
  else
    let mine := (s.grids.filter (fun g => decide (g.2.ctx = ctx))).map Prod.fst
    let s1 := mine.foldl (fun t g => if (tabGet t.grids g).isSome then t.killGrid 4 g else t) s
    .next ((((s1.abandonBuilds ctx).dropWeights ctx).unmapSlots ctx).dropTlb (fun x => decide (x.ctx = ctx)) |>.dropContext ctx)

/-! ## Blocks read on a change of GEN (R346) -/

/-- A block that is in order takes effect; any other is ignored as a whole, with a record. -/
def State.readBlock (s : State) (pa : Nat) (ok : Bool) (take skip : State → State) : State :=
  if ok then take s else (skip s).report { Report.plain 0x25 1 with addr := pa }

/-- A number within limits. -/
def inLimits (lo hi x : Nat) : Bool := decide (lo ≤ x) && decide (x ≤ hi)

/-- The scheduler block (Table 20.1). -/
def schedOk (b : List Byte) : Bool :=
  inLimits 100 1000000 (bytesAt b 0 4) && inLimits 10 1000000 (bytesAt b 4 4) && inLimits 10 10000 (bytesAt b 8 4) &&
  inLimits 0 10000 (bytesAt b 12 4) && inLimits 0 127 (byteAt b 16) && inLimits 70 100 (byteAt b 17) && inLimits 2 40 (byteAt b 18) &&
  inLimits 0 3 (byteAt b 19) && inLimits 1000 1000000 (bytesAt b 20 4) && zeroBytes b 32 32

def schedOf (b : List Byte) : SchedBlock :=
  ⟨bytesAt b 0 4, bytesAt b 4 4, bytesAt b 8 4, bytesAt b 12 4, byteAt b 16, byteAt b 17, byteAt b 18, byteAt b 19, bytesAt b 20 4,
    bytesAt b 24 8⟩

/-- SCHEDULER_BLOCK_READ. -/
def execSchedulerBlockRead (s : State) : Out :=
  let pa := s.table 3
  let b := s.mem.getBytes pa 64
  if !s.hubReady || bytesAt b 24 8 = s.sched.gen then .next s
  else
    .next (s.readBlock pa (schedOk b) (fun t => { t with sched := schedOf b })
      (fun t => { t with sched := { t.sched with gen := bytesAt b 24 8 } }))

/-- The policy block (Table 24.2). -/
def policyOk (b : List Byte) : Bool :=
  inLimits 0 65535 (bytesAt b 0 4) && inLimits 0 1 (byteAt b 4) && inLimits 0 7 (byteAt b 5) && inLimits 2 15 (byteAt b 6) &&
  inLimits 0 1 (byteAt b 7) && zeroBytes b 8 16 && zeroBytes b 32 32

def policyOf (b : List Byte) : PolicyBlock :=
  ⟨bytesAt b 0 4, byteAt b 4, byteAt b 5, byteAt b 6, byteAt b 7, bytesAt b 24 8⟩

/-- POLICY_BLOCK_READ. -/
def execPolicyBlockRead (s : State) : Out :=
  let pa := s.table 4
  let b := s.mem.getBytes pa 64
  if !s.hubReady || bytesAt b 24 8 = s.policy.gen then .next s
  else
    .next (s.readBlock pa (policyOk b) (fun t => { t with policy := policyOf b })
      (fun t => { t with policy := { t.policy with gen := bytesAt b 24 8 } }))

end Sys2Proof.Machine
end

