-- ==== Sys2Proof/Machine/Pager.lean ====
section
/-! DEFINITION. Machine/Pager.lean: pager regions and upcalls (R384 to R387), and the replay or refusal of side-logged writes
(R389, R390). -/

namespace Sys2Proof.Machine

open Sys2Proof

/-! ## The region table (R384) -/

/-- An entry of the table. -/
def regionOfBytes (b : List Byte) : Region :=
  ⟨bytesAt b 0 8, bytesAt b 8 8, byteAt b 16, byteAt b 17, byteAt b 18, byteAt b 19, bytesAt b 24 8, bytesAt b 32 8, bytesAt b 40 8,
    false⟩

def Region.fmt (r : Region) : Nat := nbits r.attr 2 0
def Region.grp (r : Region) : Nat := nbits r.attr 4 3
def Region.grouped (r : Region) : Bool := r.fmt == 6 || r.fmt == 7

/-- An entry that keeps the rules of Table 22.4. -/
def regionOk (b : List Byte) : Bool :=
  let r := regionOfBytes b
  decide (r.lo % 65536 = 0) && decide (r.lo < r.hi) && decide (r.hi ≤ 2 ^ 48) && decide (r.pagesize ≤ 2) && decide (r.attr < 128) &&
  inLimits 1 64 r.slots && zeroBytes b 20 4 && zeroBytes b 48 16 && decide (r.scalebase % 65536 = 0) && decide (r.scalebase < 2 ^ 48) &&
  (if r.grouped then r.grp != 0 else r.grp == 0 && r.scalebase == 0) &&
  vaOk r.upring 64 && decide (r.fill % r.pageBytes = 0) && decide (r.fill + r.slots * r.pageBytes ≤ 2 ^ 48)

/-- Regions that share no address. -/
def apartRegions : List Region → Bool
  | [] => true
  | r :: rest => rest.all (fun q => decide (q.hi ≤ r.lo) || decide (r.hi ≤ q.lo)) && apartRegions rest

/-- The entries of the table, 64 bytes each. -/
def entriesOf (b : List Byte) (n : Nat) : List (List Byte) := (List.range n).map (fun i => (b.drop (64 * i)).take 64)

/-- PAGER_TABLE_READ. -/
def execPagerTableRead (ctx : Nat) (s : State) : Out :=
  let c := s.ctx ctx
  let h := (s.hubRead ctx c.pagertab 64).getD []
  let gen := bytesAt h 0 8
  let n := bytesAt h 8 4
  if !c.live || h.isEmpty || gen = c.pagerGen then .next s
  else
    let s := (s.hubSeen ctx c.pagertab 64 .read).hubSeen ctx (c.pagertab + 64) (if n ≤ 1024 then 64 * n else 0) .read
    let bad := (s.modCtx ctx (fun c => { c with pagerGen := gen })).report { Report.plain 0x22 1 with ctx := ctx, addr := c.pagertab }
    if 1024 < n || !zeroBytes h 12 52 then .next bad
    else
      match s.hubRead ctx (c.pagertab + 64) (64 * n) with
      | none => .next s
      | some b =>
        let es := entriesOf b n
        let rs := es.map regionOfBytes
        if es.all regionOk && apartRegions rs then .next (s.modCtx ctx (fun c => { c with pagerGen := gen, regions := rs }))
        else .next bad

/-! ## Upcalls (R385, R386) -/

/-- An upcall ring's header (Table 22.8). -/
structure UpRing where
  ring : Nat
  cap : Nat
  tail : Nat
  head : Nat
  deriving DecidableEq, Repr

/-- The header, where PCTX maps it. -/
def State.upRing (s : State) (r : Region) : Option UpRing :=
  (s.hubRead r.pctx r.upring 64).map (fun h => ⟨bytesAt h 0 8, bytesAt h 8 4, bytesAt h 12 4, bytesAt h 16 4⟩)

def UpRing.pending (u : UpRing) : Nat := (u.tail + 2 ^ 32 - u.head) % 2 ^ 32
def UpRing.recordVa (u : UpRing) : Nat := u.ring + 64 * (u.tail % u.cap)

/-- A run of a context's frames that makes one page, aligned as its leaf must be (log entry 22). -/
def Context.takeFrames (c : Context) (r : Region) : Option (List Nat) :=
  let n := r.pageBytes / 65536
  let run := fun (f : Nat) => (List.range n).map (fun i => f + 65536 * i)
  (c.frames.find? (fun f => decide (f % r.pageBytes = 0) && (run f).all c.frames.contains)).map run

/-- A fill slot no outstanding upcall of the region holds. -/
def Context.freeFill (c : Context) (region : Nat) (r : Region) : Option Nat :=
  (List.range r.slots).find? (fun i => !c.upcalls.any (fun u => decide (u.region = region) && decide (u.slot = some i)))

/-- Frames read as zero, and what was lost in them is no longer (R32, R409). -/
def State.zeroFrames (s : State) (frames : List Nat) : State :=
  let inside := fun (a : Nat) => frames.contains (a / 65536 * 65536)
  { s with
    mem := s.mem.filter (fun c => !inside c.1)
    poisoned := s.poisoned.filter (fun l => !inside (l * 128)) }

/-- A leaf: VALID, LEAF, WRITE and EXEC, the format fields and the page's base (Table 22.2). -/
def leafWord (write exec : Bool) (fmt grp scalev slice pa : Nat) : Nat :=
  1 + write.toNat * 2 + exec.toNat * 4 + 8 + fmt * 2 ^ 8 + grp * 2 ^ 11 + scalev * 2 ^ 32 + pa * 2 ^ 64 + slice * 2 ^ 112

/-- The upcall record (Table 22.5). -/
def Upcall.bytes (u : Upcall) (ctx slot time : Nat) : List Byte :=
  bytesOfNat 8 u.page ++ bytesOfNat 1 ctx ++ bytesOfNat 1 u.kind ++ bytesOfNat 1 slot ++ bytesOfNat 1 u.region ++ bytesOfNat 4 0 ++
  bytesOfNat 8 time ++ bytesOfNat 40 0

def State.setUpcall (s : State) (ctx i : Nat) (f : Upcall → Upcall) : State :=
  s.modCtx ctx (fun c => { c with upcalls := modAt c.upcalls i f })

/-- A HEAD that no ring can have stops the region's upcalls. -/
def State.stopRegion (s : State) (ctx i : Nat) : State :=
  (s.modCtx ctx (fun c => { c with regions := modAt c.regions i (fun r => { r with stopped := true }) })).report
    { Report.plain 0x22 1 with ctx := ctx, addr := ((s.ctx ctx).regions.getD i ⟨0, 0, 0, 0, 0, 0, 0, 0, 0, false⟩).upring }

/-- The region of an upcall is stopped. -/
def Context.halted (c : Context) (u : Upcall) : Bool := (c.regions[u.region]?).any Region.stopped

/-- An upcall takes its frames and its slot and its record is appended; while one of them is lacking it waits. -/
def State.makeUpcall (s : State) (ctx i : Nat) (u : Upcall) : State :=
  let c := s.ctx ctx
  let r := u.reg
  match s.upRing r, c.takeFrames r, c.freeFill u.region r with
  | some h, some fs, some slot =>
    if h.cap < h.pending then s.stopRegion ctx u.region
    else
      match s.leafSlot r.pctx (r.slotVa slot) r.shift,
        s.hubPas r.pctx h.recordVa 64 (.write true), s.hubPas r.pctx (r.upring + 12) 4 (.write true) with
      | some pa, some _, some _ =>
        if h.pending = h.cap then s
        else
          let s1 := ((s.modCtx ctx (fun c => { c with frames := c.frames.filter (fun f => !fs.contains f) })).zeroFrames fs).performBytes pa
            (bytesOfNat 16 (leafWord true false 0 0 0 0 (fs.headD 0)))
          let s2 := (s1.setUpcall ctx i (fun u => { u with slot := some slot, frames := fs, record := h.recordVa })).hubSeen r.pctx r.upring 64 .read
          (s2.hubWrite r.pctx h.recordVa (u.bytes ctx slot s.now)).hubWrite r.pctx (r.upring + 12) (bytesOfNat 4 ((h.tail + 1) % 2 ^ 32))
      | _, _, _ => s
  | _, _, _ => s

/-- UPCALL. -/
def execUpcall (ctx va kind : Nat) (s : State) : Out :=
  let c := s.ctx ctx
  match c.upcalls.findIdx? (fun u => u.slot.isNone && decide (u.kind = kind) && decide (u.page ≤ va) && decide (va < u.page + u.reg.pageBytes)) with
  | none => .next s
  | some i =>
    match c.upcalls[i]? with
    | some u => .next (if c.halted u then s else s.makeUpcall ctx i u)
    | none => .next s

/-- PAGER_WAIT_TIMEOUT: the wait for a frame, a slot or ring room passes 1 ms. -/
def execPagerWaitTimeout (ctx index : Nat) (s : State) : Out :=
  match (s.ctx ctx).upcalls[index]? with
  | none => .next s
  | some u =>
    .next (if u.slot.isNone && !u.late && decide (u.since + 1000000 < s.now) then
      (s.setUpcall ctx index (fun u => { u with late := true })).report { Report.plain 0x22 1 with ctx := ctx, addr := u.page }
    else s)

/-! ## MAP (R387) -/

/-- REPLY of an upcall's record. -/
def State.replyOf (s : State) (u : Upcall) : Nat := if u.slot.isNone then 0 else s.hubNat u.reg.pctx (u.record + 12) 4

/-- Nothing stored through the fill slot is still on its way to the frames. -/
def State.framesQuiet (s : State) (frames : List Nat) : Bool :=
  let inside := fun (a : Nat) => frames.contains (a / 65536 * 65536)
  s.wgs.all (fun g => g.2.sbuf.all (fun c => !inside c.1)) && s.cores.all (fun c => c.2.committed.all (fun l => !inside (l.line * 128)))

/-- A wave waits for a page of a range of a context. -/
def Wait.within (w : Wait) (ctx lo hi : Nat) : Bool :=
  match w with
  | .page c p _ _ => decide (c = ctx) && decide (lo ≤ p * 65536) && decide (p * 65536 < hi)
  | .none | .waitu .. | .fwait .. | .waitc .. | .gbar | .sleept _ | .cairnw _ | .fdiv => false

/-- Waves that wait for a page of a range walk again. -/
def State.wakePage (s : State) (ctx lo hi : Nat) : State :=
  { s with waves := s.waves.map (fun x => (x.1, if x.2.wait.within ctx lo hi then { x.2 with wait := .none } else x.2)) }

/-- The shepherd's held writes are tried again. -/
def State.retryPosts (s : State) : State :=
  s.posted.foldl (fun t p => t.hubPost p.ctx p.parts) { s with posted := [] }

/-- Candidates whose frame has been remapped are void (R392). -/
def State.voidFrames (s : State) (frames : List Nat) : State :=
  { s with dies := s.dies.map (fun d =>
      { d with cands := d.cands.map (fun c => if frames.contains (c.1 * 65536) then (c.1, c.2.1, true) else c) }) }

/-- The leaf of a page as its region describes it. -/
def Upcall.leaf (u : Upcall) : Nat :=
  let r := u.reg
  leafWord (r.attr.testBit 5) (r.attr.testBit 6) r.fmt r.grp (if r.grouped then r.scalebase / 65536 else 0)
    (if r.grouped then (u.page - r.lo) / r.pageBytes else 0) (u.frames.headD 0)

/-- PAGER_MAP: the slot is unmapped, the leaf written, and every waiting access walks again. -/
def execPagerMap (ctx index : Nat) (s : State) : Out :=
  match (s.ctx ctx).upcalls[index]? with
  | none => .next s
  | some u =>
    match s.leafSlot ctx u.page u.reg.shift with
    | none => .next s
    | some pa =>
      if s.replyOf u ≠ 1 || (s.ctx ctx).halted u || !s.framesQuiet u.frames then .next s
      else
        let s1 := ((s.hubSeen u.reg.pctx (u.record + 12) 4 .read).unmapSlot u.reg (u.slot.getD 0)).performBytes pa (bytesOfNat 16 u.leaf)
        let s2 := (s1.modCtx ctx (fun c => { c with upcalls := c.upcalls.eraseIdx index })).voidFrames u.frames
        .next ((s2.wakePage ctx u.page (u.page + u.reg.pageBytes)).retryPosts)

/-! ## The side log (R389, R390) -/

/-- The lanes' writes of an entry, in the order of their lanes, as cells at a physical line. -/
def SideEntry.cells (e : SideEntry) (pa : Nat) : List (Nat × Byte) :=
  e.writes.foldl (fun cs w => cs ++ cellsFrom (pa + (w.1 - e.va)) w.2) []

/-- A reduction performed at its home lane by lane (R214). -/
def State.replayRed (s : State) (op : Aop) (core pa : Nat) (e : SideEntry) : State :=
  e.writes.foldl (fun t w =>
    let a := pa + (w.1 - e.va)
    match aopNew op (t.mem.nat a (aopBytes op)) (natOfBytes w.2) 0 with
    | some new => t.performFrom core (cellsFrom a (bytesOfNat (aopBytes op) new))
    | none => t) s

/-- An entry goes from the log, and instructions held for room try again. -/
def State.dropEntry (s : State) (core index : Nat) : State :=
  (s.modCore core (fun c => { c with sideLog := c.sideLog.eraseIdx index })).freeLog core

/-- The wave that takes what befell a workgroup's write: the one that issued it, else the lowest-numbered live wave; saved
waves keep it until they are restored. -/
def State.refuseEntry (s : State) (e : SideEntry) : State :=
  let g := s.wg e.wg
  let fault := fun (t : State) (key : Nat) =>
    t.fallDue key causeAccess (256 + e.recq) e.lanes e.iaddr ((e.writes.head?.map Prod.fst).getD e.va) false
  match (s.waves.find? (fun x => decide (x.2.wg = e.wg) && decide (x.2.index = e.wave) && decide (x.2.live ≠ 0#32))).map Prod.fst with
  | some key => fault s key
  | none =>
    match s.lowestWave e.wg with
    | some key => fault s key
    | none =>
      match (if g.ended.contains e.wave then (List.range g.nwaves).find? (fun i => !g.ended.contains i) else some e.wave) with
      | some i =>
        s.modWg e.wg (fun x => { x with due := x.due ++ [(i,
          ⟨causeAccess, word32 (256 + e.recq), e.lanes, e.iaddr, 0#48, BitVec.ofNat 48 ((e.writes.head?.map Prod.fst).getD e.va),
            false, false, false, false⟩)] })
      | none =>
        (s.report { Report.plain 0x23 2 with ctx := e.ctx, grid := s.wgGrid e.wg, addr := e.va }).killGrid 1 (s.wgGrid e.wg)

/-- The workgroup commits; its entry is performed at device scope. A line of a duplicated page waits for its collapse, and a
reduction of lost data affects the drove. -/
def State.replay (s : State) (core index : Nat) (e : SideEntry) (t : Trans) : State :=
  let pa := t.pa
  match s.dupOf pa with
  | some i => s.startCollapse i
  | none =>
    let s1 := (((s.commit e.wg).performLine core (lineOf pa)).touchAll core true [t]).touchRo e.wg [lineOf pa]
    match e.red with
    | none => (s1.performFrom core (e.cells pa)).dropEntry core index
    | some op =>
      if s1.lost (lineOf pa) then (s1.dropEntry core index).affect e.wg 0x07 pa false none
      else (s1.replayRed op core pa e).dropEntry core index

/-- An earlier entry of the same page stands before it. -/
def Core.entryBehind (c : Core) (index : Nat) (e : SideEntry) : Bool :=
  (c.sideLog.take index).any (fun x => decide (x.ctx = e.ctx) && decide (pageOf x.va = pageOf e.va))

/-- SIDE_LOG_REPLAY: a command that blocks the page waits for it (R393), so the block does not hold it. -/
def execSideLogReplay (core index : Nat) (s : State) : Out :=
  let c := s.core core
  match c.sideLog[index]? with
  | none => .next s
  | some e =>
    if c.entryBehind index e then .next s
    else
      match ({ s with blockedWalks := [] } : State).translate core e.ctx e.va (.write e.xdata) with
      | .ok pa leaf page => .next ((s.replay core index e (.ok pa leaf page)).gbarChecks)
      | .absent => .next (if s.servable e.ctx e.va then s.askPage e.ctx e.va 1 else (s.dropEntry core index).refuseEntry e)
      | .denied => .next ((s.dropEntry core index).refuseEntry e)
      | .malformed _ => .next (((s.dropEntry core index).malformed e.ctx (s.wgGrid e.wg) e.va).refuseEntry e)

/-! ## REFUSE (R387) -/

/-- No page is refused in this step. -/
def State.unrefused (s : State) : State :=
  { s with ctxs := s.ctxs.map (fun c => (c.1, { c.2 with upcalls := c.2.upcalls.map (fun u => { u with refused := false }) })) }

/-- An engine that could not go on without the page is told that it is refused; one that could is left alone. -/
def State.failStuck (s : State) (f : State → Out) : State :=
  match f s.unrefused with
  | .next u =>
    if u = s.unrefused then
      match f s with
      | .next v => v
      | .fault _ | .refused _ => s
    else s
  | .fault _ | .refused _ => s

/-- The waits of the engines and of the shepherd. -/
noncomputable def State.engineWaits (s : State) : List (State → Out) :=
  s.waves.foldl (fun l x => l ++ (x.2.owed.filter (fun o => decide (o.kind = .launch))).foldl
      (fun m o => m ++ List.replicate 32 (execLaunchStatus x.1 o.id)) []) [] ++
  (List.range 1024).map State.refuseRecord ++ (s.grids.map (fun g => execWaitEventMet g.1)) ++
  s.cores.foldl (fun l c => l ++ c.2.drover.map (fun r => execCopyRequestFail c.1 r.id) ++
    c.2.array.queue.foldl (fun m o => m ++ [execArrayFillComplete c.1 o.id, execMmaRowComplete c.1 o.id, execArrayOpComplete c.1 o.id]) [] ++
    (List.range c.2.tiles.length).map (execFlockTileComplete c.1)) [] ++
  s.rays.map (fun r => execRayEnd r.id) ++
  s.builds.foldl (fun l j => l ++ [execBuildStart j.id, execBuildFail j.id 3]) [] ++
  s.rasters.foldl (fun l j => l ++ [execRasterStart j.id, execRasterSmallqResume j.id] ++
    (List.range 65536).foldl (fun m t => m ++ [execRasterTileFlush j.id t, execRasterTileFinish j.id t]) []) [] ++
  s.streams.map (fun x => execPresentImageRead x.1)

/-- A wave that waits for a refused page takes ACCESS at the instruction it holds. -/
def State.refuseWave (s : State) (key : Nat) (t : TrapReq) : State :=
  let w := s.wave key
  if w.handler then s.killTrapped key t
  else
    let s1 := s.modWave key (fun w => { w with wait := .none })
    if w.owedNothing then s1.enterTrap key t else s1.modWave key (fun w => { w with pend := some t })

/-- Every wave that waits for a page of a range. -/
def State.refuseWaves (s : State) (ctx lo hi : Nat) : State :=
  s.waves.foldl (fun u x =>
    match (u.wave x.1).wait with
    | .page c p k t => if Wait.within (.page c p k t) ctx lo hi then u.refuseWave x.1 t else u
    | .none | .waitu .. | .fwait .. | .waitc .. | .gbar | .sleept _ | .cairnw _ | .fdiv => u) s

/-- Every side-logged write of a range is discarded, with its consequence. -/
def State.refuseLogs (s : State) (ctx lo hi : Nat) : State :=
  let hit := fun (e : SideEntry) => decide (e.ctx = ctx) && decide (lo ≤ e.va) && decide (e.va < hi)
  let es := s.cores.foldl (fun l c => l ++ c.2.sideLog.filter hit) []
  let s1 := { s with cores := s.cores.map (fun c => (c.1, { c.2 with sideLog := c.2.sideLog.filter (fun e => !hit e) })) }
  es.foldl (fun t e => if (tabGet t.wgs e.wg).isSome then t.refuseEntry e else t) ((s.cores.map Prod.fst).foldl State.freeLog s1)

/-- PAGER_REFUSE: a REPLY other than 0 and MAP, or a region that is stopped. -/
noncomputable def execPagerRefuse (ctx index : Nat) (s : State) : Out :=
  match (s.ctx ctx).upcalls[index]? with
  | none => .next s
  | some u =>
    if !(s.ctx ctx).halted u && (s.replyOf u = 0 || s.replyOf u = 1) then .next s
    else
      let hi := u.page + u.reg.pageBytes
      let seen := if u.slot.isNone || (s.ctx ctx).halted u then s else s.hubSeen u.reg.pctx (u.record + 12) 4 .read
      let s1 := seen.setUpcall ctx index (fun u => { u with refused := true })
      let s2 := (s1.engineWaits.foldl State.failStuck s1).retryPosts
      let s3 := (s2.refuseWaves ctx u.page hi).refuseLogs ctx u.page hi
      let s4 := match u.slot with
        | some n => s3.unmapSlot u.reg n
        | none => s3
      .next (s4.modCtx ctx (fun c => { c with
        frames := c.frames ++ u.frames
        upcalls := c.upcalls.filter (fun x => !x.refused) }))

end Sys2Proof.Machine
end

