-- ==== Sys2Proof/Machine/Maint.lean ====
section
/-! DEFINITION. Machine/Maint.lean: the maintenance ring and its commands (R381 to R383, R393 to R395, R419, R446), the
harvest block (R399), and the hot-page lists (R392). -/

namespace Sys2Proof.Machine

open Sys2Proof

/-! ## The ring (R381) -/

/-- The ring's header, laid out as a host queue's (Table 19.5). -/
def State.maintRing (s : State) : HostQueue :=
  let pa := s.table 2
  let f := fun i n => s.mem.nat (pa + i) n
  ⟨pa, f 0 8, f 8 4, f 12 4, f 16 4, 0, 1⟩

/-- The command at HEAD, where one waits: its place and its bytes. -/
def State.nextCommand (s : State) : Option (Nat × List Byte) :=
  let h := s.maintRing
  if !s.hubReady || h.cap < (h.tail + 2 ^ 32 - h.head) % 2 ^ 32 || !capOk h.cap || !h.waiting then none
  else
    let pa := h.ring + 64 * (h.head % h.cap)
    some (pa, s.mem.getBytes pa 64)

/-- The command at HEAD is taken. -/
def State.takeCommand (s : State) : State :=
  let h := s.maintRing
  s.performBytes (h.pa + 16) (bytesOfNat 4 ((h.head + 1) % 2 ^ 32))

/-- A command ends: STATUS as a release at system scope. -/
def State.endCommand (s : State) (pa status : Nat) : State := s.performBytes (pa + 4) (bytesOfNat 4 status)

/-- The fields of a command (Table 22.3). -/
def cmdOp (b : List Byte) : Nat := byteAt b 0
def cmdCtx (b : List Byte) : Nat := byteAt b 1
def cmdVa (b : List Byte) : Nat := bytesAt b 8 8
def cmdCount (b : List Byte) : Nat := bytesAt b 16 4
def cmdTarget (b : List Byte) : Nat := bytesAt b 20 4
def cmdPa (b : List Byte) (i : Nat) : Nat := bytesAt b (24 + 8 * i) 8
def cmdParam (b : List Byte) : Nat := bytesAt b 48 8

/-- STATUS codes. -/
def statusDone : Nat := 1
def statusBusy : Nat := 2
def statusRaced : Nat := 3
def statusInvalid : Nat := 4

/-- Reserved bytes are zero. -/
def cmdClean (b : List Byte) : Bool := zeroBytes b 2 2 && zeroBytes b 56 8

/-- The command at HEAD is carried out where it is this one; a reserved OP ends INVALID. `run` gets the state before the
command is taken, its place and its bytes; it answers none while it must wait to be taken. -/
def State.command (s : State) (op : Nat) (ok : List Byte → Bool) (run : State → Nat → List Byte → State) : Out :=
  match s.nextCommand with
  | none => .next s
  | some (pa, b) =>
    if cmdOp b = 0 || 8 < cmdOp b then .next (s.takeCommand.endCommand pa statusInvalid)
    else if cmdOp b ≠ op then .next s
    else if !ok b then .next (s.takeCommand.endCommand pa statusInvalid)
    else .next (run s pa b)

/-- A page the command needs is not there: it is asked for, or the command ends INVALID. -/
def State.commandPage (s : State) (ctx va n : Nat) (need : Need) (pa : Nat) (go : State → State) : State :=
  match s.reachHub ctx va n need with
  | .ok _ => go (s.takeCommand.hubSeen ctx va n need)
  | .error (.wait v) => s.askPage ctx v (if need.writes then 1 else 0)
  | .error (.fail x) => (s.takeCommand.stopped ctx (.fail x)).endCommand pa statusInvalid
  | .error (.malformed v) => (s.takeCommand.stopped ctx (.malformed v)).endCommand pa statusInvalid

/-! ## INVAL (R382) -/

/-- The translations of a range that any core or die holds. -/
def State.cachedIn (s : State) (ctx lo hi : Nat) : List TlbEntry :=
  ((s.cores.map (fun c => c.2.tlb)).flatten ++ (s.sites.map Site.tlb).flatten).filter (fun x => x.meets ctx lo hi)

/-- A physical address of a list of ranges. -/
def inRanges (rs : List (Nat × Nat)) (a : Nat) : Bool := rs.any (fun r => decide (r.1 ≤ a) && decide (a < r.1 + r.2))

/-- Every store a context's workgroups have made to some ranges is performed. -/
def State.storesDone (s : State) (ctx : Nat) (rs : List (Nat × Nat)) : Bool :=
  s.wgs.all (fun g => decide (s.wgCtx g.1 ≠ ctx) || g.2.sbuf.all (fun c => !inRanges rs c.1)) &&
  s.cores.all (fun c => c.2.committed.all (fun l => !inRanges rs (l.line * 128)))

/-- A command under way: the translations of its range are dropped, and the stores they translated are waited for. -/
def State.startCommand (s : State) (pa : Nat) (b : List Byte) (lo hi leaf leafPa : Nat) : State :=
  let ctx := cmdCtx b
  let ranges := ((s.cachedIn ctx lo hi).map (fun x => (ptePa x.leaf, x.size))).eraseDups
  let n := s.maintRing.head
  let s1 := s.takeCommand.dropTlb (fun x => x.meets ctx lo hi)
  { s1 with maint := s1.maint ++ [⟨n, pa, b, s.now, leaf, leafPa, ranges, none⟩] }

/-- INVAL. -/
def execInval (s : State) : Out :=
  s.command 1 (fun b => cmdClean b && (s.ctx (cmdCtx b)).live && decide (cmdVa b % 65536 = 0) && decide (1 ≤ cmdCount b))
    (fun s pa b => s.startCommand pa b (cmdVa b) (cmdVa b + 65536 * cmdCount b) 0 0)

/-! ## Blocking a page (R393) -/

/-- The leaf of a present 64 KiB page, and where it lies. -/
def State.pageLeaf (s : State) (ctx va : Nat) : Option TlbEntry :=
  match s.walk ctx va with
  | .leaf x => if x.size = 65536 then some x else none
  | .absent | .bad _ => none

/-- A frame of 64 KiB in populated memory of some dies. -/
def State.frameOk (s : State) (pa : Nat) (on : Nat → Bool) : Bool :=
  decide (pa % 65536 = 0) && s.populated pa && !hostAperture pa && on (homeDie pa)

/-- A command that moves or copies a page blocks its walks first; one whose page another command blocks waits. -/
def State.blockPage (s : State) (pa : Nat) (b : List Byte) (x : TlbEntry) : State :=
  let ctx := cmdCtx b
  if s.walkBlocked ctx (cmdVa b) then s
  else
    let s1 := s.startCommand pa b (cmdVa b) (cmdVa b + 65536) x.leaf x.leafPa
    { s1 with
      blockedWalks := s1.blockedWalks ++ [(ctx, cmdVa b / 65536)]
      maint := s1.maint.map (fun m => if m.pa = pa then { m with ranges := [(ptePa x.leaf, 65536)] } else m) }

/-- The walks of a command's page go on. -/
def State.unblockPage (s : State) (b : List Byte) : State :=
  let s1 := { s with blockedWalks := s.blockedWalks.filter (fun w => decide (w ≠ (cmdCtx b, cmdVa b / 65536))) }
  (s1.wakePage (cmdCtx b) (cmdVa b) (cmdVa b + 65536)).retryPosts

/-- A command under way is over. -/
def State.finish (s : State) (m : Maint) (status : Nat) : State :=
  ({ s with maint := s.maint.filter (fun x => decide (x.index ≠ m.index)) } : State).endCommand m.pa status

/-- A page command that has waited CLAIMWAIT for stores ends BUSY, and nothing has changed. -/
def State.busyCommand (s : State) (op : Nat) : Option State :=
  (s.maint.find? (fun m => decide (cmdOp m.bytes = op) && !s.storesDone (cmdCtx m.bytes) m.ranges &&
    decide (m.since + s.sched.claimwait * 1000 ≤ s.now))).map (fun m => (s.unblockPage m.bytes).finish m statusBusy)

/-- Fields of MIGRATE (R393). -/
def State.migrateOk (s : State) (b : List Byte) : Bool :=
  cmdClean b && (s.ctx (cmdCtx b)).live && decide (cmdVa b % 65536 = 0) &&
  s.frameOk (cmdPa b 0) (fun d => decide (d = cmdTarget b)) &&
  (s.pageLeaf (cmdCtx b) (cmdVa b)).any (fun x => !pteDup x.leaf)

/-- MIGRATE: BUSY for one that has waited too long, else the next command. -/
def execMigrate (s : State) : Out :=
  match s.busyCommand 2 with
  | some t => .next t
  | none =>
    s.command 2 s.migrateOk (fun s pa b =>
      match s.pageLeaf (cmdCtx b) (cmdVa b) with
      | some x => s.blockPage pa b x
      | none => s)

/-- Fields of DUP (R394). -/
def dupEntries : Nat := 4096
def dupSites (b : List Byte) : List Nat := (List.range 3).filter (fun i => (cmdTarget b).testBit i)
def State.dupOk (s : State) (b : List Byte) : Bool :=
  cmdClean b && (s.ctx (cmdCtx b)).live && decide (cmdVa b % 65536 = 0) && decide (cmdTarget b < 8) &&
  decide (s.dups.length < dupEntries) &&
  (dupSites b).all (fun i => (s.sites.getD i (Site.init false)).live && s.frameOk (cmdPa b i) (fun d => decide (d / 2 = i))) &&
  (s.pageLeaf (cmdCtx b) (cmdVa b)).any (fun x => !pteDup x.leaf)

/-- DUP. -/
def execDup (s : State) : Out :=
  match s.busyCommand 3 with
  | some t => .next t
  | none =>
    s.command 3 s.dupOk (fun s pa b =>
      match s.pageLeaf (cmdCtx b) (cmdVa b) with
      | some x => s.blockPage pa b x
      | none => s)

/-! ## Finishing (R382, R393, R394) -/

/-- The cells of a frame laid into another, in place of what it held. -/
def Memory.copyFrame (m : Memory) (src dst : Nat) : Memory :=
  Memory.setCells (m.filter (fun c => decide (c.1 / 65536 * 65536 ≠ dst)))
    ((m.filter (fun c => decide (c.1 / 65536 * 65536 = src))).map (fun c => (c.1 - src + dst, c.2)))

/-- A frame is copied; lost lines are lost in the copy too. -/
def State.copyFrame (s : State) (src dst : Nat) : State :=
  let inside := fun (f l : Nat) => decide (l * 128 / 65536 * 65536 = f)
  { s with
    mem := s.mem.copyFrame src dst
    old := s.old.filter (fun o => !inside dst o.line)
    poisoned := s.poisoned.filter (fun l => !inside dst l) ++ (s.poisoned.filter (inside src)).map (fun l => l - src / 128 + dst / 128) }

/-- Tethers on a frame, armed or yet to be, move to its new home. -/
def State.moveTethers (s : State) (src dst : Nat) : State :=
  let go := fun (t : Tether) => if t.pa / 65536 * 65536 = src then { t with pa := t.pa - src + dst } else t
  let s1 := { s with tethers := s.tethers.map go, unarmed := s.unarmed.map go }
  (s1.ctxs.map Prod.fst).foldl State.syncSpill s1

/-- Every core drops the path-cache lines of a frame. -/
def State.dropPath (s : State) (frame : Nat) (p : Nat → Bool) : State :=
  { s with cores := s.cores.map (fun c => (c.1,
      if p c.1 then { c.2 with path := c.2.path.filter (fun l => decide (l.1 * 128 / 65536 * 65536 ≠ frame)) } else c.2)) }

/-- No side-log entry of a page is left. -/
def State.noEntries (s : State) (ctx va : Nat) : Bool :=
  s.cores.all (fun c => c.2.sideLog.all (fun e => !(decide (e.ctx = ctx) && decide (pageOf e.va = pageOf va))))

/-- MIGRATE, steps 4 to 6. -/
def State.migrated (s : State) (m : Maint) : State :=
  let b := m.bytes
  let old := ptePa m.leaf
  let new := cmdPa b 0
  if s.mem.nat m.leafPa 16 ≠ m.leaf then (s.unblockPage b).finish m statusRaced
  else
    let s1 := ((s.copyFrame old new).moveTethers old new).dropPath old (fun _ => true)
    let s2 := (s1.performBytes m.leafPa (bytesOfNat 16 (m.leaf - old * 2 ^ 64 + new * 2 ^ 64))).voidFrames [old, new]
    let s3 := s2.modCtx (cmdCtx b) (fun c => { c with frames := c.frames ++ [old] })
    (s3.unblockPage b).finish m statusDone

/-- The first free entry of the duplication table. -/
def State.freeDup (s : State) : Nat := ((List.range (s.dups.length + 1)).find? (fun i => (tabGet s.dups i).isNone)).getD 0

/-- DUP, once the page is quiet: the replicas, the entry, the leaf. -/
def State.duplicated (s : State) (m : Maint) : State :=
  let b := m.bytes
  let home := ptePa m.leaf
  let ix := s.freeDup
  let s1 := (dupSites b).foldl (fun t i => t.copyFrame home (cmdPa b i)) s
  let entry : DupEntry := ⟨cmdCtx b, cmdVa b, home, (List.range 3).map (fun i => if (dupSites b).contains i then some (cmdPa b i) else none), none, []⟩
  let leaf := s.mem.nat m.leafPa 16
  let s2 := (({ s1 with dups := tabSet s1.dups ix entry } : State).publishDup ix).performBytes m.leafPa (bytesOfNat 16 ((leaf ||| 32) + ix * 2 ^ 16))
  ((s2.voidFrames [home]).unblockPage b).finish m statusDone

/-- INVAL_COMPLETE: the stores of the invalidated translations are performed, and for a page command the page's side-logged
writes are replayed; the command goes on to its end. -/
def execInvalComplete (index : Nat) (s : State) : Out :=
  match s.maint.find? (fun m => decide (m.index = index)) with
  | none => .next s
  | some m =>
    let ctx := cmdCtx m.bytes
    if m.dup.isSome || !s.storesDone ctx m.ranges then .next s
    else if cmdOp m.bytes = 1 then .next (s.finish m statusDone)
    else if !s.noEntries ctx (cmdVa m.bytes) then .next s
    else .next (if cmdOp m.bytes = 2 then s.migrated m else s.duplicated m)

/-! ## UNDUP and the collapse (R395) -/

/-- The sites that hold a replica. -/
def DupEntry.holders (d : DupEntry) : List Nat := (List.range 3).filter (fun i => (d.reads.getD i none).isSome)

/-- Every holder has acknowledged: the leaf is an ordinary one again, the replicas return to the pool, and the writes that
waited are performed in order. -/
def State.collapsed (s : State) (i : Nat) (d : DupEntry) : State :=
  let s1 := match s.pageLeaf d.ctx d.va with
    | some x =>
      if pteDup x.leaf && decide (pteDupix x.leaf = i) then
        s.performBytes x.leafPa (bytesOfNat 16 (x.leaf - 32 - i * 2 ^ 16))
      else s
    | none => s
  let s2 := ((({ s1 with dups := tabErase s1.dups i } : State).publishDup i).modCtx d.ctx (fun c => { c with frames := c.frames ++ d.reads.filterMap id })).voidFrames [d.home]
  let s3 := (d.waiting.foldl (fun t w => t.perform (t.heeded (cellsFrom w.1 w.2))) s2).hostRun s2.inbound
  ((s3.maint.filter (fun m => decide (m.dup = some i))).foldl (fun t m => t.finish m statusDone) s3).gbarChecks

/-- A collapse with every acknowledgement it needs. -/
def State.collapseCheck (s : State) (i : Nat) : State :=
  match tabGet s.dups i with
  | none => s
  | some d =>
    match d.acks with
    | none => s
    | some l => if d.holders.all l.contains then s.collapsed i d else s

/-- A die drops its translations of the page and every line of its replica. -/
def State.dropReplica (s : State) (i site : Nat) (d : DupEntry) : State :=
  let gone := fun (x : TlbEntry) => pteDup x.leaf && decide (pteDupix x.leaf = i)
  let here := fun (core : Nat) => decide (coreSite core = site)
  let s1 := { s with
    cores := s.cores.map (fun c => (c.1, if here c.1 then { c.2 with tlb := c.2.tlb.filter (fun x => !gone x) } else c.2))
    sites := s.sites.mapIdx (fun n x => if n = site then { x with tlb := x.tlb.filter (fun y => !gone y) } else x) }
  if (d.reads.getD site none).isSome then s1.dropPath d.home here else s1

/-- DUP_COLLAPSE_ACK. -/
def execDupCollapseAck (entry site : Nat) (s : State) : Out :=
  match tabGet s.dups entry with
  | none => .next s
  | some d =>
    match d.acks with
    | none => .next s
    | some l =>
      let s1 := if d.holders.contains site && !l.contains site then
          { s.dropReplica entry site d with dups := tabSet s.dups entry { d with acks := some (l ++ [site]) } }
        else s
      .next (s1.collapseCheck entry)

/-- UNDUP: the collapse of a duplicated page that no write has started. -/
def execUndup (s : State) : Out :=
  s.command 4 (fun b => cmdClean b && (s.ctx (cmdCtx b)).live && decide (cmdVa b % 65536 = 0) &&
      (s.pageLeaf (cmdCtx b) (cmdVa b)).any (fun x => pteDup x.leaf && (tabGet s.dups (pteDupix x.leaf)).isSome))
    (fun s pa b =>
      match s.pageLeaf (cmdCtx b) (cmdVa b) with
      | none => s
      | some x =>
        let i := pteDupix x.leaf
        let n := s.maintRing.head
        let s1 := s.takeCommand.startCollapse i
        ({ s1 with maint := s1.maint ++ [⟨n, pa, b, s.now, x.leaf, x.leafPa, [], some i⟩] } : State).collapseCheck i)

/-! ## HOTCFG, FRAMES and BRAND -/

/-- HOTCFG. -/
def execHotcfg (s : State) : Out :=
  s.command 5 (fun b => cmdClean b && inLimits 100 1000000 (cmdParam b % 2 ^ 32) && decide (cmdParam b < 2 ^ 33))
    (fun s pa b => ({ s.takeCommand with
      hotInterval := cmdParam b % 2 ^ 32
      hotOn := (cmdParam b).testBit 32
      dies := s.dies.map (fun d => { d with since := s.now }) } : State).endCommand pa statusDone)

/-- FRAMES (R383). -/
def execFrames (s : State) : Out :=
  s.command 6 (fun b => cmdClean b && (s.ctx (cmdCtx b)).live)
    (fun s pa b =>
      s.commandPage (cmdCtx b) (cmdPa b 0) (8 * cmdCount b) .read pa (fun t =>
        let bs := (s.hubRead (cmdCtx b) (cmdPa b 0) (8 * cmdCount b)).getD []
        let fs := (List.range (cmdCount b)).map (fun i => bytesAt bs (8 * i) 8)
        if fs.all (fun f => s.frameOk f (fun _ => true)) then
          (t.modCtx (cmdCtx b) (fun c => { c with frames := c.frames ++ fs })).endCommand pa statusDone
        else t.endCommand pa statusInvalid))

/-- BRAND (R419): requests aimed at a revoked brand fail. -/
def execBrand (s : State) : Out :=
  s.command 7 (fun b => cmdClean b && decide (cmdCtx b = 0xFF) && decide (cmdTarget b < 2 ^ 17))
    (fun s pa b =>
      let brand := cmdTarget b % 65536
      let rest := s.brands.filter (fun x => decide (x ≠ brand))
      let s1 := s.takeCommand
      if (cmdTarget b).testBit 16 then
        let gone := (s1.messages.filter (fun m => decide (m.brand = brand))).map Message.req
        ({ s1 with
          brands := rest ++ [brand]
          messages := s1.messages.filter (fun m => decide (m.brand ≠ brand))
          cores := s1.cores.map (fun c => (c.1, { c.2 with drover := c.2.drover.map (fun r =>
            if gone.contains r.id then { r with failed := true } else r) })) } : State).endCommand pa statusDone
      else ({ s1 with brands := rest } : State).endCommand pa statusDone)

/-! ## The harvest block and ATTEST (R399, R446) -/

/-- The harvest block (Table 23.2). -/
def State.harvestBytes (s : State) : List Byte :=
  let h := s.harvest
  bytesOfNat 8 h.hgen ++ bytesOfNat 4 h.dieEn ++ bytesOfNat 4 0 ++ (List.range 3).foldl (fun b i => b ++ bytesOfNat 32 (h.coreEn.getD i 0)) [] ++
  (List.range 6).foldl (fun b i => b ++ bytesOfNat 8 (h.chanEn.getD i 0)) [] ++
  (List.range 6).foldl (fun b i => b ++ bytesOfNat 8 (s.capacity i)) [] ++ bytesOfNat 48 0

/-- The image slots of the power controller, the running one first. -/
def State.powerSlots (s : State) : Firmware × Firmware := if s.power.slot = 0 then (s.boot.slotA, s.boot.slotB) else (s.boot.slotB, s.boot.slotA)

/-- Bytes 0 to 255 of the attestation record (Table 27.3). -/
def State.attestBody (s : State) (nonce : List Byte) : List Byte :=
  let (run, other) := s.powerSlots
  bytesOfNat 4 1 ++ bytesOfNat 4 s.boot.ready.toNat ++ bytesOfNat 8 s.now ++ padTo 32 nonce ++ bytesOfNat 8 s.boot.serial.toNat ++
  bytesOfNat 4 s.harvest.dieEn ++ bytesOfNat 4 s.harvest.hgen ++ padTo 32 s.boot.hubImage.measure ++ padTo 32 run.measure ++
  padTo 32 other.measure ++ padTo 32 s.boot.mgmt ++ padTo 32 (Config.shake256 (s.harvestBytes.take 208)) ++
  padTo 32 (Config.shake256 s.boot.idkey)

/-- One-time indices of the identity key. -/
def signIndices : Nat := 2 ^ 20

/-- ATTEST: the record describes one instant, and each takes the next one-time index. -/
noncomputable def execAttest (s : State) : Out :=
  s.command 8 (fun b => cmdClean b && (s.ctx (cmdCtx b)).live && vaOk (cmdVa b) 64)
    (fun s pa b =>
      s.commandPage (cmdCtx b) (cmdVa b) 3076 (.write true) pa (fun t =>
        if signIndices ≤ s.boot.fuse then t.endCommand pa statusBusy
        else
          let body := s.attestBody ((b.drop 24).take 32)
          let t1 := { t with boot := { t.boot with fuse := t.boot.fuse + 1 } }
          (t1.hubWrite (cmdCtx b) (cmdVa b) (body ++ padTo 2820 (Config.sign s.boot.fuse body))).endCommand pa statusDone))

/-! ## Hot pages (R392) -/

/-- An entry of the list (Table 22.6). -/
def hotEntry (est : Nat) (c : Nat × List Nat × Bool) : Nat :=
  c.1 % 2 ^ 30 + c.2.2.toNat * 2 ^ 30 + est * 2 ^ 64 + c.2.1.getD 0 0 * 2 ^ 80 + c.2.1.getD 1 0 * 2 ^ 96 + c.2.1.getD 2 0 * 2 ^ 112

/-- Candidates by decreasing estimate, the older first. -/
def MemDie.ranked (d : MemDie) : List (Nat × List Nat × Bool) :=
  d.cands.mergeSort (fun a b => decide (d.estimate b.1 ≤ d.estimate a.1))

/-- HOT_INTERVAL_END: the die writes its list and starts anew. -/
def execHotIntervalEnd (die : Nat) (s : State) : Out :=
  let d := s.dies.getD die MemDie.init
  if !s.hotOn || !d.live || 6 ≤ die || s.now < d.since + s.hotInterval * 1000 then .next s
  else
    let bs := d.ranked.foldl (fun b c => b ++ bytesOfNat 16 (hotEntry (d.estimate c.1) c)) []
    let s1 := s.performBytes (s.table 9 + 1024 * die) (padTo 1024 bs)
    .next { s1 with dies := modAt s1.dies die (fun x => { x with since := s.now, sketch := [], cands := [] }) }

end Sys2Proof.Machine
end

