-- ==== Sys2Proof/Machine/Reliability.lean ====
section
/-! DEFINITION. Machine/Reliability.lean: links and fencing (R403 to R409), ECC errors and lost data (R411, R415, R416),
quarantine and self-test (R417, R418), and the harvest block's changes (R401). -/

namespace Sys2Proof.Machine

open Sys2Proof

/-! ## The harvest block (R401) -/

/-- The block as memory shows it, as one release. -/
def State.publishHarvest (s : State) : State := s.performBytes (s.table 8) s.harvestBytes

/-- A change of the block: HGEN counts it. -/
def State.reap (s : State) (f : Harvest → Harvest) : State :=
  ({ s with harvest := let h := f s.harvest; { h with hgen := h.hgen + 1 } } : State).publishHarvest

/-- Clear a bit of a number. -/
def clearBit (x i : Nat) : Nat := if x.testBit i then x - 2 ^ i else x

/-! ## Fencing (R408) -/

/-- The cores of a site that hold anything. -/
def State.siteCores (s : State) (site : Nat) : List Nat := (s.cores.map Prod.fst).filter (fun c => decide (coreSite c = site))

/-- The droves that stand on some cores, or whose side-logged writes are there. -/
def State.drovesAt (s : State) (here : Nat → Bool) : List Nat :=
  (s.droves.filter (fun d => decide (d.2.phase ≠ .ended) && d.2.wgs.any (fun w => here (s.wg w).core && !(s.wg w).over &&
    (d.2.phase != .saved || (s.core (s.wg w).core).sideLog.any (fun e => decide (e.wg = w)))))).map Prod.fst

/-- A drove that may still be replayed: launched with REPLAY, before its first commit, and relaunched fewer than REPLAYMAX times
(R88, R416). -/
def State.mayReplay (s : State) (d : Nat) : Bool :=
  (s.grid (s.drove d).grid).replay && (s.drove d).replayable && decide ((s.drove d).relaunches < s.policy.replaymax)

/-- A drove whose cores are gone: relaunched while it may be replayed, else its grid is killed with ERROR. -/
def State.loseDrove (s : State) (d : Nat) : State :=
  let x := s.drove d
  if x.grid = 0 && x.wgs.isEmpty then s
  else if s.mayReplay d then s.relaunch d
  else s.killGrid 5 x.grid

/-- What the cores of a fenced die had committed and not performed is poisoned at its home, and the cores hold nothing. -/
def State.poisonSite (s : State) (site : Nat) : State :=
  let lines := (s.siteCores site).foldl (fun l c => l ++ (s.core c).committed.map Committed.line) []
  { s with
    poisoned := (s.poisoned ++ lines).eraseDups
    cores := s.cores.filter (fun c => decide (coreSite c.1 ≠ site)) }

/-- A compute die is fenced. -/
def State.fenceSite (s : State) (site : Nat) : State :=
  let s1 := { s with sites := modAt s.sites site (fun x => { x with live := false, tlb := [] }) }
  let ds := s1.drovesAt (fun c => decide (coreSite c = site))
  let s2 := ds.foldl State.loseDrove (s1.poisonSite site)
  s2.reap (fun h => { h with dieEn := clearBit h.dieEn site })

/-- Who waits on a tether of a lost line is told: a wave by ERROR as policy has it, a ray by its fault, a grid by its rejection. -/
def State.loseWait (s : State) (t : Tether) : State :=
  match t.waiter with
  | .wave key =>
    let w := s.wave key
    if (tabGet s.waves key).isSome then s.affect w.wg 0x07 t.pa w.handler (some (key, w.live, 0#48)) else s
  | .saved wg _ => if (tabGet s.wgs wg).isSome then s.affect wg 0x07 t.pa false none else s
  | .ray id => s.modRay id (fun r => { r with ended := some 5, parked := none })
  | .grid id => s.rejectGrid id 1

/-- A memory die is fenced: its tethers are gone, every line of it is lost, and the cores keep no copy of one. -/
def State.fenceMem (s : State) (n : Nat) : State :=
  let here := fun (t : Tether) => decide (homeDie t.pa = n)
  let hit := s.tethers.filter here
  let s1 := { s with
    dies := modAt s.dies n (fun d => { d with live := false })
    tethers := s.tethers.filter (fun t => !here t)
    freed := s.freed ++ spilledEntries hit
    old := s.old.filter (fun o => decide (homeDie (o.line * 128) ≠ n))
    cores := s.cores.map (fun c => (c.1, { c.2 with committed := c.2.committed.filter (fun l => decide (homeDie (l.line * 128) ≠ n)) })) }
  let s2 := hit.foldl State.loseWait s1
  s2.reap (fun h => { h with dieEn := clearBit h.dieEn (4 + n) })

/-! ## Links (R403 to R405) -/

/-- A link's place in a record: the hub's links lie on the hub, the others on their site. -/
def linkLoc (l : Nat) : Nat := (if l < 3 then 10 else (l - 3) / 2) + l * 16

def State.link (s : State) (l : Nat) : Link := s.links.getD l Link.init
def State.modLink (s : State) (l : Nat) (f : Link → Link) : State := { s with links := modAt s.links l f }

def linkReport (kind sev act l : Nat) : Report := { Report.plain kind sev with unit := 4, loc := linkLoc l, action := act }

/-- A link that cannot recover: what it serves is fenced. -/
def State.linkFails (s : State) (l : Nat) : State :=
  let s1 := (s.modLink l (fun x => { x with up := false, retraining := false })).report (linkReport 0x06 3 5 l)
  if l < 3 then ((s1.fenceSite l).fenceMem (2 * l)).fenceMem (2 * l + 1) else s1.fenceMem (l - 3)

/-- An uncorrectable flit makes the link retrain; within 1 ms of a retrain it fails. -/
def State.retrain (s : State) (l : Nat) : State :=
  let x := s.link l
  if x.lastRetrain ≠ 0 ∧ s.now < x.lastRetrain + 1000000 then s.linkFails l
  else (s.modLink l (fun x => { x with retraining := true, naks := 0 })).report (linkReport 0x05 1 0 l)

/-- TAGs a responder remembers. -/
def tagMemory : Nat := 4096

/-- The response to a request: the recorded one where its TAG is known, so that it takes effect once. -/
def Link.answer (x : Link) (tag response : Nat) : Link :=
  match x.done.find? (fun d => decide (d.1 = tag)) with
  | some d => { x with out := x.out ++ [d] }
  | none => { x with done := (x.done ++ [(tag, response)]).drop (x.done.length + 1 - tagMemory), out := x.out ++ [(tag, response)] }

/-- FLIT_RECEIVE: the next flit in order with a good CRC is accepted; any other is answered by NAK, and after 8 replays with a
bad CRC, or once the flit has left the sender's buffer of 128, the link retrains. -/
noncomputable def execFlitReceive (link seq tag : Nat) (crc : Bool) (response : Nat) (s : State) : Out :=
  let x := s.link link
  if 9 ≤ link || !x.up || x.retraining then .next s
  else if crc && decide (seq = x.expected) then
    .next (s.modLink link (fun y => ({ y with expected := (y.expected + 1) % 2 ^ 32, naks := 0 } : Link).answer tag response))
  else if crc then
    let ahead := (seq + 2 ^ 32 - x.expected) % 2 ^ 32
    .next (if 128 ≤ ahead ∧ ahead < 2 ^ 31 then s.retrain link else s)
  else if x.naks < 8 then .next (s.modLink link (fun y => { y with naks := y.naks + 1 }))
  else .next (s.retrain link)

/-- LINK_RETRAIN_DONE: the link carries again; a third failure in a row cannot be recovered. -/
noncomputable def execLinkRetrainDone (link : Nat) (good : Bool) (s : State) : Out :=
  let x := s.link link
  if !x.retraining then .next s
  else if good then .next (s.modLink link (fun y => { y with retraining := false, retrains := 0, lastRetrain := s.now }))
  else if x.retrains < 2 then .next (s.modLink link (fun y => { y with retrains := y.retrains + 1 }))
  else .next (s.linkFails link)

/-! ## Errors (R411, R412, R415, R416) -/

/-- Corrected errors of a unit recorded within the last second. -/
def State.correctedNow (s : State) (unit : Nat) : Nat :=
  (s.errors.corrected.filter (fun e => decide (e.1 = unit) && decide (s.now ≤ e.2 + 1000000000))).length

/-- ECC_CORRECTED: the data is right and scrubbed; beyond CERATE the error is counted only, and the unit is quarantined. -/
def execEccCorrected (unit loc syndrome : Nat) (s : State) : Out :=
  let r : Report := { Report.plain 0x01 0 with unit := unit, loc := loc, detail := syndrome }
  if s.correctedNow r.unitKey < s.policy.cerate then
    let s1 := s.report r
    .next { s1 with errors := { s1.errors with corrected := s1.errors.corrected ++ [(r.unitKey, s.now)] } }
  else
    let s1 := s.quarantine unit loc
    .next { s1 with errors := { s1.errors with recent := s1.errors.recent ++ [(r.unitKey, s.now)] } }

/-- What the loss does, by where the data lived (R415). -/
def State.lose (s : State) (d : LostData) (r : Report) : State :=
  let mark := { r with action := 4 }
  match d with
  | .clean => s.report { r with kind := 0x02, sev := 1 }
  | .line n => ({ s with poisoned := (s.poisoned ++ [n]).eraseDups } : State).report { mark with addr := n * 128 }
  | .dirty core n =>
    (({ s with poisoned := (s.poisoned ++ [n]).eraseDups } : State).modCore core (fun c =>
      { c with committed := c.committed.filter (fun l => decide (l.line ≠ n)) })).report { mark with addr := n * 128 }
  | .buffered wg n =>
    if (tabGet s.wgs wg).isSome then
      (s.modWg wg (fun g => { g with
        sbuf := g.sbuf.filter (fun c => decide (lineOf c.1 ≠ n))
        whole := g.whole.filter (fun l => decide (l ≠ n)) })).affect wg 0x03 (n * 128) true none
    else s.report r
  | .pen wg word => (s.modWg wg (fun g => { g with penPoison := (g.penPoison ++ [word]).eraseDups })).report mark
  | .commons ctx block => (s.modCtx ctx (fun c => { c with commonsPoison := (c.commonsPoison ++ [block]).eraseDups })).report mark
  | .array core word => (s.modArray core (fun a => { a with poison := (a.poison ++ [word]).eraseDups })).report mark
  | .reg key n lanes => (s.modWave key (fun w => w.modLanes lanes (fun _ x => { x with poison := (x.poison ++ [n]).eraseDups }))).report mark

/-- UNCORRECTABLE_ERROR. -/
def execUncorrectableError (unit loc : Nat) (data : LostData) (s : State) : Out :=
  .next ((s.quarantine unit loc).lose data { Report.plain 0x03 2 with unit := unit, loc := loc })

/-! ## Self-test (R417, R418) -/

/-- The core a LOC of Table 24.4 names. -/
def locCore (loc : Nat) : Nat := loc % 16 * 160 + loc / 16 % 256

/-- The droves that stand on a core. -/
def State.residents (s : State) (core : Nat) : List Nat :=
  (s.droves.filter (fun d => (d.2.phase == .resident || d.2.phase == .restoring || d.2.phase.halts) &&
    d.2.wgs.any (fun w => decide ((s.wg w).core = core) && !(s.wg w).over))).map Prod.fst

/-- A resident leaves for a test: pre-empted where policy moves it, else killed (R448). -/
def State.clearResident (s : State) (d : Nat) : State :=
  if s.policy.testmove = 1 && s.hasHandler d then s.preemptDrove d 4 else s.killGrid 4 (s.drove d).grid

/-- A drove leaves a core that is to be removed: by a save, or as policy and R88 require. -/
def State.evict (s : State) (d : Nat) : State :=
  if (s.drove d).phase = .resident && s.hasHandler d && s.canSave d then s.preemptDrove d 4
  else if (s.drove d).phase.halts then s
  else if s.mayReplay d then s.relaunch d
  else s.killGrid 4 (s.drove d).grid

/-- A unit leaves the quarantine. -/
def State.unquarantine (s : State) (unit loc : Nat) : State :=
  { s with quarantined := s.quarantined.filter (fun q => !(decide (q.unit = unit) && decide (q.loc = loc))) }

/-- What the quarantine says of a unit. -/
def State.modQuarantine (s : State) (unit loc : Nat) (f : Quarantine → Quarantine) : State :=
  { s with quarantined := s.quarantined.map (fun q => if q.unit = unit ∧ q.loc = loc then f q else q) }

/-- A core with a lasting fault is removed once its residents have left it (R401). -/
def State.removeCore (s : State) (unit loc : Nat) : State :=
  let core := locCore loc
  if (s.residents core).isEmpty then
    (s.unquarantine unit loc).reap (fun h => { h with coreEn := modAt h.coreEn (coreSite core) (fun b => clearBit b (core % 160)) })
  else s

/-- A unit with a lasting fault is removed: the work on a core leaves it first, and nothing is placed there meanwhile (R401). -/
def State.disableUnit (s : State) (unit loc : Nat) : State :=
  if unit ≤ 3 then
    ((s.residents (locCore loc)).foldl State.evict
      (s.modQuarantine unit loc (fun q => { q with lasting := true }))).removeCore unit loc
  else if unit = 5 then
    (s.unquarantine unit loc).reap (fun h => { h with chanEn := modAt h.chanEn (loc % 16 - 4) (fun b => clearBit b (loc / 16 % 256)) })
  else s.unquarantine unit loc

/-- SELFTEST_START: a core-SRAM bank is tested once its core is empty, any other unit at once; a unit whose fault is lasting is
removed once its core is empty. -/
def execSelftestStart (unit loc : Nat) (s : State) : Out :=
  match s.quarantined.find? (fun q => decide (q.unit = unit) && decide (q.loc = loc)) with
  | none => .next s
  | some q =>
    if q.lasting then .next (s.removeCore unit loc)
    else if q.testing then .next s
    else
      let ds := if unit = 0 then s.residents (locCore loc) else []
      .next (if ds.isEmpty then s.modQuarantine unit loc (fun x => { x with testing := true }) else ds.foldl State.clearResident s)

/-- SELFTEST_RESULT: a unit that passes and has erred fewer than STICKY times in the last second serves again; any other is
removed. -/
def execSelftestResult (unit loc : Nat) (pass : Bool) (s : State) : Out :=
  match s.quarantined.find? (fun q => decide (q.unit = unit) && decide (q.loc = loc) && q.testing && !q.lasting) with
  | none => .next s
  | some q =>
    let r : Report := { Report.plain 0x08 1 with unit := unit, loc := loc, detail := q.seq }
    if pass && decide (s.recentErrors r.unitKey < s.policy.sticky) then .next ((s.unquarantine unit loc).report { r with action := 6 })
    else .next ((s.disableUnit unit loc).report { r with sev := 3, action := 7 })

end Sys2Proof.Machine
end

