-- ==== Sys2Proof/Machine/Fabric.lean ====
section
/-! DEFINITION. Machine/Fabric.lean: the ports, the fabric block and the stream descriptors (R420, R421, R427), remote accesses
(R422 to R424), the host over port.0 (R107, R442, R443), and the clock (R425). -/

namespace Sys2Proof.Machine

open Sys2Proof

/-! ## The host over port.0 (R107, R442, R443) -/

/-- READY of a port, and whether it is up. -/
def State.portReady (s : State) (p : Nat) : Bool := s.boot.ready.getLsbD (10 + p)
def State.portLive (s : State) (p : Nat) : Bool := s.portReady p && s.portsUp.testBit p

/-- Device memory the host reaches: HBM of a die that is READY. -/
def State.hostReaches (s : State) (pa n : Nat) : Bool :=
  s.portLive 0 && decide (0 < n) && decide (homeDie pa = homeDie (pa + n - 1)) && decide (homeDie pa < 6) &&
  s.boot.ready.getLsbD (4 + homeDie pa) && s.populated pa && s.populated (pa + n - 1)

/-- Ranges that meet. -/
def meets (a n b m : Nat) : Bool := decide (a < b + m) && decide (b < a + n)

/-- A message of the host is performed after those before it: it waits behind one that waits for a collapse (R107, R395). -/
def State.hostSends (s : State) (m : HostMsg) : State := if s.inbound.isEmpty then s.hostRun [m] else { s with inbound := s.inbound ++ [m] }

/-- HOST_RDMA_WRITE: performed at device scope; a write to a duplicated page waits for its collapse. An access the region does
not allow has no effect. -/
def execHostRdmaWrite (pa : Nat) (bytes : List Byte) (s : State) : Out :=
  .next (if s.hostReaches pa bytes.length then s.hostSends (.write (cellsFrom pa bytes)) else s)

/-- HOST_RDMA_READ: what is performed at device scope; nothing where the access is an error. -/
def execHostRdmaRead (pa n : Nat) (s : State) : Out :=
  .next { s with hostRead := if s.hostReaches pa n then s.mem.getBytes pa n else [] }

/-- HOST_RDMA_ATOMIC: 8 bytes, executed at the home; the host gets the old value. -/
def execHostRdmaAtomic (pa : Nat) (op : Aop) (x y : Dword) (s : State) : Out :=
  .next (if s.hostReaches pa 8 && decide (pa % 8 = 0) && aopWide op then s.hostSends (.atomic pa op x y) else { s with hostRead := [] })

/-- HOST_WRITE_ACK. -/
def execHostWriteAck (index : Nat) (s : State) : Out := .next { s with hostWrites := s.hostWrites.eraseIdx index }

/-! ## The fabric block (R421) -/

/-- The mode a number of two bits a port names for a port. -/
def modeOf (x p : Nat) : Nat := nbits x (2 * p + 1) (2 * p)

/-- The fabric block (Table 25.1). -/
def fabricOk (b : List Byte) : Bool :=
  let m := bytesAt b 8 4
  inLimits 0 63 (byteAt b 2) && inLimits 0 127 (byteAt b 3) && inLimits 0 12 (byteAt b 4) && inLimits 0 3 (byteAt b 5) && zeroBytes b 6 2 &&
  decide (m % 4 = 0) && decide (m < 2 ^ 26) && (List.range 13).all (fun p => decide (modeOf m p ≠ 3)) &&
  inLimits 10 10000 (bytesAt b 12 4) && zeroBytes b 36 20

def fabricOf (old : FabricBlock) (b : List Byte) : FabricBlock :=
  { podid := bytesAt b 0 2
    devno := byteAt b 2
    ptpdom := byteAt b 3
    ptpport := byteAt b 4
    ptpmode := byteAt b 5
    portmode := old.portmode
    wanted := bytesAt b 8 4
    fabtmo := bytesAt b 12 4
    pathtab := bytesAt b 16 8
    streamtab := bytesAt b 24 8
    gen := bytesAt b 56 8 }

/-- A stream descriptor in order (Table 25.2); one that is off is not looked at further. -/
def streamOk (b : List Byte) : Bool :=
  decide (byteAt b 0 = 0) ||
  (decide (byteAt b 0 = 1) && inLimits 1 12 (byteAt b 1) && inLimits 0 2 (byteAt b 2) && inLimits 1 16 (byteAt b 3) &&
    inLimits 1 16384 (bytesAt b 4 4) && inLimits 1 16384 (bytesAt b 8 4) && inLimits 100 10000 (bytesAt b 12 4) &&
    inLimits 1000000 1000000000 (bytesAt b 24 8) && decide (bytesAt b 12 4 * 1000 < bytesAt b 24 8) &&
    decide (bytesAt b 40 8 % 128 = 0) && decide (bytesAt b 48 8 % 64 = 0) && zeroBytes b 60 4 && zeroBytes b 70 2 &&
    inLimits 96 127 (byteAt b 78) && inLimits 96 127 (byteAt b 79) && zeroBytes b 80 48)

/-- The first slot whose decision step is still to come. -/
def Stream.firstOpen (x : Stream) (now : Nat) : Nat :=
  if now + x.guardNs < x.epoch then 0 else (now + x.guardNs - x.epoch) / Nat.max 1 x.period + 1

/-- What OWNER does not count of a descriptor. -/
def descBody (b : List Byte) : List Byte := b.take 56 ++ b.drop 60

/-- A stream takes a new descriptor; records of slots it will no longer decide are not sent. -/
def State.setDesc (s : State) (n : Nat) (b : List Byte) : State :=
  let x := s.stream n
  if descBody x.desc = descBody b then s
  else
    let y : Stream := { x with desc := b }
    let same := decide (y.epoch = x.epoch) && decide (y.period = x.period)
    let next := Nat.max (Nat.max y.enslot (y.firstOpen s.now)) (if same then x.next else 0)
    let gone := x.queue.filter (fun r => !(y.enabled && same && decide (next ≤ r.slot)))
    let s1 := gone.foldl (fun t r => t.hubWrite r.ctx (r.va + 36) (bytesOfNat 4 2)) s
    s1.setStream n { y with
      queue := x.queue.filter (fun r => y.enabled && same && decide (next ≤ r.slot))
      next := next
      decided := x.decided.filter (fun d => decide (x.slotTime d.slot ≤ s.now))
      filled := if same then x.filled else []
      reserve := x.reserve && decide (y.resva = x.resva) }

/-- The 64 descriptors are read, each that is out of order left as it was. -/
def State.readStreams (s : State) : State :=
  (List.range 64).foldl (fun t n =>
    let pa := t.fabric.streamtab + 128 * n
    let b := t.mem.getBytes pa 128
    t.readBlock pa (streamOk b) (fun u => u.setDesc n b) id) s

/-- FABRIC_BLOCK_READ. The stream engine reads its descriptors from when it is READY. -/
def execFabricBlockRead (s : State) : Out :=
  let pa := s.table 6
  let b := s.mem.getBytes pa 64
  if !s.hubReady || bytesAt b 56 8 = s.fabric.gen then .next s
  else
    .next (s.readBlock pa (fabricOk b)
      (fun t =>
        let u := { t with fabric := fabricOf t.fabric b }
        if u.boot.ready.getLsbD 24 then u.readStreams else u)
      (fun t => { t with fabric := { t.fabric with gen := bytesAt b 56 8 } }))

/-- PORTMODE_DRAIN_DONE: the first changed port that is READY and carries nothing more takes its new mode (R443). -/
def execPortmodeDrainDone (s : State) : Out :=
  let f := s.fabric
  match (List.range 13).find? (fun p => decide (modeOf f.portmode p ≠ modeOf f.wanted p) && s.portReady p &&
      s.messages.all (fun m => decide (m.port ≠ p))) with
  | none => .next s
  | some p => .next { s with fabric := { f with portmode := f.portmode - modeOf f.portmode p * 4 ^ p + modeOf f.wanted p * 4 ^ p } }

/-! ## Remote accesses (R422 to R424) -/

/-- Requests fail (R229), and what they had sent is waited for no longer. -/
def State.failReqs (s : State) (ids : List Nat) : State :=
  { s with
    messages := s.messages.filter (fun m => !ids.contains m.req)
    cores := s.cores.map (fun c => (c.1, { c.2 with drover := c.2.drover.map (fun r => if ids.contains r.id then { r with failed := true } else r) })) }

/-- HIRSEL_ACK: the target has performed a message, and sends what a read brings. -/
def execHirselAck (id : Nat) (bytes : List Byte) (s : State) : Out :=
  match s.messages.find? (fun m => decide (m.id = id)) with
  | none => .next s
  | some m =>
    .next (({ s with messages := s.messages.filter (fun x => decide (x.id ≠ id)) } : State).modCopy m.core m.req (fun r =>
      { r with
        sent := r.sent.map (fun l => l.filter (fun x => decide (x ≠ id)))
        got := if r.data.isNone then tabSet r.got m.offset bytes else r.got }))

/-- HIRSEL_RETRANSMIT: on any live port of the entry; with none the request fails at once. -/
def execHirselRetransmit (id : Nat) (s : State) : Out :=
  match s.messages.find? (fun m => decide (m.id = id)) with
  | none => .next s
  | some m =>
    match s.pathPort m.device with
    | some p => .next { s with messages := s.messages.map (fun x => if x.id = id then { x with port := p } else x) }
    | none => .next (s.failReqs [m.req])

/-- FABRIC_TIMEOUT. -/
def execFabricTimeout (id : Nat) (s : State) : Out :=
  match s.messages.find? (fun m => decide (m.id = id)) with
  | none => .next s
  | some m => .next (if m.sent + s.fabric.fabtmo * 1000 ≤ s.now then s.failReqs [m.req] else s)

/-- PORT_DOWN: requests to a device whose ports are all down fail. -/
def execPortDown (port : Nat) (s : State) : Out :=
  let s1 := { s with portsUp := clearBit s.portsUp port }
  .next (s1.failReqs ((s1.messages.filter (fun m => (s1.pathPort m.device).isNone)).map Message.req))

/-- PORT_UP. -/
def execPortUp (port : Nat) (s : State) : Out :=
  .next (if port ≤ 12 ∧ s.portReady port ∧ !s.portsUp.testBit port then { s with portsUp := s.portsUp + 2 ^ port } else s)

/-- A brand stands in a context's BRANDTAB. -/
def State.brandIn (s : State) (ctx brand : Nat) : Bool :=
  let c := s.ctx ctx
  match s.hubRead ctx c.brandtab (2 * c.nbrands) with
  | some b => (List.range c.nbrands).any (fun i => decide (bytesAt b (2 * i) 2 = brand))
  | none => false

/-- The context that admits a remote access (R423). -/
def State.admits (s : State) (from_ brand : Nat) : Option Nat :=
  if s.brands.contains from_ || s.brands.contains brand then none
  else ((s.ctxs.find? (fun c => c.2.live && decide (c.2.homebrand = brand))).map Prod.fst).filter (fun c => s.brandIn c from_)

/-- A message performed in its context: a copy, a reduction element by element (R228), or a read. -/
def State.remoteDo (s : State) (ctx kind va : Nat) (bytes : List Byte) (pas : List Nat) : State :=
  if kind = 4 then s.hubSeen ctx va bytes.length .read
  else
    let q := { Req.ofNat 0 with redop := kind, width := bytes.length }
    s.hubWrite ctx va (q.combine (pas.map s.mem.get) bytes)

/-- The number of a message has been seen from its peer. -/
def State.seenFrom (s : State) (peer seq : Nat) : Bool := ((tabGet s.peers peer).getD []).contains seq

/-- HIRSEL_MESSAGE_RECEIVE: `kind` 0 is a copy, 1 to 3 a reduction, 4 a read of as many bytes. A duplicate is dropped; one that
may not enter is rejected; one whose page a pager is to serve waits. -/
def execHirselMessageReceive (peer seq from_ brand kind va : Nat) (bytes : List Byte) (s : State) : Out :=
  if s.seenFrom peer seq || 4096 < bytes.length || 4 < kind then .next s
  else
    match s.admits from_ brand with
    | none => .next s
    | some ctx =>
      match s.reachHub ctx va bytes.length (if kind = 4 then .read else .write false) with
      | .error (.wait v) => .next (s.askPage ctx v 4)
      | .error (.fail _) => .next s
      | .error (.malformed v) => .next (s.stopped ctx (.malformed v))
      | .ok pas =>
        let t := s.hubSeen ctx (s.ctx ctx).brandtab (2 * (s.ctx ctx).nbrands) .read
        .next ({ t.remoteDo ctx kind va bytes pas with peers := tabSet s.peers peer ((tabGet s.peers peer).getD [] ++ [seq]) })

/-! ## Time (R425) -/

/-- An offset as TSTAT shows it: 16 bits, saturating. -/
def satOffset (x : Int) : Nat := ((if 32767 < x then 32767 else if x < -32768 then -32768 else x) % 65536).toNat

/-- TSTAT follows the clock. -/
def State.tstat (s : State) : State :=
  s.performBytes (s.table 6 + 32) (bytesOfNat 4 (s.ptp.locked.toNat + s.ptp.holdover.toNat * 2 + satOffset s.ptp.offset * 2 ^ 16))

/-- Sync intervals within bounds that lock the clock. -/
def lockAfter : Nat := 16

/-- PTP_MESSAGE: the offset of TIME from the grandmaster is measured; before READY the device steps TIME forward by it, after
that it slews. -/
def execPtpMessage (offset : Int) (s : State) : Out :=
  if !s.portLive s.fabric.ptpport then .next s
  else
    let near := decide (-20 ≤ offset) && decide (offset ≤ 20)
    let good := if near then s.ptp.good + 1 else 0
    let p : Ptp := { locked := decide (lockAfter ≤ good), holdover := false, good := good, offset := offset, slew := -offset }
    let s1 := { s with ptp := p }
    let s2 := if !s.boot.ready.getLsbD 23 && decide (offset < 0) then
        { s1 with time := s.time + BitVec.ofInt 64 (-offset), ptp := { p with slew := 0 } }
      else s1
    .next s2.tstat

/-- ANNOUNCE_TIMEOUT: TIME runs free. -/
def execAnnounceTimeout (s : State) : Out :=
  .next ({ s with ptp := { s.ptp with locked := false, holdover := true, good := 0, slew := 0 } } : State).tstat

end Sys2Proof.Machine
end

