-- ==== Sys2Proof/Machine/Power.lean ====
section
/-! DEFINITION. Machine/Power.lean: the hardware limits (R432, R433), the power block and budget epochs (R434, R437, R438),
the controller's firmware (R439), and bring-up (R440, R443 to R445). -/

namespace Sys2Proof.Machine

open Sys2Proof

/-! ## Limits (R432, R433) -/

def State.modSite (s : State) (i : Nat) (f : Site → Site) : State := { s with sites := modAt s.sites i f }

/-- POWER_LIMIT_STRETCH: every die's clock is stretched. -/
def execPowerLimitStretch (_site : Nat) (s : State) : Out := .next { s with sites := s.sites.map (fun x => { x with power := true }) }

/-- CURRENT_LIMIT_STRETCH: the drawing die's clock. -/
def execCurrentLimitStretch (site : Nat) (s : State) : Out := .next (s.modSite site (fun x => { x with current := true }))

/-- DROOP_STRETCH. -/
def execDroopStretch (site : Nat) (s : State) : Out := .next (s.modSite site (fun x => { x with droop := true }))

/-- CLOCK_STRETCH_END: what held the die's clock is back within its limit. -/
def execClockStretchEnd (site : Nat) (s : State) : Out :=
  .next (s.modSite site (fun x => { x with droop := false, current := false, power := false }))

/-- The floor and nominal clocks, in MHz (Table 26.2). -/
def floorMhz : Nat := 800
def nominalMhz : Nat := 1050

/-- A thermal trip or the watchdog holds the device at the floor point. -/
def State.atFloor (s : State) : Bool := s.power.floorHold || s.sites.any Site.trip

/-- Every quarter of a site gets `g` grants. -/
def State.rationSite (s : State) (site g : Nat) : State :=
  ((List.range 640).map (site * 640 + ·)).foldl (fun t q => t.modQuarter q (fun u => { u with grants := g })) s

/-- A record of KIND 0x0A. -/
def powerReport (loc detail : Nat) : Report := { Report.plain 0x0A 1 with loc := loc, detail := detail }

/-! ## The RO fields (Table 26.3) -/

/-- A drove stands on its cores: also while it is being saved or restored there. -/
def DrovePhase.onCores (p : DrovePhase) : Bool := p.halts || p == .resident || p == .restoring

/-- A workgroup of a DETERMINISTIC grid is resident (R359, R438). -/
def State.deterministicHold (s : State) : Bool :=
  s.droves.any (fun d => d.2.phase.onCores && (s.grid d.2.grid).deterministic && d.2.wgs.any (fun w => !(s.wg w).over))

/-- STATE. -/
def State.powerState (s : State) : Nat :=
  (decide (nominalMhz < s.power.freq)).toNat + s.deterministicHold.toNat * 2 + s.power.floorHold.toNat * 4 +
    (s.sites.any Site.trip).toNat * 8 + s.power.frozen.toNat * 16

/-- FLOORW: the manual gives a unit no value for it (log entry 14). -/
def floorWatts : Nat := (Config.freeWord 25 0).toNat

/-- STATE and SLOT as the hardware shows them. -/
def State.showState (s : State) : State := s.performBytes (s.table 5 + 44) (bytesOfNat 1 s.powerState ++ bytesOfNat 1 s.power.slot)

/-- All the RO fields, as one release. -/
def State.showPower (s : State) : State :=
  s.performBytes (s.table 5 + 28) (bytesOfNat 4 floorWatts ++ bytesOfNat 4 s.power.powerNow ++ bytesOfNat 4 s.power.grant ++
    bytesOfNat 4 s.power.freq ++ bytesOfNat 1 s.powerState ++ bytesOfNat 1 s.power.slot)

/-- THERMAL_TRIP: the floor point at once, one grant for every quarter of the die. -/
def execThermalTrip (site : Nat) (s : State) : Out :=
  let s1 := (s.modSite site (fun x => { x with trip := true })).rationSite site 1
  .next (({ s1 with power := { s1.power with freq := floorMhz } } : State).showState.report (powerReport site 0))

/-- THERMAL_TRIP_END. -/
def execThermalTripEnd (site : Nat) (s : State) : Out :=
  if !(s.sites.getD site (Site.init false)).trip then .next s
  else
    let s1 := (s.modSite site (fun x => { x with trip := false })).rationSite site 8
    let s2 := if s1.atFloor || s1.power.frozen then s1 else { s1 with power := { s1.power with freq := nominalMhz } }
    .next (s2.showState.report (powerReport site 1))

/-! ## The power block (R434) -/

/-- The members of a mask of pod devices. -/
def membersOf (mask : Nat) : List Nat := (List.range 64).filter mask.testBit

def powerOk (devno : Nat) (b : List Byte) : Bool :=
  let rack := bytesAt b 4 4
  let mask := bytesAt b 8 8
  inLimits 1000 10000 (bytesAt b 0 4) && (decide (rack = 0) || (decide (floorWatts * (membersOf mask).length ≤ rack) && mask.testBit devno)) &&
  inLimits 0 1 (byteAt b 24) && inLimits 1 8 (byteAt b 25) && zeroBytes b 26 2 && zeroBytes b 46 10

def powerOf (old : PowerBlock) (b : List Byte) : PowerBlock :=
  { old with
    devcap := bytesAt b 0 4
    rackcap := bytesAt b 4 4
    rackmask := bytesAt b 8 8
    freqmask := bytesAt b 16 8
    boost := byteAt b 24
    rationmin := byteAt b 25
    gen := bytesAt b 56 8 }

/-- POWER_BLOCK_READ. The firmware reads it, so not while it is frozen. -/
def execPowerBlockRead (s : State) : Out :=
  let pa := s.table 5
  let b := s.mem.getBytes pa 64
  if !s.hubReady || s.power.frozen || bytesAt b 56 8 = s.power.gen then .next s
  else
    .next (s.readBlock pa (powerOk s.fabric.devno b) (fun t => { t with power := powerOf t.power b })
      (fun t => { t with power := { t.power with gen := bytesAt b 56 8 } }))

/-! ## Budget epochs (R437, R438) -/

/-- BUDGET_MESSAGE: a member's demand and frequency for the next epoch, its own among them. -/
def execBudgetMessage (member demand freq : Nat) (s : State) : Out :=
  if s.power.rackmask.testBit member || s.power.freqmask.testBit member then
    .next { s with power := { s.power with demands := tabSet s.power.demands member (Nat.min demand 10000, freq) } }
  else .next s

/-- A member's demand: 10,000 W where no message arrived. -/
def PowerBlock.demand (p : PowerBlock) (i : Nat) : Nat := ((tabGet p.demands i).map Prod.fst).getD 10000
/-- Its frequency: 0.80 GHz where none arrived. -/
def PowerBlock.proposal (p : PowerBlock) (i : Nat) : Nat := ((tabGet p.demands i).map Prod.snd).getD floorMhz

/-- The sum of the demands cut off at a level. -/
def PowerBlock.cut (p : PowerBlock) (level : Nat) : Nat := (membersOf p.rackmask).foldl (fun n i => n + Nat.min (p.demand i) level) 0

/-- The grant of a member: its demand, or the level at which the grants make the rack limit, in whole watts (log entry 25). -/
def PowerBlock.grantOf (p : PowerBlock) (i : Nat) : Nat :=
  if p.cut 10000 ≤ p.rackcap then p.demand i
  else Nat.min (p.demand i) ((List.range 10001).foldl (fun best l => if p.cut l ≤ p.rackcap then l else best) 0)

/-- The device's own grant. -/
def State.ownGrant (s : State) : Nat :=
  if s.power.rackcap = 0 then s.power.devcap else Nat.min s.power.devcap (s.power.grantOf s.fabric.devno)

/-- The frequency for an epoch: the floor while it is held there; the group's least while a deterministic grid holds it; else
the nominal one (log entry 25). -/
def State.epochFreq (s : State) : Nat :=
  if s.atFloor then floorMhz
  else if s.deterministicHold then (membersOf s.power.freqmask).foldl (fun m i => Nat.min m (s.power.proposal i)) nominalMhz
  else nominalMhz

/-- The epoch of TIME. -/
def State.epochNow (s : State) : Nat := s.now / 1000000

/-- The firmware has signalled within 1 ms. -/
def State.firmwareAlive (s : State) : Bool := decide (s.now < s.power.watchdog + 1000000)

/-- BUDGET_EPOCH: a frozen controller stays as it is unless its firmware has come back; else the grant, the frequency and the
RO fields are those of the new epoch. -/
def execBudgetEpoch (s : State) : Out :=
  if s.epochNow = s.power.epoch then .next s
  else if s.power.frozen && !s.firmwareAlive then .next { s with power := { s.power with epoch := s.epochNow, demands := [] } }
  else
    let s1 := { s with power := { s.power with frozen := false, floorHold := false } }
    let (w, s2) := s1.freeWord 26
    let p := { s2.power with grant := s1.ownGrant, freq := s1.epochFreq, powerNow := w.toNat, epoch := s1.epochNow, demands := [] }
    .next ({ s2 with power := p } : State).showPower

/-! ## Firmware (R439, R444, R445) -/

/-- FIRMWARE_FREEZE: a signal was missed. -/
def execFirmwareFreeze (s : State) : Out :=
  if s.firmwareAlive || s.power.frozen then .next s
  else .next ({ s with power := { s.power with frozen := true } } : State).showState

/-- WATCHDOG_FLOOR: 50 ms without a signal. -/
def execWatchdogFloor (s : State) : Out :=
  if s.power.floorHold || decide (s.now < s.power.watchdog + 50000000) then .next s
  else .next (({ s with power := { s.power with floorHold := true, frozen := true, freq := floorMhz } } : State).showState.report (powerReport 10 2))

/-- FIRMWARE_SIGNAL of the running slot. -/
def execFirmwareSignal (slot : Nat) (s : State) : Out :=
  .next (if slot = s.power.slot then { s with power := { s.power with watchdog := s.now } } else s)

/-- FIRMWARE_SLOT_TAKEOVER at an epoch boundary. -/
def execFirmwareSlotTakeover (s : State) : Out :=
  match s.power.pendingSlot with
  | none => .next s
  | some n =>
    .next (if s.epochNow = s.power.epoch then s
      else ({ s with power := { s.power with slot := n, pendingSlot := none, watchdog := s.now } } : State).showState)

/-- An image after the ROM has verified and measured it. -/
def State.imageOf (s : State) (version : Nat) (image : List Byte) : Firmware :=
  ⟨version, Config.verifies image && decide (s.boot.minVersion ≤ version), Config.shake256 image⟩

/-- The slot that runs at start-up: of those that verify the one of the higher version. -/
def Boot.startSlot (b : Boot) (now : Nat) : Nat :=
  if b.slotA.verified && (!b.slotB.verified || decide (b.slotB.version ≤ b.slotA.version)) then 0
  else if b.slotB.verified then 1 else now

/-- FIRMWARE_VERIFY: slot 0 is A, 1 is B, 2 the hub image. After start-up only the slot that is not running is written, and an
image that verifies takes over at an epoch boundary. -/
def execFirmwareVerify (slot version : Nat) (image : List Byte) (s : State) : Out :=
  let f := s.imageOf version image
  let set := fun (b : Boot) => if slot = 0 then { b with slotA := f } else if slot = 1 then { b with slotB := f } else { b with hubImage := f }
  if 2 < slot then .next s
  else if !s.hubReady then
    let b := set s.boot
    .next { s with boot := b, power := { s.power with slot := b.startSlot s.power.slot } }
  else if slot = 2 || slot = s.power.slot then .next s
  else .next { s with
    boot := set s.boot
    power := { s.power with pendingSlot := if f.verified then some slot else s.power.pendingSlot.filter (fun x => decide (x ≠ slot)) } }

/-! ## Readiness (R440, R443) -/

/-- A function may become READY: the hub with verified images; a site or a memory die that DIE_EN names. -/
def State.mayReady (s : State) (fn : Nat) : Bool :=
  if fn = 0 then s.boot.hubImage.verified && (s.boot.slotA.verified || s.boot.slotB.verified)
  else if fn ≤ 3 then s.harvest.dieEn.testBit (fn - 1)
  else if fn ≤ 9 then s.harvest.dieEn.testBit fn
  else decide (fn ≤ 24)

/-- FUNCTION_READY: the bit is set, once; the hub shows the harvest block, a port is up, the stream engine reads its
descriptors. -/
def execFunctionReady (fn : Nat) (s : State) : Out :=
  if !s.mayReady fn || s.boot.ready.getLsbD fn then .next s
  else
    let s1 := { s with boot := { s.boot with ready := s.boot.ready ||| (1#32 <<< fn) } }
    if fn = 0 then .next ({ s1 with power := { s1.power with watchdog := s.now, epoch := s.epochNow } } : State).publishHarvest
    else if 10 ≤ fn ∧ fn ≤ 22 then .next { s1 with portsUp := s1.portsUp ||| 2 ^ (fn - 10) }
    else if fn = 24 ∧ s1.fabric.streamtab ≠ 0 then .next s1.readStreams
    else .next s1

end Sys2Proof.Machine
end

