-- ==== Sys2Proof/Machine/Agenda.lean ====
section
/-! DEFINITION. Machine/Agenda.lean: what a step does next. The agenda holds what the world outside the model has decided, in
order (log entry 7); with nothing on it the first event of the machine's own that changes anything comes about, else a quarter
issues. -/

namespace Sys2Proof.Machine

open Sys2Proof

/-! ## The events that come about by themselves -/

/-- What a wave waits for or has due. -/
noncomputable def waveEvents (key : Nat) (w : Wave) : List Instr :=
  [.trapEntry key, .waveEnd key, .sleeptDeadline key, .fwaitWake key, .pathStarvation key, .readyWaveStarvation key] ++
  w.groups.map (fun g => .laneBurstCount key g.2) ++
  (w.owed.map (fun o => [Instr.loadReturn key o.id, .divideResult key o.id, .fdivResult key o.id, .launchStatus key o.id])).flatten ++
  w.nevs.map (fun n => .nevHandleComplete key n.id)

/-- The work of a core's units. -/
noncomputable def coreEvents (core : Nat) (c : Core) : List Instr :=
  c.committed.map (fun l => .committedStorePerform core l.line) ++ c.paddock.map (fun p => .paddockAccessPerform core p.id) ++
  (List.range c.sideLog.length).map (.sideLogReplay core) ++
  (c.drover.map (fun r => [Instr.copyRequestFail core r.id, .copyRowComplete core r.id])).flatten ++
  (c.array.queue.map (fun o => [Instr.arrayFillComplete core o.id, .mmaRowComplete core o.id, .arrayOpComplete core o.id,
    .arraySerialOpStart core o.id])).flatten ++
  ((List.range 4).map (fun b => [Instr.bandWake core b, .bandWakeRateWaitEnd core b, .bandIdleOff core b])).flatten ++
  ((List.range c.tiles.length).map (fun t => [Instr.flockTileClose core t, .flockTileComplete core t])).flatten ++
  [.claimTimeout core, .penClaimComplete core]

/-- Tethers, arrivals, rays, builds, raster commands and streams. -/
noncomputable def State.unitEvents (s : State) : List Instr :=
  (s.unarmed.map (fun t => [Instr.tetherArm t.id, .tetherArmRetry t.id])).flatten ++
  ((List.range s.wakes.length).map (fun i => [Instr.tetherWake i, .savedTetherWake i])).flatten ++
  s.tethers.map (fun t => .tetherTimeout t.id) ++ (List.range s.arrivals.length).map .remoteArrivalApply ++
  (s.rays.map (fun r => [Instr.cairnResume r.id, .cairnTimeout r.id, .cairnPark r.id, .rayEnd r.id])).flatten ++
  (s.builds.map (fun j => [Instr.buildStart j.id, .buildSlotTake j.id] ++ (List.range 8).map (.buildFail j.id) ++
    (if j.refit then [] else (List.range (8 ^ j.command.cdepth)).map (fun i => .cairnRaise j.id (i + 1))) ++ [.treeLink j.id])).flatten ++
  (s.trees.map (fun x => [Instr.compactorReclaim x.1 x.2 0, .compactorReclaim x.1 x.2 1])).flatten ++ s.reclaims.map (fun x => .compactorFree x.1 x.2.1 x.2.2) ++
  (s.rasters.map (fun j => [Instr.rasterStart j.id, .rasterSmallqResume j.id] ++
    (List.range 65536).map (.rasterTileFinish j.id) ++ [.rasterDone j.id])).flatten ++
  (s.streams.map (fun x => [Instr.presentImageRead x.1, .collieDecision x.1, .streamSlotSend x.1])).flatten

/-- The sets of cores of the clusters that a placement tries. -/
def State.someSets (s : State) (c : Cand) : List (List Nat) :=
  ((s.tries c).map (fun k => setsOf (s.grid c.grid).drove (s.takers c k))).flatten

/-- Cores for one drove, rank by rank: the target of its migration, else the first that it fits as the cores stand, else the
first that it fits at all. -/
def State.firstSet (s : State) (c : Cand) : List Nat :=
  if (s.targetOf c).isEmpty then
    (((s.someSets c).findSome? (s.setFits c true [])).orElse (fun _ => (s.someSets c).findSome? (s.setFits c false []))).getD []
  else s.targetOf c

/-- Sets for the droves still to find one, so that all of them fit together: every way to use each set is tried. -/
def State.packSets (s : State) (c : Cand) : List (List Nat) → Nat → List (List Nat) → Option (List (List Nat))
  | [], need, chosen => if need = 0 then some chosen else none
  | t :: rest, need, chosen =>
    (List.range (need + 1)).reverse.findSome? (fun n =>
      let next := chosen ++ List.replicate n t
      if s.setsFit c next then s.packSets c rest (need - n) next else none)

/-- Cores for what waits: one set, or a set for each drove of a grid that is placed whole. -/
def State.coresFor (s : State) (c : Cand) : List Nat :=
  if s.whole c then ((s.packSets c (s.someSets c) (s.grid c.grid).droves []).getD []).flatten
  else s.firstSet c

/-- What the shepherd and the dispatcher have to do. -/
noncomputable def State.hubEvents (s : State) : List Instr :=
  ((List.range 256).map (fun c => [Instr.contextKill c, .contextEnable c, .pagerTableRead c])).flatten ++
  [.schedulerBlockRead, .policyBlockRead, .powerBlockRead, .fabricBlockRead, .inval, .migrate, .dup, .undup, .hotcfg, .frames, .brand,
    .attest] ++
  s.maint.map (fun m => .invalComplete m.index) ++
  (s.dups.map (fun d => (List.range 3).map (.dupCollapseAck d.1))).flatten ++
  (s.ctxs.map (fun c => c.2.upcalls.map (fun u => Instr.upcall c.1 u.page u.kind) ++
    ((List.range c.2.upcalls.length).map (fun i => [Instr.pagerMap c.1 i, .pagerRefuse c.1 i, .pagerWaitTimeout c.1 i])).flatten)).flatten ++
  (List.range 6).map .hotIntervalEnd ++ s.ctxs.map (fun c => .childLaunchTake c.1) ++ (List.range 1024).map .hostQueueTake ++
  (s.grids.map (fun g => [Instr.waitEventMet g.1, .gridRetire g.1, .timesliceExpire g.1])).flatten ++
  (s.droves.map (fun d => Instr.timedStart d.1 :: (d.2.wgs.map (fun w =>
    (List.range (s.wg w).nwaves).map (.savedWaveDeadline w))).flatten)).flatten ++
  s.cands.map (fun c =>
    match c.drove with
    | some d => if (s.drove d).phase = .saved then .droveRestore d (s.coresFor c) else .drovePlace c.grid (s.coresFor c)
    | none => .drovePlace c.grid (s.coresFor c)) ++
  (match s.head with
    | some h => allClusters.map (.backfillStop h.grid)
    | none => []) ++
  (s.quarantined.map (fun q => Instr.selftestStart q.unit q.loc)) ++ s.messages.map (fun m => .fabricTimeout m.id) ++
  [.portmodeDrainDone, .firmwareSlotTakeover, .budgetEpoch, .firmwareFreeze, .watchdogFloor]

/-- Every event that the state alone can bring about, in the order in which the model tries them. -/
noncomputable def State.ownEvents (s : State) : List Instr :=
  s.waves.foldl (fun l x => l ++ waveEvents x.1 x.2) [] ++ s.cores.foldl (fun l c => l ++ coreEvents c.1 c.2) [] ++ s.unitEvents ++ s.hubEvents

/-- What a step does next, given the machine's own event that is due. Slot B follows slot A of its clk with nothing between
them (R23). -/
noncomputable def State.work (s : State) (due : Option Instr) : Work :=
  if s.slotB.isSome then s.issueTurn else
  match s.agenda with
  | .issue :: r => ({ s with agenda := r }).issueTurn
  | .occur e :: r => if e.cls = 16 then .event e { s with agenda := r } else .stop .notAnEvent
  | .upset u :: r => .idle { s with agenda := r, upset := some u }
  | .sense c x :: r => .idle (({ s with agenda := r } : State).sense c x)
  | [] =>
    match due with
    | some e => .event e s
    | none => s.issueTurn

end Sys2Proof.Machine
end

