-- ==== Sys2Proof/Machine/Float.lean ====
section
/-! DEFINITION. Machine/Float.lean: classes 4 and 5 (chapter 8): floating point, dot products, division, the approximated
functions and the conversions. -/

namespace Sys2Proof.Machine

open Sys2Proof

/-! ## Results of one element -/

/-- `fround(F, x)` under the wave's FPMODE, as a code and exceptions (R136). -/
def FFmt.fround (F : FFmt) (w : Wave) (x : FVal) : Nat × Nat := F.round w.rm w.ftz x
/-- An element as the wave reads it (R70). -/
def FFmt.read (F : FFmt) (w : Wave) (x : Nat) : FVal := F.input w.ftz x

/-- A result of a 32-bit format as a word. -/
def asWord (r : Nat × Nat) : Word × Nat := (BitVec.ofNat 32 r.1, r.2)

def addF (F : FFmt) (w : Wave) (a b : Word) : Word × Nat :=
  asWord (F.fround w (FVal.sum w.rm [F.read w a.toNat, F.read w b.toNat]))
def mulF (F : FFmt) (w : Wave) (a b : Word) : Word × Nat := asWord (F.fround w (FVal.mul (F.read w a.toNat) (F.read w b.toNat)))
def fmaF (F : FFmt) (w : Wave) (a b c : Word) : Word × Nat :=
  asWord (F.fround w (FVal.sum w.rm [FVal.mul (F.read w a.toNat) (F.read w b.toNat), F.read w c.toNat]))
def subF (F : FFmt) (w : Wave) (a b : Word) : Word × Nat :=
  asWord (F.fround w (FVal.sum w.rm [F.read w a.toNat, (F.read w b.toNat).negate]))
def fmsF (F : FFmt) (w : Wave) (a b c : Word) : Word × Nat :=
  asWord (F.fround w (FVal.sum w.rm [FVal.mul (F.read w a.toNat) (F.read w b.toNat), (F.read w c.toNat).negate]))
def fnmaF (F : FFmt) (w : Wave) (a b c : Word) : Word × Nat :=
  asWord (F.fround w (FVal.sum w.rm [F.read w c.toNat, (FVal.mul (F.read w a.toNat) (F.read w b.toNat)).negate]))
def minmaxF (F : FFmt) (least : Bool) (w : Wave) (a b : Word) : Word × Nat := asWord (F.minMax least w.ftz a.toNat b.toNat)

/-- The two 16-bit elements of a register (R62). -/
def halfLo (x : Word) : Word := x &&& 0xFFFF#32
def halfHi (x : Word) : Word := x >>> 16
def joinHalves (lo hi : Word × Nat) : Word × Nat := (lo.1 ||| (hi.1 <<< 16), lo.2 ||| hi.2)

/-- A packed form: each element by itself (R180). -/
def packed2 (f : Wave → Word → Word → Word × Nat) (w : Wave) (a b : Word) : Word × Nat :=
  joinHalves (f w (halfLo a) (halfLo b)) (f w (halfHi a) (halfHi b))
def packed3 (f : Wave → Word → Word → Word → Word × Nat) (w : Wave) (a b c : Word) : Word × Nat :=
  joinHalves (f w (halfLo a) (halfLo b) (halfLo c)) (f w (halfHi a) (halfHi b) (halfHi c))

/-- FDOT2H (R182). -/
def dot2h (w : Wave) (dd a b : Word) : Word × Nat :=
  let r := fun (x : Word) => fp16.read w x.toNat
  asWord (fp32.fround w (FVal.sum w.rm
    [fp32.read w dd.toNat, FVal.mul (r (halfLo a)) (r (halfLo b)), FVal.mul (r (halfHi a)) (r (halfHi b))]))
/-- FDOT4Q8: the E4M3 inputs at their true values (R182). -/
def dot4q8 (w : Wave) (dd a b : Word) : Word × Nat :=
  asWord (fp32.fround w (FVal.sum w.rm
    (fp32.read w dd.toNat :: (List.range 4).map (fun i => FVal.mul (e4m3.value (fld a (8 * i) 8)) (e4m3.value (fld b (8 * i) 8))))))

/-- FCOPYSIGN (R183). -/
def copySign (w : Wave) (a b : Word) : Word × Nat :=
  match fp32.read w a.toNat with
  | .nan sig => (BitVec.ofNat 32 fp32.nan, if sig then fIV else 0)
  | v =>
    let mag := if v.isZero then 0#32 else a &&& 0x7FFFFFFF#32
    (mag ||| (b &&& 0x80000000#32), 0)

/-- FLDEXP (R183). -/
def ldexpF (w : Wave) (a b : Word) : Word × Nat :=
  match fp32.read w a.toNat with
  | .fin neg m e =>
    if m = 0 then (BitVec.ofNat 32 (fp32.signed neg 0), 0)
    else
      -- beyond these counts the result no longer changes
      let n := if b.toInt < -600 then -600 else if 600 < b.toInt then 600 else b.toInt
      asWord (fp32.fround w (.fin neg m (e + n)))
  | v => asWord (fp32.fround w v)

/-! ## Conversions (R65, R66, R73) -/

def cvtFromInt (w : Wave) (x : Int) : Word × Nat := asWord (fp32.round w.rm false (FVal.ofInt x))
def cvtToS32 (w : Wave) (a : Word) : Word × Nat :=
  let r := (fp32.read w a.toNat).saturate w.rm (-2147483648) 2147483647
  (trunc32 r.1, r.2)
def cvtToU32 (w : Wave) (a : Word) : Word × Nat :=
  let r := (fp32.read w a.toNat).saturate w.rm 0 4294967295
  (trunc32 r.1, r.2)
/-- PACKH and PACKB: two FP32 values to one pair (R73). -/
def packF (F : FFmt) (w : Wave) (a b : Word) : Word × Nat :=
  joinHalves (asWord (F.fround w (fp32.read w a.toNat))) (asWord (F.fround w (fp32.read w b.toNat)))
/-- PK8: byte k of dd replaced by the converted byte (R65). -/
def putByte (dd b x : Word) : Word :=
  let k := 8 * fld b 0 2
  (dd &&& ~~~ (0xFF#32 <<< k)) ||| ((x &&& 0xFF#32) <<< k)
/-- UNPK8: byte k of a widened (R66). -/
def unpk8 (F : FFmt) (a b : Word) : Word × Nat := (F.widen (fld a (8 * fld b 0 2) 8), 0)

/-! ## Rounding to integral values (R187) -/

/-- A finite value rounded to an integral FP32 value of the same sign. -/
def integral (mode : RMode) (neg : Bool) (m : Nat) (e : Int) : FVal × Bool :=
  let r := FVal.toInt mode neg m e
  (.fin neg r.1.natAbs 0, r.2)

/-- FFLOOR, FCEIL, FTRUNC (flag 0) and FRINT (NX when changed). -/
def roundF (mode : RMode) (inexact : Bool) (w : Wave) (a : Word) : Word × Nat :=
  match fp32.read w a.toNat with
  | .fin neg m e =>
    let r := integral mode neg m e
    (BitVec.ofNat 32 (fp32.rne r.1), if inexact && r.2 then fNX else 0)
  | v => asWord (fp32.round .rne false v)

/-- FFRACT: a − FFLOOR(a), below 1 always (R187). -/
def fractF (w : Wave) (a : Word) : Word × Nat :=
  match fp32.read w a.toNat with
  | .nan sig => (BitVec.ofNat 32 fp32.nan, if sig then fIV else 0)
  | .inf _ => (BitVec.ofNat 32 fp32.nan, fIV)
  | .fin neg m e =>
    let fl := (integral .rd neg m e).1
    let r := fp32.fround w (FVal.sum w.rm [.fin neg m e, fl.negate])
    let r := if m = 0 ∧ neg = true then (0, 0) else r
    if r.1 = 0x3F800000 then (0x3F7FFFFF#32, r.2) else asWord r

/-- FCLASS (R188): exactly one bit, read as stored. -/
def classF (a : Word) : Word :=
  let neg := a.getLsbD 31
  match fp32.value a.toNat with
  | .nan sig => if sig then 0x100#32 else 0x200#32
  | .inf _ => if neg then 0x001#32 else 0x080#32
  | .fin _ m _ =>
    if m = 0 then (if neg then 0x008#32 else 0x010#32)
    else if fp32.subnormal a.toNat then (if neg then 0x004#32 else 0x020#32)
    else (if neg then 0x002#32 else 0x040#32)

/-! ## The approximated functions (R186)

Each takes the part's own value, an opaque function of the operand, where that value meets the bound, and the nearest
value otherwise; the exact cases and the specials are the rule's. A reference value is a ratio `num/den`, computed with
an error far below the slack the test leaves. -/

/-- `num/den` in FP32 units of the last place at the exact result, counting subnormals: the exponent of one unit. -/
def ulpExp (num den : Nat) : Int := (if fp32.emin ≤ ratioExp num den then ratioExp num den else fp32.emin) - 23

/-- Whether encoding `c` lies within `tn/td * 2^q` of the signed ratio. -/
def within (c : Word) (neg : Bool) (num den : Nat) (tn td : Nat) (q : Int) : Bool :=
  match fp32.value c.toNat with
  | .fin n m e =>
    let p := if e ≤ q then e else q
    let x : Int := (m * 2 ^ (e - p).toNat : Nat)
    let x := if n then -x else x
    let scale : Nat × Nat := if 0 ≤ p then (1, 2 ^ p.toNat) else (2 ^ (-p).toNat, 1)
    -- x * 2^p against ± num/den: compare in units of 2^p
    let r : Int := (num * scale.1 : Nat)
    let r := if neg then -r else r
    let d : Int := (den * scale.2 : Nat)
    decide ((x * d - r).natAbs * td ≤ tn * 2 ^ (q - p).toNat * d.natAbs)
  | .nan _ | .inf _ => false

/-- The value of function `k` at `a`, within a tolerance of a signed ratio, with its exceptions: overflow, or NX with UF
where the result is tiny; under FTZ a tiny result is flushed. -/
def approxF (k : Nat) (w : Wave) (a : Word) (neg : Bool) (num den tn td : Nat) (q : Int) : Word × Nat :=
  let near := fp32.roundRatio .rne false neg num den
  if near.2 / fOF % 2 = 1 then (BitVec.ofNat 32 (fp32.signed neg fp32.topCode), fOF + fNX)
  else
    let c := if within (Config.approx k a) neg num den tn td q then Config.approx k a else BitVec.ofNat 32 near.1
    if c.toNat % 2 ^ 31 < 2 ^ 23 then
      (if w.ftz then BitVec.ofNat 32 (fp32.signed neg 0) else c, fUF + fNX)
    else (c, fNX)

/-- An exact case (R186): a tiny one counts as underflow only where its trap is enabled, and is flushed under FTZ. -/
def exactF (w : Wave) (neg : Bool) (m : Nat) (e : Int) : Word × Nat := asWord (fp32.round .rne w.ftz (.fin neg m e))

def nanF (iv : Bool) : Word × Nat := (BitVec.ofNat 32 fp32.nan, if iv then fIV else 0)
def infF (neg : Bool) (fl : Nat) : Word × Nat := (BitVec.ofNat 32 (fp32.signed neg fp32.topCode), fl)
def zeroF (neg : Bool) : Word × Nat := (BitVec.ofNat 32 (fp32.signed neg 0), 0)

/-- A magnitude as an odd number times a power of two. -/
def oddPart : Nat → Nat → Int → Nat × Int
  | 0, m, e => (m, e)
  | fuel + 1, m, e => if m % 2 = 0 then oddPart fuel (m / 2) (e + 1) else (m, e)

/-- A magnitude over a power of two as a ratio. -/
def ratio (m : Nat) (e : Int) : Nat × Nat := if 0 ≤ e then (m * 2 ^ e.toNat, 1) else (m, 2 ^ (-e).toNat)

def rcpF (w : Wave) (a : Word) : Word × Nat :=
  match fp32.read w a.toNat with
  | .nan sig => nanF sig
  | .inf neg => zeroF neg
  | .fin neg m e =>
    if m = 0 then infF neg fDZ
    else
      let (o, g) := oddPart 24 m e
      if o = 1 ∧ -126 ≤ -g ∧ -g ≤ 127 then exactF w neg 1 (-g)
      else
        let (p, r) := ratio m e
        approxF 0 w a neg r p 1 1 (ulpExp r p)

def rsqF (w : Wave) (a : Word) : Word × Nat :=
  match fp32.read w a.toNat with
  | .nan sig => nanF sig
  | .inf neg => if neg then nanF true else zeroF false
  | .fin neg m e =>
    if m = 0 then infF neg fDZ
    else if neg then nanF true
    else
      let (o, g) := oddPart 24 m e
      if o = 1 ∧ g % 2 = 0 then exactF w false 1 (-g / 2)
      else
        -- √(2^k·den/num) with an even k that keeps 80 bits
        let (p, r) := ratio m e
        let big := isqrt (r * 2 ^ 400 / p)
        approxF 1 w a false big (2 ^ 200) 127 64 (ulpExp big (2 ^ 200))

/-- 2^(i-th bit of a fraction): the product of the roots of two that the bits of `f` (of 2^60) choose, in units of 2^64. -/
def exp2Frac : Nat → Nat → Nat → Nat → Nat
  | 0, _, _, acc => acc
  | fuel + 1, f, root, acc =>
    let root' := isqrt (root * 2 ^ 64)
    exp2Frac fuel (f * 2 % 2 ^ 60) root' (if 2 ^ 59 ≤ f then acc * root' / 2 ^ 64 else acc)

/-- The whole part and the 60-bit fraction of a value, rounded down: a small negative value is just below 0. -/
def splitFixed (neg : Bool) (m : Nat) (e : Int) : Int × Nat :=
  let y := (FVal.toInt .rd neg m (e + 60)).1
  (y / 2 ^ 60, (y % 2 ^ 60).toNat)

def exp2F (w : Wave) (a : Word) : Word × Nat :=
  match fp32.read w a.toNat with
  | .nan sig => nanF sig
  | .inf neg => if neg then zeroF false else infF false 0
  | .fin neg m e =>
    if m = 0 then exactF w false 1 0
    else
      let (o, g) := oddPart 24 m e
      -- beyond ±512 the result is past every bound
      if 9 < g + Nat.log2 o then (if neg then approxF 2 w a false 1 (2 ^ 512) 127 64 (-149) else infF false (fOF + fNX))
      else
        let (n, f) := splitFixed neg m e
        if 0 ≤ g ∧ -149 ≤ n ∧ n ≤ 127 then exactF w false 1 n
        else if 128 ≤ n then infF false (fOF + fNX)
        else
          let v := exp2Frac 60 f (2 ^ 65) (2 ^ 64)
          let (p, r) := ratio v (n - 64)
          approxF 2 w a false p r 127 64 (ulpExp p r)

/-- The fraction bits of log2 of `x` in [1, 2), in units of 2^64, by squaring. -/
def log2Frac : Nat → Nat → Nat → Nat
  | 0, _, acc => acc
  | fuel + 1, x, acc =>
    let y := x * x / 2 ^ 64
    if 2 ^ 65 ≤ y then log2Frac fuel (y / 2) (2 * acc + 1) else log2Frac fuel y (2 * acc)

def log2F (w : Wave) (a : Word) : Word × Nat :=
  match fp32.read w a.toNat with
  | .nan sig => nanF sig
  | .inf neg => if neg then nanF true else infF false 0
  | .fin neg m e =>
    if m = 0 then infF true fDZ
    else if neg then nanF true
    else
      let (o, g) := oddPart 24 m e
      if o = 1 then
        let v := FVal.ofInt g
        match v with
        | .fin n k x => exactF w n k x
        | _ => zeroF false
      else
        let b := Nat.log2 m
        let ex : Int := e + b
        let fr := log2Frac 48 (m * 2 ^ 64 / 2 ^ b) 0
        let v : Int := ex * 2 ^ 48 + fr
        let num := v.natAbs
        if -1 ≤ ex ∧ ex ≤ 0 then approxF 3 w a (decide (v < 0)) num (2 ^ 48) 63 64 (-22)
        else approxF 3 w a (decide (v < 0)) num (2 ^ 48) 127 64 (ulpExp num (2 ^ 48))

/-- 2π in units of 2^-80. -/
def twoPi : Nat := 7595904947272677161575987

/-- The Taylor terms of the sine of `x` (units of 2^-80), from term `t` of degree `n`. -/
def sinSeries : Nat → Nat → Int → Int → Int
  | 0, _, _, _ => 0
  | fuel + 1, n, x2, t =>
    let t' := -(t * x2 / 2 ^ 80) / ((n + 1) * (n + 2) : Nat)
    t + sinSeries fuel (n + 2) x2 t'

/-- sin(2πr) or cos(2πr) for r in units of 2^-80, |r| ≤ 1/2, in units of 2^-80. -/
def sinTurn (cosine : Bool) (r : Int) : Int :=
  let x := r * twoPi / 2 ^ 80
  let x2 := x * x / 2 ^ 80
  if cosine then sinSeries 20 0 x2 (2 ^ 80) else sinSeries 20 1 x2 x

def trigF (cosine : Bool) (w : Wave) (a : Word) : Word × Nat :=
  match fp32.read w a.toNat with
  | .nan sig => nanF sig
  | .inf _ => nanF true
  | .fin neg m e =>
    if m = 0 then (if cosine then exactF w false 1 0 else zeroF neg)
    else
      -- four times a, exactly: a multiple of 0.25 where it is whole
      let quarter := FVal.toInt .rd neg m (if e + 2 ≤ 30 then e + 2 else 30)
      if quarter.2 = false then
        let k := (if e + 2 ≤ 30 then quarter.1 else 0) % 4
        let k := if cosine then (k + 1) % 4 else k
        if k = 1 then exactF w false 1 0 else if k = 3 then exactF w true 1 0 else zeroF false
      else
        let near := FVal.toInt .rne neg m e
        let x : Int := if 0 ≤ e + 80 then ((m * 2 ^ (e + 80).toNat : Nat) : Int) else ((m / 2 ^ (-(e + 80)).toNat : Nat) : Int)
        let r := (if neg then -x else x) - near.1 * 2 ^ 80
        let v := sinTurn cosine r
        approxF (if cosine then 5 else 4) w a (decide (v < 0)) v.natAbs (2 ^ 80) 63 64 (-21)

/-! ## Class 4 -/

def fbin (i : Instr) (k : FKind) (n : Bool) (d : VDst) (a b : VSrc) (f : Wave → Word → Word → Word × Nat) (s : State) : Out :=
  floating i k (fun w l => f w (w.v32 l a) (w.v32 l b))
    (fun v s => (if n then s else s.putD d v).push false (fun l => (v l).setWidth 64)) s
def fter (i : Instr) (k : FKind) (n : Bool) (d : VDst) (a b : VSrc) (f : Wave → Word → Word → Word → Word × Nat) (s : State) : Out :=
  floating i k (fun w l => f w (w.v32 l a) (w.v32 l b) (w.vd32 l d))
    (fun v s => (if n then s else s.putD d v).push false (fun l => (v l).setWidth 64)) s
def fun1 (i : Instr) (k : FKind) (n : Bool) (d : VDst) (a : VSrc) (f : Wave → Word → Word × Nat) (s : State) : Out :=
  floating i k (fun w l => f w (w.v32 l a))
    (fun v s => (if n then s else s.putD d v).push false (fun l => (v l).setWidth 64)) s
/-- A form with an integer result: flags, no shadow (R179). -/
def fint (i : Instr) (n : Bool) (d : VDst) (f : Wave → Nat → Word × Nat) (s : State) : Out :=
  flagged i (fun w l => (f w l).2)
    (fun s => (if n then s else s.putD d (fun l => (f s.src l).1)).push false (fun l => ((f s.src l).1).setWidth 64)) s
/-- FCMPM (R181). -/
def fcmpm (i : Instr) (d : MReg) (c : FCond) (a b : VSrc) (s : State) : Out :=
  flagged i (fun w l => (fcmpF c w.ftz (w.v32 l a).toNat (w.v32 l b).toNat).2)
    (fun s => s.putM d (s.lanesWhere (fun l => (fcmpF c s.src.ftz (s.src.v32 l a).toNat (s.src.v32 l b).toNat).1))) s

def execFadd (n : Bool) (d : VDst) (a b : VSrc) (s : State) : Out := fbin (.fadd n d a b) .single n d a b (addF fp32) s
def execFsub (n : Bool) (d : VDst) (a b : VSrc) (s : State) : Out := fbin (.fsub n d a b) .single n d a b (subF fp32) s
def execFmul (n : Bool) (d : VDst) (a b : VSrc) (s : State) : Out := fbin (.fmul n d a b) .single n d a b (mulF fp32) s
def execFfma (n : Bool) (d : VDst) (a b : VSrc) (s : State) : Out := fter (.ffma n d a b) .single n d a b (fmaF fp32) s
def execFfms (n : Bool) (d : VDst) (a b : VSrc) (s : State) : Out := fter (.ffms n d a b) .single n d a b (fmsF fp32) s
def execFnma (n : Bool) (d : VDst) (a b : VSrc) (s : State) : Out := fter (.fnma n d a b) .single n d a b (fnmaF fp32) s
def execFmin (n : Bool) (d : VDst) (a b : VSrc) (s : State) : Out := fbin (.fmin n d a b) .single n d a b (minmaxF fp32 true) s
def execFmax (n : Bool) (d : VDst) (a b : VSrc) (s : State) : Out := fbin (.fmax n d a b) .single n d a b (minmaxF fp32 false) s
def execFcmpEq (n : Bool) (d : VDst) (a b : VSrc) (s : State) : Out :=
  fint (.fcmpEq n d a b) n d (fun w l =>
    let r := fcmpF .eq w.ftz (w.v32 l a).toNat (w.v32 l b).toNat
    (allOnes r.1, r.2)) s
def execFcmpNe (n : Bool) (d : VDst) (a b : VSrc) (s : State) : Out :=
  fint (.fcmpNe n d a b) n d (fun w l =>
    let r := fcmpF .ne w.ftz (w.v32 l a).toNat (w.v32 l b).toNat
    (allOnes r.1, r.2)) s
def execFcmpLt (n : Bool) (d : VDst) (a b : VSrc) (s : State) : Out :=
  fint (.fcmpLt n d a b) n d (fun w l =>
    let r := fcmpF .lt w.ftz (w.v32 l a).toNat (w.v32 l b).toNat
    (allOnes r.1, r.2)) s
def execFcmpLe (n : Bool) (d : VDst) (a b : VSrc) (s : State) : Out :=
  fint (.fcmpLe n d a b) n d (fun w l =>
    let r := fcmpF .le w.ftz (w.v32 l a).toNat (w.v32 l b).toNat
    (allOnes r.1, r.2)) s
def execFcmpUn (n : Bool) (d : VDst) (a b : VSrc) (s : State) : Out :=
  fint (.fcmpUn n d a b) n d (fun w l =>
    let r := fcmpF .un w.ftz (w.v32 l a).toNat (w.v32 l b).toNat
    (allOnes r.1, r.2)) s
def execFcmpOd (n : Bool) (d : VDst) (a b : VSrc) (s : State) : Out :=
  fint (.fcmpOd n d a b) n d (fun w l =>
    let r := fcmpF .od w.ftz (w.v32 l a).toNat (w.v32 l b).toNat
    (allOnes r.1, r.2)) s
def execFcmpmEq (d : MReg) (a b : VSrc) (s : State) : Out := fcmpm (.fcmpmEq d a b) d .eq a b s
def execFcmpmNe (d : MReg) (a b : VSrc) (s : State) : Out := fcmpm (.fcmpmNe d a b) d .ne a b s
def execFcmpmLt (d : MReg) (a b : VSrc) (s : State) : Out := fcmpm (.fcmpmLt d a b) d .lt a b s
def execFcmpmLe (d : MReg) (a b : VSrc) (s : State) : Out := fcmpm (.fcmpmLe d a b) d .le a b s
def execFcmpmUn (d : MReg) (a b : VSrc) (s : State) : Out := fcmpm (.fcmpmUn d a b) d .un a b s
def execFcmpmOd (d : MReg) (a b : VSrc) (s : State) : Out := fcmpm (.fcmpmOd d a b) d .od a b s
def execHadd2 (n : Bool) (d : VDst) (a b : VSrc) (s : State) : Out := fbin (.hadd2 n d a b) .halves n d a b (packed2 (addF fp16)) s
def execHmul2 (n : Bool) (d : VDst) (a b : VSrc) (s : State) : Out := fbin (.hmul2 n d a b) .halves n d a b (packed2 (mulF fp16)) s
def execHfma2 (n : Bool) (d : VDst) (a b : VSrc) (s : State) : Out := fter (.hfma2 n d a b) .halves n d a b (packed3 (fmaF fp16)) s
def execHmin2 (n : Bool) (d : VDst) (a b : VSrc) (s : State) : Out := fbin (.hmin2 n d a b) .halves n d a b (packed2 (minmaxF fp16 true)) s
def execHmax2 (n : Bool) (d : VDst) (a b : VSrc) (s : State) : Out := fbin (.hmax2 n d a b) .halves n d a b (packed2 (minmaxF fp16 false)) s
def execBadd2 (n : Bool) (d : VDst) (a b : VSrc) (s : State) : Out := fbin (.badd2 n d a b) .bhalves n d a b (packed2 (addF bf16)) s
def execBmul2 (n : Bool) (d : VDst) (a b : VSrc) (s : State) : Out := fbin (.bmul2 n d a b) .bhalves n d a b (packed2 (mulF bf16)) s
def execBfma2 (n : Bool) (d : VDst) (a b : VSrc) (s : State) : Out := fter (.bfma2 n d a b) .bhalves n d a b (packed3 (fmaF bf16)) s
def execFdot2h (n : Bool) (d : VDst) (a b : VSrc) (s : State) : Out := fter (.fdot2h n d a b) .single n d a b (fun w x y z => dot2h w z x y) s
def execFdot4q8 (n : Bool) (d : VDst) (a b : VSrc) (s : State) : Out := fter (.fdot4q8 n d a b) .single n d a b (fun w x y z => dot4q8 w z x y) s
def execFcopysign (n : Bool) (d : VDst) (a b : VSrc) (s : State) : Out := fbin (.fcopysign n d a b) .single n d a b (copySign) s
def execFldexp (n : Bool) (d : VDst) (a b : VSrc) (s : State) : Out := fbin (.fldexp n d a b) .single n d a b (ldexpF) s

/-- The quotient of FDIV. -/
def quotF (w : Wave) (a b : Word) : Word × Nat := asWord (fp32.div w.rm w.ftz (fp32.read w a.toNat) (fp32.read w b.toNat))

/-- FDIV (R184): with a trap enabled the wave waits for the result, and FPEXC or SHADOW is precise at the FDIV; otherwise
the result and its exceptions arrive later, or the failure of a check is found then. -/
def execFdiv (d : VDst) (a b : VSrc) (s : State) : Out :=
  match s.issueTrap (.fdiv d a b) false with
  | some t => .next (s.raise t)
  | none =>
    let r := fun l => quotF s.src (s.src.v32 l a) (s.src.v32 l b)
    let val := fun l => (r l).1
    let fl := fun l => (r l).2
    let bad := s.shadowLanes s.strikes .single val
    let owed := fun (n : VReg) (b : Mask) => s.spend.owe .fdiv (.vec (s.src.wb + n.val) 1) s.active
      (perLane s.active (s.struck s.strikes .single val)) (combined s.active fl) b false
    if s.src.traps ≠ 0 then
      if bad ≠ 0#32 then .next (s.shadowRecord.raise (s.mkTrap causeShadow 0 bad 0))
      else match s.fpTrap fl with
        | some t => .next (s.raise t)
        | none =>
          match d with
          | .reg n => .next ((owed n 0#32).modCur (fun w => { w with wait := .fdiv })).adv
          | .discard => .next (s.spend.raiseFlags (combined s.active fl)).adv
    else
      match d with
      | .reg n => .next (owed n bad).adv
      | .discard => .next (if bad = 0#32 then s.spend.raiseFlags (combined s.active fl) else s.shadowRecord).adv

/-- FDIV_RESULT (R184): the oldest FDIV of a wave still under way arrives; a wave that waited for it goes on. -/
def execFdivResult (key id : Nat) (s : State) : Out :=
  match (s.wave key).owed.find? (fun o => decide (o.kind = .fdiv) && !o.arrived) with
  | some o =>
    .next (if o.id = id then
      let s1 := s.modWave key (fun w =>
        let w1 := w.arrive id
        if w1.wait = .fdiv ∧ ¬ (w1.owed.any (fun o => decide (o.kind = .fdiv) && !o.arrived)) = true then { w1 with wait := .none } else w1)
      if o.bad = 0#32 then s1 else s1.shadowFound key
    else s)
  | none => .next s

/-! ## Class 5 -/

def execFrcp (n : Bool) (d : VDst) (a : VSrc) (s : State) : Out := fun1 (.frcp n d a) .single n d a (rcpF) s
def execFrsq (n : Bool) (d : VDst) (a : VSrc) (s : State) : Out := fun1 (.frsq n d a) .single n d a (rsqF) s
def execFsqrt (n : Bool) (d : VDst) (a : VSrc) (s : State) : Out := fun1 (.fsqrt n d a) .single n d a (fun w x => asWord (fp32.sqrt w.rm w.ftz (fp32.read w x.toNat))) s
def execFexp2 (n : Bool) (d : VDst) (a : VSrc) (s : State) : Out := fun1 (.fexp2 n d a) .single n d a (exp2F) s
def execFlog2 (n : Bool) (d : VDst) (a : VSrc) (s : State) : Out := fun1 (.flog2 n d a) .single n d a (log2F) s
def execFsinp (n : Bool) (d : VDst) (a : VSrc) (s : State) : Out := fun1 (.fsinp n d a) .single n d a (trigF false) s
def execFcosp (n : Bool) (d : VDst) (a : VSrc) (s : State) : Out := fun1 (.fcosp n d a) .single n d a (trigF true) s
def execFfloor (n : Bool) (d : VDst) (a : VSrc) (s : State) : Out := fun1 (.ffloor n d a) .single n d a (roundF .rd false) s
def execFceil (n : Bool) (d : VDst) (a : VSrc) (s : State) : Out := fun1 (.fceil n d a) .single n d a (roundF .ru false) s
def execFtrunc (n : Bool) (d : VDst) (a : VSrc) (s : State) : Out := fun1 (.ftrunc n d a) .single n d a (roundF .rz false) s
def execFrint (n : Bool) (d : VDst) (a : VSrc) (s : State) : Out := fun1 (.frint n d a) .single n d a (fun w x => roundF w.rm true w x) s
def execFfract (n : Bool) (d : VDst) (a : VSrc) (s : State) : Out := fun1 (.ffract n d a) .single n d a (fractF) s
def execFclass (n : Bool) (d : VDst) (a : VSrc) (s : State) : Out := alu32 (.fclass n d a) n d (fun w l => classF (w.v32 l a)) s
def execCvtF32S32 (n : Bool) (d : VDst) (a : VSrc) (s : State) : Out := fun1 (.cvtF32S32 n d a) .single n d a (fun w x => cvtFromInt w x.toInt) s
def execCvtF32U32 (n : Bool) (d : VDst) (a : VSrc) (s : State) : Out := fun1 (.cvtF32U32 n d a) .single n d a (fun w x => cvtFromInt w x.toNat) s
def execCvtS32F32 (n : Bool) (d : VDst) (a : VSrc) (s : State) : Out :=
  fint (.cvtS32F32 n d a) n d (fun w l => cvtToS32 w (w.v32 l a)) s
def execCvtU32F32 (n : Bool) (d : VDst) (a : VSrc) (s : State) : Out :=
  fint (.cvtU32F32 n d a) n d (fun w l => cvtToU32 w (w.v32 l a)) s
def execPackh (n : Bool) (d : VDst) (a b : VSrc) (s : State) : Out := fbin (.packh n d a b) .halves n d a b (packF fp16) s
def execCvtF32HLo (n : Bool) (d : VDst) (a : VSrc) (s : State) : Out := fun1 (.cvtF32HLo n d a) .single n d a (fun _ x => (fp16.widen (halfLo x).toNat, 0)) s
def execCvtF32HHi (n : Bool) (d : VDst) (a : VSrc) (s : State) : Out := fun1 (.cvtF32HHi n d a) .single n d a (fun _ x => (fp16.widen (halfHi x).toNat, 0)) s
def execPackb (n : Bool) (d : VDst) (a b : VSrc) (s : State) : Out := fbin (.packb n d a b) .bhalves n d a b (packF bf16) s
def execCvtF32BLo (n : Bool) (d : VDst) (a : VSrc) (s : State) : Out := fun1 (.cvtF32BLo n d a) .single n d a (fun _ x => (bf16.widen (halfLo x).toNat, 0)) s
def execCvtF32BHi (n : Bool) (d : VDst) (a : VSrc) (s : State) : Out := fun1 (.cvtF32BHi n d a) .single n d a (fun _ x => (bf16.widen (halfHi x).toNat, 0)) s

/-- PK8: an enabled trap is ignored; the exceptions join FPFLAGS (R65). -/
def packByte (i : Instr) (k : FKind) (F : FFmt) (n : Bool) (d : VDst) (a b : VSrc) (s : State) : Out :=
  match s.issueTrap i false with
  | some t => .next (s.raise t)
  | none =>
    let r := fun l => asWord (F.pack8 (s.src.v32 l a).toNat)
    let val := fun l => (r l).1
    match s.shadowTrap s.strikes k val with
    | some t => .next (s.shadowRecord.raise t)
    | none =>
      let v := fun l => putByte (s.src.vd32 l d) (s.src.v32 l b) (s.struck s.strikes k val l)
      let s0 := s.spend
      .next (((if n then s0 else s0.putD d v).push false (fun l => (v l).setWidth 64)).raiseFlags (combined s.active (fun l => (r l).2))).adv

def execPk8E4 (n : Bool) (d : VDst) (a b : VSrc) (s : State) : Out := packByte (.pk8E4 n d a b) .e4 e4m3 n d a b s
def execPk8E5 (n : Bool) (d : VDst) (a b : VSrc) (s : State) : Out := packByte (.pk8E5 n d a b) .e5 e5m2 n d a b s
def execUnpk8E4 (n : Bool) (d : VDst) (a b : VSrc) (s : State) : Out := fbin (.unpk8E4 n d a b) .single n d a b (fun _ x y => unpk8 e4m3 x y) s
def execUnpk8E5 (n : Bool) (d : VDst) (a b : VSrc) (s : State) : Out := fbin (.unpk8E5 n d a b) .single n d a b (fun _ x y => unpk8 e5m2 x y) s

end Sys2Proof.Machine
end

