-- ==== Sys2Proof/Machine/Uniform.lean ====
section
/-! DEFINITION. Machine/Uniform.lean: class 7 (7.4, 7.5): one execution an issue on the wave's s registers. -/

namespace Sys2Proof.Machine

open Sys2Proof

/-- A uniform result of 32 bits, from the wave as it stood before the clk (R174). -/
def uni32 (i : Instr) (d : UDst) (f : Wave → Word) (s : State) : Out := plain i (fun s => (s.putU d (f s.src)).adv) s
/-- A form of two 32-bit operands. -/
def uniBin (i : Instr) (d : UDst) (a b : USrc) (f : Word → Word → Word) (s : State) : Out :=
  uni32 i d (fun w => f (w.u32 a) (w.u32 b)) s
/-- A form that reads d. -/
def uniTer (i : Instr) (d : UDst) (a b : USrc) (f : Word → Word → Word → Word) (s : State) : Out :=
  uni32 i d (fun w => f (w.ud32 d) (w.u32 a) (w.u32 b)) s

/-- A uniform floating-point form: one FP32 element under the SIMT rules (R177). Its one result is every active lane's: they
are the LANES of its FPEXC and of its SHADOW (log entry 52). -/
def uniFp (i : Instr) (d : UDst) (f : Wave → Word × Nat) (s : State) : Out :=
  floatingIn (fun s => if s.strikes = 0#32 then 0#32 else s.active) i .single (fun w _ => f w)
    (fun v s => s.putU d (v ((lowestLane s.active).getD 0))) s

def execSadd (d : UDst) (a b : USrc) (s : State) : Out := uniBin (.sadd d a b) d a b (fun x y => x + y) s
def execSsub (d : UDst) (a b : USrc) (s : State) : Out := uniBin (.ssub d a b) d a b (fun x y => x - y) s
def execSmul (d : UDst) (a b : USrc) (s : State) : Out := uniBin (.smul d a b) d a b (fun x y => x * y) s
def execSmad (d : UDst) (a b : USrc) (s : State) : Out := uniTer (.smad d a b) d a b (fun z x y => z + x * y) s
def execSand (d : UDst) (a b : USrc) (s : State) : Out := uniBin (.sand d a b) d a b (fun x y => x &&& y) s
def execSor (d : UDst) (a b : USrc) (s : State) : Out := uniBin (.sor d a b) d a b (fun x y => x ||| y) s
def execSxor (d : UDst) (a b : USrc) (s : State) : Out := uniBin (.sxor d a b) d a b (fun x y => x ^^^ y) s
def execSshl (d : UDst) (a b : USrc) (s : State) : Out := uniBin (.sshl d a b) d a b (shl32) s
def execSshr (d : UDst) (a b : USrc) (s : State) : Out := uniBin (.sshr d a b) d a b (srl32) s
def execSsra (d : UDst) (a b : USrc) (s : State) : Out := uniBin (.ssra d a b) d a b (sra32) s
def execSmin (d : UDst) (a b : USrc) (s : State) : Out := uniBin (.smin d a b) d a b (minS) s
def execSmax (d : UDst) (a b : USrc) (s : State) : Out := uniBin (.smax d a b) d a b (maxS) s
def execSminu (d : UDst) (a b : USrc) (s : State) : Out := uniBin (.sminu d a b) d a b (minU) s
def execSmaxu (d : UDst) (a b : USrc) (s : State) : Out := uniBin (.smaxu d a b) d a b (maxU) s
def execSadd64 (d : UDst) (a b : USrc) (s : State) : Out :=
  plain (.sadd64 d a b) (fun s => (s.putU64 d (s.src.u64 a + s.src.u64 b)).adv) s
def execScmpEq (d : UDst) (a b : USrc) (s : State) : Out := uniBin (.scmpEq d a b) d a b (fun x y => if ICond.holds .eq x y then 1#32 else 0#32) s
def execScmpNe (d : UDst) (a b : USrc) (s : State) : Out := uniBin (.scmpNe d a b) d a b (fun x y => if ICond.holds .ne x y then 1#32 else 0#32) s
def execScmpLt (d : UDst) (a b : USrc) (s : State) : Out := uniBin (.scmpLt d a b) d a b (fun x y => if ICond.holds .lt x y then 1#32 else 0#32) s
def execScmpLe (d : UDst) (a b : USrc) (s : State) : Out := uniBin (.scmpLe d a b) d a b (fun x y => if ICond.holds .le x y then 1#32 else 0#32) s
def execScmpLtu (d : UDst) (a b : USrc) (s : State) : Out := uniBin (.scmpLtu d a b) d a b (fun x y => if ICond.holds .ltu x y then 1#32 else 0#32) s
def execScmpLeu (d : UDst) (a b : USrc) (s : State) : Out := uniBin (.scmpLeu d a b) d a b (fun x y => if ICond.holds .leu x y then 1#32 else 0#32) s

/-! ## Between the files (R176) -/

def execSbcast (d : VDst) (a : USrc) (s : State) : Out :=
  plain (.sbcast d a) (fun s => (s.putD d (fun _ => s.src.u32 a)).adv) s
/-- The lane an operand names: its low 5 bits. -/
def Wave.laneNo (w : Wave) (b : USrc) : Nat := fld (w.u32 b) 0 5
def execSrdlane (d : UDst) (a : VReg) (b : USrc) (s : State) : Out :=
  uni32 (.srdlane d a b) d (fun w => w.vreg (w.laneNo b) a.val) s
/-- The lanes SWRLANE writes: lane k where it is live. -/
def Wave.target (w : Wave) (b : USrc) : Mask := w.live &&& (1#32 <<< w.laneNo b)
def execSwrlane (d : VDst) (a b : USrc) (s : State) : Out :=
  plain (.swrlane d a b) (fun s =>
    (match d with
      | .reg n => s.putV (s.src.target b) n.val (fun _ => s.src.u32 a)
      | .discard => s).adv) s

def execSdivu (d : UDst) (a b : USrc) (s : State) : Out := uniBin (.sdivu d a b) d a b (divU) s
def execSremu (d : UDst) (a b : USrc) (s : State) : Out := uniBin (.sremu d a b) d a b (remU) s
def execSsel (d : UDst) (a b : USrc) (s : State) : Out := uniTer (.ssel d a b) d a b (fun z x y => if z ≠ 0#32 then x else y) s

/-! ## Uniform floating point (R177) -/

def execSfadd (d : UDst) (a b : USrc) (s : State) : Out :=
  uniFp (.sfadd d a b) d (fun w => addF fp32 w (w.u32 a) (w.u32 b)) s
def execSfmul (d : UDst) (a b : USrc) (s : State) : Out :=
  uniFp (.sfmul d a b) d (fun w => mulF fp32 w (w.u32 a) (w.u32 b)) s
def execSffma (d : UDst) (a b : USrc) (s : State) : Out :=
  uniFp (.sffma d a b) d (fun w => fmaF fp32 w (w.u32 a) (w.u32 b) (w.ud32 d)) s
def execScvtf (d : UDst) (a : USrc) (s : State) : Out :=
  uniFp (.scvtf d a) d (fun w => cvtFromInt w (w.u32 a).toInt) s
def execScvti (d : UDst) (a : USrc) (s : State) : Out :=
  flagged (.scvti d a) (fun w _ => (cvtToS32 w (w.u32 a)).2) (fun s => s.putU d (cvtToS32 s.src (s.src.u32 a)).1) s

end Sys2Proof.Machine
end

