-- ==== Sys2Proof/Machine/Dispatch.lean ====
section
/-! DEFINITION. Machine/Dispatch.lean: one arm a row of the opcode table, each a call of its meaning. -/

namespace Sys2Proof.Machine

open Sys2Proof

open Sys2Proof in noncomputable
def exec (i : Instr) (s : State) : Host.Outcome State Fault Refusal :=
  match i with
  | .bra off => Sys2Proof.Machine.execBra off s
  | .brin m off => Sys2Proof.Machine.execBrin m off s
  | .brout m off => Sys2Proof.Machine.execBrout m off s
  | .bany m off => Sys2Proof.Machine.execBany m off s
  | .ball m off => Sys2Proof.Machine.execBall m off s
  | .call m off => Sys2Proof.Machine.execCall m off s
  | .bsz r off => Sys2Proof.Machine.execBsz r off s
  | .bsnz r off => Sys2Proof.Machine.execBsnz r off s
  | .jmpi a => Sys2Proof.Machine.execJmpi a s
  | .calli a => Sys2Proof.Machine.execCalli a s
  | .ret => Sys2Proof.Machine.execRet s
  | .join m => Sys2Proof.Machine.execJoin m s
  | .leave m => Sys2Proof.Machine.execLeave m s
  | .waitm m => Sys2Proof.Machine.execWaitm m s
  | .yield => Sys2Proof.Machine.execYield s
  | .nop => Sys2Proof.Machine.execNop s
  | .trap code => Sys2Proof.Machine.execTrap code s
  | .brk => Sys2Proof.Machine.execBrk s
  | .exit => Sys2Proof.Machine.execExit s
  | .win k => Sys2Proof.Machine.execWin k s
  | .winadd k => Sys2Proof.Machine.execWinadd k s
  | .rdcr d cr => Sys2Proof.Machine.execRdcr d cr s
  | .rdcrD d cr => Sys2Proof.Machine.execRdcrD d cr s
  | .wrcr a cr => Sys2Proof.Machine.execWrcr a cr s
  | .rte => Sys2Proof.Machine.execRte s
  | .rdst d a item => Sys2Proof.Machine.execRdst d a item s
  | .wrst d a item => Sys2Proof.Machine.execWrst d a item s
  | .launch d a => Sys2Proof.Machine.execLaunch d a s
  | .gbar => Sys2Proof.Machine.execGbar s
  | .sleept a => Sys2Proof.Machine.execSleept a s
  | .sleeptAbs a => Sys2Proof.Machine.execSleeptAbs a s
  | .wake => Sys2Proof.Machine.execWake s
  | .setmodeFpmode a => Sys2Proof.Machine.execSetmodeFpmode a s
  | .setmodeFpflags a => Sys2Proof.Machine.execSetmodeFpflags a s
  | .setmodeOobflags a => Sys2Proof.Machine.execSetmodeOobflags a s
  | .setmodeDegencount a => Sys2Proof.Machine.execSetmodeDegencount a s
  | .add n d a b => Sys2Proof.Machine.execAdd n d a b s
  | .sub n d a b => Sys2Proof.Machine.execSub n d a b s
  | .mul n d a b => Sys2Proof.Machine.execMul n d a b s
  | .mulhi n d a b => Sys2Proof.Machine.execMulhi n d a b s
  | .mulhiu n d a b => Sys2Proof.Machine.execMulhiu n d a b s
  | .mad n d a b => Sys2Proof.Machine.execMad n d a b s
  | .madw n d a b => Sys2Proof.Machine.execMadw n d a b s
  | .add64 n d a b => Sys2Proof.Machine.execAdd64 n d a b s
  | .sub64 n d a b => Sys2Proof.Machine.execSub64 n d a b s
  | .mul64 n d a b => Sys2Proof.Machine.execMul64 n d a b s
  | .min n d a b => Sys2Proof.Machine.execMin n d a b s
  | .max n d a b => Sys2Proof.Machine.execMax n d a b s
  | .minu n d a b => Sys2Proof.Machine.execMinu n d a b s
  | .maxu n d a b => Sys2Proof.Machine.execMaxu n d a b s
  | .absd n d a b => Sys2Proof.Machine.execAbsd n d a b s
  | .csel n d a b => Sys2Proof.Machine.execCsel n d a b s
  | .and n d a b => Sys2Proof.Machine.execAnd n d a b s
  | .or n d a b => Sys2Proof.Machine.execOr n d a b s
  | .xor n d a b => Sys2Proof.Machine.execXor n d a b s
  | .andn n d a b => Sys2Proof.Machine.execAndn n d a b s
  | .shl n d a b => Sys2Proof.Machine.execShl n d a b s
  | .srl n d a b => Sys2Proof.Machine.execSrl n d a b s
  | .sra n d a b => Sys2Proof.Machine.execSra n d a b s
  | .rot n d a b => Sys2Proof.Machine.execRot n d a b s
  | .shl64 n d a b => Sys2Proof.Machine.execShl64 n d a b s
  | .srl64 n d a b => Sys2Proof.Machine.execSrl64 n d a b s
  | .sra64 n d a b => Sys2Proof.Machine.execSra64 n d a b s
  | .bfe n d a b => Sys2Proof.Machine.execBfe n d a b s
  | .bfeu n d a b => Sys2Proof.Machine.execBfeu n d a b s
  | .bfi n d a b => Sys2Proof.Machine.execBfi n d a b s
  | .popc n d a => Sys2Proof.Machine.execPopc n d a s
  | .clz n d a => Sys2Proof.Machine.execClz n d a s
  | .brev n d a => Sys2Proof.Machine.execBrev n d a s
  | .divs d a b => Sys2Proof.Machine.execDivs d a b s
  | .divu d a b => Sys2Proof.Machine.execDivu d a b s
  | .rems d a b => Sys2Proof.Machine.execRems d a b s
  | .remu d a b => Sys2Proof.Machine.execRemu d a b s
  | .addsat n d a b => Sys2Proof.Machine.execAddsat n d a b s
  | .subsat n d a b => Sys2Proof.Machine.execSubsat n d a b s
  | .bmix n d a b => Sys2Proof.Machine.execBmix n d a b s
  | .icmpEq n d a b => Sys2Proof.Machine.execIcmpEq n d a b s
  | .icmpNe n d a b => Sys2Proof.Machine.execIcmpNe n d a b s
  | .icmpLt n d a b => Sys2Proof.Machine.execIcmpLt n d a b s
  | .icmpLe n d a b => Sys2Proof.Machine.execIcmpLe n d a b s
  | .icmpLtu n d a b => Sys2Proof.Machine.execIcmpLtu n d a b s
  | .icmpLeu n d a b => Sys2Proof.Machine.execIcmpLeu n d a b s
  | .icmpmEq d a b => Sys2Proof.Machine.execIcmpmEq d a b s
  | .icmpmNe d a b => Sys2Proof.Machine.execIcmpmNe d a b s
  | .icmpmLt d a b => Sys2Proof.Machine.execIcmpmLt d a b s
  | .icmpmLe d a b => Sys2Proof.Machine.execIcmpmLe d a b s
  | .icmpmLtu d a b => Sys2Proof.Machine.execIcmpmLtu d a b s
  | .icmpmLeu d a b => Sys2Proof.Machine.execIcmpmLeu d a b s
  | .min64 n d a b => Sys2Proof.Machine.execMin64 n d a b s
  | .max64 n d a b => Sys2Proof.Machine.execMax64 n d a b s
  | .minu64 n d a b => Sys2Proof.Machine.execMinu64 n d a b s
  | .maxu64 n d a b => Sys2Proof.Machine.execMaxu64 n d a b s
  | .addi d a k => Sys2Proof.Machine.execAddi d a k s
  | .andi d a k => Sys2Proof.Machine.execAndi d a k s
  | .ori d a k => Sys2Proof.Machine.execOri d a k s
  | .xori d a k => Sys2Proof.Machine.execXori d a k s
  | .shli d a k => Sys2Proof.Machine.execShli d a k s
  | .srli d a k => Sys2Proof.Machine.execSrli d a k s
  | .srai d a k => Sys2Proof.Machine.execSrai d a k s
  | .muli d a k => Sys2Proof.Machine.execMuli d a k s
  | .fadd n d a b => Sys2Proof.Machine.execFadd n d a b s
  | .fsub n d a b => Sys2Proof.Machine.execFsub n d a b s
  | .fmul n d a b => Sys2Proof.Machine.execFmul n d a b s
  | .ffma n d a b => Sys2Proof.Machine.execFfma n d a b s
  | .ffms n d a b => Sys2Proof.Machine.execFfms n d a b s
  | .fnma n d a b => Sys2Proof.Machine.execFnma n d a b s
  | .fmin n d a b => Sys2Proof.Machine.execFmin n d a b s
  | .fmax n d a b => Sys2Proof.Machine.execFmax n d a b s
  | .fcmpEq n d a b => Sys2Proof.Machine.execFcmpEq n d a b s
  | .fcmpNe n d a b => Sys2Proof.Machine.execFcmpNe n d a b s
  | .fcmpLt n d a b => Sys2Proof.Machine.execFcmpLt n d a b s
  | .fcmpLe n d a b => Sys2Proof.Machine.execFcmpLe n d a b s
  | .fcmpUn n d a b => Sys2Proof.Machine.execFcmpUn n d a b s
  | .fcmpOd n d a b => Sys2Proof.Machine.execFcmpOd n d a b s
  | .fcmpmEq d a b => Sys2Proof.Machine.execFcmpmEq d a b s
  | .fcmpmNe d a b => Sys2Proof.Machine.execFcmpmNe d a b s
  | .fcmpmLt d a b => Sys2Proof.Machine.execFcmpmLt d a b s
  | .fcmpmLe d a b => Sys2Proof.Machine.execFcmpmLe d a b s
  | .fcmpmUn d a b => Sys2Proof.Machine.execFcmpmUn d a b s
  | .fcmpmOd d a b => Sys2Proof.Machine.execFcmpmOd d a b s
  | .hadd2 n d a b => Sys2Proof.Machine.execHadd2 n d a b s
  | .hmul2 n d a b => Sys2Proof.Machine.execHmul2 n d a b s
  | .hfma2 n d a b => Sys2Proof.Machine.execHfma2 n d a b s
  | .hmin2 n d a b => Sys2Proof.Machine.execHmin2 n d a b s
  | .hmax2 n d a b => Sys2Proof.Machine.execHmax2 n d a b s
  | .badd2 n d a b => Sys2Proof.Machine.execBadd2 n d a b s
  | .bmul2 n d a b => Sys2Proof.Machine.execBmul2 n d a b s
  | .bfma2 n d a b => Sys2Proof.Machine.execBfma2 n d a b s
  | .fdot2h n d a b => Sys2Proof.Machine.execFdot2h n d a b s
  | .fdot4q8 n d a b => Sys2Proof.Machine.execFdot4q8 n d a b s
  | .fcopysign n d a b => Sys2Proof.Machine.execFcopysign n d a b s
  | .fldexp n d a b => Sys2Proof.Machine.execFldexp n d a b s
  | .fdiv d a b => Sys2Proof.Machine.execFdiv d a b s
  | .frcp n d a => Sys2Proof.Machine.execFrcp n d a s
  | .frsq n d a => Sys2Proof.Machine.execFrsq n d a s
  | .fsqrt n d a => Sys2Proof.Machine.execFsqrt n d a s
  | .fexp2 n d a => Sys2Proof.Machine.execFexp2 n d a s
  | .flog2 n d a => Sys2Proof.Machine.execFlog2 n d a s
  | .fsinp n d a => Sys2Proof.Machine.execFsinp n d a s
  | .fcosp n d a => Sys2Proof.Machine.execFcosp n d a s
  | .ffloor n d a => Sys2Proof.Machine.execFfloor n d a s
  | .fceil n d a => Sys2Proof.Machine.execFceil n d a s
  | .ftrunc n d a => Sys2Proof.Machine.execFtrunc n d a s
  | .frint n d a => Sys2Proof.Machine.execFrint n d a s
  | .ffract n d a => Sys2Proof.Machine.execFfract n d a s
  | .fclass n d a => Sys2Proof.Machine.execFclass n d a s
  | .cvtF32S32 n d a => Sys2Proof.Machine.execCvtF32S32 n d a s
  | .cvtF32U32 n d a => Sys2Proof.Machine.execCvtF32U32 n d a s
  | .cvtS32F32 n d a => Sys2Proof.Machine.execCvtS32F32 n d a s
  | .cvtU32F32 n d a => Sys2Proof.Machine.execCvtU32F32 n d a s
  | .packh n d a b => Sys2Proof.Machine.execPackh n d a b s
  | .cvtF32HLo n d a => Sys2Proof.Machine.execCvtF32HLo n d a s
  | .cvtF32HHi n d a => Sys2Proof.Machine.execCvtF32HHi n d a s
  | .packb n d a b => Sys2Proof.Machine.execPackb n d a b s
  | .cvtF32BLo n d a => Sys2Proof.Machine.execCvtF32BLo n d a s
  | .cvtF32BHi n d a => Sys2Proof.Machine.execCvtF32BHi n d a s
  | .pk8E4 n d a b => Sys2Proof.Machine.execPk8E4 n d a b s
  | .pk8E5 n d a b => Sys2Proof.Machine.execPk8E5 n d a b s
  | .unpk8E4 n d a b => Sys2Proof.Machine.execUnpk8E4 n d a b s
  | .unpk8E5 n d a b => Sys2Proof.Machine.execUnpk8E5 n d a b s
  | .shfl n d a b => Sys2Proof.Machine.execShfl n d a b s
  | .shflup n d a b => Sys2Proof.Machine.execShflup n d a b s
  | .shfldn n d a b => Sys2Proof.Machine.execShfldn n d a b s
  | .shflx n d a b => Sys2Proof.Machine.execShflx n d a b s
  | .ballot d a => Sys2Proof.Machine.execBallot d a s
  | .vany n d a => Sys2Proof.Machine.execVany n d a s
  | .vall n d a => Sys2Proof.Machine.execVall n d a s
  | .matchEq n d a => Sys2Proof.Machine.execMatchEq n d a s
  | .elect n d => Sys2Proof.Machine.execElect n d s
  | .elects n d => Sys2Proof.Machine.execElects n d s
  | .redadd n d a => Sys2Proof.Machine.execRedadd n d a s
  | .redmin n d a => Sys2Proof.Machine.execRedmin n d a s
  | .redmax n d a => Sys2Proof.Machine.execRedmax n d a s
  | .redand n d a => Sys2Proof.Machine.execRedand n d a s
  | .redor n d a => Sys2Proof.Machine.execRedor n d a s
  | .redxor n d a => Sys2Proof.Machine.execRedxor n d a s
  | .mand d a b => Sys2Proof.Machine.execMand d a b s
  | .mor d a b => Sys2Proof.Machine.execMor d a b s
  | .mxor d a b => Sys2Proof.Machine.execMxor d a b s
  | .mandn d a b => Sys2Proof.Machine.execMandn d a b s
  | .mact d => Sys2Proof.Machine.execMact d s
  | .mclr d => Sys2Proof.Machine.execMclr d s
  | .mpop d a => Sys2Proof.Machine.execMpop d a s
  | .mfromv d a => Sys2Proof.Machine.execMfromv d a s
  | .mtov n d a => Sys2Proof.Machine.execMtov n d a s
  | .mtos d a => Sys2Proof.Machine.execMtos d a s
  | .mfroms d a => Sys2Proof.Machine.execMfroms d a s
  | .prefixadd n d a => Sys2Proof.Machine.execPrefixadd n d a s
  | .sadd d a b => Sys2Proof.Machine.execSadd d a b s
  | .ssub d a b => Sys2Proof.Machine.execSsub d a b s
  | .smul d a b => Sys2Proof.Machine.execSmul d a b s
  | .smad d a b => Sys2Proof.Machine.execSmad d a b s
  | .sand d a b => Sys2Proof.Machine.execSand d a b s
  | .sor d a b => Sys2Proof.Machine.execSor d a b s
  | .sxor d a b => Sys2Proof.Machine.execSxor d a b s
  | .sshl d a b => Sys2Proof.Machine.execSshl d a b s
  | .sshr d a b => Sys2Proof.Machine.execSshr d a b s
  | .ssra d a b => Sys2Proof.Machine.execSsra d a b s
  | .smin d a b => Sys2Proof.Machine.execSmin d a b s
  | .smax d a b => Sys2Proof.Machine.execSmax d a b s
  | .sminu d a b => Sys2Proof.Machine.execSminu d a b s
  | .smaxu d a b => Sys2Proof.Machine.execSmaxu d a b s
  | .sadd64 d a b => Sys2Proof.Machine.execSadd64 d a b s
  | .scmpEq d a b => Sys2Proof.Machine.execScmpEq d a b s
  | .scmpNe d a b => Sys2Proof.Machine.execScmpNe d a b s
  | .scmpLt d a b => Sys2Proof.Machine.execScmpLt d a b s
  | .scmpLe d a b => Sys2Proof.Machine.execScmpLe d a b s
  | .scmpLtu d a b => Sys2Proof.Machine.execScmpLtu d a b s
  | .scmpLeu d a b => Sys2Proof.Machine.execScmpLeu d a b s
  | .sbcast d a => Sys2Proof.Machine.execSbcast d a s
  | .srdlane d a b => Sys2Proof.Machine.execSrdlane d a b s
  | .swrlane d a b => Sys2Proof.Machine.execSwrlane d a b s
  | .sdivu d a b => Sys2Proof.Machine.execSdivu d a b s
  | .sremu d a b => Sys2Proof.Machine.execSremu d a b s
  | .ssel d a b => Sys2Proof.Machine.execSsel d a b s
  | .sfadd d a b => Sys2Proof.Machine.execSfadd d a b s
  | .sfmul d a b => Sys2Proof.Machine.execSfmul d a b s
  | .sffma d a b => Sys2Proof.Machine.execSffma d a b s
  | .scvtf d a => Sys2Proof.Machine.execScvtf d a s
  | .scvti d a => Sys2Proof.Machine.execScvti d a s
  | .ld q w x d a => Sys2Proof.Machine.execLd q w x d a s
  | .st q w x d a => Sys2Proof.Machine.execSt q w x d a s
  | .ldro q w x d a => Sys2Proof.Machine.execLdro q w x d a s
  | .ldf q x d a => Sys2Proof.Machine.execLdf q x d a s
  | .pref q w x a => Sys2Proof.Machine.execPref q w x a s
  | .ldl w x d a => Sys2Proof.Machine.execLdl w x d a s
  | .stl w x d a => Sys2Proof.Machine.execStl w x d a s
  | .ldu q w x d a => Sys2Proof.Machine.execLdu q w x d a s
  | .recset q a => Sys2Proof.Machine.execRecset q a s
  | .recget q d => Sys2Proof.Machine.execRecget q d s
  | .recld q a => Sys2Proof.Machine.execRecld q a s
  | .sample q t x d a => Sys2Proof.Machine.execSample q t x d a s
  | .cacheWb q w a => Sys2Proof.Machine.execCacheWb q w a s
  | .cacheInv q w a => Sys2Proof.Machine.execCacheInv q w a s
  | .ldp w d a off => Sys2Proof.Machine.execLdp w d a off s
  | .stp w d a off => Sys2Proof.Machine.execStp w d a off s
  | .ldpd w d a off => Sys2Proof.Machine.execLdpd w d a off s
  | .stpd w d a off => Sys2Proof.Machine.execStpd w d a off s
  | .ldc w d a off => Sys2Proof.Machine.execLdc w d a off s
  | .stc w d a off => Sys2Proof.Machine.execStc w d a off s
  | .atomp op d a off spare => Sys2Proof.Machine.execAtomp op d a off spare s
  | .atom q x d a => Sys2Proof.Machine.execAtom q x d a s
  | .red q x d a => Sys2Proof.Machine.execRed q x d a s
  | .fenceAcq scope => Sys2Proof.Machine.execFenceAcq scope s
  | .fenceRel scope => Sys2Proof.Machine.execFenceRel scope s
  | .fenceAr scope => Sys2Proof.Machine.execFenceAr scope s
  | .fenceSc scope => Sys2Proof.Machine.execFenceSc scope s
  | .fencero scope => Sys2Proof.Machine.execFencero scope s
  | .waitu q wide d a x => Sys2Proof.Machine.execWaitu q wide d a x s
  | .strel q w x d a => Sys2Proof.Machine.execStrel q w x d a s
  | .ldacq q w x d a => Sys2Proof.Machine.execLdacq q w x d a s
  | .kick d a b => Sys2Proof.Machine.execKick d a b s
  | .advance d => Sys2Proof.Machine.execAdvance d s
  | .finit k a => Sys2Proof.Machine.execFinit k a s
  | .farrive d k => Sys2Proof.Machine.execFarrive d k s
  | .farriveRank k b => Sys2Proof.Machine.execFarriveRank k b s
  | .fwait d k b => Sys2Proof.Machine.execFwait d k b s
  | .ftest d k b => Sys2Proof.Machine.execFtest d k b s
  | .fexpect k a b => Sys2Proof.Machine.execFexpect k a b s
  | .waitc c b => Sys2Proof.Machine.execWaitc c b s
  | .rdcnt d c => Sys2Proof.Machine.execRdcnt d c s
  | .copy d a => Sys2Proof.Machine.execCopy d a s
  | .mshape a => Sys2Proof.Machine.execMshape a s
  | .mlds a b f => Sys2Proof.Machine.execMlds a b f s
  | .mldsg a b f q => Sys2Proof.Machine.execMldsg a b f q s
  | .mscale a int4 g => Sys2Proof.Machine.execMscale a int4 g s
  | .mswap => Sys2Proof.Machine.execMswap s
  | .mma t a b x => Sys2Proof.Machine.execMma t a b x s
  | .mmag t a b x q => Sys2Proof.Machine.execMmag t a b x q s
  | .mzero t acc => Sys2Proof.Machine.execMzero t acc s
  | .mst t a b x => Sys2Proof.Machine.execMst t a b x s
  | .mld t a b x => Sys2Proof.Machine.execMld t a b x s
  | .mstPlane a k => Sys2Proof.Machine.execMstPlane a k s
  | .mldPlane a k => Sys2Proof.Machine.execMldPlane a k s
  | .mstat d clear => Sys2Proof.Machine.execMstat d clear s
  | .mrel => Sys2Proof.Machine.execMrel s
  | .nev d a b x => Sys2Proof.Machine.execNev d a b x s
  | .netldFetch a => Sys2Proof.Machine.execNetldFetch a s
  | .netldDrop a => Sys2Proof.Machine.execNetldDrop a s
  | .emitc d a b => Sys2Proof.Machine.execEmitc d a b s
  | .raster d a => Sys2Proof.Machine.execRaster d a s
  | .present d a => Sys2Proof.Machine.execPresent d a s
  | .trace d a x => Sys2Proof.Machine.execTrace d a x s
  | .traceocc d a x => Sys2Proof.Machine.execTraceocc d a x s
  | .build d a => Sys2Proof.Machine.execBuild d a s
  | .refit d a => Sys2Proof.Machine.execRefit d a s
  | .cairnw d a b => Sys2Proof.Machine.execCairnw d a b s
  | .genpin d a b => Sys2Proof.Machine.execGenpin d a b s
  | .gendrop d a b => Sys2Proof.Machine.execGendrop d a b s
  | .refill d a b outm => Sys2Proof.Machine.execRefill d a b outm s
  | .pixpush d a b => Sys2Proof.Machine.execPixpush d a b s
  | .nodedec d a b => Sys2Proof.Machine.execNodedec d a b s
  | .morton d a b => Sys2Proof.Machine.execMorton d a b s
  | .pathStarvation key => Sys2Proof.Machine.execPathStarvation key s
  | .readyWaveStarvation key => Sys2Proof.Machine.execReadyWaveStarvation key s
  | .laneBurstCount key lanes => Sys2Proof.Machine.execLaneBurstCount key lanes s
  | .loadReturn key id => Sys2Proof.Machine.execLoadReturn key id s
  | .divideResult key id => Sys2Proof.Machine.execDivideResult key id s
  | .fdivResult key id => Sys2Proof.Machine.execFdivResult key id s
  | .launchStatus key id => Sys2Proof.Machine.execLaunchStatus key id s
  | .committedStorePerform core line => Sys2Proof.Machine.execCommittedStorePerform core line s
  | .paddockAccessPerform core id => Sys2Proof.Machine.execPaddockAccessPerform core id s
  | .sideLogReplay core index => Sys2Proof.Machine.execSideLogReplay core index s
  | .tetherArm id => Sys2Proof.Machine.execTetherArm id s
  | .tetherWake index => Sys2Proof.Machine.execTetherWake index s
  | .tetherTimeout id => Sys2Proof.Machine.execTetherTimeout id s
  | .tetherArmRetry id => Sys2Proof.Machine.execTetherArmRetry id s
  | .sleeptDeadline key => Sys2Proof.Machine.execSleeptDeadline key s
  | .copyRowComplete core id => Sys2Proof.Machine.execCopyRowComplete core id s
  | .copyRequestFail core id => Sys2Proof.Machine.execCopyRequestFail core id s
  | .remoteArrivalApply index => Sys2Proof.Machine.execRemoteArrivalApply index s
  | .fwaitWake key => Sys2Proof.Machine.execFwaitWake key s
  | .arrayFillComplete core id => Sys2Proof.Machine.execArrayFillComplete core id s
  | .mmaRowComplete core id => Sys2Proof.Machine.execMmaRowComplete core id s
  | .arrayOpComplete core id => Sys2Proof.Machine.execArrayOpComplete core id s
  | .arraySerialOpStart core id => Sys2Proof.Machine.execArraySerialOpStart core id s
  | .bandWake core band => Sys2Proof.Machine.execBandWake core band s
  | .bandIdleOff core band => Sys2Proof.Machine.execBandIdleOff core band s
  | .flockTileClose core tile => Sys2Proof.Machine.execFlockTileClose core tile s
  | .flockTileComplete core tile => Sys2Proof.Machine.execFlockTileComplete core tile s
  | .nevHandleComplete key id => Sys2Proof.Machine.execNevHandleComplete key id s
  | .cairnPark ray => Sys2Proof.Machine.execCairnPark ray s
  | .cairnResume ray => Sys2Proof.Machine.execCairnResume ray s
  | .cairnTimeout ray => Sys2Proof.Machine.execCairnTimeout ray s
  | .rayEnd ray => Sys2Proof.Machine.execRayEnd ray s
  | .buildStart job => Sys2Proof.Machine.execBuildStart job s
  | .buildSlotTake job => Sys2Proof.Machine.execBuildSlotTake job s
  | .cairnRaise job cluster => Sys2Proof.Machine.execCairnRaise job cluster s
  | .treeLink job => Sys2Proof.Machine.execTreeLink job s
  | .buildFail job status => Sys2Proof.Machine.execBuildFail job status s
  | .compactorReclaim ctx hdr slot => Sys2Proof.Machine.execCompactorReclaim ctx hdr slot s
  | .compactorFree ctx hdr slot => Sys2Proof.Machine.execCompactorFree ctx hdr slot s
  | .rasterStart job => Sys2Proof.Machine.execRasterStart job s
  | .rasterSmallqResume job => Sys2Proof.Machine.execRasterSmallqResume job s
  | .rasterTileFlush job tile => Sys2Proof.Machine.execRasterTileFlush job tile s
  | .rasterTileFinish job tile => Sys2Proof.Machine.execRasterTileFinish job tile s
  | .rasterDone job => Sys2Proof.Machine.execRasterDone job s
  | .presentImageRead stream => Sys2Proof.Machine.execPresentImageRead stream s
  | .collieDecision stream => Sys2Proof.Machine.execCollieDecision stream s
  | .streamSlotSend stream => Sys2Proof.Machine.execStreamSlotSend stream s
  | .hostQueueTake queue => Sys2Proof.Machine.execHostQueueTake queue s
  | .childLaunchTake ctx => Sys2Proof.Machine.execChildLaunchTake ctx s
  | .waitEventMet grid => Sys2Proof.Machine.execWaitEventMet grid s
  | .drovePlace grid cores => Sys2Proof.Machine.execDrovePlace grid cores s
  | .penClaimComplete core => Sys2Proof.Machine.execPenClaimComplete core s
  | .claimTimeout core => Sys2Proof.Machine.execClaimTimeout core s
  | .backfillStop grid cluster => Sys2Proof.Machine.execBackfillStop grid cluster s
  | .timedStart drove => Sys2Proof.Machine.execTimedStart drove s
  | .timesliceExpire grid => Sys2Proof.Machine.execTimesliceExpire grid s
  | .debugPreempt drove => Sys2Proof.Machine.execDebugPreempt drove s
  | .thermalMigrate drove cores => Sys2Proof.Machine.execThermalMigrate drove cores s
  | .trapEntry key => Sys2Proof.Machine.execTrapEntry key s
  | .savedTetherWake index => Sys2Proof.Machine.execSavedTetherWake index s
  | .savedWaveDeadline wg index => Sys2Proof.Machine.execSavedWaveDeadline wg index s
  | .droveRestore drove cores => Sys2Proof.Machine.execDroveRestore drove cores s
  | .waveEnd key => Sys2Proof.Machine.execWaveEnd key s
  | .gridRetire grid => Sys2Proof.Machine.execGridRetire grid s
  | .contextEnable ctx => Sys2Proof.Machine.execContextEnable ctx s
  | .contextKill ctx => Sys2Proof.Machine.execContextKill ctx s
  | .schedulerBlockRead => Sys2Proof.Machine.execSchedulerBlockRead s
  | .policyBlockRead => Sys2Proof.Machine.execPolicyBlockRead s
  | .powerBlockRead => Sys2Proof.Machine.execPowerBlockRead s
  | .fabricBlockRead => Sys2Proof.Machine.execFabricBlockRead s
  | .pagerTableRead ctx => Sys2Proof.Machine.execPagerTableRead ctx s
  | .inval => Sys2Proof.Machine.execInval s
  | .invalComplete index => Sys2Proof.Machine.execInvalComplete index s
  | .migrate => Sys2Proof.Machine.execMigrate s
  | .dup => Sys2Proof.Machine.execDup s
  | .undup => Sys2Proof.Machine.execUndup s
  | .hotcfg => Sys2Proof.Machine.execHotcfg s
  | .frames => Sys2Proof.Machine.execFrames s
  | .brand => Sys2Proof.Machine.execBrand s
  | .attest => Sys2Proof.Machine.execAttest s
  | .upcall ctx va kind => Sys2Proof.Machine.execUpcall ctx va kind s
  | .pagerWaitTimeout ctx index => Sys2Proof.Machine.execPagerWaitTimeout ctx index s
  | .pagerMap ctx index => Sys2Proof.Machine.execPagerMap ctx index s
  | .pagerRefuse ctx index => Sys2Proof.Machine.execPagerRefuse ctx index s
  | .hotIntervalEnd die => Sys2Proof.Machine.execHotIntervalEnd die s
  | .dupCollapseAck entry site => Sys2Proof.Machine.execDupCollapseAck entry site s
  | .hostRdmaWrite pa bytes => Sys2Proof.Machine.execHostRdmaWrite pa bytes s
  | .hostRdmaRead pa n => Sys2Proof.Machine.execHostRdmaRead pa n s
  | .hostRdmaAtomic pa op x y => Sys2Proof.Machine.execHostRdmaAtomic pa op x y s
  | .flitReceive link seq tag crc response => Sys2Proof.Machine.execFlitReceive link seq tag crc response s
  | .linkRetrainDone link good => Sys2Proof.Machine.execLinkRetrainDone link good s
  | .eccCorrected unit loc syndrome => Sys2Proof.Machine.execEccCorrected unit loc syndrome s
  | .uncorrectableError unit loc data => Sys2Proof.Machine.execUncorrectableError unit loc data s
  | .selftestStart unit loc => Sys2Proof.Machine.execSelftestStart unit loc s
  | .selftestResult unit loc pass => Sys2Proof.Machine.execSelftestResult unit loc pass s
  | .hirselMessageReceive peer seq from_ brand kind va bytes => Sys2Proof.Machine.execHirselMessageReceive peer seq from_ brand kind va bytes s
  | .hirselAck id bytes => Sys2Proof.Machine.execHirselAck id bytes s
  | .hirselRetransmit id => Sys2Proof.Machine.execHirselRetransmit id s
  | .fabricTimeout id => Sys2Proof.Machine.execFabricTimeout id s
  | .ptpMessage offset => Sys2Proof.Machine.execPtpMessage offset s
  | .announceTimeout => Sys2Proof.Machine.execAnnounceTimeout s
  | .budgetMessage member demand freq => Sys2Proof.Machine.execBudgetMessage member demand freq s
  | .budgetEpoch => Sys2Proof.Machine.execBudgetEpoch s
  | .powerLimitStretch site => Sys2Proof.Machine.execPowerLimitStretch site s
  | .currentLimitStretch site => Sys2Proof.Machine.execCurrentLimitStretch site s
  | .droopStretch site => Sys2Proof.Machine.execDroopStretch site s
  | .thermalTrip site => Sys2Proof.Machine.execThermalTrip site s
  | .thermalTripEnd site => Sys2Proof.Machine.execThermalTripEnd site s
  | .firmwareFreeze => Sys2Proof.Machine.execFirmwareFreeze s
  | .watchdogFloor => Sys2Proof.Machine.execWatchdogFloor s
  | .firmwareSignal slot => Sys2Proof.Machine.execFirmwareSignal slot s
  | .firmwareSlotTakeover => Sys2Proof.Machine.execFirmwareSlotTakeover s
  | .firmwareVerify slot version image => Sys2Proof.Machine.execFirmwareVerify slot version image s
  | .functionReady fn => Sys2Proof.Machine.execFunctionReady fn s
  | .hostWriteAck index => Sys2Proof.Machine.execHostWriteAck index s
  | .portDown port => Sys2Proof.Machine.execPortDown port s
  | .portUp port => Sys2Proof.Machine.execPortUp port s
  | .portmodeDrainDone => Sys2Proof.Machine.execPortmodeDrainDone s
  | .clockStretchEnd site => Sys2Proof.Machine.execClockStretchEnd site s
  | .bandWakeRateWaitEnd core band => Sys2Proof.Machine.execBandWakeRateWaitEnd core band s

end Sys2Proof.Machine
end

