-- ==== Sys2Proof/Machine/Step.lean ====
section
/-! DEFINITION. Machine/Step.lean: one step of the module, and a program placed where the next step fetches. -/

namespace Sys2Proof.Machine

open Sys2Proof

/-- What follows the meaning of an issued instruction. -/
def afterIssue (b : Option Issue) (r : Out) : Out :=
  match r with
  | .next t => .next (t.settle b)
  | .fault f => .fault f
  | .refused f => .refused f

/-- The end of a step: the spill entries it has freed are cleared (R345), and contexts it has turned off are to be killed
(R333). -/
def ended (r : Out) : Out :=
  match r with
  | .next t => .next t.tidySpill.noteKills
  | .fault f => .fault f
  | .refused f => .refused f

/-- Whether an event changes anything now. -/
noncomputable def moves (s : State) (e : Instr) : Bool :=
  match exec e s with
  | .next t => decide (t ≠ s)
  | .fault _ | .refused _ => true

/-- The first of the machine's own events that is due. -/
noncomputable def State.dueEvent (s : State) : Option Instr := s.ownEvents.find? (moves s)

/-- One step: an event of the machine, the issue of one path group in one slot, or the end of a clk. -/
noncomputable def step (s : State) : Host.Outcome State Fault Refusal :=
  match s.work (if s.agenda.isEmpty then s.dueEvent else none) with
  | .idle t => .next t
  | .stop f => .fault f
  | .event e t => ended (exec e t)
  | .issue i t b => ended (afterIssue b (exec i t))

/-! ## A program placed by hand (log entry 8) -/

/-- Where the placed program lies: the VA its lanes stand at, and the physical page. -/
def placeVa : Nat := 0x10000
def placePa : Nat := 0x200000

/-- A table entry that leads to the table at `pa`, and the leaf of the code page: VALID, EXEC. -/
def placeLink (pa : Nat) : List Byte := bytesOfNat 16 (1 + pa * 2 ^ 64)
def placeLeaf : List Byte := bytesOfNat 16 (1 + 4 + 8 + placePa * 2 ^ 64)

/-- The cells of the page tables and of the instruction's bytes. -/
def placeMem (m : Memory) (nbits w : Nat) : Memory :=
  let code := w % 2 ^ nbits
  ((((m.setBytes 0x100000 (placeLink 0x104000)).setBytes 0x104000 (placeLink 0x108000)).setBytes 0x108000
    (placeLink 0x10A000)).setBytes 0x10A010 placeLeaf).setBytes placePa (bytesOfNat 12 code)

/-- A lane at the placed program with its registers zero. -/
def placeLane : Lane := { Lane.blank with pc := BitVec.ofNat 48 placeVa, state := .ready, regs := List.replicate 128 0#32 }

/-- The wave that runs it. -/
def placeWave : Wave :=
  { Wave.blank with lanes := List.replicate 32 placeLane, nregs := 128, wg := 1 }

/-- `s` with one instruction where the next step fetches: context 0 with the page tables, one grid of one drove of one
workgroup of one wave in slot 0 of site.0's core 0, standing at the instruction's address, and the next turn an issue. -/
def State.withFetchWord (s : State) (nbits w : Nat) : State :=
  { s with
    mem := placeMem s.mem nbits w
    ctxs := tabSet s.ctxs 0 { Context.blank with live := true, ptroot := 0x100000, trapvec := 0x10040#48 }
    grids := tabSet s.grids 1 { Grid.blank with ctx := 0, phase := .running, regs := 128 }
    droves := tabSet s.droves 1 { Drove.blank with grid := 1, wgs := [1], started := true }
    wgs := tabSet s.wgs 1 { Workgroup.blank with drove := 1, nwaves := 1 }
    waves := [(0, placeWave)]
    quarters := []
    cores := tabErase s.cores 0
    sites := s.sites.map (fun x => { x with tlb := [] })
    blockedWalks := []
    poisoned := []
    quarantined := []
    fresh := Nat.max s.fresh 2
    cursor := 0
    slotB := none
    agenda := [.issue] }

end Sys2Proof.Machine
end

