-- ==== Sys2Proof/Safety.lean ====
section
/-! DEFINITION. Safety.lean: the terms claims use: when an instruction passes the checks at issue, and what an issue may
change. -/

namespace Sys2Proof.Machine

open Sys2Proof

/-- Physical memory is in its canonical form. -/
def State.memOk (s : State) : Prop := s.mem.wf = true

/-- The checks at issue of R130 that stand before an entry's own: the encoding, the privilege (R120, R361), the register
window (R119) and the latches (R121). Each is said of the wave as its operands are read (R23). -/
structure Passes (i : Instr) (s : State) : Prop where
  encoding : i.wf = true
  privilege : i.privileged = true → s.src.handler = true
  window : ∀ n ∈ i.named.vs, s.src.wb + n < s.src.nregs
  latch : ∀ l < 32, s.active.getLsbD l = true →
    ∀ k ∈ i.named.ls, ((s.src.lane l).latches.getD k Latch.blank).valid = true

/-- The issue is the same but for its notes of what slot A has written. -/
def SameIssue (i j : Issue) : Prop :=
  { j with keptV := i.keptV, keptS := i.keptS, keptM := i.keptM, keptQ := i.keptQ, left := i.left } = i

/-- All of `t` but the waves and the issue's notes is as in `s`: every other register of the module, every table, every
engine and every byte of memory; every wave but the issuing one is as before too, and the issuing one is changed by `f`. -/
def Only (s t : State) (f : Wave → Wave) : Prop :=
  { t with waves := s.waves, iss := s.iss } = s ∧ SameIssue s.iss t.iss ∧ t.waves = tabMod s.waves s.iss.key f

/-- Whether the issue writes register `r` of lane `l`: the lane is active, and slot A of the clk has not written it (R23). -/
def State.writes (s : State) (l r : Nat) : Bool :=
  s.active.getLsbD l && !(s.iss.slotB && s.iss.keptV.any (fun k => decide (k.1 = r) && k.2.getLsbD l))

/-- A lane with register `r` written: the register is poisoned no longer (R415) and holds no deferred failure (R184). -/
def Lane.given (x : Lane) (r : Nat) (v : Word) : Lane :=
  { x with
    regs := x.regs.set r v
    poison := x.poison.filter (fun p => decide (p ≠ r))
    deferred := x.deferred.filter (fun d => decide (d.reg ≠ r)) }

/-- Lane `l` with `v` written to a physical register where the issue writes it. -/
def State.give (s : State) (l r : Nat) (v : Word) (x : Lane) : Lane := if s.writes l r then x.given r v else x

/-- Lane `l` with a 32-bit and with a 64-bit result in destination `d` (R59, R119); code 124 discards it. -/
def State.give32 (s : State) (d : VDst) (l : Nat) (v : Word) (x : Lane) : Lane :=
  match d with
  | .reg k => s.give l (s.cur.wb + k.val) v x
  | .discard => x
def State.give64 (s : State) (d : VDst) (l : Nat) (v : Dword) (x : Lane) : Lane :=
  match d with
  | .reg k => s.give l (s.cur.wb + (k.val + 1)) (hi32 v) (s.give l (s.cur.wb + k.val) (lo32 v) x)
  | .discard => x

/-- Lane `l` with an entry pushed into its latches (R120). -/
def Lane.latched (x : Lane) (v : Dword) (wide : Bool) : Lane := { x with latches := ⟨v, wide, true⟩ :: x.latches.take 3 }

/-- A wave whose active lanes are each changed. -/
def Wave.lanesBy (w : Wave) (act : Mask) (f : Nat → Lane → Lane) : Wave :=
  { w with lanes := w.lanes.mapIdx (fun l x => if act.getLsbD l then f l x else x) }

/-- The active lanes continue at next_pc, and each is otherwise changed by `f`. -/
def Wave.advanced (w : Wave) (s : State) (f : Nat → Lane → Lane) : Wave :=
  w.lanesBy s.active (fun l x => { f l x with pc := s.iss.next })

/-- Nothing but the program counters of the active lanes. -/
def sameLane (_ : Nat) (x : Lane) : Lane := x

/-- A write of an s register: slot A's value remains (R23, R174). -/
def State.giveS (s : State) (n : Nat) (v : Word) (rs : List Word) : List Word :=
  if s.iss.slotB && s.iss.keptS.contains n then rs else rs.set n v
def State.giveU (s : State) (d : UDst) (v : Word) (rs : List Word) : List Word :=
  match d with
  | .reg n => s.giveS n.val v rs
  | .discard => rs

end Sys2Proof.Machine
end

