-- ==== Sys2Proof/Safety/Integer.lean ====
section
/-! DEFINITION. Safety/Integer.lean: the results the tables of chapter 7 give, in exact integers and bit by bit. -/

namespace Sys2Proof.Claims

open Sys2Proof Sys2Proof.Machine

/-- A field of BFE, BFEU and BFI: its lowest bit and its length (R166). -/
def fieldAt (b : Word) : Nat := b.toNat % 32
def fieldLen (b : Word) : Nat := min (b.toNat / 256 % 64) (32 - fieldAt b)

/-- Byte `k` of a number. -/
def byteAt (x k : Nat) : Nat := x / 256 ^ k % 256

/-- One byte of BMIX under its 5-bit control (R167). -/
def mixed (x f : Nat) : Nat :=
  let y := byteAt x (f % 8)
  if f / 8 % 4 = 0 then y else if f / 8 % 4 = 1 then 0 else if f / 8 % 4 = 2 then (if y < 128 then 0 else 255) else 255

/-- 0xFFFF_FFFF where a condition holds, else 0 (R168). -/
def wordOf (p : Bool) : Word := if p then 0xFFFFFFFF#32 else 0#32

/-- The conditions of Table 7.3. -/
def intCond (c : ICond) (a b : Word) : Bool :=
  match c with
  | .eq => decide (a.toNat = b.toNat)
  | .ne => !decide (a.toNat = b.toNat)
  | .lt => decide (a.toInt < b.toInt)
  | .le => !decide (b.toInt < a.toInt)
  | .ltu => decide (a.toNat < b.toNat)
  | .leu => !decide (b.toNat < a.toNat)

/-- Table 7.1, Table 7.3 and Table 7.6: the forms with a 32-bit result, with NW and D, and the result of lane `l` from the
wave as read. -/
def intRule (i : Instr) : Option (Bool × VDst × (Wave → Nat → Word)) :=
  let two := fun (n : Bool) (d : VDst) (a b : VSrc) (f : Word → Word → Word) =>
    some (n, d, fun (w : Wave) (l : Nat) => f (w.v32 l a) (w.v32 l b))
  let three := fun (n : Bool) (d : VDst) (a b : VSrc) (f : Word → Word → Word → Word) =>
    some (n, d, fun (w : Wave) (l : Nat) => f (w.v32 l a) (w.v32 l b) (w.vd32 l d))
  let one := fun (n : Bool) (d : VDst) (a : VSrc) (f : Word → Word) => some (n, d, fun (w : Wave) (l : Nat) => f (w.v32 l a))
  match i with
  | .add n d a b => two n d a b (fun x y => trunc32 (x.toNat + y.toNat))
  | .sub n d a b => two n d a b (fun x y => trunc32 (x.toNat - y.toNat))
  | .mul n d a b => two n d a b (fun x y => trunc32 (x.toNat * y.toNat))
  | .mulhi n d a b => two n d a b (fun x y => trunc32 (x.toInt * y.toInt / 2 ^ 32))
  | .mulhiu n d a b => two n d a b (fun x y => BitVec.ofNat 32 (x.toNat * y.toNat / 2 ^ 32))
  | .mad n d a b => three n d a b (fun x y z => trunc32 (z.toNat + x.toNat * y.toNat))
  | .min n d a b => two n d a b (fun x y => trunc32 (min x.toInt y.toInt))
  | .max n d a b => two n d a b (fun x y => trunc32 (max x.toInt y.toInt))
  | .minu n d a b => two n d a b (fun x y => BitVec.ofNat 32 (min x.toNat y.toNat))
  | .maxu n d a b => two n d a b (fun x y => BitVec.ofNat 32 (max x.toNat y.toNat))
  | .absd n d a b => two n d a b (fun x y => trunc32 (max (x.toInt - y.toInt) (y.toInt - x.toInt)))
  | .csel n d a b => three n d a b (fun x y z => if z.toNat = 0 then y else x)
  | .and n d a b => two n d a b (fun x y => maskOf (fun k => x.getLsbD k && y.getLsbD k))
  | .or n d a b => two n d a b (fun x y => maskOf (fun k => x.getLsbD k || y.getLsbD k))
  | .xor n d a b => two n d a b (fun x y => maskOf (fun k => x.getLsbD k != y.getLsbD k))
  | .andn n d a b => two n d a b (fun x y => maskOf (fun k => x.getLsbD k && !y.getLsbD k))
  | .shl n d a b => two n d a b (fun x y => BitVec.ofNat 32 (x.toNat * 2 ^ (y.toNat % 32)))
  | .srl n d a b => two n d a b (fun x y => BitVec.ofNat 32 (x.toNat / 2 ^ (y.toNat % 32)))
  | .sra n d a b => two n d a b (fun x y => trunc32 (x.toInt / 2 ^ (y.toNat % 32)))
  | .rot n d a b => two n d a b (fun x y => BitVec.ofNat 32 (x.toNat * 2 ^ (y.toNat % 32)) ||| BitVec.ofNat 32 (x.toNat / 2 ^ (32 - y.toNat % 32)))
  | .bfe n d a b => two n d a b (fun x y =>
      maskOf (fun k => decide (0 < fieldLen y) && x.getLsbD (fieldAt y + min k (fieldLen y - 1))))
  | .bfeu n d a b => two n d a b (fun x y => maskOf (fun k => decide (k < fieldLen y) && x.getLsbD (fieldAt y + k)))
  | .bfi n d a b => three n d a b (fun x y z =>
      maskOf (fun k => if fieldAt y ≤ k ∧ k < fieldAt y + fieldLen y then x.getLsbD (k - fieldAt y) else z.getLsbD k))
  | .popc n d a => one n d a (fun x => BitVec.ofNat 32 ((List.range 32).countP (fun k => x.getLsbD k)))
  | .clz n d a => one n d a (fun x => BitVec.ofNat 32 ((List.range 32).countP (fun k => decide (x.toNat < 2 ^ k))))
  | .brev n d a => one n d a (fun x => maskOf (fun k => x.getLsbD (31 - k)))
  | .addsat n d a b => two n d a b (fun x y => trunc32 (max (-(2 ^ 31)) (min (2 ^ 31 - 1) (x.toInt + y.toInt))))
  | .subsat n d a b => two n d a b (fun x y => trunc32 (max (-(2 ^ 31)) (min (2 ^ 31 - 1) (x.toInt - y.toInt))))
  | .bmix n d a b => three n d a b (fun x y z =>
      let v := x.toNat + z.toNat * 2 ^ 32
      BitVec.ofNat 32 (mixed v (y.toNat % 32) + mixed v (y.toNat / 32 % 32) * 256 + mixed v (y.toNat / 1024 % 32) * 65536 +
        mixed v (y.toNat / 32768 % 32) * 16777216))
  | .icmpEq n d a b => two n d a b (fun x y => wordOf (intCond .eq x y))
  | .icmpNe n d a b => two n d a b (fun x y => wordOf (intCond .ne x y))
  | .icmpLt n d a b => two n d a b (fun x y => wordOf (intCond .lt x y))
  | .icmpLe n d a b => two n d a b (fun x y => wordOf (intCond .le x y))
  | .icmpLtu n d a b => two n d a b (fun x y => wordOf (intCond .ltu x y))
  | .icmpLeu n d a b => two n d a b (fun x y => wordOf (intCond .leu x y))
  | .addi d a k => one false d a (fun x => trunc32 (x.toNat + k.toInt))
  | .andi d a k => one false d a (fun x => maskOf (fun j => x.getLsbD j && k.getLsbD (min j 10)))
  | .ori d a k => one false d a (fun x => maskOf (fun j => x.getLsbD j || k.getLsbD (min j 10)))
  | .xori d a k => one false d a (fun x => maskOf (fun j => x.getLsbD j != k.getLsbD (min j 10)))
  | .shli d a k => one false d a (fun x => BitVec.ofNat 32 (x.toNat * 2 ^ k.toNat))
  | .srli d a k => one false d a (fun x => BitVec.ofNat 32 (x.toNat / 2 ^ k.toNat))
  | .srai d a k => one false d a (fun x => trunc32 (x.toInt / 2 ^ k.toNat))
  | .muli d a k => one false d a (fun x => trunc32 (x.toNat * k.toInt))
  | _ => none

/-- The forms of Table 7.1 with a 64-bit result. -/
def wideRule (i : Instr) : Option (Bool × VDst × (Wave → Nat → Dword)) :=
  let two := fun (n : Bool) (d : VDst) (a b : VSrc) (f : Dword → Dword → Dword) =>
    some (n, d, fun (w : Wave) (l : Nat) => f (w.v64 l a) (w.v64 l b))
  let shift := fun (n : Bool) (d : VDst) (a b : VSrc) (f : Dword → Nat → Dword) =>
    some (n, d, fun (w : Wave) (l : Nat) => f (w.v64 l a) ((w.v32 l b).toNat % 64))
  match i with
  | .add64 n d a b => two n d a b (fun x y => trunc64 (x.toNat + y.toNat))
  | .sub64 n d a b => two n d a b (fun x y => trunc64 (x.toNat - y.toNat))
  | .mul64 n d a b => two n d a b (fun x y => trunc64 (x.toNat * y.toNat))
  | .madw n d a b => some (n, d, fun w l => BitVec.ofNat 64 ((w.vd64 l d).toNat + (w.v32 l a).toNat * (w.v32 l b).toNat))
  | .min64 n d a b => two n d a b (fun x y => trunc64 (min x.toInt y.toInt))
  | .max64 n d a b => two n d a b (fun x y => trunc64 (max x.toInt y.toInt))
  | .minu64 n d a b => two n d a b (fun x y => BitVec.ofNat 64 (min x.toNat y.toNat))
  | .maxu64 n d a b => two n d a b (fun x y => BitVec.ofNat 64 (max x.toNat y.toNat))
  | .shl64 n d a b => shift n d a b (fun x k => BitVec.ofNat 64 (x.toNat * 2 ^ k))
  | .srl64 n d a b => shift n d a b (fun x k => BitVec.ofNat 64 (x.toNat / 2 ^ k))
  | .sra64 n d a b => shift n d a b (fun x k => trunc64 (x.toInt / 2 ^ k))
  | _ => none

/-- The quotients and remainders of R169 and Table 7.4. -/
def quotS (a b : Word) : Word := if b.toNat = 0 then 0xFFFFFFFF#32 else trunc32 (Int.tdiv a.toInt b.toInt)
def restS (a b : Word) : Word := if b.toNat = 0 then a else trunc32 (a.toInt - b.toInt * Int.tdiv a.toInt b.toInt)
def quotU (a b : Word) : Word := if b.toNat = 0 then 0xFFFFFFFF#32 else BitVec.ofNat 32 (a.toNat / b.toNat)
def restU (a b : Word) : Word := if b.toNat = 0 then a else BitVec.ofNat 32 (a.toNat - b.toNat * (a.toNat / b.toNat))

/-- The four divisions: D and the result of two operands. -/
def divRule (i : Instr) : Option (VDst × VSrc × VSrc × (Word → Word → Word)) :=
  match i with
  | .divs d a b => some (d, a, b, quotS)
  | .divu d a b => some (d, a, b, quotU)
  | .rems d a b => some (d, a, b, restS)
  | .remu d a b => some (d, a, b, restU)
  | _ => none

end Sys2Proof.Claims
end

