-- ==== Sys2Proof/Safety/Float.lean ====
section
/-! DEFINITION. Safety/Float.lean: the results the tables of chapter 8 give for classes 4 and 5, element by element, with
the exceptions of each lane. -/

namespace Sys2Proof.Claims

open Sys2Proof Sys2Proof.Machine

/-- Element `e` of 16 bits of a register (R62), and the value a format reads in bits of a register under FTZ (R70). -/
def halfNo (e : Nat) (x : Word) : Nat := x.toNat / 2 ^ (16 * e) % 65536
def seen (F : FFmt) (w : Wave) (bits : Nat) : FVal := F.input w.ftz bits

/-- An exact value rounded under FPMODE, as a code and its exceptions (`fround` of R136). -/
def rounded (F : FFmt) (w : Wave) (x : FVal) : Nat × Nat := F.round w.rm w.ftz x
def asReg (r : Nat × Nat) : Word × Nat := (BitVec.ofNat 32 r.1, r.2)
/-- Two elements joined, their exceptions combined (R180). -/
def pairOf (lo hi : Nat × Nat) : Word × Nat := (BitVec.ofNat 32 (lo.1 + hi.1 * 65536), lo.2 ||| hi.2)
/-- A packed form: the same element result from the elements of two operands, and of three. -/
def byHalves (f : Nat → Nat → Nat × Nat) (x y : Word) : Word × Nat :=
  pairOf (f (halfNo 0 x) (halfNo 0 y)) (f (halfNo 1 x) (halfNo 1 y))
def byHalves3 (f : Nat → Nat → Nat → Nat × Nat) (x y z : Word) : Word × Nat :=
  pairOf (f (halfNo 0 x) (halfNo 0 y) (halfNo 0 z)) (f (halfNo 1 x) (halfNo 1 y) (halfNo 1 z))

/-- a + b, a × b and a × b + c of one element. -/
def sumE (F : FFmt) (w : Wave) (x y : Nat) : Nat × Nat := rounded F w (FVal.sum w.rm [seen F w x, seen F w y])
def prodE (F : FFmt) (w : Wave) (x y : Nat) : Nat × Nat := rounded F w (FVal.mul (seen F w x) (seen F w y))
def fmaE (F : FFmt) (w : Wave) (x y z : Nat) : Nat × Nat :=
  rounded F w (FVal.sum w.rm [FVal.mul (seen F w x) (seen F w y), seen F w z])

/-- Table 8.2. -/
def floatCond (c : FCond) (w : Wave) (x y : Word) : Bool :=
  let p := seen fp32 w x.toNat
  let q := seen fp32 w y.toNat
  let ordered := !p.isNan && !q.isNan
  match c with
  | .eq => ordered && FVal.order p q == 0
  | .ne => !(ordered && FVal.order p q == 0)
  | .lt => ordered && decide (FVal.order p q < 0)
  | .le => ordered && decide (FVal.order p q ≤ 0)
  | .un => !ordered
  | .od => ordered
/-- A comparison meets IV where an operand is a signalling NaN (R181). -/
def condExc (w : Wave) (x y : Word) : Nat := if (seen fp32 w x.toNat).isSig || (seen fp32 w y.toNat).isSig then 16 else 0

/-- The class of a stored value: the bit of Table 8.5. -/
def classBit (x : Word) : Nat :=
  let neg := x.getLsbD 31
  match fp32.value x.toNat with
  | .nan sig => if sig then 8 else 9
  | .inf _ => if neg then 0 else 7
  | .fin _ m _ =>
    if m = 0 then (if neg then 3 else 4)
    else if x.toNat % 2 ^ 31 < 2 ^ 23 then (if neg then 2 else 5)
    else (if neg then 1 else 6)

/-- Tables 8.1 and 8.3, the forms with a vector result that meet exceptions: NW, D, what shadow checking sees of the result
(none for an integer result, R179), and each lane's result and exceptions. -/
def floatRule (i : Instr) : Option (Bool × VDst × Option FKind × (Wave → Nat → Word × Nat)) :=
  let two := fun (n : Bool) (d : VDst) (a b : VSrc) (k : Option FKind) (f : Wave → Word → Word → Word × Nat) =>
    some (n, d, k, fun (w : Wave) (l : Nat) => f w (w.v32 l a) (w.v32 l b))
  let three := fun (n : Bool) (d : VDst) (a b : VSrc) (k : Option FKind) (f : Wave → Word → Word → Word → Word × Nat) =>
    some (n, d, k, fun (w : Wave) (l : Nat) => f w (w.v32 l a) (w.v32 l b) (w.vd32 l d))
  let one := fun (n : Bool) (d : VDst) (a : VSrc) (k : Option FKind) (f : Wave → Word → Word × Nat) =>
    some (n, d, k, fun (w : Wave) (l : Nat) => f w (w.v32 l a))
  let cond := fun (n : Bool) (d : VDst) (a b : VSrc) (c : FCond) =>
    two n d a b none (fun w x y => (wordOf (floatCond c w x y), condExc w x y))
  match i with
  | .fadd n d a b => two n d a b (some .single) (fun w x y => asReg (sumE fp32 w x.toNat y.toNat))
  | .fsub n d a b => two n d a b (some .single) (fun w x y =>
      asReg (rounded fp32 w (FVal.sum w.rm [seen fp32 w x.toNat, (seen fp32 w y.toNat).negate])))
  | .fmul n d a b => two n d a b (some .single) (fun w x y => asReg (prodE fp32 w x.toNat y.toNat))
  | .ffma n d a b => three n d a b (some .single) (fun w x y z => asReg (fmaE fp32 w x.toNat y.toNat z.toNat))
  | .ffms n d a b => three n d a b (some .single) (fun w x y z => asReg (rounded fp32 w (FVal.sum w.rm
      [FVal.mul (seen fp32 w x.toNat) (seen fp32 w y.toNat), (seen fp32 w z.toNat).negate])))
  | .fnma n d a b => three n d a b (some .single) (fun w x y z => asReg (rounded fp32 w (FVal.sum w.rm
      [seen fp32 w z.toNat, (FVal.mul (seen fp32 w x.toNat) (seen fp32 w y.toNat)).negate])))
  | .fmin n d a b => two n d a b (some .single) (fun w x y => asReg (fp32.minMax true w.ftz x.toNat y.toNat))
  | .fmax n d a b => two n d a b (some .single) (fun w x y => asReg (fp32.minMax false w.ftz x.toNat y.toNat))
  | .fcmpEq n d a b => cond n d a b .eq
  | .fcmpNe n d a b => cond n d a b .ne
  | .fcmpLt n d a b => cond n d a b .lt
  | .fcmpLe n d a b => cond n d a b .le
  | .fcmpUn n d a b => cond n d a b .un
  | .fcmpOd n d a b => cond n d a b .od
  | .hadd2 n d a b => two n d a b (some .halves) (fun w x y => byHalves (sumE fp16 w) x y)
  | .hmul2 n d a b => two n d a b (some .halves) (fun w x y => byHalves (prodE fp16 w) x y)
  | .hfma2 n d a b => three n d a b (some .halves) (fun w x y z => byHalves3 (fmaE fp16 w) x y z)
  | .hmin2 n d a b => two n d a b (some .halves) (fun w x y => byHalves (fp16.minMax true w.ftz) x y)
  | .hmax2 n d a b => two n d a b (some .halves) (fun w x y => byHalves (fp16.minMax false w.ftz) x y)
  | .badd2 n d a b => two n d a b (some .bhalves) (fun w x y => byHalves (sumE bf16 w) x y)
  | .bmul2 n d a b => two n d a b (some .bhalves) (fun w x y => byHalves (prodE bf16 w) x y)
  | .bfma2 n d a b => three n d a b (some .bhalves) (fun w x y z => byHalves3 (fmaE bf16 w) x y z)
  | .fdot2h n d a b => three n d a b (some .single) (fun w x y z => asReg (rounded fp32 w (FVal.sum w.rm
      [seen fp32 w z.toNat, FVal.mul (seen fp16 w (halfNo 0 x)) (seen fp16 w (halfNo 0 y)),
        FVal.mul (seen fp16 w (halfNo 1 x)) (seen fp16 w (halfNo 1 y))])))
  | .fdot4q8 n d a b => three n d a b (some .single) (fun w x y z =>
      let e := fun (k : Nat) => FVal.mul (e4m3.value (byteAt x.toNat k)) (e4m3.value (byteAt y.toNat k))
      asReg (rounded fp32 w (FVal.sum w.rm [seen fp32 w z.toNat, e 0, e 1, e 2, e 3])))
  | .fcopysign n d a b => two n d a b (some .single) (fun w x y =>
      let p := seen fp32 w x.toNat
      if p.isNan then (0x7FC00000#32, if p.isSig then 16 else 0)
      else (BitVec.ofNat 32 ((if p.isZero then 0 else x.toNat % 2 ^ 31) + y.toNat / 2 ^ 31 * 2 ^ 31), 0))
  | .fldexp n d a b => two n d a b (some .single) ldexpF
  | .frcp n d a => one n d a (some .single) rcpF
  | .frsq n d a => one n d a (some .single) rsqF
  | .fsqrt n d a => one n d a (some .single) (fun w x => asReg (fp32.sqrt w.rm w.ftz (seen fp32 w x.toNat)))
  | .fexp2 n d a => one n d a (some .single) exp2F
  | .flog2 n d a => one n d a (some .single) log2F
  | .fsinp n d a => one n d a (some .single) (trigF false)
  | .fcosp n d a => one n d a (some .single) (trigF true)
  | .ffloor n d a => one n d a (some .single) (roundF .rd false)
  | .fceil n d a => one n d a (some .single) (roundF .ru false)
  | .ftrunc n d a => one n d a (some .single) (roundF .rz false)
  | .frint n d a => one n d a (some .single) (fun w x => roundF w.rm true w x)
  | .ffract n d a => one n d a (some .single) fractF
  | .cvtF32S32 n d a => one n d a (some .single) (fun w x => asReg (fp32.round w.rm false (.fin (decide (x.toInt < 0)) x.toInt.natAbs 0)))
  | .cvtF32U32 n d a => one n d a (some .single) (fun w x => asReg (fp32.round w.rm false (.fin false x.toNat 0)))
  | .cvtS32F32 n d a => one n d a none (fun w x =>
      let r := (seen fp32 w x.toNat).saturate w.rm (-(2 ^ 31)) (2 ^ 31 - 1)
      (trunc32 r.1, r.2))
  | .cvtU32F32 n d a => one n d a none (fun w x =>
      let r := (seen fp32 w x.toNat).saturate w.rm 0 (2 ^ 32 - 1)
      (trunc32 r.1, r.2))
  | .packh n d a b => two n d a b (some .halves) (fun w x y =>
      pairOf (rounded fp16 w (seen fp32 w x.toNat)) (rounded fp16 w (seen fp32 w y.toNat)))
  | .packb n d a b => two n d a b (some .bhalves) (fun w x y =>
      pairOf (rounded bf16 w (seen fp32 w x.toNat)) (rounded bf16 w (seen fp32 w y.toNat)))
  | .cvtF32HLo n d a => one n d a (some .single) (fun _ x => (fp16.widen (halfNo 0 x), 0))
  | .cvtF32HHi n d a => one n d a (some .single) (fun _ x => (fp16.widen (halfNo 1 x), 0))
  | .cvtF32BLo n d a => one n d a (some .single) (fun _ x => (bf16.widen (halfNo 0 x), 0))
  | .cvtF32BHi n d a => one n d a (some .single) (fun _ x => (bf16.widen (halfNo 1 x), 0))
  | .unpk8E4 n d a b => two n d a b (some .single) (fun _ x y => (e4m3.widen (byteAt x.toNat (y.toNat % 4)), 0))
  | .unpk8E5 n d a b => two n d a b (some .single) (fun _ x y => (e5m2.widen (byteAt x.toNat (y.toNat % 4)), 0))
  | _ => none

/-- PK8 (R65): NW, D, the operand that names the byte, what shadow checking sees of the result, and each lane's byte and the
exceptions of the conversion. -/
def packRule (i : Instr) : Option (Bool × VDst × VSrc × FKind × (Wave → Nat → Word × Nat)) :=
  let byte := fun (F : FFmt) (a : VSrc) (w : Wave) (l : Nat) => asReg (F.pack8 (w.v32 l a).toNat)
  match i with
  | .pk8E4 n d a b => some (n, d, b, .e4, byte e4m3 a)
  | .pk8E5 n d a b => some (n, d, b, .e5, byte e5m2 a)
  | _ => none

/-- The byte of dd that b names replaced (R65). -/
def withByte (w : Wave) (l : Nat) (d : VDst) (b : VSrc) (x : Word) : Word :=
  let z := (w.vd32 l d).toNat
  let j := (w.v32 l b).toNat % 4
  BitVec.ofNat 32 (z - byteAt z j * 256 ^ j + x.toNat % 256 * 256 ^ j)

/-- The comparisons into a mask (R181). -/
def maskFloatRule (i : Instr) : Option (MReg × VSrc × VSrc × FCond) :=
  match i with
  | .fcmpmEq d a b => some (d, a, b, .eq)
  | .fcmpmNe d a b => some (d, a, b, .ne)
  | .fcmpmLt d a b => some (d, a, b, .lt)
  | .fcmpmLe d a b => some (d, a, b, .le)
  | .fcmpmUn d a b => some (d, a, b, .un)
  | .fcmpmOd d a b => some (d, a, b, .od)
  | _ => none

/-- The uniform floating-point forms (R177): one element from the s registers. -/
def uniFloatRule (i : Instr) : Option (UDst × Option FKind × (Wave → Word × Nat)) :=
  match i with
  | .sfadd d a b => some (d, some .single, fun w => asReg (sumE fp32 w (w.u32 a).toNat (w.u32 b).toNat))
  | .sfmul d a b => some (d, some .single, fun w => asReg (prodE fp32 w (w.u32 a).toNat (w.u32 b).toNat))
  | .sffma d a b => some (d, some .single, fun w => asReg (fmaE fp32 w (w.u32 a).toNat (w.u32 b).toNat (w.ud32 d).toNat))
  | .scvtf d a => some (d, some .single, fun w =>
      asReg (fp32.round w.rm false (.fin (decide ((w.u32 a).toInt < 0)) (w.u32 a).toInt.natAbs 0)))
  | .scvti d a => some (d, none, fun w =>
      let r := (seen fp32 w (w.u32 a).toNat).saturate w.rm (-(2 ^ 31)) (2 ^ 31 - 1)
      (trunc32 r.1, r.2))
  | _ => none

/-- The lanes whose result of a uniform form an upset strikes: its one result is every active lane's (R177; log entry 52). -/
def allStruck (s : State) : Mask := if s.strikes = 0#32 then 0#32 else s.active

/-- The check of R77 fails in none of the lanes `who`, whose results an upset strikes. -/
def Unfailed (s : State) (who : Mask) (k : Option FKind) (val : Nat → Word) : Prop :=
  ∀ kind, k = some kind → ∀ l < 32, who.getLsbD l = true → kind.fails (val l ^^^ (s.flip &&& kind.bits)) (val l) = false

/-- A result as delivered: the bits of an upset flipped in the lanes of a checked form that it strikes. -/
def delivered (s : State) (who : Mask) (k : Option FKind) (val : Nat → Word) (l : Nat) : Word :=
  match k with
  | some kind => if who.getLsbD l then val l ^^^ (s.flip &&& kind.bits) else val l
  | none => val l

/-- The lanes of `who` whose results fail the check of R77. -/
def failing (s : State) (who : Mask) (kind : FKind) (val : Nat → Word) : Mask :=
  maskOf (fun l => who.getLsbD l && kind.fails (val l ^^^ (s.flip &&& kind.bits)) (val l))

/-- The state but for an upset, which a checked form that it strikes spends. -/
def spent (s : State) (k : Option FKind) : State := { s with upset := if k.isSome ∧ s.strikes ≠ 0#32 then none else s.upset }

/-- The exceptions the active lanes have met, combined by OR (R72), and those an exact tiny result adds under TUF. -/
def metAll (s : State) (fl : Nat → Nat) : Nat := combined s.active (fun l => excOf s.src.traps (fl l))

/-- FPEXC (0x0A) at the issuing instruction: every exception met in INFO, the lanes that met an enabled one in LANES (R72,
R449). -/
def fpexc (s : State) (fl : Nat → Nat) : TrapReq :=
  { cause := 0x0A, info := BitVec.ofNat 32 (metAll s fl),
    lanes := maskOf (fun l => s.active.getLsbD l && decide (excOf s.src.traps (fl l) &&& s.src.traps ≠ 0)),
    iaddr := s.iss.pc, resume := s.iss.pc, faddr := 0#48, slotB := s.iss.slotB, arrayf := false, deferred := false,
    restore := false }

/-- SHADOW (0x09) of the issuing instruction in some lanes (R78). -/
def shadowAt (s : State) (ls : Mask) : TrapReq :=
  { cause := 0x09, info := 0#32, lanes := ls, iaddr := s.iss.pc, resume := s.iss.pc, faddr := 0#48, slotB := s.iss.slotB,
    arrayf := false, deferred := false, restore := false }

/-- A failed check of the floating-point unit of a wave's quarter has been found (R78, R417): the unit is quarantined and a
record of KIND 0x04 reported; nothing else differs. -/
def ShadowFound (s : State) (key : Nat) (u : State) : Prop :=
  ∃ v, { v with quarantined := s.quarantined } = s ∧
    (∃ q ∈ v.quarantined, q.unit = 1 ∧ q.loc = locOfCore (keyCore key) (keyQuarter key % 4)) ∧
    u = State.report v { Report.plain 0x04 1 with
      unit := 1, loc := locOfCore (keyCore key) (keyQuarter key % 4), ctx := s.waveCtx key, grid := s.wgGrid (s.wave key).wg,
      detail := 0x09 }

end Sys2Proof.Claims
end

