-- ==== Sys2Proof/Safety/Lane.lean ====
section
/-! DEFINITION. Safety/Lane.lean: the results the tables of classes 6 and 7 give. -/

namespace Sys2Proof.Claims

open Sys2Proof Sys2Proof.Machine

/-- The active lanes whose operand is not zero (R194). -/
def nonzero (act : Mask) (w : Wave) (a : VSrc) : List Nat := (lanesOf act).filter (fun l => decide ((w.v32 l a).toNat ≠ 0))

/-- Table 8.8 and Table 8.5: the forms with a vector result that meet no exception, from the active set and the wave as
read. -/
def laneRule (i : Instr) : Option (Bool × VDst × (Mask → Wave → Nat → Word)) :=
  let from_ := fun (n : Bool) (d : VDst) (a b : VSrc) (k : Nat → Nat → Nat) =>
    some (n, d, fun (_ : Mask) (w : Wave) (l : Nat) => w.v32 (k l ((w.v32 l b).toNat % 32)) a)
  let fold := fun (n : Bool) (d : VDst) (a : VSrc) (f : List Word → Word) =>
    some (n, d, fun (act : Mask) (w : Wave) (_ : Nat) => f ((lanesOf act).map (fun l => w.v32 l a)))
  match i with
  | .fclass n d a => some (n, d, fun _ w l => BitVec.ofNat 32 (2 ^ classBit (w.v32 l a)))
  | .shfl n d a b => from_ n d a b (fun _ k => k)
  | .shflup n d a b => from_ n d a b (fun l k => if l < k then l else l - k)
  | .shfldn n d a b => from_ n d a b (fun l k => if 31 < l + k then l else l + k)
  | .shflx n d a b => from_ n d a b (fun l k => l ^^^ k)
  | .vany n d a => some (n, d, fun act w _ => wordOf (!(nonzero act w a).isEmpty))
  | .vall n d a => some (n, d, fun act w _ => wordOf ((nonzero act w a).length == (lanesOf act).length))
  | .matchEq n d a => some (n, d, fun act w l => maskOf (fun k => act.getLsbD k && decide ((w.v32 k a).toNat = (w.v32 l a).toNat)))
  | .elect n d => some (n, d, fun act _ l => BitVec.ofNat 32 (if (lanesOf act).all (fun k => decide (l ≤ k)) then 1 else 0))
  | .redadd n d a => fold n d a (fun xs => BitVec.ofNat 32 ((xs.map BitVec.toNat).sum))
  | .redmin n d a => fold n d a (fun xs => trunc32 ((xs.map BitVec.toInt).foldl min (2 ^ 31 - 1)))
  | .redmax n d a => fold n d a (fun xs => trunc32 ((xs.map BitVec.toInt).foldl max (-(2 ^ 31))))
  | .redand n d a => fold n d a (fun xs => maskOf (fun k => xs.all (fun x => x.getLsbD k)))
  | .redor n d a => fold n d a (fun xs => maskOf (fun k => xs.any (fun x => x.getLsbD k)))
  | .redxor n d a => fold n d a (fun xs => maskOf (fun k => xs.countP (fun x => x.getLsbD k) % 2 == 1))
  | .mtov n d a => some (n, d, fun act w l => wordOf ((w.msrc act a).getLsbD l))
  | .prefixadd n d a => some (n, d, fun act w l =>
      BitVec.ofNat 32 ((((lanesOf act).filter (fun k => decide (k < l))).map (fun k => (w.v32 k a).toNat)).sum))
  | _ => none

/-- Table 8.8: the forms that write a whole mask register, from the active set and the wave as read. -/
def maskSetRule (i : Instr) : Option (MReg × (Mask → Wave → Mask)) :=
  let two := fun (d : MReg) (a b : MSrc) (f : Bool → Bool → Bool) =>
    some (d, fun (act : Mask) (w : Wave) => maskOf (fun l => f ((w.msrc act a).getLsbD l) ((w.msrc act b).getLsbD l)))
  match i with
  | .mand d a b => two d a b (fun x y => x && y)
  | .mor d a b => two d a b (fun x y => x || y)
  | .mxor d a b => two d a b (fun x y => x != y)
  | .mandn d a b => two d a b (fun x y => x && !y)
  | .mact d => some (d, fun act _ => act)
  | .mclr d => some (d, fun _ _ => 0#32)
  | .mfromv d a => some (d, fun act w => maskOf (fun l => act.getLsbD l && decide ((w.v32 l a).toNat ≠ 0)))
  | .mfroms d a => some (d, fun _ w => w.u32 a)
  | .icmpmEq d a b => some (d, fun act w => maskOf (fun l => act.getLsbD l && intCond .eq (w.v32 l a) (w.v32 l b)))
  | .icmpmNe d a b => some (d, fun act w => maskOf (fun l => act.getLsbD l && intCond .ne (w.v32 l a) (w.v32 l b)))
  | .icmpmLt d a b => some (d, fun act w => maskOf (fun l => act.getLsbD l && intCond .lt (w.v32 l a) (w.v32 l b)))
  | .icmpmLe d a b => some (d, fun act w => maskOf (fun l => act.getLsbD l && intCond .le (w.v32 l a) (w.v32 l b)))
  | .icmpmLtu d a b => some (d, fun act w => maskOf (fun l => act.getLsbD l && intCond .ltu (w.v32 l a) (w.v32 l b)))
  | .icmpmLeu d a b => some (d, fun act w => maskOf (fun l => act.getLsbD l && intCond .leu (w.v32 l a) (w.v32 l b)))
  | _ => none

/-- A whole-register write of a mask (R197, R146): 0 in lanes that are not live and in those whose bit LEAVE cleared in the
same clk, then the release condition of that mask (R144); in slot B the value slot A wrote remains (R23). -/
def giveMask (s : State) (d : MReg) (v : Mask) (w : Wave) : Wave :=
  if s.iss.slotB ∧ d.val ∈ s.iss.keptM then w
  else
    ({ w with m := w.m.set d.val (maskOf (fun l =>
        v.getLsbD l && (w.lane l).state.live && !s.iss.left.any (fun k => decide (k.1 = d.val) && k.2.getLsbD l))) }).releaseMask d

/-- Tables 7.7 and 8.8: the forms that write one s register, from the active set and the wave as read. -/
def uniRule (i : Instr) : Option (UDst × (Mask → Wave → Word)) :=
  let two := fun (d : UDst) (a b : USrc) (f : Word → Word → Word) =>
    some (d, fun (_ : Mask) (w : Wave) => f (w.u32 a) (w.u32 b))
  let three := fun (d : UDst) (a b : USrc) (f : Word → Word → Word → Word) =>
    some (d, fun (_ : Mask) (w : Wave) => f (w.u32 a) (w.u32 b) (w.ud32 d))
  let bit := fun (p : Bool) => BitVec.ofNat 32 (if p then 1 else 0)
  match i with
  | .sadd d a b => two d a b (fun x y => trunc32 (x.toNat + y.toNat))
  | .ssub d a b => two d a b (fun x y => trunc32 (x.toNat - y.toNat))
  | .smul d a b => two d a b (fun x y => trunc32 (x.toNat * y.toNat))
  | .smad d a b => three d a b (fun x y z => trunc32 (z.toNat + x.toNat * y.toNat))
  | .sand d a b => two d a b (fun x y => maskOf (fun k => x.getLsbD k && y.getLsbD k))
  | .sor d a b => two d a b (fun x y => maskOf (fun k => x.getLsbD k || y.getLsbD k))
  | .sxor d a b => two d a b (fun x y => maskOf (fun k => x.getLsbD k != y.getLsbD k))
  | .sshl d a b => two d a b (fun x y => BitVec.ofNat 32 (x.toNat * 2 ^ (y.toNat % 32)))
  | .sshr d a b => two d a b (fun x y => BitVec.ofNat 32 (x.toNat / 2 ^ (y.toNat % 32)))
  | .ssra d a b => two d a b (fun x y => trunc32 (x.toInt / 2 ^ (y.toNat % 32)))
  | .smin d a b => two d a b (fun x y => trunc32 (min x.toInt y.toInt))
  | .smax d a b => two d a b (fun x y => trunc32 (max x.toInt y.toInt))
  | .sminu d a b => two d a b (fun x y => BitVec.ofNat 32 (min x.toNat y.toNat))
  | .smaxu d a b => two d a b (fun x y => BitVec.ofNat 32 (max x.toNat y.toNat))
  | .scmpEq d a b => two d a b (fun x y => bit (intCond .eq x y))
  | .scmpNe d a b => two d a b (fun x y => bit (intCond .ne x y))
  | .scmpLt d a b => two d a b (fun x y => bit (intCond .lt x y))
  | .scmpLe d a b => two d a b (fun x y => bit (intCond .le x y))
  | .scmpLtu d a b => two d a b (fun x y => bit (intCond .ltu x y))
  | .scmpLeu d a b => two d a b (fun x y => bit (intCond .leu x y))
  | .srdlane d a b => some (d, fun _ w => w.vreg ((w.u32 b).toNat % 32) a.val)
  | .sdivu d a b => two d a b quotU
  | .sremu d a b => two d a b restU
  | .ssel d a b => three d a b (fun x y z => if z.toNat = 0 then y else x)
  | .ballot d a => some (d, fun act w => maskOf (fun l => act.getLsbD l && decide ((w.v32 l a).toNat ≠ 0)))
  | .mpop d a => some (d, fun act w => BitVec.ofNat 32 (lanesOf (w.msrc act a)).length)
  | .mtos d a => some (d, fun act w => w.msrc act a)
  | _ => none

end Sys2Proof.Claims
end

