-- ==== Sys2Proof/Safety/Control.lean ====
section
/-! DEFINITION. Safety/Control.lean: what chapter 6 says of branches, the return stack, reconvergence and the modes. -/

namespace Sys2Proof.Claims

open Sys2Proof Sys2Proof.Machine

/-- A branch target: `off` words from the address after the instruction (R109). -/
def targetOf (s : State) (off : Int) : Addr := BitVec.ofInt 48 (s.iss.next.toNat + 4 * off)

/-- R140: the target, and whether lane `l` takes the branch; NOP takes none. -/
def branchRule (i : Instr) (s : State) : Option (Addr × (Nat → Bool)) :=
  let some_ := fun (m : Mask) => (List.range 32).any (fun l => m.getLsbD l && s.active.getLsbD l)
  let every := fun (m : Mask) => (List.range 32).all (fun l => m.getLsbD l || !s.active.getLsbD l)
  match i with
  | .bra off => some (targetOf s off.toInt, fun _ => true)
  | .brin m off => some (targetOf s off.toInt, fun l => (s.src.mreg m.val).getLsbD l)
  | .brout m off => some (targetOf s off.toInt, fun l => !(s.src.mreg m.val).getLsbD l)
  | .bany m off => some (targetOf s off.toInt, fun _ => some_ (s.src.mreg m.val))
  | .ball m off => some (targetOf s off.toInt, fun _ => every (s.src.mreg m.val))
  | .bsz r off => some (targetOf s off.toInt, fun _ => decide ((s.src.sreg r.val).toNat = 0))
  | .bsnz r off => some (targetOf s off.toInt, fun _ => !decide ((s.src.sreg r.val).toNat = 0))
  | .nop => some (s.iss.next, fun _ => false)
  | _ => none

/-- The return stack of lane `l` of a wave, oldest entry first: the spilled part, then the hardware part of at most eight
entries (R141). -/
def stackOf (w : Wave) (l : Nat) (x : Lane) : List Dword :=
  (List.range x.spilled).map (x.spilledEntry w.wg (32 * w.index + l)) ++
    (List.range (min x.hw 8)).map (x.entry w.wg (32 * w.index + l))

/-- Two lanes alike in everything but the program counter and the return stack. -/
def sameButStack (x y : Lane) : Prop :=
  { y with pc := x.pc, hw := x.hw, spilled := x.spilled, rstk := x.rstk, spill := x.spill } = x

/-- A 64-bit value is no address of an instruction (R142). -/
def noCode (x : Dword) : Prop := x.toNat % 4 ≠ 0 ∨ 2 ^ 48 ≤ x.toNat

/-- A lane held at a JOIN or WAITM on a mask (R143). -/
def heldAt (m : MReg) (x : Lane) : Bool := decide (x.state = .join m) || decide (x.state = .waitm m)

/-- The release condition of a mask (R144): where every live lane of the mask is held at it, every lane held at it is
released, and otherwise the held lanes outside the mask; a released lane continues after its own instruction. -/
def releasedWave (m : MReg) (w : Wave) : Wave :=
  let whole := (List.range 32).all (fun l => !(w.mreg m.val).getLsbD l || !(w.lane l).state.live || heldAt m (w.lane l))
  { w with lanes := w.lanes.mapIdx (fun l x =>
      if l < 32 ∧ heldAt m x = true ∧ (whole = true ∨ (w.mreg m.val).getLsbD l = false) then
        { x with state := .ready, pc := x.pc + 4#48 } else x) }

/-- What a release of the issuing workgroup at a scope of code `n` completes as the instruction issues (R91): beyond lane scope
its paddock accesses are carried out; at cluster or wider its stores commit and those its core has committed are performed. -/
def releasedAt (s : State) (n : Nat) : State :=
  let v := if n = 0 then s else s.padAll s.curWg
  if n < 3 then v else (v.commit s.curWg).performAll (s.wg s.curWg).core

/-- The issuing wave is still in its slot in `v`: no paddock access carried out by then has met lost data that ended its drove
(R415). -/
def Stays (s v : State) : Prop := (tabGet v.waves s.iss.key).isSome = true

/-- EXIT of the active lanes (R151): they have exited with empty stacks, and every mask bit of theirs is clear. -/
def exitedWave (act : Mask) (w : Wave) : Wave :=
  { w.lanesBy act (fun _ x => { x with state := .exited, hw := 0, spilled := 0, rstk := [], spill := [], deferred := [] }) with
    m := w.m.map (fun k => maskOf (fun l => k.getLsbD l && !act.getLsbD l)) }

/-- The lanes sleeping under a bellwether of a set are changed by `f` and ready (R27). -/
def wokenWave (bells : Mask) (f : Lane → Lane) (w : Wave) : Wave :=
  { w with lanes := w.lanes.map (fun x =>
      match x.state with
      | .sleeper b => if bells.getLsbD b.val then { f x with state := .ready } else x
      | _ => x) }

/-- Where the quarter issues this wave, it chooses afresh, not the yielding wave where another is ready (R26, R148). -/
def yielding (s : State) : State :=
  let q := s.iss.key / 16
  if (s.quarter q).cur ≠ some s.iss.key then s
  else { s with quarters := tabSet s.quarters q { s.quarter q with yielded := some s.iss.key, choose := true } }

end Sys2Proof.Claims
end

