-- ==== Sys2Proof/Safety/System.lean ====
section
/-! DEFINITION. Safety/System.lean: the checks at issue, the control registers, the hidden items and the trap record in the
words of the manual (R130, R154, R335, R364, R366). -/

namespace Sys2Proof.Claims

open Sys2Proof Sys2Proof.Machine

/-- A trap at the instruction's own address. -/
def trapAt (s : State) (cause info : Nat) (lanes : Mask) (faddr : Addr) : TrapReq :=
  ⟨cause, BitVec.ofNat 32 info, lanes, s.iss.pc, s.iss.pc, faddr, s.iss.slotB, false, false, false⟩

/-- A buffer record whose use is ILLEGAL (R46): a reserved bit, a reserved SWIZZLE, or a swizzle without a stride. -/
def badRecord (x : BitVec 128) : Prop :=
  x.extractLsb' 107 21 ≠ 0#21 ∨ 3 ≤ (x.extractLsb' 100 4).toNat ∨
    (x.extractLsb' 48 20 = 0#20 ∧ x.extractLsb' 100 4 ≠ 0#4)

/-- What an entry calls ILLEGAL for the values it finds: a record (R46, R55, R206, R252), a fold that does not exist or is
not initialised (R224, R235), a control register (R335) or an item (R366) that is none. -/
def illegalNow (i : Instr) (s : State) : Prop :=
  let folds := (s.wg s.curWg).folds
  let noFold := fun (k : Fold) => folds.length ≤ k.val
  let raw := fun (k : Fold) => ∀ f, folds[k.val]? = some f → f.init = false
  let noItem := fun (item : BitVec 7) => 9 < item.toNat ∨ (item.toNat = 9 ∧ (s.core s.curCore).array.lessee ≠ some s.curWg)
  match i with
  | .ld q .. | .ldro q .. | .st q .. | .pref q .. | .ldu q .. | .cacheWb q .. | .cacheInv q .. | .atom q .. | .red q ..
  | .waitu q .. | .strel q .. | .ldacq q .. => badRecord (s.src.qreg q.val)
  | .ldf q x _ _ => badRecord (s.src.qreg q.val) ∨ (s.src.qreg q.val).extractLsb' 100 4 ≠ 0#4 ∨ x.offset ≠ 0
  | .sample q t _ _ _ => badRecord (s.src.qreg q.val) ∨ (s.src.qreg q.val).extractLsb' 100 4 ≠ 1#4 ∨
      ((s.src.qreg q.val).extractLsb' 48 20).toNat ≠ texelBytes t
  | .mldsg _ _ _ q | .mmag _ _ _ _ q => badRecord (s.src.qreg q.val) ∨ (s.src.qreg q.val).extractLsb' 100 4 ≠ 0#4
  | .nev _ _ _ x => x.mem = true ∧ badRecord (s.src.qreg x.q.val)
  | .finit k _ | .farriveRank k _ => noFold k
  | .farrive _ k | .fwait _ k _ | .ftest _ k _ | .fexpect k _ _ => noFold k ∨ raw k
  | .rdcr _ cr => (16 ≤ cr.toNat ∧ cr.toNat < 64) ∨ (92 ≤ cr.toNat ∧ s.cur.handler = true)
  | .wrcr _ cr => (cr.toNat < 84 ∨ 87 < cr.toNat) ∧ s.cur.handler = true
  | .rdst _ _ item | .wrst _ _ item => noItem item
  | _ => False

/-- Bytes of a save area a workgroup of a grid needs (R343): V for each wave, the pen in whole KiB and pages, the array. -/
def saveSize (g : Grid) : Nat :=
  0x1000 + g.waves * (128 * g.regs + 4096) + (((g.pen + 1023) / 1024 * 1024 + 4095) / 4096) * 4096 +
    (if g.lease = 0 then 0 else g.lease * 32768 + 163840)

/-- The control registers as RDCR reads them (Tables 6.3 and 19.3); the mode registers and counters of the wave as they stood
before the clk (R23, R316). -/
def crRule (s : State) (cr : Nat) : Option Word :=
  let w := s.cur
  let v := s.src
  let c := s.ctx s.curCtx
  let g := s.grid s.curGrid
  let n := fun (x : Nat) => some (BitVec.ofNat 32 x)
  let d := s.drove (s.wg w.wg).drove
  match cr with
  | 0 => some (lo32 s.cycle)
  | 1 => some (hi32 s.cycle)
  | 2 => some (lo32 s.time)
  | 3 => some (hi32 s.time)
  | 4 => some v.fpmode
  | 5 => some v.fpflags
  | 6 => some v.oobflags
  | 7 => n g.depth
  | 8 => n s.curGrid
  | 9 => n (s.arrayShape s.curCore s.curWg)
  | 10 => n (c.netbase / 2 ^ 16)
  | 11 => some v.penpass
  | 12 => n (coreSite s.curCore * 2 ^ 16 + s.curCore % 160 * 2 ^ 8 + s.iss.key / 16 % 4)
  | 13 => some v.degen
  | 14 => n s.curCtx
  | 15 => n (((d.z * g.dy + d.y) * (g.dx * g.drove) + (d.x * g.drove + (s.wg w.wg).rank)) * 32 * g.waves + w.index * 32)
  | 80 => n ((s.wg w.wg).saveBase % 2 ^ 32)
  | 81 => n ((s.wg w.wg).saveBase / 2 ^ 32)
  | 82 => n (saveSize g)
  | 83 => n ((s.tethers.filter (fun t => decide (t.ctx = s.curCtx) && t.spill.isSome)).length)
  | 84 => n (c.netbase / 2 ^ 16)
  | 85 => n c.netcount
  | 86 => n c.flockwait
  | 87 => n c.flockshare
  | 88 => n c.commonsSize
  | 89 => n (c.nbrands * 2 ^ 16 + c.homebrand)
  | 90 => n g.prio
  | 91 => n c.childq.length
  | _ => if 64 ≤ cr ∧ cr < 80 then some (w.trap.extractLsb' (32 * (cr - 64)) 32) else none

/-- What WRCR writes to the registers it may write, and the values they accept (Table 19.3, R336). -/
def crWrite (cr : Nat) (x : Nat) (c : Context) : Context :=
  if cr = 84 then { c with netbase := x * 2 ^ 16 }
  else if cr = 85 then { c with netcount := x }
  else if cr = 86 then { c with flockwait := x }
  else { c with flockshare := x }
def crTakes (cr x : Nat) : Prop :=
  cr = 84 ∨ (cr = 85 ∧ x ≤ 65536) ∨ (cr = 86 ∧ 16 ≤ x ∧ x ≤ 65535) ∨ (cr = 87 ∧ x ≤ 16)

/-- The indices of an item (Table 21.3): one word for each lane, register, counter, half of a stack entry, or word of the
array; of a fold ten words. -/
def itemHas (s : State) (item ix : Nat) : Prop :=
  (item ≤ 2 ∧ ix < 32) ∨ (item = 3 ∧ ix < 64) ∨ (item = 4 ∧ ix < 8) ∨ ((item = 5 ∨ item = 6) ∧ ix < 4) ∨
  (item = 7 ∧ ix < 512) ∨ (item = 8 ∧ ix < 256 ∧ ix / 16 < (s.wg s.curWg).folds.length ∧ ix % 16 < 10) ∨ (item = 9 ∧ ix < 68)

/-- The first word of a fold (item 8, j = 0). -/
def foldWord (f : FoldState) : Word :=
  BitVec.ofNat 32 (f.init.toNat + 2 * f.members + 2 ^ 11 * f.arrived + 2 ^ 22 * f.err.toNat + 2 ^ 23 * f.remote.toNat +
    2 ^ 24 * f.lastErr.toNat + 2 ^ 25 * f.lastRemote.toNat)

/-- An item's word: items 0 to 6 as captured but for the live counts, items 7 to 9 live; none for an entry of the array's
queue that is not there, of which the manual gives no value. -/
def itemRule (s : State) (item ix : Nat) : Option Word :=
  let w := s.cur
  let h := w.hidden
  let a := (s.core s.curCore).array
  let f := (s.wg w.wg).folds.getD (ix / 16) ⟨false, 0, 0, List.replicate 8 0#32, 0, false, false, false, false⟩
  let entry := (w.lane (ix / 16)).entry w.wg (32 * w.index + ix / 16) (ix / 2 % 8)
  match item with
  | 0 => some (h.pclo.getD ix 0#32)
  | 1 => some (h.pchi.getD ix 0#32)
  | 2 => some (h.lstate.getD ix 0#32)
  | 3 => some (h.hv.getD ix 0#32)
  | 4 => some (if ix = 1 then BitVec.ofNat 32 (w.counts.mtx + 2 ^ 8 * w.counts.flk + 2 ^ 16 * w.counts.trc) else h.wave.getD ix 0#32)
  | 5 => some (h.shv.getD ix 0#32)
  | 6 => some (h.qhv.getD ix 0#32)
  | 7 => some (if ix % 2 = 0 then lo32 entry else hi32 entry)
  | 8 => some (if ix % 16 = 0 then foldWord f else if ix % 16 = 9 then BitVec.ofNat 32 f.phase else f.counts.getD (ix % 16 - 1) 0#32)
  | _ =>
    if ix = 0 then some (BitVec.ofNat 32 (a.tagA + 2 ^ 16 * a.tagS))
    else if ix = 1 then some (BitVec.ofNat 32 a.bands)
    else if ix = 2 then some (BitVec.ofNat 32 a.sticky)
    else if ix = 3 then some (BitVec.ofNat 32 a.queue.length)
    else (a.queue[(ix - 4) / 8]?).map (fun o =>
      [o.word, o.ext, o.a, o.b, BitVec.ofNat 32 o.prog, BitVec.ofNat 32 o.waveIx, 0#32, 0#32].getD ((ix - 4) % 8) 0#32)

/-- A word of item 9 that a rule forbids (R246, R251, R366): a number of bands, a queue length, or the wave of an entry. -/
def arrayForbids (nwaves ix : Nat) (x : Word) : Bool :=
  (decide (ix = 1) && !(decide (x.toNat ∈ [1, 3, 7, 15]))) || (decide (ix = 3) && decide (8 < x.toNat)) ||
  (decide (4 ≤ ix) && decide ((ix - 4) % 8 = 5) && decide (nwaves ≤ x.toNat))

/-- The words of item 9 that have been written with what a rule forbids, after one more write. -/
def forbiddenAfter (nwaves ix : Nat) (x : Word) (l : List Nat) : List Nat :=
  if arrayForbids nwaves ix x then ix :: l else l.filter (fun i => decide (i ≠ ix))

/-- A word of a fold written (item 8): its first word sets the fields of `foldWord`. -/
def foldSet (f : FoldState) (j : Nat) (x : Word) : FoldState :=
  if j = 0 then
    { f with
      init := x.getLsbD 0
      members := (x.extractLsb' 1 10).toNat
      arrived := (x.extractLsb' 11 11).toNat
      err := x.getLsbD 22
      remote := x.getLsbD 23
      lastErr := x.getLsbD 24
      lastRemote := x.getLsbD 25 }
  else if j < 9 then { f with counts := f.counts.set (j - 1) x }
  else { f with phase := x.toNat % 256 }

/-- What is noted of the data of registers 0 and 1, kept in item HV under numbers of their own while a handler runs (R361). -/
def heldNo (r : Nat) : Nat := if r < 2 then 512 + r else r
def ownNo (r : Nat) : Nat := if 512 ≤ r then r - 512 else r

/-- A captured item with one word written (items 0 to 6). -/
def hiddenSet (h : Hidden) (item ix : Nat) (x : Word) : Hidden :=
  match item with
  | 0 => { h with pclo := h.pclo.set ix x }
  | 1 => { h with pchi := h.pchi.set ix x }
  | 2 => { h with lstate := h.lstate.set ix x }
  | 3 => { h with hv := h.hv.set ix x }
  | 4 => { h with wave := h.wave.set ix x }
  | 5 => { h with shv := h.shv.set ix x }
  | _ => { h with qhv := h.qhv.set ix x }

/-- A trap record says what a trap is (Table 21.2). -/
def recordSays (r : BitVec 512) (t : TrapReq) : Prop :=
  (t.cause < 256 → (r.extractLsb' 0 8).toNat = t.cause) ∧ r.getLsbD 8 = t.restore ∧ r.getLsbD 9 = t.slotB ∧ r.getLsbD 10 = t.arrayf ∧
  r.getLsbD 11 = t.deferred ∧ r.extractLsb' 12 20 = 0#20 ∧ r.extractLsb' 32 32 = t.lanes ∧ r.extractLsb' 64 48 = t.iaddr ∧
  r.extractLsb' 112 16 = 0#16 ∧ r.extractLsb' 128 48 = t.resume ∧ r.extractLsb' 176 16 = 0#16 ∧ r.extractLsb' 192 32 = t.info ∧
  r.extractLsb' 224 32 = 0#32 ∧ r.extractLsb' 256 48 = t.faddr ∧ r.extractLsb' 304 208 = 0#208

/-- The state word of a lane (item 2 of Table 21.3). -/
def stateWord (st : LaneState) : Nat :=
  match st with
  | .never => 0
  | .ready | .regWait | .stalled => 1
  | .join m => 2 + 16 * m.val
  | .waitm m => 3 + 16 * m.val
  | .sleeper b => 4 + 256 * b.val
  | .exited => 5
  | .gbar => 6

/-- The record that q15 holds in a handler (R365): base, stride 4, extent, OOBMODE 1; zero without a save area. -/
def saveRecordSays (q : BitVec 128) (base size : Nat) : Prop :=
  if base = 0 then q = 0#128
  else q.toNat = base + 4 * 2 ^ 48 + size / 4 * 2 ^ 68 + 2 ^ 104

/-- A wave as its handler finds it, entered for trap `t` with lanes as in `w` (R361). -/
structure Entered (w v : Wave) (t : TrapReq) (vec : Addr) : Prop where
  handler : v.handler = true
  record : recordSays v.trap t
  window : v.wb = 0
  unblocked : v.wait = .none ∧ v.pend = none
  kept : { v with
      lanes := w.lanes
      q := w.q
      wb := w.wb
      handler := w.handler
      trap := w.trap
      hidden := w.hidden
      wait := w.wait
      pend := w.pend
      rteReady := w.rteReady
      starved := w.starved } = w
  records : ∀ k, k ≠ 15 → v.q.getD k 0#128 = w.q.getD k 0#128
  lanes : v.lanes = w.lanes.mapIdx (fun l x =>
    let y := { x with latches := List.replicate 4 Latch.blank }
    if x.state.live then
      { y with
        pc := vec
        state := .ready
        burst := 0
        idle := 0
        regs := (x.regs.set 0 (BitVec.ofNat 32 l)).set 1 0#32
        poison := x.poison.map heldNo
        deferred := x.deferred.map (fun d => { d with reg := heldNo d.reg }) }
    else y)
  items : ∀ l < 32, v.hidden.pclo.getD l 0#32 = (w.lane l).pc.setWidth 32 ∧
    v.hidden.pchi.getD l 0#32 = BitVec.ofNat 32 ((w.lane l).pc.toNat / 2 ^ 32 + 2 ^ 16 * (w.lane l).hw + 2 ^ 20 * (w.lane l).spilled) ∧
    v.hidden.lstate.getD l 0#32 = BitVec.ofNat 32 (stateWord (w.lane l).state) ∧
    v.hidden.hv.getD (2 * l) 0#32 = (w.lane l).regs.getD 0 0#32 ∧ v.hidden.hv.getD (2 * l + 1) 0#32 = (w.lane l).regs.getD 1 0#32
  modes : ∀ k < 7, k ≠ 1 → v.hidden.wave.getD k 0#32 =
    [BitVec.ofNat 32 w.wb, 0#32, w.penpass, w.oobflags, w.degen, w.fpmode, w.fpflags].getD k 0#32
  uniform : v.hidden.shv = [w.sreg 60, w.sreg 61, w.sreg 62, w.sreg 63]
  q15 : ∀ k < 4, v.hidden.qhv.getD k 0#32 = (w.qreg 15).extractLsb' (32 * k) 32

/-- A lane of a handler's wave as RTE makes it from the items (R367). -/
def laneBack (h : Hidden) (l : Nat) (x : Lane) : Lane :=
  let y := { x with
    latches := List.replicate 4 Latch.blank
    burst := 0
    regs := (x.regs.set 0 (h.hv.getD (2 * l) 0#32)).set 1 (h.hv.getD (2 * l + 1) 0#32)
    poison := (x.poison.filter (fun r => decide (2 ≤ r))).map ownNo
    deferred := (x.deferred.filter (fun d => decide (2 ≤ d.reg))).map (fun d => { d with reg := ownNo d.reg }) }
  let hi := h.pchi.getD l 0#32
  let st := h.lstate.getD l 0#32
  if x.state.live then
    { y with
      pc := hi.extractLsb' 0 16 ++ h.pclo.getD l 0#32
      hw := (hi.extractLsb' 16 4).toNat
      spilled := (hi.extractLsb' 20 7).toNat
      state := match (st.extractLsb' 0 3).toNat with
        | 4 => .sleeper (st.extractLsb' 8 5).toFin
        | 5 => .exited
        | 6 => .gbar
        | _ => .ready }
  else if x.state = .exited then y
  else x

/-- Items of a lane that a rule forbids (R367): a PC that is no multiple of 4, a depth out of range, or a state that does not
suit the lane. -/
def laneForbidden (w : Wave) (l : Nat) : Prop :=
  let h := w.hidden
  let code := ((h.lstate.getD l 0#32).extractLsb' 0 3).toNat
  let bell := ((h.lstate.getD l 0#32).extractLsb' 8 5).toNat
  ((w.lane l).state = .never ∧ code ≠ 0) ∨
  ((w.lane l).state.live = true ∧
    ((h.pclo.getD l 0#32).toNat % 4 ≠ 0 ∨ 8 < ((h.pchi.getD l 0#32).extractLsb' 16 4).toNat ∨
      64 < ((h.pchi.getD l 0#32).extractLsb' 20 7).toNat ∨ code = 0 ∨ code = 7 ∨
      ((code = 2 ∨ code = 3) ∧ 12 ≤ ((h.lstate.getD l 0#32).extractLsb' 4 4).toNat) ∨
      (code = 4 ∧ (bell = l ∨ (w.lane bell).state.live = false ∨ ((h.lstate.getD bell 0#32).extractLsb' 0 3).toNat = 5))))

/-- A WAIT word that is no wait of a workgroup with so many folds (Table 21.4, R125): a KIND above 6; a WAITU without a place, or
whose place is odd where it is wide or runs past s63; an FWAIT of a fold there is not; class 3 of a WAITC; a place where the
word says there is none. -/
def waitForbidden (x : Word) (folds : Nat) : Prop :=
  let kind := (x.extractLsb' 0 4).toNat
  let dest := (x.extractLsb' 4 6).toNat
  let wide := x.getLsbD 10 = true
  let none_ := x.getLsbD 11 = true
  6 < kind ∨
  (kind = 1 ∧ (none_ ∨ (wide ∧ (dest % 2 = 1 ∨ 61 < dest)) ∨ (¬ wide ∧ 62 < dest))) ∨
  (kind = 2 ∧ (folds ≤ (x.extractLsb' 16 4).toNat ∨ (none_ ∧ dest ≠ 0))) ∨
  (kind = 3 ∧ (x.extractLsb' 12 2).toNat = 3) ∨ (kind = 6 ∧ none_ ∧ dest ≠ 0)

/-- What RTE refuses (R367): a window base, an item of a lane, a WAIT word, a place at the barrier of a grid that has none, a
fold without members, or a word of item 9. -/
def returnForbidden (s : State) (w : Wave) : Prop :=
  let word := w.hidden.wave.getD 7 0#32
  let code := fun (l : Nat) => ((w.hidden.lstate.getD l 0#32).extractLsb' 0 3).toNat
  let array := (s.core (s.iss.key / 64)).array
  w.nregs ≤ (w.hidden.wave.getD 0 0#32).toNat ∨ (w.hidden.wave.getD 0 0#32).toNat % 8 ≠ 0 ∨
  waitForbidden word (s.wg w.wg).folds.length ∨ (∃ l < 32, laneForbidden w l) ∨
  ((s.grid (s.wgGrid w.wg)).flags % 2 ≠ 1 ∧
    ((word.extractLsb' 0 4).toNat = 4 ∨ ∃ l < 32, (w.lane l).state.live = true ∧ code l = 6)) ∨
  (∃ f ∈ (s.wg w.wg).folds, f.init = true ∧ f.members = 0) ∨ (array.lessee = some w.wg ∧ array.forbidden ≠ [])

/-- A wave as RTE of an ordinary entry makes it, its waits apart. -/
def returned (w : Wave) : Wave :=
  let h := w.hidden
  { w with
    m := w.m.map (fun x => maskOf (fun l => x.getLsbD l && !((w.lane l).state.live && decide (((h.lstate.getD l 0#32).extractLsb' 0 3).toNat = 5))))
    lanes := w.lanes.mapIdx (fun l x => laneBack h l x)
    s := (((w.s.set 60 (h.shv.getD 0 0#32)).set 61 (h.shv.getD 1 0#32)).set 62 (h.shv.getD 2 0#32)).set 63 (h.shv.getD 3 0#32)
    q := w.q.set 15 (h.qhv.getD 3 0#32 ++ h.qhv.getD 2 0#32 ++ h.qhv.getD 1 0#32 ++ h.qhv.getD 0 0#32)
    wb := (h.wave.getD 0 0#32).toNat
    penpass := h.wave.getD 2 0#32
    oobflags := maskOf (fun k => decide (k < 16) && (h.wave.getD 3 0#32).getLsbD k)
    degen := h.wave.getD 4 0#32
    fpmode := maskOf (fun k => decide (k ∈ [0, 1, 2, 8, 9, 10, 11, 12]) && (h.wave.getD 5 0#32).getLsbD k)
    fpflags := maskOf (fun k => decide (k < 5) && (h.wave.getD 6 0#32).getLsbD k)
    handler := false
    rteReady := false
    pend := none }

end Sys2Proof.Claims
end

