-- ==== Sys2Proof/Safety/Memory.lean ====
section
/-! DEFINITION. Safety/Memory.lean: what chapters 2, 4 and 9 say of an access: its checks, its pages, what it reads and
writes, and what an atomic does. An element's address is the one the model forms for it (`elemsOf`). -/

namespace Sys2Proof.Claims

open Sys2Proof Sys2Proof.Machine

/-! ## Record accesses -/

/-- An access through a record: the record's number, the width, whether it writes, and its elements. -/
structure Access where
  q : QReg
  w : Nat
  store : Bool
  es : List Elem

/-- A texel coordinate: a NaN reads as 0 and an infinity clamps; `clamp(c × n − 0.5, −1, n)`, exact (R206). -/
def texCoord (c : Word) (n : Nat) : Rat :=
  match fp32.value c.toNat with
  | .nan _ => -1 / 2
  | .inf neg => if neg then -1 else (n : Rat)
  | .fin neg m e =>
    let x : Rat := (if neg then -1 else 1) * (m : Rat) * (2 : Rat) ^ e * (n : Rat) - 1 / 2
    if x < -1 then -1 else if (n : Rat) < x then (n : Rat) else x

/-- The texels of a lane, x first, that have a weight, by index `yi << 16 | xi`, and their weights in 65536ths (R206). -/
def texelsAt (width height : Nat) (u v : Word) : List (Nat × Nat) :=
  let x := texCoord u width
  let y := texCoord v height
  let fx := (((x - x.floor) * 256).floor).toNat
  let fy := (((y - y.floor) * 256).floor).toNat
  let at_ := fun (f : Int) (n : Nat) => (max 0 (min f ((n : Int) - 1))).toNat
  ([(0, 0), (1, 0), (0, 1), (1, 1)].map (fun (d : Nat × Nat) =>
    (at_ (y.floor + d.2) height * 2 ^ 16 + at_ (x.floor + d.1) width,
      (if d.1 = 1 then fx else 256 - fx) * (if d.2 = 1 then fy else 256 - fy)))).filter (fun t => decide (t.2 ≠ 0))

/-- The texels of a lane of SAMPLE: with no texture one that lies out of bounds. -/
def laneTexels (s : State) (r : Rec) (a : VReg) (l : Nat) : List (Nat × Nat) :=
  if r.width = 0 ∨ r.height = 0 then [(2 ^ 32 - 1, 0)]
  else texelsAt r.width r.height (s.src.vreg l a.val) (s.src.vreg l (a.val + 1))

/-- The accesses through a record, with an index in each lane (LD, LDRO, ST, STREL, LDACQ, ATOM, RED), one for the wave (LDU,
WAITU), or the texels of each lane (SAMPLE). -/
def accessRule (i : Instr) (s : State) : Option Access :=
  let r := fun (q : QReg) => Rec.ofBits (s.src.qreg q.val)
  let lane := fun (q : QReg) (w : Nat) (st : Bool) (o : Int) (a : VSrc) =>
    some (⟨q, w, st, elemsOf (r q) s.active o w (fun l => s.src.v32 l a)⟩ : Access)
  let wave := fun (q : QReg) (w : Nat) (o : Int) (a : USrc) =>
    some (⟨q, w, false, elemsOf (r q) s.active o w (fun _ => s.src.u32 a)⟩ : Access)
  match i with
  | .ld q w x _ a => lane q w.bytes false x.offset a
  | .ldro q w x _ a => lane q w.bytes false x.offset a
  | .st q w x _ a => lane q w.bytes true x.offset a
  | .ldacq q w x _ a => lane q w.bytes false x.off.toInt a
  | .strel q w x _ a => lane q w.bytes true x.off.toInt a
  | .atom q x _ a => lane q (aopBytes x.op) true x.off.toInt a
  | .red q x _ a => lane q (aopBytes x.op) true x.off.toInt a
  | .ldu q w x _ a => wave q w.bytes x.offset a
  | .waitu q wide _ a _ => wave q (if wide then 8 else 4) 0 a
  | .sample q t x _ a =>
    let w := texelBytes t
    some ⟨q, w, false, ((lanesOf s.active).map (fun l => (laneTexels s (r q) a l).map (fun y =>
      (⟨l, (r q).inb y.1 x.offset w, (r q).addr y.1 x.offset⟩ : Elem)))).flatten⟩
  | _ => none

def Access.record (a : Access) (s : State) : Rec := Rec.ofBits (s.src.qreg a.q.val)
def Access.need (a : Access) (s : State) : Need := if a.store then .write (a.record s).xdata else .read

/-- A trap of the lanes whose elements meet `p`, with the address the first of them forms (R47, R364). -/
def Access.trap (a : Access) (s : State) (cause : Nat) (p : Elem → Bool) : TrapReq :=
  trapAt s cause a.q.val (laneSet (a.es.filter p)) (BitVec.ofNat 48 (faddrOf (a.es.filter p)))

/-- The checks of R47, R48 and R51: which elements fail each. -/
def outside (e : Elem) : Bool := !e.inb
def uneven (w : Nat) (e : Elem) : Bool := e.inb && decide (e.va % (w : Int) ≠ 0)
def beyond (w : Nat) (e : Elem) : Bool := e.inb && decide ((2 : Int) ^ 48 < e.va + w)

/-- OOBFLAGS notes an element that is out of bounds (R48). -/
def oobNoted (s : State) (a : Access) : State :=
  if a.es.any outside then s.modCur (fun w => { w with oobflags := w.oobflags ||| (1#32 <<< a.q.val) }) else s

/-- The access passes the checks of its record. -/
structure Access.Fits (a : Access) (s : State) : Prop where
  rights : a.store = true → (a.record s).rdonly = false
  bounds : (a.record s).oob = true → ∀ e ∈ a.es, e.inb = true
  aligned : ∀ e ∈ a.es, uneven a.w e = false
  below : ∀ e ∈ a.es, beyond a.w e = false

/-- The translation of an element. -/
def Access.page (a : Access) (s : State) (e : Elem) : Trans := s.translate s.curCore s.curCtx e.a (a.need s)

/-- Every element that is in bounds has a page that allows the access, and no write of the workgroup that waits in the side
log lies on it (R50, R51, R106). -/
structure Access.Mapped (a : Access) (s : State) : Prop where
  pages : ∀ e ∈ a.es, e.inb = true → ∃ pa leaf x, a.page s e = .ok pa leaf x
  settled : ∀ e ∈ a.es, e.inb = true → s.sideWaits s.curCore s.curWg s.curCtx e.a = false

/-- A store's pages: each allows the access or is one that a pager serves, none of the present ones waits for the side log,
and the side log has room for the lines of the others (R388). -/
structure Access.Stored (a : Access) (s : State) : Prop where
  pages : ∀ e ∈ a.es, e.inb = true → (∃ pa leaf x, a.page s e = .ok pa leaf x) ∨
    (a.page s e = .absent ∧ s.servable s.curCtx e.a = true)
  settled : ∀ e ∈ a.es, e.inb = true → a.page s e ≠ .absent → s.sideWaits s.curCore s.curWg s.curCtx e.a = false
  room : (s.core s.curCore).sideLog.length +
    ((a.es.filter (fun e => e.inb && (a.page s e).isAbsent)).map (fun e => lineOf e.a)).eraseDups.length ≤ 256

/-- What the side log takes of a store: an entry for each line of the elements whose page is absent (R388). -/
def Access.sideEntries (a : Access) (s : State) (red : Option Aop) (bytes : Nat → List Byte) : List SideEntry :=
  let gone := a.es.filter (fun e => e.inb && (a.page s e).isAbsent)
  (gone.map (fun e => lineOf e.a)).eraseDups.map (fun line =>
    let mine := gone.filter (fun e => decide (lineOf e.a = line))
    ⟨s.curCtx, line * 128, s.cur.wg, s.cur.index, laneSet mine, mine.map (fun e => (e.a, bytes e.lane)), red, (a.record s).xdata,
      s.iss.pc, a.q.val⟩)

/-- The issuing wave's workgroup is resident on its core. -/
def atHome (s : State) : Prop := (tabGet s.wgs s.curWg).isSome = true ∧ (s.wg s.curWg).core = s.curCore

/-- No byte the access reads is lost (R409, R416). -/
def Access.Sound (a : Access) (s : State) : Prop :=
  ∀ e ∈ a.es, e.inb = true → s.poisonedRead s.curCore s.curWg (a.page s e).pa a.w = false

/-- The elements in bounds whose page is present, with their translations. -/
def Access.reached (a : Access) (s : State) : List (Elem × Trans) :=
  ((a.es.filter Elem.inb).map (fun e => (e, a.page s e))).filter (fun x => !x.2.isAbsent)

/-- The state once the access has been noted: OOBFLAGS, the ACCESSED and DIRTY bits of the leaves (R377), the cached
translations and the counts of hot pages (R391). -/
def Access.seen (a : Access) (s : State) : State :=
  ((oobNoted s a).touchAll s.curCore a.store ((a.reached s).map Prod.snd)).hotCount s.curCore
    ((a.reached s).map (fun x => x.2.pa))

/-- The physical address lane `l` reaches, none out of bounds. -/
def Access.home (a : Access) (s : State) (l : Nat) : Option Nat :=
  ((a.reached s).find? (fun x => decide (x.1.lane = l))).map (fun x => x.2.pa)

/-- The words a load of a width writes (Table 5.2), from the number its bytes form. -/
def loaded (w : Width) (n : Nat) : List Word :=
  match w with
  | .w1 => [(BitVec.ofNat 8 n).signExtend 32]
  | .w2 => [(BitVec.ofNat 16 n).signExtend 32]
  | .u1 | .u2 | .w4 => [BitVec.ofNat 32 n]
  | .w8 => [BitVec.ofNat 32 n, BitVec.ofNat 32 (n / 2 ^ 32)]
  | .w16 => [BitVec.ofNat 32 n, BitVec.ofNat 32 (n / 2 ^ 32), BitVec.ofNat 32 (n / 2 ^ 64), BitVec.ofNat 32 (n / 2 ^ 96)]

/-- Zero in each register a width writes. -/
def zeros (w : Width) : List Word := List.replicate (loaded w 0).length 0#32

/-- The number that `n` bytes from `pa` form as a workgroup of a core sees them (R85), and through the path cache (R104). -/
def seenNumber (s : State) (core wg pa n : Nat) : Nat := natOfBytes ((List.range n).map (fun i => s.viewByte core wg (pa + i)))
def pathNumber (s : State) (core wg pa n : Nat) : Nat := natOfBytes ((List.range n).map (fun i => s.pathByte core wg (pa + i)))

/-- A result owed to the issuing wave (R201), as the state just before stood. -/
def slot (s : State) (kind : OwedKind) (dest : OwedDest) (words : Tab (List Word)) (acq : Bool) : Owed :=
  ⟨s.fresh, kind, dest, s.active, words, 0, 0#32, acq, false, 0#32, s.iss.pc⟩

/-- The wave continues and is owed a result. -/
def owing (s : State) (o : Owed) (w : Wave) : Wave := { w.advanced s sameLane with owed := w.owed ++ [o] }

/-- The bytes of a store of lane `l`. -/
def storeBytes (s : State) (w : Width) (d : VSrc) (l : Nat) : List Byte := s.src.storeData l d w

/-- The bytes an access stores, lane after lane: of two at one address the later stands. -/
def Access.cells (a : Access) (s : State) (bytes : Nat → List Byte) : List (Nat × Byte) :=
  (a.reached s).foldl (fun cs x => cs ++ (bytes x.1.lane).mapIdx (fun i b => (x.2.pa + i, b))) []
def lastAt (cells : List (Nat × Byte)) (pa : Nat) : Option Byte := (cells.reverse.find? (fun c => decide (c.1 = pa))).map Prod.snd

/-- The lines of a store's elements whose page is absent. -/
def Access.goneLines (a : Access) (s : State) : List Nat :=
  ((a.es.filter (fun e => e.inb && (a.page s e).isAbsent)).map (fun e => lineOf e.a)).eraseDups

/-- What a store through a record changes at most, from the state `u` that its walks have left, but for the issuing wave: the
store buffer of its workgroup with the lines noted in it, and of its core what is committed, the path lines a commit drops
and the side log; a context where the pager is asked for the absent pages; and, where the buffer is full, SBOVF of its grid
and the replayable period of its drove (R85, R87, R88, R388). -/
structure StoreFrame (u t : State) (gone : List Nat) : Prop where
  rest : { t with waves := u.waves, iss := u.iss, wgs := u.wgs, cores := u.cores, ctxs := u.ctxs, grids := u.grids, droves := u.droves } = u
  issue : SameIssue u.iss t.iss
  pager : t.ctxs = (gone.foldl (fun x l => x.askPage u.curCtx (l * 128) 1) u).ctxs
  others : ∀ g, g ≠ u.curWg → t.wg g = u.wg g
  buffer : { t.wg u.curWg with
    sbuf := (u.wg u.curWg).sbuf
    whole := (u.wg u.curWg).whole
    roTouched := (u.wg u.curWg).roTouched
    roSeen := (u.wg u.curWg).roSeen } = u.wg u.curWg
  cores : ∀ c, c ≠ u.curCore → t.core c = u.core c
  core : { t.core u.curCore with
    committed := (u.core u.curCore).committed
    path := (u.core u.curCore).path
    sideLog := (u.core u.curCore).sideLog } = u.core u.curCore
  grids : ∀ g, { t.grid g with sbovf := (u.grid g).sbovf } = u.grid g
  droves : ∀ d, { t.drove d with replayable := (u.drove d).replayable } = u.drove d

/-- A store has put its bytes where its workgroup sees them and done nothing else: its lanes stand at next_pc; at each physical
address the workgroup sees the byte of the highest lane that stores there (at its home, where a page is duplicated), and
elsewhere what it saw; the side log has taken the lines of absent pages. -/
structure StoredTo (u t : State) (cells : List (Nat × Byte)) (side : List SideEntry) (gone : List Nat) : Prop where
  waves : t.waves = tabMod u.waves u.iss.key (fun w => w.advanced u sameLane)
  seen : ∀ pa, t.viewByte u.curCore u.curWg pa = (lastAt cells (u.homeOf pa)).getD (u.viewByte u.curCore u.curWg pa)
  log : (t.core u.curCore).sideLog = (u.core u.curCore).sideLog ++ side
  frame : StoreFrame u t gone

/-! ## Offsets of the lane store, the pen, the paddock and the commons -/

/-- The accesses by offset: the width and each active lane's offset, in bounds or not (R34, R36, R37, R45). -/
def offsetRule (i : Instr) (s : State) : Option (Nat × List Elem) :=
  match i with
  | .ldl w x _ a => some (w.bytes, s.laneElems w.bytes x.offset a)
  | .stl w x _ a => some (w.bytes, s.laneElems w.bytes x.offset a)
  | .ldp w _ a off => some (w.bytes, s.penElems a off w.bytes)
  | .stp w _ a off => some (w.bytes, s.penElems a off w.bytes)
  | .atomp op _ a off _ => some (aopBytes op, s.penElems a off (aopBytes op))
  | .ldpd w _ a off => some (w.bytes, s.padElems a off w.bytes)
  | .stpd w _ a off => some (w.bytes, s.padElems a off w.bytes)
  | .ldc w _ a off => some (w.bytes, s.comElems a off w.bytes)
  | .stc w _ a off => some (w.bytes, s.comElems a off w.bytes)
  | _ => none

/-- Every offset is in bounds and aligned. -/
def offsetsFit (w : Nat) (es : List Elem) : Prop := ∀ e ∈ es, e.inb = true ∧ e.va % (w : Int) = 0

/-! ## Atomics (Table 9.7) -/

/-- What an operation leaves at a location that held `old`. -/
def atomNew (op : Aop) (old x y : Nat) : Nat :=
  let a := BitVec.ofNat 32 old
  let b := BitVec.ofNat 32 x
  let c := BitVec.ofNat 64 old
  let d := BitVec.ofNat 64 x
  match op with
  | .add => (a + b).toNat
  | .min => if a.slt b then old else x
  | .max => if b.slt a then old else x
  | .minu => if a.ult b then old else x
  | .maxu => if b.ult a then old else x
  | .and => (a &&& b).toNat
  | .or => (a ||| b).toNat
  | .xor => (a ^^^ b).toNat
  | .xchg => x
  | .cas => if old = x then y else old
  | .add64 => (c + d).toNat
  | .min64 => if c.slt d then old else x
  | .maxu64 => if d.ult c then old else x
  | .minu64 => if c.ult d then old else x
  | .cas64 => if old = x then y else old
  | .fadd => fp32.rne (FVal.sum .rne [fp32.value old, fp32.value x])

/-- Lanes act one after another, each on what the one before left (R214): the old value of each, and the bytes after; a byte of
a read-only field keeps what it holds (R8). -/
def atomRun (op : Aop) (fixed : Nat → Bool) (arg : Nat → Nat × Nat) :
    List (Nat × Nat) → (Nat → Byte) → List (Nat × Nat) × (Nat → Byte)
  | [], m => ([], m)
  | (l, a) :: r, m =>
    let old := natOfBytes ((List.range (aopBytes op)).map (fun i => m (a + i)))
    let new := atomNew op old (arg l).1 (arg l).2
    let m1 := fun b => if a ≤ b ∧ b < a + aopBytes op ∧ fixed b = false then BitVec.ofNat 8 (new / 256 ^ (b - a)) else m b
    let (os, m2) := atomRun op fixed arg r m1
    ((l, old) :: os, m2)

/-- The words of an old value: one register, or a pair. -/
def oldWords (op : Aop) (old : Nat) : List Word :=
  if aopBytes op = 8 then [BitVec.ofNat 32 old, BitVec.ofNat 32 (old / 2 ^ 32)] else [BitVec.ofNat 32 old]

/-- The result of lane `l`, zero for a lane with no element. -/
def atomResult (op : Aop) (olds : List (Nat × Nat)) (l : Nat) : List Word :=
  match olds.find? (fun o => decide (o.1 = l)) with
  | some o => oldWords op o.2
  | none => oldWords op 0

/-- Lane `l` with the words of a result in consecutive registers from the destination. -/
def giveWords (s : State) (d : VDst) (l : Nat) (ws : List Word) (x : Lane) : Lane :=
  match d with
  | .reg r => (List.range ws.length).foldl (fun y i => s.give l (s.cur.wb + (r.val + i)) (ws.getD i 0#32) y) x
  | .discard => x

/-- The cells of a store by offset, lane after lane. -/
def offsetCells (es : List Elem) (bytes : Nat → List Byte) : List (Nat × Byte) :=
  es.foldl (fun cs e => cs ++ (bytes e.lane).mapIdx (fun i b => (e.a + i, b))) []

/-- What an access to the pen changes at most, but for the issuing wave: the pen of its own workgroup, with the words of lost data
in it, and the staging window of its core, where a lane names that (R36, R370, R415). -/
structure PenFrame (s t : State) (window : Bool) : Prop where
  rest : { t with waves := s.waves, iss := s.iss, wgs := s.wgs, cores := s.cores } = s
  issue : SameIssue s.iss t.iss
  others : ∀ g, g ≠ s.curWg → t.wg g = s.wg g
  own : { t.wg s.curWg with pen := (s.wg s.curWg).pen, penPoison := (s.wg s.curWg).penPoison } = s.wg s.curWg
  cores : ∀ c, c ≠ s.curCore → t.core c = s.core c
  core : { t.core s.curCore with window := (s.core s.curCore).window } = s.core s.curCore
  closed : window = false → t.core s.curCore = s.core s.curCore

/-- What an atomic changes at most, from the state `u` in which its lanes begin, but for the issuing wave: memory with the older
copies, tethers and wakes that its writes touch; the lines its workgroup has written; writes of host memory that wait for their
acknowledgement; and for a reduction the side log of its core and a context's outstanding page requests. -/
structure AtomFrame (u t : State) (gone : List Nat) : Prop where
  rest : { t with
    waves := u.waves
    iss := u.iss
    mem := u.mem
    old := u.old
    tethers := u.tethers
    freed := u.freed
    wakes := u.wakes
    wgs := u.wgs
    hostWrites := u.hostWrites
    cores := u.cores
    ctxs := u.ctxs
    fresh := u.fresh } = u
  issue : SameIssue u.iss t.iss
  others : ∀ g, g ≠ u.curWg → t.wg g = u.wg g
  own : { t.wg u.curWg with roTouched := (u.wg u.curWg).roTouched } = u.wg u.curWg
  cores : ∀ c, c ≠ u.curCore → t.core c = u.core c
  core : { t.core u.curCore with sideLog := (u.core u.curCore).sideLog } = u.core u.curCore
  pager : gone = [] → t.ctxs = u.ctxs

/-- Some lane names the staging window. -/
def namesWindow (es : List Elem) : Bool := es.any (fun e => decide (0x100000 ≤ e.a))

/-- A word of a pen that a store by offset writes whole. -/
def wholeWord (w : Nat) (es : List Elem) (p : Nat) : Prop :=
  4 ≤ w ∧ ∃ e ∈ es, e.a < 0x100000 ∧ e.a ≤ 4 * p ∧ 4 * p + 4 ≤ e.a + w

/-- The accesses a paddock instruction queues: one for each rank its lanes name, in rank order, numbered from `first` (R37,
R96). -/
def padRule (s : State) (w : Width) (es : List Elem) (store : Bool) (bytes : Nat → List Byte) (owed : Option Nat) (first : Nat) :
    List PadAcc :=
  ((List.range 8).filter (fun rank => es.any (fun e => decide (e.a / 2 ^ 20 % 8 = rank)))).mapIdx (fun i rank =>
    { id := first + i
      wave := s.iss.key
      rank := rank
      target := (s.drove (s.wg s.curWg).drove).wgs.getD rank 0
      width := w.bytes
      signed := decide (w = .w1 ∨ w = .w2)
      store := store
      parts := (es.filter (fun e => decide (e.a / 2 ^ 20 % 8 = rank))).map (fun e => (e.lane, e.a % 2 ^ 20, bytes e.lane))
      owed := owed
      handler := s.cur.handler })

/-- Cores with accesses queued on one; a core is listed once something is written to it. -/
def queuedOn (s : State) (new : List PadAcc) : Tab Core :=
  if new = [] then s.cores
  else tabSet s.cores s.curCore { s.core s.curCore with paddock := (s.core s.curCore).paddock ++ new }

/-- The wave of a paddock access once its passes are counted (R39, R41): in PENPASS, and, for an access from before the wave
entered its handler, in the value that RTE restores too. -/
def passCounted (p : PadAcc) (w : Wave) : Wave :=
  let n := BitVec.ofNat 32 (passesOf p.width (p.parts.map (fun x => (x.1, x.2.1))))
  { w with
    penpass := w.penpass + n
    hidden := if w.handler = true ∧ p.handler = false then { w.hidden with wave := w.hidden.wave.modify 2 (fun x => x + n) } else w.hidden }

/-- A line of a core's L1 is written back, which performs what the core has committed of it, and where it is to be dropped its
older copy goes too; a line of which some workgroup of the core holds buffered stores stays as it is (R210). -/
def cachedLine (core : Nat) (drop : Bool) (line : Nat) (s : State) : State :=
  if s.wgs.any (fun g => decide (g.2.core = core) && g.2.sbuf.any (fun c => decide (c.1 / 128 = line))) then s
  else
    let t := s.performSpread core line
    { t with old := t.old.filter (fun o => !(drop && decide (o.core = core) && decide (o.line = line))) }

/-! ## Page formats (Table 2.6) -/

/-- The format a leaf tags its page with, and the bits of its elements; a raw page has none. -/
def formatOf (leaf : Nat) : Nat := leaf / 2 ^ 8 % 8
def formatBits (leaf : Nat) : Nat := [0, 32, 16, 16, 8, 8, 8, 4].getD (formatOf leaf) 0
def isGrouped (leaf : Nat) : Bool := decide (formatOf leaf = 6 ∨ formatOf leaf = 7)

/-- The VA of the scale entry of element `e` of a grouped page (R57): its group's place in slice `k` of size Z of the scale page. -/
def scaleEntryVa (leaf pageSize e : Nat) : Nat :=
  let group := 16 * 2 ^ (leaf / 2 ^ 11 % 4)
  let slice := pow2From (pageSize * 8 / formatBits leaf / group * 4) 40 1
  leaf / 2 ^ 32 % 2 ^ 32 * 65536 + leaf / 2 ^ 112 % 2 ^ 16 * slice + e / group * 4

/-- The element at a VA of a translated page, `bit` bits into its byte, and where its scale entry lies. -/
def scaleVaOf (x : Elem × Trans) (bit : Nat) : Nat :=
  match x.2 with
  | .ok _ leaf page => scaleEntryVa leaf page.size (((x.1.a - page.va) * 8 + bit) / formatBits leaf)
  | _ => 0

/-- The FP32 value LDF gives an element of a format: exact, or `s × (q − z)` rounded once (R56). -/
def decoded (leaf x scale : Nat) : Word :=
  match formatOf leaf with
  | 1 => BitVec.ofNat 32 x
  | 2 => fp16.widen x
  | 3 => bf16.widen x
  | 4 => e4m3.widen x
  | 5 => e5m2.widen x
  | f =>
    let q : Int := if f = 7 then (BitVec.ofNat 4 x).toInt else (BitVec.ofNat 8 x).toInt
    let z : Int := (BitVec.ofNat 8 (scale / 2 ^ 16)).toInt
    BitVec.ofNat 32 (fp32.rne ((fp16.value (scale % 2 ^ 16)).mul (FVal.ofInt (q - z))))

/-- The elements of an LDF, of `bits` bits each, and the bit of its byte at which a lane's element begins. -/
def formatAccess (s : State) (q : QReg) (b : VSrc) (bits : Nat) : Access :=
  let r := Rec.ofBits (s.src.qreg q.val)
  { q := q, w := max 1 (bits / 8), store := false
    es := (lanesOf s.active).map (fun l =>
      ⟨l, decide ((s.src.v32 l b).toNat < r.extent), ((r.base + (s.src.v32 l b).toNat * bits / 8 : Nat) : Int)⟩) }
def formatBit (s : State) (b : VSrc) (bits l : Nat) : Nat := (s.src.v32 l b).toNat * bits % 8

/-- A write of a record: slot A's value remains (R23). -/
def giveQ (s : State) (n : Nat) (x : BitVec 128) (qs : List (BitVec 128)) : List (BitVec 128) :=
  if s.iss.slotB && s.iss.keptQ.contains n then qs else qs.set n x

end Sys2Proof.Claims
end

