-- ==== Sys2Proof/Safety/Async.lean ====
section
/-! DEFINITION. Safety/Async.lean: what arrives later, in the words of the manual: owed results (R201), tethers (R218 to R222),
copy requests (R225 to R233) and folds (R234 to R239). -/

namespace Sys2Proof.Claims

open Sys2Proof Sys2Proof.Machine

/-! ## Results -/

/-- Consecutive registers from `r` hold the words. -/
def wordsFrom (rs : List Word) (r : Nat) (ws : List Word) : List Word := rs.mapIdx (fun k v => if r ≤ k then ws.getD (k - r) v else v)

/-- A slot's result in its destination: each of its live lanes takes its words, registers poisoned no more and with no failed
shadow check left to report (R361); s registers or a record take the wave's. -/
def landed (o : Owed) (w : Wave) : Wave :=
  let words := fun (l : Nat) => (tabGet o.data l).getD []
  match o.dest with
  | .vec r n => w.lanesBy o.lanes (fun l x =>
      if x.state.live then
        { x with
          regs := wordsFrom x.regs r (words l)
          poison := x.poison.filter (fun p => decide (p < r ∨ r + n ≤ p))
          deferred := x.deferred.filter (fun p => decide (p.reg < r ∨ r + n ≤ p.reg)) }
      else x)
  | .uni r _ => { w with s := wordsFrom w.s r (words 0) }
  | .recd q => { w with q := w.q.set q (BitVec.ofNat 128 ((words 0).foldr (fun x n => x.toNat + 2 ^ 32 * n) 0)) }
  | .nowhere => w

/-- A result whose shadow check failed (R78, R184; log entry 51): no lane is written, and each live lane of it will trap at the
reader of its register. -/
def reported (o : Owed) (w : Wave) : Wave :=
  match o.dest with
  | .vec r _ => w.lanesBy o.lanes (fun _ x =>
      if x.state.live then { x with deferred := x.deferred.filter (fun p => decide (p.reg ≠ r)) ++ [⟨r, o.iaddr⟩] } else x)
  | .uni .. | .recd _ | .nowhere => w

/-- Whether lane `l` may be the one to name what a slot owes: a lane that waits for its own register, or, of an s register or a
record, any (R24). -/
def mayName (x : Owed) (l : Nat) : Bool :=
  match x.dest with
  | .vec _ n => decide (n = 0) || x.lanes.getLsbD l
  | .uni .. | .recd _ | .nowhere => true

/-- A result arrives (R201, R184): it is written and its exceptions join FPFLAGS, or its failed shadow check is left for the
readers; lanes held for a register issue again but for those that a LAUNCH holds, and a slot is free once every live lane
that may name its register has (R24). -/
def arrivedWave (o : Owed) (w : Wave) : Wave :=
  let slots := w.owed.map (fun x => if x.id = o.id then { x with arrived := true } else x)
  let launching := fun (l : Nat) => slots.any (fun x => decide (x.kind = .launch) && !x.arrived && x.lanes.getLsbD l)
  let freed := fun (x : Owed) => x.arrived && (decide (x.dest = .nowhere) || decide (x.kind = .launch) ||
    (List.range 32).all (fun l => !mayName x l || !(w.lane l).state.live || x.named.getLsbD l))
  let v := if o.bad = 0#32 then landed o w else reported o w
  { v with
    lanes := v.lanes.mapIdx (fun l x =>
      if l < 32 ∧ x.state = .regWait ∧ launching l = false then { x with state := .ready } else x)
    owed := slots.filter (fun x => !freed x)
    fpflags := if o.bad = 0#32 then w.fpflags ||| BitVec.ofNat 32 (o.flags % 32) else w.fpflags }

/-- No access of the paddock is still to deliver into a slot. -/
def allIn (s : State) (key id : Nat) : Prop := ∀ p ∈ (s.core (key / 64)).paddock, p.owed ≠ some id

/-- Waves held at a store for room in the side log of a core issue again (R388). -/
def logFreed (core : Nat) (ws : Tab Wave) : Tab Wave :=
  ws.map (fun x => (x.1, match x.2.wait with
    | .page _ _ 1 _ => if x.1 / 64 = core then { x.2 with wait := .none } else x.2
    | _ => x.2))

/-- A lane of a LAUNCH has its answer; with the last the result arrives (R160). -/
def answeredWave (id l status handle : Nat) (w : Wave) : Wave :=
  let note := fun (o : Owed) => { o with data := tabSet o.data l [BitVec.ofNat 32 status, BitVec.ofNat 32 handle] }
  let v := { w with owed := w.owed.map (fun o => if o.id = id then note o else o) }
  match w.owed.find? (fun o => decide (o.id = id)) with
  | some o => if (note o).data.any (fun d => decide (d.2.length = 3)) then v else arrivedWave (note o) v
  | none => v

/-! ## What the hub writes -/

/-- What a write of the hub to a context's memory changes at most: memory with the marks of the walks, older copies of the lines,
the tethers it satisfies with their wakes, the writes that a duplicated page holds, those that wait for a page, and the
requests of the pager (R377, R386, R395). -/
def HubFrame (s t : State) : Prop :=
  { t with
    mem := s.mem
    old := s.old
    tethers := s.tethers
    freed := s.freed
    wakes := s.wakes
    dups := s.dups
    posted := s.posted
    ctxs := s.ctxs } = s

/-- Words of a wave's status block are written in its workgroup (R344). -/
def statusSet (s : State) (wg ix : Nat) (ws : List (Nat × Word)) : Tab Workgroup :=
  tabMod s.wgs wg (fun g => { g with status := g.status.modify ix (fun t => ws.foldl (fun t x => tabSet t x.1 x.2) t) })

/-! ## Tethers -/

/-- The s registers after a WAITU: the value, in one register or a pair, and the status (R218). -/
def waituRegs (give : Nat → Word → List Word → List Word) (wide : Bool) (d value status : Nat) (rs : List Word) : List Word :=
  if wide then
    give (d + 2) (BitVec.ofNat 32 status) (give (d + 1) (BitVec.ofNat 32 (value / 2 ^ 32)) (give d (BitVec.ofNat 32 value) rs))
  else give (d + 1) (BitVec.ofNat 32 status) (give d (BitVec.ofNat 32 value) rs)

/-- The comparison of a tether holds for the value at its home (Table 9.8). -/
def tetherHolds (t : Tether) (x : Nat) : Bool :=
  let a := BitVec.ofNat (if t.wide then 64 else 32) x
  let b := BitVec.ofNat (if t.wide then 64 else 32) t.opnd
  match t.cmp with
  | .eq => decide (a = b)
  | .ne => decide (a ≠ b)
  | .lt => a.slt b
  | .ge => b.sle a
  | .ltu => a.ult b
  | .geu => b.ule a
  | .anyset => decide (a &&& b ≠ 0)
  | .allclr => decide (a &&& b = 0)

/-- The value at a tether's home. -/
def valueAt (s : State) (t : Tether) : Nat := natOfBytes ((List.range (if t.wide then 8 else 4)).map (fun i => s.mem.get (t.pa + i)))

/-- The operand fits the width that is compared. -/
def opndFits (t : Tether) : Prop := t.opnd < (if t.wide then 2 ^ 64 else 2 ^ 32)

/-- The table of the home die has an entry free (R221). -/
def tableFree (s : State) (t : Tether) : Prop :=
  (s.tethers.filter (fun u => u.spill.isNone && decide (u.pa / 2 ^ 38 = t.pa / 2 ^ 38))).length < s.tableCap

/-- A tether in force: its timeout has begun. -/
def armed (s : State) (t : Tether) : Tether := { t with deadline := t.deadline.map (fun d => s.time.toNat + d), parked := false }

/-! ## Folds -/

/-- The completion rule (R238): while the arrivals reach MEMBERS and every counter is 0, a phase completes. -/
def foldSettled (f : FoldState) : FoldState :=
  let k := if f.init = true ∧ 0 < f.members ∧ f.counts.all (fun c => decide (c = 0#32)) = true then f.arrived / f.members else 0
  if k = 0 then f
  else
    { f with
      arrived := f.arrived % f.members
      phase := (f.phase + k) % 256
      lastErr := decide (k = 1) && f.err
      lastRemote := decide (k = 1) && f.remote
      err := false
      remote := false }

/-- A fold of a workgroup is changed. -/
def foldChanged (s : State) (wg k : Nat) (f : FoldState → FoldState) : State :=
  { s with wgs := tabMod s.wgs wg (fun g => { g with folds := g.folds.modify k f }) }

/-- Bytes credited to a slot (R236). -/
def foldCredit (slot n : Nat) (bad : Bool) (f : FoldState) : FoldState :=
  foldSettled { f with counts := f.counts.modify slot (fun c => c - BitVec.ofNat 32 n), err := f.err || bad }

/-- Phase `p` has completed: 1 to 127 phases ago (R239). -/
def phasePast (f : FoldState) (p : Nat) : Bool :=
  decide (1 ≤ (BitVec.ofNat 8 f.phase - BitVec.ofNat 8 p).toNat ∧ (BitVec.ofNat 8 f.phase - BitVec.ofNat 8 p).toNat ≤ 127)

/-- The status of the phase completed last. -/
def phaseStatus (f : FoldState) : Word := if f.lastErr then 3#32 else 1#32

/-- The s register of a destination, none where the result is discarded. -/
def destOf (d : UDst) : Option Nat :=
  match d with
  | .reg n => some n.val
  | .discard => none

/-! ## Copy requests (Table 10.2) -/

/-- Fields of a request. -/
structure Request where
  stage : Nat
  credit : Bool
  slot : Nat
  fold : Nat
  mcast : Nat
  redop : Nat
  dkind : Nat
  skind : Nat
  dstride : Nat
  sstride : Nat
  rows : Nat
  width : Nat
  dst : Nat
  src : Nat

def requestOf (x : BitVec 256) : Request where
  stage := (x.extractLsb' 248 6).toNat
  credit := x.getLsbD 247
  slot := (x.extractLsb' 244 3).toNat
  fold := (x.extractLsb' 240 4).toNat
  mcast := (x.extractLsb' 232 8).toNat
  redop := (x.extractLsb' 230 2).toNat
  dkind := (x.extractLsb' 227 3).toNat
  skind := (x.extractLsb' 224 3).toNat
  dstride := (x.extractLsb' 192 32).toNat
  sstride := (x.extractLsb' 160 32).toNat
  rows := (x.extractLsb' 148 12).toNat
  width := (x.extractLsb' 128 20).toNat
  dst := (x.extractLsb' 64 64).toNat
  src := (x.extractLsb' 0 64).toNat

/-- The address of a side is one of its kind: 48 bits of VA, a pen offset, a paddock address, a commons offset, a brand and an
offset (Table 10.3). -/
def sideAddr (kind a : Nat) : Bool :=
  match kind with
  | 0 => decide (a < 2 ^ 48)
  | 1 => decide (a < 2 ^ 20)
  | 2 => decide (a < 2 ^ 23)
  | 3 => decide (a < 2 ^ 32)
  | 4 => decide (a < 2 ^ 64)
  | _ => false

/-- The ranks that take the rows of a side in a pen. -/
def sideRanks (own kind a : Nat) : List Nat := if kind = 1 then [own] else if kind = 2 then [a / 2 ^ 20 % 8] else []

/-- The ranks a destination's rows go to: with MCAST, those of its mask (R227). -/
def destRanks (own : Nat) (q : Request) : List Nat :=
  if q.dkind = 2 ∧ q.mcast ≠ 0 then (List.range 8).filter (fun r => q.mcast.testBit r) else sideRanks own q.dkind q.dst

/-- The end of the rows of a side within its level. -/
def sideEnd (q : Request) (kind a stride : Nat) : Nat :=
  (if kind = 2 then a % 2 ^ 20 else if kind = 4 then a % 2 ^ 48 else a) + (q.rows - 1) * stride + q.width

/-- The pens or the commons window that a side runs past. -/
def sideOver (s : State) (q : Request) (ranks : List Nat) (kind a stride : Nat) : Bool :=
  ranks.any (fun r => match (s.drove (s.wg s.curWg).drove).wgs[r]? with
    | some g => decide ((s.wg g).penBytes < sideEnd q kind a stride)
    | none => true) ||
  (decide (kind = 3) && decide ((s.ctx s.curCtx).commonsSize < sideEnd q kind a stride))

/-- What R226 finds wrong with a request of the issuing workgroup: the cause, and the address of the side at fault. -/
def requestFault (s : State) (x : BitVec 256) : Option (Nat × Nat) :=
  let q := requestOf x
  let own := (s.wg s.curWg).rank
  let folds := (s.wg s.curWg).folds
  let ranks := destRanks own q
  let global := q.dkind ≠ 1 ∧ q.dkind ≠ 2
  let rawCredit := q.credit = true ∧ (folds.length ≤ q.fold ∨ ((global ∨ own ∈ ranks) ∧ (folds[q.fold]?.map FoldState.init) = some false))
  if x.extractLsb' 254 2 ≠ 0#2 ∨ sideAddr q.skind q.src = false ∨ sideAddr q.dkind q.dst = false ∨ q.rows = 0 ∨ q.width = 0 ∨
      (q.mcast ≠ 0 ∧ q.dkind ≠ 2) ∨ (q.redop ≠ 0 ∧ (q.dkind = 1 ∨ q.dkind = 2) ∧ q.skind = 4) ∨ rawCredit then some (0x01, 0)
  else if sideOver s q (sideRanks own q.skind q.src) q.skind q.src q.sstride then some (0x06, q.src)
  else if sideOver s q ranks q.dkind q.dst q.dstride then some (0x06, q.dst)
  else
    let e := if q.redop = 2 then 2 else 4
    if q.redop ≠ 0 ∧ (q.width % e ≠ 0 ∨ q.sstride % e ≠ 0 ∨ q.dstride % e ≠ 0 ∨ q.src % e ≠ 0 ∨ q.dst % e ≠ 0) then some (0x05, 0)
    else if (q.skind = 0 ∨ q.skind = 4) ∧ 2 ^ 48 < sideEnd q q.skind q.src q.sstride then some (0x07, q.src)
    else if (q.dkind = 0 ∨ q.dkind = 4) ∧ 2 ^ 48 < sideEnd q q.dkind q.dst q.dstride then some (0x07, q.dst)
    else none

/-- What R226 finds wrong with the requests of one instruction: one kind of check after another over all of them. -/
def batchFault (s : State) (xs : List (BitVec 256)) : Option (Nat × Nat) :=
  [0x01, 0x06, 0x05, 0x07].findSome? (fun c => (xs.filterMap (requestFault s)).find? (fun f => decide (f.1 = c)))

/-- The trap for it: ILLEGAL names nothing, the others belong to no record. -/
def requestTrap (s : State) (f : Nat × Nat) : TrapReq := trapAt s f.1 (if f.1 = 0x01 then 0 else 16) s.active (BitVec.ofNat 48 f.2)

/-- The scope a source's data must have reached (R230): a pen workgroup, a paddock cluster, memory and commons device, a
remote device system. -/
def sourceScope (x : BitVec 256) : Nat := [5, 2, 3, 5, 6, 6, 6, 6].getD (requestOf x).skind 6

/-- The widest scope of some requests' sources, none for no request. -/
def widestScope (xs : List (BitVec 256)) : Nat := xs.foldl (fun m x => Nat.max m (sourceScope x)) 0

/-- The state once the release for some requests has done what it does at once, and the workgroup's buffer is committed (R230,
R91). -/
def releasedFor (s : State) (xs : List (BitVec 256)) : State := (releasedAt s (widestScope xs)).commit s.curWg

/-- Whether the drover can take them now: nothing holds the release, and 256 is not passed (R230, R232). -/
def droverTakes (s v : State) (xs : List (BitVec 256)) : Bool :=
  !v.releaseHeld s.curCore s.curWg (widestScope xs) && decide ((v.core s.curCore).drover.length + xs.length ≤ 256)

/-- The drover with the requests, each with the next ticket of its workgroup (R230). -/
def accepted (s v : State) (xs : List (BitVec 256)) : State :=
  let n := (v.wg s.curWg).tickets
  { v with
    fresh := v.fresh + xs.length
    wgs := tabMod v.wgs s.curWg (fun g => { g with tickets := n + xs.length })
    cores := tabSet v.cores s.curCore { v.core s.curCore with
      drover := (v.core s.curCore).drover ++
        xs.mapIdx (fun i x => ⟨v.fresh + i, s.curWg, v.wgCtx s.curWg, x, n + 1 + i, 0, 0, none, none, [], false⟩) } }

/-- The workgroup still stands on the core of its issuing wave after a release. -/
def staysHome (s v : State) : Prop :=
  Stays s v ∧ (tabGet v.wgs s.curWg).isSome = true ∧ (v.wg s.curWg).core = s.curCore

/-- The records KICK names in the pen, and the one COPY takes from eight s registers (R225). -/
def kickNames (s : State) (a b : USrc) : List (BitVec 256) :=
  (List.range (s.src.u32 b).toNat).map (fun i => BitVec.ofNat 256 (natOfBytes ((List.range 32).map (fun j =>
    s.penByte s.curWg ((s.src.u32 a).toNat + 32 * i + j)))))
def copyNames (s : State) (a : SReg) : BitVec 256 :=
  BitVec.ofNat 256 ((List.range 8).foldr (fun i n => (s.src.sreg (a.val + i)).toNat + 2 ^ 32 * n) 0)

end Sys2Proof.Claims
end

