-- ==== Sys2Proof/Safety/Engines.lean ====
section
/-! DEFINITION. Safety/Engines.lean: the array's operations at issue (R245 to R259) and the flock unit's (R269 to R274) in the
words of chapter 11. -/

namespace Sys2Proof.Claims

open Sys2Proof Sys2Proof.Machine

/-! ## The per-wave counts (R100, R242) -/

/-- An operation completes: of its class the oldest that have completed, with none left before them, are credited in the order
they were issued, and a wave at WAITC goes on once its count has come down. -/
def completedWave (id : Nat) (w : Wave) : Wave :=
  match w.ops.find? (fun o => decide (o.id = id)) with
  | none => w
  | some o =>
    let ops := w.ops.map (fun x => if x.id = id then { x with complete := true } else x)
    let mine := ops.filter (fun x => decide (x.cls = o.cls))
    let gone := mine.takeWhile Counted.complete
    let n := gone.length
    let c := w.counts
    let counts : Counts := ⟨if o.cls = 0 then c.mtx - n else c.mtx, if o.cls = 1 then c.flk - n else c.flk,
      if o.cls = 0 ∨ o.cls = 1 then c.trc else c.trc - n⟩
    let v := { w with ops := ops.filter (fun x => !gone.contains x), counts := counts }
    match w.wait with
    | .waitc k t => if (if k = 0 then counts.mtx else if k = 1 then counts.flk else counts.trc) ≤ t then { v with wait := .none } else v
    | _ => v

/-! ## The array at issue -/

/-- Bits of an element, the elements of a K-step (Table 11.5), and their bytes. -/
def elemBits (f : PFmt) : Nat :=
  match f with
  | .f32 => 32
  | .f16 | .bf16 => 16
  | .e4m3 | .e5m2 | .int8 => 8
  | .int4 | .raw => 4
def stepOf (f : PFmt) : Nat :=
  match f with
  | .f32 | .f16 | .bf16 | .raw => 64
  | .e4m3 | .e5m2 | .int8 => 256
  | .int4 => 512
def groupOf : GLen → Nat
  | .g32 => 32
  | .g64 => 64
  | .g128 => 128

/-- The columns of the bands that take part (R251). -/
def columns (s : State) : Nat := 64 * ((List.range 4).filter (fun b => (s.core s.curCore).array.bands.testBit b)).length

/-- What an operation needs: its slots, its pen operand (the numbers that must be multiples of 16, the first byte and the
span) and whether that may lie in the staging window (R370), its elements in global memory (record, format, B format, start,
pitch, lines and elements of each), and the operands and record its entry captures. -/
structure ArrayUse where
  slots : List Nat := []
  pen : Option (List Nat × Nat × Nat) := none
  windowed : Bool := false
  elems : Option (QReg × PFmt × BFmt × Nat × Nat × Nat × Nat) := none
  a : Word := 0#32
  b : Word := 0#32
  recd : BitVec 128 := 0#128

/-- The operations of the queue (Table 11.3). -/
def arrayRule (i : Instr) (s : State) : Option ArrayUse :=
  let slots := fun (t : Slot) (acc : Acc) => if acc = .f32 then [t.val, t.val + 1] else [t.val]
  let n := fun (x : USrc) => (s.src.u32 x).toNat
  let tile := fun (t : Slot) (a b : USrc) (x : TileMod) =>
    some ({ slots := slots t x.acc, pen := some ([n a, n b], n a, (x.rows.toNat - 1) * n b + 256 * (elemBits x.pf / 8)), windowed := true,
            a := s.src.u32 a, b := s.src.u32 b } : ArrayUse)
  let plane := fun (a : USrc) (k : PlaneKind) =>
    some ({ pen := some ([n a], n a, if k = .active ∨ k = .shadow then 65536 else 16384), windowed := true, a := s.src.u32 a } : ArrayUse)
  match i with
  | .mlds a b f => some { pen := some ([n a, n b], n a, (columns s - 1) * n b + stepOf f.fmt * elemBits f.fmt / 8), a := s.src.u32 a, b := s.src.u32 b }
  | .mldsg a b f q => some
      { elems := some (q, f.fmt, f, n a, n b, columns s, stepOf f.fmt), a := s.src.u32 a, b := s.src.u32 b, recd := s.src.qreg q.val }
  | .mscale a int4 g => some { pen := some ([n a], n a, (if int4 then 512 else 256) / groupOf g * columns s * 4), a := s.src.u32 a }
  | .mswap => some {}
  | .mma t a b x => some
      { slots := slots t x.acc, pen := some ([n a, n b], n a, (x.rows.toNat - 1) * n b + stepOf x.bf.fmt * elemBits x.af / 8),
        a := s.src.u32 a, b := s.src.u32 b }
  | .mmag t a b x q => some
      { slots := slots t x.acc, elems := some (q, x.af, x.bf, n a, n b, x.rows.toNat, stepOf x.bf.fmt), a := s.src.u32 a, b := s.src.u32 b,
        recd := s.src.qreg q.val }
  | .mzero t acc => some { slots := slots t acc }
  | .mst t a b x => tile t a b x
  | .mld t a b x => tile t a b x
  | .mstPlane a k => plane a k
  | .mldPlane a k => plane a k
  | _ => none

/-- The workgroup holds the array, with these slots (R245). -/
def leased (s : State) (slots : List Nat) : Prop :=
  (s.core s.curCore).array.lessee = some s.curWg ∧ ∀ t ∈ slots, t < (s.wg s.curWg).lease

/-- What R253 finds wrong with the elements from global memory, one kind of check after another over all of them: their group's
alignment, bounds under OOBMODE 1, their own alignment, and the end of the space; the cause, and the address of the first. -/
def elemsFault (s : State) (e : QReg × PFmt × BFmt × Nat × Nat × Nat × Nat) : Option (Nat × Nat) :=
  let (q, f, bf, a, b, lines, each) := e
  let r := Rec.ofBits (s.src.qreg q.val)
  let at_ := fun (i : Nat) => r.base + i * elemBits f / 8
  let xs := (List.range lines).flatMap (fun c => (List.range each).map (fun i => a + c * b + i))
  let first := fun (p : Nat → Bool) (cause : Nat) => (xs.find? p).map (fun i => (cause, at_ i))
  if bf.grp.any (fun g => decide (a % groupOf g ≠ 0 ∨ b % groupOf g ≠ 0)) then some (0x05, at_ a)
  else ((first (fun i => r.oob && decide (r.extent ≤ i)) 0x06).or
    (first (fun i => decide (i < r.extent ∧ 8 ≤ elemBits f ∧ at_ i % (elemBits f / 8) ≠ 0)) 0x05)).or
    (first (fun i => decide (i < r.extent ∧ 2 ^ 48 ≤ at_ i)) 0x07)

/-- OOBFLAGS notes an element out of bounds. -/
def elemsNoted (s : State) (e : Option (QReg × PFmt × BFmt × Nat × Nat × Nat × Nat)) : State :=
  match e with
  | none => s
  | some (q, _, _, a, b, lines, each) =>
    if 0 < lines ∧ 0 < each ∧ (Rec.ofBits (s.src.qreg q.val)).extent ≤ a + (lines - 1) * b + (each - 1) then
      s.modCur (fun w => { w with oobflags := w.oobflags ||| (1#32 <<< q.val) })
    else s

/-- A pen operand lies in the pen, or, of an operation that may name it, in the staging window. -/
def penFits (s : State) (u : ArrayUse) (p n : Nat) : Prop :=
  if u.windowed then s.penHolds p n = true else p + n ≤ (s.wg s.curWg).penBytes

/-- An entry enters the queue in the order of R247: behind the others, but before those that younger waves of other quarters have
entered in its clk. -/
def QueueEntered (o : ArrayOp) (q r : List ArrayOp) : Prop :=
  let later := fun (x : ArrayOp) => x.clk = o.clk ∧ x.wave / 16 ≠ o.wave / 16 ∧ o.age < x.age
  ∃ a b, q = a ++ b ∧ r = a ++ o :: b ∧ (∀ x ∈ b, later x) ∧ ∀ x, a.getLast? = some x → ¬ later x

/-- The array of the issuing core is changed. -/
def arrayChanged (s : State) (f : MatrixArray → MatrixArray) : State :=
  { s with cores := tabSet s.cores s.curCore { s.core s.curCore with array := f (s.core s.curCore).array } }

/-- The lanes are held at the instruction. -/
def heldWave (s : State) (w : Wave) : Wave := (s.iss.start.getD w).lanesBy s.active (fun _ x => { x with state := .stalled })

/-- A counted operation of class 0 to 2 has been issued as `id`. -/
def countedWave (cls id : Nat) (w : Wave) : Wave :=
  let c := w.counts
  { w with
    counts := if cls = 0 then { c with mtx := c.mtx + 1 } else if cls = 1 then { c with flk := c.flk + 1 } else { c with trc := c.trc + 1 }
    ops := w.ops ++ [⟨cls, id, false⟩] }

/-! ## Running -/

/-- What lies where in the array's stores: a column of a plane, a scale entry and an accumulator element. -/
def columnAt (n k : Nat) : Nat := n * 256 + k
def scaleEntry (j n : Nat) : Nat := 4 * (256 * j + n)
def accAt (slot : Nat) (acc : Acc) (m n : Nat) : Nat := slot * 32768 + (m * 256 + n) * (if acc = .f32 then 4 else 2)

/-- The core's array, and the bands of a mask powered. -/
def arrayOf (s : State) (core : Nat) : MatrixArray := (s.core core).array
def bandsOn (s : State) (core mask : Nat) : Prop := ∀ b < 4, mask.testBit b = true → ((arrayOf s core).band.getD b Band.init).on = true

/-- An entry has left the queue and its wave's count is credited. -/
def opFinished (s t : State) (core : Nat) (o : ArrayOp) : Prop :=
  (arrayOf t core).queue = (arrayOf s core).queue.filter (fun x => decide (x.id ≠ o.id)) ∧
  t.waves = tabMod s.waves o.wave (completedWave o.id)

/-- Of the machine only the waves and a core's array differ. -/
structure ArrayFrame (s t : State) (core : Nat) : Prop where
  rest : { t with waves := s.waves, cores := s.cores } = s
  others : ∀ c, c ≠ core → t.core c = s.core c
  core : { t.core core with array := (s.core core).array } = s.core core

/-- An array with its queue, the use of its bands and the marks of lost data as another's. -/
def alike (x y : MatrixArray) : MatrixArray := { x with queue := y.queue, band := y.band, poison := y.poison }

/-- The wave that issued an entry is still there. -/
def opHome (s : State) (core : Nat) (o : ArrayOp) (w : Wave) : Prop :=
  tabGet s.waves o.wave = some w ∧ (arrayOf s core).lessee = some w.wg ∧ w.index = o.waveIx ∧ (w.ops.map Counted.id).Nodup

/-! ## NEV -/

/-- The elements of NEV.M. -/
def nevElems (s : State) (a : VSrc) (x : NevMod) : List Elem :=
  elemsOf (Rec.ofBits (s.src.qreg x.q.val)) s.active 0 (2 * x.nin.toNat) (fun l => s.src.v32 l a)

/-- A lane's handle is in the network table (R266). -/
def handleHeld (s : State) (b : VSrc) (l : Nat) : Bool := decide ((s.src.v32 l b).toNat < (s.ctx s.curCtx).netcount)

/-- The NEV of an issue as its wave keeps it (R270): lanes with no such handle have failed. -/
def nevOp (s : State) (d : VReg) (b : VSrc) (x : NevMod) : NevOp where
  id := s.fresh
  d := s.cur.wb + d.val
  nin := x.nin.toNat
  nout := x.nout.toNat
  lanes := s.active
  failed := maskOf (fun l => s.active.getLsbD l && !handleHeld s b l)
  causes := ((List.range 32).filter (fun l => s.active.getLsbD l && !handleHeld s b l)).map (fun l => (l, 1))
  fmask := x.fmask
  trapen := x.trapen
  left := ((List.range 32).filter (fun l => s.active.getLsbD l && handleHeld s b l)).length
  results := []
  iaddr := s.iss.pc

/-- The inputs in consecutive registers, two to each, the low half first. -/
def registerInputs (s : State) (a : VSrc) (n l : Nat) : List Half :=
  match a with
  | .reg r => (List.range n).map (fun j => (s.src.vreg l (r.val + j / 2)).extractLsb' (16 * (j % 2)) 16)
  | _ => List.replicate n 0#16

/-- The rows it hands to the flock unit, lane after lane (R270, R272). -/
def nevRows (s : State) (a b : VSrc) (x : NevMod) : List FlockEntry :=
  ((List.range 32).filter (fun l => s.active.getLsbD l && handleHeld s b l)).map (fun l =>
    ⟨s.cur.age, s.curCtx, (s.src.v32 l b).toNat, ⟨s.iss.key, s.fresh, l,
      if x.mem then ((nevElems s a x).find? (fun e => decide (e.lane = l))).bind (fun e => if e.inb then some e.a else none) else none,
      if x.mem then List.replicate x.nin.toNat 0#16 else registerInputs s a x.nin.toNat l⟩⟩)

/-- A NEV lands (R274): the lanes that succeeded and are live take their outputs, the fault mask the lanes that failed, and the
FLK count is credited. -/
def nevLanded (n : NevOp) (w : Wave) : Wave :=
  let v := w.lanesBy (n.lanes &&& ~~~ n.failed) (fun l x =>
    if x.state.live then
      { x with
        regs := wordsFrom x.regs n.d ((tabGet n.results l).getD [])
        poison := x.poison.filter (fun p => decide (p < n.d ∨ n.d + n.nout ≤ p))
        deferred := x.deferred.filter (fun p => decide (p.reg < n.d ∨ n.d + n.nout ≤ p.reg)) }
    else x)
  let u := match n.fmask with
    | some m => releasedWave m { v with m := v.m.modify m.val (fun x =>
        maskOf (fun l => if n.lanes.getLsbD l then false else x.getLsbD l) ||| maskOf (fun l => n.failed.getLsbD l && (w.lane l).state.live)) }
    | none => v
  completedWave n.id { u with nevs := u.nevs.filter (fun k => decide (k.id ≠ n.id)) }

end Sys2Proof.Claims
end

