-- ==== Sys2Proof/Safety/Units.lean ====
section
/-! DEFINITION. Safety/Units.lean: the instructions of the hub's units and of the traversal units in the words of chapters 12
and 13: the structures they name in memory (R276), trees (R290, R291), the pending-pixel queue (R298 to R300), rays (R292,
R294, R297), boxes (R302) and Morton codes (R301). -/

namespace Sys2Proof.Claims

open Sys2Proof Sys2Proof.Machine

/-! ## Structures in memory -/

/-- The 64-bit VA in a pair of s registers. -/
def pairAt (s : State) (a : SReg) : Nat := (s.src.sreg a.val).toNat + 2 ^ 32 * (s.src.sreg (a.val + 1)).toNat

/-- The structure an instruction names by a VA, with the alignment it must have (R276). -/
def structureOf (i : Instr) (s : State) : Option (Nat × Nat) :=
  match i with
  | .raster _ a => some (pairAt s a, 128)
  | .present _ a => some (pairAt s a, 64)
  | .build _ a => some (pairAt s a, 128)
  | .refit _ a => some (pairAt s a, 128)
  | .trace _ _ x => some (pairAt s x.hdr, 256)
  | .traceocc _ _ x => some (pairAt s x.hdr, 256)
  | .genpin _ a _ => some (pairAt s a, 256)
  | .gendrop _ a _ => some (pairAt s a, 256)
  | .cairnw _ a _ => some (pairAt s a, 256)
  | .refill _ _ b _ => some (pairAt s b, 64)
  | .pixpush _ _ b => some (pairAt s b, 64)
  | _ => none

/-- A structure stands where its VA says and in the space. -/
def structureFits (s : State) (a : SReg) (al : Nat) : Prop := pairAt s a % al = 0 ∧ pairAt s a < 2 ^ 48

/-- The state once what the workgroup has stored in the lines of a home is performed there, its buffer committed for it where
that holds some of them (R83, R86). -/
def performedHome (s : State) (va n : Nat) (t : Trans) : State := s.ownHome ((List.range n).map (homePa va t + ·))

/-- Nothing a core has committed lies in the lines of some addresses. -/
def noneCommitted (s : State) (pas : List Nat) : Prop :=
  ∀ c ∈ (s.core s.curCore).committed, ∀ a ∈ pas, c.line ≠ a / 128

/-- The home of `n` bytes at a VA that an instruction reaches there: in the space, on a page that allows the access, for a write
not of a duplicated page, nothing stored there before it left to be performed or waiting in the side log, and not lost. -/
structure HomeAt (s : State) (va n : Nat) (need : Need) (t : Trans) : Prop where
  inside : va + n ≤ 2 ^ 48
  page : s.translate s.curCore s.curCtx va need = t
  there : ∃ pa leaf x, t = .ok pa leaf x
  alone : need.writes = true → s.dupOf (homePa va t) = none
  logged : s.sideWaits s.curCore s.curWg s.curCtx va = false
  settled : noneCommitted (performedHome s va n t) ((List.range n).map (homePa va t + ·))
  sound : (performedHome s va n t).lost (t.pa / 128) = false

/-- The state once a home has been reached: ACCESSED and DIRTY of its leaf (R377), and the translation cached. -/
def reachedHome (s : State) (va n : Nat) (need : Need) (t : Trans) : State :=
  (performedHome s va n t).touchAll s.curCore need.writes [t]

/-- Homes reached one after another. -/
def HomesAt (need : Need) : List (Nat × Nat) → State → List Trans → State → Prop
  | [], s, ts, u => ts = [] ∧ u = s
  | (va, n) :: r, s, ts, u => ∃ t us, HomeAt s va n need t ∧ ts = t :: us ∧ HomesAt need r (reachedHome s va n need t) us u

/-- A number in memory, and in a structure that lies at `pa`. -/
def numberAt (s : State) (pa n : Nat) : Nat := natOfBytes ((List.range n).map (fun i => s.mem.get (pa + i)))

/-- A number in bytes that have been read. -/
def field (bs : List Byte) (at_ n : Nat) : Nat := natOfBytes ((bs.drop at_).take n)

/-- Bytes of memory but for some written: of two at one address the later stands. -/
def memoryWith (s t : State) (cells : List (Nat × Byte)) : Prop := ∀ a, t.mem.get a = (lastAt cells a).getD (s.mem.get a)

/-- Cells written for a program at their homes, nothing else having changed but what a write there brings: older copies of their
lines go, tethers they satisfy are freed and wake, a line they fill is poisoned no more, and a write to host memory waits for
its acknowledgement. A byte of a read-only field keeps what it holds (R8, R102, R107, R409). -/
structure WrittenHome (u t : State) (f : Wave → Wave) (cells : List (Nat × Byte)) : Prop where
  waves : t.waves = tabMod u.waves u.iss.key f
  memory : memoryWith u t (cells.filter (fun c => !u.readOnly c.1))
  issue : SameIssue u.iss t.iss
  rest : { t with
    waves := u.waves
    iss := u.iss
    mem := u.mem
    old := u.old
    tethers := u.tethers
    freed := u.freed
    wakes := u.wakes
    poisoned := u.poisoned
    hostWrites := u.hostWrites } = u

/-- The bytes of a number at an address. -/
def numberCells (pa n x : Nat) : List (Nat × Byte) := (List.range n).map (fun i => (pa + i, BitVec.ofNat 8 (x / 256 ^ i)))

/-- The lanes go on, with an s register written. -/
def onWith (s : State) (d : UDst) (x : Word) (w : Wave) : Wave := { w.advanced s sameLane with s := s.giveU d x w.s }

/-- The state once a release at device scope has done what it does at once (R276, R91). -/
def releasedToDevice (s : State) : State := releasedAt s 5

/-- What an instruction that releases to the device does beyond: where a paddock access carried out by the release ends its
wave, no more; where something still holds the release, its lanes are held at the instruction; else `p`. -/
def afterRelease (i : Instr) (s : State) (p : State → Prop) : Prop :=
  let v := releasedToDevice s
  (¬ Stays s v → exec i s = .next v) ∧
  (Stays s v → v.releaseHeld s.curCore s.curWg 5 = true → ∃ t, exec i s = .next t ∧ Only v t (heldWave v)) ∧
  (Stays s v → v.releaseHeld s.curCore s.curWg 5 = false → p v)

/-! ## Trees (Table 12.3) -/

/-- STATE and GEN of slot `i` of the header at `pa`. -/
def slotState (s : State) (pa i : Nat) : Nat := numberAt s (pa + 64 * i + 37) 1
def slotGen (s : State) (pa i : Nat) : Nat := numberAt s (pa + 64 * i + 36) 1

/-- Slot `i` is the one of a generation that has not been reclaimed; of two it is slot 0. -/
def holdsGen (s : State) (pa gen i : Nat) : Prop :=
  i < 2 ∧ slotGen s pa i = gen ∧ slotState s pa i ∈ [1, 2, 3] ∧ ∀ j < i, ¬ (slotGen s pa j = gen ∧ slotState s pa j ∈ [1, 2, 3])

/-! ## The pending-pixel queue (Table 12.10) -/

/-- CAP, HEAD and TAIL of the queue at `pa`, and the VA of its entry `j`. -/
def queueCap (s : State) (pa : Nat) : Nat := numberAt s (pa + 8) 4
def queueHead (s : State) (pa : Nat) : Nat := numberAt s (pa + 12) 4
def queueTail (s : State) (pa : Nat) : Nat := numberAt s (pa + 16) 4
def queueEntry (s : State) (pa j : Nat) : Nat := numberAt s pa 8 + 4 * (j % 2 ^ 32 % queueCap s pa)
/-- Ids it holds. -/
def queueHeld (s : State) (pa : Nat) : Nat := (queueTail s pa + 2 ^ 32 - queueHead s pa) % 2 ^ 32
/-- A header that is none: a reserved byte, or a CAP that is no power of two up to 2^24. -/
def queueBad (s : State) (pa : Nat) : Prop :=
  (∃ i < 44, s.mem.get (pa + 20 + i) ≠ 0#8) ∨ ¬ ∃ k ≤ 24, queueCap s pa = 2 ^ k

/-! ## Rays -/

/-- The word at VA of an axis of a decoded box: ORIGIN + q × 2^EXP rounded outward; without bounds where an origin is not
finite (R282, R302). -/
def boxWord (w : Wave) (l : Nat) (a b : VReg) (k : Nat) : Word :=
  let ax := k % 3
  let up := decide (3 ≤ k)
  let origin := fun (i : Nat) => fp32.value (w.vreg l (a.val + i)).toNat
  let exp := ((w.vreg l (a.val + 3)).extractLsb' (8 * ax) 8).toInt
  let q := ((w.vreg l (b.val + 1)) ++ (w.vreg l b.val)).extractLsb' (8 * (2 * ax + (if up then 1 else 0))) 8
  if (List.range 3).any (fun i => (origin i).isNan || (origin i).isInf) then (if up then 0x7F800000#32 else 0xFF800000#32)
  else
    let mode : RMode := if up then .ru else .rd
    BitVec.ofNat 32 (fp32.round mode false (FVal.sum mode [origin ax, .fin false q.toNat exp])).1

/-- The axis at place `j` of an order code (R301). -/
def orderPlace (code j : Nat) : Nat := (([[0, 1, 2], [0, 2, 1], [1, 0, 2], [1, 2, 0], [2, 0, 1], [2, 1, 0]] : List (List Nat)).getD code []).getD j 0

/-- A ray of lane `l` as TRACE or TRACEOCC starts it, its registration apart. -/
def rayStarts (s : State) (r : Ray) (l : Nat) (a : VReg) (x : TraceMod) (occ : Bool) : Prop :=
  r.op = s.fresh ∧ r.wave = s.iss.key ∧ r.lane = l ∧ r.ctx = s.curCtx ∧ r.hdr = pairAt s x.hdr ∧
  r.gen = (s.src.sreg x.gen.val).toNat % 256 ∧ r.tmo = (s.src.sreg x.tmo.val).toNat ∧ r.cull = x.cull ∧ r.occ = occ ∧
  r.words = (List.range 8).map (fun i => s.src.vreg l (a.val + i)) ∧ r.deadline = none ∧ r.parked = none ∧ r.root = 0 ∧ r.seen = [] ∧
  r.found = [] ∧
  (∀ st, rayClass r.words = some st → r.ended = some st ∧ r.slot = none) ∧
  (rayClass r.words = none → (r.slot ≠ none → r.ended = none) ∧ r.ended ∈ [none, some 3, some 5])

/-- Nothing but the issuing wave and the rays changes at a TRACE, unless the headers of its rays are walked to: marks of leaves in
memory with what their writes bring, and translations cached. -/
structure TraceFrame (s t : State) : Prop where
  issue : SameIssue s.iss t.iss
  rest : { t with
    waves := s.waves
    iss := s.iss
    rays := s.rays
    fresh := s.fresh
    mem := s.mem
    old := s.old
    tethers := s.tethers
    freed := s.freed
    wakes := s.wakes
    cores := s.cores } = s
  cores : ∀ c, { t.core c with tlb := (s.core c).tlb } = s.core c

/-- The registers a TRACE owes: four in each active lane, lane after lane. -/
def raysOwed (s : State) (d : VReg) : List Owed :=
  (lanesOf s.active).mapIdx (fun i l =>
    ⟨s.fresh + 1 + i, .trace, .vec (s.src.wb + d.val) 4, 1#32 <<< l, [], 0, 0#32, false, false, 0#32, s.iss.pc⟩)

/-- A ray ends (R292, R100): its record reaches its lane, DEGEN counts status 2, and with the last ray of its operation the TRC
count is credited. -/
def rayGone (s : State) (r : Ray) (status : Nat) (record : List Word) (w : Wave) : Wave :=
  let w0 : Wave := { w with
    owed := w.owed.map (fun o => if o.id = r.id then { o with data := [(r.lane, record)] } else o)
    degen := if status = 2 then w.degen + 1#32 else w.degen }
  let w1 := match w0.owed.find? (fun o => decide (o.id = r.id)) with
    | some o => arrivedWave o w0
    | none => w0
  if s.rays.any (fun x => decide (x.id ≠ r.id) && decide (x.op = r.op)) then w1 else completedWave r.op w1

/-- What is left of a ray that ends: its registration is gone, with what waited for it, and its wave has its record. -/
def goneRay (s : State) (r : Ray) (status : Nat) (record : List Word) : State :=
  let mine := fun (w : Waiter) => decide (w = .ray r.id)
  { s with
    rays := s.rays.filter (fun x => decide (x.id ≠ r.id))
    tethers := s.tethers.filter (fun k => !mine k.waiter)
    freed := s.freed ++ (s.tethers.filter (fun k => mine k.waiter)).filterMap (fun k => k.spill.map (fun n => (k.ctx, n)))
    unarmed := s.unarmed.filter (fun k => !mine k.waiter)
    wakes := s.wakes.filter (fun k => !mine k.waiter)
    waves := tabMod s.waves r.wave (rayGone s r status record) }

/-- The hit record (Table 12.9): no hit, and a hit's t, cluster, triangle and weights. -/
def noHit (status : Nat) : List Word := [0x7F800000#32, 0xFFFFFFFF#32, BitVec.ofNat 32 (status * 2 ^ 24 + 255 * 2 ^ 16), 0#32]
def hitWords (status : Nat) (h : Option Hit) : List Word :=
  match h with
  | some x => [x.t.f32 .rne, BitVec.ofNat 32 x.cluster, BitVec.ofNat 32 (status * 2 ^ 24 + x.tri * 2 ^ 16), BitVec.ofNat 32 (x.u + x.v * 2 ^ 16)]
  | none => noHit status

/-- Hit `a` comes no later than hit `b`: less t, else the lower cluster, else the lower triangle (R295). -/
def notLater (a b : Hit) : Prop :=
  let x := a.t.num * b.t.den
  let y := b.t.num * a.t.den
  x < y ∨ (x = y ∧ (a.cluster < b.cluster ∨ (a.cluster = b.cluster ∧ a.tri ≤ b.tri)))

/-! ## The hub's engines -/

/-- A frame record waits behind those of its stream accepted before it (R315). -/
def queuedFrame (x : Stream) (r : FrameRec) : Stream := { x with queue := x.queue ++ [r] }

/-- A frame record agrees with its stream and is for slot `j`, which has no other: its stream is there and enabled, its image,
size, pitch and format are in range and the stream's, its reserved bytes are 0, and its DEADLINE is that of `j`, from ENSLOT
on (R314, R315). -/
def frameFits (s : State) (bs : List Byte) (j : Nat) : Prop :=
  let n := field bs 21 1
  let x := s.stream n
  n < 64 ∧ field x.desc 0 1 = 1 ∧ field bs 0 8 % 128 = 0 ∧ field bs 0 8 < 2 ^ 48 ∧ field bs 8 4 = field x.desc 4 4 ∧
  field bs 12 4 = field x.desc 8 4 ∧ field bs 16 4 % 128 = 0 ∧ field bs 20 1 ≤ 2 ∧ field bs 20 1 = field x.desc 2 1 ∧
  (∀ i ∈ 22 :: 23 :: (List.range 24).map (· + 40), bs.getD i 0#8 = 0#8) ∧
  field bs 24 8 = field x.desc 16 8 + j * field x.desc 24 8 ∧ 0 < field x.desc 24 8 ∧ field x.desc 32 8 ≤ j ∧
  (∀ r ∈ x.queue, r.slot ≠ j) ∧ j ∉ x.filled

/-- The state after some writes of the hub, in order: the VA in a context and the bytes of each. -/
def hubAll (s : State) (ctx : Nat) (parts : List (Nat × List Byte)) : State := parts.foldl (fun u p => u.hubWrite ctx p.1 p.2) s

/-- Memory is what it would be after some writes of the hub. -/
def hubWrote (s t : State) (ctx : Nat) (parts : List (Nat × List Byte)) : Prop := t.mem = (hubAll s ctx parts).mem

/-- Parts that fill a range, page by page, with bytes the manual leaves open (R324, R313). -/
def openParts (va n : Nat) (parts : List (Nat × List Byte)) : Prop := parts.map (fun p => (p.1, p.2.length)) = piecesOf va n

/-- A word of a command or a header at a VA (R276: little-endian). -/
def wordBytes (n x : Nat) : List Byte := (List.range n).map (fun i => BitVec.ofNat 8 (x / 256 ^ i))

/-- A ray as its find step meets it: it is the one of its number, its wave stands with its slot still owed. -/
structure RayStands (s : State) (r : Ray) (w : Wave) : Prop where
  found : s.rays.find? (fun x => decide (x.id = r.id)) = some r
  single : ∀ x ∈ s.rays, x.id = r.id → x = r
  wave : tabGet s.waves r.wave = some w
  owed : ∀ o, w.owed.find? (fun x => decide (x.id = r.id)) = some o → o.arrived = false

/-- The hits a ray may have found when its wait begins: those of before, and of the ones its walk meets past no cairn that is
still down (R294). TRACEOCC has found none, or it would have ended. -/
def hitsPast (s : State) (r : Ray) : List Hit :=
  if r.occ then [] else r.found ++ (match s.walkRay true r with
    | .ok w => w.hits
    | .error (_, w) => w.hits)

/-- The best of some hits: none of none, else one that no other comes before (R295). -/
def isBest (hs : List Hit) (h : Option Hit) : Prop :=
  match h with
  | none => hs = []
  | some x => x ∈ hs ∧ ∀ g ∈ hs, notLater x g

/-- The word a ray waits for: a cairn word, which must be 1, or its slot's ROOT, which must not be 0. -/
def rayTether (s : State) (r : Ray) (va pa : Nat) : Tether :=
  let root := decide (va = r.hdr + 64 * r.slot.getD 0 + 24)
  ⟨s.fresh, pa, false, if root then .ne else .eq, if root then 0 else 1, none, r.ctx, .ray r.id, none, false, .device⟩

/-- A parked ray, with the hits it has found: its wait began now, with TMO from its first. -/
def parkedRay (s : State) (r : Ray) (va : Nat) (found : List Hit) (x : Ray) : Ray :=
  { x with
    parked := some va
    found := found
    root := s.rootOf r
    deadline := if r.deadline.isSome ∨ r.tmo = 0 then r.deadline else some (s.time.toNat + r.tmo) }

/-! ## Builds (Table 12.5) -/

/-- A build or refit command that is malformed by itself (R284). -/
def commandBad (bs : List Byte) (refit : Bool) : Prop :=
  field bs 21 1 ≠ 0 ∨ (∃ i < 68, bs.getD (60 + i) 0#8 ≠ 0#8) ∨ field bs 0 8 % 256 ≠ 0 ∨ field bs 16 4 = 0 ∨ 16777215 < field bs 16 4 ∨
  field bs 24 8 % 128 ≠ 0 ∨ field bs 40 8 % 4 ≠ 0 ∨
  (refit = true ∧ (field bs 22 2 < 0x3C00 ∨ 0x7C00 ≤ field bs 22 2)) ∨ (refit = false ∧ field bs 20 1 ∉ [1, 2, 3])

/-- The command of a job at its place in the list. -/
def jobIs (s : State) (j : BuildJob) : Prop := s.builds.find? (fun x => decide (x.id = j.id)) = some j
def jobsWith (s : State) (id : Nat) (f : BuildJob → BuildJob) : List BuildJob := s.builds.map (fun j => if j.id = id then f j else j)
def jobsWithout (s : State) (id : Nat) : List BuildJob := s.builds.filter (fun j => decide (j.id ≠ id))

/-- The parts of the slot step (R284): POOL, CLUS, CAIRN and ROOT 0, then NCLUS, GEN, STATE 1 and CDEPTH, and NEXTGEN. -/
def slotParts (hdr i pool clus cairn nclus gen cdepth : Nat) : List (Nat × List Byte) :=
  [(hdr + 64 * i, wordBytes 8 pool ++ wordBytes 8 clus ++ wordBytes 8 cairn ++ wordBytes 4 0),
    (hdr + 64 * i + 32, wordBytes 4 nclus ++ wordBytes 1 gen ++ wordBytes 1 1 ++ wordBytes 1 cdepth), (hdr + 128, wordBytes 1 (gen + 1))]

/-- The parts of the link step (R287): ROOT and STATE 2 in the slot of a job, and STATE 3 in the other where that is live. -/
def linkParts (j : BuildJob) (hdr root : Nat) (other : Bool) : List (Nat × List Byte) :=
  [(hdr + 64 * j.slot + 24, wordBytes 4 root), (hdr + 64 * j.slot + 37, wordBytes 1 2)] ++
    (if other then [(hdr + 64 * (1 - j.slot) + 37, wordBytes 1 3)] else [])

/-- A tree has been linked over the state `v` that its nodes have left (R287): the link in one step, then DONE with the
generation. -/
def linked (v t : State) (j : BuildJob) (hdr root : Nat) : Prop :=
  let other := decide (field ((v.hubRead j.ctx hdr 256).getD []) (64 * (1 - j.slot) + 37) 1 = 2)
  t.mem = ((v.hubWriteAll j.ctx (linkParts j hdr root other)).hubWrite j.ctx (j.va + 56) (wordBytes 4 (1 + j.gen * 256))).mem

/-- Nodes of a pool as parts, and the provisional spine of a build (R287, R324). -/
def nodeParts (pool : Nat) (ns : List (Nat × List Byte)) : List (Nat × List Byte) := ns.map (fun n => (pool + 128 * n.1, n.2))
def spineParts (pool gen cdepth : Nat) (scene : IBox) : List (Nat × List Byte) :=
  nodeParts pool ((List.range cdepth).flatMap (fun lv => (List.range (8 ^ lv)).map (fun p => (spineIx lv p, provisional gen cdepth lv p scene))))

/-! ## Raster commands and streams -/

def rasterIs (s : State) (j : RasterJob) : Prop := s.rasters.find? (fun x => decide (x.id = j.id)) = some j
def rastersWith (s : State) (id : Nat) (f : RasterJob → RasterJob) : List RasterJob := s.rasters.map (fun j => if j.id = id then f j else j)

/-- A triangle is discarded (R309): no area, culled by the z of its normal, or its bounding box misses the target. -/
def drops (c : RasterCmd) (v0 v1 v2 : V3) : Prop :=
  let n := (v1.sub v0).cross (v2.sub v0)
  let past := fun (a b d : Int) (size : Nat) => (a < 0 ∧ b < 0 ∧ d < 0) ∨
    ((size : Int) * 2 ^ 149 ≤ a ∧ (size : Int) * 2 ^ 149 ≤ b ∧ (size : Int) * 2 ^ 149 ≤ d)
  n = ⟨0, 0, 0⟩ ∨ (c.cull = 1 ∧ 0 < n.z) ∨ (c.cull = 2 ∧ n.z < 0) ∨ past v0.x v1.x v2.x c.width ∨ past v0.y v1.y v2.y c.height

/-- Its exact screen area is below SMALL (R309). -/
def below (c : RasterCmd) (v0 v1 v2 : V3) : Prop :=
  let twice := ((v1.x - v0.x) * (v2.y - v0.y) - (v2.x - v0.x) * (v1.y - v0.y)).natAbs
  match fp32.value c.small with
  | .inf _ => True
  | .nan _ => False
  | .fin _ m e => twice < 2 * (m * 2 ^ (e + 149).toNat) * 2 ^ 149

/-- A stream is set. -/
def streamsWith (s : State) (n : Nat) (x : Stream) : Tab Stream := tabSet s.streams n x

/-- The frame a stream sends for a slot, under a FRAMENO (R427, R430). -/
def frameSent (s : State) (x : Stream) (d : SlotFrame) (n : Nat) : SentFrame where
  slot := d.slot
  rtp := x.slotTime d.slot * 9 / 100000 % 2 ^ 32
  frameno := n
  flags := (if d.frame.isNone then 1 else 0) + (if s.ptp.locked then 0 else 2)
  pixels := match d.frame with
    | some r => r.pixels.getD []
    | none => (List.range x.height).foldl (fun l y => l ++ (List.range x.width).map (fun i => s.warpPixel x i y)) []

end Sys2Proof.Claims
end

