-- ==== Sys2Proof/Safety/Hub.lean ====
section
/-! DEFINITION. Safety/Hub.lean: what the shepherd, the dispatcher and the package do, in the words of chapters 19, 20 and 22 to
27: starting waves (Table 1.5), contexts (Table 19.2), the blocks read on a change of GEN (R346), maintenance commands
(Table 22.3), pages (Table 22.2) and errors (R411). -/

namespace Sys2Proof.Claims

open Sys2Proof Sys2Proof.Machine

/-! ## Starting (R31, Table 1.5) -/

/-- A lane that starts: at the entry, with its index within the workgroup in v0 and zero in the other registers; a lane beyond the
last wave's count is never launched. -/
def laneStarts (g : Grid) (index l : Nat) (x : Lane) : Prop :=
  if index + 1 = g.waves ∧ g.lastl ≤ l then x.state = .never
  else x.state = .ready ∧ x.pc = g.entry ∧ x.regs.length = Nat.max g.regs 1 ∧ x.regs.getD 0 0#32 = BitVec.ofNat 32 (32 * index + l) ∧
    (∀ n, 0 < n → x.regs.getD n 0#32 = 0#32) ∧ x.hw = 0 ∧ x.spilled = 0 ∧ ∀ k < 4, (x.latches.getD k Latch.blank).valid = false

/-- A wave that starts: s0 to s15 the parameter block, s48 to s55 the workgroup's coordinates, rank, wave, waves, depth and handle,
masks 0, q0 to q7 the records of the launch, and no mode set. -/
structure WaveStarts (g : Grid) (handle : Nat) (d : Drove) (wg rank index : Nat) (w : Wave) : Prop where
  lanes : w.lanes.length = 32 ∧ ∀ l x, w.lanes[l]? = some x → laneStarts g index l x
  params : ∀ n < 16, w.sreg n = g.params.getD n 0#32
  place : ∀ n < 8, w.sreg (48 + n) = BitVec.ofNat 32 ([d.x * g.drove + rank, d.y, d.z, rank, index, g.waves, g.depth, handle].getD n 0)
  others : ∀ n < 64, 16 ≤ n → ¬ (48 ≤ n ∧ n < 56) → w.sreg n = 0#32
  masks : ∀ k < 12, w.mreg k = 0#32
  records : ∀ k < 8, w.qreg k = g.records.getD k 0#128
  member : w.wg = wg ∧ w.index = index ∧ w.nregs = g.regs
  modes : w.wb = 0 ∧ w.handler = false ∧ w.fpmode = 0#32 ∧ w.fpflags = 0#32 ∧ w.oobflags = 0#32 ∧ w.wait = .none ∧ w.owed = []

/-- A grid as it becomes eligible: now, or for a child that waits for no event when its LAUNCH was accepted (R347, R348). -/
def eligibleGrid (s : State) (g : Grid) : Grid :=
  let at_ := if g.child = true ∧ g.waitva = 0 then g.eligibleAt else s.time.toNat
  { g with phase := .eligible, eligibleAt := at_, since := at_ }

/-- The tether of a grid's wait event: GEU of 64 bits at system scope (R347). -/
def eventTether (s : State) (id pa : Nat) (g : Grid) : Tether :=
  ⟨s.fresh, pa, true, .geu, g.waitval, none, g.ctx, .grid id, none, false, .system⟩

/-- A claim for pen ways of a grid has been given up on every core (R43). -/
def claimsDropped (s : State) (grid : Nat) : Tab Core :=
  s.cores.map (fun c => (c.1, match c.2.claim with
    | some k => if k.grid = grid then { c.2 with claim := none, penWays := c.2.penWays - k.joined } else c.2
    | none => c.2))

/-- A child has left its context's queue (R339). -/
def leftQueue (s : State) (ctx id : Nat) : Tab Context :=
  tabMod s.ctxs ctx (fun c => { c with childq := c.childq.filter (fun x => decide (x ≠ id)) })

/-- A wave that has ended: some lane was launched, none is live, and nothing is owed to it or counted. -/
def waveOver (w : Wave) : Prop :=
  (∃ l < 32, (w.lane l).state ≠ .never) ∧ (∀ l < 32, (w.lane l).state.live = false) ∧ (∀ o ∈ w.owed, o.arrived = true) ∧
  w.counts.mtx = 0 ∧ w.counts.flk = 0 ∧ w.counts.trc = 0

/-! ## Contexts (Table 19.2) -/

/-- The fields of a descriptor, as a context that becomes live. -/
structure ContextSays (b : List Byte) (c : Context) : Prop where
  live : c.live = true
  tables : c.ptroot = field b 0 8 ∧ c.trapvec = BitVec.ofNat 48 (field b 8 8)
  areas : c.savepool = field b 16 8 ∧ c.areasize = field b 24 4 ∧ c.areas = field b 28 4
  spill : c.spillbase = field b 32 8 ∧ c.spillcap = field b 40 4
  commons : c.commonsSize = field b 44 4 ∧ c.pagertab = field b 48 8
  nets : c.netbase = field b 56 8 ∧ c.netcount = field b 64 4 ∧ c.flockwait = field b 68 2 ∧ c.flockshare = field b 70 1
  rights : c.maxprio = field b 71 1 ∧ c.homebrand = field b 72 2 ∧ c.nbrands = field b 74 2 ∧ c.brandtab = field b 80 8
  empty : c.childq = [] ∧ c.upcalls = [] ∧ c.regions = [] ∧ c.frames = []

/-- The 256 bytes of a context's descriptor. -/
def descriptorAt (s : State) (ctx : Nat) : List Byte := (List.range 256).map (fun i => s.mem.get (s.boot.tables.getD 0 0 + 256 * ctx + i))

/-! ## Blocks (R346) -/

/-- The 64 bytes of block `i` of the tables. -/
def blockAt (s : State) (i : Nat) : List Byte := (List.range 64).map (fun k => s.mem.get (s.boot.tables.getD i 0 + k))

/-- The hub is ready. -/
def hubUp (s : State) : Prop := s.boot.ready.getLsbD 0 = true

/-! ## Maintenance commands -/

/-- The command at HEAD of the ring, for the op given: the ring is in order and holds it. -/
structure CommandAt (s : State) (op pa : Nat) (b : List Byte) : Prop where
  ready : hubUp s
  ring : s.nextCommand = some (pa, b)
  op : field b 0 1 = op ∧ 1 ≤ op ∧ op ≤ 8

/-- HEAD of the ring has moved on by one, and the command's STATUS is written. -/
def headCells (s : State) : List (Nat × Byte) :=
  let h := s.boot.tables.getD 2 0
  numberCells (h + 16) 4 (numberAt s (h + 16) 4 + 1)
def statusCells (pa status : Nat) : List (Nat × Byte) := numberCells (pa + 4) 4 status

/-- The 64 KiB page of a context that a command names is present. -/
def pageIs (s : State) (ctx va : Nat) (x : TlbEntry) : Prop := s.walk ctx va = .leaf x ∧ x.size = 65536

/-- A leaf word (Table 22.2): VALID, WRITE, EXEC and LEAF, the format fields, and the base. -/
def leafBits (write exec : Bool) (fmt grp scalev slice pa : Nat) : Nat :=
  1 + 2 * write.toNat + 4 * exec.toNat + 8 + 2 ^ 8 * fmt + 2 ^ 11 * grp + 2 ^ 32 * scalev + 2 ^ 64 * pa + 2 ^ 112 * slice

/-! ## Errors -/

/-- The record's unit and place number. -/
def unitOf (unit loc : Nat) : Nat := unit * 2 ^ 32 + loc

/-- Corrected errors of a unit in the last second of TIME (R411). -/
def correctedLately (s : State) (unit loc : Nat) : Nat :=
  (s.errors.corrected.filter (fun e => decide (e.1 = unitOf unit loc) && decide (s.time.toNat ≤ e.2 + 1000000000))).length

end Sys2Proof.Claims
end

