-- ==== Sys2Proof/Safety/Blocks.lean ====
section
/-! DEFINITION. Safety/Blocks.lean: the blocks the hub reads on a change of GEN (Tables 20.1, 24.2, 25.1 and 26.3), maintenance
commands (Table 22.3), pager regions and upcalls (Tables 22.4, 22.5, 22.8), in the words of chapters 20 and 22 to 26. -/

namespace Sys2Proof.Claims

open Sys2Proof Sys2Proof.Machine

/-! ## Blocks -/

/-- A number within limits, and reserved bytes that are zero. -/
def within (lo hi x : Nat) : Prop := lo ≤ x ∧ x ≤ hi
def zerosAt (bs : List Byte) (a n : Nat) : Prop := ∀ i < n, bs.getD (a + i) 0#8 = 0#8

/-- The scheduler block (Table 20.1). -/
structure SchedFits (b : List Byte) : Prop where
  times : within 100 1000000 (field b 0 4) ∧ within 10 1000000 (field b 4 4) ∧ within 10 10000 (field b 8 4) ∧
    within 0 10000 (field b 12 4) ∧ within 1000 1000000 (field b 20 4)
  rules : within 0 127 (field b 16 1) ∧ within 70 100 (field b 17 1) ∧ within 2 40 (field b 18 1) ∧ within 0 3 (field b 19 1)
  reserved : zerosAt b 32 32

def schedSays (b : List Byte) : SchedBlock where
  tslice := field b 0 4
  backwait := field b 4 4
  claimwait := field b 8 4
  timedlead := field b 12 4
  preempt := field b 16 1
  thermhi := field b 17 1
  thermgap := field b 18 1
  modes := field b 19 1
  migmin := field b 20 4
  gen := field b 24 8

/-- The policy block (Table 24.2). -/
structure PolicyFits (b : List Byte) : Prop where
  rules : within 0 65535 (field b 0 4) ∧ within 0 1 (field b 4 1) ∧ within 0 7 (field b 5 1) ∧ within 2 15 (field b 6 1) ∧
    within 0 1 (field b 7 1)
  reserved : zerosAt b 8 16 ∧ zerosAt b 32 32

def policySays (b : List Byte) : PolicyBlock where
  cerate := field b 0 4
  ueact := field b 4 1
  replaymax := field b 5 1
  sticky := field b 6 1
  testmove := field b 7 1
  gen := field b 24 8

/-- The power block (Table 26.3): RACKCAP is 0, or the members' floors fit in it and the device is a member. -/
structure PowerFits (s : State) (b : List Byte) : Prop where
  cap : within 1000 10000 (field b 0 4)
  rack : field b 4 4 = 0 ∨ (floorWatts * ((List.range 64).filter (field b 8 8).testBit).length ≤ field b 4 4 ∧
    (field b 8 8).testBit s.fabric.devno = true)
  rules : within 0 1 (field b 24 1) ∧ within 1 8 (field b 25 1)
  reserved : zerosAt b 26 2 ∧ zerosAt b 46 10

def powerSays (p : PowerBlock) (b : List Byte) : PowerBlock :=
  { p with
    devcap := field b 0 4
    rackcap := field b 4 4
    rackmask := field b 8 8
    freqmask := field b 16 8
    boost := field b 24 1
    rationmin := field b 25 1
    gen := field b 56 8 }

/-- The mode two bits of a number name for a port: 0 closed, 1 hirsel, 2 stream. -/
def portModeOf (x p : Nat) : Nat := x / 4 ^ p % 4

/-- The fabric block (Table 25.1). -/
structure FabricFits (b : List Byte) : Prop where
  ids : within 0 63 (field b 2 1) ∧ within 0 127 (field b 3 1) ∧ within 0 12 (field b 4 1) ∧ within 0 3 (field b 5 1)
  modes : portModeOf (field b 8 4) 0 = 0 ∧ field b 8 4 < 2 ^ 26 ∧ ∀ p < 13, portModeOf (field b 8 4) p ≠ 3
  timeout : within 10 10000 (field b 12 4)
  reserved : zerosAt b 6 2 ∧ zerosAt b 36 20

def fabricSays (f : FabricBlock) (b : List Byte) : FabricBlock where
  podid := field b 0 2
  devno := field b 2 1
  ptpdom := field b 3 1
  ptpport := field b 4 1
  ptpmode := field b 5 1
  portmode := f.portmode
  wanted := field b 8 4
  fabtmo := field b 12 4
  pathtab := field b 16 8
  streamtab := field b 24 8
  gen := field b 56 8

/-- A block ignored as a whole: an error record names where it lies. -/
def ignoredBlock (s : State) (i : Nat) : State := s.report { Report.plain 0x25 1 with addr := s.boot.tables.getD i 0 }

/-- A stream descriptor in order, or one that is off (Table 25.2). -/
def StreamFits (b : List Byte) : Prop :=
  field b 0 1 = 0 ∨ (field b 0 1 = 1 ∧ within 1 12 (field b 1 1) ∧ within 0 2 (field b 2 1) ∧ within 1 16 (field b 3 1) ∧
    within 1 16384 (field b 4 4) ∧ within 1 16384 (field b 8 4) ∧ within 100 10000 (field b 12 4) ∧
    within 1000000 1000000000 (field b 24 8) ∧ field b 12 4 * 1000 < field b 24 8 ∧ field b 40 8 % 128 = 0 ∧ field b 48 8 % 64 = 0 ∧
    within 96 127 (field b 78 1) ∧ within 96 127 (field b 79 1) ∧ zerosAt b 60 4 ∧ zerosAt b 70 2 ∧ zerosAt b 80 48)

/-- A stream takes a changed descriptor: slots go on from the first whose decision is to come, and the frames of slots it will
not decide as queued are rejected. OWNER is no change. -/
def descriptorTaken (s : State) (n : Nat) (b : List Byte) : State :=
  let x := s.stream n
  let epoch := field b 16 8
  let period := field b 24 8
  let early := s.time.toNat + field b 12 4 * 1000
  let same := decide (epoch = field x.desc 16 8) && decide (period = field x.desc 24 8)
  let next := max (max (field b 32 8) (if early < epoch then 0 else (early - epoch) / max 1 period + 1)) (if same then x.next else 0)
  let keeps := fun (r : FrameRec) => decide (field b 0 1 = 1) && same && decide (next ≤ r.slot)
  if x.desc.take 56 ++ x.desc.drop 60 = b.take 56 ++ b.drop 60 then s
  else
    let v := (x.queue.filter (fun r => !keeps r)).foldl (fun t r => t.hubWrite r.ctx (r.va + 36) (wordBytes 4 2)) s
    let y : Stream := { x with
      desc := b
      queue := x.queue.filter keeps
      next := next
      decided := x.decided.filter (fun d => decide (field x.desc 16 8 + d.slot * field x.desc 24 8 ≤ s.time.toNat))
      filled := if same then x.filled else []
      reserve := x.reserve && decide (field b 40 8 = field x.desc 40 8) }
    { v with streams := tabSet v.streams n y }

/-- The 64 stream descriptors are read, each that is out of order left as it was with a record. -/
def descriptorsRead (s : State) : State :=
  (List.range 64).foldl (fun t n =>
    let pa := t.fabric.streamtab + 128 * n
    let b := (List.range 128).map (fun k => t.mem.get (pa + k))
    if streamOk b = true then descriptorTaken t n b else t.report { Report.plain 0x25 1 with addr := pa }) s

/-! ## Maintenance commands -/

/-- The fields of a command. -/
def cmdCtxOf (b : List Byte) : Nat := field b 1 1
def cmdVaOf (b : List Byte) : Nat := field b 8 8
def cmdPaOf (b : List Byte) (i : Nat) : Nat := field b (24 + 8 * i) 8

/-- Reserved bytes are zero. -/
def cleanCommand (b : List Byte) : Prop := zerosAt b 2 2 ∧ zerosAt b 56 8

/-- A command on a page of a live context. -/
structure PageCommand (s : State) (b : List Byte) (x : TlbEntry) : Prop where
  clean : cleanCommand b
  live : (s.ctx (cmdCtxOf b)).live = true
  aligned : cmdVaOf b % 65536 = 0
  page : pageIs s (cmdCtxOf b) (cmdVaOf b) x

/-- DUP of a leaf, and its place in the duplication table. -/
def dupLeaf (x : TlbEntry) : Bool := x.leaf.testBit 5
def dupPlace (x : TlbEntry) : Nat := x.leaf / 2 ^ 16 % 2 ^ 16

/-- A frame of 64 KiB in the populated memory of the package. -/
def frameStands (s : State) (pa : Nat) : Prop := pa % 65536 = 0 ∧ s.populated pa = true ∧ hostAperture pa = false

/-- The command at HEAD is taken: HEAD of the ring moves on. A command ends: its STATUS is written. -/
def taken (s : State) : State := s.perform (headCells s)
def ended (s : State) (pa status : Nat) : State := s.perform (statusCells pa status)

/-- The entry of a command under way, as it is taken. -/
def underWay (s : State) (pa : Nat) (b : List Byte) : Maint where
  index := numberAt s (s.boot.tables.getD 2 0 + 16) 4
  pa := pa
  bytes := b
  since := s.time.toNat
  leaf := 0
  leafPa := 0
  ranges := []
  dup := none

/-- A command under way is over. -/
def endsWith (s : State) (m : Maint) (status : Nat) : State :=
  ended { s with maint := s.maint.filter (fun x => decide (x.index ≠ m.index)) } m.pa status

/-- Every core and every die drops the translations that meet a range of a context. -/
def untranslated (s : State) (ctx lo hi : Nat) : State :=
  let keep := fun (x : TlbEntry) => !(decide (x.ctx = ctx) && decide (x.va < hi) && decide (lo < x.va + x.size))
  { s with
    cores := s.cores.map (fun c => (c.1, { c.2 with tlb := c.2.tlb.filter keep }))
    sites := s.sites.map (fun x => { x with tlb := x.tlb.filter keep }) }

/-- A translation some core or die holds. -/
def held (s : State) (x : TlbEntry) : Prop := (∃ c ∈ s.cores, x ∈ c.2.tlb) ∨ ∃ c ∈ s.sites, x ∈ c.tlb

/-- Who waits for a page of a range of a context walks again, and held writes of the hub are tried again. -/
def walkedAgain (s : State) (ctx lo hi : Nat) : State :=
  ({ s with waves := s.waves.map (fun x => (x.1, match x.2.wait with
      | .page c p _ _ => if c = ctx ∧ lo ≤ p * 65536 ∧ p * 65536 < hi then { x.2 with wait := .none } else x.2
      | _ => x.2)) } : State).retryPosts

/-- The walks of a command's page go on. -/
def walksGoOn (s : State) (b : List Byte) : State :=
  walkedAgain { s with blockedWalks := s.blockedWalks.filter (fun w => decide (w ≠ (cmdCtxOf b, cmdVaOf b / 65536))) }
    (cmdCtxOf b) (cmdVaOf b) (cmdVaOf b + 65536)

/-- Every store of a context to some physical ranges has been performed. -/
def storesPerformed (s : State) (ctx : Nat) (rs : List (Nat × Nat)) : Prop :=
  (∀ g ∈ s.wgs, s.wgCtx g.1 = ctx → ∀ c ∈ g.2.sbuf, ∀ r ∈ rs, ¬ (r.1 ≤ c.1 ∧ c.1 < r.1 + r.2)) ∧
  ∀ c ∈ s.cores, ∀ l ∈ c.2.committed, ∀ r ∈ rs, ¬ (r.1 ≤ l.line * 128 ∧ l.line * 128 < r.1 + r.2)

/-- A page command under way that has waited CLAIMWAIT for stores. -/
def late (s : State) (op : Nat) (m : Maint) : Prop :=
  field m.bytes 0 1 = op ∧ ¬ storesPerformed s (cmdCtxOf m.bytes) m.ranges ∧ m.since + s.sched.claimwait * 1000 ≤ s.time.toNat

/-- No core logs a write of a page. -/
def pageUnlogged (s : State) (ctx va : Nat) : Prop :=
  ∀ c ∈ s.cores, ∀ e ∈ c.2.sideLog, ¬ (e.ctx = ctx ∧ e.va / 65536 = va / 65536)

/-- A byte of memory once some frames hold the bytes of another. -/
def copiedByte (s : State) (home : Nat) (frames : List Nat) (a : Nat) : Byte :=
  if a / 65536 * 65536 ∈ frames then s.mem.get (home + a % 65536) else s.mem.get a

/-- Some frames hold the bytes of another, lost lines with them, and no core an older copy of their lines; nothing else has
changed. -/
structure Copied (s u : State) (home : Nat) (frames : List Nat) : Prop where
  bytes : ∀ a, u.mem.get a = copiedByte s home frames a
  canonical : u.memOk
  lines : ∀ l, l ∈ u.poisoned ↔ if l * 128 / 65536 * 65536 ∈ frames then home / 128 + l % 512 ∈ s.poisoned else l ∈ s.poisoned
  old : ∀ o, o ∈ u.old ↔ o ∈ s.old ∧ o.line * 128 / 65536 * 65536 ∉ frames
  rest : { u with mem := s.mem, poisoned := s.poisoned, old := s.old } = s

/-- Tethers on a frame, armed or yet to be, stand on another; spilled ones are written again; no core keeps a path line of the
frame. -/
def rehomed (s : State) (home new : Nat) : State :=
  let go := fun (t : Tether) => if t.pa / 65536 * 65536 = home then { t with pa := t.pa - home + new } else t
  let u := (s.ctxs.map Prod.fst).foldl State.syncSpill { s with tethers := s.tethers.map go, unarmed := s.unarmed.map go }
  { u with cores := u.cores.map (fun c => (c.1, { c.2 with path := c.2.path.filter (fun l => decide (l.1 * 128 / 65536 * 65536 ≠ home)) })) }

/-- Hot-page candidates of remapped frames are void. -/
def voided (s : State) (frames : List Nat) : State :=
  { s with dies := s.dies.map (fun d => { d with
      cands := d.cands.map (fun c => if c.1 * 65536 ∈ frames then (c.1, c.2.1, true) else c) }) }

/-- The sites a DUP names, and the frames it names for them. -/
def dupSitesOf (b : List Byte) : List Nat := (List.range 3).filter (fun i => (field b 20 4).testBit i)
def dupFramesOf (b : List Byte) : List Nat := (dupSitesOf b).map (cmdPaOf b)

/-- The entry a DUP makes: the page, its home, and the replica of each site. -/
def dupEntryOf (b : List Byte) (home : Nat) : DupEntry where
  ctx := cmdCtxOf b
  va := cmdVaOf b
  home := home
  reads := (List.range 3).map (fun i => if i ∈ dupSitesOf b then some (cmdPaOf b i) else none)
  acks := none
  waiting := []

/-- An entry of the duplication table in memory: the home and what each site reads; zero once collapsed (log entry 24). -/
def entryCells (s : State) (ix : Nat) (d : Option DupEntry) : List (Nat × Byte) :=
  let pas := match d with
    | some d => [d.home, (d.reads.getD 0 none).getD d.home, (d.reads.getD 1 none).getD d.home, (d.reads.getD 2 none).getD d.home]
    | none => [0, 0, 0, 0]
  (pas.mapIdx (fun k p => numberCells (s.boot.tables.getD 10 0 + 32 * ix + 8 * k) 8 p)).flatten

/-- A die drops its translations of a duplicated page, and where it reads a replica the path lines of the page. -/
def droppedAt (s : State) (entry site : Nat) (d : DupEntry) : State :=
  let keep := fun (x : TlbEntry) => !(x.leaf.testBit 5 && decide (x.leaf / 2 ^ 16 % 2 ^ 16 = entry))
  let line := fun (l : Nat × List Byte) => (d.reads.getD site none).isNone || decide (l.1 * 128 / 65536 * 65536 ≠ d.home)
  { s with
    cores := s.cores.map (fun c => (c.1,
      if coreSite c.1 = site then { c.2 with tlb := c.2.tlb.filter keep, path := c.2.path.filter line } else c.2))
    sites := s.sites.mapIdx (fun n x => if n = site then { x with tlb := x.tlb.filter keep } else x) }

/-- The collapse of a duplicated page once every holder has acknowledged: its leaf an ordinary one, the entry gone, the replicas
free, the bytes that waited performed in order and then the messages behind them, and the commands for it done. -/
def collapsedPage (s : State) (entry : Nat) (d : DupEntry) : State :=
  let leaf := match s.walk d.ctx d.va with
    | .leaf x => if x.size = 65536 ∧ dupLeaf x = true ∧ dupPlace x = entry then
        numberCells x.leafPa 16 (x.leaf - 32 - entry * 2 ^ 16) else []
    | _ => []
  let u := (({ s.perform leaf with dups := tabErase s.dups entry } : State).perform (entryCells s entry none))
  let v := voided { u with ctxs := tabMod u.ctxs d.ctx (fun c => { c with frames := c.frames ++ d.reads.filterMap id }) } [d.home]
  let w := (d.waiting.foldl (fun t x =>
    t.perform ((x.2.mapIdx (fun k b => (x.1 + k, b))).filter (fun c => !t.readOnly c.1))) v).hostRun s.inbound
  ((w.maint.filter (fun m => decide (m.dup = some entry))).foldl (fun t m => endsWith t m 1) w).gbarChecks

/-- The sites that hold a replica. -/
abbrev replicaAt (d : DupEntry) (i : Nat) : Prop := i < 3 ∧ (d.reads.getD i none).isSome = true

/-- An entry of the hot-page list (Table 22.6): the frame and whether it is void, its estimate, the counts of the sites. -/
def hotBytes (d : MemDie) (c : Nat × List Nat × Bool) : List Byte :=
  wordBytes 16 (c.1 % 2 ^ 30 + 2 ^ 30 * c.2.2.toNat + 2 ^ 64 * d.estimate c.1 + 2 ^ 80 * c.2.1.getD 0 0 + 2 ^ 96 * c.2.1.getD 1 0 +
    2 ^ 112 * c.2.1.getD 2 0)

/-! ## Pagers -/

/-- Bytes of a region's page, and its leaf's lowest VA bit. -/
def regionPage (r : Region) : Nat := [65536, 2097152].getD r.pagesize 536870912
def regionShift (r : Region) : Nat := [16, 21].getD r.pagesize 29

/-- An entry of the region table (Table 22.4). -/
def regionSays (b : List Byte) : Region where
  lo := field b 0 8
  hi := field b 8 8
  pagesize := field b 16 1
  attr := field b 17 1
  pctx := field b 18 1
  slots := field b 19 1
  scalebase := field b 24 8
  upring := field b 32 8
  fill := field b 40 8
  stopped := false

/-- An entry that keeps the rules of the table: FMT 6 and 7 name a scale base and group code, any other has none. -/
structure RegionFits (b : List Byte) : Prop where
  range : field b 0 8 % 65536 = 0 ∧ field b 0 8 < field b 8 8 ∧ field b 8 8 ≤ 2 ^ 48
  pages : field b 16 1 ≤ 2 ∧ within 1 64 (field b 19 1)
  attr : field b 17 1 < 128
  scale : field b 24 8 % 65536 = 0 ∧ field b 24 8 < 2 ^ 48
  groups : if field b 17 1 % 8 ∈ [6, 7] then field b 17 1 / 8 % 4 ≠ 0 else field b 17 1 / 8 % 4 = 0 ∧ field b 24 8 = 0
  ring : field b 32 8 % 64 = 0 ∧ field b 32 8 < 2 ^ 48
  fill : field b 40 8 % regionPage (regionSays b) = 0 ∧ field b 40 8 + field b 19 1 * regionPage (regionSays b) ≤ 2 ^ 48
  reserved : zerosAt b 20 4 ∧ zerosAt b 48 16

/-- The record of an upcall (Table 22.5). -/
def upcallRecord (u : Upcall) (ctx slot time : Nat) : List Byte :=
  wordBytes 8 u.page ++ wordBytes 1 ctx ++ wordBytes 1 u.kind ++ wordBytes 1 slot ++ wordBytes 1 u.region ++ wordBytes 4 0 ++
  wordBytes 8 time ++ wordBytes 40 0

/-- A context's upcall changed. -/
def upcallWith (s : State) (ctx i : Nat) (f : Upcall → Upcall) : Tab Context :=
  tabMod s.ctxs ctx (fun c => { c with upcalls := c.upcalls.mapIdx (fun k u => if k = i then f u else u) })

/-- A number at a VA of a context as the hub reads it. -/
def hubNumber (s : State) (ctx va n : Nat) : Nat := natOfBytes ((s.hubRead ctx va n).getD [])

/-- The upcall's page, its region and slot, as MAP uses them. -/
def upcallLeaf (u : Upcall) : Nat :=
  let r := u.reg
  let grouped := r.attr % 8 = 6 ∨ r.attr % 8 = 7
  leafBits (r.attr.testBit 5) (r.attr.testBit 6) (r.attr % 8) (r.attr / 8 % 4) (if grouped then r.scalebase / 65536 else 0)
    (if grouped then (u.page - r.lo) / regionPage r else 0) (u.frames.headD 0)

/-- The fill slot of an upcall, where it has one, is unmapped and no translation of it is left. -/
def slotUnmapped (s : State) (u : Upcall) : State :=
  match u.slot with
  | none => s
  | some n =>
    let at_ := u.reg.fill + n * regionPage u.reg
    untranslated (s.perform (match s.leafSlot u.reg.pctx at_ (regionShift u.reg) with
      | some pf => numberCells pf 16 0
      | none => [])) u.reg.pctx at_ (at_ + regionPage u.reg)

/-- A refused upcall is over: its slot is unmapped, its frames are free again, and it is forgotten. -/
def upcallOver (s : State) (ctx : Nat) (u : Upcall) : State :=
  let v := slotUnmapped s u
  { v with ctxs := tabMod v.ctxs ctx (fun c => { c with
      frames := c.frames ++ u.frames
      upcalls := c.upcalls.filter (fun x => !x.refused) }) }

/-- No store to some frames is on its way. -/
def framesStill (s : State) (frames : List Nat) : Prop :=
  (∀ g ∈ s.wgs, ∀ c ∈ g.2.sbuf, c.1 / 65536 * 65536 ∉ frames) ∧
  ∀ c ∈ s.cores, ∀ l ∈ c.2.committed, l.line * 128 / 65536 * 65536 ∉ frames

/-- A wave waits for a page of a range of a context. -/
def waitsIn (w : Wave) (ctx lo hi : Nat) : Prop := ∃ p k t, w.wait = .page ctx p k t ∧ lo ≤ p * 65536 ∧ p * 65536 < hi

end Sys2Proof.Claims
end

