-- ==== Sys2Proof/Safety/Fabric.lean ====
section
/-! DEFINITION. Safety/Fabric.lean: the host over port.0, links, errors and self-tests, remote accesses and the clock, in the
words of chapters 3, 23, 24, 25 and 27. -/

namespace Sys2Proof.Claims

open Sys2Proof Sys2Proof.Machine

/-! ## The host (R442, R443) -/

/-- Device memory the host reaches: port.0 READY and up, all in populated HBM of one die that is READY. -/
structure HostReaches (s : State) (pa n : Nat) : Prop where
  port : s.boot.ready.getLsbD 10 = true ∧ s.portsUp.testBit 0 = true
  some_ : 0 < n
  die : homeDie pa < 6 ∧ homeDie (pa + n - 1) = homeDie pa ∧ s.boot.ready.getLsbD (4 + homeDie pa) = true
  there : s.populated pa = true ∧ s.populated (pa + n - 1) = true

/-- A byte of a field that software may only read (R8): of each queue's header and of the maintenance ring's HEAD and the
reserved bytes; of the power block FLOORW to SLOT; of the fabric block TSTAT; of the error queue TAIL, LOST and the reserved
bytes; the harvest block, the hot-page area and the duplication table whole (its size is log entry 24's); OWNER of a stream. -/
def roField (s : State) (a : Nat) : Prop :=
  let at_ := fun (i n m lo hi : Nat) => ∃ k < n, ∃ o, lo ≤ o ∧ o < hi ∧ a = s.boot.tables.getD i 0 + m * k + o
  at_ 1 1024 64 16 20 ∨ at_ 1 1024 64 22 64 ∨ at_ 2 1 64 16 20 ∨ at_ 2 1 64 22 64 ∨ at_ 5 1 64 28 46 ∨ at_ 6 1 64 32 36 ∨
  at_ 7 1 64 12 16 ∨ at_ 7 1 64 20 64 ∨ at_ 8 1 256 0 256 ∨ at_ 9 6 1024 0 1024 ∨ at_ 10 4096 32 0 32 ∨
  (s.fabric.streamtab ≠ 0 ∧ ∃ k < 64, ∃ o, 56 ≤ o ∧ o < 60 ∧ a = s.fabric.streamtab + 128 * k + o)

/-- Bytes at an address, and those of them that a write of software reaches. -/
def byteCells (pa : Nat) (bs : List Byte) : List (Nat × Byte) := bs.mapIdx (fun i b => (pa + i, b))
def heededCells (s : State) (cells : List (Nat × Byte)) : List (Nat × Byte) := cells.filter (fun c => !s.readOnly c.1)

/-- No byte of the host waits for a collapse. -/
def noneWaits (s : State) : Prop := ∀ d ∈ s.dups, d.2.waiting = []

/-- Bytes for a duplicated page wait for its collapse, which they start. -/
def heldBytes (s : State) : List (Nat × Byte) → State
  | [] => s
  | c :: cs =>
    heldBytes (match s.dupOf c.1 with
      | some k => { s with dups := tabMod s.dups k (fun d => { d with
          acks := some (d.acks.getD [])
          waiting := d.waiting ++ [(c.1, [c.2])] }) }
      | none => s) cs

/-! ## Links (R403 to R405) -/

def linkWith (s : State) (l : Nat) (x : Link) : State := { s with links := s.links.set l x }

/-- Where a link lies, as a record says it: links 0 to 2 on the hub, each two of the others on a site. -/
def linkRecord (kind sev act l : Nat) : Report :=
  { Report.plain kind sev with unit := 4, loc := (if l < 3 then 10 else (l - 3) / 2) + 16 * l, action := act }

/-- A link after a flit it accepted: each TAG takes effect once, and the response is sent again for one that is known. -/
def acceptedFlit (x : Link) (tag response : Nat) : Link :=
  { x with
    expected := (x.expected + 1) % 2 ^ 32
    naks := 0
    done := if (x.done.find? (fun d => decide (d.1 = tag))).isSome then x.done
      else (x.done ++ [(tag, response)]).drop (x.done.length + 1 - 4096)
    out := x.out ++ [(x.done.find? (fun d => decide (d.1 = tag))).getD (tag, response)] }

/-- A changed harvest block, shown in memory, HGEN counting the change (R401). -/
def reaped (s : State) (h : Harvest) : State :=
  let v := { s with harvest := { h with hgen := h.hgen + 1 } }
  v.perform (byteCells (s.boot.tables.getD 8 0) v.harvestBytes)

/-- A number with a bit cleared. -/
def without (x i : Nat) : Nat := if x.testBit i then x - 2 ^ i else x

/-- Droves of a fenced die: still replayable ones are relaunched, every other's grid is killed with ERROR (R408, R416). -/
def droveLost (s : State) (d : Nat) : State :=
  if (s.drove d).grid = 0 ∧ (s.drove d).wgs = [] then s
  else if s.mayReplay d = true then s.relaunch d
  else s.killGrid 5 (s.drove d).grid

/-- A compute die is fenced: it holds nothing, what its cores had committed is poisoned, its droves are lost (R408). -/
def siteFenced (s : State) (site : Nat) : State :=
  let v : State := { s with sites := s.sites.mapIdx (fun k x => if k = site then { x with live := false, tlb := [] } else x) }
  let here := fun (c : Nat) => decide (coreSite c = site)
  let lines := ((v.cores.filter (fun c => here c.1)).map (fun c => (v.core c.1).committed.map Committed.line)).flatten
  let u : State := { v with
    poisoned := (v.poisoned ++ lines).eraseDups
    cores := v.cores.filter (fun c => !here c.1) }
  let w := (v.drovesAt here).foldl droveLost u
  reaped w { w.harvest with dieEn := without w.harvest.dieEn site }

/-- A memory die is fenced: every line of it is lost, copies and tethers with it, and who waited there is told (R408). -/
def memFenced (s : State) (n : Nat) : State :=
  let here := fun (pa : Nat) => decide (homeDie pa = n)
  let hit := s.tethers.filter (fun t => here t.pa)
  let v := { s with
    dies := s.dies.mapIdx (fun k d => if k = n then { d with live := false } else d)
    tethers := s.tethers.filter (fun t => !here t.pa)
    freed := s.freed ++ hit.filterMap (fun t => t.spill.map (fun i => (t.ctx, i)))
    old := s.old.filter (fun o => !here (o.line * 128))
    cores := s.cores.map (fun c => (c.1, { c.2 with committed := c.2.committed.filter (fun l => !here (l.line * 128)) })) }
  let w := hit.foldl State.loseWait v
  reaped w { w.harvest with dieEn := without w.harvest.dieEn (4 + n) }

/-- A link fails: it is down with a record, and what it serves is fenced. -/
def linkLost (s : State) (l : Nat) (x : Link) : State :=
  let v := (linkWith s l { x with up := false, retraining := false }).report (linkRecord 0x06 3 5 l)
  if l < 3 then memFenced (memFenced (siteFenced v l) (2 * l)) (2 * l + 1) else memFenced v (l - 3)

/-- A link has failed: it is down, and what it serves is fenced and off in DIE_EN. -/
structure LinkFailed (t : State) (l : Nat) : Prop where
  down : ∃ x, t.links[l]? = some x ∧ x.up = false ∧ x.retraining = false
  site : l < 3 → (∃ x, t.sites[l]? = some x ∧ x.live = false) ∧ t.harvest.dieEn.testBit l = false ∧
    ∀ k < 2, (∃ d, t.dies[2 * l + k]? = some d ∧ d.live = false) ∧ t.harvest.dieEn.testBit (4 + 2 * l + k) = false
  die : 3 ≤ l → (∃ d, t.dies[l - 3]? = some d ∧ d.live = false) ∧ t.harvest.dieEn.testBit (4 + (l - 3)) = false

/-! ## Errors (R411, R415 to R418) -/

/-- Errors of a unit in the last second of TIME. -/
def erredLately (s : State) (unit loc : Nat) : Nat :=
  (s.errors.recent.filter (fun e => decide (e.1 = unitOf unit loc) && decide (s.time.toNat ≤ e.2 + 1000000000))).length

/-- A record of a unit. -/
def unitRecord (kind sev unit loc : Nat) : Report := { Report.plain kind sev with unit := unit, loc := loc }

/-- A unit stands in quarantine, put there now unless it already does (R417). -/
def putAside (s : State) (unit loc : Nat) : State :=
  if s.quarantined.any (fun q => decide (q.unit = unit) && decide (q.loc = loc)) then s
  else { s with quarantined := s.quarantined ++ [{ unit := unit, loc := loc, seq := s.errors.seq, testing := false, lasting := false }] }

/-- What a loss does, by where the data lived (R415). -/
def lostData (s : State) (d : LostData) (r : Report) : State :=
  let marked := { r with action := 4 }
  match d with
  | .clean => s.report { r with kind := 0x02, sev := 1 }
  | .line n => ({ s with poisoned := (s.poisoned ++ [n]).eraseDups } : State).report { marked with addr := n * 128 }
  | .dirty core n => ({ s with
      poisoned := (s.poisoned ++ [n]).eraseDups
      cores := tabSet s.cores core { s.core core with committed := (s.core core).committed.filter (fun l => decide (l.line ≠ n)) } } : State).report
        { marked with addr := n * 128 }
  | .buffered wg n => if (tabGet s.wgs wg).isSome then
      ({ s with wgs := tabMod s.wgs wg (fun g => { g with
        sbuf := g.sbuf.filter (fun c => decide (c.1 / 128 ≠ n))
        whole := g.whole.filter (fun l => decide (l ≠ n)) }) } : State).affect wg 0x03 (n * 128) true none
      else s.report r
  | .pen wg word => ({ s with wgs := tabMod s.wgs wg (fun g => { g with penPoison := (g.penPoison ++ [word]).eraseDups }) } : State).report marked
  | .commons ctx block => ({ s with
      ctxs := tabMod s.ctxs ctx (fun c => { c with commonsPoison := (c.commonsPoison ++ [block]).eraseDups }) } : State).report marked
  | .array core word => ({ s with cores := tabSet s.cores core { s.core core with
      array := { (s.core core).array with poison := ((s.core core).array.poison ++ [word]).eraseDups } } } : State).report marked
  | .reg key n lanes => ({ s with waves := tabMod s.waves key (fun w => { w with
      lanes := w.lanes.mapIdx (fun l x => if lanes.getLsbD l = true then { x with poison := (x.poison ++ [n]).eraseDups } else x) }) } : State).report marked

/-! ## Tests (R417, R418, R401) -/

/-- The quarantine's entry of a unit changed. -/
def asideWith (s : State) (unit loc : Nat) (f : Quarantine → Quarantine) : List Quarantine :=
  s.quarantined.map (fun q => if q.unit = unit ∧ q.loc = loc then f q else q)

/-- A resident leaves a core for a test: pre-empted by policy and where its context has a handler, else its grid is killed. -/
def clearedForTest (s : State) (d : Nat) : State :=
  if s.policy.testmove = 1 ∧ (s.ctx (s.grid (s.drove d).grid).ctx).trapvec ≠ 0#48 then s.preemptDrove d 4
  else s.killGrid 4 (s.drove d).grid

/-- A resident leaves a core that is to be removed: saved, relaunched, or killed; one that is leaving goes on. -/
def leftCore (s : State) (d : Nat) : State :=
  if (s.drove d).phase = .resident ∧ (s.ctx (s.grid (s.drove d).grid).ctx).trapvec ≠ 0#48 ∧ s.canSave d = true then s.preemptDrove d 4
  else if (s.drove d).phase.halts = true then s
  else if s.mayReplay d = true then s.relaunch d
  else s.killGrid 4 (s.drove d).grid

/-- The quarantine without a unit. -/
def withoutUnit (s : State) (unit loc : Nat) : State :=
  { s with quarantined := s.quarantined.filter (fun x => !(decide (x.unit = unit) && decide (x.loc = loc))) }

/-- A core with a lasting fault is off once nothing stands on it. -/
def coreOff (s : State) (unit loc : Nat) : State :=
  if s.residents (locCore loc) = [] then
    let v := withoutUnit s unit loc
    reaped v { v.harvest with coreEn := v.harvest.coreEn.mapIdx (fun k b => if k = locCore loc / 160 then without b (locCore loc % 160) else b) }
  else s

/-- A unit with a lasting fault is removed: a core once its residents have left it, a channel at once; a link lane, slice or way
is replaced. -/
def unitOff (s : State) (unit loc : Nat) : State :=
  if unit ≤ 3 then
    coreOff ((s.residents (locCore loc)).foldl leftCore { s with quarantined := asideWith s unit loc (fun q => { q with lasting := true }) }) unit loc
  else if unit = 5 then
    let v := withoutUnit s unit loc
    reaped v { v.harvest with chanEn := v.harvest.chanEn.mapIdx (fun k b => if k = loc % 16 - 4 then without b (loc / 16 % 256) else b) }
  else withoutUnit s unit loc

/-! ## Remote accesses (R228, R422 to R424) -/

/-- One element of a reduction: FP32 sum, BF16 sum, FP32 maximum. -/
def reducedOne (kind x y : Nat) : Nat :=
  match kind with
  | 1 => fp32.rne (FVal.sum .rne [fp32.value x, fp32.value y])
  | 2 => bf16.rne (FVal.sum .rne [bf16.value x, bf16.value y])
  | _ => (fp32.minMax false false x y).1

/-- The bytes a message leaves at its target: its own, or element by element combined with what stood there. -/
def messageBytes (kind : Nat) (old new : List Byte) : List Byte :=
  let e := if kind = 2 then 2 else 4
  if kind = 0 then new
  else ((List.range (new.length / e)).map (fun i => wordBytes e (reducedOne kind (field old (e * i) e) (field new (e * i) e)))).flatten

/-- The context a remote access of a device enters: live, its HOMEBRAND the brand named, the sender in its BRANDTAB, neither
brand revoked. -/
structure AdmittedBy (s : State) (from_ brand ctx : Nat) : Prop where
  first : ∃ c, s.ctxs.find? (fun c => c.2.live && decide (c.2.homebrand = brand)) = some (ctx, c)
  brands : from_ ∉ s.brands ∧ brand ∉ s.brands
  listed : ∃ b, s.hubRead ctx (s.ctx ctx).brandtab (2 * (s.ctx ctx).nbrands) = some b ∧
    ∃ i < (s.ctx ctx).nbrands, field b (2 * i) 2 = from_

/-- Requests fail, and what they had sent is waited for no longer. -/
def requestsFail (s : State) (ids : List Nat) : State :=
  { s with
    messages := s.messages.filter (fun m => decide (m.req ∉ ids))
    cores := s.cores.map (fun c => (c.1, { c.2 with drover := c.2.drover.map (fun r => if r.id ∈ ids then { r with failed := true } else r) })) }

/-- A port may change its mode: READY, changed, and carrying nothing. -/
def modeDrained (s : State) (p : Nat) : Prop :=
  portModeOf s.fabric.portmode p ≠ portModeOf s.fabric.wanted p ∧ s.boot.ready.getLsbD (10 + p) = true ∧ ∀ m ∈ s.messages, m.port ≠ p

/-! ## The clock (R425) -/

/-- An offset in 16 bits, saturating. -/
def offset16 (x : Int) : Nat := ((max (-32768) (min 32767 x)) % 65536).toNat

/-- The clock changed, TSTAT in memory following it. -/
def clocked (s : State) (p : Ptp) : State :=
  ({ s with ptp := p } : State).perform <| numberCells (s.boot.tables.getD 6 0 + 32) 4 (p.locked.toNat + 2 * p.holdover.toNat + 2 ^ 16 * offset16 p.offset)

/-! ## Limits, power and bring-up (R432 to R445) -/

/-- A site changed. -/
def siteWith (s : State) (i : Nat) (f : Site → Site) : List Site := s.sites.mapIdx (fun k x => if k = i then f x else x)

/-- Some quarters are those of a state with `g` grants for each of a site's. -/
def rationed (s : State) (qs : Tab Quarter) (site g : Nat) : Prop :=
  ∀ q, (tabGet qs q).getD Quarter.init = if site * 640 ≤ q ∧ q < site * 640 + 640 then { s.quarter q with grants := g } else s.quarter q

/-- STATE of the power block (Table 26.3): boosted, deterministic, held at the floor, tripped, frozen. -/
def powerBits (s : State) : Nat :=
  (decide (1050 < s.power.freq)).toNat + 2 * s.deterministicHold.toNat + 4 * s.power.floorHold.toNat +
    8 * (s.sites.any Site.trip).toNat + 16 * s.power.frozen.toNat

/-- STATE and SLOT in memory as they stand. -/
def stateCells (s : State) : List (Nat × Byte) :=
  numberCells (s.boot.tables.getD 5 0 + 44) 1 (powerBits s) ++ numberCells (s.boot.tables.getD 5 0 + 45) 1 s.power.slot

/-- The state with STATE and SLOT shown. -/
def shown (s : State) : State := s.perform (stateCells s)

/-- A record of the power controller. -/
def powerRecord (loc detail : Nat) : Report := { Report.plain 0x0A 1 with loc := loc, detail := detail }

/-- A member's demand, 10,000 W where no message came, and the frequency it proposed, 0.80 GHz where none did. -/
def demandOf (s : State) (i : Nat) : Nat := match tabGet s.power.demands i with
  | some d => d.1
  | none => 10000
def proposalOf (s : State) (i : Nat) : Nat := match tabGet s.power.demands i with
  | some d => d.2
  | none => 800

/-- The members of a mask, and the sum of their demands cut off at a level. -/
def membersIn (mask : Nat) : List Nat := (List.range 64).filter mask.testBit
def demandsCut (s : State) (level : Nat) : Nat := ((membersIn s.power.rackmask).map (fun i => min (demandOf s i) level)).sum

/-- The grant of the device (R437): its DEVCAP without a rack; else at most what the rack gives it. -/
def grantIs (s : State) (g : Nat) : Prop :=
  (s.power.rackcap = 0 → g = s.power.devcap) ∧
  (s.power.rackcap ≠ 0 → demandsCut s 10000 ≤ s.power.rackcap → g = min s.power.devcap (demandOf s s.fabric.devno)) ∧
  (s.power.rackcap ≠ 0 → s.power.rackcap < demandsCut s 10000 → ∃ l ≤ 10000, g = min s.power.devcap (min (demandOf s s.fabric.devno) l) ∧
    (demandsCut s l ≤ s.power.rackcap ∨ l = 0) ∧ s.power.rackcap < demandsCut s (l + 1))

/-- The clock of an epoch (R438): the floor while it is held; the least that the members of the group propose while a
DETERMINISTIC grid is resident; else nominal. -/
def freqIs (s : State) (f : Nat) : Prop :=
  ((s.power.floorHold = true ∨ ∃ x ∈ s.sites, x.trip = true) → f = 800) ∧
  (s.power.floorHold = false → (∀ x ∈ s.sites, x.trip = false) → s.deterministicHold = true →
    f ≤ 1050 ∧ (∀ i ∈ membersIn s.power.freqmask, f ≤ proposalOf s i) ∧
      (f = 1050 ∨ ∃ i ∈ membersIn s.power.freqmask, f = proposalOf s i)) ∧
  (s.power.floorHold = false → (∀ x ∈ s.sites, x.trip = false) → s.deterministicHold = false → f = 1050)

/-- The controller's firmware has signalled within 1 ms. -/
def signalled (s : State) : Prop := s.time.toNat < s.power.watchdog + 1000000

/-- An image as the ROM finds it. -/
def romFinds (s : State) (version : Nat) (image : List Byte) : Firmware :=
  ⟨version, Config.verifies image && decide (s.boot.minVersion ≤ version), Config.shake256 image⟩

/-- Slot `k` runs at start-up: it verifies, and the other does not, or is of a lower version (slot 0 where both are the same). -/
def slotStarts (b : Boot) (k : Nat) : Prop :=
  (k = 0 ∧ b.slotA.verified = true ∧ (b.slotB.verified = false ∨ b.slotB.version ≤ b.slotA.version)) ∨
  (k = 1 ∧ b.slotB.verified = true ∧ (b.slotA.verified = false ∨ b.slotA.version < b.slotB.version))

/-- A function may become READY (R440): the hub with a verified hub image and slot; a die DIE_EN names; a port, the clock, the
stream engine. -/
def mayBeReady (s : State) (fn : Nat) : Prop :=
  (fn = 0 → s.boot.hubImage.verified = true ∧ (s.boot.slotA.verified = true ∨ s.boot.slotB.verified = true)) ∧
  (1 ≤ fn → fn ≤ 3 → s.harvest.dieEn.testBit (fn - 1) = true) ∧ (4 ≤ fn → fn ≤ 9 → s.harvest.dieEn.testBit fn = true) ∧ fn ≤ 24

/-! ## A step's end -/

/-- The end of a step: the spill entries it has freed are written invalid and their lists linked anew (R345), and the live
contexts whose ENABLE it leaves 0 are to be killed (R333). -/
def eventEnd (r : Out) : Out :=
  match r with
  | .next v =>
    let t := v.tidySpill
    .next { t with killed := t.killed ++ ((t.ctxs.filter (fun c => c.2.live && decide (field (descriptorAt t c.1) 88 8 = 0) &&
      !t.killed.contains c.1)).map Prod.fst) }
  | .fault f => .fault f
  | .refused f => .refused f

/-- The end of a step that issued, with what slot B of the clk is to issue. -/
def stepEnd (b : Option Issue) (r : Out) : Out :=
  eventEnd (match r with
    | .next v => .next (v.settle b)
    | .fault f => .fault f
    | .refused f => .refused f)

/-! ## The canonical form (log entry 5) -/

/-- Physical memory and every commons window list their bytes at rising addresses, none that reads as an unlisted one does. -/
def canonical (s : State) : Prop := s.memOk ∧ ∀ c ∈ s.ctxs, c.2.commons.wf = true

end Sys2Proof.Claims
end

