-- ==== Sys2Proof/Certificates/Slice0/Obligations.lean ====
section
/-! DEFINITION. Certificates/Slice0/Obligations.lean: the statements for the provers. Each is about every state, also those
no run reaches. The words `passes the checks at issue` are `Passes`, `nothing else changes` is `Only` (Safety.lean). -/

open Sys2Proof Sys2Proof.Machine Sys2Proof.Claims

/-- The 32-bit integer forms deliver the results of Tables 7.1, 7.3 and 7.6; The 64-bit integer forms deliver the results of
Table 7.1 (R163, R165, R166, R167, R168, R59, R117, R164). For ADD, SUB, MUL, MULHI, MULHIU, MAD, MIN, MAX, MINU, MAXU,
ABSD, CSEL, AND, OR, XOR, ANDN, SHL, SRL, SRA, ROT, BFE, BFEU, BFI, POPC, CLZ, BREV, ADDSAT, SUBSAT, BMIX, ICMP.EQ, .NE,
.LT, .LE, .LTU, .LEU, ADDI, ANDI, ORI, XORI, SHLI, SRLI, SRAI and MULI: an instruction that passes the checks at issue
answers a next state in which each active lane holds the result of its operands, read before the clk, in D (not under NW
or code 124, and in slot B not where slot A wrote), has it pushed into its latches as an entry tagged 32, and stands at
next_pc. Nothing else of the module changes: no other lane, register, flag, special register, wave or byte of memory. For
ADD64, SUB64, MUL64, MADW, MIN64, MAX64, MINU64, MAXU64, SHL64, SRL64 and SRA64: an instruction that passes the checks at
issue answers a next state in which each active lane holds the low word of its result in D and the high word in the
register after it (not under NW or code 124, and in slot B not where slot A wrote), has the result pushed as an entry
tagged 64, and stands at next_pc. Nothing else of the module changes. -/
def Obligations.IntegerResults : Prop :=
  (
    ∀ (i : Instr) (s : State) (n : Bool) (d : VDst) (f : Wave → Nat → Word), intRule i = some (n, d, f) → Passes i s →
      ∃ t, exec i s = .next t ∧ Only s t (fun w => w.advanced s (fun l x =>
        (if n then x else s.give32 d l (f s.src l) x).latched ((f s.src l).setWidth 64) false))) ∧
  (
    ∀ (i : Instr) (s : State) (n : Bool) (d : VDst) (f : Wave → Nat → Dword), wideRule i = some (n, d, f) → Passes i s →
      ∃ t, exec i s = .next t ∧ Only s t (fun w => w.advanced s (fun l x =>
        (if n then x else s.give64 d l (f s.src l) x).latched (f s.src l) true)))

/-- ICMPM and the mask forms of class 6 write a whole mask register; FCMPM writes a whole mask register and meets IV on a
signalling NaN (R146, R170, R191, R192, R194, R197, R181). For ICMPM.EQ, .NE, .LT, .LE, .LTU, .LEU, MAND, MOR, MXOR,
MANDN, MACT, MCLR, MFROMV and MFROMS: an instruction that passes the checks at issue answers a next state in which the
named mask register holds the value of the tables with 0 in every lane that is not live, less the bits LEAVE cleared in
the same clk (in slot B a register slot A wrote keeps its value), the release condition of that register has acted, and
the active lanes stand at next_pc. No latch, vector register, s register or byte of memory changes. For FCMPM.EQ, .NE,
.LT, .LE, .UN and .OD: a comparison that passes the checks at issue and meets no enabled exception answers a next state in
which the named mask register has the bit of each active live lane where the condition of Table 8.2 holds and 0 elsewhere
(less what LEAVE cleared in the same clk; in slot B a register slot A wrote keeps its value), the release condition of
that register has acted, IV is set where a lane compared a signalling NaN, and the active lanes stand at next_pc. Nothing
else changes. -/
def Obligations.MaskRegisterWrites : Prop :=
  (
    ∀ (i : Instr) (s : State) (d : MReg) (f : Mask → Wave → Mask), maskSetRule i = some (d, f) → Passes i s →
      ∃ t, exec i s = .next t ∧ Only s t (fun w => (giveMask s d (f s.active s.src) w).advanced s sameLane)) ∧
  (
    ∀ (i : Instr) (s : State) (d : MReg) (a b : VSrc) (c : FCond), maskFloatRule i = some (d, a, b, c) → Passes i s →
      metAll s (fun l => condExc s.src (s.src.v32 l a) (s.src.v32 l b)) &&& s.src.traps = 0 →
      ∃ t, exec i s = .next t ∧ Only s t (fun w =>
        { (giveMask s d (maskOf (fun l => s.active.getLsbD l && floatCond c s.src (s.src.v32 l a) (s.src.v32 l b))) w).advanced s
            sameLane with
          fpflags := w.fpflags ||| BitVec.ofNat 32 (combined s.active (fun l => condExc s.src (s.src.v32 l a) (s.src.v32 l b)) % 32) }))

/-- Integer divisions take a scoreboard slot with their results; FDIV owes its rounded quotient, and holds the wave where a
trap is enabled (R169, R171, R201, R184, R72). For DIVS, DIVU, REMS and REMU: a division that passes the checks at issue
answers a next state in which the wave owes its D, in each active lane, the quotient or remainder of Table 7.4 of the
operands read before the clk, and the active lanes stand at next_pc; no register and no latch is written yet. With D = 124
no slot is taken. Nothing else changes. FDIV that passes the checks at issue, whose shadow check does not fail and which
meets no enabled exception answers a next state in which the wave owes its D, in each active lane, the quotient rounded
under FPMODE, with the exceptions of the lanes to join FPFLAGS on arrival, and the active lanes stand at next_pc; where
FPMODE enables any trap the wave waits for the result. With D = 124 no slot is taken and the exceptions join FPFLAGS at
once. Where an enabled exception is met FPEXC is raised precisely instead. Nothing else changes but a spent upset. -/
def Obligations.DivisionsIssue : Prop :=
  (
    ∀ (i : Instr) (s : State) (d : VDst) (a b : VSrc) (f : Word → Word → Word), divRule i = some (d, a, b, f) → Passes i s →
      match d with
      | .reg r => ∃ t, exec i s = .next t ∧ Only { s with fresh := s.fresh + 1 } t (fun w =>
          { w.advanced s sameLane with owed := w.owed ++ [⟨s.fresh, .div, .vec (s.src.wb + r.val) 1, s.active,
              (lanesOf s.active).map (fun l => (l, [f (s.src.v32 l a) (s.src.v32 l b)])), 0, 0#32, false, false, 0#32,
              s.iss.pc⟩] })
      | .discard => ∃ t, exec i s = .next t ∧ Only s t (fun w => w.advanced s sameLane)) ∧
  (
    ∀ (d : VDst) (a b : VSrc) (s : State), Passes (.fdiv d a b) s →
      let q := fun (l : Nat) => asReg (fp32.div s.src.rm s.src.ftz (seen fp32 s.src (s.src.v32 l a).toNat) (seen fp32 s.src (s.src.v32 l b).toNat))
      let met := metAll s (fun l => (q l).2)
      Unfailed s s.strikes (some .single) (fun l => (q l).1) →
      (met &&& s.src.traps = 0 →
        match d with
        | .reg r => ∃ t, exec (.fdiv d a b) s = .next t ∧ Only { spent s (some .single) with fresh := s.fresh + 1 } t (fun w =>
            { w.advanced s sameLane with
              wait := if s.src.traps ≠ 0 then .fdiv else w.wait
              owed := w.owed ++ [⟨s.fresh, .fdiv, .vec (s.src.wb + r.val) 1, s.active,
                (lanesOf s.active).map (fun l => (l, [delivered s s.strikes (some .single) (fun l => (q l).1) l])),
                combined s.active (fun l => (q l).2), 0#32, false, false, 0#32, s.iss.pc⟩] })
        | .discard => ∃ t, exec (.fdiv d a b) s = .next t ∧ Only (spent s (some .single)) t (fun w =>
            { w.advanced s sameLane with
              fpflags := w.fpflags ||| BitVec.ofNat 32 (combined s.active (fun l => (q l).2) % 32) })) ∧
      (met &&& s.src.traps ≠ 0 → exec (.fdiv d a b) s = .next (s.raise (fpexc s (fun l => (q l).2)))))

/-- The lane forms deliver the results of Tables 8.5 and 8.8; ELECTS elects the lowest active lane and puts the others to
sleep under it (R188, R190, R191, R193, R194, R195, R196, R178). For SHFL, SHFLUP, SHFLDN, SHFLX, VANY, VALL, MATCH,
ELECT, REDADD, REDMIN, REDMAX, REDAND, REDOR, REDXOR, MTOV, PREFIXADD and FCLASS: an instruction that passes the checks at
issue answers a next state in which each active lane holds the result, computed from the active lanes alone (a shuffle:
from the lane it names, whatever that lane does) as the wave stood before the clk, in D (not under NW or code 124, and in
slot B not where slot A wrote), has it pushed, and stands at next_pc. Nothing else changes. ELECTS that passes the checks
at issue answers a next state in which the lowest active lane has 1 in D and stands ready at next_pc, every other active
lane has 0 in D and sleeps under it, each has its value pushed, and nothing else changes. -/
def Obligations.LaneResults : Prop :=
  (
    ∀ (i : Instr) (s : State) (n : Bool) (d : VDst) (f : Mask → Wave → Nat → Word), laneRule i = some (n, d, f) → Passes i s →
      ∃ t, exec i s = .next t ∧ Only s t (fun w => w.advanced s (fun l x =>
        (if n then x else s.give32 d l (f s.active s.src l) x).latched ((f s.active s.src l).setWidth 64) false))) ∧
  (
    ∀ (n : Bool) (d : VDst) (s : State) (b : Fin 32), Passes (.elects n d) s → lowestLane s.active = some b.val →
      ∃ t, exec (.elects n d) s = .next t ∧ Only s t (fun w =>
        (w.advanced s (fun l x =>
          (if n then x else s.give32 d l (if l = b.val then 1#32 else 0#32) x).latched (if l = b.val then 1#64 else 0#64) false)).lanesBy
          s.active (fun l x => if l = b.val then x else { x with state := .sleeper b })))

/-- The uniform forms write one s register or a pair; SBCAST writes every active lane and SWRLANE one live lane (R169, R174,
R175, R176, R194, R192). For SADD, SSUB, SMUL, SMAD, SAND, SOR, SXOR, SSHL, SSHR, SSRA, SMIN, SMAX, SMINU, SMAXU, SCMP.EQ,
.NE, .LT, .LE, .LTU, .LEU, SRDLANE, SDIVU, SREMU, SSEL, BALLOT, MPOP and MTOS: an instruction that passes the checks at
issue answers a next state in which s d holds the result of Tables 7.7 and 8.8 from the wave as it stood before the clk
(code 124 discards it; in slot B a register slot A wrote keeps its value) and the active lanes stand at next_pc. No latch,
vector register, mask register or byte of memory changes. SBCAST puts its uniform operand into D of every active lane and
pushes nothing. SWRLANE puts it into D of lane k, the low five bits of b, where lane k is live, whether or not that lane
is active, and changes no latch; code 124 discards both. SADD64 writes the low word of trunc64(a + b) to s d and the high
word to the register above it. In each case the active lanes stand at next_pc and nothing else changes; in slot B a
register that slot A wrote keeps its value. -/
def Obligations.UniformResults : Prop :=
  (
    ∀ (i : Instr) (s : State) (d : UDst) (f : Mask → Wave → Word), uniRule i = some (d, f) → Passes i s →
      ∃ t, exec i s = .next t ∧ Only s t (fun w =>
        { w.advanced s sameLane with s := s.giveU d (f s.active s.src) w.s })) ∧
  (
    (∀ (d : VDst) (a : USrc) (s : State), Passes (.sbcast d a) s →
      ∃ t, exec (.sbcast d a) s = .next t ∧ Only s t (fun w => w.advanced s (fun l x => s.give32 d l (s.src.u32 a) x))) ∧
    (∀ (r : VReg) (a b : USrc) (s : State), Passes (.swrlane (.reg r) a b) s →
      ∃ t, exec (.swrlane (.reg r) a b) s = .next t ∧ Only s t (fun w =>
        { w with lanes := w.lanes.mapIdx (fun l x =>
            let y := if l = (s.src.u32 b).toNat % 32 ∧ (s.src.lane l).state.live = true ∧
                ¬(s.iss.slotB = true ∧ ∃ k ∈ s.iss.keptV, k.1 = s.cur.wb + r.val ∧ k.2.getLsbD l = true)
              then x.given (s.cur.wb + r.val) (s.src.u32 a) else x
            if s.active.getLsbD l then { y with pc := s.iss.next } else y) })) ∧
    (∀ (a b : USrc) (s : State), Passes (.swrlane .discard a b) s →
      ∃ t, exec (.swrlane .discard a b) s = .next t ∧ Only s t (fun w => w.advanced s sameLane)) ∧
    (∀ (n : SReg) (a b : USrc) (s : State), Passes (.sadd64 (.reg n) a b) s →
      ∃ t, exec (.sadd64 (.reg n) a b) s = .next t ∧ Only s t (fun w =>
        let x := trunc64 ((s.src.u64 a).toNat + (s.src.u64 b).toNat)
        { w.advanced s sameLane with s := s.giveS (n.val + 1) (hi32 x) (s.giveS n.val (lo32 x) w.s) })) ∧
    (∀ (a b : USrc) (s : State), Passes (.sadd64 .discard a b) s →
      ∃ t, exec (.sadd64 .discard a b) s = .next t ∧ Only s t (fun w => w.advanced s sameLane)))

/-- The floating-point forms of classes 4 and 5 deliver the results of Tables 8.1 and 8.3 and their exceptions (R65, R66, R69,
R70, R71, R72, R73, R77, R180, R182, R183, R187). For FADD, FSUB, FMUL, FFMA, FFMS, FNMA, FMIN, FMAX, FCMP.EQ, .NE, .LT,
.LE, .UN, .OD, HADD2, HMUL2, HFMA2, HMIN2, HMAX2, BADD2, BMUL2, BFMA2, FDOT2H, FDOT4Q8, FCOPYSIGN, FLDEXP, FRCP, FRSQ,
FSQRT, FEXP2, FLOG2, FSINP, FCOSP, FFLOOR, FCEIL, FTRUNC, FRINT, FFRACT, CVT.F32.S32, CVT.F32.U32, CVT.S32.F32,
CVT.U32.F32, PACKH, PACKB, CVT.F32.H.LO, .HI, CVT.F32.B.LO, .HI, UNPK8.E4 and UNPK8.E5: an instruction that passes the
checks at issue, whose shadow check does not fail and which meets no enabled exception answers a next state in which each
active lane holds its result in D (not under NW or code 124, and in slot B not where slot A wrote), has it pushed, and
stands at next_pc; the exceptions of all active lanes have joined FPFLAGS; and an upset that struck a checked form is
spent, its bits flipped in the lanes it strikes. Nothing else changes. The values of FRCP, FRSQ, FEXP2, FLOG2, FSINP and
FCOSP are the part's own within their bounds (log entry 12). -/
def Obligations.FloatResults : Prop :=
  ∀ (i : Instr) (s : State) (n : Bool) (d : VDst) (k : Option FKind) (f : Wave → Nat → Word × Nat),
    floatRule i = some (n, d, k, f) → Passes i s → Unfailed s s.strikes k (fun l => (f s.src l).1) →
    metAll s (fun l => (f s.src l).2) &&& s.src.traps = 0 →
    ∃ t, exec i s = .next t ∧ Only (spent s k) t (fun w =>
      { w.advanced s (fun l x =>
          (if n then x else s.give32 d l (delivered s s.strikes k (fun l => (f s.src l).1) l) x).latched
            ((delivered s s.strikes k (fun l => (f s.src l).1) l).setWidth 64) false) with
        fpflags := w.fpflags ||| BitVec.ofNat 32 (combined s.active (fun l => (f s.src l).2) % 32) })

/-- PK8.E4 and PK8.E5 replace one byte of D, whatever traps are enabled (R65). PK8.E4 or PK8.E5 that passes the checks at
issue and whose shadow check does not fail answers a next state, whatever traps FPMODE enables, in which each active lane
holds dd with the byte that b names replaced by a converted (not under NW or code 124, and in slot B not where slot A
wrote), has it pushed, and stands at next_pc, and the exceptions of the conversions have joined FPFLAGS. Nothing else
changes but a spent upset. -/
def Obligations.PackedByteResults : Prop :=
  ∀ (i : Instr) (s : State) (n : Bool) (d : VDst) (b : VSrc) (k : FKind) (f : Wave → Nat → Word × Nat),
    packRule i = some (n, d, b, k, f) → Passes i s → Unfailed s s.strikes (some k) (fun l => (f s.src l).1) →
    let out := fun (l : Nat) => withByte s.src l d b (delivered s s.strikes (some k) (fun l => (f s.src l).1) l)
    ∃ t, exec i s = .next t ∧ Only (spent s (some k)) t (fun w =>
      { w.advanced s (fun l x => (if n then x else s.give32 d l (out l) x).latched ((out l).setWidth 64) false) with
        fpflags := w.fpflags ||| BitVec.ofNat 32 (combined s.active (fun l => (f s.src l).2) % 32) })

/-- The uniform floating-point forms write one s register under the SIMT rules (R177). For SFADD, SFMUL, SFFMA, SCVTF and
SCVTI: an instruction that passes the checks at issue with an active lane, whose shadow check does not fail and which
meets no enabled exception, answers a next state in which s d holds the result of one element (code 124 discards it; in
slot B a register slot A wrote keeps its value), the exceptions have joined FPFLAGS and the active lanes stand at next_pc.
Nothing else changes but a spent upset. -/
def Obligations.UniformFloatResults : Prop :=
  ∀ (i : Instr) (s : State) (d : UDst) (k : Option FKind) (f : Wave → Word × Nat) (b : Nat),
    uniFloatRule i = some (d, k, f) → Passes i s → lowestLane s.active = some b →
    Unfailed s (allStruck s) k (fun _ => (f s.src).1) →
    metAll s (fun _ => (f s.src).2) &&& s.src.traps = 0 →
    ∃ t, exec i s = .next t ∧ Only (spent s k) t (fun w =>
      { w.advanced s sameLane with
        s := s.giveU d (delivered s (allStruck s) k (fun _ => (f s.src).1) b) w.s
        fpflags := w.fpflags ||| BitVec.ofNat 32 (combined s.active (fun _ => (f s.src).2) % 32) })

/-- An enabled exception raises FPEXC with every exception met, and nothing is written (R72, R177, R181). A form of
FloatResults, FCMPM or UniformFloatResults that passes the checks at issue, whose shadow check does not fail and which
meets an enabled exception raises FPEXC (0x0A): the trap holds in INFO every exception of the active lanes combined and in
LANES the active lanes that met an enabled one, and names the instruction's own address as the faulting and the resume
address; the state it is raised in is the state as it was. -/
def Obligations.FloatTraps : Prop :=
  (∀ (i : Instr) (s : State) (n : Bool) (d : VDst) (k : Option FKind) (f : Wave → Nat → Word × Nat),
    floatRule i = some (n, d, k, f) → Passes i s → Unfailed s s.strikes k (fun l => (f s.src l).1) →
    metAll s (fun l => (f s.src l).2) &&& s.src.traps ≠ 0 → exec i s = .next (s.raise (fpexc s (fun l => (f s.src l).2)))) ∧
  (∀ (i : Instr) (s : State) (d : MReg) (a b : VSrc) (c : FCond), maskFloatRule i = some (d, a, b, c) → Passes i s →
    metAll s (fun l => condExc s.src (s.src.v32 l a) (s.src.v32 l b)) &&& s.src.traps ≠ 0 →
    exec i s = .next (s.raise (fpexc s (fun l => condExc s.src (s.src.v32 l a) (s.src.v32 l b))))) ∧
  (∀ (i : Instr) (s : State) (d : UDst) (k : Option FKind) (f : Wave → Word × Nat), uniFloatRule i = some (d, k, f) →
    Passes i s → Unfailed s (allStruck s) k (fun _ => (f s.src).1) → metAll s (fun _ => (f s.src).2) &&& s.src.traps ≠ 0 →
    exec i s = .next (s.raise (fpexc s (fun _ => (f s.src).2))))

/-- A failed shadow check raises SHADOW, writes an error record and quarantines the unit (R77, R78, R417, R184). A checked
form of FloatResults, PackedByteResults or UniformFloatResults, or an FDIV under an enabled trap, that passes the checks at
issue and whose result, as an upset left it in the lanes it strikes (a uniform form: in every active lane, log entry 52),
fails the check of R77 in some lane raises SHADOW (0x09) in exactly the lanes that fail, at the instruction's own address,
in a state where the upset is spent, the quarter's floating-point unit is quarantined and a record of KIND 0x04 has been
reported; no register, latch or flag of the wave has been written. An FDIV that enables no trap goes on: with a D the wave
owes its results with the lanes that fail marked, so that the failure is found when it completes and SHADOW is deferred
(log entry 51); with D = 124 the failure is reported at once and the lanes go on. -/
def Obligations.ShadowTraps : Prop :=
  (∀ (i : Instr) (s : State) (kind : FKind) (val : Nat → Word) (who : Mask),
    ((∃ n d f, floatRule i = some (n, d, some kind, f) ∧ who = s.strikes ∧ ∀ l, val l = (f s.src l).1) ∨
     (∃ n d b f, packRule i = some (n, d, b, kind, f) ∧ who = s.strikes ∧ ∀ l, val l = (f s.src l).1) ∨
     (∃ d f, uniFloatRule i = some (d, some kind, f) ∧ who = allStruck s ∧ ∀ l, val l = (f s.src).1) ∨
     (∃ d a b, i = .fdiv d a b ∧ s.src.traps ≠ 0 ∧ kind = .single ∧ who = s.strikes ∧ ∀ l, val l = (asReg
        (fp32.div s.src.rm s.src.ftz (seen fp32 s.src (s.src.v32 l a).toNat) (seen fp32 s.src (s.src.v32 l b).toNat))).1)) →
    Passes i s → failing s who kind val ≠ 0#32 →
    ∃ u, ShadowFound s s.iss.key u ∧ exec i s = .next (({ u with upset := none } : State).raise (shadowAt s (failing s who kind val)))) ∧
  (∀ (d : VDst) (a b : VSrc) (s : State), Passes (.fdiv d a b) s → s.src.traps = 0 →
    let q := fun (l : Nat) => asReg (fp32.div s.src.rm s.src.ftz (seen fp32 s.src (s.src.v32 l a).toNat) (seen fp32 s.src (s.src.v32 l b).toNat))
    let bad := failing s s.strikes .single (fun l => (q l).1)
    bad ≠ 0#32 →
    match d with
    | .reg r => ∃ t, exec (.fdiv d a b) s = .next t ∧ Only { s with upset := none, fresh := s.fresh + 1 } t (fun w =>
        { w.advanced s sameLane with owed := w.owed ++ [⟨s.fresh, .fdiv, .vec (s.src.wb + r.val) 1, s.active,
            (lanesOf s.active).map (fun l => (l, [delivered s s.strikes (some .single) (fun l => (q l).1) l])),
            combined s.active (fun l => (q l).2), bad, false, false, 0#32, s.iss.pc⟩] })
    | .discard => ∃ t u, exec (.fdiv d a b) s = .next t ∧ ShadowFound s s.iss.key u ∧
        Only { u with upset := none } t (fun w => w.advanced s sameLane))

/-- The direct branches and NOP move each active lane to the target or to next_pc; CALL and CALLI push next_pc and go, RET
pops, JMPI jumps (R109, R140, R149, R141, R142). For BRA, BRIN, BROUT, BANY, BALL, BSZ, BSNZ and NOP: an instruction that
passes the checks at issue answers a next state in which each active lane stands at the target where Table 6.2 takes the
branch for it, and at next_pc otherwise; the masks and s registers are read as they stood before the clk. Nothing else
changes. CALL and CALLI that pass the checks at issue, with no calling lane at depth 72 (for CALLI, and with every target
the address of an instruction), answer a next state in which each calling lane stands at its target with next_pc pushed as
the newest entry of its return stack, and each other active lane stands at next_pc with its stack as it was. RET with no
active lane at depth 0 takes the newest entry of each active lane as its PC and removes it, and leaves no hardware part
empty while the spill region holds an entry. JMPI with every target the
address of an instruction moves each active lane to its target. No register, latch, flag or byte of memory changes. -/
def Obligations.BranchesGo : Prop :=
  (
    ∀ (i : Instr) (s : State) (tgt : Addr) (taken : Nat → Bool), branchRule i s = some (tgt, taken) → Passes i s →
      ∃ t, exec i s = .next t ∧
        Only s t (fun w => w.lanesBy s.active (fun l x => { x with pc := if taken l then tgt else s.iss.next }))) ∧
  (
    (∀ (m : Option MReg) (off : BitVec 20) (s : State), Passes (.call m off) s →
      (∀ l < 32, (s.callers m).getLsbD l = true → (s.src.lane l).hw + (s.src.lane l).spilled ≠ 72) →
      ∃ (t : State) (f : Wave → Nat → Lane → Lane), exec (.call m off) s = .next t ∧ Only s t (fun w => w.lanesBy s.active (f w)) ∧
        ∀ w l x, sameButStack x (f w l x) ∧
          (f w l x).pc = (if (s.callers m).getLsbD l then targetOf s off.toInt else s.iss.next) ∧
          stackOf w l (f w l x) = stackOf w l x ++ (if (s.callers m).getLsbD l then [s.iss.next.setWidth 64] else [])) ∧
    (∀ (a : VSrc) (s : State), Passes (.calli a) s →
      (∀ l < 32, s.active.getLsbD l = true → (s.src.lane l).hw + (s.src.lane l).spilled ≠ 72 ∧ ¬ noCode (s.src.v64 l a)) →
      ∃ (t : State) (f : Wave → Nat → Lane → Lane), exec (.calli a) s = .next t ∧ Only s t (fun w => w.lanesBy s.active (f w)) ∧
        ∀ w l x, sameButStack x (f w l x) ∧
          (f w l x).pc = (if s.active.getLsbD l then (s.src.v64 l a).setWidth 48 else s.iss.next) ∧
          stackOf w l (f w l x) = stackOf w l x ++ (if s.active.getLsbD l then [s.iss.next.setWidth 64] else [])) ∧
    (∀ (s : State), Passes .ret s →
      (∀ l < 32, s.active.getLsbD l = true → (s.src.lane l).hw + (s.src.lane l).spilled ≠ 0) →
      ∃ (t : State) (f : Wave → Nat → Lane → Lane), exec .ret s = .next t ∧ Only s t (fun w => w.lanesBy s.active (f w)) ∧
        ∀ w l x, sameButStack x (f w l x) ∧ (x.hw + x.spilled ≠ 0 →
          stackOf w l x = stackOf w l (f w l x) ++ (stackOf w l x).drop ((stackOf w l x).length - 1) ∧
          (stackOf w l x).getLast?.map (fun e => e.setWidth 48) = some (f w l x).pc ∧
          ((f w l x).hw = 0 → (f w l x).spilled = 0))) ∧
    (∀ (a : VSrc) (s : State), Passes (.jmpi a) s → (∀ l < 32, s.active.getLsbD l = true → ¬ noCode (s.src.v64 l a)) →
      ∃ t, exec (.jmpi a) s = .next t ∧ Only s t (fun w => w.lanesBy s.active (fun l x => { x with pc := (s.src.v64 l a).setWidth 48 }))))

/-- A full stack, an empty stack and a target that is no instruction address trap (R142). CALL raises STACK with INFO 1 in the
calling lanes at depth 72 where there are any, and CALLI likewise unless a lane below the lowest of them has a target that
is no instruction address; then, as JMPI does, it raises MISALIGN with INFO 16 in the lanes whose targets are none. RET
raises STACK with INFO 0 in the active lanes at depth 0. Each trap stands at the instruction's own address and is raised
in the state as it was. -/
def Obligations.StackTraps : Prop :=
  let full := fun (s : State) (l : Nat) => (s.src.lane l).hw + (s.src.lane l).spilled = 72
  (∀ (m : Option MReg) (off : BitVec 20) (s : State), Passes (.call m off) s →
    (∃ l < 32, (s.callers m).getLsbD l = true ∧ full s l) →
    ∃ u, exec (.call m off) s = .next (s.raise u) ∧ u.cause = 0x0C ∧ u.info = 1#32 ∧ u.iaddr = s.iss.pc ∧ u.resume = s.iss.pc ∧
      ∀ l < 32, u.lanes.getLsbD l = true ↔ ((s.callers m).getLsbD l = true ∧ full s l)) ∧
  (∀ (a : VSrc) (s : State) (l : Nat), Passes (.calli a) s → l < 32 → s.active.getLsbD l = true →
    (∀ k < l, s.active.getLsbD k = true → ¬ full s k ∧ ¬ noCode (s.src.v64 k a)) →
    (full s l → ∃ u, exec (.calli a) s = .next (s.raise u) ∧ u.cause = 0x0C ∧ u.info = 1#32 ∧ u.iaddr = s.iss.pc ∧
      u.resume = s.iss.pc ∧ ∀ k < 32, u.lanes.getLsbD k = true ↔ (s.active.getLsbD k = true ∧ full s k)) ∧
    (¬ full s l → noCode (s.src.v64 l a) → ∃ u, exec (.calli a) s = .next (s.raise u) ∧ u.cause = 0x05 ∧ u.info = 16#32 ∧
      u.iaddr = s.iss.pc ∧ u.resume = s.iss.pc ∧
      ∀ k < 32, u.lanes.getLsbD k = true ↔ (s.active.getLsbD k = true ∧ noCode (s.src.v64 k a)))) ∧
  (∀ (a : VSrc) (s : State), Passes (.jmpi a) s → (∃ l < 32, s.active.getLsbD l = true ∧ noCode (s.src.v64 l a)) →
    ∃ u, exec (.jmpi a) s = .next (s.raise u) ∧ u.cause = 0x05 ∧ u.info = 16#32 ∧ u.iaddr = s.iss.pc ∧ u.resume = s.iss.pc ∧
      ∀ k < 32, u.lanes.getLsbD k = true ↔ (s.active.getLsbD k = true ∧ noCode (s.src.v64 k a))) ∧
  (∀ (s : State), Passes .ret s → (∃ l < 32, s.active.getLsbD l = true ∧ (s.src.lane l).hw + (s.src.lane l).spilled = 0) →
    ∃ u, exec .ret s = .next (s.raise u) ∧ u.cause = 0x0C ∧ u.info = 0#32 ∧ u.iaddr = s.iss.pc ∧ u.resume = s.iss.pc ∧
      ∀ k < 32, u.lanes.getLsbD k = true ↔ (s.active.getLsbD k = true ∧ (s.src.lane k).hw + (s.src.lane k).spilled = 0))

/-- JOIN and WAITM hold the lanes of a mask until every live lane of it has arrived (R144). JOIN mN and WAITM mN that pass the
checks at issue answer a next state in which each active lane whose bit in mN is 0 stands at next_pc, each whose bit is 1
is held with its PC at the instruction, and then the release condition of mN has acted: the lanes held at a JOIN or WAITM
on mN whose bit is 0 are released, and all of them where every lane with a bit in mN is held; a released lane continues at
the next_pc of its own instruction. Nothing else changes, but that WAITM first carries out the paddock accesses of its
workgroup that are under way (R145); where one of them meets lost data that ends the wave's drove, no more is done. -/
def Obligations.Reconvergence : Prop :=
  (∀ (m : MReg) (s : State), Passes (.join m) s → ∃ t, exec (.join m) s = .next t ∧ Only s t (fun w =>
    releasedWave m (w.lanesBy s.active (fun l x =>
      if (s.src.mreg m.val).getLsbD l then { x with state := .join m } else { x with pc := s.iss.next })))) ∧
  (∀ (m : MReg) (s : State), Passes (.waitm m) s →
    let v := releasedAt s 2
    (Stays s v → ∃ t, exec (.waitm m) s = .next t ∧ Only v t (fun w =>
      releasedWave m (w.lanesBy v.active (fun l x =>
        if (v.src.mreg m.val).getLsbD l then { x with state := .waitm m } else { x with pc := v.iss.next })))) ∧
    (¬ Stays s v → exec (.waitm m) s = .next v))

/-- LEAVE clears the bits of its active lanes; EXIT ends its active lanes, clears their bits, discards their stacks and wakes
their sleepers (R146, R144, R151, R27, R157). LEAVE mN that passes the checks at issue answers a next state in which the
bits of its active lanes in mN are 0 and the others as they were, the release condition of mN has acted (where slot B of
the same wave is still to issue, it is left to the end of the clk, whose write comes first), and the active lanes stand at
next_pc; in slot A the cleared bits are noted, so that a whole-register write by slot B leaves them 0. Nothing else
changes. EXIT that passes the checks at issue, of a wave that waits for nothing, answers a next state in which its active
lanes have exited with their registers as they were and their return stacks discarded, their bits are 0 in every mask
register, the lanes sleeping under them are ready after their ELECTS, and the release condition of every mask has acted,
or is left to the end of the clk likewise. Where a live lane is left that does not stand at GBAR nothing else changes; where
every lane left stands at GBAR the wave is blocked at the barrier; there, and where no live lane is left, the barrier
completes if the wave was the last it awaited. -/
def Obligations.LeaveAndExit : Prop :=
  (
    ∀ (m : MReg) (s : State), Passes (.leave m) s → ∃ t, exec (.leave m) s = .next t ∧
      Only s t (fun w =>
        let v := { w.advanced s sameLane with
          m := w.m.set m.val (maskOf (fun l => (w.mreg m.val).getLsbD l && !s.active.getLsbD l)) }
        if s.iss.pairs then v else releasedWave m v) ∧
      (s.iss.slotB = false → (m.val, s.active) ∈ t.iss.left)) ∧
  (
    let after := fun (s : State) (w : Wave) =>
      let v := wokenWave s.active id (exitedWave s.active w)
      if s.iss.pairs then v else (List.finRange 12).foldl (fun v m => releasedWave m v) v
    ∀ (s : State) (w : Wave), Passes .exit s → tabGet s.waves s.iss.key = some w → w.wait = .none →
      let left := fun (l : Nat) => l < 32 ∧ (w.lane l).state.live = true ∧ s.active.getLsbD l = false
      ((∃ l, left l ∧ (w.lane l).state ≠ .gbar) → ∃ t, exec .exit s = .next t ∧ Only s t (after s)) ∧
      ((∀ l, ¬ left l) → ∃ u, exec .exit s = .next (u.gbarCheck s.curGrid) ∧ Only s u (after s)) ∧
      ((∃ l, left l) → (∀ l, left l → (w.lane l).state = .gbar) →
        ∃ u, exec .exit s = .next (u.gbarCheck s.curGrid) ∧ Only s u (fun v => { after s v with wait := .gbar })))

/-- TRAP raises USER with its code and BRK raises BREAK, resuming after the instruction (R150). TRAP #code that passes the
checks at issue raises USER (0x0D) with the code in INFO, and BRK raises BREAK (0x0E) with INFO 0, in every active lane;
each names the instruction's address as IADDR and next_pc as RESUME, and is raised in the state as it was: it leaves no
effect. -/
def Obligations.TrapAndBrk : Prop :=
  (∀ (code : BitVec 14) (s : State), Passes (.trap code) s → exec (.trap code) s = .next (s.raise
    { cause := 0x0D, info := code.setWidth 32, lanes := s.active, iaddr := s.iss.pc, resume := s.iss.next, faddr := 0#48,
      slotB := s.iss.slotB, arrayf := false, deferred := false, restore := false })) ∧
  (∀ (s : State), Passes .brk s → exec .brk s = .next (s.raise
    { cause := 0x0E, info := 0#32, lanes := s.active, iaddr := s.iss.pc, resume := s.iss.next, faddr := 0#48,
      slotB := s.iss.slotB, arrayf := false, deferred := false, restore := false }))

/-- WIN and WINADD set the window base within the allocation, or raise WINDOW (R152). WIN #n and WINADD #n that pass the
checks at issue set WB to 8 n and to WB + 8 n where that is at least 0 and below the registers of the wave, with the
active lanes at next_pc and nothing else changed, the latches among it; otherwise they raise WINDOW in the active lanes at
their own address in the state as it was. Both issue alone. -/
def Obligations.WindowMoves : Prop :=
  let fits := fun (s : State) (nwb : Int) => 0 ≤ nwb ∧ nwb < s.src.nregs
  let window := fun (s : State) => (⟨0x04, 0#32, s.active, s.iss.pc, s.iss.pc, 0#48, s.iss.slotB, false, false, false⟩ : TrapReq)
  (∀ (k : BitVec 5) (s : State), Passes (.win k) s →
    (fits s (8 * k.toNat) → ∃ t, exec (.win k) s = .next t ∧
      Only s t (fun w => { w.advanced s sameLane with wb := 8 * k.toNat })) ∧
    (¬ fits s (8 * k.toNat) → exec (.win k) s = .next (s.raise (window s)))) ∧
  (∀ (k : BitVec 7) (s : State), Passes (.winadd k) s →
    (fits s (s.src.wb + 8 * k.toInt) → ∃ t, exec (.winadd k) s = .next t ∧
      Only s t (fun w => { w.advanced s sameLane with wb := ((s.src.wb : Int) + 8 * k.toInt).toNat })) ∧
    (¬ fits s (s.src.wb + 8 * k.toInt) → exec (.winadd k) s = .next (s.raise (window s)))) ∧
  (∀ k : BitVec 5, (Instr.win k).alone = true) ∧ (∀ k : BitVec 7, (Instr.winadd k).alone = true)

/-- SETMODE writes the register its selector names (R155, R68, R184). SETMODE that passes the checks at issue writes FPMODE
(reserved bits 0), FPFLAGS bits 4 to 0, OOBFLAGS.REC (clearing the bits of the value), or DEGENCOUNT, for selectors 0 to
3, with the active lanes at next_pc and nothing else changed. Of FPFLAGS it waits while an FDIV of the wave has not
arrived: the active lanes are held at the instruction and the wave is otherwise as the issue found it. -/
def Obligations.SetmodeWrites : Prop :=
  (∀ (a : USrc) (s : State), Passes (.setmodeFpmode a) s → ∃ t, exec (.setmodeFpmode a) s = .next t ∧
    Only s t (fun w => { w.advanced s sameLane with
      fpmode := maskOf (fun k => (s.src.u32 a).getLsbD k && decide (k ∈ [0, 1, 2, 8, 9, 10, 11, 12])) })) ∧
  (∀ (a : USrc) (s : State), Passes (.setmodeFpflags a) s →
    ((∀ o ∈ s.cur.owed, o.kind = .fdiv → o.arrived = true) → ∃ t, exec (.setmodeFpflags a) s = .next t ∧
      Only s t (fun w => { w.advanced s sameLane with fpflags := BitVec.ofNat 32 ((s.src.u32 a).toNat % 32) })) ∧
    ((∃ o ∈ s.cur.owed, o.kind = .fdiv ∧ o.arrived = false) → ∃ t, exec (.setmodeFpflags a) s = .next t ∧
      Only s t (fun w => (s.iss.start.getD w).lanesBy s.active (fun _ x => { x with state := .regWait })))) ∧
  (∀ (a : USrc) (s : State), Passes (.setmodeOobflags a) s → ∃ t, exec (.setmodeOobflags a) s = .next t ∧
    Only s t (fun w => { w.advanced s sameLane with
      oobflags := maskOf (fun k => w.oobflags.getLsbD k && !(decide (k < 16) && (s.src.u32 a).getLsbD k)) })) ∧
  (∀ (a : USrc) (s : State), Passes (.setmodeDegencount a) s → ∃ t, exec (.setmodeDegencount a) s = .next t ∧
    Only s t (fun w => { w.advanced s sameLane with degen := s.src.u32 a }))

/-- YIELD gives the turn, SLEEPT blocks the wave until its deadline, WAKE readies the sleepers of its lanes (R26, R27, R148,
R158, R159). YIELD that passes the checks at issue leaves every active lane at next_pc and lets the quarter choose afresh,
not the yielding wave where another is ready; the wave stays ready and keeps its age. SLEEPT and SLEEPT.ABS that pass the
checks at issue with a deadline after TIME (TIME plus the duration; the 64-bit operand) leave the active lanes at next_pc
and the wave blocked until the deadline; with a deadline that has passed they act as YIELD. SLEEPT_DEADLINE makes a wave
that sleeps with its deadline passed ready, and before it changes nothing. WAKE makes every lane that sleeps under one of
the active lanes ready at next_pc with its latches invalid, and the active lanes continue. Nothing else changes. -/
def Obligations.SleepAndWake : Prop :=
  let sleeps := fun (i : Instr) (s : State) (deadline : Nat) =>
    (s.time.toNat < deadline → ∃ t, exec i s = .next t ∧
      Only s t (fun w => { w.advanced s sameLane with wait := .sleept deadline })) ∧
    (deadline ≤ s.time.toNat → ∃ t, exec i s = .next t ∧
      Only (yielding s) t (fun w => w.advanced s sameLane))
  (∀ (s : State), Passes .yield s → ∃ t, exec .yield s = .next t ∧
    Only (yielding s) t (fun w => w.advanced s sameLane)) ∧
  (∀ (a : USrc) (s : State), Passes (.sleept a) s → sleeps (.sleept a) s (s.time.toNat + (s.src.u32 a).toNat)) ∧
  (∀ (a : USrc) (s : State), Passes (.sleeptAbs a) s → sleeps (.sleeptAbs a) s (s.src.u64 a).toNat) ∧
  (∀ (s : State) (key deadline : Nat), (s.wave key).wait = .sleept deadline →
    exec (.sleeptDeadline key) s = .next
      (if deadline ≤ s.time.toNat then { s with waves := tabMod s.waves key (fun w => { w with wait := .none }) } else s)) ∧
  (∀ (s : State), Passes .wake s → ∃ t, exec .wake s = .next t ∧ Only s t (fun w =>
    (wokenWave s.active (fun x => { x with
      latches := List.replicate 4 Latch.blank, burst := 0, pc := s.iss.next }) w).advanced s sameLane))

/-- GBAR holds its lanes, blocks a wave whose live lanes have all arrived, and traps in a grid without it (R157, R86, R91).
GBAR that passes the checks at issue in a grid launched with GBAR carries out the paddock accesses of the workgroup,
commits its stores and performs those of its core, holds every active lane and, where every live lane of the wave has then
arrived, blocks the wave; the barrier then completes if its condition holds. (Where a paddock access meets lost data that
ends the wave's drove, no more is done.) In a grid launched without GBAR it raises GBAR (0x0F) in the active lanes at its
own address in the state as it was. -/
def Obligations.GridBarrier : Prop :=
  (∀ (s : State), Passes .gbar s → (s.grid s.curGrid).flags % 2 = 1 →
    let v := releasedAt s 5
    (Stays s v → ∃ (u : State) (f : Wave → Wave), exec .gbar s = .next (u.gbarCheck s.curGrid) ∧ Only v u f ∧
      ∀ w, let x := w.lanesBy v.active (fun _ x => { x with state := .gbar })
        let alive := (List.range 32).filter (fun l => (x.lane l).state.live)
        f w = { x with wait := if alive ≠ [] ∧ (∀ l ∈ alive, (x.lane l).state = .gbar) then .gbar else x.wait }) ∧
    (¬ Stays s v → exec .gbar s = .next v)) ∧
  (∀ (s : State), Passes .gbar s → (s.grid s.curGrid).flags % 2 ≠ 1 → exec .gbar s = .next (s.raise
    { cause := 0x0F, info := 0#32, lanes := s.active, iaddr := s.iss.pc, resume := s.iss.pc, faddr := 0#48,
      slotB := s.iss.slotB, arrayf := false, deferred := false, restore := false }))

/-- An instruction that fails a check at issue traps at its own address and does nothing else (R130, R129, R128, R119, R121,
R46, R224, R235, R335, R366). For every instruction of classes 0 to 15: an encoding that breaks a rule, or a record, fold,
control register or item that its entry calls ILLEGAL, raises ILLEGAL in the active lanes; else a privileged instruction
outside handler mode raises PRIVILEGED; else a register beyond the allocation raises WINDOW; else a latch that is invalid
in an active lane raises LATCH in exactly those lanes. Each trap stands at the instruction's own address with INFO 0 and
FADDR 0, in the state as the issue found it. -/
def Obligations.ChecksAtIssue : Prop :=
  ∀ (i : Instr) (s : State), i.cls < 16 →
    let bad := i.wf = false ∨ illegalNow i s
    let priv := i.privileged = true ∧ s.src.handler = false
    let win := ∃ n ∈ i.named.vs, s.src.nregs ≤ s.src.wb + n
    let lat := fun (l : Nat) => s.active.getLsbD l = true ∧
      ∃ k ∈ i.named.ls, ((s.src.lane l).latches.getD k Latch.blank).valid = false
    (bad → exec i s = .next (s.raise (trapAt s 0x01 0 s.active 0#48))) ∧
    (¬ bad → priv → exec i s = .next (s.raise (trapAt s 0x02 0 s.active 0#48))) ∧
    (¬ bad → ¬ priv → win → exec i s = .next (s.raise (trapAt s 0x04 0 s.active 0#48))) ∧
    (¬ bad → ¬ priv → ¬ win → (∃ l < 32, lat l) →
      ∃ ls : Mask, (∀ l < 32, ls.getLsbD l = true ↔ lat l) ∧ exec i s = .next (s.raise (trapAt s 0x03 0 ls 0#48)))

/-- RDCR reads and WRCR writes the control registers of Tables 6.3 and 19.3 (R153, R154, R156, R335, R336, R184, R271). RDCR
that passes the checks at issue writes the word of its control register to its s register, once no FDIV of the wave is
owed for FPFLAGS (till then its lanes are held), and RDCR.D the 64 bits of CYCLE or TIME to the pair; nothing else changes
but the program counters. WRCR of a value the register accepts writes it in the context, the writes of NETBASE and
NETCOUNT dropping the context's entries of every weight cache; any other value raises BOUNDS with no record in the state
as it was. -/
def Obligations.ControlRegisters : Prop :=
  (∀ (d : SReg) (cr : BitVec 7) (s : State) (x : Word), Passes (.rdcr d cr) s → crRule s cr.toNat = some x →
    ((cr.toNat ≠ 5 ∨ ∀ o ∈ s.cur.owed, o.kind = .fdiv → o.arrived = true) →
      ∃ t, exec (.rdcr d cr) s = .next t ∧ Only s t (fun w => { w.advanced s sameLane with s := s.giveS d.val x w.s })) ∧
    (cr.toNat = 5 → (∃ o ∈ s.cur.owed, o.kind = .fdiv ∧ o.arrived = false) → ∃ t, exec (.rdcr d cr) s = .next t ∧
      Only s t (fun w => (s.iss.start.getD w).lanesBy s.active (fun _ x => { x with state := .regWait })))) ∧
  (∀ (d : SReg) (cr : BitVec 7) (s : State), Passes (.rdcrD d cr) s → ∃ t, exec (.rdcrD d cr) s = .next t ∧
    Only s t (fun w =>
      let x := if cr.toNat = 0 then s.cycle else s.time
      { w.advanced s sameLane with s := s.giveS (d.val + 1) (hi32 x) (s.giveS d.val (lo32 x) w.s) })) ∧
  (∀ (a : USrc) (cr : BitVec 7) (s : State), Passes (.wrcr a cr) s → ¬ illegalNow (.wrcr a cr) s → s.cur.handler = true →
    (crTakes cr.toNat (s.src.u32 a).toNat → ∃ t, exec (.wrcr a cr) s = .next t ∧
      ∃ u, Only u t (fun w => w.advanced s sameLane) ∧
        u = { s with
          ctxs := tabMod s.ctxs s.curCtx (crWrite cr.toNat (s.src.u32 a).toNat)
          cores := if cr.toNat ≤ 85 then s.cores.map (fun c => (c.1, { c.2 with
            weights := c.2.weights.filter (fun e => decide (e.1 / 65536 ≠ s.curCtx)) })) else s.cores }) ∧
    (¬ crTakes cr.toNat (s.src.u32 a).toNat →
      exec (.wrcr a cr) s = .next (s.raise (trapAt s 0x06 16 s.active 0#48))))

/-- RDST reads and WRST writes the items of Table 21.3 (R161, R366, R367). RDST that passes the checks at issue at an index its
item has writes the item's word to its s register; of an entry of the array's queue that is not there the word is open.
WRST writes the captured copy of items 0 to 6 (a word of HV drops what was noted of the lost or failed data it replaces),
the live counts, a half of an entry of the return stack; a word of a fold, which then completes what its rule allows; the
array's tags, bands, status and entries, and the length of its queue (up to eight; entries that were there stay, new ones
are open), and keeps note of a word of item 9 that a rule forbids, which RTE refuses. An index the item does not have
raises BOUNDS with no record, in the state as it was. Nothing else changes but the program counters of the active lanes,
and of the counts of free values and numbers what an open value takes. -/
def Obligations.HiddenItems : Prop :=
  (∀ (d : SReg) (a : USrc) (item : BitVec 7) (s : State), Passes (.rdst d a item) s → ¬ illegalNow (.rdst d a item) s →
    let ix := (s.src.u32 a).toNat
    (itemHas s item.toNat ix → (∀ x, itemRule s item.toNat ix = some x → ∃ t, exec (.rdst d a item) s = .next t ∧
        Only s t (fun w => { w.advanced s sameLane with s := s.giveS d.val x w.s })) ∧
      (itemRule s item.toNat ix = none → ∃ t x, exec (.rdst d a item) s = .next t ∧
        Only { s with free := s.free + 1 } t (fun w => { w.advanced s sameLane with s := s.giveS d.val x w.s }))) ∧
    (¬ itemHas s item.toNat ix → exec (.rdst d a item) s = .next (s.raise (trapAt s 0x06 16 s.active 0#48)))) ∧
  (∀ (d a : USrc) (item : BitVec 7) (s : State), Passes (.wrst d a item) s → ¬ illegalNow (.wrst d a item) s →
    let ix := (s.src.u32 a).toNat
    let x := s.src.u32 d
    let n := item.toNat
    let runs := fun (u : State) (f : Wave → Wave) => ∃ t, exec (.wrst d a item) s = .next t ∧
      Only u t (fun w => (f w).advanced s sameLane)
    let core := s.core s.curCore
    let noted := forbiddenAfter (s.wg s.curWg).nwaves ix x core.array.forbidden
    let array := fun (f : MatrixArray → MatrixArray) =>
      runs { s with cores := tabSet s.cores s.curCore { core with array := { f core.array with forbidden := noted } } } id
    (itemHas s n ix → n ≤ 6 → n ≠ 3 → ¬ (n = 4 ∧ ix = 1) → runs s (fun w => { w with hidden := hiddenSet w.hidden n ix x })) ∧
    (itemHas s n ix → n = 3 → runs s (fun w => { w with
      hidden := hiddenSet w.hidden 3 ix x
      lanes := w.lanes.modify (ix / 2) (fun y => { y with
        poison := y.poison.filter (fun r => decide (r ≠ 512 + ix % 2))
        deferred := y.deferred.filter (fun d => decide (d.reg ≠ 512 + ix % 2)) }) })) ∧
    (itemHas s n ix → n = 4 → ix = 1 → runs s (fun w => { w with
      counts := ⟨(x.extractLsb' 0 8).toNat, (x.extractLsb' 8 8).toNat, (x.extractLsb' 16 8).toNat⟩ })) ∧
    (itemHas s n ix → n = 7 → ∃ f, runs s f ∧ ∀ w : Wave, { f w with lanes := w.lanes } = w ∧ (f w).lanes.length = w.lanes.length ∧
      (32 ≤ w.lanes.length → ∀ l, { (f w).lane l with rstk := (w.lane l).rstk } = w.lane l ∧
        ∀ e < 8, ((f w).lane l).entry w.wg (32 * w.index + l) e = (let y := (w.lane l).entry w.wg (32 * w.index + l) e
          if l = ix / 16 ∧ e = ix / 2 % 8 then (if ix % 2 = 0 then hi32 y ++ x else x ++ lo32 y) else y))) ∧
    (itemHas s n ix → n = 8 →
      runs { s with wgs := tabMod s.wgs s.curWg (fun g => { g with
        folds := g.folds.modify (ix / 16) (fun f => (foldSet f (ix % 16) x).complete) }) } id) ∧
    (itemHas s n ix → n = 9 → ix = 0 → array (fun a => { a with
      tagA := (x.extractLsb' 0 14).toNat
      tagS := (x.extractLsb' 16 14).toNat })) ∧
    (itemHas s n ix → n = 9 → ix = 1 → array (fun a => { a with bands := (x.extractLsb' 0 4).toNat })) ∧
    (itemHas s n ix → n = 9 → ix = 2 → array (fun a => { a with sticky := (x.extractLsb' 0 3).toNat })) ∧
    (itemHas s n ix → n = 9 → ix = 3 → core.array.queue.length ≤ 8 →
      ∃ (made : List ArrayOp) (free fresh : Nat), runs { s with
        free := free
        fresh := fresh
        cores := tabSet s.cores s.curCore { core with array := { core.array with
          queue := core.array.queue.take x.toNat ++ made
          forbidden := noted } } } id ∧ s.free ≤ free ∧ s.fresh ≤ fresh ∧
        made.length = min 8 x.toNat - core.array.queue.length ∧
        ∀ o ∈ made, o.word = 0#32 ∧ o.ext = 0#32 ∧ o.a = 0#32 ∧ o.b = 0#32 ∧ o.prog = 0 ∧ o.waveIx = 0) ∧
    (itemHas s n ix → n = 9 → 4 ≤ ix → array (fun a => { a with queue := a.queue.modify ((ix - 4) / 8) (fun o =>
      match (ix - 4) % 8 with
      | 0 => { o with word := x }
      | 1 => { o with ext := x }
      | 2 => { o with a := x }
      | 3 => { o with b := x }
      | 4 => { o with prog := x.toNat }
      | 5 => { o with waveIx := x.toNat }
      | _ => o) })) ∧
    (¬ itemHas s n ix → exec (.wrst d a item) s = .next (s.raise (trapAt s 0x06 16 s.active 0#48))))

/-- LAUNCH releases at device scope and holds its lanes until the shepherd has answered (R160, R16, R86, R91). LAUNCH that
passes the checks at issue, with every address a multiple of 256 below 2^48 and no depth to trap on, ends the drove's
replayable period, carries out the paddock accesses of its workgroup, commits its stores and performs those of its core;
where nothing more holds its release it leaves the lanes at next_pc, held until each status is written, and owes them the
status and the handle; else the lanes are held at the instruction. (Where a paddock access meets lost data that ends the
wave's drove, no more is done.) An address that is none raises MISALIGN in its lanes, and a grid of depth 10 with
DEPTHTRAP raises LAUNCH, in the state as it was. -/
def Obligations.Launches : Prop :=
  ∀ (d a : VReg) (s : State), Passes (.launch d a) s →
    let odd := fun (l : Nat) => s.active.getLsbD l = true ∧
      ((s.src.v64 l (.reg a)).extractLsb' 48 16 ≠ 0#16 ∨ (s.src.v64 l (.reg a)).extractLsb' 0 8 ≠ 0#8)
    let deep := (s.grid s.curGrid).depth = 10 ∧ (s.grid s.curGrid).flags.testBit 4 = true
    let u := releasedAt (s.modDrove (s.wg s.curWg).drove (fun d => { d with replayable := false })) 5
    ((∀ l < 32, ¬ odd l) → ¬ deep → Stays s u → u.releaseWaits u.curWg .device = false →
      ∃ t, exec (.launch d a) s = .next t ∧ Only { u with fresh := u.fresh + 1 } t (fun w =>
        { (w.advanced u sameLane).lanesBy u.active (fun _ x => { x with state := .regWait }) with
          owed := w.owed ++ [⟨u.fresh, .launch, .vec (w.wb + d.val) 2, u.active,
            (lanesOf u.active).map (fun l => (l, [lo32 (u.src.v64 l (.reg a)), hi32 (u.src.v64 l (.reg a)), 0#32])), 0, 0#32,
            false, false, 0#32, u.iss.pc⟩] })) ∧
    ((∀ l < 32, ¬ odd l) → ¬ deep → Stays s u → u.releaseWaits u.curWg .device = true →
      ∃ t, exec (.launch d a) s = .next t ∧ Only u t (fun w =>
        (u.iss.start.getD w).lanesBy u.active (fun _ x => { x with state := .stalled }))) ∧
    ((∀ l < 32, ¬ odd l) → ¬ deep → ¬ Stays s u → exec (.launch d a) s = .next u) ∧
    ((∃ l < 32, odd l) → ∃ ls : Mask, (∀ l < 32, ls.getLsbD l = true ↔ odd l) ∧
      exec (.launch d a) s = .next (s.raise (trapAt s 0x05 16 ls 0#48))) ∧
    ((∀ l < 32, ¬ odd l) → deep → exec (.launch d a) s = .next (s.raise (trapAt s 0x10 0 s.active 0#48)))

/-- A raised trap enters handler mode with the state captured, or waits for what is owed, or kills the grid (R361, R362, R364,
R365, R363, R448). A trap raised outside handler mode, with nothing owed to the wave and a handler in its context, puts
the wave in handler mode: the record says what the trap is, the items hold the program counters, states, depths, registers
0 and 1, s60 to s63, q15 and mode registers as they were with the trapping lanes at RESUME, WB is 0, q15 is the save-area
record, and every live lane stands ready at TRAPVEC with v0 its number, v1 zero and its latches invalid; no other wave
changes, and without a save area no byte of memory. With something owed the trap is only noted, the lanes at RESUME. In
handler mode, and in a context without a handler, the grid is gone and an error record has been written. TRAP_ENTRY, once
nothing is owed to the wave and no wake is on its way to it (R372), takes a noted trap, then a cause that fell due, then a
pre-emption: for that first a deferred SHADOW, with DEFERRED set, then PREEMPT once the work of the drove has drained. The
RESUME of a cause that fell due, and of PREEMPT, is the program counter its lanes hold, where they hold one (R362). -/
def Obligations.TrapEntry : Prop :=
  (∀ (s : State) (w : Wave) (u : TrapReq), tabGet s.waves s.iss.key = some w → w.handler = false → u.cause < 256 →
    let at_ := w.lanesBy s.active (fun _ x => { x with pc := u.resume, state := if x.state.live then .ready else x.state })
    let base := (s.wg w.wg).saveBase
    let ctx := s.ctx (s.waveCtx s.iss.key)
    ((∀ o ∈ w.owed, o.arrived = true) → ctx.trapvec ≠ 0#48 → 15 < w.q.length → base < 2 ^ 48 → ctx.areasize < 2 ^ 34 →
      (∃ v, tabGet (s.raise u).waves s.iss.key = some v ∧ Entered at_ v u ctx.trapvec ∧ saveRecordSays (v.qreg 15) base ctx.areasize) ∧
      (∀ k, k ≠ s.iss.key → tabGet (s.raise u).waves k = tabGet s.waves k) ∧ (base = 0 → (s.raise u).mem = s.mem)) ∧
    ((∃ o ∈ w.owed, o.arrived = false) → Only s (s.raise u) (fun v =>
      { v.lanesBy s.active (fun _ x => { x with pc := u.resume, state := if x.state.live then .ready else x.state }) with
        pend := some u })) ∧
    ((∀ o ∈ w.owed, o.arrived = true) → ctx.trapvec = 0#48 →
      tabGet (s.raise u).grids s.curGrid = none ∧ s.errors.seq < (s.raise u).errors.seq)) ∧
  (∀ (s : State) (u : TrapReq), s.cur.handler = true →
    tabGet (s.raise u).grids s.curGrid = none ∧ s.errors.seq < (s.raise u).errors.seq) ∧
  (∀ (s : State) (key : Nat) (w : Wave), tabGet s.waves key = some w → (∀ o ∈ w.owed, o.arrived = true) →
    let vec := (s.ctx (s.waveCtx key)).trapvec
    let enters := fun (x : Wave) (u : TrapReq) => ∃ t v, exec (.trapEntry key) s = .next t ∧ tabGet t.waves key = some v ∧
      Entered x v u vec ∧ ∀ k, k ≠ key → tabGet t.waves k = tabGet s.waves k
    let holds := fun (ls : Mask) (pc : Addr) => (∃ l < 32, ls.getLsbD l = true ∧ (w.lane l).state.live = true) ∧
      ∀ l < 32, ls.getLsbD l = true → (w.lane l).state.live = true → (w.lane l).pc = pc
    vec ≠ 0#48 → (∀ k ∈ s.wakes, k.waiter ≠ .wave key) →
    (∀ u, w.pend = some u → u.cause < 256 → enters w u) ∧
    (∀ u rest, w.pend = none → w.handler = false → w.causes = u :: rest → u.cause < 256 →
      ∃ pc, enters { w with causes := rest } { u with resume := pc } ∧ ∀ at_, holds u.lanes at_ → pc = at_) ∧
    (∀ k l d, w.pend = none → w.handler = false → w.causes = [] → w.preempt = some k → w.deferredTrap = some (l, d) →
      enters (w.modLane l (fun x => { x with deferred := x.deferred.drop 1 }))
        ⟨0x09, 0#32, 1#32 <<< l, d.iaddr, (w.lane l).pc, 0#48, false, false, true, false⟩) ∧
    (∀ k, w.pend = none → w.handler = false → w.causes = [] → w.preempt = some k → w.deferredTrap = none →
      s.drained (s.wg w.wg).drove = true →
      ∃ u, u.cause = 0x11 ∧ u.info = BitVec.ofNat 32 k ∧ (∀ l < 32, u.lanes.getLsbD l = (w.lane l).state.live) ∧
        (∀ at_, holds u.lanes at_ → u.resume = at_) ∧ enters { w with preempt := none } u))

/-- RTE restores a wave from its items, gives up the slot of a saved one, and refuses what a rule forbids (R367, R161, R147,
R363, R86, R369). RTE that passes the checks at issue: in a PREEMPT entry that saves, the stores of the workgroup are
committed and the slot is free, and the lane stores and spill regions of the wave are kept with its workgroup. Otherwise items that a rule forbids are a double trap: the grid is gone. Otherwise an ordinary entry
whose WAIT word is 0, with a live lane ready or at a JOIN or WAITM, answers a next state in which the wave is out of
handler mode with WB, the mode registers, PENPASS, DEGENCOUNT, OOBFLAGS, registers 0 and 1, s60 to s63 and q15 as the
items say, every live lane has the program counter, depths and state its items say, and masks keep no bit of a lane that
its item calls exited; no other wave and no byte of memory changes. A restore waits until every wave of the drove has
reached its RTE, and then the drove is resident. -/
def Obligations.TrapReturn : Prop :=
  ∀ (s : State) (w : Wave), Passes .rte s → tabGet s.waves s.iss.key = some w → tabRising s.waves = true →
    let preempt := (w.trap.extractLsb' 0 8).toNat = 0x11
    let restore := w.trap.getLsbD 8 = true
    let code := fun (l : Nat) => ((w.hidden.lstate.getD l 0#32).extractLsb' 0 3).toNat
    (preempt → ¬ restore → ∃ t, exec .rte s = .next t ∧ tabGet t.waves s.iss.key = none ∧ (t.wg w.wg).sbuf = [] ∧
      ((tabGet (s.padAll w.wg).wgs w.wg).isSome = true →
        tabGet (t.wg w.wg).kept w.index = some (w.lanes.map (fun x => ⟨x.store, x.spill⟩)))) ∧
    (¬ (preempt ∧ ¬ restore) → returnForbidden s w → ∃ t, exec .rte s = .next t ∧ tabGet t.grids s.curGrid = none ∧
      s.errors.seq < t.errors.seq) ∧
    (¬ preempt → ¬ restore → ¬ returnForbidden s w → ((w.hidden.wave.getD 7 0#32).extractLsb' 0 4) = 0#4 →
      (∃ l < 32, (w.lane l).state.live = true ∧ 1 ≤ code l ∧ code l ≤ 3) →
      ∃ t, exec .rte s = .next t ∧ t.mem = s.mem ∧ t.waves = tabMod s.waves s.iss.key (fun v => { returned v with wait := .none })) ∧
    (restore → ¬ returnForbidden s w → (∃ x ∈ s.waves, x.1 ≠ s.iss.key ∧ (s.wg x.2.wg).drove = (s.wg w.wg).drove ∧ x.2.rteReady = false) →
      ∃ t, exec .rte s = .next t ∧ Only s t (fun v => { v with rteReady := true })) ∧
    (restore → ¬ returnForbidden s w → (tabGet s.droves (s.wg w.wg).drove).map Drove.phase = some .restoring →
      (∀ x ∈ s.waves, x.1 ≠ s.iss.key → (s.wg x.2.wg).drove = (s.wg w.wg).drove → x.2.rteReady = true) →
      ∃ t, exec .rte s = .next t ∧ (t.drove (s.wg w.wg).drove).phase = .resident)

/-- An access through a record traps on rights, bounds, alignment and pages in that order; an offset access on bounds, then
alignment (R47, R48, R51, R50, R386, R378, R34, R36, R37, R45, R362). For LD, LDRO, LDU, LDACQ, ST, STREL, ATOM, RED,
SAMPLE and WAITU that pass the checks at issue with a lawful record: a write through a read-only record raises ACCESS in every lane;
else under OOBMODE 1 an element out of bounds raises BOUNDS; else an element in bounds off its alignment raises MISALIGN;
else one that reaches beyond 2^48 raises ACCESS; else one whose page forbids the access, is malformed, or is absent with
no pager raises ACCESS, a malformed one with its error record. Each trap names the record in INFO, the lanes that fail, and
in FADDR the address the first of them forms; OOBFLAGS notes an element out of bounds. Where the only faults left are
absent pages that a pager serves, a load or an ATOM asks for the page and leaves its wave waiting for it, with its lanes as
the issue found them. LDL, STL, LDP, STP, ATOMP, LDPD, STPD, LDC and STC that pass the checks at issue raise BOUNDS where an active lane's bytes do not lie in its store,
pen, target pen or window, and else MISALIGN where an offset is no multiple of the width; INFO is 16, LANES are those that
fail and FADDR the offset the first of them forms. Nothing else happens. -/
def Obligations.AccessChecks : Prop :=
  (
    ∀ (i : Instr) (s : State) (a : Access), accessRule i s = some a → Passes i s → ¬ illegalNow i s →
      let r := a.record s
      let traps := fun (u : State) (t : TrapReq) => exec i s = .next (u.raise t)
      let refused := fun (e : Elem) => e.inb && (match a.page s e with
        | .denied | .malformed _ => true
        | .absent => !s.servable s.curCtx e.a
        | .ok _ _ _ => false)
      (a.store = true → r.rdonly = true → traps s (a.trap s 0x07 (fun _ => true))) ∧
      ((a.store = true → r.rdonly = false) →
        (r.oob = true → (∃ e ∈ a.es, outside e = true) → traps (oobNoted s a) (a.trap s 0x06 outside)) ∧
        ((r.oob = true → ∀ e ∈ a.es, outside e = false) →
          ((∃ e ∈ a.es, uneven a.w e = true) → traps (oobNoted s a) (a.trap s 0x05 (uneven a.w))) ∧
          ((∀ e ∈ a.es, uneven a.w e = false) → (∃ e ∈ a.es, beyond a.w e = true) →
            traps (oobNoted s a) (a.trap s 0x07 (beyond a.w))))) ∧
      (a.Fits s → (∃ e ∈ a.es, refused e = true) →
        ((∀ e ∈ a.es, e.inb = true → (a.page s e).isBad = false) → traps (oobNoted s a) (a.trap s 0x07 refused)) ∧
        ((∃ e ∈ a.es, e.inb = true ∧ (a.page s e).isBad = true) → ∃ e ∈ a.es, refused e = true ∧
          traps ((oobNoted s a).malformed s.curCtx s.curGrid e.a) (a.trap s 0x07 refused))) ∧
      (a.Fits s → (∀ e ∈ a.es, refused e = false) → (∃ e ∈ a.es, e.inb = true ∧ (a.page s e).isAbsent = true) →
        (a.store = false ∨ ∃ q x d b, i = .atom q x d b) →
        ∃ t e u, exec i s = .next t ∧ e ∈ a.es ∧ e.inb = true ∧ (a.page s e).isAbsent = true ∧
          Only (s.askPage s.curCtx e.a 0) t (fun w => { s.iss.start.getD w with wait := .page s.curCtx (e.a / 2 ^ 16) 0 u }) ∧
          u.cause = 0x07 ∧ u.info = BitVec.ofNat 32 a.q.val ∧ u.iaddr = s.iss.pc ∧ u.resume = s.iss.pc)) ∧
  (
    ∀ (i : Instr) (s : State) (w : Nat) (es : List Elem), offsetRule i s = some (w, es) → Passes i s →
      let traps := fun (cause : Nat) (fs : List Elem) =>
        exec i s = .next (s.raise (trapAt s cause 16 (laneSet fs) (BitVec.ofNat 48 (faddrOf fs))))
      ((∃ e ∈ es, e.inb = false) → traps 0x06 (es.filter outside)) ∧
      ((∀ e ∈ es, e.inb = true) → (∃ e ∈ es, e.va % (w : Int) ≠ 0) → traps 0x05 (es.filter (fun e => decide (e.va % (w : Int) ≠ 0)))))

/-- The loads through a record leave the lanes at next_pc and owe each the bytes its element holds (R204, R206, R47, R48, R52,
R55, R56, R57, R85, R104, R202, R208). LD, LDRO, LDACQ, LDU, SAMPLE and LDF that pass the checks at issue with a lawful
record, their elements passing every check, mapped and sound, answer a next state in which the active lanes stand at
next_pc and a result is owed: to each lane the words of its width, sign-extended or not, from the bytes at its element,
which are the workgroup's own buffered stores, else what its core has committed, else memory (for LDRO and SAMPLE through
the path cache, whose lines the access brings in); zero out of bounds. LDU owes the s registers the words of its one
element. SAMPLE owes four channels blended from the texels of non-zero weight about the clamped coordinates. LDF, whose
elements take the size of the format of BASE's page, owes the FP32 value of each lane's element: widened exactly, or for a
grouped page s × (q − z) by its scale entry, rounded once; a raw page at BASE or another size raises FORMAT (its INFO 0 is
the model's choice, log entry 49). A discarded destination is owed nothing, and an LDACQ holds the lane's later accesses.
Beyond OOBFLAGS, the ACCESSED bits of the leaves, the cached translations and the counts of hot pages nothing else
changes. -/
def Obligations.RecordLoads : Prop :=
  (∀ (i : Instr) (s : State) (a : Access), accessRule i s = some a → Passes i s → ¬ illegalNow i s →
    a.Fits s → a.Mapped s → a.Sound s →
    let u := a.seen s
    let p := ((a.reached s).map (fun x => lineOf x.2.pa)).eraseDups.foldl (fun t l => t.pathFill s.curCore l) u
    let word := fun (w : Width) (f : Nat → Nat) (l : Nat) => match a.home s l with
      | some pa => loaded w (f pa)
      | none => zeros w
    let through := fun (w : Width) (pa : Nat) => seenNumber u s.curCore s.curWg pa w.bytes
    let path := fun (w : Width) (pa : Nat) => pathNumber p s.curCore s.curWg pa w.bytes
    let lanes := fun (w : Width) (f : Nat → Nat) => (lanesOf s.active).map (fun l => (l, word w f l))
    let owes := fun (v : State) (w : Width) (d : VDst) (f : Nat → Nat) (acq : Bool) => ∃ t, exec i s = .next t ∧ (match d with
      | .reg r => Only { v with fresh := v.fresh + 1 } t
          (owing s (slot v .load (.vec (s.src.wb + r.val) w.regs) (lanes w f) acq))
      | .discard => Only v t (fun x => x.advanced s sameLane))
    (∀ q w x d b, i = .ld q w x d b → owes u w d (through w) false) ∧
    (∀ q w x d b, i = .ldacq q w x d b → owes u w d (through w) true) ∧
    (∀ q w x d b, i = .ldro q w x d b → owes p w d (path w) false) ∧
    (∀ q w x d b, i = .ldu q w x d b → ∃ t, exec i s = .next t ∧
      Only { u with fresh := u.fresh + 1 } t (owing s (slot u .load (.uni d.val w.regs)
        [(0, match a.reached s with
          | y :: _ => loaded w (through w y.2.pa)
          | [] => zeros w)] false))) ∧
    (∀ q f x d b, i = .sample q f x d b →
      let texels := fun (l : Nat) => ((laneTexels s (a.record s) b l).zip ((a.reached s).filter (fun y => decide (y.1.lane = l)))).map
        (fun y => (y.1.2, (List.range (texelBytes f)).map (fun k => p.pathByte s.curCore s.curWg (y.2.2.pa + k))))
      ∃ t, exec i s = .next t ∧ Only { p with fresh := p.fresh + 1 } t (owing s (slot p .load (.vec (s.src.wb + d.val) 4)
        ((lanesOf s.active).map (fun l => (l, if texels l = [] then [0#32, 0#32, 0#32, 0#32] else sampleOf f (texels l)))) false)))) ∧
  (∀ (q : QReg) (x : MemMod) (d : VDst) (b : VSrc) (s : State),
    let i := Instr.ldf q x d b
    let r := Rec.ofBits (s.src.qreg q.val)
    let inb := (lanesOf s.active).filter (fun l => decide ((s.src.v32 l b).toNat < r.extent))
    let base := s.translate s.curCore s.curCtx r.base .read
    Passes i s → ¬ illegalNow i s → (r.oob = true → ∀ l ∈ lanesOf s.active, l ∈ inb) →
    let owes := fun (u : State) (value : Nat → Word) => ∃ t, exec i s = .next t ∧ (match d with
      | .reg k => Only { u with fresh := u.fresh + 1 } t (owing s (slot u .load (.vec (s.src.wb + k.val) 1)
          ((lanesOf s.active).map (fun l => (l, [value l]))) false))
      | .discard => Only u t (fun w => w.advanced s sameLane))
    (inb = [] → owes ((formatAccess s q b 8).seen s) (fun _ => 0#32)) ∧
    (inb ≠ [] → ∀ pa leaf page, base = .ok pa leaf page → formatBits leaf = 0 →
      exec i s = .next ((oobNoted s (formatAccess s q b 8)).raise (trapAt s 0x08 0 (maskOf (fun l => decide (l ∈ inb))) (BitVec.ofNat 48 r.base)))) ∧
    (inb ≠ [] → ∀ pa leaf page, base = .ok pa leaf page → formatBits leaf ≠ 0 →
      let bits := formatBits leaf
      let v := s.touchAll s.curCore false (inb.map (fun _ => base))
      let a := formatAccess v q b bits
      a.Fits v → a.Mapped v → a.Sound v →
      let es := a.reached v
      let bit := formatBit v b bits
      let scaleAt := fun (y : Elem × Trans) => v.translate v.curCore v.curCtx (scaleVaOf y (bit y.1.lane)) .read
      ((∃ y ∈ es, formatBits y.2.leaf ≠ bits) → exec i s = .next ((a.seen v).raise
        (a.trap v 0x08 (fun e => es.any (fun y => decide (y.1 = e) && decide (formatBits y.2.leaf ≠ bits))) |> fun t => { t with info := 0#32 }))) ∧
      ((∀ y ∈ es, formatBits y.2.leaf = bits) →
        (∀ y ∈ es, isGrouped y.2.leaf = true → ∃ sa sl sp, scaleAt y = .ok sa sl sp ∧ formatOf sl = 0 ∧
          v.sideWaits v.curCore v.curWg v.curCtx (scaleVaOf y (bit y.1.lane)) = false ∧ v.poisonedRead v.curCore v.curWg sa 4 = false) →
        let u := (a.seen v).touchAll v.curCore false ((es.filter (fun y => isGrouped y.2.leaf)).map scaleAt)
        let number := fun (pa n : Nat) => seenNumber u u.curCore u.curWg pa n
        owes u (fun l => match es.find? (fun y => decide (y.1.lane = l)) with
          | some y => decoded y.2.leaf (number y.2.pa a.w / 2 ^ bit l % 2 ^ bits) (number (scaleAt y).pa 4)
          | none => 0#32))))

/-- ST and STREL put their bytes where the workgroup sees them and nothing else (R204, R85, R86, R87, R106, R388, R51). ST
that passes the checks at issue with a lawful record, its elements passing every check and each page present or served by
a pager, answers a next state in which the active lanes stand at next_pc, every byte of memory is as the walks left it,
and the workgroup sees at every physical address the byte of the highest lane that stores there, and elsewhere what it
saw; the lines of absent pages have gone to the side log, an entry each, and their pages are asked for. STREL first
releases at its scope; where nothing holds the release its store follows, committed at cluster or wider, and else its lanes
are held. (Where a paddock access carried out by the release meets lost data that ends the wave's drove, no more is done.)
Beyond OOBFLAGS, the marks of the walks, the cached translations and the counts of hot pages a store changes only its
workgroup's store buffer with the lines noted there; of its core what is committed, the path lines a commit drops and the
side log; and where the buffer is full, SBOVF of its grid and the replayable period of its drove. -/
def Obligations.RecordStores : Prop :=
  (∀ (s : State) (a : Access) (q : QReg) (w : Width) (x : MemMod) (d b : VSrc), accessRule (.st q w x d b) s = some a →
    Passes (.st q w x d b) s → ¬ illegalNow (.st q w x d b) s → a.Fits s → atHome s → a.Stored s →
    ∃ t, exec (.st q w x d b) s = .next t ∧ StoredTo (a.seen s) t (a.cells s (storeBytes s w d))
      (a.sideEntries s none (storeBytes s w d)) (a.goneLines s)) ∧
  (∀ (s : State) (a : Access) (q : QReg) (w : Width) (x : ScopeMod) (d b : VSrc), accessRule (.strel q w x d b) s = some a →
    Passes (.strel q w x d b) s → ¬ illegalNow (.strel q w x d b) s → a.Fits s → atHome s → a.Stored s →
    let v := releasedAt s x.scope.code
    (Stays s v → v.releaseWaits s.curWg x.scope = false → ∀ e : Access, accessRule (.strel q w x d b) v = some e → e.Fits v →
      e.Stored v → atHome v →
      ∃ t u, exec (.strel q w x d b) s = .next t ∧ StoredTo (e.seen v) u (e.cells v (storeBytes v w d))
        (e.sideEntries v none (storeBytes v w d)) (e.goneLines v) ∧ t = (if 3 ≤ x.scope.code then u.commit s.curWg else u)) ∧
    (Stays s v → v.releaseWaits s.curWg x.scope = true → ∃ t, exec (.strel q w x d b) s = .next t ∧
      Only v t (fun w => (v.iss.start.getD w).lanesBy v.active (fun _ x => { x with state := .stalled }))) ∧
    (¬ Stays s v → exec (.strel q w x d b) s = .next v))

/-- RECSET, RECGET and RECLD move records; PREF and CACHE change no value (R209, R205, R210, R50). RECSET that passes the
checks at issue writes the record from four s registers and RECGET four s registers from the record. RECLD of a 16-byte
aligned address below 2^48 whose page can be read and whose data is sound owes the record its sixteen bytes; an address
off its alignment raises MISALIGN, and else one beyond the space ACCESS, each with no record and the address in FADDR.
PREF and CACHE leave the lanes at next_pc and only ask for the lines of the lanes that pass every check: their walks mark
the leaves. PREF does no more. CACHE writes each such line back, which performs what the core has committed of it, and an
invalidation drops the core's older copy of it too; a line of which some workgroup of the core holds buffered stores stays
as it is. Nothing else changes. -/
def Obligations.RecordRegisters : Prop :=
  (∀ (q : QReg) (a : SReg) (s : State), Passes (.recset q a) s → ∃ t, exec (.recset q a) s = .next t ∧
    Only s t (fun w => { w.advanced s sameLane with
      q := giveQ s q.val (s.src.sreg (a.val + 3) ++ s.src.sreg (a.val + 2) ++ s.src.sreg (a.val + 1) ++ s.src.sreg a.val) w.q })) ∧
  (∀ (q : QReg) (d : SReg) (s : State), Passes (.recget q d) s → ∃ t, exec (.recget q d) s = .next t ∧
    Only s t (fun w => { w.advanced s sameLane with
      s := (List.range 4).foldl (fun rs k => s.giveS (d.val + k) ((s.src.qreg q.val).extractLsb' (32 * k) 32) rs) w.s })) ∧
  (∀ (q : QReg) (a : SReg) (s : State), Passes (.recld q a) s →
    let va := (s.src.sreg64 a.val).toNat
    let x : Access := ⟨0, 16, false, (lanesOf s.active).map (fun l => ⟨l, true, (va : Int)⟩)⟩
    let trap := fun (cause : Nat) => exec (.recld q a) s = .next (s.raise (trapAt s cause 16 s.active (BitVec.ofNat 48 va)))
    (va % 16 ≠ 0 → trap 0x05) ∧ (va % 16 = 0 → 2 ^ 48 ≤ va → trap 0x07) ∧
    (va % 16 = 0 → va < 2 ^ 48 → x.Mapped s → x.Sound s → s.active ≠ 0#32 → ∃ t, exec (.recld q a) s = .next t ∧
      Only { x.seen s with fresh := s.fresh + 1 } t (owing s (slot (x.seen s) .record (.recd q.val)
        [(0, match x.reached s with
          | y :: _ => loaded .w16 (seenNumber (x.seen s) s.curCore s.curWg y.2.pa 16)
          | [] => [])] false)))) ∧
  (let asked := fun (s : State) (q : QReg) (w : Width) (o : Int) (b : VSrc) =>
      ((elemsOf (Rec.ofBits (s.src.qreg q.val)) s.active o w.bytes (fun l => s.src.v32 l b)).filter
        (fun e => e.inb && !uneven w.bytes e && !beyond w.bytes e)).map (fun e => s.translate s.curCore s.curCtx e.a .read);
    (∀ (s : State) (q : QReg) (w : Width) (x : MemMod) (b : VSrc), Passes (.pref q w x b) s → ¬ badRecord (s.src.qreg q.val) →
      ∃ t, exec (.pref q w x b) s = .next t ∧ Only (s.touchAll s.curCore false (asked s q w x.offset b)) t
        (fun v => v.advanced s sameLane)) ∧
    (∀ (i : Instr) (s : State) (q : QReg) (w : Width) (b : VSrc) (drop : Bool),
      ((i = .cacheWb q w b ∧ drop = false) ∨ (i = .cacheInv q w b ∧ drop = true)) → Passes i s → ¬ badRecord (s.src.qreg q.val) →
      let ts := asked s q w 0 b
      let lines := (ts.filterMap (fun x => match x with
        | .ok pa _ _ => some (s.homeOf pa / 128)
        | .absent | .denied | .malformed _ => none)).eraseDups
      ∃ t, exec i s = .next t ∧ Only (lines.foldl (fun u l => cachedLine s.curCore drop l u) (s.touchAll s.curCore false ts)) t
        (fun v => v.advanced s sameLane)))

/-- LDL owes and STL writes the bytes of each lane's own store; LDP, STP and ATOMP act on the pen of the workgroup at once,
and PENPASS counts their passes (R34, R207, R36, R38, R39, R40, R41, R95, R211, R213, R214, R415). LDL that passes the
checks at issue with every offset in bounds and aligned owes each active lane the words of its width from its lane store;
a discarded destination is owed nothing. STL writes the bytes into each active lane's store. The active lanes stand at
next_pc and nothing else changes: no byte of memory, no other lane's store. LDP that passes the checks at issue with every
offset in bounds and aligned, no word of it poisoned, writes each active lane the words of its width from the pen. STP
leaves at every pen address the byte of the highest lane that stores there, and elsewhere what was there. ATOMP carries
out the operation lane after lane, each lane on what the one before left, and writes each lane the old value. PENPASS
rises by the passes of the access, the lanes stand at next_pc, and no other register, no memory and no other workgroup's
pen changes. -/
def Obligations.StoreAndPenAccess : Prop :=
  (
    (∀ (w : Width) (x : MemMod) (d : VDst) (a : VSrc) (s : State), Passes (.ldl w x d a) s →
      let es := s.laneElems w.bytes x.offset a
      offsetsFit w.bytes es →
      let words := es.map (fun e => (e.lane, loaded w (natOfBytes ((List.range w.bytes).map (fun k => s.src.storeByte e.lane (e.a + k))))))
      ∃ t, exec (.ldl w x d a) s = .next t ∧ (match d with
        | .reg r => Only { s with fresh := s.fresh + 1 } t (owing s (slot s .load (.vec (s.src.wb + r.val) w.regs) words false))
        | .discard => Only s t (fun v => v.advanced s sameLane))) ∧
    (∀ (w : Width) (x : MemMod) (d a : VSrc) (s : State), Passes (.stl w x d a) s →
      offsetsFit w.bytes (s.laneElems w.bytes x.offset a) → ∃ t, exec (.stl w x d a) s = .next t ∧
        Only s t (fun v => v.advanced s (fun l y => { y with
          store := ((storeBytes s w d l).mapIdx (fun k b => ((((s.src.v32 l a).toNat : Int) + x.offset).toNat + k, b))).foldl
            (fun m c => tabSet m c.1 c.2) y.store })))) ∧
  (
    (∀ (w : Width) (d : VDst) (a : VSrc) (off : BitVec 7) (s : State), Passes (.ldp w d a off) s →
      let es := s.penElems a off w.bytes
      offsetsFit w.bytes es → s.penLost s.curWg w.bytes es = [] → atHome s →
      let word := fun (l : Nat) => loaded w (natOfBytes ((List.range w.bytes).map (fun k =>
        s.penByte s.curWg (((s.src.v32 l a).toNat + off.toNat * w.bytes) % 2 ^ 32 + k))))
      ∃ t, exec (.ldp w d a off) s = .next t ∧
        Only (s.claimWindow es) t (fun v => { v.advanced s (fun l x => giveWords s d l (word l) x) with
          penpass := v.penpass + BitVec.ofNat 32 (passesOf w.bytes (es.map (fun e => (e.lane, e.a)))) })) ∧
    (∀ (w : Width) (d a : VSrc) (off : BitVec 7) (s : State), Passes (.stp w d a off) s →
      let es := s.penElems a off w.bytes
      offsetsFit w.bytes es → atHome s → ∃ t, exec (.stp w d a off) s = .next t ∧ PenFrame s t (namesWindow es) ∧
        t.waves = tabMod s.waves s.iss.key (fun v => { v.advanced s sameLane with
          penpass := v.penpass + BitVec.ofNat 32 (passesOf w.bytes (es.map (fun e => (e.lane, e.a)))) }) ∧
        (∀ b, t.penByte s.curWg b = (lastAt (offsetCells es (storeBytes s w d)) b).getD (s.penByte s.curWg b)) ∧
        ∀ k, k ∈ (t.wg s.curWg).penPoison ↔ k ∈ (s.wg s.curWg).penPoison ∧ ¬ wholeWord w.bytes es k) ∧
    (∀ (op : Aop) (d : VReg) (a : VSrc) (off : BitVec 7) (spare : BitVec 6) (s : State), Passes (.atomp op d a off spare) s →
      let es := s.penElems a off (aopBytes op)
      offsetsFit (aopBytes op) es → s.penLost s.curWg (aopBytes op) es = [] → atHome s →
      let run := atomRun op (fun _ => false) (fun l => s.src.groupOperands l op d) (es.map (fun e => (e.lane, e.a))) (s.penByte s.curWg)
      ∃ t, exec (.atomp op d a off spare) s = .next t ∧ PenFrame s t (namesWindow es) ∧
        t.waves = tabMod s.waves s.iss.key (fun v => { v.advanced s (fun l x => giveWords s (.reg d) l (atomResult op run.1 l) x) with
          penpass := v.penpass + BitVec.ofNat 32 (atomPasses (aopBytes op) (es.map (fun e => (e.lane, e.a)))) }) ∧
        (∀ b, t.penByte s.curWg b = run.2 b) ∧ (t.wg s.curWg).penPoison = (s.wg s.curWg).penPoison))

/-- The paddock takes a queued access for each rank, the commons act at once (R37, R41, R45, R88, R96, R97, R201, R211, R415).
LDPD and STPD that pass the checks at issue with every address in bounds and aligned queue one access for each rank their
lanes name, in rank order, with the lanes' offsets and for a store their bytes; LDPD owes its destination the words, and an
STPD to another rank ends the drove's replayable period. LDC owes each lane the words at its offset of the commons, where
no block of it is lost; STC leaves at every offset of the commons the byte of the highest lane that stores there, a block
it writes whole is lost no more, and it ends the replayable period. The lanes stand at next_pc and nothing else changes: no
byte of memory, no pen and no register. PADDOCK_ACCESS_PERFORM of the first access of its wave to its rank takes it from
the queue and counts its passes to the wave, also in the value RTE restores where the wave has entered its handler since;
for a store it leaves in the target pen the bytes it carries, lane after lane, and for a load, where no word is lost, it
delivers the words of its lanes to the result that waits for them. Nothing else changes. -/
def Obligations.PaddockAndCommons : Prop :=
  (∀ (w : Width) (d : VDst) (a : VSrc) (off : BitVec 7) (s : State), Passes (.ldpd w d a off) s →
    let es := s.padElems a off w.bytes
    offsetsFit w.bytes es → ∃ t, exec (.ldpd w d a off) s = .next t ∧ (match d with
      | .reg r =>
        let new := padRule s w es false (fun _ => []) (some s.fresh) (s.fresh + 1)
        Only { s with fresh := s.fresh + 1 + new.length, cores := queuedOn s new } t
          (owing s (slot s .load (.vec (s.src.wb + r.val) w.regs) [] false))
      | .discard =>
        let new := padRule s w es false (fun _ => []) none s.fresh
        Only { s with fresh := s.fresh + new.length, cores := queuedOn s new } t (fun v => v.advanced s sameLane))) ∧
  (∀ (w : Width) (d a : VSrc) (off : BitVec 7) (s : State), Passes (.stpd w d a off) s →
    let es := s.padElems a off w.bytes
    let new := padRule s w es true (storeBytes s w d) none s.fresh
    offsetsFit w.bytes es → ∃ t, exec (.stpd w d a off) s = .next t ∧
      Only { s with
        fresh := s.fresh + new.length
        cores := queuedOn s new
        droves := if es.any (fun e => decide (e.a / 2 ^ 20 % 8 ≠ (s.wg s.curWg).rank)) then
          tabMod s.droves (s.wg s.curWg).drove (fun x => { x with replayable := false }) else s.droves } t
        (fun v => v.advanced s sameLane)) ∧
  (∀ (w : Width) (d : VDst) (a : VSrc) (off : BitVec 7) (s : State), Passes (.ldc w d a off) s →
    let es := s.comElems a off w.bytes
    offsetsFit w.bytes es → s.comLost es = [] →
    let words := es.map (fun e => (e.lane, loaded w (natOfBytes ((List.range w.bytes).map (fun k =>
      (s.ctx s.curCtx).commons.get (e.a + k))))))
    ∃ t, exec (.ldc w d a off) s = .next t ∧ (match d with
      | .reg r => Only { s with fresh := s.fresh + 1 } t (owing s (slot s .load (.vec (s.src.wb + r.val) w.regs) words false))
      | .discard => Only s t (fun v => v.advanced s sameLane))) ∧
  (∀ (w : Width) (d a : VSrc) (off : BitVec 7) (s : State), Passes (.stc w d a off) s →
    let es := s.comElems a off w.bytes
    let cells := offsetCells es (storeBytes s w d)
    let old := s.ctx s.curCtx
    offsetsFit w.bytes es → (tabGet s.ctxs s.curCtx).isSome = true → old.commons.wf = true →
    ∃ (t : State) (m : Memory) (lost : List Nat), exec (.stc w d a off) s = .next t ∧
      Only { s with
        ctxs := tabMod s.ctxs s.curCtx (fun c => { c with commons := m, commonsPoison := lost })
        droves := tabMod s.droves (s.wg s.curWg).drove (fun x => { x with replayable := false }) } t
        (fun v => v.advanced s sameLane) ∧
      m.wf = true ∧ (∀ b, m.get b = (lastAt cells b).getD (old.commons.get b)) ∧
      ∀ b, b ∈ lost ↔ b ∈ old.commonsPoison ∧ ∃ k < 128, ∀ c ∈ cells, c.1 ≠ 128 * b + k) ∧
  (∀ (s : State) (core : Nat) (p : PadAcc), (s.core core).paddock.find? (fun x => decide (x.id = p.id)) = some p →
    (s.core core).paddock.find? (fun x => decide (x.wave = p.wave) && decide (x.rank = p.rank)) = some p →
    let taken := tabSet s.cores core { s.core core with paddock := (s.core core).paddock.filter (fun x => decide (x.id ≠ p.id)) }
    (p.store = true → (∀ x ∈ p.parts, x.2.1 + x.2.2.length ≤ 0x100000) →
      ∃ (t : State) (pen : Tab Byte) (lost : List Nat), exec (.paddockAccessPerform core p.id) s = .next t ∧
        t = { s with
          cores := taken
          waves := tabMod s.waves p.wave (passCounted p)
          wgs := if p.parts = [] then s.wgs else tabMod s.wgs p.target (fun g => { g with pen := pen, penPoison := lost }) } ∧
        ((tabGet s.wgs p.target).isSome = true → p.parts ≠ [] → ∀ b, b < 0x100000 → t.penByte p.target b =
          (lastAt (p.parts.foldl (fun cs x => cs ++ x.2.2.mapIdx (fun k y => (x.2.1 + k, y))) []) b).getD (s.penByte p.target b)) ∧
        ((tabGet s.wgs p.target).isSome = true → ∀ k ∈ lost, k ∈ (s.wg p.target).penPoison)) ∧
    (p.store = false → (∀ x ∈ p.parts, ∀ k ∈ wordsOf x.2.1 p.width, k ∉ (s.wg p.target).penPoison) →
      exec (.paddockAccessPerform core p.id) s = .next { s with
        cores := taken
        waves := tabMod (tabMod s.waves p.wave (passCounted p)) p.wave (fun w => { w with
          owed := w.owed.map (fun o => if p.owed = some o.id then
            { o with data := p.parts.foldl (fun d x =>
                tabSet d x.1 (p.words ((List.range p.width).map (fun k => s.penByte p.target (x.2.1 + k))))) o.data }
            else o) }) }))

/-- ATOM and RED act lane after lane on memory, and ATOM owes each lane the old value (R213, R214, R215, R94, R50, R201,
R202, R8, R388, R395). ATOM and RED that pass the checks at issue with a lawful record, their elements passing every check and
mapped (for RED also on pages that a pager serves, whose lanes go to the side log), in the state their release, their commit
and the lines of their own have left, with no lost line and no page under collapse, answer a next state in which memory
holds at every address what the lanes leave there, each acting in increasing order on what the one before left by Table
9.7; a read-only field keeps what it holds. ATOM owes each active lane the old value it met, zero out of bounds; RED owes
nothing. The lanes stand at next_pc and nothing else changes but older copies of the lines written, the tethers the writes
satisfy with their wakes, the notes of lines written, and writes of host memory that wait for their acknowledgement. Where a
release of an ordering that releases is not complete, or a page is under collapse, the lanes are held. -/
def Obligations.GlobalAtomics : Prop :=
  ∀ (i : Instr) (s : State) (a : Access) (x : AtomMod), accessRule i s = some a → Passes i s → ¬ illegalNow i s →
    a.Fits s → a.Stored s → s.memOk →
    let rel := x.ord = .rel ∨ x.ord = .ar
    let v := if rel then releasedAt s x.scope.code else s
    let ready := rel → Stays s v ∧ v.releaseWaits s.curWg x.scope = false
    let pas := (a.reached s).map (fun y => y.2.pa)
    let o := (v.commit v.curWg).ownLines pas
    let u := ((oobNoted o a).touchAll s.curCore true ((a.reached s).map Prod.snd)).hotCount s.curCore pas
    let clear := (∀ pa ∈ pas, o.dupOf pa = none) ∧ (∀ pa ∈ pas, o.lost (lineOf pa) = false)
    let run := fun (arg : Nat → Nat × Nat) => atomRun x.op u.readOnly arg ((a.reached s).map (fun y => (y.1.lane, y.2.pa))) u.mem.get
    let stalls := fun (v : State) => ∃ t, exec i s = .next t ∧
      Only v t (fun w => (v.iss.start.getD w).lanesBy v.active (fun _ y => { y with state := .stalled }))
    (∀ q d b, i = .atom q x d b → a.Mapped s → ready → clear → ∃ t, exec i s = .next t ∧
        (∀ pa, t.mem.get pa = (run (fun l => s.src.groupOperands l x.op d)).2 pa) ∧
        t.waves = tabMod u.waves s.iss.key (owing s (slot u .atomic (.vec (s.src.wb + d.val) (if aopBytes x.op = 8 then 2 else 1))
          ((lanesOf s.active).map (fun l => (l, atomResult x.op (run (fun l => s.src.groupOperands l x.op d)).1 l)))
          (decide (x.ord = .acq ∨ x.ord = .ar)))) ∧ t.fresh = u.fresh + 1 ∧ t.cores = u.cores ∧ AtomFrame u t []) ∧
    (∀ q d b, i = .red q x d b → ready → clear → ∃ t, exec i s = .next t ∧
        (∀ pa, t.mem.get pa = (run (fun l => (s.src.redOperand l x.op d, 0))).2 pa) ∧
        t.waves = tabMod u.waves s.iss.key (fun w => w.advanced s sameLane) ∧ t.fresh = u.fresh ∧
        (t.core s.curCore).sideLog = (u.core s.curCore).sideLog ++
          a.sideEntries s (some x.op) (fun l => bytesOfNat (aopBytes x.op) (s.src.redOperand l x.op d)) ∧
        AtomFrame u t (a.goneLines s)) ∧
    ((∃ q d b, i = .atom q x d b ∧ a.Mapped s) ∨ (∃ q d b, i = .red q x d b) →
      (rel → Stays s v → v.releaseWaits s.curWg x.scope = true → stalls v) ∧
      (ready → (∃ pa ∈ pas, o.dupOf pa ≠ none) → stalls o) ∧ (rel → ¬ Stays s v → exec i s = .next v))

/-- The fences wait for their release, and FENCE.RO drops what the path cache holds (R216, R217, R86, R90, R91, R104, R107,
R271). FENCE.ACQ carries out the paddock accesses of its workgroup, but at lane scope, and leaves the lanes at next_pc.
FENCE.REL, FENCE.AR and FENCE.SC first release at their scope (beyond lane scope the paddock accesses of the workgroup are
carried out; at cluster or wider its store buffer is committed and what the core has committed is performed) and then leave
the lanes at next_pc; where something still holds the release the lanes are held at the instruction. FENCE.RO drops the
whole path cache and weight cache of the core at scope cluster or wider, where it first carries out the paddock accesses
too, and at a narrower one the lines that the workgroup's own stores have touched; what the workgroup has buffered is seen
by its path reads from then on. (Where a paddock access meets lost data that ends the wave's drove, no more is done.)
Nothing else changes. -/
def Obligations.FencesRelease : Prop :=
  (∀ (c : Scope) (s : State), Passes (.fenceAcq c) s →
    let u := if c = .lane then s else s.padAll s.curWg
    (Stays s u → ∃ t, exec (.fenceAcq c) s = .next t ∧ Only u t (fun w => w.advanced u sameLane)) ∧
    (¬ Stays s u → exec (.fenceAcq c) s = .next u)) ∧
  (∀ (c : Scope) (s : State) (i : Instr), (i = .fenceRel c ∨ i = .fenceAr c ∨ i = .fenceSc c) → Passes i s →
    let u := releasedAt s c.code
    (Stays s u → u.releaseWaits s.curWg c = false → ∃ t, exec i s = .next t ∧ Only u t (fun w => w.advanced u sameLane)) ∧
    (Stays s u → u.releaseWaits s.curWg c = true → ∃ t, exec i s = .next t ∧
      Only u t (fun w => (u.iss.start.getD w).lanesBy u.active (fun _ x => { x with state := .stalled }))) ∧
    (¬ Stays s u → exec i s = .next u)) ∧
  (∀ (c : Scope) (s : State), Passes (.fencero c) s →
    let wide := c ∉ [Scope.lane, Scope.wave, Scope.group]
    let u := if wide then s.padAll s.curWg else s
    let core := (u.wg u.curWg).core
    let dropped := fun (k : Core) => if wide then { k with path := [], weights := [] }
      else { k with path := k.path.filter (fun l => !(u.wg u.curWg).roTouched.contains l.1) }
    (Stays s u → ∃ t, exec (.fencero c) s = .next t ∧ Only { u with
        cores := tabSet u.cores core (dropped (u.core core))
        wgs := tabMod u.wgs u.curWg (fun g => { g with roTouched := [], roSeen := g.sbuf }) } t
      (fun w => w.advanced u sameLane)) ∧
    (¬ Stays s u → exec (.fencero c) s = .next u))

/-- A commit hides nothing, a committed line is performed as one step, and a walk only marks its leaf (R85, R86, R91, R99,
R102, R377, R378, R391, R395, R409, R8). A translation leaves no mark in memory but on its leaf: where the entry was not
cached the byte of the leaf with the flags takes ACCESSED, and for a write through an entry whose DIRTY is 0 it takes DIRTY;
every other byte of memory, every wave, workgroup, context and grid is as it was, and the core then holds the entry with
those bits. Counting hot pages changes the memory dies only. A commit empties the store buffer and leaves every byte as the
workgroup sees it, with memory as it was. COMMITTED_STORE_PERFORM of a line that is no page under collapse takes it from
what the core has committed and puts its bytes into memory, but for read-only fields, and nowhere else; each tether those
bytes satisfy is freed and its wake posted with the value; the other cores keep the bytes of the line they had as older
copies. Where the line lies in a duplicated page it stays committed and the collapse of the page begins. -/
def Obligations.MemoryChanges : Prop :=
  (∀ (s : State) (core : Nat) (x : TlbEntry) (write : Bool), s.memOk →
    let held := x ∈ (s.core core).tlb ∨ x ∈ (s.sites.getD (coreSite core) (Site.init false)).tlb
    let first := write = true ∧ pteDirty x.leaf = false
    let t := s.touch core x write
    (∀ b, t.mem.get b = if b = x.leafPa then s.mem.get b ||| (if held then 0#8 else 0x40#8) ||| (if first then 0x80#8 else 0#8)
      else s.mem.get b) ∧
    t.waves = s.waves ∧ t.wgs = s.wgs ∧ t.ctxs = s.ctxs ∧ t.grids = s.grids ∧ t.droves = s.droves ∧ t.iss = s.iss ∧
    (∀ k, k ≠ core → t.core k = s.core k) ∧ { t.core core with tlb := (s.core core).tlb } = s.core core ∧
    { x with leaf := x.leaf ||| ((if held then 0 else 0x40) ||| (if first then 0x80 else 0)) } ∈ (t.core core).tlb) ∧
  (∀ (s : State) (core : Nat) (pas : List Nat), { s.hotCount core pas with dies := s.dies } = s ∧
    (s.hotOn = false → s.hotCount core pas = s)) ∧
  (∀ (s : State) (wg : Nat), (tabGet s.wgs wg).isSome = true →
    ((s.commit wg).wg wg).sbuf = [] ∧ (s.commit wg).mem = s.mem ∧ (s.commit wg).waves = s.waves ∧
    ∀ pa, (s.commit wg).viewByte (s.wg wg).core wg pa = s.viewByte (s.wg wg).core wg pa) ∧
  (∀ (s : State) (core : Nat) (c : Committed), s.memOk →
    (s.core core).committed.find? (fun x => decide (x.line = c.line)) = some c → tabRising c.bytes = true →
    (∀ x ∈ s.waves, x.2.wait ≠ .gbar) →
    (s.dupOf (c.line * 128) = none → ∃ t, exec (.committedStorePerform core c.line) s = .next t ∧
      { t with
        mem := s.mem
        cores := s.cores
        old := s.old
        tethers := s.tethers
        freed := s.freed
        wakes := s.wakes
        poisoned := s.poisoned
        hostWrites := s.hostWrites } = s ∧
      (∀ b, t.mem.get b = if s.readOnly b then s.mem.get b else (tabGet c.bytes b).getD (s.mem.get b)) ∧
      t.cores = tabSet s.cores core { s.core core with
        committed := (s.core core).committed.filter (fun x => decide (x.line ≠ c.line)) } ∧
      t.tethers = s.tethers.filter (fun h => !(c.bytes.any (fun y => !s.readOnly y.1 && decide (h.pa ≤ y.1 ∧ y.1 < h.pa + h.bytes)) &&
        cmpHolds h.cmp h.wide (t.mem.nat h.pa h.bytes) h.opnd)) ∧
      (∀ h ∈ s.tethers, h ∉ t.tethers → (⟨h.waiter, t.mem.nat h.pa h.bytes, 0⟩ : Wake) ∈ t.wakes) ∧
      ∀ k ∈ s.cores.map Prod.fst, k ≠ core → ∃ o ∈ t.old, o.core = k ∧ o.line = c.line ∧
        o.bytes = (List.range 128).map (fun i => s.homeByte k (c.line * 128 + i))) ∧
    (∀ k, s.dupOf (c.line * 128) = some k → ∃ t, exec (.committedStorePerform core c.line) s = .next t ∧
      { t with dups := s.dups } = s ∧ (∀ d, tabGet t.dups k = some d → d.acks.isSome = true)))

/-- An owed result arrives in its destination and nothing else changes (R201, R24, R171, R184, R78, R160, R390, R389, R388).
LOAD_RETURN for a load, atomic or record with no paddock access left to deliver into it, DIVIDE_RESULT for the oldest
division of its wave, and FDIV_RESULT for the oldest FDIV bring the result: the live lanes it names take their words and its
exceptions join FPFLAGS; where a shadow check of it failed no lane is written, each live lane's register is left to trap at
its reader, and the unit is found faulty. Lanes held for registers issue again; a wave held for an FDIV goes on with the
last of them. LAUNCH_STATUS answers the first lane of a LAUNCH without an answer: status 1 at depth 10, 5 with the context's
queue full, the status the check of its record gives, else 0 with the handle of a child that joins its context's queue; a
lane whose record waits for a page waits on. SIDE_LOG_REPLAY of a plain write, first of its page, whose page now allows it
and is not duplicated, commits the workgroup's buffer, takes the entry from the log and performs its bytes after those the
core has committed of the line; a read-only field keeps what it holds. Of a page that refuses the write the entry leaves the
log, and ACCESS falls due in the wave that issued it. -/
def Obligations.ResultsArrive : Prop :=
  (∀ (s : State) (key id : Nat) (w : Wave) (o : Owed), tabGet s.waves key = some w →
    w.owed.find? (fun x => decide (x.id = id)) = some o → o.arrived = false → allIn s key id →
    o.kind = .load ∨ o.kind = .atomic ∨ o.kind = .record →
    exec (.loadReturn key id) s = .next { s with waves := tabMod s.waves key (arrivedWave o) }) ∧
  (∀ (s : State) (key : Nat) (w : Wave) (o : Owed), tabGet s.waves key = some w →
    w.owed.find? (fun x => decide (x.id = o.id)) = some o →
    (w.owed.find? (fun x => decide (x.kind = .div) && !x.arrived) = some o →
      exec (.divideResult key o.id) s = .next { s with waves := tabMod s.waves key (arrivedWave o) }) ∧
    (w.owed.find? (fun x => decide (x.kind = .fdiv) && !x.arrived) = some o →
      let t : State := { s with waves := tabMod s.waves key (fun v =>
        let u := arrivedWave o v
        if u.wait = .fdiv ∧ ∀ x ∈ u.owed, x.kind = .fdiv → x.arrived = true then { u with wait := .none } else u) }
      (o.bad = 0#32 → exec (.fdivResult key o.id) s = .next t) ∧
      (o.bad ≠ 0#32 → ∃ u, ShadowFound t key u ∧ exec (.fdivResult key o.id) s = .next u))) ∧
  (∀ (s : State) (key id l : Nat) (ws : List Word) (w : Wave) (o : Owed), tabGet s.waves key = some w →
    w.owed.find? (fun x => decide (x.id = id)) = some o → o.kind = .launch → o.arrived = false → allIn s key id →
    o.data.find? (fun d => decide (d.2.length = 3)) = some (l, ws) →
    let g := s.grid (s.waveGrid key)
    let va := (ws.getD 0 0#32).toNat + 2 ^ 32 * (ws.getD 1 0#32).toNat
    let answered := fun (t : State) (status handle : Nat) => { t with waves := tabMod s.waves key (answeredWave id l status handle) }
    (10 ≤ g.depth → exec (.launchStatus key id) s = .next (answered s 1 0)) ∧
    (g.depth < 10 → 1024 ≤ (s.ctx g.ctx).childq.length → exec (.launchStatus key id) s = .next (answered s 5 0)) ∧
    (g.depth < 10 → (s.ctx g.ctx).childq.length < 1024 →
      (∀ p, s.readLaunch g.ctx va = .wait p → exec (.launchStatus key id) s = .next (s.askPage g.ctx p 0)) ∧
      (∀ st c m, s.readLaunch g.ctx va = .bad st c m →
        let v := s.metPage g.ctx m
        exec (.launchStatus key id) s = .next (answered (if c.records = [] then v else v.signal 0 c (if st = 4 then 1 else st) false) st 0)) ∧
      (∀ c, s.readLaunch g.ctx va = .ok c →
        let v := s.launchSeen g.ctx va
        exec (.launchStatus key id) s = .next (answered { v with
          fresh := v.fresh + 1
          grids := tabSet v.grids v.fresh { c with
            parent := some (s.waveGrid key)
            depth := g.depth + 1
            phase := .queued
            queue := 1024
            child := true
            eligibleAt := s.time.toNat }
          ctxs := tabMod v.ctxs g.ctx (fun x => { x with childq := x.childq ++ [v.fresh] }) } 0 v.fresh)))) ∧
  (∀ (s : State) (core index : Nat) (e : SideEntry), (s.core core).sideLog[index]? = some e →
    (∀ x ∈ (s.core core).sideLog.take index, ¬ (x.ctx = e.ctx ∧ x.va / 65536 = e.va / 65536)) →
    (∀ x ∈ s.waves, x.2.wait ≠ .gbar) →
    let page := ({ s with blockedWalks := [] } : State).translate core e.ctx e.va (.write e.xdata)
    let log := (s.core core).sideLog.eraseIdx index
    (∀ pa leaf x, page = .ok pa leaf x → s.dupOf pa = none → e.red = none → s.memOk →
      let cells := e.writes.foldl (fun cs w => cs ++ w.2.mapIdx (fun i b => (pa + (w.1 - e.va) + i, b))) []
      (∀ c ∈ cells, c.1 / 128 = pa / 128) →
      let v := ((s.commit e.wg).performLine core (pa / 128)).touchAll core true [page]
      ∃ t, exec (.sideLogReplay core index) s = .next t ∧
        (∀ a, t.mem.get a = if s.readOnly a then v.mem.get a else (lastAt cells a).getD (v.mem.get a)) ∧
        t.waves = logFreed core s.waves ∧ t.cores = tabSet v.cores core { v.core core with sideLog := log } ∧
        t.wgs = tabMod v.wgs e.wg (fun g => { g with roTouched := (g.roTouched ++ [pa / 128]).eraseDups }) ∧
        { t with
          mem := v.mem
          waves := v.waves
          cores := v.cores
          wgs := v.wgs
          old := v.old
          tethers := v.tethers
          freed := v.freed
          wakes := v.wakes
          poisoned := v.poisoned
          hostWrites := v.hostWrites } = v) ∧
    (page = .absent → s.servable e.ctx e.va = true → exec (.sideLogReplay core index) s = .next (s.askPage e.ctx e.va 1)) ∧
    (page = .denied → ∀ key w,
      s.waves.find? (fun x => decide (x.2.wg = e.wg) && decide (x.2.index = e.wave) && decide (x.2.live ≠ 0#32)) = some (key, w) →
      exec (.sideLogReplay core index) s = .next { s with
        cores := tabSet s.cores core { s.core core with sideLog := log }
        waves := tabMod (logFreed core s.waves) key (fun v => { v with causes := v.causes ++
          [⟨0x07, BitVec.ofNat 32 (256 + e.recq), e.lanes, e.iaddr, 0#48, BitVec.ofNat 48 ((e.writes.head?.map Prod.fst).getD e.va),
            false, false, false, false⟩] }) }))

/-- WAITU arms a tether at the home of its location, which wakes the wave with the value and a status (R218, R219, R220, R221,
R222, R102, R344, R372, R373). WAITU that passes the checks at issue, its element passing every check, mapped and sound,
leaves the lanes at next_pc and the wave blocked, with a tether for the home address to be armed, once the workgroup's own
stores to the location are committed; out of bounds it gives value 0 and status 3 at once. TETHER_ARM, which waits for a
store its wave's core has committed to the line and not performed, compares as one step at the home: where the comparison
holds a wake with the value and status 2 is posted, else the tether stands in the table of the home die, else in a free
entry of its context's spill area, else it stays parked and an error record says so; TETHER_ARM_RETRY arms a parked one
once the table or the area has room. A tether of a saved wave notes its deadline in the wave's status block. TETHER_WAKE
writes value and status into the s registers and readies the wave, or for a wave at CAIRNW the status alone. TETHER_TIMEOUT
posts the value then at the home with status 1, and removes the tether, whose spill entry is to be written invalid.
SAVED_TETHER_WAKE writes value and status into the status block of a saved wave, and counts a wake for a drove that is
saved or being saved; SAVED_WAVE_DEADLINE counts one for a sleep that is over, where nothing else has. Nothing else changes:
a status block is written in the workgroup, and where it has a save area also there by the hub. -/
def Obligations.Tethers : Prop :=
  (∀ (q : QReg) (wide : Bool) (d : SReg) (b : USrc) (x : WaitMod) (s : State) (a : Access),
    let i := Instr.waitu q wide d b x
    accessRule i s = some a → Passes i s → ¬ illegalNow i s → a.Fits s → a.Mapped s → a.Sound s →
    let u := a.seen s
    (a.reached s = [] → ∃ t, exec i s = .next t ∧
      Only u t (fun w => { w.advanced s sameLane with s := waituRegs s.giveS wide d.val 0 3 w.s })) ∧
    (∀ e pa leaf page r, a.reached s = (e, .ok pa leaf page) :: r →
      let home := ptePa leaf + (e.a - page.va)
      let v := if (List.range a.w).any (fun k => (tabGet (u.wg u.curWg).sbuf (home + k)).isSome) then u.commit u.curWg else u
      let y := if wide then (s.src.sreg x.opnd.val).toNat + 2 ^ 32 * (s.src.sreg (x.opnd.val + 1)).toNat else (s.src.sreg x.opnd.val).toNat
      let tmo := (s.src.sreg x.tmo.val).toNat
      ∃ t, exec i s = .next t ∧ Only { v with
          fresh := v.fresh + 1
          unarmed := v.unarmed ++ [⟨v.fresh, home, wide, x.cmp, y, if tmo = 0 then none else some tmo, s.curCtx, .wave s.iss.key, none,
            false, x.scope⟩] } t
        (fun w => { w.advanced s sameLane with wait := .waitu d.val wide }))) ∧
  (∀ (s : State) (k : Tether) (retry : Bool),
    s.unarmed.find? (fun u => decide (u.id = k.id) && (u.parked == retry)) = some k → opndFits k →
    let i := if retry then Instr.tetherArmRetry k.id else Instr.tetherArm k.id
    let left := s.unarmed.filter (fun u => decide (u.id ≠ k.id))
    let blocked := retry = false ∧ ∃ key c, k.waiter = .wave key ∧ c ∈ (s.core (key / 64)).committed ∧ c.line = k.pa / 128
    let noted := fun (v : State) => match k.waiter, (armed s k).deadline with
      | .saved wg ix, some d => v.setStatus wg ix [(6, BitVec.ofNat 32 d), (7, BitVec.ofNat 32 (d / 2 ^ 32))]
      | _, _ => v
    (blocked → exec i s = .next s) ∧
    (¬ blocked → tetherHolds k (valueAt s k) = true → retry = false ∨ tableFree s k ∨ s.freeSpill k.ctx ≠ none →
      exec i s = .next { s with unarmed := left, wakes := s.wakes ++ [⟨k.waiter, valueAt s k, 2⟩] }) ∧
    (¬ blocked → tetherHolds k (valueAt s k) = false → tableFree s k →
      exec i s = .next (noted { s with unarmed := left, tethers := s.tethers ++ [armed s k] })) ∧
    (¬ blocked → tetherHolds k (valueAt s k) = false → ¬ tableFree s k → ∀ n, s.freeSpill k.ctx = some n →
      n < (s.ctx k.ctx).spillcap ∧ (∀ u ∈ s.tethers, u.ctx = k.ctx → u.spill ≠ some n) ∧
      exec i s = .next (noted (({ s with
        unarmed := left
        tethers := s.tethers ++ [{ armed s k with spill := some n }] } : State).syncSpill k.ctx))) ∧
    (¬ blocked → ¬ tableFree s k → s.freeSpill k.ctx = none →
      (retry = true → exec i s = .next s) ∧
      (retry = false → tetherHolds k (valueAt s k) = false → exec i s = .next (State.report { s with
        unarmed := s.unarmed.map (fun u => if u.id = k.id then { u with parked := true } else u) }
          { Report.plain 0x24 1 with ctx := k.ctx, addr := k.pa })))) ∧
  (∀ (s : State) (wg ix : Nat) (ws : List (Nat × Word)),
    HubFrame { s with wgs := statusSet s wg ix ws } (s.setStatus wg ix ws) ∧
    ((s.wg wg).saveBase = 0 → s.setStatus wg ix ws = { s with wgs := statusSet s wg ix ws }) ∧
    HubFrame s (s.syncSpill ix) ∧ ((∀ u ∈ s.tethers, u.ctx = ix → u.spill = none) → s.syncSpill ix = s)) ∧
  (∀ (s : State) (index key value status : Nat) (w : Wave), s.wakes[index]? = some ⟨.wave key, value, status⟩ →
    tabGet s.waves key = some w →
    let woken := fun (rs : List Word) => exec (.tetherWake index) s = .next { s with
      wakes := s.wakes.eraseIdx index
      waves := tabMod s.waves key (fun v => { v with wait := .none, s := rs }) }
    (∀ d wide, w.wait = .waitu d wide → woken (waituRegs (fun n x rs => rs.set n x) wide d value status w.s)) ∧
    (∀ d, w.wait = .cairnw d → woken (match d with
      | some r => w.s.set r (BitVec.ofNat 32 status)
      | none => w.s))) ∧
  (∀ (s : State) (k : Tether) (n : Nat), s.tethers.find? (fun u => decide (u.id = k.id)) = some k → k.deadline = some n →
    (n ≤ s.time.toNat → exec (.tetherTimeout k.id) s = .next { s with
      tethers := s.tethers.filter (fun u => decide (u.id ≠ k.id))
      freed := s.freed ++ (match k.spill with
        | some j => [(k.ctx, j)]
        | none => [])
      wakes := s.wakes ++ [⟨k.waiter, valueAt s k, 1⟩] }) ∧
    (s.time.toNat < n → exec (.tetherTimeout k.id) s = .next s)) ∧
  (∀ (s : State) (index wg ix value status : Nat) (g : Workgroup), s.wakes[index]? = some ⟨.saved wg ix, value, status⟩ →
    tabGet s.wgs wg = some g → ix < g.status.length →
    let v := ({ s with wakes := s.wakes.eraseIdx index } : State).setStatus wg ix
      [(2, BitVec.ofNat 32 value), (3, BitVec.ofNat 32 (value / 2 ^ 32)), (4, BitVec.ofNat 32 status), (16, 1#32)]
    exec (.savedTetherWake index) s = .next { v with droves := tabMod v.droves g.drove (fun d =>
      if d.phase = .saved ∨ d.phase.halts = true then
        { d with wakes := d.wakes + 1, waitSince := if d.wakes = 0 then s.time.toNat else d.waitSince }
      else d) } ∧
    v.status wg ix 2 = value % 2 ^ 32 ∧ v.status wg ix 3 = value / 2 ^ 32 % 2 ^ 32 ∧ v.status wg ix 4 = status % 2 ^ 32) ∧
  (∀ (s : State) (wg ix : Nat) (d : Drove), tabGet s.droves (s.wg wg).drove = some d → d.phase = .saved → d.wakes = 0 →
    let deadline := s.status wg ix 6 + 2 ^ 32 * s.status wg ix 7
    deadline ≠ 0 → deadline ≤ s.time.toNat →
    exec (.savedWaveDeadline wg ix) s = .next { s with
      droves := tabMod s.droves (s.wg wg).drove (fun d => { d with wakes := 1, waitSince := s.time.toNat }) })

/-- KICK, COPY and ADVANCE hand checked requests to the drover, which numbers, carries out and counts them (R225, R226, R227,
R229, R230, R231, R232, R233, R243, R91, R236). KICK of no record answers the tickets given so far; of more than 64 it raises
BOUNDS, from an address off 32 bytes MISALIGN, and past the pen BOUNDS. KICK, COPY and the next stage of ADVANCE raise the
trap of the first check of R226 that some request of theirs fails; else they release at the widest source scope and commit
the workgroup's stores, and where the release is held or the drover has no room the lanes are held at the instruction, else
the drover has the requests in order with the next tickets, and the destination the last ticket, or for ADVANCE the stage,
which is done with; ADVANCE with no stage left gives 0xFFFFFFFF. (Where a paddock access carried out by the release meets
lost data that ends the wave's drove, no more is done.) WAITC goes on where the count is at most the threshold, and else
blocks the wave; RDCNT reads a count, or DONE. COPY_ROW_COMPLETE of a plain copy within a pen copies the row, credits its
bytes where it credits a fold, and counts the row, the last one taking the request from the drover; COPY_REQUEST_FAIL takes
a failed request, or one whose row no page will serve, out with an error record and credits what was left with ERR, to its
own workgroup's fold where its destination is no pen. Nothing else changes. -/
def Obligations.CopiesAndCounts : Prop :=
  let given := fun (s : State) (d : UDst) (n : Nat) (w : Wave) => { w.advanced s sameLane with s := s.giveU d (BitVec.ofNat 32 n) w.s }
  let held := fun (i : Instr) (s v : State) => ∃ t, exec i s = .next t ∧
    Only v t (fun w => (v.iss.start.getD w).lanesBy v.active (fun _ x => { x with state := .stalled }))
  let hands := fun (i : Instr) (s : State) (xs : List (BitVec 256)) (also : State → State) (result : Wave → Wave) =>
    (∀ f, batchFault s xs = some f → exec i s = .next (s.raise (requestTrap s f))) ∧
    (batchFault s xs = none →
      let v := releasedFor s xs
      (staysHome s v → droverTakes s v xs = true → xs ≠ [] → ∃ t, exec i s = .next t ∧ Only (also (accepted s v xs)) t result) ∧
      (staysHome s v → droverTakes s v xs = false → held i s v) ∧
      (¬ Stays s v → exec i s = .next v))
  (∀ (d : UDst) (a b : USrc) (s : State), Passes (.kick d a b) s →
    let n := (s.src.u32 b).toNat
    let p := (s.src.u32 a).toNat
    let xs := kickNames s a b
    let traps := fun (c at_ : Nat) => exec (.kick d a b) s = .next (s.raise (trapAt s c 16 s.active (BitVec.ofNat 48 at_)))
    (n = 0 → ∃ t, exec (.kick d a b) s = .next t ∧ Only s t (given s d (s.wg s.curWg).tickets)) ∧
    (64 < n → traps 0x06 0) ∧ (0 < n → n ≤ 64 → p % 32 ≠ 0 → traps 0x05 p) ∧
    (0 < n → n ≤ 64 → p % 32 = 0 → (s.wg s.curWg).penBytes < p + 32 * n → traps 0x06 p) ∧
    (0 < n → n ≤ 64 → p % 32 = 0 → p + 32 * n ≤ (s.wg s.curWg).penBytes →
      (∀ k ∈ (s.wg s.curWg).penPoison, ¬ (p < 4 * k + 4 ∧ 4 * k < p + 32 * n)) →
      hands (.kick d a b) s xs id (given s d (((releasedFor s xs).wg s.curWg).tickets + xs.length)))) ∧
  (∀ (d : UDst) (a : SReg) (s : State), Passes (.copy d a) s →
    let xs := [copyNames s a]
    hands (.copy d a) s xs id (given s d (((releasedFor s xs).wg s.curWg).tickets + xs.length))) ∧
  (∀ (d : UDst) (s : State), Passes (.advance d) s →
    ((s.wg s.curWg).stages = [] → ∃ t, exec (.advance d) s = .next t ∧ Only s t (given s d 0xFFFFFFFF)) ∧
    (∀ st rest, (s.wg s.curWg).stages = st :: rest → (∀ r ∈ (s.grid s.curGrid).sched, r < 2 ^ 256) →
      hands (.advance d) s (((s.grid s.curGrid).sched.map (BitVec.ofNat 256)).filter (fun x => decide ((requestOf x).stage = st)))
        (fun t => { t with wgs := tabMod t.wgs s.curWg (fun g => { g with stages := rest }) }) (given s d st))) ∧
  (∀ (c : Fin 3) (b : USrc) (s : State), Passes (.waitc c b) s →
    let count := [s.cur.counts.mtx, s.cur.counts.flk, s.cur.counts.trc].getD c.val 0
    let n := (s.src.u32 b).toNat % 256
    ∃ t, exec (.waitc c b) s = .next t ∧
      Only s t (fun w => { w.advanced s sameLane with wait := if count ≤ n then w.wait else .waitc c.val n })) ∧
  (∀ (d : UDst) (c : Fin 4) (s : State), Passes (.rdcnt d c) s →
    let mine := ((s.core (s.wg s.curWg).core).drover.filter (fun r => decide (r.wg = s.curWg)))
    (∀ n, [s.cur.counts.mtx, s.cur.counts.flk, s.cur.counts.trc][c.val]? = some n →
      ∃ t, exec (.rdcnt d c) s = .next t ∧ Only s t (given s d n)) ∧
    (c.val = 3 → (∀ r ∈ mine, 0 < r.ticket) → ∃ t n, exec (.rdcnt d c) s = .next t ∧ Only s t (given s d n) ∧
      n ≤ (s.wg s.curWg).tickets ∧ (∀ r ∈ mine, n < r.ticket) ∧
      (n = (s.wg s.curWg).tickets ∨ ∃ r ∈ mine, r.ticket = n + 1))) ∧
  (∀ (s : State) (core : Nat) (r : CopyReq), (s.core core).drover.find? (fun x => decide (x.id = r.id)) = some r →
    (∀ x ∈ s.waves, x.2.wait ≠ .gbar) →
    let q := requestOf r.bits
    let from_ := q.src + r.row * q.sstride
    let to_ := q.dst + r.row * q.dstride
    (r.failed = false → s.mayStart core r = true → r.data = none → r.dest = 0 → q.skind = 1 → q.dkind = 1 → q.mcast = 0 → q.redop = 0 →
      from_ + q.width ≤ 2 ^ 20 → to_ + q.width ≤ 2 ^ 20 → (tabGet s.wgs r.wg).isSome = true →
      (s.wg r.wg).penPoison = [] → (s.drove (s.wg r.wg).drove).wgs[(s.wg r.wg).rank]? = some r.wg →
      ∃ (t : State) (pen : Tab Byte), exec (.copyRowComplete core r.id) s = .next t ∧
        t = { s with
          wgs := tabMod s.wgs r.wg (fun g => { g with
            pen := pen
            folds := if q.credit then g.folds.modify q.fold (foldCredit q.slot q.width false) else g.folds })
          cores := tabSet s.cores core { s.core core with
            drover := if r.row + 1 < q.rows then
                (s.core core).drover.map (fun x => if x.id = r.id then
                  { x with row := x.row + 1, dest := 0, data := none, sent := none, got := [] } else x)
              else (s.core core).drover.filter (fun x => decide (x.id ≠ r.id)) } } ∧
        (∀ a < 2 ^ 20, t.penByte r.wg a = if to_ ≤ a ∧ a < to_ + q.width then s.penByte r.wg (from_ + (a - to_)) else s.penByte r.wg a)) ∧
    (r.failed = true ∨ s.copyRefused core r ≠ none →
      let v := match s.copyRefused core r with
        | some x => if x.2 then s.malformed r.ctx (s.wgGrid r.wg) x.1 else s
        | none => s
      let left : State → State := fun u => State.report u { Report.plain 0x09 2 with
        unit := 8, loc := locOfCore core 0, ctx := r.ctx, grid := s.wgGrid r.wg, addr := q.src }
      let out := fun (t : State) => ({ t with
        messages := s.messages.filter (fun m => decide (m.req ≠ r.id))
        cores := tabSet s.cores core { s.core core with drover := (s.core core).drover.filter (fun x => decide (x.id ≠ r.id)) } } : State)
      (q.credit = false → exec (.copyRequestFail core r.id) s = .next (out (left v))) ∧
      (q.credit = true → q.dkind ≠ 1 → q.dkind ≠ 2 → r.dest = 0 → exec (.copyRequestFail core r.id) s =
        .next (out (left (foldChanged v r.wg q.fold (foldCredit q.slot ((q.rows - r.row) * q.width) true)))))))

/-- Folds count arrivals and bytes, complete phases, and wake who waits for one (R234, R235, R236, R237, R238, R239, R240,
R224). FINIT that passes the checks at issue sets the members of a fold, the first one starting it with phase 0, and
raises BOUNDS for no members or more than 1023. FARRIVE releases at group scope, which carries out the workgroup's paddock
accesses, adds an arrival and gives the phase it arrived in; FARRIVE.RANK releases at cluster scope and posts an arrival for
a rank of the drove, BOUNDS for one that does not exist (where a paddock access carried out by the release meets lost data
that ends the wave's drove, no more is done); FEXPECT raises a counter. Each applies the completion rule: while the arrivals reach the members and every counter is 0 a phase
completes. FTEST gives the status of the phase completed last where the phase it names is 1 to 127 phases past, else 0;
FWAIT gives it or blocks the wave. REMOTE_ARRIVAL_APPLY of an arrival whose release has completed and that is the first of
its wave at its target makes it an arrival marked remote; FWAIT_WAKE readies a wave whose phase has completed, with its
status. Nothing else changes. -/
def Obligations.Folds : Prop :=
  let arrive := fun (far : Bool) (f : FoldState) =>
    foldSettled { f with arrived := (f.arrived + 1) % 2048, remote := f.remote || (far && f.init) }
  let status := fun (s : State) (wg k p : Nat) => ((s.wg wg).folds[k]?).bind (fun f => if phasePast f p then some (phaseStatus f) else none)
  (∀ (k : Fold) (a : USrc) (s : State), Passes (.finit k a) s → ¬ illegalNow (.finit k a) s →
    let n := (s.src.u32 a).toNat
    (1 ≤ n → n ≤ 1023 → ∃ t, exec (.finit k a) s = .next t ∧
      Only (foldChanged s s.curWg k.val (fun f => foldSettled (if f.init then { f with members := n }
        else { f with init := true, members := n, phase := 0, remote := decide (0 < f.arrived) }))) t (fun w => w.advanced s sameLane)) ∧
    (n = 0 ∨ 1023 < n → exec (.finit k a) s = .next (s.raise (trapAt s 0x06 16 s.active 0#48)))) ∧
  (∀ (d : UDst) (k : Fold) (s : State), Passes (.farrive d k) s → ¬ illegalNow (.farrive d k) s →
    let v := releasedAt s 2
    (staysHome s v → ∀ f, (v.wg s.curWg).folds[k.val]? = some f → ∃ t, exec (.farrive d k) s = .next t ∧
      Only (foldChanged v s.curWg k.val (arrive false)) t
        (fun w => { w.advanced s sameLane with s := s.giveU d (BitVec.ofNat 32 f.phase) w.s })) ∧
    (¬ Stays s v → exec (.farrive d k) s = .next v)) ∧
  (∀ (k : Fold) (b : USrc) (s : State), Passes (.farriveRank k b) s → ¬ illegalNow (.farriveRank k b) s →
    let ranks := (s.drove (s.wg s.curWg).drove).wgs
    let v := releasedAt s 3
    (∀ g, ranks[(s.src.u32 b).toNat]? = some g →
      (Stays s v → ∃ t, exec (.farriveRank k b) s = .next t ∧
        Only { v with arrivals := v.arrivals ++ [⟨g, k.val, s.iss.key, s.curWg, s.curCore⟩] } t (fun w => w.advanced s sameLane)) ∧
      (¬ Stays s v → exec (.farriveRank k b) s = .next v)) ∧
    (ranks[(s.src.u32 b).toNat]? = none → exec (.farriveRank k b) s = .next (s.raise (trapAt s 0x06 16 s.active 0#48)))) ∧
  (∀ (k : Fold) (a b : USrc) (s : State), Passes (.fexpect k a b) s → ¬ illegalNow (.fexpect k a b) s →
    ∃ t, exec (.fexpect k a b) s = .next t ∧ Only (foldChanged s s.curWg k.val (fun f =>
      foldSettled { f with counts := f.counts.modify ((s.src.u32 a).toNat % 8) (fun c => c + s.src.u32 b) })) t
        (fun w => w.advanced s sameLane)) ∧
  (∀ (d : UDst) (k : Fold) (b : USrc) (s : State),
    (Passes (.ftest d k b) s → ¬ illegalNow (.ftest d k b) s → ∃ t, exec (.ftest d k b) s = .next t ∧ Only s t (fun w =>
      { w.advanced s sameLane with s := s.giveU d ((status s s.curWg k.val (s.src.u32 b).toNat).getD 0#32) w.s })) ∧
    (Passes (.fwait d k b) s → ¬ illegalNow (.fwait d k b) s →
      (∀ x, status s s.curWg k.val (s.src.u32 b).toNat = some x → ∃ t, exec (.fwait d k b) s = .next t ∧ Only s t (fun w =>
        { w.advanced s sameLane with s := s.giveU d x w.s })) ∧
      (status s s.curWg k.val (s.src.u32 b).toNat = none → ∃ t, exec (.fwait d k b) s = .next t ∧ Only s t (fun w =>
        { w.advanced s sameLane with wait := .fwait (destOf d) k.val ((s.src.u32 b).toNat % 256) })))) ∧
  (∀ (s : State) (index : Nat) (a : Arrival), s.arrivals[index]? = some a → s.releaseHeld a.core a.wg 3 = false →
    (∀ b ∈ s.arrivals.take index, b.wave = a.wave → b.target ≠ a.target) →
    exec (.remoteArrivalApply index) s = .next (foldChanged { s with arrivals := s.arrivals.eraseIdx index } a.target a.fold (arrive true))) ∧
  (∀ (s : State) (key k p : Nat) (d : Option Nat) (w : Wave) (x : Word), tabGet s.waves key = some w → w.wait = .fwait d k p →
    status s w.wg k p = some x →
    exec (.fwaitWake key) s = .next { s with waves := tabMod s.waves key (fun v => { v with
      wait := .none
      s := match d with
        | some r => v.s.set r x
        | none => v.s }) })

/-- An array operation is checked against the lease and its operands, then joins the queue as a counted operation (R245, R246,
R247, R248, R250, R252, R253, R254, R259, R262, R264, R242). MLDS, MLDSG, MSCALE, MSWAP, MMA, MMAG, MZERO, MST and MLD
that pass the checks at issue with a lawful record raise ARRAY where the workgroup holds no lease or too few slots; else
MISALIGN for a pen operand off 16 bytes and BOUNDS for one past the pen, or for elements in global memory the trap of the
first check of R253 that one fails, OOBFLAGS noting an element out of bounds whatever comes of it. Outside a handler each
then enters the queue with the operands and the record captured, behind the others but for those that younger waves of other
quarters have entered in the same clk, adds one to MTX and goes on; with eight entries queued or MTX at 255 its lanes are
held. In a handler, its bands powered, it is carried out at once. MSHAPE, MSTAT and MREL wait for the queue to empty, but
not in a handler: MSHAPE sets the band mask and raises BOUNDS for one it does not know; MSTAT reads the sticky flags and
the PROG of the oldest compute operation, and clears the flags where it says so; MREL ends the lease, all of the array zero
again but for the bands' power, and the workgroup holds no lease any more. Nothing else changes. -/
def Obligations.ArrayIssue : Prop :=
  (∀ (i : Instr) (s : State) (u : ArrayUse), arrayRule i s = some u → Passes i s → ¬ illegalNow i s →
    (¬ leased s u.slots → exec i s = .next (s.raise (trapAt s 0x13 0 s.active 0#48))) ∧
    (leased s u.slots →
      (∀ al p n, u.pen = some (al, p, n) →
        ((∃ x ∈ al, x % 16 ≠ 0) → exec i s = .next (s.raise (trapAt s 0x05 16 s.active (BitVec.ofNat 48 p)))) ∧
        ((∀ x ∈ al, x % 16 = 0) → ¬ penFits s u p n → exec i s = .next (s.raise (trapAt s 0x06 16 s.active (BitVec.ofNat 48 p))))) ∧
      (∀ e f, u.elems = some e → elemsFault s e = some f →
        exec i s = .next ((elemsNoted s u.elems).raise (trapAt s f.1 e.1.val s.active (BitVec.ofNat 48 f.2)))) ∧
      ((∀ al p n, u.pen = some (al, p, n) → (∀ x ∈ al, x % 16 = 0) ∧ penFits s u p n) →
        (∀ e, u.elems = some e → elemsFault s e = none) →
        let v := elemsNoted s u.elems
        let entry := fun (id : Nat) => (⟨id, i.word, i.extWords.headD 0#32, u.a, u.b, u.recd, 0, s.iss.key, s.cur.index, s.active,
          s.iss.pc, s.cycle.toNat, s.cur.age⟩ : ArrayOp)
        let room := (s.core s.curCore).array.queue.length < 8 ∧ s.cur.counts.mtx < 255
        (s.cur.handler = false → room → ∃ t q, exec i s = .next t ∧ QueueEntered (entry s.fresh) (s.core s.curCore).array.queue q ∧
          Only { arrayChanged v (fun a => { a with queue := q }) with fresh := s.fresh + 1 } t
            (fun w => countedWave 0 s.fresh (w.advanced s sameLane))) ∧
        (s.cur.handler = false → ¬ room → ∃ t, exec i s = .next t ∧ Only v t (heldWave s)) ∧
        (s.cur.handler = true → bandsOn s s.curCore (s.core s.curCore).array.bands →
          ∀ x, v.runWhole s.curCore s.curWg (entry 0) i = .done x → ∃ t, exec i s = .next t ∧ Only x t (fun w => w.advanced x sameLane))))) ∧
  (∀ (i : Instr) (s : State), i = .mrel ∨ (∃ a, i = .mshape a) ∨ (∃ d c, i = .mstat d c) → Passes i s →
    let queue := (s.core s.curCore).array.queue
    let known := ∀ a, i = .mshape a → (s.src.u32 a).toNat % 16 ∈ [1, 3, 7, 15]
    let free := s.cur.handler = true ∨ queue = []
    (¬ leased s [] → exec i s = .next (s.raise (trapAt s 0x13 0 s.active 0#48))) ∧
    (leased s [] → ¬ known → exec i s = .next (s.raise (trapAt s 0x06 16 s.active 0#48))) ∧
    (leased s [] → known → ¬ free → ∃ t, exec i s = .next t ∧ Only s t (heldWave s)) ∧
    (leased s [] → known → free →
      (∀ a, i = .mshape a → ∃ t, exec i s = .next t ∧
        Only (arrayChanged s (fun x => { x with bands := (s.src.u32 a).toNat % 16 })) t (fun w => w.advanced s sameLane)) ∧
      (∀ d c, i = .mstat d c → ∃ t, exec i s = .next t ∧
        let prog := ((queue.find? (fun o => decide (o.side = 1))).map ArrayOp.prog).getD 0
        Only (if c then arrayChanged s (fun x => { x with sticky := 0 }) else s) t
          (fun w => { w.advanced s sameLane with
            s := s.giveU d (BitVec.ofNat 32 ((s.core s.curCore).array.sticky + 2 ^ 16 * prog)) w.s })) ∧
      (i = .mrel → ∃ t, exec i s = .next t ∧
        Only { s with
          cores := tabSet s.cores s.curCore { s.core s.curCore with
            array := ⟨none, [], [], [], [], [], 0, 0, [], [], [], 15, 0, [], false, [], (s.core s.curCore).array.band⟩, window := none }
          wgs := tabMod s.wgs s.curWg (fun g => { g with lease := 0 }) } t
          (fun w => w.advanced s sameLane))))

/-- The array fills planes, completes rows and operations, and powers its bands (R247, R251, R252, R254, R255, R256, R258, R259,
R260, R100, R432, R436). Of an entry that may run, its bands powered and its wave in place: ARRAY_FILL_COMPLETE of MLDS from
a pen that is not poisoned puts the K-step of each column into the shadow plane with its tag and leaves the other bytes, and
of MSCALE each scale entry with its tag, and the entry leaves the queue, its MTX count credited in issue order;
MMA_ROW_COMPLETE of MMA computes row PROG, every column from its start by the K-step's chunks, sets the sticky flags of its
additions, and advances PROG; ARRAY_SERIAL_OP_START of MSWAP exchanges planes, scales and tags, of MST of a plane stores it
in the pen, and of MLD of one loads it; ARRAY_OP_COMPLETE of MZERO zeroes the tile, of MLD loads each row from the pen, each
element converted, and of MST stores it there, and of an MMA with no row left or an operation of neither side that has been
done, credits it. BAND_WAKE powers a band whose wake is over, BAND_WAKE_RATE_WAIT_END starts a deferred wake of 200 clk once
fewer than 16 wakes of the die lie within a microsecond, and BAND_IDLE_OFF turns off a band outside the lease's mask that has
been idle for 2000 clk. Beyond the queue, the use of the bands and the marks of lost data, nothing else changes. -/
def Obligations.ArrayRuns : Prop :=
  (∀ (s : State) (core : Nat) (o : ArrayOp) (i : Instr) (wg : Nat) (w : Wave), s.runnable core o.id = some (o, i, wg) → opHome s core o w →
    let a := arrayOf s core
    a.slots.wf = true → a.shadow.wf = true → a.shadowScales.wf = true →
    let cols := 64 * ((List.range 4).filter (fun b => a.bands.testBit b)).length
    let runs := fun (e : Instr) (y : State → MatrixArray → Prop) => ∃ t, exec e s = .next t ∧ ArrayFrame s t core ∧ y t (arrayOf t core)
    (∀ x y f, i = .mlds x y f → bandsOn s core a.bands → (s.wg wg).penPoison = [] → f.fmt ≠ .raw →
      runs (.arrayFillComplete core o.id) (fun t z => opFinished s t core o ∧ z.tagS = a.tagS / 64 * 64 + planeTag f ∧
        alike { z with shadow := a.shadow, tagS := a.tagS, zeroS := a.zeroS } a = a ∧
        ∀ n < 256, ∀ k < 256, z.shadow.get (columnAt n k) =
          if n < cols ∧ k < stepOf f.fmt * elemBits f.fmt / 8 then s.penByte wg (o.a.toNat + n * o.b.toNat + k) else a.shadow.get (columnAt n k))) ∧
    (∀ x int4 g, i = .mscale x int4 g → (s.wg wg).penPoison = [] →
      runs (.arrayFillComplete core o.id) (fun t z => opFinished s t core o ∧ z.tagS = a.tagS % 64 + scaleTag (scaleCode int4 g) ∧
        alike { z with shadowScales := a.shadowScales, tagS := a.tagS } a = a ∧
        ∀ j < (if int4 then 512 else 256) / groupOf g, ∀ n < cols, ∀ k < 4,
          z.shadowScales.get (scaleEntry j n + k) = s.penByte wg (o.a.toNat + 4 * (j * cols + n) + k))) ∧
    (∀ t0 x y m, i = .mma t0 x y m → bandsOn s core a.bands → (s.wg wg).penPoison = [] → a.poison = [] → s.upset = none →
      a.tagged m.bf = true → o.prog < m.rows.toNat →
      let k := stepOf m.bf.fmt
      let row := (List.range k).map (fun j => plainValue m.af (packedElem m.af (s.penByte wg) (o.a.toNat + o.prog * o.b.toNat) j))
      let step := fun (n : Nat) => accStep (Acc.fmt m.acc) (m.acc == .f32) m.sat
        (if m.ovr then 0 else a.slots.nat (accAt t0.val m.acc o.prog n) (accBytes m.acc)) row
        ((List.range k).map (fun j => a.planeValue m.bf j n)) none
      runs (.mmaRowComplete core o.id) (fun t z => t.waves = s.waves ∧
        alike { z with slots := a.slots, sticky := a.sticky } a = a ∧
        z.queue = a.queue.map (fun e => if e.id = o.id then { e with prog := o.prog + 1 } else e) ∧
        z.sticky = (List.range cols).foldl (fun b n => b ||| (step n).2.1) 0 ||| a.sticky ∧
        (∀ n < cols, z.slots.nat (accAt t0.val m.acc o.prog n) (accBytes m.acc) = (step n).1 % 2 ^ (8 * accBytes m.acc)) ∧
        ∀ b, b < accAt t0.val m.acc o.prog 0 ∨ accAt t0.val m.acc o.prog 0 + cols * accBytes m.acc ≤ b → z.slots.get b = a.slots.get b)) ∧
    (i = .mswap → o.prog = 0 → runs (.arraySerialOpStart core o.id) (fun t z => t.waves = s.waves ∧
      z.active = a.shadow ∧ z.shadow = a.active ∧ z.activeScales = a.shadowScales ∧ z.shadowScales = a.activeScales ∧
      z.tagA = a.tagS ∧ z.tagS = a.tagA ∧ z.zeroA = a.zeroS ∧ z.zeroS = a.zeroA ∧ z.band = a.band ∧
      alike { z with
        active := a.active
        shadow := a.shadow
        activeScales := a.activeScales
        shadowScales := a.shadowScales
        tagA := a.tagA
        tagS := a.tagS
        zeroA := a.zeroA
        zeroS := a.zeroS } a = a ∧
      z.queue = a.queue.map (fun e => if e.id = o.id then { e with prog := 1 } else e))) ∧
    (∀ x k, i = .mldPlane x k → o.prog = 0 → (s.wg wg).penPoison = [] → runs (.arraySerialOpStart core o.id) (fun t z => t.waves = s.waves ∧
      (∀ b, b < imageBytes k → (z.image k).get b = s.penByte wg (o.a.toNat + b)) ∧ (∀ j, j ≠ k → z.image j = a.image j) ∧
      z.slots = a.slots ∧ z.tagA = a.tagA ∧ z.tagS = a.tagS ∧
      z.queue = a.queue.map (fun e => if e.id = o.id then { e with prog := 1 } else e))) ∧
    (∀ x k, i = .mstPlane x k → o.prog = 0 → a.poison = [] → o.a.toNat + imageBytes k ≤ 0x100000 → (tabGet s.wgs wg).isSome = true →
      ∃ t, exec (.arraySerialOpStart core o.id) s = .next t ∧ t.mem = s.mem ∧ t.waves = s.waves ∧
        (arrayOf t core) = { a with queue := a.queue.map (fun e => if e.id = o.id then { e with prog := 1 } else e) } ∧
        ∀ b < 0x100000, t.penByte wg b = if o.a.toNat ≤ b ∧ b < o.a.toNat + imageBytes k then (a.image k).get (b - o.a.toNat) else s.penByte wg b) ∧
    (∀ t0 acc, i = .mzero t0 acc → runs (.arrayOpComplete core o.id) (fun t z => opFinished s t core o ∧
      alike { z with slots := a.slots } a = a ∧
      ∀ b, z.slots.get b = if accAt t0.val acc 0 0 ≤ b ∧ b < accAt t0.val acc 64 0 then 0#8 else a.slots.get b)) ∧
    (∀ t0 x y m, i = .mld t0 x y m → (s.wg wg).penPoison = [] → runs (.arrayOpComplete core o.id) (fun t z => opFinished s t core o ∧
      alike { z with slots := a.slots, sticky := a.sticky } a = a ∧
      (∀ r < m.rows.toNat, ∀ n < 256, z.slots.nat (accAt t0.val m.acc r n) (accBytes m.acc) =
        (convertTile (PFmt.ffmt m.pf) (Acc.fmt m.acc) m.sat
          (s.penNat wg (o.a.toNat + r * o.b.toNat + n * (elemBits m.pf / 8)) (elemBits m.pf / 8))).1 % 2 ^ (8 * accBytes m.acc)) ∧
      ∀ b, b < accAt t0.val m.acc 0 0 ∨ accAt t0.val m.acc m.rows.toNat 0 ≤ b → z.slots.get b = a.slots.get b)) ∧
    (∀ t0 x y m, i = .mst t0 x y m → a.poison = [] → o.a.toNat + (m.rows.toNat - 1) * o.b.toNat + 256 * (elemBits m.pf / 8) ≤ 0x100000 →
      m.rows.toNat ≤ 1 ∨ 256 * (elemBits m.pf / 8) ≤ o.b.toNat → (tabGet s.wgs wg).isSome = true →
      ∃ t, exec (.arrayOpComplete core o.id) s = .next t ∧ t.mem = s.mem ∧ opFinished s t core o ∧
        alike { arrayOf t core with sticky := a.sticky } a = a ∧
        ∀ r < m.rows.toNat, ∀ n < 256, t.penNat wg (o.a.toNat + r * o.b.toNat + n * (elemBits m.pf / 8)) (elemBits m.pf / 8) =
          (convertTile (Acc.fmt m.acc) (PFmt.ffmt m.pf) m.sat (a.slots.nat (accAt t0.val m.acc r n) (accBytes m.acc))).1 % 2 ^ (elemBits m.pf / 8 * 8)) ∧
    ((∃ t0 x y m, i = .mma t0 x y m ∧ m.rows.toNat ≤ o.prog) ∨ ((i = .mswap ∨ (∃ x k, i = .mldPlane x k) ∨ ∃ x k, i = .mstPlane x k) ∧ o.prog = 1) →
      runs (.arrayOpComplete core o.id) (fun t z => opFinished s t core o ∧ alike z a = a))) ∧
  (∀ (s : State) (core b : Nat) (x : Band), (arrayOf s core).band[b]? = some x →
    let sets := fun (y : Band) => ({ s with cores := tabSet s.cores core { s.core core with
      array := { arrayOf s core with band := (arrayOf s core).band.set b y } } } : State)
    let recent := ((s.sites.getD (core / 160) (Site.init false)).wakes).filter (fun n => decide (s.time.toNat < n + 1000))
    (∀ n, x.waking = some n → n ≤ s.cycle.toNat →
      exec (.bandWake core b) s = .next (sets { x with on := true, waking := none, lastUse := s.cycle.toNat })) ∧
    (x.deferred = true → x.on = false → x.waking = none → recent.length < 16 →
      exec (.bandWakeRateWaitEnd core b) s = .next { sets { x with waking := some (s.cycle.toNat + 200), deferred := false } with
        sites := s.sites.modify (core / 160) (fun y => { y with wakes := recent ++ [s.time.toNat] }) }) ∧
    (x.on = true → (arrayOf s core).lessee = none ∨ (arrayOf s core).bands.testBit b = false →
      (∀ k ∈ (s.core core).tiles, k.closed = false) → x.lastUse + 2000 ≤ s.cycle.toNat →
      exec (.bandIdleOff core b) s = .next (sets { x with on := false })))

/-- NEV hands its lanes to the flock unit, whose tiles close, run and land (R266, R267, R268, R269, R270, R271, R272, R273,
R274). NEV that passes the checks at issue with a lawful record raises, for NEV.M, BOUNDS under OOBMODE 1, MISALIGN off 4
bytes, or ACCESS past the space, OOBFLAGS noting an element out of bounds; else it hands a row for each active lane whose
handle is in the network table to the flock unit, in lane order; the others have failed with HANDLE; FLK rises by one and
the lanes go on, or are held with FLK at 255. NETLD fetches a network into the core's weight cache, one already there
staying as it is, or drops it from it, and does nothing for a handle that is not in the table. FLOCK_TILE_CLOSE closes a
tile that has waited FLOCK_WAIT, behind the others that have closed. FLOCK_TILE_COMPLETE of the first closed tile, of one
row that is the last of its NEV, its network at hand and of the NEV's shape, lands the NEV with the network's outputs in its
lane. NEV_HANDLE_COMPLETE lands a NEV with no row: live lanes that succeeded take their outputs, its fault mask the lanes
that failed, and FLK is credited in issue order; where TRAPEN asks for it NEVFAULT falls due in the lanes that failed, its
INFO the union of their causes. Nothing else changes. -/
def Obligations.FlockRuns : Prop :=
  (∀ (d : VReg) (a b : VSrc) (x : NevMod) (s : State), Passes (.nev d a b x) s → ¬ illegalNow (.nev d a b x) s →
    let acc : Access := ⟨x.q, 2 * x.nin.toNat, false, nevElems s a x⟩
    let oob := (Rec.ofBits (s.src.qreg x.q.val)).oob
    let bound := oob = true → ∀ e ∈ acc.es, e.inb = true
    let even := ∀ e ∈ acc.es, uneven 4 e = false
    let fits := x.mem = true → bound ∧ even ∧ ∀ e ∈ acc.es, beyond acc.w e = false
    (x.mem = true →
      (¬ bound → exec (.nev d a b x) s = .next ((oobNoted s acc).raise (acc.trap s 0x06 outside))) ∧
      (bound → ¬ even → exec (.nev d a b x) s = .next ((oobNoted s acc).raise (acc.trap s 0x05 (uneven 4)))) ∧
      (bound → even → (∃ e ∈ acc.es, beyond acc.w e = true) →
        exec (.nev d a b x) s = .next ((oobNoted s acc).raise (acc.trap s 0x07 (beyond acc.w))))) ∧
    (fits → s.cur.counts.flk < 255 → ∃ t, exec (.nev d a b x) s = .next t ∧
      Only { s with
        fresh := s.fresh + 1
        cores := tabSet s.cores s.curCore { s.core s.curCore with inbox := (s.core s.curCore).inbox ++ nevRows s a b x } } t
        (fun w => { countedWave 1 s.fresh (w.advanced s sameLane) with
          nevs := w.nevs ++ [nevOp s d b x]
          oobflags := if x.mem && (nevElems s a x).any outside then w.oobflags ||| (1#32 <<< x.q.val) else w.oobflags })) ∧
    (fits → 255 ≤ s.cur.counts.flk → ∃ t, exec (.nev d a b x) s = .next t ∧ Only s t (heldWave s))) ∧
  (∀ (a : USrc) (s : State),
    let h := (s.src.u32 a).toNat
    let held := h < (s.ctx s.curCtx).netcount
    let key := s.curCtx * 65536 + h
    let caches := fun (u : State) (bytes : List Byte) => ∃ t, exec (.netldFetch a) s = .next t ∧
      Only { u with cores := tabSet u.cores s.curCore { u.core s.curCore with weights := tabSet (u.core s.curCore).weights key bytes } } t
        (fun w => w.advanced s sameLane)
    (Passes (.netldFetch a) s →
      (∀ bytes, held → tabGet (s.core s.curCore).weights key = some bytes → caches s bytes) ∧
      (∀ bytes ps, held → tabGet (s.core s.curCore).weights key = none → s.loadNet s.curCore s.curWg s.curCtx h = .ok bytes ps →
        caches (s.touchAll s.curCore false ps) bytes) ∧
      (¬ held → ∃ t, exec (.netldFetch a) s = .next t ∧ Only s t (fun w => w.advanced s sameLane))) ∧
    (Passes (.netldDrop a) s →
      (held → ∃ t, exec (.netldDrop a) s = .next t ∧ Only { s with cores := tabSet s.cores s.curCore { s.core s.curCore with
        weights := tabErase (s.core s.curCore).weights key } } t (fun w => w.advanced s sameLane)) ∧
      (¬ held → ∃ t, exec (.netldDrop a) s = .next t ∧ Only s t (fun w => w.advanced s sameLane)))) ∧
  (∀ (s : State) (core index : Nat) (k : FlockTile), (s.core core).tiles[index]? = some k → k.closed = false →
    (∀ r ∈ k.rows, r.mem = none) → k.first + (s.ctx k.ctx).flockwait ≤ s.cycle.toNat →
    exec (.flockTileClose core index) s = .next { s with cores := tabSet s.cores core { s.core core with
      tiles := (s.core core).tiles.eraseIdx index ++ [{ k with closed := true }] } }) ∧
  (∀ (s : State) (core index : Nat) (k : FlockTile) (r : FlockRow) (w : Wave) (n : NevOp) (net : List Byte),
    (s.core core).tiles[index]? = some k → k.closed = true → (∀ j ∈ (s.core core).tiles.take index, j.closed = false) → s.quarantined = [] →
    s.upset = none → bandsOn s core 15 → k.rows = [r] → r.mem = none → tabGet s.waves r.wave = some w →
    w.nevs.find? (fun m => decide (m.id = r.nev)) = some n → n.left = 1 → n.failed = 0#32 → n.causes = [] → n.results = [] →
    (w.ops.map Counted.id).Nodup → tabGet (s.core core).weights (k.ctx * 65536 + k.handle) = some net →
    (NetEntry.ofNat (natOfBytes (net.take 64))).nin = n.nin → (NetEntry.ofNat (natOfBytes (net.take 64))).nout = n.nout →
    let ys := (evalNet net r.inputs).map (BitVec.ofNat 32)
    ∃ t, exec (.flockTileComplete core index) s = .next t ∧ { t with waves := s.waves, cores := s.cores } = s ∧
      t.waves = tabMod s.waves r.wave (nevLanded { n with results := [(r.lane, ys)], left := 0 }) ∧
      (∀ c, c ≠ core → t.core c = s.core c) ∧ (t.core core).tiles = (s.core core).tiles.eraseIdx index) ∧
  (∀ (s : State) (key : Nat) (w : Wave) (n : NevOp), tabGet s.waves key = some w → w.nevs.find? (fun m => decide (m.id = n.id)) = some n →
    n.left = 0 → (w.ops.map Counted.id).Nodup →
    let bad := maskOf (fun l => n.failed.getLsbD l && (w.lane l).state.live)
    let causes := ((List.range 32).filter (fun l => bad.getLsbD l)).foldl (fun c l => c ||| (tabGet n.causes l).getD 0) 0
    exec (.nevHandleComplete key n.id) s = .next { s with waves := tabMod s.waves key (fun v =>
      let u := nevLanded n v
      if n.trapen = true ∧ bad ≠ 0#32 then
        { u with causes := u.causes ++ [⟨0x0B, BitVec.ofNat 32 causes, bad, n.iaddr, 0#48, 0#48, false, false, false, false⟩] }
      else u) })

/-- Instructions that name a structure check its address, join the queues of the device, or act on the header at its home
(R276, R284, R290, R291, R306, R308, R315, R83, R86, R88, R91). RASTER, PRESENT, BUILD, REFIT, TRACE, TRACEOCC, GENPIN,
GENDROP, CAIRNW, REFILL and PIXPUSH that pass the checks at issue raise MISALIGN for a VA that is not aligned and ACCESS
for one of more than 48 bits. With the address in order, RASTER, BUILD and REFIT first release at device scope: where
something still holds it the lanes are held at the instruction; else the command joins the queue and D is 0, or with 16
queued D is 1. PRESENT releases too, then takes the record at its home: one that agrees with its stream, for a slot that
has none, is queued behind the others, OWNER of the stream becomes the grid and D is 0; of a slot already decided it is
LATE (2), with four queued D is 1 and nothing is written, and any other is REJECTED (3); SENT takes 2 and 3. GENPIN and
GENDROP of a generation that no slot holds give 1, of a pin at its limit 2, else they change PIN by one at its home and
give 0. CAIRNW of a generation that no slot holds gives 1, of a cairn number out of range 3; else the wave waits, and a
wake with status 2 is posted if the cairn word is 1, or a tether stands on it, in the spill area where the table is full,
or is parked. EMITC of a malformed cluster gives 0xFFFFFFFE, with a malformed stream 0xFFFFFFFD, with a full one
0xFFFFFFFF; else COUNT goes up by one and the cluster stands in its place; it ends the replayable period. What the
workgroup has stored at a home before is performed there first. Nothing else changes, and the lanes stand at next_pc. -/
def Obligations.UnitCommands : Prop :=
  (∀ (i : Instr) (s : State) (va al : Nat), structureOf i s = some (va, al) → Passes i s →
    (va % al ≠ 0 → exec i s = .next (s.raise (trapAt s 0x05 16 s.active 0#48))) ∧
    (va % al = 0 → 2 ^ 48 ≤ va → exec i s = .next (s.raise (trapAt s 0x07 16 s.active 0#48)))) ∧
  (∀ (i : Instr) (s : State) (d : UDst) (a : SReg), Passes i s → structureFits s a 128 →
    let does := fun (u : State) (x : Word) => ∃ t, exec i s = .next t ∧ Only u t (onWith s d x)
    (i = .raster d a → afterRelease i s (fun v =>
      (16 ≤ v.rasters.length → does v 1#32) ∧
      (v.rasters.length < 16 → does { v with
        fresh := v.fresh + 1
        rasters := v.rasters ++ [⟨v.fresh, v.curCtx, pairAt s a, [], false, 0, 0, 0, 0, 0, [], [], false, none, []⟩] } 0#32))) ∧
    (∀ refit, i = (if refit then .refit d a else .build d a) → afterRelease i s (fun v =>
      (16 ≤ v.builds.length → does v 1#32) ∧
      (v.builds.length < 16 → does { v with
        fresh := v.fresh + 1
        builds := v.builds ++ [⟨v.fresh, refit, v.curCtx, pairAt s a, .queued, [], 0, 0, 0, [], 0, [], 0⟩] } 0#32)))) ∧
  (∀ (s : State) (d : UDst) (a : SReg) (h : Trans), Passes (.present d a) s → structureFits s a 64 →
    afterRelease (.present d a) s (fun v => HomeAt v (pairAt s a) 64 (.write false) h → v.memOk →
      let u := reachedHome v (pairAt s a) 64 (.write false) h
      let pa := homePa (pairAt s a) h
      let bs := (List.range 64).map (fun i => u.mem.get (pa + i))
      let n := field bs 21 1
      let x := u.stream n
      let told := fun (status : Nat) => ∃ t, exec (.present d a) s = .next t ∧
        WrittenHome u t (onWith s d (BitVec.ofNat 32 status)) (numberCells (pa + 36) 4 status)
      ((∀ j, ¬ frameFits u bs j) → told 3) ∧
      (∀ j, frameFits u bs j →
        (j < x.next → told 2) ∧
        (x.next ≤ j → 4 ≤ x.queue.length → ∃ t, exec (.present d a) s = .next t ∧ Only u t (onWith s d 1#32)) ∧
        (x.next ≤ j → x.queue.length < 4 → ∃ t, exec (.present d a) s = .next t ∧
          memoryWith u t (numberCells (u.fabric.streamtab + 128 * n + 56) 4 u.curGrid) ∧
          t.waves = tabMod u.waves s.iss.key (onWith s d 0#32) ∧
          t.streams = tabSet u.streams n (queuedFrame x
            ⟨u.curCtx, pairAt s a, j, field bs 32 4, field bs 0 8, field bs 16 4, u.curGrid, none, false⟩) ∧
          SameIssue u.iss t.iss ∧
          { t with
            waves := u.waves
            iss := u.iss
            streams := u.streams
            mem := u.mem
            old := u.old
            tethers := u.tethers
            freed := u.freed
            wakes := u.wakes } = u)))) ∧
  (∀ (drop : Bool) (s : State) (d : UDst) (a : SReg) (b : USrc) (h : Trans),
    let i := if drop then Instr.gendrop d a b else .genpin d a b
    Passes i s → structureFits s a 256 → HomeAt s (pairAt s a) 256 (.write false) h → s.memOk →
    let u := reachedHome s (pairAt s a) 256 (.write false) h
    let pa := homePa (pairAt s a) h
    let gen := (s.src.u32 b).toNat % 256
    ((∀ k, ¬ holdsGen u pa gen k) → ∃ t, exec i s = .next t ∧ Only u t (onWith s d 1#32)) ∧
    (∀ k, holdsGen u pa gen k →
      let pin := numberAt u (pa + 64 * k + 28) 4
      let stuck := if drop then pin = 0 else pin = 2 ^ 32 - 1
      (stuck → ∃ t, exec i s = .next t ∧ Only u t (onWith s d 2#32)) ∧
      (¬ stuck → ∃ t, exec i s = .next t ∧
        WrittenHome u t (onWith s d 0#32) (numberCells (pa + 64 * k + 28) 4 (if drop then pin - 1 else pin + 1))))) ∧
  (∀ (s : State) (d : UDst) (a : SReg) (b : USrc) (h c : Trans), Passes (.cairnw d a b) s → structureFits s a 256 →
    HomeAt s (pairAt s a) 256 .read h →
    let u := reachedHome s (pairAt s a) 256 .read h
    let gen := (s.src.u32 b).toNat / 2 ^ 16 % 256
    let n := (s.src.u32 b).toNat % 2 ^ 16
    ((∀ k, ¬ holdsGen u h.pa gen k) → ∃ t, exec (.cairnw d a b) s = .next t ∧ Only u t (onWith s d 1#32)) ∧
    (∀ k, holdsGen u h.pa gen k →
      let inside := 1 ≤ n ∧ n ≤ 8 ^ numberAt u (h.pa + 64 * k + 38) 1
      let va := numberAt u (h.pa + 64 * k + 16) 8 + 4 * (n - 1)
      (¬ inside → ∃ t, exec (.cairnw d a b) s = .next t ∧ Only u t (onWith s d 3#32)) ∧
      (inside → HomeAt u va 4 .read c →
        let v := reachedHome u va 4 .read c
        let k : Tether := ⟨v.fresh, homePa va c, false, .eq, 1, none, v.curCtx, .wave s.iss.key, none, false, .device⟩
        let waits := fun (w : Wave) => { w.advanced s sameLane with wait := .cairnw (destOf d) }
        let made := { v with fresh := v.fresh + 1, unarmed := v.unarmed.filter (fun x => decide (x.id ≠ v.fresh)) }
        (numberAt v (homePa va c) 4 = 1 → ∃ t, exec (.cairnw d a b) s = .next t ∧
          Only { made with wakes := v.wakes ++ [⟨.wave s.iss.key, 1, 2⟩] } t waits) ∧
        (numberAt v (homePa va c) 4 ≠ 1 → tableFree v k → ∃ t, exec (.cairnw d a b) s = .next t ∧
          Only { made with tethers := v.tethers ++ [armed v k] } t waits) ∧
        (numberAt v (homePa va c) 4 ≠ 1 → ¬ tableFree v k →
          (∀ m, v.freeSpill k.ctx = some m → ∃ y, Only { made with tethers := v.tethers ++ [{ armed v k with spill := some m }] } y waits ∧
            exec (.cairnw d a b) s = .next (y.syncSpill k.ctx)) ∧
          (v.freeSpill k.ctx = none → ∃ y, Only { v with
              fresh := v.fresh + 1
              unarmed := (v.unarmed ++ [k]).map (fun x => if x.id = v.fresh then { x with parked := true } else x) } y waits ∧
            exec (.cairnw d a b) s = .next (y.report { Report.plain 0x24 1 with ctx := k.ctx, addr := k.pa })))))) ∧
  (∀ (s : State) (d : UDst) (a : USrc) (b : SReg) (h : Trans), Passes (.emitc d a b) s →
    let p := (s.src.u32 a).toNat
    let bs := (List.range 640).map (fun i => s.penByte s.curWg (p + i))
    let ended := fun (u : State) => { u with droves := tabMod u.droves (s.wg s.curWg).drove (fun x => { x with replayable := false }) }
    (p % 16 ≠ 0 → exec (.emitc d a b) s = .next (s.raise (trapAt s 0x05 16 s.active (BitVec.ofNat 48 p)))) ∧
    (p % 16 = 0 → (s.wg s.curWg).penBytes < p + 640 →
      exec (.emitc d a b) s = .next (s.raise (trapAt s 0x06 16 s.active (BitVec.ofNat 48 p)))) ∧
    (p % 16 = 0 → p + 640 ≤ (s.wg s.curWg).penBytes → ¬ structureFits s b 64 →
      exec (.emitc d a b) s = .next (s.raise (trapAt s (if pairAt s b % 64 = 0 then 0x07 else 0x05) 16 s.active 0#48))) ∧
    (p % 16 = 0 → p + 640 ≤ (s.wg s.curWg).penBytes → structureFits s b 64 →
      (∀ k ∈ (s.wg s.curWg).penPoison, ¬ (p < 4 * k + 4 ∧ 4 * k < p + 640)) →
      (clusterBad bs = true → ∃ t, exec (.emitc d a b) s = .next t ∧ Only (ended s) t (onWith s d 0xFFFFFFFE#32)) ∧
      (clusterBad bs = false → HomeAt s (pairAt s b) 64 (.write false) h → s.memOk →
        let u := reachedHome s (pairAt s b) 64 (.write false) h
        let pa := homePa (pairAt s b) h
        let cap := numberAt u (pa + 8) 4
        let count := numberAt u (pa + 12) 4
        let wrong := (∃ i < 48, u.mem.get (pa + 16 + i) ≠ 0#8) ∨ cap = 0 ∨ 16777215 < cap
        (wrong → ∃ t, exec (.emitc d a b) s = .next t ∧ Only (ended u) t (onWith s d 0xFFFFFFFD#32)) ∧
        (¬ wrong → cap ≤ count → ∃ t, exec (.emitc d a b) s = .next t ∧ Only (ended u) t (onWith s d 0xFFFFFFFF#32)) ∧
        (¬ wrong → count < cap → ∀ ts v,
          let pieces := piecesOf (numberAt u pa 8 + 640 * count) 640
          let cells := numberCells (pa + 12) 4 (count + 1) ++
            ((pieces.zip ts).foldl (fun l x => l ++ (List.range x.1.2).map (homePa x.1.1 x.2 + ·)) []).zip bs
          HomesAt (.write false) pieces u ts v → noneCommitted v (cells.map Prod.fst) →
          ∃ t, exec (.emitc d a b) s = .next t ∧ WrittenHome (ended v) t (onWith s d (BitVec.ofNat 32 count)) cells))))

/-- TRACE and TRACEOCC start a ray in each active lane, PIXPUSH and REFILL move ids through the queue, NODEDEC decodes a box
and MORTON a code (R242, R282, R292, R293, R294, R297, R298, R299, R300, R301, R302). TRACE and TRACEOCC that pass the
checks at issue with their header address in order, with TRC below 255, add one to TRC, start a ray for each active lane
with its eight registers, and owe each lane four registers; a ray classed DEGEN or MISS has ended and is in no slot; at
255 the lanes are held. PIXPUSH, once its release is complete, and REFILL raise BOUNDS for a malformed queue; else the
lowest active lanes that the room, or the ids held, allow push their ids at TAIL and TAIL moves, or take the ids from HEAD
and HEAD moves, in one step; PIXPUSH gives 1 or 0 in each lane, REFILL writes the id in the lanes that took one and their
mask in OUTM. NODEDEC gives the six words of the box, each rounded outward. MORTON raises BOUNDS for an order code above
5; else bit 3i + 2 − j of the code is bit i of the cell of the axis at place j. Nothing else changes, and the lanes stand
at next_pc. -/
def Obligations.RayInstructions : Prop :=
  (∀ (occ : Bool) (s : State) (d a : VReg) (x : TraceMod),
    let i := if occ then Instr.traceocc d a x else .trace d a x
    Passes i s → structureFits s x.hdr 256 →
    (255 ≤ s.cur.counts.trc → ∃ t, exec i s = .next t ∧ Only s t (heldWave s)) ∧
    (s.cur.counts.trc < 255 → ∃ t, exec i s = .next t ∧ TraceFrame s t ∧
      t.waves = tabMod s.waves s.iss.key (fun w =>
        { countedWave 2 s.fresh (w.advanced s sameLane) with owed := w.owed ++ raysOwed s d }) ∧
      t.fresh = s.fresh + 1 + (lanesOf s.active).length ∧
      ∃ new, t.rays = s.rays ++ new ∧ new.length = (lanesOf s.active).length ∧
        ∀ k r l, new[k]? = some r → (lanesOf s.active)[k]? = some l → r.id = s.fresh + 1 + k ∧ rayStarts s r l a x occ)) ∧
  (∀ (s : State) (d : VDst) (a : VSrc) (b : SReg) (h : Trans), Passes (.pixpush d a b) s → structureFits s b 64 →
    afterRelease (.pixpush d a b) s (fun v => HomeAt v (pairAt s b) 64 (.write false) h → v.memOk →
      let u := reachedHome v (pairAt s b) 64 (.write false) h
      let pa := homePa (pairAt s b) h
      (queueBad u pa → exec (.pixpush d a b) s = .next (u.raise (trapAt s 0x06 16 s.active 0#48))) ∧
      (¬ queueBad u pa → ∀ ts w,
        let n := Nat.min (lanesOf s.active).length (queueCap u pa - queueHeld u pa)
        let lanes := (lanesOf s.active).take n
        let vas := (List.range n).map (fun j => queueEntry u pa (queueTail u pa + j))
        let cells := (((lanes.zip (vas.zip ts)).map (fun k => numberCells (homePa k.2.1 k.2.2) 4 (s.src.v32 k.1 a).toNat)).flatten) ++
          numberCells (pa + 16) 4 (queueTail u pa + n)
        HomesAt (.write false) (vas.map (fun va => (va, 4))) u ts w → noneCommitted w (cells.map Prod.fst) →
        ∃ t, exec (.pixpush d a b) s = .next t ∧
          WrittenHome w t (fun y => y.advanced s (fun l z => s.give32 d l (if l ∈ lanes then 1#32 else 0#32) z)) cells))) ∧
  (∀ (s : State) (d : VReg) (a : Option MReg) (b : SReg) (outm : Option MReg) (h : Trans), Passes (.refill d a b outm) s →
    structureFits s b 64 → HomeAt s (pairAt s b) 64 (.write false) h → s.memOk →
    let u := reachedHome s (pairAt s b) 64 (.write false) h
    let pa := homePa (pairAt s b) h
    (queueBad u pa → exec (.refill d a b outm) s = .next (u.raise (trapAt s 0x06 16 s.active 0#48))) ∧
    (¬ queueBad u pa → ∀ ts w,
      let able := (lanesOf s.active).filter (fun l => a.all (fun m => (s.src.mreg m.val).getLsbD l))
      let n := Nat.min able.length (queueHeld u pa)
      let lanes := able.take n
      let id := fun (l : Nat) => ((lanes.zip ts).find? (fun k => decide (k.1 = l))).map (fun k => BitVec.ofNat 32 (numberAt w k.2.pa 4))
      let cells := numberCells (pa + 12) 4 (queueHead u pa + n)
      HomesAt .read ((List.range n).map (fun j => (queueEntry u pa (queueHead u pa + j), 4))) u ts w →
      noneCommitted w (cells.map Prod.fst) →
      ∃ t, exec (.refill d a b outm) s = .next t ∧ WrittenHome w t (fun y =>
          let z := y.lanesBy s.active (fun l x => match id l with
            | some k => s.give l (s.cur.wb + d.val) k x
            | none => x)
          (match outm with
            | some m => giveMask s m (maskOf (fun l => lanes.contains l)) z
            | none => z).advanced s sameLane) cells)) ∧
  (∀ (s : State) (d a b : VReg), Passes (.nodedec d a b) s → ∃ t, exec (.nodedec d a b) s = .next t ∧
    Only s t (fun w => w.advanced s (fun l x => giveWords s (.reg d) l ((List.range 6).map (boxWord s.src l a b)) x))) ∧
  (∀ (s : State) (d a : VReg) (b : SReg), Passes (.morton d a b) s →
    let code := (s.src.sreg (b.val + 4)).toNat % 8
    (6 ≤ code → exec (.morton d a b) s = .next (s.raise (trapAt s 0x06 16 s.active 0#48))) ∧
    (code < 6 → ∃ (t : State) (f : Nat → Word), exec (.morton d a b) s = .next t ∧ Only s t (fun w => w.advanced s (fun l x => s.give32 (.reg d) l (f l) x)) ∧
      ∀ l, s.active.getLsbD l = true → (f l).toNat < 2 ^ 30 ∧ ∀ i < 10, ∀ j < 3,
        (f l).getLsbD (3 * i + 2 - j) = (mortonAxis (s.src.vreg l (a.val + orderPlace code j)) (s.src.sreg (b.val + orderPlace code j))
          (s.src.sreg (b.val + 3))).testBit i))

/-- A ray ends with its nearest hit, waits at a cairn that has not risen, goes on once it has, and ends at its timeout (R100,
R292, R294, R295, R296, R297, R102). Of a ray that stands in its wave: RAY_END of one that has ended writes the record of no
hit with its status; of one whose generation no slot holds, that with status 3; of one that has met every box it must,
TRACE records the hit that no other comes before by t, cluster and triangle, with status 0, or no hit with status 1, and
TRACEOCC, at its first hit, some hit it has met, or no hit; of one that meets what is malformed or refused, no hit with
status 5. In each case the ray is gone with what waited for it, the registers it owed arrive, DEGEN counts status 2, and
the TRC count is credited with the last ray of its operation. CAIRN_PARK of a ray that meets a word not yet set leaves it
parked with its deadline, the hits it has found (of those its order may have met, which stays open), and a tether on the
word (or ends it with status 4 and the best of them where its wave is to be pre-empted); CAIRN_RESUME takes its wake and
lets it go on; CAIRN_TIMEOUT ends it at its deadline with status 4 and the best of the hits found, unless its word has
been written. Nothing else changes. -/
def Obligations.RaysGoOn : Prop :=
  (∀ (s : State) (r : Ray) (w : Wave), RayStands s r w →
    let i := Instr.rayEnd r.id
    let ends := fun (i : Instr) (u : State) (status : Nat) (h : Option Hit) => exec i s = .next (goneRay u r status (hitWords status h))
    (∀ st, r.parked = none → r.ended = some st → ends i s st none) ∧
    (∀ h ps, r.parked = none → r.ended = none → r.slot = none → s.rayBytes r r.hdr 256 = .ok (h, ps) →
      (∀ k < 2, field h (64 * k + 36) 1 = r.gen → field h (64 * k + 37) 1 ∉ [1, 2, 3]) →
      ends i (s.touchAll (r.wave / 64) false ps) 3 none) ∧
    (r.parked = none → r.ended = none → r.slot ≠ none →
      (∀ x, s.runRay r = .ok x → (∀ h ∈ x.hits, 0 < h.t.den) →
        let u := s.touchAll (r.wave / 64) false x.pages
        (r.occ = false → ∃ h, isBest x.hits h ∧ ends i u (if h = none then 1 else 0) h) ∧
        (r.occ = true → x.hits = [] → ends i { u with free := s.free + 1 } 1 none) ∧
        (r.occ = true → x.hits ≠ [] → ∃ h ∈ x.hits, ends i { u with free := s.free + 1 } 0 (some h))) ∧
      (∀ e x, s.runRay r = .error (e, x) →
        let u := s.touchAll (r.wave / 64) false x.pages
        (r.occ = true → x.hits ≠ [] → ∃ h ∈ x.hits, ends i { u with free := s.free + 1 } 0 (some h)) ∧
        ((r.occ = true → x.hits = []) → e = .fault → ends i u 5 none))) ∧
    (∀ va d, r.parked = some va → r.deadline = some d → (∀ h ∈ r.found, 0 < h.t.den) →
      let ready := d ≤ s.time.toNat ∧ ∀ k ∈ s.wakes, k.waiter ≠ .ray r.id
      (ready → ∃ h, isBest r.found h ∧ ends (.cairnTimeout r.id) s 4 h) ∧
      (¬ ready → exec (.cairnTimeout r.id) s = .next s)) ∧
    (∀ va x, r.parked = none → r.ended = none → r.slot ≠ none → s.runRay r = .error (.park va, x) → (r.occ = true → x.hits = []) →
      (∀ h ∈ hitsPast s r, 0 < h.t.den) →
      ∃ found n, (∀ g ∈ found, g ∈ hitsPast s r) ∧ (r.occ = false → ∃ more, found = r.found ++ more) ∧
        let u : State := { s with free := s.free + n }
        (w.preempt ≠ none → ∃ h, isBest found h ∧ ends (.cairnPark r.id) u 4 h) ∧
        (w.preempt = none → ∀ pa leaf page, s.translate (r.wave / 64) r.ctx va .read = .ok pa leaf page →
          let k := rayTether s r va (homePa va (.ok pa leaf page))
          let parked : State := { u with
            fresh := s.fresh + 1
            rays := s.rays.map (fun y => if y.id = r.id then parkedRay s r va found y else y) }
          let left := s.unarmed.filter (fun y => decide (y.id ≠ s.fresh))
          let does := fun (t : State) => exec (.cairnPark r.id) s = .next t
          (tetherHolds k (valueAt s k) = true → does { parked with unarmed := left, wakes := s.wakes ++ [⟨.ray r.id, valueAt s k, 2⟩] }) ∧
          (tetherHolds k (valueAt s k) = false → tableFree s k →
            does { parked with unarmed := left, tethers := s.tethers ++ [armed s k] }) ∧
          (tetherHolds k (valueAt s k) = false → ¬ tableFree s k →
            (∀ m, s.freeSpill k.ctx = some m →
              does (State.syncSpill { parked with unarmed := left, tethers := s.tethers ++ [{ armed s k with spill := some m }] } k.ctx)) ∧
            (s.freeSpill k.ctx = none →
              does (State.report { parked with
                unarmed := (s.unarmed ++ [k]).map (fun y => if y.id = s.fresh then { y with parked := true } else y) }
                { Report.plain 0x24 1 with ctx := k.ctx, addr := k.pa })))))) ∧
  (∀ (s : State) (ray n : Nat), s.wakes.findIdx? (fun k => decide (k.waiter = .ray ray)) = some n →
    exec (.cairnResume ray) s = .next { s with
      wakes := s.wakes.eraseIdx n
      rays := s.rays.map (fun r => if r.id = ray then { r with parked := none, seen := r.parked.toList ++ r.seen } else r) })

/-- A build is checked, takes a slot, publishes its provisional spine, raises its cairns and links its tree; a superseded tree
is reclaimed (R276, R284, R285, R286, R287, R288, R289, R324, R378, R415). BUILD_START of a queued command whose turn it is
reads it: a malformed one, one whose header is, or a refit with no live tree of its size ends with DONE 4, one whose pages
are refused with that status, and any other is checked; one whose page is yet to be served asks for it. BUILD_SLOT_TAKE of
a checked command takes the first free slot in one step, with STATE 1, the generation NEXTGEN and NEXTGEN one higher; a
build whose plan holds then writes its cairn words 0, its provisional spine and last of all ROOT, leaves SCRATCH open, and
runs; with no slot free nothing happens. CAIRN_RAISE writes the nodes of a cell and last its cairn word 1, of the lower
half of the cells first where one site is left. TREE_LINK, once every cairn has risen or a refit is planned, writes the
nodes, then in one step ROOT, STATE 2 and STATE 3 of the tree it supersedes, then DONE 1 with the generation, and the
command is gone. BUILD_FAIL of a build that fails with a status frees its slot and writes DONE. COMPACTOR_RECLAIM of a slot
in STATE 3 with PIN 0 writes STATE 4, and COMPACTOR_FREE, once no ray that started in it is left, STATE 0. Nothing else
changes but what a write of the hub brings. -/
def Obligations.BuildsRun : Prop :=
  (∀ (s : State) (j : BuildJob), jobIs s j → j.phase = .queued →
    let ends := fun (u : State) (st : Nat) => ∃ t, exec (.buildStart j.id) s = .next t ∧ hubWrote u t j.ctx [(j.va + 56, wordBytes 4 st)] ∧
      HubFrame { u with builds := jobsWithout s j.id } t
    (∀ va, s.readHub j.ctx j.va 128 = .error (.wait va) → exec (.buildStart j.id) s = .next (s.askPage j.ctx va 4)) ∧
    (∀ st, s.readHub j.ctx j.va 128 = .error (.fail st) → ends s st) ∧
    (∀ va, s.readHub j.ctx j.va 128 = .error (.malformed va) → ends (s.malformed j.ctx 0 va) 3) ∧
    (∀ bs, s.readHub j.ctx j.va 128 = .ok bs → s.buildTurn j (field bs 0 8) = true →
      let u := s.hubSeen j.ctx j.va 128 .read
      (commandBad bs j.refit → ends u 4) ∧
      (¬ commandBad bs j.refit →
        (∀ st, s.canWrite j.ctx [(field bs 0 8, 256)] = .error (.fail st) → ends u st) ∧
        (∀ h, s.canWrite j.ctx [(field bs 0 8, 256)] = .ok () → s.readHub j.ctx (field bs 0 8) 256 = .ok h →
          let right := headerClean h = true ∧ (j.refit = true → ∃ k, liveSlot h (field bs 16 4) = some k)
          (¬ right → ends u 4) ∧
          (right → exec (.buildStart j.id) s = .next { u with
            builds := jobsWith s j.id (fun x => { x with phase := .checked, cmd := bs }) }))))) ∧
  (∀ (s : State) (j : BuildJob) (h : List Byte), jobIs s j → j.phase = .checked →
    let c := j.cmd
    let hdr := field c 0 8
    let gen := field h 128 1
    let live := (liveSlot h (field c 16 4)).getD 0
    s.readHub j.ctx hdr 256 = .ok h →
    ((field h 37 1 ≠ 0 ∧ field h (64 + 37) 1 ≠ 0) → exec (.buildSlotTake j.id) s = .next s) ∧
    (∀ i < 2, field h (64 * i + 37) 1 = 0 → (i = 1 → field h 37 1 ≠ 0) →
      let taken := { j with phase := .taken, slot := i, gen := gen, live := live }
      let trees := ((j.ctx, hdr) :: s.trees).eraseDups
      (j.refit = true →
        let parts := slotParts hdr i (field c 24 8) (field c 8 8) (field h (64 * live + 16) 8) (field c 16 4) gen (field h (64 * live + 38) 1)
        ∃ t, exec (.buildSlotTake j.id) s = .next t ∧ t.mem = (s.hubWriteAll j.ctx parts).mem ∧
          HubFrame { s with builds := jobsWith s j.id (fun _ => taken), trees := trees } t) ∧
      (j.refit = false → ∀ cs scene,
        let parts := slotParts hdr i (field c 24 8) (field c 8 8) (field c 40 8) (field c 16 4) gen (field c 20 1)
        let v : State := { s.hubWriteAll j.ctx parts with builds := jobsWith s j.id (fun _ => taken), trees := trees }
        v.buildPlan taken = .ok (cs, scene) →
        ∃ t scratch k f, exec (.buildSlotTake j.id) s = .next t ∧ openParts (field c 48 8) (8 * field c 16 4) scratch ∧
          hubWrote (v.hubSeen j.ctx (field c 8 8) (640 * field c 16 4) .read) t j.ctx
            ([(field c 40 8, wordBytes (4 * 8 ^ field c 20 1) 0)] ++ spineParts (field c 24 8) gen (field c 20 1) scene ++ scratch ++
              [(hdr + 64 * i + 24, wordBytes 4 (2 ^ 30))]) ∧
          HubFrame { s with
            trees := trees
            free := f
            builds := jobsWith s j.id (fun _ => { taken with
              phase := .building
              clusters := cs
              next := spineNodes (field c 20 1) + 8 ^ field c 20 1
              free := k }) } t))) ∧
  (∀ (s : State) (j : BuildJob) (cell : Nat), jobIs s j → j.refit = false → j.phase = .building → 1 ≤ cell →
    cell ≤ 8 ^ field j.cmd 20 1 → cell ∉ j.raised →
    let half := 8 ^ field j.cmd 20 1 / 2
    let turn := 2 ≤ (s.sites.filter Site.live).length ∨ cell ≤ half ∨ ∀ i < half, i + 1 ∈ j.raised
    let e := (emitCell ⟨j.gen, j.free⟩ (field j.cmd 20 1) cell j.clusters ⟨j.next, []⟩).2
    let parts := nodeParts (field j.cmd 24 8) e.nodes ++ [(field j.cmd 40 8 + 4 * (cell - 1), wordBytes 4 1)]
    (¬ turn → exec (.cairnRaise j.id cell) s = .next s) ∧
    (turn → s.canWrite j.ctx (e.nodes.map (fun n => (field j.cmd 24 8 + 128 * n.1, 128)) ++ [(field j.cmd 40 8 + 4 * (cell - 1), 4)]) = .ok () →
      ∃ t, exec (.cairnRaise j.id cell) s = .next t ∧ hubWrote s t j.ctx parts ∧
        HubFrame { s with builds := jobsWith s j.id (fun x => { x with raised := cell :: x.raised, next := e.next }) } t)) ∧
  (∀ (s : State) (j : BuildJob), jobIs s j →
    let c := j.cmd
    let hdr := field c 0 8
    (j.refit = true → j.phase = .taken → ∀ ns root, s.refitPlan j = .ok (ns, root) →
      ∃ t scratch f, exec (.treeLink j.id) s = .next t ∧ openParts (field c 48 8) (8 * field c 16 4) scratch ∧
        linked (hubAll (s.hubSeen j.ctx (field c 8 8) (640 * field c 16 4) .read) j.ctx (nodeParts (field c 24 8) ns ++ scratch)) t j hdr root ∧
        HubFrame { s with builds := jobsWithout s j.id, free := f } t) ∧
    (j.refit = false → j.phase = .building → j.raised.length = 8 ^ field c 20 1 →
      let spine := finalSpine (field c 20 1) j.clusters
      let made := emitSpine ⟨j.gen, j.free⟩ (field c 20 1) j.next spine j.clusters 4 0 0 0 ⟨j.next + spine.length, []⟩
      s.canWrite j.ctx (made.2.nodes.map (fun n => (field c 24 8 + 128 * n.1, 128)) ++ [(hdr, 256), (j.va + 56, 4)]) = .ok () →
      ∃ t, exec (.treeLink j.id) s = .next t ∧
        linked (hubAll s j.ctx (nodeParts (field c 24 8) made.2.nodes)) t j hdr made.1.ref ∧
        HubFrame { s with builds := jobsWithout s j.id } t)) ∧
  (∀ (s : State) (j : BuildJob) (e : BuildStop) (st : Nat), jobIs s j → s.buildStop j = some e → e.status = some st →
    let v := s.stopped j.ctx e
    ∃ t scratch f, exec (.buildFail j.id st) s = .next t ∧ openParts (field j.cmd 48 8) (8 * field j.cmd 16 4) scratch ∧
      hubWrote v t j.ctx (scratch ++ [(field j.cmd 0 8 + 64 * j.slot + 37, wordBytes 1 0), (j.va + 56, wordBytes 4 (st + j.gen * 256))]) ∧
      HubFrame { v with builds := jobsWithout s j.id, free := f } t) ∧
  (∀ (s : State) (ctx hdr slot : Nat) (h : List Byte), s.readHub ctx hdr 256 = .ok h →
    s.canWrite ctx [(hdr + 64 * slot + 37, 1)] = .ok () → slot < 2 →
    ((ctx, hdr) ∈ s.trees → field h (64 * slot + 37) 1 = 3 → field h (64 * slot + 28) 4 = 0 → (ctx, hdr, slot) ∉ s.reclaims →
      ∃ t, exec (.compactorReclaim ctx hdr slot) s = .next t ∧ hubWrote s t ctx [(hdr + 64 * slot + 37, wordBytes 1 4)] ∧
        HubFrame { s with reclaims := s.reclaims ++ [(ctx, hdr, slot)] } t) ∧
    ((ctx, hdr, slot) ∈ s.reclaims → (∀ r ∈ s.rays, ¬ (r.ctx = ctx ∧ r.hdr = hdr ∧ r.slot = some slot)) →
      ∃ t, exec (.compactorFree ctx hdr slot) s = .next t ∧ hubWrote s t ctx [(hdr + 64 * slot + 37, wordBytes 1 0)] ∧
        HubFrame { s with reclaims := s.reclaims.filter (fun x => decide (x ≠ (ctx, hdr, slot))) } t))

/-- A raster command is read, classified, merged and reported; a stream reads an image, decides a slot and sends its frame
(R299, R308, R309, R311, R312, R313, R315, R427, R428, R429, R430). RASTER_START of the first command reads it: one whose
pages are refused ends with 2, a malformed one with 3, and any other runs, its triangles classified as far as the queue and
its pages allow; RASTER_SMALLQ_RESUME classifies on, unless every triangle has been. Of the triangles in order, those of a
malformed cluster and the ones that drop out count in NDISC, one below SMALL is pushed to SMALLQ and counts in NSMALL, with
the queue full the classifier waits there, and any other joins the large ones. RASTER_TILE_FLUSH of a tile whose bin holds
triangles, before all are classified, leaves its slot of the spill area open; RASTER_TILE_FINISH of a classified command
reads a flushed slot back and merges the samples of a tile, each leaving in the visibility buffer the greater of what it
held and the sample, and notes the tile. RASTER_DONE of an ended or finished command writes the three counts and then DONE,
and the command is gone. PRESENT_IMAGE_READ lays the image into the reserve and then writes SENT 1. COLLIE_DECISION, once
the slot's GUARD has come, takes the pose and decides the next slot: a record whose image is whole is its frame, else a
substitute is, SENT of the record becomes 2 and an error record says so. STREAM_SLOT_SEND at the slot's time sends the
frame, or its substitute, on a live port in stream mode. Nothing else changes. -/
def Obligations.RasterAndStreams : Prop :=
  (∀ (s : State) (j : RasterJob) (rest : List RasterJob), s.rasters = j :: rest → j.running = false →
    let i := Instr.rasterStart j.id
    let set := fun (u : State) (x : RasterJob) => exec i s = .next { u with rasters := rastersWith s j.id (fun _ => x) }
    (∀ va, s.readHub j.ctx j.va 128 = .error (.wait va) → exec i s = .next (s.askPage j.ctx va 4)) ∧
    (∀ st, s.readHub j.ctx j.va 128 = .error (.fail st) → set s { j with running := true, ended := some 2 }) ∧
    (∀ va, s.readHub j.ctx j.va 128 = .error (.malformed va) → set (s.malformed j.ctx 0 va) { j with running := true, ended := some 2 }) ∧
    (∀ bs, s.readHub j.ctx j.va 128 = .ok bs →
      ((rasterCmd bs).bad = true → set s { j with running := true, cmd := bs, ended := some 3 }) ∧
      ((rasterCmd bs).bad = false →
        exec i s = .next ((s.hubSeen j.ctx j.va 128 .read).classifyJob { j with running := true, cmd := bs })))) ∧
  (∀ (n : Nat) (j : RasterJob) (s : State) (bs : List Byte),
    let c := rasterCmd j.cmd
    let id := c.first + j.cluster
    let nt := clusterNt bs
    let (v0, v1, v2) := triVerts bs j.tri
    let k := { j with tri := j.tri + 1 }
    (c.count ≤ j.cluster → classify (n + 1) j s = ({ j with classified := true }, s)) ∧
    (j.cluster < c.count → s.readHub j.ctx (c.clus + 640 * id) 640 = .ok bs →
      (clusterBad bs = true → classify (n + 1) j s =
        classify n { j with cluster := j.cluster + 1, tri := 0, ndisc := j.ndisc + Nat.min 64 nt } s) ∧
      (clusterBad bs = false → nt ≤ j.tri → classify (n + 1) j s = classify n { j with cluster := j.cluster + 1, tri := 0 } s) ∧
      (clusterBad bs = false → j.tri < nt →
        (drops c v0 v1 v2 → classify (n + 1) j s = classify n { k with ndisc := j.ndisc + 1 } s) ∧
        (¬ drops c v0 v1 v2 → ¬ below c v0 v1 v2 → classify (n + 1) j s =
          classify n { k with nlarge := j.nlarge + 1, large := j.large ++ [(id, j.tri)] } s) ∧
        (¬ drops c v0 v1 v2 → below c v0 v1 v2 → ∀ pas, s.reachHub j.ctx c.smallq 64 (.write false) = .ok pas →
          let q := pixQueue (pas.map s.mem.get)
          (q.bad = true → classify (n + 1) j s = ({ j with ended := some 2 }, s)) ∧
          (q.bad = false → q.cap ≤ q.held → classify (n + 1) j s = (j, s)) ∧
          (q.bad = false → q.held < q.cap → ∀ es, s.reachHub j.ctx (q.ring + 4 * (q.tail % 2 ^ 32 % q.cap)) 4 (.write false) = .ok es →
            classify (n + 1) j s = classify n { k with nsmall := j.nsmall + 1 }
              ((s.hubSeen j.ctx c.smallq 64 (.write false)).perform
                (es.zip (wordBytes 4 (id * 64 + j.tri)) ++ (pas.drop 16).zip (wordBytes 4 (q.tail + 1))))))))) ∧
  (∀ (s : State) (j : RasterJob), s.findRaster j.id = some j →
    let c := rasterCmd j.cmd
    let set := fun (i : Instr) (u : State) (x : RasterJob) => exec i s = .next { u with rasters := rastersWith s j.id (fun _ => x) }
    (j.classified = true → exec (.rasterSmallqResume j.id) s = .next s) ∧
    (j.classified = false → exec (.rasterSmallqResume j.id) s = .next (s.classifyJob j)) ∧
    (∀ tile, j.classified = false → tile < c.tileCols * c.tileRows → s.tileSite c tile ≠ none →
      let slot := c.spill + tile * c.tileBytes
      (s.binFilled j tile = .ok false → exec (.rasterTileFlush j.id tile) s = .next s) ∧
      (s.binFilled j tile = .ok true → s.reload j tile = .ok () → ∀ pas, s.reachHub j.ctx slot c.tileBytes (.write false) = .ok pas →
        ∃ t parts f, exec (.rasterTileFlush j.id tile) s = .next t ∧ openParts slot c.tileBytes parts ∧ hubWrote s t j.ctx parts ∧
          HubFrame { s with
            free := f
            rasters := rastersWith s j.id (fun _ => { j with flushed := tabSet j.flushed tile j.large.length }) } t)) ∧
    (∀ tile, tile ∉ j.finished → tile < c.tileCols * c.tileRows → j.classified = true → s.tileSite c tile ≠ none →
      let i := Instr.rasterTileFinish j.id tile
      (∀ st, s.reload j tile = .error (.fail st) → set i s { j with ended := some 2 }) ∧
      (∀ ms, s.reload j tile = .ok () → s.tileMerges j tile = .ok ms →
        s.mergeWait j.ctx ms = none → s.mergeDup j.ctx ms = none →
        ((s.mergeAll j.ctx ms).2 = true → set i (s.mergeAll j.ctx ms).1 { j with finished := tile :: j.finished }) ∧
        ((s.mergeAll j.ctx ms).2 = false → set i (s.mergeAll j.ctx ms).1 { j with ended := some 2 })))) ∧
  (∀ (s : State) (ctx va v pa : Nat) (rest : List Nat), s.reachHub ctx va 8 (.write false) = .ok (pa :: rest) → s.memOk →
    (∀ a ∈ pa :: rest, s.lost (a / 128) = false) →
    let u := s.hubSeen ctx va 8 (.write false)
    let t := (s.mergeAll ctx [(va, v)]).1
    (s.mergeAll ctx [(va, v)]).2 = true ∧ memoryWith u t (numberCells pa 8 (Nat.max (numberAt u pa 8) v)) ∧ HubFrame s t ∧
      ∀ ms, s.mergeAll ctx ((va, v) :: ms) = t.mergeAll ctx ms) ∧
  (∀ (s : State) (j : RasterJob), rasterIs s j → j.running = true → (j.ended ≠ none ∨ (j.classified = true ∧ j.tilesDone = true)) →
    ∃ t, exec (.rasterDone j.id) s = .next t ∧
      hubWrote s t j.ctx [(j.va + 68, wordBytes 4 j.nlarge ++ wordBytes 4 j.nsmall ++ wordBytes 4 j.ndisc),
        (j.va + 64, wordBytes 4 (j.ended.getD 1))] ∧
      HubFrame { s with rasters := s.rasters.filter (fun x => decide (x.id ≠ j.id)) } t) ∧
  (∀ (s : State) (n : Nat) (r : FrameRec),
    let x := s.stream n
    let bpp := pixelBytes x.pfmt
    let i := Instr.presentImageRead n
    let mine := fun (f : FrameRec → FrameRec) => x.queue.map (fun q => if q.slot = r.slot then f q else q)
    x.queue.find? (fun q => q.pixels.isNone && !q.refused) = some r →
    (∀ va, s.imageRows r.ctx r.image r.pitch x.width bpp x.height 0 = .error (.wait va) → exec i s = .next (s.askPage r.ctx va 4)) ∧
    (∀ st, s.imageRows r.ctx r.image r.pitch x.width bpp x.height 0 = .error (.fail st) →
      exec i s = .next { s with streams := streamsWith s n { x with queue := mine (fun q => { q with refused := true }) } }) ∧
    (∀ rows, s.imageRows r.ctx r.image r.pitch x.width bpp x.height 0 = .ok rows → s.memOk →
      let px := rows.foldl (fun l row => l ++ (List.range x.width).map (fun i => pixelCodes x.pfmt ((row.drop (i * bpp)).take bpp))) []
      let u := s.performBytes x.resva rows.flatten
      memoryWith s u (rows.flatten.mapIdx (fun i b => (x.resva + i, b))) ∧
      ∃ t, exec i s = .next t ∧ hubWrote u t r.ctx [(r.va + 36, wordBytes 4 1)] ∧
        HubFrame { s with streams := streamsWith s n { x with
          reserve := true
          queue := mine (fun q => { q with pixels := some px }) } } t)) ∧
  (∀ (s : State) (n : Nat),
    let x := s.stream n
    let r := x.queue.find? (fun q => decide (q.slot = x.next))
    let whole := ∃ q, r = some q ∧ q.pixels ≠ none ∧ q.refused = false
    let i := Instr.collieDecision n
    let decided := fun (frame : Option FrameRec) => { s with streams := streamsWith s n { x with
      queue := x.queue.filter (fun q => decide (q.slot ≠ x.next))
      next := x.next + 1
      decided := x.decided ++ [⟨x.next, frame, r.map FrameRec.frameno⟩]
      filled := if frame = none then x.filled else x.filled ++ [x.next]
      pose := if numberAt s x.poseva 4 % 2 = 0 then
          some ((List.range 144).map (fun k => BitVec.ofNat 32 (numberAt s (x.poseva + 16 + 4 * k) 4)))
        else x.pose } }
    (x.enabled = true → x.slotTime x.next ≤ s.time.toNat + x.guardNs →
      (whole → exec i s = .next (decided r)) ∧
      (¬ whole → exec i s = .next (State.report (match r with
        | some q => (decided none).hubWrite q.ctx (q.va + 36) (wordBytes 4 2)
        | none => decided none)
          { Report.plain 0x27 1 with
            ctx := (r.map FrameRec.ctx).getD 0xFF, grid := (r.map FrameRec.owner).getD 0, addr := (r.map FrameRec.va).getD 0 }))) ∧
    ((x.enabled = false ∨ s.time.toNat + x.guardNs < x.slotTime x.next) → exec i s = .next s)) ∧
  (∀ (s : State) (n : Nat) (d : SlotFrame) (rest : List SlotFrame),
    let x := s.stream n
    x.decided = d :: rest →
    let live := s.portsUp.testBit x.port = true ∧ s.fabric.portmode / 4 ^ x.port % 4 = 2
    let does := fun (y : Stream) => exec (.streamSlotSend n) s = .next { s with
      streams := streamsWith s n y
      free := if d.frameno = none then s.free + 1 else s.free }
    (s.time.toNat < x.slotTime d.slot → exec (.streamSlotSend n) s = .next s) ∧
    (x.slotTime d.slot ≤ s.time.toNat → ∃ k, (∀ m, d.frameno = some m → k = m) ∧
      (live → does { x with decided := rest, sent := x.sent ++ [frameSent s x d k] }) ∧
      (¬ live → does { x with decided := rest })))

/-- Launches are taken in turn, droves are placed on cores that have room, and a wave starts at its entry (R21, R24, R26, R31,
R43, R339, R340, R341, R347, R349, R355, R371). HOST_QUEUE_TAKE of a queue that may be taken moves HEAD on and a record
that passes its check becomes a grid, eligible at once where it has no wait event and else held with a tether on it; a
rejected one is signalled; a broken ring is disabled with a record; one whose page is awaited asks for it. CHILD_LAUNCH_TAKE
makes the first child not yet taken eligible, or holds it with a tether on its event; WAIT_EVENT_MET makes a held one
eligible. DROVE_PLACE of what may go puts the drove on the cores named, or claims the pen ways they lack, or where the
placement cannot be made and it is the head pre-empts only resident droves of lower priority and another context that
policy lets go, with those of their grid that have not started. A workgroup of one wave stands on its core with that wave
as Table 1.5 says. PEN_CLAIM_COMPLETE adds one way where the core holds no buffered line (else it may wait); CLAIM_TIMEOUT
gives a claim up on every core, whose clusters its grid shuns; BACKFILL_STOP keeps a cluster for a head that has waited
BACKWAIT; TIMED_START starts a placed drove, its stage 0 accepted; DROVE_RESTORE leaves the drove restoring, with every new
wave in its handler and RESTORE set. PATH_STARVATION and READY_WAVE_STARVATION note what was passed over; LANE_BURST_COUNT
makes the next instruction of a group the last of its burst, with no latch. -/
def Obligations.WorkStarts : Prop :=
  (∀ (s : State) (queue : Nat),
    let h := s.hostQueue queue
    let i := Instr.hostQueueTake queue
    hubUp s → queue < 1024 → h.waiting = true → (s.ctx h.ctx).live = true →
    (h.broken = true → exec i s = .next (State.report (s.perform (numberCells (h.pa + 21) 1 0))
      { Report.plain 0x25 1 with ctx := h.ctx, addr := h.pa })) ∧
    (h.broken = false →
      (∀ va, s.queueRecord queue = .wait va → exec i s = .next (s.askPage h.ctx va 0)) ∧
      (s.queueIsNext queue = false → (∀ va, s.queueRecord queue ≠ .wait va) → exec i s = .next s) ∧
      (s.queueIsNext queue = true →
        (∀ g, s.queueRecord queue = .ok g →
          let u := s.launchSeen h.ctx h.recordVa
          let v := u.takeHead queue h
          let taken := { g with queue := queue }
          (s.memOk → memoryWith u v (numberCells (h.pa + 16) 4 (h.head + 1))) ∧
          { v with
            mem := s.mem
            old := s.old
            tethers := s.tethers
            freed := s.freed
            wakes := s.wakes
            rejected := s.rejected } = { s with queueTurn := queue } ∧
          (g.waitva = 0 → exec i s = .next { v with
            fresh := v.fresh + 1
            grids := tabSet v.grids v.fresh (eligibleGrid v taken) }) ∧
          (g.waitva ≠ 0 → ∀ pa leaf x, v.hubTranslate g.ctx g.waitva .read = .ok pa leaf x →
            exec i s = .next { v.hubSeen g.ctx g.waitva 8 .read with
              fresh := v.fresh + 2
              grids := tabSet v.grids v.fresh { taken with phase := .held }
              unarmed := v.unarmed ++ [eventTether { v with fresh := v.fresh + 1 } v.fresh pa taken] })) ∧
        (∀ st g met, s.queueRecord queue = .bad st g met →
          exec i s = .next (((s.metPage h.ctx met).takeHead queue h).signal 0 g (if st = 4 then 1 else st) false))))) ∧
  (∀ (s : State) (ctx id : Nat) (g : Grid), (s.ctx ctx).childq.find? (fun k => decide ((s.grid k).phase = .queued)) = some id →
    tabGet s.grids id = some g →
    (g.waitva = 0 → exec (.childLaunchTake ctx) s = .next { s with grids := tabMod s.grids id (eligibleGrid s) }) ∧
    (g.waitva ≠ 0 → ∀ pa leaf x, s.hubTranslate g.ctx g.waitva .read = .ok pa leaf x →
      exec (.childLaunchTake ctx) s = .next { s.hubSeen g.ctx g.waitva 8 .read with
        fresh := s.fresh + 1
        grids := tabMod s.grids id (fun g => { g with phase := .held })
        unarmed := s.unarmed ++ [eventTether s id pa g] })) ∧
  (∀ (s : State) (id : Nat) (k : Wake), (s.grid id).phase = .held → k ∈ s.wakes → k.waiter = .grid id →
    exec (.waitEventMet id) s = .next { s with
      wakes := s.wakes.filter (fun k => decide (k.waiter ≠ .grid id))
      grids := tabMod s.grids id (eligibleGrid s) }) ∧
  (∀ (s : State) (grid : Nat) (c : Cand) (g : Grid) (cores : List Nat), s.candOf grid false = some c → tabGet s.grids grid = some g →
    (∀ x ∈ s.droves, s.drove x.1 = x.2) → (∀ k, (s.core k).drover.length ≤ 256) →
    (s.mayGo c = false ∨ (s.canPlace c [] = false ∧ s.head ≠ some c) → exec (.drovePlace grid cores) s = .next s) ∧
    (s.mayGo c = true → s.canPlace c [] = false → s.head = some c →
      ∃ t, exec (.drovePlace grid cores) s = .next t ∧ ∀ d, t.drove d ≠ s.drove d → ∃ v,
        (s.drove v).phase = .resident ∧ (s.drove d).grid = (s.drove v).grid ∧ (d ≠ v → (s.drove d).started = false) ∧
        (s.grid (s.drove v).grid).prio < g.prio ∧ (s.grid (s.drove v).grid).ctx ≠ g.ctx ∧
        s.sched.preempt.testBit (s.grid (s.drove v).grid).prio = true) ∧
    (s.mayGo c = true → s.canPlace c [] = true → s.whole c = false → s.setOk c cores = true →
      ((∃ k ∈ cores, 0 < s.waysShort c cores k) → (∀ k ∈ cores, (s.core k).claim = none) →
        (∀ k x, k ∉ cores → (s.core k).claim = some x → x.grid ≠ grid) → (∀ x ∈ s.cores, tabGet s.cores x.1 = some x.2) →
        ∃ t, exec (.drovePlace grid cores) s = .next t ∧ { t with cores := s.cores } = s ∧
          ∀ k, t.core k = if k ∈ cores ∧ 0 < s.waysShort c cores k then
              { s.core k with claim := some ⟨grid, s.waysShort c cores k, s.time.toNat, 0⟩ }
            else s.core k) ∧
      ((∀ k ∈ cores, s.waysShort c cores k = 0) → g.sched = [] → (∀ d, c.drove = some d → (tabGet s.droves d).isSome = true) →
        let d := c.drove.getD s.fresh
        ∃ t, exec (.drovePlace grid cores) s = .next t ∧ (t.drove d).phase = .resident ∧ (t.drove d).placed = s.time.toNat ∧
          (t.drove d).replayable = g.replay ∧ (t.grid grid).phase = .running ∧
          (t.drove d).started = (!(g.timed && decide (s.time.toNat < g.start)) || (c.drove.any (fun d => (s.drove d).started))) ∧
          (c.drove = none → (t.grid grid).nextDrove = g.nextDrove + 1 ∧ (t.drove d).grid = grid ∧
            (t.drove d).x = g.nextDrove % g.dx ∧ (t.drove d).y = g.nextDrove / g.dx % g.dy ∧ (t.drove d).z = g.nextDrove / (g.dx * g.dy)) ∧
          (∀ r ∈ t.reserved, r.2 ≠ grid) ∧ ∀ r ∈ t.backfill, r.1 ≠ grid))) ∧
  (∀ (s : State) (id d rank core q : Nat) (room : Room), (s.grid id).waves = 1 →
    (s.roomOf core []).take (s.grid id).load = some ([q], room) →
    let t := s.startWg id d rank core
    (∃ key w, key / 16 = core * 4 + q ∧ tabGet t.waves key = some w ∧ WaveStarts (s.grid id) id (s.drove d) s.fresh rank 0 w ∧
      ∀ k, k ≠ key → tabGet t.waves k = tabGet s.waves k) ∧
    (let w := t.wg s.fresh
    w.core = core ∧ w.rank = rank ∧ w.drove = d ∧ w.nwaves = 1 ∧ w.penBytes = ((s.grid id).pen + 1023) / 1024 * 1024 ∧ w.pen = [] ∧ w.sbuf = [] ∧
      w.ended = [] ∧ w.folds.length = (s.grid id).folds ∧ ∀ f ∈ w.folds, f.init = false) ∧
    { t with waves := s.waves, wgs := s.wgs, droves := s.droves, cores := s.cores, fresh := s.fresh } = s ∧
    ((s.grid id).lease = 0 → t.cores = s.cores)) ∧
  (∀ (s : State) (core : Nat) (k : Claim), (s.core core).claim = some k → k.joined < k.ways →
    let more := { s with cores := tabSet s.cores core { s.core core with
        penWays := (s.core core).penWays + 1
        claim := some { k with joined := k.joined + 1 } } }
    (exec (.penClaimComplete core) s = .next more ∨ exec (.penClaimComplete core) s = .next s) ∧
    (s.bufferedLines core = 0 → exec (.penClaimComplete core) s = .next more) ∧
    (k.since + s.sched.claimwait * 1000 ≤ s.time.toNat → exec (.claimTimeout core) s = .next { s with
      cores := claimsDropped s k.grid
      grids := tabMod s.grids k.grid (fun g => { g with shun := (g.shun ++ s.claimClusters k.grid).eraseDups }) })) ∧
  (∀ (s : State) (grid cluster : Nat) (h : Cand), s.head = some h → h.grid = grid → s.fitsNow h = false →
    s.waitFrom h + s.sched.backwait * 1000 ≤ s.time.toNat → (∀ b ∈ s.backfill, b.1 ≠ grid) →
    setsOf (s.grid grid).drove (s.liveCores cluster) ≠ [] → (∃ r, Room.empty.take (s.grid grid).load = some r) →
    exec (.backfillStop grid cluster) s = .next { s with backfill := s.backfill ++ [(grid, cluster)] }) ∧
  (∀ (s : State) (d : Nat), (s.drove d).phase = .resident → (s.drove d).started = false →
    ((s.grid (s.drove d).grid).timed = true → (s.grid (s.drove d).grid).start ≤ s.time.toNat) →
    let reqs := ((s.grid (s.drove d).grid).sched.map (BitVec.ofNat 256)).filter (fun x => decide ((requestOf x).stage = 0))
    let room := ∀ w ∈ (s.drove d).wgs, (s.core (s.wg w).core).drover.length + reqs.length ≤ 256
    let v := (s.drove d).wgs.foldl (fun t w => t.acceptReqs w ((s.grid (s.drove d).grid).stageReqs 0)) s
    (room → exec (.timedStart d) s = .next { v with
      droves := tabMod v.droves d (fun x => { x with started := true })
      ctxs := leftQueue s (s.grid (s.drove d).grid).ctx (s.drove d).grid }) ∧
    (¬ room → exec (.timedStart d) s = .next s)) ∧
  (∀ (s : State) (d : Nat) (cores : List Nat), (tabGet s.droves d).isSome = true → (s.drove d).phase = .saved → s.waits d = true →
    let c := s.droveCand d
    s.mayGo c = true → s.canPlace c [] = true → s.setOk c cores = true → (∀ k ∈ cores, s.waysShort c cores k = 0) →
    ∃ t, exec (.droveRestore d cores) s = .next t ∧ (t.drove d).phase = .restoring ∧ (t.drove d).placed = s.time.toNat ∧
      (t.drove d).target = [] ∧ (∀ r ∈ t.reserved, r.2 ≠ c.grid) ∧
      ∀ k w, tabGet t.waves k = some w → tabGet s.waves k = some w ∨
        (w.handler = true ∧ (w.trap.extractLsb' 0 8).toNat = 0x11 ∧ w.trap.getLsbD 8 = true)) ∧
  (∀ (s : State) (key : Nat) (w : Wave), tabGet s.waves key = some w →
    (∀ pc lanes, w.groups.find? (fun g => (lanesOf g.2).any (fun l => decide (64 ≤ (w.lane l).idle))) = some (pc, lanes) →
      exec (.pathStarvation key) s = .next { s with waves := tabMod s.waves key (fun v => { v with starved := some (w.starved.getD pc) }) }) ∧
    (s.oldest ((s.readyKeys (key / 16)).filter (fun k => s.issuable k && decide ((s.wave k).lastClk + 1024 ≤ s.cycle.toNat))) = some key →
      exec (.readyWaveStarvation key) s = .next { s with
        quarters := tabSet s.quarters (key / 16) { s.quarter (key / 16) with starved := some key } }) ∧
    (∀ pc lanes, (pc, lanes) ∈ w.groups → (∃ l < 32, lanes.getLsbD l = true ∧ 63 ≤ (w.lane l).burst) →
      exec (.laneBurstCount key lanes) s = .next { s with waves := tabMod s.waves key (fun v =>
        v.lanesBy lanes (fun _ x => { x with latches := List.replicate 4 Latch.blank, burst := 64 })) }))

/-- Waves and grids end, droves are pre-empted for a slice, a debugger or a hot cluster, and contexts are enabled and killed
(R17, R19, R98, R151, R284, R333, R334, R342, R356, R357, R358, R448). TIMESLICE_EXPIRE of a grid that has waited a
slice and cannot be placed pre-empts only resident started droves of other contexts and equal priority that have had their
slice and are not DETERMINISTIC. DEBUG_PREEMPT and THERMAL_MIGRATE of a resident drove make it drain with trigger 3 or 2;
a migrating one leaves a cluster that has been too hot for one that is cool enough, its new cores kept as its target and
its move noted; a debugged drove of a context without a handler loses its grid. WAVE_END of a wave that has ended, unless
it is the last of a workgroup with copies still to be made, frees its slot and counts it as ended in its workgroup.
GRID_RETIRE of a grid that is over removes it with its droves and workgroups and signals its status, once what its cores
have committed is performed and nothing holds a release of its workgroups at system scope. CONTEXT_ENABLE of a descriptor
in order makes the context live as it says; any other is turned off, with a record. CONTEXT_KILL of a live context whose
ENABLE is 0, or has been since it went live, leaves nothing of it: no grid, build, raster command, tether, posted write,
duplicate or translation. -/
def Obligations.WorkEnds : Prop :=
  (∀ (s : State) (grid : Nat) (c : Cand), firstCand (s.cands.filter (fun c => decide (c.grid = grid))) = some c →
    (∀ x ∈ s.droves, s.drove x.1 = x.2) →
    (s.sched.modes.testBit 1 = true → s.waitFrom c + s.sched.tslice * 1000 ≤ s.time.toNat → s.canPlace c [] = false →
      ∃ t, exec (.timesliceExpire grid) s = .next t ∧ ∀ d, t.drove d ≠ s.drove d →
        (s.drove d).phase = .resident ∧ (s.drove d).started = true ∧ (s.grid (s.drove d).grid).prio = (s.grid grid).prio ∧
        (s.grid (s.drove d).grid).ctx ≠ (s.grid grid).ctx ∧ (s.grid (s.drove d).grid).deterministic = false ∧
        (s.drove d).placed + s.sched.tslice * 1000 ≤ s.time.toNat) ∧
    ((s.sched.modes.testBit 1 = false ∨ s.time.toNat < s.waitFrom c + s.sched.tslice * 1000 ∨ s.canPlace c [] = true) →
      exec (.timesliceExpire grid) s = .next s)) ∧
  (∀ (s : State) (d : Nat), (tabGet s.droves d).isSome = true → (s.drove d).phase = .resident →
    let vec := (s.ctx (s.grid (s.drove d).grid).ctx).trapvec
    (vec = 0#48 → tabRising s.grids = true →
      ∃ t, exec (.debugPreempt d) s = .next t ∧ tabGet t.grids (s.drove d).grid = none) ∧
    (vec ≠ 0#48 → (s.drove d).started = true → s.canSave d = true →
      ∃ t, exec (.debugPreempt d) s = .next t ∧ (t.drove d).phase = .draining 3 ∧
        ∀ k ∈ s.droveWaves d, ∃ w, tabGet t.waves k = some w ∧ w.preempt = some 3)) ∧
  (∀ (s : State) (d : Nat) (cores : List Nat), (tabGet s.droves d).isSome = true → s.sched.modes.testBit 0 = true → s.migrates d = true →
    ∀ here, s.droveCluster d = some here → s.tooHot here = true →
    (∀ x ∈ s.droves, s.droveCluster x.1 = some here → ¬ (x.2.target ≠ [] ∧ (x.2.phase.halts = true ∨ x.2.phase = .saved)) ∧
      ¬ (s.migrates x.1 = true ∧ s.moreToMove x.1 d = true)) →
    s.setOk ⟨(s.drove d).grid, some d, []⟩ cores = true → (∀ k ∈ cores, s.cooler (clusterOf k) here = true) →
    ∃ t, exec (.thermalMigrate d cores) s = .next t ∧ (t.drove d).phase = .draining 2 ∧ (t.drove d).target = cores ∧
      (t.drove d).lastMove = s.time.toNat) ∧
  (∀ (s : State) (cluster : Nat) (now : Nat) (rest : List (Nat × Nat)), (tabGet s.sensors cluster).getD [] = (now, s.time.toNat) :: rest →
    (s.tooHot cluster = true → s.sched.thermhi < now) ∧
    (∀ other x, s.hottest other = some x → (s.cooler other cluster = true ↔ x + s.sched.thermgap ≤ now))) ∧
  (∀ (s : State) (key : Nat) (w : Wave), tabGet s.waves key = some w → tabRising s.waves = true → waveOver w →
    let last := ∀ k < (s.wg w.wg).nwaves, k ≠ w.index → k ∈ (s.wg w.wg).ended
    let copies := ∃ r ∈ (s.core (s.wg w.wg).core).drover, r.wg = w.wg
    ((last ∧ copies) → exec (.waveEnd key) s = .next s) ∧
    (¬ (last ∧ copies) → (tabGet s.wgs w.wg).isSome = true → (s.drove (s.wg w.wg).drove).phase = .resident →
      ∃ t, exec (.waveEnd key) s = .next t ∧ tabGet t.waves key = none ∧
        (tabGet (s.padAll w.wg).wgs w.wg = none ∨ w.index ∈ (t.wg w.wg).ended))) ∧
  (∀ (s : State) (grid : Nat),
    let mine := s.wgs.filter (fun x => decide (s.wgGrid x.1 = grid))
    let v := (mine.map (fun x => x.2.core)).eraseDups.foldl State.performAll s
    (s.grid grid).phase = .running → (s.grid grid).nextDrove = (s.grid grid).dx * (s.grid grid).dy * (s.grid grid).dz →
    (∀ d ∈ s.droves, d.2.grid = grid → d.2.phase = .ended) → v.gridOver grid = true →
    exec (.gridRetire grid) s = .next (State.signal { v with
      wgs := v.wgs.filter (fun x => !mine.any (fun m => decide (m.1 = x.1)))
      droves := v.droves.filter (fun d => decide (d.2.grid ≠ grid))
      grids := tabErase v.grids grid
      reserved := v.reserved.filter (fun r => decide (r.2 ≠ grid))
      backfill := v.backfill.filter (fun b => decide (b.1 ≠ grid)) } grid (v.grid grid) (v.grid grid).status true)) ∧
  (∀ (s : State) (grid : Nat), s.gridOver grid = true → ∀ x ∈ s.wgs, s.wgGrid x.1 = grid → s.releaseHeld x.2.core x.1 7 = false) ∧
  (∀ (s : State) (ctx : Nat), hubUp s → ctx < 256 → (s.ctx ctx).live = false →
    let b := descriptorAt s ctx
    let good := descOk b = true ∧ s.commonsFits (field b 44 4) = true
    field b 88 8 = 1 →
    (good → ∃ c, exec (.contextEnable ctx) s = .next { s with ctxs := tabSet s.ctxs ctx c } ∧ ContextSays b c) ∧
    (¬ good →
      let pa := s.boot.tables.getD 0 0 + 256 * ctx
      exec (.contextEnable ctx) s = .next (State.report (s.perform (numberCells (pa + 88) 8 0))
        { Report.plain 0x25 1 with ctx := ctx, addr := pa }))) ∧
  (∀ (s : State) (ctx : Nat), (s.ctx ctx).live = true → tabRising s.ctxs = true → tabRising s.grids = true →
    (field (descriptorAt s ctx) 88 8 = 0 ∨ ctx ∈ s.killed) →
    ∃ t, exec (.contextKill ctx) s = .next t ∧ tabGet t.ctxs ctx = none ∧ (∀ g ∈ t.grids, g.2.ctx ≠ ctx) ∧ (∀ j ∈ t.builds, j.ctx ≠ ctx) ∧
      (∀ j ∈ t.rasters, j.ctx ≠ ctx) ∧ (∀ x ∈ t.tethers ++ t.unarmed, x.ctx ≠ ctx) ∧ (∀ p ∈ t.posted, p.ctx ≠ ctx) ∧
      (∀ x ∈ t.trees ++ t.killed.map (fun c => (c, 0)), x.1 ≠ ctx) ∧
      (∀ d ∈ t.dups, d.2.ctx ≠ ctx) ∧ (∀ c ∈ t.cores, ∀ x ∈ c.2.tlb, x.ctx ≠ ctx) ∧ ∀ c ∈ t.sites, ∀ x ∈ c.tlb, x.ctx ≠ ctx)

/-- The scheduler, policy, power and fabric blocks take effect as a whole when GEN changes, or are ignored as a whole with a
record (R346, R412, R421, R434). With the hub READY: while GEN of a block is the one last read, its read changes nothing.
Where it has changed, SCHEDULER_BLOCK_READ, POLICY_BLOCK_READ, POWER_BLOCK_READ (unless the firmware is frozen) and
FABRIC_BLOCK_READ of a block whose fields are within their limits and whose reserved bytes are zero set every field to
what it says, and nothing else (port modes stay as they are until their ports have drained; with stream.0 READY its 64
descriptors are read too, each that is in order and has changed taking effect, with the frames it will no longer send
rejected, and each that is not left as it was with a record); any other block is ignored as a whole, and an error record of KIND 0x25 names its address. -/
def Obligations.BlocksTakeEffect : Prop :=
  (∀ b, streamOk b = true ↔ StreamFits b) ∧
  ∀ (s : State), hubUp s →
    (let b := blockAt s 3
     (field b 24 8 = s.sched.gen → exec .schedulerBlockRead s = .next s) ∧
     (field b 24 8 ≠ s.sched.gen → SchedFits b → exec .schedulerBlockRead s = .next { s with sched := schedSays b }) ∧
     (field b 24 8 ≠ s.sched.gen → ¬ SchedFits b →
        exec .schedulerBlockRead s = .next (ignoredBlock { s with sched := { s.sched with gen := field b 24 8 } } 3))) ∧
    (let b := blockAt s 4
     (field b 24 8 = s.policy.gen → exec .policyBlockRead s = .next s) ∧
     (field b 24 8 ≠ s.policy.gen → PolicyFits b → exec .policyBlockRead s = .next { s with policy := policySays b }) ∧
     (field b 24 8 ≠ s.policy.gen → ¬ PolicyFits b →
        exec .policyBlockRead s = .next (ignoredBlock { s with policy := { s.policy with gen := field b 24 8 } } 4))) ∧
    (let b := blockAt s 5
     (field b 56 8 = s.power.gen ∨ s.power.frozen = true → exec .powerBlockRead s = .next s) ∧
     (field b 56 8 ≠ s.power.gen → s.power.frozen = false → PowerFits s b →
        exec .powerBlockRead s = .next { s with power := powerSays s.power b }) ∧
     (field b 56 8 ≠ s.power.gen → s.power.frozen = false → ¬ PowerFits s b →
        exec .powerBlockRead s = .next (ignoredBlock { s with power := { s.power with gen := field b 56 8 } } 5))) ∧
    (let b := blockAt s 6
     (field b 56 8 = s.fabric.gen → exec .fabricBlockRead s = .next s) ∧
     (field b 56 8 ≠ s.fabric.gen → FabricFits b →
        (s.boot.ready.getLsbD 24 = false → exec .fabricBlockRead s = .next { s with fabric := fabricSays s.fabric b }) ∧
        (s.boot.ready.getLsbD 24 = true →
          exec .fabricBlockRead s = .next (descriptorsRead { s with fabric := fabricSays s.fabric b }))) ∧
     (field b 56 8 ≠ s.fabric.gen → ¬ FabricFits b →
        exec .fabricBlockRead s = .next (ignoredBlock { s with fabric := { s.fabric with gen := field b 56 8 } } 6)))

/-- Maintenance commands are taken in order, take their effect and end with their STATUS (R379, R381, R382, R383, R391, R392,
R393, R394, R395, R419, R446). A command at HEAD with a reserved OP, or with a reserved byte that is not zero, is taken
and ends INVALID. INVAL drops every translation of its range and waits; INVAL_COMPLETE, once the stores of the context to
the ranges they translated are performed, ends it DONE, and before that changes nothing. MIGRATE and DUP of a page block
its walks and drop its translations; while another command blocks the page they wait; having waited CLAIMWAIT for stores
they end BUSY with nothing changed. INVAL_COMPLETE of a MIGRATE whose leaf has changed ends it RACED; else the new frame
holds the bytes of the old, the tethers move, the leaf names it, the old frame is free, and it ends DONE; of a DUP it
fills the replicas, makes the entry, in the table in memory too, sets DUP and DUPIX in the leaf and ends DONE. UNDUP
starts the collapse of its page. DUP_COLLAPSE_ACK drops the die's translations and its replica's lines and counts its
answer; with the last one the leaf is an ordinary one again, the entry is gone, the replicas are free, the writes that
waited are performed in order and the command is DONE. HOTCFG, FRAMES and BRAND take effect and end DONE; a FRAMES with a
frame that does not stand ends INVALID, one whose list is absent asks the pager for it. ATTEST writes the record and its
signature and uses one index, or ends BUSY with none left. HOT_INTERVAL_END writes the candidates by decreasing estimate,
zeros after them, and starts anew. Each changes nothing else. -/
def Obligations.Maintenance : Prop :=
  (∀ (s : State) (i : Instr) (op pa : Nat) (b : List Byte),
    (i, op) ∈ [(.inval, 1), (.migrate, 2), (.dup, 3), (.undup, 4), (.hotcfg, 5), (.frames, 6), (.brand, 7), (.attest, 8)] →
    hubUp s → s.nextCommand = some (pa, b) → (op = 2 ∨ op = 3 → ∀ m ∈ s.maint, ¬ late s op m) →
    (field b 0 1 = 0 ∨ 8 < field b 0 1 ∨ (field b 0 1 = op ∧ ¬ cleanCommand b)) →
    exec i s = .next (ended (taken s) pa 4)) ∧
  (∀ (s : State) (pa : Nat) (b : List Byte), CommandAt s 1 pa b → cleanCommand b → (s.ctx (cmdCtxOf b)).live = true →
    cmdVaOf b % 65536 = 0 → 1 ≤ field b 16 4 →
    let lo := cmdVaOf b
    let hi := lo + 65536 * field b 16 4
    ∃ rs, exec .inval s = .next { untranslated (taken s) (cmdCtxOf b) lo hi with
        maint := s.maint ++ [{ underWay s pa b with ranges := rs }] } ∧
      ∀ r, r ∈ rs ↔ ∃ x, held s x ∧ x.ctx = cmdCtxOf b ∧ x.va < hi ∧ lo < x.va + x.size ∧ r = (ptePa x.leaf, x.size)) ∧
  (∀ (copy : Bool) (s : State) (pa : Nat) (b : List Byte) (x : TlbEntry),
    let i := if copy then Instr.dup else .migrate
    let op := if copy then 3 else 2
    CommandAt s op pa b → (∀ m ∈ s.maint, ¬ late s op m) → PageCommand s b x → dupLeaf x = false →
    (copy = false → frameStands s (cmdPaOf b 0) ∧ homeDie (cmdPaOf b 0) = field b 20 4) →
    (copy = true → field b 20 4 < 8 ∧ s.dups.length < 4096 ∧
      ∀ k ∈ dupSitesOf b, (s.sites.getD k (Site.init false)).live = true ∧ frameStands s (cmdPaOf b k) ∧ homeDie (cmdPaOf b k) / 2 = k) →
    let page := (cmdCtxOf b, cmdVaOf b / 65536)
    (page ∈ s.blockedWalks → exec i s = .next s) ∧
    (page ∉ s.blockedWalks → (∀ m ∈ s.maint, m.pa ≠ pa) →
      exec i s = .next { untranslated (taken s) (cmdCtxOf b) (cmdVaOf b) (cmdVaOf b + 65536) with
        blockedWalks := s.blockedWalks ++ [page]
        maint := s.maint ++ [{ underWay s pa b with leaf := x.leaf, leafPa := x.leafPa, ranges := [(ptePa x.leaf, 65536)] }] })) ∧
  (∀ (copy : Bool) (s : State) (pre post : List Maint) (m : Maint), s.maint = pre ++ m :: post →
    let op := if copy then 3 else 2
    (∀ x ∈ pre, ¬ late s op x) → late s op m →
    exec (if copy then .dup else .migrate) s = .next (endsWith (walksGoOn s m.bytes) m 2)) ∧
  (∀ (s : State) (m : Maint), s.maint.find? (fun x => decide (x.index = m.index)) = some m →
    let b := m.bytes
    let i := Instr.invalComplete m.index
    let performed := storesPerformed s (cmdCtxOf m.bytes) m.ranges
    let quiet := m.dup = none ∧ performed ∧ pageUnlogged s (cmdCtxOf b) (cmdVaOf b)
    let home := ptePa m.leaf
    let now := numberAt s m.leafPa 16
    (m.dup ≠ none ∨ ¬ performed → exec i s = .next s) ∧
    (field b 0 1 ≠ 1 → ¬ pageUnlogged s (cmdCtxOf b) (cmdVaOf b) → exec i s = .next s) ∧
    (field b 0 1 = 1 → m.dup = none → performed → exec i s = .next (endsWith s m 1)) ∧
    (field b 0 1 = 2 → quiet → now ≠ m.leaf → exec i s = .next (endsWith (walksGoOn s b) m 3)) ∧
    (field b 0 1 = 2 → quiet → now = m.leaf → home % 65536 = 0 → cmdPaOf b 0 % 65536 = 0 → s.memOk →
      let new := cmdPaOf b 0
      ∃ u, Copied s u home [new] ∧
        let v := voided ((rehomed u home new).perform (numberCells m.leafPa 16 (m.leaf - home * 2 ^ 64 + new * 2 ^ 64))) [home, new]
        exec i s = .next (endsWith (walksGoOn { v with
          ctxs := tabMod v.ctxs (cmdCtxOf b) (fun c => { c with frames := c.frames ++ [home] }) } b) m 1)) ∧
    (field b 0 1 = 3 → quiet → home % 65536 = 0 → (∀ f ∈ dupFramesOf b, f % 65536 = 0) → s.memOk →
      ∃ u ix, tabGet s.dups ix = none ∧ Copied s u home (dupFramesOf b) ∧
        let v := ({ u with dups := tabSet s.dups ix (dupEntryOf b home) } : State).perform (entryCells s ix (some (dupEntryOf b home)))
        exec i s = .next (endsWith (walksGoOn (voided (v.perform (numberCells m.leafPa 16 ((now ||| 32) + ix * 2 ^ 16))) [home]) b) m 1))) ∧
  (∀ (s : State) (pa : Nat) (b : List Byte) (x : TlbEntry) (d : DupEntry), CommandAt s 4 pa b → PageCommand s b x → dupLeaf x = true →
    tabGet s.dups (dupPlace x) = some d →
    let counted := tabMod s.dups (dupPlace x) (fun e => { e with acks := some (e.acks.getD []) })
    let v := { taken s with
      dups := counted
      maint := s.maint ++ [{ underWay s pa b with leaf := x.leaf, leafPa := x.leafPa, dup := some (dupPlace x) }] }
    ((∃ k, replicaAt d k ∧ k ∉ d.acks.getD []) → exec .undup s = .next v) ∧
    ((∀ k, replicaAt d k → k ∈ d.acks.getD []) → exec .undup s = .next (collapsedPage v (dupPlace x) d))) ∧
  (∀ (s : State) (entry site : Nat) (d : DupEntry) (l : List Nat), tabGet s.dups entry = some d → d.acks = some l →
    let now := if replicaAt d site ∧ site ∉ l then l ++ [site] else l
    let v := if replicaAt d site ∧ site ∉ l then
      { droppedAt s entry site d with dups := tabSet s.dups entry { d with acks := some now } } else s
    ((∃ k, replicaAt d k ∧ k ∉ now) → exec (.dupCollapseAck entry site) s = .next v) ∧
    ((∀ k, replicaAt d k → k ∈ now) → exec (.dupCollapseAck entry site) s = .next (collapsedPage v entry d))) ∧
  (∀ (s : State) (entry site : Nat), (∀ d, tabGet s.dups entry = some d → d.acks = none) → exec (.dupCollapseAck entry site) s = .next s) ∧
  (∀ (s : State) (pa : Nat) (b : List Byte), CommandAt s 5 pa b → cleanCommand b → within 100 1000000 (field b 48 8 % 2 ^ 32) →
    field b 48 8 < 2 ^ 33 →
    exec .hotcfg s = .next (ended { taken s with
      hotInterval := field b 48 8 % 2 ^ 32
      hotOn := (field b 48 8).testBit 32
      dies := s.dies.map (fun d => { d with since := s.time.toNat }) } pa 1)) ∧
  (∀ (s : State) (pa : Nat) (b : List Byte), CommandAt s 6 pa b → cleanCommand b → (s.ctx (cmdCtxOf b)).live = true →
    let n := 8 * field b 16 4
    let v := (taken s).hubSeen (cmdCtxOf b) (cmdPaOf b 0) n .read
    (∀ pas, s.reachHub (cmdCtxOf b) (cmdPaOf b 0) n .read = .ok pas →
      let fs := (List.range (field b 16 4)).map (fun i => field (pas.map s.mem.get) (8 * i) 8)
      ((∀ f ∈ fs, frameStands s f) → exec .frames s = .next (ended { v with
        ctxs := tabMod v.ctxs (cmdCtxOf b) (fun c => { c with frames := c.frames ++ fs }) } pa 1)) ∧
      (¬ (∀ f ∈ fs, frameStands s f) → exec .frames s = .next (ended v pa 4))) ∧
    (∀ va, s.reachHub (cmdCtxOf b) (cmdPaOf b 0) n .read = .error (.wait va) → exec .frames s = .next (s.askPage (cmdCtxOf b) va 0)) ∧
    (∀ x, s.reachHub (cmdCtxOf b) (cmdPaOf b 0) n .read = .error (.fail x) → exec .frames s = .next (ended (taken s) pa 4)) ∧
    (∀ va, s.reachHub (cmdCtxOf b) (cmdPaOf b 0) n .read = .error (.malformed va) →
      exec .frames s = .next (ended ((taken s).malformed (cmdCtxOf b) 0 va) pa 4))) ∧
  (∀ (s : State) (pa : Nat) (b : List Byte), CommandAt s 7 pa b → cleanCommand b → cmdCtxOf b = 255 → field b 20 4 < 2 ^ 17 →
    let brand := field b 20 4 % 65536
    let rest := s.brands.filter (fun x => decide (x ≠ brand))
    (field b 20 4 < 65536 → exec .brand s = .next (ended { taken s with brands := rest } pa 1)) ∧
    (65536 ≤ field b 20 4 → exec .brand s = .next (ended { taken s with
      brands := rest ++ [brand]
      messages := s.messages.filter (fun m => decide (m.brand ≠ brand))
      cores := s.cores.map (fun c => (c.1, { c.2 with drover := c.2.drover.map (fun r =>
        if r.id ∈ (s.messages.filter (fun m => decide (m.brand = brand))).map Message.req then { r with failed := true } else r) })) } pa 1))) ∧
  (∀ (s : State) (pa : Nat) (b : List Byte) (pas : List Nat), CommandAt s 8 pa b → cleanCommand b → (s.ctx (cmdCtxOf b)).live = true →
    cmdVaOf b % 64 = 0 → cmdVaOf b < 2 ^ 48 → b.length = 64 →
    s.reachHub (cmdCtxOf b) (cmdVaOf b) 3076 (.write true) = .ok pas →
    let v := (taken s).hubSeen (cmdCtxOf b) (cmdVaOf b) 3076 (.write true)
    (2 ^ 20 ≤ s.boot.fuse → exec .attest s = .next (ended v pa 2)) ∧
    (s.boot.fuse < 2 ^ 20 → ∃ r, exec .attest s = .next (ended
        (({ v with boot := { s.boot with fuse := s.boot.fuse + 1 } } : State).hubWrite (cmdCtxOf b) (cmdVaOf b) r) pa 1) ∧ r.length = 3076 ∧
      field r 0 4 = 1 ∧ field r 4 4 = s.boot.ready.toNat ∧ field r 8 8 = s.time.toNat ∧ (r.drop 16).take 32 = (b.drop 24).take 32 ∧
      field r 48 8 = s.boot.serial.toNat ∧ r.drop 256 = padTo 2820 (Config.sign s.boot.fuse (r.take 256)))) ∧
  (∀ (s : State) (die : Nat) (d : MemDie), s.hotOn = true → die < 6 → s.dies[die]? = some d → d.live = true →
    d.since + s.hotInterval * 1000 ≤ s.time.toNat →
    ∃ (l : List (Nat × List Nat × Bool)), l.Perm d.cands ∧ l.Pairwise (fun a b => d.estimate b.1 ≤ d.estimate a.1) ∧
      exec (.hotIntervalEnd die) s = .next { s.perform ((List.range 1024).map (fun i =>
          (s.boot.tables.getD 9 0 + 1024 * die + i, ((l.map (hotBytes d)).flatten).getD i 0#8))) with
        dies := s.dies.set die { d with since := s.time.toNat, sketch := [], cands := [] } })

/-- A pager table takes effect as a whole; an upcall is appended to its ring; MAP maps the page, any other reply refuses it
(R377, R384, R385, R386, R387, R389, R390, R392). PAGER_TABLE_READ changes nothing while GEN is the one last read; a table
whose count and entries keep the rules of Table 22.4, with no two regions that meet, replaces the regions of the context,
and any other is ignored as a whole with a record of KIND 0x22. UPCALL of the first upcall of its kind that still waits
for its page, with frames, a fill slot and room in the ring of its region, zeroes the frames, maps them writable at the
slot of PCTX, and writes the record and then TAIL; without one of these it waits, and with a HEAD no ring can have the
region is stopped with a record. PAGER_WAIT_TIMEOUT reports once an upcall that has waited longer than 1 ms. While REPLY
is 0 nothing happens. PAGER_MAP, once no store to the frames is on its way, unmaps the slot, writes the leaf of the page
as the region describes it, and every wave that waited for the page walks again. PAGER_REFUSE, for another reply or a
stopped region, unmaps the slot, gives the frames back, forgets the upcall, and no wave outside a handler waits for the
page any longer: it takes ACCESS, at once or when nothing is owed to it. Each changes nothing else; the hub's walks set
ACCESSED. -/
def Obligations.PagersServe : Prop :=
  (∀ (s : State) (ctx : Nat) (h : List Byte), (s.ctx ctx).live = true → s.hubRead ctx (s.ctx ctx).pagertab 64 = some h → h ≠ [] →
    let i := Instr.pagerTableRead ctx
    let tab := (s.ctx ctx).pagertab
    let gen := field h 0 8
    let n := field h 8 4
    let v := (s.hubSeen ctx tab 64 .read).hubSeen ctx (tab + 64) (if n ≤ 1024 then 64 * n else 0) .read
    let ignored := ({ v with ctxs := tabMod v.ctxs ctx (fun c => { c with pagerGen := gen }) } : State).report
      { Report.plain 0x22 1 with ctx := ctx, addr := tab }
    (gen = (s.ctx ctx).pagerGen → exec i s = .next s) ∧
    (gen ≠ (s.ctx ctx).pagerGen → (1024 < n ∨ ¬ zerosAt h 12 52) → exec i s = .next ignored) ∧
    (gen ≠ (s.ctx ctx).pagerGen → n ≤ 1024 → zerosAt h 12 52 →
      (v.hubRead ctx (tab + 64) (64 * n) = none → exec i s = .next v) ∧
      (∀ b, v.hubRead ctx (tab + 64) (64 * n) = some b →
        let es := (List.range n).map (fun i => (b.drop (64 * i)).take 64)
        let rs := es.map regionSays
        let good := (∀ e ∈ es, RegionFits e) ∧ rs.Pairwise (fun r q => q.hi ≤ r.lo ∨ r.hi ≤ q.lo)
        (good → exec i s = .next { v with ctxs := tabMod v.ctxs ctx (fun c => { c with pagerGen := gen, regions := rs }) }) ∧
        (¬ good → exec i s = .next ignored)))) ∧
  (∀ (s : State) (ctx va kind k : Nat) (u : Upcall),
    let i := Instr.upcall ctx va kind
    let c := s.ctx ctx
    let r := u.reg
    c.upcalls.findIdx? (fun u => u.slot.isNone && decide (u.kind = kind) && decide (u.page ≤ va) && decide (va < u.page + regionPage u.reg)) = some k →
    c.upcalls[k]? = some u →
    ((∃ q, c.regions[u.region]? = some q ∧ q.stopped = true) → exec i s = .next s) ∧
    (s.hubRead r.pctx r.upring 64 = none ∨ c.takeFrames r = none ∨ c.freeFill u.region r = none → exec i s = .next s) ∧
    (∀ hd fs slot, (∀ q, c.regions[u.region]? = some q → q.stopped = false) →
      s.hubRead r.pctx r.upring 64 = some hd → c.takeFrames r = some fs → c.freeFill u.region r = some slot →
      let cap := field hd 8 4
      let tail := field hd 12 4
      let pending := (tail + 2 ^ 32 - field hd 16 4) % 2 ^ 32
      let place := field hd 0 8 + 64 * (tail % cap)
      let leaf := s.leafSlot r.pctx (r.fill + slot * regionPage r) (regionShift r)
      (cap < pending → ∀ q, c.regions[u.region]? = some q →
        exec i s = .next (({ s with ctxs := tabMod s.ctxs ctx (fun c => { c with
          regions := c.regions.mapIdx (fun k x => if k = u.region then { x with stopped := true } else x) }) } : State).report
            { Report.plain 0x22 1 with ctx := ctx, addr := q.upring })) ∧
      (pending = cap → exec i s = .next s) ∧
      (pending < cap → (leaf = none ∨ s.hubPas r.pctx place 64 (.write true) = none ∨ s.hubPas r.pctx (r.upring + 12) 4 (.write true) = none) →
        exec i s = .next s) ∧
      (pending < cap → ∀ pa ps ts, leaf = some pa →
        s.hubPas r.pctx place 64 (.write true) = some ps → s.hubPas r.pctx (r.upring + 12) 4 (.write true) = some ts →
        let v := (({ s with
          mem := s.mem.filter (fun x => decide (x.1 / 65536 * 65536 ∉ fs))
          poisoned := s.poisoned.filter (fun l => decide (l * 128 / 65536 * 65536 ∉ fs))
          ctxs := tabMod s.ctxs ctx (fun c => { c with
            frames := c.frames.filter (fun f => decide (f ∉ fs))
            upcalls := c.upcalls.mapIdx (fun n x => if n = k then { x with slot := some slot, frames := fs, record := place } else x) }) } : State).perform
          (numberCells pa 16 (leafBits true false 0 0 0 0 (fs.headD 0)))).hubSeen r.pctx r.upring 64 .read
        exec i s = .next ((v.hubWrite r.pctx place (upcallRecord u ctx slot s.time.toNat)).hubWrite r.pctx (r.upring + 12)
          (wordBytes 4 (tail + 1)))))) ∧
  (∀ (s : State) (ctx index : Nat) (u : Upcall), (s.ctx ctx).upcalls[index]? = some u →
    (u.slot = none → u.late = false → u.since + 1000000 < s.time.toNat →
      exec (.pagerWaitTimeout ctx index) s = .next (({ s with ctxs := upcallWith s ctx index (fun x => { x with late := true }) } : State).report
        { Report.plain 0x22 1 with ctx := ctx, addr := u.page })) ∧
    (u.slot ≠ none ∨ u.late = true ∨ s.time.toNat ≤ u.since + 1000000 → exec (.pagerWaitTimeout ctx index) s = .next s)) ∧
  (∀ (s : State) (ctx index : Nat) (u : Upcall), (s.ctx ctx).upcalls[index]? = some u →
    let r := u.reg
    let reply := if u.slot = none then 0 else hubNumber s r.pctx (u.record + 12) 4
    let stopped := ∃ q, (s.ctx ctx).regions[u.region]? = some q ∧ q.stopped = true
    let hi := u.page + regionPage r
    let leaf := s.leafSlot ctx u.page (regionShift r)
    (¬ stopped → reply = 0 → exec (.pagerMap ctx index) s = .next s ∧ exec (.pagerRefuse ctx index) s = .next s) ∧
    (reply ≠ 1 ∨ stopped ∨ leaf = none ∨ ¬ framesStill s u.frames → exec (.pagerMap ctx index) s = .next s) ∧
    (reply = 1 → ¬ stopped → exec (.pagerRefuse ctx index) s = .next s) ∧
    (reply = 1 → ¬ stopped → framesStill s u.frames → ∀ pa, leaf = some pa →
      let v := (slotUnmapped (s.hubSeen r.pctx (u.record + 12) 4 .read) u).perform (numberCells pa 16 (upcallLeaf u))
      exec (.pagerMap ctx index) s = .next (walkedAgain (voided { v with
        ctxs := tabMod v.ctxs ctx (fun c => { c with upcalls := c.upcalls.eraseIdx index }) } u.frames) ctx u.page hi)) ∧
    (stopped ∨ (reply ≠ 0 ∧ reply ≠ 1) → ∀ seen, (u.slot = none ∨ stopped → seen = s) →
      (u.slot ≠ none → ¬ stopped → seen = s.hubSeen r.pctx (u.record + 12) 4 .read) →
      let v := ({ seen with ctxs := upcallWith seen ctx index (fun x => { x with refused := true }) } : State)
      s.posted = [] → (∀ f ∈ v.engineWaits, v.failStuck f = v) → tabRising s.waves = true →
      (∃ t, exec (.pagerRefuse ctx index) s = .next t ∧ ∀ k w, tabGet s.waves k = some w → w.handler = false →
        waitsIn w ctx u.page hi → ∀ x, tabGet t.waves k = some x → ¬ waitsIn x ctx u.page hi) ∧
      ((∀ k ∈ s.waves, ¬ waitsIn k.2 ctx u.page hi) →
        exec (.pagerRefuse ctx index) s = .next (upcallOver (v.refuseLogs ctx u.page hi) ctx u)) ∧
      (∀ key w p k t, tabGet s.waves key = some w → w.wait = .page ctx p k t → u.page ≤ p * 65536 → p * 65536 < hi → w.handler = false →
        (∀ x ∈ s.waves, x.1 ≠ key → ¬ waitsIn x.2 ctx u.page hi) →
        let x := { v with waves := tabMod v.waves key (fun w => { w with wait := .none }) }
        let y := if w.owedNothing = true then x.enterTrap key t
          else { v with waves := tabMod v.waves key (fun w => { w with wait := .none, pend := some t }) }
        exec (.pagerRefuse ctx index) s = .next (upcallOver (y.refuseLogs ctx u.page hi) ctx u)) ∧
      ((∀ c ∈ s.cores, ∀ e ∈ c.2.sideLog, ¬ (e.ctx = ctx ∧ u.page ≤ e.va ∧ e.va < hi)) →
        (∀ k ∈ s.waves, ∀ p q c, k.2.wait ≠ .page c p 1 q) → (∀ k ∈ s.waves, ¬ waitsIn k.2 ctx u.page hi) →
        exec (.pagerRefuse ctx index) s = .next (upcallOver v ctx u))))

/-- The host reads and writes device memory over port.0; links accept flits in order and retrain; errors are counted and
recorded, and a unit that erred is tested (R8, R107, R395, R401, R403, R405, R408, R411, R415, R417, R418, R442). An access
of the host that reaches HBM of a READY die over a live port.0 writes the bytes, reads them, or executes 8-byte atomics at
the home and gets the old value; bytes of fields that software may only read keep what they hold; one that does not reach
has no effect and brings nothing; bytes for a duplicated page start its collapse and wait for it, and later messages wait
behind them. HOST_WRITE_ACK takes a write out of those not acknowledged. FLIT_RECEIVE accepts the next flit in order with
a good CRC once for each TAG, counts a bad one, and after 8 makes the link retrain; within 1 ms of a retrain, or after
three that fail, the link is down and what it serves is fenced. ECC_CORRECTED below CERATE writes a record, and beyond it
quarantines the unit; UNCORRECTABLE_ERROR quarantines the unit and loses the data. SELFTEST_START begins a test once the
unit is free, pre-empting or killing what stands on a core; SELFTEST_RESULT ends it: the unit serves again with ACTION 6,
or it is removed with ACTION 7 and a change of the harvest block, a core once its residents have left it. Each changes
nothing else. -/
def Obligations.HostAndErrors : Prop :=
  (∀ (s : State) (a : Nat), s.readOnly a = true ↔ roField s a) ∧
  (∀ (s : State) (pa : Nat) (bs : List Byte),
    let i := Instr.hostRdmaWrite pa bs
    let cells := byteCells pa bs
    (¬ HostReaches s pa bs.length → exec i s = .next s) ∧
    (HostReaches s pa bs.length →
      (s.inbound ≠ [] → exec i s = .next { s with inbound := s.inbound ++ [.write cells] }) ∧
      (s.inbound = [] → ¬ noneWaits s → exec i s = .next { s with inbound := [.write cells] }) ∧
      (s.inbound = [] → noneWaits s → exec i s = .next (heldBytes
        (s.perform (heededCells s (cells.filter (fun c => (s.dupOf c.1).isNone)))) (cells.filter (fun c => (s.dupOf c.1).isSome)))) ∧
      (s.inbound = [] → noneWaits s → (∀ k < bs.length, s.dupOf (pa + k) = none) →
        exec i s = .next (s.perform (heededCells s cells))))) ∧
  (∀ (s : State) (pa n : Nat),
    (HostReaches s pa n → exec (.hostRdmaRead pa n) s = .next { s with hostRead := (List.range n).map (fun i => s.mem.get (pa + i)) }) ∧
    (¬ HostReaches s pa n → exec (.hostRdmaRead pa n) s = .next { s with hostRead := [] })) ∧
  (∀ (s : State) (pa : Nat) (op : Aop) (x y : Dword),
    let i := Instr.hostRdmaAtomic pa op x y
    let fits := HostReaches s pa 8 ∧ pa % 8 = 0 ∧ op ∈ [.add64, .min64, .maxu64, .minu64, .cas64]
    let new := numberCells pa 8 (atomNew op (numberAt s pa 8) x.toNat y.toNat)
    (¬ fits → exec i s = .next { s with hostRead := [] }) ∧
    (fits → s.inbound ≠ [] → exec i s = .next { s with inbound := s.inbound ++ [.atomic pa op x y] }) ∧
    (fits → s.inbound = [] → ¬ noneWaits s → exec i s = .next { s with inbound := [.atomic pa op x y] }) ∧
    (fits → s.inbound = [] → noneWaits s →
      (s.dupOf pa = none → exec i s = .next { s.perform (heededCells s new) with hostRead := wordBytes 8 (numberAt s pa 8) }) ∧
      (∀ k, s.dupOf pa = some k → exec i s = .next { s with
        dups := tabMod s.dups k (fun d => { d with acks := some (d.acks.getD []) })
        inbound := [.atomic pa op x y] }))) ∧
  (∀ (s : State) (k : Nat), exec (.hostWriteAck k) s = .next { s with hostWrites := s.hostWrites.eraseIdx k }) ∧
  (∀ (s : State) (l : Nat) (x : Link), s.links[l]? = some x → l < 9 →
    let retrains := fun (i : Instr) =>
      ((x.lastRetrain = 0 ∨ x.lastRetrain + 1000000 ≤ s.time.toNat) →
        exec i s = .next ((linkWith s l { x with retraining := true, naks := 0 }).report (linkRecord 0x05 1 0 l))) ∧
      (x.lastRetrain ≠ 0 → s.time.toNat < x.lastRetrain + 1000000 → exec i s = .next (linkLost s l x))
    (∀ seq tag crc response,
      let i := Instr.flitReceive l seq tag crc response
      let ahead := (seq + 2 ^ 32 - x.expected) % 2 ^ 32
      (x.up = false ∨ x.retraining = true → exec i s = .next s) ∧
      (x.up = true → x.retraining = false →
        (crc = true → seq = x.expected → exec i s = .next (linkWith s l (acceptedFlit x tag response))) ∧
        (crc = true → seq ≠ x.expected → ¬ (128 ≤ ahead ∧ ahead < 2 ^ 31) → exec i s = .next s) ∧
        (crc = true → seq ≠ x.expected → 128 ≤ ahead → ahead < 2 ^ 31 → retrains i) ∧
        (crc = false → x.naks < 8 → exec i s = .next (linkWith s l { x with naks := x.naks + 1 })) ∧
        (crc = false → 8 ≤ x.naks → retrains i))) ∧
    (x.retraining = false → ∀ good, exec (.linkRetrainDone l good) s = .next s) ∧
    (x.retraining = true →
      exec (.linkRetrainDone l true) s = .next (linkWith s l { x with retraining := false, retrains := 0, lastRetrain := s.time.toNat }) ∧
      (x.retrains < 2 → exec (.linkRetrainDone l false) s = .next (linkWith s l { x with retrains := x.retrains + 1 })) ∧
      (2 ≤ x.retrains → exec (.linkRetrainDone l false) s = .next (linkLost s l x))) ∧
    (s.sites.length = 3 → s.dies.length = 6 → LinkFailed (linkLost s l x) l)) ∧
  (∀ (s : State) (unit loc syn : Nat),
    let i := Instr.eccCorrected unit loc syn
    let r := s.report { unitRecord 0x01 0 unit loc with detail := syn }
    let q := putAside s unit loc
    let now := [(unitOf unit loc, s.time.toNat)]
    (correctedLately s unit loc < s.policy.cerate →
      exec i s = .next { r with errors := { r.errors with corrected := r.errors.corrected ++ now } }) ∧
    (s.policy.cerate ≤ correctedLately s unit loc → exec i s = .next { q with errors := { q.errors with recent := q.errors.recent ++ now } }) ∧
    (∀ d, exec (.uncorrectableError unit loc d) s = .next (lostData q d (unitRecord 0x03 2 unit loc)))) ∧
  (∀ (s : State) (unit loc : Nat),
    (s.quarantined.find? (fun q => decide (q.unit = unit) && decide (q.loc = loc)) = none → exec (.selftestStart unit loc) s = .next s) ∧
    (∀ q, s.quarantined.find? (fun q => decide (q.unit = unit) && decide (q.loc = loc)) = some q →
      (q.lasting = true → exec (.selftestStart unit loc) s = .next (coreOff s unit loc)) ∧
      (q.lasting = false → q.testing = true → exec (.selftestStart unit loc) s = .next s) ∧
      (q.lasting = false → q.testing = false → (unit ≠ 0 ∨ s.residents (locCore loc) = []) → exec (.selftestStart unit loc) s = .next { s with
        quarantined := asideWith s unit loc (fun q => { q with testing := true }) }) ∧
      (q.lasting = false → q.testing = false → unit = 0 → s.residents (locCore loc) ≠ [] →
        exec (.selftestStart unit loc) s = .next ((s.residents (locCore loc)).foldl clearedForTest s))) ∧
    (s.quarantined.find? (fun q => decide (q.unit = unit) && decide (q.loc = loc) && q.testing && !q.lasting) = none →
      ∀ good, exec (.selftestResult unit loc good) s = .next s) ∧
    (∀ q, s.quarantined.find? (fun q => decide (q.unit = unit) && decide (q.loc = loc) && q.testing && !q.lasting) = some q →
      let r := { unitRecord 0x08 1 unit loc with detail := q.seq }
      let passes := erredLately s unit loc < s.policy.sticky
      (passes → exec (.selftestResult unit loc true) s = .next ((withoutUnit s unit loc).report { r with action := 6 })) ∧
      (∀ good, (good = false ∨ ¬ passes) →
        exec (.selftestResult unit loc good) s = .next ((unitOff s unit loc).report { r with sev := 3, action := 7 }))))

/-- A remote access is performed once where it is admitted; messages are acknowledged, sent again or fail; the clock follows
its grandmaster (R228, R419, R422, R423, R424, R425, R443). HIRSEL_MESSAGE_RECEIVE of a message seen before, too long, of
no kind, or admitted by no context changes nothing; one admitted is performed once: a copy or a reduction writes its bytes
and a read reads them; one whose page is absent asks the pager for it. HIRSEL_ACK takes a message out of those its row waits for, with what a read brought.
HIRSEL_RETRANSMIT sends it on a live port of its path entry, and with none, or at FABRIC_TIMEOUT once FABTMO has passed,
or when PORT_DOWN leaves its device none, its request fails. PORT_UP raises a port that is READY; PORTMODE_DRAIN_DONE
gives the first drained port its new mode. PTP_MESSAGE measures the offset, locks after 16 within 20 ns, and before READY
steps TIME forward by a negative one; ANNOUNCE_TIMEOUT lets TIME run free in holdover; TSTAT shows each. -/
def Obligations.RemoteAndClock : Prop :=
  (∀ (s : State) (peer seq from_ brand kind va : Nat) (bs : List Byte),
    let i := Instr.hirselMessageReceive peer seq from_ brand kind va bs
    let seen := seq ∈ (tabGet s.peers peer).getD []
    ((seen ∨ 4096 < bs.length ∨ 4 < kind ∨ ∀ ctx, ¬ AdmittedBy s from_ brand ctx) → exec i s = .next s) ∧
    (¬ seen → bs.length ≤ 4096 → kind ≤ 4 → ∀ ctx, AdmittedBy s from_ brand ctx →
      let reach := s.reachHub ctx va bs.length (if kind = 4 then .read else .write false)
      let peers := tabSet s.peers peer ((tabGet s.peers peer).getD [] ++ [seq])
      let v := s.hubSeen ctx (s.ctx ctx).brandtab (2 * (s.ctx ctx).nbrands) .read
      (∀ pas, reach = .ok pas →
        (kind < 4 → exec i s = .next { v.hubWrite ctx va (messageBytes kind (pas.map s.mem.get) bs) with peers := peers }) ∧
        (kind = 4 → exec i s = .next { v.hubSeen ctx va bs.length .read with peers := peers })) ∧
      (∀ p, reach = .error (.wait p) → exec i s = .next (s.askPage ctx p 4)) ∧
      (∀ x, reach = .error (.fail x) → exec i s = .next s) ∧
      (∀ p, reach = .error (.malformed p) → exec i s = .next (s.malformed ctx 0 p)))) ∧
  (∀ (s : State) (m : Message), s.messages.find? (fun x => decide (x.id = m.id)) = some m →
    (∀ bs, exec (.hirselAck m.id bs) s = .next { s with
      messages := s.messages.filter (fun x => decide (x.id ≠ m.id))
      cores := tabSet s.cores m.core { s.core m.core with drover := (s.core m.core).drover.map (fun r => if r.id = m.req then { r with
        sent := r.sent.map (fun l => l.filter (fun x => decide (x ≠ m.id)))
        got := if r.data.isNone then tabSet r.got m.offset bs else r.got } else r) } }) ∧
    (∀ p, s.pathPort m.device = some p → exec (.hirselRetransmit m.id) s = .next { s with
      messages := s.messages.map (fun x => if x.id = m.id then { x with port := p } else x) }) ∧
    (s.pathPort m.device = none → exec (.hirselRetransmit m.id) s = .next (requestsFail s [m.req])) ∧
    (m.sent + s.fabric.fabtmo * 1000 ≤ s.time.toNat → exec (.fabricTimeout m.id) s = .next (requestsFail s [m.req])) ∧
    (s.time.toNat < m.sent + s.fabric.fabtmo * 1000 → exec (.fabricTimeout m.id) s = .next s)) ∧
  (∀ (s : State) (device p : Nat), s.pathPort device = some p → 1 ≤ p ∧ p ≤ 12 ∧ s.portsUp.testBit p = true ∧
    portModeOf s.fabric.portmode p = 1 ∧ ∃ i < 4, s.mem.get (s.fabric.pathtab + 4 * device + i) = BitVec.ofNat 8 p) ∧
  (∀ (s : State) (port : Nat),
    let v := { s with portsUp := if s.portsUp.testBit port then s.portsUp - 2 ^ port else s.portsUp }
    exec (.portDown port) s = .next (requestsFail v ((s.messages.filter (fun m => (v.pathPort m.device).isNone)).map Message.req)) ∧
    ((12 < port ∨ s.boot.ready.getLsbD (10 + port) = false ∨ s.portsUp.testBit port = true) → exec (.portUp port) s = .next s) ∧
    (port ≤ 12 → s.boot.ready.getLsbD (10 + port) = true → s.portsUp.testBit port = false →
      exec (.portUp port) s = .next { s with portsUp := s.portsUp + 2 ^ port }) ∧
    (port < 13 → modeDrained s port → (∀ q < port, ¬ modeDrained s q) → ∃ t, exec .portmodeDrainDone s = .next t ∧
      { t with fabric := s.fabric } = s ∧ { t.fabric with portmode := s.fabric.portmode } = s.fabric ∧
      ∀ q, portModeOf t.fabric.portmode q = if q = port then portModeOf s.fabric.wanted q else portModeOf s.fabric.portmode q) ∧
    ((∀ q < 13, ¬ modeDrained s q) → exec .portmodeDrainDone s = .next s)) ∧
  (∀ (s : State) (offset : Int),
    let live := s.boot.ready.getLsbD (10 + s.fabric.ptpport) = true ∧ s.portsUp.testBit s.fabric.ptpport = true
    let good := if -20 ≤ offset ∧ offset ≤ 20 then s.ptp.good + 1 else 0
    let early := s.boot.ready.getLsbD 23 = false ∧ offset < 0
    (¬ live → exec (.ptpMessage offset) s = .next s) ∧
    (live → ∀ p : Ptp, p.locked = decide (16 ≤ good) → p.holdover = false → p.good = good → p.offset = offset →
      (early → p.slew = 0 → exec (.ptpMessage offset) s = .next (clocked { s with time := s.time + BitVec.ofInt 64 (-offset) } p)) ∧
      (¬ early → p.slew = -offset → exec (.ptpMessage offset) s = .next (clocked s p))) ∧
    exec .announceTimeout s = .next (clocked s { s.ptp with locked := false, holdover := true, good := 0, slew := 0 }))

/-- Limits stretch clocks, a thermal trip rations issue, budget epochs set the grant and the clock, the watchdog holds the
floor, and images and functions come up (R432, R433, R434, R435, R437, R438, R439, R440, R443, R444, R445). The stretches
mark the site (POWER_LIMIT_STRETCH every site) and CLOCK_STRETCH_END clears its marks. THERMAL_TRIP holds the floor point
with one grant for each quarter of the site, and THERMAL_TRIP_END gives 8 back and, where nothing else holds the floor,
the nominal clock; each shows STATE and writes a record. BUDGET_MESSAGE keeps a member's demand, at most 10,000 W, and
frequency. BUDGET_EPOCH, once an epoch, drops the demands; unless the controller stays frozen it sets the grant and the
clock of the epoch and shows the RO fields. FIRMWARE_FREEZE after 1 ms and WATCHDOG_FLOOR after 50 ms without a signal
freeze the controller and hold the floor; FIRMWARE_SIGNAL of the running slot sets the watchdog. FIRMWARE_VERIFY before
READY writes a slot and chooses the one that runs; later it writes only the slot not running, which takes over at an epoch
boundary once it verifies. FUNCTION_READY sets the bit of a function that may be READY, once; with the hub the harvest
block appears, with a port it is up. -/
def Obligations.PowerAndBringUp : Prop :=
  (∀ (s : State) (site : Nat),
    exec (.powerLimitStretch site) s = .next { s with sites := s.sites.map (fun x => { x with power := true }) } ∧
    exec (.currentLimitStretch site) s = .next { s with sites := siteWith s site (fun x => { x with current := true }) } ∧
    exec (.droopStretch site) s = .next { s with sites := siteWith s site (fun x => { x with droop := true }) } ∧
    exec (.clockStretchEnd site) s = .next { s with sites := siteWith s site (fun x => { x with droop := false, current := false, power := false }) }) ∧
  (∀ (s : State) (site : Nat),
    let on := { s with sites := siteWith s site (fun x => { x with trip := true }), power := { s.power with freq := 800 } }
    let off := { s with sites := siteWith s site (fun x => { x with trip := false }) }
    (∃ qs, rationed s qs site 1 ∧ exec (.thermalTrip site) s = .next ((shown { on with quarters := qs }).report (powerRecord site 0))) ∧
    (∀ x, s.sites[site]? = some x →
      (x.trip = false → exec (.thermalTripEnd site) s = .next s) ∧
      (x.trip = true → ∀ f, ((s.power.floorHold = true ∨ s.power.frozen = true ∨ ∃ y ∈ off.sites, y.trip = true) → f = s.power.freq) →
        (s.power.floorHold = false → s.power.frozen = false → (∀ y ∈ off.sites, y.trip = false) → f = 1050) →
        ∃ qs, rationed s qs site 8 ∧ exec (.thermalTripEnd site) s =
          .next ((shown { off with power := { s.power with freq := f }, quarters := qs }).report (powerRecord site 1))))) ∧
  (∀ (s : State) (member demand freq : Nat),
    let counts := s.power.rackmask.testBit member = true ∨ s.power.freqmask.testBit member = true
    (counts → exec (.budgetMessage member demand freq) s = .next { s with
      power := { s.power with demands := tabSet s.power.demands member (min demand 10000, freq) } }) ∧
    (¬ counts → exec (.budgetMessage member demand freq) s = .next s)) ∧
  (∀ (s : State),
    let epoch := s.time.toNat / 1000000
    (epoch = s.power.epoch → exec .budgetEpoch s = .next s) ∧
    (epoch ≠ s.power.epoch → s.power.frozen = true → ¬ signalled s →
      exec .budgetEpoch s = .next { s with power := { s.power with epoch := epoch, demands := [] } }) ∧
    (epoch ≠ s.power.epoch → (s.power.frozen = false ∨ signalled s) →
      let v := { s with power := { s.power with frozen := false, floorHold := false } }
      let pa := s.boot.tables.getD 5 0
      ∃ g f w, grantIs v g ∧ freqIs v f ∧
        let t := { s with
          power := { v.power with grant := g, freq := f, powerNow := w, epoch := epoch, demands := [] }
          free := s.free + 1 }
        exec .budgetEpoch s = .next (t.perform (numberCells (pa + 28) 4 floorWatts ++ numberCells (pa + 32) 4 w ++
          numberCells (pa + 36) 4 g ++ numberCells (pa + 40) 4 f ++ stateCells t)))) ∧
  (∀ (s : State),
    (signalled s ∨ s.power.frozen = true → exec .firmwareFreeze s = .next s) ∧
    (¬ signalled s → s.power.frozen = false → exec .firmwareFreeze s = .next (shown { s with power := { s.power with frozen := true } })) ∧
    (s.power.floorHold = true ∨ s.time.toNat < s.power.watchdog + 50000000 → exec .watchdogFloor s = .next s) ∧
    (s.power.floorHold = false → s.power.watchdog + 50000000 ≤ s.time.toNat →
      exec .watchdogFloor s = .next ((shown { s with power := { s.power with floorHold := true, frozen := true, freq := 800 } }).report
        (powerRecord 10 2))) ∧
    (∀ slot, (slot = s.power.slot → exec (.firmwareSignal slot) s = .next { s with power := { s.power with watchdog := s.time.toNat } }) ∧
      (slot ≠ s.power.slot → exec (.firmwareSignal slot) s = .next s)) ∧
    (s.power.pendingSlot = none ∨ s.time.toNat / 1000000 = s.power.epoch → exec .firmwareSlotTakeover s = .next s) ∧
    (∀ n, s.power.pendingSlot = some n → s.time.toNat / 1000000 ≠ s.power.epoch →
      exec .firmwareSlotTakeover s = .next (shown { s with
        power := { s.power with slot := n, pendingSlot := none, watchdog := s.time.toNat } }))) ∧
  (∀ (s : State) (slot version : Nat) (image : List Byte),
    let f := romFinds s version image
    let i := Instr.firmwareVerify slot version image
    let b := { s.boot with
      slotA := if slot = 0 then f else s.boot.slotA
      slotB := if slot = 1 then f else s.boot.slotB
      hubImage := if slot = 2 then f else s.boot.hubImage }
    (2 < slot → exec i s = .next s) ∧
    (slot ≤ 2 → s.boot.ready.getLsbD 0 = false →
      (∀ k, slotStarts b k → exec i s = .next { s with boot := b, power := { s.power with slot := k } }) ∧
      (b.slotA.verified = false → b.slotB.verified = false → exec i s = .next { s with boot := b })) ∧
    (hubUp s → (slot = 2 ∨ slot = s.power.slot) → exec i s = .next s) ∧
    (hubUp s → slot < 2 → slot ≠ s.power.slot →
      (f.verified = true → exec i s = .next { s with boot := b, power := { s.power with pendingSlot := some slot } }) ∧
      (f.verified = false → s.power.pendingSlot = some slot → exec i s = .next { s with boot := b, power := { s.power with pendingSlot := none } }) ∧
      (f.verified = false → s.power.pendingSlot ≠ some slot → exec i s = .next { s with boot := b }))) ∧
  (∀ (s : State) (fn : Nat),
    let v := { s with boot := { s.boot with ready := s.boot.ready ||| (1#32 <<< fn) } }
    (¬ mayBeReady s fn ∨ s.boot.ready.getLsbD fn = true → exec (.functionReady fn) s = .next s) ∧
    (mayBeReady s fn → s.boot.ready.getLsbD fn = false →
      (fn = 0 → exec (.functionReady fn) s = .next (({ v with
        power := { s.power with watchdog := s.time.toNat, epoch := s.time.toNat / 1000000 } } : State).perform
          (byteCells (s.boot.tables.getD 8 0) s.harvestBytes))) ∧
      (10 ≤ fn → fn ≤ 22 → exec (.functionReady fn) s = .next { v with portsUp := s.portsUp ||| 2 ^ (fn - 10) }) ∧
      (1 ≤ fn → (fn ≤ 9 ∨ fn = 23 ∨ (fn = 24 ∧ s.fabric.streamtab = 0)) → exec (.functionReady fn) s = .next v) ∧
      (fn = 24 → s.fabric.streamtab ≠ 0 → exec (.functionReady fn) s = .next (descriptorsRead v))))

/-- A step fetches at the program counter of the chosen path group, decodes, and runs that instruction (R18, R20, R22, R23,
R108, R118, R130, R138). Where the next turn is an issue, on the agenda or because no event of the machine's own is due,
and quarter q is the next in the clk, with a group chosen whose words at its program counter decode to instruction i, no
register owed holding it and no poisoned or deferred register read, the step is exec of i in the state with the issue
begun: the group's wave, lanes and program counter, next_pc just past the words, and the turn passed on; after it slot B
of the clk is set and the issue is closed. A group chosen for slot B is issued by the very next step in the same way,
whatever the agenda holds, where its lanes still stand there, slot A neither trapped nor waits for a page, and its ports
are free. The step of an event, which the outside decides or which is the first due of the machine's own, is exec of that
event. At the end of a step the spill entries it has freed are cleared, and contexts it has turned off are marked. -/
def Obligations.StepRunsDecoded : Prop :=
  (∀ (s : State) (r : List Turn) (q : Nat) (a : Issue) (ws : List Word) (ps : List Trans) (i : Instr),
    (s.agenda = .issue :: r ∨ (s.agenda = [] ∧ r = [] ∧ s.dueEvent = none)) → s.slotB = none →
    let u := { s with agenda := r }
    u.quarterList.find? (fun q => decide (u.cursor ≤ q)) = some q → u.slotAOf q = some a →
    u.fetch a.key a.pc = .words ws ps → decode ws = .ok i → (u.wave a.key).holdsFor (u.wave a.key) i a.lanes = false →
    let t := ((u.aim a).touchAll (a.key / 64) false ps).begin i ws.length
    let b := u.besideA a i
    t.badRead i = none →
    t.iss.key = a.key ∧ t.iss.pc = a.pc ∧ t.iss.lanes = a.lanes ∧ t.iss.next = a.pc + BitVec.ofNat 48 (4 * ws.length) ∧
    step s = stepEnd b (exec i { t with
      cursor := q + 1
      portMem := i.memPort
      portTile := i.tilePort
      iss := { t.iss with pairs := b.any (fun x => x.before.isSome) } })) ∧
  (∀ (s : State) (b : Issue) (ws : List Word) (ps : List Trans) (i : Instr), s.slotB = some b →
    let u := { s with slotB := none }
    let w := s.wave b.key
    (∀ l < 32, b.lanes.getLsbD l = true → (w.lane l).state = .ready ∧ (w.lane l).pc = b.pc) →
    (b.before = none → s.issuable b.key = true) →
    (∀ v, b.before = some v → w.pend = none ∧ w.handler = v.handler ∧ ∀ c p k t, w.wait ≠ .page c p k t) →
    u.fetch b.key b.pc = .words ws ps → decode ws = .ok i → portsFree s.portMem s.portTile i = true →
    w.holdsFor (b.before.getD w) i b.lanes = false →
    let t := ((u.aim b).touchAll (b.key / 64) false ps).begin i ws.length
    t.badRead i = none →
    t.iss.key = b.key ∧ t.iss.pc = b.pc ∧ t.iss.lanes = b.lanes ∧ t.iss.next = b.pc + BitVec.ofNat 48 (4 * ws.length) ∧
    step s = stepEnd none (exec i t)) ∧
  (∀ (s : State) (e : Instr) (r : List Turn), s.slotB = none → s.agenda = .occur e :: r → e.cls = 16 →
    step s = eventEnd (exec e { s with agenda := r })) ∧
  (∀ (s : State) (e : Instr), s.slotB = none → s.agenda = [] → s.dueEvent = some e → step s = eventEnd (exec e s)) ∧
  (∀ (s : State) (r : List Turn) (u : Upset), s.slotB = none → s.agenda = .upset u :: r → step s = .next { s with agenda := r, upset := some u })

/-- Every instruction and every event has its effect: no step is refused, and only an agenda that names an instruction as an
event stops one (R130, R361). For every constructor of Instr, with any operands and in any state, exec answers a next
state: what the spec calls an error is a trap taken, a wait or a record written, never a stop of the model. A step is
never refused; it faults only where the model's own agenda asks for an instruction to come about as an event (log entries
7 and 47), and then nothing else is a cause. -/
def Obligations.EveryStepAnswers : Prop :=
  (∀ (i : Instr) (s : State), ∃ t, exec i s = .next t) ∧ (∀ (s : State) (r : Refusal), step s ≠ .refused r) ∧
  (∀ (s : State) (f : Fault), step s = .fault f ↔ f = .notAnEvent ∧ s.slotB = none ∧ ∃ e r, s.agenda = .occur e :: r ∧ e.cls ≠ 16)

/-- Worked encodings of every class decode to the instructions they stand for (R108, R109, R115, R116, R117, R123, R124, R244,
R265, R275, R303). Eighteen of the words that Tables 5.9, 6.9, 7.9, 8.9, 9.10, 10.6, 11.8, 11.13, 12.11, 13.1 and 21.5
write out, at least one of each class, decode to the instruction beside them in the table. -/
def Obligations.DecodesTableWords : Prop :=
  decodeTableWord 32 0x00FFFFFF = some (.bra (BitVec.ofInt 20 (-1))) ∧
  decodeTableWord 32 0x0717FFFD = some (.bsnz 5 (BitVec.ofInt 18 (-3))) ∧
  decodeTableWord 32 0x1140007F = some (.winadd (BitVec.ofInt 7 (-1))) ∧
  decodeTableWord 32 0x124F1E83 = some (.rdst 60 (.reg 61) 3#7) ∧
  decodeTableWord 64 0x000003E82001C1FF = some (.add false (.reg 7) (.reg 3) (.lit 1000#32)) ∧
  decodeTableWord 32 0x301C1FFD = some (.addi (.reg 7) (.reg 3) (BitVec.ofInt 11 (-3))) ∧
  decodeTableWord 32 0x4081B8F6 = some (.fmul false (.reg 6) (.latch 1) (.sreg 2)) ∧
  decodeTableWord 64 0x000000025680C0FF = some (.pk8E4 false (.reg 3) (.reg 1) (.lit 2#32)) ∧
  decodeTableWord 32 0x6400400E = some (.mand 1 (.reg 0) .active) ∧
  decodeTableWord 32 0x75824601 = some (.srdlane (.reg 9) 12 (.reg 1)) ∧
  decodeTableWord 64 0x000000108035C405 = some (.ld 3 .w4 (.ext { hint := .normal, nol2 := false, off := 16#24 }) (.reg 8) (.reg 5)) ∧
  decodeTableWord 32 0x90410482 = some (.ldp .w4 (.reg 4) (.reg 9) 2#7) ∧
  decodeTableWord 64 0xD9400000A037C505 = some (.atom 3 { op := .minu64, ord := .rel, scope := .device, hint := .normal, off := 0#16 } 10 (.reg 5)) ∧
  decodeTableWord 32 0xB0DF0986 = some (.farriveRank 3 (.reg 6)) ∧
  decodeTableWord 64 0x91800000C140050B = some (.mma 0 (.reg 10) (.reg 11)
    { af := .e4m3, bf := { fmt := .e4m3, grp := none }, acc := .f16, rows := 64#7, sat := false, ovr := false }) ∧
  decodeTableWord 64 0x01901C00D00A0402 = some (.nev 40 (.reg 8) (.reg 2) { q := 0, mem := false, fmask := some 3, nin := 16#7, nout := 3#5, trapen := true }) ∧
  decodeTableWord 32 0xD0814404 = some (.emitc (.reg 5) (.reg 8) 4) ∧
  decodeTableWord 64 0x30000000E1C30104 = some (.refill 12 (some 2) 4 (some 3))

/-- Decoding the words of a well-formed instruction gives it back, whatever follows them, and no words stand for two
instructions (R108, R109, R110, R117, R118, R122, R123, R124, R130). For every instruction of classes 0 to 15 that is
well-formed, with every operand at every value its encoding admits: the words the encoder writes from the tables, followed
by any words, decode to it; their number is the length its first word says; and their bytes in memory order decode to it.
Where words decode to an instruction it is well-formed, of a class below 16, and its own words are the words it was
decoded from. -/
def Obligations.DecodeEncode : Prop :=
  (∀ (i : Instr) (rest : List Word), i.cls < 16 → i.wf = true →
    decode (encode i ++ rest) = .ok i ∧ (encode i).length = frameLen i.word ∧ decodeBytes ((encode i).map bytesOfWord).flatten = .ok i) ∧
  (∀ (ws : List Word) (i : Instr), decode ws = .ok i → i.wf = true ∧ i.cls < 16 ∧ ∃ rest, ws = encode i ++ rest)

/-- Every step keeps memory and every commons window in canonical form (R6, R45, R374). In every state where physical memory,
and the commons window of every context, lists its bytes at rising addresses with no entry that equals what an unlisted
address reads as (the model's form, log entry 5), every instruction and every event leaves them so, and so does every
step. -/
def Obligations.MemoryStaysCanonical : Prop :=
  (∀ (i : Instr) (s t : State), canonical s → exec i s = .next t → canonical t) ∧
  (∀ (s t : State), canonical s → step s = .next t → canonical t)

/-- After reset CYCLE is 0, no function is READY, no context is live, nothing is resident, and the blocks hold their defaults
(R26, R154, R332, R333, R346, R401, R412, R413, R421, R434, R440). State.reset has CYCLE 0 (R154), READY 0 (R440), no
context, grid, drove, workgroup or wave, no request to any engine, HGEN 0, SEQ 1, the defaults of the scheduler, policy,
fabric and power blocks (Tables 20.1, 24.2, 25.1, 26.3), and memory that lists nothing, in canonical form; TIME 0 is the
model's choice (log entry 1). -/
def Obligations.ResetState : Prop :=
  let s := State.reset
  s.cycle = 0#64 ∧ s.time = 0#64 ∧ s.boot.ready = 0#32 ∧ s.ctxs = [] ∧ s.grids = [] ∧ s.droves = [] ∧ s.wgs = [] ∧ s.waves = [] ∧
  s.mem = [] ∧ s.old = [] ∧ s.inbound = [] ∧ s.quarantined = [] ∧ s.slotB = none ∧ canonical s ∧ s.cores = [] ∧ s.rays = [] ∧ s.builds = [] ∧ s.rasters = [] ∧ s.streams = [] ∧ s.tethers = [] ∧ s.maint = [] ∧
  s.harvest.hgen = 0 ∧ s.errors.seq = 1 ∧ s.portsUp = 0 ∧
  s.sched.tslice = 2000 ∧ s.sched.backwait = 500 ∧ s.sched.claimwait = 100 ∧ s.sched.timedlead = 200 ∧ s.sched.preempt = 0x7F ∧
  s.sched.thermhi = 95 ∧ s.sched.thermgap = 10 ∧ s.sched.modes = 3 ∧ s.sched.migmin = 10000 ∧ s.sched.gen = 0 ∧
  s.policy.cerate = 16 ∧ s.policy.ueact = 0 ∧ s.policy.replaymax = 2 ∧ s.policy.sticky = 4 ∧ s.policy.testmove = 1 ∧ s.policy.gen = 0 ∧
  s.power.devcap = 10000 ∧ s.power.rackcap = 0 ∧ s.power.boost = 1 ∧ s.power.rationmin = 1 ∧ s.power.freq = 1050 ∧
  s.fabric.devno = 0 ∧ s.fabric.portmode = 0 ∧ s.fabric.fabtmo = 100 ∧ s.fabric.streamtab = 0
end

