-- ==== Sys2Proof/Laws/Encoding.lean ====
section
/-! SUPPORT. Laws/Encoding.lean: operand codes lie below their field's range, and each field of an encoded word reads back. -/

namespace Sys2Proof

theorem VSrc.code_lt (a : VSrc) : a.code < 128 := by cases a <;> simp only [VSrc.code] <;> omega
theorem VDst.code_lt (a : VDst) : a.code < 128 := by cases a <;> simp only [VDst.code] <;> omega
theorem USrc.code_lt (a : USrc) : a.code < 128 := by cases a <;> simp only [USrc.code] <;> omega
theorem UDst.code_lt (a : UDst) : a.code < 128 := by cases a <;> simp only [UDst.code] <;> omega
theorem MSrc.code_lt (a : MSrc) : a.code < 16 := by cases a <;> simp only [MSrc.code] <;> omega
theorem optM_lt (a : Option MReg) : optM a < 16 := by cases a <;> simp only [optM] <;> omega
theorem Width.code_lt (a : Width) : a.code < 8 := by cases a <;> decide
theorem Hint.code_lt (a : Hint) : a.code < 4 := by cases a <;> decide
theorem Scope.code_lt (a : Scope) : a.code < 8 := by cases a <;> decide
theorem Ord.code_lt (a : Ord) : a.code < 4 := by cases a <;> decide
theorem Aop.code_lt (a : Aop) : a.code < 16 := by cases a <;> decide
theorem Cmp.code_lt (a : Cmp) : a.code < 8 := by cases a <;> decide
theorem PFmt.code_lt (a : PFmt) : a.code < 8 := by cases a <;> decide
theorem GLen.code_lt (a : GLen) : a.code < 4 := by cases a <;> decide
theorem optG_lt (a : Option GLen) : optG a < 4 := by cases a <;> simp only [optG] <;> first | omega | (rename_i g; cases g <;> decide)
theorem Acc.code_lt (a : Acc) : a.code < 3 := by cases a <;> decide
theorem Texel.code_lt (a : Texel) : a.code < 8 := by cases a <;> decide
theorem PlaneKind.code_lt (a : PlaneKind) : a.code < 5 := by cases a <;> decide
theorem Cull.code_lt (a : Cull) : a.code < 3 := by cases a <;> decide
theorem MemMod.h_lt (a : MemMod) : a.h < 8 := by cases a <;> simp only [MemMod.h] <;> first | omega | (rename_i h; cases h <;> decide)

theorem encR_class (cls op nw d a b : Nat) (hcls : cls < 16) (hop : op < 64) (hnw : nw < 2) (hd : d < 128) (ha : a < 128) (hb : b < 128) : fld (encR cls op nw d a b) 28 4 = cls := by
  simp only [fld, encR, BitVec.toNat_ofNat]; omega

theorem encR_op (cls op nw d a b : Nat) (hop : op < 64) (hnw : nw < 2) (hd : d < 128) (ha : a < 128) (hb : b < 128) : fld (encR cls op nw d a b) 22 6 = op := by
  simp only [fld, encR, BitVec.toNat_ofNat]; omega

theorem encR_nw (cls op nw d a b : Nat) (hnw : nw < 2) (hd : d < 128) (ha : a < 128) (hb : b < 128) : fld (encR cls op nw d a b) 21 1 = nw := by
  simp only [fld, encR, BitVec.toNat_ofNat]; omega

theorem encR_d (cls op nw d a b : Nat) (hd : d < 128) (ha : a < 128) (hb : b < 128) : fld (encR cls op nw d a b) 14 7 = d := by
  simp only [fld, encR, BitVec.toNat_ofNat]; omega

theorem encR_a (cls op nw d a b : Nat) (ha : a < 128) (hb : b < 128) : fld (encR cls op nw d a b) 7 7 = a := by
  simp only [fld, encR, BitVec.toNat_ofNat]; omega

theorem encR_b (cls op nw d a b : Nat) (hb : b < 128) : fld (encR cls op nw d a b) 0 7 = b := by
  simp only [fld, encR, BitVec.toNat_ofNat]; omega

theorem encI_class (op d a imm : Nat) (hop : op < 8) (hd : d < 128) (ha : a < 128) (himm : imm < 2048) : fld (encI op d a imm) 28 4 = 3 := by
  simp only [fld, encI, BitVec.toNat_ofNat]; omega

theorem encI_op (op d a imm : Nat) (hop : op < 8) (hd : d < 128) (ha : a < 128) (himm : imm < 2048) : fld (encI op d a imm) 25 3 = op := by
  simp only [fld, encI, BitVec.toNat_ofNat]; omega

theorem encI_d (op d a imm : Nat) (hd : d < 128) (ha : a < 128) (himm : imm < 2048) : fld (encI op d a imm) 18 7 = d := by
  simp only [fld, encI, BitVec.toNat_ofNat]; omega

theorem encI_a (op d a imm : Nat) (ha : a < 128) (himm : imm < 2048) : fld (encI op d a imm) 11 7 = a := by
  simp only [fld, encI, BitVec.toNat_ofNat]; omega

theorem encI_imm (op d a imm : Nat) (himm : imm < 2048) : fld (encI op d a imm) 0 11 = imm := by
  simp only [fld, encI, BitVec.toNat_ofNat]; omega

theorem encB_class (op m off : Nat) (hop : op < 16) (hm : m < 16) (hoff : off < 2 ^ 20) : fld (encB op m off) 28 4 = 0 := by
  simp only [fld, encB, BitVec.toNat_ofNat]; omega

theorem encB_op (op m off : Nat) (hop : op < 16) (hm : m < 16) (hoff : off < 2 ^ 20) : fld (encB op m off) 24 4 = op := by
  simp only [fld, encB, BitVec.toNat_ofNat]; omega

theorem encB_m (op m off : Nat) (hm : m < 16) (hoff : off < 2 ^ 20) : fld (encB op m off) 20 4 = m := by
  simp only [fld, encB, BitVec.toNat_ofNat]; omega

theorem encB_off (op m off : Nat) (hoff : off < 2 ^ 20) : fld (encB op m off) 0 20 = off := by
  simp only [fld, encB, BitVec.toNat_ofNat]; omega

theorem encBS_class (op s off : Nat) (hop : op < 16) (hs : s < 64) (hoff : off < 2 ^ 18) : fld (encBS op s off) 28 4 = 0 := by
  simp only [fld, encBS, BitVec.toNat_ofNat]; omega

theorem encBS_op (op s off : Nat) (hop : op < 16) (hs : s < 64) (hoff : off < 2 ^ 18) : fld (encBS op s off) 24 4 = op := by
  simp only [fld, encBS, BitVec.toNat_ofNat]; omega

theorem encBS_s (op s off : Nat) (hs : s < 64) (hoff : off < 2 ^ 18) : fld (encBS op s off) 18 6 = s := by
  simp only [fld, encBS, BitVec.toNat_ofNat]; omega

theorem encBS_off (op s off : Nat) (hoff : off < 2 ^ 18) : fld (encBS op s off) 0 18 = off := by
  simp only [fld, encBS, BitVec.toNat_ofNat]; omega

theorem encJ_class (op m a : Nat) (hop : op < 16) (hm : m < 16) (ha : a < 128) : fld (encJ op m a) 28 4 = 0 := by
  simp only [fld, encJ, BitVec.toNat_ofNat]; omega

theorem encJ_op (op m a : Nat) (hop : op < 16) (hm : m < 16) (ha : a < 128) : fld (encJ op m a) 24 4 = op := by
  simp only [fld, encJ, BitVec.toNat_ofNat]; omega

theorem encJ_m (op m a : Nat) (hm : m < 16) (ha : a < 128) : fld (encJ op m a) 20 4 = m := by
  simp only [fld, encJ, BitVec.toNat_ofNat]; omega

theorem encJ_a (op m a : Nat) (ha : a < 128) : fld (encJ op m a) 7 7 = a := by
  simp only [fld, encJ, BitVec.toNat_ofNat]; omega

theorem encJ_b (op m a : Nat)  : fld (encJ op m a) 0 7 = 0 := by
  simp only [fld, encJ, BitVec.toNat_ofNat]; omega

theorem encJ_spare (op m a : Nat) (ha : a < 128) : fld (encJ op m a) 14 6 = 0 := by
  simp only [fld, encJ, BitVec.toNat_ofNat]; omega

theorem encM_class (cls op q w h d a : Nat) (hcls : cls < 16) (hop : op < 16) (hq : q < 16) (hw : w < 8) (hh : h < 8) (hd : d < 128) (ha : a < 128) : fld (encM cls op q w h d a) 28 4 = cls := by
  simp only [fld, encM, BitVec.toNat_ofNat]; omega

theorem encM_op (cls op q w h d a : Nat) (hop : op < 16) (hq : q < 16) (hw : w < 8) (hh : h < 8) (hd : d < 128) (ha : a < 128) : fld (encM cls op q w h d a) 24 4 = op := by
  simp only [fld, encM, BitVec.toNat_ofNat]; omega

theorem encM_q (cls op q w h d a : Nat) (hq : q < 16) (hw : w < 8) (hh : h < 8) (hd : d < 128) (ha : a < 128) : fld (encM cls op q w h d a) 20 4 = q := by
  simp only [fld, encM, BitVec.toNat_ofNat]; omega

theorem encM_w (cls op q w h d a : Nat) (hw : w < 8) (hh : h < 8) (hd : d < 128) (ha : a < 128) : fld (encM cls op q w h d a) 17 3 = w := by
  simp only [fld, encM, BitVec.toNat_ofNat]; omega

theorem encM_h (cls op q w h d a : Nat) (hh : h < 8) (hd : d < 128) (ha : a < 128) : fld (encM cls op q w h d a) 14 3 = h := by
  simp only [fld, encM, BitVec.toNat_ofNat]; omega

theorem encM_d (cls op q w h d a : Nat) (hd : d < 128) (ha : a < 128) : fld (encM cls op q w h d a) 7 7 = d := by
  simp only [fld, encM, BitVec.toNat_ofNat]; omega

theorem encM_a (cls op q w h d a : Nat) (ha : a < 128) : fld (encM cls op q w h d a) 0 7 = a := by
  simp only [fld, encM, BitVec.toNat_ofNat]; omega

theorem encP_class (op w d a off : Nat) (hop : op < 16) (hw : w < 8) (hd : d < 128) (ha : a < 128) (hoff : off < 128) : fld (encP op w d a off) 28 4 = 9 := by
  simp only [fld, encP, BitVec.toNat_ofNat]; omega

theorem encP_op (op w d a off : Nat) (hop : op < 16) (hw : w < 8) (hd : d < 128) (ha : a < 128) (hoff : off < 128) : fld (encP op w d a off) 24 4 = op := by
  simp only [fld, encP, BitVec.toNat_ofNat]; omega

theorem encP_w (op w d a off : Nat) (hw : w < 8) (hd : d < 128) (ha : a < 128) (hoff : off < 128) : fld (encP op w d a off) 21 3 = w := by
  simp only [fld, encP, BitVec.toNat_ofNat]; omega

theorem encP_d (op w d a off : Nat) (hd : d < 128) (ha : a < 128) (hoff : off < 128) : fld (encP op w d a off) 14 7 = d := by
  simp only [fld, encP, BitVec.toNat_ofNat]; omega

theorem encP_a (op w d a off : Nat) (ha : a < 128) (hoff : off < 128) : fld (encP op w d a off) 7 7 = a := by
  simp only [fld, encP, BitVec.toNat_ofNat]; omega

theorem encP_off (op w d a off : Nat) (hoff : off < 128) : fld (encP op w d a off) 0 7 = off := by
  simp only [fld, encP, BitVec.toNat_ofNat]; omega

end Sys2Proof
end

