-- ==== Sys2Proof/Laws/Memory.lean ====
section
/-! SUPPORT. Laws/Memory.lean: the laws of the sparse stores: what reads back after a write, and that every operation on
memory keeps its canonical form. -/

namespace Sys2Proof.Laws

open Sys2Proof Sys2Proof.Machine

variable {α : Type}

/-- Every key of the list lies above `j`. -/
def Above (j : Nat) (t : Tab α) : Prop := ∀ x ∈ t, j < x.1

theorem above_nil (j : Nat) : Above j ([] : Tab α) := by simp [Above]

theorem above_cons {j k : Nat} {v : α} {t : Tab α} : Above j ((k, v) :: t) ↔ j < k ∧ Above j t := by simp [Above]

theorem above_trans {j k : Nat} {t : Tab α} (h : j < k) (ht : Above k t) : Above j t := fun x hx => lt_trans h (ht x hx)

theorem rising_cons {j : Nat} {v : α} {t : Tab α} : tabRising ((j, v) :: t) = true ↔ Above j t ∧ tabRising t = true := by
  induction t generalizing j v with
  | nil => simp [tabRising, Above]
  | cons x r ih =>
    obtain ⟨k, w⟩ := x
    rw [tabRising, Bool.and_eq_true, decide_eq_true_iff, ih, above_cons]
    exact ⟨fun ⟨h, ha, hr⟩ => ⟨⟨h, above_trans h ha⟩, ha, hr⟩, fun ⟨⟨h, _⟩, ha, hr⟩ => ⟨h, ha, hr⟩⟩

theorem tabGet_above {j k : Nat} {t : Tab α} (ht : Above j t) (h : k ≤ j) : tabGet t k = none := by
  induction t with
  | nil => rfl
  | cons x r ih =>
    obtain ⟨i, w⟩ := x
    rw [above_cons] at ht
    rw [tabGet, if_neg (by omega), ih ht.2]

theorem tabGet_tabSet (t : Tab α) (k c : Nat) (v : α) : tabGet (tabSet t k v) c = if c = k then some v else tabGet t c := by
  induction t with
  | nil => simp only [tabSet, tabGet, eq_comm]
  | cons x r ih =>
    obtain ⟨j, w⟩ := x
    by_cases h1 : j < k
    · rw [tabSet, if_pos h1, tabGet, tabGet, ih]
      by_cases h2 : j = c
      · rw [if_pos h2, if_pos h2, if_neg (by omega)]
      · rw [if_neg h2, if_neg h2]
    · by_cases h2 : j = k
      · subst h2
        rw [tabSet, if_neg h1, if_pos rfl, tabGet, tabGet]
        by_cases h3 : j = c
        · subst h3; simp
        · rw [if_neg h3, if_neg h3, if_neg (by omega)]
      · rw [tabSet, if_neg h1, if_neg h2, tabGet]
        by_cases h3 : k = c
        · subst h3; simp
        · rw [if_neg h3, if_neg (by omega)]

theorem tabGet_tabErase {t : Tab α} (ht : tabRising t = true) (k c : Nat) :
    tabGet (tabErase t k) c = if c = k then none else tabGet t c := by
  induction t with
  | nil => simp [tabErase, tabGet]
  | cons x r ih =>
    obtain ⟨j, w⟩ := x
    rw [rising_cons] at ht
    by_cases h : j = k
    · subst h
      rw [tabErase, if_pos rfl, tabGet]
      by_cases h2 : c = j
      · subst h2; rw [if_pos rfl, tabGet_above ht.1 le_rfl]
      · rw [if_neg h2, if_neg (by omega)]
    · rw [tabErase, if_neg h, tabGet, tabGet, ih ht.2]
      by_cases h2 : j = c
      · rw [if_pos h2, if_pos h2, if_neg (by omega)]
      · rw [if_neg h2, if_neg h2]

theorem tabGet_tabMod (t : Tab α) (k c : Nat) (f : α → α) :
    tabGet (tabMod t k f) c = if c = k then (tabGet t k).map f else tabGet t c := by
  induction t with
  | nil => simp [tabMod, tabGet]
  | cons x r ih =>
    obtain ⟨j, w⟩ := x
    by_cases h : j = k
    · subst h
      rw [tabMod, if_pos rfl, tabGet, tabGet, tabGet]
      by_cases h2 : c = j
      · subst h2; simp
      · rw [if_neg (by omega), if_neg h2, if_neg (by omega)]
    · rw [tabMod, if_neg h, tabGet, tabGet, tabGet, ih, if_neg h]
      by_cases h2 : j = c
      · rw [if_pos h2, if_pos h2, if_neg (by omega)]
      · rw [if_neg h2, if_neg h2]

theorem above_tabSet {j k : Nat} {v : α} {t : Tab α} (ht : Above j t) (h : j < k) : Above j (tabSet t k v) := by
  induction t with
  | nil => simpa [tabSet, Above] using h
  | cons x r ih =>
    obtain ⟨i, w⟩ := x
    rw [above_cons] at ht
    rw [tabSet]
    split
    · exact above_cons.2 ⟨ht.1, ih ht.2⟩
    · split
      · exact above_cons.2 ⟨h, ht.2⟩
      · exact above_cons.2 ⟨h, above_cons.2 ht⟩

theorem rising_tabSet {k : Nat} {v : α} {t : Tab α} (ht : tabRising t = true) : tabRising (tabSet t k v) = true := by
  induction t with
  | nil => rfl
  | cons x r ih =>
    obtain ⟨j, w⟩ := x
    rw [rising_cons] at ht
    rw [tabSet]
    split
    · exact rising_cons.2 ⟨above_tabSet ht.1 ‹_›, ih ht.2⟩
    · split
      · subst_vars; exact rising_cons.2 ht
      · exact rising_cons.2 ⟨above_cons.2 ⟨by omega, above_trans (by omega) ht.1⟩, rising_cons.2 ht⟩

theorem mem_tabErase {k : Nat} {t : Tab α} {x : Nat × α} (h : x ∈ tabErase t k) : x ∈ t := by
  induction t with
  | nil => simp [tabErase] at h
  | cons y r ih =>
    obtain ⟨j, w⟩ := y
    rw [tabErase] at h
    split at h
    · exact List.mem_cons_of_mem _ h
    · rcases List.mem_cons.1 h with h | h
      · exact h ▸ List.mem_cons_self
      · exact List.mem_cons_of_mem _ (ih h)

theorem rising_tabErase {k : Nat} {t : Tab α} (ht : tabRising t = true) : tabRising (tabErase t k) = true := by
  induction t with
  | nil => rfl
  | cons x r ih =>
    obtain ⟨j, w⟩ := x
    rw [rising_cons] at ht
    rw [tabErase]
    split
    · exact ht.2
    · exact rising_cons.2 ⟨fun y hy => ht.1 y (mem_tabErase hy), ih ht.2⟩

theorem mem_tabSet {k : Nat} {v : α} {t : Tab α} {x : Nat × α} (h : x ∈ tabSet t k v) : x = (k, v) ∨ x ∈ t := by
  induction t with
  | nil => simpa [tabSet] using h
  | cons y r ih =>
    obtain ⟨j, w⟩ := y
    rw [tabSet] at h
    split at h
    · rcases List.mem_cons.1 h with h | h
      · exact .inr (h ▸ List.mem_cons_self)
      · exact (ih h).imp id (List.mem_cons_of_mem _)
    · split at h
      · exact (List.mem_cons.1 h).imp id (List.mem_cons_of_mem _)
      · exact List.mem_cons.1 h

theorem rising_filter {p : Nat × α → Bool} {t : Tab α} (ht : tabRising t = true) : tabRising (t.filter p) = true := by
  induction t with
  | nil => rfl
  | cons x r ih =>
    obtain ⟨j, w⟩ := x
    rw [rising_cons] at ht
    by_cases h : p (j, w) = true
    · rw [List.filter_cons_of_pos h]
      exact rising_cons.2 ⟨fun y hy => ht.1 y (List.mem_of_mem_filter hy), ih ht.2⟩
    · rw [List.filter_cons_of_neg h]
      exact ih ht.2

/-! ## Memory -/

theorem wf_iff {m : Memory} : m.wf = true ↔ tabRising m = true ∧ ∀ c ∈ m, c.2 ≠ Memory.unlisted := by
  simp [Memory.wf]

theorem wf_nil : Memory.wf ([] : Memory) = true := rfl

/-- Reading back one byte. -/
theorem get_set {m : Memory} (h : m.wf = true) (a c : Nat) (b : Byte) : (m.set a b).get c = if c = a then b else m.get c := by
  rw [wf_iff] at h
  unfold Memory.set Memory.get
  by_cases hb : b = Memory.unlisted
  · rw [if_pos hb, tabGet_tabErase h.1]
    split <;> simp [hb]
  · rw [if_neg hb, tabGet_tabSet]
    split <;> simp

theorem wf_set {m : Memory} (h : m.wf = true) (a : Nat) (b : Byte) : (m.set a b).wf = true := by
  rw [wf_iff] at h ⊢
  unfold Memory.set
  by_cases hb : b = Memory.unlisted
  · rw [if_pos hb]
    exact ⟨rising_tabErase h.1, fun c hc => h.2 c (mem_tabErase hc)⟩
  · rw [if_neg hb]
    refine ⟨rising_tabSet h.1, fun c hc => ?_⟩
    rcases mem_tabSet hc with rfl | hc
    · exact hb
    · exact h.2 c hc

theorem wf_setCells {m : Memory} (h : m.wf = true) (cs : List (Nat × Byte)) : (m.setCells cs).wf = true := by
  unfold Memory.setCells
  induction cs generalizing m with
  | nil => exact h
  | cons c r ih => exact ih (wf_set h c.1 c.2)

theorem wf_setBytes {m : Memory} (h : m.wf = true) (a : Nat) (bs : List Byte) : (m.setBytes a bs).wf = true := by
  induction bs generalizing m a with
  | nil => exact h
  | cons b r ih => exact ih (wf_set h a b) (a + 1)

theorem wf_filter {m : Memory} (h : m.wf = true) (p : Host.Cell → Bool) : Memory.wf (m.filter p) = true := by
  rw [wf_iff] at h ⊢
  exact ⟨rising_filter h.1, fun c hc => h.2 c (List.mem_of_mem_filter hc)⟩

/-- Bytes no cell of a write names read as before. -/
theorem get_setCells_of_not_mem {m : Memory} (h : m.wf = true) {cs : List (Nat × Byte)} {a : Nat}
    (ha : ∀ c ∈ cs, c.1 ≠ a) : (m.setCells cs).get a = m.get a := by
  unfold Memory.setCells
  induction cs generalizing m with
  | nil => rfl
  | cons c r ih =>
    rw [List.foldl_cons, ih (wf_set h c.1 c.2) (fun x hx => ha x (List.mem_cons_of_mem _ hx)), get_set h,
      if_neg (fun e => ha c List.mem_cons_self e.symm)]

theorem get_setBytes {m : Memory} (h : m.wf = true) (a c : Nat) (bs : List Byte) :
    (m.setBytes a bs).get c = if a ≤ c ∧ c < a + bs.length then bs.getD (c - a) 0#8 else m.get c := by
  induction bs generalizing m a with
  | nil => rw [if_neg (by simp)]; rfl
  | cons b r ih =>
    rw [Memory.setBytes, ih (wf_set h a b) (a + 1), get_set h]
    by_cases h1 : c = a
    · subst h1; simp
    · by_cases h2 : a + 1 ≤ c ∧ c < a + 1 + r.length
      · rw [if_pos h2, if_pos (by simp; omega), show c - a = c - (a + 1) + 1 by omega]; simp
      · rw [if_neg h2, if_neg h1, if_neg (by simp; omega)]

theorem wf_copyFrame {m : Memory} (h : m.wf = true) (src dst : Nat) : (m.copyFrame src dst).wf = true := by
  exact wf_setCells (wf_filter h _) _

theorem wf_placeMem {m : Memory} (h : m.wf = true) (nbits w : Nat) : (placeMem m nbits w).wf = true := by
  simp only [placeMem]
  repeat' apply wf_setBytes
  exact h

theorem wf_reset : State.reset.mem.wf = true := rfl

theorem wf_withFetchWord {s : State} (h : s.mem.wf = true) (nbits w : Nat) : (s.withFetchWord nbits w).mem.wf = true :=
  wf_placeMem h nbits w

end Sys2Proof.Laws
end

