-- ==== Sys2Proof/Laws/State.lean ====
section
/-! SUPPORT. Laws/State.lean: what each update of one table leaves of every field of the state, and what it puts there. -/

namespace Sys2Proof.Machine

open Sys2Proof

/-! ### `modWave` -/

@[simp] theorem State.modWave_cycle (s : State) (key : Nat) (f : Wave → Wave) : (s.modWave key f).cycle = s.cycle := rfl
@[simp] theorem State.modWave_time (s : State) (key : Nat) (f : Wave → Wave) : (s.modWave key f).time = s.time := rfl
@[simp] theorem State.modWave_subNs (s : State) (key : Nat) (f : Wave → Wave) : (s.modWave key f).subNs = s.subNs := rfl
@[simp] theorem State.modWave_cursor (s : State) (key : Nat) (f : Wave → Wave) : (s.modWave key f).cursor = s.cursor := rfl
@[simp] theorem State.modWave_slotB (s : State) (key : Nat) (f : Wave → Wave) : (s.modWave key f).slotB = s.slotB := rfl
@[simp] theorem State.modWave_portMem (s : State) (key : Nat) (f : Wave → Wave) : (s.modWave key f).portMem = s.portMem := rfl
@[simp] theorem State.modWave_portTile (s : State) (key : Nat) (f : Wave → Wave) : (s.modWave key f).portTile = s.portTile := rfl
@[simp] theorem State.modWave_iss (s : State) (key : Nat) (f : Wave → Wave) : (s.modWave key f).iss = s.iss := rfl
@[simp] theorem State.modWave_agenda (s : State) (key : Nat) (f : Wave → Wave) : (s.modWave key f).agenda = s.agenda := rfl
@[simp] theorem State.modWave_upset (s : State) (key : Nat) (f : Wave → Wave) : (s.modWave key f).upset = s.upset := rfl
@[simp] theorem State.modWave_fresh (s : State) (key : Nat) (f : Wave → Wave) : (s.modWave key f).fresh = s.fresh := rfl
@[simp] theorem State.modWave_free (s : State) (key : Nat) (f : Wave → Wave) : (s.modWave key f).free = s.free := rfl
@[simp] theorem State.modWave_mem (s : State) (key : Nat) (f : Wave → Wave) : (s.modWave key f).mem = s.mem := rfl
@[simp] theorem State.modWave_poisoned (s : State) (key : Nat) (f : Wave → Wave) : (s.modWave key f).poisoned = s.poisoned := rfl
@[simp] theorem State.modWave_old (s : State) (key : Nat) (f : Wave → Wave) : (s.modWave key f).old = s.old := rfl
@[simp] theorem State.modWave_waves (s : State) (key : Nat) (f : Wave → Wave) : (s.modWave key f).waves = tabMod s.waves key f := rfl
@[simp] theorem State.modWave_quarters (s : State) (key : Nat) (f : Wave → Wave) : (s.modWave key f).quarters = s.quarters := rfl
@[simp] theorem State.modWave_cores (s : State) (key : Nat) (f : Wave → Wave) : (s.modWave key f).cores = s.cores := rfl
@[simp] theorem State.modWave_sites (s : State) (key : Nat) (f : Wave → Wave) : (s.modWave key f).sites = s.sites := rfl
@[simp] theorem State.modWave_dies (s : State) (key : Nat) (f : Wave → Wave) : (s.modWave key f).dies = s.dies := rfl
@[simp] theorem State.modWave_links (s : State) (key : Nat) (f : Wave → Wave) : (s.modWave key f).links = s.links := rfl
@[simp] theorem State.modWave_wgs (s : State) (key : Nat) (f : Wave → Wave) : (s.modWave key f).wgs = s.wgs := rfl
@[simp] theorem State.modWave_droves (s : State) (key : Nat) (f : Wave → Wave) : (s.modWave key f).droves = s.droves := rfl
@[simp] theorem State.modWave_grids (s : State) (key : Nat) (f : Wave → Wave) : (s.modWave key f).grids = s.grids := rfl
@[simp] theorem State.modWave_ctxs (s : State) (key : Nat) (f : Wave → Wave) : (s.modWave key f).ctxs = s.ctxs := rfl
@[simp] theorem State.modWave_tethers (s : State) (key : Nat) (f : Wave → Wave) : (s.modWave key f).tethers = s.tethers := rfl
@[simp] theorem State.modWave_unarmed (s : State) (key : Nat) (f : Wave → Wave) : (s.modWave key f).unarmed = s.unarmed := rfl
@[simp] theorem State.modWave_freed (s : State) (key : Nat) (f : Wave → Wave) : (s.modWave key f).freed = s.freed := rfl
@[simp] theorem State.modWave_wakes (s : State) (key : Nat) (f : Wave → Wave) : (s.modWave key f).wakes = s.wakes := rfl
@[simp] theorem State.modWave_tableCap (s : State) (key : Nat) (f : Wave → Wave) : (s.modWave key f).tableCap = s.tableCap := rfl
@[simp] theorem State.modWave_arrivals (s : State) (key : Nat) (f : Wave → Wave) : (s.modWave key f).arrivals = s.arrivals := rfl
@[simp] theorem State.modWave_rays (s : State) (key : Nat) (f : Wave → Wave) : (s.modWave key f).rays = s.rays := rfl
@[simp] theorem State.modWave_builds (s : State) (key : Nat) (f : Wave → Wave) : (s.modWave key f).builds = s.builds := rfl
@[simp] theorem State.modWave_trees (s : State) (key : Nat) (f : Wave → Wave) : (s.modWave key f).trees = s.trees := rfl
@[simp] theorem State.modWave_reclaims (s : State) (key : Nat) (f : Wave → Wave) : (s.modWave key f).reclaims = s.reclaims := rfl
@[simp] theorem State.modWave_rasters (s : State) (key : Nat) (f : Wave → Wave) : (s.modWave key f).rasters = s.rasters := rfl
@[simp] theorem State.modWave_streams (s : State) (key : Nat) (f : Wave → Wave) : (s.modWave key f).streams = s.streams := rfl
@[simp] theorem State.modWave_dups (s : State) (key : Nat) (f : Wave → Wave) : (s.modWave key f).dups = s.dups := rfl
@[simp] theorem State.modWave_blockedWalks (s : State) (key : Nat) (f : Wave → Wave) : (s.modWave key f).blockedWalks = s.blockedWalks := rfl
@[simp] theorem State.modWave_maint (s : State) (key : Nat) (f : Wave → Wave) : (s.modWave key f).maint = s.maint := rfl
@[simp] theorem State.modWave_hostWrites (s : State) (key : Nat) (f : Wave → Wave) : (s.modWave key f).hostWrites = s.hostWrites := rfl
@[simp] theorem State.modWave_hostRead (s : State) (key : Nat) (f : Wave → Wave) : (s.modWave key f).hostRead = s.hostRead := rfl
@[simp] theorem State.modWave_messages (s : State) (key : Nat) (f : Wave → Wave) : (s.modWave key f).messages = s.messages := rfl
@[simp] theorem State.modWave_peers (s : State) (key : Nat) (f : Wave → Wave) : (s.modWave key f).peers = s.peers := rfl
@[simp] theorem State.modWave_brands (s : State) (key : Nat) (f : Wave → Wave) : (s.modWave key f).brands = s.brands := rfl
@[simp] theorem State.modWave_portsUp (s : State) (key : Nat) (f : Wave → Wave) : (s.modWave key f).portsUp = s.portsUp := rfl
@[simp] theorem State.modWave_harvest (s : State) (key : Nat) (f : Wave → Wave) : (s.modWave key f).harvest = s.harvest := rfl
@[simp] theorem State.modWave_sched (s : State) (key : Nat) (f : Wave → Wave) : (s.modWave key f).sched = s.sched := rfl
@[simp] theorem State.modWave_backfill (s : State) (key : Nat) (f : Wave → Wave) : (s.modWave key f).backfill = s.backfill := rfl
@[simp] theorem State.modWave_reserved (s : State) (key : Nat) (f : Wave → Wave) : (s.modWave key f).reserved = s.reserved := rfl
@[simp] theorem State.modWave_queueTurn (s : State) (key : Nat) (f : Wave → Wave) : (s.modWave key f).queueTurn = s.queueTurn := rfl
@[simp] theorem State.modWave_posted (s : State) (key : Nat) (f : Wave → Wave) : (s.modWave key f).posted = s.posted := rfl
@[simp] theorem State.modWave_policy (s : State) (key : Nat) (f : Wave → Wave) : (s.modWave key f).policy = s.policy := rfl
@[simp] theorem State.modWave_power (s : State) (key : Nat) (f : Wave → Wave) : (s.modWave key f).power = s.power := rfl
@[simp] theorem State.modWave_fabric (s : State) (key : Nat) (f : Wave → Wave) : (s.modWave key f).fabric = s.fabric := rfl
@[simp] theorem State.modWave_ptp (s : State) (key : Nat) (f : Wave → Wave) : (s.modWave key f).ptp = s.ptp := rfl
@[simp] theorem State.modWave_boot (s : State) (key : Nat) (f : Wave → Wave) : (s.modWave key f).boot = s.boot := rfl
@[simp] theorem State.modWave_errors (s : State) (key : Nat) (f : Wave → Wave) : (s.modWave key f).errors = s.errors := rfl
@[simp] theorem State.modWave_quarantined (s : State) (key : Nat) (f : Wave → Wave) : (s.modWave key f).quarantined = s.quarantined := rfl
@[simp] theorem State.modWave_hotInterval (s : State) (key : Nat) (f : Wave → Wave) : (s.modWave key f).hotInterval = s.hotInterval := rfl
@[simp] theorem State.modWave_hotOn (s : State) (key : Nat) (f : Wave → Wave) : (s.modWave key f).hotOn = s.hotOn := rfl
@[simp] theorem State.modWave_inbound (s : State) (key : Nat) (f : Wave → Wave) : (s.modWave key f).inbound = s.inbound := rfl
@[simp] theorem State.modWave_killed (s : State) (key : Nat) (f : Wave → Wave) : (s.modWave key f).killed = s.killed := rfl
@[simp] theorem State.modWave_rejected (s : State) (key : Nat) (f : Wave → Wave) : (s.modWave key f).rejected = s.rejected := rfl
@[simp] theorem State.modWave_sensors (s : State) (key : Nat) (f : Wave → Wave) : (s.modWave key f).sensors = s.sensors := rfl
@[simp] theorem State.modWave_wg (s : State) (key : Nat) (f : Wave → Wave) (k : Nat) : (s.modWave key f).wg k = s.wg k := rfl
@[simp] theorem State.modWave_drove (s : State) (key : Nat) (f : Wave → Wave) (k : Nat) : (s.modWave key f).drove k = s.drove k := rfl
@[simp] theorem State.modWave_grid (s : State) (key : Nat) (f : Wave → Wave) (k : Nat) : (s.modWave key f).grid k = s.grid k := rfl
@[simp] theorem State.modWave_ctx (s : State) (key : Nat) (f : Wave → Wave) (k : Nat) : (s.modWave key f).ctx k = s.ctx k := rfl
@[simp] theorem State.modWave_core (s : State) (key : Nat) (f : Wave → Wave) (k : Nat) : (s.modWave key f).core k = s.core k := rfl
@[simp] theorem State.modWave_quarter (s : State) (key : Nat) (f : Wave → Wave) (k : Nat) : (s.modWave key f).quarter k = s.quarter k := rfl

/-! ### `modCur` -/

@[simp] theorem State.modCur_cycle (s : State) (f : Wave → Wave) : (s.modCur f).cycle = s.cycle := rfl
@[simp] theorem State.modCur_time (s : State) (f : Wave → Wave) : (s.modCur f).time = s.time := rfl
@[simp] theorem State.modCur_subNs (s : State) (f : Wave → Wave) : (s.modCur f).subNs = s.subNs := rfl
@[simp] theorem State.modCur_cursor (s : State) (f : Wave → Wave) : (s.modCur f).cursor = s.cursor := rfl
@[simp] theorem State.modCur_slotB (s : State) (f : Wave → Wave) : (s.modCur f).slotB = s.slotB := rfl
@[simp] theorem State.modCur_portMem (s : State) (f : Wave → Wave) : (s.modCur f).portMem = s.portMem := rfl
@[simp] theorem State.modCur_portTile (s : State) (f : Wave → Wave) : (s.modCur f).portTile = s.portTile := rfl
@[simp] theorem State.modCur_iss (s : State) (f : Wave → Wave) : (s.modCur f).iss = s.iss := rfl
@[simp] theorem State.modCur_agenda (s : State) (f : Wave → Wave) : (s.modCur f).agenda = s.agenda := rfl
@[simp] theorem State.modCur_upset (s : State) (f : Wave → Wave) : (s.modCur f).upset = s.upset := rfl
@[simp] theorem State.modCur_fresh (s : State) (f : Wave → Wave) : (s.modCur f).fresh = s.fresh := rfl
@[simp] theorem State.modCur_free (s : State) (f : Wave → Wave) : (s.modCur f).free = s.free := rfl
@[simp] theorem State.modCur_mem (s : State) (f : Wave → Wave) : (s.modCur f).mem = s.mem := rfl
@[simp] theorem State.modCur_poisoned (s : State) (f : Wave → Wave) : (s.modCur f).poisoned = s.poisoned := rfl
@[simp] theorem State.modCur_old (s : State) (f : Wave → Wave) : (s.modCur f).old = s.old := rfl
@[simp] theorem State.modCur_waves (s : State) (f : Wave → Wave) : (s.modCur f).waves = tabMod s.waves s.iss.key f := rfl
@[simp] theorem State.modCur_quarters (s : State) (f : Wave → Wave) : (s.modCur f).quarters = s.quarters := rfl
@[simp] theorem State.modCur_cores (s : State) (f : Wave → Wave) : (s.modCur f).cores = s.cores := rfl
@[simp] theorem State.modCur_sites (s : State) (f : Wave → Wave) : (s.modCur f).sites = s.sites := rfl
@[simp] theorem State.modCur_dies (s : State) (f : Wave → Wave) : (s.modCur f).dies = s.dies := rfl
@[simp] theorem State.modCur_links (s : State) (f : Wave → Wave) : (s.modCur f).links = s.links := rfl
@[simp] theorem State.modCur_wgs (s : State) (f : Wave → Wave) : (s.modCur f).wgs = s.wgs := rfl
@[simp] theorem State.modCur_droves (s : State) (f : Wave → Wave) : (s.modCur f).droves = s.droves := rfl
@[simp] theorem State.modCur_grids (s : State) (f : Wave → Wave) : (s.modCur f).grids = s.grids := rfl
@[simp] theorem State.modCur_ctxs (s : State) (f : Wave → Wave) : (s.modCur f).ctxs = s.ctxs := rfl
@[simp] theorem State.modCur_tethers (s : State) (f : Wave → Wave) : (s.modCur f).tethers = s.tethers := rfl
@[simp] theorem State.modCur_unarmed (s : State) (f : Wave → Wave) : (s.modCur f).unarmed = s.unarmed := rfl
@[simp] theorem State.modCur_freed (s : State) (f : Wave → Wave) : (s.modCur f).freed = s.freed := rfl
@[simp] theorem State.modCur_wakes (s : State) (f : Wave → Wave) : (s.modCur f).wakes = s.wakes := rfl
@[simp] theorem State.modCur_tableCap (s : State) (f : Wave → Wave) : (s.modCur f).tableCap = s.tableCap := rfl
@[simp] theorem State.modCur_arrivals (s : State) (f : Wave → Wave) : (s.modCur f).arrivals = s.arrivals := rfl
@[simp] theorem State.modCur_rays (s : State) (f : Wave → Wave) : (s.modCur f).rays = s.rays := rfl
@[simp] theorem State.modCur_builds (s : State) (f : Wave → Wave) : (s.modCur f).builds = s.builds := rfl
@[simp] theorem State.modCur_trees (s : State) (f : Wave → Wave) : (s.modCur f).trees = s.trees := rfl
@[simp] theorem State.modCur_reclaims (s : State) (f : Wave → Wave) : (s.modCur f).reclaims = s.reclaims := rfl
@[simp] theorem State.modCur_rasters (s : State) (f : Wave → Wave) : (s.modCur f).rasters = s.rasters := rfl
@[simp] theorem State.modCur_streams (s : State) (f : Wave → Wave) : (s.modCur f).streams = s.streams := rfl
@[simp] theorem State.modCur_dups (s : State) (f : Wave → Wave) : (s.modCur f).dups = s.dups := rfl
@[simp] theorem State.modCur_blockedWalks (s : State) (f : Wave → Wave) : (s.modCur f).blockedWalks = s.blockedWalks := rfl
@[simp] theorem State.modCur_maint (s : State) (f : Wave → Wave) : (s.modCur f).maint = s.maint := rfl
@[simp] theorem State.modCur_hostWrites (s : State) (f : Wave → Wave) : (s.modCur f).hostWrites = s.hostWrites := rfl
@[simp] theorem State.modCur_hostRead (s : State) (f : Wave → Wave) : (s.modCur f).hostRead = s.hostRead := rfl
@[simp] theorem State.modCur_messages (s : State) (f : Wave → Wave) : (s.modCur f).messages = s.messages := rfl
@[simp] theorem State.modCur_peers (s : State) (f : Wave → Wave) : (s.modCur f).peers = s.peers := rfl
@[simp] theorem State.modCur_brands (s : State) (f : Wave → Wave) : (s.modCur f).brands = s.brands := rfl
@[simp] theorem State.modCur_portsUp (s : State) (f : Wave → Wave) : (s.modCur f).portsUp = s.portsUp := rfl
@[simp] theorem State.modCur_harvest (s : State) (f : Wave → Wave) : (s.modCur f).harvest = s.harvest := rfl
@[simp] theorem State.modCur_sched (s : State) (f : Wave → Wave) : (s.modCur f).sched = s.sched := rfl
@[simp] theorem State.modCur_backfill (s : State) (f : Wave → Wave) : (s.modCur f).backfill = s.backfill := rfl
@[simp] theorem State.modCur_reserved (s : State) (f : Wave → Wave) : (s.modCur f).reserved = s.reserved := rfl
@[simp] theorem State.modCur_queueTurn (s : State) (f : Wave → Wave) : (s.modCur f).queueTurn = s.queueTurn := rfl
@[simp] theorem State.modCur_posted (s : State) (f : Wave → Wave) : (s.modCur f).posted = s.posted := rfl
@[simp] theorem State.modCur_policy (s : State) (f : Wave → Wave) : (s.modCur f).policy = s.policy := rfl
@[simp] theorem State.modCur_power (s : State) (f : Wave → Wave) : (s.modCur f).power = s.power := rfl
@[simp] theorem State.modCur_fabric (s : State) (f : Wave → Wave) : (s.modCur f).fabric = s.fabric := rfl
@[simp] theorem State.modCur_ptp (s : State) (f : Wave → Wave) : (s.modCur f).ptp = s.ptp := rfl
@[simp] theorem State.modCur_boot (s : State) (f : Wave → Wave) : (s.modCur f).boot = s.boot := rfl
@[simp] theorem State.modCur_errors (s : State) (f : Wave → Wave) : (s.modCur f).errors = s.errors := rfl
@[simp] theorem State.modCur_quarantined (s : State) (f : Wave → Wave) : (s.modCur f).quarantined = s.quarantined := rfl
@[simp] theorem State.modCur_hotInterval (s : State) (f : Wave → Wave) : (s.modCur f).hotInterval = s.hotInterval := rfl
@[simp] theorem State.modCur_hotOn (s : State) (f : Wave → Wave) : (s.modCur f).hotOn = s.hotOn := rfl
@[simp] theorem State.modCur_inbound (s : State) (f : Wave → Wave) : (s.modCur f).inbound = s.inbound := rfl
@[simp] theorem State.modCur_killed (s : State) (f : Wave → Wave) : (s.modCur f).killed = s.killed := rfl
@[simp] theorem State.modCur_rejected (s : State) (f : Wave → Wave) : (s.modCur f).rejected = s.rejected := rfl
@[simp] theorem State.modCur_sensors (s : State) (f : Wave → Wave) : (s.modCur f).sensors = s.sensors := rfl
@[simp] theorem State.modCur_wg (s : State) (f : Wave → Wave) (k : Nat) : (s.modCur f).wg k = s.wg k := rfl
@[simp] theorem State.modCur_drove (s : State) (f : Wave → Wave) (k : Nat) : (s.modCur f).drove k = s.drove k := rfl
@[simp] theorem State.modCur_grid (s : State) (f : Wave → Wave) (k : Nat) : (s.modCur f).grid k = s.grid k := rfl
@[simp] theorem State.modCur_ctx (s : State) (f : Wave → Wave) (k : Nat) : (s.modCur f).ctx k = s.ctx k := rfl
@[simp] theorem State.modCur_core (s : State) (f : Wave → Wave) (k : Nat) : (s.modCur f).core k = s.core k := rfl
@[simp] theorem State.modCur_quarter (s : State) (f : Wave → Wave) (k : Nat) : (s.modCur f).quarter k = s.quarter k := rfl

/-! ### `modWg` -/

@[simp] theorem State.modWg_cycle (s : State) (id : Nat) (f : Workgroup → Workgroup) : (s.modWg id f).cycle = s.cycle := rfl
@[simp] theorem State.modWg_time (s : State) (id : Nat) (f : Workgroup → Workgroup) : (s.modWg id f).time = s.time := rfl
@[simp] theorem State.modWg_subNs (s : State) (id : Nat) (f : Workgroup → Workgroup) : (s.modWg id f).subNs = s.subNs := rfl
@[simp] theorem State.modWg_cursor (s : State) (id : Nat) (f : Workgroup → Workgroup) : (s.modWg id f).cursor = s.cursor := rfl
@[simp] theorem State.modWg_slotB (s : State) (id : Nat) (f : Workgroup → Workgroup) : (s.modWg id f).slotB = s.slotB := rfl
@[simp] theorem State.modWg_portMem (s : State) (id : Nat) (f : Workgroup → Workgroup) : (s.modWg id f).portMem = s.portMem := rfl
@[simp] theorem State.modWg_portTile (s : State) (id : Nat) (f : Workgroup → Workgroup) : (s.modWg id f).portTile = s.portTile := rfl
@[simp] theorem State.modWg_iss (s : State) (id : Nat) (f : Workgroup → Workgroup) : (s.modWg id f).iss = s.iss := rfl
@[simp] theorem State.modWg_agenda (s : State) (id : Nat) (f : Workgroup → Workgroup) : (s.modWg id f).agenda = s.agenda := rfl
@[simp] theorem State.modWg_upset (s : State) (id : Nat) (f : Workgroup → Workgroup) : (s.modWg id f).upset = s.upset := rfl
@[simp] theorem State.modWg_fresh (s : State) (id : Nat) (f : Workgroup → Workgroup) : (s.modWg id f).fresh = s.fresh := rfl
@[simp] theorem State.modWg_free (s : State) (id : Nat) (f : Workgroup → Workgroup) : (s.modWg id f).free = s.free := rfl
@[simp] theorem State.modWg_mem (s : State) (id : Nat) (f : Workgroup → Workgroup) : (s.modWg id f).mem = s.mem := rfl
@[simp] theorem State.modWg_poisoned (s : State) (id : Nat) (f : Workgroup → Workgroup) : (s.modWg id f).poisoned = s.poisoned := rfl
@[simp] theorem State.modWg_old (s : State) (id : Nat) (f : Workgroup → Workgroup) : (s.modWg id f).old = s.old := rfl
@[simp] theorem State.modWg_waves (s : State) (id : Nat) (f : Workgroup → Workgroup) : (s.modWg id f).waves = s.waves := rfl
@[simp] theorem State.modWg_quarters (s : State) (id : Nat) (f : Workgroup → Workgroup) : (s.modWg id f).quarters = s.quarters := rfl
@[simp] theorem State.modWg_cores (s : State) (id : Nat) (f : Workgroup → Workgroup) : (s.modWg id f).cores = s.cores := rfl
@[simp] theorem State.modWg_sites (s : State) (id : Nat) (f : Workgroup → Workgroup) : (s.modWg id f).sites = s.sites := rfl
@[simp] theorem State.modWg_dies (s : State) (id : Nat) (f : Workgroup → Workgroup) : (s.modWg id f).dies = s.dies := rfl
@[simp] theorem State.modWg_links (s : State) (id : Nat) (f : Workgroup → Workgroup) : (s.modWg id f).links = s.links := rfl
@[simp] theorem State.modWg_wgs (s : State) (id : Nat) (f : Workgroup → Workgroup) : (s.modWg id f).wgs = tabMod s.wgs id f := rfl
@[simp] theorem State.modWg_droves (s : State) (id : Nat) (f : Workgroup → Workgroup) : (s.modWg id f).droves = s.droves := rfl
@[simp] theorem State.modWg_grids (s : State) (id : Nat) (f : Workgroup → Workgroup) : (s.modWg id f).grids = s.grids := rfl
@[simp] theorem State.modWg_ctxs (s : State) (id : Nat) (f : Workgroup → Workgroup) : (s.modWg id f).ctxs = s.ctxs := rfl
@[simp] theorem State.modWg_tethers (s : State) (id : Nat) (f : Workgroup → Workgroup) : (s.modWg id f).tethers = s.tethers := rfl
@[simp] theorem State.modWg_unarmed (s : State) (id : Nat) (f : Workgroup → Workgroup) : (s.modWg id f).unarmed = s.unarmed := rfl
@[simp] theorem State.modWg_freed (s : State) (id : Nat) (f : Workgroup → Workgroup) : (s.modWg id f).freed = s.freed := rfl
@[simp] theorem State.modWg_wakes (s : State) (id : Nat) (f : Workgroup → Workgroup) : (s.modWg id f).wakes = s.wakes := rfl
@[simp] theorem State.modWg_tableCap (s : State) (id : Nat) (f : Workgroup → Workgroup) : (s.modWg id f).tableCap = s.tableCap := rfl
@[simp] theorem State.modWg_arrivals (s : State) (id : Nat) (f : Workgroup → Workgroup) : (s.modWg id f).arrivals = s.arrivals := rfl
@[simp] theorem State.modWg_rays (s : State) (id : Nat) (f : Workgroup → Workgroup) : (s.modWg id f).rays = s.rays := rfl
@[simp] theorem State.modWg_builds (s : State) (id : Nat) (f : Workgroup → Workgroup) : (s.modWg id f).builds = s.builds := rfl
@[simp] theorem State.modWg_trees (s : State) (id : Nat) (f : Workgroup → Workgroup) : (s.modWg id f).trees = s.trees := rfl
@[simp] theorem State.modWg_reclaims (s : State) (id : Nat) (f : Workgroup → Workgroup) : (s.modWg id f).reclaims = s.reclaims := rfl
@[simp] theorem State.modWg_rasters (s : State) (id : Nat) (f : Workgroup → Workgroup) : (s.modWg id f).rasters = s.rasters := rfl
@[simp] theorem State.modWg_streams (s : State) (id : Nat) (f : Workgroup → Workgroup) : (s.modWg id f).streams = s.streams := rfl
@[simp] theorem State.modWg_dups (s : State) (id : Nat) (f : Workgroup → Workgroup) : (s.modWg id f).dups = s.dups := rfl
@[simp] theorem State.modWg_blockedWalks (s : State) (id : Nat) (f : Workgroup → Workgroup) : (s.modWg id f).blockedWalks = s.blockedWalks := rfl
@[simp] theorem State.modWg_maint (s : State) (id : Nat) (f : Workgroup → Workgroup) : (s.modWg id f).maint = s.maint := rfl
@[simp] theorem State.modWg_hostWrites (s : State) (id : Nat) (f : Workgroup → Workgroup) : (s.modWg id f).hostWrites = s.hostWrites := rfl
@[simp] theorem State.modWg_hostRead (s : State) (id : Nat) (f : Workgroup → Workgroup) : (s.modWg id f).hostRead = s.hostRead := rfl
@[simp] theorem State.modWg_messages (s : State) (id : Nat) (f : Workgroup → Workgroup) : (s.modWg id f).messages = s.messages := rfl
@[simp] theorem State.modWg_peers (s : State) (id : Nat) (f : Workgroup → Workgroup) : (s.modWg id f).peers = s.peers := rfl
@[simp] theorem State.modWg_brands (s : State) (id : Nat) (f : Workgroup → Workgroup) : (s.modWg id f).brands = s.brands := rfl
@[simp] theorem State.modWg_portsUp (s : State) (id : Nat) (f : Workgroup → Workgroup) : (s.modWg id f).portsUp = s.portsUp := rfl
@[simp] theorem State.modWg_harvest (s : State) (id : Nat) (f : Workgroup → Workgroup) : (s.modWg id f).harvest = s.harvest := rfl
@[simp] theorem State.modWg_sched (s : State) (id : Nat) (f : Workgroup → Workgroup) : (s.modWg id f).sched = s.sched := rfl
@[simp] theorem State.modWg_backfill (s : State) (id : Nat) (f : Workgroup → Workgroup) : (s.modWg id f).backfill = s.backfill := rfl
@[simp] theorem State.modWg_reserved (s : State) (id : Nat) (f : Workgroup → Workgroup) : (s.modWg id f).reserved = s.reserved := rfl
@[simp] theorem State.modWg_queueTurn (s : State) (id : Nat) (f : Workgroup → Workgroup) : (s.modWg id f).queueTurn = s.queueTurn := rfl
@[simp] theorem State.modWg_posted (s : State) (id : Nat) (f : Workgroup → Workgroup) : (s.modWg id f).posted = s.posted := rfl
@[simp] theorem State.modWg_policy (s : State) (id : Nat) (f : Workgroup → Workgroup) : (s.modWg id f).policy = s.policy := rfl
@[simp] theorem State.modWg_power (s : State) (id : Nat) (f : Workgroup → Workgroup) : (s.modWg id f).power = s.power := rfl
@[simp] theorem State.modWg_fabric (s : State) (id : Nat) (f : Workgroup → Workgroup) : (s.modWg id f).fabric = s.fabric := rfl
@[simp] theorem State.modWg_ptp (s : State) (id : Nat) (f : Workgroup → Workgroup) : (s.modWg id f).ptp = s.ptp := rfl
@[simp] theorem State.modWg_boot (s : State) (id : Nat) (f : Workgroup → Workgroup) : (s.modWg id f).boot = s.boot := rfl
@[simp] theorem State.modWg_errors (s : State) (id : Nat) (f : Workgroup → Workgroup) : (s.modWg id f).errors = s.errors := rfl
@[simp] theorem State.modWg_quarantined (s : State) (id : Nat) (f : Workgroup → Workgroup) : (s.modWg id f).quarantined = s.quarantined := rfl
@[simp] theorem State.modWg_hotInterval (s : State) (id : Nat) (f : Workgroup → Workgroup) : (s.modWg id f).hotInterval = s.hotInterval := rfl
@[simp] theorem State.modWg_hotOn (s : State) (id : Nat) (f : Workgroup → Workgroup) : (s.modWg id f).hotOn = s.hotOn := rfl
@[simp] theorem State.modWg_inbound (s : State) (id : Nat) (f : Workgroup → Workgroup) : (s.modWg id f).inbound = s.inbound := rfl
@[simp] theorem State.modWg_killed (s : State) (id : Nat) (f : Workgroup → Workgroup) : (s.modWg id f).killed = s.killed := rfl
@[simp] theorem State.modWg_rejected (s : State) (id : Nat) (f : Workgroup → Workgroup) : (s.modWg id f).rejected = s.rejected := rfl
@[simp] theorem State.modWg_sensors (s : State) (id : Nat) (f : Workgroup → Workgroup) : (s.modWg id f).sensors = s.sensors := rfl
@[simp] theorem State.modWg_wave (s : State) (id : Nat) (f : Workgroup → Workgroup) (k : Nat) : (s.modWg id f).wave k = s.wave k := rfl
@[simp] theorem State.modWg_drove (s : State) (id : Nat) (f : Workgroup → Workgroup) (k : Nat) : (s.modWg id f).drove k = s.drove k := rfl
@[simp] theorem State.modWg_grid (s : State) (id : Nat) (f : Workgroup → Workgroup) (k : Nat) : (s.modWg id f).grid k = s.grid k := rfl
@[simp] theorem State.modWg_ctx (s : State) (id : Nat) (f : Workgroup → Workgroup) (k : Nat) : (s.modWg id f).ctx k = s.ctx k := rfl
@[simp] theorem State.modWg_core (s : State) (id : Nat) (f : Workgroup → Workgroup) (k : Nat) : (s.modWg id f).core k = s.core k := rfl
@[simp] theorem State.modWg_quarter (s : State) (id : Nat) (f : Workgroup → Workgroup) (k : Nat) : (s.modWg id f).quarter k = s.quarter k := rfl

/-! ### `modDrove` -/

@[simp] theorem State.modDrove_cycle (s : State) (id : Nat) (f : Drove → Drove) : (s.modDrove id f).cycle = s.cycle := rfl
@[simp] theorem State.modDrove_time (s : State) (id : Nat) (f : Drove → Drove) : (s.modDrove id f).time = s.time := rfl
@[simp] theorem State.modDrove_subNs (s : State) (id : Nat) (f : Drove → Drove) : (s.modDrove id f).subNs = s.subNs := rfl
@[simp] theorem State.modDrove_cursor (s : State) (id : Nat) (f : Drove → Drove) : (s.modDrove id f).cursor = s.cursor := rfl
@[simp] theorem State.modDrove_slotB (s : State) (id : Nat) (f : Drove → Drove) : (s.modDrove id f).slotB = s.slotB := rfl
@[simp] theorem State.modDrove_portMem (s : State) (id : Nat) (f : Drove → Drove) : (s.modDrove id f).portMem = s.portMem := rfl
@[simp] theorem State.modDrove_portTile (s : State) (id : Nat) (f : Drove → Drove) : (s.modDrove id f).portTile = s.portTile := rfl
@[simp] theorem State.modDrove_iss (s : State) (id : Nat) (f : Drove → Drove) : (s.modDrove id f).iss = s.iss := rfl
@[simp] theorem State.modDrove_agenda (s : State) (id : Nat) (f : Drove → Drove) : (s.modDrove id f).agenda = s.agenda := rfl
@[simp] theorem State.modDrove_upset (s : State) (id : Nat) (f : Drove → Drove) : (s.modDrove id f).upset = s.upset := rfl
@[simp] theorem State.modDrove_fresh (s : State) (id : Nat) (f : Drove → Drove) : (s.modDrove id f).fresh = s.fresh := rfl
@[simp] theorem State.modDrove_free (s : State) (id : Nat) (f : Drove → Drove) : (s.modDrove id f).free = s.free := rfl
@[simp] theorem State.modDrove_mem (s : State) (id : Nat) (f : Drove → Drove) : (s.modDrove id f).mem = s.mem := rfl
@[simp] theorem State.modDrove_poisoned (s : State) (id : Nat) (f : Drove → Drove) : (s.modDrove id f).poisoned = s.poisoned := rfl
@[simp] theorem State.modDrove_old (s : State) (id : Nat) (f : Drove → Drove) : (s.modDrove id f).old = s.old := rfl
@[simp] theorem State.modDrove_waves (s : State) (id : Nat) (f : Drove → Drove) : (s.modDrove id f).waves = s.waves := rfl
@[simp] theorem State.modDrove_quarters (s : State) (id : Nat) (f : Drove → Drove) : (s.modDrove id f).quarters = s.quarters := rfl
@[simp] theorem State.modDrove_cores (s : State) (id : Nat) (f : Drove → Drove) : (s.modDrove id f).cores = s.cores := rfl
@[simp] theorem State.modDrove_sites (s : State) (id : Nat) (f : Drove → Drove) : (s.modDrove id f).sites = s.sites := rfl
@[simp] theorem State.modDrove_dies (s : State) (id : Nat) (f : Drove → Drove) : (s.modDrove id f).dies = s.dies := rfl
@[simp] theorem State.modDrove_links (s : State) (id : Nat) (f : Drove → Drove) : (s.modDrove id f).links = s.links := rfl
@[simp] theorem State.modDrove_wgs (s : State) (id : Nat) (f : Drove → Drove) : (s.modDrove id f).wgs = s.wgs := rfl
@[simp] theorem State.modDrove_droves (s : State) (id : Nat) (f : Drove → Drove) : (s.modDrove id f).droves = tabMod s.droves id f := rfl
@[simp] theorem State.modDrove_grids (s : State) (id : Nat) (f : Drove → Drove) : (s.modDrove id f).grids = s.grids := rfl
@[simp] theorem State.modDrove_ctxs (s : State) (id : Nat) (f : Drove → Drove) : (s.modDrove id f).ctxs = s.ctxs := rfl
@[simp] theorem State.modDrove_tethers (s : State) (id : Nat) (f : Drove → Drove) : (s.modDrove id f).tethers = s.tethers := rfl
@[simp] theorem State.modDrove_unarmed (s : State) (id : Nat) (f : Drove → Drove) : (s.modDrove id f).unarmed = s.unarmed := rfl
@[simp] theorem State.modDrove_freed (s : State) (id : Nat) (f : Drove → Drove) : (s.modDrove id f).freed = s.freed := rfl
@[simp] theorem State.modDrove_wakes (s : State) (id : Nat) (f : Drove → Drove) : (s.modDrove id f).wakes = s.wakes := rfl
@[simp] theorem State.modDrove_tableCap (s : State) (id : Nat) (f : Drove → Drove) : (s.modDrove id f).tableCap = s.tableCap := rfl
@[simp] theorem State.modDrove_arrivals (s : State) (id : Nat) (f : Drove → Drove) : (s.modDrove id f).arrivals = s.arrivals := rfl
@[simp] theorem State.modDrove_rays (s : State) (id : Nat) (f : Drove → Drove) : (s.modDrove id f).rays = s.rays := rfl
@[simp] theorem State.modDrove_builds (s : State) (id : Nat) (f : Drove → Drove) : (s.modDrove id f).builds = s.builds := rfl
@[simp] theorem State.modDrove_trees (s : State) (id : Nat) (f : Drove → Drove) : (s.modDrove id f).trees = s.trees := rfl
@[simp] theorem State.modDrove_reclaims (s : State) (id : Nat) (f : Drove → Drove) : (s.modDrove id f).reclaims = s.reclaims := rfl
@[simp] theorem State.modDrove_rasters (s : State) (id : Nat) (f : Drove → Drove) : (s.modDrove id f).rasters = s.rasters := rfl
@[simp] theorem State.modDrove_streams (s : State) (id : Nat) (f : Drove → Drove) : (s.modDrove id f).streams = s.streams := rfl
@[simp] theorem State.modDrove_dups (s : State) (id : Nat) (f : Drove → Drove) : (s.modDrove id f).dups = s.dups := rfl
@[simp] theorem State.modDrove_blockedWalks (s : State) (id : Nat) (f : Drove → Drove) : (s.modDrove id f).blockedWalks = s.blockedWalks := rfl
@[simp] theorem State.modDrove_maint (s : State) (id : Nat) (f : Drove → Drove) : (s.modDrove id f).maint = s.maint := rfl
@[simp] theorem State.modDrove_hostWrites (s : State) (id : Nat) (f : Drove → Drove) : (s.modDrove id f).hostWrites = s.hostWrites := rfl
@[simp] theorem State.modDrove_hostRead (s : State) (id : Nat) (f : Drove → Drove) : (s.modDrove id f).hostRead = s.hostRead := rfl
@[simp] theorem State.modDrove_messages (s : State) (id : Nat) (f : Drove → Drove) : (s.modDrove id f).messages = s.messages := rfl
@[simp] theorem State.modDrove_peers (s : State) (id : Nat) (f : Drove → Drove) : (s.modDrove id f).peers = s.peers := rfl
@[simp] theorem State.modDrove_brands (s : State) (id : Nat) (f : Drove → Drove) : (s.modDrove id f).brands = s.brands := rfl
@[simp] theorem State.modDrove_portsUp (s : State) (id : Nat) (f : Drove → Drove) : (s.modDrove id f).portsUp = s.portsUp := rfl
@[simp] theorem State.modDrove_harvest (s : State) (id : Nat) (f : Drove → Drove) : (s.modDrove id f).harvest = s.harvest := rfl
@[simp] theorem State.modDrove_sched (s : State) (id : Nat) (f : Drove → Drove) : (s.modDrove id f).sched = s.sched := rfl
@[simp] theorem State.modDrove_backfill (s : State) (id : Nat) (f : Drove → Drove) : (s.modDrove id f).backfill = s.backfill := rfl
@[simp] theorem State.modDrove_reserved (s : State) (id : Nat) (f : Drove → Drove) : (s.modDrove id f).reserved = s.reserved := rfl
@[simp] theorem State.modDrove_queueTurn (s : State) (id : Nat) (f : Drove → Drove) : (s.modDrove id f).queueTurn = s.queueTurn := rfl
@[simp] theorem State.modDrove_posted (s : State) (id : Nat) (f : Drove → Drove) : (s.modDrove id f).posted = s.posted := rfl
@[simp] theorem State.modDrove_policy (s : State) (id : Nat) (f : Drove → Drove) : (s.modDrove id f).policy = s.policy := rfl
@[simp] theorem State.modDrove_power (s : State) (id : Nat) (f : Drove → Drove) : (s.modDrove id f).power = s.power := rfl
@[simp] theorem State.modDrove_fabric (s : State) (id : Nat) (f : Drove → Drove) : (s.modDrove id f).fabric = s.fabric := rfl
@[simp] theorem State.modDrove_ptp (s : State) (id : Nat) (f : Drove → Drove) : (s.modDrove id f).ptp = s.ptp := rfl
@[simp] theorem State.modDrove_boot (s : State) (id : Nat) (f : Drove → Drove) : (s.modDrove id f).boot = s.boot := rfl
@[simp] theorem State.modDrove_errors (s : State) (id : Nat) (f : Drove → Drove) : (s.modDrove id f).errors = s.errors := rfl
@[simp] theorem State.modDrove_quarantined (s : State) (id : Nat) (f : Drove → Drove) : (s.modDrove id f).quarantined = s.quarantined := rfl
@[simp] theorem State.modDrove_hotInterval (s : State) (id : Nat) (f : Drove → Drove) : (s.modDrove id f).hotInterval = s.hotInterval := rfl
@[simp] theorem State.modDrove_hotOn (s : State) (id : Nat) (f : Drove → Drove) : (s.modDrove id f).hotOn = s.hotOn := rfl
@[simp] theorem State.modDrove_inbound (s : State) (id : Nat) (f : Drove → Drove) : (s.modDrove id f).inbound = s.inbound := rfl
@[simp] theorem State.modDrove_killed (s : State) (id : Nat) (f : Drove → Drove) : (s.modDrove id f).killed = s.killed := rfl
@[simp] theorem State.modDrove_rejected (s : State) (id : Nat) (f : Drove → Drove) : (s.modDrove id f).rejected = s.rejected := rfl
@[simp] theorem State.modDrove_sensors (s : State) (id : Nat) (f : Drove → Drove) : (s.modDrove id f).sensors = s.sensors := rfl
@[simp] theorem State.modDrove_wave (s : State) (id : Nat) (f : Drove → Drove) (k : Nat) : (s.modDrove id f).wave k = s.wave k := rfl
@[simp] theorem State.modDrove_wg (s : State) (id : Nat) (f : Drove → Drove) (k : Nat) : (s.modDrove id f).wg k = s.wg k := rfl
@[simp] theorem State.modDrove_grid (s : State) (id : Nat) (f : Drove → Drove) (k : Nat) : (s.modDrove id f).grid k = s.grid k := rfl
@[simp] theorem State.modDrove_ctx (s : State) (id : Nat) (f : Drove → Drove) (k : Nat) : (s.modDrove id f).ctx k = s.ctx k := rfl
@[simp] theorem State.modDrove_core (s : State) (id : Nat) (f : Drove → Drove) (k : Nat) : (s.modDrove id f).core k = s.core k := rfl
@[simp] theorem State.modDrove_quarter (s : State) (id : Nat) (f : Drove → Drove) (k : Nat) : (s.modDrove id f).quarter k = s.quarter k := rfl

/-! ### `modGrid` -/

@[simp] theorem State.modGrid_cycle (s : State) (id : Nat) (f : Grid → Grid) : (s.modGrid id f).cycle = s.cycle := rfl
@[simp] theorem State.modGrid_time (s : State) (id : Nat) (f : Grid → Grid) : (s.modGrid id f).time = s.time := rfl
@[simp] theorem State.modGrid_subNs (s : State) (id : Nat) (f : Grid → Grid) : (s.modGrid id f).subNs = s.subNs := rfl
@[simp] theorem State.modGrid_cursor (s : State) (id : Nat) (f : Grid → Grid) : (s.modGrid id f).cursor = s.cursor := rfl
@[simp] theorem State.modGrid_slotB (s : State) (id : Nat) (f : Grid → Grid) : (s.modGrid id f).slotB = s.slotB := rfl
@[simp] theorem State.modGrid_portMem (s : State) (id : Nat) (f : Grid → Grid) : (s.modGrid id f).portMem = s.portMem := rfl
@[simp] theorem State.modGrid_portTile (s : State) (id : Nat) (f : Grid → Grid) : (s.modGrid id f).portTile = s.portTile := rfl
@[simp] theorem State.modGrid_iss (s : State) (id : Nat) (f : Grid → Grid) : (s.modGrid id f).iss = s.iss := rfl
@[simp] theorem State.modGrid_agenda (s : State) (id : Nat) (f : Grid → Grid) : (s.modGrid id f).agenda = s.agenda := rfl
@[simp] theorem State.modGrid_upset (s : State) (id : Nat) (f : Grid → Grid) : (s.modGrid id f).upset = s.upset := rfl
@[simp] theorem State.modGrid_fresh (s : State) (id : Nat) (f : Grid → Grid) : (s.modGrid id f).fresh = s.fresh := rfl
@[simp] theorem State.modGrid_free (s : State) (id : Nat) (f : Grid → Grid) : (s.modGrid id f).free = s.free := rfl
@[simp] theorem State.modGrid_mem (s : State) (id : Nat) (f : Grid → Grid) : (s.modGrid id f).mem = s.mem := rfl
@[simp] theorem State.modGrid_poisoned (s : State) (id : Nat) (f : Grid → Grid) : (s.modGrid id f).poisoned = s.poisoned := rfl
@[simp] theorem State.modGrid_old (s : State) (id : Nat) (f : Grid → Grid) : (s.modGrid id f).old = s.old := rfl
@[simp] theorem State.modGrid_waves (s : State) (id : Nat) (f : Grid → Grid) : (s.modGrid id f).waves = s.waves := rfl
@[simp] theorem State.modGrid_quarters (s : State) (id : Nat) (f : Grid → Grid) : (s.modGrid id f).quarters = s.quarters := rfl
@[simp] theorem State.modGrid_cores (s : State) (id : Nat) (f : Grid → Grid) : (s.modGrid id f).cores = s.cores := rfl
@[simp] theorem State.modGrid_sites (s : State) (id : Nat) (f : Grid → Grid) : (s.modGrid id f).sites = s.sites := rfl
@[simp] theorem State.modGrid_dies (s : State) (id : Nat) (f : Grid → Grid) : (s.modGrid id f).dies = s.dies := rfl
@[simp] theorem State.modGrid_links (s : State) (id : Nat) (f : Grid → Grid) : (s.modGrid id f).links = s.links := rfl
@[simp] theorem State.modGrid_wgs (s : State) (id : Nat) (f : Grid → Grid) : (s.modGrid id f).wgs = s.wgs := rfl
@[simp] theorem State.modGrid_droves (s : State) (id : Nat) (f : Grid → Grid) : (s.modGrid id f).droves = s.droves := rfl
@[simp] theorem State.modGrid_grids (s : State) (id : Nat) (f : Grid → Grid) : (s.modGrid id f).grids = tabMod s.grids id f := rfl
@[simp] theorem State.modGrid_ctxs (s : State) (id : Nat) (f : Grid → Grid) : (s.modGrid id f).ctxs = s.ctxs := rfl
@[simp] theorem State.modGrid_tethers (s : State) (id : Nat) (f : Grid → Grid) : (s.modGrid id f).tethers = s.tethers := rfl
@[simp] theorem State.modGrid_unarmed (s : State) (id : Nat) (f : Grid → Grid) : (s.modGrid id f).unarmed = s.unarmed := rfl
@[simp] theorem State.modGrid_freed (s : State) (id : Nat) (f : Grid → Grid) : (s.modGrid id f).freed = s.freed := rfl
@[simp] theorem State.modGrid_wakes (s : State) (id : Nat) (f : Grid → Grid) : (s.modGrid id f).wakes = s.wakes := rfl
@[simp] theorem State.modGrid_tableCap (s : State) (id : Nat) (f : Grid → Grid) : (s.modGrid id f).tableCap = s.tableCap := rfl
@[simp] theorem State.modGrid_arrivals (s : State) (id : Nat) (f : Grid → Grid) : (s.modGrid id f).arrivals = s.arrivals := rfl
@[simp] theorem State.modGrid_rays (s : State) (id : Nat) (f : Grid → Grid) : (s.modGrid id f).rays = s.rays := rfl
@[simp] theorem State.modGrid_builds (s : State) (id : Nat) (f : Grid → Grid) : (s.modGrid id f).builds = s.builds := rfl
@[simp] theorem State.modGrid_trees (s : State) (id : Nat) (f : Grid → Grid) : (s.modGrid id f).trees = s.trees := rfl
@[simp] theorem State.modGrid_reclaims (s : State) (id : Nat) (f : Grid → Grid) : (s.modGrid id f).reclaims = s.reclaims := rfl
@[simp] theorem State.modGrid_rasters (s : State) (id : Nat) (f : Grid → Grid) : (s.modGrid id f).rasters = s.rasters := rfl
@[simp] theorem State.modGrid_streams (s : State) (id : Nat) (f : Grid → Grid) : (s.modGrid id f).streams = s.streams := rfl
@[simp] theorem State.modGrid_dups (s : State) (id : Nat) (f : Grid → Grid) : (s.modGrid id f).dups = s.dups := rfl
@[simp] theorem State.modGrid_blockedWalks (s : State) (id : Nat) (f : Grid → Grid) : (s.modGrid id f).blockedWalks = s.blockedWalks := rfl
@[simp] theorem State.modGrid_maint (s : State) (id : Nat) (f : Grid → Grid) : (s.modGrid id f).maint = s.maint := rfl
@[simp] theorem State.modGrid_hostWrites (s : State) (id : Nat) (f : Grid → Grid) : (s.modGrid id f).hostWrites = s.hostWrites := rfl
@[simp] theorem State.modGrid_hostRead (s : State) (id : Nat) (f : Grid → Grid) : (s.modGrid id f).hostRead = s.hostRead := rfl
@[simp] theorem State.modGrid_messages (s : State) (id : Nat) (f : Grid → Grid) : (s.modGrid id f).messages = s.messages := rfl
@[simp] theorem State.modGrid_peers (s : State) (id : Nat) (f : Grid → Grid) : (s.modGrid id f).peers = s.peers := rfl
@[simp] theorem State.modGrid_brands (s : State) (id : Nat) (f : Grid → Grid) : (s.modGrid id f).brands = s.brands := rfl
@[simp] theorem State.modGrid_portsUp (s : State) (id : Nat) (f : Grid → Grid) : (s.modGrid id f).portsUp = s.portsUp := rfl
@[simp] theorem State.modGrid_harvest (s : State) (id : Nat) (f : Grid → Grid) : (s.modGrid id f).harvest = s.harvest := rfl
@[simp] theorem State.modGrid_sched (s : State) (id : Nat) (f : Grid → Grid) : (s.modGrid id f).sched = s.sched := rfl
@[simp] theorem State.modGrid_backfill (s : State) (id : Nat) (f : Grid → Grid) : (s.modGrid id f).backfill = s.backfill := rfl
@[simp] theorem State.modGrid_reserved (s : State) (id : Nat) (f : Grid → Grid) : (s.modGrid id f).reserved = s.reserved := rfl
@[simp] theorem State.modGrid_queueTurn (s : State) (id : Nat) (f : Grid → Grid) : (s.modGrid id f).queueTurn = s.queueTurn := rfl
@[simp] theorem State.modGrid_posted (s : State) (id : Nat) (f : Grid → Grid) : (s.modGrid id f).posted = s.posted := rfl
@[simp] theorem State.modGrid_policy (s : State) (id : Nat) (f : Grid → Grid) : (s.modGrid id f).policy = s.policy := rfl
@[simp] theorem State.modGrid_power (s : State) (id : Nat) (f : Grid → Grid) : (s.modGrid id f).power = s.power := rfl
@[simp] theorem State.modGrid_fabric (s : State) (id : Nat) (f : Grid → Grid) : (s.modGrid id f).fabric = s.fabric := rfl
@[simp] theorem State.modGrid_ptp (s : State) (id : Nat) (f : Grid → Grid) : (s.modGrid id f).ptp = s.ptp := rfl
@[simp] theorem State.modGrid_boot (s : State) (id : Nat) (f : Grid → Grid) : (s.modGrid id f).boot = s.boot := rfl
@[simp] theorem State.modGrid_errors (s : State) (id : Nat) (f : Grid → Grid) : (s.modGrid id f).errors = s.errors := rfl
@[simp] theorem State.modGrid_quarantined (s : State) (id : Nat) (f : Grid → Grid) : (s.modGrid id f).quarantined = s.quarantined := rfl
@[simp] theorem State.modGrid_hotInterval (s : State) (id : Nat) (f : Grid → Grid) : (s.modGrid id f).hotInterval = s.hotInterval := rfl
@[simp] theorem State.modGrid_hotOn (s : State) (id : Nat) (f : Grid → Grid) : (s.modGrid id f).hotOn = s.hotOn := rfl
@[simp] theorem State.modGrid_inbound (s : State) (id : Nat) (f : Grid → Grid) : (s.modGrid id f).inbound = s.inbound := rfl
@[simp] theorem State.modGrid_killed (s : State) (id : Nat) (f : Grid → Grid) : (s.modGrid id f).killed = s.killed := rfl
@[simp] theorem State.modGrid_rejected (s : State) (id : Nat) (f : Grid → Grid) : (s.modGrid id f).rejected = s.rejected := rfl
@[simp] theorem State.modGrid_sensors (s : State) (id : Nat) (f : Grid → Grid) : (s.modGrid id f).sensors = s.sensors := rfl
@[simp] theorem State.modGrid_wave (s : State) (id : Nat) (f : Grid → Grid) (k : Nat) : (s.modGrid id f).wave k = s.wave k := rfl
@[simp] theorem State.modGrid_wg (s : State) (id : Nat) (f : Grid → Grid) (k : Nat) : (s.modGrid id f).wg k = s.wg k := rfl
@[simp] theorem State.modGrid_drove (s : State) (id : Nat) (f : Grid → Grid) (k : Nat) : (s.modGrid id f).drove k = s.drove k := rfl
@[simp] theorem State.modGrid_ctx (s : State) (id : Nat) (f : Grid → Grid) (k : Nat) : (s.modGrid id f).ctx k = s.ctx k := rfl
@[simp] theorem State.modGrid_core (s : State) (id : Nat) (f : Grid → Grid) (k : Nat) : (s.modGrid id f).core k = s.core k := rfl
@[simp] theorem State.modGrid_quarter (s : State) (id : Nat) (f : Grid → Grid) (k : Nat) : (s.modGrid id f).quarter k = s.quarter k := rfl

/-! ### `modCtx` -/

@[simp] theorem State.modCtx_cycle (s : State) (c : Nat) (f : Context → Context) : (s.modCtx c f).cycle = s.cycle := rfl
@[simp] theorem State.modCtx_time (s : State) (c : Nat) (f : Context → Context) : (s.modCtx c f).time = s.time := rfl
@[simp] theorem State.modCtx_subNs (s : State) (c : Nat) (f : Context → Context) : (s.modCtx c f).subNs = s.subNs := rfl
@[simp] theorem State.modCtx_cursor (s : State) (c : Nat) (f : Context → Context) : (s.modCtx c f).cursor = s.cursor := rfl
@[simp] theorem State.modCtx_slotB (s : State) (c : Nat) (f : Context → Context) : (s.modCtx c f).slotB = s.slotB := rfl
@[simp] theorem State.modCtx_portMem (s : State) (c : Nat) (f : Context → Context) : (s.modCtx c f).portMem = s.portMem := rfl
@[simp] theorem State.modCtx_portTile (s : State) (c : Nat) (f : Context → Context) : (s.modCtx c f).portTile = s.portTile := rfl
@[simp] theorem State.modCtx_iss (s : State) (c : Nat) (f : Context → Context) : (s.modCtx c f).iss = s.iss := rfl
@[simp] theorem State.modCtx_agenda (s : State) (c : Nat) (f : Context → Context) : (s.modCtx c f).agenda = s.agenda := rfl
@[simp] theorem State.modCtx_upset (s : State) (c : Nat) (f : Context → Context) : (s.modCtx c f).upset = s.upset := rfl
@[simp] theorem State.modCtx_fresh (s : State) (c : Nat) (f : Context → Context) : (s.modCtx c f).fresh = s.fresh := rfl
@[simp] theorem State.modCtx_free (s : State) (c : Nat) (f : Context → Context) : (s.modCtx c f).free = s.free := rfl
@[simp] theorem State.modCtx_mem (s : State) (c : Nat) (f : Context → Context) : (s.modCtx c f).mem = s.mem := rfl
@[simp] theorem State.modCtx_poisoned (s : State) (c : Nat) (f : Context → Context) : (s.modCtx c f).poisoned = s.poisoned := rfl
@[simp] theorem State.modCtx_old (s : State) (c : Nat) (f : Context → Context) : (s.modCtx c f).old = s.old := rfl
@[simp] theorem State.modCtx_waves (s : State) (c : Nat) (f : Context → Context) : (s.modCtx c f).waves = s.waves := rfl
@[simp] theorem State.modCtx_quarters (s : State) (c : Nat) (f : Context → Context) : (s.modCtx c f).quarters = s.quarters := rfl
@[simp] theorem State.modCtx_cores (s : State) (c : Nat) (f : Context → Context) : (s.modCtx c f).cores = s.cores := rfl
@[simp] theorem State.modCtx_sites (s : State) (c : Nat) (f : Context → Context) : (s.modCtx c f).sites = s.sites := rfl
@[simp] theorem State.modCtx_dies (s : State) (c : Nat) (f : Context → Context) : (s.modCtx c f).dies = s.dies := rfl
@[simp] theorem State.modCtx_links (s : State) (c : Nat) (f : Context → Context) : (s.modCtx c f).links = s.links := rfl
@[simp] theorem State.modCtx_wgs (s : State) (c : Nat) (f : Context → Context) : (s.modCtx c f).wgs = s.wgs := rfl
@[simp] theorem State.modCtx_droves (s : State) (c : Nat) (f : Context → Context) : (s.modCtx c f).droves = s.droves := rfl
@[simp] theorem State.modCtx_grids (s : State) (c : Nat) (f : Context → Context) : (s.modCtx c f).grids = s.grids := rfl
@[simp] theorem State.modCtx_ctxs (s : State) (c : Nat) (f : Context → Context) : (s.modCtx c f).ctxs = tabMod s.ctxs c f := rfl
@[simp] theorem State.modCtx_tethers (s : State) (c : Nat) (f : Context → Context) : (s.modCtx c f).tethers = s.tethers := rfl
@[simp] theorem State.modCtx_unarmed (s : State) (c : Nat) (f : Context → Context) : (s.modCtx c f).unarmed = s.unarmed := rfl
@[simp] theorem State.modCtx_freed (s : State) (c : Nat) (f : Context → Context) : (s.modCtx c f).freed = s.freed := rfl
@[simp] theorem State.modCtx_wakes (s : State) (c : Nat) (f : Context → Context) : (s.modCtx c f).wakes = s.wakes := rfl
@[simp] theorem State.modCtx_tableCap (s : State) (c : Nat) (f : Context → Context) : (s.modCtx c f).tableCap = s.tableCap := rfl
@[simp] theorem State.modCtx_arrivals (s : State) (c : Nat) (f : Context → Context) : (s.modCtx c f).arrivals = s.arrivals := rfl
@[simp] theorem State.modCtx_rays (s : State) (c : Nat) (f : Context → Context) : (s.modCtx c f).rays = s.rays := rfl
@[simp] theorem State.modCtx_builds (s : State) (c : Nat) (f : Context → Context) : (s.modCtx c f).builds = s.builds := rfl
@[simp] theorem State.modCtx_trees (s : State) (c : Nat) (f : Context → Context) : (s.modCtx c f).trees = s.trees := rfl
@[simp] theorem State.modCtx_reclaims (s : State) (c : Nat) (f : Context → Context) : (s.modCtx c f).reclaims = s.reclaims := rfl
@[simp] theorem State.modCtx_rasters (s : State) (c : Nat) (f : Context → Context) : (s.modCtx c f).rasters = s.rasters := rfl
@[simp] theorem State.modCtx_streams (s : State) (c : Nat) (f : Context → Context) : (s.modCtx c f).streams = s.streams := rfl
@[simp] theorem State.modCtx_dups (s : State) (c : Nat) (f : Context → Context) : (s.modCtx c f).dups = s.dups := rfl
@[simp] theorem State.modCtx_blockedWalks (s : State) (c : Nat) (f : Context → Context) : (s.modCtx c f).blockedWalks = s.blockedWalks := rfl
@[simp] theorem State.modCtx_maint (s : State) (c : Nat) (f : Context → Context) : (s.modCtx c f).maint = s.maint := rfl
@[simp] theorem State.modCtx_hostWrites (s : State) (c : Nat) (f : Context → Context) : (s.modCtx c f).hostWrites = s.hostWrites := rfl
@[simp] theorem State.modCtx_hostRead (s : State) (c : Nat) (f : Context → Context) : (s.modCtx c f).hostRead = s.hostRead := rfl
@[simp] theorem State.modCtx_messages (s : State) (c : Nat) (f : Context → Context) : (s.modCtx c f).messages = s.messages := rfl
@[simp] theorem State.modCtx_peers (s : State) (c : Nat) (f : Context → Context) : (s.modCtx c f).peers = s.peers := rfl
@[simp] theorem State.modCtx_brands (s : State) (c : Nat) (f : Context → Context) : (s.modCtx c f).brands = s.brands := rfl
@[simp] theorem State.modCtx_portsUp (s : State) (c : Nat) (f : Context → Context) : (s.modCtx c f).portsUp = s.portsUp := rfl
@[simp] theorem State.modCtx_harvest (s : State) (c : Nat) (f : Context → Context) : (s.modCtx c f).harvest = s.harvest := rfl
@[simp] theorem State.modCtx_sched (s : State) (c : Nat) (f : Context → Context) : (s.modCtx c f).sched = s.sched := rfl
@[simp] theorem State.modCtx_backfill (s : State) (c : Nat) (f : Context → Context) : (s.modCtx c f).backfill = s.backfill := rfl
@[simp] theorem State.modCtx_reserved (s : State) (c : Nat) (f : Context → Context) : (s.modCtx c f).reserved = s.reserved := rfl
@[simp] theorem State.modCtx_queueTurn (s : State) (c : Nat) (f : Context → Context) : (s.modCtx c f).queueTurn = s.queueTurn := rfl
@[simp] theorem State.modCtx_posted (s : State) (c : Nat) (f : Context → Context) : (s.modCtx c f).posted = s.posted := rfl
@[simp] theorem State.modCtx_policy (s : State) (c : Nat) (f : Context → Context) : (s.modCtx c f).policy = s.policy := rfl
@[simp] theorem State.modCtx_power (s : State) (c : Nat) (f : Context → Context) : (s.modCtx c f).power = s.power := rfl
@[simp] theorem State.modCtx_fabric (s : State) (c : Nat) (f : Context → Context) : (s.modCtx c f).fabric = s.fabric := rfl
@[simp] theorem State.modCtx_ptp (s : State) (c : Nat) (f : Context → Context) : (s.modCtx c f).ptp = s.ptp := rfl
@[simp] theorem State.modCtx_boot (s : State) (c : Nat) (f : Context → Context) : (s.modCtx c f).boot = s.boot := rfl
@[simp] theorem State.modCtx_errors (s : State) (c : Nat) (f : Context → Context) : (s.modCtx c f).errors = s.errors := rfl
@[simp] theorem State.modCtx_quarantined (s : State) (c : Nat) (f : Context → Context) : (s.modCtx c f).quarantined = s.quarantined := rfl
@[simp] theorem State.modCtx_hotInterval (s : State) (c : Nat) (f : Context → Context) : (s.modCtx c f).hotInterval = s.hotInterval := rfl
@[simp] theorem State.modCtx_hotOn (s : State) (c : Nat) (f : Context → Context) : (s.modCtx c f).hotOn = s.hotOn := rfl
@[simp] theorem State.modCtx_inbound (s : State) (c : Nat) (f : Context → Context) : (s.modCtx c f).inbound = s.inbound := rfl
@[simp] theorem State.modCtx_killed (s : State) (c : Nat) (f : Context → Context) : (s.modCtx c f).killed = s.killed := rfl
@[simp] theorem State.modCtx_rejected (s : State) (c : Nat) (f : Context → Context) : (s.modCtx c f).rejected = s.rejected := rfl
@[simp] theorem State.modCtx_sensors (s : State) (c : Nat) (f : Context → Context) : (s.modCtx c f).sensors = s.sensors := rfl
@[simp] theorem State.modCtx_wave (s : State) (c : Nat) (f : Context → Context) (k : Nat) : (s.modCtx c f).wave k = s.wave k := rfl
@[simp] theorem State.modCtx_wg (s : State) (c : Nat) (f : Context → Context) (k : Nat) : (s.modCtx c f).wg k = s.wg k := rfl
@[simp] theorem State.modCtx_drove (s : State) (c : Nat) (f : Context → Context) (k : Nat) : (s.modCtx c f).drove k = s.drove k := rfl
@[simp] theorem State.modCtx_grid (s : State) (c : Nat) (f : Context → Context) (k : Nat) : (s.modCtx c f).grid k = s.grid k := rfl
@[simp] theorem State.modCtx_core (s : State) (c : Nat) (f : Context → Context) (k : Nat) : (s.modCtx c f).core k = s.core k := rfl
@[simp] theorem State.modCtx_quarter (s : State) (c : Nat) (f : Context → Context) (k : Nat) : (s.modCtx c f).quarter k = s.quarter k := rfl

/-! ### `modCore` -/

@[simp] theorem State.modCore_cycle (s : State) (c : Nat) (f : Core → Core) : (s.modCore c f).cycle = s.cycle := rfl
@[simp] theorem State.modCore_time (s : State) (c : Nat) (f : Core → Core) : (s.modCore c f).time = s.time := rfl
@[simp] theorem State.modCore_subNs (s : State) (c : Nat) (f : Core → Core) : (s.modCore c f).subNs = s.subNs := rfl
@[simp] theorem State.modCore_cursor (s : State) (c : Nat) (f : Core → Core) : (s.modCore c f).cursor = s.cursor := rfl
@[simp] theorem State.modCore_slotB (s : State) (c : Nat) (f : Core → Core) : (s.modCore c f).slotB = s.slotB := rfl
@[simp] theorem State.modCore_portMem (s : State) (c : Nat) (f : Core → Core) : (s.modCore c f).portMem = s.portMem := rfl
@[simp] theorem State.modCore_portTile (s : State) (c : Nat) (f : Core → Core) : (s.modCore c f).portTile = s.portTile := rfl
@[simp] theorem State.modCore_iss (s : State) (c : Nat) (f : Core → Core) : (s.modCore c f).iss = s.iss := rfl
@[simp] theorem State.modCore_agenda (s : State) (c : Nat) (f : Core → Core) : (s.modCore c f).agenda = s.agenda := rfl
@[simp] theorem State.modCore_upset (s : State) (c : Nat) (f : Core → Core) : (s.modCore c f).upset = s.upset := rfl
@[simp] theorem State.modCore_fresh (s : State) (c : Nat) (f : Core → Core) : (s.modCore c f).fresh = s.fresh := rfl
@[simp] theorem State.modCore_free (s : State) (c : Nat) (f : Core → Core) : (s.modCore c f).free = s.free := rfl
@[simp] theorem State.modCore_mem (s : State) (c : Nat) (f : Core → Core) : (s.modCore c f).mem = s.mem := rfl
@[simp] theorem State.modCore_poisoned (s : State) (c : Nat) (f : Core → Core) : (s.modCore c f).poisoned = s.poisoned := rfl
@[simp] theorem State.modCore_old (s : State) (c : Nat) (f : Core → Core) : (s.modCore c f).old = s.old := rfl
@[simp] theorem State.modCore_waves (s : State) (c : Nat) (f : Core → Core) : (s.modCore c f).waves = s.waves := rfl
@[simp] theorem State.modCore_quarters (s : State) (c : Nat) (f : Core → Core) : (s.modCore c f).quarters = s.quarters := rfl
@[simp] theorem State.modCore_cores (s : State) (c : Nat) (f : Core → Core) : (s.modCore c f).cores = tabSet s.cores c (f (s.core c)) := rfl
@[simp] theorem State.modCore_sites (s : State) (c : Nat) (f : Core → Core) : (s.modCore c f).sites = s.sites := rfl
@[simp] theorem State.modCore_dies (s : State) (c : Nat) (f : Core → Core) : (s.modCore c f).dies = s.dies := rfl
@[simp] theorem State.modCore_links (s : State) (c : Nat) (f : Core → Core) : (s.modCore c f).links = s.links := rfl
@[simp] theorem State.modCore_wgs (s : State) (c : Nat) (f : Core → Core) : (s.modCore c f).wgs = s.wgs := rfl
@[simp] theorem State.modCore_droves (s : State) (c : Nat) (f : Core → Core) : (s.modCore c f).droves = s.droves := rfl
@[simp] theorem State.modCore_grids (s : State) (c : Nat) (f : Core → Core) : (s.modCore c f).grids = s.grids := rfl
@[simp] theorem State.modCore_ctxs (s : State) (c : Nat) (f : Core → Core) : (s.modCore c f).ctxs = s.ctxs := rfl
@[simp] theorem State.modCore_tethers (s : State) (c : Nat) (f : Core → Core) : (s.modCore c f).tethers = s.tethers := rfl
@[simp] theorem State.modCore_unarmed (s : State) (c : Nat) (f : Core → Core) : (s.modCore c f).unarmed = s.unarmed := rfl
@[simp] theorem State.modCore_freed (s : State) (c : Nat) (f : Core → Core) : (s.modCore c f).freed = s.freed := rfl
@[simp] theorem State.modCore_wakes (s : State) (c : Nat) (f : Core → Core) : (s.modCore c f).wakes = s.wakes := rfl
@[simp] theorem State.modCore_tableCap (s : State) (c : Nat) (f : Core → Core) : (s.modCore c f).tableCap = s.tableCap := rfl
@[simp] theorem State.modCore_arrivals (s : State) (c : Nat) (f : Core → Core) : (s.modCore c f).arrivals = s.arrivals := rfl
@[simp] theorem State.modCore_rays (s : State) (c : Nat) (f : Core → Core) : (s.modCore c f).rays = s.rays := rfl
@[simp] theorem State.modCore_builds (s : State) (c : Nat) (f : Core → Core) : (s.modCore c f).builds = s.builds := rfl
@[simp] theorem State.modCore_trees (s : State) (c : Nat) (f : Core → Core) : (s.modCore c f).trees = s.trees := rfl
@[simp] theorem State.modCore_reclaims (s : State) (c : Nat) (f : Core → Core) : (s.modCore c f).reclaims = s.reclaims := rfl
@[simp] theorem State.modCore_rasters (s : State) (c : Nat) (f : Core → Core) : (s.modCore c f).rasters = s.rasters := rfl
@[simp] theorem State.modCore_streams (s : State) (c : Nat) (f : Core → Core) : (s.modCore c f).streams = s.streams := rfl
@[simp] theorem State.modCore_dups (s : State) (c : Nat) (f : Core → Core) : (s.modCore c f).dups = s.dups := rfl
@[simp] theorem State.modCore_blockedWalks (s : State) (c : Nat) (f : Core → Core) : (s.modCore c f).blockedWalks = s.blockedWalks := rfl
@[simp] theorem State.modCore_maint (s : State) (c : Nat) (f : Core → Core) : (s.modCore c f).maint = s.maint := rfl
@[simp] theorem State.modCore_hostWrites (s : State) (c : Nat) (f : Core → Core) : (s.modCore c f).hostWrites = s.hostWrites := rfl
@[simp] theorem State.modCore_hostRead (s : State) (c : Nat) (f : Core → Core) : (s.modCore c f).hostRead = s.hostRead := rfl
@[simp] theorem State.modCore_messages (s : State) (c : Nat) (f : Core → Core) : (s.modCore c f).messages = s.messages := rfl
@[simp] theorem State.modCore_peers (s : State) (c : Nat) (f : Core → Core) : (s.modCore c f).peers = s.peers := rfl
@[simp] theorem State.modCore_brands (s : State) (c : Nat) (f : Core → Core) : (s.modCore c f).brands = s.brands := rfl
@[simp] theorem State.modCore_portsUp (s : State) (c : Nat) (f : Core → Core) : (s.modCore c f).portsUp = s.portsUp := rfl
@[simp] theorem State.modCore_harvest (s : State) (c : Nat) (f : Core → Core) : (s.modCore c f).harvest = s.harvest := rfl
@[simp] theorem State.modCore_sched (s : State) (c : Nat) (f : Core → Core) : (s.modCore c f).sched = s.sched := rfl
@[simp] theorem State.modCore_backfill (s : State) (c : Nat) (f : Core → Core) : (s.modCore c f).backfill = s.backfill := rfl
@[simp] theorem State.modCore_reserved (s : State) (c : Nat) (f : Core → Core) : (s.modCore c f).reserved = s.reserved := rfl
@[simp] theorem State.modCore_queueTurn (s : State) (c : Nat) (f : Core → Core) : (s.modCore c f).queueTurn = s.queueTurn := rfl
@[simp] theorem State.modCore_posted (s : State) (c : Nat) (f : Core → Core) : (s.modCore c f).posted = s.posted := rfl
@[simp] theorem State.modCore_policy (s : State) (c : Nat) (f : Core → Core) : (s.modCore c f).policy = s.policy := rfl
@[simp] theorem State.modCore_power (s : State) (c : Nat) (f : Core → Core) : (s.modCore c f).power = s.power := rfl
@[simp] theorem State.modCore_fabric (s : State) (c : Nat) (f : Core → Core) : (s.modCore c f).fabric = s.fabric := rfl
@[simp] theorem State.modCore_ptp (s : State) (c : Nat) (f : Core → Core) : (s.modCore c f).ptp = s.ptp := rfl
@[simp] theorem State.modCore_boot (s : State) (c : Nat) (f : Core → Core) : (s.modCore c f).boot = s.boot := rfl
@[simp] theorem State.modCore_errors (s : State) (c : Nat) (f : Core → Core) : (s.modCore c f).errors = s.errors := rfl
@[simp] theorem State.modCore_quarantined (s : State) (c : Nat) (f : Core → Core) : (s.modCore c f).quarantined = s.quarantined := rfl
@[simp] theorem State.modCore_hotInterval (s : State) (c : Nat) (f : Core → Core) : (s.modCore c f).hotInterval = s.hotInterval := rfl
@[simp] theorem State.modCore_hotOn (s : State) (c : Nat) (f : Core → Core) : (s.modCore c f).hotOn = s.hotOn := rfl
@[simp] theorem State.modCore_inbound (s : State) (c : Nat) (f : Core → Core) : (s.modCore c f).inbound = s.inbound := rfl
@[simp] theorem State.modCore_killed (s : State) (c : Nat) (f : Core → Core) : (s.modCore c f).killed = s.killed := rfl
@[simp] theorem State.modCore_rejected (s : State) (c : Nat) (f : Core → Core) : (s.modCore c f).rejected = s.rejected := rfl
@[simp] theorem State.modCore_sensors (s : State) (c : Nat) (f : Core → Core) : (s.modCore c f).sensors = s.sensors := rfl
@[simp] theorem State.modCore_wave (s : State) (c : Nat) (f : Core → Core) (k : Nat) : (s.modCore c f).wave k = s.wave k := rfl
@[simp] theorem State.modCore_wg (s : State) (c : Nat) (f : Core → Core) (k : Nat) : (s.modCore c f).wg k = s.wg k := rfl
@[simp] theorem State.modCore_drove (s : State) (c : Nat) (f : Core → Core) (k : Nat) : (s.modCore c f).drove k = s.drove k := rfl
@[simp] theorem State.modCore_grid (s : State) (c : Nat) (f : Core → Core) (k : Nat) : (s.modCore c f).grid k = s.grid k := rfl
@[simp] theorem State.modCore_ctx (s : State) (c : Nat) (f : Core → Core) (k : Nat) : (s.modCore c f).ctx k = s.ctx k := rfl
@[simp] theorem State.modCore_quarter (s : State) (c : Nat) (f : Core → Core) (k : Nat) : (s.modCore c f).quarter k = s.quarter k := rfl

/-! ### `modQuarter` -/

@[simp] theorem State.modQuarter_cycle (s : State) (q : Nat) (f : Quarter → Quarter) : (s.modQuarter q f).cycle = s.cycle := rfl
@[simp] theorem State.modQuarter_time (s : State) (q : Nat) (f : Quarter → Quarter) : (s.modQuarter q f).time = s.time := rfl
@[simp] theorem State.modQuarter_subNs (s : State) (q : Nat) (f : Quarter → Quarter) : (s.modQuarter q f).subNs = s.subNs := rfl
@[simp] theorem State.modQuarter_cursor (s : State) (q : Nat) (f : Quarter → Quarter) : (s.modQuarter q f).cursor = s.cursor := rfl
@[simp] theorem State.modQuarter_slotB (s : State) (q : Nat) (f : Quarter → Quarter) : (s.modQuarter q f).slotB = s.slotB := rfl
@[simp] theorem State.modQuarter_portMem (s : State) (q : Nat) (f : Quarter → Quarter) : (s.modQuarter q f).portMem = s.portMem := rfl
@[simp] theorem State.modQuarter_portTile (s : State) (q : Nat) (f : Quarter → Quarter) : (s.modQuarter q f).portTile = s.portTile := rfl
@[simp] theorem State.modQuarter_iss (s : State) (q : Nat) (f : Quarter → Quarter) : (s.modQuarter q f).iss = s.iss := rfl
@[simp] theorem State.modQuarter_agenda (s : State) (q : Nat) (f : Quarter → Quarter) : (s.modQuarter q f).agenda = s.agenda := rfl
@[simp] theorem State.modQuarter_upset (s : State) (q : Nat) (f : Quarter → Quarter) : (s.modQuarter q f).upset = s.upset := rfl
@[simp] theorem State.modQuarter_fresh (s : State) (q : Nat) (f : Quarter → Quarter) : (s.modQuarter q f).fresh = s.fresh := rfl
@[simp] theorem State.modQuarter_free (s : State) (q : Nat) (f : Quarter → Quarter) : (s.modQuarter q f).free = s.free := rfl
@[simp] theorem State.modQuarter_mem (s : State) (q : Nat) (f : Quarter → Quarter) : (s.modQuarter q f).mem = s.mem := rfl
@[simp] theorem State.modQuarter_poisoned (s : State) (q : Nat) (f : Quarter → Quarter) : (s.modQuarter q f).poisoned = s.poisoned := rfl
@[simp] theorem State.modQuarter_old (s : State) (q : Nat) (f : Quarter → Quarter) : (s.modQuarter q f).old = s.old := rfl
@[simp] theorem State.modQuarter_waves (s : State) (q : Nat) (f : Quarter → Quarter) : (s.modQuarter q f).waves = s.waves := rfl
@[simp] theorem State.modQuarter_quarters (s : State) (q : Nat) (f : Quarter → Quarter) : (s.modQuarter q f).quarters = tabSet s.quarters q (f (s.quarter q)) := rfl
@[simp] theorem State.modQuarter_cores (s : State) (q : Nat) (f : Quarter → Quarter) : (s.modQuarter q f).cores = s.cores := rfl
@[simp] theorem State.modQuarter_sites (s : State) (q : Nat) (f : Quarter → Quarter) : (s.modQuarter q f).sites = s.sites := rfl
@[simp] theorem State.modQuarter_dies (s : State) (q : Nat) (f : Quarter → Quarter) : (s.modQuarter q f).dies = s.dies := rfl
@[simp] theorem State.modQuarter_links (s : State) (q : Nat) (f : Quarter → Quarter) : (s.modQuarter q f).links = s.links := rfl
@[simp] theorem State.modQuarter_wgs (s : State) (q : Nat) (f : Quarter → Quarter) : (s.modQuarter q f).wgs = s.wgs := rfl
@[simp] theorem State.modQuarter_droves (s : State) (q : Nat) (f : Quarter → Quarter) : (s.modQuarter q f).droves = s.droves := rfl
@[simp] theorem State.modQuarter_grids (s : State) (q : Nat) (f : Quarter → Quarter) : (s.modQuarter q f).grids = s.grids := rfl
@[simp] theorem State.modQuarter_ctxs (s : State) (q : Nat) (f : Quarter → Quarter) : (s.modQuarter q f).ctxs = s.ctxs := rfl
@[simp] theorem State.modQuarter_tethers (s : State) (q : Nat) (f : Quarter → Quarter) : (s.modQuarter q f).tethers = s.tethers := rfl
@[simp] theorem State.modQuarter_unarmed (s : State) (q : Nat) (f : Quarter → Quarter) : (s.modQuarter q f).unarmed = s.unarmed := rfl
@[simp] theorem State.modQuarter_freed (s : State) (q : Nat) (f : Quarter → Quarter) : (s.modQuarter q f).freed = s.freed := rfl
@[simp] theorem State.modQuarter_wakes (s : State) (q : Nat) (f : Quarter → Quarter) : (s.modQuarter q f).wakes = s.wakes := rfl
@[simp] theorem State.modQuarter_tableCap (s : State) (q : Nat) (f : Quarter → Quarter) : (s.modQuarter q f).tableCap = s.tableCap := rfl
@[simp] theorem State.modQuarter_arrivals (s : State) (q : Nat) (f : Quarter → Quarter) : (s.modQuarter q f).arrivals = s.arrivals := rfl
@[simp] theorem State.modQuarter_rays (s : State) (q : Nat) (f : Quarter → Quarter) : (s.modQuarter q f).rays = s.rays := rfl
@[simp] theorem State.modQuarter_builds (s : State) (q : Nat) (f : Quarter → Quarter) : (s.modQuarter q f).builds = s.builds := rfl
@[simp] theorem State.modQuarter_trees (s : State) (q : Nat) (f : Quarter → Quarter) : (s.modQuarter q f).trees = s.trees := rfl
@[simp] theorem State.modQuarter_reclaims (s : State) (q : Nat) (f : Quarter → Quarter) : (s.modQuarter q f).reclaims = s.reclaims := rfl
@[simp] theorem State.modQuarter_rasters (s : State) (q : Nat) (f : Quarter → Quarter) : (s.modQuarter q f).rasters = s.rasters := rfl
@[simp] theorem State.modQuarter_streams (s : State) (q : Nat) (f : Quarter → Quarter) : (s.modQuarter q f).streams = s.streams := rfl
@[simp] theorem State.modQuarter_dups (s : State) (q : Nat) (f : Quarter → Quarter) : (s.modQuarter q f).dups = s.dups := rfl
@[simp] theorem State.modQuarter_blockedWalks (s : State) (q : Nat) (f : Quarter → Quarter) : (s.modQuarter q f).blockedWalks = s.blockedWalks := rfl
@[simp] theorem State.modQuarter_maint (s : State) (q : Nat) (f : Quarter → Quarter) : (s.modQuarter q f).maint = s.maint := rfl
@[simp] theorem State.modQuarter_hostWrites (s : State) (q : Nat) (f : Quarter → Quarter) : (s.modQuarter q f).hostWrites = s.hostWrites := rfl
@[simp] theorem State.modQuarter_hostRead (s : State) (q : Nat) (f : Quarter → Quarter) : (s.modQuarter q f).hostRead = s.hostRead := rfl
@[simp] theorem State.modQuarter_messages (s : State) (q : Nat) (f : Quarter → Quarter) : (s.modQuarter q f).messages = s.messages := rfl
@[simp] theorem State.modQuarter_peers (s : State) (q : Nat) (f : Quarter → Quarter) : (s.modQuarter q f).peers = s.peers := rfl
@[simp] theorem State.modQuarter_brands (s : State) (q : Nat) (f : Quarter → Quarter) : (s.modQuarter q f).brands = s.brands := rfl
@[simp] theorem State.modQuarter_portsUp (s : State) (q : Nat) (f : Quarter → Quarter) : (s.modQuarter q f).portsUp = s.portsUp := rfl
@[simp] theorem State.modQuarter_harvest (s : State) (q : Nat) (f : Quarter → Quarter) : (s.modQuarter q f).harvest = s.harvest := rfl
@[simp] theorem State.modQuarter_sched (s : State) (q : Nat) (f : Quarter → Quarter) : (s.modQuarter q f).sched = s.sched := rfl
@[simp] theorem State.modQuarter_backfill (s : State) (q : Nat) (f : Quarter → Quarter) : (s.modQuarter q f).backfill = s.backfill := rfl
@[simp] theorem State.modQuarter_reserved (s : State) (q : Nat) (f : Quarter → Quarter) : (s.modQuarter q f).reserved = s.reserved := rfl
@[simp] theorem State.modQuarter_queueTurn (s : State) (q : Nat) (f : Quarter → Quarter) : (s.modQuarter q f).queueTurn = s.queueTurn := rfl
@[simp] theorem State.modQuarter_posted (s : State) (q : Nat) (f : Quarter → Quarter) : (s.modQuarter q f).posted = s.posted := rfl
@[simp] theorem State.modQuarter_policy (s : State) (q : Nat) (f : Quarter → Quarter) : (s.modQuarter q f).policy = s.policy := rfl
@[simp] theorem State.modQuarter_power (s : State) (q : Nat) (f : Quarter → Quarter) : (s.modQuarter q f).power = s.power := rfl
@[simp] theorem State.modQuarter_fabric (s : State) (q : Nat) (f : Quarter → Quarter) : (s.modQuarter q f).fabric = s.fabric := rfl
@[simp] theorem State.modQuarter_ptp (s : State) (q : Nat) (f : Quarter → Quarter) : (s.modQuarter q f).ptp = s.ptp := rfl
@[simp] theorem State.modQuarter_boot (s : State) (q : Nat) (f : Quarter → Quarter) : (s.modQuarter q f).boot = s.boot := rfl
@[simp] theorem State.modQuarter_errors (s : State) (q : Nat) (f : Quarter → Quarter) : (s.modQuarter q f).errors = s.errors := rfl
@[simp] theorem State.modQuarter_quarantined (s : State) (q : Nat) (f : Quarter → Quarter) : (s.modQuarter q f).quarantined = s.quarantined := rfl
@[simp] theorem State.modQuarter_hotInterval (s : State) (q : Nat) (f : Quarter → Quarter) : (s.modQuarter q f).hotInterval = s.hotInterval := rfl
@[simp] theorem State.modQuarter_hotOn (s : State) (q : Nat) (f : Quarter → Quarter) : (s.modQuarter q f).hotOn = s.hotOn := rfl
@[simp] theorem State.modQuarter_inbound (s : State) (q : Nat) (f : Quarter → Quarter) : (s.modQuarter q f).inbound = s.inbound := rfl
@[simp] theorem State.modQuarter_killed (s : State) (q : Nat) (f : Quarter → Quarter) : (s.modQuarter q f).killed = s.killed := rfl
@[simp] theorem State.modQuarter_rejected (s : State) (q : Nat) (f : Quarter → Quarter) : (s.modQuarter q f).rejected = s.rejected := rfl
@[simp] theorem State.modQuarter_sensors (s : State) (q : Nat) (f : Quarter → Quarter) : (s.modQuarter q f).sensors = s.sensors := rfl
@[simp] theorem State.modQuarter_wave (s : State) (q : Nat) (f : Quarter → Quarter) (k : Nat) : (s.modQuarter q f).wave k = s.wave k := rfl
@[simp] theorem State.modQuarter_wg (s : State) (q : Nat) (f : Quarter → Quarter) (k : Nat) : (s.modQuarter q f).wg k = s.wg k := rfl
@[simp] theorem State.modQuarter_drove (s : State) (q : Nat) (f : Quarter → Quarter) (k : Nat) : (s.modQuarter q f).drove k = s.drove k := rfl
@[simp] theorem State.modQuarter_grid (s : State) (q : Nat) (f : Quarter → Quarter) (k : Nat) : (s.modQuarter q f).grid k = s.grid k := rfl
@[simp] theorem State.modQuarter_ctx (s : State) (q : Nat) (f : Quarter → Quarter) (k : Nat) : (s.modQuarter q f).ctx k = s.ctx k := rfl
@[simp] theorem State.modQuarter_core (s : State) (q : Nat) (f : Quarter → Quarter) (k : Nat) : (s.modQuarter q f).core k = s.core k := rfl

end Sys2Proof.Machine
end

