-- ==== Sys2Proof/Laws/Issue.lean ====
section
/-! SUPPORT. Laws/Issue.lean: the checks at issue, and what each shared write of the issuing wave does, each said once. -/

namespace Sys2Proof.Machine

open Sys2Proof

/-! ## Tables -/

theorem tabMod_tabMod {α : Type} (t : Tab α) (k : Nat) (f g : α → α) :
    tabMod (tabMod t k f) k g = tabMod t k (fun x => g (f x)) := by
  induction t with
  | nil => rfl
  | cons c r ih =>
    obtain ⟨j, v⟩ := c
    by_cases h : j = k <;> simp [tabMod, h, ih]

theorem tabMod_id {α : Type} (t : Tab α) (k : Nat) : tabMod t k (fun x => x) = t := by
  induction t with
  | nil => rfl
  | cons c r ih =>
    obtain ⟨j, v⟩ := c
    by_cases h : j = k <;> simp [tabMod, h, ih]

theorem tabMod_congr {α : Type} {t : Tab α} {k : Nat} {f g : α → α} (h : ∀ x, tabGet t k = some x → f x = g x) :
    tabMod t k f = tabMod t k g := by
  induction t with
  | nil => rfl
  | cons c r ih =>
    obtain ⟨j, v⟩ := c
    by_cases hj : j = k
    · simp [tabMod, hj, h v (by simp [tabGet, hj])]
    · simp [tabMod, hj, ih (fun x hx => h x (by simpa [tabGet, hj] using hx))]

theorem mapIdx_mapIdx {α β γ : Type} (l : List α) (f : Nat → α → β) (g : Nat → β → γ) :
    (l.mapIdx f).mapIdx g = l.mapIdx (fun i x => g i (f i x)) := by
  induction l generalizing f g with
  | nil => rfl
  | cons a r ih => simp [List.mapIdx_cons, ih]

/-! ## Masks -/

theorem maskOf_getLsbD (p : Nat → Bool) (l : Nat) : (maskOf p).getLsbD l = (decide (l < 32) && p l) := by
  have key : ∀ (ls : List Nat) (m : Mask), (∀ x ∈ ls, x < 32) →
      (ls.foldl (fun acc l => if p l then acc ||| (1#32 <<< l) else acc) m).getLsbD l =
        (m.getLsbD l || (decide (l ∈ ls) && p l)) := by
    intro ls
    induction ls with
    | nil => intro m _; simp
    | cons a r ih =>
      intro m h
      rw [List.foldl_cons, ih _ (fun x hx => h x (List.mem_cons_of_mem _ hx))]
      have ha : a < 32 := h a (by simp)
      by_cases hp : p a
      · by_cases hl : l = a
        · subst hl; simp [hp, ha]
        · have : (1#32 <<< a).getLsbD l = false := by
            simp [BitVec.getLsbD_shiftLeft, BitVec.getLsbD_one]; omega
          simp [hp, hl, BitVec.getLsbD_or, this]
      · by_cases hl : l = a
        · subst hl; simp [hp]
        · simp [hp, hl]
  have := key (List.range 32) 0#32 (fun x hx => List.mem_range.mp hx)
  simpa [maskOf] using this

theorem maskOf_eq_zero {p : Nat → Bool} : maskOf p = 0#32 ↔ ∀ l < 32, p l = false := by
  constructor
  · intro h l hl
    have := maskOf_getLsbD p l
    rw [h] at this
    simpa [hl] using this.symm
  · intro h
    apply BitVec.eq_of_getLsbD_eq
    intro i hi
    rw [maskOf_getLsbD]; simp [h i hi]

/-! ## The checks at issue -/

theorem windowFails_false {w : Wave} {vs : List Nat} (h : ∀ n ∈ vs, w.wb + n < w.nregs) : w.windowFails vs = false := by
  simp only [Wave.windowFails, List.any_eq_false, decide_eq_true_eq]
  intro x hx; have := h x hx; omega

theorem latchFails_zero {w : Wave} {act : Mask} {ls : List Nat}
    (h : ∀ l < 32, act.getLsbD l = true → ∀ k ∈ ls, ((w.lane l).latches.getD k Latch.blank).valid = true) :
    w.latchFails act ls = 0#32 := by
  rw [Wave.latchFails, maskOf_eq_zero]
  intro l hl
  by_cases ha : act.getLsbD l = true
  · simp only [ha, Bool.true_and, List.any_eq_false]
    intro k hk; rw [h l hl ha k hk]; simp
  · simp [ha]

/-- What passes the checks at issue raises no trap there. -/
theorem Passes.issueTrap {i : Instr} {s : State} (h : Passes i s) : s.issueTrap i false = none := by
  have hp : (i.privileged && !s.src.handler) = false := by
    cases hq : i.privileged
    · rfl
    · simp [h.privilege hq]
  simp [State.issueTrap, h.encoding, hp, windowFails_false h.window, latchFails_zero h.latch]

/-- An entry with no trap of its own runs once it passes. -/
theorem Passes.plain {i : Instr} {s : State} (h : Passes i s) (eff : State → State) :
    Machine.plain i eff s = .next (eff s) := by
  simp [Machine.plain, checked, lawful, h.issueTrap, noTrap]

/-- An entry whose own trap does not arise runs once it passes. -/
theorem Passes.checked {i : Instr} {s : State} (h : Passes i s) {bad : State → Bool} {own : State → Option TrapReq}
    (hb : bad s = false) (ho : own s = none) (eff : State → State) : Machine.checked i bad own eff s = .next (eff s) := by
  simp [Machine.checked, hb, h.issueTrap, ho]

/-! ## Writes of the issuing wave -/

theorem Only.refl (s : State) : Only s s (fun w => w) := ⟨rfl, rfl, (tabMod_id _ _).symm⟩

theorem Only.modCur (s : State) (f : Wave → Wave) : Only s (s.modCur f) f := ⟨rfl, rfl, rfl⟩

theorem SameIssue.trans {i j k : Issue} (h : SameIssue i j) (g : SameIssue j k) : SameIssue i k := by
  unfold SameIssue at *
  rw [← h, ← g]

theorem SameIssue.key {i j : Issue} (h : SameIssue i j) : j.key = i.key := by rw [← h]
theorem SameIssue.lanes {i j : Issue} (h : SameIssue i j) : j.lanes = i.lanes := by rw [← h]
theorem SameIssue.pc {i j : Issue} (h : SameIssue i j) : j.pc = i.pc := by rw [← h]
theorem SameIssue.next {i j : Issue} (h : SameIssue i j) : j.next = i.next := by rw [← h]
theorem SameIssue.slotB {i j : Issue} (h : SameIssue i j) : j.slotB = i.slotB := by rw [← h]
theorem SameIssue.before {i j : Issue} (h : SameIssue i j) : j.before = i.before := by rw [← h]

theorem Only.trans {s t u : State} {f g : Wave → Wave} (h : Only s t f) (k : Only t u g) : Only s u (fun w => g (f w)) := by
  obtain ⟨h1, h2, h3⟩ := h
  obtain ⟨k1, k2, k3⟩ := k
  refine ⟨?_, h2.trans k2, ?_⟩
  · rw [← h1, ← k1]
  · rw [k3, h3, h2.key, tabMod_tabMod]

theorem Only.congr {s t : State} {f g : Wave → Wave} (h : Only s t f) (e : ∀ w, f w = g w) : Only s t g := by
  rw [show g = f from (funext e).symm]; exact h

/-- What stays as it was under a write of the issuing wave. -/
theorem Only.frame {s t : State} {f : Wave → Wave} (h : Only s t f) : t.mem = s.mem ∧ t.wgs = s.wgs ∧ t.time = s.time := by
  obtain ⟨h1, -, -⟩ := h
  refine ⟨?_, ?_, ?_⟩ <;> rw [← h1]

theorem blockedV_getLsbD (i : Issue) (r l : Nat) :
    (i.blockedV r).getLsbD l = (i.slotB && i.keptV.any (fun k => decide (k.1 = r) && k.2.getLsbD l)) := by
  unfold Issue.blockedV
  cases i.slotB
  · simp
  · have key : ∀ (ks : List (Nat × Mask)) (m : Mask),
        (ks.foldl (fun m k => if k.1 = r then m ||| k.2 else m) m).getLsbD l =
          (m.getLsbD l || ks.any (fun k => decide (k.1 = r) && k.2.getLsbD l)) := by
      intro ks
      induction ks with
      | nil => intro m; simp
      | cons a t ih =>
        intro m
        rw [List.foldl_cons, ih]
        by_cases h : a.1 = r <;> simp [h, BitVec.getLsbD_or, Bool.or_assoc]
    simpa using key i.keptV 0#32

theorem only_putV (s : State) (n : Nat) (f : Nat → Word) :
    Only s (s.putV s.active n f) (fun w => w.lanesBy s.active (fun l x => s.give l (s.cur.wb + n) (f l) x)) := by
  refine ⟨rfl, ?_, ?_⟩
  · simp only [State.putV, Issue.noteV, SameIssue]; split <;> rfl
  · have : ∀ w : Wave, w.setReg (s.active &&& ~~~ s.iss.blockedV (s.cur.wb + n)) (s.cur.wb + n) f =
        w.lanesBy s.active (fun l x => s.give l (s.cur.wb + n) (f l) x) := by
      intro w
      simp only [Wave.setReg, Wave.modLanes, Wave.lanesBy]
      congr 1
      refine List.mapIdx_eq_mapIdx_iff.mpr ?_
      intro l hl
      by_cases h32 : l < 32
      · simp only [BitVec.getLsbD_and, BitVec.getLsbD_not, blockedV_getLsbD, h32, decide_true, Bool.true_and, State.give, State.writes]
        by_cases ha : s.active.getLsbD l = true
        · simp only [ha, Bool.true_and]; rfl
        · simp [ha]
      · have : s.active.getLsbD l = false := BitVec.getLsbD_of_ge _ _ (by omega)
        simp [this]
    simp only [State.putV, State.modCur, State.modWave]
    congr 1
    funext w
    exact this w

/-- A wave none of whose lanes is changed. -/
theorem Wave.lanesBy_same (w : Wave) (act : Mask) : w.lanesBy act sameLane = w := by
  simp only [Wave.lanesBy, sameLane, ite_self]
  rw [show w.lanes.mapIdx (fun _ x => x) = w.lanes from by apply List.ext_getElem <;> simp]

theorem Wave.lanesBy_lanesBy (w : Wave) (act : Mask) (f g : Nat → Lane → Lane) :
    (w.lanesBy act f).lanesBy act g = w.lanesBy act (fun l x => g l (f l x)) := by
  simp only [Wave.lanesBy, mapIdx_mapIdx]
  congr 1
  refine List.mapIdx_eq_mapIdx_iff.mpr ?_
  intro l hl
  by_cases h : act.getLsbD l = true <;> simp [h]

theorem only_push (s : State) (wide : Bool) (f : Nat → Dword) :
    Only s (s.push wide f) (fun w => w.lanesBy s.active (fun l x => x.latched (f l) wide)) := Only.modCur _ _

theorem only_adv (s : State) : Only s s.adv (fun w => w.lanesBy s.active (fun _ x => { x with pc := s.iss.next })) :=
  Only.modCur _ _

theorem Only.active {s t : State} {f : Wave → Wave} (h : Only s t f) : t.active = s.active := h.2.1.lanes
theorem Only.next {s t : State} {f : Wave → Wave} (h : Only s t f) : t.iss.next = s.iss.next := h.2.1.next
theorem Only.slotB {s t : State} {f : Wave → Wave} (h : Only s t f) : t.iss.slotB = s.iss.slotB := h.2.1.slotB

/-- The issuing wave after a write of it. -/
theorem Only.cur {s t : State} {f : Wave → Wave} (h : Only s t f) :
    t.cur = ((tabGet s.waves s.iss.key).map f).getD Wave.blank := by
  simp only [State.cur, State.wave, h.2.1.key, h.2.2, Laws.tabGet_tabMod, if_true]

/-- A write of the issuing wave that keeps a field of every wave keeps it of the issuing one. -/
theorem Only.curKeeps {s t : State} {f : Wave → Wave} (h : Only s t f) {α : Type} (p : Wave → α) (hf : ∀ w, p (f w) = p w) :
    p t.cur = p s.cur := by
  rw [h.cur]
  simp only [State.cur, State.wave]
  cases tabGet s.waves s.iss.key with
  | none => rfl
  | some w => simp [hf]

/-- Two changes of the active lanes in turn. -/
theorem Only.lanes {s t u : State} {f g : Nat → Lane → Lane} (h : Only s t (fun w => w.lanesBy s.active f))
    (k : Only t u (fun w => w.lanesBy t.active g)) : Only s u (fun w => w.lanesBy s.active (fun l x => g l (f l x))) := by
  refine (h.trans k).congr (fun w => ?_)
  rw [h.active, Wave.lanesBy_lanesBy]

/-- A change of the active lanes, then their advance. -/
theorem Only.adv {s t : State} {f : Nat → Lane → Lane} (h : Only s t (fun w => w.lanesBy s.active f)) :
    Only s t.adv (fun w => w.advanced s f) := by
  refine (h.lanes (only_adv t)).congr (fun w => ?_)
  rw [h.next]; rfl

/-- Any change of the wave, then the advance of its active lanes. -/
theorem Only.advAfter {s t : State} {f : Wave → Wave} (h : Only s t f) :
    Only s t.adv (fun w => (f w).advanced s sameLane) := by
  refine (h.trans (only_adv t)).congr (fun w => ?_)
  rw [h.active, h.next]; rfl

theorem only_putD (s : State) (d : VDst) (f : Nat → Word) :
    Only s (s.putD d f) (fun w => w.lanesBy s.active (fun l x => s.give32 d l (f l) x)) := by
  cases d with
  | reg k => exact only_putV s k.val f
  | discard => exact (Only.refl s).congr (fun w => (w.lanesBy_same s.active).symm)

/-- What a 32-bit result of chapter 7 does (R163). -/
theorem only_result32 (s : State) (n : Bool) (d : VDst) (f : Wave → Nat → Word) :
    Only s (s.result32 n d f) (fun w => w.advanced s (fun l x =>
      (if n then x else s.give32 d l (f s.src l) x).latched ((f s.src l).setWidth 64) false)) := by
  cases n
  · have h := only_putD s d (f s.src)
    exact (h.lanes (only_push _ false _)).adv
  · exact (only_push s false _).adv

/-- A write of one vector register in lanes given as a function of the wave's base. -/
theorem only_putD64 (s : State) (d : VDst) (f : Nat → Dword) :
    Only s (s.putD64 d f) (fun w => w.lanesBy s.active (fun l x => s.give64 d l (f l) x)) := by
  cases d with
  | reg k =>
    have h := only_putV s k.val (fun l => lo32 (f l))
    have g := only_putV (s.putV s.active k.val (fun l => lo32 (f l))) (k.val + 1) (fun l => hi32 (f l))
    have wb : (s.putV s.active k.val (fun l => lo32 (f l))).cur.wb = s.cur.wb := h.curKeeps Wave.wb (fun _ => rfl)
    have wr : ∀ l, (s.putV s.active k.val (fun l => lo32 (f l))).writes l (s.cur.wb + (k.val + 1)) =
        s.writes l (s.cur.wb + (k.val + 1)) := by
      intro l
      simp only [State.writes, State.putV, State.active, Issue.noteV, State.modCur, State.modWave]
      cases hB : s.iss.slotB
      · simp
      · simp [hB]
    have e : (fun w : Wave => w.lanesBy (s.putV s.active k.val (fun l => lo32 (f l))).active
          (fun l x => (s.putV s.active k.val (fun l => lo32 (f l))).give l
            ((s.putV s.active k.val (fun l => lo32 (f l))).cur.wb + (k.val + 1)) (hi32 (f l)) x)) =
        (fun w : Wave => w.lanesBy (s.putV s.active k.val (fun l => lo32 (f l))).active
          (fun l x => s.give l (s.cur.wb + (k.val + 1)) (hi32 (f l)) x)) := by
      funext w
      rw [wb]
      simp only [State.give, wr]
    rw [e, h.active] at g
    have key := h.lanes (u := s.putD64 (.reg k) f) (g := fun l x => s.give l (s.cur.wb + (k.val + 1)) (hi32 (f l)) x)
      (by rw [h.active]; exact g)
    exact key
  | discard => exact (Only.refl s).congr (fun w => (w.lanesBy_same s.active).symm)

/-- What a 64-bit result of chapter 7 does (R163). -/
theorem only_result64 (s : State) (n : Bool) (d : VDst) (f : Wave → Nat → Dword) :
    Only s (s.result64 n d f) (fun w => w.advanced s (fun l x =>
      (if n then x else s.give64 d l (f s.src l) x).latched (f s.src l) true)) := by
  cases n
  · exact ((only_putD64 s d (f s.src)).lanes (only_push _ true _)).adv
  · exact (only_push s true _).adv

end Sys2Proof.Machine
end

