-- ==== Sys2Proof/Laws/PerInstr.lean ====
section
/-! SUPPORT. Laws/PerInstr.lean: facts about every row of the table as syntax, one lemma a constructor. -/

namespace Sys2Proof.Laws.ClassNibble

open Sys2Proof

/-- The class of an instruction stands in bits 31:28 of its first word (R108, Table 5.1); an event has no word. -/
def Statement (i : Instr) : Prop := i.cls = 16 ∨ fld i.word 28 4 = i.cls

theorem bra (off : BitVec 20) : Statement (.bra off) := .inr (encB_class _ _ _ (by decide) (by decide) (by omega))
theorem brin (m : MReg) (off : BitVec 20) : Statement (.brin m off) := .inr (encB_class _ _ _ (by decide) (by omega) (by omega))
theorem brout (m : MReg) (off : BitVec 20) : Statement (.brout m off) := .inr (encB_class _ _ _ (by decide) (by omega) (by omega))
theorem bany (m : MReg) (off : BitVec 20) : Statement (.bany m off) := .inr (encB_class _ _ _ (by decide) (by omega) (by omega))
theorem ball (m : MReg) (off : BitVec 20) : Statement (.ball m off) := .inr (encB_class _ _ _ (by decide) (by omega) (by omega))
theorem call (m : Option MReg) (off : BitVec 20) : Statement (.call m off) := .inr (encB_class _ _ _ (by decide) (optM_lt _) (by omega))
theorem bsz (s : SReg) (off : BitVec 18) : Statement (.bsz s off) := .inr (encBS_class _ _ _ (by decide) (by omega) (by omega))
theorem bsnz (s : SReg) (off : BitVec 18) : Statement (.bsnz s off) := .inr (encBS_class _ _ _ (by decide) (by omega) (by omega))
theorem jmpi (a : VSrc) : Statement (.jmpi a) := .inr (encJ_class _ _ _ (by decide) (by decide) a.code_lt)
theorem calli (a : VSrc) : Statement (.calli a) := .inr (encJ_class _ _ _ (by decide) (by decide) a.code_lt)
theorem ret : Statement .ret := .inr (encJ_class _ _ _ (by decide) (by decide) (by decide))
theorem join (m : MReg) : Statement (.join m) := .inr (encJ_class _ _ _ (by decide) (by omega) (by decide))
theorem leave (m : MReg) : Statement (.leave m) := .inr (encJ_class _ _ _ (by decide) (by omega) (by decide))
theorem waitm (m : MReg) : Statement (.waitm m) := .inr (encJ_class _ _ _ (by decide) (by omega) (by decide))
theorem yield : Statement .yield := .inr (encJ_class _ _ _ (by decide) (by decide) (by decide))
theorem nop : Statement .nop := .inr (encR_class _ _ _ _ _ _ (by decide) (by decide) (by decide) (by decide) (by decide) (by decide))
theorem trap (code : BitVec 14) : Statement (.trap code) := .inr (encR_class _ _ _ _ _ _ (by decide) (by decide) (by decide) (by decide) (by omega) (by omega))
theorem brk : Statement .brk := .inr (encR_class _ _ _ _ _ _ (by decide) (by decide) (by decide) (by decide) (by decide) (by decide))
theorem exit : Statement .exit := .inr (encR_class _ _ _ _ _ _ (by decide) (by decide) (by decide) (by decide) (by decide) (by decide))
theorem win (k : BitVec 5) : Statement (.win k) := .inr (encR_class _ _ _ _ _ _ (by decide) (by decide) (by decide) (by decide) (by decide) (by omega))
theorem winadd (k : BitVec 7) : Statement (.winadd k) := .inr (encR_class _ _ _ _ _ _ (by decide) (by decide) (by decide) (by decide) (by decide) (by omega))
theorem rdcr (d : SReg) (cr : BitVec 7) : Statement (.rdcr d cr) := .inr (encR_class _ _ _ _ _ _ (by decide) (by decide) (by decide) (by omega) (by decide) (by omega))
theorem rdcrD (d : SReg) (cr : BitVec 7) : Statement (.rdcrD d cr) := .inr (encR_class _ _ _ _ _ _ (by decide) (by decide) (by decide) (by omega) (by decide) (by omega))
theorem wrcr (a : USrc) (cr : BitVec 7) : Statement (.wrcr a cr) := .inr (encR_class _ _ _ _ _ _ (by decide) (by decide) (by decide) (by decide) a.code_lt (by omega))
theorem rte : Statement .rte := .inr (encR_class _ _ _ _ _ _ (by decide) (by decide) (by decide) (by decide) (by decide) (by decide))
theorem rdst (d : SReg) (a : USrc) (item : BitVec 7) : Statement (.rdst d a item) := .inr (encR_class _ _ _ _ _ _ (by decide) (by decide) (by decide) (by omega) a.code_lt (by omega))
theorem wrst (d : USrc) (a : USrc) (item : BitVec 7) : Statement (.wrst d a item) := .inr (encR_class _ _ _ _ _ _ (by decide) (by decide) (by decide) d.code_lt a.code_lt (by omega))
theorem launch (d : VReg) (a : VReg) : Statement (.launch d a) := .inr (encR_class _ _ _ _ _ _ (by decide) (by decide) (by decide) (by omega) (by omega) (by decide))
theorem gbar : Statement .gbar := .inr (encR_class _ _ _ _ _ _ (by decide) (by decide) (by decide) (by decide) (by decide) (by decide))
theorem sleept (a : USrc) : Statement (.sleept a) := .inr (encR_class _ _ _ _ _ _ (by decide) (by decide) (by decide) (by decide) a.code_lt (by decide))
theorem sleeptAbs (a : USrc) : Statement (.sleeptAbs a) := .inr (encR_class _ _ _ _ _ _ (by decide) (by decide) (by decide) (by decide) a.code_lt (by decide))
theorem wake : Statement .wake := .inr (encR_class _ _ _ _ _ _ (by decide) (by decide) (by decide) (by decide) (by decide) (by decide))
theorem setmodeFpmode (a : USrc) : Statement (.setmodeFpmode a) := .inr (encR_class _ _ _ _ _ _ (by decide) (by decide) (by decide) (by decide) a.code_lt (by decide))
theorem setmodeFpflags (a : USrc) : Statement (.setmodeFpflags a) := .inr (encR_class _ _ _ _ _ _ (by decide) (by decide) (by decide) (by decide) a.code_lt (by decide))
theorem setmodeOobflags (a : USrc) : Statement (.setmodeOobflags a) := .inr (encR_class _ _ _ _ _ _ (by decide) (by decide) (by decide) (by decide) a.code_lt (by decide))
theorem setmodeDegencount (a : USrc) : Statement (.setmodeDegencount a) := .inr (encR_class _ _ _ _ _ _ (by decide) (by decide) (by decide) (by decide) a.code_lt (by decide))
theorem add (n : Bool) (d : VDst) (a : VSrc) (b : VSrc) : Statement (.add n d a b) := .inr (encR_class _ _ _ _ _ _ (by decide) (by decide) (Nat.lt_of_lt_of_le (Bool.toNat_lt n) (by decide)) d.code_lt a.code_lt b.code_lt)
theorem sub (n : Bool) (d : VDst) (a : VSrc) (b : VSrc) : Statement (.sub n d a b) := .inr (encR_class _ _ _ _ _ _ (by decide) (by decide) (Nat.lt_of_lt_of_le (Bool.toNat_lt n) (by decide)) d.code_lt a.code_lt b.code_lt)
theorem mul (n : Bool) (d : VDst) (a : VSrc) (b : VSrc) : Statement (.mul n d a b) := .inr (encR_class _ _ _ _ _ _ (by decide) (by decide) (Nat.lt_of_lt_of_le (Bool.toNat_lt n) (by decide)) d.code_lt a.code_lt b.code_lt)
theorem mulhi (n : Bool) (d : VDst) (a : VSrc) (b : VSrc) : Statement (.mulhi n d a b) := .inr (encR_class _ _ _ _ _ _ (by decide) (by decide) (Nat.lt_of_lt_of_le (Bool.toNat_lt n) (by decide)) d.code_lt a.code_lt b.code_lt)
theorem mulhiu (n : Bool) (d : VDst) (a : VSrc) (b : VSrc) : Statement (.mulhiu n d a b) := .inr (encR_class _ _ _ _ _ _ (by decide) (by decide) (Nat.lt_of_lt_of_le (Bool.toNat_lt n) (by decide)) d.code_lt a.code_lt b.code_lt)
theorem mad (n : Bool) (d : VDst) (a : VSrc) (b : VSrc) : Statement (.mad n d a b) := .inr (encR_class _ _ _ _ _ _ (by decide) (by decide) (Nat.lt_of_lt_of_le (Bool.toNat_lt n) (by decide)) d.code_lt a.code_lt b.code_lt)
theorem madw (n : Bool) (d : VDst) (a : VSrc) (b : VSrc) : Statement (.madw n d a b) := .inr (encR_class _ _ _ _ _ _ (by decide) (by decide) (Nat.lt_of_lt_of_le (Bool.toNat_lt n) (by decide)) d.code_lt a.code_lt b.code_lt)
theorem add64 (n : Bool) (d : VDst) (a : VSrc) (b : VSrc) : Statement (.add64 n d a b) := .inr (encR_class _ _ _ _ _ _ (by decide) (by decide) (Nat.lt_of_lt_of_le (Bool.toNat_lt n) (by decide)) d.code_lt a.code_lt b.code_lt)
theorem sub64 (n : Bool) (d : VDst) (a : VSrc) (b : VSrc) : Statement (.sub64 n d a b) := .inr (encR_class _ _ _ _ _ _ (by decide) (by decide) (Nat.lt_of_lt_of_le (Bool.toNat_lt n) (by decide)) d.code_lt a.code_lt b.code_lt)
theorem mul64 (n : Bool) (d : VDst) (a : VSrc) (b : VSrc) : Statement (.mul64 n d a b) := .inr (encR_class _ _ _ _ _ _ (by decide) (by decide) (Nat.lt_of_lt_of_le (Bool.toNat_lt n) (by decide)) d.code_lt a.code_lt b.code_lt)
theorem min (n : Bool) (d : VDst) (a : VSrc) (b : VSrc) : Statement (.min n d a b) := .inr (encR_class _ _ _ _ _ _ (by decide) (by decide) (Nat.lt_of_lt_of_le (Bool.toNat_lt n) (by decide)) d.code_lt a.code_lt b.code_lt)
theorem max (n : Bool) (d : VDst) (a : VSrc) (b : VSrc) : Statement (.max n d a b) := .inr (encR_class _ _ _ _ _ _ (by decide) (by decide) (Nat.lt_of_lt_of_le (Bool.toNat_lt n) (by decide)) d.code_lt a.code_lt b.code_lt)
theorem minu (n : Bool) (d : VDst) (a : VSrc) (b : VSrc) : Statement (.minu n d a b) := .inr (encR_class _ _ _ _ _ _ (by decide) (by decide) (Nat.lt_of_lt_of_le (Bool.toNat_lt n) (by decide)) d.code_lt a.code_lt b.code_lt)
theorem maxu (n : Bool) (d : VDst) (a : VSrc) (b : VSrc) : Statement (.maxu n d a b) := .inr (encR_class _ _ _ _ _ _ (by decide) (by decide) (Nat.lt_of_lt_of_le (Bool.toNat_lt n) (by decide)) d.code_lt a.code_lt b.code_lt)
theorem absd (n : Bool) (d : VDst) (a : VSrc) (b : VSrc) : Statement (.absd n d a b) := .inr (encR_class _ _ _ _ _ _ (by decide) (by decide) (Nat.lt_of_lt_of_le (Bool.toNat_lt n) (by decide)) d.code_lt a.code_lt b.code_lt)
theorem csel (n : Bool) (d : VDst) (a : VSrc) (b : VSrc) : Statement (.csel n d a b) := .inr (encR_class _ _ _ _ _ _ (by decide) (by decide) (Nat.lt_of_lt_of_le (Bool.toNat_lt n) (by decide)) d.code_lt a.code_lt b.code_lt)
theorem and (n : Bool) (d : VDst) (a : VSrc) (b : VSrc) : Statement (.and n d a b) := .inr (encR_class _ _ _ _ _ _ (by decide) (by decide) (Nat.lt_of_lt_of_le (Bool.toNat_lt n) (by decide)) d.code_lt a.code_lt b.code_lt)
theorem or (n : Bool) (d : VDst) (a : VSrc) (b : VSrc) : Statement (.or n d a b) := .inr (encR_class _ _ _ _ _ _ (by decide) (by decide) (Nat.lt_of_lt_of_le (Bool.toNat_lt n) (by decide)) d.code_lt a.code_lt b.code_lt)
theorem xor (n : Bool) (d : VDst) (a : VSrc) (b : VSrc) : Statement (.xor n d a b) := .inr (encR_class _ _ _ _ _ _ (by decide) (by decide) (Nat.lt_of_lt_of_le (Bool.toNat_lt n) (by decide)) d.code_lt a.code_lt b.code_lt)
theorem andn (n : Bool) (d : VDst) (a : VSrc) (b : VSrc) : Statement (.andn n d a b) := .inr (encR_class _ _ _ _ _ _ (by decide) (by decide) (Nat.lt_of_lt_of_le (Bool.toNat_lt n) (by decide)) d.code_lt a.code_lt b.code_lt)
theorem shl (n : Bool) (d : VDst) (a : VSrc) (b : VSrc) : Statement (.shl n d a b) := .inr (encR_class _ _ _ _ _ _ (by decide) (by decide) (Nat.lt_of_lt_of_le (Bool.toNat_lt n) (by decide)) d.code_lt a.code_lt b.code_lt)
theorem srl (n : Bool) (d : VDst) (a : VSrc) (b : VSrc) : Statement (.srl n d a b) := .inr (encR_class _ _ _ _ _ _ (by decide) (by decide) (Nat.lt_of_lt_of_le (Bool.toNat_lt n) (by decide)) d.code_lt a.code_lt b.code_lt)
theorem sra (n : Bool) (d : VDst) (a : VSrc) (b : VSrc) : Statement (.sra n d a b) := .inr (encR_class _ _ _ _ _ _ (by decide) (by decide) (Nat.lt_of_lt_of_le (Bool.toNat_lt n) (by decide)) d.code_lt a.code_lt b.code_lt)
theorem rot (n : Bool) (d : VDst) (a : VSrc) (b : VSrc) : Statement (.rot n d a b) := .inr (encR_class _ _ _ _ _ _ (by decide) (by decide) (Nat.lt_of_lt_of_le (Bool.toNat_lt n) (by decide)) d.code_lt a.code_lt b.code_lt)
theorem shl64 (n : Bool) (d : VDst) (a : VSrc) (b : VSrc) : Statement (.shl64 n d a b) := .inr (encR_class _ _ _ _ _ _ (by decide) (by decide) (Nat.lt_of_lt_of_le (Bool.toNat_lt n) (by decide)) d.code_lt a.code_lt b.code_lt)
theorem srl64 (n : Bool) (d : VDst) (a : VSrc) (b : VSrc) : Statement (.srl64 n d a b) := .inr (encR_class _ _ _ _ _ _ (by decide) (by decide) (Nat.lt_of_lt_of_le (Bool.toNat_lt n) (by decide)) d.code_lt a.code_lt b.code_lt)
theorem sra64 (n : Bool) (d : VDst) (a : VSrc) (b : VSrc) : Statement (.sra64 n d a b) := .inr (encR_class _ _ _ _ _ _ (by decide) (by decide) (Nat.lt_of_lt_of_le (Bool.toNat_lt n) (by decide)) d.code_lt a.code_lt b.code_lt)
theorem bfe (n : Bool) (d : VDst) (a : VSrc) (b : VSrc) : Statement (.bfe n d a b) := .inr (encR_class _ _ _ _ _ _ (by decide) (by decide) (Nat.lt_of_lt_of_le (Bool.toNat_lt n) (by decide)) d.code_lt a.code_lt b.code_lt)
theorem bfeu (n : Bool) (d : VDst) (a : VSrc) (b : VSrc) : Statement (.bfeu n d a b) := .inr (encR_class _ _ _ _ _ _ (by decide) (by decide) (Nat.lt_of_lt_of_le (Bool.toNat_lt n) (by decide)) d.code_lt a.code_lt b.code_lt)
theorem bfi (n : Bool) (d : VDst) (a : VSrc) (b : VSrc) : Statement (.bfi n d a b) := .inr (encR_class _ _ _ _ _ _ (by decide) (by decide) (Nat.lt_of_lt_of_le (Bool.toNat_lt n) (by decide)) d.code_lt a.code_lt b.code_lt)
theorem popc (n : Bool) (d : VDst) (a : VSrc) : Statement (.popc n d a) := .inr (encR_class _ _ _ _ _ _ (by decide) (by decide) (Nat.lt_of_lt_of_le (Bool.toNat_lt n) (by decide)) d.code_lt a.code_lt (by decide))
theorem clz (n : Bool) (d : VDst) (a : VSrc) : Statement (.clz n d a) := .inr (encR_class _ _ _ _ _ _ (by decide) (by decide) (Nat.lt_of_lt_of_le (Bool.toNat_lt n) (by decide)) d.code_lt a.code_lt (by decide))
theorem brev (n : Bool) (d : VDst) (a : VSrc) : Statement (.brev n d a) := .inr (encR_class _ _ _ _ _ _ (by decide) (by decide) (Nat.lt_of_lt_of_le (Bool.toNat_lt n) (by decide)) d.code_lt a.code_lt (by decide))
theorem divs (d : VDst) (a : VSrc) (b : VSrc) : Statement (.divs d a b) := .inr (encR_class _ _ _ _ _ _ (by decide) (by decide) (by decide) d.code_lt a.code_lt b.code_lt)
theorem divu (d : VDst) (a : VSrc) (b : VSrc) : Statement (.divu d a b) := .inr (encR_class _ _ _ _ _ _ (by decide) (by decide) (by decide) d.code_lt a.code_lt b.code_lt)
theorem rems (d : VDst) (a : VSrc) (b : VSrc) : Statement (.rems d a b) := .inr (encR_class _ _ _ _ _ _ (by decide) (by decide) (by decide) d.code_lt a.code_lt b.code_lt)
theorem remu (d : VDst) (a : VSrc) (b : VSrc) : Statement (.remu d a b) := .inr (encR_class _ _ _ _ _ _ (by decide) (by decide) (by decide) d.code_lt a.code_lt b.code_lt)
theorem addsat (n : Bool) (d : VDst) (a : VSrc) (b : VSrc) : Statement (.addsat n d a b) := .inr (encR_class _ _ _ _ _ _ (by decide) (by decide) (Nat.lt_of_lt_of_le (Bool.toNat_lt n) (by decide)) d.code_lt a.code_lt b.code_lt)
theorem subsat (n : Bool) (d : VDst) (a : VSrc) (b : VSrc) : Statement (.subsat n d a b) := .inr (encR_class _ _ _ _ _ _ (by decide) (by decide) (Nat.lt_of_lt_of_le (Bool.toNat_lt n) (by decide)) d.code_lt a.code_lt b.code_lt)
theorem bmix (n : Bool) (d : VDst) (a : VSrc) (b : VSrc) : Statement (.bmix n d a b) := .inr (encR_class _ _ _ _ _ _ (by decide) (by decide) (Nat.lt_of_lt_of_le (Bool.toNat_lt n) (by decide)) d.code_lt a.code_lt b.code_lt)
theorem icmpEq (n : Bool) (d : VDst) (a : VSrc) (b : VSrc) : Statement (.icmpEq n d a b) := .inr (encR_class _ _ _ _ _ _ (by decide) (by decide) (Nat.lt_of_lt_of_le (Bool.toNat_lt n) (by decide)) d.code_lt a.code_lt b.code_lt)
theorem icmpNe (n : Bool) (d : VDst) (a : VSrc) (b : VSrc) : Statement (.icmpNe n d a b) := .inr (encR_class _ _ _ _ _ _ (by decide) (by decide) (Nat.lt_of_lt_of_le (Bool.toNat_lt n) (by decide)) d.code_lt a.code_lt b.code_lt)
theorem icmpLt (n : Bool) (d : VDst) (a : VSrc) (b : VSrc) : Statement (.icmpLt n d a b) := .inr (encR_class _ _ _ _ _ _ (by decide) (by decide) (Nat.lt_of_lt_of_le (Bool.toNat_lt n) (by decide)) d.code_lt a.code_lt b.code_lt)
theorem icmpLe (n : Bool) (d : VDst) (a : VSrc) (b : VSrc) : Statement (.icmpLe n d a b) := .inr (encR_class _ _ _ _ _ _ (by decide) (by decide) (Nat.lt_of_lt_of_le (Bool.toNat_lt n) (by decide)) d.code_lt a.code_lt b.code_lt)
theorem icmpLtu (n : Bool) (d : VDst) (a : VSrc) (b : VSrc) : Statement (.icmpLtu n d a b) := .inr (encR_class _ _ _ _ _ _ (by decide) (by decide) (Nat.lt_of_lt_of_le (Bool.toNat_lt n) (by decide)) d.code_lt a.code_lt b.code_lt)
theorem icmpLeu (n : Bool) (d : VDst) (a : VSrc) (b : VSrc) : Statement (.icmpLeu n d a b) := .inr (encR_class _ _ _ _ _ _ (by decide) (by decide) (Nat.lt_of_lt_of_le (Bool.toNat_lt n) (by decide)) d.code_lt a.code_lt b.code_lt)
theorem icmpmEq (d : MReg) (a : VSrc) (b : VSrc) : Statement (.icmpmEq d a b) := .inr (encR_class _ _ _ _ _ _ (by decide) (by decide) (by decide) (by omega) a.code_lt b.code_lt)
theorem icmpmNe (d : MReg) (a : VSrc) (b : VSrc) : Statement (.icmpmNe d a b) := .inr (encR_class _ _ _ _ _ _ (by decide) (by decide) (by decide) (by omega) a.code_lt b.code_lt)
theorem icmpmLt (d : MReg) (a : VSrc) (b : VSrc) : Statement (.icmpmLt d a b) := .inr (encR_class _ _ _ _ _ _ (by decide) (by decide) (by decide) (by omega) a.code_lt b.code_lt)
theorem icmpmLe (d : MReg) (a : VSrc) (b : VSrc) : Statement (.icmpmLe d a b) := .inr (encR_class _ _ _ _ _ _ (by decide) (by decide) (by decide) (by omega) a.code_lt b.code_lt)
theorem icmpmLtu (d : MReg) (a : VSrc) (b : VSrc) : Statement (.icmpmLtu d a b) := .inr (encR_class _ _ _ _ _ _ (by decide) (by decide) (by decide) (by omega) a.code_lt b.code_lt)
theorem icmpmLeu (d : MReg) (a : VSrc) (b : VSrc) : Statement (.icmpmLeu d a b) := .inr (encR_class _ _ _ _ _ _ (by decide) (by decide) (by decide) (by omega) a.code_lt b.code_lt)
theorem min64 (n : Bool) (d : VDst) (a : VSrc) (b : VSrc) : Statement (.min64 n d a b) := .inr (encR_class _ _ _ _ _ _ (by decide) (by decide) (Nat.lt_of_lt_of_le (Bool.toNat_lt n) (by decide)) d.code_lt a.code_lt b.code_lt)
theorem max64 (n : Bool) (d : VDst) (a : VSrc) (b : VSrc) : Statement (.max64 n d a b) := .inr (encR_class _ _ _ _ _ _ (by decide) (by decide) (Nat.lt_of_lt_of_le (Bool.toNat_lt n) (by decide)) d.code_lt a.code_lt b.code_lt)
theorem minu64 (n : Bool) (d : VDst) (a : VSrc) (b : VSrc) : Statement (.minu64 n d a b) := .inr (encR_class _ _ _ _ _ _ (by decide) (by decide) (Nat.lt_of_lt_of_le (Bool.toNat_lt n) (by decide)) d.code_lt a.code_lt b.code_lt)
theorem maxu64 (n : Bool) (d : VDst) (a : VSrc) (b : VSrc) : Statement (.maxu64 n d a b) := .inr (encR_class _ _ _ _ _ _ (by decide) (by decide) (Nat.lt_of_lt_of_le (Bool.toNat_lt n) (by decide)) d.code_lt a.code_lt b.code_lt)
theorem addi (d : VDst) (a : VSrc) (k : BitVec 11) : Statement (.addi d a k) := .inr (encI_class _ _ _ _ (by decide) d.code_lt a.code_lt (by omega))
theorem andi (d : VDst) (a : VSrc) (k : BitVec 11) : Statement (.andi d a k) := .inr (encI_class _ _ _ _ (by decide) d.code_lt a.code_lt (by omega))
theorem ori (d : VDst) (a : VSrc) (k : BitVec 11) : Statement (.ori d a k) := .inr (encI_class _ _ _ _ (by decide) d.code_lt a.code_lt (by omega))
theorem xori (d : VDst) (a : VSrc) (k : BitVec 11) : Statement (.xori d a k) := .inr (encI_class _ _ _ _ (by decide) d.code_lt a.code_lt (by omega))
theorem shli (d : VDst) (a : VSrc) (k : BitVec 5) : Statement (.shli d a k) := .inr (encI_class _ _ _ _ (by decide) d.code_lt a.code_lt (by omega))
theorem srli (d : VDst) (a : VSrc) (k : BitVec 5) : Statement (.srli d a k) := .inr (encI_class _ _ _ _ (by decide) d.code_lt a.code_lt (by omega))
theorem srai (d : VDst) (a : VSrc) (k : BitVec 5) : Statement (.srai d a k) := .inr (encI_class _ _ _ _ (by decide) d.code_lt a.code_lt (by omega))
theorem muli (d : VDst) (a : VSrc) (k : BitVec 11) : Statement (.muli d a k) := .inr (encI_class _ _ _ _ (by decide) d.code_lt a.code_lt (by omega))
theorem fadd (n : Bool) (d : VDst) (a : VSrc) (b : VSrc) : Statement (.fadd n d a b) := .inr (encR_class _ _ _ _ _ _ (by decide) (by decide) (Nat.lt_of_lt_of_le (Bool.toNat_lt n) (by decide)) d.code_lt a.code_lt b.code_lt)
theorem fsub (n : Bool) (d : VDst) (a : VSrc) (b : VSrc) : Statement (.fsub n d a b) := .inr (encR_class _ _ _ _ _ _ (by decide) (by decide) (Nat.lt_of_lt_of_le (Bool.toNat_lt n) (by decide)) d.code_lt a.code_lt b.code_lt)
theorem fmul (n : Bool) (d : VDst) (a : VSrc) (b : VSrc) : Statement (.fmul n d a b) := .inr (encR_class _ _ _ _ _ _ (by decide) (by decide) (Nat.lt_of_lt_of_le (Bool.toNat_lt n) (by decide)) d.code_lt a.code_lt b.code_lt)
theorem ffma (n : Bool) (d : VDst) (a : VSrc) (b : VSrc) : Statement (.ffma n d a b) := .inr (encR_class _ _ _ _ _ _ (by decide) (by decide) (Nat.lt_of_lt_of_le (Bool.toNat_lt n) (by decide)) d.code_lt a.code_lt b.code_lt)
theorem ffms (n : Bool) (d : VDst) (a : VSrc) (b : VSrc) : Statement (.ffms n d a b) := .inr (encR_class _ _ _ _ _ _ (by decide) (by decide) (Nat.lt_of_lt_of_le (Bool.toNat_lt n) (by decide)) d.code_lt a.code_lt b.code_lt)
theorem fnma (n : Bool) (d : VDst) (a : VSrc) (b : VSrc) : Statement (.fnma n d a b) := .inr (encR_class _ _ _ _ _ _ (by decide) (by decide) (Nat.lt_of_lt_of_le (Bool.toNat_lt n) (by decide)) d.code_lt a.code_lt b.code_lt)
theorem fmin (n : Bool) (d : VDst) (a : VSrc) (b : VSrc) : Statement (.fmin n d a b) := .inr (encR_class _ _ _ _ _ _ (by decide) (by decide) (Nat.lt_of_lt_of_le (Bool.toNat_lt n) (by decide)) d.code_lt a.code_lt b.code_lt)
theorem fmax (n : Bool) (d : VDst) (a : VSrc) (b : VSrc) : Statement (.fmax n d a b) := .inr (encR_class _ _ _ _ _ _ (by decide) (by decide) (Nat.lt_of_lt_of_le (Bool.toNat_lt n) (by decide)) d.code_lt a.code_lt b.code_lt)
theorem fcmpEq (n : Bool) (d : VDst) (a : VSrc) (b : VSrc) : Statement (.fcmpEq n d a b) := .inr (encR_class _ _ _ _ _ _ (by decide) (by decide) (Nat.lt_of_lt_of_le (Bool.toNat_lt n) (by decide)) d.code_lt a.code_lt b.code_lt)
theorem fcmpNe (n : Bool) (d : VDst) (a : VSrc) (b : VSrc) : Statement (.fcmpNe n d a b) := .inr (encR_class _ _ _ _ _ _ (by decide) (by decide) (Nat.lt_of_lt_of_le (Bool.toNat_lt n) (by decide)) d.code_lt a.code_lt b.code_lt)
theorem fcmpLt (n : Bool) (d : VDst) (a : VSrc) (b : VSrc) : Statement (.fcmpLt n d a b) := .inr (encR_class _ _ _ _ _ _ (by decide) (by decide) (Nat.lt_of_lt_of_le (Bool.toNat_lt n) (by decide)) d.code_lt a.code_lt b.code_lt)
theorem fcmpLe (n : Bool) (d : VDst) (a : VSrc) (b : VSrc) : Statement (.fcmpLe n d a b) := .inr (encR_class _ _ _ _ _ _ (by decide) (by decide) (Nat.lt_of_lt_of_le (Bool.toNat_lt n) (by decide)) d.code_lt a.code_lt b.code_lt)
theorem fcmpUn (n : Bool) (d : VDst) (a : VSrc) (b : VSrc) : Statement (.fcmpUn n d a b) := .inr (encR_class _ _ _ _ _ _ (by decide) (by decide) (Nat.lt_of_lt_of_le (Bool.toNat_lt n) (by decide)) d.code_lt a.code_lt b.code_lt)
theorem fcmpOd (n : Bool) (d : VDst) (a : VSrc) (b : VSrc) : Statement (.fcmpOd n d a b) := .inr (encR_class _ _ _ _ _ _ (by decide) (by decide) (Nat.lt_of_lt_of_le (Bool.toNat_lt n) (by decide)) d.code_lt a.code_lt b.code_lt)
theorem fcmpmEq (d : MReg) (a : VSrc) (b : VSrc) : Statement (.fcmpmEq d a b) := .inr (encR_class _ _ _ _ _ _ (by decide) (by decide) (by decide) (by omega) a.code_lt b.code_lt)
theorem fcmpmNe (d : MReg) (a : VSrc) (b : VSrc) : Statement (.fcmpmNe d a b) := .inr (encR_class _ _ _ _ _ _ (by decide) (by decide) (by decide) (by omega) a.code_lt b.code_lt)
theorem fcmpmLt (d : MReg) (a : VSrc) (b : VSrc) : Statement (.fcmpmLt d a b) := .inr (encR_class _ _ _ _ _ _ (by decide) (by decide) (by decide) (by omega) a.code_lt b.code_lt)
theorem fcmpmLe (d : MReg) (a : VSrc) (b : VSrc) : Statement (.fcmpmLe d a b) := .inr (encR_class _ _ _ _ _ _ (by decide) (by decide) (by decide) (by omega) a.code_lt b.code_lt)
theorem fcmpmUn (d : MReg) (a : VSrc) (b : VSrc) : Statement (.fcmpmUn d a b) := .inr (encR_class _ _ _ _ _ _ (by decide) (by decide) (by decide) (by omega) a.code_lt b.code_lt)
theorem fcmpmOd (d : MReg) (a : VSrc) (b : VSrc) : Statement (.fcmpmOd d a b) := .inr (encR_class _ _ _ _ _ _ (by decide) (by decide) (by decide) (by omega) a.code_lt b.code_lt)
theorem hadd2 (n : Bool) (d : VDst) (a : VSrc) (b : VSrc) : Statement (.hadd2 n d a b) := .inr (encR_class _ _ _ _ _ _ (by decide) (by decide) (Nat.lt_of_lt_of_le (Bool.toNat_lt n) (by decide)) d.code_lt a.code_lt b.code_lt)
theorem hmul2 (n : Bool) (d : VDst) (a : VSrc) (b : VSrc) : Statement (.hmul2 n d a b) := .inr (encR_class _ _ _ _ _ _ (by decide) (by decide) (Nat.lt_of_lt_of_le (Bool.toNat_lt n) (by decide)) d.code_lt a.code_lt b.code_lt)
theorem hfma2 (n : Bool) (d : VDst) (a : VSrc) (b : VSrc) : Statement (.hfma2 n d a b) := .inr (encR_class _ _ _ _ _ _ (by decide) (by decide) (Nat.lt_of_lt_of_le (Bool.toNat_lt n) (by decide)) d.code_lt a.code_lt b.code_lt)
theorem hmin2 (n : Bool) (d : VDst) (a : VSrc) (b : VSrc) : Statement (.hmin2 n d a b) := .inr (encR_class _ _ _ _ _ _ (by decide) (by decide) (Nat.lt_of_lt_of_le (Bool.toNat_lt n) (by decide)) d.code_lt a.code_lt b.code_lt)
theorem hmax2 (n : Bool) (d : VDst) (a : VSrc) (b : VSrc) : Statement (.hmax2 n d a b) := .inr (encR_class _ _ _ _ _ _ (by decide) (by decide) (Nat.lt_of_lt_of_le (Bool.toNat_lt n) (by decide)) d.code_lt a.code_lt b.code_lt)
theorem badd2 (n : Bool) (d : VDst) (a : VSrc) (b : VSrc) : Statement (.badd2 n d a b) := .inr (encR_class _ _ _ _ _ _ (by decide) (by decide) (Nat.lt_of_lt_of_le (Bool.toNat_lt n) (by decide)) d.code_lt a.code_lt b.code_lt)
theorem bmul2 (n : Bool) (d : VDst) (a : VSrc) (b : VSrc) : Statement (.bmul2 n d a b) := .inr (encR_class _ _ _ _ _ _ (by decide) (by decide) (Nat.lt_of_lt_of_le (Bool.toNat_lt n) (by decide)) d.code_lt a.code_lt b.code_lt)
theorem bfma2 (n : Bool) (d : VDst) (a : VSrc) (b : VSrc) : Statement (.bfma2 n d a b) := .inr (encR_class _ _ _ _ _ _ (by decide) (by decide) (Nat.lt_of_lt_of_le (Bool.toNat_lt n) (by decide)) d.code_lt a.code_lt b.code_lt)
theorem fdot2h (n : Bool) (d : VDst) (a : VSrc) (b : VSrc) : Statement (.fdot2h n d a b) := .inr (encR_class _ _ _ _ _ _ (by decide) (by decide) (Nat.lt_of_lt_of_le (Bool.toNat_lt n) (by decide)) d.code_lt a.code_lt b.code_lt)
theorem fdot4q8 (n : Bool) (d : VDst) (a : VSrc) (b : VSrc) : Statement (.fdot4q8 n d a b) := .inr (encR_class _ _ _ _ _ _ (by decide) (by decide) (Nat.lt_of_lt_of_le (Bool.toNat_lt n) (by decide)) d.code_lt a.code_lt b.code_lt)
theorem fcopysign (n : Bool) (d : VDst) (a : VSrc) (b : VSrc) : Statement (.fcopysign n d a b) := .inr (encR_class _ _ _ _ _ _ (by decide) (by decide) (Nat.lt_of_lt_of_le (Bool.toNat_lt n) (by decide)) d.code_lt a.code_lt b.code_lt)
theorem fldexp (n : Bool) (d : VDst) (a : VSrc) (b : VSrc) : Statement (.fldexp n d a b) := .inr (encR_class _ _ _ _ _ _ (by decide) (by decide) (Nat.lt_of_lt_of_le (Bool.toNat_lt n) (by decide)) d.code_lt a.code_lt b.code_lt)
theorem fdiv (d : VDst) (a : VSrc) (b : VSrc) : Statement (.fdiv d a b) := .inr (encR_class _ _ _ _ _ _ (by decide) (by decide) (by decide) d.code_lt a.code_lt b.code_lt)
theorem frcp (n : Bool) (d : VDst) (a : VSrc) : Statement (.frcp n d a) := .inr (encR_class _ _ _ _ _ _ (by decide) (by decide) (Nat.lt_of_lt_of_le (Bool.toNat_lt n) (by decide)) d.code_lt a.code_lt (by decide))
theorem frsq (n : Bool) (d : VDst) (a : VSrc) : Statement (.frsq n d a) := .inr (encR_class _ _ _ _ _ _ (by decide) (by decide) (Nat.lt_of_lt_of_le (Bool.toNat_lt n) (by decide)) d.code_lt a.code_lt (by decide))
theorem fsqrt (n : Bool) (d : VDst) (a : VSrc) : Statement (.fsqrt n d a) := .inr (encR_class _ _ _ _ _ _ (by decide) (by decide) (Nat.lt_of_lt_of_le (Bool.toNat_lt n) (by decide)) d.code_lt a.code_lt (by decide))
theorem fexp2 (n : Bool) (d : VDst) (a : VSrc) : Statement (.fexp2 n d a) := .inr (encR_class _ _ _ _ _ _ (by decide) (by decide) (Nat.lt_of_lt_of_le (Bool.toNat_lt n) (by decide)) d.code_lt a.code_lt (by decide))
theorem flog2 (n : Bool) (d : VDst) (a : VSrc) : Statement (.flog2 n d a) := .inr (encR_class _ _ _ _ _ _ (by decide) (by decide) (Nat.lt_of_lt_of_le (Bool.toNat_lt n) (by decide)) d.code_lt a.code_lt (by decide))
theorem fsinp (n : Bool) (d : VDst) (a : VSrc) : Statement (.fsinp n d a) := .inr (encR_class _ _ _ _ _ _ (by decide) (by decide) (Nat.lt_of_lt_of_le (Bool.toNat_lt n) (by decide)) d.code_lt a.code_lt (by decide))
theorem fcosp (n : Bool) (d : VDst) (a : VSrc) : Statement (.fcosp n d a) := .inr (encR_class _ _ _ _ _ _ (by decide) (by decide) (Nat.lt_of_lt_of_le (Bool.toNat_lt n) (by decide)) d.code_lt a.code_lt (by decide))
theorem ffloor (n : Bool) (d : VDst) (a : VSrc) : Statement (.ffloor n d a) := .inr (encR_class _ _ _ _ _ _ (by decide) (by decide) (Nat.lt_of_lt_of_le (Bool.toNat_lt n) (by decide)) d.code_lt a.code_lt (by decide))
theorem fceil (n : Bool) (d : VDst) (a : VSrc) : Statement (.fceil n d a) := .inr (encR_class _ _ _ _ _ _ (by decide) (by decide) (Nat.lt_of_lt_of_le (Bool.toNat_lt n) (by decide)) d.code_lt a.code_lt (by decide))
theorem ftrunc (n : Bool) (d : VDst) (a : VSrc) : Statement (.ftrunc n d a) := .inr (encR_class _ _ _ _ _ _ (by decide) (by decide) (Nat.lt_of_lt_of_le (Bool.toNat_lt n) (by decide)) d.code_lt a.code_lt (by decide))
theorem frint (n : Bool) (d : VDst) (a : VSrc) : Statement (.frint n d a) := .inr (encR_class _ _ _ _ _ _ (by decide) (by decide) (Nat.lt_of_lt_of_le (Bool.toNat_lt n) (by decide)) d.code_lt a.code_lt (by decide))
theorem ffract (n : Bool) (d : VDst) (a : VSrc) : Statement (.ffract n d a) := .inr (encR_class _ _ _ _ _ _ (by decide) (by decide) (Nat.lt_of_lt_of_le (Bool.toNat_lt n) (by decide)) d.code_lt a.code_lt (by decide))
theorem fclass (n : Bool) (d : VDst) (a : VSrc) : Statement (.fclass n d a) := .inr (encR_class _ _ _ _ _ _ (by decide) (by decide) (Nat.lt_of_lt_of_le (Bool.toNat_lt n) (by decide)) d.code_lt a.code_lt (by decide))
theorem cvtF32S32 (n : Bool) (d : VDst) (a : VSrc) : Statement (.cvtF32S32 n d a) := .inr (encR_class _ _ _ _ _ _ (by decide) (by decide) (Nat.lt_of_lt_of_le (Bool.toNat_lt n) (by decide)) d.code_lt a.code_lt (by decide))
theorem cvtF32U32 (n : Bool) (d : VDst) (a : VSrc) : Statement (.cvtF32U32 n d a) := .inr (encR_class _ _ _ _ _ _ (by decide) (by decide) (Nat.lt_of_lt_of_le (Bool.toNat_lt n) (by decide)) d.code_lt a.code_lt (by decide))
theorem cvtS32F32 (n : Bool) (d : VDst) (a : VSrc) : Statement (.cvtS32F32 n d a) := .inr (encR_class _ _ _ _ _ _ (by decide) (by decide) (Nat.lt_of_lt_of_le (Bool.toNat_lt n) (by decide)) d.code_lt a.code_lt (by decide))
theorem cvtU32F32 (n : Bool) (d : VDst) (a : VSrc) : Statement (.cvtU32F32 n d a) := .inr (encR_class _ _ _ _ _ _ (by decide) (by decide) (Nat.lt_of_lt_of_le (Bool.toNat_lt n) (by decide)) d.code_lt a.code_lt (by decide))
theorem packh (n : Bool) (d : VDst) (a : VSrc) (b : VSrc) : Statement (.packh n d a b) := .inr (encR_class _ _ _ _ _ _ (by decide) (by decide) (Nat.lt_of_lt_of_le (Bool.toNat_lt n) (by decide)) d.code_lt a.code_lt b.code_lt)
theorem cvtF32HLo (n : Bool) (d : VDst) (a : VSrc) : Statement (.cvtF32HLo n d a) := .inr (encR_class _ _ _ _ _ _ (by decide) (by decide) (Nat.lt_of_lt_of_le (Bool.toNat_lt n) (by decide)) d.code_lt a.code_lt (by decide))
theorem cvtF32HHi (n : Bool) (d : VDst) (a : VSrc) : Statement (.cvtF32HHi n d a) := .inr (encR_class _ _ _ _ _ _ (by decide) (by decide) (Nat.lt_of_lt_of_le (Bool.toNat_lt n) (by decide)) d.code_lt a.code_lt (by decide))
theorem packb (n : Bool) (d : VDst) (a : VSrc) (b : VSrc) : Statement (.packb n d a b) := .inr (encR_class _ _ _ _ _ _ (by decide) (by decide) (Nat.lt_of_lt_of_le (Bool.toNat_lt n) (by decide)) d.code_lt a.code_lt b.code_lt)
theorem cvtF32BLo (n : Bool) (d : VDst) (a : VSrc) : Statement (.cvtF32BLo n d a) := .inr (encR_class _ _ _ _ _ _ (by decide) (by decide) (Nat.lt_of_lt_of_le (Bool.toNat_lt n) (by decide)) d.code_lt a.code_lt (by decide))
theorem cvtF32BHi (n : Bool) (d : VDst) (a : VSrc) : Statement (.cvtF32BHi n d a) := .inr (encR_class _ _ _ _ _ _ (by decide) (by decide) (Nat.lt_of_lt_of_le (Bool.toNat_lt n) (by decide)) d.code_lt a.code_lt (by decide))
theorem pk8E4 (n : Bool) (d : VDst) (a : VSrc) (b : VSrc) : Statement (.pk8E4 n d a b) := .inr (encR_class _ _ _ _ _ _ (by decide) (by decide) (Nat.lt_of_lt_of_le (Bool.toNat_lt n) (by decide)) d.code_lt a.code_lt b.code_lt)
theorem pk8E5 (n : Bool) (d : VDst) (a : VSrc) (b : VSrc) : Statement (.pk8E5 n d a b) := .inr (encR_class _ _ _ _ _ _ (by decide) (by decide) (Nat.lt_of_lt_of_le (Bool.toNat_lt n) (by decide)) d.code_lt a.code_lt b.code_lt)
theorem unpk8E4 (n : Bool) (d : VDst) (a : VSrc) (b : VSrc) : Statement (.unpk8E4 n d a b) := .inr (encR_class _ _ _ _ _ _ (by decide) (by decide) (Nat.lt_of_lt_of_le (Bool.toNat_lt n) (by decide)) d.code_lt a.code_lt b.code_lt)
theorem unpk8E5 (n : Bool) (d : VDst) (a : VSrc) (b : VSrc) : Statement (.unpk8E5 n d a b) := .inr (encR_class _ _ _ _ _ _ (by decide) (by decide) (Nat.lt_of_lt_of_le (Bool.toNat_lt n) (by decide)) d.code_lt a.code_lt b.code_lt)
theorem shfl (n : Bool) (d : VDst) (a : VSrc) (b : VSrc) : Statement (.shfl n d a b) := .inr (encR_class _ _ _ _ _ _ (by decide) (by decide) (Nat.lt_of_lt_of_le (Bool.toNat_lt n) (by decide)) d.code_lt a.code_lt b.code_lt)
theorem shflup (n : Bool) (d : VDst) (a : VSrc) (b : VSrc) : Statement (.shflup n d a b) := .inr (encR_class _ _ _ _ _ _ (by decide) (by decide) (Nat.lt_of_lt_of_le (Bool.toNat_lt n) (by decide)) d.code_lt a.code_lt b.code_lt)
theorem shfldn (n : Bool) (d : VDst) (a : VSrc) (b : VSrc) : Statement (.shfldn n d a b) := .inr (encR_class _ _ _ _ _ _ (by decide) (by decide) (Nat.lt_of_lt_of_le (Bool.toNat_lt n) (by decide)) d.code_lt a.code_lt b.code_lt)
theorem shflx (n : Bool) (d : VDst) (a : VSrc) (b : VSrc) : Statement (.shflx n d a b) := .inr (encR_class _ _ _ _ _ _ (by decide) (by decide) (Nat.lt_of_lt_of_le (Bool.toNat_lt n) (by decide)) d.code_lt a.code_lt b.code_lt)
theorem ballot (d : UDst) (a : VSrc) : Statement (.ballot d a) := .inr (encR_class _ _ _ _ _ _ (by decide) (by decide) (by decide) d.code_lt a.code_lt (by decide))
theorem vany (n : Bool) (d : VDst) (a : VSrc) : Statement (.vany n d a) := .inr (encR_class _ _ _ _ _ _ (by decide) (by decide) (Nat.lt_of_lt_of_le (Bool.toNat_lt n) (by decide)) d.code_lt a.code_lt (by decide))
theorem vall (n : Bool) (d : VDst) (a : VSrc) : Statement (.vall n d a) := .inr (encR_class _ _ _ _ _ _ (by decide) (by decide) (Nat.lt_of_lt_of_le (Bool.toNat_lt n) (by decide)) d.code_lt a.code_lt (by decide))
theorem matchEq (n : Bool) (d : VDst) (a : VSrc) : Statement (.matchEq n d a) := .inr (encR_class _ _ _ _ _ _ (by decide) (by decide) (Nat.lt_of_lt_of_le (Bool.toNat_lt n) (by decide)) d.code_lt a.code_lt (by decide))
theorem elect (n : Bool) (d : VDst) : Statement (.elect n d) := .inr (encR_class _ _ _ _ _ _ (by decide) (by decide) (Nat.lt_of_lt_of_le (Bool.toNat_lt n) (by decide)) d.code_lt (by decide) (by decide))
theorem elects (n : Bool) (d : VDst) : Statement (.elects n d) := .inr (encR_class _ _ _ _ _ _ (by decide) (by decide) (Nat.lt_of_lt_of_le (Bool.toNat_lt n) (by decide)) d.code_lt (by decide) (by decide))
theorem redadd (n : Bool) (d : VDst) (a : VSrc) : Statement (.redadd n d a) := .inr (encR_class _ _ _ _ _ _ (by decide) (by decide) (Nat.lt_of_lt_of_le (Bool.toNat_lt n) (by decide)) d.code_lt a.code_lt (by decide))
theorem redmin (n : Bool) (d : VDst) (a : VSrc) : Statement (.redmin n d a) := .inr (encR_class _ _ _ _ _ _ (by decide) (by decide) (Nat.lt_of_lt_of_le (Bool.toNat_lt n) (by decide)) d.code_lt a.code_lt (by decide))
theorem redmax (n : Bool) (d : VDst) (a : VSrc) : Statement (.redmax n d a) := .inr (encR_class _ _ _ _ _ _ (by decide) (by decide) (Nat.lt_of_lt_of_le (Bool.toNat_lt n) (by decide)) d.code_lt a.code_lt (by decide))
theorem redand (n : Bool) (d : VDst) (a : VSrc) : Statement (.redand n d a) := .inr (encR_class _ _ _ _ _ _ (by decide) (by decide) (Nat.lt_of_lt_of_le (Bool.toNat_lt n) (by decide)) d.code_lt a.code_lt (by decide))
theorem redor (n : Bool) (d : VDst) (a : VSrc) : Statement (.redor n d a) := .inr (encR_class _ _ _ _ _ _ (by decide) (by decide) (Nat.lt_of_lt_of_le (Bool.toNat_lt n) (by decide)) d.code_lt a.code_lt (by decide))
theorem redxor (n : Bool) (d : VDst) (a : VSrc) : Statement (.redxor n d a) := .inr (encR_class _ _ _ _ _ _ (by decide) (by decide) (Nat.lt_of_lt_of_le (Bool.toNat_lt n) (by decide)) d.code_lt a.code_lt (by decide))
theorem mand (d : MReg) (a : MSrc) (b : MSrc) : Statement (.mand d a b) := .inr (encR_class _ _ _ _ _ _ (by decide) (by decide) (by decide) (by omega) (Nat.lt_of_lt_of_le a.code_lt (by decide)) (Nat.lt_of_lt_of_le b.code_lt (by decide)))
theorem mor (d : MReg) (a : MSrc) (b : MSrc) : Statement (.mor d a b) := .inr (encR_class _ _ _ _ _ _ (by decide) (by decide) (by decide) (by omega) (Nat.lt_of_lt_of_le a.code_lt (by decide)) (Nat.lt_of_lt_of_le b.code_lt (by decide)))
theorem mxor (d : MReg) (a : MSrc) (b : MSrc) : Statement (.mxor d a b) := .inr (encR_class _ _ _ _ _ _ (by decide) (by decide) (by decide) (by omega) (Nat.lt_of_lt_of_le a.code_lt (by decide)) (Nat.lt_of_lt_of_le b.code_lt (by decide)))
theorem mandn (d : MReg) (a : MSrc) (b : MSrc) : Statement (.mandn d a b) := .inr (encR_class _ _ _ _ _ _ (by decide) (by decide) (by decide) (by omega) (Nat.lt_of_lt_of_le a.code_lt (by decide)) (Nat.lt_of_lt_of_le b.code_lt (by decide)))
theorem mact (d : MReg) : Statement (.mact d) := .inr (encR_class _ _ _ _ _ _ (by decide) (by decide) (by decide) (by omega) (by decide) (by decide))
theorem mclr (d : MReg) : Statement (.mclr d) := .inr (encR_class _ _ _ _ _ _ (by decide) (by decide) (by decide) (by omega) (by decide) (by decide))
theorem mpop (d : UDst) (a : MSrc) : Statement (.mpop d a) := .inr (encR_class _ _ _ _ _ _ (by decide) (by decide) (by decide) d.code_lt (Nat.lt_of_lt_of_le a.code_lt (by decide)) (by decide))
theorem mfromv (d : MReg) (a : VSrc) : Statement (.mfromv d a) := .inr (encR_class _ _ _ _ _ _ (by decide) (by decide) (by decide) (by omega) a.code_lt (by decide))
theorem mtov (n : Bool) (d : VDst) (a : MSrc) : Statement (.mtov n d a) := .inr (encR_class _ _ _ _ _ _ (by decide) (by decide) (Nat.lt_of_lt_of_le (Bool.toNat_lt n) (by decide)) d.code_lt (Nat.lt_of_lt_of_le a.code_lt (by decide)) (by decide))
theorem mtos (d : UDst) (a : MSrc) : Statement (.mtos d a) := .inr (encR_class _ _ _ _ _ _ (by decide) (by decide) (by decide) d.code_lt (Nat.lt_of_lt_of_le a.code_lt (by decide)) (by decide))
theorem mfroms (d : MReg) (a : USrc) : Statement (.mfroms d a) := .inr (encR_class _ _ _ _ _ _ (by decide) (by decide) (by decide) (by omega) a.code_lt (by decide))
theorem prefixadd (n : Bool) (d : VDst) (a : VSrc) : Statement (.prefixadd n d a) := .inr (encR_class _ _ _ _ _ _ (by decide) (by decide) (Nat.lt_of_lt_of_le (Bool.toNat_lt n) (by decide)) d.code_lt a.code_lt (by decide))
theorem sadd (d : UDst) (a : USrc) (b : USrc) : Statement (.sadd d a b) := .inr (encR_class _ _ _ _ _ _ (by decide) (by decide) (by decide) d.code_lt a.code_lt b.code_lt)
theorem ssub (d : UDst) (a : USrc) (b : USrc) : Statement (.ssub d a b) := .inr (encR_class _ _ _ _ _ _ (by decide) (by decide) (by decide) d.code_lt a.code_lt b.code_lt)
theorem smul (d : UDst) (a : USrc) (b : USrc) : Statement (.smul d a b) := .inr (encR_class _ _ _ _ _ _ (by decide) (by decide) (by decide) d.code_lt a.code_lt b.code_lt)
theorem smad (d : UDst) (a : USrc) (b : USrc) : Statement (.smad d a b) := .inr (encR_class _ _ _ _ _ _ (by decide) (by decide) (by decide) d.code_lt a.code_lt b.code_lt)
theorem sand (d : UDst) (a : USrc) (b : USrc) : Statement (.sand d a b) := .inr (encR_class _ _ _ _ _ _ (by decide) (by decide) (by decide) d.code_lt a.code_lt b.code_lt)
theorem sor (d : UDst) (a : USrc) (b : USrc) : Statement (.sor d a b) := .inr (encR_class _ _ _ _ _ _ (by decide) (by decide) (by decide) d.code_lt a.code_lt b.code_lt)
theorem sxor (d : UDst) (a : USrc) (b : USrc) : Statement (.sxor d a b) := .inr (encR_class _ _ _ _ _ _ (by decide) (by decide) (by decide) d.code_lt a.code_lt b.code_lt)
theorem sshl (d : UDst) (a : USrc) (b : USrc) : Statement (.sshl d a b) := .inr (encR_class _ _ _ _ _ _ (by decide) (by decide) (by decide) d.code_lt a.code_lt b.code_lt)
theorem sshr (d : UDst) (a : USrc) (b : USrc) : Statement (.sshr d a b) := .inr (encR_class _ _ _ _ _ _ (by decide) (by decide) (by decide) d.code_lt a.code_lt b.code_lt)
theorem ssra (d : UDst) (a : USrc) (b : USrc) : Statement (.ssra d a b) := .inr (encR_class _ _ _ _ _ _ (by decide) (by decide) (by decide) d.code_lt a.code_lt b.code_lt)
theorem smin (d : UDst) (a : USrc) (b : USrc) : Statement (.smin d a b) := .inr (encR_class _ _ _ _ _ _ (by decide) (by decide) (by decide) d.code_lt a.code_lt b.code_lt)
theorem smax (d : UDst) (a : USrc) (b : USrc) : Statement (.smax d a b) := .inr (encR_class _ _ _ _ _ _ (by decide) (by decide) (by decide) d.code_lt a.code_lt b.code_lt)
theorem sminu (d : UDst) (a : USrc) (b : USrc) : Statement (.sminu d a b) := .inr (encR_class _ _ _ _ _ _ (by decide) (by decide) (by decide) d.code_lt a.code_lt b.code_lt)
theorem smaxu (d : UDst) (a : USrc) (b : USrc) : Statement (.smaxu d a b) := .inr (encR_class _ _ _ _ _ _ (by decide) (by decide) (by decide) d.code_lt a.code_lt b.code_lt)
theorem sadd64 (d : UDst) (a : USrc) (b : USrc) : Statement (.sadd64 d a b) := .inr (encR_class _ _ _ _ _ _ (by decide) (by decide) (by decide) d.code_lt a.code_lt b.code_lt)
theorem scmpEq (d : UDst) (a : USrc) (b : USrc) : Statement (.scmpEq d a b) := .inr (encR_class _ _ _ _ _ _ (by decide) (by decide) (by decide) d.code_lt a.code_lt b.code_lt)
theorem scmpNe (d : UDst) (a : USrc) (b : USrc) : Statement (.scmpNe d a b) := .inr (encR_class _ _ _ _ _ _ (by decide) (by decide) (by decide) d.code_lt a.code_lt b.code_lt)
theorem scmpLt (d : UDst) (a : USrc) (b : USrc) : Statement (.scmpLt d a b) := .inr (encR_class _ _ _ _ _ _ (by decide) (by decide) (by decide) d.code_lt a.code_lt b.code_lt)
theorem scmpLe (d : UDst) (a : USrc) (b : USrc) : Statement (.scmpLe d a b) := .inr (encR_class _ _ _ _ _ _ (by decide) (by decide) (by decide) d.code_lt a.code_lt b.code_lt)
theorem scmpLtu (d : UDst) (a : USrc) (b : USrc) : Statement (.scmpLtu d a b) := .inr (encR_class _ _ _ _ _ _ (by decide) (by decide) (by decide) d.code_lt a.code_lt b.code_lt)
theorem scmpLeu (d : UDst) (a : USrc) (b : USrc) : Statement (.scmpLeu d a b) := .inr (encR_class _ _ _ _ _ _ (by decide) (by decide) (by decide) d.code_lt a.code_lt b.code_lt)
theorem sbcast (d : VDst) (a : USrc) : Statement (.sbcast d a) := .inr (encR_class _ _ _ _ _ _ (by decide) (by decide) (by decide) d.code_lt a.code_lt (by decide))
theorem srdlane (d : UDst) (a : VReg) (b : USrc) : Statement (.srdlane d a b) := .inr (encR_class _ _ _ _ _ _ (by decide) (by decide) (by decide) d.code_lt (by omega) b.code_lt)
theorem swrlane (d : VDst) (a : USrc) (b : USrc) : Statement (.swrlane d a b) := .inr (encR_class _ _ _ _ _ _ (by decide) (by decide) (by decide) d.code_lt a.code_lt b.code_lt)
theorem sdivu (d : UDst) (a : USrc) (b : USrc) : Statement (.sdivu d a b) := .inr (encR_class _ _ _ _ _ _ (by decide) (by decide) (by decide) d.code_lt a.code_lt b.code_lt)
theorem sremu (d : UDst) (a : USrc) (b : USrc) : Statement (.sremu d a b) := .inr (encR_class _ _ _ _ _ _ (by decide) (by decide) (by decide) d.code_lt a.code_lt b.code_lt)
theorem ssel (d : UDst) (a : USrc) (b : USrc) : Statement (.ssel d a b) := .inr (encR_class _ _ _ _ _ _ (by decide) (by decide) (by decide) d.code_lt a.code_lt b.code_lt)
theorem sfadd (d : UDst) (a : USrc) (b : USrc) : Statement (.sfadd d a b) := .inr (encR_class _ _ _ _ _ _ (by decide) (by decide) (by decide) d.code_lt a.code_lt b.code_lt)
theorem sfmul (d : UDst) (a : USrc) (b : USrc) : Statement (.sfmul d a b) := .inr (encR_class _ _ _ _ _ _ (by decide) (by decide) (by decide) d.code_lt a.code_lt b.code_lt)
theorem sffma (d : UDst) (a : USrc) (b : USrc) : Statement (.sffma d a b) := .inr (encR_class _ _ _ _ _ _ (by decide) (by decide) (by decide) d.code_lt a.code_lt b.code_lt)
theorem scvtf (d : UDst) (a : USrc) : Statement (.scvtf d a) := .inr (encR_class _ _ _ _ _ _ (by decide) (by decide) (by decide) d.code_lt a.code_lt (by decide))
theorem scvti (d : UDst) (a : USrc) : Statement (.scvti d a) := .inr (encR_class _ _ _ _ _ _ (by decide) (by decide) (by decide) d.code_lt a.code_lt (by decide))
theorem ld (q : QReg) (w : Width) (x : MemMod) (d : VDst) (a : VSrc) : Statement (.ld q w x d a) := .inr (encM_class _ _ _ _ _ _ _ (by decide) (by decide) (by omega) w.code_lt x.h_lt d.code_lt a.code_lt)
theorem st (q : QReg) (w : Width) (x : MemMod) (d : VSrc) (a : VSrc) : Statement (.st q w x d a) := .inr (encM_class _ _ _ _ _ _ _ (by decide) (by decide) (by omega) w.code_lt x.h_lt d.code_lt a.code_lt)
theorem ldro (q : QReg) (w : Width) (x : MemMod) (d : VDst) (a : VSrc) : Statement (.ldro q w x d a) := .inr (encM_class _ _ _ _ _ _ _ (by decide) (by decide) (by omega) w.code_lt x.h_lt d.code_lt a.code_lt)
theorem ldf (q : QReg) (x : MemMod) (d : VDst) (a : VSrc) : Statement (.ldf q x d a) := .inr (encM_class _ _ _ _ _ _ _ (by decide) (by decide) (by omega) (by decide) x.h_lt d.code_lt a.code_lt)
theorem pref (q : QReg) (w : Width) (x : MemMod) (a : VSrc) : Statement (.pref q w x a) := .inr (encM_class _ _ _ _ _ _ _ (by decide) (by decide) (by omega) w.code_lt x.h_lt (by decide) a.code_lt)
theorem ldl (w : Width) (x : MemMod) (d : VDst) (a : VSrc) : Statement (.ldl w x d a) := .inr (encM_class _ _ _ _ _ _ _ (by decide) (by decide) (by decide) w.code_lt x.h_lt d.code_lt a.code_lt)
theorem stl (w : Width) (x : MemMod) (d : VSrc) (a : VSrc) : Statement (.stl w x d a) := .inr (encM_class _ _ _ _ _ _ _ (by decide) (by decide) (by decide) w.code_lt x.h_lt d.code_lt a.code_lt)
theorem ldu (q : QReg) (w : Width) (x : MemMod) (d : SReg) (a : USrc) : Statement (.ldu q w x d a) := .inr (encM_class _ _ _ _ _ _ _ (by decide) (by decide) (by omega) w.code_lt x.h_lt (by omega) a.code_lt)
theorem recset (q : QReg) (a : SReg) : Statement (.recset q a) := .inr (encM_class _ _ _ _ _ _ _ (by decide) (by decide) (by omega) (by decide) (by decide) (by decide) (by omega))
theorem recget (q : QReg) (d : SReg) : Statement (.recget q d) := .inr (encM_class _ _ _ _ _ _ _ (by decide) (by decide) (by omega) (by decide) (by decide) (by omega) (by decide))
theorem recld (q : QReg) (a : SReg) : Statement (.recld q a) := .inr (encM_class _ _ _ _ _ _ _ (by decide) (by decide) (by omega) (by decide) (by decide) (by decide) (by omega))
theorem sample (q : QReg) (t : Texel) (x : MemMod) (d : VReg) (a : VReg) : Statement (.sample q t x d a) := .inr (encM_class _ _ _ _ _ _ _ (by decide) (by decide) (by omega) t.code_lt x.h_lt (by omega) (by omega))
theorem cacheWb (q : QReg) (w : Width) (a : VSrc) : Statement (.cacheWb q w a) := .inr (encM_class _ _ _ _ _ _ _ (by decide) (by decide) (by omega) w.code_lt (by decide) (by decide) a.code_lt)
theorem cacheInv (q : QReg) (w : Width) (a : VSrc) : Statement (.cacheInv q w a) := .inr (encM_class _ _ _ _ _ _ _ (by decide) (by decide) (by omega) w.code_lt (by decide) (by decide) a.code_lt)
theorem ldp (w : Width) (d : VDst) (a : VSrc) (off : BitVec 7) : Statement (.ldp w d a off) := .inr (encP_class _ _ _ _ _ (by decide) w.code_lt d.code_lt a.code_lt (by omega))
theorem stp (w : Width) (d : VSrc) (a : VSrc) (off : BitVec 7) : Statement (.stp w d a off) := .inr (encP_class _ _ _ _ _ (by decide) w.code_lt d.code_lt a.code_lt (by omega))
theorem ldpd (w : Width) (d : VDst) (a : VSrc) (off : BitVec 7) : Statement (.ldpd w d a off) := .inr (encP_class _ _ _ _ _ (by decide) w.code_lt d.code_lt a.code_lt (by omega))
theorem stpd (w : Width) (d : VSrc) (a : VSrc) (off : BitVec 7) : Statement (.stpd w d a off) := .inr (encP_class _ _ _ _ _ (by decide) w.code_lt d.code_lt a.code_lt (by omega))
theorem ldc (w : Width) (d : VDst) (a : VSrc) (off : BitVec 7) : Statement (.ldc w d a off) := .inr (encP_class _ _ _ _ _ (by decide) w.code_lt d.code_lt a.code_lt (by omega))
theorem stc (w : Width) (d : VSrc) (a : VSrc) (off : BitVec 7) : Statement (.stc w d a off) := .inr (encP_class _ _ _ _ _ (by decide) w.code_lt d.code_lt a.code_lt (by omega))
theorem atomp (op : Aop) (d : VReg) (a : VSrc) (off : BitVec 7) (spare_ : BitVec 6) : Statement (.atomp op d a off spare_) := .inr (encP_class _ _ _ _ _ (by decide) (by split <;> decide) (by omega) a.code_lt (by omega))
theorem atom (q : QReg) (x : AtomMod) (d : VReg) (a : VSrc) : Statement (.atom q x d a) := .inr (encM_class _ _ _ _ _ _ _ (by decide) (by decide) (by omega) (by split <;> decide) (by decide) (by omega) a.code_lt)
theorem red (q : QReg) (x : AtomMod) (d : VSrc) (a : VSrc) : Statement (.red q x d a) := .inr (encM_class _ _ _ _ _ _ _ (by decide) (by decide) (by omega) (by split <;> decide) (by decide) d.code_lt a.code_lt)
theorem fenceAcq (scope : Scope) : Statement (.fenceAcq scope) := .inr (encM_class _ _ _ _ _ _ _ (by decide) (by decide) (Nat.lt_of_lt_of_le scope.code_lt (by decide)) (by decide) (by decide) (by decide) (by decide))
theorem fenceRel (scope : Scope) : Statement (.fenceRel scope) := .inr (encM_class _ _ _ _ _ _ _ (by decide) (by decide) (Nat.lt_of_lt_of_le scope.code_lt (by decide)) (by decide) (by decide) (by decide) (by decide))
theorem fenceAr (scope : Scope) : Statement (.fenceAr scope) := .inr (encM_class _ _ _ _ _ _ _ (by decide) (by decide) (Nat.lt_of_lt_of_le scope.code_lt (by decide)) (by decide) (by decide) (by decide) (by decide))
theorem fenceSc (scope : Scope) : Statement (.fenceSc scope) := .inr (encM_class _ _ _ _ _ _ _ (by decide) (by decide) (Nat.lt_of_lt_of_le scope.code_lt (by decide)) (by decide) (by decide) (by decide) (by decide))
theorem fencero (scope : Scope) : Statement (.fencero scope) := .inr (encM_class _ _ _ _ _ _ _ (by decide) (by decide) (Nat.lt_of_lt_of_le scope.code_lt (by decide)) (by decide) (by decide) (by decide) (by decide))
theorem waitu (q : QReg) (wide : Bool) (d : SReg) (a : USrc) (x_ : WaitMod) : Statement (.waitu q wide d a x_) := .inr (encM_class _ _ _ _ _ _ _ (by decide) (by decide) (by omega) (by split <;> decide) (by decide) (by omega) a.code_lt)
theorem strel (q : QReg) (w : Width) (x_ : ScopeMod) (d : VSrc) (a : VSrc) : Statement (.strel q w x_ d a) := .inr (encM_class _ _ _ _ _ _ _ (by decide) (by decide) (by omega) w.code_lt (by decide) d.code_lt a.code_lt)
theorem ldacq (q : QReg) (w : Width) (x_ : ScopeMod) (d : VDst) (a : VSrc) : Statement (.ldacq q w x_ d a) := .inr (encM_class _ _ _ _ _ _ _ (by decide) (by decide) (by omega) w.code_lt (by decide) d.code_lt a.code_lt)
theorem kick (d : UDst) (a : USrc) (b : USrc) : Statement (.kick d a b) := .inr (encR_class _ _ _ _ _ _ (by decide) (by decide) (by decide) d.code_lt a.code_lt b.code_lt)
theorem advance (d : UDst) : Statement (.advance d) := .inr (encR_class _ _ _ _ _ _ (by decide) (by decide) (by decide) d.code_lt (by decide) (by decide))
theorem finit (k : Fold) (a : USrc) : Statement (.finit k a) := .inr (encR_class _ _ _ _ _ _ (by decide) (by decide) (by decide) (by omega) a.code_lt (by decide))
theorem farrive (d : UDst) (k : Fold) : Statement (.farrive d k) := .inr (encR_class _ _ _ _ _ _ (by decide) (by decide) (by decide) d.code_lt (by omega) (by decide))
theorem farriveRank (k : Fold) (b : USrc) : Statement (.farriveRank k b) := .inr (encR_class _ _ _ _ _ _ (by decide) (by decide) (by decide) (by decide) (by omega) b.code_lt)
theorem fwait (d : UDst) (k : Fold) (b : USrc) : Statement (.fwait d k b) := .inr (encR_class _ _ _ _ _ _ (by decide) (by decide) (by decide) d.code_lt (by omega) b.code_lt)
theorem ftest (d : UDst) (k : Fold) (b : USrc) : Statement (.ftest d k b) := .inr (encR_class _ _ _ _ _ _ (by decide) (by decide) (by decide) d.code_lt (by omega) b.code_lt)
theorem fexpect (k : Fold) (a : USrc) (b : USrc) : Statement (.fexpect k a b) := .inr (encR_class _ _ _ _ _ _ (by decide) (by decide) (by decide) (by omega) a.code_lt b.code_lt)
theorem waitc (c : Fin 3) (b : USrc) : Statement (.waitc c b) := .inr (encR_class _ _ _ _ _ _ (by decide) (by decide) (by decide) (by decide) (by omega) b.code_lt)
theorem rdcnt (d : UDst) (c : Fin 4) : Statement (.rdcnt d c) := .inr (encR_class _ _ _ _ _ _ (by decide) (by decide) (by decide) d.code_lt (by omega) (by decide))
theorem copy (d : UDst) (a : SReg) : Statement (.copy d a) := .inr (encR_class _ _ _ _ _ _ (by decide) (by decide) (by decide) d.code_lt (by omega) (by decide))
theorem mshape (a : USrc) : Statement (.mshape a) := .inr (encR_class _ _ _ _ _ _ (by decide) (by decide) (by decide) (by decide) a.code_lt (by decide))
theorem mlds (a : USrc) (b : USrc) (f_ : BFmt) : Statement (.mlds a b f_) := .inr (encR_class _ _ _ _ _ _ (by decide) (by decide) (by decide) (by decide) a.code_lt b.code_lt)
theorem mldsg (a : USrc) (b : USrc) (f_ : BFmt) (q_ : QReg) : Statement (.mldsg a b f_ q_) := .inr (encR_class _ _ _ _ _ _ (by decide) (by decide) (by decide) (by decide) a.code_lt b.code_lt)
theorem mscale (a : USrc) (int4 : Bool) (g : GLen) : Statement (.mscale a int4 g) := .inr (encR_class _ _ _ _ _ _ (by decide) (by decide) (by decide) (by decide) a.code_lt (by have := g.code_lt; split <;> omega))
theorem mswap : Statement .mswap := .inr (encR_class _ _ _ _ _ _ (by decide) (by decide) (by decide) (by decide) (by decide) (by decide))
theorem mma (t : Slot) (a : USrc) (b : USrc) (x_ : MmaMod) : Statement (.mma t a b x_) := .inr (encR_class _ _ _ _ _ _ (by decide) (by decide) (by decide) (by omega) a.code_lt b.code_lt)
theorem mmag (t : Slot) (a : USrc) (b : USrc) (x_ : MmaMod) (q_ : QReg) : Statement (.mmag t a b x_ q_) := .inr (encR_class _ _ _ _ _ _ (by decide) (by decide) (by decide) (by omega) a.code_lt b.code_lt)
theorem mzero (t : Slot) (acc : Acc) : Statement (.mzero t acc) := .inr (encR_class _ _ _ _ _ _ (by decide) (by decide) (by decide) (by omega) (Nat.lt_of_lt_of_le acc.code_lt (by decide)) (by decide))
theorem mst (t : Slot) (a : USrc) (b : USrc) (x_ : TileMod) : Statement (.mst t a b x_) := .inr (encR_class _ _ _ _ _ _ (by decide) (by decide) (by decide) (by omega) a.code_lt b.code_lt)
theorem mld (t : Slot) (a : USrc) (b : USrc) (x_ : TileMod) : Statement (.mld t a b x_) := .inr (encR_class _ _ _ _ _ _ (by decide) (by decide) (by decide) (by omega) a.code_lt b.code_lt)
theorem mstPlane (a : USrc) (k_ : PlaneKind) : Statement (.mstPlane a k_) := .inr (encR_class _ _ _ _ _ _ (by decide) (by decide) (by decide) (by decide) a.code_lt (by decide))
theorem mldPlane (a : USrc) (k_ : PlaneKind) : Statement (.mldPlane a k_) := .inr (encR_class _ _ _ _ _ _ (by decide) (by decide) (by decide) (by decide) a.code_lt (by decide))
theorem mstat (d : UDst) (clear : Bool) : Statement (.mstat d clear) := .inr (encR_class _ _ _ _ _ _ (by decide) (by decide) (by decide) d.code_lt (Nat.lt_of_lt_of_le (Bool.toNat_lt clear) (by decide)) (by decide))
theorem mrel : Statement .mrel := .inr (encR_class _ _ _ _ _ _ (by decide) (by decide) (by decide) (by decide) (by decide) (by decide))
theorem nev (d : VReg) (a : VSrc) (b : VSrc) (x_ : NevMod) : Statement (.nev d a b x_) := .inr (encR_class _ _ _ _ _ _ (by decide) (by decide) (by decide) (by omega) a.code_lt b.code_lt)
theorem netldFetch (a : USrc) : Statement (.netldFetch a) := .inr (encR_class _ _ _ _ _ _ (by decide) (by decide) (by decide) (by decide) a.code_lt (by decide))
theorem netldDrop (a : USrc) : Statement (.netldDrop a) := .inr (encR_class _ _ _ _ _ _ (by decide) (by decide) (by decide) (by decide) a.code_lt (by decide))
theorem emitc (d : UDst) (a : USrc) (b : SReg) : Statement (.emitc d a b) := .inr (encR_class _ _ _ _ _ _ (by decide) (by decide) (by decide) d.code_lt a.code_lt (by omega))
theorem raster (d : UDst) (a : SReg) : Statement (.raster d a) := .inr (encR_class _ _ _ _ _ _ (by decide) (by decide) (by decide) d.code_lt (by omega) (by decide))
theorem present (d : UDst) (a : SReg) : Statement (.present d a) := .inr (encR_class _ _ _ _ _ _ (by decide) (by decide) (by decide) d.code_lt (by omega) (by decide))
theorem trace (d : VReg) (a : VReg) (x_ : TraceMod) : Statement (.trace d a x_) := .inr (encR_class _ _ _ _ _ _ (by decide) (by decide) (by decide) (by omega) (by omega) (by decide))
theorem traceocc (d : VReg) (a : VReg) (x_ : TraceMod) : Statement (.traceocc d a x_) := .inr (encR_class _ _ _ _ _ _ (by decide) (by decide) (by decide) (by omega) (by omega) (by decide))
theorem build (d : UDst) (a : SReg) : Statement (.build d a) := .inr (encR_class _ _ _ _ _ _ (by decide) (by decide) (by decide) d.code_lt (by omega) (by decide))
theorem refit (d : UDst) (a : SReg) : Statement (.refit d a) := .inr (encR_class _ _ _ _ _ _ (by decide) (by decide) (by decide) d.code_lt (by omega) (by decide))
theorem cairnw (d : UDst) (a : SReg) (b : USrc) : Statement (.cairnw d a b) := .inr (encR_class _ _ _ _ _ _ (by decide) (by decide) (by decide) d.code_lt (by omega) b.code_lt)
theorem genpin (d : UDst) (a : SReg) (b : USrc) : Statement (.genpin d a b) := .inr (encR_class _ _ _ _ _ _ (by decide) (by decide) (by decide) d.code_lt (by omega) b.code_lt)
theorem gendrop (d : UDst) (a : SReg) (b : USrc) : Statement (.gendrop d a b) := .inr (encR_class _ _ _ _ _ _ (by decide) (by decide) (by decide) d.code_lt (by omega) b.code_lt)
theorem refill (d : VReg) (a : Option MReg) (b : SReg) (outm_ : Option MReg) : Statement (.refill d a b outm_) := .inr (encR_class _ _ _ _ _ _ (by decide) (by decide) (by decide) (by omega) (by split <;> omega) (by omega))
theorem pixpush (d : VDst) (a : VSrc) (b : SReg) : Statement (.pixpush d a b) := .inr (encR_class _ _ _ _ _ _ (by decide) (by decide) (by decide) d.code_lt a.code_lt (by omega))
theorem nodedec (d : VReg) (a : VReg) (b : VReg) : Statement (.nodedec d a b) := .inr (encR_class _ _ _ _ _ _ (by decide) (by decide) (by decide) (by omega) (by omega) (by omega))
theorem morton (d : VReg) (a : VReg) (b : SReg) : Statement (.morton d a b) := .inr (encR_class _ _ _ _ _ _ (by decide) (by decide) (by decide) (by omega) (by omega) (by omega))
theorem pathStarvation (key_ : Nat) : Statement (.pathStarvation key_) := .inl rfl
theorem readyWaveStarvation (key_ : Nat) : Statement (.readyWaveStarvation key_) := .inl rfl
theorem laneBurstCount (key_ : Nat) (lanes_ : Mask) : Statement (.laneBurstCount key_ lanes_) := .inl rfl
theorem loadReturn (key_ : Nat) (id_ : Nat) : Statement (.loadReturn key_ id_) := .inl rfl
theorem divideResult (key_ : Nat) (id_ : Nat) : Statement (.divideResult key_ id_) := .inl rfl
theorem fdivResult (key_ : Nat) (id_ : Nat) : Statement (.fdivResult key_ id_) := .inl rfl
theorem launchStatus (key_ : Nat) (id_ : Nat) : Statement (.launchStatus key_ id_) := .inl rfl
theorem committedStorePerform (core_ : Nat) (line_ : Nat) : Statement (.committedStorePerform core_ line_) := .inl rfl
theorem paddockAccessPerform (core_ : Nat) (id_ : Nat) : Statement (.paddockAccessPerform core_ id_) := .inl rfl
theorem sideLogReplay (core_ : Nat) (index_ : Nat) : Statement (.sideLogReplay core_ index_) := .inl rfl
theorem tetherArm (id_ : Nat) : Statement (.tetherArm id_) := .inl rfl
theorem tetherWake (index_ : Nat) : Statement (.tetherWake index_) := .inl rfl
theorem tetherTimeout (id_ : Nat) : Statement (.tetherTimeout id_) := .inl rfl
theorem tetherArmRetry (id_ : Nat) : Statement (.tetherArmRetry id_) := .inl rfl
theorem sleeptDeadline (key_ : Nat) : Statement (.sleeptDeadline key_) := .inl rfl
theorem copyRowComplete (core_ : Nat) (id_ : Nat) : Statement (.copyRowComplete core_ id_) := .inl rfl
theorem copyRequestFail (core_ : Nat) (id_ : Nat) : Statement (.copyRequestFail core_ id_) := .inl rfl
theorem remoteArrivalApply (index_ : Nat) : Statement (.remoteArrivalApply index_) := .inl rfl
theorem fwaitWake (key_ : Nat) : Statement (.fwaitWake key_) := .inl rfl
theorem arrayFillComplete (core_ : Nat) (id_ : Nat) : Statement (.arrayFillComplete core_ id_) := .inl rfl
theorem mmaRowComplete (core_ : Nat) (id_ : Nat) : Statement (.mmaRowComplete core_ id_) := .inl rfl
theorem arrayOpComplete (core_ : Nat) (id_ : Nat) : Statement (.arrayOpComplete core_ id_) := .inl rfl
theorem arraySerialOpStart (core_ : Nat) (id_ : Nat) : Statement (.arraySerialOpStart core_ id_) := .inl rfl
theorem bandWake (core_ : Nat) (band_ : Nat) : Statement (.bandWake core_ band_) := .inl rfl
theorem bandIdleOff (core_ : Nat) (band_ : Nat) : Statement (.bandIdleOff core_ band_) := .inl rfl
theorem flockTileClose (core_ : Nat) (tile_ : Nat) : Statement (.flockTileClose core_ tile_) := .inl rfl
theorem flockTileComplete (core_ : Nat) (tile_ : Nat) : Statement (.flockTileComplete core_ tile_) := .inl rfl
theorem nevHandleComplete (key_ : Nat) (id_ : Nat) : Statement (.nevHandleComplete key_ id_) := .inl rfl
theorem cairnPark (ray_ : Nat) : Statement (.cairnPark ray_) := .inl rfl
theorem cairnResume (ray_ : Nat) : Statement (.cairnResume ray_) := .inl rfl
theorem cairnTimeout (ray_ : Nat) : Statement (.cairnTimeout ray_) := .inl rfl
theorem rayEnd (ray_ : Nat) : Statement (.rayEnd ray_) := .inl rfl
theorem buildStart (job_ : Nat) : Statement (.buildStart job_) := .inl rfl
theorem buildSlotTake (job_ : Nat) : Statement (.buildSlotTake job_) := .inl rfl
theorem cairnRaise (job_ : Nat) (cell_ : Nat) : Statement (.cairnRaise job_ cell_) := .inl rfl
theorem treeLink (job_ : Nat) : Statement (.treeLink job_) := .inl rfl
theorem buildFail (job_ : Nat) (status_ : Nat) : Statement (.buildFail job_ status_) := .inl rfl
theorem compactorReclaim (ctx_ : Nat) (hdr_ : Nat) (slot_ : Nat) : Statement (.compactorReclaim ctx_ hdr_ slot_) := .inl rfl
theorem compactorFree (ctx_ : Nat) (hdr_ : Nat) (slot_ : Nat) : Statement (.compactorFree ctx_ hdr_ slot_) := .inl rfl
theorem rasterStart (job_ : Nat) : Statement (.rasterStart job_) := .inl rfl
theorem rasterSmallqResume (job_ : Nat) : Statement (.rasterSmallqResume job_) := .inl rfl
theorem rasterTileFlush (job_ : Nat) (tile_ : Nat) : Statement (.rasterTileFlush job_ tile_) := .inl rfl
theorem rasterTileFinish (job_ : Nat) (tile_ : Nat) : Statement (.rasterTileFinish job_ tile_) := .inl rfl
theorem rasterDone (job_ : Nat) : Statement (.rasterDone job_) := .inl rfl
theorem presentImageRead (stream_ : Nat) : Statement (.presentImageRead stream_) := .inl rfl
theorem collieDecision (stream_ : Nat) : Statement (.collieDecision stream_) := .inl rfl
theorem streamSlotSend (stream_ : Nat) : Statement (.streamSlotSend stream_) := .inl rfl
theorem hostQueueTake (queue_ : Nat) : Statement (.hostQueueTake queue_) := .inl rfl
theorem childLaunchTake (ctx_ : Nat) : Statement (.childLaunchTake ctx_) := .inl rfl
theorem waitEventMet (grid_ : Nat) : Statement (.waitEventMet grid_) := .inl rfl
theorem drovePlace (grid_ : Nat) (cores_ : List Nat) : Statement (.drovePlace grid_ cores_) := .inl rfl
theorem penClaimComplete (core_ : Nat) : Statement (.penClaimComplete core_) := .inl rfl
theorem claimTimeout (core_ : Nat) : Statement (.claimTimeout core_) := .inl rfl
theorem backfillStop (grid_ : Nat) (cluster_ : Nat) : Statement (.backfillStop grid_ cluster_) := .inl rfl
theorem timedStart (drove_ : Nat) : Statement (.timedStart drove_) := .inl rfl
theorem timesliceExpire (grid_ : Nat) : Statement (.timesliceExpire grid_) := .inl rfl
theorem debugPreempt (drove_ : Nat) : Statement (.debugPreempt drove_) := .inl rfl
theorem thermalMigrate (drove_ : Nat) (cores_ : List Nat) : Statement (.thermalMigrate drove_ cores_) := .inl rfl
theorem trapEntry (key_ : Nat) : Statement (.trapEntry key_) := .inl rfl
theorem savedTetherWake (index_ : Nat) : Statement (.savedTetherWake index_) := .inl rfl
theorem savedWaveDeadline (wg_ : Nat) (index_ : Nat) : Statement (.savedWaveDeadline wg_ index_) := .inl rfl
theorem droveRestore (drove_ : Nat) (cores_ : List Nat) : Statement (.droveRestore drove_ cores_) := .inl rfl
theorem waveEnd (key_ : Nat) : Statement (.waveEnd key_) := .inl rfl
theorem gridRetire (grid_ : Nat) : Statement (.gridRetire grid_) := .inl rfl
theorem contextEnable (ctx_ : Nat) : Statement (.contextEnable ctx_) := .inl rfl
theorem contextKill (ctx_ : Nat) : Statement (.contextKill ctx_) := .inl rfl
theorem schedulerBlockRead : Statement .schedulerBlockRead := .inl rfl
theorem policyBlockRead : Statement .policyBlockRead := .inl rfl
theorem powerBlockRead : Statement .powerBlockRead := .inl rfl
theorem fabricBlockRead : Statement .fabricBlockRead := .inl rfl
theorem pagerTableRead (ctx_ : Nat) : Statement (.pagerTableRead ctx_) := .inl rfl
theorem inval : Statement .inval := .inl rfl
theorem invalComplete (index_ : Nat) : Statement (.invalComplete index_) := .inl rfl
theorem migrate : Statement .migrate := .inl rfl
theorem dup : Statement .dup := .inl rfl
theorem undup : Statement .undup := .inl rfl
theorem hotcfg : Statement .hotcfg := .inl rfl
theorem frames : Statement .frames := .inl rfl
theorem brand : Statement .brand := .inl rfl
theorem attest : Statement .attest := .inl rfl
theorem upcall (ctx_ : Nat) (va_ : Nat) (kind_ : Nat) : Statement (.upcall ctx_ va_ kind_) := .inl rfl
theorem pagerWaitTimeout (ctx_ : Nat) (index_ : Nat) : Statement (.pagerWaitTimeout ctx_ index_) := .inl rfl
theorem pagerMap (ctx_ : Nat) (index_ : Nat) : Statement (.pagerMap ctx_ index_) := .inl rfl
theorem pagerRefuse (ctx_ : Nat) (index_ : Nat) : Statement (.pagerRefuse ctx_ index_) := .inl rfl
theorem hotIntervalEnd (die_ : Nat) : Statement (.hotIntervalEnd die_) := .inl rfl
theorem dupCollapseAck (entry_ : Nat) (site_ : Nat) : Statement (.dupCollapseAck entry_ site_) := .inl rfl
theorem hostRdmaWrite (pa_ : Nat) (bytes_ : List Byte) : Statement (.hostRdmaWrite pa_ bytes_) := .inl rfl
theorem hostRdmaRead (pa_ : Nat) (n_ : Nat) : Statement (.hostRdmaRead pa_ n_) := .inl rfl
theorem hostRdmaAtomic (pa_ : Nat) (op_ : Aop) (x_ : Dword) (y_ : Dword) : Statement (.hostRdmaAtomic pa_ op_ x_ y_) := .inl rfl
theorem flitReceive (link_ : Nat) (seq_ : Nat) (tag_ : Nat) (crc_ : Bool) (response_ : Nat) : Statement (.flitReceive link_ seq_ tag_ crc_ response_) := .inl rfl
theorem linkRetrainDone (link_ : Nat) (good_ : Bool) : Statement (.linkRetrainDone link_ good_) := .inl rfl
theorem eccCorrected (unit_ : Nat) (loc_ : Nat) (syndrome_ : Nat) : Statement (.eccCorrected unit_ loc_ syndrome_) := .inl rfl
theorem uncorrectableError (unit_ : Nat) (loc_ : Nat) (data_ : LostData) : Statement (.uncorrectableError unit_ loc_ data_) := .inl rfl
theorem selftestStart (unit_ : Nat) (loc_ : Nat) : Statement (.selftestStart unit_ loc_) := .inl rfl
theorem selftestResult (unit_ : Nat) (loc_ : Nat) (pass_ : Bool) : Statement (.selftestResult unit_ loc_ pass_) := .inl rfl
theorem hirselMessageReceive (peer_ : Nat) (seq_ : Nat) (from__ : Nat) (brand_ : Nat) (kind_ : Nat) (va_ : Nat) (bytes_ : List Byte) : Statement (.hirselMessageReceive peer_ seq_ from__ brand_ kind_ va_ bytes_) := .inl rfl
theorem hirselAck (id_ : Nat) (bytes_ : List Byte) : Statement (.hirselAck id_ bytes_) := .inl rfl
theorem hirselRetransmit (id_ : Nat) : Statement (.hirselRetransmit id_) := .inl rfl
theorem fabricTimeout (id_ : Nat) : Statement (.fabricTimeout id_) := .inl rfl
theorem ptpMessage (offset_ : Int) : Statement (.ptpMessage offset_) := .inl rfl
theorem announceTimeout : Statement .announceTimeout := .inl rfl
theorem budgetMessage (member_ : Nat) (demand_ : Nat) (freq_ : Nat) : Statement (.budgetMessage member_ demand_ freq_) := .inl rfl
theorem budgetEpoch : Statement .budgetEpoch := .inl rfl
theorem powerLimitStretch (site_ : Nat) : Statement (.powerLimitStretch site_) := .inl rfl
theorem currentLimitStretch (site_ : Nat) : Statement (.currentLimitStretch site_) := .inl rfl
theorem droopStretch (site_ : Nat) : Statement (.droopStretch site_) := .inl rfl
theorem thermalTrip (site_ : Nat) : Statement (.thermalTrip site_) := .inl rfl
theorem thermalTripEnd (site_ : Nat) : Statement (.thermalTripEnd site_) := .inl rfl
theorem firmwareFreeze : Statement .firmwareFreeze := .inl rfl
theorem watchdogFloor : Statement .watchdogFloor := .inl rfl
theorem firmwareSignal (slot_ : Nat) : Statement (.firmwareSignal slot_) := .inl rfl
theorem firmwareSlotTakeover : Statement .firmwareSlotTakeover := .inl rfl
theorem firmwareVerify (slot_ : Nat) (version_ : Nat) (image_ : List Byte) : Statement (.firmwareVerify slot_ version_ image_) := .inl rfl
theorem functionReady (fn_ : Nat) : Statement (.functionReady fn_) := .inl rfl
theorem hostWriteAck (index_ : Nat) : Statement (.hostWriteAck index_) := .inl rfl
theorem portDown (port_ : Nat) : Statement (.portDown port_) := .inl rfl
theorem portUp (port_ : Nat) : Statement (.portUp port_) := .inl rfl
theorem portmodeDrainDone : Statement .portmodeDrainDone := .inl rfl
theorem clockStretchEnd (site_ : Nat) : Statement (.clockStretchEnd site_) := .inl rfl
theorem bandWakeRateWaitEnd (core_ : Nat) (band_ : Nat) : Statement (.bandWakeRateWaitEnd core_ band_) := .inl rfl

end Sys2Proof.Laws.ClassNibble
end

