-- ==== Sys2Proof/Tests/Slice0.lean ====
section
/-! SUPPORT. Tests/Slice0.lean: the model's own tests. Expected values come from the spec's encoding tables, its printed
words and examples, or by hand from its rules. -/

namespace Sys2Proof.Tests

open Sys2Proof Sys2Proof.Machine Sys2Proof.Claims

-- one theorem after another: each waiting theorem holds a stack of its own, and together they would exceed the memory limit
set_option Elab.async false

/-! ## Decoding -/

/-- Every listed word sequence decodes to the instruction beside it. -/
noncomputable def decodesAll (l : List (List Word × Instr)) : Bool := l.all fun p =>
  match decode p.1 with
  | .ok i => decide (i = p.2)
  | .error _ => false

/-- Class 0: words built from the fields the spec gives each instruction. -/
theorem test_decodes_control : decodesAll [
    ([0x00F80001#32], .bra 0x80001#20),
    ([0x0117FFFE#32], .brin 1 0x7FFFE#20),
    ([0x02B7FFFE#32], .brout 11 0x7FFFE#20),
    ([0x0307FFFE#32], .bany 0 0x7FFFE#20),
    ([0x0467FFFE#32], .ball 6 0x7FFFE#20),
    ([0x05212345#32], .call (some 2) 0x12345#20),
    ([0x06A60001#32], .bsz 41 0x20001#18),
    ([0x07A60001#32], .bsnz 41 0x20001#18),
    ([0x08F03C00#32], .jmpi (.sreg 4)),
    ([0x09F03C00#32], .calli (.sreg 4)),
    ([0x0AF00000#32], .ret),
    ([0x0B100000#32], .join 1),
    ([0x0CB00000#32], .leave 11),
    ([0x0D000000#32], .waitm 0),
    ([0x0EF00000#32], .yield)] = true := by decide

/-- Class 1: words built from the fields the spec gives each instruction. -/
theorem test_decodes_system : decodesAll [
    ([0x10000000#32], .nop),
    ([0x10403F81#32], .trap 0x3F81#14),
    ([0x10800000#32], .brk),
    ([0x10C00000#32], .exit),
    ([0x1100001F#32], .win 31#5),
    ([0x11400040#32], .winadd 0x40#7),
    ([0x1183000B#32], .rdcr 12 11#7),
    ([0x11828082#32], .rdcrD 10 2#7),
    ([0x11C010C6#32], .wrcr (.reg 33) 70#7),
    ([0x12000000#32], .rte),
    ([0x124F1EFF#32], .rdst 60 (.reg 61) 127#7),
    ([0x129FC287#32, 0x0000CAFE#32], .wrst (.lit 0xCAFE#32) (.reg 5) 7#7),
    ([0x12DB8200#32], .launch 110 4),
    ([0x13000000#32], .gbar),
    ([0x13400300#32], .sleept (.reg 6)),
    ([0x13400301#32], .sleeptAbs (.reg 6)),
    ([0x13800000#32], .wake),
    ([0x13C03F80#32, 0x0000001F#32], .setmodeFpmode (.lit 0x1F#32)),
    ([0x13C03F81#32, 0x0000001F#32], .setmodeFpflags (.lit 0x1F#32)),
    ([0x13C03F82#32, 0x0000001F#32], .setmodeOobflags (.lit 0x1F#32)),
    ([0x13C03F83#32, 0x0000001F#32], .setmodeDegencount (.lit 0x1F#32))] = true := by decide

/-- Class 2: words built from the fields the spec gives each instruction. -/
theorem test_decodes_integer : decodesAll [
    ([0x2001016C#32], .add false (.reg 4) (.reg 2) (.reg 108)),
    ([0x207F38F6#32], .sub true .discard (.latch 1) (.sreg 2)),
    ([0x20983E0A#32], .mul false (.reg 96) .zero (.reg 10)),
    ([0x20CA3EEE#32], .mulhi false (.reg 40) .lane (.reg 110)),
    ([0x21213D73#32], .mulhiu true (.reg 4) (.sreg 6) (.latch 3)),
    ([0x215F1C02#32], .mad false .discard (.reg 56) (.reg 2)),
    ([0x21983671#32], .madw false (.reg 96) (.reg 108) (.latch 1)),
    ([0x21EA3B7C#32], .add64 true (.reg 40) (.sreg 2) .zero),
    ([0x2201057D#32], .sub64 false (.reg 4) (.reg 10) .lane),
    ([0x225F377A#32], .mul64 false .discard (.reg 110) (.sreg 6)),
    ([0x22B839B8#32], .min true (.reg 96) (.latch 3) (.reg 56)),
    ([0x22CA016C#32], .max false (.reg 40) (.reg 2) (.reg 108)),
    ([0x230138F6#32], .minu false (.reg 4) (.latch 1) (.sreg 2)),
    ([0x237F3E0A#32], .maxu true .discard .zero (.reg 10)),
    ([0x23983EEE#32], .absd false (.reg 96) .lane (.reg 110)),
    ([0x23CA3D73#32], .csel false (.reg 40) (.sreg 6) (.latch 3)),
    ([0x24211C02#32], .and true (.reg 4) (.reg 56) (.reg 2)),
    ([0x245F3671#32], .or false .discard (.reg 108) (.latch 1)),
    ([0x24983B7C#32], .xor false (.reg 96) (.sreg 2) .zero),
    ([0x24EA057D#32], .andn true (.reg 40) (.reg 10) .lane),
    ([0x2501377A#32], .shl false (.reg 4) (.reg 110) (.sreg 6)),
    ([0x255F39B8#32], .srl false .discard (.latch 3) (.reg 56)),
    ([0x25B8016C#32], .sra true (.reg 96) (.reg 2) (.reg 108)),
    ([0x25CA38F6#32], .rot false (.reg 40) (.latch 1) (.sreg 2)),
    ([0x26013E0A#32], .shl64 false (.reg 4) .zero (.reg 10)),
    ([0x267F3EEE#32], .srl64 true .discard .lane (.reg 110)),
    ([0x26983D73#32], .sra64 false (.reg 96) (.sreg 6) (.latch 3)),
    ([0x26CA1C02#32], .bfe false (.reg 40) (.reg 56) (.reg 2)),
    ([0x27213671#32], .bfeu true (.reg 4) (.reg 108) (.latch 1)),
    ([0x275F3B7C#32], .bfi false .discard (.sreg 2) .zero),
    ([0x27980500#32], .popc false (.reg 96) (.reg 10)),
    ([0x27EA3E80#32], .clz true (.reg 40) .lane)] = true := by decide

/-- Class 2: words built from the fields the spec gives each instruction. -/
theorem test_decodes_integer_2 : decodesAll [
    ([0x28013700#32], .brev false (.reg 4) (.reg 110)),
    ([0x285F3D73#32], .divs .discard (.sreg 6) (.latch 3)),
    ([0x28981C02#32], .divu (.reg 96) (.reg 56) (.reg 2)),
    ([0x28CA3671#32], .rems (.reg 40) (.reg 108) (.latch 1)),
    ([0x29013B7C#32], .remu (.reg 4) (.sreg 2) .zero),
    ([0x295F057D#32], .addsat false .discard (.reg 10) .lane),
    ([0x29B8377A#32], .subsat true (.reg 96) (.reg 110) (.sreg 6)),
    ([0x29CA39B8#32], .bmix false (.reg 40) (.latch 3) (.reg 56)),
    ([0x2A01016C#32], .icmpEq false (.reg 4) (.reg 2) (.reg 108)),
    ([0x2A7F38F6#32], .icmpNe true .discard (.latch 1) (.sreg 2)),
    ([0x2A983E0A#32], .icmpLt false (.reg 96) .zero (.reg 10)),
    ([0x2ACA3EEE#32], .icmpLe false (.reg 40) .lane (.reg 110)),
    ([0x2B213D73#32], .icmpLtu true (.reg 4) (.sreg 6) (.latch 3)),
    ([0x2B5F1C02#32], .icmpLeu false .discard (.reg 56) (.reg 2)),
    ([0x2B81B671#32], .icmpmEq 6 (.reg 108) (.latch 1)),
    ([0x2BC07B7C#32], .icmpmNe 1 (.sreg 2) .zero),
    ([0x2C02C57D#32], .icmpmLt 11 (.reg 10) .lane),
    ([0x2C40377A#32], .icmpmLe 0 (.reg 110) (.sreg 6)),
    ([0x2C81B9B8#32], .icmpmLtu 6 (.latch 3) (.reg 56)),
    ([0x2CC0416C#32], .icmpmLeu 1 (.reg 2) (.reg 108)),
    ([0x2D1838F6#32], .min64 false (.reg 96) (.latch 1) (.sreg 2)),
    ([0x2D6A3E0A#32], .max64 true (.reg 40) .zero (.reg 10)),
    ([0x2D813EEE#32], .minu64 false (.reg 4) .lane (.reg 110)),
    ([0x2DDF3D73#32], .maxu64 false .discard (.sreg 6) (.latch 3))] = true := by decide

/-- Class 3: words built from the fields the spec gives each instruction. -/
theorem test_decodes_immediate : decodesAll [
    ([0x3181C7FD#32], .addi (.reg 96) (.reg 56) 0x7fd#11),
    ([0x32A01400#32], .andi (.reg 40) (.reg 2) 0x400#11),
    ([0x341363FF#32], .ori (.reg 4) (.reg 108) 0x3ff#11),
    ([0x37F38FFD#32], .xori .discard (.latch 1) 0x7fd#11),
    ([0x3983B01F#32], .shli (.reg 96) (.sreg 2) 31#5),
    ([0x3AA3E011#32], .srli (.reg 40) .zero 17#5),
    ([0x3C10501F#32], .srai (.reg 4) (.reg 10) 31#5),
    ([0x3FF3EC00#32], .muli .discard .lane 0x400#11)] = true := by decide

/-- Class 4: words built from the fields the spec gives each instruction. -/
theorem test_decodes_float : decodesAll [
    ([0x4038377A#32], .fadd true (.reg 96) (.reg 110) (.sreg 6)),
    ([0x404A39B8#32], .fsub false (.reg 40) (.latch 3) (.reg 56)),
    ([0x4081016C#32], .fmul false (.reg 4) (.reg 2) (.reg 108)),
    ([0x40FF38F6#32], .ffma true .discard (.latch 1) (.sreg 2)),
    ([0x41183E0A#32], .ffms false (.reg 96) .zero (.reg 10)),
    ([0x414A3EEE#32], .fnma false (.reg 40) .lane (.reg 110)),
    ([0x41A13D73#32], .fmin true (.reg 4) (.sreg 6) (.latch 3)),
    ([0x41DF1C02#32], .fmax false .discard (.reg 56) (.reg 2)),
    ([0x42183671#32], .fcmpEq false (.reg 96) (.reg 108) (.latch 1)),
    ([0x426A3B7C#32], .fcmpNe true (.reg 40) (.sreg 2) .zero),
    ([0x4281057D#32], .fcmpLt false (.reg 4) (.reg 10) .lane),
    ([0x42DF377A#32], .fcmpLe false .discard (.reg 110) (.sreg 6)),
    ([0x433839B8#32], .fcmpUn true (.reg 96) (.latch 3) (.reg 56)),
    ([0x434A016C#32], .fcmpOd false (.reg 40) (.reg 2) (.reg 108)),
    ([0x4382F8F6#32], .fcmpmEq 11 (.latch 1) (.sreg 2)),
    ([0x43C03E0A#32], .fcmpmNe 0 .zero (.reg 10)),
    ([0x4401BEEE#32], .fcmpmLt 6 .lane (.reg 110)),
    ([0x44407D73#32], .fcmpmLe 1 (.sreg 6) (.latch 3)),
    ([0x4482DC02#32], .fcmpmUn 11 (.reg 56) (.reg 2)),
    ([0x44C03671#32], .fcmpmOd 0 (.reg 108) (.latch 1)),
    ([0x45013B7C#32], .hadd2 false (.reg 4) (.sreg 2) .zero),
    ([0x457F057D#32], .hmul2 true .discard (.reg 10) .lane),
    ([0x4598377A#32], .hfma2 false (.reg 96) (.reg 110) (.sreg 6)),
    ([0x45CA39B8#32], .hmin2 false (.reg 40) (.latch 3) (.reg 56)),
    ([0x4621016C#32], .hmax2 true (.reg 4) (.reg 2) (.reg 108)),
    ([0x465F38F6#32], .badd2 false .discard (.latch 1) (.sreg 2)),
    ([0x46983E0A#32], .bmul2 false (.reg 96) .zero (.reg 10)),
    ([0x46EA3EEE#32], .bfma2 true (.reg 40) .lane (.reg 110)),
    ([0x47013D73#32], .fdot2h false (.reg 4) (.sreg 6) (.latch 3)),
    ([0x475F1C02#32], .fdot4q8 false .discard (.reg 56) (.reg 2)),
    ([0x47B83671#32], .fcopysign true (.reg 96) (.reg 108) (.latch 1)),
    ([0x47CA3B7C#32], .fldexp false (.reg 40) (.sreg 2) .zero)] = true := by decide

/-- Class 4: words built from the fields the spec gives each instruction. -/
theorem test_decodes_float_2 : decodesAll [
    ([0x4801057D#32], .fdiv (.reg 4) (.reg 10) .lane)] = true := by decide

/-- Class 5: words built from the fields the spec gives each instruction. -/
theorem test_decodes_conversion : decodesAll [
    ([0x501F3700#32], .frcp false .discard (.reg 110)),
    ([0x50783D00#32], .frsq true (.reg 96) (.sreg 6)),
    ([0x508A3980#32], .fsqrt false (.reg 40) (.latch 3)),
    ([0x50C11C00#32], .fexp2 false (.reg 4) (.reg 56)),
    ([0x513F0100#32], .flog2 true .discard (.reg 2)),
    ([0x51583600#32], .fsinp false (.reg 96) (.reg 108)),
    ([0x518A3880#32], .fcosp false (.reg 40) (.latch 1)),
    ([0x51E13B00#32], .ffloor true (.reg 4) (.sreg 2)),
    ([0x521F3E00#32], .fceil false .discard .zero),
    ([0x52580500#32], .ftrunc false (.reg 96) (.reg 10)),
    ([0x52AA3E80#32], .frint true (.reg 40) .lane),
    ([0x52C13700#32], .ffract false (.reg 4) (.reg 110)),
    ([0x531F3D00#32], .fclass false .discard (.sreg 6)),
    ([0x54383980#32], .cvtF32S32 true (.reg 96) (.latch 3)),
    ([0x544A1C00#32], .cvtF32U32 false (.reg 40) (.reg 56)),
    ([0x54810100#32], .cvtS32F32 false (.reg 4) (.reg 2)),
    ([0x54FF3600#32], .cvtU32F32 true .discard (.reg 108)),
    ([0x551838F6#32], .packh false (.reg 96) (.latch 1) (.sreg 2)),
    ([0x554A3E00#32], .cvtF32HLo false (.reg 40) .zero),
    ([0x55A10500#32], .cvtF32HHi true (.reg 4) (.reg 10)),
    ([0x55DF3EEE#32], .packb false .discard .lane (.reg 110)),
    ([0x56183D00#32], .cvtF32BLo false (.reg 96) (.sreg 6)),
    ([0x566A3980#32], .cvtF32BHi true (.reg 40) (.latch 3)),
    ([0x56811C02#32], .pk8E4 false (.reg 4) (.reg 56) (.reg 2)),
    ([0x56DF3671#32], .pk8E5 false .discard (.reg 108) (.latch 1)),
    ([0x57383B7C#32], .unpk8E4 true (.reg 96) (.sreg 2) .zero),
    ([0x574A057D#32], .unpk8E5 false (.reg 40) (.reg 10) .lane)] = true := by decide

/-- Class 6: words built from the fields the spec gives each instruction. -/
theorem test_decodes_lane : decodesAll [
    ([0x6001016E#32], .shfl false (.reg 4) (.reg 2) (.reg 110)),
    ([0x607F3E7A#32], .shflup true .discard .zero (.sreg 6)),
    ([0x60983EF3#32], .shfldn false (.reg 96) .lane (.latch 3)),
    ([0x60CA3638#32], .shflx false (.reg 40) (.reg 108) (.reg 56)),
    ([0x6100C080#32], .ballot (.reg 3) (.reg 1)),
    ([0x61610100#32], .vany true (.reg 4) (.reg 2)),
    ([0x619F3600#32], .vall false .discard (.reg 108)),
    ([0x61D83880#32], .matchEq false (.reg 96) (.latch 1)),
    ([0x622A0000#32], .elect true (.reg 40)),
    ([0x62410000#32], .elects false (.reg 4)),
    ([0x629F3B00#32], .redadd false .discard (.sreg 2)),
    ([0x62F83E00#32], .redmin true (.reg 96) .zero),
    ([0x630A0500#32], .redmax false (.reg 40) (.reg 10)),
    ([0x63413E80#32], .redand false (.reg 4) .lane),
    ([0x63BF3700#32], .redor true .discard (.reg 110)),
    ([0x63D83D00#32], .redxor false (.reg 96) (.sreg 6)),
    ([0x6401818E#32], .mand 6 (.reg 3) .active),
    ([0x6440478B#32], .mor 1 .none (.reg 11)),
    ([0x6482C18E#32], .mxor 11 (.reg 3) .active),
    ([0x64C0078B#32], .mandn 0 .none (.reg 11)),
    ([0x65018000#32], .mact 6),
    ([0x65404000#32], .mclr 1),
    ([0x65810180#32], .mpop (.reg 4) (.reg 3)),
    ([0x65C2F980#32], .mfromv 11 (.latch 3)),
    ([0x660A0700#32], .mtov false (.reg 40) .active),
    ([0x664F0780#32], .mtos (.reg 60) .none),
    ([0x66800300#32], .mfroms 0 (.reg 6)),
    ([0x66E11C00#32], .prefixadd true (.reg 4) (.reg 56))] = true := by decide

/-- Class 7: words built from the fields the spec gives each instruction. -/
theorem test_decodes_uniform : decodesAll [
    ([0x701F1F7C#32], .sadd .discard (.reg 62) .zero),
    ([0x70448802#32], .ssub (.reg 18) (.reg 16) (.reg 2)),
    ([0x7081033E#32], .smul (.reg 4) (.reg 6) (.reg 62)),
    ([0x70CF3E10#32], .smad (.reg 60) .zero (.reg 16)),
    ([0x711F0106#32], .sand .discard (.reg 2) (.reg 6)),
    ([0x71449F7C#32], .sor (.reg 18) (.reg 62) .zero),
    ([0x71810802#32], .sxor (.reg 4) (.reg 16) (.reg 2)),
    ([0x71CF033E#32], .sshl (.reg 60) (.reg 6) (.reg 62)),
    ([0x721F3E10#32], .sshr .discard .zero (.reg 16)),
    ([0x72448106#32], .ssra (.reg 18) (.reg 2) (.reg 6)),
    ([0x72811F7C#32], .smin (.reg 4) (.reg 62) .zero),
    ([0x72CF0802#32], .smax (.reg 60) (.reg 16) (.reg 2)),
    ([0x731F033E#32], .sminu .discard (.reg 6) (.reg 62)),
    ([0x7344BE10#32], .smaxu (.reg 18) .zero (.reg 16)),
    ([0x73810106#32], .sadd64 (.reg 4) (.reg 2) (.reg 6)),
    ([0x73CF1F7C#32], .scmpEq (.reg 60) (.reg 62) .zero),
    ([0x741F0802#32], .scmpNe .discard (.reg 16) (.reg 2)),
    ([0x7444833E#32], .scmpLt (.reg 18) (.reg 6) (.reg 62)),
    ([0x74813E10#32], .scmpLe (.reg 4) .zero (.reg 16)),
    ([0x74CF0106#32], .scmpLtu (.reg 60) (.reg 2) (.reg 6)),
    ([0x751F1F7C#32], .scmpLeu .discard (.reg 62) .zero),
    ([0x755F0800#32], .sbcast .discard (.reg 16)),
    ([0x75824601#32], .srdlane (.reg 9) 12 (.reg 1)),
    ([0x75D80106#32], .swrlane (.reg 96) (.reg 2) (.reg 6)),
    ([0x76049F7C#32], .sdivu (.reg 18) (.reg 62) .zero),
    ([0x76410802#32], .sremu (.reg 4) (.reg 16) (.reg 2)),
    ([0x768F033E#32], .ssel (.reg 60) (.reg 6) (.reg 62)),
    ([0x76DF3E10#32], .sfadd .discard .zero (.reg 16)),
    ([0x77048106#32], .sfmul (.reg 18) (.reg 2) (.reg 6)),
    ([0x77411F7C#32], .sffma (.reg 4) (.reg 62) .zero),
    ([0x778F0800#32], .scvtf (.reg 60) (.reg 16)),
    ([0x77DF0100#32], .scvti .discard (.reg 2))] = true := by decide

/-- Class 8: words built from the fields the spec gives each instruction. -/
theorem test_decodes_record : decodesAll [
    ([0x8094C47D#32], .ld 9 .w4 (.short .bypassL1) (.reg 8) .lane),
    ([0x8111FE03#32, 0x05FFFFF0#32], .st 1 .w1 (.ext ⟨.keep, true, 0xFFFFF0#24⟩) .zero (.reg 3)),
    ([0x8296447D#32], .ldro 9 .w8 (.short .stream) (.reg 8) .lane),
    ([0x8315C282#32, 0x007FFFFF#32], .ldf 1 (.ext ⟨.normal, false, 0x7FFFFF#24⟩) (.reg 5) (.reg 2)),
    ([0x8464C07F#32, 0x0000004D#32], .pref 6 .w4 (.short .bypassL1) (.lit 77#32)),
    ([0x8501FE09#32, 0x05FFFFF0#32], .ldl .w1 (.ext ⟨.keep, true, 0xFFFFF0#24⟩) .discard (.reg 9)),
    ([0x86027889#32], .stl .w2 (.short .stream) (.latch 1) (.reg 9)),
    ([0x8707C406#32, 0x007FFFFF#32], .ldu 0 .w8 (.ext ⟨.normal, false, 0x7FFFFF#24⟩) 8 (.reg 6)),
    ([0x8840003C#32], .recset 4 60),
    ([0x89F01E00#32], .recget 15 60),
    ([0x8A20003E#32], .recld 2 62),
    ([0x8B2AF66E#32], .sample 2 .un8x4 (.short .bypassL1) 108 110),
    ([0x8C340007#32], .cacheWb 3 .w4 (.reg 7)),
    ([0x8C344007#32], .cacheInv 3 .w4 (.reg 7))] = true := by decide

/-- Class 9: words built from the fields the spec gives each instruction. -/
theorem test_decodes_local : decodesAll [
    ([0x904104FF#32], .ldp .w4 (.reg 4) (.reg 9) 127#7),
    ([0x9140BE01#32], .stp .w4 (.reg 2) .zero 1#7),
    ([0x92A104FF#32], .ldpd .u1 (.reg 4) (.reg 9) 127#7),
    ([0x9300BE01#32], .stpd .w1 (.reg 2) .zero 1#7),
    ([0x946104FF#32], .ldc .w8 (.reg 4) (.reg 9) 127#7),
    ([0x9560BE01#32], .stc .w8 (.reg 2) .zero 1#7),
    ([0x96610385#32, 0xE0000000#32], .atomp .cas64 4 (.reg 7) 5#7 0#6)] = true := by decide

/-- Class 10: words built from the fields the spec gives each instruction. -/
theorem test_decodes_atomic : decodesAll [
    ([0xA037C505#32, 0xD948FFFE#32], .atom 3 ⟨.minu64, .rel, .device, .stream, 0xFFFE#16⟩ 10 (.reg 5)),
    ([0xA145C888#32, 0xF9C00004#32], .red 4 ⟨.fadd, .rel, .system, .normal, 4#16⟩ (.reg 17) (.reg 8)),
    ([0xA2300000#32], .fenceAcq .cluster),
    ([0xA2720000#32], .fenceRel .system),
    ([0xA2240000#32], .fenceAr .group),
    ([0xA2660000#32], .fenceSc .pod),
    ([0xA3400000#32], .fencero .die),
    ([0xA417C504#32, 0xFF06E000#32], .waitu 1 true 10 (.reg 4) ⟨.allclr, 62, 3, .system⟩),
    ([0xA529C201#32, 0x63000003#32], .strel 2 .w16 ⟨.pod, .stream, true, 3#24⟩ (.reg 4) (.reg 1)),
    ([0xA62BC201#32, 0x16FFFFFF#32], .ldacq 2 .u1 ⟨.wave, .bypassL1, false, 0xFFFFFF#24⟩ (.reg 4) (.reg 1))] = true := by decide

/-- Class 11: words built from the fields the spec gives each instruction. -/
theorem test_decodes_async : decodesAll [
    ([0xB004833E#32], .kick (.reg 18) (.reg 6) (.reg 62)),
    ([0xB041C000#32], .advance (.reg 7)),
    ([0xB0807F80#32, 0x00000002#32], .finit 1 (.lit 2#32)),
    ([0xB0C14780#32], .farrive (.reg 5) 15),
    ([0xB0DF0986#32], .farriveRank 3 (.reg 6)),
    ([0xB1014086#32], .fwait (.reg 5) 1 (.reg 6)),
    ([0xB1414086#32], .ftest (.reg 5) 1 (.reg 6)),
    ([0xB1804388#32], .fexpect 1 (.reg 7) (.reg 8)),
    ([0xB1C0017C#32], .waitc 2 .zero),
    ([0xB200C180#32], .rdcnt (.reg 3) 3),
    ([0xB2409C00#32], .copy (.reg 2) 56)] = true := by decide

/-- Class 12: words built from the fields the spec gives each instruction. -/
theorem test_decodes_matrix : decodesAll [
    ([0xC0000180#32], .mshape (.reg 3)),
    ([0xC0400409#32, 0x1C018000#32], .mlds (.reg 8) (.reg 9) ⟨.int4, some .g128⟩),
    ([0xC0800409#32, 0x0C001600#32], .mldsg (.reg 8) (.reg 9) ⟨.bf16, none⟩ 11),
    ([0xC0C00806#32], .mscale (.reg 16) true .g64),
    ([0xC1000000#32], .mswap),
    ([0xC141C50B#32, 0x4E804000#32], .mma 7 (.reg 10) (.reg 11) ⟨.f16, ⟨.bf16, none⟩, .bf16, 64#7, true, false⟩),
    ([0xC180860D#32, 0xD8032600#32], .mmag 2 (.reg 12) (.reg 13) ⟨.int8, ⟨.int8, some .g64⟩, .f32, 1#7, false, true⟩ 3),
    ([0xC1C10080#32], .mzero 4 .f16),
    ([0xC201870F#32, 0xA1424000#32], .mst 6 (.reg 14) (.reg 15) ⟨.e5m2, .f16, 33#7, true⟩),
    ([0xC241870F#32, 0xA1424000#32], .mld 6 (.reg 14) (.reg 15) ⟨.e5m2, .f16, 33#7, true⟩),
    ([0xC200077C#32, 0x00000080#32], .mstPlane (.reg 14) .shadow),
    ([0xC240077C#32, 0x00000100#32], .mldPlane (.reg 14) .shadowScales),
    ([0xC2814080#32], .mstat (.reg 5) true),
    ([0xC2C00000#32], .mrel)] = true := by decide

/-- Class 13: words built from the fields the spec gives each instruction. -/
theorem test_decodes_flock : decodesAll [
    ([0xD00A0282#32, 0x2FC08400#32], .nev 40 (.reg 5) (.reg 2) ⟨2, true, none, 64#7, 16#5, true⟩),
    ([0xD0400200#32], .netldFetch (.reg 4)),
    ([0xD0400201#32], .netldDrop (.reg 4)),
    ([0xD0814404#32], .emitc (.reg 5) (.reg 8) 4),
    ([0xD0C09F00#32], .raster (.reg 2) 62),
    ([0xD1009F00#32], .present (.reg 2) 62)] = true := by decide

/-- Class 14: words built from the fields the spec gives each instruction. -/
theorem test_decodes_ray : decodesAll [
    ([0xE00A3400#32, 0x106FE000#32], .trace 40 104 ⟨4, 6, 63, .front⟩),
    ([0xE04A3400#32, 0x106FE000#32], .traceocc 40 104 ⟨4, 6, 63, .front⟩),
    ([0xE0809F00#32], .build (.reg 2) 62),
    ([0xE0C09F00#32], .refit (.reg 2) 62),
    ([0xE1028208#32], .cairnw (.reg 10) 4 (.reg 8)),
    ([0xE1428208#32], .genpin (.reg 10) 4 (.reg 8)),
    ([0xE1828208#32], .gendrop (.reg 10) 4 (.reg 8)),
    ([0xE1C30704#32, 0xF0000000#32], .refill 12 none 4 none),
    ([0xE21F3E84#32], .pixpush .discard .lane 4),
    ([0xE247840C#32], .nodedec 30 8 12),
    ([0xE2850210#32], .morton 20 4 16)] = true := by decide

/-- Words the spec prints: Tables 5.9, 6.9, 7.9 and 8.9. -/
theorem test_worked_encodings : decodesAll [
    ([0x2001C1FF#32, 0x000003E8#32], .add false (.reg 7) (.reg 3) (.lit 1000#32)),
    ([0x301C1FFD#32], .addi (.reg 7) (.reg 3) 0x7FD#11),
    ([0x409F0103#32], .fmul false .discard (.reg 2) (.reg 3)),
    ([0x4081B8F6#32], .fmul false (.reg 6) (.latch 1) (.sreg 2)),
    ([0x012FFFFB#32], .brin 2 0xFFFFB#20),
    ([0x8035C405#32, 0x00000010#32], .ld 3 .w4 (.ext ⟨.normal, false, 16#24⟩) (.reg 8) (.reg 5)),
    ([0x90410482#32], .ldp .w4 (.reg 4) (.reg 9) 2#7),
    ([0x81040080#32], .st 0 .w4 (.short .normal) (.reg 1) (.reg 0)),
    ([0x10C00000#32], .exit),
    ([0x0717FFFD#32], .bsnz 5 0x3FFFD#18),
    ([0x05F0000A#32], .call none 10#20),
    ([0x09F00400#32], .calli (.reg 8)),
    ([0x10400123#32], .trap 0x123#14),
    ([0x1140007F#32], .winadd 0x7F#7),
    ([0x11810080#32], .rdcrD 4 0#7),
    ([0x12C28200#32], .launch 10 4),
    ([0x13C00180#32], .setmodeFpmode (.reg 3)),
    ([0x21428103#32], .mad false (.reg 10) (.reg 2) (.reg 3)),
    ([0x26C084FF#32, 0x00000804#32], .bfe false (.reg 2) (.reg 9) (.lit 0x804#32)),
    ([0x2C004082#32], .icmpmLt 1 (.reg 1) (.reg 2)),
    ([0x3C0C181F#32], .srai (.reg 3) (.reg 3) 31#5),
    ([0x75450180#32], .sbcast (.reg 20) (.reg 3)),
    ([0x75824601#32], .srdlane (.reg 9) 12 (.reg 1)),
    ([0x4400C082#32], .fcmpmLt 3 (.reg 1) (.reg 2)),
    ([0x48014307#32], .fdiv (.reg 5) (.reg 6) (.reg 7)),
    ([0x54818300#32], .cvtS32F32 false (.reg 6) (.reg 6)),
    ([0x5680C0FF#32, 0x00000002#32], .pk8E4 false (.reg 3) (.reg 1) (.lit 2#32)),
    ([0x62424000#32], .elects false (.reg 9)),
    ([0x6400400E#32], .mand 1 (.reg 0) .active)] = true := by decide

/-- Words the spec prints: Tables 9.10, 10.6, 11.8, 11.13, 12.11, 13.1 and 21.5. -/
theorem test_worked_encodings_2 : decodesAll [
    ([0x80260403#32], .ld 2 .w8 (.short .normal) (.reg 8) (.reg 3)),
    ([0x87040309#32], .ldu 0 .w4 (.short .normal) 6 (.reg 9)),
    ([0x88400008#32], .recset 4 8),
    ([0xA037C505#32, 0xD9400000#32], .atom 3 ⟨.minu64, .rel, .device, .normal, 0#16⟩ 10 (.reg 5)),
    ([0xA2320000#32], .fenceRel .cluster),
    ([0xA415C504#32, 0x0106A000#32], .waitu 1 false 10 (.reg 4) ⟨.eq, 2, 3, .device⟩),
    ([0xA525C201#32, 0x50000000#32], .strel 2 .w4 ⟨.device, .normal, false, 0#24⟩ (.reg 4) (.reg 1)),
    ([0x9640C380#32, 0x00000000#32], .atomp .add 3 (.reg 7) 0#7 0#6),
    ([0x94630082#32], .ldc .w8 (.reg 12) (.reg 1) 2#7),
    ([0xB0807F80#32, 0x00000002#32], .finit 1 (.lit 2#32)),
    ([0xB0DF0986#32], .farriveRank 3 (.reg 6)),
    ([0xB1C0007C#32], .waitc 0 .zero),
    ([0xB2408800#32], .copy (.reg 2) 16),
    ([0xC0400409#32, 0x10000000#32], .mlds (.reg 8) (.reg 9) ⟨.e4m3, none⟩),
    ([0xC0C00801#32], .mscale (.reg 16) false .g32),
    ([0xC140050B#32, 0x91800000#32], .mma 0 (.reg 10) (.reg 11) ⟨.e4m3, ⟨.e4m3, none⟩, .f16, 64#7, false, false⟩),
    ([0xC180860D#32, 0xD8408600#32], .mmag 2 (.reg 12) (.reg 13) ⟨.int8, ⟨.int8, some .g32⟩, .f32, 32#7, false, false⟩ 3),
    ([0xC200070F#32, 0x41800000#32], .mst 0 (.reg 14) (.reg 15) ⟨.f16, .f16, 64#7, false⟩),
    ([0xC2814000#32], .mstat (.reg 5) false),
    ([0xD00A0402#32, 0x01901C00#32], .nev 40 (.reg 8) (.reg 2) ⟨0, false, some 3, 16#7, 3#5, true⟩),
    ([0xD00A0282#32, 0x2F882000#32], .nev 40 (.reg 5) (.reg 2) ⟨2, true, none, 8#7, 4#5, false⟩),
    ([0xD0400201#32], .netldDrop (.reg 4)),
    ([0xE00A0400#32, 0x1061C000#32], .trace 40 8 ⟨4, 6, 7, .none⟩),
    ([0xE1028208#32], .cairnw (.reg 10) 4 (.reg 8)),
    ([0xE1C30104#32, 0x30000000#32], .refill 12 (some 2) 4 (some 3)),
    ([0xE247840C#32], .nodedec 30 8 12),
    ([0xE2850210#32], .morton 20 4 16),
    ([0xD0814404#32], .emitc (.reg 5) (.reg 8) 4),
    ([0xD100C300#32], .present (.reg 3) 6),
    ([0x12000000#32], .rte),
    ([0x124F1E83#32], .rdst 60 (.reg 61) 3#7),
    ([0x128F1E87#32], .wrst (.reg 60) (.reg 61) 7#7)] = true := by decide
/-! ## Well-formedness: an ill-formed term for each check, and words the decoder refuses -/

theorem test_wf_accepts : ([.add false (.reg 1) (.reg 2) (.lit 5#32), .add64 false (.reg 2) (.sreg 4) (.latch 1),
    .jmpi (.reg 110), .rdcrD 62 2#7, .launch 110 0, .ldu 0 .w16 (.short .normal) 60 .zero, .recset 3 60, .copy .discard 56,
    .mma 6 .zero .zero ⟨.int8, ⟨.int8, some .g32⟩, .f32, 64#7, true, true⟩, .mma 7 .zero .zero ⟨.f16, ⟨.bf16, none⟩, .bf16, 1#7, false, false⟩,
    .trace 108 104 ⟨62, 1, 3, .none⟩, .nodedec 106 108 110, .morton 111 109 59, .waitu 0 true 60 .zero ⟨.eq, 2, 3, .system⟩] : List Instr).all
    Instr.wf = true := by decide

theorem test_wf_refuses_operands : ([.add false (.reg 1) (.lit 1#32) (.lit 1#32), .wrst (.lit 1#32) (.lit 1#32) 0#7,
    .madw false (.reg 3) (.reg 1) (.reg 1), .add64 false (.reg 3) (.reg 2) (.reg 2), .add64 false (.reg 2) (.reg 3) (.reg 2),
    .add64 false (.reg 2) (.reg 2) (.sreg 3), .shl64 false (.reg 2) (.reg 5) (.reg 2), .jmpi (.reg 7), .jmpi .zero, .calli .lane,
    .calli (.lit 4#32), .shfl false (.reg 1) (.latch 0) (.reg 1), .shflx false (.reg 1) (.sreg 1) (.reg 1), .sadd64 (.reg 1) (.reg 2) (.reg 2),
    .sadd64 (.reg 2) (.reg 3) .zero, .sleeptAbs (.reg 5), .launch 3 4, .launch 4 3, .rdcr 1 16#7, .rdcr 1 63#7, .rdcrD 2 1#7, .rdcrD 3 0#7,
    .wrcr .zero 63#7] : List Instr).all (fun i => !i.wf) = true := by decide

theorem test_wf_refuses_memory : ([.ld 0 .w8 (.short .normal) (.reg 3) .zero, .ld 0 .w16 (.short .normal) (.reg 6) .zero,
    .st 0 .u1 (.short .normal) .zero .zero, .st 0 .w16 (.short .normal) (.sreg 4) .zero, .stl .u2 (.short .normal) .zero .zero,
    .ldu 0 .w8 (.short .normal) 5 .zero, .ldu 0 .w16 (.short .normal) 6 .zero, .recset 0 61, .recget 0 61, .recld 0 7,
    .sample 0 .f32x1 (.short .normal) 6 2, .sample 0 .f32x1 (.short .normal) 4 3, .stp .u1 .zero .zero 0#7, .ldc .w16 (.reg 2) .zero 0#7,
    .atomp .cas 3 .zero 0#7 0#6, .atom 0 ⟨.cas64, .rlx, .device, .normal, 0#16⟩ 6 .zero, .red 0 ⟨.xchg, .rlx, .device, .normal, 0#16⟩ .zero .zero,
    .red 0 ⟨.add, .acq, .device, .normal, 0#16⟩ .zero .zero, .red 0 ⟨.add64, .rlx, .device, .normal, 0#16⟩ (.reg 3) .zero,
    .waitu 0 true 61 .zero ⟨.eq, 2, 3, .device⟩, .waitu 0 true 60 .zero ⟨.eq, 3, 3, .device⟩, .waitu 0 false 63 .zero ⟨.eq, 2, 3, .device⟩,
    .strel 0 .u1 ⟨.device, .normal, false, 0#24⟩ .zero .zero, .ldacq 0 .w8 ⟨.device, .normal, false, 0#24⟩ (.reg 1) .zero] : List Instr).all
    (fun i => !i.wf) = true := by decide

theorem test_wf_refuses_units : ([.copy .discard 57, .mlds .zero .zero ⟨.f32, none⟩, .mlds .zero .zero ⟨.int8, none⟩,
    .mldsg .zero .zero ⟨.f16, some .g32⟩ 0, .mma 1 .zero .zero ⟨.f16, ⟨.f16, none⟩, .f32, 8#7, false, false⟩,
    .mma 0 .zero .zero ⟨.f16, ⟨.e4m3, none⟩, .f32, 8#7, false, false⟩, .mma 0 .zero .zero ⟨.f16, ⟨.f16, none⟩, .f32, 65#7, false, false⟩,
    .mmag 0 .zero .zero ⟨.f16, ⟨.f16, none⟩, .f32, 0#7, false, false⟩ 0, .mzero 3 .f32, .mst 0 .zero .zero ⟨.int8, .f16, 8#7, false⟩,
    .mld 1 .zero .zero ⟨.f16, .f32, 8#7, false⟩, .nev 0 (.reg 1) .zero ⟨0, false, none, 65#7, 1#5, false⟩,
    .nev 0 (.reg 1) .zero ⟨0, false, none, 1#7, 17#5, false⟩, .nev 0 (.reg 1) .zero ⟨1, false, none, 1#7, 1#5, false⟩,
    .nev 0 .zero .zero ⟨0, false, none, 1#7, 1#5, false⟩, .emitc .discard .zero 3, .raster .discard 5, .present .discard 7,
    .trace 2 8 ⟨4, 0, 0, .none⟩, .traceocc 4 4 ⟨4, 0, 0, .none⟩, .trace 4 8 ⟨5, 0, 0, .none⟩, .build .discard 1, .refit .discard 1,
    .cairnw .discard 1 .zero, .genpin .discard 1 .zero, .gendrop .discard 1 .zero, .refill 0 none 1 none, .pixpush .discard .zero 1,
    .nodedec 107 8 12, .nodedec 30 6 12, .nodedec 30 8 13, .morton 0 110 0, .morton 0 0 60] : List Instr).all
    (fun i => !i.wf) = true := by decide

/-- Every listed word sequence is refused under the name beside it. -/
noncomputable def refusesAll (l : List (List Word × DecodeErr)) : Bool := l.all fun p =>
  match decode p.1 with
  | .ok _ => false
  | .error e => decide (e = p.2)

/-- Class 0xF, reserved sub-ops, fields that must be zero, reserved codes, NW misuse and missing words (R108, R122, R129). -/
theorem test_decode_refuses : refusesAll [
    ([], .short), ([0x2001C1FF#32], .short), ([0x8035C405#32], .short), ([0xF0000000#32], .reservedOp), ([0x0F000000#32], .reservedOp),
    ([0x14000000#32], .reservedOp), ([0x2E000000#32], .reservedOp), ([0x48400000#32], .reservedOp), ([0x53400000#32], .reservedOp),
    ([0x67000000#32], .reservedOp), ([0x78000000#32], .reservedOp), ([0x8D000000#32], .reservedOp), ([0x97000000#32], .reservedOp),
    ([0xA7000000#32], .reservedOp), ([0xB2800000#32], .reservedOp), ([0xC3000000#32], .reservedOp), ([0xD1400000#32], .reservedOp),
    ([0xE2C00000#32], .reservedOp), ([0x10C00001#32], .nonzeroField), ([0x27804081#32], .nonzeroField), ([0xA234C000#32, 0#32], .nonzeroField),
    ([0x2000407E#32], .operand), ([0x201C0081#32], .operand), ([0x201F4081#32], .operand), ([0x7000407D#32], .operand),
    ([0x01C00000#32], .mask), ([0x00000000#32], .mask), ([0x640007CE#32], .mask), ([0x810E0080#32], .code), ([0x81050080#32], .code),
    ([0xA5250201#32, 0x50000000#32], .code), ([0xA525C201#32, 0x80000000#32], .code), ([0x28A14081#32], .nw), ([0x10200000#32], .nw),
    ([0xB0200000#32], .nw), ([0x2000FFFF#32, 0#32], .combination), ([0x21C0C308#32], .combination)] = true := by decide

/-- R118: two fields with code 127 still frame one literal word. -/
theorem test_two_literals_frame : frameLen 0x2000FFFF#32 = 2 := by decide

/-- The encoder gives the words the spec prints for the same instructions (Tables 5.9 and 9.10). -/
theorem test_encode : (encode (.ld 3 .w4 (.ext ⟨.normal, false, 16#24⟩) (.reg 8) (.reg 5)) = [0x8035C405#32, 0x00000010#32]) ∧
    encode (.add false (.reg 7) (.reg 3) (.lit 1000#32)) = [0x2001C1FF#32, 0x000003E8#32] ∧
    encode (.waitu 1 false 10 (.reg 4) ⟨.eq, 2, 3, .device⟩) = [0xA415C504#32, 0x0106A000#32] := by decide

/-! ## Small states -/

/-- The check of `Passes`, to be decided. -/
def passes (i : Instr) (s : State) : Bool :=
  i.wf && (!i.privileged || s.src.handler) && i.named.vs.all (fun n => decide (s.src.wb + n < s.src.nregs)) &&
  (List.range 32).all (fun l => !s.active.getLsbD l || i.named.ls.all (fun k => ((s.src.lane l).latches.getD k Latch.blank).valid))

theorem passes_sound {i : Instr} {s : State} (h : passes i s = true) : Passes i s := by
  simp only [passes, Bool.and_eq_true, Bool.or_eq_true, Bool.not_eq_true', List.all_eq_true, decide_eq_true_eq, List.mem_range] at h
  obtain ⟨⟨⟨h1, h2⟩, h3⟩, h4⟩ := h
  exact ⟨h1, fun hp => h2.resolve_left (by simp [hp]), h3, fun l hl ha k hk => ((h4 l hl).resolve_left (by simp [ha])) k hk⟩

/-- A wave of 32 ready lanes at 0x10000 with 16 registers a lane, register n of lane l holding `f l n`. -/
def waveOf (f : Nat → Nat → Word) : Wave :=
  { placeWave with
    nregs := 16
    lanes := (List.range 32).map fun l => { placeLane with regs := (List.range 16).map (f l) } }

/-- The wave about to issue an instruction of `n` words in the given lanes: slot 0 of the first core, alone in a running grid. -/
def at_ (w : Wave) (n : Nat) (lanes : Mask) : State :=
  { State.reset.withFetchWord 32 0 with
    waves := [(0, w)]
    iss := { Issue.init with key := 0, lanes := lanes, pc := 0x10000#48, next := BitVec.ofNat 48 (0x10000 + 4 * n), start := some w } }

/-- Every register zero. -/
def zeros : Wave := waveOf fun _ _ => 0#32

/-- The wave with latch entries that are valid and hold 1. -/
def latched (w : Wave) : Wave := { w with lanes := w.lanes.map fun x => { x with latches := List.replicate 4 ⟨1#64, false, true⟩ } }

/-- The wave in handler mode. -/
def handling (w : Wave) : Wave := { w with handler := true }

/-! ## Every statement's hypotheses are met somewhere -/

theorem witness_IntegerResults_32 : ∃ n d f, intRule (.add false (.reg 15) (.latch 3) (.lit 5#32)) = some (n, d, f) ∧
    Passes (.add false (.reg 15) (.latch 3) (.lit 5#32)) (at_ (latched zeros) 2 1#32) := ⟨_, _, _, rfl, passes_sound (by decide)⟩
theorem witness_IntegerResults_64 : ∃ n d f, wideRule (.add64 true (.reg 14) (.reg 0) .lane) = some (n, d, f) ∧
    Passes (.add64 true (.reg 14) (.reg 0) .lane) (at_ zeros 1 0x80000000#32) := ⟨_, _, _, rfl, passes_sound (by decide)⟩
theorem witness_MaskRegisterWrites_int : ∃ d f, maskSetRule (.mand 11 .active .none) = some (d, f) ∧
    Passes (.mand 11 .active .none) (at_ zeros 1 5#32) := ⟨_, _, rfl, passes_sound (by decide)⟩
theorem witness_MaskRegisterWrites_float : ∃ d a b c, maskFloatRule (.fcmpmUn 0 (.reg 1) (.reg 2)) = some (d, a, b, c) ∧
    Passes (.fcmpmUn 0 (.reg 1) (.reg 2)) (at_ zeros 1 5#32) ∧
    let s := at_ zeros 1 5#32
    metAll s (fun l => condExc s.src (s.src.v32 l a) (s.src.v32 l b)) &&& s.src.traps = 0 :=
  ⟨_, _, _, _, rfl, passes_sound (by decide), by decide⟩
theorem witness_DivisionsIssue_int : ∃ d a b f, divRule (.divs (.reg 15) (.reg 0) .zero) = some (d, a, b, f) ∧
    Passes (.divs (.reg 15) (.reg 0) .zero) (at_ zeros 1 1#32) := ⟨_, _, _, _, rfl, passes_sound (by decide)⟩

/-- 1.0 / 0.0 under FPMODE 0, and with TDZ set. -/
def ratio (fpmode : Word) : State := at_ { waveOf (fun _ n => if n = 0 then 0x3F800000#32 else 0#32) with fpmode := fpmode } 1 3#32

theorem witness_DivisionsIssue_fdiv : Passes (.fdiv .discard (.reg 0) (.reg 1)) (ratio 0#32) ∧
    let s := ratio 0#32
    let q := fun (l : Nat) => asReg (fp32.div s.src.rm s.src.ftz (seen fp32 s.src (s.src.v32 l (.reg 0)).toNat) (seen fp32 s.src (s.src.v32 l (.reg 1)).toNat))
    Unfailed s s.strikes (some .single) (fun l => (q l).1) ∧ metAll s (fun l => (q l).2) &&& s.src.traps = 0 :=
  ⟨passes_sound (by decide), fun k hk l hl => by cases hk; revert l; decide, by decide⟩

/-- Where no upset strikes, no check fails. -/
theorem unfailed_of {s : State} {who : Mask} {k : Option FKind} {val : Nat → Word} (h : who = 0#32) : Unfailed s who k val := by
  intro kind _ l _ hl
  simp [h] at hl

theorem witness_DivisionsIssue_met : Passes (.fdiv (.reg 15) (.reg 0) (.reg 1)) (ratio 0x1F00#32) ∧
    let s := ratio 0x1F00#32
    let q := fun (l : Nat) => asReg (fp32.div s.src.rm s.src.ftz (seen fp32 s.src (s.src.v32 l (.reg 0)).toNat) (seen fp32 s.src (s.src.v32 l (.reg 1)).toNat))
    Unfailed s s.strikes (some .single) (fun l => (q l).1) ∧ metAll s (fun l => (q l).2) &&& s.src.traps ≠ 0 :=
  ⟨passes_sound (by decide), unfailed_of (by decide), by decide⟩

theorem witness_LaneResults : (∃ n d f, laneRule (.shfl false .discard .lane (.lit 31#32)) = some (n, d, f) ∧
    Passes (.shfl false .discard .lane (.lit 31#32)) (at_ zeros 2 1#32)) ∧
    (Passes (.elects true (.reg 15)) (at_ zeros 1 0x80000000#32) ∧ lowestLane (at_ zeros 1 0x80000000#32).active = some (31 : Fin 32).val) :=
  ⟨⟨_, _, _, rfl, passes_sound (by decide)⟩, passes_sound (by decide), by decide⟩

theorem witness_UniformResults : (∃ d f, uniRule (.srdlane (.reg 63) 15 (.reg 1)) = some (d, f) ∧
    Passes (.srdlane (.reg 63) 15 (.reg 1)) (at_ zeros 1 1#32)) ∧ Passes (.sbcast .discard .zero) (at_ zeros 1 1#32) ∧
    Passes (.swrlane (.reg 15) .zero (.reg 63)) (at_ zeros 1 1#32) ∧ Passes (.swrlane .discard (.lit 1#32) .zero) (at_ zeros 2 1#32) ∧
    Passes (.sadd64 (.reg 62) (.lit 1#32) (.reg 62)) (at_ zeros 2 1#32) ∧ Passes (.sadd64 .discard .zero .zero) (at_ zeros 1 1#32) :=
  ⟨⟨_, _, rfl, passes_sound (by decide)⟩, passes_sound (by decide), passes_sound (by decide), passes_sound (by decide),
    passes_sound (by decide), passes_sound (by decide)⟩

/-- All registers 1.0, FPMODE as given. -/
def ones (fpmode : Word) : State := at_ { waveOf (fun _ _ => 0x3F800000#32) with fpmode := fpmode } 1 0x80000001#32
/-- All registers a signalling NaN, every trap enabled. -/
def signalling : State := at_ { waveOf (fun _ _ => 0x7F800001#32) with fpmode := 0x1F00#32 } 2 0x80000001#32

/-- An upset that flips the lowest fraction bit of lane 31's next checked result, which the check of R77 does not see. -/
def grazed : State := { ones 0x1F00#32 with upset := some ⟨0, 0, 0x80000000, 1#32⟩ }

theorem witness_FloatResults : ∃ n d k f, floatRule (.fadd false (.reg 15) (.reg 0) (.reg 1)) = some (n, d, k, f) ∧
    Passes (.fadd false (.reg 15) (.reg 0) (.reg 1)) grazed ∧ grazed.strikes = 0x80000000#32 ∧
    Unfailed grazed grazed.strikes k (fun l => (f grazed.src l).1) ∧ metAll grazed (fun l => (f grazed.src l).2) &&& grazed.src.traps = 0 :=
  ⟨_, _, _, _, rfl, passes_sound (by decide), by decide, fun kind hk l hl hb => by
    cases hk; have : l = 31 := by revert hb; revert l; decide
    subst this; decide, by decide⟩

theorem witness_PackedByteResults : ∃ n d b k f, packRule (.pk8E5 false (.reg 15) (.reg 0) (.reg 1)) = some (n, d, b, k, f) ∧
    Passes (.pk8E5 false (.reg 15) (.reg 0) (.reg 1)) signalling ∧
    Unfailed signalling signalling.strikes (some k) (fun l => (f signalling.src l).1) :=
  ⟨_, _, _, _, _, rfl, passes_sound (by decide), unfailed_of (by decide)⟩

theorem witness_UniformFloatResults : ∃ d k f, uniFloatRule (.sfadd (.reg 63) .zero .zero) = some (d, k, f) ∧
    Passes (.sfadd (.reg 63) .zero .zero) (ones 0#32) ∧ lowestLane (ones 0#32).active = some 0 ∧
    Unfailed (ones 0#32) (allStruck (ones 0#32)) k (fun _ => (f (ones 0#32).src).1) ∧ metAll (ones 0#32) (fun _ => (f (ones 0#32).src).2) &&& (ones 0#32).src.traps = 0 :=
  ⟨_, _, _, rfl, passes_sound (by decide), by decide, unfailed_of (by decide), by decide⟩

theorem witness_FloatTraps_lane : ∃ n d k f, floatRule (.fadd false (.reg 15) (.reg 0) (.reg 1)) = some (n, d, k, f) ∧
    Passes (.fadd false (.reg 15) (.reg 0) (.reg 1)) signalling ∧ Unfailed signalling signalling.strikes k (fun l => (f signalling.src l).1) ∧
    metAll signalling (fun l => (f signalling.src l).2) &&& signalling.src.traps ≠ 0 :=
  ⟨_, _, _, _, rfl, passes_sound (by decide), unfailed_of (by decide), by decide⟩

theorem witness_FloatTraps_mask : ∃ d a b c, maskFloatRule (.fcmpmLt 0 (.reg 0) .zero) = some (d, a, b, c) ∧
    Passes (.fcmpmLt 0 (.reg 0) .zero) signalling ∧
    metAll signalling (fun l => condExc signalling.src (signalling.src.v32 l a) (signalling.src.v32 l b)) &&& signalling.src.traps ≠ 0 :=
  ⟨_, _, _, _, rfl, passes_sound (by decide), by decide⟩

theorem witness_FloatTraps_uniform : ∃ d k f, uniFloatRule (.sfmul .discard (.lit 0x7F800001#32) .zero) = some (d, k, f) ∧
    Passes (.sfmul .discard (.lit 0x7F800001#32) .zero) signalling ∧ Unfailed signalling (allStruck signalling) k (fun _ => (f signalling.src).1) ∧
    metAll signalling (fun _ => (f signalling.src).2) &&& signalling.src.traps ≠ 0 :=
  ⟨_, _, _, rfl, passes_sound (by decide), unfailed_of (by decide), by decide⟩

/-- An upset that flips two bits of lane 0's next checked result, under the FPMODE given. -/
def struck (fpmode : Word) : State := { ones fpmode with upset := some ⟨0, 0, 1, 0x40000040#32⟩ }

theorem witness_ShadowTraps : (∃ n d f, floatRule (.fadd false (.reg 15) (.reg 0) (.reg 1)) = some (n, d, some .single, f) ∧
    Passes (.fadd false (.reg 15) (.reg 0) (.reg 1)) (struck 0#32) ∧
    failing (struck 0#32) (struck 0#32).strikes .single (fun l => (f (struck 0#32).src l).1) ≠ 0#32) ∧
    (∃ n d b f, packRule (.pk8E4 false (.reg 15) (.reg 0) (.reg 1)) = some (n, d, b, .e4, f) ∧
      Passes (.pk8E4 false (.reg 15) (.reg 0) (.reg 1)) (struck 0#32) ∧
      failing (struck 0#32) (struck 0#32).strikes .e4 (fun l => (f (struck 0#32).src l).1) ≠ 0#32) ∧
    (∃ d f, uniFloatRule (.scvtf .discard .zero) = some (d, some .single, f) ∧ Passes (.scvtf .discard .zero) (struck 0#32) ∧
      failing (struck 0#32) (allStruck (struck 0#32)) .single (fun _ => (f (struck 0#32).src).1) ≠ 0#32) :=
  ⟨⟨_, _, _, rfl, passes_sound (by decide), by decide⟩, ⟨_, _, _, _, rfl, passes_sound (by decide), by decide⟩,
    ⟨_, _, rfl, passes_sound (by decide), by decide⟩⟩

theorem witness_ShadowTraps_fdiv :
    let q := fun (s : State) (l : Nat) => asReg (fp32.div s.src.rm s.src.ftz (seen fp32 s.src (s.src.v32 l (.reg 0)).toNat) (seen fp32 s.src (s.src.v32 l (.reg 1)).toNat))
    (Passes (.fdiv (.reg 15) (.reg 0) (.reg 1)) (struck 0x100#32) ∧ (struck 0x100#32).src.traps ≠ 0 ∧
      failing (struck 0x100#32) (struck 0x100#32).strikes .single (fun l => (q (struck 0x100#32) l).1) ≠ 0#32) ∧
    Passes (.fdiv (.reg 15) (.reg 0) (.reg 1)) (struck 0#32) ∧ Passes (.fdiv .discard (.reg 0) (.reg 1)) (struck 0#32) ∧
    (struck 0#32).src.traps = 0 ∧ failing (struck 0#32) (struck 0#32).strikes .single (fun l => (q (struck 0#32) l).1) ≠ 0#32 :=
  ⟨⟨passes_sound (by decide), by decide, by decide⟩, passes_sound (by decide), passes_sound (by decide), by decide, by decide⟩

/-! ### Control -/

/-- A return stack of `n` entries in every lane. -/
def depth (n : Nat) (w : Wave) : Wave := { w with lanes := w.lanes.map fun x => { x with hw := min n 8, spilled := n - 8 } }
/-- Every register pair of every lane holding an address. -/
def aiming (a : Dword) : Wave := waveOf fun _ n => if n % 2 = 0 then lo32 a else hi32 a

theorem witness_BranchesGo_direct : (∃ tgt taken, branchRule (.bany 11 0x80000#20) (at_ zeros 1 1#32) = some (tgt, taken) ∧
    Passes (.bany 11 0x80000#20) (at_ zeros 1 1#32)) ∧ (∃ tgt taken, branchRule (.bsnz 63 0x1FFFF#18) (at_ zeros 1 1#32) = some (tgt, taken) ∧
    Passes (.bsnz 63 0x1FFFF#18) (at_ zeros 1 1#32)) := ⟨⟨_, _, rfl, passes_sound (by decide)⟩, _, _, rfl, passes_sound (by decide)⟩

theorem witness_BranchesGo_stack :
    (Passes (.call none 0#20) (at_ (depth 71 zeros) 1 3#32) ∧
      ∀ l < 32, ((at_ (depth 71 zeros) 1 3#32).callers none).getLsbD l = true →
        ((at_ (depth 71 zeros) 1 3#32).src.lane l).hw + ((at_ (depth 71 zeros) 1 3#32).src.lane l).spilled ≠ 72) ∧
    (Passes .ret (at_ (depth 1 zeros) 1 3#32) ∧
      ∀ l < 32, (at_ (depth 1 zeros) 1 3#32).active.getLsbD l = true →
        ((at_ (depth 1 zeros) 1 3#32).src.lane l).hw + ((at_ (depth 1 zeros) 1 3#32).src.lane l).spilled ≠ 0) :=
  ⟨⟨passes_sound (by decide), by decide⟩, passes_sound (by decide), by decide⟩

theorem witness_BranchesGo_target : let s := at_ (depth 71 (aiming 0xFFFFFFFFFFFC#64)) 1 0x80000001#32
    Passes (.calli (.reg 14)) s ∧ Passes (.jmpi (.reg 14)) s ∧
    ∀ l < 32, s.active.getLsbD l = true → (s.src.lane l).hw + (s.src.lane l).spilled ≠ 72 ∧ ¬ noCode (s.src.v64 l (.reg 14)) :=
  ⟨passes_sound (by decide), passes_sound (by decide), by unfold noCode; decide⟩

theorem witness_StackTraps_full : let s := at_ (depth 72 zeros) 1 0x80000000#32
    (Passes (.call none 0#20) s ∧ ∃ l < 32, (s.callers none).getLsbD l = true ∧ (s.src.lane l).hw + (s.src.lane l).spilled = 72) ∧
    (Passes (.calli (.reg 0)) s ∧ s.active.getLsbD 31 = true ∧
      (∀ k < 31, s.active.getLsbD k = true → ¬ ((s.src.lane k).hw + (s.src.lane k).spilled = 72) ∧ ¬ noCode (s.src.v64 k (.reg 0))) ∧
      (s.src.lane 31).hw + (s.src.lane 31).spilled = 72) :=
  ⟨⟨passes_sound (by decide), 31, by decide⟩, passes_sound (by decide), by decide, by unfold noCode; decide, by decide⟩

theorem witness_StackTraps_target : let s := at_ (depth 71 (aiming 0x1000000000000#64)) 1 1#32
    Passes (.calli (.reg 14)) s ∧ Passes (.jmpi (.reg 14)) s ∧ s.active.getLsbD 0 = true ∧
    ¬ ((s.src.lane 0).hw + (s.src.lane 0).spilled = 72) ∧ noCode (s.src.v64 0 (.reg 14)) :=
  ⟨passes_sound (by decide), passes_sound (by decide), by decide, by decide, by unfold noCode; decide⟩

theorem witness_StackTraps_empty : Passes .ret (at_ zeros 1 1#32) ∧ ∃ l < 32, (at_ zeros 1 1#32).active.getLsbD l = true ∧
    ((at_ zeros 1 1#32).src.lane l).hw + ((at_ zeros 1 1#32).src.lane l).spilled = 0 := ⟨passes_sound (by decide), 0, by decide⟩

/-- The same machine with a paddock load of the wave under way that meets lost data of its pen, while the wave is in its
handler: carrying it out ends the grid. -/
def dooming (s : State) : State :=
  { s with
    waves := tabMod s.waves 0 (fun w => { w with handler := true })
    iss := { s.iss with start := s.iss.start.map (fun w => { w with handler := true }) }
    wgs := tabMod s.wgs 1 (fun g => { g with penPoison := [0] })
    cores := [(0, { Core.init with paddock := [⟨5, 0, 0, 1, 4, false, false, [(0, 0, [])], none, true⟩] })] }

theorem witness_Reconvergence : Passes (.join 11) (at_ { zeros with m := List.replicate 12 1#32 } 1 3#32) ∧
    (Passes (.waitm 0) (at_ zeros 1 3#32) ∧ Stays (at_ zeros 1 3#32) (releasedAt (at_ zeros 1 3#32) 2)) ∧
    Passes (.waitm 0) (dooming (at_ zeros 1 3#32)) ∧ ¬ Stays (dooming (at_ zeros 1 3#32)) (releasedAt (dooming (at_ zeros 1 3#32)) 2) := by
  unfold Stays; exact ⟨passes_sound (by decide), ⟨passes_sound (by decide), by decide⟩, passes_sound (by decide), by decide +kernel⟩

/-- Lane 31 at GBAR. -/
def oneAtGbar : Wave := { zeros with lanes := zeros.lanes.modify 31 (fun x => { x with state := .gbar }) }

theorem witness_LeaveAndExit : Passes (.leave 11) (at_ zeros 1 1#32) ∧ (at_ zeros 1 1#32).iss.slotB = false ∧
    (Passes .exit (at_ zeros 1 0xFFFFFFFF#32) ∧ tabGet (at_ zeros 1 0xFFFFFFFF#32).waves 0 = some zeros ∧ zeros.wait = .none ∧
      ∀ l, ¬ (l < 32 ∧ (zeros.lane l).state.live = true ∧ (at_ zeros 1 0xFFFFFFFF#32).active.getLsbD l = false)) ∧
    (Passes .exit (at_ zeros 1 1#32) ∧ ∃ l, (l < 32 ∧ (zeros.lane l).state.live = true ∧ (at_ zeros 1 1#32).active.getLsbD l = false) ∧
      (zeros.lane l).state ≠ .gbar) ∧
    (Passes .exit (at_ oneAtGbar 1 0x7FFFFFFF#32) ∧ tabGet (at_ oneAtGbar 1 0x7FFFFFFF#32).waves 0 = some oneAtGbar ∧ oneAtGbar.wait = .none ∧
      (∃ l, l < 32 ∧ (oneAtGbar.lane l).state.live = true ∧ (at_ oneAtGbar 1 0x7FFFFFFF#32).active.getLsbD l = false) ∧
      ∀ l, (l < 32 ∧ (oneAtGbar.lane l).state.live = true ∧ (at_ oneAtGbar 1 0x7FFFFFFF#32).active.getLsbD l = false) →
        (oneAtGbar.lane l).state = .gbar) :=
  ⟨passes_sound (by decide), rfl, ⟨passes_sound (by decide), rfl, rfl,
      by intro l ⟨hl, h2, h3⟩; revert h2 h3; revert l; decide⟩, ⟨passes_sound (by decide), 31, by decide⟩,
    passes_sound (by decide), rfl, rfl, ⟨31, by decide⟩, by intro l ⟨hl, h2, h3⟩; revert h2 h3; revert l; decide⟩

theorem witness_TrapAndBrk : Passes (.trap 0x3FFF#14) (at_ zeros 1 1#32) ∧ Passes .brk (at_ zeros 1 1#32) :=
  ⟨passes_sound (by decide), passes_sound (by decide)⟩

theorem witness_WindowMoves : (Passes (.win 1#5) (at_ zeros 1 1#32) ∧ (0 : Int) ≤ 8 * (1#5).toNat ∧ (8 * (1#5).toNat : Int) < (at_ zeros 1 1#32).src.nregs) ∧
    (Passes (.win 2#5) (at_ zeros 1 1#32) ∧ ¬ (8 * (2#5).toNat : Int) < (at_ zeros 1 1#32).src.nregs) ∧
    (Passes (.winadd 0x7F#7) (at_ { zeros with wb := 8 } 1 1#32) ∧ (0 : Int) ≤ (8 : Nat) + 8 * (0x7F#7).toInt) ∧
    (Passes (.winadd 0x7F#7) (at_ zeros 1 1#32) ∧ ¬ (0 : Int) ≤ (0 : Nat) + 8 * (0x7F#7).toInt) :=
  ⟨⟨passes_sound (by decide), by decide⟩, ⟨passes_sound (by decide), by decide⟩, ⟨passes_sound (by decide), by decide⟩,
    passes_sound (by decide), by decide⟩

/-- An FDIV of the wave has not arrived. -/
def dividing (w : Wave) : Wave := { w with owed := [⟨1, .fdiv, .vec 0 1, 1#32, [], 0, 0#32, false, false, 0#32, 0#48⟩] }

theorem witness_SetmodeWrites : Passes (.setmodeFpmode (.reg 0)) (at_ zeros 1 1#32) ∧ Passes (.setmodeFpflags .zero) (at_ zeros 1 1#32) ∧
    (∀ o ∈ (at_ zeros 1 1#32).cur.owed, o.kind = .fdiv → o.arrived = true) ∧ Passes (.setmodeFpflags .zero) (at_ (dividing zeros) 1 1#32) ∧
    (∃ o ∈ (at_ (dividing zeros) 1 1#32).cur.owed, o.kind = .fdiv ∧ o.arrived = false) ∧ Passes (.setmodeOobflags (.reg 63)) (at_ zeros 1 1#32) ∧
    Passes (.setmodeDegencount (.lit 9#32)) (at_ zeros 2 1#32) :=
  ⟨passes_sound (by decide), passes_sound (by decide), by decide, passes_sound (by decide), ⟨_, List.mem_singleton.mpr rfl, rfl, rfl⟩,
    passes_sound (by decide), passes_sound (by decide)⟩

theorem witness_SleepAndWake : Passes .yield (at_ zeros 1 1#32) ∧ Passes .wake (at_ zeros 1 1#32) ∧
    (Passes (.sleept (.lit 1#32)) (at_ zeros 2 1#32) ∧ (at_ zeros 2 1#32).time.toNat < (at_ zeros 2 1#32).time.toNat + ((at_ zeros 2 1#32).src.u32 (.lit 1#32)).toNat) ∧
    (Passes (.sleept .zero) (at_ zeros 1 1#32) ∧ (at_ zeros 1 1#32).time.toNat + ((at_ zeros 1 1#32).src.u32 .zero).toNat ≤ (at_ zeros 1 1#32).time.toNat) ∧
    (Passes (.sleeptAbs (.lit 1#32)) (at_ zeros 2 1#32) ∧ (at_ zeros 2 1#32).time.toNat < ((at_ zeros 2 1#32).src.u64 (.lit 1#32)).toNat) ∧
    (Passes (.sleeptAbs .zero) (at_ zeros 1 1#32) ∧ ((at_ zeros 1 1#32).src.u64 .zero).toNat ≤ (at_ zeros 1 1#32).time.toNat) ∧
    ((at_ { zeros with wait := .sleept 0 } 1 1#32).wave 0).wait = .sleept 0 :=
  ⟨passes_sound (by decide), passes_sound (by decide), ⟨passes_sound (by decide), by decide⟩, ⟨passes_sound (by decide), by decide⟩,
    ⟨passes_sound (by decide), by decide⟩, ⟨passes_sound (by decide), by decide⟩, rfl⟩

/-- The grid as given. -/
def inGrid (f : Grid → Grid) (s : State) : State := { s with grids := tabMod s.grids 1 f }

theorem witness_GridBarrier : (let s := inGrid (fun g => { g with flags := 1 }) (at_ zeros 1 1#32)
      Passes .gbar s ∧ (s.grid s.curGrid).flags % 2 = 1 ∧ Stays s (releasedAt s 5)) ∧
    (let s := dooming (inGrid (fun g => { g with flags := 1 }) (at_ zeros 1 1#32));
      Passes .gbar s ∧ (s.grid s.curGrid).flags % 2 = 1 ∧ ¬ Stays s (releasedAt s 5)) ∧
    Passes .gbar (at_ zeros 1 1#32) ∧ ((at_ zeros 1 1#32).grid (at_ zeros 1 1#32).curGrid).flags % 2 ≠ 1 := by
  unfold Stays
  exact ⟨⟨passes_sound (by decide), by decide, by decide⟩, ⟨passes_sound (by decide), by decide, by decide +kernel⟩, passes_sound (by decide), by decide⟩


/-! ### The system instructions and traps -/

theorem witness_ChecksAtIssue : (Instr.add false (.reg 0) (.lit 1#32) (.lit 1#32)).wf = false ∧
    illegalNow (.finit 0 .zero) (at_ zeros 1 1#32) ∧
    (¬ illegalNow .rte (at_ zeros 1 1#32) ∧ Instr.rte.wf = true ∧ Instr.rte.privileged = true ∧ (at_ zeros 1 1#32).src.handler = false) ∧
    ((Instr.add true (.reg 16) .zero .zero).wf = true ∧ (Instr.add true (.reg 16) .zero .zero).privileged = false ∧
      ∃ n ∈ (Instr.add true (.reg 16) .zero .zero).named.vs, (at_ zeros 1 1#32).src.nregs ≤ (at_ zeros 1 1#32).src.wb + n) ∧
    ((∀ n ∈ (Instr.add true (.reg 15) .zero (.latch 3)).named.vs, ¬ (at_ zeros 1 1#32).src.nregs ≤ (at_ zeros 1 1#32).src.wb + n) ∧
      ∃ l < 32, (at_ zeros 1 0x80000000#32).active.getLsbD l = true ∧ ∃ k ∈ (Instr.add true (.reg 15) .zero (.latch 3)).named.ls,
        (((at_ zeros 1 0x80000000#32).src.lane l).latches.getD k Latch.blank).valid = false) :=
  ⟨by decide, by unfold illegalNow; decide, ⟨id, by decide⟩, ⟨by decide, by decide, 16, by decide⟩, by decide, 31, by decide⟩

theorem witness_ControlRegisters : (∃ x, Passes (.rdcr 63 15#7) (at_ zeros 1 1#32) ∧ crRule (at_ zeros 1 1#32) (15#7).toNat = some x) ∧
    (∃ x, Passes (.rdcr 63 91#7) (at_ (handling zeros) 1 1#32) ∧ crRule (at_ (handling zeros) 1 1#32) (91#7).toNat = some x) ∧
    (∃ x, Passes (.rdcr 0 5#7) (at_ (dividing zeros) 1 1#32) ∧ crRule (at_ (dividing zeros) 1 1#32) (5#7).toNat = some x ∧
      ∃ o ∈ (at_ (dividing zeros) 1 1#32).cur.owed, o.kind = .fdiv ∧ o.arrived = false) ∧
    Passes (.rdcrD 62 2#7) (at_ zeros 1 1#32) ∧
    (Passes (.wrcr (.lit 16#32) 86#7) (at_ (handling zeros) 2 1#32) ∧ ¬ illegalNow (.wrcr (.lit 16#32) 86#7) (at_ (handling zeros) 2 1#32) ∧
      (at_ (handling zeros) 2 1#32).cur.handler = true ∧ crTakes (86#7).toNat ((at_ (handling zeros) 2 1#32).src.u32 (.lit 16#32)).toNat) ∧
    (Passes (.wrcr (.lit 15#32) 86#7) (at_ (handling zeros) 2 1#32) ∧ ¬ illegalNow (.wrcr (.lit 15#32) 86#7) (at_ (handling zeros) 2 1#32) ∧
      ¬ crTakes (86#7).toNat ((at_ (handling zeros) 2 1#32).src.u32 (.lit 15#32)).toNat) :=
  ⟨⟨_, passes_sound (by decide), rfl⟩, ⟨_, passes_sound (by decide), rfl⟩,
    ⟨_, passes_sound (by decide), rfl, _, List.mem_singleton.mpr rfl, rfl, rfl⟩, passes_sound (by decide),
    ⟨passes_sound (by decide), by unfold illegalNow; decide, rfl, by unfold crTakes; decide⟩,
    passes_sound (by decide), by unfold illegalNow; decide, by unfold crTakes; decide⟩

/-- A handler whose workgroup has one fold and holds the array's lease with one entry queued. -/
def saving : State :=
  let s := at_ (handling zeros) 2 1#32
  { s with
    wgs := tabMod s.wgs 1 (fun g => { g with folds := [⟨true, 1, 0, List.replicate 8 0#32, 0, false, false, false, false⟩], lease := 1 })
    cores := [(0, { Core.init with array := { MatrixArray.init with
      lessee := some 1, queue := [⟨1, 0#32, 0#32, 0#32, 0#32, 0#128, 0, 0, 0, 1#32, 0#48, 0, 0⟩] } })] }

theorem witness_HiddenItems_read :
    (Passes (.rdst 63 (.lit 63#32) 3#7) saving ∧ ¬ illegalNow (.rdst 63 (.lit 63#32) 3#7) saving ∧ itemHas saving 3 (saving.src.u32 (.lit 63#32)).toNat ∧
      ∃ x, itemRule saving 3 (saving.src.u32 (.lit 63#32)).toNat = some x) ∧
    (Passes (.rdst 0 (.lit 67#32) 9#7) saving ∧ ¬ illegalNow (.rdst 0 (.lit 67#32) 9#7) saving ∧ itemHas saving 9 (saving.src.u32 (.lit 67#32)).toNat ∧
      itemRule saving 9 (saving.src.u32 (.lit 67#32)).toNat = none) ∧
    (Passes (.rdst 0 (.lit 64#32) 3#7) saving ∧ ¬ illegalNow (.rdst 0 (.lit 64#32) 3#7) saving ∧ ¬ itemHas saving 3 (saving.src.u32 (.lit 64#32)).toNat) :=
  ⟨⟨passes_sound (by decide), by unfold illegalNow; decide, by unfold itemHas; decide, _, rfl⟩,
    ⟨passes_sound (by decide), by unfold illegalNow; decide, by unfold itemHas; decide, rfl⟩,
    passes_sound (by decide), by unfold illegalNow; decide, by unfold itemHas; decide⟩

theorem witness_HiddenItems_write :
    (∀ p ∈ ([(0#7, 31), (3#7, 63), (4#7, 7), (4#7, 1), (6#7, 3), (7#7, 511), (8#7, 0), (8#7, 8), (8#7, 9), (9#7, 0), (9#7, 1), (9#7, 2), (9#7, 3),
      (9#7, 4), (9#7, 67)] : List (BitVec 7 × Nat)), passes (.wrst .zero (.lit (BitVec.ofNat 32 p.2)) p.1) saving = true ∧
        itemHas saving p.1.toNat (saving.src.u32 (.lit (BitVec.ofNat 32 p.2))).toNat) ∧
    (∀ p ∈ ([(0#7, 32), (4#7, 8), (7#7, 512), (8#7, 10), (8#7, 16), (9#7, 68)] : List (BitVec 7 × Nat)),
      passes (.wrst .zero (.lit (BitVec.ofNat 32 p.2)) p.1) saving = true ∧
        ¬ itemHas saving p.1.toNat (saving.src.u32 (.lit (BitVec.ofNat 32 p.2))).toNat) ∧
    ¬ illegalNow (.wrst .zero .zero 9#7) saving ∧ (saving.core saving.curCore).array.queue.length ≤ 8 :=
  ⟨by unfold itemHas; decide, by unfold itemHas; decide, by unfold illegalNow; decide, by decide⟩

/-- An address LAUNCH accepts in every pair; the same off its alignment. -/
def launching : State := at_ (aiming 0xFFFFFFFFFF00#64) 1 0x80000001#32
def misaimed : State := at_ (aiming 0x80#64) 1 0x80000001#32

theorem witness_Launches_goes : Passes (.launch 14 0) launching ∧
    (∀ l < 32, ¬ (launching.active.getLsbD l = true ∧
      ((launching.src.v64 l (.reg 0)).extractLsb' 48 16 ≠ 0#16 ∨ (launching.src.v64 l (.reg 0)).extractLsb' 0 8 ≠ 0#8))) ∧
    ¬ ((launching.grid launching.curGrid).depth = 10 ∧ (launching.grid launching.curGrid).flags.testBit 4 = true) ∧
    (let u := releasedAt (launching.modDrove (launching.wg launching.curWg).drove (fun d => { d with replayable := false })) 5
     Stays launching u ∧ u.releaseWaits u.curWg .device = false) := by
  unfold Stays; exact ⟨passes_sound (by decide), by decide, by decide, by decide⟩

/-- The workgroup has an entry in the side log of its core. -/
def sideLogged (s : State) : State := { s with cores := [(0, { Core.init with sideLog := [⟨0, 0, 1, 0, 1#32, [], none, false, 0#48, 0⟩] })] }
/-- A grid at depth 10 with DEPTHTRAP. -/
def deep (s : State) : State := inGrid (fun g => { g with depth := 10, flags := 16 }) s

theorem witness_Launches_stops : (let s := sideLogged launching
      let u := releasedAt (s.modDrove (s.wg s.curWg).drove (fun d => { d with replayable := false })) 5
      Passes (.launch 14 0) s ∧ Stays s u ∧ u.releaseWaits u.curWg .device = true) ∧
    (let s := dooming launching;
      Passes (.launch 14 0) s ∧ ¬ Stays s (releasedAt (s.modDrove (s.wg s.curWg).drove (fun d => { d with replayable := false })) 5)) ∧
    (Passes (.launch 14 0) misaimed ∧ ∃ l < 32, misaimed.active.getLsbD l = true ∧
      ((misaimed.src.v64 l (.reg 0)).extractLsb' 48 16 ≠ 0#16 ∨ (misaimed.src.v64 l (.reg 0)).extractLsb' 0 8 ≠ 0#8)) ∧
    (Passes (.launch 14 0) (deep launching) ∧
      ((deep launching).grid (deep launching).curGrid).depth = 10 ∧ ((deep launching).grid (deep launching).curGrid).flags.testBit 4 = true) := by
  unfold Stays
  exact ⟨⟨passes_sound (by decide), by decide, by decide⟩, ⟨passes_sound (by decide), by decide +kernel⟩, ⟨passes_sound (by decide), 31, by decide⟩,
    passes_sound (by decide), by decide⟩

/-- A wave with its sixteen records; one with a trap noted, one with a cause due, one to be pre-empted. -/
def full : Wave := { zeros with q := List.replicate 16 0#128 }
def someTrap : TrapReq := ⟨0xFF, 0xFFFFFFFF#32, 1#32, 0x10000#48, 0x10004#48, 0#48, false, false, false, false⟩
def noHandler (s : State) : State := { s with ctxs := [(0, Context.blank)] }

theorem witness_TrapEntry_raised : (let s := at_ full 1 1#32;
      tabGet s.waves s.iss.key = some full ∧ full.handler = false ∧ someTrap.cause < 256 ∧ (∀ o ∈ full.owed, o.arrived = true) ∧
      (s.ctx (s.waveCtx s.iss.key)).trapvec ≠ 0#48 ∧ 15 < full.q.length ∧ (s.wg full.wg).saveBase = 0 ∧
      (s.ctx (s.waveCtx s.iss.key)).areasize < 2 ^ 34) ∧
    (let s := at_ (dividing full) 1 1#32;
      tabGet s.waves s.iss.key = some (dividing full) ∧ (dividing full).handler = false ∧ ∃ o ∈ (dividing full).owed, o.arrived = false) ∧
    (let s := noHandler (at_ full 1 1#32);
      tabGet s.waves s.iss.key = some full ∧ (s.ctx (s.waveCtx s.iss.key)).trapvec = 0#48) ∧
    (at_ (handling full) 1 1#32).cur.handler = true :=
  ⟨⟨rfl, rfl, by decide, by decide, by decide, by decide, by decide, by decide⟩, ⟨rfl, rfl, _, List.mem_singleton.mpr rfl, rfl⟩,
    ⟨rfl, by decide⟩, rfl⟩

theorem witness_TrapEntry_taken : (let w := { full with pend := some someTrap };
      tabGet (at_ w 1 1#32).waves 0 = some w ∧ (∀ o ∈ w.owed, o.arrived = true) ∧ ((at_ w 1 1#32).ctx ((at_ w 1 1#32).waveCtx 0)).trapvec ≠ 0#48 ∧
      w.pend = some someTrap ∧ someTrap.cause < 256) ∧
    (let w := { full with causes := [someTrap] };
      tabGet (at_ w 1 1#32).waves 0 = some w ∧ (∀ o ∈ w.owed, o.arrived = true) ∧ w.pend = none ∧ w.handler = false ∧ w.causes = [someTrap]) ∧
    (let w := { full with preempt := some 1 };
      tabGet (at_ w 1 1#32).waves 0 = some w ∧ (∀ o ∈ w.owed, o.arrived = true) ∧ w.pend = none ∧ w.handler = false ∧ w.causes = [] ∧
      w.preempt = some 1 ∧ w.deferredTrap = none ∧ (at_ w 1 1#32).drained ((at_ w 1 1#32).wg w.wg).drove = true) :=
  ⟨⟨rfl, by decide, by decide, rfl, by decide⟩, ⟨rfl, by decide, rfl, rfl, rfl⟩, rfl, by decide, rfl, rfl, rfl, rfl, by decide, by decide⟩

theorem witness_TrapEntry_holds : let w := { full with causes := [someTrap] }
    let s := at_ w 1 1#32
    (∀ k ∈ s.wakes, k.waiter ≠ .wave 0) ∧ (∃ l < 32, someTrap.lanes.getLsbD l = true ∧ (w.lane l).state.live = true) ∧
    ∀ l < 32, someTrap.lanes.getLsbD l = true → (w.lane l).state.live = true → (w.lane l).pc = (w.lane 0).pc := by decide

/-- A handler's wave whose items send lane 0 back ready and the others exited, entered for `cause` with RESTORE as given. -/
def entered (cause : Nat) (restore : Bool) (wb wait : Word) : Wave :=
  { handling full with
    trap := (BitVec.ofNat 512 cause) ||| (if restore then 0x100#512 else 0#512)
    hidden := { Hidden.blank with
      lstate := 1#32 :: List.replicate 31 5#32
      wave := [wb, 0#32, 0#32, 0#32, 0#32, 0#32, 0#32, wait] } }

/-- Two waves of the drove, the second of which has not, or has, reached its RTE; the drove is restoring. -/
def restoring (ready : Bool) : State :=
  let s := at_ (entered 0x11 true 8#32 0#32) 1 0xFFFFFFFF#32
  { s with
    waves := s.waves ++ [(16, { entered 0x11 true 8#32 0#32 with index := 1, rteReady := ready })]
    droves := tabMod s.droves 1 (fun d => { d with phase := .restoring }) }

theorem witness_TrapReturn_save : let w := entered 0x11 false 0#32 0#32
    let s := at_ w 1 0xFFFFFFFF#32
    Passes .rte s ∧ tabGet s.waves s.iss.key = some w ∧ tabRising s.waves = true ∧ (w.trap.extractLsb' 0 8).toNat = 0x11 ∧ w.trap.getLsbD 8 = false ∧
    (tabGet (s.padAll w.wg).wgs w.wg).isSome = true :=
  ⟨passes_sound (by decide +kernel), rfl, by decide +kernel, by decide +kernel, by decide +kernel, by decide +kernel⟩

theorem witness_TrapReturn_forbidden : let w := entered 0x0E false 16#32 0#32
    let s := at_ w 1 0xFFFFFFFF#32
    Passes .rte s ∧ tabGet s.waves s.iss.key = some w ∧ tabRising s.waves = true ∧ ¬ (w.trap.extractLsb' 0 8).toNat = 0x11 ∧ returnForbidden s w :=
  ⟨passes_sound (by decide +kernel), rfl, by decide +kernel, by decide +kernel, Or.inl (by decide +kernel)⟩

theorem witness_TrapReturn_ordinary : let w := entered 0x0E false 8#32 0#32
    let s := at_ w 1 0xFFFFFFFF#32
    Passes .rte s ∧ tabGet s.waves s.iss.key = some w ∧ tabRising s.waves = true ∧ ¬ (w.trap.extractLsb' 0 8).toNat = 0x11 ∧ ¬ w.trap.getLsbD 8 = true ∧
      ¬ returnForbidden s w ∧ ((w.hidden.wave.getD 7 0#32).extractLsb' 0 4) = 0#4 ∧
      ∃ l < 32, (w.lane l).state.live = true ∧ 1 ≤ ((w.hidden.lstate.getD l 0#32).extractLsb' 0 3).toNat ∧
        ((w.hidden.lstate.getD l 0#32).extractLsb' 0 3).toNat ≤ 3 :=
  ⟨passes_sound (by decide +kernel), rfl, by decide +kernel, by decide +kernel, by decide +kernel, by unfold returnForbidden laneForbidden waitForbidden; decide +kernel, by decide +kernel, 0, by decide +kernel⟩

theorem witness_TrapReturn_restore : let w := entered 0x11 true 8#32 0#32
    (w.trap.getLsbD 8 = true ∧ ¬ returnForbidden (restoring false) w ∧ ¬ returnForbidden (restoring true) w) ∧
    (Passes .rte (restoring false) ∧ tabGet (restoring false).waves (restoring false).iss.key = some w ∧ tabRising (restoring false).waves = true ∧
      ∃ x ∈ (restoring false).waves, x.1 ≠ (restoring false).iss.key ∧
        ((restoring false).wg x.2.wg).drove = ((restoring false).wg w.wg).drove ∧ x.2.rteReady = false) ∧
    (Passes .rte (restoring true) ∧ (tabGet (restoring true).droves ((restoring true).wg w.wg).drove).map Drove.phase = some .restoring ∧
      ∀ x ∈ (restoring true).waves, x.1 ≠ (restoring true).iss.key →
        ((restoring true).wg x.2.wg).drove = ((restoring true).wg w.wg).drove → x.2.rteReady = true) :=
  ⟨⟨by decide +kernel, by unfold returnForbidden laneForbidden waitForbidden; decide +kernel,
    by unfold returnForbidden laneForbidden waitForbidden; decide +kernel⟩, ⟨passes_sound (by decide +kernel), rfl, by decide +kernel, (16, _),
    List.mem_cons_of_mem _ (List.mem_singleton.mpr rfl), by decide +kernel, rfl, rfl⟩, passes_sound (by decide +kernel), by decide +kernel, by decide +kernel⟩


/-! ### Memory -/

def okPage (t : Trans) : Bool :=
  match t with
  | .ok _ _ _ => true
  | .absent | .denied | .malformed _ => false

def fitsB (a : Access) (s : State) : Bool :=
  (!a.store || !(a.record s).rdonly) && (!(a.record s).oob || a.es.all Elem.inb) && a.es.all (fun e => !uneven a.w e && !beyond a.w e)
def mappedB (a : Access) (s : State) : Bool :=
  a.es.all (fun e => !e.inb || (okPage (a.page s e) && !s.sideWaits s.curCore s.curWg s.curCtx e.a))
def soundB (a : Access) (s : State) : Bool := a.es.all (fun e => !e.inb || !s.poisonedRead s.curCore s.curWg (a.page s e).pa a.w)
def storedB (a : Access) (s : State) : Bool :=
  a.es.all (fun e => !e.inb || (okPage (a.page s e) && !s.sideWaits s.curCore s.curWg s.curCtx e.a) ||
    (decide (a.page s e = .absent) && s.servable s.curCtx e.a)) &&
  decide ((s.core s.curCore).sideLog.length + ((a.es.filter (fun e => e.inb && (a.page s e).isAbsent)).map (fun e => lineOf e.a)).eraseDups.length ≤ 256)

theorem okPage_sound {t : Trans} (h : okPage t = true) : ∃ pa leaf x, t = .ok pa leaf x := by
  cases t <;> simp_all [okPage]

theorem fitsB_sound {a : Access} {s : State} (h : fitsB a s = true) : a.Fits s := by
  simp only [fitsB, Bool.and_eq_true, Bool.or_eq_true, Bool.not_eq_true', List.all_eq_true] at h
  exact ⟨fun k => h.1.1.resolve_left (by simp [k]), fun k => h.1.2.resolve_left (by simp [k]), fun e he => (h.2 e he).1, fun e he => (h.2 e he).2⟩

theorem mappedB_sound {a : Access} {s : State} (h : mappedB a s = true) : a.Mapped s := by
  simp only [mappedB, Bool.and_eq_true, Bool.or_eq_true, Bool.not_eq_true', List.all_eq_true] at h
  exact ⟨fun e he hi => okPage_sound ((h e he).resolve_left (by simp [hi])).1, fun e he hi => ((h e he).resolve_left (by simp [hi])).2⟩

theorem soundB_sound {a : Access} {s : State} (h : soundB a s = true) : a.Sound s := by
  simp only [soundB, Bool.or_eq_true, Bool.not_eq_true', List.all_eq_true] at h
  exact fun e he hi => (h e he).resolve_left (by simp [hi])

theorem storedB_sound {a : Access} {s : State} (h : storedB a s = true) : a.Stored s := by
  simp only [storedB, Bool.and_eq_true, Bool.or_eq_true, Bool.not_eq_true', List.all_eq_true, decide_eq_true_eq] at h
  refine ⟨fun e he hi => ?_, fun e he hi hn => ?_, h.2⟩
  · rcases h.1 e he with (k | k) | k
    · simp [hi] at k
    · exact .inl (okPage_sound k.1)
    · exact .inr k
  · rcases h.1 e he with (k | k) | k
    · simp [hi] at k
    · exact k.2
    · exact absurd k.1 hn

/-- What an access through a record is, with a check of it. -/
def accOk (i : Instr) (s : State) (p : Access → Bool) : Bool :=
  match accessRule i s with
  | some a => p a
  | none => false
theorem accOk_sound {i : Instr} {s : State} {p : Access → Bool} (h : accOk i s p = true) : ∃ a, accessRule i s = some a ∧ p a = true := by
  unfold accOk at h
  split at h
  · exact ⟨_, ‹_›, h⟩
  · cases h

/-- A record: base, stride, extent, OOBMODE, RDONLY. -/
def recordOf (base stride extent oob rdonly : Nat) : BitVec 128 :=
  BitVec.ofNat 128 (base + stride * 2 ^ 48 + extent * 2 ^ 68 + oob * 2 ^ 104 + rdonly * 2 ^ 105)

/-- Two lanes about to issue, v0 the lane, v1 31, s0 to s15 zero, s20 to s35 1, s62:s63 and s8 to s11 naming 0x20010; q0 and q1 of
64 words at 0x20000 (q1 with OOBMODE 1), q2 read-only, q3 at the end of the space, q4 in an absent page, q5 in a page that may not
be written, q6 in an absent page with a pager, q7 misaligned. VA 0x20000 lies at 0x400000, 0x30000 at 0x410000. -/
def stocked : State :=
  let w := { waveOf (fun l n => if n = 0 then BitVec.ofNat 32 l else if n = 1 then 31#32 else if n = 2 then 64#32 else 0#32) with
    s := (List.range 64).map (fun n => if n = 62 then 0x20010#32 else 0#32)
    q := [recordOf 0x20000 4 64 0 0, recordOf 0x20000 4 64 1 0, recordOf 0x20000 4 64 0 1, recordOf 0xFFFFFFFFFFF8 8 64 0 0,
      recordOf 0x40000 4 64 0 0, recordOf 0x30000 4 64 0 0, recordOf 0x50000 4 64 0 0, recordOf 0x20002 4 64 0 0] }
  let s := at_ w 2 0x80000001#32
  { s with
    mem := (s.mem.setBytes 0x10A020 (bytesOfNat 16 (11 + 0x400000 * 2 ^ 64))).setBytes 0x10A030 (bytesOfNat 16 (9 + 0x410000 * 2 ^ 64))
    ctxs := tabMod s.ctxs 0 (fun c => { c with commonsSize := 64, regions := [⟨0x50000, 0x60000, 0, 0, 0, 4, 0, 0x70000, 0x80000, false⟩] })
    wgs := tabMod s.wgs 1 (fun g => { g with penBytes := 1024 }) }

theorem witness_AccessChecks_rights : ∃ a, accessRule (.st 2 .w4 (.short .normal) .zero (.reg 0)) stocked = some a ∧
    Passes (.st 2 .w4 (.short .normal) .zero (.reg 0)) stocked ∧ ¬ illegalNow (.st 2 .w4 (.short .normal) .zero (.reg 0)) stocked ∧
    a.store = true ∧ (a.record stocked).rdonly = true := by
  obtain ⟨a, h, k⟩ := accOk_sound (i := .st 2 .w4 (.short .normal) .zero (.reg 0)) (s := stocked)
    (p := fun a => a.store && (a.record stocked).rdonly) (by decide +kernel)
  exact ⟨a, h, passes_sound (by decide +kernel), by unfold illegalNow badRecord; decide +kernel, by simpa using k⟩

theorem witness_AccessChecks_bounds : ∃ a, accessRule (.ld 1 .w4 (.short .normal) (.reg 4) (.reg 2)) stocked = some a ∧
    Passes (.ld 1 .w4 (.short .normal) (.reg 4) (.reg 2)) stocked ∧ ¬ illegalNow (.ld 1 .w4 (.short .normal) (.reg 4) (.reg 2)) stocked ∧
    (a.record stocked).oob = true ∧ ∃ e ∈ a.es, outside e = true := by
  obtain ⟨a, h, k⟩ := accOk_sound (i := .ld 1 .w4 (.short .normal) (.reg 4) (.reg 2)) (s := stocked)
    (p := fun a => (a.record stocked).oob && a.es.any outside) (by decide +kernel)
  exact ⟨a, h, passes_sound (by decide +kernel), by unfold illegalNow badRecord; decide +kernel, by simpa using k⟩

theorem witness_AccessChecks_aligned : ∃ a, accessRule (.ldu 7 .w4 (.short .normal) 0 .zero) stocked = some a ∧
    Passes (.ldu 7 .w4 (.short .normal) 0 .zero) stocked ∧ ¬ illegalNow (.ldu 7 .w4 (.short .normal) 0 .zero) stocked ∧
    (a.record stocked).oob = false ∧ ∃ e ∈ a.es, uneven a.w e = true := by
  obtain ⟨a, h, k⟩ := accOk_sound (i := .ldu 7 .w4 (.short .normal) 0 .zero) (s := stocked)
    (p := fun a => !(a.record stocked).oob && a.es.any (uneven a.w)) (by decide +kernel)
  exact ⟨a, h, passes_sound (by decide +kernel), by unfold illegalNow badRecord; decide +kernel, by simpa using k⟩

theorem witness_AccessChecks_beyond : ∃ a, accessRule (.atom 3 ⟨.add64, .rlx, .device, .normal, 0#16⟩ 4 (.lit 1#32)) stocked = some a ∧
    Passes (.atom 3 ⟨.add64, .rlx, .device, .normal, 0#16⟩ 4 (.lit 1#32)) stocked ∧
    (∀ e ∈ a.es, uneven a.w e = false) ∧ ∃ e ∈ a.es, beyond a.w e = true := by
  obtain ⟨a, h, k⟩ := accOk_sound (i := .atom 3 ⟨.add64, .rlx, .device, .normal, 0#16⟩ 4 (.lit 1#32)) (s := stocked)
    (p := fun a => a.es.all (fun e => !uneven a.w e) && a.es.any (beyond a.w)) (by decide +kernel)
  exact ⟨a, h, passes_sound (by decide +kernel), by simpa using k⟩

theorem witness_AccessChecks_refused : (∃ a, accessRule (.ld 4 .w4 (.short .normal) (.reg 4) (.reg 0)) stocked = some a ∧ a.Fits stocked ∧
      (∃ e ∈ a.es, e.inb = true ∧ a.page stocked e = .absent ∧ stocked.servable stocked.curCtx e.a = false) ∧
      Passes (.ld 4 .w4 (.short .normal) (.reg 4) (.reg 0)) stocked) ∧
    (∃ a, accessRule (.red 5 ⟨.add, .rlx, .device, .normal, 0#16⟩ .zero (.reg 0)) stocked = some a ∧ a.Fits stocked ∧
      (∃ e ∈ a.es, e.inb = true ∧ a.page stocked e = .denied) ∧
      Passes (.red 5 ⟨.add, .rlx, .device, .normal, 0#16⟩ .zero (.reg 0)) stocked) := by
  obtain ⟨a, h, k⟩ := accOk_sound (i := .ld 4 .w4 (.short .normal) (.reg 4) (.reg 0)) (s := stocked)
    (p := fun a => fitsB a stocked && a.es.any (fun e => decide (e.inb = true ∧ a.page stocked e = .absent ∧
      stocked.servable stocked.curCtx e.a = false))) (by decide +kernel)
  obtain ⟨b, g, j⟩ := accOk_sound (i := .red 5 ⟨.add, .rlx, .device, .normal, 0#16⟩ .zero (.reg 0)) (s := stocked)
    (p := fun a => fitsB a stocked && a.es.any (fun e => decide (e.inb = true ∧ a.page stocked e = .denied))) (by decide +kernel)
  simp only [Bool.and_eq_true, List.any_eq_true, decide_eq_true_eq] at k j
  exact ⟨⟨a, h, fitsB_sound k.1, k.2, passes_sound (by decide +kernel)⟩, b, g, fitsB_sound j.1, j.2, passes_sound (by decide +kernel)⟩

/-- The same machine with other records. -/
def withRecords (q : List (BitVec 128)) (s : State) : State :=
  { s with
    waves := tabMod s.waves 0 (fun w => { w with q := q })
    iss := { s.iss with start := s.iss.start.map (fun w => { w with q := q }) } }

/-- Lane 31 alone, with pages at 0x60000 and 0x70000 of FP16, 0x80000 of FP32, 0x90000 and 0xA0000 of grouped INT8 whose scale
page is the raw page 0xB0000, and 0xC0000 malformed. q0 lies in the raw page; the record of q1 begins with the last element of
0x60000, that of q2 of 0x70000, that of q3 of 0x90000; q4 holds nothing, q5 is a texture of 2 by 2 in the raw page, q6 one of no
size, q7 lies in the malformed page. -/
def formatted : State :=
  let s := withRecords [recordOf 0xB0000 4 64 0 0, recordOf 0x6FFFE 2 64 0 0, recordOf 0x7FFFE 2 64 0 0, recordOf 0x9FFFF 1 64 0 0, 0#128,
    recordOf (0xB0000 + 2 ^ 100) 4 0x20002 0 0, recordOf (0xB0000 + 2 ^ 100) 4 0 0 0, recordOf 0xC0000 4 64 0 0] stocked
  let grouped := 9 + 0x600 + 0x800 + 0xB * 2 ^ 32
  let leaves := [(0x10A060, 9 + 0x200 + 0x420000 * 2 ^ 64), (0x10A070, 9 + 0x200 + 0x430000 * 2 ^ 64), (0x10A080, 9 + 0x100 + 0x440000 * 2 ^ 64),
    (0x10A090, grouped + 0x450000 * 2 ^ 64), (0x10A0A0, grouped + 0x460000 * 2 ^ 64), (0x10A0B0, 9 + 0x470000 * 2 ^ 64),
    (0x10A0C0, 0x19 + 0x480000 * 2 ^ 64)]
  { s with
    mem := leaves.foldl (fun m e => m.setBytes e.1 (bytesOfNat 16 e.2)) s.mem
    iss := { s.iss with lanes := 0x80000000#32 } }

theorem witness_AccessChecks_malformed : ∃ a, accessRule (.ld 7 .w4 (.short .normal) (.reg 4) (.reg 0)) formatted = some a ∧ a.Fits formatted ∧
    (∃ e ∈ a.es, e.inb = true ∧ (a.page formatted e).isBad = true) ∧ Passes (.ld 7 .w4 (.short .normal) (.reg 4) (.reg 0)) formatted := by
  obtain ⟨a, h, k⟩ := accOk_sound (i := .ld 7 .w4 (.short .normal) (.reg 4) (.reg 0)) (s := formatted)
    (p := fun a => fitsB a formatted && a.es.any (fun e => decide (e.inb = true ∧ (a.page formatted e).isBad = true))) (by decide +kernel)
  simp only [Bool.and_eq_true, List.any_eq_true, decide_eq_true_eq] at k
  exact ⟨a, h, fitsB_sound k.1, k.2, passes_sound (by decide +kernel)⟩

theorem witness_AccessChecks_waits : ∃ a, accessRule (.ldacq 6 .w4 ⟨.device, .normal, false, 0#24⟩ (.reg 4) (.reg 0)) stocked = some a ∧
    Passes (.ldacq 6 .w4 ⟨.device, .normal, false, 0#24⟩ (.reg 4) (.reg 0)) stocked ∧ a.Fits stocked ∧
    (∀ e ∈ a.es, a.page stocked e = .absent ∧ stocked.servable stocked.curCtx e.a = true) ∧
    (∃ e ∈ a.es, e.inb = true ∧ (a.page stocked e).isAbsent = true) ∧ a.store = false := by
  obtain ⟨a, h, k⟩ := accOk_sound (i := .ldacq 6 .w4 ⟨.device, .normal, false, 0#24⟩ (.reg 4) (.reg 0)) (s := stocked)
    (p := fun a => fitsB a stocked && a.es.all (fun e => decide (a.page stocked e = .absent ∧ stocked.servable stocked.curCtx e.a = true)) &&
      a.es.any (fun e => e.inb && (a.page stocked e).isAbsent) && !a.store) (by decide +kernel)
  simp only [Bool.and_eq_true, List.any_eq_true, List.all_eq_true, decide_eq_true_eq, Bool.not_eq_true'] at k
  exact ⟨a, h, passes_sound (by decide +kernel), fitsB_sound k.1.1.1, k.1.1.2, k.1.2, k.2⟩

theorem witness_AccessChecks_offsets :
    (∃ w es, offsetRule (.stp .w4 .zero (.lit 1021#32) 0#7) stocked = some (w, es) ∧ Passes (.stp .w4 .zero (.lit 1021#32) 0#7) stocked ∧
      ∃ e ∈ es, e.inb = false) ∧
    (∃ w es, offsetRule (.ldc .w4 (.reg 4) (.lit 58#32) 0#7) stocked = some (w, es) ∧ Passes (.ldc .w4 (.reg 4) (.lit 58#32) 0#7) stocked ∧
      (∀ e ∈ es, e.inb = true) ∧ ∃ e ∈ es, e.va % (w : Int) ≠ 0) :=
  ⟨⟨_, _, rfl, passes_sound (by decide +kernel), by decide +kernel⟩, _, _, rfl, passes_sound (by decide +kernel), by decide +kernel, by decide +kernel⟩

/-- A load, a store, an atomic and a WAITU of the last words of a record; elements 63 and 0. -/
theorem witness_RecordLoads : ∀ i ∈ ([.ld 0 .w4 (.short .normal) (.reg 15) (.reg 0), .ldro 0 .u1 (.short .keep) .discard (.reg 1),
      .ldacq 1 .w2 ⟨.system, .normal, false, 0#24⟩ (.reg 15) (.reg 0), .ldu 1 .w4 (.ext ⟨.normal, true, 0#24⟩) 63 .zero] : List Instr),
    ∃ a, accessRule i stocked = some a ∧ Passes i stocked ∧ a.Fits stocked ∧ a.Mapped stocked ∧ a.Sound stocked := by
  intro i hi
  have key : ∀ i ∈ ([.ld 0 .w4 (.short .normal) (.reg 15) (.reg 0), .ldro 0 .u1 (.short .keep) .discard (.reg 1),
      .ldacq 1 .w2 ⟨.system, .normal, false, 0#24⟩ (.reg 15) (.reg 0), .ldu 1 .w4 (.ext ⟨.normal, true, 0#24⟩) 63 .zero] : List Instr),
      accOk i stocked (fun a => fitsB a stocked && mappedB a stocked && soundB a stocked) = true ∧ passes i stocked = true := by decide +kernel
  obtain ⟨a, h, k⟩ := accOk_sound (key i hi).1
  simp only [Bool.and_eq_true] at k
  exact ⟨a, h, passes_sound (key i hi).2, fitsB_sound k.1.1, mappedB_sound k.1.2, soundB_sound k.2⟩

/-- SAMPLE of a texture, and of one of no size. -/
theorem witness_RecordLoads_sample : ∀ i ∈ ([.sample 5 .un8x4 (.short .normal) 8 4, .sample 6 .f16x2 (.short .normal) 8 4] : List Instr),
    ∃ a, accessRule i formatted = some a ∧ Passes i formatted ∧ a.Fits formatted ∧ a.Mapped formatted ∧ a.Sound formatted := by
  intro i hi
  have key : ∀ i ∈ ([.sample 5 .un8x4 (.short .normal) 8 4, .sample 6 .f16x2 (.short .normal) 8 4] : List Instr),
      accOk i formatted (fun a => fitsB a formatted && mappedB a formatted && soundB a formatted) = true ∧ passes i formatted = true := by
    decide +kernel
  obtain ⟨a, h, k⟩ := accOk_sound (key i hi).1
  simp only [Bool.and_eq_true] at k
  exact ⟨a, h, passes_sound (key i hi).2, fitsB_sound k.1.1, mappedB_sound k.1.2, soundB_sound k.2⟩

/-- The leaf an LDF's record begins at, with what the rest of its statement asks of it. -/
def formatOk (s : State) (q : QReg) (p : Trans → Nat → Nat → TlbEntry → Bool) : Bool :=
  match s.translate s.curCore s.curCtx (Rec.ofBits (s.src.qreg q.val)).base .read with
  | .ok pa leaf page => p (.ok pa leaf page) pa leaf page
  | _ => false
theorem formatOk_sound {s : State} {q : QReg} {p : Trans → Nat → Nat → TlbEntry → Bool} (h : formatOk s q p = true) :
    ∃ pa leaf page, s.translate s.curCore s.curCtx (Rec.ofBits (s.src.qreg q.val)).base .read = .ok pa leaf page ∧
      p (.ok pa leaf page) pa leaf page = true := by
  unfold formatOk at h
  split at h
  · exact ⟨_, _, _, ‹_›, h⟩
  · cases h

/-- The state an LDF has looked at BASE's page in. -/
noncomputable def formatSeen (s : State) (base : Trans) : State := s.touchAll s.curCore false [base]

theorem witness_RecordLoads_format : (∀ q ∈ ([0, 1, 2, 3, 4] : List QReg), passes (.ldf q (.short .normal) (.reg 5) (.reg 0)) formatted = true ∧
      ¬ illegalNow (.ldf q (.short .normal) (.reg 5) (.reg 0)) formatted) ∧
    (∃ pa leaf page, formatted.translate formatted.curCore formatted.curCtx (Rec.ofBits (formatted.src.qreg 0)).base .read = .ok pa leaf page ∧
      formatBits leaf = 0) ∧
    (∃ pa leaf page, formatted.translate formatted.curCore formatted.curCtx (Rec.ofBits (formatted.src.qreg 2)).base .read = .ok pa leaf page ∧
      formatBits leaf ≠ 0 ∧ let v := formatSeen formatted (.ok pa leaf page); let a := formatAccess v 2 (.reg 0) (formatBits leaf)
      a.Fits v ∧ a.Mapped v ∧ a.Sound v ∧ ∃ y ∈ a.reached v, formatBits y.2.leaf ≠ formatBits leaf) := by
  obtain ⟨_, _, _, h, k⟩ := formatOk_sound (s := formatted) (q := 0) (p := fun _ _ leaf _ => decide (formatBits leaf = 0)) (by decide +kernel)
  obtain ⟨_, leaf, _, g, j⟩ := formatOk_sound (s := formatted) (q := 2) (p := fun base _ leaf _ =>
    let v := formatSeen formatted base; let a := formatAccess v 2 (.reg 0) (formatBits leaf)
    decide (formatBits leaf ≠ 0) && fitsB a v && mappedB a v && soundB a v && (a.reached v).any (fun y => decide (formatBits y.2.leaf ≠ formatBits leaf)))
    (by decide +kernel)
  simp only [Bool.and_eq_true, List.any_eq_true, decide_eq_true_eq] at k j
  exact ⟨by unfold illegalNow badRecord; decide +kernel, ⟨_, _, _, h, k⟩, _, leaf, _, g, j.1.1.1.1, fitsB_sound j.1.1.1.2, mappedB_sound j.1.1.2,
    soundB_sound j.1.2, j.2⟩

theorem witness_RecordLoads_values : ∀ q ∈ ([1, 3] : List QReg), ∃ pa leaf page,
    formatted.translate formatted.curCore formatted.curCtx (Rec.ofBits (formatted.src.qreg q.val)).base .read = .ok pa leaf page ∧
    formatBits leaf ≠ 0 ∧ let v := formatSeen formatted (.ok pa leaf page); let a := formatAccess v q (.reg 0) (formatBits leaf)
    a.Fits v ∧ a.Mapped v ∧ a.Sound v ∧ ∀ y ∈ a.reached v, formatBits y.2.leaf = formatBits leaf ∧ (isGrouped y.2.leaf = true →
      ∃ sa sl sp, v.translate v.curCore v.curCtx (scaleVaOf y (formatBit v (.reg 0) (formatBits leaf) y.1.lane)) .read = .ok sa sl sp ∧ formatOf sl = 0 ∧
        v.sideWaits v.curCore v.curWg v.curCtx (scaleVaOf y (formatBit v (.reg 0) (formatBits leaf) y.1.lane)) = false ∧
        v.poisonedRead v.curCore v.curWg sa 4 = false) := by
  intro q hq
  obtain ⟨_, leaf, _, g, j⟩ := formatOk_sound (s := formatted) (q := q) (p := fun base _ leaf _ =>
    let v := formatSeen formatted base; let a := formatAccess v q (.reg 0) (formatBits leaf)
    decide (formatBits leaf ≠ 0) && fitsB a v && mappedB a v && soundB a v && (a.reached v).all (fun y => decide (formatBits y.2.leaf = formatBits leaf) &&
      (!isGrouped y.2.leaf || (match v.translate v.curCore v.curCtx (scaleVaOf y (formatBit v (.reg 0) (formatBits leaf) y.1.lane)) .read with
        | .ok sa sl _ => decide (formatOf sl = 0) &&
          !v.sideWaits v.curCore v.curWg v.curCtx (scaleVaOf y (formatBit v (.reg 0) (formatBits leaf) y.1.lane)) &&
          !v.poisonedRead v.curCore v.curWg sa 4
        | _ => false)))) (by revert q; decide +kernel)
  simp only [Bool.and_eq_true, Bool.or_eq_true, Bool.not_eq_true', List.all_eq_true, decide_eq_true_eq] at j
  refine ⟨_, leaf, _, g, j.1.1.1.1, fitsB_sound j.1.1.1.2, mappedB_sound j.1.1.2, soundB_sound j.1.2, fun y hy => ⟨(j.2 y hy).1, fun hg => ?_⟩⟩
  have k := (j.2 y hy).2.resolve_left (by simp [hg])
  split at k
  · simp only [Bool.and_eq_true, Bool.not_eq_true', decide_eq_true_eq] at k
    exact ⟨_, _, _, ‹_›, k.1.1, k.1.2, k.2⟩
  · cases k

theorem witness_RecordLoads_legal : ¬ illegalNow (.ld 0 .w4 (.short .normal) (.reg 15) (.reg 0)) stocked ∧
    ¬ illegalNow (.st 6 .w4 (.short .normal) .zero (.reg 0)) stocked ∧ ¬ illegalNow (.atom 0 ⟨.fadd, .ar, .device, .normal, 0#16⟩ 15 (.reg 0)) stocked ∧
    ¬ illegalNow (.waitu 0 true 0 .zero ⟨.eq, 2, 3, .device⟩) stocked := by unfold illegalNow badRecord; decide +kernel

theorem witness_RecordStores : atHome stocked ∧
    (∃ a, accessRule (.st 6 .w4 (.short .normal) .zero (.reg 0)) stocked = some a ∧ Passes (.st 6 .w4 (.short .normal) .zero (.reg 0)) stocked ∧
      a.Fits stocked ∧ a.Stored stocked) ∧
    (let v := releasedAt stocked Scope.cluster.code
     Stays stocked v ∧ v.releaseWaits stocked.curWg .cluster = false ∧ atHome v ∧
     ∃ a e, accessRule (.strel 0 .w4 ⟨.cluster, .normal, false, 0#24⟩ .zero (.reg 0)) stocked = some a ∧
      Passes (.strel 0 .w4 ⟨.cluster, .normal, false, 0#24⟩ .zero (.reg 0)) stocked ∧ a.Fits stocked ∧ a.Stored stocked ∧
      accessRule (.strel 0 .w4 ⟨.cluster, .normal, false, 0#24⟩ .zero (.reg 0)) v = some e ∧ e.Fits v ∧ e.Stored v) ∧
    (let v := releasedAt (sideLogged stocked) Scope.cluster.code
     Stays (sideLogged stocked) v ∧ v.releaseWaits (sideLogged stocked).curWg .cluster = true) ∧
    ¬ Stays (dooming stocked) (releasedAt (dooming stocked) Scope.cluster.code) := by
  obtain ⟨a, h, k⟩ := accOk_sound (i := .st 6 .w4 (.short .normal) .zero (.reg 0)) (s := stocked)
    (p := fun a => fitsB a stocked && storedB a stocked) (by decide +kernel)
  obtain ⟨b, g, j⟩ := accOk_sound (i := .strel 0 .w4 ⟨.cluster, .normal, false, 0#24⟩ .zero (.reg 0)) (s := stocked)
    (p := fun a => fitsB a stocked && storedB a stocked) (by decide +kernel)
  obtain ⟨e, f, l⟩ := accOk_sound (i := .strel 0 .w4 ⟨.cluster, .normal, false, 0#24⟩ .zero (.reg 0)) (s := releasedAt stocked Scope.cluster.code)
    (p := fun a => fitsB a (releasedAt stocked Scope.cluster.code) && storedB a (releasedAt stocked Scope.cluster.code)) (by decide +kernel)
  simp only [Bool.and_eq_true] at k j l
  unfold Stays atHome
  exact ⟨by decide +kernel, ⟨a, h, passes_sound (by decide +kernel), fitsB_sound k.1, storedB_sound k.2⟩,
    ⟨by decide +kernel, by decide +kernel, by decide +kernel, b, e, g, passes_sound (by decide +kernel), fitsB_sound j.1, storedB_sound j.2, f,
      fitsB_sound l.1, storedB_sound l.2⟩, ⟨by decide +kernel, by decide +kernel⟩, by decide +kernel⟩

theorem witness_RecordRegisters : Passes (.recset 15 60) stocked ∧ Passes (.recget 15 60) stocked ∧
    (Passes (.recld 0 62) stocked ∧ (stocked.src.sreg64 62).toNat % 16 = 0 ∧ (stocked.src.sreg64 62).toNat < 2 ^ 48 ∧
      (let x : Access := ⟨0, 16, false, (lanesOf stocked.active).map (fun l => ⟨l, true, ((stocked.src.sreg64 62).toNat : Int)⟩)⟩
       x.Mapped stocked ∧ x.Sound stocked) ∧ stocked.active ≠ 0#32) ∧
    (Passes (.pref 0 .w4 (.short .normal) (.reg 2)) stocked ∧ Passes (.cacheInv 0 .w16 (.reg 0)) stocked ∧ ¬ badRecord (stocked.src.qreg 0)) :=
  ⟨passes_sound (by decide +kernel), passes_sound (by decide +kernel), ⟨passes_sound (by decide +kernel), by decide +kernel, by decide +kernel,
    ⟨mappedB_sound (by decide +kernel), soundB_sound (by decide +kernel)⟩, by decide +kernel⟩, passes_sound (by decide +kernel), passes_sound (by decide +kernel),
    by unfold badRecord; decide +kernel⟩

/-- s0:s1 an address off its alignment, s2:s3 one beyond the space. -/
def pointers : State := at_ { zeros with s := (List.range 64).map (fun n => if n = 0 then 8#32 else if n = 3 then 0x10000#32 else 0#32) } 1 1#32

theorem witness_RecordRegisters_traps : Passes (.recld 0 0) pointers ∧ (pointers.src.sreg64 0).toNat % 16 ≠ 0 ∧ Passes (.recld 0 2) pointers ∧
    (pointers.src.sreg64 2).toNat % 16 = 0 ∧ 2 ^ 48 ≤ (pointers.src.sreg64 2).toNat :=
  ⟨passes_sound (by decide +kernel), by decide +kernel, passes_sound (by decide +kernel), by decide +kernel, by decide +kernel⟩

theorem witness_StoreAndPenAccess_store : let s := inGrid (fun g => { g with lanestore := 64 }) stocked
    (Passes (.ldl .w4 (.short .normal) (.reg 15) (.lit 60#32)) s ∧ offsetsFit 4 (s.laneElems 4 0 (.lit 60#32))) ∧
    (Passes (.stl .w16 (.ext ⟨.normal, false, 0xFFFFFE#24⟩) .zero (.lit 50#32)) s ∧ offsetsFit 16 (s.laneElems 16 (-2) (.lit 50#32))) :=
  ⟨⟨passes_sound (by decide +kernel), by unfold offsetsFit; decide +kernel⟩, passes_sound (by decide +kernel), by unfold offsetsFit; decide +kernel⟩

theorem witness_StoreAndPenAccess_pen : atHome stocked ∧
    (∀ p ∈ ([(.ldp .w4 (.reg 15) (.lit 1020#32) 0#7, .lit 1020#32, 0#7, 4), (.stp .w16 .zero (.lit 1008#32) 0#7, .lit 1008#32, 0#7, 16),
      (.atomp .cas64 12 (.lit 8#32) 127#7 0#6, .lit 8#32, 126#7, 8)] : List (Instr × VSrc × BitVec 7 × Nat)),
      passes p.1 stocked = true ∧ offsetsFit p.2.2.2 (stocked.penElems p.2.1 p.2.2.1 p.2.2.2) ∧
        stocked.penLost stocked.curWg p.2.2.2 (stocked.penElems p.2.1 p.2.2.1 p.2.2.2) = []) := by
  unfold atHome offsetsFit; decide +kernel

theorem witness_PaddockAndCommons : (∀ i ∈ ([.ldpd .w4 (.reg 15) (.lit 1020#32) 0#7, .stpd .w1 .zero (.lit 1023#32) 0#7, .ldc .w16 (.reg 12) (.lit 48#32) 0#7,
      .stc .w2 .zero .zero 31#7] : List Instr), passes i stocked = true) ∧
    offsetsFit 4 (stocked.padElems (.lit 1020#32) 0#7 4) ∧ offsetsFit 1 (stocked.padElems (.lit 1023#32) 0#7 1) ∧
    offsetsFit 16 (stocked.comElems (.lit 48#32) 0#7 16) ∧ offsetsFit 2 (stocked.comElems .zero 31#7 2) ∧
    stocked.comLost (stocked.comElems (.lit 48#32) 0#7 16) = [] ∧ (tabGet stocked.ctxs stocked.curCtx).isSome = true ∧
    (stocked.ctx stocked.curCtx).commons.wf = true := by unfold offsetsFit; decide +kernel

/-- A paddock store to the end of the pen of rank 0, issued before the wave entered its handler, and a load from there. -/
def padStore : PadAcc := ⟨5, 0, 0, 1, 4, false, true, [(0, 0xFFFFC, [1#8, 2#8, 3#8, 4#8])], none, false⟩
def padLoad : PadAcc := { padStore with id := 6, store := false, parts := [(0, 0xFFFFC, [])], owed := some 7 }

theorem witness_PaddockAndCommons_perform : ∀ p ∈ [padStore, padLoad], let s := { stocked with cores := [(0, { Core.init with paddock := [p] })] }
    (s.core 0).paddock.find? (fun x => decide (x.id = p.id)) = some p ∧
    (s.core 0).paddock.find? (fun x => decide (x.wave = p.wave) && decide (x.rank = p.rank)) = some p ∧
    (tabGet s.wgs p.target).isSome = true ∧ (∀ x ∈ p.parts, x.2.1 + x.2.2.length ≤ 0x100000) ∧
    ∀ x ∈ p.parts, ∀ k ∈ wordsOf x.2.1 p.width, k ∉ (s.wg p.target).penPoison := by decide +kernel

/-- Nothing holds a release at device scope, and no line of an atomic is duplicated or lost, or some is duplicated. -/
def readyB (x : AtomMod) (s : State) : Bool :=
  let v := releasedAt s x.scope.code
  !(decide (x.ord = .rel) || decide (x.ord = .ar)) || ((tabGet v.waves s.iss.key).isSome && !v.releaseWaits s.curWg x.scope)
noncomputable def ownedAt (a : Access) (x : AtomMod) (s : State) : State :=
  let v := if x.ord = .rel ∨ x.ord = .ar then releasedAt s x.scope.code else s
  (v.commit v.curWg).ownLines ((a.reached s).map (fun y => y.2.pa))
def clearB (a : Access) (x : AtomMod) (s : State) : Bool :=
  let v := if x.ord = .rel ∨ x.ord = .ar then releasedAt s x.scope.code else s
  let pas := (a.reached s).map (fun y => y.2.pa)
  pas.all (fun pa => decide (((v.commit v.curWg).ownLines pas).dupOf pa = none) && !((v.commit v.curWg).ownLines pas).lost (lineOf pa))

theorem witness_GlobalAtomics : stocked.memOk ∧
    ∀ i ∈ ([(.atom 0 ⟨.fadd, .ar, .device, .normal, 0#16⟩ 15 (.reg 0), ⟨.fadd, .ar, .device, .normal, 0#16⟩),
        (.atom 0 ⟨.cas64, .rlx, .device, .normal, 0#16⟩ 12 .zero, ⟨.cas64, .rlx, .device, .normal, 0#16⟩),
        (.red 0 ⟨.add, .rel, .system, .normal, 0#16⟩ .lane (.reg 1), ⟨.add, .rel, .system, .normal, 0#16⟩),
        (.red 6 ⟨.add, .rlx, .device, .normal, 0#16⟩ .zero (.reg 0), ⟨.add, .rlx, .device, .normal, 0#16⟩)] : List (Instr × AtomMod)),
      ∃ a, accessRule i.1 stocked = some a ∧ Passes i.1 stocked ∧ a.Fits stocked ∧ a.Stored stocked ∧ readyB i.2 stocked = true ∧
        clearB a i.2 stocked = true := by
  refine ⟨by unfold State.memOk; decide +kernel, fun i hi => ?_⟩
  have key : ∀ i ∈ ([(.atom 0 ⟨.fadd, .ar, .device, .normal, 0#16⟩ 15 (.reg 0), ⟨.fadd, .ar, .device, .normal, 0#16⟩),
        (.atom 0 ⟨.cas64, .rlx, .device, .normal, 0#16⟩ 12 .zero, ⟨.cas64, .rlx, .device, .normal, 0#16⟩),
        (.red 0 ⟨.add, .rel, .system, .normal, 0#16⟩ .lane (.reg 1), ⟨.add, .rel, .system, .normal, 0#16⟩),
        (.red 6 ⟨.add, .rlx, .device, .normal, 0#16⟩ .zero (.reg 0), ⟨.add, .rlx, .device, .normal, 0#16⟩)] : List (Instr × AtomMod)),
      accOk i.1 stocked (fun a => fitsB a stocked && storedB a stocked && clearB a i.2 stocked) = true ∧ passes i.1 stocked = true ∧
        readyB i.2 stocked = true := by decide +kernel
  obtain ⟨a, h, k⟩ := accOk_sound (key i hi).1
  simp only [Bool.and_eq_true] at k
  exact ⟨a, h, passes_sound (key i hi).2.1, fitsB_sound k.1.1, storedB_sound k.1.2, (key i hi).2.2, k.2⟩

/-- A plain ATOM is mapped; on a page under collapse it stalls. -/
theorem witness_GlobalAtomics_mapped : ∃ a, accessRule (.atom 0 ⟨.add, .rlx, .device, .normal, 0#16⟩ 15 (.reg 0)) stocked = some a ∧ a.Mapped stocked := by
  obtain ⟨a, h, k⟩ := accOk_sound (i := .atom 0 ⟨.add, .rlx, .device, .normal, 0#16⟩ 15 (.reg 0)) (s := stocked) (p := fun a => mappedB a stocked)
    (by decide +kernel)
  exact ⟨a, h, mappedB_sound k⟩

/-- The page at 0x20000 is duplicated. -/
def twinned : State := { stocked with dups := [(3, ⟨0, 0x20000, 0x400000, [some 0x500000], none, []⟩)] }

theorem witness_GlobalAtomics_stalls : (let s := sideLogged stocked
      Stays s (releasedAt s Scope.device.code) ∧ (releasedAt s Scope.device.code).releaseWaits s.curWg .device = true) ∧
    (let s := twinned
     ∃ a, accessRule (.red 0 ⟨.add, .rlx, .device, .normal, 0#16⟩ .zero (.reg 0)) s = some a ∧
      ∃ pa ∈ (a.reached s).map (fun y => y.2.pa), ((s.commit s.curWg).ownLines ((a.reached s).map (fun y => y.2.pa))).dupOf pa ≠ none) ∧
    ¬ Stays (dooming stocked) (releasedAt (dooming stocked) Scope.device.code) := by
  obtain ⟨a, h, k⟩ := accOk_sound (i := .red 0 ⟨.add, .rlx, .device, .normal, 0#16⟩ .zero (.reg 0))
    (s := twinned)
    (p := fun a => ((a.reached twinned).map (fun y => y.2.pa)).any (fun pa =>
      decide (((twinned.commit 1).ownLines
        ((a.reached twinned).map (fun y => y.2.pa))).dupOf pa ≠ none)))
    (by decide +kernel)
  simp only [List.any_eq_true, decide_eq_true_eq] at k
  unfold Stays
  exact ⟨by decide +kernel, ⟨a, h, k⟩, by decide +kernel⟩

theorem witness_FencesRelease : (Passes (.fenceAcq .lane) stocked ∧ Passes (.fenceAcq .group) stocked ∧ Stays stocked (stocked.padAll stocked.curWg)) ∧
    (Passes (.fenceSc .system) stocked ∧ Stays stocked (releasedAt stocked 7) ∧ (releasedAt stocked 7).releaseWaits stocked.curWg .system = false) ∧
    (let s := sideLogged stocked
     Passes (.fenceRel .cluster) s ∧ Stays s (releasedAt s 3) ∧ (releasedAt s 3).releaseWaits s.curWg .cluster = true) ∧
    (Passes (.fencero .cluster) stocked ∧ Passes (.fencero .group) stocked) ∧
    (let s := dooming stocked
     Passes (.fenceAcq .wave) s ∧ Passes (.fenceAr .group) s ∧ Passes (.fencero .die) s ∧ ¬ Stays s (releasedAt s 2) ∧
     ¬ Stays s (s.padAll s.curWg)) := by
  unfold Stays
  exact ⟨⟨passes_sound (by decide +kernel), passes_sound (by decide +kernel), by decide +kernel⟩,
    ⟨passes_sound (by decide +kernel), by decide +kernel, by decide +kernel⟩, ⟨passes_sound (by decide +kernel), by decide +kernel, by decide +kernel⟩,
    ⟨passes_sound (by decide +kernel), passes_sound (by decide +kernel)⟩, passes_sound (by decide +kernel), passes_sound (by decide +kernel),
    passes_sound (by decide +kernel), by decide +kernel, by decide +kernel⟩

/-- A committed line, whose page is, or is not, duplicated. -/
def committed : Committed := ⟨0x8000, [(0x400000, 7#8), (0x40007F, 9#8)], false⟩
def holding (dups : Tab DupEntry) : State := { stocked with cores := [(0, { Core.init with committed := [committed] })], dups := dups }

theorem witness_MemoryChanges : (holding []).memOk ∧ stocked.hotOn = false ∧ (tabGet stocked.wgs 1).isSome = true ∧
    ((holding []).core 0).committed.find? (fun x => decide (x.line = committed.line)) = some committed ∧ tabRising committed.bytes = true ∧
    (∀ x ∈ (holding []).waves, x.2.wait ≠ .gbar) ∧ (holding []).dupOf (committed.line * 128) = none ∧
    (holding [(3, ⟨0, 0x20000, 0x400000, [some 0x500000], none, []⟩)]).dupOf (committed.line * 128) = some 3 := by
  unfold State.memOk; decide +kernel

/-- A slot of the scoreboard; a wave owed one. -/
def owedTo (kind : OwedKind) (dest : OwedDest) (data : Tab (List Word)) : Owed := ⟨7, kind, dest, 1#32, data, 0, 0#32, false, false, 0#32, 0#48⟩
def owing_ (o : Owed) : State := at_ { zeros with owed := [o] } 1 1#32

theorem witness_ResultsArrive_owed :
    (∀ o ∈ [owedTo .load (.vec 255 1) [(0, [1#32])], owedTo .atomic (.vec 0 2) [], owedTo .record (.recd 15) [(0, [1#32, 0#32, 0#32, 0#32])]],
      tabGet (owing_ o).waves 0 = some { zeros with owed := [o] } ∧ [o].find? (fun x => decide (x.id = 7)) = some o ∧ o.arrived = false ∧
      (o.kind = .load ∨ o.kind = .atomic ∨ o.kind = .record) ∧ ∀ p ∈ ((owing_ o).core (0 / 64)).paddock, p.owed ≠ some 7) ∧
    (∀ o ∈ [owedTo .div (.vec 1 1) [(0, [1#32])]], [o].find? (fun x => decide (x.kind = .div) && !x.arrived) = some o) ∧
    (∀ o ∈ [owedTo .fdiv (.vec 1 1) [(0, [1#32])], { owedTo .fdiv (.vec 1 1) [(0, [1#32])] with bad := 1#32 }],
      [o].find? (fun x => decide (x.kind = .fdiv) && !x.arrived) = some o) := by decide +kernel

/-- A LAUNCH owed its statuses, the record at VA 0x20000; the record as the bytes of Table 19.4, all its fields least. -/
def launchOwed : Owed := owedTo .launch (.vec 0 2) [(0, [0x20000#32, 0#32, 0#32])]
def asking (f : Context → Context) (g : Grid → Grid) (record : List Byte) : State :=
  let s := inGrid g stocked
  { s with waves := [(0, { zeros with owed := [launchOwed] })], ctxs := tabMod s.ctxs 0 f, mem := s.mem.setBytes 0x400000 record }
def roomy (c : Context) : Context := { c with areasize := 9216 }
def leastRecord : List Byte :=
  [0#8, 0#8, 1#8, 0#8, 0#8, 0#8, 0#8, 0#8, 1#8, 0#8, 1#8, 0#8, 1#8, 0#8, 1#8, 1#8, 1#8, 1#8, 16#8]

def takenOk (t : Taken) : Bool :=
  match t with
  | .ok _ => true
  | .wait _ | .bad _ _ _ => false
def takenBad (t : Taken) : Bool :=
  match t with
  | .bad _ _ _ => true
  | .wait _ | .ok _ => false
def takenWait (t : Taken) : Bool :=
  match t with
  | .wait _ => true
  | .bad _ _ _ | .ok _ => false
theorem takenOk_sound {t : Taken} (h : takenOk t = true) : ∃ c, t = .ok c := by cases t <;> simp_all [takenOk]
theorem takenBad_sound {t : Taken} (h : takenBad t = true) : ∃ st c m, t = .bad st c m := by cases t <;> simp_all [takenBad]
theorem takenWait_sound {t : Taken} (h : takenWait t = true) : ∃ p, t = .wait p := by cases t <;> simp_all [takenWait]

theorem witness_ResultsArrive_launch : let s := asking roomy id leastRecord
    tabGet s.waves 0 = some { zeros with owed := [launchOwed] } ∧ [launchOwed].find? (fun x => decide (x.id = 7)) = some launchOwed ∧
    launchOwed.kind = .launch ∧ launchOwed.arrived = false ∧ (∀ p ∈ (s.core (0 / 64)).paddock, p.owed ≠ some 7) ∧
    launchOwed.data.find? (fun d => decide (d.2.length = 3)) = some (0, [0x20000#32, 0#32, 0#32]) ∧ (s.grid (s.waveGrid 0)).depth < 10 ∧
    (s.ctx (s.grid (s.waveGrid 0)).ctx).childq.length < 1024 ∧ (tabGet s.ctxs (s.grid (s.waveGrid 0)).ctx).isSome = true ∧
    (∃ c, s.readLaunch (s.grid (s.waveGrid 0)).ctx 0x20000 = .ok c) :=
  ⟨rfl, rfl, rfl, rfl, by decide +kernel, rfl, by decide +kernel, by decide +kernel, by decide +kernel, takenOk_sound (by decide +kernel)⟩

theorem witness_ResultsArrive_answers : 10 ≤ ((asking id (fun g => { g with depth := 10 }) []).grid ((asking id (fun g => { g with depth := 10 }) []).waveGrid 0)).depth ∧
    1024 ≤ ((asking (fun c => { c with childq := List.replicate 1024 9 }) id []).ctx
      ((asking (fun c => { c with childq := List.replicate 1024 9 }) id []).grid ((asking (fun c => { c with childq := List.replicate 1024 9 }) id []).waveGrid 0)).ctx).childq.length ∧
    (∃ st c m, (asking id id []).readLaunch ((asking id id []).grid ((asking id id []).waveGrid 0)).ctx 0x20000 = .bad st c m) ∧
    ∃ p, (asking id id []).readLaunch ((asking id id []).grid ((asking id id []).waveGrid 0)).ctx 0x50000 = .wait p :=
  ⟨by decide +kernel, by decide +kernel, takenBad_sound (by decide +kernel), takenWait_sound (by decide +kernel)⟩

/-- A side-logged write of a page now mapped, and of one that refuses it. -/
def logged (va : Nat) : SideEntry := ⟨0, va, 1, 0, 1#32, [(va + 127, [5#8])], none, false, 0x10000#48, 0⟩
def replaying (va : Nat) : State := { stocked with cores := [(0, { Core.init with sideLog := [logged va] })] }

theorem witness_ResultsArrive_replay : ((replaying 0x20000).core 0).sideLog[0]? = some (logged 0x20000) ∧
    (∀ x ∈ ((replaying 0x20000).core 0).sideLog.take 0, ¬ (x.ctx = 0 ∧ x.va / 65536 = 2)) ∧ (∀ x ∈ (replaying 0x20000).waves, x.2.wait ≠ .gbar) ∧
    okPage (({ replaying 0x20000 with blockedWalks := [] } : State).translate 0 0 0x20000 (.write false)) = true ∧
    (replaying 0x20000).dupOf 0x400000 = none ∧ (logged 0x20000).red = none ∧
    ({ replaying 0x30000 with blockedWalks := [] } : State).translate 0 0 0x30000 (.write false) = .denied ∧
    ({ replaying 0x50000 with blockedWalks := [] } : State).translate 0 0 0x50000 (.write false) = .absent ∧
    (replaying 0x50000).servable 0 0x50000 = true ∧ (replaying 0x20000).memOk ∧
    (∀ c ∈ (logged 0x20000).writes.foldl (fun cs w => cs ++ w.2.mapIdx (fun i b => (0x400000 + (w.1 - 0x20000) + i, b))) [], c.1 / 128 = 0x400000 / 128) ∧
    (replaying 0x30000).waves.find? (fun x => decide (x.2.wg = 1) && decide (x.2.index = 0) && decide (x.2.live ≠ 0#32)) =
      (replaying 0x30000).waves.head? := by unfold State.memOk; decide +kernel

/-! ### Tethers -/

def reachedOk (xs : List (Elem × Trans)) : Bool :=
  match xs with
  | x :: _ => okPage x.2
  | [] => false
theorem reachedOk_sound {xs : List (Elem × Trans)} (h : reachedOk xs = true) : ∃ e pa leaf page r, xs = (e, .ok pa leaf page) :: r := by
  match xs, h with
  | (e, t) :: r, h =>
    obtain ⟨pa, leaf, page, rfl⟩ := okPage_sound (t := t) h
    exact ⟨e, pa, leaf, page, r, rfl⟩

theorem witness_Tethers_waitu : ∃ a, accessRule (.waitu 0 false 62 .zero ⟨.eq, 2, 3, .device⟩) stocked = some a ∧
    Passes (.waitu 0 false 62 .zero ⟨.eq, 2, 3, .device⟩) stocked ∧ a.Fits stocked ∧ a.Mapped stocked ∧ a.Sound stocked ∧
    ∃ e pa leaf page r, a.reached stocked = (e, .ok pa leaf page) :: r := by
  obtain ⟨a, h, k⟩ := accOk_sound (i := .waitu 0 false 62 .zero ⟨.eq, 2, 3, .device⟩) (s := stocked)
    (p := fun a => fitsB a stocked && mappedB a stocked && soundB a stocked && reachedOk (a.reached stocked)) (by decide +kernel)
  simp only [Bool.and_eq_true] at k
  exact ⟨a, h, passes_sound (by decide +kernel), fitsB_sound k.1.1.1, mappedB_sound k.1.1.2, soundB_sound k.1.2, reachedOk_sound k.2⟩

theorem witness_Tethers_out : ∃ a, accessRule (.waitu 0 false 62 (.lit 64#32) ⟨.eq, 2, 3, .device⟩) stocked = some a ∧
    Passes (.waitu 0 false 62 (.lit 64#32) ⟨.eq, 2, 3, .device⟩) stocked ∧ a.Fits stocked ∧ a.Mapped stocked ∧ a.Sound stocked ∧ a.reached stocked = [] := by
  obtain ⟨a, h, k⟩ := accOk_sound (i := .waitu 0 false 62 (.lit 64#32) ⟨.eq, 2, 3, .device⟩) (s := stocked)
    (p := fun a => fitsB a stocked && mappedB a stocked && soundB a stocked && (a.reached stocked).isEmpty) (by decide +kernel)
  simp only [Bool.and_eq_true, List.isEmpty_iff] at k
  exact ⟨a, h, passes_sound (by decide +kernel), fitsB_sound k.1.1.1, mappedB_sound k.1.1.2, soundB_sound k.1.2, k.2⟩

/-- A tether on the word at 0x400000, which is 0, for the value given; parked or not. -/
def tether (opnd : Nat) (parked : Bool) : Tether := ⟨4, 0x400000, false, .eq, opnd, some 0, 0, .wave 0, none, parked, .device⟩
def arming (k : Tether) (cap spill : Nat) : State :=
  { stocked with unarmed := [k], tableCap := cap, ctxs := tabMod stocked.ctxs 0 (fun c => { c with spillcap := spill, spillbase := 0x20000 }) }

theorem witness_Tethers_arm : (∀ k ∈ [tether 0 false, tether 1 false], opndFits k ∧ tableFree (arming k 1 0) k ∧
      (arming k 1 0).unarmed.find? (fun u => decide (u.id = k.id) && (u.parked == false)) = some k) ∧
    tetherHolds (tether 0 false) (valueAt (arming (tether 0 false) 1 0) (tether 0 false)) = true ∧
    tetherHolds (tether 1 false) (valueAt (arming (tether 1 false) 1 0) (tether 1 false)) = false ∧
    ¬ tableFree (arming (tether 1 true) 0 1) (tether 1 true) ∧ (arming (tether 1 true) 0 1).freeSpill 0 = some 0 ∧
    (arming (tether 1 true) 0 1).unarmed.find? (fun u => decide (u.id = 4) && (u.parked == true)) = some (tether 1 true) ∧
    (arming (tether 1 false) 0 0).freeSpill 0 = none := by unfold opndFits tableFree; decide +kernel

/-- A store that the wave's core has committed to the line and not performed holds its tether back. -/
theorem witness_Tethers_blocked : let s := { arming (tether 1 false) 1 0 with cores := [(0, { Core.init with committed := [committed] })] }
    s.unarmed.find? (fun u => decide (u.id = 4) && (u.parked == false)) = some (tether 1 false) ∧
    ∃ key c, (tether 1 false).waiter = .wave key ∧ c ∈ (s.core (key / 64)).committed ∧ c.line = (tether 1 false).pa / 128 :=
  ⟨by decide +kernel, 0, committed, rfl, List.mem_singleton.mpr rfl, by decide⟩

theorem witness_Tethers_wake : (let w := { zeros with wait := .waitu 61 true, s := List.replicate 64 0#32 };
      let s := { at_ w 1 1#32 with wakes := [⟨.wave 0, 5, 2⟩] };
      s.wakes[0]? = some ⟨.wave 0, 5, 2⟩ ∧ tabGet s.waves 0 = some w ∧ w.wait = .waitu 61 true ∧ tabRising s.waves = true) ∧
    (let w := { zeros with wait := .cairnw (some 63) };
      let s := { at_ w 1 1#32 with wakes := [⟨.wave 0, 5, 2⟩] };
      s.wakes[0]? = some ⟨.wave 0, 5, 2⟩ ∧ tabGet s.waves 0 = some w ∧ w.wait = .cairnw (some 63) ∧ tabRising s.waves = true) :=
  ⟨⟨rfl, rfl, rfl, by decide +kernel⟩, rfl, rfl, rfl, by decide +kernel⟩

theorem witness_Tethers_later : (let s := { stocked with tethers := [tether 1 false] };
      s.tethers.find? (fun u => decide (u.id = (tether 1 false).id)) = some (tether 1 false) ∧ (tether 1 false).deadline = some 0 ∧ 0 ≤ s.time.toNat) ∧
    ({ tether 1 false with deadline := some 1 }.deadline = some 1 ∧ stocked.time.toNat < 1) ∧
    (let s := { stocked with wakes := [⟨.saved 1 0, 5, 2⟩], wgs := tabMod stocked.wgs 1 (fun g => { g with status := [[]] }) };
      s.wakes[0]? = some ⟨.saved 1 0, 5, 2⟩ ∧ (tabGet s.wgs 1).isSome = true ∧ 0 < (s.wg 1).status.length) ∧
    (let s := { stocked with
        time := 9#64
        wgs := tabMod stocked.wgs 1 (fun g => { g with status := [[(6, 9#32)]] })
        droves := tabMod stocked.droves 1 (fun d => { d with phase := .saved }) };
      (s.drove (s.wg 1).drove).phase = .saved ∧ (s.drove (s.wg 1).drove).wakes = 0 ∧ s.status 1 0 6 + 2 ^ 32 * s.status 1 0 7 ≠ 0 ∧
      s.status 1 0 6 + 2 ^ 32 * s.status 1 0 7 ≤ s.time.toNat) := by decide +kernel


/-! ### Copies and folds -/

/-- A request: one row of four bytes from pen byte 64 to pen byte 128, in stage `stage`. -/
def oneRow (stage : Nat) : Nat := 64 + 128 * 2 ^ 64 + 4 * 2 ^ 128 + 2 ^ 148 + 9 * 2 ^ 224 + stage * 2 ^ 248

/-- A workgroup with a pen of 1024 bytes that holds the request at 0, zero after it; s0:s7 hold the request too,
s8 to s15 zero, s16 65, s17 16, s18 992, s19 1, s20 2. -/
def droving : State :=
  let w := { zeros with s := (List.range 64).map (fun n => if n < 8 then BitVec.ofNat 32 (oneRow 1 / 2 ^ (32 * n)) else [65#32, 16#32, 992#32, 1#32, 2#32].getD (n - 16) 0#32) }
  let s := at_ w 1 1#32
  { s with
    wgs := tabMod s.wgs 1 (fun g => { g with
      penBytes := 1024
      penZero := true
      pen := (List.range 32).map (fun k => (k, BitVec.ofNat 8 (oneRow 1 / 2 ^ (8 * k))))
      stages := [1]
      tickets := 5
      folds := [⟨true, 1, 0, [0#32, 0#32], 7, false, false, false, false⟩, ⟨false, 0, 0, [0#32], 0, false, false, false, false⟩] })
    grids := tabMod s.grids 1 (fun g => { g with sched := [oneRow 1, oneRow 2] }) }

/-- A request in the drover, and a drover that is full of them. -/
def accepting (id ticket : Nat) : CopyReq := ⟨id, 1, 0, BitVec.ofNat 256 (oneRow 0), ticket, 0, 0, none, none, [], false⟩
def drovered (s : State) (n : Nat) : State :=
  { s with cores := tabSet s.cores 0 { s.core 0 with drover := (List.range n).map (fun k => accepting k (6 + k)) } }

theorem droving_names : kickNames droving .zero (.reg 19) = [BitVec.ofNat 256 (oneRow 1)] ∧ copyNames droving 0 = BitVec.ofNat 256 (oneRow 1) := by
  decide +kernel
theorem droving_sound : requestFault droving (BitVec.ofNat 256 (oneRow 1)) = none := by decide +kernel
theorem droving_room : droverTakes droving (releasedFor droving [BitVec.ofNat 256 (oneRow 1)]) [BitVec.ofNat 256 (oneRow 1)] = true := by decide +kernel

theorem witness_CopiesAndCounts_kick : (∀ p ∈ [(USrc.zero, USrc.zero), (.zero, .reg 16), (.reg 17, .lit 1#32), (.reg 18, .reg 20)],
      passes (.kick .discard p.1 p.2) droving = true) ∧ (droving.wg droving.curWg).penBytes < 992 + 32 * 2 ∧
    Passes (.kick (.reg 63) .zero (.reg 19)) droving ∧ 0 + 32 * 1 ≤ (droving.wg droving.curWg).penBytes ∧
    (∀ x ∈ kickNames droving .zero (.reg 19), requestFault droving x = none) ∧ (droving.wg droving.curWg).penPoison = [] ∧
    (tabGet droving.wgs droving.curWg).isSome = true ∧ (droving.wg droving.curWg).core = droving.curCore ∧
    droverTakes droving (releasedFor droving (kickNames droving .zero (.reg 19))) (kickNames droving .zero (.reg 19)) = true := by
  rw [droving_names.1]
  exact ⟨by decide +kernel, by decide +kernel, passes_sound (by decide +kernel), by decide +kernel, by simpa using droving_sound, by decide +kernel,
    by decide +kernel, by decide +kernel, droving_room⟩

theorem witness_CopiesAndCounts_full :
    droverTakes (drovered droving 256) (releasedFor (drovered droving 256) [BitVec.ofNat 256 (oneRow 1)]) [BitVec.ofNat 256 (oneRow 1)] = false := by
  decide +kernel

theorem witness_CopiesAndCounts_home : (∀ f ∈ [some (0x01, 0)], batchFault droving [copyNames droving 8] = f) ∧
    batchFault droving [BitVec.ofNat 256 (oneRow 1)] = none ∧ staysHome droving (releasedFor droving [BitVec.ofNat 256 (oneRow 1)]) ∧
    staysHome (drovered droving 256) (releasedFor (drovered droving 256) [BitVec.ofNat 256 (oneRow 1)]) ∧
    ¬ Stays (dooming droving) (releasedFor (dooming droving) [BitVec.ofNat 256 (oneRow 1)]) ∧ staysHome droving (releasedAt droving 2) ∧
    Stays droving (releasedAt droving 3) ∧ ¬ Stays (dooming droving) (releasedAt (dooming droving) 2) := by
  unfold staysHome Stays; decide +kernel

/-- A request that has failed and credits a fold, to memory; one whose source no page will serve. -/
theorem witness_CopiesAndCounts_fails :
    (let r : CopyReq := { accepting 0 6 with failed := true, bits := BitVec.ofNat 256 (oneRow 0 + 2 ^ 247 - 2 ^ 227) }
     let q := requestOf r.bits
     q.credit = true ∧ q.dkind ≠ 1 ∧ q.dkind ≠ 2 ∧ r.dest = 0) ∧
    (let r : CopyReq := { accepting 0 6 with bits := BitVec.ofNat 256 (oneRow 0 - 2 ^ 224 + 0x40000 - 64) }
     let s := { stocked with cores := tabSet stocked.cores 0 { stocked.core 0 with drover := [r] } }
     s.copyRefused 0 r ≠ none) := by decide +kernel

theorem witness_CopiesAndCounts_copy : (Passes (.copy .discard 8) droving ∧ requestFault droving (copyNames droving 8) = some (0x01, 0)) ∧
    Passes (.copy (.reg 0) 0) droving ∧ requestFault droving (copyNames droving 0) = none ∧
    droverTakes droving (releasedFor droving [copyNames droving 0]) [copyNames droving 0] = true := by
  rw [droving_names.2]
  exact ⟨⟨passes_sound (by decide +kernel), by decide +kernel⟩, passes_sound (by decide +kernel), droving_sound, droving_room⟩

theorem droving_stage : ((droving.grid droving.curGrid).sched.map (BitVec.ofNat 256)).filter (fun x => decide ((requestOf x).stage = 1)) =
    [BitVec.ofNat 256 (oneRow 1)] := by decide +kernel

theorem witness_CopiesAndCounts_advance : (Passes (.advance (.reg 9)) (at_ zeros 1 1#32) ∧ ((at_ zeros 1 1#32).wg (at_ zeros 1 1#32).curWg).stages = []) ∧
    Passes (.advance (.reg 9)) droving ∧ (droving.wg droving.curWg).stages = 1 :: [] ∧
    (let xs := ((droving.grid droving.curGrid).sched.map (BitVec.ofNat 256)).filter (fun x => decide ((requestOf x).stage = 1));
     (∀ x ∈ xs, requestFault droving x = none) ∧ xs ≠ [] ∧ droverTakes droving (releasedFor droving xs) xs = true) := by
  rw [droving_stage]
  exact ⟨⟨passes_sound (by decide +kernel), by decide +kernel⟩, passes_sound (by decide +kernel), by decide +kernel, by simpa using droving_sound, by simp,
    droving_room⟩

theorem witness_CopiesAndCounts_sched : ∀ r ∈ (droving.grid droving.curGrid).sched, r < 2 ^ 256 := by
  rw [show (droving.grid droving.curGrid).sched = [oneRow 1, oneRow 2] by decide +kernel]
  intro r hr
  simp only [List.mem_cons, List.not_mem_nil, or_false] at hr
  rcases hr with rfl | rfl <;> simp [oneRow]

theorem witness_CopiesAndCounts_count : (∀ c : Fin 3, passes (.waitc c .zero) droving = true) ∧ (∀ c : Fin 4, passes (.rdcnt (.reg 63) c) (drovered droving 2) = true) ∧
    (∀ r ∈ (((drovered droving 2).core 0).drover.filter (fun r => decide (r.wg = 1))), 0 < r.ticket) := by decide +kernel

theorem witness_CopiesAndCounts_rows : (let s := drovered droving 1; let r := accepting 0 6; let q := requestOf r.bits
      (s.core 0).drover.find? (fun x => decide (x.id = r.id)) = some r ∧ r.failed = false ∧ s.mayStart 0 r = true ∧ r.data = none ∧ r.dest = 0 ∧
      q.skind = 1 ∧ q.dkind = 1 ∧ q.mcast = 0 ∧ q.redop = 0 ∧ q.credit = false ∧ q.rows ≤ r.row + 1 ∧
      q.src + r.row * q.sstride + q.width ≤ 2 ^ 20 ∧ q.dst + r.row * q.dstride + q.width ≤ 2 ^ 20 ∧
      (tabGet s.wgs r.wg).isSome = true ∧ (s.wg r.wg).penPoison = [] ∧ (s.drove (s.wg r.wg).drove).wgs[(s.wg r.wg).rank]? = some r.wg) ∧
    (let r : CopyReq := { accepting 0 6 with bits := BitVec.ofNat 256 (oneRow 0 + 2 ^ 148) }
     let s := { droving with cores := tabSet droving.cores 0 { droving.core 0 with drover := [r] } }
     (s.core 0).drover.find? (fun x => decide (x.id = r.id)) = some r ∧ s.mayStart 0 r = true ∧ r.row + 1 < (requestOf r.bits).rows) ∧
    (let r : CopyReq := { accepting 0 6 with failed := true }
     let s := { droving with cores := tabSet droving.cores 0 { droving.core 0 with drover := [r] } }
     (s.core 0).drover.find? (fun x => decide (x.id = r.id)) = some r ∧ (requestOf r.bits).credit = false) := by decide +kernel

/-- FWAIT's wave has phase 6 to wait for, which has completed; phase 7 has not. -/
theorem witness_Folds : ([.finit 0 (.lit 1023#32), .finit 1 (.lit 1#32), .finit 0 .zero, .finit 1 (.lit 1024#32), .farrive (.reg 63) 0,
        .farriveRank 0 .zero, .farriveRank 0 (.lit 1#32), .fexpect 0 (.lit 7#32) (.reg 16), .ftest .discard 0 (.lit 6#32),
        .fwait (.reg 0) 0 (.lit 6#32), .fwait .discard 0 (.lit 7#32)] : List Instr).all (fun i => passes i droving) = true ∧
    ¬ illegalNow (.finit 0 .zero) droving ∧ ¬ illegalNow (.finit 1 .zero) droving ∧ ¬ illegalNow (.farrive (.reg 63) 0) droving ∧
    ¬ illegalNow (.farriveRank 0 .zero) droving ∧ ¬ illegalNow (.fexpect 0 (.lit 7#32) (.reg 16)) droving ∧
    ¬ illegalNow (.ftest .discard 0 (.lit 6#32)) droving ∧ ¬ illegalNow (.fwait (.reg 0) 0 (.lit 6#32)) droving ∧
    (droving.drove (droving.wg droving.curWg).drove).wgs[(0#32).toNat]? = some 1 ∧
    (droving.drove (droving.wg droving.curWg).drove).wgs[(1#32).toNat]? = none ∧
    (((droving.wg droving.curWg).folds[0]?).bind (fun f => if phasePast f 6 then some (phaseStatus f) else none)) = some 1#32 ∧
    (((droving.wg droving.curWg).folds[0]?).bind (fun f => if phasePast f 7 then some (phaseStatus f) else none)) = none ∧
    (((droving.wg droving.curWg).folds[0]?).bind (fun f => if phasePast f 136 then some (phaseStatus f) else none)) = some 1#32 ∧
    (((droving.wg droving.curWg).folds[0]?).bind (fun f => if phasePast f 135 then some (phaseStatus f) else none)) = none := by
  unfold illegalNow; decide +kernel

theorem witness_Folds_later : (let a : Arrival := ⟨1, 0, 0, 1, 0⟩; let s := { droving with arrivals := [a, a] }
      s.arrivals[0]? = some a ∧ s.releaseHeld a.core a.wg 3 = false ∧ (∀ b ∈ s.arrivals.take 0, b.wave = a.wave → b.target ≠ a.target)) ∧
    (let w := { zeros with wait := .fwait (some 63) 0 6 }; let s := { droving with waves := [(0, w)] }
     tabGet s.waves 0 = some w ∧ w.wait = .fwait (some 63) 0 6 ∧
     (((s.wg w.wg).folds[0]?).bind (fun f => if phasePast f 6 then some (phaseStatus f) else none)) = some 1#32) := by decide +kernel

/-! ### The array and the flock unit -/

/-- The core's array leased to the workgroup with `n` slots, every band powered, with a queue. -/
def leasing (s : State) (n : Nat) (bands : Nat) (q : List ArrayOp) : State :=
  { s with
    wgs := tabMod s.wgs 1 (fun g => { g with lease := n })
    cores := tabSet s.cores 0 { s.core 0 with array := { (s.core 0).array with
      lessee := some 1, bands := bands, queue := q, band := List.replicate 4 ⟨true, none, false, 0⟩ } } }

/-- An entry of the queue that holds an operation, issued by the wave in slot 0. -/
def entry (id : Nat) (i : Instr) (prog : Nat) : ArrayOp := ⟨id, i.word, i.extWords.headD 0#32, 0#32, 0#32, 0#128, prog, 0, 0, 1#32, 0x10000#48, 0, 0⟩

/-- The same machine with `i` queued and counted. -/
def queued (i : Instr) (prog : Nat) : State :=
  leasing { droving with waves := [(0, { zeros with ops := [⟨0, 9, false⟩], counts := ⟨1, 0, 0⟩ })] } 2 1 [entry 9 i prog]

/-- A record of 64 words. -/
def mainRecord : State := { droving with waves := [(0, { zeros with q := List.replicate 8 (recordOf 0x20000 4 64 1 0) })] }

theorem witness_ArrayIssue_none : (∃ u, arrayRule (.mzero 2 .f32) (leasing droving 2 15 []) = some u ∧ Passes (.mzero 2 .f32) (leasing droving 2 15 []) ∧
      ¬ illegalNow (.mzero 2 .f32) (leasing droving 2 15 []) ∧ ¬ leased (leasing droving 2 15 []) u.slots) ∧
    (Passes .mrel droving ∧ ¬ leased droving []) := by
  refine ⟨⟨_, rfl, passes_sound (by decide +kernel), by unfold illegalNow; decide +kernel, ?_⟩, passes_sound (by decide +kernel), ?_⟩ <;>
    unfold leased <;> decide +kernel

/-- s19 is 1, so a tile there is off its alignment; s18 is 992, and the scales from there go past the pen. -/
theorem witness_ArrayIssue_pen : (∃ u, arrayRule (.mst 0 (.reg 19) .zero ⟨.f32, .f32, 0#7, false⟩) (leasing droving 2 15 []) = some u ∧
      leased (leasing droving 2 15 []) u.slots ∧ ∃ al p n, u.pen = some (al, p, n) ∧ ∃ x ∈ al, x % 16 ≠ 0) ∧
    (∃ u, arrayRule (.mldPlane (.reg 18) .shadowScales) (leasing droving 2 15 []) = some u ∧ leased (leasing droving 2 15 []) u.slots ∧
      ∃ al p n, u.pen = some (al, p, n) ∧ (∀ x ∈ al, x % 16 = 0) ∧ ¬ penFits (leasing droving 2 15 []) u p n) := by
  refine ⟨⟨_, rfl, ?_, _, _, _, rfl, by decide +kernel⟩, _, rfl, ?_, _, _, _, rfl, by decide +kernel, by unfold penFits; decide +kernel⟩ <;>
    unfold leased <;> decide +kernel

theorem witness_ArrayIssue_runs : (∃ u, arrayRule (.mlds .zero .zero ⟨.f16, none⟩) (leasing droving 2 15 []) = some u ∧
      Passes (.mlds .zero .zero ⟨.f16, none⟩) (leasing droving 2 15 []) ∧ leased (leasing droving 2 15 []) u.slots ∧ u.elems = none ∧
      ∃ al p n, u.pen = some (al, p, n) ∧ (∀ x ∈ al, x % 16 = 0) ∧ penFits (leasing droving 2 15 []) u p n) ∧
    (∃ u, arrayRule (.mmag 0 .zero .zero ⟨.f16, ⟨.f16, none⟩, .f32, 1#7, false, false⟩ 0) (leasing mainRecord 2 15 []) = some u ∧
      Passes (.mmag 0 .zero .zero ⟨.f16, ⟨.f16, none⟩, .f32, 1#7, false, false⟩ 0) (leasing mainRecord 2 15 []) ∧
      ¬ illegalNow (.mmag 0 .zero .zero ⟨.f16, ⟨.f16, none⟩, .f32, 1#7, false, false⟩ 0) (leasing mainRecord 2 15 []) ∧
      leased (leasing mainRecord 2 15 []) u.slots ∧ ∃ e, u.elems = some e ∧ elemsFault (leasing mainRecord 2 15 []) e = none) ∧
    (∃ u, arrayRule (.mldsg (.lit 48#32) .zero ⟨.f16, none⟩ 0) (leasing mainRecord 2 15 []) = some u ∧
      Passes (.mldsg (.lit 48#32) .zero ⟨.f16, none⟩ 0) (leasing mainRecord 2 15 []) ∧ leased (leasing mainRecord 2 15 []) u.slots ∧
      ∃ e f, u.elems = some e ∧ elemsFault (leasing mainRecord 2 15 []) e = some f) ∧
    ((leasing droving 2 15 []).core 0).array.queue.length < 8 ∧ (leasing droving 2 15 []).cur.counts.mtx < 255 ∧
    ¬ ((leasing droving 2 15 (List.replicate 8 (entry 0 .mswap 0))).core 0).array.queue.length < 8 := by
  refine ⟨⟨_, rfl, passes_sound (by decide +kernel), ?_, rfl, _, _, _, rfl, by decide +kernel, by unfold penFits; decide +kernel⟩,
    ⟨_, rfl, passes_sound (by decide +kernel), by unfold illegalNow badRecord; decide +kernel, ?_, _, rfl, by decide +kernel⟩,
    ⟨_, rfl, passes_sound (by decide +kernel), ?_, _, (0x06, 0x20080), rfl, by decide +kernel⟩, by decide +kernel, by decide +kernel, by decide +kernel⟩ <;>
  unfold leased <;> decide +kernel

def doneAtOnce (r : ArrayRun) : Bool :=
  match r with
  | .done _ => true
  | _ => false
theorem doneAtOnce_sound {r : ArrayRun} (h : doneAtOnce r = true) : ∃ x, r = .done x := by cases r <;> simp_all [doneAtOnce]

/-- MZERO in a handler, its bands powered, can be carried out. -/
theorem witness_ArrayIssue_handler : let s := leasing (at_ (handling zeros) 2 1#32) 2 15 []
    Passes (.mzero 0 .f16) s ∧ leased s [0] ∧ s.cur.handler = true ∧ bandsOn s s.curCore (s.core s.curCore).array.bands ∧
    ∃ x, s.runWhole s.curCore s.curWg ⟨0, (Instr.mzero 0 .f16).word, 0#32, 0#32, 0#32, 0#128, 0, 0, 0, 1#32, 0x10000#48, 0, 0⟩ (.mzero 0 .f16) = .done x := by
  unfold leased bandsOn
  exact ⟨passes_sound (by decide +kernel), by decide +kernel, by decide +kernel, by decide +kernel, doneAtOnce_sound (by decide +kernel)⟩

theorem witness_ArrayIssue_direct : (let s := leasing droving 2 15 []
      passes (.mshape (.lit 7#32)) s = true ∧ passes (.mstat (.reg 63) true) s = true ∧ passes .mrel s = true ∧
      (s.src.u32 (.lit 7#32)).toNat % 16 ∈ [1, 3, 7, 15] ∧ (s.src.u32 .zero).toNat % 16 ∉ [1, 3, 7, 15] ∧ (s.core 0).array.queue = []) ∧
    (let s := leasing droving 2 15 [entry 0 .mswap 0]
     (s.core 0).array.queue ≠ [] ∧ s.cur.handler = false) := by decide +kernel

/-- What runs, with a check of it. -/
noncomputable def runsOk (s : State) (i : Instr) (prog : Nat) : Bool :=
  (match s.runnable 0 9 with
    | some (o, j, g) => decide (o = entry 9 i prog) && decide (j.word = i.word) && decide (g = 1)
    | none => false) && (s.arrayRuns 0)

theorem witness_ArrayRuns : ∀ x ∈ ([(.mlds .zero .zero ⟨.f16, none⟩, 0), (.mscale .zero false .g32, 0),
      (.mma 0 .zero .zero ⟨.f16, ⟨.f16, none⟩, .f32, 1#7, false, true⟩, 0), (.mma 0 .zero .zero ⟨.f16, ⟨.f16, none⟩, .f32, 1#7, false, true⟩, 1),
      (.mswap, 0), (.mswap, 1), (.mzero 0 .f16, 0)] : List (Instr × Nat)),
    runsOk (queued x.1 x.2) x.1 x.2 = true := by decide +kernel

theorem witness_ArrayRuns_home : (let s := queued (.mlds .zero .zero ⟨.f16, none⟩) 0
      ∃ w, opHome s 0 (entry 9 (.mlds .zero .zero ⟨.f16, none⟩) 0) w ∧ bandsOn s 0 (arrayOf s 0).bands ∧ (s.wg 1).penPoison = [] ∧
        (arrayOf s 0).poison = [] ∧ s.upset = none) ∧
    { (arrayOf (queued .mswap 0) 0) with tagA := 34 }.tagged ⟨.f16, none⟩ = true ∧
    (queued (.mma 0 .zero .zero ⟨.f16, ⟨.f16, none⟩, .f32, 1#7, false, true⟩) 0).arrayRuns 0 = true := by
  refine ⟨⟨_, ⟨rfl, by decide +kernel, by decide +kernel, by decide +kernel⟩, ?_, by decide +kernel, by decide +kernel, by decide +kernel⟩, by decide +kernel,
    by decide +kernel⟩
  unfold bandsOn
  decide +kernel

/-- Bands as the clauses need them: waking until clk 0; deferred; idle since clk 0 at clk 2000, outside the lease's mask. -/
def banded (b : Band) (mask : Nat) : State :=
  { leasing droving 2 mask [] with
    cores := tabSet droving.cores 0 { droving.core 0 with array := { (droving.core 0).array with lessee := some 1, bands := mask, band := [b] } }
    cycle := 2000#64 }

theorem witness_ArrayRuns_bands : (arrayOf (banded ⟨false, some 2000, false, 0⟩ 15) 0).band[0]? = some ⟨false, some 2000, false, 0⟩ ∧
    2000 ≤ (banded ⟨false, some 2000, false, 0⟩ 15).cycle.toNat ∧
    (let s := banded ⟨false, none, true, 0⟩ 15
     (((s.sites.getD (0 / 160) (Site.init false)).wakes).filter (fun n => decide (s.time.toNat < n + 1000))).length < 16) ∧
    (let s := banded ⟨true, none, false, 0⟩ 14
     (arrayOf s 0).bands.testBit 0 = false ∧ (∀ k ∈ (s.core 0).tiles, k.closed = false) ∧ 0 + 2000 ≤ s.cycle.toNat) := by decide +kernel

/-! ### NEV -/

/-- A network of one input, one output and one FP16 weight of 1.0, its entry at VA 0x20000, which is PA 0x400000,
its weight at VA 0x60100 of a page of FP16; NETCOUNT 1. -/
def netted : State :=
  { stocked with
    mem := ((stocked.mem.setBytes 0x400000 (bytesOfNat 64 (1 + 2 * 2 ^ 12 + 2 ^ 15 + 0x60100 * 2 ^ 96))).setBytes 0x420100
      (bytesOfNat 2 0x3C00)).setBytes 0x10A060 (bytesOfNat 16 (9 + 2 * 2 ^ 8 + 0x420000 * 2 ^ 64))
    ctxs := tabMod stocked.ctxs 0 (fun c => { c with netbase := 0x20000, netcount := 1 }) }

def netFound (x : NetLoad) : Bool :=
  match x with
  | .ok _ _ => true
  | _ => false
theorem netFound_sound {x : NetLoad} (h : netFound x = true) : ∃ bytes ps, x = .ok bytes ps := by
  cases x <;> simp_all [netFound]

theorem witness_FlockRuns_nev : (let x : NevMod := ⟨0, false, none, 1#7, 1#5, false⟩
      Passes (.nev 3 (.reg 3) .zero x) netted ∧ ¬ illegalNow (.nev 3 (.reg 3) .zero x) netted ∧ netted.cur.counts.flk < 255 ∧
      ∃ l < 32, netted.active.getLsbD l = true ∧ handleHeld netted .zero l = true) ∧
    (let x : NevMod := ⟨1, true, some 0, 1#7, 1#5, true⟩
     Passes (.nev 3 (.reg 3) (.reg 2) x) netted ∧ ¬ illegalNow (.nev 3 (.reg 3) (.reg 2) x) netted ∧
      (∀ e ∈ nevElems netted (.reg 3) x, e.inb = true ∧ e.va % 4 = 0 ∧ e.va + 2 * x.nin.toNat ≤ 2 ^ 48) ∧
      ∃ l < 32, netted.active.getLsbD l = true ∧ handleHeld netted (.reg 2) l = false) :=
  ⟨⟨passes_sound (by decide +kernel), by unfold illegalNow badRecord; decide +kernel, by decide +kernel, by decide +kernel⟩,
    passes_sound (by decide +kernel), by unfold illegalNow badRecord; decide +kernel, by decide +kernel, by decide +kernel⟩

/-- NEV.M out of bounds, off 4 bytes, and past the space; NEV with FLK at 255. -/
theorem witness_FlockRuns_traps : (let x : NevMod := ⟨1, true, none, 1#7, 1#5, false⟩
      Passes (.nev 3 (.reg 2) .zero x) netted ∧ ¬ illegalNow (.nev 3 (.reg 2) .zero x) netted ∧
      (Rec.ofBits (netted.src.qreg 1)).oob = true ∧ ∃ e ∈ nevElems netted (.reg 2) x, e.inb = false) ∧
    (let x : NevMod := ⟨7, true, none, 1#7, 1#5, false⟩
     Passes (.nev 3 (.reg 3) .zero x) netted ∧ (Rec.ofBits (netted.src.qreg 7)).oob = false ∧
      ∃ e ∈ nevElems netted (.reg 3) x, uneven 4 e = true) ∧
    (let x : NevMod := ⟨3, true, none, 1#7, 1#5, false⟩
     Passes (.nev 3 (.reg 1) .zero x) netted ∧ (Rec.ofBits (netted.src.qreg 3)).oob = false ∧
      (∀ e ∈ nevElems netted (.reg 1) x, uneven 4 e = false) ∧ ∃ e ∈ nevElems netted (.reg 1) x, beyond 2 e = true) ∧
    255 ≤ (at_ { zeros with counts := ⟨0, 255, 0⟩ } 1 1#32).cur.counts.flk :=
  ⟨⟨passes_sound (by decide +kernel), by unfold illegalNow badRecord; decide +kernel, by decide +kernel, by decide +kernel⟩,
    ⟨passes_sound (by decide +kernel), by decide +kernel, by decide +kernel⟩,
    ⟨passes_sound (by decide +kernel), by decide +kernel, by decide +kernel, by decide +kernel⟩, by decide +kernel⟩

/-- A tile of one row, with the NEV it belongs to; its network of one input, one output and one weight of 1.0 is at hand. -/
def tiled (closed : Bool) : State :=
  let n : NevOp := ⟨7, 3, 1, 1, 1#32, 0#32, [], none, false, 1, [], 0x10000#48⟩
  { netted with
    waves := tabMod netted.waves 0 (fun w => { w with nevs := [n], ops := [⟨1, 7, false⟩] })
    cores := tabSet netted.cores 0 { (netted.core 0) with
      tiles := [⟨0, 0, [⟨0, 7, 0, none, [0x4000#16]⟩], 0, closed⟩]
      weights := [(0, bytesOfNat 64 (1 + 2 * 2 ^ 12 + 2 ^ 15) ++ bytesOfNat 64 0x3C00)]
      array := { (netted.core 0).array with band := List.replicate 4 ⟨true, none, false, 0⟩ } }
    cycle := 1000000#64 }

theorem witness_FlockRuns_net : Passes (.netldFetch .zero) netted ∧ Passes (.netldDrop .zero) netted ∧
    (netted.src.u32 .zero).toNat < (netted.ctx netted.curCtx).netcount ∧ (∃ bytes ps, netted.loadNet netted.curCore netted.curWg netted.curCtx 0 = .ok bytes ps) ∧
    tabGet (netted.core netted.curCore).weights (netted.curCtx * 65536 + 0) = none ∧ tabGet ((tiled true).core 0).weights 0 ≠ none ∧
    Passes (.netldFetch (.lit 1#32)) netted ∧ ¬ (1#32).toNat < (netted.ctx netted.curCtx).netcount :=
  ⟨passes_sound (by decide +kernel), passes_sound (by decide +kernel), by decide +kernel, netFound_sound (by decide +kernel),
    by decide +kernel, by decide +kernel, passes_sound (by decide +kernel), by decide +kernel⟩

theorem witness_FlockRuns_close : ∃ k, ((tiled false).core 0).tiles[0]? = some k ∧ k.closed = false ∧ (∀ r ∈ k.rows, r.mem = none) ∧
    k.first + ((tiled false).ctx k.ctx).flockwait ≤ (tiled false).cycle.toNat :=
  ⟨_, rfl, rfl, by decide +kernel, by decide +kernel⟩

theorem witness_FlockRuns_complete : let s := tiled true
    ∃ k r w n net, (s.core 0).tiles[0]? = some k ∧ k.closed = true ∧ (∀ j ∈ (s.core 0).tiles.take 0, j.closed = false) ∧ s.quarantined = [] ∧
      s.upset = none ∧ bandsOn s 0 15 ∧ k.rows = [r] ∧ r.mem = none ∧ tabGet s.waves r.wave = some w ∧
      w.nevs.find? (fun m => decide (m.id = r.nev)) = some n ∧ n.left = 1 ∧ n.failed = 0#32 ∧ n.causes = [] ∧ n.results = [] ∧
      (w.ops.map Counted.id).Nodup ∧ tabGet (s.core 0).weights (k.ctx * 65536 + k.handle) = some net ∧
      (NetEntry.ofNat (natOfBytes (net.take 64))).nin = n.nin ∧ (NetEntry.ofNat (natOfBytes (net.take 64))).nout = n.nout :=
  ⟨_, _, _, _, _, rfl, rfl, by decide +kernel, rfl, rfl, by unfold bandsOn; decide +kernel, rfl, rfl, rfl, rfl, rfl, rfl, rfl, rfl, by decide +kernel, rfl,
    by decide +kernel, by decide +kernel⟩

theorem witness_FlockRuns_land : let n : NevOp := ⟨7, 3, 1, 1, 3#32, 2#32, [(1, 3)], none, true, 0, [(0, [0x40000000#32])], 0x10000#48⟩
    let w : Wave := { zeros with nevs := [n], ops := [⟨1, 7, false⟩], counts := ⟨0, 1, 0⟩ }
    tabGet ({ droving with waves := [(0, w)] } : State).waves 0 = some w ∧ w.nevs.find? (fun m => decide (m.id = n.id)) = some n ∧ n.left = 0 ∧
      (w.ops.map Counted.id).Nodup ∧ n.trapen = true ∧ maskOf (fun l => n.failed.getLsbD l && (w.lane l).state.live) ≠ 0#32 := by decide +kernel

/-! ### Structures in memory -/

/-- A home is reached, as a check. -/
def homeB (s : State) (va n : Nat) (need : Need) : Bool :=
  let h := s.translate s.curCore s.curCtx va need
  let v := performedHome s va n h
  decide (va + n ≤ 2 ^ 48) && okPage h && (!need.writes || (s.dupOf (homePa va h)).isNone) && !s.sideWaits s.curCore s.curWg s.curCtx va &&
    (v.core v.curCore).committed.all (fun c => ((List.range n).map (homePa va h + ·)).all (fun a => decide (c.line ≠ a / 128))) && !v.lost (h.pa / 128)
theorem homeB_sound {s : State} {va n : Nat} {need : Need} (h : homeB s va n need = true) : HomeAt s va n need (s.translate s.curCore s.curCtx va need) := by
  simp only [homeB, Bool.and_eq_true, Bool.or_eq_true, Bool.not_eq_true', decide_eq_true_eq, Option.isNone_iff_eq_none, List.all_eq_true] at h
  obtain ⟨⟨⟨⟨⟨h1, h2⟩, h3⟩, h4⟩, h5⟩, h6⟩ := h
  exact ⟨h1, rfl, okPage_sound h2, fun k => h3.resolve_left (by simp [k]), h4, h5, h6⟩

/-- Memory with some numbers: address, bytes, value. -/
def putsMem (m : Memory) (l : List (Nat × Nat × Nat)) : Memory := l.foldl (fun m x => m.setBytes x.1 (bytesOfNat x.2.1 x.2.2)) m

/-- A tree header at VA 0x20000: slot 0 of generation 3, state 2, its clusters at 0x21000, its cairns at 0x60800 (in a page
at PA 0x420000, with the arrays of the stream and the queues), ROOT as given, PIN 1;
slot 1 of generation 4, state 3, PIN 2^32 - 1. At 0x20100 a cluster stream of two entries with COUNT as given, at 0x20140 a queue of four
ids with HEAD 1 and TAIL 3, and at 0x20180 one with a CAP of 3. s0:s1 name the tree, s2:s3 the stream, s4:s5 and s6:s7 the queues,
s8:s9 a frame record at 0x20200, s10:s11 VA 8, s12:s13 VA 2^48. The pen holds a cluster at 0 and none at 1024. -/
def treed (count root : Nat) : State :=
  let w := { zeros with
    s := [0x20000#32, 0#32, 0x20100#32, 0#32, 0x20140#32, 0#32, 0x20180#32, 0#32, 0x20200#32, 0#32, 8#32, 0#32, 0#32, 0x10000#32] ++ List.replicate 50 0#32 }
  { stocked with
    waves := [(0, w)]
    iss := { stocked.iss with start := some w }
    mem := putsMem stocked.mem [(0x10A060, 16, 11 + 0x420000 * 2 ^ 64), (0x400008, 8, 0x21000), (0x400010, 8, 0x60800), (0x400018, 4, root), (0x40001C, 4, 1), (0x400020, 4, 1),
      (0x400024, 3, 0x10203), (0x40005C, 4, 2 ^ 32 - 1), (0x400064, 3, 0x10304),
      (0x400100, 8, 0x60000), (0x400108, 4, 2), (0x40010C, 4, count),
      (0x400140, 8, 0x60600), (0x400148, 4, 4), (0x40014C, 4, 1), (0x400150, 4, 3), (0x400188, 4, 3),
      (0x40100C, 4, 0x3F800000), (0x401010, 4, 0x3F800000), (0x401014, 4, 0x3F800000), (0x401018, 2, 0x0103), (0x401026, 2, 65535),
      (0x40102E, 2, 65535), (0x4011A0, 3, 0x020100)]
    wgs := tabMod stocked.wgs 1 (fun g => { g with
      penBytes := 2048
      penZero := true
      pen := [(24, 1#8)] }) }

theorem witness_UnitCommands_address : (let s := treed 0 0
      (∃ va al, structureOf (.raster .discard 10) s = some (va, al) ∧ Passes (.raster .discard 10) s ∧ va % al ≠ 0) ∧
      (∃ va al, structureOf (.cairnw .discard 12 .zero) s = some (va, al) ∧ Passes (.cairnw .discard 12 .zero) s ∧ va % al = 0 ∧ 2 ^ 48 ≤ va)) :=
  ⟨⟨_, _, rfl, passes_sound (by decide +kernel), by decide +kernel⟩, _, _, rfl, passes_sound (by decide +kernel), by decide +kernel, by decide +kernel⟩

theorem witness_UnitCommands_queues : (let s := treed 0 0
      passes (.raster (.reg 63) 0) s = true ∧ passes (.build (.reg 63) 0) s = true ∧ passes (.refit .discard 0) s = true ∧
      structureFits s 0 128 ∧ Stays s (releasedToDevice s) ∧ (releasedToDevice s).releaseHeld s.curCore s.curWg 5 = false ∧
      (releasedToDevice s).rasters.length < 16 ∧ (releasedToDevice s).builds.length < 16) ∧
    (let s := sideLogged (treed 0 0)
     Stays s (releasedToDevice s) ∧ (releasedToDevice s).releaseHeld s.curCore s.curWg 5 = true) ∧
    ¬ Stays (dooming (treed 0 0)) (releasedToDevice (dooming (treed 0 0))) ∧
    (let s := { treed 0 0 with
       rasters := List.replicate 16 ⟨0, 0, 0x20000, [], false, 0, 0, 0, 0, 0, [], [], false, none, []⟩
       builds := List.replicate 16 ⟨0, true, 0, 0x20000, .queued, [], 0, 0, 0, [], 0, [], 0⟩ }
     16 ≤ (releasedToDevice s).rasters.length ∧ 16 ≤ (releasedToDevice s).builds.length) := by
  unfold structureFits Stays; decide +kernel

/-- A stream of slots of 1000 ns from 0, of one pixel, and a frame record at 0x20200 for slot `j` of it, with `q` records queued. -/
def streaming (j : Nat) (q : List FrameRec) : State :=
  { treed 0 0 with
    mem := putsMem (treed 0 0).mem [(0x400208, 4, 1), (0x40020C, 4, 1), (0x400218, 8, 1000 * j)]
    streams := [(0, { Stream.blank with
      desc := [1#8, 0#8, 0#8, 0#8] ++ bytesOfNat 4 1 ++ bytesOfNat 4 1 ++ bytesOfNat 4 0 ++ bytesOfNat 8 0 ++ bytesOfNat 8 1000 ++ bytesOfNat 80 0
      queue := q
      next := 1 })] }
/-- What PRESENT finds there: the state in which it has reached its record, and the record. -/
noncomputable def presented (s : State) : State × List Byte :=
  let v := releasedToDevice s
  let h := v.translate v.curCore v.curCtx (pairAt s 8) (.write false)
  let u := reachedHome v (pairAt s 8) 64 (.write false) h
  (u, (List.range 64).map (fun i => u.mem.get (homePa (pairAt s 8) h + i)))

theorem witness_UnitCommands_present : Passes (.present (.reg 63) 8) (streaming 1 []) ∧ structureFits (streaming 1 []) 8 64 ∧
    Stays (streaming 1 []) (releasedToDevice (streaming 1 [])) ∧
    (releasedToDevice (streaming 1 [])).releaseHeld (streaming 1 []).curCore (streaming 1 []).curWg 5 = false ∧
    (∃ h, HomeAt (releasedToDevice (streaming 1 [])) (pairAt (streaming 1 []) 8) 64 (.write false) h) ∧ (releasedToDevice (streaming 1 [])).memOk :=
  ⟨passes_sound (by decide +kernel), by unfold structureFits; decide +kernel, by unfold Stays; decide +kernel, by decide +kernel,
    ⟨_, homeB_sound (by decide +kernel)⟩, by unfold State.memOk; decide +kernel⟩

/-- Slot 1 free of records, slot 9 behind four, slot 0 past, and slot 1 with a record already. -/
theorem witness_UnitCommands_slots :
    (let p := presented (streaming 1 [])
     frameFits p.1 p.2 1 ∧ (p.1.stream (field p.2 21 1)).next ≤ 1 ∧ (p.1.stream (field p.2 21 1)).queue.length < 4) ∧
    (let p := presented (streaming 9 ((List.range 4).map (fun k => ⟨0, 0x20200, k + 1, k, 0, 0, 1, none, false⟩)))
     frameFits p.1 p.2 9 ∧ 4 ≤ (p.1.stream (field p.2 21 1)).queue.length) ∧
    (let p := presented (streaming 0 [])
     frameFits p.1 p.2 0 ∧ 0 < (p.1.stream (field p.2 21 1)).next) := by unfold frameFits; decide +kernel

theorem witness_UnitCommands_rejected : let p := presented (streaming 1 [⟨0, 0x20200, 1, 0, 0, 0, 1, none, false⟩])
    ∀ j, ¬ frameFits p.1 p.2 j := by
  intro p j h
  have h1 : field p.2 24 8 = 1000 := by decide +kernel
  have h2 : field (p.1.stream (field p.2 21 1)).desc 16 8 = 0 ∧ field (p.1.stream (field p.2 21 1)).desc 24 8 = 1000 := by decide +kernel
  have h3 : ∃ r ∈ (p.1.stream (field p.2 21 1)).queue, r.slot = 1 := by decide +kernel
  obtain ⟨-, -, -, -, -, -, -, -, -, -, hd, -, -, hq, -⟩ := h
  rw [h1, h2.1, h2.2] at hd
  obtain ⟨r, hr, hs⟩ := h3
  exact hq r hr (by omega)

/-- Generation 3 has PIN 1, generation 4 PIN 2^32 - 1, and no slot is of generation 9. -/
theorem witness_UnitCommands_pins : (let s := treed 0 0
      passes (.genpin (.reg 63) 0 (.lit 3#32)) s = true ∧ passes (.gendrop .discard 0 (.lit 4#32)) s = true ∧ homeB s (pairAt s 0) 256 (.write false) = true ∧
      s.mem.wf = true) ∧
    (let s := treed 0 0
     let h := s.translate s.curCore s.curCtx (pairAt s 0) (.write false)
     let u := reachedHome s (pairAt s 0) 256 (.write false) h
     let pa := homePa (pairAt s 0) h
     holdsGen u pa 3 0 ∧ holdsGen u pa 4 1 ∧ (¬ holdsGen u pa 9 0 ∧ ¬ holdsGen u pa 9 1) ∧ numberAt u (pa + 28) 4 = 1 ∧
       numberAt u (pa + 64 + 28) 4 = 2 ^ 32 - 1) := by unfold holdsGen; decide +kernel

theorem witness_UnitCommands_cairn : (let s := treed 0 0
      passes (.cairnw (.reg 63) 0 (.lit 0x30008#32)) s = true ∧ passes (.cairnw .discard 0 (.lit 0x30009#32)) s = true ∧
      homeB s (pairAt s 0) 256 .read = true) ∧
    (let s := treed 0 0
     let h := s.translate s.curCore s.curCtx (pairAt s 0) .read
     let u := reachedHome s (pairAt s 0) 256 .read h
     holdsGen u h.pa 3 0 ∧ numberAt u (h.pa + 38) 1 = 1 ∧ (1 ≤ 8 ∧ 8 ≤ 8 ^ 1) ∧
     let va := numberAt u (h.pa + 16) 8 + 4 * 7
     let c := u.translate u.curCore u.curCtx va .read
     homeB u va 4 .read = true ∧ numberAt (reachedHome u va 4 .read c) (homePa va c) 4 ≠ 1 ∧
       ((reachedHome u va 4 .read c).tethers.filter (fun t => t.spill.isNone && decide (t.pa / 2 ^ 38 = homePa va c / 2 ^ 38))).length <
         (reachedHome u va 4 .read c).tableCap) := by unfold holdsGen; decide +kernel

/-- A cairn word that has risen. -/
theorem witness_UnitCommands_risen : (let s := { treed 0 0 with mem := (treed 0 0).mem.setBytes 0x42081C [1#8] }
     let va := 0x60800 + 4 * 7
     numberAt s (homePa va (s.translate s.curCore s.curCtx va .read)) 4 = 1) := by decide +kernel

theorem witness_UnitCommands_emit : (let s := treed 1 0
      passes (.emitc (.reg 63) (.lit 0#32) 2) s = true ∧ passes (.emitc .discard (.lit 8#32) 2) s = true ∧ passes (.emitc .discard (.lit 1424#32) 2) s = true ∧
      (s.wg s.curWg).penBytes < 1424 + 640 ∧ 1408 + 640 ≤ (s.wg s.curWg).penBytes ∧ (s.wg s.curWg).penPoison = [] ∧
      clusterBad ((List.range 640).map (fun i => s.penByte s.curWg (0 + i))) = false ∧
      clusterBad ((List.range 640).map (fun i => s.penByte s.curWg (1024 + i))) = true ∧ homeB s (pairAt s 2) 64 (.write false) = true ∧
      let h := s.translate s.curCore s.curCtx (pairAt s 2) (.write false)
      let u := reachedHome s (pairAt s 2) 64 (.write false) h
      let pa := homePa (pairAt s 2) h
      numberAt u (pa + 8) 4 = 2 ∧ numberAt u (pa + 12) 4 = 1 ∧ (∀ i < 48, u.mem.get (pa + 16 + i) = 0#8) ∧
      piecesOf (numberAt u pa 8 + 640 * 1) 640 = [(0x60280, 640)] ∧ homeB u 0x60280 640 (.write false) = true) := by decide +kernel

/-- One home, reached. -/
theorem homesAt_one {s : State} {va n : Nat} {need : Need} (h : homeB s va n need = true) :
    ∃ ts u, HomesAt need [(va, n)] s ts u ∧ u = reachedHome s va n need (s.translate s.curCore s.curCtx va need) :=
  ⟨_, _, ⟨_, _, homeB_sound h, rfl, rfl, rfl⟩, rfl⟩

theorem witness_UnitCommands_emitted : let s := treed 1 0
    let u := reachedHome s (pairAt s 2) 64 (.write false) (s.translate s.curCore s.curCtx (pairAt s 2) (.write false))
    s.memOk ∧ ∃ ts v, HomesAt (.write false) [(0x60280, 640)] u ts v ∧ (v.core v.curCore).committed = [] := by
  obtain ⟨ts, v, h, k⟩ := homesAt_one (s := reachedHome (treed 1 0) (pairAt (treed 1 0) 2) 64 (.write false)
    ((treed 1 0).translate (treed 1 0).curCore (treed 1 0).curCtx (pairAt (treed 1 0) 2) (.write false))) (va := 0x60280) (n := 640)
    (need := .write false) (by decide +kernel)
  exact ⟨by unfold State.memOk; decide +kernel, ts, v, h, by rw [k]; decide +kernel⟩

/-- The table full, with a free spill entry and without. -/
theorem witness_UnitCommands_full_table : ∀ cap ∈ [0, 1], let s := { treed 0 0 with tableCap := 0, ctxs := tabMod (treed 0 0).ctxs 0 (fun c => { c with spillcap := cap }) }
    let u := reachedHome s (pairAt s 0) 256 .read (s.translate s.curCore s.curCtx (pairAt s 0) .read)
    let va := 0x60800 + 4 * 7
    let v := reachedHome u va 4 .read (u.translate u.curCore u.curCtx va .read)
    ¬ tableFree v ⟨v.fresh, homePa va (u.translate u.curCore u.curCtx va .read), false, .eq, 1, none, v.curCtx, .wave s.iss.key, none, false, .device⟩ ∧
    v.freeSpill v.curCtx = if cap = 0 then none else some 0 := by unfold tableFree; decide +kernel

/-- A full stream, and one whose CAP is 0 (the tree's header read as one). -/
theorem witness_UnitCommands_full : (let s := treed 2 0; let h := s.translate s.curCore s.curCtx (pairAt s 2) (.write false)
      numberAt (reachedHome s (pairAt s 2) 64 (.write false) h) (homePa (pairAt s 2) h + 12) 4 = 2) ∧
    (let s := treed 0 0; let h := s.translate s.curCore s.curCtx (pairAt s 0) (.write false)
      ∃ i < 48, (reachedHome s (pairAt s 0) 64 (.write false) h).mem.get (homePa (pairAt s 0) h + 16 + i) ≠ 0#8) := by decide +kernel

/-! ### Rays -/

/-- The eight registers of a ray from (0.25, 0.25, -1) along z, t from 0. -/
def rayWords : List Word := [0x3E800000#32, 0x3E800000#32, 0xBF800000#32, 0#32, 0#32, 0#32, 0x3F800000#32, 0x7F800000#32]

theorem witness_RayInstructions_trace : (let s := treed 0 0
      passes (.trace 8 0 ⟨0, 2, 4, .none⟩) s = true ∧ passes (.traceocc 8 0 ⟨0, 2, 4, .back⟩) s = true ∧ pairAt s 0 % 256 = 0 ∧ pairAt s 0 < 2 ^ 48 ∧
      s.cur.counts.trc < 255) ∧
    255 ≤ (at_ { zeros with counts := ⟨0, 0, 255⟩ } 1 1#32).cur.counts.trc := by decide +kernel

/-- Two lanes push into a queue that has room for two, or pull from one that holds two. -/
theorem witness_RayInstructions_queue : (let s := treed 0 0
      passes (.pixpush .discard (.reg 0) 4) s = true ∧ passes (.refill 3 none 4 (some 0)) s = true ∧ passes (.refill 3 (some 11) 4 none) s = true ∧
      homeB s (pairAt s 4) 64 (.write false) = true ∧ s.mem.wf = true ∧ (releasedToDevice s).releaseWaits s.curWg .device = false ∧
      let h := s.translate s.curCore s.curCtx (pairAt s 4) (.write false)
      let u := reachedHome s (pairAt s 4) 64 (.write false) h
      let pa := homePa (pairAt s 4) h
      queueCap u pa = 2 ^ 2 ∧ (∀ i < 44, u.mem.get (pa + 20 + i) = 0#8) ∧ queueHeld u pa = 2 ∧ (lanesOf s.active).length = 2 ∧
      homeB u (queueEntry u pa 3) 4 (.write false) = true ∧ homeB u (queueEntry u pa 1) 4 .read = true ∧ queueCap u (homePa (pairAt s 6) h) = 3) := by
  decide +kernel

/-- One lane pushes an id, or takes one. -/
theorem witness_RayInstructions_homes : let s := { treed 0 0 with iss := { (treed 0 0).iss with lanes := 1#32 } }
    let u := reachedHome s (pairAt s 4) 64 (.write false) (s.translate s.curCore s.curCtx (pairAt s 4) (.write false))
    (∃ ts v, HomesAt (.write false) [(queueEntry u (homePa (pairAt s 4) (s.translate s.curCore s.curCtx (pairAt s 4) (.write false))) 3, 4)] u ts v ∧
      (v.core v.curCore).committed = []) ∧
    ∃ ts v, HomesAt .read [(queueEntry u (homePa (pairAt s 4) (s.translate s.curCore s.curCtx (pairAt s 4) (.write false))) 1, 4)] u ts v ∧
      (v.core v.curCore).committed = [] := by
  intro s u
  obtain ⟨ts, v, h, k⟩ := homesAt_one (s := u) (va := queueEntry u (homePa (pairAt s 4) (s.translate s.curCore s.curCtx (pairAt s 4) (.write false))) 3)
    (n := 4) (need := .write false) (by decide +kernel)
  obtain ⟨us, w, g, j⟩ := homesAt_one (s := u) (va := queueEntry u (homePa (pairAt s 4) (s.translate s.curCore s.curCtx (pairAt s 4) (.write false))) 1)
    (n := 4) (need := .read) (by decide +kernel)
  exact ⟨⟨ts, v, h, by rw [k]; decide +kernel⟩, us, w, g, by rw [j]; decide +kernel⟩

theorem witness_RayInstructions_lane : (let s := treed 0 0
      passes (.nodedec 3 4 10) s = true ∧ passes (.morton 3 0 0) s = true ∧ passes (.morton 3 0 6) s = true ∧
      (s.src.sreg 4).toNat % 8 < 6 ∧ 6 ≤ (6#32).toNat % 8) := by decide +kernel

/-- A ray in slot 0, owed to lane 0, in the tree of the cluster above. -/
def firing (root : Nat) (e : Option Nat) (parked : Option Nat) : State :=
  let s := treed 0 root
  { s with
    waves := tabMod s.waves 0 (fun w => { w with
      owed := [⟨8, .trace, .vec 4 4, 1#32, [], 0, 0#32, false, false, 0#32, 0x10000#48⟩]
      ops := [⟨2, 7, false⟩] })
    rays := [⟨8, 7, 0, 0, 0, 0x20000, 3, some 0, e, 5, some 0, .none, false, rayWords, parked, 0, [], []⟩] }

def raySees (s : State) (p : List Hit → Bool) : Bool :=
  match s.rays with
  | [r] => (match s.runRay r with
    | .ok x => p x.hits
    | .error _ => false)
  | _ => false

theorem witness_RaysGoOn : (∀ e ∈ [none, some 2], ∃ r w, (firing 0x80000000 e none).rays = [r] ∧ RayStands (firing 0x80000000 e none) r w ∧
      r.parked = none ∧ r.ended = e ∧ r.slot = some 0) ∧
    raySees (firing 0x80000000 none none) (fun l => decide (l.length = 1) && l.all (fun h => decide (0 < h.t.den))) = true ∧
    (∃ r, (firing 0 none (some 0x20018)).rays = [r] ∧ r.parked = some 0x20018 ∧ r.deadline = some 0) ∧
    (match (firing 0 none none).rays with
      | [r] => (match (firing 0 none none).runRay r with
        | .error (.park va, x) => decide (va = 0x20018) && x.hits.isEmpty && okPage ((firing 0 none none).translate 0 0 va .read)
        | .error _ | .ok _ => false)
      | _ => false) = true := by
  refine ⟨fun e _ => ⟨_, _, rfl, ⟨?_, fun x h _ => List.mem_singleton.mp h, rfl, ?_⟩, rfl, rfl, rfl⟩, by decide +kernel, ⟨_, rfl, rfl, rfl⟩,
    by decide +kernel⟩
  · simp [firing]
  · intro o h
    simp only [List.find?_cons] at h
    split at h
    · exact Option.some.inj h ▸ rfl
    · simp at h

theorem witness_RaysGoOn_resume : ({ firing 0 none (some 0x20018) with wakes := [⟨.ray 8, 1, 2⟩] } : State).wakes.findIdx?
    (fun k => decide (k.waiter = .ray 8)) = some 0 := by decide +kernel

/-- What a walk of a ray answers, with a check of it. -/
def rayStops (s : State) (r : Ray) (p : RayStop → Walked → Bool) : Bool :=
  match s.runRay r with
  | .ok _ => false
  | .error (e, x) => p e x

/-- A ray whose generation no slot holds; one whose root names no node of the pool; TRACEOCC with a hit; a timed-out ray with a
hit found, and one whose wake has come. -/
theorem witness_RaysGoOn_ends :
    (match (firing 0 none none).rays with
      | [r] => (match (firing 0 none none).rayBytes { r with gen := 9, slot := none } r.hdr 256 with
        | .ok (h, _) => (List.range 2).all (fun k => decide (field h (64 * k + 36) 1 ≠ 9))
        | .error _ => false)
      | _ => false) = true ∧
    (match (firing 0x7FFFFFFF none none).rays with
      | [r] => rayStops (firing 0x7FFFFFFF none none) r (fun e x => decide (e = .fault) && x.hits.isEmpty)
      | _ => false) = true ∧
    (match (firing 0x80000000 none none).rays with
      | [r] => (match (firing 0x80000000 none none).runRay { r with occ := true } with
        | .ok x => !x.hits.isEmpty
        | .error _ => false)
      | _ => false) = true := by decide +kernel

theorem witness_RaysGoOn_timeout : (let s := firing 0 none (some 0x20018)
      (∃ r, s.rays = [r] ∧ ∀ h ∈ r.found, 0 < h.t.den) ∧ 0 ≤ s.time.toNat ∧ ∀ k ∈ s.wakes, k.waiter ≠ .ray 8) ∧
    (let s := { firing 0 none (some 0x20018) with wakes := [⟨.ray 8, 1, 2⟩] }; ∃ k ∈ s.wakes, k.waiter = .ray 8) :=
  ⟨⟨⟨_, rfl, by decide +kernel⟩, by decide +kernel, by decide +kernel⟩, _, List.mem_singleton.mpr rfl, rfl⟩

/-! ### Builds, raster commands and streams -/

def okOf {α β : Type} (x : Except α β) : Bool :=
  match x with
  | .ok _ => true
  | .error _ => false
theorem okOf_sound {α β : Type} {x : Except α β} (h : okOf x = true) : ∃ y, x = .ok y := by
  cases x <;> simp_all [okOf]
def failOf {β : Type} (x : Except BuildStop β) (st : Nat) : Bool :=
  match x with
  | .error (.fail k) => decide (k = st)
  | .error (.wait _) | .error (.malformed _) | .ok _ => false
def waitOf {β : Type} (x : Except BuildStop β) : Bool :=
  match x with
  | .error (.wait _) => true
  | _ => false
def malformedOf {β : Type} (x : Except BuildStop β) : Bool :=
  match x with
  | .error (.malformed _) => true
  | _ => false
theorem failOf_sound {β : Type} {x : Except BuildStop β} {st : Nat} (h : failOf x st = true) : x = .error (.fail st) := by
  unfold failOf at h
  split at h
  · rename_i k; rw [of_decide_eq_true h]
  all_goals cases h
def bytesRead (x : Except BuildStop (List Byte)) : List Byte :=
  match x with
  | .ok bs => bs
  | .error _ => []

/-- The machine of `treed` with a header of free slots at 0x20400 (NEXTGEN 9), one with a superseded tree in slot 0 at 0x20900, a header
that is malformed at 0x20A00, and build commands of one cluster, CDEPTH 1, the pool at 0x61000: at 0x20300 for the header at 0x20400; at
0x20600 a refit of the tree at 0x20000, at 0x20680 for a header in a page that may not be written, at 0x20700 for the malformed one. -/
def sited : State :=
  let cmd : Nat → Nat → Nat → Nat → List (Nat × Nat × Nat) := fun at_ hdr cdepth ratio =>
    [(at_, 8, hdr), (at_ + 8, 8, 0x21000), (at_ + 16, 4, 1), (at_ + 20, 1, cdepth), (at_ + 22, 2, ratio), (at_ + 24, 8, 0x61000), (at_ + 32, 8, 0x4000),
      (at_ + 40, 8, 0x60800), (at_ + 48, 8, 0x60C00)]
  { treed 0 0 with
    mem := putsMem (treed 0 0).mem ([(0x400480, 1, 9), (0x400924, 2, 0x0305), (0x400A28, 1, 1)] ++ cmd 0x400300 0x20400 1 0 ++ cmd 0x400600 0x20000 0 0x3C00 ++
      cmd 0x400680 0x30000 1 0 ++ cmd 0x400700 0x20A00 1 0) }

/-- A job at a place in memory, in a phase, with the command it read there. -/
def job (va : Nat) (refit : Bool) (phase : BuildPhase) : BuildJob :=
  ⟨5, refit, 0, va, phase, if phase = .queued then [] else bytesRead (sited.readHub 0 va 128), 0, 9, 0, [], 0, [], 0⟩
def onJob (j : BuildJob) : State := { sited with builds := [j] }

/-- A command can be read, or not; and what follows of it. -/
theorem witness_BuildsRun_start : (∀ c ∈ [(0x20500, false), (0x20680, false), (0x20700, false), (0x20300, true), (0x20300, false)],
      okOf ((onJob (job c.1 c.2 .queued)).readHub 0 c.1 128) = true ∧
        (onJob (job c.1 c.2 .queued)).buildTurn (job c.1 c.2 .queued) (field (bytesRead (sited.readHub 0 c.1 128)) 0 8) = true) ∧
    failOf ((onJob (job 0x40000 false .queued)).readHub 0 0x40000 128) 3 = true ∧ waitOf ((onJob (job 0x50000 false .queued)).readHub 0 0x50000 128) = true ∧
    malformedOf (({ sited with mem := sited.mem.setBytes 0x10A0C0 (bytesOfNat 16 (0x19 + 0x480000 * 2 ^ 64)) } : State).readHub 0 0xC0000 128) = true ∧
    field (bytesRead (sited.readHub 0 0x20500 128)) 16 4 = 0 ∧
    failOf (sited.canWrite 0 [(0x30000, 256)]) 3 = true ∧ okOf (sited.canWrite 0 [(0x20A00, 256)]) = true ∧
    okOf (sited.canWrite 0 [(0x20400, 256)]) = true ∧ headerClean (bytesRead (sited.readHub 0 0x20A00 256)) = false ∧
    headerClean (bytesRead (sited.readHub 0 0x20400 256)) = true ∧ liveSlot (bytesRead (sited.readHub 0 0x20000 256)) 1 = some 0 := by
  decide +kernel

theorem witness_BuildsRun_command : (∀ c ∈ [(0x20680, false), (0x20700, false), (0x20300, false), (0x20600, true)],
    ¬ commandBad (bytesRead (sited.readHub 0 c.1 128)) c.2) ∧ commandBad (bytesRead (sited.readHub 0 0x20500 128)) false := by
  unfold commandBad; decide +kernel

/-- Both slots of the tree's header are taken; slot 0 of the other is free, and a build there has a plan. -/
theorem witness_BuildsRun_slot : (let j := job 0x20600 true .checked
      jobIs (onJob j) j ∧ field (bytesRead ((onJob j).readHub 0 (field j.cmd 0 8) 256)) 37 1 ≠ 0 ∧
        field (bytesRead ((onJob j).readHub 0 (field j.cmd 0 8) 256)) (64 + 37) 1 ≠ 0) ∧
    (let j := job 0x20300 false .checked
     let h := bytesRead ((onJob j).readHub 0 0x20400 256)
     let taken := { j with phase := .taken, slot := 0, gen := 9, live := 0 }
     jobIs (onJob j) j ∧ field j.cmd 0 8 = 0x20400 ∧ field h 37 1 = 0 ∧ field h 128 1 = 9 ∧
       okOf (({ (onJob j).hubWriteAll 0 (slotParts 0x20400 0 (field j.cmd 24 8) (field j.cmd 8 8) (field j.cmd 40 8) (field j.cmd 16 4) 9 1) with
         builds := jobsWith (onJob j) 5 (fun _ => taken) } : State).buildPlan taken) = true) := by
  unfold jobIs; decide +kernel

/-- The nodes of a cell, and those of the final spine, with the places they are written to. -/
def cellPlaces (j : BuildJob) (cell : Nat) : List (Nat × Nat) :=
  let e := (emitCell ⟨j.gen, j.free⟩ (field j.cmd 20 1) cell j.clusters ⟨j.next, []⟩).2
  e.nodes.map (fun n => (field j.cmd 24 8 + 128 * n.1, 128)) ++ [(field j.cmd 40 8 + 4 * (cell - 1), 4)]
def spinePlaces (j : BuildJob) : List (Nat × Nat) :=
  let spine := finalSpine (field j.cmd 20 1) j.clusters
  let made := emitSpine ⟨j.gen, j.free⟩ (field j.cmd 20 1) j.next spine j.clusters 4 0 0 0 ⟨j.next + spine.length, []⟩
  made.2.nodes.map (fun n => (field j.cmd 24 8 + 128 * n.1, 128)) ++ [(field j.cmd 0 8, 256), (j.va + 56, 4)]
def oneSite (s : State) : State := { s with sites := s.sites.mapIdx (fun i x => { x with live := decide (i = 0) }) }

theorem witness_BuildsRun_cairn : (let j := job 0x20300 false .building
      jobIs (onJob j) j ∧ j.refit = false ∧ 8 ≤ 8 ^ field j.cmd 20 1 ∧ 8 ∉ j.raised ∧ 2 ≤ ((onJob j).sites.filter Site.live).length ∧
        okOf ((onJob j).canWrite 0 (cellPlaces j 8)) = true ∧
        ¬ (2 ≤ ((oneSite (onJob j)).sites.filter Site.live).length ∨ 8 ≤ 8 ^ field j.cmd 20 1 / 2 ∨ ∀ i < 8 ^ field j.cmd 20 1 / 2, i + 1 ∈ j.raised)) ∧
    (let j := { job 0x20300 false .building with raised := List.range 8 }
     jobIs (onJob j) j ∧ j.raised.length = 8 ^ field j.cmd 20 1 ∧ okOf ((onJob j).canWrite 0 (spinePlaces j)) = true) ∧
    (let j := job 0x20680 false .building
     jobIs (onJob j) j ∧ ((onJob j).buildStop j).bind BuildStop.status = some 3) := by unfold jobIs; decide +kernel

theorem witness_BuildsRun_compact : (let s := { sited with trees := [(0, 0x20900)] }
    okOf (s.readHub 0 0x20900 256) = true ∧ okOf (s.canWrite 0 [(0x20900 + 37, 1)]) = true ∧ (0, 0x20900) ∈ s.trees ∧
      field (bytesRead (s.readHub 0 0x20900 256)) 37 1 = 3 ∧ field (bytesRead (s.readHub 0 0x20900 256)) 28 4 = 0 ∧ (0, 0x20900, 0) ∉ s.reclaims ∧
      (0, 0x20900, 0) ∈ ({ s with reclaims := [(0, 0x20900, 0)] } : State).reclaims ∧ s.rays.length = 0) := by decide +kernel

/-- The tree at 0x20000 with a root node of one child, the cluster, at 0x64000, and eight empty cell nodes after it. -/
def grown : State :=
  let j := job 0x20600 true .taken
  { onJob j with
    mem := putsMem (onJob j).mem ([(0x400000, 8, 0x64000), (0x400018, 4, 0x40000000), (0x42400F, 1, 1), (0x424040, 4, 0x80000000)] ++
      (List.range 9).flatMap (fun k => [(0x424064 + 128 * k, 1, 3), (0x424068 + 128 * k, 4, 0x3F800000)])) }

theorem witness_BuildsRun_refit : jobIs grown (job 0x20600 true .taken) ∧ okOf (grown.refitPlan (job 0x20600 true .taken)) = true := by
  unfold jobIs; decide +kernel

/-- A raster command at 0x20300: one cluster, 64 by 1 pixels, no small triangles, the visibility buffer at 0x60000, spill at 0x67000. -/
def rastered (j : RasterJob) : State :=
  { treed 0 0 with
    rasters := [j]
    mem := putsMem (treed 0 0).mem [(0x400300, 8, 0x21000), (0x40030C, 4, 1), (0x400310, 4, 64), (0x400314, 4, 1), (0x400320, 8, 0x60000),
      (0x400328, 8, 0x20140), (0x400330, 8, 0x67000), (0x400338, 8, 0x8080)] }
def rasterJob (va : Nat) : RasterJob := ⟨6, 0, va, [], false, 0, 0, 0, 0, 0, [], [], false, none, []⟩
/-- The command running: classified into its one large triangle, or not yet; ended early with a status. -/
def drawing (classified : Bool) (ended : Option Nat) : RasterJob :=
  { rasterJob 0x20300 with
    cmd := bytesRead ((rastered (rasterJob 0x20300)).readHub 0 0x20300 128)
    running := true
    classified := classified
    nlarge := if classified then 1 else 0
    large := if classified then [(0, 0)] else []
    ended := ended }

theorem witness_RasterAndStreams_start : (let s := rastered (rasterJob 0x20300)
      okOf (s.readHub 0 0x20300 128) = true ∧ (rasterCmd (bytesRead (s.readHub 0 0x20300 128))).bad = false) ∧
    (let s := rastered (rasterJob 0x20400)
     okOf (s.readHub 0 0x20400 128) = true ∧ (rasterCmd (bytesRead (s.readHub 0 0x20400 128))).bad = true) ∧
    failOf ((rastered (rasterJob 0x40000)).readHub 0 0x40000 128) 3 = true ∧ (rasterJob 0x40000).running = false ∧
    waitOf ((rastered (rasterJob 0x50000)).readHub 0 0x50000 128) = true ∧
    malformedOf (({ rastered (rasterJob 0xC0000) with
      mem := (rastered (rasterJob 0xC0000)).mem.setBytes 0x10A0C0 (bytesOfNat 16 (0x19 + 0x480000 * 2 ^ 64)) } : State).readHub 0 0xC0000 128) = true := by
  decide +kernel

/-- The command with a CULL, a SMALL and a SMALLQ of its own; the queue at 0x20140 with TAIL as given. -/
def routed (cull small queue tail : Nat) : State :=
  let s := rastered (drawing false none)
  { s with mem := putsMem s.mem [(0x400319, 1, cull), (0x40031C, 4, small), (0x400328, 8, queue), (0x400150, 4, tail)] }
def routedCmd (s : State) : RasterCmd := rasterCmd (bytesRead (s.readHub 0 0x20300 128))
def routedTri (s : State) : V3 × V3 × V3 := triVerts (bytesRead (s.readHub 0 0x21000 640)) 0

/-- The one cluster, of one triangle; and one that is malformed: it has no vertices. -/
theorem witness_RasterAndStreams_clusters : let s := routed 0 0 0x20140 3
    (routedCmd s).count = 1 ∧ (routedCmd s).clus = 0x21000 ∧ (routedCmd s).first = 0 ∧ okOf (s.readHub 0 0x21000 640) = true ∧
    clusterBad (bytesRead (s.readHub 0 0x21000 640)) = false ∧ clusterNt (bytesRead (s.readHub 0 0x21000 640)) = 1 ∧
    (let u := { s with mem := putsMem s.mem [(0x401018, 2, 0)] }
     okOf (u.readHub 0 0x21000 640) = true ∧ clusterBad (bytesRead (u.readHub 0 0x21000 640)) = true) := by decide +kernel

/-- It faces the viewer and is culled or not; with SMALL 0 it is large, with +inf small. -/
theorem witness_RasterAndStreams_routes : (let s := routed 1 0 0x20140 3; drops (routedCmd s) (routedTri s).1 (routedTri s).2.1 (routedTri s).2.2) ∧
    (let s := routed 0 0 0x20140 3; ¬ drops (routedCmd s) (routedTri s).1 (routedTri s).2.1 (routedTri s).2.2 ∧
      ¬ Claims.below (routedCmd s) (routedTri s).1 (routedTri s).2.1 (routedTri s).2.2) ∧
    (let s := routed 0 0x7F800000 0x20140 3; ¬ drops (routedCmd s) (routedTri s).1 (routedTri s).2.1 (routedTri s).2.2 ∧
      Claims.below (routedCmd s) (routedTri s).1 (routedTri s).2.1 (routedTri s).2.2) := by
  have h0 : fp32.value (routedCmd (routed 0 0 0x20140 3)).small = .fin false 0 (-149) := by decide +kernel
  have h1 : fp32.value (routedCmd (routed 0 0x7F800000 0x20140 3)).small = .inf false := by decide +kernel
  refine ⟨?_, ⟨?_, ?_⟩, ?_, ?_⟩
  · unfold drops; decide +kernel
  · unfold drops; decide +kernel
  · unfold Claims.below; rw [h0]; decide +kernel
  · unfold drops; decide +kernel
  · unfold Claims.below; rw [h1]; trivial

/-- SMALLQ with room, full, and with a CAP of 3. -/
theorem witness_RasterAndStreams_queues : ∀ x ∈ [(0x20140, 3), (0x20140, 5), (0x20180, 3)], let s := routed 0 0x7F800000 x.1 x.2
    (match s.reachHub 0 (routedCmd s).smallq 64 (.write false) with
      | .ok pas =>
        let q := pixQueue (pas.map s.mem.get)
        (q.bad == decide (x.1 = 0x20180)) && (q.bad || (decide (q.cap ≤ q.held) == decide (x.2 = 5)) &&
          okOf (s.reachHub 0 (q.ring + 4 * (q.tail % 2 ^ 32 % q.cap)) 4 (.write false)))
      | .error _ => false) = true := by decide +kernel

theorem witness_RasterAndStreams_tiles : (∀ c ∈ [true, false], (rastered (drawing c none)).findRaster 6 = some (drawing c none) ∧ (drawing c none).classified = c) ∧
    (let j := drawing true none; let s := rastered j; let c := rasterCmd j.cmd
     0 < c.tileCols * c.tileRows ∧ s.tileSite c 0 ≠ none ∧ okOf (s.reload j 0) = true ∧ okOf (s.reachHub 0 (c.spill + 0 * c.tileBytes) c.tileBytes (.write false)) = true ∧ okOf (s.tileMerges j 0) = true ∧
     (match s.tileMerges j 0 with
       | .ok ms => decide (s.mergeWait 0 ms = none ∧ s.mergeDup 0 ms = none) && (s.mergeAll 0 ms).2
       | .error _ => false) = true) ∧
    (let s := rastered (drawing true (some 2))
     s.rasters.find? (fun x => decide (x.id = 6)) = some (drawing true (some 2)) ∧ (drawing true (some 2)).running = true) := by decide +kernel

/-- The bin of tile 0 while the command is classified: its triangle in it, flushed before it came, or flushed since; a flushed slot that
cannot be read back. -/
theorem witness_RasterAndStreams_bins : (∀ x ∈ [([], true), ([(0, 0)], true), ([(0, 1)], false)],
      let j := { drawing true none with classified := false, flushed := x.1 }
      let s := rastered j
      (match s.binFilled j 0 with
        | .ok b => b == x.2
        | .error _ => false) = true ∧ s.tileSite (rasterCmd j.cmd) 0 ≠ none) ∧
    (let j := { drawing true none with flushed := [(0, 1)] }
     let s := { rastered j with mem := putsMem (rastered j).mem [(0x400330, 8, 0x40000)] }
     let k := { j with cmd := bytesRead (s.readHub 0 0x20300 128) }
     failOf (s.reload k 0) 3 = true) := by decide +kernel

theorem witness_RasterAndStreams_merge : (let s := rastered (drawing true none)
    (match s.reachHub 0 0x60000 8 (.write false) with
      | .ok (pa :: rest) => (pa :: rest).all (fun a => !s.lost (a / 128))
      | .ok [] | .error _ => false) = true) := by decide +kernel

/-- The stream at time 1000, its slot 1 to be decided next, with a record for it or none, and frames decided; on a live port in stream
mode or a dark one. -/
def sending (q : List FrameRec) (d : List SlotFrame) (live : Bool) : State :=
  let s := streaming 1 q
  { s with
    time := 1000#64
    streams := tabMod s.streams 0 (fun x => { x with decided := d })
    portsUp := 1
    fabric := { s.fabric with portmode := if live then 2 else 0 } }
def frame (px : Option (List (List Nat))) : FrameRec := ⟨0, 0x20200, 1, 7, 0x60000, 128, 1, px, false⟩

theorem witness_RasterAndStreams_image : (let s := sending [frame none] [] true; let x := s.stream 0
    x.queue.find? (fun q => q.pixels.isNone && !q.refused) = some (frame none) ∧
    okOf (s.imageRows 0 0x60000 128 x.width (pixelBytes x.pfmt) x.height 0) = true ∧ s.mem.wf = true) := by decide +kernel

theorem witness_RasterAndStreams_imageFails : (∀ va ∈ [0x50000, 0x40000], let s := sending [{ frame none with image := va }] [] true; let x := s.stream 0
    x.queue.find? (fun q => q.pixels.isNone && !q.refused) = some { frame none with image := va } ∧
    (let r := s.imageRows 0 va 128 x.width (pixelBytes x.pfmt) x.height 0
     waitOf r = decide (va = 0x50000) ∧ failOf r 3 = decide (va = 0x40000))) := by decide +kernel

theorem witness_RasterAndStreams_decide : (let s := sending [frame (some [[1, 2, 3]])] [] true; let x := s.stream 0
      x.enabled = true ∧ x.slotTime x.next ≤ s.time.toNat + x.guardNs ∧
      x.queue.find? (fun q => decide (q.slot = x.next)) = some (frame (some [[1, 2, 3]]))) ∧
    (let s := sending [] [] true; let x := s.stream 0
      x.enabled = true ∧ x.slotTime x.next ≤ s.time.toNat + x.guardNs ∧ x.queue.find? (fun q => decide (q.slot = x.next)) = none) := by decide +kernel

theorem witness_RasterAndStreams_send : (∀ live ∈ [true, false], let s := sending [] [⟨1, some (frame (some [[1, 2, 3]])), some 7⟩] live; let x := s.stream 0
      x.decided = [⟨1, some (frame (some [[1, 2, 3]])), some 7⟩] ∧ x.slotTime 1 ≤ s.time.toNat ∧
      (s.portsUp.testBit x.port && decide (s.fabric.portmode / 4 ^ x.port % 4 = 2)) = live) := by decide +kernel

/-! ### The dispatcher -/

/-- The machine brought up, hub and sites, with its tables at 0x500000, 0x510000, ...; context 0 has save areas of 16 MiB. -/
def upOf (s : State) (ready : Word) : State :=
  { s with
    boot := { s.boot with ready := ready, tables := (List.range 16).map (fun i => 0x500000 + 0x10000 * i) }
    ctxs := tabMod s.ctxs 0 (fun c => { c with areasize := 0x1000000, areas := 4, maxprio := 7 }) }

/-- Queue 1 of the host with one record waiting in its ring at VA 0x60000: a grid of one drove of one wave, or zeros, or a TAIL behind. -/
def hosted (entry tail : Nat) : State :=
  let s := upOf (treed 0 0) 0xFFFFFFFF#32
  { s with mem := putsMem s.mem ([(0x510040, 8, 0x60000), (0x510048, 4, 1), (0x51004C, 4, tail), (0x510055, 1, 1)] ++
    (if entry = 0 then [] else [(0x420000, 8, entry), (0x420008, 2, 1), (0x42000A, 2, 1), (0x42000C, 2, 1), (0x42000E, 1, 1), (0x42000F, 1, 1),
      (0x420010, 1, 32), (0x420011, 1, 1), (0x420012, 1, 16)])) }

/-- The same queue with its ring at another VA; the record with a wait event at 0x20000; a second queue with a record too. -/
def hostedAt (ring : Nat) : State := { hosted 0x10000 1 with mem := putsMem (hosted 0x10000 1).mem [(0x510040, 8, ring)] }
def hostedEvent : State := { hosted 0x10000 1 with mem := putsMem (hosted 0x10000 1).mem [(0x420028, 8, 0x20000)] }
def hostedTwo : State :=
  { hosted 0x10000 1 with
    mem := putsMem (hosted 0x10000 1).mem [(0x510080, 8, 0x60000), (0x510088, 4, 1), (0x51008C, 4, 1), (0x510095, 1, 1)]
    queueTurn := 1 }
/-- What the shepherd finds of the record of queue 1: nothing yet, one with or without a wait event, or a status. -/
def recordIs (s : State) (st : Nat) : Bool :=
  match s.queueRecord 1 with
  | .ok g => decide (st = 0 ∧ g.waitva = 0) || decide (st = 100 ∧ g.waitva ≠ 0) && okPage (s.hubTranslate g.ctx g.waitva .read)
  | .bad k _ _ => decide (st = k)
  | .wait _ => decide (st = 99)

theorem witness_WorkStarts_take : ∀ x ∈ [(hosted 0x10000 1, 0), (hostedEvent, 100), (hosted 0 1, 4), (hostedAt 0x50000, 99)], let s := x.1; let h := s.hostQueue 1
    s.boot.ready.getLsbD 0 = true ∧ h.waiting = true ∧ (s.ctx h.ctx).live = true ∧ h.broken = false ∧ s.queueIsNext 1 = true ∧
    recordIs s x.2 = true := by decide +kernel

theorem witness_WorkStarts_turn : (let s := hostedTwo; let h := s.hostQueue 1
      h.waiting = true ∧ (s.ctx h.ctx).live = true ∧ h.broken = false ∧ s.queueIsNext 1 = false ∧ recordIs s 0 = true) ∧
    ((hosted 0x10000 2).hostQueue 1).broken = true ∧ ((hosted 0x10000 2).hostQueue 1).waiting = true := by decide +kernel

/-- A second grid of one drove of one wave in context 0, with pen bytes and in a phase. -/
def offered (g : Grid → Grid) (ready : Word) : State :=
  let s := upOf stocked ready
  { s with grids := tabMod s.grids 1 (fun g => { g with nextDrove := 1 }) ++ [(2, g { Grid.blank with
      phase := .eligible, entry := 0x10000#48, dx := 1, dy := 1, dz := 1, drove := 1, waves := 1, lastl := 32, regs := 8, sregs := 16 })] }

theorem witness_WorkStarts_child : (∀ va ∈ [0, 0x20000],
      let s0 := offered (fun g => { g with phase := .queued, waitva := va }) 1#32
      let s := { s0 with ctxs := tabMod s0.ctxs 0 (fun c => { c with childq := [2] }) }
      (s.ctx 0).childq.find? (fun k => decide ((s.grid k).phase = .queued)) = some 2 ∧ (s.grid 2).waitva = va ∧
        okPage (s.hubTranslate 0 0x20000 .read) = true) ∧
    (let s := { offered (fun g => { g with phase := .held }) 1#32 with wakes := [⟨.grid 2, 1, 2⟩] }
     (s.grid 2).phase = .held ∧ ⟨.grid 2, 1, 2⟩ ∈ s.wakes) := by decide +kernel

/-- What holds of an untouched core and of every listed one holds of all. -/
theorem core_all {s : State} {p : Core → Prop} (h0 : p Core.init) (h : ∀ x ∈ s.cores, p x.2) (k : Nat) : p (s.core k) := by
  unfold State.core
  cases hk : tabGet s.cores k with
  | none => exact h0
  | some c =>
    suffices ∀ t : Tab Core, tabGet t k = some c → ∃ x ∈ t, x.2 = c by
      obtain ⟨x, hx, rfl⟩ := this _ hk; exact h x hx
    intro t
    induction t with
    | nil => intro h; cases h
    | cons x r ih =>
      intro h
      simp only [tabGet] at h
      split at h
      · exact ⟨x, .head _, by simpa using h⟩
      · obtain ⟨y, hy, e⟩ := ih h; exact ⟨y, .tail _ hy, e⟩

/-- The second grid as it waits. -/
def offer : Cand := ⟨2, none, [7, 2, 0, 0, 2]⟩
/-- The droves in order of their numbers, and room in every drover. -/
def orderly (s : State) : Prop := (∀ x ∈ s.droves, s.drove x.1 = x.2) ∧ ∀ k, (s.core k).drover.length ≤ 256
theorem orderly_of {s : State} (h : (s.droves.all (fun x => s.drove x.1 == x.2) && s.cores.all (fun x => decide (x.2.drover.length ≤ 256))) = true) :
    orderly s := by
  simp only [Bool.and_eq_true, List.all_eq_true, beq_iff_eq, decide_eq_true_eq] at h
  exact ⟨h.1, core_all (p := fun c => c.drover.length ≤ 256) (by decide) h.2⟩

theorem witness_WorkStarts_place : (let s := offered id 0xFFFFFFFF#32
      orderly s ∧ s.candOf 2 false = some offer ∧ s.mayGo offer = true ∧ s.canPlace offer [] = true ∧ s.whole offer = false ∧
        s.setOk offer [1] = true ∧ s.waysShort offer [1] 1 = 0 ∧ (s.grid 2).sched = []) ∧
    (let s := offered (fun g => { g with pen := 1024 }) 0xFFFFFFFF#32
     orderly s ∧ s.candOf 2 false = some offer ∧ s.mayGo offer = true ∧ s.canPlace offer [] = true ∧ s.setOk offer [1] = true ∧
       0 < s.waysShort offer [1] 1 ∧ (s.core 1).claim = none ∧ (∀ x ∈ s.cores, tabGet s.cores x.1 = some x.2) ∧ ∀ x ∈ s.cores, x.2.claim = none) ∧
    (let s := offered id 1#32
     orderly s ∧ s.candOf 2 false = some offer ∧ s.mayGo offer = true ∧ s.canPlace offer [] = false ∧ s.head = some offer) := by
  refine ⟨⟨orderly_of ?_, ?_⟩, ⟨orderly_of ?_, ?_⟩, orderly_of ?_, ?_⟩ <;> decide +kernel

theorem witness_WorkStarts_stays : let s0 := offered id 0xFFFFFFFF#32
    let s := { s0 with grids := s0.grids ++ [(3, { s0.grid 2 with prio := 1 })] }
    orderly s ∧ s.candOf 2 false = some offer ∧ s.mayGo offer = false := by
  refine ⟨orderly_of ?_, ?_⟩ <;> decide +kernel

theorem witness_WorkStarts_stand : (let s := offered id 0xFFFFFFFF#32
    (s.grid 2).waves = 1 ∧ ((s.roomOf 1 []).take (s.grid 2).load).map (fun x => x.1.length) = some 1) := by decide +kernel

theorem witness_WorkStarts_claims : (let s := { offered id 1#32 with cores := tabSet [] 0 { Core.init with claim := some ⟨2, 2, 0, 1⟩ }, time := 0xFFFFFFFF#64 }
      (s.core 0).claim = some ⟨2, 2, 0, 1⟩ ∧ s.bufferedLines 0 = 0 ∧ 0 + s.sched.claimwait * 1000 ≤ s.time.toNat) ∧
    (let s := { offered id 1#32 with time := 0xFFFFFFFF#64 }
     s.head = some offer ∧ s.fitsNow offer = false ∧ s.waitFrom offer + s.sched.backwait * 1000 ≤ s.time.toNat ∧
       s.backfill = [] ∧ setsOf (s.grid 2).drove (s.liveCores 0) ≠ [] ∧ (Room.empty.take (s.grid 2).load).isSome = true) := by decide +kernel

/-- Drove 1 placed and not started, its grid timed and with one request of stage 0; so many requests in the drover of its core. -/
def timed (n : Nat) : State :=
  let s0 := offered id 1#32
  { s0 with
    droves := tabMod s0.droves 1 (fun d => { d with started := false })
    grids := tabMod s0.grids 1 (fun g => { g with flags := 8, sched := [2 ^ 5] })
    cores := tabSet [] 0 { Core.init with drover := List.replicate n ⟨0, 1, 0, 0#256, 0, 0, 0, none, none, [], false⟩ } }

theorem witness_WorkStarts_timed : ∀ n ∈ [0, 256], let s := timed n
    (s.drove 1).phase = .resident ∧ (s.drove 1).started = false ∧ (s.grid (s.drove 1).grid).timed = true ∧
      (s.grid (s.drove 1).grid).start ≤ s.time.toNat ∧ s.stage0Room 1 = decide (n = 0) := by decide +kernel

theorem witness_WorkStarts_restore : let s0 := upOf stocked 0xFFFFFFFF#32
    let s := { s0 with
      droves := tabMod s0.droves 1 (fun d => { d with phase := .saved })
      grids := tabMod s0.grids 1 (fun g => { g with drove := 1, waves := 1, regs := 8, nextDrove := 1 })
      wgs := tabMod s0.wgs 1 (fun g => { g with penBytes := 0 }) }
    (tabGet s.droves 1).isSome = true ∧ (s.drove 1).phase = .saved ∧ s.waits 1 = true ∧ s.mayGo (s.droveCand 1) = true ∧
      s.canPlace (s.droveCand 1) [] = true ∧ s.setOk (s.droveCand 1) [1] = true ∧ s.waysShort (s.droveCand 1) [1] 1 = 0 := by decide +kernel

theorem witness_WorkStarts_turns : (let w := { zeros with lanes := List.replicate 32 { placeLane with idle := 64, burst := 63 } };
      w.groups.find? (fun g => (lanesOf g.2).any (fun l => decide (64 ≤ (w.lane l).idle))) = some (0x10000#48, 0xFFFFFFFF#32) ∧
        (0x10000#48, 0xFFFFFFFF#32) ∈ w.groups ∧ ∃ l < 32, (0xFFFFFFFF#32).getLsbD l = true ∧ 63 ≤ (w.lane l).burst) ∧
    (let s := { at_ zeros 1 1#32 with cycle := 1024#64 };
     s.oldest ((s.readyKeys (0 / 16)).filter (fun k => s.issuable k && decide ((s.wave k).lastClk + 1024 ≤ s.cycle.toNat))) = some 0) := by decide +kernel

theorem witness_WorkEnds_slice : (let s := { offered id 1#32 with time := 0xFFFFFFFF#64 }
      firstCand (s.cands.filter (fun c => decide (c.grid = 2))) = some offer ∧ (∀ x ∈ s.droves, s.drove x.1 = x.2) ∧ s.sched.modes.testBit 1 = true ∧
      s.waitFrom offer + s.sched.tslice * 1000 ≤ s.time.toNat ∧ s.canPlace offer [] = false) ∧
    (let s := offered id 1#32
     firstCand (s.cands.filter (fun c => decide (c.grid = 2))) = some offer ∧ s.time.toNat < s.waitFrom offer + s.sched.tslice * 1000) := by
  decide +kernel

theorem witness_WorkEnds_debug : (let s := noHandler (offered id 1#32);
      (tabGet s.droves 1).isSome = true ∧ (s.drove 1).phase = .resident ∧ (s.ctx (s.grid (s.drove 1).grid).ctx).trapvec = 0#48 ∧ tabRising s.grids = true) ∧
    (let s := offered id 1#32;
      (s.ctx (s.grid (s.drove 1).grid).ctx).trapvec ≠ 0#48 ∧ (s.drove 1).started = true ∧ s.canSave 1 = true ∧ 0 ∈ s.droveWaves 1) := by decide +kernel

/-- The cluster of drove 1 has read 120 degrees for longer than a millisecond, that of core 4 reads 20. -/
def heated : State :=
  let s0 := offered id 0xFFFFFFFF#32
  { s0 with
    grids := tabMod s0.grids 1 (fun g => { g with drove := 1, waves := 1, regs := 8 })
    wgs := tabMod s0.wgs 1 (fun g => { g with penBytes := 0 })
    time := 3000000#64
    sensors := tabSet (tabSet [] (clusterOf 0) [(120, 3000000), (110, 1000000)]) (clusterOf 4) [(20, 0)] }

theorem witness_WorkEnds_migrate : (let s := heated
      (tabGet s.droves 1).isSome = true ∧ s.sched.modes.testBit 0 = true ∧ s.migrates 1 = true ∧ s.droveCluster 1 = some (clusterOf 0) ∧
        s.tooHot (clusterOf 0) = true ∧ (∀ x ∈ s.droves, x.2.target = [] ∧ s.moreToMove x.1 1 = false) ∧
        s.setOk ⟨(s.drove 1).grid, some 1, []⟩ [4] = true ∧ (∀ k ∈ [4], s.cooler (clusterOf k) (clusterOf 0) = true)) ∧
    (tabGet heated.sensors (clusterOf 0)).getD [] = (120, heated.time.toNat) :: [(110, 1000000)] ∧ heated.hottest (clusterOf 4) = some 20 := by
  decide +kernel

/-- A wave all of whose lanes have exited; in a workgroup of two, or the last one with a copy of its workgroup still to be made. -/
def overState (two : Bool) (copies : Nat) : State :=
  let s := at_ { zeros with lanes := List.replicate 32 { placeLane with state := .exited } } 1 1#32
  { s with
    wgs := tabMod s.wgs 1 (fun g => { g with nwaves := if two then 2 else 1 })
    cores := tabSet [] 0 { Core.init with drover := List.replicate copies ⟨0, 1, 0, 0#256, 0, 0, 0, none, none, [], false⟩ } }

theorem witness_WorkEnds_wave : (∀ x ∈ [(true, 1), (false, 0), (false, 1)], let s := overState x.1 x.2; let w := s.wave 0
      tabGet s.waves 0 = some w ∧ tabRising s.waves = true ∧ waveOver w ∧ (s.drove (s.wg w.wg).drove).phase = .resident ∧
        (tabGet s.wgs w.wg).isSome = true) ∧
    (let g := (overState true 1).wg 1; g.ended = [] ∧ g.nwaves = 2) ∧ (let g := (overState false 1).wg 1; g.nwaves = 1 ∧ g.core = 0) ∧
    ((overState false 1).core 0).drover.map CopyReq.wg = [1] ∧ ((overState false 0).core 0).drover = [] := by
  unfold waveOver; decide +kernel

theorem witness_WorkEnds_grid : (let s0 := upOf stocked 1#32
    let s := { s0 with
      grids := tabMod s0.grids 1 (fun g => { g with nextDrove := 1, dx := 1, dy := 1, dz := 1 })
      droves := tabMod s0.droves 1 (fun d => { d with phase := .ended }) }
    let mine := s.wgs.filter (fun x => decide (s.wgGrid x.1 = 1))
    (s.grid 1).phase = .running ∧ (s.grid 1).nextDrove = (s.grid 1).dx * (s.grid 1).dy * (s.grid 1).dz ∧
    (∀ d ∈ s.droves, d.2.grid = 1 → d.2.phase = .ended) ∧ mine ≠ [] ∧
    ((mine.map (fun x => x.2.core)).eraseDups.foldl State.performAll s).gridOver 1 = true) := by decide +kernel

/-- A descriptor at the place of context 1: in order, or with a reserved byte set; ENABLE as given. -/
def described (enable bad : Nat) : State :=
  let s := upOf (treed 0 0) 1#32
  { s with mem := putsMem s.mem [(0x500100, 8, 0x100000), (0x500118, 4, 0x10000), (0x50011C, 4, 1), (0x500128, 4, 64), (0x500144, 2, 16), (0x500158, 8, enable),
    (0x500160, 1, bad)] }

theorem witness_WorkEnds_enable : (let s := described 1 0
      s.boot.ready.getLsbD 0 = true ∧ (s.ctx 1).live = false ∧ field (descriptorAt s 1) 88 8 = 1 ∧ descOk (descriptorAt s 1) = true ∧
        s.commonsFits (field (descriptorAt s 1) 44 4) = true) ∧
    (let s := described 1 1
     (s.ctx 1).live = false ∧ field (descriptorAt s 1) 88 8 = 1 ∧ descOk (descriptorAt s 1) = false) ∧
    (let s := described 0 0
     (s.ctx 0).live = true ∧ tabRising s.ctxs = true ∧ tabRising s.grids = true ∧ field (descriptorAt s 0) 88 8 = 0 ∧
       0 ∈ ({ s with killed := [0] } : State).killed) := by decide +kernel

/-! ### Blocks -/

/-- The four blocks with GEN `gen`: in order, or with a reserved byte set. -/
def blocked (gen bad : Nat) : State :=
  let s := upOf stocked 1#32
  { s with mem := putsMem s.mem [(0x530000, 4, 100), (0x530004, 4, 10), (0x530008, 4, 10), (0x530010, 4, 0x03284600 + 127), (0x530014, 4, 1000), (0x530018, 8, gen),
    (0x53003F, 1, bad), (0x540006, 1, 2), (0x540018, 8, gen), (0x54003F, 1, bad), (0x550000, 4, 1000), (0x550019, 1, 1), (0x550038, 8, gen), (0x550037, 1, bad),
    (0x560008, 4, 8), (0x56000C, 4, 10), (0x560038, 8, gen), (0x560037, 1, bad)] }

theorem witness_BlocksTakeEffect_same : hubUp (blocked 0 0) ∧ field (blockAt (blocked 0 0) 3) 24 8 = (blocked 0 0).sched.gen ∧
    field (blockAt (blocked 0 0) 4) 24 8 = (blocked 0 0).policy.gen ∧ field (blockAt (blocked 0 0) 5) 56 8 = (blocked 0 0).power.gen ∧
    field (blockAt (blocked 0 0) 6) 56 8 = (blocked 0 0).fabric.gen := by unfold hubUp; decide +kernel

theorem witness_BlocksTakeEffect_fits : let s := blocked 7 0
    field (blockAt s 3) 24 8 ≠ s.sched.gen ∧ SchedFits (blockAt s 3) ∧ field (blockAt s 4) 24 8 ≠ s.policy.gen ∧ PolicyFits (blockAt s 4) ∧
    field (blockAt s 5) 56 8 ≠ s.power.gen ∧ s.power.frozen = false ∧ PowerFits s (blockAt s 5) ∧ field (blockAt s 6) 56 8 ≠ s.fabric.gen ∧
    FabricFits (blockAt s 6) ∧ s.boot.ready.getLsbD 24 = false := by
  refine ⟨by decide +kernel, ⟨?_, ?_, ?_⟩, by decide +kernel, ⟨?_, ?_⟩, by decide +kernel, by decide +kernel, ⟨?_, ?_, ?_, ?_⟩, by decide +kernel,
    ⟨?_, ?_, ?_, ?_⟩, by decide +kernel⟩ <;> (try unfold Claims.within) <;> (try unfold Claims.zerosAt) <;> decide +kernel

theorem witness_BlocksTakeEffect_not : let s := blocked 7 1
    ¬ SchedFits (blockAt s 3) ∧ ¬ PolicyFits (blockAt s 4) ∧ ¬ PowerFits s (blockAt s 5) ∧ ¬ FabricFits (blockAt s 6) := by
  refine ⟨fun h => absurd (h.reserved 31 (by omega)) (by decide +kernel), fun h => absurd (h.reserved.2 31 (by omega)) (by decide +kernel),
    fun h => absurd (h.reserved.2 9 (by omega)) (by decide +kernel), fun h => absurd (h.reserved.2 19 (by omega)) (by decide +kernel)⟩

/-! ### Maintenance -/

/-- One command at HEAD of the ring: its bytes as numbers at offsets. -/
def commanded (s : State) (c : List (Nat × Nat × Nat)) : State :=
  { s with mem := putsMem s.mem ([(0x520000, 8, 0x521000), (0x520008, 4, 1), (0x52000C, 4, 1), (0x520015, 1, 1)] ++ c.map (fun x => (0x521000 + x.1, x.2))) }
/-- The command as it is read. -/
def command (s : State) : List Byte := s.mem.getBytes 0x521000 64
/-- A command of context 0 on the page at VA 0x20000. -/
def pageCommand (op : Nat) : List (Nat × Nat × Nat) :=
  [(0, 1, op), (8, 8, 0x20000), (16, 4, 1), (20, 4, if op = 3 then 1 else 0), (24, 8, 0x700000)]
def ready : State := upOf stocked 0x7FF#32

theorem witness_Maintenance_ring : ∀ op ∈ [1, 2, 3, 4, 5, 6, 7, 8], (commanded ready (pageCommand op)).nextCommand =
    some (0x521000, command (commanded ready (pageCommand op))) ∧ field (command (commanded ready (pageCommand op))) 0 1 = op ∧
    (commanded ready (pageCommand op)).boot.ready.getLsbD 0 = true ∧ (commanded ready (pageCommand op)).maint = [] := by decide +kernel

/-- Commands of no kind, with a reserved byte set, and without one. -/
theorem witness_Maintenance_bad : field (command (commanded ready [(0, 1, 9)])) 0 1 = 9 ∧ ¬ cleanCommand (command (commanded ready [(0, 1, 1), (56, 1, 1)])) ∧
    cleanCommand (command (commanded ready (pageCommand 1))) ∧ ready.mem.wf = true := by
  unfold cleanCommand Claims.zerosAt; decide +kernel

theorem witness_Maintenance_inval : let s := commanded ready (pageCommand 1)
    (s.ctx (cmdCtxOf (command s))).live = true ∧ cmdVaOf (command s) % 65536 = 0 ∧ 1 ≤ field (command s) 16 4 := by decide +kernel

/-- The page stands, its leaf is not duplicated, and frame 0x700000 stands on die 0 of site 0. -/
theorem witness_Maintenance_page : ∀ l ∈ [[], [(0, 2)]], ∃ x, pageIs { ready with blockedWalks := l } 0 0x20000 x ∧ dupLeaf x = false := by
  intro l h
  have k : ∀ l ∈ [[], [(0, 2)]], ({ ready with blockedWalks := l } : State).walk 0 0x20000 =
      .leaf ⟨0, 0x20000, 65536, 11 + 0x400000 * 2 ^ 64, 0x10A020⟩ := by decide +kernel
  exact ⟨_, ⟨k l h, rfl⟩, by decide +kernel⟩

theorem witness_Maintenance_frames : frameStands ready 0x700000 ∧ homeDie 0x700000 = 0 ∧ homeDie 0x700000 / 2 = 0 ∧
    dupSitesOf (command (commanded ready (pageCommand 3))) = [0] ∧ (ready.sites.getD 0 (Site.init false)).live = true ∧ ready.dups = [] ∧
    (0, 0x20000 / 65536) ∉ ready.blockedWalks := by unfold frameStands; decide +kernel

/-- A command under way, of its page's leaf, taken at time 0; with a store to the page still to be performed, or none. -/
def underWay (op : Nat) (busy : Bool) (leaf : Nat) : State :=
  let s := commanded ready (pageCommand op)
  { s with
    time := 0xFFFFFFFF#64
    maint := [⟨0, 0x521000, command s, 0, leaf, 0x10A020, [(0x400000, 65536)], none⟩]
    blockedWalks := [(0, 2)]
    wgs := tabMod s.wgs 1 (fun g => { g with sbuf := if busy then [(0x400000, 1#8)] else [] }) }

theorem witness_Maintenance_busy : ∀ op ∈ [2, 3], ∃ m, (underWay op true 0).maint = [m] ∧ field m.bytes 0 1 = op ∧ (underWay op true 0).posted = [] ∧
    ¬ storesPerformed (underWay op true 0) (cmdCtxOf m.bytes) m.ranges ∧ m.since + (underWay op true 0).sched.claimwait * 1000 ≤ (underWay op true 0).time.toNat := by
  intro op h
  have k : ∀ op ∈ [2, 3], field (command (commanded ready (pageCommand op))) 0 1 = op ∧
      (underWay op true 0).wgs.any (fun g => decide ((underWay op true 0).wgCtx g.1 = 0) && g.2.sbuf.any (fun c => decide (c.1 = 0x400000))) = true ∧
      cmdCtxOf (command (commanded ready (pageCommand op))) = 0 ∧
      0 + (underWay op true 0).sched.claimwait * 1000 ≤ (underWay op true 0).time.toNat := by decide +kernel
  obtain ⟨a, b, c, d⟩ := k op h
  refine ⟨_, rfl, a, rfl, fun p => ?_, d⟩
  simp only [List.any_eq_true, Bool.and_eq_true, decide_eq_true_eq] at b
  obtain ⟨g, hg, hc, x, hx, hv⟩ := b
  exact p.1 g hg (hc.trans c.symm) x hx _ (List.mem_singleton.mpr rfl) (by omega)

theorem witness_Maintenance_done : (∀ op ∈ [1, 2, 3], ∀ leaf ∈ [11 + 0x400000 * 2 ^ 64, 9], (underWay op false leaf).posted = [] ∧
      field (command (commanded ready (pageCommand op))) 0 1 = op ∧ (underWay op false leaf).tethers = []) ∧
    storesPerformed (underWay 2 false 9) 0 [(0x400000, 65536)] ∧ pageUnlogged (underWay 2 false 9) 0 0x20000 ∧
    numberAt (underWay 2 false 9) 0x10A020 16 = 11 + 0x400000 * 2 ^ 64 ∧ ptePa (11 + 0x400000 * 2 ^ 64) % 65536 = 0 ∧
    cmdPaOf (command (commanded ready (pageCommand 2))) 0 % 65536 = 0 ∧ dupFramesOf (command (commanded ready (pageCommand 3))) = [0x700000] := by
  unfold storesPerformed pageUnlogged; decide +kernel

theorem witness_Maintenance_logged : let s := underWay 2 false 9
    ¬ pageUnlogged { s with cores := tabSet s.cores 3 { Core.init with sideLog := [⟨0, 0x20100, 1, 0, 1#32, [], none, false, 0#48, 0⟩] } } 0 0x20000 := by
  unfold pageUnlogged; decide +kernel

/-- The page duplicated on site 0 and site 2, its leaf marked; its collapse begun or not. -/
def doubled (acks : Option (List Nat)) : State :=
  let s := commanded ready (pageCommand 4)
  { s with
    mem := s.mem.setBytes 0x10A020 (bytesOfNat 16 (11 + 32 + 5 * 2 ^ 16 + 0x400000 * 2 ^ 64))
    dups := [(5, ⟨0, 0x20000, 0x400000, [some 0x700000, none, some 0x710000], acks, []⟩)] }
def doubledPage : TlbEntry := ⟨0, 0x20000, 65536, 11 + 32 + 5 * 2 ^ 16 + 0x400000 * 2 ^ 64, 0x10A020⟩

theorem witness_Maintenance_undup : pageIs (doubled none) 0 0x20000 doubledPage ∧ dupLeaf doubledPage = true ∧ dupPlace doubledPage = 5 ∧
    (∃ d, tabGet (doubled none).dups 5 = some d ∧ d.acks = none ∧ replicaAt d 0 ∧ replicaAt d 2) ∧ (doubled none).mem.wf = true := by
  refine ⟨⟨by decide +kernel, rfl⟩, by decide +kernel, by decide +kernel, ⟨_, rfl, rfl, ?_, ?_⟩, by decide +kernel⟩ <;> unfold replicaAt <;> decide +kernel

theorem witness_Maintenance_acked : pageIs (doubled (some [0, 2])) 0 0x20000 doubledPage ∧
    (∃ d, tabGet (doubled (some [0, 2])).dups 5 = some d ∧ d.acks = some [0, 2] ∧ ∀ k, replicaAt d k → k ∈ d.acks.getD []) ∧
    (∀ d, tabGet (doubled none).dups 5 = some d → d.acks = none) := by
  refine ⟨⟨by decide +kernel, rfl⟩, ⟨_, rfl, rfl, fun k h => ?_⟩, fun d h => by cases h; rfl⟩
  obtain ⟨hk, h⟩ := h
  match k, hk, h with
  | 0, _, _ => decide
  | 1, _, h => cases h
  | 2, _, _ => decide

theorem witness_Maintenance_ack : ∀ l ∈ [[], [0]], (∃ d, tabGet (doubled (some l)).dups 5 = some d ∧ d.acks = some l ∧ replicaAt d 2 ∧ 2 ∉ l) ∧
    tabRising (doubled (some l)).dups = true ∧ pageIs (doubled (some l)) 0 0x20000 doubledPage := by
  intro l h
  have k : ∀ l ∈ [[], [0]], 2 ∉ l ∧ tabRising (doubled (some l)).dups = true ∧ (doubled (some l)).walk 0 0x20000 = .leaf doubledPage := by decide +kernel
  exact ⟨⟨_, rfl, rfl, ⟨by omega, rfl⟩, (k l h).1⟩, (k l h).2.1, (k l h).2.2, rfl⟩

theorem witness_Maintenance_settings : (let b := command (commanded ready [(0, 1, 5), (48, 8, 2 ^ 32 + 1000000)])
      field b 48 8 % 2 ^ 32 = 1000000 ∧ field b 48 8 < 2 ^ 33) ∧
    (∀ f ∈ [0x700000, 0x700001], let s := commanded ready [(0, 1, 6), (16, 4, 1), (24, 8, 0x20800)];
      let u := { s with mem := s.mem.setBytes 0x400800 (bytesOfNat 8 f) };
      okOf (u.reachHub 0 (cmdPaOf (command u) 0) (8 * field (command u) 16 4) .read) = true ∧ field (u.mem.getBytes 0x400800 8) 0 8 = f) ∧
    (let at_ := fun va => commanded ready [(0, 1, 6), (16, 4, 1), (24, 8, va)]
     let reach := fun (s : State) => s.reachHub 0 (cmdPaOf (command s) 0) 8 .read
     waitOf (reach (at_ 0x50000)) = true ∧ failOf (reach (at_ 0x40000)) 3 = true ∧
       malformedOf (reach { at_ 0xC0000 with mem := (at_ 0xC0000).mem.setBytes 0x10A0C0 (bytesOfNat 16 (0x19 + 0x480000 * 2 ^ 64)) }) = true) ∧
    (0x700001 % 65536 ≠ 0) ∧
    (let b := command (commanded ready [(0, 1, 7), (1, 1, 255), (20, 4, 2 ^ 17 - 1)])
     cmdCtxOf b = 255 ∧ field b 20 4 < 2 ^ 17 ∧ 65536 ≤ field b 20 4) := by decide +kernel

theorem witness_Maintenance_attest : let s := commanded ready [(0, 1, 8), (8, 8, 0x20000)]
    (s.ctx (cmdCtxOf (command s))).live = true ∧ cmdVaOf (command s) % 64 = 0 ∧ (command s).length = 64 ∧
      okOf (s.reachHub 0 (cmdVaOf (command s)) 3076 (.write true)) = true ∧ s.boot.fuse < 2 ^ 20 ∧ 2 ^ 20 ≤ 2 ^ 20 := by decide +kernel

theorem witness_Maintenance_hot : let s := { ready with hotOn := true, time := 0xFFFFFFFF#64 }
    ∃ d, s.dies[5]? = some d ∧ d.live = true ∧ d.since + s.hotInterval * 1000 ≤ s.time.toNat := ⟨_, rfl, rfl, by decide +kernel⟩

/-! ### Pagers -/

/-- The table of one region of one page at VA 0x20000 with GEN 1; its ring at 0x20200, in a page at 0x60000, with CAP 4, TAIL and HEAD as given;
one frame free. Context 0 has read GEN `gen`. -/
def paged (gen tail head bad : Nat) (us : List Upcall) : State :=
  let s := upOf stocked 0x7FF#32
  { s with
    mem := putsMem s.mem [(0x10A060, 16, 11 + 0x420000 * 2 ^ 64), (0x400000, 8, 1), (0x400008, 4, 1), (0x40000C, 1, bad),
      (0x400040, 8, 0x50000), (0x400048, 8, 0x60000), (0x400053, 1, 4), (0x400060, 8, 0x20200), (0x400068, 8, 0x70000),
      (0x400200, 8, 0x60000), (0x400208, 4, 4), (0x40020C, 4, tail), (0x400210, 4, head)]
    ctxs := tabMod s.ctxs 0 (fun c => { c with
      pagertab := 0x20000
      pagerGen := gen
      regions := [⟨0x50000, 0x60000, 0, 0, 0, 4, 0, 0x20200, 0x70000, false⟩]
      frames := [0x700000]
      upcalls := us }) }
def pagerBytes (s : State) (va n : Nat) : List Byte := (s.hubRead 0 va n).getD []
/-- An upcall for the region's page: waiting for a slot, or in one with its record at 0x60000. -/
def calling (slot : Option Nat) : Upcall :=
  ⟨0, ⟨0x50000, 0x60000, 0, 0, 0, 4, 0, 0x20200, 0x70000, false⟩, 0x50000, 0, slot, if slot.isSome then [0x700000] else [], 0x60000, 0, false, false⟩

theorem witness_PagersServe_table : (let s := paged 0 0 0 0 []
      (s.ctx 0).live = true ∧ (s.hubRead 0 (s.ctx 0).pagertab 64).isSome = true ∧ (pagerBytes s 0x20000 64).length = 64 ∧
      field (pagerBytes s 0x20000 64) 0 8 = 1 ∧ field (pagerBytes s 0x20000 64) 8 4 = 1 ∧ Claims.zerosAt (pagerBytes s 0x20000 64) 12 52 ∧
      (s.hubRead 0 ((s.ctx 0).pagertab + 64) (64 * 1)).isSome = true ∧ (s.ctx 0).pagerGen = 0) ∧
    ((paged 1 0 0 0 []).ctx 0).pagerGen = 1 ∧ ¬ Claims.zerosAt (pagerBytes (paged 0 0 0 1 []) 0x20000 64) 12 52 := by
  unfold Claims.zerosAt; decide +kernel

theorem witness_PagersServe_region : RegionFits (pagerBytes (paged 0 0 0 0 []) 0x20040 64) ∧ ¬ RegionFits (pagerBytes (paged 0 0 0 0 []) 0x20000 64) := by
  refine ⟨⟨by decide +kernel, ?_, by decide +kernel, by decide +kernel, by decide +kernel, by decide +kernel, by decide +kernel, ?_⟩,
    fun h => absurd h.range.1 (by decide +kernel)⟩
  · unfold Claims.within; decide +kernel
  · unfold Claims.zerosAt; decide +kernel

/-- With a ring that has room, one that is full, and one whose HEAD is past TAIL. -/
theorem witness_PagersServe_upcall : (∀ c ∈ [(3, 0), (4, 0), (5, 0)], let s := paged 1 c.1 c.2 0 [calling none]; let c0 := s.ctx 0; let r := (calling none).reg
      c0.upcalls.findIdx? (fun u => u.slot.isNone && decide (u.kind = 0) && decide (u.page ≤ 0x5FFFF) && decide (0x5FFFF < u.page + regionPage u.reg)) = some 0 ∧
      (c0.regions[0]?.map Region.stopped) = some false ∧ (s.hubRead r.pctx r.upring 64).isSome = true ∧ c0.takeFrames r = some [0x700000] ∧
      c0.freeFill 0 r = some 0 ∧ field (pagerBytes s 0x20200 64) 8 4 = 4 ∧ field (pagerBytes s 0x20200 64) 12 4 = c.1 ∧ field (pagerBytes s 0x20200 64) 16 4 = c.2) ∧
    (let s := paged 1 3 0 0 [calling none]; let r := (calling none).reg
     (s.leafSlot r.pctx (r.fill + 0 * regionPage r) (regionShift r)).isSome = true ∧ (s.hubPas r.pctx (0x60000 + 64 * 3) 64 (.write true)).isSome = true ∧
       (s.hubPas r.pctx (r.upring + 12) 4 (.write true)).isSome = true) := by decide +kernel

/-- A table that ends where a page does, and one whose entry has its end before its start. -/
theorem witness_PagersServe_tables : (let s0 := paged 0 0 0 0 []
      let s := { s0 with
        mem := putsMem s0.mem [(0x41FFC0, 8, 1), (0x41FFC8, 4, 1)]
        ctxs := tabMod s0.ctxs 0 (fun c => { c with pagertab := 0x3FFC0 }) }
      (s.hubRead 0 (s.ctx 0).pagertab 64).isSome = true ∧ field (pagerBytes s 0x3FFC0 64) 0 8 = 1 ∧ field (pagerBytes s 0x3FFC0 64) 8 4 = 1 ∧
        s.hubRead 0 ((s.ctx 0).pagertab + 64) (64 * 1) = none) ∧
    (let s := { paged 0 0 0 0 [] with mem := putsMem (paged 0 0 0 0 []).mem [(0x400048, 8, 0x40000)] }
     (s.hubRead 0 ((s.ctx 0).pagertab + 64) (64 * 1)).isSome = true ∧ field (pagerBytes s 0x20040 64) 8 8 < field (pagerBytes s 0x20040 64) 0 8) := by
  decide +kernel

/-- A stopped region, no frames, and a fill slot whose table is absent. -/
theorem witness_PagersServe_waits : (let s := paged 1 3 0 0 [calling none]
      let f := fun (g : Context → Context) => ({ s with ctxs := tabMod s.ctxs 0 g } : State)
      ((f (fun c => { c with regions := c.regions.map (fun r => { r with stopped := true }) })).ctx 0).regions.map Region.stopped = [true] ∧
      ((f (fun c => { c with frames := [] })).ctx 0).takeFrames (calling none).reg = none) ∧
    (let r := { (calling none).reg with fill := 0x400000000000 }
     let s := paged 1 3 0 0 [{ calling none with reg := r }]
     (s.ctx 0).freeFill 0 r = some 0 ∧ s.leafSlot r.pctx r.fill (regionShift r) = none) := by decide +kernel

theorem witness_PagersServe_late : (∀ t ∈ [1000000, 1000001], let s := { paged 1 0 0 0 [calling none] with time := BitVec.ofNat 64 t }
    (s.ctx 0).upcalls[0]? = some (calling none) ∧ (calling none).slot = none ∧ (calling none).late = false ∧ s.time.toNat = t) := by decide +kernel

/-- A reply in the record. -/
def replied (n : Nat) : State :=
  let s := paged 1 1 0 0 [calling (some 0)]
  { s with mem := s.mem.setBytes 0x42000C (bytesOfNat 4 n) }

theorem witness_PagersServe_reply : (∀ n ∈ [0, 1, 2], (replied n).mem.wf = true ∧ hubNumber (replied n) 0 (0x60000 + 12) 4 = n ∧
      ((replied n).ctx 0).upcalls[0]? = some (calling (some 0)) ∧ (((replied n).ctx 0).regions[0]?.map Region.stopped) = some false ∧ (replied n).posted = []) ∧
    ((replied 1).wgs.all (fun g => g.2.sbuf.isEmpty)) = true ∧ ((replied 1).cores.all (fun c => c.2.committed.isEmpty && c.2.sideLog.isEmpty)) = true ∧
    ((replied 1).leafSlot 0 0x50000 16).isSome = true ∧ ((replied 1).leafSlot 0 0x70000 16).isSome = true := by decide +kernel

/-- What waits for nothing is left alone. -/
theorem untaken {s : State} {q : Nat} (h : (s.hostQueue q).waiting = false) : s.refuseRecord q = .next s := by
  have k : execHostQueueTake q s = .next s := by simp [execHostQueueTake, h]
  simp only [State.refuseRecord, k, h, ne_eq, not_true_eq_false, ↓reduceIte, Bool.and_false, Bool.false_and, Bool.false_eq_true]
  cases s.queueRecord q <;> rfl
theorem left_alone {s : State} {f : State → Out} (h : f s.unrefused = .next s.unrefused) (k : f s = .next s) : s.failStuck f = s := by
  simp [State.failStuck, h, k]

theorem unmet {s : State} {g : Nat} (h : (s.grid g).phase ≠ .held) : execWaitEventMet g s = .next s := by simp [execWaitEventMet, h]
theorem unrefused_queue (s : State) (q : Nat) : s.unrefused.hostQueue q = s.hostQueue q := rfl
theorem unrefused_grid (s : State) (g : Nat) : s.unrefused.grid g = s.grid g := rfl

theorem queues_left_alone {v : State} (he : v.engineWaits = (List.range 1024).map State.refuseRecord ++ [execWaitEventMet 1])
    (hq : (List.range 1024).all (fun q => !(v.hostQueue q).waiting) = true) (hg : (v.grid 1).phase ≠ .held) : ∀ f ∈ v.engineWaits, v.failStuck f = v := by
  intro f hf
  rw [he, List.mem_append] at hf
  rcases hf with hf | hf
  · obtain ⟨q, hm, rfl⟩ := List.mem_map.mp hf
    have hw := List.all_eq_true.mp hq q hm
    rw [Bool.not_eq_true'] at hw
    exact left_alone (untaken (by rw [unrefused_queue]; exact hw)) (untaken hw)
  · rw [List.mem_singleton.mp hf]
    exact left_alone (unmet (by rw [unrefused_grid]; exact hg)) (unmet hg)

/-- The refused reply with wave 0 at work, or waiting for the page, with a load owed to it or nothing. -/
def refusing (waits owes : Bool) : State :=
  { replied 2 with
    waves := tabMod (replied 2).waves 0 (fun w => { w with
      wait := if waits then .page 0 5 0 someTrap else w.wait
      owed := if owes then [⟨1, .load, .vec 3 1, 1#32, [], 0, 0#32, false, false, 0#32, 0#48⟩] else w.owed }) }
def refused (s : State) : State := { s with ctxs := upcallWith s 0 0 (fun x => { x with refused := true }) }

theorem witness_PagersServe_refuse (waits owes : Bool) : (∀ f ∈ (refused (refusing waits owes)).engineWaits,
      (refused (refusing waits owes)).failStuck f = refused (refusing waits owes)) ∧
    (let s := refusing waits owes
     s.posted = [] ∧ tabRising s.waves = true ∧ (s.cores.all (fun c => c.2.sideLog.isEmpty)) = true ∧
     ∃ w, s.waves = [(0, w)] ∧ w.handler = false ∧ w.owedNothing = !owes ∧ (w.wait = if waits then .page 0 5 0 someTrap else .none)) := by
  cases waits <;> cases owes <;>
  exact ⟨queues_left_alone (by set_option maxRecDepth 20000 in rfl) (by decide +kernel) (by decide +kernel), rfl, by decide +kernel, by decide +kernel,
    _, rfl, rfl, rfl, rfl⟩

/-! ### The host, links and errors -/

/-- Everything up, port.0 too. -/
def hostedUp : State := { upOf stocked 0xFFFFFFFF#32 with portsUp := 1 }

/-- Nothing of the host waits; a write waits for a collapse; a message waits behind one. -/
def hostedWaits (k : Nat) : State :=
  { hostedUp with
    dups := if k = 1 then [(5, ⟨0, 0x20000, 0x480000, [some 0x700000], some [], [(0x480000, [1#8])]⟩)] else []
    inbound := if k = 2 then [.write [(0x480000, 1#8)]] else [] }

theorem witness_HostAndErrors_reach : (∀ k ∈ [0, 1, 2], HostReaches (hostedWaits k) 0x400000 8) ∧ ¬ HostReaches ready 0x400000 8 ∧ noneWaits (hostedWaits 0) ∧
    ¬ noneWaits (hostedWaits 1) ∧ (∀ k ∈ [0, 1], (hostedWaits k).inbound = []) ∧ (hostedWaits 2).inbound ≠ [] ∧
    (∀ k ∈ [0, 1, 2], ∀ i < 8, (hostedWaits k).dupOf (0x400000 + i) = none) ∧ 0x400000 % 8 = 0 := by
  have k : ∀ k ∈ [0, 1, 2], ((hostedWaits k).boot.ready.getLsbD 10 = true ∧ (hostedWaits k).portsUp.testBit 0 = true) ∧
      (homeDie 0x400000 < 6 ∧ homeDie (0x400000 + 8 - 1) = homeDie 0x400000 ∧ (hostedWaits k).boot.ready.getLsbD (4 + homeDie 0x400000) = true) ∧
      ((hostedWaits k).populated 0x400000 = true ∧ (hostedWaits k).populated (0x400000 + 8 - 1) = true) := by decide +kernel
  refine ⟨fun n h => ⟨(k n h).1, by decide, (k n h).2.1, (k n h).2.2⟩, fun h => absurd h.port.2 (by decide +kernel), ?_⟩
  unfold noneWaits; decide +kernel

/-- HEAD of queue 1 and STATUS of no block: what the host may only read, what it may write. -/
theorem witness_HostAndErrors_readOnly : hostedUp.readOnly (0x510040 + 16) = true ∧ hostedUp.readOnly (0x510040 + 19) = true ∧
    hostedUp.readOnly (0x510040 + 15) = false ∧ hostedUp.readOnly (0x510040 + 20) = false ∧ hostedUp.readOnly 0x580000 = true ∧
    hostedUp.readOnly 0x400000 = false := by decide +kernel

theorem witness_HostAndErrors_dup : (let s := { doubled none with portsUp := 1 }
    (∀ i < 8, s.dupOf (0x400000 + i) = some 5) ∧ (tabGet s.dups 5).isSome = true) ∧ noneWaits (doubled none) ∧ (doubled none).inbound = [] := by
  refine ⟨by decide +kernel, ?_, rfl⟩
  unfold noneWaits; decide +kernel

/-- Links that are up, down, retraining, with NAKs; retrained lately or long ago. -/
def linked9 (x : Link) : State := { hostedUp with links := List.replicate 9 x, time := 5000000#64 }

theorem witness_HostAndErrors_links : (∀ x ∈ [Link.init, { Link.init with up := false }, { Link.init with naks := 8 }, { Link.init with naks := 7 },
      { Link.init with naks := 8, lastRetrain := 4000001 }, { Link.init with naks := 8, lastRetrain := 4000000 },
      { Link.init with retraining := true, retrains := 1 }, { Link.init with retraining := true, retrains := 2 }],
      (linked9 x).links[8]? = some x) ∧ (linked9 Link.init).sites.length = 3 ∧ (linked9 Link.init).dies.length = 6 ∧
    (linked9 Link.init).time.toNat = 4000000 + 1000000 ∧ (linked9 Link.init).time.toNat < 4000001 + 1000000 ∧
    (128 + 2 ^ 32 - Link.init.expected) % 2 ^ 32 = 128 := by decide +kernel

theorem witness_HostAndErrors_corrected : correctedLately hostedUp 2 0 < hostedUp.policy.cerate ∧
    (let s := { hostedUp with errors := { hostedUp.errors with corrected := List.replicate 16 (unitOf 2 0, 0) } }
     s.policy.cerate ≤ correctedLately s 2 0) := by decide +kernel

/-- A unit in quarantine, its test running or not; errors of it in the last second. -/
def tested (unit loc : Nat) (testing : Bool) (errs : Nat) : State :=
  { hostedUp with
    quarantined := [⟨unit, loc, 1, testing, false⟩]
    errors := { hostedUp.errors with recent := List.replicate errs (unitOf unit loc, 0) } }

theorem witness_HostAndErrors_start : (let s := tested 2 0 false 1;
      s.quarantined.find? (fun q => decide (q.unit = 2) && decide (q.loc = 0)) = some ⟨2, 0, 1, false, false⟩) ∧
    (∀ x ∈ [(true, false), (false, true)], let s := { hostedUp with quarantined := [⟨2, 0, 1, x.1, x.2⟩] }
     s.quarantined.find? (fun q => decide (q.unit = 2) && decide (q.loc = 0)) = some ⟨2, 0, 1, x.1, x.2⟩) ∧
    (let s := tested 0 (locOfCore 5 0) false 1;
      s.quarantined.find? (fun q => decide (q.unit = 0) && decide (q.loc = locOfCore 5 0)) = some ⟨0, locOfCore 5 0, 1, false, false⟩ ∧
      s.residents (locCore (locOfCore 5 0)) = []) ∧
    (let s := tested 0 (locOfCore 0 0) false 1;
     s.residents (locCore (locOfCore 0 0)) = [1] ∧ s.policy.testmove = 1 ∧ (s.ctx (s.grid (s.drove 1).grid).ctx).trapvec ≠ 0#48 ∧
       (s.drove 1).phase = .resident ∧ s.early 1 = false ∧ s.canSave 1 = true) ∧
    (let s := noHandler (tested 0 (locOfCore 0 0) false 1);
     (s.ctx (s.grid (s.drove 1).grid).ctx).trapvec = 0#48 ∧ (tabGet s.grids (s.drove 1).grid).isSome = true) := by decide +kernel

theorem witness_HostAndErrors_result : (∀ c ∈ [(2, 5, 1), (7, 0, 4), (5, 4, 4)], let s := tested c.1 c.2.1 true c.2.2;
      s.quarantined.find? (fun q => decide (q.unit = c.1) && decide (q.loc = c.2.1) && q.testing && !q.lasting) = some ⟨c.1, c.2.1, 1, true, false⟩ ∧
      erredLately s c.1 c.2.1 = c.2.2 ∧ s.policy.sticky = 4) := by decide +kernel

/-! ### Remote accesses, the clock and power -/

/-- Port 1 up and in hirsel mode, the path table at 0x430000 naming it for device 0 and no port for device 1; context 0 has home brand 7 and
one brand in its table at VA 0x20000, brand 3. -/
def podded : State :=
  let s := upOf stocked 0xFFFFFFFF#32
  { s with
    mem := putsMem s.mem [(0x430000, 1, 1), (0x400000, 2, 3)]
    portsUp := 3
    fabric := { s.fabric with portmode := 4, wanted := 4, pathtab := 0x430000 }
    ctxs := tabMod s.ctxs 0 (fun c => { c with homebrand := 7, nbrands := 1, brandtab := 0x20000 })
    messages := [⟨5, 0, 9, 7, 0, 0, 1, 0⟩, ⟨6, 0, 9, 7, 1, 0, 1, 0⟩]
    peers := [(1, [4])] }

theorem witness_RemoteAndClock_admit : AdmittedBy podded 3 7 0 ∧ (∀ ctx, ¬ AdmittedBy podded 7 3 ctx) ∧ 4 ∈ (tabGet podded.peers 1).getD [] ∧
    5 ∉ (tabGet podded.peers 1).getD [] ∧ okOf (podded.reachHub 0 0x20100 4 (.write false)) = true ∧ okOf (podded.reachHub 0 0x20100 4 .read) = true ∧
    waitOf (podded.reachHub 0 0x50000 4 .read) = true ∧ failOf (podded.reachHub 0 0x40000 4 .read) 3 = true := by
  refine ⟨⟨⟨_, rfl⟩, by decide +kernel, ?_⟩, fun ctx h => ?_, by decide +kernel, by decide +kernel, by decide +kernel, by decide +kernel, by decide +kernel,
    by decide +kernel⟩
  · have h : (podded.hubRead 0 (podded.ctx 0).brandtab (2 * (podded.ctx 0).nbrands)).isSome = true ∧
        field ((podded.hubRead 0 (podded.ctx 0).brandtab (2 * (podded.ctx 0).nbrands)).getD []) 0 2 = 3 ∧ 0 < (podded.ctx 0).nbrands := by decide +kernel
    obtain ⟨b, hb⟩ := Option.isSome_iff_exists.mp h.1
    exact ⟨b, hb, 0, h.2.2, by simpa [hb] using h.2.1⟩
  · obtain ⟨c, hc⟩ := h.first
    have k : (podded.ctxs.find? (fun c => c.2.live && decide (c.2.homebrand = 3))).isSome = false := by decide +kernel
    rw [hc] at k
    cases k

theorem witness_RemoteAndClock_messages : podded.messages.find? (fun x => decide (x.id = 5)) = some ⟨5, 0, 9, 7, 0, 0, 1, 0⟩ ∧ podded.pathPort 0 = some 1 ∧
    podded.pathPort 1 = none ∧ podded.time.toNat < 0 + podded.fabric.fabtmo * 1000 ∧
    (let s := { podded with time := BitVec.ofNat 64 (podded.fabric.fabtmo * 1000) }
     0 + s.fabric.fabtmo * 1000 ≤ s.time.toNat) := by decide +kernel

theorem witness_RemoteAndClock_ports : (podded.boot.ready.getLsbD (10 + 12) = true ∧ podded.portsUp.testBit 12 = false) ∧ podded.portsUp.testBit 1 = true ∧
    (let s := { podded with fabric := { podded.fabric with wanted := 8 } }
     ¬ modeDrained s 1 ∧ modeDrained { s with messages := [] } 1 ∧ ∀ q < 1, ¬ modeDrained { s with messages := [] } q) ∧
    (∀ q < 13, ¬ modeDrained podded q) := by unfold modeDrained; decide +kernel

theorem witness_RemoteAndClock_clock : podded.boot.ready.getLsbD (10 + podded.fabric.ptpport) = true ∧ podded.portsUp.testBit podded.fabric.ptpport = true ∧
    podded.boot.ready.getLsbD 23 = true ∧ stocked.boot.ready.getLsbD 23 = false ∧ stocked.portsUp.testBit stocked.fabric.ptpport = false ∧ podded.mem.wf = true := by
  decide +kernel

theorem witness_PowerAndBringUp_sites : (podded.sites[0]?.map Site.trip) = some false ∧
    (({ podded with sites := siteWith podded 0 (fun x => { x with trip := true }) } : State).sites[0]?.map Site.trip) = some true := by decide +kernel

theorem witness_PowerAndBringUp_budget : podded.power.rackmask.testBit 0 = false ∧ podded.power.freqmask.testBit 0 = false ∧
    ({ podded.power with rackmask := 1 } : PowerBlock).rackmask.testBit 0 = true ∧ podded.time.toNat / 1000000 = podded.power.epoch ∧
    (let s := { podded with time := 1000000#64 }
     s.time.toNat / 1000000 ≠ s.power.epoch ∧ s.power.frozen = false ∧ ¬ signalled s ∧ signalled podded ∧
       ¬ signalled { s with power := { s.power with frozen := true } }) := by
  unfold signalled; decide +kernel

theorem witness_PowerAndBringUp_watchdog : (let s := { podded with time := 50000000#64 }
      s.power.floorHold = false ∧ s.power.watchdog + 50000000 ≤ s.time.toNat ∧ s.power.slot = 0) ∧
    podded.time.toNat < podded.power.watchdog + 50000000 ∧ podded.power.pendingSlot = none ∧
    (let s := { podded with time := 1000000#64, power := { podded.power with pendingSlot := some 1 } }
     s.power.pendingSlot = some 1 ∧ s.time.toNat / 1000000 ≠ s.power.epoch) := by decide +kernel

/-- Slots 0 and 1 verified or not, of versions given. An image that verifies is the outside's to show: `Config.verifies` has no value here; one
of a version below the least never does. -/
def imaged (a b : Bool) (va vb : Nat) : State :=
  { State.reset with boot := { State.reset.boot with
      slotA := ⟨va, a, []⟩, slotB := ⟨vb, b, []⟩, hubImage := ⟨1, true, []⟩, minVersion := 1 } }

theorem witness_PowerAndBringUp_images : slotStarts { (imaged true true 2 2).boot with hubImage := romFinds (imaged true true 2 2) 0 [] } 0 ∧
    slotStarts { (imaged true true 1 2).boot with hubImage := romFinds (imaged true true 1 2) 0 [] } 1 ∧
    (imaged false false 1 1).boot.slotA.verified = false ∧ (imaged false false 1 1).boot.slotB.verified = false ∧
    (romFinds (imaged true true 1 1) 0 []).verified = false ∧ podded.power.slot ≠ 1 ∧ hubUp podded ∧ (imaged true true 2 2).boot.ready.getLsbD 0 = false := by
  refine ⟨.inl ⟨rfl, rfl, .inr (by decide)⟩, .inr ⟨rfl, rfl, .inr (by decide)⟩, rfl, rfl, ?_, by decide +kernel, by unfold hubUp; decide +kernel, by decide +kernel⟩
  simp [romFinds, imaged]

theorem witness_PowerAndBringUp_ready : (∀ fn ∈ [0, 1, 3, 4, 9, 10, 22, 23, 24], mayBeReady (imaged true false 1 1) fn) ∧
    (imaged true false 1 1).boot.ready = 0#32 ∧ ¬ mayBeReady State.reset 0 ∧ ¬ mayBeReady (imaged true false 1 1) 2 ∧
    ¬ mayBeReady (imaged true false 1 1) 25 ∧ podded.boot.ready.getLsbD 24 = true ∧ (imaged true false 1 1).fabric.streamtab = 0 ∧
    ({ (imaged true false 1 1).fabric with streamtab := 0x440000 } : FabricBlock).streamtab ≠ 0 := by
  refine ⟨fun fn h => ⟨fun _ => ⟨rfl, .inl rfl⟩, ?_, ?_, ?_⟩, rfl, fun h => Bool.noConfusion (h.1 rfl).1, fun h => absurd (h.2.1 (by omega) (by omega)) (by decide),
    fun h => absurd h.2.2.2 (by omega), by decide +kernel, rfl, by decide⟩
  · exact (by decide : ∀ fn ∈ [0, 1, 3, 4, 9, 10, 22, 23, 24], 1 ≤ fn → fn ≤ 3 → Harvest.init.dieEn.testBit (fn - 1) = true) fn h
  · exact (by decide : ∀ fn ∈ [0, 1, 3, 4, 9, 10, 22, 23, 24], 4 ≤ fn → fn ≤ 9 → Harvest.init.dieEn.testBit fn = true) fn h
  · exact (by decide : ∀ fn ∈ [0, 1, 3, 4, 9, 10, 22, 23, 24], fn ≤ 24) fn h

/-! ### Steps -/

def fetchedOk (x : Fetched) (w : Word) : Bool :=
  match x with
  | .words ws ps => decide (ws = [w]) && decide (ps.length ≤ 1)
  | _ => false

/-- ADDI v3, v1, 1 fetched after reset, as the first issue of a clk and as slot B, of the same wave or of another one. -/
def fetching (b : Option Issue) : State := { State.reset.withFetchWord 32 0x300C0801 with slotB := b }
def issuing (slotB : Bool) (before : Option Wave) : Issue :=
  { Issue.init with lanes := 0xFFFFFFFF#32, pc := 0x10000#48, slotB := slotB, before := before }
def addi311 : Instr := .addi (.reg 3) (.reg 1) 1#11

theorem witness_StepRunsDecoded : (fetching none).agenda = [.issue] ∧ (fetching none).slotB = none ∧ decode [0x300C0801#32] = .ok addi311 ∧
    (let u := { fetching none with agenda := [] }
     u.quarterList.find? (fun q => decide (u.cursor ≤ q)) = some 0 ∧ (u.slotAOf 0).map (fun a => (a.key, a.pc, a.lanes)) = some (0, 0x10000#48, 0xFFFFFFFF#32) ∧
       fetchedOk (u.fetch 0 0x10000#48) 0x300C0801#32 = true ∧ (u.wave 0).holdsFor (u.wave 0) addi311 0xFFFFFFFF#32 = false ∧
       (match u.fetch 0 0x10000#48 with
         | .words _ ps => decide ((((u.aim (issuing false none)).touchAll 0 false ps).begin addi311 1).badRead addi311 = none)
         | _ => false) = true) := by
  refine ⟨rfl, rfl, rfl, ?_⟩; decide +kernel

theorem witness_StepRunsDecoded_slotB : ∀ v ∈ [none, some ((fetching none).wave 0)], let b := issuing true v; let s := fetching (some b)
    s.slotB = some b ∧ (∀ l < 32, b.lanes.getLsbD l = true → ((s.wave b.key).lane l).state = .ready ∧ ((s.wave b.key).lane l).pc = b.pc) ∧
    s.issuable b.key = true ∧ (s.wave 0).pend = none ∧ (s.wave 0).wait = .none ∧ portsFree s.portMem s.portTile addi311 = true ∧
    (b.before.getD (s.wave 0)).holdsFor (s.wave 0) addi311 b.lanes = false := by decide +kernel

/-- A wave with a trap to enter and nothing owed to it. -/
def trapping : State := { stocked with waves := tabMod stocked.waves 0 (fun w => { w with pend := some someTrap }), agenda := [], slotB := none }

theorem witness_StepRunsDecoded_due : trapping.slotB = none ∧ trapping.agenda = [] ∧ trapping.dueEvent = some (.trapEntry 0) := by
  refine ⟨rfl, rfl, ?_⟩
  have hm : moves trapping (.trapEntry 0) = true := by
    have he : exec (.trapEntry 0) trapping = .next (trapping.enterTrap 0 someTrap) := rfl
    simp only [moves, he, decide_eq_true_eq]
    intro h
    exact absurd (congrArg (fun s : State => (s.wave 0).handler) h) (by decide +kernel)
  obtain ⟨w, hw⟩ : ∃ w, trapping.waves = [(0, w)] := ⟨_, rfl⟩
  simp [State.dueEvent, State.ownEvents, hw, waveEvents, hm]

theorem witness_StepRunsDecoded_event : ({ State.reset with agenda := [.occur .firmwareFreeze] } : State).agenda = .occur .firmwareFreeze :: [] ∧
    Instr.firmwareFreeze.cls = 16 ∧ (Instr.nop).cls ≠ 16 := by decide +kernel

theorem witness_DecodeEncode : (∀ i ∈ ([.addi .discard (.reg 123) 0x7FF#11, .add false (.reg 7) (.reg 3) (.lit 0xFFFFFFFF#32), .nop] : List Instr),
    i.cls < 16 ∧ i.wf = true) ∧ decode [0x300C0801#32] = .ok (.addi (.reg 3) (.reg 1) 1#11) := ⟨by decide +kernel, rfl⟩

theorem witness_MemoryStaysCanonical : canonical stocked ∧ stocked.mem ≠ [] ∧ canonical State.reset := by
  refine ⟨⟨by unfold State.memOk; decide +kernel, by decide +kernel⟩, by decide +kernel, by unfold State.memOk; decide +kernel, fun c h => nomatch h⟩

/-! ## Arithmetic by hand -/

/-- 2048 + 1 is a tie in FP16 and rounds to 2048: added chunk by chunk, two ones leave it so, where one sum of them would give 2050 (R74,
R256). -/
theorem test_mma_rounds_each_chunk : let e := (List.range 64).map (fun k => FVal.fin false (if k % 32 = 0 then 1 else 0) 0)
    accStep fp16 false false 0x6800 e e none = (0x6800, 0, false) ∧ accStep fp16 false false 0x6800 (e.take 32) (e.take 32) none = (0x6800, 0, false) := by
  decide +kernel

/-- 65504 + 65504 overflows FP16: to the largest finite under SAT with SATD, else to infinity with INF (R76, R256). -/
theorem test_mma_overflow : let e := FVal.fin false 65504 0 :: List.replicate 31 (.fin false 0 0)
    let one := FVal.fin false 1 0 :: List.replicate 31 (.fin false 0 0)
    accStep fp16 false true 0x7BFF e one none = (0x7BFF, 1, false) ∧ accStep fp16 false false 0x7BFF e one none = (0x7C00, 2, false) := by
  decide +kernel

end Sys2Proof.Tests
end

section
/-! # Memory and every commons window stay canonical (log entry 5)

`canonical s` is kept by every operation of the model. For an operation `f` on states, `canonical.f` says so; for one that
answers an outcome, `Kept.f` does. Memory is written by `setCells`, `filter` and `copyFrame` alone, and a commons window by
`setCells` and `setBytes` where it is not new; by `Laws` these keep a list of cells in form. Every other write is of another
field (`canonical.upd`). Each lemma follows the definition it is about, branch by branch; a branch that writes neither memory
nor a context closes by `h`, since `canonical` unfolds to facts about these fields alone. -/

namespace Sys2Proof.Claims

open Sys2Proof Sys2Proof.Machine

/-! ## What an outcome keeps -/

/-- A state that an outcome leaves is canonical. -/
inductive Kept : Out → Prop
  | next {t : State} (h : canonical t) : Kept (.next t)
  | fault {f : Fault} : Kept (.fault f)
  | refused {r : Refusal} : Kept (.refused r)

/-- A state that a run of an array operation leaves is canonical. -/
inductive KeptRun : ArrayRun → Prop
  | done {t : State} (h : canonical t) : KeptRun (.done t)
  | wait {va : Nat} : KeptRun (.wait va)
  | fault {cause info faddr : Nat} {bad : Bool} : KeptRun (.fault cause info faddr bad)
  | lost {pa : Nat} : KeptRun (.lost pa)
  | shadow : KeptRun .shadow

/-- A state that a push to the small queue leaves is canonical. -/
inductive KeptPushed : Pushed → Prop
  | done {t : State} (h : canonical t) : KeptPushed (.done t)
  | full : KeptPushed .full
  | stop {e : BuildStop} : KeptPushed (.stop e)

/-- The state that a step goes on from is canonical. -/
inductive KeptWork : Work → Prop
  | idle {t : State} (h : canonical t) : KeptWork (.idle t)
  | stop {f : Fault} : KeptWork (.stop f)
  | event {e : Instr} {t : State} (h : canonical t) : KeptWork (.event e t)
  | issue {i : Instr} {t : State} {b : Option Issue} (h : canonical t) : KeptWork (.issue i t b)

/-- Every entry of a table with one entry changed is an entry as it was, or one changed. -/
theorem mem_tabMod {α : Type} {t : Tab α} {k : Nat} {f : α → α} {x : Nat × α} (h : x ∈ tabMod t k f) :
    x ∈ t ∨ ∃ y ∈ t, x = (y.1, f y.2) := by
  induction t with
  | nil => exact absurd h List.not_mem_nil
  | cons y r ih =>
    obtain ⟨j, w⟩ := y
    rw [tabMod] at h
    split at h
    · rcases List.mem_cons.1 h with rfl | h
      · exact .inr ⟨_, List.mem_cons_self, rfl⟩
      · exact .inl (List.mem_cons_of_mem _ h)
    · rcases List.mem_cons.1 h with rfl | h
      · exact .inl List.mem_cons_self
      · rcases ih h with h | ⟨y, hy, e⟩
        · exact .inl (List.mem_cons_of_mem _ h)
        · exact .inr ⟨y, List.mem_cons_of_mem _ hy, e⟩


variable {s : State}

theorem KeptRun.state {r : ArrayRun} {t : State} (h : KeptRun r) (e : r = .done t) : canonical t := by
  subst e; cases h; assumption

theorem KeptPushed.state {r : Pushed} {t : State} (h : KeptPushed r) (e : r = .done t) : canonical t := by
  subst e; cases h; assumption

theorem Kept.state {r : Out} {t : State} (h : Kept r) (e : r = .next t) : canonical t := by
  subst e; cases h; assumption

theorem canonical.ite {c : Prop} [Decidable c] {t u : State} (ht : canonical t) (hu : canonical u) :
    canonical (if c then t else u) := by split <;> assumption

theorem Kept.ite {c : Prop} [Decidable c] {q r : Out} (hq : Kept q) (hr : Kept r) : Kept (if c then q else r) := by
  split <;> assumption

theorem KeptRun.ite {c : Prop} [Decidable c] {q r : ArrayRun} (hq : KeptRun q) (hr : KeptRun r) :
    KeptRun (if c then q else r) := by
  split <;> assumption

theorem KeptWork.ite {c : Prop} [Decidable c] {q r : Work} (hq : KeptWork q) (hr : KeptWork r) :
    KeptWork (if c then q else r) := by split <;> assumption

/-- An update that writes neither memory nor a context. -/
theorem canonical.upd {t : State} (h : canonical s) (hm : t.mem = s.mem) (hc : t.ctxs = s.ctxs) :
    canonical t := by
  unfold canonical State.memOk
  rw [hm, hc]
  exact h

theorem canonical.foldl {α : Type} {f : State → α → State} {l : List α} (hf : ∀ t x, canonical t → canonical (f t x))
    (h : canonical s) : canonical (l.foldl f s) := by
  induction l generalizing s with
  | nil => exact h
  | cons x r ih => exact ih (hf s x h)

theorem canonical.foldlSnd {α β : Type} {f : β × State → α → β × State} {l : List α} {p : β × State}
    (hf : ∀ p x, canonical p.2 → canonical (f p x).2) (h : canonical p.2) : canonical (l.foldl f p).2 := by
  induction l generalizing p with
  | nil => exact h
  | cons x r ih => exact ih (hf p x h)

theorem canonical.foldlFst {α β : Type} {f : State × β → α → State × β} {l : List α} {p : State × β}
    (hf : ∀ p x, canonical p.1 → canonical (f p x).1) (h : canonical p.1) : canonical (l.foldl f p).1 := by
  induction l generalizing p with
  | nil => exact h
  | cons x r ih => exact ih (hf p x h)

/-! ### Memory -/

theorem canonical.modWave {key f} (h : canonical s) : canonical (s.modWave key f) := h

theorem canonical.modWg {id f} (h : canonical s) : canonical (s.modWg id f) := h

theorem canonical.modDrove {id f} (h : canonical s) : canonical (s.modDrove id f) := h

theorem canonical.modGrid {id f} (h : canonical s) : canonical (s.modGrid id f) := h

theorem canonical.modCtx {c f} (hf : ∀ c, c.commons.wf = true → (f c).commons.wf = true) (h : canonical s) :
    canonical (s.modCtx c f) := by
  refine ⟨h.1, fun x hx => ?_⟩
  rcases mem_tabMod hx with hx | ⟨y, hy, rfl⟩
  · exact h.2 x hx
  · exact hf y.2 (h.2 y hy)

theorem canonical.modCore {c f} (h : canonical s) : canonical (s.modCore c f) := h

theorem canonical.modQuarter {q f} (h : canonical s) : canonical (s.modQuarter q f) := h

theorem canonical.freshId (h : canonical s) : canonical (s.freshId).2 := h

theorem canonical.perform {cells} (h : canonical s) : canonical (s.perform cells) := ⟨Laws.wf_setCells h.1 cells, h.2⟩

theorem canonical.performBytes {a bs} (h : canonical s) : canonical (s.performBytes a bs) := .perform h

theorem canonical.dropTethers {p} (h : canonical s) : canonical (s.dropTethers p) := h

theorem canonical.commit {wg} (h : canonical s) : canonical (s.commit wg) := .modDrove (.modWg (.modCore h))

theorem canonical.startCollapse {i} (h : canonical s) : canonical (s.startCollapse i) := h

theorem canonical.performLine {core line} (h : canonical s) : canonical (s.performLine core line) := by
  unfold State.performLine
  split
  · exact h
  · split
    · exact .startCollapse h
    · exact .upd (.perform (.modCore h)) rfl rfl

theorem canonical.performSpread {core line} (h : canonical s) : canonical (s.performSpread core line) := by
  unfold State.performSpread; exact .ite (.upd (.performLine h) rfl rfl) (.performLine h)

theorem canonical.performAll {core} (h : canonical s) : canonical (s.performAll core) := by
  unfold State.performAll
  dsimp only [canonical, State.memOk]
  exact canonical.foldl (fun _ _ k => .performLine k) h

theorem canonical.touchRo {wg lines} (h : canonical s) : canonical (s.touchRo wg lines) := .modWg h

theorem canonical.buffer {wg cells} (h : canonical s) : canonical (s.buffer wg cells) := .touchRo (.modWg h)

theorem canonical.pathFill {core line} (h : canonical s) : canonical (s.pathFill core line) := .ite h (.modCore h)

theorem canonical.penSet {wg a bs} (h : canonical s) : canonical (s.penSet wg a bs) := .ite (.modCore h) (.modWg h)

/-! ### Translation -/

theorem canonical.report {r} (h : canonical s) : canonical (s.report r) := by
  unfold State.report
  extract_lets
  split
  · exact .ite (.performBytes (.upd h rfl rfl)) (.performBytes (.performBytes (.upd h rfl rfl)))
  · dsimp only [canonical, State.memOk]
    exact canonical.upd h rfl rfl

theorem canonical.orLeaf {leafPa bits} (h : canonical s) : canonical (s.orLeaf leafPa bits) :=
  .ite h (.performBytes h)

theorem canonical.touch {core x write} (h : canonical s) : canonical (s.touch core x write) := .modCore (.orLeaf h)

theorem canonical.touchAll {core write ts} (h : canonical s) : canonical (s.touchAll core write ts) := by
  unfold State.touchAll
  refine .foldl (fun _ _ k => ?_) h
  split
  · exact .touch k
  all_goals exact k

theorem canonical.askPage {ctx va kind} (h : canonical s) : canonical (s.askPage ctx va kind) := by
  unfold State.askPage
  extract_lets
  split
  · split
    · exact h
    · split
      · exact .modCtx (fun _ k => k) h
      · exact h
  · exact h

theorem canonical.hubSeen {ctx va n need} (h : canonical s) : canonical (s.hubSeen ctx va n need) := by
  unfold State.hubSeen
  refine .foldl (fun _ _ k => ?_) h
  split
  · exact .orLeaf k
  all_goals exact k

theorem canonical.hubWrite {ctx va bs} (h : canonical s) : canonical (s.hubWrite ctx va bs) := by
  unfold State.hubWrite
  split
  · extract_lets
    split
    · exact .upd (.hubSeen h) rfl rfl
    · exact .perform (.hubSeen h)
  · exact h

theorem canonical.hubWriteAll {ctx parts} (h : canonical s) : canonical (s.hubWriteAll ctx parts) := by
  unfold State.hubWriteAll
  split
  · exact .perform (.foldl (fun _ _ k => .hubSeen k) h)
  · exact h

theorem canonical.hubPost {ctx parts} (h : canonical s) : canonical (s.hubPost ctx parts) := by
  unfold State.hubPost
  extract_lets
  split
  · exact .askPage (.upd h rfl rfl)
  · exact .foldl (fun _ _ k => .hubWrite k) h

/-! ### Registers, signals and traps -/

theorem canonical.modCur {f} (h : canonical s) : canonical (s.modCur f) := .modWave h

theorem canonical.putV {ls n f} (h : canonical s) : canonical (s.putV ls n f) := by
  unfold State.putV; exact .upd h rfl rfl

theorem canonical.putS {n x} (h : canonical s) : canonical (s.putS n x) := by
  unfold State.putS; exact .ite h (.upd h rfl rfl)

theorem canonical.putU {d x} (h : canonical s) : canonical (s.putU d x) := by
  unfold State.putU
  split
  · exact .putS h
  · exact h

theorem canonical.putU64 {d x} (h : canonical s) : canonical (s.putU64 d x) := by
  unfold State.putU64
  split
  · exact .putS (.putS h)
  · exact h

theorem canonical.putQ {n x} (h : canonical s) : canonical (s.putQ n x) := by
  unfold State.putQ; exact .ite h (.upd h rfl rfl)

theorem canonical.putD {d f} (h : canonical s) : canonical (s.putD d f) := by
  unfold State.putD
  split
  · exact .putV h
  · exact h

theorem canonical.putD64 {d f} (h : canonical s) : canonical (s.putD64 d f) := by
  unfold State.putD64
  split
  · exact .putV (.putV h)
  · exact h

theorem canonical.push {wide f} (h : canonical s) : canonical (s.push wide f) := .modCur h

theorem canonical.adv (h : canonical s) : canonical s.adv := .modCur h

theorem canonical.retry {st} (h : canonical s) : canonical (s.retry st) := .modCur h

theorem canonical.retryWave {wt} (h : canonical s) : canonical (s.retryWave wt) := .modCur h

theorem canonical.hold {st} (h : canonical s) : canonical (s.hold st) := .modCur h

theorem canonical.putM {d x} (h : canonical s) : canonical (s.putM d x) := by
  unfold State.putM; exact .ite h (.upd h rfl rfl)

theorem canonical.signal {handle g status killed} (h : canonical s) : canonical (s.signal handle g status killed) :=
  .ite (.ite h (.report h)) (.hubPost h)

theorem canonical.leaveCore {wg} (h : canonical s) : canonical (s.leaveCore wg) := by
  unfold State.leaveCore; exact .modCore (.modWg (.upd h rfl rfl))

theorem canonical.dropWg {wg} (h : canonical s) : canonical (s.dropWg wg) := by
  unfold State.dropWg
  dsimp only [canonical, State.memOk]
  exact canonical.modCtx (fun _ k => k) (.leaveCore (.dropTethers h))

theorem canonical.dropClaims {id} (h : canonical s) : canonical (s.dropClaims id) := h

theorem canonical.unreserve {id} (h : canonical s) : canonical (s.unreserve id) := h

theorem canonical.freeLog {core} (h : canonical s) : canonical (s.freeLog core) := h

theorem canonical.killOne {status id} (h : canonical s) : canonical (s.killOne status id) := by
  unfold State.killOne
  refine .signal ?_
  refine .modCtx (fun _ k => k) ?_
  dsimp only [canonical, State.memOk]
  exact canonical.unreserve (.dropClaims (.dropTethers (.foldl (fun _ _ k => .dropWg (.freeLog (.modCore k))) h)))

theorem canonical.killGrid {status id} (h : canonical s) : canonical (s.killGrid status id) :=
  .foldl (fun _ _ k => .killOne k) h

theorem canonical.rebindSaved {key} (h : canonical s) : canonical (s.rebindSaved key) := h

theorem canonical.setStatus {wg index words} (h : canonical s) : canonical (s.setStatus wg index words) :=
  .ite (.modWg h) (.foldl (fun _ _ k => .ite (.hubPost k) k) (.modWg h))

theorem canonical.killTrapped {key t} (h : canonical s) : canonical (s.killTrapped key t) := .killGrid (.report h)

theorem canonical.rechoose {key} (h : canonical s) : canonical (s.rechoose key) := .ite (.modQuarter h) h

theorem canonical.enterTrap {key t} (h : canonical s) : canonical (s.enterTrap key t) :=
  .ite (.killTrapped h) (.rechoose (.modWave (.setStatus (.rebindSaved h))))

theorem canonical.raise {t} (h : canonical s) : canonical (s.raise t) :=
  .ite (.killTrapped h) (.ite (.enterTrap (.modCur h)) (.modCur (.modCur h)))

theorem Kept.checked {i bad own eff} (hf : ∀ t, canonical t → canonical (eff t)) (h : canonical s) :
    Kept (checked i bad own eff s) := by
  unfold Machine.checked
  split
  · exact .next (.raise h)
  · split
    · exact .next (.raise h)
    · exact .next (hf _ h)

theorem Kept.plain {i eff} (hf : ∀ t, canonical t → canonical (eff t)) (h : canonical s) : Kept (plain i eff s) :=
  .checked (fun _ k => hf _ k) h

theorem canonical.resumeWait {key} (h : canonical s) : canonical (s.resumeWait key) := by
  unfold State.resumeWait
  dsimp only
  split
  case h_1 | h_2 => exact .ite (.modWave (.modWave h)) (.upd h rfl rfl)
  all_goals exact .modWave h

theorem canonical.returnOne {key} (h : canonical s) : canonical (s.returnOne key) :=
  .modCore (.resumeWait (.modWave h))

/-! ### Floating flags and results owed -/

theorem canonical.raiseFlags {fl} (h : canonical s) : canonical (s.raiseFlags fl) := .modCur h

theorem canonical.spend (h : canonical s) : canonical s.spend := by
  unfold State.spend; exact .ite h (.upd h rfl rfl)

theorem canonical.quarantine {unit loc} (h : canonical s) : canonical (s.quarantine unit loc) := by
  unfold State.quarantine; exact .ite h (.upd h rfl rfl)

theorem canonical.shadowFound {key} (h : canonical s) : canonical (s.shadowFound key) := .report (.quarantine h)

theorem canonical.shadowRecord (h : canonical s) : canonical s.shadowRecord := by
  unfold State.shadowRecord; exact .upd (.shadowFound h) rfl rfl

theorem Kept.floatingIn {who i k f put} (hf : ∀ x t, canonical t → canonical (put x t)) (h : canonical s) :
    Kept (floatingIn who i k f put s) := by
  unfold Machine.floatingIn
  split
  · exact .next (.raise h)
  · extract_lets
    split
    · exact .next (.raise (.shadowRecord h))
    · split
      · exact .next (.raise h)
      · exact .next (.adv (.raiseFlags (hf _ _ (.spend h))))

theorem Kept.floating {i k f put} (hf : ∀ x t, canonical t → canonical (put x t)) (h : canonical s) :
    Kept (floating i k f put s) := .floatingIn (fun _ _ k => hf _ _ k) h

theorem Kept.flagged {i fl eff} (hf : ∀ t, canonical t → canonical (eff t)) (h : canonical s) :
    Kept (flagged i fl eff s) := .checked (fun _ k => .adv (.raiseFlags (hf _ k))) h

theorem canonical.owe {kind dest lanes data flags bad acq} (h : canonical s) :
    canonical (s.owe kind dest lanes data flags bad acq) := .modCur (.freshId h)

/-! ### Records and losses -/

theorem canonical.noteOob {q es} (h : canonical s) : canonical (s.noteOob q es) := .ite (.modCur h) h

theorem canonical.discardWg {wg} (h : canonical s) : canonical (s.discardWg wg) := .dropWg (.modCore h)

theorem canonical.relaunch {d} (h : canonical s) : canonical (s.relaunch d) :=
  .modGrid (.modDrove (.freshId (.foldl (fun _ _ k => .discardWg k) h)))

theorem canonical.lossRecord {wg kind pa act} (h : canonical s) : canonical (s.lossRecord wg kind pa act) := .report h

theorem canonical.consume {lanes faddr pa} (h : canonical s) : canonical (s.consume lanes faddr pa) := by
  unfold State.consume
  extract_lets
  split
  · exact .relaunch (.lossRecord h)
  · exact .killGrid (.lossRecord h)
  · exact .raise (.lossRecord h)

theorem canonical.due {key t} (h : canonical s) : canonical (s.due key t) := .modWave h

theorem canonical.freeAddr (h : canonical s) : canonical (s.freeAddr).2 := h

theorem canonical.fallDue {key cause info lanes iaddr faddr arrayf} (h : canonical s) :
    canonical (s.fallDue key cause info lanes iaddr faddr arrayf) := .due h

theorem canonical.affect {wg kind pa stop who} (h : canonical s) : canonical (s.affect wg kind pa stop who) := by
  unfold State.affect
  split
  · exact .relaunch (.lossRecord h)
  · exact .killGrid (.lossRecord h)
  · extract_lets s1 taker
    clear_value taker
    split
    · exact .fallDue (.lossRecord h)
    · exact .lossRecord h

theorem canonical.malformed {ctx grid va} (h : canonical s) : canonical (s.malformed ctx grid va) := .report h

theorem canonical.metBad {ctx grid va bad} (h : canonical s) : canonical (s.metBad ctx grid va bad) :=
  .ite (.malformed h) h

theorem canonical.awaitPage {kind q absent} (h : canonical s) : canonical (s.awaitPage kind q absent) :=
  .askPage (.retryWave h)

theorem canonical.refuse {t bad va} (h : canonical s) : canonical (s.refuse t bad va) :=
  .raise (.ite (.malformed h) h)

theorem canonical.hotCount {core pas} (h : canonical s) : canonical (s.hotCount core pas) := by
  unfold State.hotCount; exact .ite (.upd h rfl rfl) h

theorem canonical.bufferLine {wg cells} (h : canonical s) : canonical (s.bufferLine wg cells) :=
  .ite (.buffer (.modGrid (.commit h))) (.buffer h)

theorem canonical.bufferAll {wg cells} (h : canonical s) : canonical (s.bufferAll wg cells) :=
  .foldl (fun _ _ k => .ite (.modWg (.bufferLine k)) (.bufferLine k)) h

theorem canonical.sideLogAdd {q absent red xdata bytes} (h : canonical s) :
    canonical (s.sideLogAdd q absent red xdata bytes) := .foldl (fun _ _ k => .askPage k) (.modCore h)

theorem canonical.padPerform {core p} (h : canonical s) : canonical (s.padPerform core p) :=
  .ite (.foldl (fun _ _ k => .penSet k) (.modWave (.modCore h)))
    (.ite (.modWave (.modWave (.modCore h))) (.affect (.modWave (.modWave (.modCore h)))))

theorem canonical.padAll {wg} (h : canonical s) : canonical (s.padAll wg) := .foldl (fun _ _ k => .padPerform k) h

theorem canonical.releaseCode {wg n} (h : canonical s) : canonical (s.releaseCode wg n) :=
  .ite (.performAll (.commit (.ite h (.padAll h)))) (.ite h (.padAll h))

theorem canonical.release {wg scope} (h : canonical s) : canonical (s.release wg scope) := .releaseCode h

theorem canonical.stillHere {key eff} (hf : ∀ t, canonical t → canonical (eff t)) (h : canonical s) :
    canonical (s.stillHere key eff) := .ite (hf _ h) h

theorem canonical.releasing {scope eff} (hf : ∀ t, canonical t → canonical (eff t)) (h : canonical s) :
    canonical (s.releasing scope eff) := .stillHere (fun _ k => .ite (.retry k) (hf _ k)) (.release h)

/-! ### Control -/

theorem canonical.branch {t p} (h : canonical s) : canonical (s.branch t p) := .modCur h

theorem canonical.callStack {ls t} (h : canonical s) : canonical (s.callStack ls t) := .modCur h

theorem canonical.arriveAt {m st} (h : canonical s) : canonical (s.arriveAt m st) := .modCur h

theorem Kept.execLeave {m} (h : canonical s) : Kept (execLeave m s) := by
  unfold Machine.execLeave; exact .plain (fun _ k => .upd k rfl rfl) h

theorem canonical.yieldTurn (h : canonical s) : canonical s.yieldTurn := .ite (.modQuarter h) h

theorem canonical.gbarCheck {grid} (h : canonical s) : canonical (s.gbarCheck grid) := by
  unfold State.gbarCheck
  split
  · extract_lets
    split
    · exact .foldl (fun _ _ k => .performAll k) h
    · dsimp only [canonical, State.memOk]
      exact canonical.modGrid (.foldl (fun _ _ k => .performAll k) h)
  · exact h

theorem canonical.gbarChecks (h : canonical s) : canonical s.gbarChecks := .foldl (fun _ _ k => .gbarCheck k) h

theorem Kept.setWindow {i nwb} (h : canonical s) : Kept (setWindow i nwb s) :=
  .checked (fun _ k => .adv (.modCur k)) h

theorem Kept.execGbar (h : canonical s) : Kept (execGbar s) :=
  .checked (fun _ k => .stillHere (fun _ k' => .gbarCheck (.modCur (.hold k'))) (.release k)) h

theorem canonical.sleepUntil {deadline} (h : canonical s) : canonical (s.sleepUntil deadline) :=
  .ite (.adv (.yieldTurn h)) (.adv (.modCur h))

theorem Kept.execSleeptDeadline {key} (h : canonical s) : Kept (execSleeptDeadline key s) := by
  unfold Machine.execSleeptDeadline
  split
  · exact .next (.ite (.modWave h) h)
  all_goals exact .next h

/-! ### Integer -/

theorem canonical.result32 {n d f} (h : canonical s) : canonical (s.result32 n d f) := .adv (.push (.ite h (.putD h)))

theorem canonical.result64 {n d f} (h : canonical s) : canonical (s.result64 n d f) :=
  .adv (.push (.ite h (.putD64 h)))

theorem Kept.alu32 {i n d f} (h : canonical s) : Kept (alu32 i n d f s) := .plain (fun _ k => .result32 k) h

theorem Kept.alu64 {i n d f} (h : canonical s) : Kept (alu64 i n d f s) := .plain (fun _ k => .result64 k) h

theorem Kept.binary {i n d a b f} (h : canonical s) : Kept (binary i n d a b f s) := .alu32 h

theorem Kept.ternary {i n d a b f} (h : canonical s) : Kept (ternary i n d a b f s) := .alu32 h

theorem Kept.binary64 {i n d a b f} (h : canonical s) : Kept (binary64 i n d a b f s) := .alu64 h

theorem Kept.divide {i kind d f} (h : canonical s) : Kept (divide i kind d f s) := by
  unfold Machine.divide
  refine .plain (fun _ k => ?_) h
  refine .adv ?_
  split
  · exact .owe k
  · exact k

theorem Kept.icmpm {i d c a b} (h : canonical s) : Kept (icmpm i d c a b s) := .plain (fun _ k => .adv (.putM k)) h

theorem Kept.execDivideResult {key id} (h : canonical s) : Kept (execDivideResult key id s) := by
  unfold Machine.execDivideResult
  split
  · exact .next (.ite (.modWave h) h)
  · exact .next h

/-! ### Loads and stores -/

theorem canonical.owed {kind d n acq data} (h : canonical s) : canonical (s.owed kind d n acq data) := by
  unfold State.owed
  split
  · exact .owe h
  · exact h

theorem canonical.reading {q align w r es kind eff} (hf : ∀ x t, canonical t → canonical (eff x t))
    (h : canonical s) : canonical (s.reading q align w r es kind eff) := by
  unfold State.reading
  split
  · exact .raise (.noteOob h)
  · split
    · exact .refuse (.noteOob h)
    · exact .awaitPage h
    · split
      · exact .retry h
      · extract_lets lost
        clear_value lost
        split
        · exact .consume (.noteOob h)
        · exact hf _ _ (.hotCount (.touchAll (.noteOob h)))

theorem canonical.recordLoad {q w o d a path acq} (h : canonical s) : canonical (s.recordLoad q w o d a path acq) :=
  .reading (fun _ _ k => .adv (.owed (.ite (.foldl (fun _ _ k' => .pathFill k') k) k))) h

theorem canonical.recordStore {q w o d a eff} (hf : ∀ t, canonical t → canonical (eff t)) (h : canonical s) :
    canonical (s.recordStore q w o d a eff) := by
  unfold State.recordStore
  extract_lets
  split
  · exact .raise h
  · split
    · exact .raise (.noteOob h)
    · split
      · exact .refuse (.noteOob h)
      · exact .ite (.retry h) (.ite (.awaitPage h)
          (hf _ (.sideLogAdd (.bufferAll (.hotCount (.touchAll (.noteOob h)))))))
      · exact .ite (.retry h) (.ite (.awaitPage h)
          (hf _ (.sideLogAdd (.bufferAll (.hotCount (.touchAll (.noteOob h)))))))

theorem Kept.recForm {i q eff} (hf : ∀ t, canonical t → canonical (eff t)) (h : canonical s) :
    Kept (recForm i q eff s) := .checked (fun _ k => hf _ k) h

theorem canonical.askLines {q w o a} (h : canonical s) : canonical (s.askLines q w o a) := .adv (.touchAll h)

theorem canonical.cacheLine {core drop line} (h : canonical s) : canonical (s.cacheLine core drop line) := by
  unfold State.cacheLine; exact .ite h (.ite (.upd (.performSpread h) rfl rfl) (.performSpread h))

theorem canonical.cacheLines {q w a drop} (h : canonical s) : canonical (s.cacheLines q w a drop) :=
  .adv (.foldl (fun _ _ k => .cacheLine k) (.touchAll h))

theorem canonical.decodeLoad {q d r bits es bit} (h : canonical s) : canonical (s.decodeLoad q d r bits es bit) := by
  unfold State.decodeLoad
  refine .reading (fun _ _ k => ?_) h
  extract_lets
  split
  · exact .raise k
  · split
    · exact .refuse k
    · exact .awaitPage h
    · exact .ite (.retry h) (.ite (.raise k) (.ite (.consume k) (.adv (.owed (.touchAll k)))))

theorem canonical.formatLoad {q d a} (h : canonical s) : canonical (s.formatLoad q d a) := by
  unfold State.formatLoad
  extract_lets r idx inb place out s0
  have h0 : canonical s0 := .noteOob h
  clear_value inb
  split
  · split
    · exact .raise h0
    · exact .raise (.upd h0 rfl rfl)
  · split
    · exact .decodeLoad h
    · split
      · exact .refuse h0
      · exact .awaitPage h
      · split
        · exact .raise h0
        · exact .decodeLoad (.touchAll h)

theorem canonical.sample {q t o d a} (h : canonical s) : canonical (s.sample q t o d a) :=
  .reading (fun _ _ k => .adv (.owed (.foldl (fun _ _ k' => .pathFill k') k))) h

theorem canonical.owedU {d n ws} (h : canonical s) : canonical (s.owedU d n ws) := .owe h

theorem canonical.arrival {key id kinds} (h : canonical s) : canonical (s.arrival key id kinds) := by
  unfold State.arrival
  split
  · exact h
  · exact .ite (.modWave h) h

/-! ### Atomics and fences -/

theorem canonical.rmw {op pa x y} (h : canonical s) : canonical (s.rmw op pa x y).2 := by
  unfold State.rmw
  extract_lets old
  split
  · exact h
  · exact .ite (.upd (.perform h) rfl rfl) (.touchRo (.perform h))

theorem canonical.rmwLanes {op ts arg} (h : canonical s) : canonical (s.rmwLanes op ts arg).2 :=
  .foldlSnd (fun _ _ k => .rmw k) h

theorem canonical.ownLines {pas} (h : canonical s) : canonical (s.ownLines pas) := by
  unfold State.ownLines
  refine .foldl (fun _ _ k => ?_) h
  split
  · exact .startCollapse k
  · exact .upd (.performLine k) rfl rfl

/-- An access that releases first, or goes on at once. -/
theorem canonical.ordered {c : Prop} [Decidable c] {scope eff} (hf : ∀ t, canonical t → canonical (eff t))
    (h : canonical s) : canonical ((if c then s.releasing scope else fun eff => eff s) eff) := by
  split
  · exact .releasing hf h
  · exact hf s h

theorem canonical.atomic {q x a arg returning eff} (hf : ∀ olds es t, canonical t → canonical (eff olds es t))
    (h : canonical s) : canonical (s.atomic q x a arg returning eff) := by
  unfold State.atomic
  dsimp only
  refine .ite (.raise h) ?_
  split
  · exact .raise (.noteOob h)
  · split
    · exact .refuse (.noteOob h)
    · refine .ite (.awaitPage h) (.ite (.retry h) (.ite (.awaitPage h) (.ordered (fun s1 h1 => ?_) h)))
      refine .ite (.retry (.ownLines (.commit h1))) ?_
      split
      · exact .consume (.noteOob h)
      · exact hf _ _ _ (.rmwLanes (.hotCount (.touchAll (.noteOob (.ownLines (.commit h1))))))
    · refine .ite (.retry h) (.ite (.awaitPage h) (.ordered (fun s1 h1 => ?_) h))
      refine .ite (.retry (.ownLines (.commit h1))) ?_
      split
      · exact .consume (.noteOob h)
      · exact hf _ _ _ (.rmwLanes (.hotCount (.touchAll (.noteOob (.ownLines (.commit h1))))))

theorem canonical.dropPathOf {wg scope} (h : canonical s) : canonical (s.dropPathOf wg scope) := .modWg (.modCore h)

theorem Kept.execStrel {q w x d a} (h : canonical s) : Kept (execStrel q w x d a s) :=
  .recForm (fun _ k => .recordStore (fun _ _ => .releasing
    (fun _ j => .ite (.commit (.recordStore (fun _ j' => .adv j') j)) (.recordStore (fun _ j' => .adv j') j)) k) k) h

/-! ### Tethers -/

theorem canonical.waituNow {wide d value status} (h : canonical s) : canonical (s.waituNow wide d value status) :=
  .ite (.putS (.putS (.putS h))) (.putS (.putS h))

theorem Kept.execWaitu {q wide d a x} (h : canonical s) : Kept (execWaitu q wide d a x s) := by
  unfold Machine.execWaitu
  refine .recForm (fun _ h => ?_) h
  refine .reading (fun _ _ h => ?_) h
  split
  · exact .adv (.waituNow h)
  · exact .adv (.modCur (.upd (.ite (.commit h) h) rfl rfl))

theorem canonical.syncSpill {ctx} (h : canonical s) : canonical (s.syncSpill ctx) := by
  unfold State.syncSpill
  refine .foldl (fun _ _ k => ?_) h
  split
  · exact .hubWrite k
  · exact k

theorem canonical.tidySpill (h : canonical s) : canonical s.tidySpill := by
  unfold State.tidySpill
  split
  · exact h
  · exact .foldl (fun _ _ k => .syncSpill k) (.foldl (fun _ _ k => .hubWrite k) (.upd h rfl rfl))

theorem canonical.noteDeadline {t} (h : canonical s) : canonical (s.noteDeadline t) := by
  unfold State.noteDeadline
  split
  · exact .setStatus h
  · exact h

theorem canonical.arm {t} (h : canonical s) : canonical (s.arm t) := by
  unfold State.arm
  extract_lets
  split
  · dsimp only [canonical, State.memOk]
    exact canonical.upd h rfl rfl
  · split
    · refine .noteDeadline ?_
      dsimp only [canonical, State.memOk]
      exact canonical.upd h rfl rfl
    · split
      · refine .noteDeadline ?_
        refine .syncSpill ?_
        dsimp only [canonical, State.memOk]
        exact canonical.upd h rfl rfl
      · exact .ite (.upd h rfl rfl) (.report (.upd h rfl rfl))

theorem Kept.execTetherArm {id} (h : canonical s) : Kept (execTetherArm id s) := by
  unfold Machine.execTetherArm
  split
  · exact .next (.ite h (.arm h))
  · exact .next h

theorem Kept.execTetherArmRetry {id} (h : canonical s) : Kept (execTetherArmRetry id s) := by
  unfold Machine.execTetherArmRetry
  split
  · exact .next (.ite (.arm h) h)
  · exact .next h

theorem Kept.execTetherWake {index} (h : canonical s) : Kept (execTetherWake index s) := by
  unfold Machine.execTetherWake
  split
  · exact .next h
  · split
    · exact .next (.modWave (.upd h rfl rfl))
    all_goals exact .next h

theorem Kept.execTetherTimeout {id} (h : canonical s) : Kept (execTetherTimeout id s) := by
  unfold Machine.execTetherTimeout
  split
  · exact .next h
  · split
    · exact .next h
    · exact .ite (.next (.upd h rfl rfl)) (.next h)

/-! ### The pen -/

theorem canonical.putWords {d n data} (h : canonical s) : canonical (s.putWords d n data) := by
  unfold State.putWords
  split
  · exact .foldl (fun _ _ k => .putV k) h
  · exact h

theorem canonical.claimWindow {es} (h : canonical s) : canonical (s.claimWindow es) := .ite (.modCore h) h

theorem Kept.execStp {w d a off} (h : canonical s) : Kept (execStp w d a off s) :=
  .checked (fun _ k => .adv (.modCur (.foldl (fun _ _ k' => .penSet k') (.claimWindow k)))) h

theorem canonical.penRmw {op a x y} (h : canonical s) : canonical (s.penRmw op a x y).2 := by
  unfold State.penRmw
  extract_lets old
  split
  · exact h
  · exact .penSet h

theorem Kept.execAtomp {op d a off spare} (h : canonical s) : Kept (execAtomp op d a off spare s) :=
  .checked (fun _ k => .ite (.consume k) (.adv
    (.modCur (.putWords (.foldlSnd (fun _ _ k' => .penRmw k') (.claimWindow k)))))) h

theorem canonical.padQueue {w es store bytes owed} (h : canonical s) : canonical (s.padQueue w es store bytes owed) :=
  by
  unfold State.padQueue
  refine .foldl (fun _ _ k => ?_) h
  extract_lets
  split
  · exact .modCore (.freshId k)
  · exact k

theorem Kept.execPaddockAccessPerform {core id} (h : canonical s) : Kept (execPaddockAccessPerform core id s) := by
  unfold Machine.execPaddockAccessPerform
  split
  · exact .next h
  · split
    · exact .next (.ite (.padPerform h) h)
    · exact .next h

/-! ### Folds and copies -/

theorem canonical.counted {cls eff} (hf : ∀ x t, canonical t → canonical (eff x t)) (h : canonical s) :
    canonical (s.counted cls eff) := .ite (.retry h) (hf _ _ (.modCur (.freshId h)))

theorem canonical.modFold {wg k f} (h : canonical s) : canonical (s.modFold wg k f) := .modWg h

theorem Kept.execFarriveRank {k b} (h : canonical s) : Kept (execFarriveRank k b s) := by
  unfold Machine.execFarriveRank
  refine .checked (fun _ k => ?_) h
  split
  · exact k
  · exact .stillHere (fun _ k' => .adv (.upd k' rfl rfl)) (.release k)

theorem Kept.execFwaitWake {key} (h : canonical s) : Kept (execFwaitWake key s) := by
  unfold Machine.execFwaitWake
  extract_lets
  split
  · exact .next (.ite (.modWave h) h)
  all_goals exact .next h

theorem Kept.execRemoteArrivalApply {index} (h : canonical s) : Kept (execRemoteArrivalApply index s) := by
  unfold Machine.execRemoteArrivalApply
  split
  · exact .next h
  · exact .next (.ite (.modFold (.upd h rfl rfl)) h)

theorem canonical.acceptReqs {wg rs} (h : canonical s) : canonical (s.acceptReqs wg rs) :=
  .foldl (fun _ _ k => .modCore (.modWg (.freshId k))) h

theorem canonical.kickOff {d rs result also} (hf : ∀ t, canonical t → canonical (also t)) (h : canonical s) :
    canonical (s.kickOff d rs result also) := .stillHere
    (fun _ k => .ite (.retry k) (.adv (.putU (hf _ (.acceptReqs k))))) (.commit (.releaseCode h))

theorem Kept.execKick {d a b} (h : canonical s) : Kept (execKick d a b s) :=
  .checked (fun _ k => .ite (.adv (.putU k)) (.ite (.consume k) (.kickOff (fun _ k' => k') k))) h

theorem Kept.execAdvance {d} (h : canonical s) : Kept (execAdvance d s) := by
  unfold Machine.execAdvance
  refine .checked (fun _ k => ?_) h
  split
  · exact .adv (.putU k)
  · exact .kickOff (fun _ k' => .modWg k') k

theorem canonical.performFrom {core cells} (h : canonical s) : canonical (s.performFrom core cells) := by
  unfold State.performFrom
  dsimp only [canonical, State.memOk]
  exact canonical.perform (.foldl (fun _ _ k => .performLine k) h)

theorem canonical.modCopy {core id f} (h : canonical s) : canonical (s.modCopy core id f) := .modCore h

theorem canonical.copyLost {core r pa} (h : canonical s) : canonical (s.copyLost core r pa) := .affect (.modCopy h)

theorem canonical.creditCopy {r q dest n bad} (h : canonical s) : canonical (s.creditCopy r q dest n bad) :=
  .ite (.modFold h) h

theorem canonical.copyDone {core r q dests} (h : canonical s) : canonical (s.copyDone core r q dests) :=
  .ite (.modCopy (.creditCopy h)) (.ite (.modCopy (.creditCopy h)) (.modCore (.creditCopy h)))

theorem canonical.sendRow {core r q brand} (h : canonical s) : canonical (s.sendRow core r q brand) := by
  unfold State.sendRow
  extract_lets
  split
  · exact .modCopy h
  · exact .ite (.modCopy h) (.modCopy (.upd h rfl rfl))

theorem canonical.rowTouch {core wg ctx va n write} (h : canonical s) :
    canonical (s.rowTouch core wg ctx va n write) := by
  unfold State.rowTouch
  split
  · exact .touchAll h
  all_goals exact h

theorem canonical.rowWrite {core r q dests bs} (h : canonical s) : canonical (s.rowWrite core r q dests bs) := by
  unfold State.rowWrite
  extract_lets a
  split
  · exact .copyDone (.penSet h)
  · split
    · exact .copyDone (.modCtx (fun _ hc => Laws.wf_setBytes hc _ _) h)
    · split
      · split
        · exact .sendRow h
        · exact .copyDone h
        · exact h
      · split
        · exact .askPage h
        · exact h
        · exact h
        · extract_lets pas
          split
          · exact .startCollapse h
          · exact .copyDone (.touchRo (.performFrom (.foldl (fun _ _ k => .performLine k) (.rowTouch h))))

theorem canonical.copyStep {core r} (h : canonical s) : canonical (s.copyStep core r) := by
  unfold State.copyStep
  extract_lets
  split
  · exact .rowWrite h
  · split
    · split
      · exact .askPage h
      · exact h
    · exact .copyLost h
    · split
      · exact .sendRow h
      · exact .rowWrite (.modCopy h)
      · exact h
    · exact .rowWrite (.modCopy (.ite (.rowTouch h) h))

theorem Kept.execCopyRowComplete {core id} (h : canonical s) : Kept (execCopyRowComplete core id s) := by
  unfold Machine.execCopyRowComplete
  split
  · exact .next h
  · exact .next (.ite h (.gbarChecks (.copyStep h)))

theorem canonical.failCopy {core r} (h : canonical s) : canonical (s.failCopy core r) := by
  unfold State.failCopy
  refine .modCore ?_
  dsimp only [canonical, State.memOk]
  exact canonical.report (.foldl (fun _ _ k => .creditCopy k) h)

theorem Kept.execCopyRequestFail {core id} (h : canonical s) : Kept (execCopyRequestFail core id s) := by
  unfold Machine.execCopyRequestFail
  split
  · exact .next h
  · split
    · exact .next (.gbarChecks (.failCopy (.metBad h)))
    · exact .next (.ite (.gbarChecks (.failCopy h)) h)

/-! ### The array -/

theorem canonical.modArray {core f} (h : canonical s) : canonical (s.modArray core f) := .modCore h

theorem canonical.finishOp {core o} (h : canonical s) : canonical (s.finishOp core o) := by
  unfold State.finishOp
  refine .modArray ?_
  split
  · exact .modWave h
  · exact h

theorem canonical.modOp {core o f} (h : canonical s) : canonical (s.modOp core o f) := .modArray h

theorem canonical.arrayFault {core o cause info faddr} (h : canonical s) :
    canonical (s.arrayFault core o cause info faddr) := by
  unfold State.arrayFault
  extract_lets s1 taker
  clear_value taker
  split
  · exact .fallDue (.modArray h)
  · exact .modArray h

theorem canonical.arrayLost {core o pa} (h : canonical s) : canonical (s.arrayLost core o pa) := by
  unfold State.arrayLost
  split
  · exact h
  · split
    · exact .relaunch (.lossRecord h)
    · exact .killGrid (.lossRecord h)
    · exact .arrayFault (.lossRecord h)

theorem canonical.startWake {core b} (h : canonical s) : canonical (s.startWake core b) := by
  unfold State.startWake; exact .ite h (.ite (.upd h rfl rfl) (.modArray h))

theorem canonical.withBands {core mask eff} (hf : ∀ t, canonical t → canonical (eff t)) (h : canonical s) :
    canonical (s.withBands core mask eff) := .ite (hf _ (.modArray h)) (.foldl (fun _ _ k => .startWake k) h)

theorem Kept.execBandWake {core band} (h : canonical s) : Kept (execBandWake core band s) := by
  unfold Machine.execBandWake
  split
  · exact .next h
  · exact .next (.ite (.modArray h) h)

theorem KeptRun.runMlds {core wg o f} (h : canonical s) : KeptRun (s.runMlds core wg o f) :=
  .ite .lost (.done (.modArray h))

theorem KeptRun.stop {x : PageElem} {q prog} : KeptRun (x.stop q prog) := by
  cases x <;> constructor

theorem KeptRun.runMldsg {core wg o f q} (h : canonical s) : KeptRun (s.runMldsg core wg o f q) := by
  unfold State.runMldsg
  extract_lets n k g cols
  split
  · exact .stop
  · exact .done (.modArray (.touchAll h))

theorem KeptRun.runMscale {core wg o int4 g} (h : canonical s) : KeptRun (s.runMscale core wg o int4 g) :=
  .ite .lost (.done (.modArray h))

theorem KeptRun.rowOfA {core wg o x q m r} (e : s.rowOfA core wg o x q m = .inl r) : KeptRun r := by
  unfold State.rowOfA at e
  dsimp only at e
  split at e
  · split at e
    · cases e; exact .lost
    · cases e
  · split at e
    · cases e; exact .stop
    · cases e

theorem KeptRun.runRow {core wg o t x q} (h : canonical s) : KeptRun (s.runRow core wg o t x q) := by
  unfold State.runRow
  extract_lets a F m
  split
  · exact .fault
  · split
    · exact .lost
    · split
      next r e => exact .rowOfA e
      next => exact .ite .shadow (.done (.upd (.touchAll h) rfl rfl))

theorem KeptRun.runMst {core wg o t x} (h : canonical s) : KeptRun (s.runMst core wg o t x) :=
  .ite .lost (.done (.modArray (.foldl (fun _ _ k => .penSet k) h)))

theorem KeptRun.runMld {core wg o t x} (h : canonical s) : KeptRun (s.runMld core wg o t x) :=
  .ite .lost (.done (.modArray h))

theorem KeptRun.runOp {core wg o i} (h : canonical s) : KeptRun (s.runOp core wg o i) := by
  unfold State.runOp
  split
  · exact .runMlds h
  · exact .runMldsg h
  · exact .runMscale h
  · exact .done (.modArray h)
  · exact .done (.modArray h)
  · exact .runMst h
  · exact .runMld h
  · exact .ite .lost (.done (.penSet h))
  · exact .ite .lost (.done (.modArray h))
  · exact .done h

theorem KeptRun.runRows {core wg o t x q fuel} (h : canonical s) : KeptRun (s.runRows core wg o t x q fuel) := by
  induction fuel generalizing s o with
  | zero => exact .done h
  | succ fuel ih =>
    rw [State.runRows]
    split
    · exact .done h
    · have hr : KeptRun (s.runRow core wg o t x q) := .runRow h
      split
      next u e => exact ih (hr.state e)
      next => exact hr

theorem KeptRun.runWhole {core wg o i} (h : canonical s) : KeptRun (s.runWhole core wg o i) := by
  unfold State.runWhole
  split
  · exact .runRows h
  · exact .runRows h
  · exact .runOp h

theorem canonical.adderShadow {core wg} (h : canonical s) : canonical (s.adderShadow core wg) := by
  unfold State.adderShadow; exact .upd (.report (.quarantine h)) rfl rfl

theorem canonical.afterRun {core wg o r eff} (hr : KeptRun r) (hf : ∀ t, canonical t → canonical (eff t))
    (h : canonical s) : canonical (s.afterRun core wg o r eff) := by
  cases hr with
  | done hu => exact hf _ hu
  | wait => exact .askPage h
  | fault => exact .arrayFault (.metBad h)
  | lost => exact .arrayLost h
  | shadow => exact .arrayFault (.adderShadow h)

theorem Kept.execArrayFillComplete {core id} (h : canonical s) : Kept (execArrayFillComplete core id s) := by
  unfold Machine.execArrayFillComplete
  split
  · exact .next h
  · exact .next (.ite (.withBands (fun _ k => .afterRun (.runOp k) (fun _ k' => .finishOp k') k) h) h)

theorem Kept.execMmaRowComplete {core id} (h : canonical s) : Kept (execMmaRowComplete core id s) := by
  unfold Machine.execMmaRowComplete
  split
  · exact .next h
  · split
    · exact .next h
    · exact .next (.ite (.withBands (fun _ k => .afterRun (.runRow k) (fun _ k' => k') k) h) h)

theorem Kept.execArraySerialOpStart {core id} (h : canonical s) : Kept (execArraySerialOpStart core id s) := by
  unfold Machine.execArraySerialOpStart
  split
  · exact .next h
  · exact .next (.ite (.afterRun (.runOp h) (fun _ k => .modOp k) h) h)

theorem Kept.execArrayOpComplete {core id} (h : canonical s) : Kept (execArrayOpComplete core id s) := by
  unfold Machine.execArrayOpComplete
  split
  · exact .next h
  · split
    · exact .next (.ite (.finishOp h) h)
    · exact .next (.ite (.afterRun (.runOp h) (fun _ k => .finishOp k) h) (.ite (.finishOp h) h))

theorem canonical.globalOob {q a b count k} (h : canonical s) : canonical (s.globalOob q a b count k) :=
  .ite (.modCur h) h

theorem canonical.atOnce {core o i} (h : canonical s) : canonical (s.atOnce core o i) := by
  unfold State.atOnce
  extract_lets mask
  split
  · exact .retry (.withBands (fun _ h => h) h)
  · have hr : KeptRun (s.runWhole core s.curWg o i) := .runWhole h
    cases e : s.runWhole core s.curWg o i with
    | done u => exact .adv (hr.state e)
    | wait va => exact .ite (.askPage (.retryWave h)) (.retry h)
    | fault => exact .raise (.metBad h)
    | lost => exact .consume h
    | shadow => exact .raise (.adderShadow h)

theorem canonical.enqueue {i a b recd} (h : canonical s) : canonical (s.enqueue i a b recd) :=
  .ite (.atOnce h) (.ite (.retry h) (.counted (fun _ _ k => .adv (.modArray k)) h))

theorem canonical.whenEmpty {eff} (hf : ∀ t, canonical t → canonical (eff t)) (h : canonical s) :
    canonical (s.whenEmpty eff) := .ite (hf _ h) (.retry h)

theorem Kept.globalOp {i slots q f ef a b count k} (h : canonical s) : Kept (s.globalOp i slots q f ef a b count k) :=
  by
  unfold State.globalOp
  extract_lets
  split
  · exact .next (.raise h)
  · split
    · exact .next (.raise (.globalOob h))
    · exact .next (.enqueue (.globalOob h))

theorem Kept.execMstat {d clear} (h : canonical s) : Kept (execMstat d clear s) :=
  .checked (fun _ k => .whenEmpty (fun _ k' => .adv (.ite (.modArray (.putU k')) (.putU k'))) k) h

theorem canonical.endLease {core} (h : canonical s) : canonical (s.endLease core) := .modCore h

/-! ### The flock -/

theorem canonical.fetchFailed {ctx grid x} (h : canonical s) : canonical (s.fetchFailed ctx grid x) := by
  unfold State.fetchFailed
  split
  · exact .askPage h
  · exact .metBad h
  · exact h
  · exact h

theorem canonical.landNev {key id} (h : canonical s) : canonical (s.landNev key id) := by
  unfold State.landNev
  split
  · exact h
  · exact .ite (.fallDue (.modWave h)) (.modWave h)

theorem canonical.rowDone {r res} (h : canonical s) : canonical (s.rowDone r res) := by
  unfold State.rowDone
  extract_lets
  split
  · exact .ite (.landNev (.modWave h)) (.modWave h)
  · exact .modWave h

theorem canonical.formRow {core ctx r} (h : canonical s) : canonical (s.formRow core ctx r).1 := by
  unfold State.formRow
  split
  · exact h
  · split
    · exact h
    · split
      · exact .touchAll h
      · exact h
      · exact .modWave (.fetchFailed h)

theorem canonical.formRows {core t} (h : canonical s) : canonical (s.formRows core t).1 :=
  .foldlFst (fun _ _ k => .formRow k) h

theorem canonical.closeTile {core i} (h : canonical s) : canonical (s.closeTile core i) := by
  unfold State.closeTile
  split
  · exact h
  · exact .modCore (.formRows h)

theorem canonical.enterRow {core e} (h : canonical s) : canonical (s.enterRow core e) := by
  unfold State.enterRow
  extract_lets
  split
  · exact .modCore h
  · exact .ite (.closeTile (.modCore h)) (.modCore h)

theorem canonical.flockEnter (h : canonical s) : canonical s.flockEnter :=
  .foldl (fun _ _ k => .foldl (fun _ _ k' => .enterRow k') (.modCore k)) h

theorem Kept.execFlockTileClose {core tile} (h : canonical s) : Kept (execFlockTileClose core tile s) := by
  unfold Machine.execFlockTileClose
  split
  · exact .next h
  · exact .next (.ite (.closeTile h) h)

theorem canonical.cacheNet {core ctx handle bs ps} (h : canonical s) : canonical (s.cacheNet core ctx handle bs ps) :=
  .modCore (.touchAll h)

theorem canonical.flockShadow {core ctx} (h : canonical s) : canonical (s.flockShadow core ctx) := by
  unfold State.flockShadow; exact .upd (.report (.quarantine h)) rfl rfl

theorem canonical.tileFails {t cause} (h : canonical s) : canonical (s.tileFails t cause) :=
  .foldl (fun _ _ k => .rowDone k) h

theorem canonical.runTile {core t load} (h : canonical s) : canonical (s.runTile core t load) := by
  unfold State.runTile
  split
  · exact .tileFails (.fetchFailed h)
  · exact .tileFails (.fetchFailed h)
  · exact .ite (.tileFails (.flockShadow (.cacheNet h))) (.foldl (fun _ _ k => .rowDone k) (.upd (.touchAll h) rfl rfl))

theorem Kept.execFlockTileComplete {core tile} (h : canonical s) : Kept (execFlockTileComplete core tile s) := by
  unfold Machine.execFlockTileComplete
  extract_lets
  split
  · exact .next h
  · exact .next (.ite (.ite (.modCore (.formRows h))
      (.withBands (fun _ k => .runTile (.modCore k)) (.modCore (.formRows h)))) h)

theorem Kept.execNevHandleComplete {key id} (h : canonical s) : Kept (execNevHandleComplete key id s) := by
  unfold Machine.execNevHandleComplete
  split
  · exact .next h
  · exact .next (.ite (.landNev h) h)

theorem Kept.execNev {d a b x} (h : canonical s) : Kept (execNev d a b x s) := by
  unfold Machine.execNev
  split
  · exact .next (.raise h)
  · split
    · exact .next (.raise (.ite (.noteOob h) h))
    · exact .next (.counted (fun _ _ k => .adv (.modCore (.modCur (.ite (.noteOob k) k)))) h)

theorem canonical.metFetch {x} (h : canonical s) : canonical (s.metFetch x) := by
  unfold State.metFetch
  split
  · exact .metBad h
  all_goals exact h

theorem canonical.netld {a eff} (hf : ∀ x t, canonical t → canonical (eff x t)) (h : canonical s) :
    canonical (s.netld a eff) := .adv (.ite (hf _ _ h) h)

theorem Kept.execNetldFetch {a} (h : canonical s) : Kept (execNetldFetch a s) := by
  unfold Machine.execNetldFetch
  refine .plain (fun _ k => ?_) h
  refine .netld (fun _ _ k' => ?_) k
  split
  · exact .cacheNet k'
  · exact .metFetch k'
  · exact .metFetch k'

/-! ### Lanes and masks -/

theorem Kept.shuffle {i n d a b src} (h : canonical s) : Kept (shuffle i n d a b src s) := .alu32 h

/-! ### Builds -/

theorem Kept.gather {i n d f} (h : canonical s) : Kept (gather i n d f s) := .alu32 h

theorem Kept.reduction {i n d a f} (h : canonical s) : Kept (reduction i n d a f s) := .gather h

theorem Kept.maskForm {i d f} (h : canonical s) : Kept (maskForm i d f s) := .plain (fun _ k => .adv (.putM k)) h

theorem Kept.setForm {i d f} (h : canonical s) : Kept (setForm i d f s) := .plain (fun _ k => .adv (.putU k)) h

theorem canonical.ownHome {pas} (h : canonical s) : canonical (s.ownHome pas) := .ownLines (.ite (.commit h) h)

theorem canonical.atHome {va n need eff} (hf : ∀ x t, canonical t → canonical (eff x t)) (h : canonical s) :
    canonical (s.atHome va n need eff) := by
  unfold State.atHome
  dsimp only
  refine .ite (.raise h) (.ite (.refuse h) ?_)
  split
  · exact .askPage (.retryWave h)
  · split
    · exact .retry (.startCollapse h)
    · exact .ite (.retry (.ownHome h)) (.ite (.consume (.ownHome h)) (hf _ _ (.touchAll (.ownHome h))))
  · exact h
  · exact h

theorem canonical.atHomes {need eff ranges ts} (hf : ∀ ts t, canonical t → canonical (eff ts t)) (h : canonical s) :
    canonical (s.atHomes need eff ranges ts) := by
  induction ranges generalizing s ts with
  | nil => exact hf ts s h
  | cons x r ih => exact .atHome (fun _ _ h => ih h) h

theorem canonical.pinStep {drop d a b} (h : canonical s) : canonical (s.pinStep drop d a b) := by
  unfold State.pinStep
  refine .atHome (fun _ _ k => ?_) h
  extract_lets
  split
  · exact .adv (.putU k)
  · exact .ite (.adv (.putU k)) (.adv (.putU (.performFrom k)))

theorem canonical.cairnWait {d a b} (h : canonical s) : canonical (s.cairnWait d a b) := by
  unfold State.cairnWait
  refine .atHome (fun _ _ k => ?_) h
  extract_lets
  split
  · exact .adv (.putU k)
  · exact .ite (.adv (.putU k)) (.atHome (fun _ _ k' => .arm (.adv (.modCur (.upd k' rfl rfl)))) k)

theorem canonical.queueStep {va need count first eff} (hf : ∀ x y z t, canonical t → canonical (eff x y z t))
    (h : canonical s) : canonical (s.queueStep va need count first eff) := .atHome
    (fun _ _ k => .ite (.raise k) (.atHomes (fun _ _ k' => hf _ _ _ _ k') k)) h

theorem Kept.execPixpush {d a b} (h : canonical s) : Kept (execPixpush d a b s) :=
  .checked (fun _ k => .releasing (fun _ k' => .queueStep (fun _ _ _ _ j => .adv (.putD (.performFrom j))) k') k) h

theorem Kept.execRefill {d a b outm} (h : canonical s) : Kept (execRefill d a b outm s) := by
  unfold Machine.execRefill
  refine .checked (fun _ k => ?_) h
  refine .queueStep (fun _ _ _ _ k' => ?_) k
  refine .adv ?_
  split
  · exact .putM (.putV (.performFrom k'))
  · exact .putV (.performFrom k')

theorem canonical.modRay {id f} (h : canonical s) : canonical (s.modRay id f) := h

theorem canonical.endRay {r status x} (h : canonical s) : canonical (s.endRay r status x) := by
  unfold State.endRay; exact .modWave (.dropTethers (.upd h rfl rfl))

theorem canonical.anyOf {hs} (h : canonical s) : canonical (s.anyOf hs).2 := h

theorem canonical.findSome {r} (h : canonical s) : canonical (s.findSome r).2 := by
  unfold State.findSome
  split
  · exact h
  · exact .upd h rfl rfl

theorem canonical.faultRay {r bad} (h : canonical s) : canonical (s.faultRay r bad) := by
  unfold State.faultRay
  extract_lets
  split
  · exact .malformed (.endRay h)
  · exact .endRay h

theorem canonical.rayLost {r pa} (h : canonical s) : canonical (s.rayLost r pa) := .affect (.endRay h)

theorem canonical.rayOn {r} (h : canonical s) : canonical (s.rayOn r) := by
  unfold State.rayOn
  split
  next w _ =>
    split
    · exact .endRay (.anyOf (hs := w.hits) (.touchAll h))
    · exact .endRay (.touchAll h)
  next w _ =>
    split
    · exact .endRay (.touchAll (.anyOf (hs := w.hits) h))
    · split
      · exact h
      · exact .askPage h
      · exact .faultRay (.touchAll h)
      · exact .faultRay (.touchAll h)
      · exact .rayLost h

theorem Kept.execRayEnd {ray} (h : canonical s) : Kept (execRayEnd ray s) := by
  unfold Machine.execRayEnd
  split
  · exact .next h
  · split
    · exact .next h
    · split
      · exact .next (.endRay h)
      · split
        · exact .next (.askPage h)
        · exact .next (.rayLost h)
        · exact .next (.faultRay h)
        · exact .next (.faultRay h)
        · exact .next (.faultRay h)
        · extract_lets
          split
          · exact .next (.endRay (.modRay (.touchAll h)))
          · exact .next (.rayOn (.modRay (.touchAll h)))

theorem canonical.timeOutRay {r} (h : canonical s) : canonical (s.timeOutRay r) := .endRay h

theorem canonical.parkRay {r va} (h : canonical s) : canonical (s.parkRay r va) := by
  have hs : canonical (s.findSome r).2 := .findSome h
  unfold State.parkRay
  generalize s.findSome r = p at hs
  obtain ⟨found, u⟩ := p
  dsimp only at hs ⊢
  split
  · exact .timeOutRay hs
  · split
    · exact .arm (.modRay (.upd hs rfl rfl))
    all_goals exact hs

theorem Kept.execCairnPark {ray} (h : canonical s) : Kept (execCairnPark ray s) := by
  unfold Machine.execCairnPark
  split
  · exact .next h
  · split
    · exact .next h
    · split
      · exact .next (.ite h (.parkRay h))
      all_goals exact .next h

theorem canonical.resumeRay {ray} (h : canonical s) : canonical (s.resumeRay ray) := by
  unfold State.resumeRay
  split
  · exact h
  · exact .modRay (.upd h rfl rfl)

theorem Kept.execCairnTimeout {ray} (h : canonical s) : Kept (execCairnTimeout ray s) := by
  unfold Machine.execCairnTimeout
  split
  · exact .next h
  · split
    · exact .next (.ite (.timeOutRay h) h)
    · exact .next h

theorem canonical.unparkWave {key} (h : canonical s) : canonical (s.unparkWave key) :=
  .foldl (fun _ _ k => .ite (.resumeRay k) (.timeOutRay k)) h

theorem canonical.startRay {op l d a x occ} (h : canonical s) : canonical (s.startRay op l d a x occ) := by
  unfold State.startRay; exact .upd (.touchAll (.owe h)) rfl rfl

theorem canonical.traceAll {d a x occ} (h : canonical s) : canonical (s.traceAll d a x occ) :=
  .counted (fun _ _ k => .adv (.foldl (fun _ _ k' => .startRay k') k)) h

theorem canonical.submitBuild {refit d a} (h : canonical s) : canonical (s.submitBuild refit d a) :=
  .releasing (fun _ k => .ite (.adv (.putU k)) (.adv (.putU (.upd k rfl rfl)))) h

theorem canonical.stopped {ctx e} (h : canonical s) : canonical (s.stopped ctx e) := by
  unfold State.stopped
  split
  · exact .askPage h
  · exact h
  · exact .malformed h

theorem canonical.modBuild {id f} (h : canonical s) : canonical (s.modBuild id f) := h

theorem canonical.putNodes {ctx pool ns} (h : canonical s) : canonical (s.putNodes ctx pool ns) :=
  .foldl (fun _ _ k => .hubWrite k) h

theorem canonical.spoilPiece {ctx va n} (h : canonical s) : canonical (s.spoilPiece ctx va n) := by
  unfold State.spoilPiece; exact .hubWrite (.upd h rfl rfl)

theorem canonical.spoil {ctx va n} (h : canonical s) : canonical (s.spoil ctx va n) :=
  .foldl (fun _ _ k => .spoilPiece k) h

theorem canonical.spoilScratch {j} (h : canonical s) : canonical (s.spoilScratch j) := .spoil h

theorem canonical.startSpine {j} (h : canonical s) : canonical (s.startSpine j) := by
  unfold State.startSpine
  split
  · exact .askPage h
  · exact h
  · exact h
  · exact .modBuild (.upd (.hubWrite (.spoilScratch (.putNodes (.hubWrite (.hubSeen h))))) rfl rfl)

theorem canonical.dropBuild {id} (h : canonical s) : canonical (s.dropBuild id) := h

theorem canonical.refuseBuild {j status} (h : canonical s) : canonical (s.refuseBuild j status) :=
  .dropBuild (.hubWrite h)

theorem canonical.stopCheck {j e} (h : canonical s) : canonical (s.stopCheck j e) := by
  unfold State.stopCheck
  split
  · exact .stopped h
  · exact .refuseBuild (.stopped h)

theorem Kept.execBuildStart {job} (h : canonical s) : Kept (execBuildStart job s) := by
  unfold Machine.execBuildStart
  split
  · exact .next h
  · split
    · exact .next h
    · split
      · exact .next (.stopCheck h)
      · extract_lets
        split
        · exact .next h
        · split
          · exact .next (.refuseBuild (.hubSeen h))
          · split
            · exact .next (.stopCheck (.hubSeen h))
            · exact .next (.stopCheck (.hubSeen h))
            · exact .ite (.next (.refuseBuild (.hubSeen h))) (.next (.modBuild (.hubSeen h)))

theorem Kept.execBuildSlotTake {job} (h : canonical s) : Kept (execBuildSlotTake job s) := by
  unfold Machine.execBuildSlotTake
  split
  · exact .next h
  · extract_lets
    split
    · split
      · exact .next h
      · extract_lets live from_ gen head tail s1 j1 s2
        have h1 : canonical s1 := .hubWriteAll h
        clear_value s1
        have h2 : canonical s2 := .upd h1 rfl rfl
        exact .next (.ite h2 (.startSpine h2))
    · exact .next h

theorem Kept.execCairnRaise {job cell} (h : canonical s) : Kept (execCairnRaise job cell s) := by
  unfold Machine.execCairnRaise
  split
  · exact .next h
  next j0 _ =>
    split
    · exact .next h
    · extract_lets s1
      have h1 : canonical s1 := .ite (.startSpine h) h
      split
      · exact .next h1
      · refine .ite (.next h1) ?_
        dsimp only
        split
        · exact .next (.askPage h1)
        · exact .next h1
        · exact .next h1
        · exact .next (.modBuild (.hubWrite (.putNodes h1)))

theorem canonical.linkTree {j root} (h : canonical s) : canonical (s.linkTree j root) :=
  .dropBuild (.hubWrite (.hubWriteAll h))

theorem Kept.execTreeLink {job} (h : canonical s) : Kept (execTreeLink job s) := by
  unfold Machine.execTreeLink
  split
  · exact .next h
  · dsimp only
    refine .ite (.ite (.next h) ?_) (.ite ?_ (.next h))
    · split
      · exact .next (.askPage h)
      · exact .next h
      · exact .next h
      · exact .next (.linkTree (.upd (.spoilScratch (.putNodes (.hubSeen h))) rfl rfl))
    · split
      · exact .next (.askPage h)
      · exact .next h
      · exact .next h
      · exact .next (.linkTree (.putNodes h))

theorem canonical.freeSlot {j} (h : canonical s) : canonical (s.freeSlot j) := by
  unfold State.freeSlot
  split
  · exact h
  · exact h
  · exact .hubWrite (.spoilScratch h)
  · exact .hubWrite (.spoilScratch h)

theorem Kept.execBuildFail {job status} (h : canonical s) : Kept (execBuildFail job status s) := by
  unfold Machine.execBuildFail
  split
  · exact .next h
  · split
    · exact .next h
    · exact .ite (.next (.dropBuild (.hubWrite (.freeSlot (.stopped h))))) (.next h)

theorem canonical.abandonBuilds {ctx} (h : canonical s) : canonical (s.abandonBuilds ctx) :=
  .foldl (fun _ _ k => .dropBuild (.freeSlot k)) h

theorem Kept.execCompactorReclaim {ctx hdr slot} (h : canonical s) : Kept (execCompactorReclaim ctx hdr slot s) := by
  unfold Machine.execCompactorReclaim
  split
  · exact .next h
  · split
    · exact .next (.askPage h)
    · exact .next (.askPage h)
    · exact .next h
    · exact .next h
    · exact .next h
    · exact .next h
    · exact .ite (.next (.upd (.hubWrite h) rfl rfl)) (.next h)

theorem Kept.execCompactorFree {ctx hdr slot} (h : canonical s) : Kept (execCompactorFree ctx hdr slot s) := by
  unfold Machine.execCompactorFree
  split
  · split
    · exact .next (.askPage h)
    · exact .next h
    · exact .next h
    · exact .next (.upd (.hubWrite h) rfl rfl)
  · exact .next h

/-! ### Raster and streams -/

theorem canonical.endReplay (h : canonical s) : canonical s.endReplay := .modDrove h

theorem Kept.execEmitc {d a b} (h : canonical s) : Kept (execEmitc d a b s) := by
  refine .checked (fun _ k => .ite (.consume k) (.ite (.adv (.endReplay (.putU k))) (.atHome (fun _ _ k' => ?_) k))) h
  refine .ite (.adv (.endReplay (.putU k'))) (.ite (.adv (.endReplay (.putU k'))) (.atHomes (fun _ _ j => ?_) k'))
  exact .adv (.endReplay (.putU (.performFrom (.performFrom j))))

theorem Kept.execRaster {d a} (h : canonical s) : Kept (execRaster d a s) :=
  .checked (fun _ k => .releasing (fun _ k' => .ite (.adv (.putU k')) (.adv (.putU (.upd k' rfl rfl)))) k) h

theorem KeptPushed.pushSmall {ctx va id} (h : canonical s) : KeptPushed (s.pushSmall ctx va id) := by
  unfold State.pushSmall
  split
  · exact .stop
  · extract_lets
    split
    · exact .stop
    · split
      · exact .full
      · split
        · exact .stop
        · exact .done (.perform (.hubSeen h))

theorem canonical.stopJob {j e} (h : canonical s) : canonical (RasterJob.stop j s e).2 := .stopped h

theorem canonical.classify {fuel j} (h : canonical s) : canonical (Machine.classify fuel j s).2 := by
  induction fuel generalizing j s with
  | zero => exact h
  | succ fuel ih =>
    dsimp only [Machine.classify]
    split
    · exact h
    · split
      · exact .stopJob h
      · split
        · exact ih h
        · split
          · exact ih h
          · split
            · exact ih h
            · exact ih h
            · split
              next e => exact ih ((KeptPushed.pushSmall h).state e)
              next => exact h
              next => exact .stopJob h

theorem canonical.setRaster {j} (h : canonical s) : canonical (s.setRaster j) := h

theorem canonical.stopRaster {j e} (h : canonical s) : canonical (s.stopRaster j e) := .setRaster (.stopJob h)

theorem canonical.classifyJob {j} (h : canonical s) : canonical (s.classifyJob j) := by
  have hc : canonical (Machine.classify (66 * j.command.count + 66) j s).2 := .classify h
  unfold State.classifyJob
  generalize Machine.classify (66 * j.command.count + 66) j s = p at hc
  exact .setRaster hc

theorem Kept.execRasterStart {job} (h : canonical s) : Kept (execRasterStart job s) := by
  unfold Machine.execRasterStart
  split
  · exact .next h
  · split
    · exact .next h
    · split
      · exact .next (.askPage h)
      · exact .next (.stopRaster h)
      · exact .ite (.next (.setRaster h)) (.next (.classifyJob (.hubSeen h)))

theorem Kept.execRasterSmallqResume {job} (h : canonical s) : Kept (execRasterSmallqResume job s) := by
  unfold Machine.execRasterSmallqResume
  split
  · exact .next h
  · exact .next (.ite h (.classifyJob h))

theorem canonical.maxAt {pas v} (h : canonical s) : canonical (s.maxAt pas v) := .performBytes h

theorem canonical.mergeAll {ctx vs} (h : canonical s) : canonical (s.mergeAll ctx vs).1 := by
  induction vs generalizing s with
  | nil => exact h
  | cons x r ih =>
    rw [State.mergeAll]
    split
    · split
      · exact h
      · exact ih (.maxAt (.hubSeen h))
    · exact .stopped h

theorem Kept.execRasterTileFinish {job tile} (h : canonical s) : Kept (execRasterTileFinish job tile s) := by
  unfold Machine.execRasterTileFinish
  split
  · exact .next h
  · split
    · exact .next h
    · split
      · exact .next (.stopRaster h)
      · exact .next (.stopRaster h)
      · split
        · exact .next (.askPage h)
        · exact .next (.startCollapse h)
        · exact .next (.setRaster (.mergeAll h))

theorem Kept.execRasterTileFlush {job tile} (h : canonical s) : Kept (execRasterTileFlush job tile s) := by
  unfold Machine.execRasterTileFlush
  split
  · exact .next h
  · extract_lets
    split
    · exact .next h
    · split
      · exact .next (.stopRaster h)
      · exact .next (.stopRaster h)
      · exact .next (.stopRaster h)
      · exact .next h
      · exact .next (.setRaster (.spoil h))

theorem Kept.execRasterDone {job} (h : canonical s) : Kept (execRasterDone job s) := by
  unfold Machine.execRasterDone
  split
  · exact .next h
  · exact .ite (.next (.upd (.hubWrite (.hubWrite h)) rfl rfl)) (.next h)

theorem canonical.setStream {n x} (h : canonical s) : canonical (s.setStream n x) := h

theorem Kept.execPresent {d a} (h : canonical s) : Kept (execPresent d a s) := by
  unfold Machine.execPresent
  refine .checked (fun _ k => .releasing (fun _ k' => .atHome (fun t u hu => ?_) k') k) h
  dsimp only
  have hd {status} : canonical ((u.putU d (BitVec.ofNat 32 status)).adv) := .adv (.putU hu)
  split
  · exact .performBytes (.setStream hd)
  · exact hd
  · exact .performFrom hd

theorem Kept.execPresentImageRead {stream} (h : canonical s) : Kept (execPresentImageRead stream s) := by
  unfold Machine.execPresentImageRead
  extract_lets
  split
  · exact .next h
  · split
    · exact .next (.askPage h)
    · exact .next (.setStream (.stopped h))
    · exact .next (.hubWrite (.setStream (.performBytes h)))

theorem Kept.execCollieDecision {stream} (h : canonical s) : Kept (execCollieDecision stream s) := by
  unfold Machine.execCollieDecision
  dsimp only
  refine .ite (.next h) (.ite (.next (.setStream h)) (.next (.report ?_)))
  split
  · exact .hubWrite (.setStream h)
  · exact .setStream h

theorem Kept.execStreamSlotSend {stream} (h : canonical s) : Kept (execStreamSlotSend stream s) := by
  unfold Machine.execStreamSlotSend
  extract_lets x
  split
  · exact .next h
  · split
    · exact .next h
    · refine .next (.setStream ?_)
      split <;> exact h

theorem wf_writeCr {c : Context} {cr x} (h : c.commons.wf = true) : (c.writeCr cr x).commons.wf = true := by
  unfold Context.writeCr
  split <;> exact h

/-! ### Control registers and items -/

theorem canonical.dropWeights {ctx} (h : canonical s) : canonical (s.dropWeights ctx) := h

theorem Kept.execWrcr {a cr} (h : canonical s) : Kept (execWrcr a cr s) :=
  .checked (fun _ k =>
    have hc : canonical _ := .modCtx (fun _ hc => wf_writeCr hc) k
    .adv (.ite (.dropWeights hc) hc)) h

theorem Kept.execRdst {d a item} (h : canonical s) : Kept (execRdst d a item s) := by
  unfold Machine.execRdst
  refine .checked (fun _ k => ?_) h
  split
  · exact .adv (.putS k)
  · exact .adv (.putS (.upd k rfl rfl))

theorem canonical.freshOp (h : canonical s) : canonical (s.freshOp).2 := h

theorem canonical.queueLength {fuel n} (h : canonical s) : canonical (s.queueLength fuel n) := by
  induction fuel generalizing s with
  | zero => rw [State.queueLength]; exact .modArray h
  | succ fuel ih =>
    rw [State.queueLength]
    split
    · exact ih (.modArray (.freshOp h))
    · rw [State.queueLength]; exact .modArray h

theorem canonical.writeArray {ix x} (h : canonical s) : canonical (s.writeArray ix x) := by
  unfold State.writeArray
  split
  · exact .modArray h
  · exact .modArray h
  · exact .modArray h
  · exact .queueLength h
  · exact .modArray h

theorem canonical.writeItem {item ix x} (h : canonical s) : canonical (s.writeItem item ix x) := by
  unfold State.writeItem
  extract_lets
  split
  · exact .modCur h
  · exact .modCur h
  · exact .modCur h
  · exact .modCur (.modCur h)
  · exact .ite (.modCur h) (.modCur h)
  · exact .modCur h
  · exact .modCur h
  · exact .modCur h
  · exact .modFold h
  · exact .modArray (.writeArray h)

theorem canonical.saveCheck {d} (h : canonical s) : canonical (s.saveCheck d) := by
  unfold State.saveCheck
  extract_lets
  split
  · exact .ite h (.ite (.modDrove h) (.modDrove (.foldl (fun _ _ k => .leaveCore (.performAll k)) (.freshId h))))
  all_goals exact h

theorem canonical.giveUp {key} (h : canonical s) : canonical (s.giveUp key) := by
  unfold State.giveUp; exact .saveCheck (.upd (.setStatus (.commit (.padAll h))) rfl rfl)

theorem canonical.returnTrap {key} (h : canonical s) : canonical (s.returnTrap key) :=
  .gbarCheck (.modWave (.ite (.modArray (.modWave (.returnOne h))) (.modWave (.returnOne h))))

theorem canonical.adoptOps {key} (h : canonical s) : canonical (s.adoptOps key) := .ite (.modWave (.modArray h)) h

theorem canonical.freeAreas {wgs} (h : canonical s) : canonical (s.freeAreas wgs) := by
  unfold State.freeAreas
  refine .foldl (fun _ _ k => ?_) h
  extract_lets
  split
  · exact .modWg (.modCtx (fun _ k => k) k)
  · exact k

theorem canonical.takeDue {key} (h : canonical s) : canonical (s.takeDue key) := .modWg (.modWave h)

theorem canonical.restoreCheck {d} (h : canonical s) : canonical (s.restoreCheck d) :=
  .ite (.gbarCheck (.foldl (fun _ _ k => .modWave k)
    (.modDrove (.freeAreas (.foldl (fun _ _ k => .modCore k)
    (.foldl (fun _ _ k => .takeDue (.returnOne (.adoptOps k))) h)))))) h

theorem canonical.badReturn (h : canonical s) : canonical s.badReturn := .killTrapped h

theorem Kept.execRte (h : canonical s) : Kept (execRte s) :=
  .plain (fun _ k => .ite (.giveUp k) (.ite (.badReturn k) (.ite (.restoreCheck (.modCur k)) (.returnTrap k)))) h

/-! ### Issue -/

theorem canonical.aim {b} (h : canonical s) : canonical (s.aim b) := h

theorem canonical.begin {i len} (h : canonical s) : canonical (s.begin i len) := by
  unfold State.begin; exact .upd h rfl rfl

theorem canonical.badRead {i t} (h : canonical s) (e : s.badRead i = some t) : canonical t := by
  unfold State.badRead at e
  split at e
  · cases e
  · dsimp only at e
    split at e
    · cases e; exact .consume h
    · split at e
      · cases e
      · split at e
        · cases e
        · cases e; exact .raise (.modCur h)

theorem KeptWork.prepare {b may beside held past} (hh : ∀ t, canonical t → canonical (held t))
    (hp : ∀ t, canonical t → canonical (past t)) (h : canonical s) : KeptWork (s.prepare b may beside held past) := by
  have ha : canonical (s.aim b) := .aim h
  unfold State.prepare
  extract_lets a trap
  split
  · exact .idle (hp _ (.refuse ha))
  · exact .idle (hp _ (.askPage (.retryWave ha)))
  · exact .idle (hp _ (.consume ha))
  · split
    · exact .idle (hp _ (.raise ha))
    · refine .ite (.idle (hp _ h)) (.ite (.idle (hh _ (.retry ha))) ?_)
      extract_lets t
      have ht : canonical t := .begin (.touchAll ha)
      split
      next u e => exact .idle (hp _ (.badRead ht e))
      next => exact .issue ht

theorem canonical.stretchNs (h : canonical s) : canonical (s.stretchNs).2 := by
  unfold State.stretchNs
  split <;> exact h

theorem canonical.tick (h : canonical s) : canonical s.tick := by
  unfold State.tick; exact .upd (.stretchNs (.flockEnter h)) rfl rfl

theorem canonical.noteStop {key} (h : canonical s) : canonical (s.noteStop key) := .ite h (.rechoose h)

theorem canonical.noteIdle {q} (h : canonical s) : canonical (s.noteIdle q) := by
  unfold State.noteIdle
  split
  · exact .noteStop h
  · exact h

theorem canonical.closeB {b} (h : canonical s) : canonical (s.closeB b) := .ite (.modWave h) h

theorem canonical.chooseB {b} (h : canonical s) : canonical (s.chooseB b) := by
  unfold State.chooseB
  split
  · exact .upd (.ite h (.closeB h)) rfl rfl
  · exact .closeB h

theorem KeptWork.issueTurn (h : canonical s) : KeptWork s.issueTurn := by
  unfold State.issueTurn
  split
  · extract_lets s1
    have h1 : canonical s1 := h
    split
    · exact .prepare (fun _ h => .chooseB h) (fun _ h => .noteStop (.closeB h)) h1
    · exact .idle (.closeB h1)
  · split
    · exact .idle (.tick h)
    · split
      · exact .idle (.noteIdle h)
      next q _ a _ =>
        have hw : KeptWork (s.prepare a (fun _ => true) (s.besideA a) (fun t => t.noteStop a.key)
          (fun t => t.noteStop a.key)) :=
          .prepare (fun _ h => .noteStop h) (fun _ h => .noteStop h) h
        split
        next e => rw [e] at hw; cases hw with | issue h => exact .issue h
        next => exact hw

theorem canonical.settle {b} (h : canonical s) : canonical (s.settle b) := by
  unfold State.settle; exact .upd (.noteStop (.ite (.closeB h) h)) rfl rfl

/-! ### Launches -/

theorem canonical.metPage {ctx met} (h : canonical s) : canonical (s.metPage ctx met) := by
  unfold State.metPage
  split
  · exact .stopped h
  · exact h

theorem canonical.launchSeen {ctx va} (h : canonical s) : canonical (s.launchSeen ctx va) := by
  unfold State.launchSeen
  split
  · exact h
  · exact .hubSeen (.hubSeen (.hubSeen h))

theorem canonical.rejectGrid {id status} (h : canonical s) : canonical (s.rejectGrid id status) := by
  unfold State.rejectGrid
  refine .signal ?_
  dsimp only [canonical, State.memOk]
  exact canonical.modCtx (fun _ k => k) (.dropTethers h)

theorem canonical.makeEligible {id} (h : canonical s) : canonical (s.makeEligible id) := .modGrid h

theorem canonical.watchEvent {id} (h : canonical s) : canonical (s.watchEvent id) := by
  unfold State.watchEvent
  extract_lets
  split
  · exact .upd (.freshId (.hubSeen h)) rfl rfl
  · exact .ite (.askPage h) (.rejectGrid h)
  · exact .rejectGrid h
  · exact .rejectGrid (.malformed h)

theorem canonical.pendGrid {id} (h : canonical s) : canonical (s.pendGrid id) :=
  .ite (.makeEligible h) (.watchEvent (.modGrid h))

theorem Kept.execWaitEventMet {grid} (h : canonical s) : Kept (execWaitEventMet grid s) := by
  unfold Machine.execWaitEventMet; exact .ite (.next h)
    (.ite (.next (.makeEligible (.upd h rfl rfl))) (.ite (.next h) (.next (.watchEvent h))))

theorem canonical.answer {key id l status handle} (h : canonical s) : canonical (s.answer key id l status handle) :=
  .ite (.modWave h) (.arrival (.modWave h))

theorem canonical.judge {key id l va} (h : canonical s) : canonical (s.judge key id l va) := by
  unfold State.judge
  extract_lets parent g
  refine .ite (.answer h) (.ite (.answer h) ?_)
  split
  · exact .askPage h
  · exact .answer (.ite (.metPage h) (.signal (.metPage h)))
  · exact .answer (.modCtx (fun _ k => k) (.upd (.launchSeen h) rfl rfl))

theorem Kept.execLaunchStatus {key id} (h : canonical s) : Kept (execLaunchStatus key id s) := by
  unfold Machine.execLaunchStatus
  split
  · exact .next h
  · split
    · exact .next h
    · exact .next (.judge h)

theorem Kept.execChildLaunchTake {ctx} (h : canonical s) : Kept (execChildLaunchTake ctx s) := by
  unfold Machine.execChildLaunchTake
  split
  · exact .next (.pendGrid h)
  · exact .next h

theorem canonical.takeHead {q x} (h : canonical s) : canonical (s.takeHead q x) := by
  unfold State.takeHead; exact .performBytes (.upd h rfl rfl)

theorem Kept.execHostQueueTake {queue} (h : canonical s) : Kept (execHostQueueTake queue s) := by
  unfold Machine.execHostQueueTake
  extract_lets q
  refine .ite (.next h) (.ite (.next (.report (.performBytes h))) ?_)
  split
  · exact .next (.askPage h)
  · exact .next (.ite (.signal (.takeHead (.metPage h))) h)
  · have hu : canonical ((s.launchSeen q.ctx q.recordVa).takeHead queue q) := .takeHead (.launchSeen h)
    generalize (s.launchSeen q.ctx q.recordVa).takeHead queue q = u at hu
    exact .ite (.next (.pendGrid (.upd hu rfl rfl))) (.next h)

theorem Kept.refuseRecord {queue} (h : canonical s) : Kept (State.refuseRecord queue s) := by
  unfold State.refuseRecord
  split
  next t e =>
    have ht : canonical t := (Kept.execHostQueueTake h).state e
    split
    · exact .next ht
    · split
      · exact .next (.ite (.upd (.metPage h) rfl rfl) h)
      · exact .next h
      · exact .next h
  next => exact .fault
  next => exact .refused

/-! ### Trap entry -/

theorem canonical.heldPc {key ls} (h : canonical s) : canonical (s.heldPc key ls).2 := by
  unfold State.heldPc
  extract_lets w
  split
  · exact h
  · exact .freeAddr h

theorem canonical.enterDue {key t} (h : canonical s) : canonical (s.enterDue key t) := .enterTrap (.heldPc h)

theorem canonical.preemptTrap {key trigger} (h : canonical s) : canonical (s.preemptTrap key trigger).2 :=
  .heldPc (.freeAddr h)

theorem canonical.enterDeferred {key l d} (h : canonical s) : canonical (s.enterDeferred key l d) :=
  .enterTrap (.modWave h)

theorem Kept.execTrapEntry {key} (h : canonical s) : Kept (execTrapEntry key s) := by
  unfold Machine.execTrapEntry
  extract_lets w
  refine .ite (.next h) ?_
  split
  · exact .next (.enterTrap h)
  · refine .ite (.next h) ?_
    split
    · exact .next (.enterDue (.modWave h))
    · split
      · exact .next h
      next trigger _ =>
        split
        · exact .next (.enterDeferred h)
        · exact .ite (.next (.modWave (.enterTrap (.preemptTrap (trigger := trigger) h)))) (.next h)

theorem canonical.takeArea {wg} (h : canonical s) : canonical (s.takeArea wg) :=
  .foldl (fun _ _ k => .setStatus k) (.hubPost (.modWg (.modCtx (fun _ k => k) h)))

theorem canonical.takeBack {d} (h : canonical s) : canonical (s.takeBack d) := by
  unfold State.takeBack
  extract_lets
  split
  · refine .modGrid ?_
    dsimp only [canonical, State.memOk]
    exact canonical.foldl (fun _ _ k => .dropWg k) h
  · exact .modDrove (.freshId (.foldl (fun _ _ k => .dropWg k) h))

theorem canonical.preemptDrove {d trigger} (h : canonical s) : canonical (s.preemptDrove d trigger) :=
  .ite h (.ite (.takeBack h) (.ite h (.foldl (fun _ _ k => .unparkWave (.modWave k))
    (.modDrove (.foldl (fun _ _ k => .takeArea k) h)))))

theorem Kept.execSavedTetherWake {index} (h : canonical s) : Kept (execSavedTetherWake index s) := by
  unfold Machine.execSavedTetherWake
  split
  · exact .next h
  · split
    · exact .next (.modDrove (.setStatus (.upd h rfl rfl)))
    all_goals exact .next h

/-! ### The scheduler -/

theorem canonical.claimWays {id cores short} (h : canonical s) : canonical (s.claimWays id cores short) :=
  .ite h (.foldl (fun _ _ k => .ite (.modCore k) k) h)

theorem canonical.useClaims {id cores} (h : canonical s) : canonical (s.useClaims id cores) :=
  .foldl (fun _ _ k => .modCore k) h

theorem Kept.execPenClaimComplete {core} (h : canonical s) : Kept (execPenClaimComplete core s) := by
  unfold Machine.execPenClaimComplete
  split
  · exact .next h
  · exact .next (.ite (.modCore h) h)

theorem Kept.execClaimTimeout {core} (h : canonical s) : Kept (execClaimTimeout core s) := by
  unfold Machine.execClaimTimeout
  split
  · exact .next h
  · exact .next (.ite (.modGrid (.dropClaims h)) h)

theorem canonical.putWaves {core make qs} (h : canonical s) : canonical (s.putWaves core make qs) := by
  induction qs generalizing s with
  | nil => exact h
  | cons q r ih => exact ih (s := { (State.freshId s).2 with waves := _ }) h

theorem canonical.startLease {core wg stopped} (h : canonical s) : canonical (s.startLease core wg stopped) :=
  .modCore h

theorem canonical.startWg {id d rank core} (h : canonical s) : canonical (s.startWg id d rank core) := by
  unfold State.startWg
  extract_lets g
  split
  · exact h
  · have h2 {x y} : canonical (State.modDrove { (s.freshId).2 with wgs := x } d y) := .modDrove (.upd h rfl rfl)
    exact .putWaves (.ite h2 (.startLease h2))

theorem canonical.startDrove {d} (h : canonical s) : canonical (s.startDrove d) :=
  .ite (.modCtx (fun _ k => k) (.modDrove (.foldl (fun _ _ k => .acceptReqs k) h))) h

theorem canonical.startOrWait {id d} (h : canonical s) : canonical (s.startOrWait id d) :=
  .ite h (.ite (.report (.startDrove h)) (.startDrove h))

theorem canonical.standAll {id xs} (h : canonical s) : canonical (s.standAll id xs) :=
  .modGrid (.foldl (fun _ _ k => .modDrove k) (.foldl (fun _ _ k => .foldl (fun _ _ k' => .startWg k') k) h))

theorem canonical.newDrove {id} (h : canonical s) : canonical (s.newDrove id).2 := by
  unfold State.newDrove; exact .modGrid (.upd (.freshId h) rfl rfl)

theorem canonical.takeCores {id cores} (h : canonical s) : canonical (s.takeCores id cores) :=
  .unreserve (.dropClaims (.useClaims h))

theorem canonical.placeWhole {c cores} (h : canonical s) : canonical (s.placeWhole c cores) :=
  .ite h (.ite (.claimWays h) (.foldl (fun _ _ k => .startOrWait k)
    (.standAll (.foldlSnd (fun _ _ k => .newDrove k) (.takeCores h)))))

theorem canonical.placeOne {c cores} (h : canonical s) : canonical (s.placeOne c cores) := by
  unfold State.placeOne
  split
  · exact h
  · split
    · exact .claimWays h
    · refine .startOrWait ?_
      refine .standAll ?_
      split
      · exact .takeCores h
      · exact .newDrove (.takeCores h)

theorem canonical.takeVictims {c trigger pool} (h : canonical s) : canonical (s.takeVictims c trigger pool) := by
  unfold State.takeVictims; exact .ite h (.foldl (fun _ _ k => .preemptDrove (.upd k rfl rfl)) h)

theorem canonical.headPreempts {c} (h : canonical s) : canonical (s.headPreempts c) := .ite (.takeVictims h) h

theorem Kept.execDrovePlace {grid cores} (h : canonical s) : Kept (execDrovePlace grid cores s) := by
  unfold Machine.execDrovePlace
  split
  · exact .next h
  · exact .ite (.next h) (.ite (.next (.headPreempts h)) (.next (.ite (.placeWhole h) (.placeOne h))))

theorem Kept.execBackfillStop {grid cluster} (h : canonical s) : Kept (execBackfillStop grid cluster s) := by
  unfold Machine.execBackfillStop
  split
  · exact .next h
  · exact .next (.ite (.upd h rfl rfl) h)

theorem Kept.execTimesliceExpire {grid} (h : canonical s) : Kept (execTimesliceExpire grid s) := by
  unfold Machine.execTimesliceExpire
  split
  · exact .next h
  · exact .next (.ite (.takeVictims h) h)

theorem canonical.sense {cluster reading} (h : canonical s) : canonical (s.sense cluster reading) := h

theorem Kept.execThermalMigrate {drove cores} (h : canonical s) : Kept (execThermalMigrate drove cores s) := by
  unfold Machine.execThermalMigrate
  extract_lets
  split
  · exact .next h
  · exact .next (.ite (.preemptDrove (.modDrove h)) h)

theorem canonical.restoreTrap (h : canonical s) : canonical (s.restoreTrap).2 := h

theorem canonical.restoreWg {id wg core} (h : canonical s) : canonical (s.restoreWg id wg core) := by
  unfold State.restoreWg
  extract_lets
  split
  · exact h
  · exact .modWg (.putWaves (.restoreTrap (.modCore (.ite (.modWg h) (.startLease (.modWg h))))))

theorem Kept.execDroveRestore {drove cores} (h : canonical s) : Kept (execDroveRestore drove cores s) :=
  .ite (.next h) (.ite (.next h) (.ite (.next (.headPreempts h))
    (.ite (.next h) (.ite (.next (.claimWays h))
    (.next (.modDrove (.foldl (fun _ _ k => .ite k (.restoreWg k)) (.modGrid (.takeCores h)))))))))

theorem canonical.endWg {wg} (h : canonical s) : canonical (s.endWg wg) :=
  .freeAreas (.leaveCore (.commit (.dropTethers h)))

theorem canonical.endDrove {d} (h : canonical s) : canonical (s.endDrove d) := .ite (.modDrove h) h

theorem Kept.execWaveEnd {key} (h : canonical s) : Kept (execWaveEnd key s) := by
  unfold Machine.execWaveEnd
  split
  · exact .next h
  · exact .ite (.next h) (.next (.gbarCheck (.modQuarter
      (.restoreCheck (.saveCheck (.endDrove (.ite (.endWg (.modWg (.dropTethers (.upd (.setStatus (.padAll h)) rfl rfl))))
      (.modWg (.dropTethers (.upd (.setStatus (.padAll h)) rfl rfl))))))))))

theorem Kept.execGridRetire {grid} (h : canonical s) : Kept (execGridRetire grid s) := by
  unfold Machine.execGridRetire
  extract_lets
  split
  · exact .next (.ite (.foldl (fun _ _ k => .performAll k) h) h)
  · refine .next ?_
    refine .signal ?_
    refine .unreserve ?_
    dsimp only [canonical, State.memOk]
    exact canonical.ite (.foldl (fun _ _ k => .performAll k) h) h

/-! ### Contexts and commands -/

theorem Kept.execPathStarvation {key} (h : canonical s) : Kept (execPathStarvation key s) := by
  unfold Machine.execPathStarvation
  split
  · exact .next (.modWave h)
  · exact .next h

/-- A context is enabled with nothing in its commons window. -/
theorem Kept.execContextEnable {ctx} (h : canonical s) : Kept (execContextEnable ctx s) := by
  unfold Machine.execContextEnable
  extract_lets b
  refine .ite (.next h) (.ite (.next ⟨h.1, fun x hx => ?_⟩) (.next (.report (.performBytes h))))
  rcases Laws.mem_tabSet hx with rfl | hx
  · rfl
  · exact h.2 x hx

theorem canonical.dropTlb {p} (h : canonical s) : canonical (s.dropTlb p) := h

theorem canonical.unmapSlot {r slot} (h : canonical s) : canonical (s.unmapSlot r slot) := by
  unfold State.unmapSlot
  refine .dropTlb ?_
  split
  · exact .performBytes h
  · exact h

theorem canonical.unmapSlots {ctx} (h : canonical s) : canonical (s.unmapSlots ctx) := by
  unfold State.unmapSlots
  refine .foldl (fun _ _ k => ?_) h
  split
  · exact .unmapSlot k
  · exact k

theorem canonical.hostWrite {cells} (h : canonical s) : canonical (s.hostWrite cells) := by
  unfold State.hostWrite
  refine .foldl (fun _ _ k => ?_) (.perform h)
  split
  · exact .upd k rfl rfl
  · exact k

theorem canonical.hostAtomic {pa op x y} (h : canonical s) : canonical (s.hostAtomic pa op x y) := by
  unfold State.hostAtomic
  extract_lets old s1
  have h1 : canonical s1 := by
    unfold s1
    split
    · exact .perform h
    · exact h
  exact .upd h1 rfl rfl

theorem canonical.hostRun {ms} (h : canonical s) : canonical (s.hostRun ms) := by
  induction ms generalizing s with
  | nil => exact h
  | cons m rest ih =>
    unfold State.hostRun
    split
    · exact h
    · split
      · exact ih (.hostWrite h)
      · split
        · exact .upd h rfl rfl
        · exact ih (.hostAtomic h)

theorem canonical.publishDup {i} (h : canonical s) : canonical (s.publishDup i) := .performBytes h

theorem canonical.dropContext {ctx} (h : canonical s) : canonical (s.dropContext ctx) := by
  unfold State.dropContext
  extract_lets held gone s1 u
  have h1 : canonical s1 := .foldl (fun _ _ h => .publishDup h) h
  have hu : canonical u := .hostRun (.foldl (fun _ _ h => .perform h) h1)
  exact ⟨hu.1, fun x hx => hu.2 x (Laws.mem_tabErase hx)⟩

theorem canonical.noteKills (h : canonical s) : canonical s.noteKills := h

theorem Kept.execContextKill {ctx} (h : canonical s) : Kept (execContextKill ctx s) :=
  .ite (.next h) (.next (.dropContext (.dropTlb
    (.unmapSlots (.dropWeights (.abandonBuilds (.foldl (fun _ _ k => .ite (.killGrid k) k) h)))))))

theorem canonical.readBlock {pa ok take skip} (ht : ∀ t, canonical t → canonical (take t))
    (hs : ∀ t, canonical t → canonical (skip t)) (h : canonical s) : canonical (s.readBlock pa ok take skip) := .ite
    (ht s h) (.report (hs s h))

theorem Kept.execSchedulerBlockRead (h : canonical s) : Kept (execSchedulerBlockRead s) := by
  unfold Machine.execSchedulerBlockRead; exact .ite (.next h)
    (.next (.readBlock (fun _ k => .upd k rfl rfl) (fun _ k => .upd k rfl rfl) h))

theorem Kept.execPolicyBlockRead (h : canonical s) : Kept (execPolicyBlockRead s) := by
  unfold Machine.execPolicyBlockRead; exact .ite (.next h)
    (.next (.readBlock (fun _ k => .upd k rfl rfl) (fun _ k => .upd k rfl rfl) h))

/-! ### The pager -/

theorem Kept.execPagerTableRead {ctx} (h : canonical s) : Kept (execPagerTableRead ctx s) := by
  unfold Machine.execPagerTableRead
  extract_lets
  split
  · exact .next h
  · split
    · exact .next (.report (.modCtx (fun _ k => k) (.hubSeen (.hubSeen h))))
    · split
      · exact .next (.hubSeen (.hubSeen h))
      · exact .ite (.next (.modCtx (fun _ k => k) (.hubSeen (.hubSeen h))))
          (.next (.report (.modCtx (fun _ k => k) (.hubSeen (.hubSeen h)))))

theorem canonical.zeroFrames {frames} (h : canonical s) : canonical (s.zeroFrames frames) :=
  ⟨Laws.wf_filter h.1 _, h.2⟩

theorem canonical.setUpcall {ctx i f} (h : canonical s) : canonical (s.setUpcall ctx i f) := .modCtx (fun _ k => k) h

theorem canonical.stopRegion {ctx i} (h : canonical s) : canonical (s.stopRegion ctx i) :=
  .report (.modCtx (fun _ k => k) h)

theorem canonical.makeUpcall {ctx i u} (h : canonical s) : canonical (s.makeUpcall ctx i u) := by
  unfold State.makeUpcall
  extract_lets
  split
  · split
    · exact .stopRegion h
    · split
      · exact .ite h (.hubWrite (.hubWrite (.hubSeen
          (.setUpcall (.performBytes (.zeroFrames (.modCtx (fun _ k => k) h)))))))
      · exact h
  · exact h

theorem Kept.execUpcall {ctx va kind} (h : canonical s) : Kept (execUpcall ctx va kind s) := by
  unfold Machine.execUpcall
  extract_lets
  split
  · exact .next h
  · split
    · exact .next (.ite h (.makeUpcall h))
    · exact .next h

theorem Kept.execPagerWaitTimeout {ctx index} (h : canonical s) : Kept (execPagerWaitTimeout ctx index s) := by
  unfold Machine.execPagerWaitTimeout
  split
  · exact .next h
  · exact .next (.ite (.report (.setUpcall h)) h)

theorem canonical.wakePage {ctx lo hi} (h : canonical s) : canonical (s.wakePage ctx lo hi) := h

theorem canonical.retryPosts (h : canonical s) : canonical s.retryPosts := by
  unfold State.retryPosts; exact .foldl (fun _ _ k => .hubPost k) (.upd h rfl rfl)

theorem canonical.voidFrames {frames} (h : canonical s) : canonical (s.voidFrames frames) := h

theorem Kept.execPagerMap {ctx index} (h : canonical s) : Kept (execPagerMap ctx index s) := by
  unfold Machine.execPagerMap
  split
  · exact .next h
  · split
    · exact .next h
    · exact .ite (.next h) (.next (.retryPosts
        (.wakePage (.voidFrames (.modCtx (fun _ k => k) (.performBytes (.unmapSlot (.hubSeen h))))))))

theorem canonical.replayRed {op core pa e} (h : canonical s) : canonical (s.replayRed op core pa e) := by
  unfold State.replayRed
  refine .foldl (fun _ _ k => ?_) h
  extract_lets
  split
  · exact .performFrom k
  · exact k

theorem canonical.dropEntry {core index} (h : canonical s) : canonical (s.dropEntry core index) :=
  .freeLog (.modCore h)

theorem canonical.refuseEntry {e} (h : canonical s) : canonical (s.refuseEntry e) := by
  unfold State.refuseEntry
  extract_lets
  split
  · exact .fallDue h
  · split
    · exact .fallDue h
    · split
      · exact .modWg h
      · exact .killGrid (.report h)

theorem canonical.replay {core index e t} (h : canonical s) : canonical (s.replay core index e t) := by
  unfold State.replay
  extract_lets
  split
  · exact .startCollapse h
  · split
    · exact .dropEntry (.performFrom (.touchRo (.touchAll (.performLine (.commit h)))))
    · exact .ite (.affect (.dropEntry (.touchRo (.touchAll (.performLine (.commit h))))))
        (.dropEntry (.replayRed (.touchRo (.touchAll (.performLine (.commit h))))))

theorem Kept.execSideLogReplay {core index} (h : canonical s) : Kept (execSideLogReplay core index s) := by
  unfold Machine.execSideLogReplay
  extract_lets
  split
  · exact .next h
  · split
    · exact .next h
    · split
      · exact .next (.gbarChecks (.replay h))
      · exact .next (.ite (.askPage h) (.refuseEntry (.dropEntry h)))
      · exact .next (.refuseEntry (.dropEntry h))
      · exact .next (.refuseEntry (.malformed (.dropEntry h)))

theorem canonical.failStuck {f} (hf : ∀ t, canonical t → Kept (f t)) (h : canonical s) : canonical (s.failStuck f) :=
  by
  unfold State.failStuck
  split
  · split
    · split
      next e => exact (hf s h).state e
      all_goals exact h
    · exact h
  all_goals exact h

/-- Every step of the list keeps the canonical form. -/
def AllKept (l : List (State → Out)) : Prop := ∀ f ∈ l, ∀ t, canonical t → Kept (f t)

theorem AllKept.nil : AllKept [] := fun _ h => absurd h List.not_mem_nil

theorem AllKept.cons {f l} (hf : ∀ t, canonical t → Kept (f t)) (h : AllKept l) : AllKept (f :: l) := by
  intro g hg
  rcases List.mem_cons.1 hg with rfl | hg
  · exact hf
  · exact h g hg

theorem AllKept.append {l m} (hl : AllKept l) (hm : AllKept m) : AllKept (l ++ m) := fun f hf =>
  (List.mem_append.1 hf).elim (hl f) (hm f)

theorem AllKept.map {α : Type} {g : α → State → Out} {l : List α} (hg : ∀ x t, canonical t → Kept (g x t)) :
    AllKept (l.map g) := by
  intro f hf
  obtain ⟨x, -, rfl⟩ := List.mem_map.1 hf
  exact hg x

theorem AllKept.replicate {n f} (hf : ∀ t, canonical t → Kept (f t)) : AllKept (List.replicate n f) := fun _ hg =>
  List.eq_of_mem_replicate hg ▸ hf

theorem AllKept.foldl {α : Type} {g : List (State → Out) → α → List (State → Out)} {l : List α} {init}
    (hg : ∀ m x, AllKept m → AllKept (g m x)) (h : AllKept init) : AllKept (l.foldl g init) := by
  induction l generalizing init with
  | nil => exact h
  | cons x r ih => exact ih (hg init x h)

/-- What can stop an engine keeps the canonical form. -/
theorem AllKept.engineWaits : AllKept s.engineWaits := by
  unfold State.engineWaits
  refine .append (.append (.append (.append (.append (.append (.append ?_ ?_) ?_) ?_) ?_) ?_) ?_) ?_
  · exact .foldl (fun _ _ h => .append h (.foldl (fun _ _ h => .append h (.replicate fun _ h => .execLaunchStatus h))
      .nil)) .nil
  · exact .map fun _ _ h => .refuseRecord h
  · exact .map fun _ _ h => .execWaitEventMet h
  · have hq {core : Nat} {ops : List ArrayOp} : AllKept (ops.foldl (fun m o =>
        m ++ [execArrayFillComplete core o.id, execMmaRowComplete core o.id, execArrayOpComplete core o.id]) []) :=
      .foldl (fun _ _ h => .append h (.cons (fun _ h => .execArrayFillComplete h)
        (.cons (fun _ h => .execMmaRowComplete h)
        (.cons (fun _ h => .execArrayOpComplete h) .nil)))) .nil
    exact .foldl (fun _ _ h => .append (.append (.append h (.map fun _ _ h => .execCopyRequestFail h)) hq)
      (.map fun _ _ h => .execFlockTileComplete h)) .nil
  · exact .map fun _ _ h => .execRayEnd h
  · exact .foldl (fun _ _ h => .append h (.cons (fun _ h => .execBuildStart h)
      (.cons (fun _ h => .execBuildFail h) .nil))) .nil
  · have ht {job : Nat} : AllKept ((List.range 65536).foldl
      (fun m t => m ++ [execRasterTileFlush job t, execRasterTileFinish job t]) []) :=
      .foldl (fun _ _ h => .append h (.cons (fun _ h => .execRasterTileFlush h)
        (.cons (fun _ h => .execRasterTileFinish h) .nil))) .nil
    exact .foldl (fun _ _ h => .append (.append h
      (.cons (fun _ h => .execRasterStart h) (.cons (fun _ h => .execRasterSmallqResume h) .nil))) ht) .nil
  · exact .map fun _ _ h => .execPresentImageRead h

theorem canonical.failAllStuck {l} (hl : AllKept l) (h : canonical s) : canonical (l.foldl State.failStuck s) := by
  induction l generalizing s with
  | nil => exact h
  | cons f r ih => exact ih (fun g hg => hl g (List.mem_cons_of_mem _ hg)) (.failStuck (hl f List.mem_cons_self) h)

theorem canonical.refuseWave {key t} (h : canonical s) : canonical (s.refuseWave key t) :=
  .ite (.killTrapped h) (.ite (.enterTrap (.modWave h)) (.modWave (.modWave h)))

theorem canonical.refuseWaves {ctx lo hi} (h : canonical s) : canonical (s.refuseWaves ctx lo hi) := by
  unfold State.refuseWaves
  refine .foldl (fun _ _ k => ?_) h
  split
  · exact .ite (.refuseWave k) k
  all_goals exact k

theorem canonical.refuseLogs {ctx lo hi} (h : canonical s) : canonical (s.refuseLogs ctx lo hi) := by
  unfold State.refuseLogs; exact .foldl (fun _ _ k => .ite (.refuseEntry k) k)
    (.foldl (fun _ _ k => .freeLog k) (.upd h rfl rfl))

theorem Kept.execPagerRefuse {ctx index} (h : canonical s) : Kept (execPagerRefuse ctx index s) := by
  unfold Machine.execPagerRefuse
  split
  · exact .next h
  · split
    · exact .next h
    · extract_lets hi seen s1 s2 s3 s4
      have h1 : canonical s1 := .setUpcall (.ite h (.hubSeen h))
      have h3 : canonical s3 := .refuseLogs (.refuseWaves (.retryPosts (.failAllStuck .engineWaits h1)))
      have h4 : canonical s4 := by
        unfold s4
        split
        · exact .unmapSlot h3
        · exact h3
      exact .next (.modCtx (fun _ k => k) h4)

/-! ### Maintenance -/

theorem canonical.takeCommand (h : canonical s) : canonical s.takeCommand := .performBytes h

theorem canonical.endCommand {pa status} (h : canonical s) : canonical (s.endCommand pa status) := .performBytes h

theorem Kept.command {op ok run} (hf : ∀ t y z, canonical t → canonical (run t y z)) (h : canonical s) :
    Kept (s.command op ok run) := by
  unfold State.command
  split
  · exact .next h
  · exact .ite (.next (.endCommand (.takeCommand h)))
      (.ite (.next h) (.ite (.next (.endCommand (.takeCommand h))) (.next (hf _ _ _ h))))

theorem canonical.commandPage {ctx va n need pa go} (hf : ∀ t, canonical t → canonical (go t)) (h : canonical s) :
    canonical (s.commandPage ctx va n need pa go) := by
  unfold State.commandPage
  split
  · exact hf _ (.hubSeen (.takeCommand h))
  · exact .askPage h
  · exact .endCommand (.stopped (.takeCommand h))
  · exact .endCommand (.stopped (.takeCommand h))

theorem canonical.startCommand {pa b lo hi leaf leafPa} (h : canonical s) :
    canonical (s.startCommand pa b lo hi leaf leafPa) := by
  unfold State.startCommand; exact .upd (.takeCommand h) rfl rfl

theorem canonical.blockPage {pa b x} (h : canonical s) : canonical (s.blockPage pa b x) := by
  unfold State.blockPage; exact .ite h (.upd (.takeCommand h) rfl rfl)

theorem canonical.unblockPage {b} (h : canonical s) : canonical (s.unblockPage b) := by
  unfold State.unblockPage; exact .retryPosts (.wakePage (.upd h rfl rfl))

theorem canonical.finish {m status} (h : canonical s) : canonical (s.finish m status) := by
  unfold State.finish; exact .endCommand (.upd h rfl rfl)

theorem canonical.busyCommand {op t} (h : canonical s) (e : s.busyCommand op = some t) : canonical t := by
  obtain ⟨m, -, rfl⟩ := Option.map_eq_some_iff.1 e
  exact .finish (.unblockPage h)

theorem Kept.execMigrate (h : canonical s) : Kept (execMigrate s) := by
  unfold Machine.execMigrate
  split
  next e => exact .next (.busyCommand h e)
  next =>
    refine .command (fun _ _ _ h => ?_) h
    split
    · exact .blockPage h
    · exact h

theorem Kept.execDup (h : canonical s) : Kept (execDup s) := by
  unfold Machine.execDup
  split
  next e => exact .next (.busyCommand h e)
  next =>
    refine .command (fun _ _ _ h => ?_) h
    split
    · exact .blockPage h
    · exact h

theorem canonical.copyFrame {src dst} (h : canonical s) : canonical (s.copyFrame src dst) :=
  ⟨Laws.wf_copyFrame h.1 src dst, h.2⟩

theorem canonical.moveTethers {src dst} (h : canonical s) : canonical (s.moveTethers src dst) := by
  unfold State.moveTethers; exact .foldl (fun _ _ k => .syncSpill k) (.upd h rfl rfl)

theorem canonical.dropPath {frame p} (h : canonical s) : canonical (s.dropPath frame p) := h

theorem canonical.migrated {m} (h : canonical s) : canonical (s.migrated m) := by
  unfold State.migrated
  extract_lets b old new s1 s2 s3
  have h2 : canonical s2 := .voidFrames (.performBytes (.dropPath (.moveTethers (.copyFrame h))))
  exact .ite (.finish (.unblockPage h)) (.finish (.unblockPage (.modCtx (fun _ k => k) h2)))

theorem canonical.duplicated {m} (h : canonical s) : canonical (s.duplicated m) := by
  unfold State.duplicated
  refine .finish ?_
  refine .unblockPage ?_
  refine .voidFrames ?_
  refine .performBytes ?_
  refine .publishDup ?_
  dsimp only [canonical, State.memOk]
  exact canonical.foldl (fun _ _ k => .copyFrame k) h

theorem Kept.execInvalComplete {index} (h : canonical s) : Kept (execInvalComplete index s) := by
  unfold Machine.execInvalComplete
  split
  · exact .next h
  · exact .ite (.next h) (.ite (.next (.finish h)) (.ite (.next h) (.next (.ite (.migrated h) (.duplicated h)))))

theorem canonical.collapsed {i d} (h : canonical s) : canonical (s.collapsed i d) := by
  unfold State.collapsed
  extract_lets s1 s2 s3
  have h1 : canonical s1 := by
    unfold s1
    split
    · exact .ite (.performBytes h) h
    · exact h
  have h2 : canonical s2 := .voidFrames (.modCtx (fun _ k => k) (.publishDup (.upd h1 rfl rfl)))
  have h3 : canonical s3 := .hostRun (.foldl (fun _ _ k => .perform k) h2)
  exact .gbarChecks (.foldl (fun _ _ k => .finish k) h3)

theorem canonical.collapseCheck {i} (h : canonical s) : canonical (s.collapseCheck i) := by
  unfold State.collapseCheck
  split
  · exact h
  · split
    · exact h
    · exact .ite (.collapsed h) h

theorem canonical.dropReplica {i site d} (h : canonical s) : canonical (s.dropReplica i site d) := by
  unfold State.dropReplica; exact .ite (.dropPath (.upd h rfl rfl)) (.upd h rfl rfl)

theorem Kept.execDupCollapseAck {entry site} (h : canonical s) : Kept (execDupCollapseAck entry site s) := by
  unfold Machine.execDupCollapseAck
  split
  · exact .next h
  · split
    · exact .next h
    · exact .next (.collapseCheck (.ite (.upd (.dropReplica h) rfl rfl) h))

theorem Kept.execUndup (h : canonical s) : Kept (execUndup s) := by
  unfold Machine.execUndup
  refine .command (fun _ _ _ k => ?_) h
  split
  · exact k
  · exact .collapseCheck (.upd (.takeCommand k) rfl rfl)

theorem Kept.execHotcfg (h : canonical s) : Kept (execHotcfg s) := by
  unfold Machine.execHotcfg; exact .command (fun _ _ _ k => .endCommand (.upd (.takeCommand k) rfl rfl)) h

theorem Kept.execFrames (h : canonical s) : Kept (execFrames s) :=
  .command (fun _ _ _ k => .commandPage (fun _ k' => .ite (.endCommand (.modCtx (fun _ k => k) k'))
    (.endCommand k')) k) h

theorem Kept.execBrand (h : canonical s) : Kept (execBrand s) := by
  unfold Machine.execBrand; exact .command (fun _ _ _ k => .ite (.endCommand (.upd (.takeCommand k) rfl rfl))
    (.endCommand (.upd (.takeCommand k) rfl rfl))) h

theorem Kept.execAttest (h : canonical s) : Kept (execAttest s) := by
  unfold Machine.execAttest; exact .command (fun _ _ _ k => .commandPage
    (fun _ k' => .ite (.endCommand k') (.endCommand (.hubWrite (.upd k' rfl rfl)))) k) h

theorem Kept.execHotIntervalEnd {die} (h : canonical s) : Kept (execHotIntervalEnd die s) := by
  unfold Machine.execHotIntervalEnd; exact .ite (.next h) (.next (.upd (.performBytes h) rfl rfl))

/-! ### Reliability -/

theorem canonical.publishHarvest (h : canonical s) : canonical s.publishHarvest := .performBytes h

theorem canonical.reap {f} (h : canonical s) : canonical (s.reap f) := by
  unfold State.reap; exact .publishHarvest (.upd h rfl rfl)

theorem canonical.loseDrove {d} (h : canonical s) : canonical (s.loseDrove d) :=
  .ite h (.ite (.relaunch h) (.killGrid h))

theorem canonical.poisonSite {site} (h : canonical s) : canonical (s.poisonSite site) := h

theorem canonical.fenceSite {site} (h : canonical s) : canonical (s.fenceSite site) := by
  unfold State.fenceSite; exact .reap (.foldl (fun _ _ k => .loseDrove k) (.poisonSite (.upd h rfl rfl)))

theorem canonical.loseWait {t} (h : canonical s) : canonical (s.loseWait t) := by
  unfold State.loseWait
  split
  · exact .ite (.affect h) h
  · exact .ite (.affect h) h
  · exact .modRay h
  · exact .rejectGrid h

theorem canonical.fenceMem {n} (h : canonical s) : canonical (s.fenceMem n) := by
  unfold State.fenceMem; exact .reap (.foldl (fun _ _ k => .loseWait k) (.upd h rfl rfl))

theorem canonical.modLink {l f} (h : canonical s) : canonical (s.modLink l f) := h

theorem canonical.linkFails {l} (h : canonical s) : canonical (s.linkFails l) :=
  .ite (.fenceMem (.fenceMem (.fenceSite (.report (.modLink h))))) (.fenceMem (.report (.modLink h)))

theorem canonical.retrain {l} (h : canonical s) : canonical (s.retrain l) :=
  .ite (.linkFails h) (.report (.modLink h))

theorem Kept.execFlitReceive {link seq tag crc response} (h : canonical s) :
    Kept (execFlitReceive link seq tag crc response s) := .ite (.next h)
    (.ite (.next (.modLink h)) (.ite (.next (.ite (.retrain h) h)) (.ite (.next (.modLink h)) (.next (.retrain h)))))

theorem Kept.execLinkRetrainDone {link good} (h : canonical s) : Kept (execLinkRetrainDone link good s) :=
  .ite (.next h) (.ite (.next (.modLink h)) (.ite (.next (.modLink h)) (.next (.linkFails h))))

theorem Kept.execEccCorrected {unit loc syndrome} (h : canonical s) : Kept (execEccCorrected unit loc syndrome s) :=
  by
  unfold Machine.execEccCorrected; exact .ite (.next (.upd (.report h) rfl rfl)) (.next (.upd (.quarantine h) rfl rfl))

theorem canonical.lose {d r} (h : canonical s) : canonical (s.lose d r) := by
  unfold State.lose
  extract_lets
  split
  · exact .report h
  · exact .report (.upd h rfl rfl)
  · exact .report (.modCore (.upd h rfl rfl))
  · exact .ite (.affect (.modWg h)) (.report h)
  · exact .report (.modWg h)
  · exact .report (.modCtx (fun _ k => k) h)
  · exact .report (.modArray h)
  · exact .report (.modWave h)

theorem canonical.clearResident {d} (h : canonical s) : canonical (s.clearResident d) :=
  .ite (.preemptDrove h) (.killGrid h)

theorem canonical.evict {d} (h : canonical s) : canonical (s.evict d) :=
  .ite (.preemptDrove h) (.ite h (.ite (.relaunch h) (.killGrid h)))

theorem canonical.unquarantine {unit loc} (h : canonical s) : canonical (s.unquarantine unit loc) := h

theorem canonical.modQuarantine {unit loc f} (h : canonical s) : canonical (s.modQuarantine unit loc f) := h

theorem canonical.removeCore {unit loc} (h : canonical s) : canonical (s.removeCore unit loc) :=
  .ite (.reap (.unquarantine h)) h

theorem canonical.disableUnit {unit loc} (h : canonical s) : canonical (s.disableUnit unit loc) :=
  .ite (.removeCore (.foldl (fun _ _ k => .evict k) (.modQuarantine h)))
    (.ite (.reap (.unquarantine h)) (.unquarantine h))

theorem Kept.execSelftestStart {unit loc} (h : canonical s) : Kept (execSelftestStart unit loc s) := by
  unfold Machine.execSelftestStart
  split
  · exact .next h
  · exact .ite (.next (.removeCore h)) (.ite (.next h)
      (.next (.ite (.modQuarantine h) (.foldl (fun _ _ k => .clearResident k) h))))

theorem Kept.execSelftestResult {unit loc pass} (h : canonical s) : Kept (execSelftestResult unit loc pass s) := by
  unfold Machine.execSelftestResult
  split
  · exact .next h
  · exact .ite (.next (.report (.unquarantine h))) (.next (.report (.disableUnit h)))

/-! ### The fabric -/

theorem canonical.hostSends {m} (h : canonical s) : canonical (s.hostSends m) := by
  unfold State.hostSends; exact .ite (.hostRun h) (.upd h rfl rfl)

theorem Kept.execHostRdmaRead {pa n} (h : canonical s) : Kept (execHostRdmaRead pa n s) := by
  unfold Machine.execHostRdmaRead; exact .next (.upd h rfl rfl)

theorem Kept.execHostRdmaAtomic {pa op x y} (h : canonical s) : Kept (execHostRdmaAtomic pa op x y s) := by
  unfold Machine.execHostRdmaAtomic; exact .next (.ite (.hostSends h) (.upd h rfl rfl))

theorem Kept.execHostWriteAck {index} (h : canonical s) : Kept (execHostWriteAck index s) := by
  unfold Machine.execHostWriteAck; exact .next (.upd h rfl rfl)

theorem canonical.setDesc {n b} (h : canonical s) : canonical (s.setDesc n b) :=
  .ite h (.setStream (.foldl (fun _ _ k => .hubWrite k) h))

theorem canonical.readStreams (h : canonical s) : canonical s.readStreams :=
  .foldl (fun _ _ k => .readBlock (fun _ k' => .setDesc k') (fun _ k' => k') k) h

theorem Kept.execFabricBlockRead (h : canonical s) : Kept (execFabricBlockRead s) := by
  unfold Machine.execFabricBlockRead; exact .ite (.next h)
    (.next (.readBlock (fun _ k => .ite (.readStreams (.upd k rfl rfl)) (.upd k rfl rfl)) (fun _ k => .upd k rfl rfl) h))

theorem Kept.execPortmodeDrainDone (h : canonical s) : Kept (execPortmodeDrainDone s) := by
  unfold Machine.execPortmodeDrainDone
  extract_lets
  split
  · exact .next h
  · exact .next (.upd h rfl rfl)

theorem canonical.failReqs {ids} (h : canonical s) : canonical (s.failReqs ids) := h

theorem Kept.execHirselAck {id bytes} (h : canonical s) : Kept (execHirselAck id bytes s) := by
  unfold Machine.execHirselAck
  split
  · exact .next h
  · exact .next (.modCopy (.upd h rfl rfl))

theorem Kept.execHirselRetransmit {id} (h : canonical s) : Kept (execHirselRetransmit id s) := by
  unfold Machine.execHirselRetransmit
  split
  · exact .next h
  · split
    · exact .next (.upd h rfl rfl)
    · exact .next (.failReqs h)

theorem Kept.execFabricTimeout {id} (h : canonical s) : Kept (execFabricTimeout id s) := by
  unfold Machine.execFabricTimeout
  split
  · exact .next h
  · exact .next (.ite (.failReqs h) h)

theorem Kept.execPortDown {port} (h : canonical s) : Kept (execPortDown port s) := by
  unfold Machine.execPortDown; exact .next (.failReqs (.upd h rfl rfl))

theorem Kept.execPortUp {port} (h : canonical s) : Kept (execPortUp port s) := by
  unfold Machine.execPortUp; exact .next (.ite (.upd h rfl rfl) h)

theorem canonical.remoteDo {ctx kind va bytes pas} (h : canonical s) : canonical (s.remoteDo ctx kind va bytes pas) :=
  .ite (.hubSeen h) (.hubWrite h)

theorem Kept.execHirselMessageReceive {peer seq from_ brand kind va bytes} (h : canonical s) :
    Kept (execHirselMessageReceive peer seq from_ brand kind va bytes s) := by
  unfold Machine.execHirselMessageReceive
  split
  · exact .next h
  · split
    · exact .next h
    · split
      · exact .next (.askPage h)
      · exact .next h
      · exact .next (.stopped h)
      · exact .next (.upd (.remoteDo (.hubSeen h)) rfl rfl)

theorem canonical.tstat (h : canonical s) : canonical s.tstat := .performBytes h

theorem Kept.execPtpMessage {offset} (h : canonical s) : Kept (execPtpMessage offset s) := by
  unfold Machine.execPtpMessage
  split
  · exact .next h
  · refine .next ?_
    refine .tstat ?_
    split
    · dsimp only [canonical, State.memOk]
      exact canonical.upd h rfl rfl
    · exact .upd h rfl rfl

theorem Kept.execAnnounceTimeout (h : canonical s) : Kept (execAnnounceTimeout s) := by
  unfold Machine.execAnnounceTimeout; exact .next (.tstat (.upd h rfl rfl))

/-! ### Power and firmware -/

theorem canonical.modSite {i f} (h : canonical s) : canonical (s.modSite i f) := h

theorem Kept.execPowerLimitStretch {_site} (h : canonical s) : Kept (execPowerLimitStretch _site s) := by
  unfold Machine.execPowerLimitStretch; exact .next (.upd h rfl rfl)

theorem canonical.rationSite {site g} (h : canonical s) : canonical (s.rationSite site g) :=
  .foldl (fun _ _ k => .modQuarter k) h

theorem canonical.showState (h : canonical s) : canonical s.showState := .performBytes h

theorem canonical.showPower (h : canonical s) : canonical s.showPower := .performBytes h

theorem Kept.execThermalTrip {site} (h : canonical s) : Kept (execThermalTrip site s) := by
  unfold Machine.execThermalTrip
  extract_lets s1
  have h1 : canonical s1 := .rationSite (.modSite h)
  clear_value s1
  exact .next (.report (.showState (.upd h1 rfl rfl)))

theorem Kept.execThermalTripEnd {site} (h : canonical s) : Kept (execThermalTripEnd site s) := by
  unfold Machine.execThermalTripEnd
  refine .ite (.next h) ?_
  extract_lets s1 s2
  have h1 : canonical s1 := .rationSite (.modSite h)
  clear_value s1
  exact .next (.report (.showState (.ite h1 (.upd h1 rfl rfl))))

theorem Kept.execPowerBlockRead (h : canonical s) : Kept (execPowerBlockRead s) := by
  unfold Machine.execPowerBlockRead; exact .ite (.next h)
    (.next (.readBlock (fun _ k => .upd k rfl rfl) (fun _ k => .upd k rfl rfl) h))

theorem Kept.execBudgetMessage {member demand freq} (h : canonical s) :
    Kept (execBudgetMessage member demand freq s) := by
  unfold Machine.execBudgetMessage; exact .ite (.next (.upd h rfl rfl)) (.next h)

theorem Kept.execBudgetEpoch (h : canonical s) : Kept (execBudgetEpoch s) := by
  unfold Machine.execBudgetEpoch
  exact .ite (.next h) (.ite (.next (.upd h rfl rfl)) (.next (.showPower (.upd h rfl rfl))))

theorem Kept.execFirmwareFreeze (h : canonical s) : Kept (execFirmwareFreeze s) := by
  unfold Machine.execFirmwareFreeze; exact .ite (.next h) (.next (.showState (.upd h rfl rfl)))

theorem Kept.execWatchdogFloor (h : canonical s) : Kept (execWatchdogFloor s) := by
  unfold Machine.execWatchdogFloor; exact .ite (.next h) (.next (.report (.showState (.upd h rfl rfl))))

theorem Kept.execFirmwareSignal {slot} (h : canonical s) : Kept (execFirmwareSignal slot s) := by
  unfold Machine.execFirmwareSignal; exact .next (.ite (.upd h rfl rfl) h)

theorem Kept.execFirmwareSlotTakeover (h : canonical s) : Kept (execFirmwareSlotTakeover s) := by
  unfold Machine.execFirmwareSlotTakeover
  split
  · exact .next h
  · exact .next (.ite h (.showState (.upd h rfl rfl)))

theorem Kept.execFirmwareVerify {slot version image} (h : canonical s) :
    Kept (execFirmwareVerify slot version image s) := by
  unfold Machine.execFirmwareVerify
  exact .ite (.next h) (.ite (.next (.upd h rfl rfl)) (.ite (.next h) (.next (.upd h rfl rfl))))

theorem Kept.execFunctionReady {fn} (h : canonical s) : Kept (execFunctionReady fn s) := by
  unfold Machine.execFunctionReady
  split
  · exact .next h
  · extract_lets
    split
    · refine .next ?_
      refine .publishHarvest ?_
      dsimp only [canonical, State.memOk]
      exact canonical.upd h rfl rfl
    · split
      · refine .next ?_
        dsimp only [canonical, State.memOk]
        exact canonical.upd h rfl rfl
      · exact .ite (.next (.readStreams (.upd h rfl rfl))) (.next (.upd h rfl rfl))

/-! ### The agenda -/

theorem KeptWork.work {due} (h : canonical s) : KeptWork (s.work due) := by
  unfold State.work
  split
  · exact .issueTurn h
  · split
    · exact .issueTurn h
    · exact .ite (.event h) .stop
    · exact .idle h
    · exact .idle (.sense h)
    · split
      · exact .event h
      · exact .issueTurn h

/-! ### Floating -/

theorem Kept.fbin {i k n d a b f} (h : canonical s) : Kept (fbin i k n d a b f s) :=
  .floating (fun _ _ k => .push (.ite k (.putD k))) h

theorem Kept.fter {i k n d a b f} (h : canonical s) : Kept (fter i k n d a b f s) :=
  .floating (fun _ _ k => .push (.ite k (.putD k))) h

theorem Kept.fun1 {i k n d a f} (h : canonical s) : Kept (fun1 i k n d a f s) :=
  .floating (fun _ _ k => .push (.ite k (.putD k))) h

theorem Kept.fint {i n d f} (h : canonical s) : Kept (fint i n d f s) :=
  .flagged (fun _ k => .push (.ite k (.putD k))) h

theorem Kept.fcmpm {i d c a b} (h : canonical s) : Kept (fcmpm i d c a b s) := .flagged (fun _ k => .putM k) h

theorem Kept.execFdiv {d a b} (h : canonical s) : Kept (execFdiv d a b s) := by
  unfold Machine.execFdiv
  split
  · exact .next (.raise h)
  · extract_lets
    split
    · split
      · exact .next (.raise (.shadowRecord h))
      · split
        · exact .next (.raise h)
        · split
          · exact .next (.adv (.modCur (.owe (.spend h))))
          · exact .next (.adv (.raiseFlags (.spend h)))
    · split
      · exact .next (.adv (.owe (.spend h)))
      · exact .next (.adv (.ite (.raiseFlags (.spend h)) (.shadowRecord h)))

theorem Kept.execFdivResult {key id} (h : canonical s) : Kept (execFdivResult key id s) := by
  unfold Machine.execFdivResult
  split
  · exact .next (.ite (.ite (.modWave h) (.shadowFound (.modWave h))) h)
  · exact .next h

theorem Kept.packByte {i k F n d a b} (h : canonical s) : Kept (packByte i k F n d a b s) := by
  unfold Machine.packByte
  split
  · exact .next (.raise h)
  · extract_lets
    split
    · exact .next (.raise (.shadowRecord h))
    · exact .next (.adv (.raiseFlags (.push (.ite (.spend h) (.putD (.spend h))))))

/-! ### Uniform -/

theorem Kept.uni32 {i d f} (h : canonical s) : Kept (uni32 i d f s) := .plain (fun _ k => .adv (.putU k)) h

theorem Kept.uniBin {i d a b f} (h : canonical s) : Kept (uniBin i d a b f s) := .uni32 h

theorem Kept.uniTer {i d a b f} (h : canonical s) : Kept (uniTer i d a b f s) := .uni32 h

theorem Kept.uniFp {i d f} (h : canonical s) : Kept (uniFp i d f s) := .floatingIn (fun _ _ k => .putU k) h

theorem Kept.execSwrlane {d a b} (h : canonical s) : Kept (execSwrlane d a b s) := by
  unfold Machine.execSwrlane
  refine .plain (fun _ k => ?_) h
  refine .adv ?_
  split
  · exact .putV k
  · exact k

/-! ### The step -/

theorem Kept.afterIssue {b r} (h : Kept r) : Kept (afterIssue b r) := by
  cases h with
  | next h => exact .next (.settle h)
  | fault => exact .fault
  | refused => exact .refused

theorem Kept.ended {r} (h : Kept r) : Kept (Machine.ended r) := by
  cases h with
  | next h => exact .next (canonical.noteKills (.tidySpill h))
  | fault => exact .fault
  | refused => exact .refused

/-- Every instruction and every event keeps the state canonical. -/
theorem Kept.exec {i} (h : canonical s) : Kept (exec i s) := by
  unfold Machine.exec
  cases i with
  | bra | brin | brout | bany | ball | bsz | bsnz => exact .plain (fun _ k => .branch k) h
  | call | calli => exact .checked (fun _ k => .callStack k) h
  | jmpi | ret => exact .checked (fun _ k => .modCur k) h
  | join => exact .plain (fun _ k => .arriveAt k) h
  | leave => exact .execLeave h
  | waitm => exact .plain (fun _ k => .stillHere (fun _ k' => .arriveAt k') (.padAll k)) h
  | yield => exact .plain (fun _ k => .adv (.yieldTurn k)) h
  | nop => exact .plain (fun _ k => .adv k) h
  | trap | brk => exact .checked (fun _ k => k) h
  | exit => exact .plain (fun _ k => .gbarCheck (.modCur k)) h
  | win | winadd => exact .setWindow h
  | rdcr => exact .checked (fun _ k => .ite (.retry k) (.adv (.putS k))) h
  | rdcrD => exact .checked (fun _ k => .adv (.putS (.putS k))) h
  | wrcr => exact .execWrcr h
  | rte => exact .execRte h
  | rdst => exact .execRdst h
  | wrst => exact .checked (fun _ k => .adv (.writeItem k)) h
  | launch => exact .checked (fun _ k => .releasing (fun _ k' => .hold (.adv (.owe k'))) (.endReplay k)) h
  | gbar => exact .execGbar h
  | sleept | sleeptAbs => exact .plain (fun _ k => .sleepUntil k) h
  | wake | setmodeFpmode | setmodeOobflags | setmodeDegencount => exact .plain (fun _ k => .adv (.modCur k)) h
  | setmodeFpflags => exact .plain (fun _ k => .ite (.retry k) (.adv (.modCur k))) h
  | add | sub | mul | mulhi | mulhiu | min | max | minu | maxu | absd | and | or | xor | andn | shl | srl | sra | rot
  | bfe | bfeu | addsat | subsat | icmpEq | icmpNe | icmpLt | icmpLe | icmpLtu | icmpLeu => exact .binary h
  | mad | csel | bfi | bmix => exact .ternary h
  | madw | shl64 | srl64 | sra64 => exact .alu64 h
  | add64 | sub64 | mul64 | min64 | max64 | minu64 | maxu64 => exact .binary64 h
  | popc | clz | brev | addi | andi | ori | xori | shli | srli | srai | muli | fclass => exact .alu32 h
  | divs | divu | rems | remu => exact .divide h
  | icmpmEq | icmpmNe | icmpmLt | icmpmLe | icmpmLtu | icmpmLeu => exact .icmpm h
  | fadd | fsub | fmul | fmin | fmax | hadd2 | hmul2 | hmin2 | hmax2 | badd2 | bmul2 | fcopysign | fldexp | packh
  | packb | unpk8E4 | unpk8E5 => exact .fbin h
  | ffma | ffms | fnma | hfma2 | bfma2 | fdot2h | fdot4q8 => exact .fter h
  | fcmpEq | fcmpNe | fcmpLt | fcmpLe | fcmpUn | fcmpOd | cvtS32F32 | cvtU32F32 => exact .fint h
  | fcmpmEq | fcmpmNe | fcmpmLt | fcmpmLe | fcmpmUn | fcmpmOd => exact .fcmpm h
  | fdiv => exact .execFdiv h
  | frcp | frsq | fsqrt | fexp2 | flog2 | fsinp | fcosp | ffloor | fceil | ftrunc | frint | ffract | cvtF32S32
  | cvtF32U32 | cvtF32HLo | cvtF32HHi | cvtF32BLo | cvtF32BHi => exact .fun1 h
  | pk8E4 | pk8E5 => exact .packByte h
  | shfl | shflup | shfldn | shflx => exact .shuffle h
  | ballot | mpop | mtos => exact .setForm h
  | vany | vall | matchEq | elect | mtov | prefixadd => exact .gather h
  | elects => exact .plain (fun _ k => .modCur (.result32 k)) h
  | redadd | redmin | redmax | redand | redor | redxor => exact .reduction h
  | mand | mor | mxor | mandn | mact | mclr | mfromv | mfroms => exact .maskForm h
  | sadd | ssub | smul | sand | sor | sxor | sshl | sshr | ssra | smin | smax | sminu | smaxu | scmpEq | scmpNe
  | scmpLt | scmpLe | scmpLtu | scmpLeu | sdivu | sremu => exact .uniBin h
  | smad | ssel => exact .uniTer h
  | sadd64 => exact .plain (fun _ k => .adv (.putU64 k)) h
  | sbcast => exact .plain (fun _ k => .adv (.putD k)) h
  | srdlane => exact .uni32 h
  | swrlane => exact .execSwrlane h
  | sfadd | sfmul | sffma | scvtf => exact .uniFp h
  | scvti => exact .flagged (fun _ k => .putU k) h
  | ld | ldro | ldacq => exact .recForm (fun _ k => .recordLoad k) h
  | st => exact .recForm (fun _ k => .recordStore (fun _ k' => .adv k') k) h
  | ldf => exact .checked (fun _ k => .formatLoad k) h
  | pref => exact .recForm (fun _ k => .askLines k) h
  | ldl => exact .checked (fun _ k => .adv (.owed k)) h
  | stl => exact .checked (fun _ k => .adv (.foldl (fun _ _ k' => .modCur k') k)) h
  | ldu => exact .recForm (fun _ k => .reading (fun _ _ k' => .adv (.owedU k')) k) h
  | recset => exact .plain (fun _ k => .adv (.putQ k)) h
  | recget => exact .plain (fun _ k => .adv (.foldl (fun _ _ k' => .putS k') k)) h
  | recld => exact .checked (fun _ k => .reading (fun _ _ k' => .adv (.owe k')) k) h
  | sample => exact .checked (fun _ k => .sample k) h
  | cacheWb | cacheInv => exact .recForm (fun _ k => .cacheLines k) h
  | ldp => exact .checked (fun _ k => .ite (.consume k) (.adv (.modCur (.putWords (.claimWindow k))))) h
  | stp => exact .execStp h
  | ldpd => exact .checked (fun _ k => .adv (.padQueue (.owed k))) h
  | stpd => exact .checked (fun _ k => .adv (.ite (.modDrove (.padQueue k)) (.padQueue k))) h
  | ldc => exact .checked (fun _ k => .ite (.consume k) (.adv (.owed k))) h
  | stc => exact .checked (fun _ k => .adv (.modDrove (.modCtx (fun _ hc => Laws.wf_setCells hc _) k))) h
  | atomp => exact .execAtomp h
  | atom => exact .recForm (fun _ k => .atomic (fun _ _ _ k' => .adv (.owe k')) k) h
  | red => exact .recForm (fun _ k => .atomic (fun _ _ _ k' => .adv (.sideLogAdd k')) k) h
  | fenceAcq => exact .plain (fun _ k => .stillHere (fun _ k' => .adv k') (.ite k (.padAll k))) h
  | fenceRel | fenceAr | fenceSc => exact .plain (fun _ k => .releasing (fun _ k' => .adv k') k) h
  | fencero => exact .plain (fun _ k => .stillHere (fun _ k' => .adv (.dropPathOf k')) (.ite (.padAll k) k)) h
  | waitu => exact .execWaitu h
  | strel => exact .execStrel h
  | kick => exact .execKick h
  | advance => exact .execAdvance h
  | finit | fexpect => exact .checked (fun _ k => .adv (.modFold k)) h
  | farrive => exact .checked (fun _ k => .stillHere (fun _ k' => .adv (.putU (.modFold k'))) (.release k)) h
  | farriveRank => exact .execFarriveRank h
  | fwait => exact .checked (fun _ k => .ite (.adv (.putU k)) (.adv (.modCur k))) h
  | ftest => exact .checked (fun _ k => .adv (.putU k)) h
  | waitc => exact .plain (fun _ k => .ite (.adv k) (.adv (.modCur k))) h
  | rdcnt => exact .plain (fun _ k => .adv (.putU k)) h
  | copy => exact .checked (fun _ k => .kickOff (fun _ k' => k') k) h
  | mshape => exact .checked (fun _ k => .whenEmpty (fun _ k' => .adv (.modArray k')) k) h
  | mlds | mscale | mswap | mma | mzero | mst | mld | mstPlane | mldPlane => exact .checked (fun _ k => .enqueue k) h
  | mldsg | mmag => exact .globalOp h
  | mstat => exact .execMstat h
  | mrel => exact .checked (fun _ k => .whenEmpty (fun _ k' => .adv (.modWg (.endLease k'))) k) h
  | nev => exact .execNev h
  | netldFetch => exact .execNetldFetch h
  | netldDrop => exact .plain (fun _ k => .netld (fun _ _ k' => .modCore k') k) h
  | emitc => exact .execEmitc h
  | raster => exact .execRaster h
  | present => exact .execPresent h
  | trace | traceocc => exact .checked (fun _ k => .traceAll k) h
  | build | refit => exact .checked (fun _ k => .submitBuild k) h
  | cairnw => exact .checked (fun _ k => .cairnWait k) h
  | genpin | gendrop => exact .checked (fun _ k => .pinStep k) h
  | refill => exact .execRefill h
  | pixpush => exact .execPixpush h
  | nodedec => exact .plain (fun _ k => .adv (.putWords k)) h
  | morton => exact .checked (fun _ k => .adv (.putV k)) h
  | pathStarvation => exact .execPathStarvation h
  | readyWaveStarvation => exact .ite (.next (.modQuarter h)) (.next h)
  | laneBurstCount => exact .ite (.next (.modWave h)) (.next h)
  | loadReturn => exact .next (.arrival h)
  | divideResult => exact .execDivideResult h
  | fdivResult => exact .execFdivResult h
  | launchStatus => exact .execLaunchStatus h
  | committedStorePerform => exact .next (.gbarChecks (.performSpread h))
  | paddockAccessPerform => exact .execPaddockAccessPerform h
  | sideLogReplay => exact .execSideLogReplay h
  | tetherArm => exact .execTetherArm h
  | tetherWake => exact .execTetherWake h
  | tetherTimeout => exact .execTetherTimeout h
  | tetherArmRetry => exact .execTetherArmRetry h
  | sleeptDeadline => exact .execSleeptDeadline h
  | copyRowComplete => exact .execCopyRowComplete h
  | copyRequestFail => exact .execCopyRequestFail h
  | remoteArrivalApply => exact .execRemoteArrivalApply h
  | fwaitWake => exact .execFwaitWake h
  | arrayFillComplete => exact .execArrayFillComplete h
  | mmaRowComplete => exact .execMmaRowComplete h
  | arrayOpComplete => exact .execArrayOpComplete h
  | arraySerialOpStart => exact .execArraySerialOpStart h
  | bandWake => exact .execBandWake h
  | bandIdleOff => exact .next (.ite (.modArray h) h)
  | flockTileClose => exact .execFlockTileClose h
  | flockTileComplete => exact .execFlockTileComplete h
  | nevHandleComplete => exact .execNevHandleComplete h
  | cairnPark => exact .execCairnPark h
  | cairnResume => exact .next (.resumeRay h)
  | cairnTimeout => exact .execCairnTimeout h
  | rayEnd => exact .execRayEnd h
  | buildStart => exact .execBuildStart h
  | buildSlotTake => exact .execBuildSlotTake h
  | cairnRaise => exact .execCairnRaise h
  | treeLink => exact .execTreeLink h
  | buildFail => exact .execBuildFail h
  | compactorReclaim => exact .execCompactorReclaim h
  | compactorFree => exact .execCompactorFree h
  | rasterStart => exact .execRasterStart h
  | rasterSmallqResume => exact .execRasterSmallqResume h
  | rasterTileFlush => exact .execRasterTileFlush h
  | rasterTileFinish => exact .execRasterTileFinish h
  | rasterDone => exact .execRasterDone h
  | presentImageRead => exact .execPresentImageRead h
  | collieDecision => exact .execCollieDecision h
  | streamSlotSend => exact .execStreamSlotSend h
  | hostQueueTake => exact .execHostQueueTake h
  | childLaunchTake => exact .execChildLaunchTake h
  | waitEventMet => exact .execWaitEventMet h
  | drovePlace => exact .execDrovePlace h
  | penClaimComplete => exact .execPenClaimComplete h
  | claimTimeout => exact .execClaimTimeout h
  | backfillStop => exact .execBackfillStop h
  | timedStart => exact .next (.ite (.startDrove h) h)
  | timesliceExpire => exact .execTimesliceExpire h
  | debugPreempt => exact .ite (.next h) (.ite (.next (.preemptDrove h)) (.next (.killGrid h)))
  | thermalMigrate => exact .execThermalMigrate h
  | trapEntry => exact .execTrapEntry h
  | savedTetherWake => exact .execSavedTetherWake h
  | savedWaveDeadline => exact .ite (.next (.modDrove h)) (.next h)
  | droveRestore => exact .execDroveRestore h
  | waveEnd => exact .execWaveEnd h
  | gridRetire => exact .execGridRetire h
  | contextEnable => exact .execContextEnable h
  | contextKill => exact .execContextKill h
  | schedulerBlockRead => exact .execSchedulerBlockRead h
  | policyBlockRead => exact .execPolicyBlockRead h
  | powerBlockRead => exact .execPowerBlockRead h
  | fabricBlockRead => exact .execFabricBlockRead h
  | pagerTableRead => exact .execPagerTableRead h
  | inval => exact .command (fun _ _ _ k => .startCommand k) h
  | invalComplete => exact .execInvalComplete h
  | migrate => exact .execMigrate h
  | dup => exact .execDup h
  | undup => exact .execUndup h
  | hotcfg => exact .execHotcfg h
  | frames => exact .execFrames h
  | brand => exact .execBrand h
  | attest => exact .execAttest h
  | upcall => exact .execUpcall h
  | pagerWaitTimeout => exact .execPagerWaitTimeout h
  | pagerMap => exact .execPagerMap h
  | pagerRefuse => exact .execPagerRefuse h
  | hotIntervalEnd => exact .execHotIntervalEnd h
  | dupCollapseAck => exact .execDupCollapseAck h
  | hostRdmaWrite => exact .next (.ite (.hostSends h) h)
  | hostRdmaRead => exact .execHostRdmaRead h
  | hostRdmaAtomic => exact .execHostRdmaAtomic h
  | flitReceive => exact .execFlitReceive h
  | linkRetrainDone => exact .execLinkRetrainDone h
  | eccCorrected => exact .execEccCorrected h
  | uncorrectableError => exact .next (.lose (.quarantine h))
  | selftestStart => exact .execSelftestStart h
  | selftestResult => exact .execSelftestResult h
  | hirselMessageReceive => exact .execHirselMessageReceive h
  | hirselAck => exact .execHirselAck h
  | hirselRetransmit => exact .execHirselRetransmit h
  | fabricTimeout => exact .execFabricTimeout h
  | ptpMessage => exact .execPtpMessage h
  | announceTimeout => exact .execAnnounceTimeout h
  | budgetMessage => exact .execBudgetMessage h
  | budgetEpoch => exact .execBudgetEpoch h
  | powerLimitStretch => exact .execPowerLimitStretch h
  | currentLimitStretch | droopStretch | clockStretchEnd => exact .next (.modSite h)
  | thermalTrip => exact .execThermalTrip h
  | thermalTripEnd => exact .execThermalTripEnd h
  | firmwareFreeze => exact .execFirmwareFreeze h
  | watchdogFloor => exact .execWatchdogFloor h
  | firmwareSignal => exact .execFirmwareSignal h
  | firmwareSlotTakeover => exact .execFirmwareSlotTakeover h
  | firmwareVerify => exact .execFirmwareVerify h
  | functionReady => exact .execFunctionReady h
  | hostWriteAck => exact .execHostWriteAck h
  | portDown => exact .execPortDown h
  | portUp => exact .execPortUp h
  | portmodeDrainDone => exact .execPortmodeDrainDone h
  | bandWakeRateWaitEnd => exact .next (.ite (.startWake h) h)

/-- Every step keeps the state canonical. -/
theorem Kept.step (h : canonical s) : Kept (step s) := by
  have hw : KeptWork (s.work (if s.agenda.isEmpty then s.dueEvent else none)) := .work h
  unfold Machine.step
  generalize s.work (if s.agenda.isEmpty then s.dueEvent else none) = w at hw
  cases hw with
  | idle k => exact .next k
  | stop => exact .fault
  | event k => exact .ended (.exec k)
  | issue k => exact .ended (.afterIssue (.exec k))

/-- Settles O59: each instruction and each event keeps the form (`Kept.exec`), and so does what a step does before and
after one (`Kept.step`). -/
theorem memoryStaysCanonical : Obligations.MemoryStaysCanonical :=
  ⟨fun _ _ _ h e => (Kept.exec h).state e, fun _ _ h e => (Kept.step h).state e⟩

end Sys2Proof.Claims
end
section
/-! # The host's compare-and-swap

`Obligations.HostAndErrors` has every atomic of the host leave what a write of its 8 bytes leaves. A write at a home also
drops the older copies of its line that cores still have (R85, R102). A CAS64 that finds another value than it compares with
writes nothing in the model (Table 9.7), so these copies stay, and the clause fails. -/

namespace Sys2Proof.Claims

open Sys2Proof Sys2Proof.Machine

/-- A compare-and-swap of the host that finds another value brings the old one, and changes nothing else. -/
theorem hostAtomic_cas64_of_ne {s : State} {pa : Nat} {x y : Dword} (h : s.mem.nat pa 8 ≠ x.toNat) :
    s.hostAtomic pa .cas64 x y = { s with hostRead := bytesOfNat 8 (s.mem.nat pa 8) } := by
  simp only [State.hostAtomic, aopNew, if_neg h]

/-- A message of the host that nothing stands before and no duplicated page holds back is run at once. -/
theorem hostSends_atomic_of_idle {s : State} {pa : Nat} {op : Aop} {x y : Dword} (hi : s.inbound = [])
    (hb : s.hostBusy = false) (hd : s.dupOf pa = none) :
    s.hostSends (.atomic pa op x y) = { s.hostAtomic pa op x y with inbound := [] } := by
  simp [State.hostSends, State.hostRun, hi, hb, hd]

/-- Everything up, port.0 too; core 1 still has an older copy of the line at 0x400000, whose bytes read 0. -/
def staleLine : State :=
  { State.reset with
    boot := { Boot.init with ready := 0xFFFFFFFF#32 }
    portsUp := 1
    old := [⟨1, 0x8000, 0, []⟩] }

theorem staleLine_hostReaches : HostReaches staleLine 0x400000 8 where
  port := by decide +kernel
  some_ := by decide
  die := by decide +kernel
  there := by decide +kernel

/-- A CAS64 there that compares with 1 leaves the older copy. -/
theorem exec_cas64_staleLine : ∃ t, exec (.hostRdmaAtomic 0x400000 .cas64 1#64 2#64) staleLine = .next t ∧
    t.old = staleLine.old := by
  have hr : staleLine.hostReaches 0x400000 8 = true := by decide +kernel
  have hne : staleLine.mem.nat 0x400000 8 ≠ (1#64).toNat := by decide +kernel
  refine ⟨_, rfl, ?_⟩
  rw [hr, hostSends_atomic_of_idle rfl rfl rfl, hostAtomic_cas64_of_ne hne]
  rfl

/-- Bytes written to a line leave no older copy of it. -/
theorem perform_old_of_cell {s : State} {cells : List (Nat × Byte)} {c : Nat × Byte} (hc : c ∈ cells)
    (ho : ∀ o ∈ s.old, o.line = lineOf c.1) : (s.perform cells).old = [] := by
  refine List.filter_eq_nil_iff.2 fun o h => ?_
  have hit : cells.any (fun x => decide (lineOf x.1 = o.line)) = true :=
    List.any_eq_true.2 ⟨c, hc, decide_eq_true (ho o h).symm⟩
  simp [hit]

/-- Refutes O52: for a CAS64 of the host that finds another value, the atomic's clause has the line written and its older
copies dropped, where the model leaves them. -/
theorem not_hostAndErrors : ¬ Obligations.HostAndErrors := by
  unfold Obligations.HostAndErrors
  rintro ⟨-, -, -, hatomic, -⟩
  obtain ⟨-, -, -, hrun⟩ := hatomic staleLine 0x400000 .cas64 1#64 2#64
  have he := (hrun ⟨staleLine_hostReaches, by decide, by decide⟩ rfl (fun d h => absurd h List.not_mem_nil)).1 rfl
  obtain ⟨t, ht, hold⟩ := exec_cas64_staleLine
  have hcell : ((0x400000, 0#8) : Nat × Byte) ∈ heededCells staleLine (numberCells 0x400000 8
      (atomNew .cas64 (numberAt staleLine 0x400000 8) (1#64).toNat (2#64).toNat)) := by decide +kernel
  have hgone := perform_old_of_cell (s := staleLine) hcell (by decide)
  have hkept : t.old = [] := by
    rw [ht] at he
    injection he with he
    rw [he]
    exact hgone
  rw [hold] at hkept
  exact absurd hkept (by decide)

end Sys2Proof.Claims
end
section
/-! # The state after reset -/

namespace Sys2Proof.Claims

open Sys2Proof Sys2Proof.Machine

/-- The state after reset is canonical: memory and the contexts' windows list nothing. -/
theorem canonical_reset : canonical State.reset := ⟨rfl, fun _ h => absurd h List.not_mem_nil⟩

/-- Settles O60: each part is the value the reset state gives. -/
theorem resetState : Obligations.ResetState := by
  unfold Obligations.ResetState
  simp only [canonical_reset, true_and]
  decide

end Sys2Proof.Claims
end
section
/-! # Sleeping and waking -/

namespace Sys2Proof.Claims

open Sys2Proof Sys2Proof.Machine

/-- What the model does with the turn of a yielding wave is what R26 and R148 say. -/
theorem yieldTurn_eq (s : State) : s.yieldTurn = yielding s := by
  unfold State.yieldTurn yielding
  split
  next h => exact (if_neg (not_not_intro h)).symm
  next h => exact (if_pos h).symm

/-- A yield keeps the issue. -/
theorem yielding_iss (s : State) : (yielding s).iss = s.iss := by
  unfold yielding
  dsimp only
  split <;> rfl

/-- What follows a yield: the turn is given, and the active lanes continue. -/
theorem only_yieldTurn_adv (s : State) : Only (yielding s) s.yieldTurn.adv (fun w => w.advanced s sameLane) := by
  rw [yieldTurn_eq]
  refine (only_adv _).congr fun w => ?_
  unfold Wave.advanced State.active
  rw [yielding_iss]
  rfl

/-- A sleep whose deadline is to come blocks the wave; its active lanes stand past the instruction. -/
theorem only_sleepUntil {s : State} {d : Nat} (h : s.time.toNat < d) :
    Only s (s.sleepUntil d) (fun w => { w.advanced s sameLane with wait := .sleept d }) := by
  rw [State.sleepUntil, if_neg (Nat.not_le.2 h : ¬ d ≤ s.now)]
  exact (Only.modCur s _).advAfter

/-- A sleep whose deadline has passed is a yield. -/
theorem sleepUntil_of_le {s : State} {d : Nat} (h : d ≤ s.time.toNat) : s.sleepUntil d = s.yieldTurn.adv := if_pos h

/-- The sleepers of some lanes wake as R27 says. -/
theorem releaseSleepers_eq (w : Wave) (bells : Mask) (f : Lane → Lane) : w.releaseSleepers bells f = wokenWave bells f w := by
  unfold Wave.releaseSleepers wokenWave
  congr 2
  funext x
  cases x.state <;> rfl

/-- An instruction whose effect is a sleep sleeps or yields, as the deadline says. -/
theorem sleeps_of_exec {i : Instr} {s : State} {d : Nat} (h : exec i s = .next (s.sleepUntil d)) :
    (s.time.toNat < d → ∃ t, exec i s = .next t ∧ Only s t (fun w => { w.advanced s sameLane with wait := .sleept d })) ∧
    (d ≤ s.time.toNat → ∃ t, exec i s = .next t ∧ Only (yielding s) t (fun w => w.advanced s sameLane)) :=
  ⟨fun hd => ⟨_, h, only_sleepUntil hd⟩, fun hd => ⟨_, h, sleepUntil_of_le hd ▸ only_yieldTurn_adv s⟩⟩

/-- SLEEPT_DEADLINE of a wave that sleeps. -/
theorem execSleeptDeadline_of_sleept {s : State} {key d : Nat} (h : (s.wave key).wait = .sleept d) :
    execSleeptDeadline key s = .next (if d ≤ s.now then s.modWave key (fun w => { w with wait := .none }) else s) := by
  unfold execSleeptDeadline
  rw [h]

/-- WAKE readies the sleepers of the active lanes, and these continue. -/
theorem only_wake (s : State) :
    Only s (s.modCur (fun w => w.releaseSleepers s.active (fun x => { x.dropLatches with burst := 0, pc := s.iss.next }))).adv
      (fun w => (wokenWave s.active (fun x => { x with
        latches := List.replicate 4 Latch.blank, burst := 0, pc := s.iss.next }) w).advanced s sameLane) :=
  (Only.modCur s _).advAfter.congr fun w => by rw [releaseSleepers_eq]; rfl

/-- Settles O18: each of the four is what its effect does to the issuing wave, once it passes the checks. -/
theorem sleepAndWake : Obligations.SleepAndWake := by
  unfold Obligations.SleepAndWake
  exact ⟨fun s h => ⟨_, h.plain (fun s => s.yieldTurn.adv), only_yieldTurn_adv s⟩,
    fun a s h => sleeps_of_exec (h.plain (fun s => s.sleepUntil (s.now + (s.src.u32 a).toNat))),
    fun a s h => sleeps_of_exec (h.plain (fun s => s.sleepUntil (s.src.u64 a).toNat)),
    fun s key d h => execSleeptDeadline_of_sleept h,
    fun s h => ⟨_, h.plain (fun s => (s.modCur (fun w => w.releaseSleepers s.active
      (fun x => { x.dropLatches with burst := 0, pc := s.iss.next }))).adv), only_wake s⟩⟩

end Sys2Proof.Claims
end
section
/-! # A step issues what it has decoded -/

namespace Sys2Proof.Claims

open Sys2Proof Sys2Proof.Machine

/-- What the model does at a step's end is what R345 and R333 say. -/
theorem ended_eq (r : Out) : Machine.ended r = eventEnd r := by cases r <;> rfl

/-- After an issue the clk goes on, and the step ends. -/
theorem ended_afterIssue (b : Option Issue) (r : Out) : Machine.ended (afterIssue b r) = stepEnd b r := by cases r <;> rfl

theorem orLeaf_iss (s : State) (pa bits : Nat) : (s.orLeaf pa bits).iss = s.iss := by
  unfold State.orLeaf
  dsimp only
  split <;> rfl

/-- Translations recorded in the page tables keep the issue. -/
theorem touchAll_iss (s : State) (core : Nat) (write : Bool) (ts : List Trans) : (s.touchAll core write ts).iss = s.iss := by
  unfold State.touchAll
  induction ts generalizing s with
  | nil => rfl
  | cons t ts ih =>
    rw [List.foldl_cons, ih]
    cases t with
    | ok pa leaf x => exact orLeaf_iss ..
    | absent | denied | malformed => rfl

/-- As an issue begins it is the group's, and it goes on just past the instruction's words. -/
theorem begin_iss (s : State) (b : Issue) (core : Nat) (ps : List Trans) (i : Instr) (n : Nat) :
    let t := ((s.aim b).touchAll core false ps).begin i n
    t.iss.key = b.key ∧ t.iss.pc = b.pc ∧ t.iss.lanes = b.lanes ∧ t.iss.next = b.pc + BitVec.ofNat 48 (4 * n) := by
  have h : ((s.aim b).touchAll core false ps).iss = { b with start := some (s.wave b.key) } := touchAll_iss ..
  simp only [State.begin, h, and_self]

/-- A group whose words are fetched and decode, which its ports let issue, which no register owed holds and which reads no lost
or deferred register, issues. -/
theorem prepare_eq_issue {s : State} {b : Issue} {may : Instr → Bool} {beside : Instr → Option Issue} {held past : State → State}
    {ws : List Word} {ps : List Trans} {i : Instr} (hf : s.fetch b.key b.pc = .words ws ps) (hd : decode ws = .ok i)
    (hm : may i = true) (hh : (s.wave b.key).holdsFor (b.before.getD (s.wave b.key)) i b.lanes = false)
    (hr : (((s.aim b).touchAll (b.key / 64) false ps).begin i ws.length).badRead i = none) :
    s.prepare b may beside held past =
      .issue i (((s.aim b).touchAll (b.key / 64) false ps).begin i ws.length) (beside i) := by
  simp only [State.prepare, hf, hd, hm, hh, Bool.not_true, Bool.false_eq_true, if_false]
  rw [show keyCore b.key = b.key / 64 from rfl, hr]

/-- The turn of a quarter that may issue slot A. -/
theorem issueTurn_slotA {s : State} {q : Nat} {a : Issue} {i : Instr} {t : State} {b : Option Issue} (hB : s.slotB = none)
    (hq : s.quarterList.find? (fun q => decide (s.cursor ≤ q)) = some q) (ha : s.slotAOf q = some a)
    (hp : s.prepare a (fun _ => true) (s.besideA a) (fun t => t.noteStop a.key) (fun t => t.noteStop a.key) = .issue i t b) :
    s.issueTurn = .issue i { t with
      cursor := q + 1
      portMem := i.memPort
      portTile := i.tilePort
      iss := { t.iss with pairs := b.any (fun x => x.before.isSome) } } b := by
  simp only [State.issueTurn, hB, hq, ha, hp]

/-- The turn of slot B, whose group may issue. -/
theorem issueTurn_slotB {s : State} {b : Issue} (hB : s.slotB = some b) (hm : s.mayIssueB b = true) :
    s.issueTurn = ({ s with slotB := none } : State).prepare b (portsFree s.portMem s.portTile) (fun _ => none)
      (fun t => t.chooseB b) (fun t => (t.closeB b).noteStop b.key) := by
  simp only [State.issueTurn, hB, hm, if_true]

/-- A group stands where all its lanes are ready at its PC. -/
theorem stands_of {w : Wave} {pc : Addr} {ls : Mask}
    (h : ∀ l < 32, ls.getLsbD l = true → (w.lane l).state = .ready ∧ (w.lane l).pc = pc) : w.stands pc ls = true := by
  refine List.all_eq_true.2 fun l hl => ?_
  obtain ⟨h32, hb⟩ := List.mem_filter.1 hl
  simp [h l (List.mem_range.1 h32) hb]

/-- Slot B may issue a group of another wave that stands and is ready, and one of slot A's own wave that stands, unless slot A
trapped or waits for a page. -/
theorem mayIssueB_of {s : State} {b : Issue}
    (hl : ∀ l < 32, b.lanes.getLsbD l = true → ((s.wave b.key).lane l).state = .ready ∧ ((s.wave b.key).lane l).pc = b.pc)
    (hn : b.before = none → s.issuable b.key = true)
    (hs : ∀ v, b.before = some v → (s.wave b.key).pend = none ∧ (s.wave b.key).handler = v.handler ∧
      ∀ c p k t, (s.wave b.key).wait ≠ .page c p k t) : s.mayIssueB b = true := by
  unfold State.mayIssueB
  dsimp only
  rw [stands_of hl, Bool.true_and]
  split
  next v hv =>
    obtain ⟨hp, hh, hw⟩ := hs v hv
    rw [hp, hh]
    simp only [Option.isNone_none, beq_self_eq_true, Bool.true_and]
    split
    next c p k t e => exact absurd e (hw c p k t)
    all_goals rfl
  next hb => exact hn hb

/-- What slot A issues has nothing before it in its clk. -/
theorem slotAOf_before {s : State} {q : Nat} {a : Issue} (h : s.slotAOf q = some a) : a.before = none := by
  unfold State.slotAOf at h
  split at h
  · cases h
  · obtain ⟨k, -, h⟩ := Option.bind_eq_some_iff.1 h
    obtain ⟨g, -, rfl⟩ := Option.map_eq_some_iff.1 h
    rfl

/-- A step whose next turn is an issue is that turn. -/
theorem work_issue {s : State} {r : List Turn} (h : s.agenda = .issue :: r ∨ (s.agenda = [] ∧ r = [] ∧ s.dueEvent = none))
    (hB : s.slotB = none) :
    s.work (if s.agenda.isEmpty then s.dueEvent else none) = ({ s with agenda := r } : State).issueTurn := by
  rcases h with h | ⟨h, rfl, hd⟩
  · simp [State.work, hB, h]
  · have hs : ({ s with agenda := [] } : State) = s := by rw [← h]
    rw [hs]
    simp [State.work, hB, h, hd]

/-- Settles O55: a turn that issues gives the instruction decoded (`prepare_eq_issue`), and every other step is the turn it takes
from the agenda or the event that is due. -/
theorem stepRunsDecoded : Obligations.StepRunsDecoded := by
  unfold Obligations.StepRunsDecoded
  refine ⟨?_, ?_, ?_, ?_, ?_⟩
  · intro s r q a ws ps i h hB u hq ha hf hd hh t b hr
    obtain ⟨hkey, hpc, hlanes, hnext⟩ := begin_iss u a (a.key / 64) ps i ws.length
    refine ⟨hkey, hpc, hlanes, hnext, ?_⟩
    have hp := prepare_eq_issue (may := fun _ => true) (beside := u.besideA a) (held := fun t => t.noteStop a.key)
      (past := fun t => t.noteStop a.key) hf hd rfl (by rw [slotAOf_before ha]; exact hh) hr
    unfold step
    rw [work_issue h hB, issueTurn_slotA (s := u) hB hq ha hp]
    exact ended_afterIssue _ _
  · intro s b ws ps i hB u w hl hn hs hf hd hports hh t hr
    obtain ⟨hkey, hpc, hlanes, hnext⟩ := begin_iss u b (b.key / 64) ps i ws.length
    refine ⟨hkey, hpc, hlanes, hnext, ?_⟩
    have hp := prepare_eq_issue (may := portsFree s.portMem s.portTile) (beside := fun _ => none) (held := fun t => t.chooseB b)
      (past := fun t => (t.closeB b).noteStop b.key) hf hd hports hh hr
    have hw : ∀ due, s.work due = s.issueTurn := fun due => by simp [State.work, hB]
    unfold step
    rw [hw, issueTurn_slotB hB (mayIssueB_of hl hn hs), hp]
    exact ended_afterIssue _ _
  · intro s e r hB h he
    simp only [step, State.work, hB, h, he, Option.isSome_none, Bool.false_eq_true, if_false, if_true, ended_eq]
  · intro s e hB h hd
    simp only [step, State.work, hB, h, hd, Option.isSome_none, Bool.false_eq_true, if_false, List.isEmpty_nil, if_true, ended_eq]
  · intro s r u hB h
    simp only [step, State.work, hB, h, Option.isSome_none, Bool.false_eq_true, if_false]

end Sys2Proof.Claims
end
section
/-! # A drove taken back twice -/

namespace Sys2Proof.Claims

open Sys2Proof Sys2Proof.Machine

/-- One live core, whose array a workgroup of drove 1 holds. Grid 3, of priority 5, waits for a lease. Droves 1 and 2 are all of
grid 1, of priority 1 and another context; drove 9 is all of grid 0, of priority 7. Grids 0 and 1 are placed whole, and none of
their droves has started. -/
def takenTwice : State :=
  { State.reset with
    boot := { Boot.init with ready := 0xFFFFFFFF#32 }
    harvest := { Harvest.init with coreEn := [1, 0, 0] }
    ctxs := [(0, { Context.blank with live := true }), (1, { Context.blank with live := true, trapvec := 4#48 })]
    cores := [(0, { Core.init with array := { MatrixArray.init with lessee := some 1 } })]
    wgs := [(1, { Workgroup.blank with drove := 1 })]
    droves := [(1, { Drove.blank with grid := 1, wgs := [1] }), (2, { Drove.blank with grid := 1, x := 1 }), (9, { Drove.blank with order := 1 })]
    grids := [(0, { Grid.blank with ctx := 1, phase := .running, flags := 1, prio := 7, nextDrove := 1 }),
      (1, { Grid.blank with ctx := 1, phase := .running, flags := 1, prio := 1, dx := 2, nextDrove := 2 }),
      (3, { Grid.blank with phase := .eligible, prio := 5, lease := 1 })] }

/-- Grid 3 as it waits. -/
def leaseSeeker : Cand := ⟨3, none, [2, 2, 0, 0, 3]⟩

theorem takenTwice_candOf : takenTwice.candOf 3 false = some leaseSeeker := by decide +kernel
theorem takenTwice_head : takenTwice.head = some leaseSeeker := by decide +kernel
theorem takenTwice_mayGo : takenTwice.mayGo leaseSeeker = true := by decide +kernel
theorem takenTwice_canPlace : takenTwice.canPlace leaseSeeker [] = false := by decide +kernel

/-- No drover of it holds a request. -/
theorem takenTwice_drover (k : Nat) : (takenTwice.core k).drover = [] := by
  by_cases h : 0 = k
  · subst h; rfl
  · simp [State.core, takenTwice, tabGet, h, Core.init]

/-- The head cannot be placed there, so it pre-empts. -/
theorem exec_drovePlace_takenTwice (cores : List Nat) :
    exec (.drovePlace 3 cores) takenTwice = .next (takenTwice.headPreempts leaseSeeker) := by
  change execDrovePlace 3 cores takenTwice = _
  simp only [execDrovePlace, takenTwice_candOf, takenTwice_mayGo, takenTwice_canPlace, Bool.not_true, Bool.false_eq_true,
    if_false, Bool.not_false, if_true]

/-- The victims are droves 1 and 2. Taking back drove 1 takes both; taking back drove 2, which is gone, reads a blank record and so
takes grid 0's. -/
theorem headPreempts_takenTwice_drove : (takenTwice.headPreempts leaseSeeker).drove 9 = Drove.blank := by decide +kernel

/-- Refutes O47: pre-empting for the head of `takenTwice` also takes back drove 9, whose grid has a higher priority than the
head. Numbers of grids start at 1, so that no such state comes about from reset; the statement is about every state. -/
theorem not_workStarts : ¬ Obligations.WorkStarts := by
  unfold Obligations.WorkStarts
  rintro ⟨-, -, -, hplace, -⟩
  obtain ⟨-, hpreempts, -⟩ := hplace takenTwice 3 leaseSeeker _ [] takenTwice_candOf rfl (by decide +kernel)
    fun k => by rw [takenTwice_drover]; decide
  obtain ⟨t, ht, hvictim⟩ := hpreempts takenTwice_mayGo takenTwice_canPlace takenTwice_head
  obtain rfl : takenTwice.headPreempts leaseSeeker = t := by
    rw [exec_drovePlace_takenTwice] at ht
    injection ht
  have hchanged : (takenTwice.headPreempts leaseSeeker).drove 9 ≠ takenTwice.drove 9 := by
    rw [headPreempts_takenTwice_drove]
    decide
  obtain ⟨v, -, hgrid, -, hprio, -⟩ := hvictim 9 hchanged
  rw [← hgrid] at hprio
  exact absurd hprio (by decide)

end Sys2Proof.Claims
end
section
/-! # What the hub writes, and what only leaves -/

namespace Sys2Proof.Claims

open Sys2Proof Sys2Proof.Machine

variable {a s : State}

/-! ## Tables -/

/-- What is read of every entry of a table alike is not changed by a change of one entry that keeps it. -/
theorem map_tabMod {α β : Type} {g : Nat × α → β} {f : α → α} (h : ∀ x, g (x.1, f x.2) = g x) (t : Tab α) (k : Nat) :
    (tabMod t k f).map g = t.map g := by
  induction t with
  | nil => rfl
  | cons x r ih =>
    obtain ⟨j, v⟩ := x
    rw [tabMod]
    split
    · rw [List.map_cons, List.map_cons, h (j, v)]
    · rw [List.map_cons, List.map_cons, ih]

theorem tabErase_sublist {α : Type} (t : Tab α) (k : Nat) : (tabErase t k).Sublist t := by
  induction t with
  | nil => exact .refl _
  | cons x r ih =>
    rw [tabErase]
    split
    · exact List.sublist_cons_self ..
    · exact ih.cons_cons _

theorem tabRising_iff_keys {α : Type} {t : Tab α} : tabRising t = true ↔ (t.map Prod.fst).Pairwise (· < ·) := by
  induction t with
  | nil => exact ⟨fun _ => .nil, fun _ => rfl⟩
  | cons x r ih =>
    obtain ⟨j, v⟩ := x
    rw [Laws.rising_cons, List.map_cons, List.pairwise_cons, ih, List.forall_mem_map]
    rfl

/-- A table has nothing at a key that none of its entries has, and only there. -/
theorem tabGet_eq_none_iff {α : Type} {t : Tab α} {k : Nat} : tabGet t k = none ↔ k ∉ t.map Prod.fst := by
  induction t with
  | nil => exact ⟨fun _ => List.not_mem_nil, fun _ => rfl⟩
  | cons x r ih =>
    obtain ⟨j, v⟩ := x
    rw [List.map_cons, List.mem_cons, not_or, ← ih, tabGet]
    split
    next e => exact ⟨fun hv => absurd hv (Option.some_ne_none v), fun h => absurd e.symm h.1⟩
    next e => exact ⟨fun hr => ⟨fun hj => e hj.symm, hr⟩, And.right⟩

/-- An entry erased from a table in order leaves no entry of its key. -/
theorem not_mem_tabErase {α : Type} {t : Tab α} (h : (t.map Prod.fst).Pairwise (· < ·)) (k : Nat) :
    k ∉ (tabErase t k).map Prod.fst := by
  induction t with
  | nil => exact List.not_mem_nil
  | cons x r ih =>
    obtain ⟨j, v⟩ := x
    rw [List.map_cons, List.pairwise_cons] at h
    rw [tabErase]
    split
    next e => subst e; exact fun hk => absurd (h.1 _ hk) (Nat.lt_irrefl _)
    next e => exact fun hk => (List.mem_cons.1 hk).elim (fun hj => e hj.symm) (ih h.2)

/-! ## What the hub writes

`HubSide a t`: `t` differs from `a` in memory, what a write of memory brings, the pages asked for, error records and the host's
messages alone, and no context and no duplicate has come or gone. -/

/-- The contexts of the duplicates. -/
def dupCtxs (s : State) : List Nat := s.dups.map (fun d => d.2.ctx)

def HubSide (a t : State) : Prop :=
  { t with
    free := a.free
    mem := a.mem
    old := a.old
    tethers := a.tethers
    freed := a.freed
    wakes := a.wakes
    ctxs := a.ctxs
    posted := a.posted
    dups := a.dups
    errors := a.errors
    hostRead := a.hostRead
    inbound := a.inbound } = a ∧
  t.ctxs.map Prod.fst = a.ctxs.map Prod.fst ∧ dupCtxs t = dupCtxs a

theorem HubSide.refl : HubSide a a := ⟨rfl, rfl, rfl⟩

theorem HubSide.ite {c : Prop} [Decidable c] {t u : State} (ht : HubSide a t) (hu : HubSide a u) :
    HubSide a (if c then t else u) := by split <;> assumption

theorem HubSide.foldl {α : Type} {f : State → α → State} {l : List α} (hf : ∀ t x, HubSide a t → HubSide a (f t x))
    (h : HubSide a s) : HubSide a (l.foldl f s) := List.foldlRecOn l f h fun t k x _ => hf t x k

theorem HubSide.perform {cells} (h : HubSide a s) : HubSide a (s.perform cells) := h

theorem HubSide.performBytes {pa bs} (h : HubSide a s) : HubSide a (s.performBytes pa bs) := h

theorem HubSide.orLeaf {pa bits} (h : HubSide a s) : HubSide a (s.orLeaf pa bits) := .ite h h

theorem HubSide.modCtx {c f} (h : HubSide a s) : HubSide a (s.modCtx c f) :=
  ⟨h.1, (map_tabMod (fun _ => rfl) _ _).trans h.2.1, h.2.2⟩

/-- A change of a duplicate that keeps its context. -/
theorem HubSide.modDup {i} {f : DupEntry → DupEntry} (hf : ∀ d, (f d).ctx = d.ctx) (h : HubSide a s) :
    HubSide a { s with dups := tabMod s.dups i f } :=
  ⟨h.1, h.2.1, (map_tabMod (fun x => hf x.2) _ _).trans h.2.2⟩

theorem HubSide.startCollapse {i} (h : HubSide a s) : HubSide a (s.startCollapse i) := .modDup (fun _ => rfl) h

theorem HubSide.askPage {ctx va kind} (h : HubSide a s) : HubSide a (s.askPage ctx va kind) := by
  unfold State.askPage
  extract_lets
  split
  · refine .ite h ?_
    split
    · exact .modCtx h
    · exact h
  · exact h

theorem HubSide.hubSeen {ctx va n need} (h : HubSide a s) : HubSide a (s.hubSeen ctx va n need) := by
  refine .foldl (fun t x k => ?_) h
  split
  · exact .orLeaf k
  all_goals exact k

theorem HubSide.hubWrite {ctx va bs} (h : HubSide a s) : HubSide a (s.hubWrite ctx va bs) := by
  unfold State.hubWrite
  split
  · extract_lets
    split
    · exact .modDup (fun _ => rfl) (.startCollapse (.hubSeen h))
    · exact .perform (.hubSeen h)
  · exact h

theorem HubSide.hubPost {ctx parts} (h : HubSide a s) : HubSide a (s.hubPost ctx parts) := by
  unfold State.hubPost
  extract_lets
  split
  · exact .askPage (s := { s with posted := _ }) h
  · exact .foldl (fun _ _ k => .hubWrite k) h

theorem HubSide.report {r} (h : HubSide a s) : HubSide a (s.report r) := by
  unfold State.report
  extract_lets rep bs _ s1
  have h1 : HubSide a s1 := h
  exact .ite (.ite (.performBytes h1) (.performBytes (.performBytes h1))) h1

theorem HubSide.signal {handle g status killed} (h : HubSide a s) : HubSide a (s.signal handle g status killed) :=
  .ite (.ite h (.report h)) (.hubPost h)

theorem HubSide.spoilPiece {ctx va n} (h : HubSide a s) : HubSide a (s.spoilPiece ctx va n) := .hubWrite (s := { s with free := _ }) h

theorem HubSide.freeSlot {j} (h : HubSide a s) : HubSide a (s.freeSlot j) := by
  have hs : HubSide a (s.spoilScratch j) := .foldl (fun _ _ k => .spoilPiece k) h
  unfold State.freeSlot
  split
  · exact h
  · exact h
  · exact .hubWrite hs
  · exact .hubWrite hs

theorem HubSide.publishDup {i} (h : HubSide a s) : HubSide a (s.publishDup i) := h

theorem HubSide.hostWrite {cells} (h : HubSide a s) : HubSide a (s.hostWrite cells) := by
  refine .foldl (fun t c k => ?_) (.perform h)
  split
  · exact .modDup (fun _ => rfl) (.startCollapse k)
  · exact k

theorem HubSide.hostAtomic {pa op x y} (h : HubSide a s) : HubSide a (s.hostAtomic pa op x y) := by
  unfold State.hostAtomic
  extract_lets old s1
  have h1 : HubSide a s1 := by
    unfold s1
    split
    · exact .perform h
    · exact h
  exact h1

theorem HubSide.hostRun {ms} (h : HubSide a s) : HubSide a (s.hostRun ms) := by
  induction ms generalizing s with
  | nil => exact h
  | cons m rest ih =>
    unfold State.hostRun
    refine .ite h ?_
    split
    · exact ih (.hostWrite h)
    · split
      next i _ => exact HubSide.startCollapse (i := i) h
      next => exact ih (.hostAtomic h)

theorem HubSide.waves (h : HubSide a s) : s.waves = a.waves := by rw [← h.1]
theorem HubSide.wgs (h : HubSide a s) : s.wgs = a.wgs := by rw [← h.1]
theorem HubSide.droves (h : HubSide a s) : s.droves = a.droves := by rw [← h.1]
theorem HubSide.grids (h : HubSide a s) : s.grids = a.grids := by rw [← h.1]
theorem HubSide.builds (h : HubSide a s) : s.builds = a.builds := by rw [← h.1]
theorem HubSide.cores (h : HubSide a s) : s.cores = a.cores := by rw [← h.1]
theorem HubSide.sites (h : HubSide a s) : s.sites = a.sites := by rw [← h.1]

/-! ## What only leaves

`Ebbs a t`: since `a` no wave, grid, context or build has come, and no grid has passed to another context. -/

/-- The grids, each with its context. -/
def gridCtxs (s : State) : List (Nat × Nat) := s.grids.map (fun g => (g.1, g.2.ctx))

def Ebbs (a t : State) : Prop :=
  (t.waves.map Prod.fst).Sublist (a.waves.map Prod.fst) ∧ (gridCtxs t).Sublist (gridCtxs a) ∧
  (t.ctxs.map Prod.fst).Sublist (a.ctxs.map Prod.fst) ∧ t.builds.Sublist a.builds ∧ (dupCtxs t).Sublist (dupCtxs a)

theorem Ebbs.refl : Ebbs a a := ⟨.refl _, .refl _, .refl _, .refl _, .refl _⟩

theorem Ebbs.ite {c : Prop} [Decidable c] {t u : State} (ht : Ebbs a t) (hu : Ebbs a u) : Ebbs a (if c then t else u) := by
  split <;> assumption

theorem Ebbs.foldl {α : Type} {f : State → α → State} {l : List α} (hf : ∀ t x, Ebbs a t → Ebbs a (f t x)) (h : Ebbs a s) :
    Ebbs a (l.foldl f s) := List.foldlRecOn l f h fun t k x _ => hf t x k

/-- What the hub writes brings no wave, grid, context, build or duplicate. -/
theorem Ebbs.hub {t : State} (k : HubSide s t) (h : Ebbs a s) : Ebbs a t := by
  unfold Ebbs gridCtxs
  rw [k.waves, k.grids, k.builds, k.2.1, k.2.2]
  exact h

theorem Ebbs.modWave {key f} (h : Ebbs a s) : Ebbs a (s.modWave key f) := by
  refine ⟨?_, h.2⟩
  rw [State.modWave_waves, map_tabMod fun _ => rfl]
  exact h.1

theorem Ebbs.modGrid {id} {f : Grid → Grid} (hf : ∀ g, (f g).ctx = g.ctx) (h : Ebbs a s) : Ebbs a (s.modGrid id f) := by
  obtain ⟨hw, hg, hc, hb, hd⟩ := h
  refine ⟨hw, ?_, hc, hb, hd⟩
  unfold gridCtxs
  rw [State.modGrid_grids, map_tabMod fun x => by rw [hf]]
  exact hg

theorem Ebbs.modCtx {c f} (h : Ebbs a s) : Ebbs a (s.modCtx c f) := .hub (.modCtx .refl) h
theorem Ebbs.modWg {id f} (h : Ebbs a s) : Ebbs a (s.modWg id f) := h
theorem Ebbs.modDrove {id f} (h : Ebbs a s) : Ebbs a (s.modDrove id f) := h
theorem Ebbs.modCore {c f} (h : Ebbs a s) : Ebbs a (s.modCore c f) := h
theorem Ebbs.modQuarter {q f} (h : Ebbs a s) : Ebbs a (s.modQuarter q f) := h
theorem Ebbs.freshId (h : Ebbs a s) : Ebbs a (s.freshId).2 := h
theorem Ebbs.dropTethers {p} (h : Ebbs a s) : Ebbs a (s.dropTethers p) := h

/-- Fewer waves, or waves in other states, under keys they had. -/
theorem Ebbs.fewerWaves {ws : Tab Wave} (hs : (ws.map Prod.fst).Sublist (s.waves.map Prod.fst)) (h : Ebbs a s) :
    Ebbs a { s with waves := ws } := ⟨hs.trans h.1, h.2⟩

theorem Ebbs.dropBuild {id} (h : Ebbs a s) : Ebbs a (s.dropBuild id) :=
  ⟨h.1, h.2.1, h.2.2.1, List.filter_sublist.trans h.2.2.2.1, h.2.2.2.2⟩

/-! ### Kills -/

theorem Ebbs.leaveCore {wg} (h : Ebbs a s) : Ebbs a (s.leaveCore wg) := .fewerWaves (s := s) (List.filter_sublist.map _) h

theorem Ebbs.dropWg {wg} (h : Ebbs a s) : Ebbs a (s.dropWg wg) := by
  unfold State.dropWg
  extract_lets ctx slot s1 s2
  have h1 : Ebbs a s1 := .leaveCore (.dropTethers h)
  have h2 : Ebbs a s2 := .modCtx h1
  exact h2

theorem Ebbs.freeLog {core} (h : Ebbs a s) : Ebbs a (s.freeLog core) :=
  .fewerWaves (by rw [List.map_map]; exact .refl _) h

theorem Ebbs.eraseGrid {id} (h : Ebbs a s) : Ebbs a { s with grids := tabErase s.grids id } :=
  ⟨h.1, ((tabErase_sublist _ _).map _).trans h.2.1, h.2.2⟩

theorem Ebbs.killOne {status id} (h : Ebbs a s) : Ebbs a (s.killOne status id) :=
  .hub (.signal .refl) (.modCtx (.eraseGrid (.foldl (fun _ _ k => .dropWg (.freeLog (.modCore k))) h)))

theorem Ebbs.killGrid {status id} (h : Ebbs a s) : Ebbs a (s.killGrid status id) := .foldl (fun _ _ k => .killOne k) h

theorem Ebbs.relaunch {d} (h : Ebbs a s) : Ebbs a (s.relaunch d) :=
  .modGrid (fun _ => rfl) (.modDrove (.freshId (.foldl (fun _ _ k => .dropWg (.modCore k)) h)))

theorem Ebbs.lossRecord {wg kind pa act} (h : Ebbs a s) : Ebbs a (s.lossRecord wg kind pa act) := .hub (.report .refl) h

theorem Ebbs.affect {wg kind pa stop who} (h : Ebbs a s) : Ebbs a (s.affect wg kind pa stop who) := by
  unfold State.affect
  split
  · exact .relaunch (.lossRecord h)
  · exact .killGrid (.lossRecord h)
  · extract_lets s1 taker
    have h1 : Ebbs a s1 := .lossRecord h
    clear_value taker
    cases taker with
    | none => exact h1
    | some x => exact .modWave h1

/-! ### Paddocks, releases and barriers -/

theorem Ebbs.penSet {wg pa bs} (h : Ebbs a s) : Ebbs a (s.penSet wg pa bs) := .ite (.modCore h) (.modWg h)

theorem Ebbs.padPerform {core p} (h : Ebbs a s) : Ebbs a (s.padPerform core p) :=
  .ite (.foldl (fun _ _ k => .penSet k) (.modWave (.modCore h)))
    (.ite (.modWave (.modWave (.modCore h))) (.affect (.modWave (.modWave (.modCore h)))))

theorem Ebbs.padAll {wg} (h : Ebbs a s) : Ebbs a (s.padAll wg) := .foldl (fun _ _ k => .padPerform k) h

theorem Ebbs.setStatus {wg index words} (h : Ebbs a s) : Ebbs a (s.setStatus wg index words) :=
  .ite (.modWg h) (.foldl (fun _ _ k => .ite (.hub (.hubPost .refl) k) k) (.modWg h))

theorem Ebbs.commit {wg} (h : Ebbs a s) : Ebbs a (s.commit wg) := .modDrove (.modWg (.modCore h))

theorem Ebbs.performLine {core line} (h : Ebbs a s) : Ebbs a (s.performLine core line) := by
  unfold State.performLine
  split
  · exact h
  · split
    · exact .hub (.startCollapse .refl) h
    · exact h

theorem Ebbs.performAll {core} (h : Ebbs a s) : Ebbs a (s.performAll core) :=
  Ebbs.foldl (l := (s.core core).committed.map Committed.line) (fun _ _ k => .performLine k) h

theorem Ebbs.gbarCheck {grid} (h : Ebbs a s) : Ebbs a (s.gbarCheck grid) := by
  unfold State.gbarCheck
  split
  · extract_lets mine s1
    have h1 : Ebbs a s1 := .foldl (fun _ _ k => .performAll k) h
    refine .ite h1 (.fewerWaves (s := s1.modGrid grid _) ?_ (.modGrid (fun _ => rfl) h1))
    rw [List.map_map]
    rw [List.map_congr_left (g := Prod.fst) fun x _ => ?_]
    · exact .refl _
    · rw [Function.comp_apply]
      split <;> rfl
  · exact h

/-! ### Ends of workgroups and droves -/

theorem Ebbs.freeAreas {wgs} (h : Ebbs a s) : Ebbs a (s.freeAreas wgs) := by
  refine .foldl (fun t g k => ?_) h
  extract_lets
  split
  · exact .modWg (.modCtx k)
  · exact k

theorem Ebbs.endWg {wg} (h : Ebbs a s) : Ebbs a (s.endWg wg) := .freeAreas (.leaveCore (.commit (.dropTethers h)))

theorem Ebbs.endDrove {d} (h : Ebbs a s) : Ebbs a (s.endDrove d) := .ite (.modDrove h) h

theorem Ebbs.saveCheck {d} (h : Ebbs a s) : Ebbs a (s.saveCheck d) := by
  unfold State.saveCheck
  extract_lets
  split
  · exact .ite h (.ite (.modDrove h) (.modDrove (.foldl (fun _ _ k => .leaveCore (.performAll k)) (.freshId h))))
  all_goals exact h

theorem Ebbs.resumeWait {key} (h : Ebbs a s) : Ebbs a (s.resumeWait key) := by
  unfold State.resumeWait
  extract_lets w deadline wait s1 f
  have h1 : Ebbs a s1 := .modWave h
  clear_value s1 wait
  split
  case h_1 | h_2 => exact .ite (.modWave h1) h1
  all_goals exact h1

theorem Ebbs.returnOne {key} (h : Ebbs a s) : Ebbs a (s.returnOne key) := .modCore (.resumeWait (.modWave h))

theorem Ebbs.adoptOps {key} (h : Ebbs a s) : Ebbs a (s.adoptOps key) := .ite (.modWave h) h

theorem Ebbs.takeDue {key} (h : Ebbs a s) : Ebbs a (s.takeDue key) := .modWg (.modWave h)

theorem Ebbs.restoreCheck {d} (h : Ebbs a s) : Ebbs a (s.restoreCheck d) :=
  .ite (.gbarCheck (.foldl (fun _ _ k => .modWave k) (.modDrove (.freeAreas (.foldl (fun _ _ k => .modCore k)
    (.foldl (fun _ _ k => .takeDue (.returnOne (.adoptOps k))) h)))))) h

end Sys2Proof.Claims
end
section
/-! # Contexts go and come, and grids retire -/

namespace Sys2Proof.Claims

open Sys2Proof Sys2Proof.Machine

variable {a s : State}

/-! ### Kills leave nothing of what they kill -/

/-- The grids of a state stand in order. -/
def GridsRise (s : State) : Prop := (s.grids.map Prod.fst).Pairwise (· < ·)

theorem Ebbs.gridKeys {t : State} (h : Ebbs a t) : (t.grids.map Prod.fst).Sublist (a.grids.map Prod.fst) := by
  have k := h.2.1.map Prod.fst
  unfold gridCtxs at k
  rwa [List.map_map, List.map_map] at k

theorem Ebbs.gridsRise {t : State} (h : Ebbs a t) (ha : GridsRise a) : GridsRise t := ha.sublist h.gridKeys

/-- Where each grid of a kind stands in a list, and each of the list is removed in turn, none of the kind is left. -/
theorem foldl_clears {f : State → Nat → State} {p : Nat × Nat → Prop} (hf : ∀ t x, Ebbs t (f t x))
    (hx : ∀ t x, GridsRise t → x ∉ (f t x).grids.map Prod.fst) (l : List Nat) (h : GridsRise s)
    (hin : ∀ y ∈ gridCtxs s, p y → y.1 ∈ l) : ∀ y ∈ gridCtxs (l.foldl f s), ¬ p y := by
  induction l generalizing s with
  | nil => exact fun y hy hp => absurd (hin y hy hp) List.not_mem_nil
  | cons x r ih =>
    refine ih ((hf s x).gridsRise h) fun y hy hp => ?_
    rcases List.mem_cons.1 (hin y ((hf s x).2.1.subset hy) hp) with hyx | hr
    · obtain ⟨g, hg, rfl⟩ := List.mem_map.1 hy
      exact absurd (List.mem_map.2 ⟨g, hg, hyx⟩) (hx s x h)
    · exact hr

/-- A grid killed is gone from a table in order. -/
theorem not_mem_killOne {status id} (h : GridsRise s) : id ∉ (s.killOne status id).grids.map Prod.fst := by
  unfold State.killOne
  extract_lets g ds wgs s1 s2 s3 s4
  have h2 : Ebbs s s2 := Ebbs.foldl (fun _ _ k => .dropWg (.freeLog (.modCore k))) .refl
  have h3 : id ∉ s3.grids.map Prod.fst := not_mem_tabErase (h2.gridsRise h) id
  rw [(HubSide.signal (.modCtx .refl) : HubSide s3 _).grids]
  exact h3

/-- A grid killed with its descendants is gone. -/
theorem not_mem_killGrid {status id} (h : GridsRise s) : id ∉ (s.killGrid status id).grids.map Prod.fst := by
  have gone := foldl_clears (p := fun y => y.1 = id) (fun t x => Ebbs.killOne (status := status) (id := x) .refl)
    (fun t x => not_mem_killOne) ((s.grids.map Prod.fst).filter fun a => s.descends id (s.grids.length + 1) a) h ?_
  · intro hk
    obtain ⟨g, hg, hid⟩ := List.mem_map.1 hk
    exact gone (g.1, g.2.ctx) (List.mem_map.2 ⟨g, hg, rfl⟩) hid
  · rintro y hy rfl
    obtain ⟨g, hg, rfl⟩ := List.mem_map.1 hy
    refine List.mem_filter.2 ⟨List.mem_map.2 ⟨g, hg, rfl⟩, ?_⟩
    rw [State.descends, decide_eq_true rfl, Bool.true_or]

/-- CONTEXT_KILL kills the grids of the context that still stand. -/
def killIn (t : State) (g : Nat) : State := if (tabGet t.grids g).isSome then t.killGrid 4 g else t

theorem Ebbs.killIn {g} (h : Ebbs a s) : Ebbs a (killIn s g) := .ite (.killGrid h) h

theorem not_mem_killIn {id} (h : GridsRise s) : id ∉ (killIn s id).grids.map Prod.fst := by
  unfold killIn
  split
  · exact not_mem_killGrid h
  next hn => exact tabGet_eq_none_iff.1 (Option.not_isSome_iff_eq_none.1 hn)

/-- No grid of a context is left once each that stood has been killed. -/
theorem no_grid_of_killed (ctx : Nat) (h : GridsRise s) :
    ∀ y ∈ gridCtxs (((s.grids.filter (fun g => decide (g.2.ctx = ctx))).map Prod.fst).foldl killIn s), y.2 ≠ ctx := by
  refine foldl_clears (fun t x => .killIn .refl) (fun t x => not_mem_killIn) _ h fun y hy hp => ?_
  obtain ⟨g, hg, rfl⟩ := List.mem_map.1 hy
  exact List.mem_map.2 ⟨g, List.mem_filter.2 ⟨hg, decide_eq_true hp⟩, rfl⟩

/-! ### What goes with a context -/

theorem Ebbs.freeSlot {j} (h : Ebbs a s) : Ebbs a (s.freeSlot j) := .hub (.freeSlot .refl) h

/-- No build of a context is left once its builds are abandoned. -/
theorem no_build_of_abandoned (ctx : Nat) : ∀ j ∈ (s.abandonBuilds ctx).builds, j.ctx ≠ ctx := by
  have gone : ∀ (l : List BuildJob) (t : State), (∀ j ∈ t.builds, j.ctx = ctx → j ∈ l) →
      ∀ j ∈ (l.foldl (fun t j => (t.freeSlot j).dropBuild j.id) t).builds, j.ctx ≠ ctx := by
    intro l
    induction l with
    | nil => exact fun t hin j hj hc => absurd (hin j hj hc) List.not_mem_nil
    | cons x r ih =>
      intro t hin
      have hb : (t.freeSlot x).builds = t.builds := (HubSide.freeSlot .refl : HubSide t _).builds
      refine ih _ fun j hj hc => ?_
      obtain ⟨hj, hne⟩ := List.mem_filter.1 hj
      rcases List.mem_cons.1 (hin j (hb ▸ hj) hc) with rfl | hr
      · exact absurd rfl (of_decide_eq_true hne)
      · exact hr
  exact gone _ s fun j hj hc => List.mem_filter.2 ⟨hj, decide_eq_true hc⟩

theorem Ebbs.abandonBuilds {ctx} (h : Ebbs a s) : Ebbs a (s.abandonBuilds ctx) := .foldl (fun _ _ k => .dropBuild (.freeSlot k)) h

theorem Ebbs.dropTlb {p} (h : Ebbs a s) : Ebbs a (s.dropTlb p) := h

theorem Ebbs.unmapSlot {r slot} (h : Ebbs a s) : Ebbs a (s.unmapSlot r slot) := by
  unfold State.unmapSlot
  extract_lets va s1
  have h1 : Ebbs a s1 := by
    unfold s1
    split
    · exact .hub (.performBytes .refl) h
    · exact h
  exact .dropTlb h1

theorem Ebbs.unmapSlots {ctx} (h : Ebbs a s) : Ebbs a (s.unmapSlots ctx) := by
  refine .foldl (fun t u k => ?_) h
  split
  · exact .unmapSlot k
  · exact k

/-- What CONTEXT_KILL has left before the translations go: no grid and no build. -/
def emptied (s : State) (ctx : Nat) : State :=
  (((((s.grids.filter (fun g => decide (g.2.ctx = ctx))).map Prod.fst).foldl killIn s).abandonBuilds ctx).dropWeights ctx).unmapSlots ctx

theorem Ebbs.emptied {ctx} (h : Ebbs a s) : Ebbs a (emptied s ctx) :=
  .unmapSlots (s := State.dropWeights _ ctx) (.abandonBuilds (.foldl (fun _ _ k => .killIn k) h))

theorem emptied_spec (ctx : Nat) (h : GridsRise s) :
    (∀ g ∈ (emptied s ctx).grids, g.2.ctx ≠ ctx) ∧ ∀ j ∈ (emptied s ctx).builds, j.ctx ≠ ctx := by
  unfold emptied
  have hg := no_grid_of_killed ctx h
  generalize List.foldl killIn s _ = v at hg ⊢
  obtain ⟨-, hgs, -, hbs, -⟩ : Ebbs (v.abandonBuilds ctx) (((v.abandonBuilds ctx).dropWeights ctx).unmapSlots ctx) :=
    .unmapSlots (s := State.dropWeights _ ctx) .refl
  refine ⟨fun g hm => ?_, fun j hm => no_build_of_abandoned ctx j (hbs.subset hm)⟩
  exact hg _ ((Ebbs.abandonBuilds .refl : Ebbs v _).2.1.subset (hgs.subset (List.mem_map.2 ⟨g, hm, rfl⟩)))

/-- What a filter of entries of a context leaves. -/
theorem ne_of_mem_filter {α : Type} {f : α → Nat} {ctx : Nat} {l : List α} : ∀ x ∈ l.filter (fun x => decide (f x ≠ ctx)), f x ≠ ctx :=
  fun _ hx => of_decide_eq_true (List.mem_filter.1 hx).2

/-- What the engines and the shepherd held for a context is gone with it; its grids and builds, and the translations, stay as they
were. -/
theorem dropContext_spec (ctx : Nat) (h : (s.ctxs.map Prod.fst).Pairwise (· < ·)) :
    let t := s.dropContext ctx
    tabGet t.ctxs ctx = none ∧ t.grids = s.grids ∧ t.builds = s.builds ∧ t.cores = s.cores ∧ t.sites = s.sites ∧
      (∀ j ∈ t.rasters, j.ctx ≠ ctx) ∧ (∀ x ∈ t.tethers ++ t.unarmed, x.ctx ≠ ctx) ∧ (∀ p ∈ t.posted, p.ctx ≠ ctx) ∧
      (∀ x ∈ t.trees ++ t.killed.map (fun c => (c, 0)), x.1 ≠ ctx) ∧ ∀ d ∈ t.dups, d.2.ctx ≠ ctx := by
  unfold State.dropContext
  extract_lets held gone s1 v
  have h1 : HubSide { s with dups := s.dups.filter (fun d => decide (d.2.ctx ≠ ctx)) } v :=
    .hostRun (.foldl (fun _ _ k => .perform k) (.foldl (fun _ _ k => .publishDup k) .refl))
  obtain ⟨hc, hd⟩ := h1.2
  clear_value v
  refine ⟨tabGet_eq_none_iff.2 (not_mem_tabErase (hc ▸ h) ctx), h1.grids, h1.builds, h1.cores, h1.sites, ne_of_mem_filter, ?_,
    ne_of_mem_filter, ?_, ?_⟩
  · exact fun x hx => (List.mem_append.1 hx).elim (ne_of_mem_filter x) (ne_of_mem_filter x)
  · intro x hx
    rcases List.mem_append.1 hx with hx | hx
    · exact ne_of_mem_filter x hx
    · obtain ⟨c, hc, rfl⟩ := List.mem_map.1 hx
      exact ne_of_mem_filter (f := id) c hc
  · intro d hd'
    have hm : d.2.ctx ∈ dupCtxs v := List.mem_map.2 ⟨d, hd', rfl⟩
    rw [hd] at hm
    obtain ⟨e, he, hec⟩ := List.mem_map.1 hm
    exact hec ▸ ne_of_mem_filter (f := fun e : Nat × DupEntry => e.2.ctx) e he

/-- CONTEXT_KILL of a live context whose ENABLE is 0, or has been, leaves nothing of it (R334, R284). -/
theorem contextKill_leaves_nothing (ctx : Nat) (hl : (s.ctx ctx).live = true) (hc : tabRising s.ctxs = true)
    (hg : tabRising s.grids = true) (hk : field (descriptorAt s ctx) 88 8 = 0 ∨ ctx ∈ s.killed) :
    ∃ t, exec (.contextKill ctx) s = .next t ∧ tabGet t.ctxs ctx = none ∧ (∀ g ∈ t.grids, g.2.ctx ≠ ctx) ∧ (∀ j ∈ t.builds, j.ctx ≠ ctx) ∧
      (∀ j ∈ t.rasters, j.ctx ≠ ctx) ∧ (∀ x ∈ t.tethers ++ t.unarmed, x.ctx ≠ ctx) ∧ (∀ p ∈ t.posted, p.ctx ≠ ctx) ∧
      (∀ x ∈ t.trees ++ t.killed.map (fun c => (c, 0)), x.1 ≠ ctx) ∧
      (∀ d ∈ t.dups, d.2.ctx ≠ ctx) ∧ (∀ c ∈ t.cores, ∀ x ∈ c.2.tlb, x.ctx ≠ ctx) ∧ ∀ c ∈ t.sites, ∀ x ∈ c.tlb, x.ctx ≠ ctx := by
  have hgo : (!(s.ctx ctx).live || (descEnable (s.descriptor ctx) ≠ 0 && !s.killed.contains ctx)) = false := by
    have hf : descEnable (s.descriptor ctx) = field (descriptorAt s ctx) 88 8 := rfl
    rcases hk with hk | hk
    · simp [hl, hf, hk]
    · simp [hl, hk]
  refine ⟨_, (if_neg (ne_true_of_eq_false hgo) :), ?_⟩
  obtain ⟨hgrids, hbuilds⟩ := emptied_spec ctx (tabRising_iff_keys.1 hg)
  have hctxs : ((emptied s ctx).ctxs.map Prod.fst).Pairwise (· < ·) :=
    (tabRising_iff_keys.1 hc).sublist (Ebbs.emptied .refl : Ebbs s _).2.2.1
  obtain ⟨h1, h2, h3, h4, h5, h6, h7, h8, h9, h10⟩ :=
    dropContext_spec (s := (emptied s ctx).dropTlb (fun x => decide (x.ctx = ctx))) ctx hctxs
  refine ⟨h1, h2 ▸ hgrids, h3 ▸ hbuilds, h6, h7, h8, h9, h10, h4 ▸ ?_, h5 ▸ ?_⟩
  · intro c hm x hx
    obtain ⟨d, -, rfl⟩ := List.mem_map.1 hm
    simpa using (List.mem_filter.1 hx).2
  · intro c hm x hx
    obtain ⟨d, -, rfl⟩ := List.mem_map.1 hm
    simpa using (List.mem_filter.1 hx).2

/-! ### Contexts are enabled -/

/-- One byte as a field of a descriptor. -/
theorem field_one (bs : List Byte) (at_ : Nat) : field bs at_ 1 = Machine.byteAt bs at_ := by
  unfold field Machine.byteAt
  rw [List.getD_eq_getElem?_getD]
  cases h : bs[at_]? with
  | none =>
    rw [List.drop_eq_nil_of_le (List.getElem?_eq_none_iff.1 h)]
    rfl
  | some b =>
    obtain ⟨hl, rfl⟩ := List.getElem?_eq_some_iff.1 h
    rw [List.drop_eq_getElem_cons hl]
    exact Nat.add_zero _

/-- The bytes of a number, as the model and as the statements place them. -/
theorem cellsFrom_bytesOfNat (pa n x : Nat) : cellsFrom pa (bytesOfNat n x) = numberCells pa n x := by
  induction n generalizing pa x with
  | zero => rfl
  | succ n ih =>
    have hc : cellsFrom pa (bytesOfNat (n + 1) x) = (pa, BitVec.ofNat 8 x) :: cellsFrom (pa + 1) (bytesOfNat n (x / 256)) := by
      rw [bytesOfNat, cellsFrom, cellsFrom, List.mapIdx_cons]
      simp only [Nat.add_zero, Nat.add_comm, Nat.add_left_comm]
    rw [hc, ih, numberCells, numberCells, List.range_succ_eq_map, List.map_cons, List.map_map]
    simp only [Nat.add_zero, pow_zero, Nat.div_one, Function.comp_def, Nat.succ_eq_add_one, Nat.div_div_eq_div_mul, pow_succ',
      Nat.add_comm, Nat.add_left_comm]

/-- A context that becomes live says what its descriptor says (Table 19.2). -/
theorem contextSays_contextOf (b : List Byte) : ContextSays b (contextOf b) where
  live := rfl
  tables := ⟨rfl, rfl⟩
  areas := ⟨rfl, rfl, rfl⟩
  spill := ⟨rfl, rfl⟩
  commons := ⟨rfl, rfl⟩
  nets := ⟨rfl, rfl, rfl, (field_one b 70).symm⟩
  rights := ⟨(field_one b 71).symm, rfl, rfl, rfl⟩
  empty := ⟨rfl, rfl, rfl, rfl⟩

/-- CONTEXT_ENABLE of a descriptor in order makes the context live; any other is turned off, with a record (R333). -/
theorem contextEnable_spec (ctx : Nat) (hh : hubUp s) (hn : ctx < 256) (hl : (s.ctx ctx).live = false)
    (he : field (descriptorAt s ctx) 88 8 = 1) :
    let b := descriptorAt s ctx
    let good := descOk b = true ∧ s.commonsFits (field b 44 4) = true
    (good → ∃ c, exec (.contextEnable ctx) s = .next { s with ctxs := tabSet s.ctxs ctx c } ∧ ContextSays b c) ∧
    (¬ good →
      let pa := s.boot.tables.getD 0 0 + 256 * ctx
      exec (.contextEnable ctx) s = .next (State.report (s.perform (numberCells (pa + 88) 8 0))
        { Report.plain 0x25 1 with ctx := ctx, addr := pa })) := by
  intro b good
  have hx : exec (.contextEnable ctx) s = execContextEnable ctx s := rfl
  have hgo : (!s.hubReady || decide (256 ≤ ctx) || (s.ctx ctx).live || descEnable (s.descriptor ctx) ≠ 1) = false := by
    have h1 : s.hubReady = true := hh
    have h2 : descEnable (s.descriptor ctx) = 1 := he
    simp [h1, h2, hl, hn]
  have hg : (descOk (s.descriptor ctx) && s.commonsFits (Machine.bytesAt (s.descriptor ctx) 44 4)) = true ↔ good := Bool.and_eq_true_iff
  rw [hx, execContextEnable, if_neg (ne_true_of_eq_false hgo)]
  refine ⟨fun h => ?_, fun h => ?_⟩
  · rw [if_pos (hg.2 h)]
    exact ⟨_, rfl, contextSays_contextOf _⟩
  · rw [if_neg (mt hg.1 h), State.performBytes, cellsFrom_bytesOfNat]
    rfl

/-! ### Sensors -/

/-- A cluster that has been too hot, and one that is cooler than another, by what their sensors last read (log entry 21). -/
theorem sensors_spec (cluster now : Nat) (rest : List (Nat × Nat)) (h : (tabGet s.sensors cluster).getD [] = (now, s.time.toNat) :: rest) :
    (s.tooHot cluster = true → s.sched.thermhi < now) ∧
    (∀ other x, s.hottest other = some x → (s.cooler other cluster = true ↔ x + s.sched.thermgap ≤ now)) := by
  refine ⟨fun hot => ?_, fun other x hx => ?_⟩
  · have hnow : decide (s.now < s.time.toNat + 1000000) = true := decide_eq_true (Nat.lt_add_of_pos_right (by decide))
    rw [State.tooHot, h, List.takeWhile_cons_of_pos (by exact hnow), List.all_cons, Bool.and_assoc, Bool.and_eq_true] at hot
    exact of_decide_eq_true hot.1
  · have hc : s.hottest cluster = some now := by rw [State.hottest, h]; rfl
    rw [State.cooler, hx, hc]
    exact decide_eq_true_iff

/-! ### Grids retire -/

theorem gridOver_releases (grid : Nat) (h : s.gridOver grid = true) :
    ∀ x ∈ s.wgs, s.wgGrid x.1 = grid → s.releaseHeld x.2.core x.1 7 = false := by
  intro x hx hg
  unfold State.gridOver at h
  have hall := (Bool.and_eq_true_iff.1 h).2
  simpa using List.all_eq_true.1 hall x (List.mem_filter.2 ⟨hx, decide_eq_true hg⟩)

theorem gridRetire_spec (grid : Nat) :
    let mine := s.wgs.filter (fun x => decide (s.wgGrid x.1 = grid))
    let v := (mine.map (fun x => x.2.core)).eraseDups.foldl State.performAll s
    (s.grid grid).phase = .running → (s.grid grid).nextDrove = (s.grid grid).dx * (s.grid grid).dy * (s.grid grid).dz →
    (∀ d ∈ s.droves, d.2.grid = grid → d.2.phase = .ended) → v.gridOver grid = true →
    exec (.gridRetire grid) s = .next (State.signal { v with
      wgs := v.wgs.filter (fun x => !mine.any (fun m => decide (m.1 = x.1)))
      droves := v.droves.filter (fun d => decide (d.2.grid ≠ grid))
      grids := tabErase v.grids grid
      reserved := v.reserved.filter (fun r => decide (r.2 ≠ grid))
      backfill := v.backfill.filter (fun b => decide (b.1 ≠ grid)) } grid (v.grid grid) (v.grid grid).status true) := by
  intro mine v hp hn hd hv
  have hx : exec (.gridRetire grid) s = execGridRetire grid s := rfl
  have hgo : (decide ((s.grid grid).phase = .running) && decide ((s.grid grid).nextDrove = (s.grid grid).droves) &&
      s.droves.all (fun d => decide (d.2.grid ≠ grid) || decide (d.2.phase = .ended))) = true := by
    have hn' : (s.grid grid).nextDrove = (s.grid grid).droves := hn
    simp only [hp, hn', decide_true, Bool.true_and, List.all_eq_true, Bool.or_eq_true, decide_eq_true_eq]
    exact fun d hm => or_iff_not_imp_left.2 fun hg => hd d hm (not_not.1 hg)
  rw [hx, execGridRetire, if_pos hgo]
  exact if_neg (by rw [show State.gridOver _ grid = true from hv]; decide)

end Sys2Proof.Claims
end
section
/-! # Droves are pre-empted -/

namespace Sys2Proof.Claims

open Sys2Proof Sys2Proof.Machine

variable {a s : State}

/-! ## Droves are made ready for a save

`AreasTaken a t`: taking save areas has led from `a` to `t`, and the waves, the droves and the drove of every workgroup are as
they were. -/

def AreasTaken (a t : State) : Prop := t.droves = a.droves ∧ t.waves = a.waves ∧ ∀ i, (t.wg i).drove = (a.wg i).drove

theorem AreasTaken.refl : AreasTaken a a := ⟨rfl, rfl, fun _ => rfl⟩

theorem AreasTaken.foldl {α : Type} {f : State → α → State} {l : List α} (hf : ∀ t x, AreasTaken a t → AreasTaken a (f t x))
    (h : AreasTaken a s) : AreasTaken a (l.foldl f s) := List.foldlRecOn l f h fun t k x _ => hf t x k

theorem AreasTaken.hub {t : State} (k : HubSide s t) (h : AreasTaken a s) : AreasTaken a t := by
  unfold AreasTaken State.wg
  rw [k.droves, k.waves, k.wgs]
  exact h

theorem AreasTaken.modCtx {c f} (h : AreasTaken a s) : AreasTaken a (s.modCtx c f) := h

theorem AreasTaken.modWg {id} {f : Workgroup → Workgroup} (hf : ∀ g, (f g).drove = g.drove) (h : AreasTaken a s) :
    AreasTaken a (s.modWg id f) := by
  obtain ⟨hd, hw, hg⟩ := h
  refine ⟨hd, hw, fun i => (hg i).symm ▸ ?_⟩
  unfold State.wg
  rw [State.modWg_wgs, Laws.tabGet_tabMod]
  split
  next e => subst e; cases tabGet s.wgs i with
    | none => rfl
    | some g => exact hf g
  next => rfl

theorem AreasTaken.setStatus {wg index words} (h : AreasTaken a s) : AreasTaken a (s.setStatus wg index words) := by
  have h1 : AreasTaken a (s.modWg wg fun g => { g with
      status := modAt g.status index (fun t => words.foldl (fun t x => tabSet t x.1 x.2) t) }) := .modWg (fun _ => rfl) h
  unfold State.setStatus
  extract_lets s1 base
  split
  · exact h1
  · refine .foldl (fun t x k => ?_) h1
    split
    · exact .hub (.hubPost .refl) k
    · exact k

theorem AreasTaken.takeArea {wg} (h : AreasTaken a s) : AreasTaken a (s.takeArea wg) :=
  .foldl (fun _ _ k => .setStatus k) (.hub (.hubPost .refl) (.modWg (fun _ => rfl) (.modCtx h)))

theorem AreasTaken.droveWaves {t : State} (h : AreasTaken a t) (d : Nat) : t.droveWaves d = a.droveWaves d := by
  obtain ⟨-, hw, hg⟩ := h
  unfold State.droveWaves
  simp only [hw, hg]

/-! ### What an ended ray leaves -/

theorem preempt_receive (w : Wave) (o : Owed) : (w.receive o).preempt = w.preempt := by
  unfold Wave.receive
  split <;> rfl

theorem preempt_defer (w : Wave) (o : Owed) : (w.defer o).preempt = w.preempt := by
  unfold Wave.defer
  split <;> rfl

theorem preempt_arrive (w : Wave) (id : Nat) : (w.arrive id).preempt = w.preempt := by
  unfold Wave.arrive
  split
  · rfl
  next o _ =>
    split
    · rfl
    · change (if o.bad = 0#32 then _ else _ : Wave).preempt = _
      split
      · exact preempt_receive w o
      · exact preempt_defer w o

theorem preempt_waitcCheck (w : Wave) : w.waitcCheck.preempt = w.preempt := by
  unfold Wave.waitcCheck
  split
  · split <;> rfl
  all_goals rfl

theorem preempt_completeOp (w : Wave) (id : Nat) : (w.completeOp id).preempt = w.preempt := by
  unfold Wave.completeOp
  split
  · rfl
  · exact preempt_waitcCheck _

/-- The droves, and which pre-emption each wave has before it, are as they were. -/
def StopsKept (a t : State) : Prop :=
  t.droves = a.droves ∧ ∀ k, (tabGet t.waves k).map Wave.preempt = (tabGet a.waves k).map Wave.preempt

theorem StopsKept.refl : StopsKept a a := ⟨rfl, fun _ => rfl⟩

theorem StopsKept.foldl {α : Type} {f : State → α → State} {l : List α} (hf : ∀ t x, StopsKept a t → StopsKept a (f t x))
    (h : StopsKept a s) : StopsKept a (l.foldl f s) := List.foldlRecOn l f h fun t k x _ => hf t x k

theorem StopsKept.modWave {key} {f : Wave → Wave} (hf : ∀ w, (f w).preempt = w.preempt) (h : StopsKept a s) :
    StopsKept a (s.modWave key f) := by
  refine ⟨h.1, fun k => (h.2 k) ▸ ?_⟩
  rw [State.modWave_waves, Laws.tabGet_tabMod]
  split
  next e => subst e; rw [Option.map_map]; exact congrArg (Option.map · _) (funext hf)
  next => rfl

theorem StopsKept.endRay {r status x} (h : StopsKept a s) : StopsKept a (s.endRay r status x) := by
  unfold State.endRay
  extract_lets s0 s1 last
  have h1 : StopsKept a s1 := h
  refine .modWave (fun w => ?_) h1
  extract_lets w0 w1
  have hw : w1.preempt = w.preempt := preempt_arrive w0 r.id
  split
  · exact (preempt_completeOp w1 r.op).trans hw
  · exact hw

theorem StopsKept.resumeRay {ray} (h : StopsKept a s) : StopsKept a (s.resumeRay ray) := by
  unfold State.resumeRay
  split
  · exact h
  · exact h

theorem StopsKept.unparkWave {key} (h : StopsKept a s) : StopsKept a (s.unparkWave key) := by
  unfold State.unparkWave
  refine .foldl (fun t r k => ?_) h
  split
  · exact .resumeRay k
  · exact .endRay k

/-! ### The waves of a drove stop -/

/-- A wave stops at its next instruction boundary, and its parked rays end. -/
def stopWave (trigger : Nat) (t : State) (k : Nat) : State := (t.modWave k (fun w => { w with preempt := some trigger })).unparkWave k

/-- A drove with save areas taken that drains. -/
def drains (s : State) (d trigger : Nat) : State :=
  ((s.openWgs d).foldl State.takeArea s).modDrove d (fun x => { x with phase := .draining trigger, wakes := 0 })

/-- A started drove that leaves for a save: where it is resident and has room to be saved, it drains and its waves stop. -/
theorem preemptDrove_of_started {d trigger : Nat} (h : (s.drove d).started = true) :
    s.preemptDrove d trigger =
      if (s.drove d).phase = .resident ∧ s.canSave d = true then
        ((drains s d trigger).droveWaves d).foldl (stopWave trigger) (drains s d trigger) else s := by
  have he : s.early d = false := by rw [State.early, h]; rfl
  have hno : (!s.canSave d) = true ↔ ¬ s.canSave d = true := by rw [Bool.not_eq_true', Bool.not_eq_true]
  rw [State.preemptDrove, he, if_neg Bool.false_ne_true]
  by_cases hp : (s.drove d).phase = .resident
  · rw [if_neg (not_not.2 hp)]
    by_cases hc : s.canSave d = true
    · rw [if_neg fun k => hno.1 k hc, if_pos ⟨hp, hc⟩]
      rfl
    · rw [if_pos (hno.2 hc), if_neg fun k => hc k.2]
  · rw [if_pos hp, if_neg fun k => hp k.1]

theorem droves_stopWave (trigger k : Nat) : (stopWave trigger s k).droves = s.droves :=
  (StopsKept.unparkWave .refl : StopsKept (s.modWave k _) _).1

theorem droves_stopWaves (trigger : Nat) (l : List Nat) : (l.foldl (stopWave trigger) s).droves = s.droves := by
  induction l generalizing s with
  | nil => rfl
  | cons k r ih => exact ih.trans (droves_stopWave trigger k)

/-- Which pre-emption stands before a wave once one wave has been stopped. -/
theorem preempt_stopWave (trigger k j : Nat) :
    (tabGet (stopWave trigger s k).waves j).map Wave.preempt =
      if j = k then (tabGet s.waves k).map (fun _ => some trigger) else (tabGet s.waves j).map Wave.preempt := by
  have h : StopsKept (s.modWave k fun w => { w with preempt := some trigger }) (stopWave trigger s k) := .unparkWave .refl
  rw [h.2, State.modWave_waves, Laws.tabGet_tabMod]
  split
  · rw [Option.map_map]; rfl
  · rfl

/-- Each wave of a list is stopped. -/
theorem preempt_stopWaves (trigger : Nat) (l : List Nat) (j : Nat) (hj : (tabGet s.waves j).isSome = true)
    (h : j ∈ l ∨ (tabGet s.waves j).map Wave.preempt = some (some trigger)) :
    (tabGet (l.foldl (stopWave trigger) s).waves j).map Wave.preempt = some (some trigger) := by
  induction l generalizing s with
  | nil => exact h.resolve_left List.not_mem_nil
  | cons k r ih =>
    have hk := preempt_stopWave (s := s) trigger k j
    obtain ⟨w, hw⟩ := Option.isSome_iff_exists.1 hj
    refine ih ?_ ?_
    · rw [← Option.isSome_map (f := Wave.preempt), hk]
      split
      next e => subst e; rw [hw]; rfl
      next => rw [hw]; rfl
    · by_cases e : j = k
      · subst e
        exact .inr (by rw [hk, if_pos rfl, hw]; rfl)
      · exact h.imp (fun hm => (List.mem_cons.1 hm).resolve_left e) (fun hp => by rw [hk, if_neg e, hp])

theorem droves_drains (d trigger : Nat) :
    (drains s d trigger).droves = tabMod s.droves d (fun x => { x with phase := .draining trigger, wakes := 0 }) := by
  have h : AreasTaken s ((s.openWgs d).foldl State.takeArea s) := .foldl (fun _ _ k => .takeArea k) .refl
  rw [drains, State.modDrove_droves, h.1]

/-- The table of droves once a started drove has been pre-empted. -/
theorem droves_preemptDrove {d trigger : Nat} (h : (s.drove d).started = true) :
    (s.preemptDrove d trigger).droves =
      if (s.drove d).phase = .resident ∧ s.canSave d = true then
        tabMod s.droves d (fun x => { x with phase := .draining trigger, wakes := 0 })
      else s.droves := by
  rw [preemptDrove_of_started h]
  split
  · rw [droves_stopWaves, droves_drains]
  · rfl

/-- A started resident drove with room to be saved drains. -/
theorem drove_preemptDrove {d trigger : Nat} (hd : (tabGet s.droves d).isSome = true) (hs : (s.drove d).started = true)
    (hp : (s.drove d).phase = .resident) (hc : s.canSave d = true) :
    (s.preemptDrove d trigger).drove d = { s.drove d with phase := .draining trigger, wakes := 0 } := by
  obtain ⟨x, hx⟩ := Option.isSome_iff_exists.1 hd
  rw [State.drove, droves_preemptDrove hs, if_pos ⟨hp, hc⟩, Laws.tabGet_tabMod, if_pos rfl, State.drove, hx]
  rfl

/-- Each wave of it stops. -/
theorem waves_preemptDrove {d trigger k : Nat} (hs : (s.drove d).started = true)
    (hp : (s.drove d).phase = .resident) (hc : s.canSave d = true) (hk : k ∈ s.droveWaves d) :
    ∃ w, tabGet (s.preemptDrove d trigger).waves k = some w ∧ w.preempt = some trigger := by
  have h : AreasTaken s ((s.openWgs d).foldl State.takeArea s) := .foldl (fun _ _ k => .takeArea k) .refl
  have hw : (drains s d trigger).waves = s.waves := h.2.1
  have hks : k ∈ (drains s d trigger).droveWaves d := (h.droveWaves d).symm ▸ hk
  have hin : (tabGet (drains s d trigger).waves k).isSome = true := by
    obtain ⟨x, hx, rfl⟩ := List.mem_map.1 hk
    rw [hw, Option.isSome_iff_ne_none]
    exact fun hn => tabGet_eq_none_iff.1 hn (List.mem_map.2 ⟨x, List.mem_of_mem_filter hx, rfl⟩)
  have := preempt_stopWaves trigger _ k hin (.inl hks)
  rw [preemptDrove_of_started hs, if_pos ⟨hp, hc⟩]
  exact Option.map_eq_some_iff.1 this

/-! ### For a debugger, and off a hot cluster -/

theorem debugPreempt_spec (d : Nat) (hd : (tabGet s.droves d).isSome = true) (hp : (s.drove d).phase = .resident) :
    let vec := (s.ctx (s.grid (s.drove d).grid).ctx).trapvec
    (vec = 0#48 → tabRising s.grids = true →
      ∃ t, exec (.debugPreempt d) s = .next t ∧ tabGet t.grids (s.drove d).grid = none) ∧
    (vec ≠ 0#48 → (s.drove d).started = true → s.canSave d = true →
      ∃ t, exec (.debugPreempt d) s = .next t ∧ (t.drove d).phase = .draining 3 ∧
        ∀ k ∈ s.droveWaves d, ∃ w, tabGet t.waves k = some w ∧ w.preempt = some 3) := by
  intro vec
  have hx : exec (.debugPreempt d) s = execDebugPreempt d s := rfl
  rw [hx, execDebugPreempt, if_neg (not_not.2 hp)]
  refine ⟨fun hv hg => ⟨_, if_neg (by rw [State.hasHandler, decide_eq_true_iff, not_not]; exact hv), ?_⟩,
    fun hv hs hc => ⟨_, if_pos (decide_eq_true hv), ?_, fun k hk => waves_preemptDrove hs hp hc hk⟩⟩
  · exact tabGet_eq_none_iff.2 (not_mem_killGrid (tabRising_iff_keys.1 hg))
  · rw [drove_preemptDrove hd hs hp hc]

/-- The new cores of a drove that migrates, and its move, are noted. -/
def moveNoted (s : State) (d : Nat) (cores : List Nat) : State := s.modDrove d (fun x => { x with target := cores, lastMove := s.now })

theorem drove_moveNoted {d : Nat} {cores : List Nat} (hd : (tabGet s.droves d).isSome = true) :
    (moveNoted s d cores).drove d = { s.drove d with target := cores, lastMove := s.now } := by
  obtain ⟨x, hx⟩ := Option.isSome_iff_exists.1 hd
  rw [moveNoted, State.drove, State.modDrove_droves, Laws.tabGet_tabMod, if_pos rfl, State.drove, hx]
  rfl

theorem canSave_moveNoted {d : Nat} {cores : List Nat} (hd : (tabGet s.droves d).isSome = true) :
    (moveNoted s d cores).canSave d = s.canSave d := by
  unfold State.canSave State.openWgs
  rw [drove_moveNoted hd]
  rfl

theorem thermalMigrate_spec (d : Nat) (cores : List Nat) (hd : (tabGet s.droves d).isSome = true)
    (hmode : s.sched.modes.testBit 0 = true) (hm : s.migrates d = true) (here : Nat) (hc : s.droveCluster d = some here)
    (hot : s.tooHot here = true)
    (hr : ∀ x ∈ s.droves, s.droveCluster x.1 = some here → ¬ (x.2.target ≠ [] ∧ (x.2.phase.halts = true ∨ x.2.phase = .saved)) ∧
      ¬ (s.migrates x.1 = true ∧ s.moreToMove x.1 d = true))
    (hset : s.setOk ⟨(s.drove d).grid, some d, []⟩ cores = true) (hcool : ∀ k ∈ cores, s.cooler (clusterOf k) here = true) :
    ∃ t, exec (.thermalMigrate d cores) s = .next t ∧ (t.drove d).phase = .draining 2 ∧ (t.drove d).target = cores ∧
      (t.drove d).lastMove = s.time.toNat := by
  have hx : exec (.thermalMigrate d cores) s = execThermalMigrate d cores s := rfl
  have hmoving : ((s.droves.filter (fun x => decide (s.droveCluster x.1 = some here))).any
      (fun x => !x.2.target.isEmpty && (x.2.phase.halts || x.2.phase == .saved))) = false := by
    rw [List.any_eq_false]
    intro x hxm
    obtain ⟨hin, hcl⟩ := List.mem_filter.1 hxm
    simpa using (hr x hin (of_decide_eq_true hcl)).1
  have hfirst : ((s.droves.filter (fun x => decide (s.droveCluster x.1 = some here))).all
      (fun x => !(s.migrates x.1 && s.moreToMove x.1 d))) = true := by
    rw [List.all_eq_true]
    intro x hxm
    obtain ⟨hin, hcl⟩ := List.mem_filter.1 hxm
    rw [Bool.not_eq_true', ← Bool.not_eq_true, Bool.and_eq_true]
    exact (hr x hin (of_decide_eq_true hcl)).2
  have hgo : exec (.thermalMigrate d cores) s = .next ((moveNoted s d cores).preemptDrove d 2) := by
    rw [hx, execThermalMigrate, hc]
    refine congrArg Host.Outcome.next (if_pos ?_)
    rw [hmoving, hfirst, hmode, hot, hm, hset, List.all_eq_true.2 hcool]
    rfl
  have hdm : (tabGet (moveNoted s d cores).droves d).isSome = true := by
    rw [moveNoted, State.modDrove_droves, Laws.tabGet_tabMod, if_pos rfl, Option.isSome_map, hd]
  have hdr := drove_moveNoted (cores := cores) hd
  obtain ⟨hp, hs, hsave⟩ : (s.drove d).phase = .resident ∧ (s.drove d).started = true ∧ s.canSave d = true := by
    simp only [State.migrates, Bool.and_eq_true, decide_eq_true_eq] at hm
    tauto
  have hfin := drove_preemptDrove (trigger := 2) hdm (by rw [hdr]; exact hs) (by rw [hdr]; exact hp) (canSave_moveNoted hd ▸ hsave)
  exact ⟨_, hgo, by rw [hfin], by rw [hfin, hdr], by rw [hfin, hdr]; rfl⟩

/-! ### For a slice -/

theorem mem_insertKey {x y : List Nat × Nat} {l : List (List Nat × Nat)} (h : y ∈ insertKey x l) : y = x ∨ y ∈ l := by
  induction l with
  | nil => exact .inl (List.mem_singleton.1 h)
  | cons z r ih =>
    rw [insertKey] at h
    split at h
    · exact List.mem_cons.1 h
    · rcases List.mem_cons.1 h with rfl | h
      · exact .inr List.mem_cons_self
      · exact (ih h).imp id (List.mem_cons_of_mem _)

theorem mem_sortKeys {n : Nat} {l : List (List Nat × Nat)} (h : n ∈ sortKeys l) : ∃ x ∈ l, x.2 = n := by
  obtain ⟨y, hy, rfl⟩ := List.mem_map.1 h
  refine ⟨y, ?_, rfl⟩
  clear h
  induction l with
  | nil => exact hy
  | cons x r ih =>
    rcases mem_insertKey hy with rfl | hr
    · exact List.mem_cons_self
    · exact List.mem_cons_of_mem _ (ih hr)

theorem mem_onePerGbar {d : Nat} {pool seen : List Nat} (h : d ∈ s.onePerGbar pool seen) : d ∈ pool := by
  induction pool generalizing seen with
  | nil => exact h
  | cons x r ih =>
    rw [State.onePerGbar] at h
    split at h
    · exact List.mem_cons_of_mem _ (ih h)
    · rcases List.mem_cons.1 h with rfl | h
      · exact List.mem_cons_self
      · exact List.mem_cons_of_mem _ (ih h)

/-- Of droves that have started only those offered are chosen. -/
theorem mem_enough {c : Cand} {d : Nat} {pool chosen : List Nat} (hp : ∀ v ∈ pool, (s.drove v).started = true)
    (h : d ∈ s.enough c pool chosen) : d ∈ chosen ∨ d ∈ pool := by
  induction pool generalizing chosen with
  | nil => exact absurd h List.not_mem_nil
  | cons v r ih =>
    have hv : s.early v = false := by rw [State.early, hp v List.mem_cons_self]; rfl
    have hnext : d ∈ chosen ++ [v] → d ∈ chosen ∨ d ∈ v :: r := fun hd =>
      (List.mem_append.1 hd).imp id fun hd => List.mem_cons.2 (.inl (List.mem_singleton.1 hd))
    rw [State.enough, hv, if_neg Bool.false_ne_true] at h
    split at h
    · exact hnext h
    · rcases ih (fun u hu => hp u (List.mem_cons_of_mem _ hu)) h with hd | hd
      · exact hnext hd
      · exact .inr (List.mem_cons_of_mem _ hd)

/-- The cores of a victim are kept for a placement. -/
def coresKept (c : Cand) (t : State) (v : Nat) : State :=
  let cores := (t.drove v).wgs.map (fun w => (t.wg w).core)
  { t with reserved := t.reserved ++ cores.map (fun k => (k, c.grid)) }

/-- One victim is pre-empted. -/
def takeVictim (c : Cand) (trigger : Nat) (t : State) (v : Nat) : State := (coresKept c t v).preemptDrove v trigger

/-- Where a started drove is pre-empted, no other changes, and it stays started. -/
theorem droves_but_preempted {v trigger : Nat} (h : (s.drove v).started = true) (d : Nat) :
    (d ≠ v → (s.preemptDrove v trigger).drove d = s.drove d) ∧ ((s.preemptDrove v trigger).drove d).started = (s.drove d).started := by
  unfold State.drove
  rw [droves_preemptDrove h]
  split
  · rw [Laws.tabGet_tabMod]
    split
    next e => subst e; exact ⟨fun hd => absurd rfl hd, by cases tabGet s.droves d <;> rfl⟩
    next => exact ⟨fun _ => rfl, rfl⟩
  · exact ⟨fun _ => rfl, rfl⟩

theorem drove_takeVictim {c : Cand} {trigger v : Nat} (h : (s.drove v).started = true) (d : Nat) :
    (d ≠ v → (takeVictim c trigger s v).drove d = s.drove d) ∧ ((takeVictim c trigger s v).drove d).started = (s.drove d).started :=
  droves_but_preempted (s := coresKept c s v) h d

/-- A drove that changes where started victims are taken is one of them. -/
theorem mem_of_takeVictims {c : Cand} {trigger d : Nat} {vs : List Nat} {t : State} (hv : ∀ v ∈ vs, (t.drove v).started = true)
    (h : (vs.foldl (takeVictim c trigger) t).drove d ≠ t.drove d) : d ∈ vs := by
  induction vs generalizing t with
  | nil => exact absurd rfl h
  | cons v r ih =>
    have hk := drove_takeVictim (c := c) (trigger := trigger) (hv v List.mem_cons_self)
    by_cases e : d = v
    · exact List.mem_cons.2 (.inl e)
    · refine List.mem_cons_of_mem _ (ih (fun u hu => (hk u).2.trans (hv u (List.mem_cons_of_mem _ hu))) ?_)
      rwa [(hk d).1 e]

theorem mem_pool_of_takeVictims {c : Cand} {trigger d : Nat} {pool : List Nat} (hp : ∀ v ∈ pool, (s.drove v).started = true)
    (h : (s.takeVictims c trigger pool).drove d ≠ s.drove d) : d ∈ pool := by
  unfold State.takeVictims at h
  extract_lets gone vs at h
  have hvs : ∀ v ∈ vs, v ∈ pool := by
    intro v hv
    obtain ⟨hin, hgone⟩ := List.mem_filter.1 hv
    rcases mem_enough (fun u hu => hp u (mem_onePerGbar hu)) hin with hg | hpl
    · simp [hg] at hgone
    · exact mem_onePerGbar hpl
  split at h
  · exact absurd rfl h
  · exact hvs d (mem_of_takeVictims (fun v hv => hp v (hvs v hv)) h)

/-- The droves a slice may take: started and resident ones of other contexts and equal priority that have had their slice. -/
theorem mem_slicePool {grid d : Nat} (ht : ∀ x ∈ s.droves, s.drove x.1 = x.2) (h : d ∈ s.slicePool grid) :
    (s.drove d).phase = .resident ∧ (s.drove d).started = true ∧ (s.grid (s.drove d).grid).prio = (s.grid grid).prio ∧
      (s.grid (s.drove d).grid).ctx ≠ (s.grid grid).ctx ∧ (s.grid (s.drove d).grid).deterministic = false ∧
      (s.drove d).placed + s.sched.tslice * 1000 ≤ s.time.toNat := by
  obtain ⟨y, hy, rfl⟩ := mem_sortKeys h
  obtain ⟨x, hx, rfl⟩ := List.mem_map.1 hy
  obtain ⟨hin, hok⟩ := List.mem_filter.1 hx
  simp only [State.victimOk, State.early, Bool.and_eq_true, decide_eq_true_eq, Bool.not_eq_true', Bool.not_not, ← ht x hin] at hok
  obtain ⟨⟨⟨⟨hvict, hs⟩, hpr⟩, hdet⟩, hsl⟩ := hok
  obtain ⟨⟨⟨⟨hph, hctx⟩, -⟩, -⟩, -⟩ := hvict
  exact ⟨hph, by simpa using hs, hpr, hctx, hdet, hsl⟩

theorem timesliceExpire_spec (grid : Nat) (c : Cand) (hc : firstCand (s.cands.filter (fun c => decide (c.grid = grid))) = some c)
    (ht : ∀ x ∈ s.droves, s.drove x.1 = x.2) :
    (s.sched.modes.testBit 1 = true → s.waitFrom c + s.sched.tslice * 1000 ≤ s.time.toNat → s.canPlace c [] = false →
      ∃ t, exec (.timesliceExpire grid) s = .next t ∧ ∀ d, t.drove d ≠ s.drove d →
        (s.drove d).phase = .resident ∧ (s.drove d).started = true ∧ (s.grid (s.drove d).grid).prio = (s.grid grid).prio ∧
        (s.grid (s.drove d).grid).ctx ≠ (s.grid grid).ctx ∧ (s.grid (s.drove d).grid).deterministic = false ∧
        (s.drove d).placed + s.sched.tslice * 1000 ≤ s.time.toNat) ∧
    ((s.sched.modes.testBit 1 = false ∨ s.time.toNat < s.waitFrom c + s.sched.tslice * 1000 ∨ s.canPlace c [] = true) →
      exec (.timesliceExpire grid) s = .next s) := by
  have hx : exec (.timesliceExpire grid) s = execTimesliceExpire grid s := rfl
  rw [hx, execTimesliceExpire, hc]
  refine ⟨fun hm hw hp => ⟨_, rfl, fun d hd => mem_slicePool ht ?_⟩, fun h => congrArg Host.Outcome.next (if_neg ?_)⟩
  · split at hd
    · exact mem_pool_of_takeVictims (fun v hv => (mem_slicePool ht hv).2.1) hd
    · exact absurd rfl hd
  · simp only [Bool.and_eq_true, decide_eq_true_eq, Bool.not_eq_true']
    rintro ⟨⟨hm, hw⟩, hp⟩
    rcases h with h | h | h
    · exact absurd hm (ne_true_of_eq_false h)
    · exact absurd hw (Nat.not_le.2 h)
    · exact absurd h (ne_true_of_eq_false hp)

end Sys2Proof.Claims
end
section
/-! # Waves end -/

namespace Sys2Proof.Claims

open Sys2Proof Sys2Proof.Machine

variable {a s : State}

/-! ## Waves end

`EndsKept a t`: the workgroups of `a` stand in `t`, each with the waves it counted as ended, and no others. -/

/-- The workgroups, each with its waves that have ended. -/
def wgEnds (s : State) : Tab (List Nat) := s.wgs.map (fun g => (g.1, g.2.ended))

def EndsKept (a t : State) : Prop := wgEnds t = wgEnds a

theorem EndsKept.refl : EndsKept a a := rfl

theorem EndsKept.ite {c : Prop} [Decidable c] {t u : State} (ht : EndsKept a t) (hu : EndsKept a u) : EndsKept a (if c then t else u) := by
  split <;> assumption

theorem EndsKept.foldl {α : Type} {f : State → α → State} {l : List α} (hf : ∀ t x, EndsKept a t → EndsKept a (f t x))
    (h : EndsKept a s) : EndsKept a (l.foldl f s) := List.foldlRecOn l f h fun t k x _ => hf t x k

theorem EndsKept.hub {t : State} (k : HubSide s t) (h : EndsKept a s) : EndsKept a t := by
  unfold EndsKept wgEnds
  rw [k.wgs]
  exact h

theorem EndsKept.modWg {id} {f : Workgroup → Workgroup} (hf : ∀ g, (f g).ended = g.ended) (h : EndsKept a s) :
    EndsKept a (s.modWg id f) := by
  unfold EndsKept wgEnds
  rw [State.modWg_wgs, map_tabMod fun x => by rw [hf]]
  exact h

theorem EndsKept.modCtx {c f} (h : EndsKept a s) : EndsKept a (s.modCtx c f) := h
theorem EndsKept.modCore {c f} (h : EndsKept a s) : EndsKept a (s.modCore c f) := h
theorem EndsKept.modWave {key f} (h : EndsKept a s) : EndsKept a (s.modWave key f) := h
theorem EndsKept.modDrove {id f} (h : EndsKept a s) : EndsKept a (s.modDrove id f) := h
theorem EndsKept.modQuarter {q f} (h : EndsKept a s) : EndsKept a (s.modQuarter q f) := h
theorem EndsKept.dropTethers {p} (h : EndsKept a s) : EndsKept a (s.dropTethers p) := h

theorem EndsKept.setStatus {wg index words} (h : EndsKept a s) : EndsKept a (s.setStatus wg index words) := by
  have h1 : EndsKept a (s.modWg wg fun g => { g with
      status := modAt g.status index (fun t => words.foldl (fun t x => tabSet t x.1 x.2) t) }) := .modWg (fun _ => rfl) h
  unfold State.setStatus
  extract_lets s1 base
  refine .ite h1 (.foldl (fun t x k => .ite (.hub (.hubPost .refl) k) k) h1)

theorem EndsKept.performLine {core line} (h : EndsKept a s) : EndsKept a (s.performLine core line) := by
  unfold State.performLine
  split
  · exact h
  · split
    · exact h
    · exact h

theorem EndsKept.performAll {core} (h : EndsKept a s) : EndsKept a (s.performAll core) :=
  EndsKept.foldl (l := (s.core core).committed.map Committed.line) (fun _ _ k => .performLine k) h

theorem EndsKept.gbarCheck {grid} (h : EndsKept a s) : EndsKept a (s.gbarCheck grid) := by
  unfold State.gbarCheck
  split
  · extract_lets mine s1
    have h1 : EndsKept a s1 := .foldl (fun _ _ k => .performAll k) h
    exact .ite h1 h1
  · exact h

theorem EndsKept.commit {wg} (h : EndsKept a s) : EndsKept a (s.commit wg) :=
  .modDrove (.modWg (fun _ => rfl) (.modCore h))

theorem EndsKept.leaveCore {wg} (h : EndsKept a s) : EndsKept a (s.leaveCore wg) := by
  unfold State.leaveCore
  extract_lets core mine s1 s2 s3
  have h2 : EndsKept a s2 := h
  exact .modCore (.modWg (fun _ => rfl) h2)

theorem EndsKept.freeAreas {wgs} (h : EndsKept a s) : EndsKept a (s.freeAreas wgs) := by
  refine .foldl (fun t g k => ?_) h
  extract_lets
  split
  · exact .modWg (fun _ => rfl) (.modCtx k)
  · exact k

theorem EndsKept.endWg {wg} (h : EndsKept a s) : EndsKept a (s.endWg wg) := .freeAreas (.leaveCore (.commit (.dropTethers h)))

theorem EndsKept.endDrove {d} (h : EndsKept a s) : EndsKept a (s.endDrove d) := .ite (.modDrove h) h

theorem EndsKept.saveCheck {d} (h : EndsKept a s) : EndsKept a (s.saveCheck d) := by
  unfold State.saveCheck
  extract_lets
  split
  · exact .ite h (.ite (.modDrove h) (.modDrove (.foldl (fun _ _ k => .leaveCore (.performAll k)) (s := (s.freshId).2) h)))
  all_goals exact h

theorem EndsKept.resumeWait {key} (h : EndsKept a s) : EndsKept a (s.resumeWait key) := by
  unfold State.resumeWait
  extract_lets w deadline wait s1 f
  have h1 : EndsKept a s1 := .modWave h
  clear_value s1 wait
  split
  case h_1 | h_2 => exact .ite (.modWave h1) h1
  all_goals exact h1

theorem EndsKept.returnOne {key} (h : EndsKept a s) : EndsKept a (s.returnOne key) := .modCore (.resumeWait (.modWave h))

theorem EndsKept.adoptOps {key} (h : EndsKept a s) : EndsKept a (s.adoptOps key) := .ite (.modWave h) h

theorem EndsKept.takeDue {key} (h : EndsKept a s) : EndsKept a (s.takeDue key) := .modWg (fun _ => rfl) (.modWave h)

theorem EndsKept.restoreCheck {d} (h : EndsKept a s) : EndsKept a (s.restoreCheck d) :=
  .ite (.gbarCheck (.foldl (fun _ _ k => .modWave k) (.modDrove (.freeAreas (.foldl (fun _ _ k => .modCore k)
    (.foldl (fun _ _ k => .takeDue (.returnOne (.adoptOps k))) h)))))) h

/-- What a table reads once its entries have been read. -/
theorem tabGet_map {α β : Type} (f : α → β) (t : Tab α) (k : Nat) :
    tabGet (t.map (fun x => (x.1, f x.2)) : Tab β) k = (tabGet t k).map f := by
  induction t with
  | nil => rfl
  | cons x r ih =>
    obtain ⟨j, v⟩ := x
    rw [List.map_cons, tabGet, tabGet, ih]
    split <;> rfl

theorem EndsKept.ended {t : State} (h : EndsKept a t) (wg : Nat) :
    (tabGet t.wgs wg).map Workgroup.ended = (tabGet a.wgs wg).map Workgroup.ended := by
  rw [← tabGet_map, ← tabGet_map]
  exact congrArg (tabGet · wg) h

/-! ### The end of a wave -/

theorem done_of_waveOver {w : Wave} (h : waveOver w) : w.done = true := by
  obtain ⟨⟨l, hl, hls⟩, hlive, howed, hm, hf, ht⟩ := h
  have h1 : w.launched ≠ 0#32 := fun h0 => by
    have := maskOf_eq_zero.1 h0 l hl
    exact hls (by simpa using this)
  have h2 : w.live = 0#32 := maskOf_eq_zero.2 hlive
  have h3 : w.owedNothing = true := List.all_eq_true.2 howed
  simp [Wave.done, h1, h2, h3, hm, hf, ht]

theorem copiesOwed_iff (wg index : Nat) : s.copiesOwed wg index = true ↔
    (∀ k < (s.wg wg).nwaves, k ≠ index → k ∈ (s.wg wg).ended) ∧ ∃ r ∈ (s.core (s.wg wg).core).drover, r.wg = wg := by
  simp only [State.copiesOwed, Bool.and_eq_true, List.all_eq_true, List.mem_range, Bool.or_eq_true, decide_eq_true_eq,
    List.contains_iff_mem, List.any_eq_true]
  exact and_congr_left' (forall₂_congr fun _ _ => or_iff_not_imp_left)

/-- The slot of a wave that has ended is free, and its workgroup counts it. -/
def slotFreed (s : State) (key : Nat) (w : Wave) : State :=
  let s1 := (s.padAll w.wg).setStatus w.wg w.index [(0, 2#32)]
  (({ s1 with waves := tabErase s1.waves key } : State).dropTethers
    (fun k => decide (k = Waiter.wave key) || decide (k = Waiter.saved w.wg w.index))).modWg w.wg
    (fun g => { g with ended := g.ended ++ [w.index] })

/-- What an ended wave's workgroup, drove and grid have waited for goes on. -/
noncomputable def afterEnd (s2 : State) (key wg d : Nat) : State :=
  let s3 := if (s2.wg wg).over then s2.endWg wg else s2
  let s4 := ((s3.endDrove d).saveCheck d).restoreCheck d
  (s4.modQuarter (keyQuarter key) (fun q => if q.cur = some key then { q with cur := none, choose := true } else q)).gbarCheck
    (s4.drove d).grid

theorem Ebbs.afterEnd {key wg d} (h : Ebbs a s) : Ebbs a (afterEnd s key wg d) :=
  .gbarCheck (.modQuarter (.restoreCheck (.saveCheck (.endDrove (.ite (.endWg h) h)))))

theorem EndsKept.afterEnd {key wg d} (h : EndsKept a s) : EndsKept a (afterEnd s key wg d) :=
  .gbarCheck (.modQuarter (.restoreCheck (.saveCheck (.endDrove (.ite (.endWg h) h)))))

theorem waveEnd_eq {key : Nat} {w : Wave} (hw : tabGet s.waves key = some w) : exec (.waveEnd key) s =
    if (!w.done || s.copiesOwed w.wg w.index) = true then .next s
    else .next (afterEnd (slotFreed s key w) key w.wg (s.wg w.wg).drove) := by
  have hx : exec (.waveEnd key) s = execWaveEnd key s := rfl
  rw [hx, execWaveEnd, hw]
  rfl

theorem not_mem_slotFreed {key : Nat} {w : Wave} (h : tabRising s.waves = true) : key ∉ (slotFreed s key w).waves.map Prod.fst :=
  not_mem_tabErase ((tabRising_iff_keys.1 h).sublist (Ebbs.setStatus (.padAll .refl) : Ebbs s _).1) key

/-- A workgroup that stands counts the wave. -/
theorem ended_slotFreed {key : Nat} {w : Wave} {g : Workgroup} (h : tabGet (s.padAll w.wg).wgs w.wg = some g) :
    (tabGet (slotFreed s key w).wgs w.wg).map Workgroup.ended = some (g.ended ++ [w.index]) := by
  have hs  : EndsKept (s.padAll w.wg) ((s.padAll w.wg).setStatus w.wg w.index [(0, 2#32)]) := .setStatus .refl
  have hg := hs.ended w.wg
  rw [h] at hg
  obtain ⟨x, hx, hxe⟩ := Option.map_eq_some_iff.1 hg
  rw [slotFreed, State.modWg_wgs, Laws.tabGet_tabMod, if_pos rfl]
  change ((tabGet ((s.padAll w.wg).setStatus w.wg w.index [(0, 2#32)]).wgs w.wg).map _).map _ = _
  rw [hx, Option.map_some, Option.map_some, hxe]

theorem waveEnd_spec (key : Nat) (w : Wave) (hw : tabGet s.waves key = some w) (hr : tabRising s.waves = true) (ho : waveOver w) :
    let last := ∀ k < (s.wg w.wg).nwaves, k ≠ w.index → k ∈ (s.wg w.wg).ended
    let copies := ∃ r ∈ (s.core (s.wg w.wg).core).drover, r.wg = w.wg
    ((last ∧ copies) → exec (.waveEnd key) s = .next s) ∧
    (¬ (last ∧ copies) →
      ∃ t, exec (.waveEnd key) s = .next t ∧ tabGet t.waves key = none ∧
        (tabGet (s.padAll w.wg).wgs w.wg = none ∨ w.index ∈ (t.wg w.wg).ended)) := by
  intro last copies
  rw [waveEnd_eq hw, done_of_waveOver ho]
  refine ⟨fun h => if_pos ((copiesOwed_iff ..).2 h), fun h => ⟨_, if_neg (mt (copiesOwed_iff ..).1 h), ?_, ?_⟩⟩
  · exact tabGet_eq_none_iff.2 fun hk => not_mem_slotFreed hr ((Ebbs.afterEnd .refl : Ebbs (slotFreed s key w) _).1.subset hk)
  · cases hg : tabGet (s.padAll w.wg).wgs w.wg with
    | none => exact .inl rfl
    | some g =>
      have hk : EndsKept (slotFreed s key w) (afterEnd (slotFreed s key w) key w.wg (s.wg w.wg).drove) := .afterEnd .refl
      obtain ⟨x, hx, hxe⟩ := Option.map_eq_some_iff.1 ((hk.ended w.wg).trans (ended_slotFreed hg))
      right
      rw [State.wg, hx, Option.getD_some, hxe]
      exact List.mem_append_right _ (List.mem_singleton.2 rfl)

/-- Settles O48: each clause by what its event's step keeps and erases. -/
theorem workEnds : Obligations.WorkEnds :=
  ⟨fun _ grid c hc ht => timesliceExpire_spec grid c hc ht,
    fun _ d hd hp => debugPreempt_spec d hd hp,
    fun _ d cores hd hmode hm here hc hot hr hset hcool => thermalMigrate_spec d cores hd hmode hm here hc hot hr hset hcool,
    fun _ cluster now rest h => sensors_spec cluster now rest h,
    fun _ key w hw hr ho => ⟨(waveEnd_spec key w hw hr ho).1, fun h _ _ => (waveEnd_spec key w hw hr ho).2 h⟩,
    fun _ grid => gridRetire_spec grid,
    fun _ grid h => gridOver_releases grid h,
    fun _ ctx hh hn hl he => contextEnable_spec ctx hh hn hl he,
    fun _ ctx hl hc hg hk => contextKill_leaves_nothing ctx hl hc hg hk⟩

end Sys2Proof.Claims
end

section
/-! # Records and texels as the manual reads them

The model reads the fields of a record from its number, and a texel coordinate in whole 1/256ths; the claims read the record's
bits and the exact coordinate. -/

namespace Sys2Proof.Claims

open Sys2Proof Sys2Proof.Machine

/-! ## Records -/

/-- A field of a word, read from its number. -/
theorem nbits_toNat {n : Nat} (x : BitVec n) (hi lo : Nat) : nbits x.toNat hi lo = (x.extractLsb' lo (hi + 1 - lo)).toNat := by
  simp [nbits, BitVec.extractLsb'_toNat, Nat.shiftRight_eq_div_pow]

theorem recBad_iff (x : BitVec 128) : recBad x = true ↔ badRecord x := by
  simp [recBad, badRecord, Rec.ofBits, nbits_toNat, ← BitVec.toNat_inj, or_assoc]

/-! ## Texels (R206) -/

/-- The texel and the 1/256ths of it at which a coordinate lies. -/
def texelSplit (x : Rat) : Int × Nat := (x.floor, ((x - x.floor) * 256).floor.toNat)

/-- Both from the coordinate in whole 1/256ths. -/
theorem texelSplit_of_floor {x : Rat} {k : Int} (h : ⌊x * 256⌋ = k) : texelSplit x = (k / 256, (k % 256).toNat) := by
  obtain ⟨hlo, hhi⟩ := Int.floor_eq_iff.1 h
  have hk : (k : Rat) = 256 * (k / 256 : Int) + (k % 256 : Int) := by exact_mod_cast (Int.mul_ediv_add_emod k 256).symm
  have h0 : (0 : Rat) ≤ (k % 256 : Int) := by exact_mod_cast Int.emod_nonneg k (by decide)
  have h1 : ((k % 256 : Int) : Rat) + 1 ≤ 256 := by exact_mod_cast Int.emod_lt_of_pos k (by decide)
  have hfloor : ⌊x⌋ = k / 256 := Int.floor_eq_iff.2 ⟨by linarith, by linarith⟩
  have hrest : ⌊(x - (k / 256 : Int)) * 256⌋ = k % 256 := Int.floor_eq_iff.2 ⟨by linarith, by linarith⟩
  change (⌊x⌋, ⌊(x - ⌊x⌋) * 256⌋.toNat) = _
  rw [hfloor, hrest]

/-- A clamp from -1 to `n`, in whole 1/256ths. -/
theorem floor_clamp (x : Rat) (n : Nat) :
    ⌊(if x < -1 then -1 else if (n : Rat) < x then (n : Rat) else x) * 256⌋ =
      if ⌊x * 256⌋ < -256 then -256 else if (n : Int) * 256 < ⌊x * 256⌋ then (n : Int) * 256 else ⌊x * 256⌋ := by
  have hlo : ⌊x * 256⌋ < -256 ↔ x < -1 := by
    rw [Int.floor_lt]; push_cast; constructor <;> intro h <;> linarith
  by_cases h1 : x < -1
  · rw [if_pos h1, if_pos (hlo.2 h1)]; norm_num
  rw [if_neg h1, if_neg (mt hlo.1 h1)]
  by_cases h2 : (n : Rat) < x
  · have hge : (n : Int) * 256 ≤ ⌊x * 256⌋ := by rw [Int.le_floor]; push_cast; linarith
    have hn : ⌊(n : Rat) * 256⌋ = (n : Int) * 256 := by exact_mod_cast Int.floor_natCast (R := Rat) (n * 256)
    rw [if_pos h2, hn]
    split <;> omega
  · have hle : ⌊x * 256⌋ ≤ (n : Int) * 256 := by
      have : ((⌊x * 256⌋ : Int) : Rat) ≤ ((n : Int) * 256 : Int) := (Int.floor_le _).trans (by push_cast; linarith)
      exact_mod_cast this
    rw [if_neg h2, if_neg (by omega)]

/-- `c × n − 0.5` in whole 1/256ths. -/
theorem floor_scaled (neg : Bool) (m n : Nat) (e : Int) :
    ⌊((if neg then -1 else 1) * (m : Rat) * (2 : Rat) ^ e * (n : Rat) - 1 / 2) * 256⌋ =
      if 0 ≤ e then (if neg then -(m : Int) else m) * 2 ^ e.toNat * n * 256 - 128
      else ((if neg then -(m : Int) else m) * n * 256) / 2 ^ (-e).toNat - 128 := by
  have hv : (if neg then -1 else 1) * (m : Rat) = ((if neg then -(m : Int) else m : Int) : Rat) := by cases neg <;> simp
  rw [hv]
  generalize (if neg then -(m : Int) else m : Int) = v
  by_cases he : 0 ≤ e
  · obtain ⟨k, rfl⟩ := Int.eq_ofNat_of_zero_le he
    rw [if_pos he, Int.floor_eq_iff]
    push_cast [zpow_natCast, Int.toNat_natCast]
    constructor <;> linarith
  · obtain ⟨k, hk⟩ := Int.eq_ofNat_of_zero_le (show 0 ≤ -e by omega)
    obtain rfl : e = -(k : Int) := by omega
    rw [if_neg he, neg_neg, Int.toNat_natCast]
    have hx : ((v : Rat) * 2 ^ (-(k : Int)) * n - 1 / 2) * 256 = ((v * n * 256 : Int) : Rat) / ((2 ^ k : Nat) : Rat) - (128 : Nat) := by
      push_cast [zpow_neg, zpow_natCast]
      ring
    rw [hx, Int.floor_sub_natCast, Int.floor_div_natCast, Int.floor_intCast]
    push_cast
    rfl

/-- The model's position of a texel is the manual's coordinate, split. -/
theorem texelPos_eq (c : Word) (n : Nat) : texelPos c n = texelSplit (texCoord c n) := by
  unfold texelPos texCoord
  cases fp32.value c.toNat with
  | nan sig =>
    dsimp only
    rw [texelSplit_of_floor (k := -128) (by norm_num), if_neg (by decide), if_neg (by omega)]
  | inf neg =>
    cases neg
    · have hn : ⌊(n : Rat) * 256⌋ = (n : Int) * 256 := by exact_mod_cast Int.floor_natCast (R := Rat) (n * 256)
      simp only [Bool.false_eq_true, if_false]
      rw [texelSplit_of_floor hn, if_neg (by omega), if_neg (by omega)]
    · simp only [if_true]
      rw [texelSplit_of_floor (k := -256) (by norm_num), if_neg (by decide), if_neg (by omega)]
  | fin neg m e =>
    dsimp only
    rw [texelSplit_of_floor (floor_clamp _ n), floor_scaled]

theorem clampTexel_eq (n : Nat) (x : Int) : clampTexel x n = (max 0 (min x ((n : Int) - 1))).toNat := by
  unfold clampTexel
  split
  · omega
  · split <;> omega

theorem texelsOf_eq (width height : Nat) (u v : Word) : texelsOf width height u v = texelsAt width height u v := by
  simp only [texelsOf, texelsAt, texelPos_eq, clampTexel_eq, texelSplit]

end Sys2Proof.Claims
end

section
/-! # The checks of an access through a record, and of one by offset

Every access through a record makes its checks in one order (`Access.guarded`): the right to write, the elements, the pages. The
loads, the stores and the atomics of the model do so with their own continuations (`Access.Answers`), so each outcome of a check
is proved once for them all. -/

namespace Sys2Proof.Claims

open Sys2Proof Sys2Proof.Machine

variable {s : State} {a : Access}

/-! ## The checks of the elements (R47, R48, R51) -/

/-- The filters of the model's checks leave an element where the checks of R47 fail it. -/
theorem checkElems_eq (s : State) (a : Access) : s.checkElems (a.record s) a.q.val a.w a.w a.es =
    if (a.record s).oob && a.es.any outside then some (a.trap s 0x06 outside)
    else if a.es.any (uneven a.w) then some (a.trap s 0x05 (uneven a.w))
    else if a.es.any (beyond a.w) then some (a.trap s 0x07 (beyond a.w))
    else none := by
  have hm : (a.es.filter Elem.inb).filter (fun e => decide (e.va % (a.w : Int) ≠ 0)) = a.es.filter (uneven a.w) := by
    rw [List.filter_filter]; exact List.filter_congr fun e _ => Bool.and_comm _ _
  have hf : (a.es.filter Elem.inb).filter (fun e => decide ((2 : Int) ^ 48 < e.va + a.w)) = a.es.filter (beyond a.w) := by
    rw [List.filter_filter]; exact List.filter_congr fun e _ => Bool.and_comm _ _
  have he (p : Elem → Bool) : (!(a.es.filter p).isEmpty) = a.es.any p := by
    rw [Bool.eq_iff_iff]; simp
  unfold State.checkElems
  simp only [hm, hf, he]
  rfl

theorem checkElems_outside (ho : (a.record s).oob = true) (h : ∃ e ∈ a.es, outside e = true) :
    s.checkElems (a.record s) a.q.val a.w a.w a.es = some (a.trap s 0x06 outside) := by
  rw [checkElems_eq, ho, List.any_eq_true.2 h]; rfl

theorem not_outside (hb : (a.record s).oob = true → ∀ e ∈ a.es, outside e = false) :
    ((a.record s).oob && a.es.any outside) = false := by
  cases ho : (a.record s).oob
  · rfl
  · simpa using hb ho

theorem checkElems_uneven (hb : (a.record s).oob = true → ∀ e ∈ a.es, outside e = false)
    (h : ∃ e ∈ a.es, uneven a.w e = true) :
    s.checkElems (a.record s) a.q.val a.w a.w a.es = some (a.trap s 0x05 (uneven a.w)) := by
  rw [checkElems_eq, not_outside hb, List.any_eq_true.2 h]; rfl

theorem checkElems_beyond (hb : (a.record s).oob = true → ∀ e ∈ a.es, outside e = false)
    (hu : ∀ e ∈ a.es, uneven a.w e = false) (h : ∃ e ∈ a.es, beyond a.w e = true) :
    s.checkElems (a.record s) a.q.val a.w a.w a.es = some (a.trap s 0x07 (beyond a.w)) := by
  have hu' : a.es.any (uneven a.w) = false := by simpa using hu
  rw [checkElems_eq, not_outside hb, hu', List.any_eq_true.2 h]; rfl

theorem checkElems_fits (h : a.Fits s) : s.checkElems (a.record s) a.q.val a.w a.w a.es = none := by
  have hb : (a.record s).oob = true → ∀ e ∈ a.es, outside e = false := fun ho e he => by simp [outside, h.bounds ho e he]
  have hu : a.es.any (uneven a.w) = false := by simpa using h.aligned
  have hf : a.es.any (beyond a.w) = false := by simpa using h.below
  rw [checkElems_eq, not_outside hb, hu, hf]; rfl

/-! ## The pages of the elements (R50, R386) -/

/-- An element in bounds that may not be accessed. -/
def Access.refuses (a : Access) (s : State) (e : Elem) : Bool := e.inb && s.refusedElem s.curCtx (e, a.page s e)
/-- An element in bounds whose page is absent. -/
def Access.awaits (a : Access) (s : State) (e : Elem) : Bool := e.inb && (a.page s e).isAbsent

/-- The elements that meet a condition on their translation, of those that are in bounds. -/
theorem filter_pages (a : Access) (s : State) (p : Elem × Trans → Bool) :
    (((a.es.filter Elem.inb).map (fun e => (e, a.page s e))).filter p).map Prod.fst =
      a.es.filter (fun e => e.inb && p (e, a.page s e)) := by
  rw [List.filter_map, List.map_map, List.filter_filter, show Prod.fst ∘ (fun e => (e, a.page s e)) = id from rfl, List.map_id]
  exact List.filter_congr fun e _ => Bool.and_comm _ _


theorem refusedElem_of_isBad {ctx : Nat} {x : Elem × Trans} (h : x.2.isBad = true) : s.refusedElem ctx x = true := by
  obtain ⟨e, t⟩ := x
  cases t with
  | malformed pte => rfl
  | ok pa leaf page | absent | denied => cases h

/-- Of the elements refused one met a malformed entry, as of all. -/
theorem any_isBad_refused (a : Access) (s : State) :
    (((a.es.filter Elem.inb).map (fun e => (e, a.page s e))).filter (s.refusedElem s.curCtx)).any (fun y => y.2.isBad) =
      a.es.any (fun e => e.inb && (a.page s e).isBad) := by
  rw [Bool.eq_iff_iff]
  simp only [List.any_eq_true, List.mem_filter, List.mem_map, Bool.and_eq_true]
  constructor
  · rintro ⟨_, ⟨⟨e, ⟨he, hi⟩, rfl⟩, -⟩, hb⟩
    exact ⟨e, he, hi, hb⟩
  · rintro ⟨e, he, hi, hb⟩
    exact ⟨_, ⟨⟨e, ⟨he, hi⟩, rfl⟩, refusedElem_of_isBad hb⟩, hb⟩

/-- With an element refused the access takes ACCESS for all of them, and meets the first first. -/
theorem reach_refused (h : ∃ e ∈ a.es, a.refuses s e = true) :
    ∃ e ∈ a.es, a.refuses s e = true ∧ s.reach a.q.val (a.need s) a.es =
      .access (a.trap s 0x07 (a.refuses s)) (a.es.any (fun e => e.inb && (a.page s e).isBad)) e.a := by
  have hmap := filter_pages a s (s.refusedElem s.curCtx)
  have hbad := any_isBad_refused a s
  rcases hl : ((a.es.filter Elem.inb).map (fun e => (e, a.page s e))).filter (s.refusedElem s.curCtx) with _ | ⟨x, r⟩
  · obtain ⟨e, he, hr⟩ := h
    rw [hl, List.map_nil, eq_comm, List.filter_eq_nil_iff] at hmap
    exact absurd hr (hmap e he)
  · have hx : x.1 ∈ a.es.filter (a.refuses s) := by
      unfold Access.refuses
      rw [← hmap, hl]
      exact List.mem_cons_self
    obtain ⟨hmem, href⟩ := List.mem_filter.1 hx
    refine ⟨x.1, hmem, href, ?_⟩
    rw [hl] at hmap hbad
    unfold State.reach
    unfold Access.page at hl
    simp only [hl, hbad, hmap]
    rfl

/-- With nothing refused and an absent page, the access waits on the absent ones, the first first. -/
theorem reach_absent (hr : ∀ e ∈ a.es, a.refuses s e = false) (h : ∃ e ∈ a.es, a.awaits s e = true) :
    ∃ ts e l, a.es.filter (a.awaits s) = e :: l ∧ s.reach a.q.val (a.need s) a.es = .some ts (e :: l) := by
  have hnone : ((a.es.filter Elem.inb).map (fun e => (e, a.page s e))).filter (s.refusedElem s.curCtx) = [] := by
    rw [← List.map_eq_nil_iff (f := Prod.fst), filter_pages, List.filter_eq_nil_iff]
    intro e he
    exact ne_true_of_eq_false (hr e he)
  have hmap := filter_pages a s (fun x => x.2.isAbsent)
  rcases hl : a.es.filter (a.awaits s) with _ | ⟨e, l⟩
  · obtain ⟨e, he, hw⟩ := h
    exact absurd hw (List.filter_eq_nil_iff.1 hl e he)
  · refine ⟨(a.es.filter Elem.inb).map (fun e => (e, a.page s e)), e, l, rfl, ?_⟩
    unfold Access.awaits at hl
    rw [hl] at hmap
    unfold State.reach
    unfold Access.page at hnone hmap
    simp only [hnone, hmap]
    rfl

/-! ## Waiting for a page (R386) -/

theorem walkFrom_modCur (f : Wave → Wave) (ctx va : Nat) (l : List (Nat × Nat × Nat)) (table : Nat) :
    (s.modCur f).walkFrom ctx va l table = s.walkFrom ctx va l table := by
  induction l generalizing table with
  | nil => rfl
  | cons x r ih =>
    obtain ⟨lvl, lo, bits⟩ := x
    have hm : (s.modCur f).mem = s.mem := rfl
    have hl (e n : Nat) : (s.modCur f).leafOk e n = s.leafOk e n := rfl
    have ht (e n : Nat) : (s.modCur f).tableOk e n = s.tableOk e n := rfl
    cases r with
    | nil => simp only [State.walkFrom, hm, hl]
    | cons y r =>
      rw [State.walkFrom, State.walkFrom.eq_def s]
      simp only [hm, hl, ht, ih]

/-- A page is asked for alike whatever the issuing wave. -/
theorem only_askPage_modCur (s : State) (f : Wave → Wave) (ctx va kind : Nat) :
    Only (s.askPage ctx va kind) ((s.modCur f).askPage ctx va kind) f := by
  have hw : (s.modCur f).walk ctx va = s.walk ctx va := walkFrom_modCur f ctx va levels _
  have hc : (s.modCur f).ctx ctx = s.ctx ctx := rfl
  unfold State.askPage
  rw [hw, hc]
  dsimp only
  split
  · split
    · exact Only.modCur s f
    · split <;> exact ⟨rfl, rfl, rfl⟩
  · exact Only.modCur s f

/-! ## What an access answers where something stops it -/

/-- The checks of an access in the order they are made: the right to write, the elements, the pages. -/
def Access.guarded (a : Access) (s : State) (missing : List (Elem × Trans) → List Elem → State)
    (whole : List (Elem × Trans) → State) : State :=
  if a.store && (a.record s).rdonly then s.raise (s.elemTrap causeAccess a.q.val a.es)
  else
    match s.checkElems (a.record s) a.q.val a.w a.w a.es with
    | some t => (oobNoted s a).raise t
    | none =>
      match s.reach a.q.val (a.need s) a.es with
      | .access t bad va => (oobNoted s a).refuse t bad va
      | .some ts absent => missing ts absent
      | .all ts => whole ts

/-- `u` is what the checks of an access leave of `s` where one stops it; with `waits` it waits for pages that are absent. -/
def Access.Answers (a : Access) (s u : State) (waits : Prop) : Prop :=
  ∃ missing whole, u = a.guarded s missing whole ∧ (waits → ∀ ts l, missing ts l = s.awaitPage 0 a.q.val l)

theorem reading_answers {q : QReg} {w : Nat} {es : List Elem} {eff : List (Elem × Trans) → State → State} {waits : Prop} :
    (⟨q, w, false, es⟩ : Access).Answers s (s.reading q.val w w (Rec.ofBits (s.src.qreg q.val)) es 0 eff) waits :=
  ⟨_, _, rfl, fun _ _ _ => rfl⟩

theorem recordLoad_answers {q : QReg} {w : Width} {o : Int} {d : VDst} {b : VSrc} {path acq : Bool} {waits : Prop} :
    (⟨q, w.bytes, false, elemsOf (Rec.ofBits (s.src.qreg q.val)) s.active o w.bytes (fun l => s.src.v32 l b)⟩ : Access).Answers s
      (s.recordLoad q w o d b path acq) waits := by
  unfold State.recordLoad
  exact reading_answers

theorem recordStore_answers {q : QReg} {w : Width} {o : Int} {d b : VSrc} {eff : State → State} {waits : Prop} (hw : ¬ waits) :
    (⟨q, w.bytes, true, elemsOf (Rec.ofBits (s.src.qreg q.val)) s.active o w.bytes (fun l => s.src.v32 l b)⟩ : Access).Answers s
      (s.recordStore q w o d b eff) waits :=
  ⟨_, _, rfl, fun k => absurd k hw⟩

theorem atomic_answers {q : QReg} {x : AtomMod} {b : VSrc} {arg : Nat → Nat × Nat} {returning : Bool}
    {eff : Tab (List Word) → List Elem → State → State} {waits : Prop} (hw : waits → returning = true) :
    (⟨q, aopBytes x.op, true, elemsOf (Rec.ofBits (s.src.qreg q.val)) s.active x.off.toInt (aopBytes x.op)
      (fun l => s.src.v32 l b)⟩ : Access).Answers s (s.atomic q x b arg returning eff) waits :=
  ⟨_, _, rfl, fun k _ _ => by rw [hw k]; rfl⟩

/-- An entry that uses a lawful record runs once it passes. -/
theorem recForm_passes {i : Instr} {q : QReg} {eff : State → State} (hp : Passes i s) (h : ¬ badRecord (s.src.qreg q.val)) :
    recForm i q eff s = .next (eff s) :=
  hp.checked (by simpa [← recBad_iff] using h) rfl eff

/-- The elements of SAMPLE, a texel each. -/
theorem sampleElems_eq (s : State) (r : Rec) (w : Nat) (o : Int) (b : VReg) :
    (lanesOf s.active).foldl (fun es l => es ++ (if r.width = 0 ∨ r.height = 0 then [(2 ^ 32 - 1, 0)]
        else texelsOf r.width r.height (s.src.vreg l b.val) (s.src.vreg l (b.val + 1))).map
          (fun x => (⟨l, r.inb x.1 o w, r.addr x.1 o⟩ : Elem))) [] =
      ((lanesOf s.active).map (fun l => (laneTexels s r b l).map (fun y => (⟨l, r.inb y.1 o w, r.addr y.1 o⟩ : Elem)))).flatten := by
  simp only [texelsOf_eq]
  rw [← List.flatMap_eq_foldl, List.flatMap_def]
  rfl

theorem sampleBad_eq_false {q : QReg} {t : Texel} {x : MemMod} {d b : VReg} (h : ¬ illegalNow (.sample q t x d b) s) :
    (recBad (s.src.qreg q.val) || decide ((Rec.ofBits (s.src.qreg q.val)).swz ≠ 1) ||
      decide ((Rec.ofBits (s.src.qreg q.val)).stride ≠ texelBytes t)) = false := by
  change ¬ (badRecord _ ∨ _ ∨ _) at h
  simp only [not_or, ne_eq, Decidable.not_not, ← BitVec.toNat_inj] at h
  obtain ⟨hrec, hswz, hstride⟩ := h
  rw [Bool.eq_false_iff.2 (mt (recBad_iff _).1 hrec)]
  simp only [Rec.ofBits, nbits_toNat, hswz, hstride]
  simp

/-- An ATOM, which of the accesses that write alone waits for pages that a pager serves (R386). -/
def isAtom : Instr → Bool
  | .atom .. => true
  | _ => false

theorem exec_answers {i : Instr} (h : accessRule i s = some a) (hp : Passes i s) (hl : ¬ illegalNow i s) :
    ∃ u, exec i s = .next u ∧ a.Answers s u (a.store = false ∨ isAtom i = true) := by
  have hno {p q : Bool} (hp : p = true) (hq : q = false) : ¬ (p = false ∨ q = true) := by simp [hp, hq]
  unfold accessRule at h
  split at h
  case h_11 => cases h
  all_goals
    injection h with h
    subst h
  case h_1 q w x d b =>
    change ∃ u, execLd q w x d b s = _ ∧ _
    exact ⟨_, recForm_passes hp hl, recordLoad_answers⟩
  case h_2 q w x d b =>
    change ∃ u, execLdro q w x d b s = _ ∧ _
    exact ⟨_, recForm_passes hp hl, recordLoad_answers⟩
  case h_3 q w x d b =>
    change ∃ u, execSt q w x d b s = _ ∧ _
    exact ⟨_, recForm_passes hp hl, recordStore_answers (hno rfl rfl)⟩
  case h_4 q w x d b =>
    change ∃ u, execLdacq q w x d b s = _ ∧ _
    exact ⟨_, recForm_passes hp hl, recordLoad_answers⟩
  case h_5 q w x d b =>
    change ∃ u, execStrel q w x d b s = _ ∧ _
    exact ⟨_, recForm_passes hp hl, recordStore_answers (hno rfl rfl)⟩
  case h_6 q x d b =>
    change ∃ u, execAtom q x d b s = _ ∧ _
    exact ⟨_, recForm_passes hp hl, atomic_answers fun _ => rfl⟩
  case h_7 q x d b =>
    change ∃ u, execRed q x d b s = _ ∧ _
    exact ⟨_, recForm_passes hp hl, atomic_answers fun k => absurd k (hno rfl rfl)⟩
  case h_8 q w x d b =>
    change ∃ u, execLdu q w x d b s = _ ∧ _
    exact ⟨_, recForm_passes hp hl, reading_answers⟩
  case h_9 q wide d b x =>
    change ∃ u, execWaitu q wide d b x s = _ ∧ _
    exact ⟨_, recForm_passes hp hl, reading_answers⟩
  case h_10 q t x d b =>
    change ∃ u, execSample q t x d b s = _ ∧ _
    refine ⟨_, hp.checked (sampleBad_eq_false hl) rfl _, ?_⟩
    unfold State.sample
    dsimp only
    rw [sampleElems_eq]
    exact reading_answers


/-! ## The outcomes -/

section Answers

variable {u : State} {w : Prop}

theorem Access.Answers.rights (h : a.Answers s u w) (hs : a.store = true) (hr : (a.record s).rdonly = true) :
    u = s.raise (a.trap s 0x07 (fun _ => true)) := by
  obtain ⟨missing, whole, rfl, -⟩ := h
  simp only [Access.guarded, hs, hr, Bool.and_self, if_true]
  rw [Access.trap, List.filter_true]
  rfl

theorem Access.Answers.elems (h : a.Answers s u w) (hr : a.store = true → (a.record s).rdonly = false) {t : TrapReq}
    (hc : s.checkElems (a.record s) a.q.val a.w a.w a.es = some t) : u = (oobNoted s a).raise t := by
  obtain ⟨missing, whole, rfl, -⟩ := h
  have hr : (a.store && (a.record s).rdonly) = false := by cases hs : a.store <;> simp_all
  simp only [Access.guarded, hr, hc, Bool.false_eq_true, if_false]

/-- Past the checks of its elements an access goes by its pages. -/
theorem Access.guarded_fits (hf : a.Fits s) (missing : List (Elem × Trans) → List Elem → State)
    (whole : List (Elem × Trans) → State) :
    a.guarded s missing whole = match s.reach a.q.val (a.need s) a.es with
      | .access t bad va => (oobNoted s a).refuse t bad va
      | .some ts absent => missing ts absent
      | .all ts => whole ts := by
  have hr : (a.store && (a.record s).rdonly) = false := by
    have := hf.rights
    cases hs : a.store <;> simp_all
  simp only [Access.guarded, hr, checkElems_fits hf, Bool.false_eq_true, if_false]

theorem Access.Answers.refused (h : a.Answers s u w) (hf : a.Fits s) (hr : ∃ e ∈ a.es, a.refuses s e = true) :
    ∃ e ∈ a.es, a.refuses s e = true ∧
      u = (oobNoted s a).refuse (a.trap s 0x07 (a.refuses s)) (a.es.any (fun e => e.inb && (a.page s e).isBad)) e.a := by
  obtain ⟨missing, whole, rfl, -⟩ := h
  obtain ⟨e, he, href, hreach⟩ := reach_refused hr
  exact ⟨e, he, href, by rw [Access.guarded_fits hf, hreach]⟩

/-- The note of elements out of bounds is none of where the wave runs. -/
theorem refuse_oobNoted (t : TrapReq) (bad : Bool) (va : Nat) :
    (oobNoted s a).refuse t bad va = (if bad then (oobNoted s a).malformed s.curCtx s.curGrid va else oobNoted s a).raise t := by
  have hwg : (oobNoted s a).cur.wg = s.cur.wg := by
    unfold oobNoted
    split
    · exact (Only.modCur s _).curKeeps Wave.wg fun _ => rfl
    · rfl
  have hctx : (oobNoted s a).curCtx = s.curCtx := by
    unfold State.curCtx
    rw [hwg]
    unfold oobNoted
    split <;> rfl
  have hgrid : (oobNoted s a).curGrid = s.curGrid := by
    unfold State.curGrid
    rw [hwg]
    unfold oobNoted
    split <;> rfl
  rw [State.refuse, hctx, hgrid]

/-- What waits for a page: the wave as the issue found it, held, and the page asked for. -/
theorem Access.Answers.held (h : a.Answers s u w) (hw : w) (hf : a.Fits s) (hr : ∀ e ∈ a.es, a.refuses s e = false)
    (ha : ∃ e ∈ a.es, a.awaits s e = true) :
    ∃ e t, e ∈ a.es ∧ a.awaits s e = true ∧
      Only (s.askPage s.curCtx e.a 0) u (fun w => { s.iss.start.getD w with wait := .page s.curCtx (e.a / 2 ^ 16) 0 t }) ∧
      t.cause = 0x07 ∧ t.info = BitVec.ofNat 32 a.q.val ∧ t.iaddr = s.iss.pc ∧ t.resume = s.iss.pc := by
  obtain ⟨missing, whole, rfl, hm⟩ := h
  obtain ⟨ts, e, l, hl, hreach⟩ := reach_absent hr ha
  have he : e ∈ a.es.filter (a.awaits s) := hl ▸ List.mem_cons_self
  obtain ⟨hmem, hawaits⟩ := List.mem_filter.1 he
  refine ⟨e, s.elemTrap causeAccess a.q.val ((e :: l).filter (fun x => decide (pageOf x.a = pageOf e.a))), hmem, hawaits, ?_,
    rfl, rfl, rfl, rfl⟩
  rw [Access.guarded_fits hf, hreach]
  dsimp only
  rw [hm hw]
  exact only_askPage_modCur s _ s.curCtx e.a 0

end Answers

/-! ## Accesses by offset (R34, R36, R37, R45) -/

/-- An entry that passes takes its own trap. -/
theorem checked_own {i : Instr} {own : State → Option TrapReq} {eff : State → State} {t : TrapReq} (hp : Passes i s)
    (h : own s = some t) : checked i lawful own eff s = .next (s.raise t) := by
  simp only [checked, lawful, hp.issueTrap, h]

theorem exec_offsetTrap {i : Instr} {w : Nat} {es : List Elem} {t : TrapReq} (h : offsetRule i s = some (w, es)) (hp : Passes i s)
    (ht : s.offsetTrap w es = some t) : exec i s = .next (s.raise t) := by
  unfold offsetRule at h
  split at h
  case h_10 => cases h
  all_goals
    injection h with h
    injection h with hw he
    subst hw he
  case h_1 w x d b =>
    change execLdl w x d b s = _
    exact checked_own hp ht
  case h_2 w x d b =>
    change execStl w x d b s = _
    exact checked_own hp ht
  case h_3 w d b off =>
    change execLdp w d b off s = _
    exact checked_own hp ht
  case h_4 w d b off =>
    change execStp w d b off s = _
    exact checked_own hp ht
  case h_5 op d b off spare =>
    change execAtomp op d b off spare s = _
    exact checked_own hp ht
  case h_6 w d b off =>
    change execLdpd w d b off s = _
    exact checked_own hp ht
  case h_7 w d b off =>
    change execStpd w d b off s = _
    exact checked_own hp ht
  case h_8 w d b off =>
    change execLdc w d b off s = _
    exact checked_own hp ht
  case h_9 w d b off =>
    change execStc w d b off s = _
    exact checked_own hp ht

theorem offsetTrap_outside {w : Nat} {es : List Elem} (h : ∃ e ∈ es, e.inb = false) :
    s.offsetTrap w es = some (s.elemTrap causeBounds 16 (es.filter outside)) := by
  exact if_pos (by simpa using h)

theorem offsetTrap_uneven {w : Nat} {es : List Elem} (hb : ∀ e ∈ es, e.inb = true) (h : ∃ e ∈ es, e.va % (w : Int) ≠ 0) :
    s.offsetTrap w es = some (s.elemTrap causeMisalign 16 (es.filter (fun e => decide (e.va % (w : Int) ≠ 0)))) := by
  have hin : es.filter (fun e => !e.inb) = [] := by simpa using hb
  have hne : es.filter (fun e => decide (e.va % (w : Int) ≠ 0)) ≠ [] := by simpa using h
  simp only [State.offsetTrap, hin, List.isEmpty_nil, Bool.not_true, Bool.false_eq_true, if_false]
  exact if_pos (by simpa using hne)

/-- Settles O26: the model makes the checks of a record in the order R47 lists them, whichever of the accesses it is, and those
of an offset bounds first. -/
theorem accessChecks : Obligations.AccessChecks := by
  unfold Obligations.AccessChecks
  refine ⟨fun i s a h hp hl => ?_, fun i s w es h hp => ⟨fun he => ?_, fun hb he => ?_⟩⟩
  · obtain ⟨u, hu, ha⟩ := exec_answers h hp hl
    intro r traps refused
    have hrefused : refused = a.refuses s := by
      funext e
      change (e.inb && _) = (e.inb && s.refusedElem s.curCtx (e, a.page s e))
      cases a.page s e <;> rfl
    clear_value refused
    subst hrefused
    simp only [traps, hu]
    refine ⟨fun hs hr => ?_, fun hr => ⟨fun ho he => ?_, fun ho => ⟨fun he => ?_, fun hev he => ?_⟩⟩,
      fun hf hr => ⟨fun hb => ?_, fun hb => ?_⟩, fun hf hr he hw => ?_⟩
    · rw [ha.rights hs hr]
    · rw [ha.elems hr (checkElems_outside ho he)]
    · rw [ha.elems hr (checkElems_uneven ho he)]
    · rw [ha.elems hr (checkElems_beyond ho hev he)]
    · obtain ⟨e, -, -, rfl⟩ := ha.refused hf hr
      have hno : a.es.any (fun e => e.inb && (a.page s e).isBad) = false := by simpa using hb
      rw [refuse_oobNoted, hno]
      rfl
    · obtain ⟨e, he, href, rfl⟩ := ha.refused hf hr
      have hsome : a.es.any (fun e => e.inb && (a.page s e).isBad) = true := by simpa using hb
      refine ⟨e, he, href, ?_⟩
      rw [refuse_oobNoted, hsome]
      rfl
    · have hw : a.store = false ∨ isAtom i = true := by
        rcases hw with hs | ⟨q, x, d, b, rfl⟩
        · exact .inl hs
        · exact .inr rfl
      obtain ⟨e, t, he, hawaits, honly, hcause⟩ := ha.held hw hf hr (by simpa [Access.awaits] using he)
      obtain ⟨hin, habs⟩ := Bool.and_eq_true_iff.1 hawaits
      exact ⟨u, e, t, rfl, he, hin, habs, honly, hcause⟩
  · exact exec_offsetTrap h hp (offsetTrap_outside he)
  · exact exec_offsetTrap h hp (offsetTrap_uneven hb he)

end Sys2Proof.Claims
end

section
/-! # A paddock store of no bytes at the end of the pens

`Obligations.PaddockAndCommons` has a paddock store change nothing of any core but its queue, also where a part of it carries
no bytes at 0x100000, the first address past every pen. The model takes that address for the staging window's (R370) and claims
the window. -/

namespace Sys2Proof.Claims

open Sys2Proof Sys2Proof.Machine

/-- The access that stands first of its wave to its rank is carried out. -/
theorem exec_paddockAccessPerform_of_first {s : State} {core : Nat} {p : PadAcc}
    (hid : (s.core core).paddock.find? (fun x => decide (x.id = p.id)) = some p)
    (hfirst : (s.core core).paddock.find? (fun x => decide (x.wave = p.wave) && decide (x.rank = p.rank)) = some p) :
    exec (.paddockAccessPerform core p.id) s = .next (s.padPerform core p) := by
  change execPaddockAccessPerform core p.id s = _
  simp only [execPaddockAccessPerform, hid, hfirst, if_true]

/-- A write from the window's first address on, of no bytes too, leaves the window claimed. -/
theorem penSet_claims_window {s : State} {wg pa : Nat} (bs : List Byte) (h : windowBase ≤ pa) :
    ((s.penSet wg pa bs).core (s.wg wg).core).window.isSome = true := by
  rw [State.penSet, if_pos h, State.core, State.modCore_cores, Laws.tabGet_tabSet, if_pos rfl]
  rfl

/-- A store of no bytes at the end of the pen of workgroup 0. -/
def emptyPadStore : PadAcc := ⟨0, 0, 0, 0, 1, false, true, [(0, 0x100000, [])], none, false⟩

/-- It stands first on core 0, whose window nobody has claimed. -/
def padStoreQueued : State := { State.reset with cores := [(0, { Core.init with paddock := [emptyPadStore] })] }

/-- Refutes O31: performed, the store of no bytes leaves the window of core 0 claimed, where the store's clause has the core as
it was but for its queue. -/
theorem not_paddockAndCommons : ¬ Obligations.PaddockAndCommons := by
  unfold Obligations.PaddockAndCommons
  rintro ⟨-, -, -, -, hperform⟩
  have hid : (padStoreQueued.core 0).paddock.find? (fun x => decide (x.id = emptyPadStore.id)) = some emptyPadStore := by decide
  have hfirst : (padStoreQueued.core 0).paddock.find?
      (fun x => decide (x.wave = emptyPadStore.wave) && decide (x.rank = emptyPadStore.rank)) = some emptyPadStore := by decide
  obtain ⟨t, pen, lost, ht, hframe, -⟩ := (hperform padStoreQueued 0 emptyPadStore hid hfirst).1 rfl (by decide)
  rw [exec_paddockAccessPerform_of_first hid hfirst] at ht
  have hclaimed : (t.core 0).window.isSome = true := by
    injection ht with ht
    rw [← ht]
    exact penSet_claims_window (wg := 0) [] (le_refl windowBase)
  have hunclaimed : (t.core 0).window = none := by
    rw [hframe]
    rfl
  simp [hunclaimed] at hclaimed

end Sys2Proof.Claims
end

section
/-! # Bytes, cells and lanes

What a number's bytes, a list of cells and a walk over the active lanes are, each said once for the accesses by offset. -/

namespace Sys2Proof.Claims

open Sys2Proof Sys2Proof.Machine

/-! ## Numbers -/

theorem trunc32_sextN (n k : Nat) : trunc32 (sextN n k) = (BitVec.ofNat k n).signExtend 32 := by
  rw [BitVec.signExtend, BitVec.toInt_eq_toNat_cond, BitVec.toNat_ofNat]
  rfl

/-- A load of a width delivers the words of Table 5.2. -/
theorem widthLoad_eq (w : Width) (bs : List Byte) : widthLoad w bs = loaded w (natOfBytes bs) := by
  cases w with
  | w1 | w2 => simp only [widthLoad, loaded, trunc32_sextN]
  | w16 => simp [widthLoad, loaded, List.range_succ]
  | w4 | w8 | u1 | u2 => rfl

theorem natOfBytes_lt (bs : List Byte) : natOfBytes bs < 256 ^ bs.length := by
  induction bs with
  | nil => exact Nat.one_pos
  | cons b r ih =>
    have hb := b.isLt
    rw [natOfBytes, List.length_cons, pow_succ]
    omega

/-- A byte of the number that bytes form. -/
theorem natOfBytes_digit (bs : List Byte) (i : Nat) (h : i < bs.length) : BitVec.ofNat 8 (natOfBytes bs / 256 ^ i) = bs[i] := by
  induction bs generalizing i with
  | nil => exact absurd h (Nat.not_lt_zero _)
  | cons b r ih =>
    have hb := b.isLt
    cases i with
    | zero =>
      apply BitVec.eq_of_toNat_eq
      rw [natOfBytes, pow_zero, Nat.div_one, BitVec.toNat_ofNat, List.getElem_cons_zero]
      omega
    | succ i =>
      rw [natOfBytes, pow_succ', ← Nat.div_div_eq_div_mul, show (b.toNat + 256 * natOfBytes r) / 256 = natOfBytes r by omega,
        ih i (Nat.lt_of_succ_lt_succ h), List.getElem_cons_succ]

theorem length_bytesOfNat (n x : Nat) : (bytesOfNat n x).length = n := by
  induction n generalizing x with
  | zero => rfl
  | succ n ih => rw [bytesOfNat, List.length_cons, ih]

theorem length_storeBytes (s : State) (w : Width) (d : VSrc) (l : Nat) : (storeBytes s w d l).length = w.bytes := by
  unfold storeBytes Wave.storeData
  cases w with
  | w16 => cases d <;> simp [List.range_succ, length_bytesOfNat, Width.bytes]
  | w1 | w2 | w4 | w8 | u1 | u2 => exact length_bytesOfNat _ _

/-! ## Cells -/

theorem lastAt_append (cs ds : List (Nat × Byte)) (b : Nat) : lastAt (cs ++ ds) b = (lastAt ds b).or (lastAt cs b) := by
  rw [lastAt, List.reverse_append, List.find?_append, Option.map_or]
  rfl

/-- Where cells are written one after another, the last one at a key stands. -/
theorem tabGet_foldl_tabSet (cs : List (Nat × Byte)) (t : Tab Byte) (b : Nat) :
    tabGet (cs.foldl (fun t c => tabSet t c.1 c.2) t) b = (lastAt cs b).or (tabGet t b) := by
  induction cs generalizing t with
  | nil => rfl
  | cons c r ih =>
    rw [List.foldl_cons, ih, Laws.tabGet_tabSet, ← List.singleton_append, lastAt_append, Option.or_assoc]
    congr 1
    by_cases h : b = c.1
    · simp [lastAt, h]
    · simp [lastAt, h, Ne.symm h]

theorem lastAt_eq_none {cs : List (Nat × Byte)} {b : Nat} (h : ∀ c ∈ cs, c.1 ≠ b) : lastAt cs b = none := by
  simpa [lastAt] using h

/-- A byte of a number's cells. -/
theorem lastAt_numberCells (pa n x b : Nat) :
    lastAt (numberCells pa n x) b = if pa ≤ b ∧ b < pa + n then some (BitVec.ofNat 8 (x / 256 ^ (b - pa))) else none := by
  induction n with
  | zero => rw [if_neg (by omega)]; rfl
  | succ n ih =>
    rw [numberCells, List.range_succ, List.map_append, lastAt_append, ← numberCells, ih]
    by_cases h : b = pa + n
    · subst h
      simp [lastAt]
    · have hn : lastAt (List.map (fun i => (pa + i, BitVec.ofNat 8 (x / 256 ^ i))) [n]) b = none := lastAt_eq_none (by simpa using Ne.symm h)
      rw [hn, Option.none_or]
      exact if_congr (by omega) rfl rfl

theorem offsetCells_cons (e : Elem) (es : List Elem) (bytes : Nat → List Byte) :
    offsetCells (e :: es) bytes = cellsFrom e.a (bytes e.lane) ++ offsetCells es bytes := by
  unfold offsetCells
  rw [← List.flatMap_eq_foldl, ← List.flatMap_eq_foldl, List.flatMap_cons]
  rfl

/-! ## The issuing wave, changed step by step -/

theorem modCur_modCur (s : State) (f g : Wave → Wave) : (s.modCur f).modCur g = s.modCur (fun w => g (f w)) := by
  simp only [State.modCur, State.modWave, tabMod_tabMod]

theorem foldl_modCur {α : Type} (l : List α) (f : α → Wave → Wave) (s : State) :
    l.foldl (fun t x => t.modCur (f x)) s = s.modCur (fun w => l.foldl (fun w x => f x w) w) := by
  induction l generalizing s with
  | nil => simp only [List.foldl_nil, State.modCur, State.modWave, tabMod_id]
  | cons x r ih => rw [List.foldl_cons, ih, modCur_modCur]; rfl

theorem modAt_eq_modify {α : Type} (l : List α) (i : Nat) (f : α → α) : modAt l i f = l.modify i f := by
  induction l generalizing i with
  | nil => cases i <;> rfl
  | cons x r ih =>
    cases i with
    | zero => rfl
    | succ i => rw [modAt, ih]; rfl

theorem foldl_modAt {α : Type} (f : Nat → α → α) {ls : List Nat} (h : ls.Nodup) (xs : List α) :
    ls.foldl (fun xs l => modAt xs l (f l)) xs = xs.mapIdx (fun l x => if l ∈ ls then f l x else x) := by
  induction ls generalizing xs with
  | nil => apply List.ext_getElem <;> simp
  | cons l r ih =>
    obtain ⟨hl, hr⟩ := List.nodup_cons.1 h
    rw [List.foldl_cons, ih hr, modAt_eq_modify]
    apply List.ext_getElem?
    intro j
    rw [List.getElem?_mapIdx, List.getElem?_mapIdx, List.getElem?_modify]
    by_cases hj : l = j
    · subst hj
      cases xs[l]? <;> simp [hl]
    · simp [hj, Ne.symm hj]

theorem mem_lanesOf {m : Mask} {l : Nat} : l ∈ lanesOf m ↔ m.getLsbD l = true := by
  rw [lanesOf, List.mem_filter, List.mem_range]
  exact ⟨fun h => h.2, fun h => ⟨BitVec.lt_of_getLsbD h, h⟩⟩

/-- The active lanes changed one after another. -/
theorem foldl_modLane (m : Mask) (f : Nat → Lane → Lane) (w : Wave) :
    (lanesOf m).foldl (fun w l => w.modLane l (f l)) w = w.lanesBy m f := by
  have hw : ∀ (ls : List Nat) (w : Wave), ls.foldl (fun w l => w.modLane l (f l)) w =
      { w with lanes := ls.foldl (fun xs l => modAt xs l (f l)) w.lanes } := by
    intro ls
    induction ls with
    | nil => intro w; rfl
    | cons l r ih => intro w; rw [List.foldl_cons, ih]; rfl
  have hn : (lanesOf m).Nodup := List.nodup_range.filter _
  rw [hw, foldl_modAt f hn]
  simp only [mem_lanesOf]
  rfl

end Sys2Proof.Claims
end

section
/-! # The lane store, and the registers of a pen access -/

namespace Sys2Proof.Claims

open Sys2Proof Sys2Proof.Machine

variable {s : State}

/-- Offsets in bounds and aligned raise no trap (R34, R36). -/
theorem offsetTrap_fit {w : Nat} {es : List Elem} (h : offsetsFit w es) : s.offsetTrap w es = none := by
  have hin : es.filter (fun e => !e.inb) = [] := by simpa using fun e he => (h e he).1
  have hev : es.filter (fun e => decide (e.va % (w : Int) ≠ 0)) = [] := by simpa using fun e he => Int.dvd_of_emod_eq_zero (h e he).2
  simp only [State.offsetTrap, hin, hev, List.isEmpty_nil, Bool.not_true, Bool.false_eq_true, if_false]

/-- A result owed to a vector destination, and the lanes at next_pc; code 124 takes no slot (R199, R201). -/
theorem owed_adv (s : State) (kind : OwedKind) (d : VDst) (n : Nat) (acq : Bool) (data : Tab (List Word)) :
    match d with
    | .reg r => Only { s with fresh := s.fresh + 1 } (s.owed kind d n acq data).adv
        (owing s (slot s kind (.vec (s.src.wb + r.val) n) data acq))
    | .discard => Only s (s.owed kind d n acq data).adv (fun v => v.advanced s sameLane) := by
  cases d with
  | reg r => exact (Only.modCur { s with fresh := s.fresh + 1 } _).advAfter
  | discard => exact (Only.refl s).advAfter

theorem ldl_spec (w : Width) (x : MemMod) (d : VDst) (a : VSrc) (s : State) : Passes (.ldl w x d a) s →
    let es := s.laneElems w.bytes x.offset a
    offsetsFit w.bytes es →
    let words := es.map (fun e => (e.lane, loaded w (natOfBytes ((List.range w.bytes).map (fun k => s.src.storeByte e.lane (e.a + k))))))
    ∃ t, exec (.ldl w x d a) s = .next t ∧ (match d with
      | .reg r => Only { s with fresh := s.fresh + 1 } t (owing s (slot s .load (.vec (s.src.wb + r.val) w.regs) words false))
      | .discard => Only s t (fun v => v.advanced s sameLane)) := by
  intro hp es hes words
  have hwords : es.map (fun e => (e.lane, widthLoad w (s.src.storeBytes e.lane e.a w.bytes))) = words := by
    simp only [widthLoad_eq]
    rfl
  have h := owed_adv s .load d w.regs false words
  rw [← hwords] at h ⊢
  change ∃ t, execLdl w x d a s = _ ∧ _
  refine ⟨_, hp.checked rfl (offsetTrap_fit hes) _, ?_⟩
  cases d <;> exact h

/-- A lane with bytes written into its store from an offset. -/
def storedLane (off : Nat) (bs : List Byte) (x : Lane) : Lane :=
  { x with store := (cellsFrom off bs).foldl (fun t c => tabSet t c.1 c.2) x.store }

theorem stl_spec (w : Width) (x : MemMod) (d a : VSrc) (s : State) (hp : Passes (.stl w x d a) s)
    (hes : offsetsFit w.bytes (s.laneElems w.bytes x.offset a)) : ∃ t, exec (.stl w x d a) s = .next t ∧
      Only s t (fun v => v.advanced s (fun l y => { y with
        store := ((storeBytes s w d l).mapIdx (fun k b => ((((s.src.v32 l a).toNat : Int) + x.offset).toNat + k, b))).foldl
          (fun m c => tabSet m c.1 c.2) y.store })) := by
  let f := fun (l : Nat) => storedLane (((s.src.v32 l a).toNat : Int) + x.offset).toNat (storeBytes s w d l)
  have hfold : (s.laneElems w.bytes x.offset a).foldl (fun t e => t.modCur (fun v => v.modLane e.lane (fun y =>
      { y with store := (cellsFrom e.a (s.src.storeData e.lane d w)).foldl (fun t c => tabSet t c.1 c.2) y.store }))) s =
      s.modCur (fun v => v.lanesBy s.active f) := by
    rw [State.laneElems, List.foldl_map, foldl_modCur]
    congr 1
    funext v
    exact foldl_modLane s.active f v
  change ∃ t, execStl w x d a s = _ ∧ _
  refine ⟨_, hp.checked rfl (offsetTrap_fit hes) _, ?_⟩
  dsimp only
  rw [hfold]
  exact (Only.modCur s _).adv

/-! ## Registers written in place -/

/-- What slot A has written does not change by what an instruction of its own slot writes. -/
theorem writes_putV (s : State) (ls : Mask) (n : Nat) (f : Nat → Word) : (s.putV ls n f).writes = s.writes := by
  funext l r
  simp only [State.writes, State.putV, State.active, Issue.noteV, State.modCur, State.modWave]
  cases h : s.iss.slotB <;> simp [h]

/-- A change of lanes is what it does to the lanes changed. -/
theorem lanesBy_congr {w : Wave} {act : Mask} {f g : Nat → Lane → Lane} (h : ∀ l, act.getLsbD l = true → f l = g l) :
    w.lanesBy act f = w.lanesBy act g := by
  simp only [Wave.lanesBy]
  congr 1
  refine List.mapIdx_eq_mapIdx_iff.mpr fun l hl => ?_
  by_cases hact : act.getLsbD l = true
  · rw [h l hact]
  · rw [if_neg hact, if_neg hact]

theorem only_putWords (s : State) (d : VDst) (n : Nat) (data : Nat → List Word)
    (hn : ∀ l, s.active.getLsbD l = true → (data l).length = n) :
    Only s (s.putWords d n data) (fun v => v.lanesBy s.active (fun l x => giveWords s d l (data l) x)) := by
  cases d with
  | discard => exact (Only.refl s).congr fun v => (v.lanesBy_same s.active).symm
  | reg r =>
    have key : ∀ k, Only s (s.putWords (.reg r) k data) (fun v => v.lanesBy s.active (fun l x =>
          (List.range k).foldl (fun y i => s.give l (s.cur.wb + (r.val + i)) ((data l).getD i 0#32) y) x)) ∧
        (s.putWords (.reg r) k data).writes = s.writes := by
      intro k
      induction k with
      | zero => exact ⟨(Only.refl s).congr fun v => (v.lanesBy_same s.active).symm, rfl⟩
      | succ k ih =>
        obtain ⟨honly, hwrites⟩ := ih
        have hstep : s.putWords (.reg r) (k + 1) data =
            (s.putWords (.reg r) k data).putV (s.putWords (.reg r) k data).active (r.val + k) (fun l => (data l).getD k 0#32) := by
          simp only [State.putWords, List.range_succ, List.foldl_append, List.foldl_cons, List.foldl_nil]
        have hwb : (s.putWords (.reg r) k data).cur.wb = s.cur.wb := honly.curKeeps Wave.wb fun _ => rfl
        rw [hstep, writes_putV]
        refine ⟨(honly.lanes (only_putV _ _ _)).congr fun v => ?_, hwrites⟩
        simp only [List.range_succ, List.foldl_append, List.foldl_cons, List.foldl_nil, State.give, hwb, hwrites]
    exact (key n).1.congr fun v => lanesBy_congr fun l h => by simp only [giveWords, hn l h]

/-- The registers of a pen access written, its passes counted, and its lanes at next_pc. -/
theorem only_addPasses_adv {s t : State} {f : Nat → Lane → Lane} (h : Only s t (fun v => v.lanesBy s.active f)) (n : Nat) :
    Only s (t.modCur (fun v => v.addPasses n)).adv (fun v => { v.advanced s f with penpass := v.penpass + BitVec.ofNat 32 n }) := by
  refine (h.trans (Only.modCur t _)).advAfter.congr fun v => ?_
  change { (v.lanesBy s.active f).lanesBy s.active (fun l x => { sameLane l x with pc := s.iss.next }) with
    penpass := v.penpass + BitVec.ofNat 32 n } = _
  rw [Wave.lanesBy_lanesBy]
  rfl

/-! ## LDP -/

/-- The window is claimed on a core alone, and what it holds stays. -/
theorem claimWindow_cores (s : State) (es : List Elem) : ∃ cs, s.claimWindow es = { s with cores := cs } := by
  unfold State.claimWindow
  split <;> exact ⟨_, rfl⟩

theorem wg_claimWindow (s : State) (es : List Elem) (wg : Nat) : (s.claimWindow es).wg wg = s.wg wg := by
  obtain ⟨cs, hcs⟩ := claimWindow_cores s es
  rw [hcs]
  rfl

theorem core_modCore (s : State) (c k : Nat) (f : Core → Core) : (s.modCore c f).core k = if k = c then f (s.core c) else s.core k := by
  rw [State.core, State.modCore_cores, Laws.tabGet_tabSet]
  split <;> rfl

theorem penByte_eq (s : State) (wg b : Nat) : s.penByte wg b =
    if windowBase ≤ b then (tabGet ((s.core (s.wg wg).core).window.getD []) b).getD 0#8
    else (tabGet (s.wg wg).pen b).getD (if (s.wg wg).penZero then 0#8 else Config.penByte wg b) := rfl

theorem penByte_claimWindow (s : State) (es : List Elem) (wg b : Nat) : (s.claimWindow es).penByte wg b = s.penByte wg b := by
  unfold State.claimWindow
  split
  · rw [penByte_eq, penByte_eq, State.modCore_wg, core_modCore]
    split
    · by_cases hc : (s.wg wg).core = s.curCore
      · rw [if_pos hc, hc]
        rfl
      · rw [if_neg hc]
    · rfl
  · rfl

theorem length_loaded (w : Width) (n : Nat) : (loaded w n).length = w.regs := by cases w <;> rfl

theorem ldp_spec (w : Width) (d : VDst) (a : VSrc) (off : BitVec 7) (s : State) (hp : Passes (.ldp w d a off) s) :
    let es := s.penElems a off w.bytes
    offsetsFit w.bytes es → s.penLost s.curWg w.bytes es = [] →
      let word := fun (l : Nat) => loaded w (natOfBytes ((List.range w.bytes).map (fun k =>
        s.penByte s.curWg (((s.src.v32 l a).toNat + off.toNat * w.bytes) % 2 ^ 32 + k))))
      ∃ t, exec (.ldp w d a off) s = .next t ∧
        Only (s.claimWindow es) t (fun v => { v.advanced s (fun l x => giveWords s d l (word l) x) with
          penpass := v.penpass + BitVec.ofNat 32 (passesOf w.bytes (es.map (fun e => (e.lane, e.a)))) }) := by
  intro es hes hlost word
  change s.penLost s.curWg w.bytes (s.penElems a off w.bytes) = [] at hlost
  obtain ⟨cs, hcs⟩ := claimWindow_cores s es
  have hdata : (fun l => widthLoad w ((s.claimWindow es).penBytesAt (s.claimWindow es).curWg
      ((s.claimWindow es).src.penAddr l a off w.bytes) w.bytes)) = word := by
    funext l
    have hwg : (s.claimWindow es).curWg = s.curWg := by rw [hcs]; rfl
    have hsrc : (s.claimWindow es).src = s.src := by rw [hcs]; rfl
    simp only [widthLoad_eq, State.penBytesAt, penByte_claimWindow, hwg, hsrc]
    rfl
  change ∃ t, execLdp w d a off s = _ ∧ _
  refine ⟨_, hp.checked rfl (offsetTrap_fit hes) _, ?_⟩
  simp only [hlost, List.isEmpty_nil, Bool.not_true, Bool.false_eq_true, if_false]
  change Only _ (State.adv (State.modCur (State.putWords _ d w.regs (fun l => widthLoad w
    ((s.claimWindow es).penBytesAt (s.claimWindow es).curWg ((s.claimWindow es).src.penAddr l a off w.bytes) w.bytes))) _)) _
  rw [hdata]
  have h := only_addPasses_adv (only_putWords (s.claimWindow es) d w.regs word fun l _ => length_loaded w _)
    (passesOf w.bytes (es.map (fun e => (e.lane, e.a))))
  rw [hcs] at h ⊢
  exact h

end Sys2Proof.Claims
end

section
/-! # Writes of the pen

`PenWritten s t window` says what any number of pen writes of the issuing wave's workgroup leaves of the state; `penSet` and the
claim of the window keep it, so STP and ATOMP are inductions over their lanes. -/

namespace Sys2Proof.Claims

open Sys2Proof Sys2Proof.Machine

variable {s t : State} {window : Bool}

/-- `t` is `s` but for the pen of its workgroup, which is there still, and the window of its core. -/
structure PenWritten (s t : State) (window : Bool) : Prop where
  frame : PenFrame s t window
  waves : t.waves = s.waves
  iss : t.iss = s.iss
  there : (tabGet t.wgs s.curWg).isSome = true
  core : (t.wg s.curWg).core = s.curCore

theorem PenWritten.refl (h : atHome s) (window : Bool) : PenWritten s s window where
  frame := ⟨rfl, rfl, fun _ _ => rfl, rfl, fun _ _ => rfl, rfl, fun _ => rfl⟩
  waves := rfl
  iss := rfl
  there := h.1
  core := h.2

theorem PenWritten.curWg (h : PenWritten s t window) : t.curWg = s.curWg := by
  unfold State.curWg State.cur State.wave
  rw [h.waves, h.iss]

/-- A window that some lane names is changed. -/
theorem PenWritten.modWindow (h : PenWritten s t window) (hw : window = true) {f : Core → Core}
    (hf : ∀ c x, { f c with window := x } = { c with window := x }) : PenWritten s (t.modCore s.curCore f) window where
  frame :=
    { rest := h.frame.rest
      issue := h.frame.issue
      others := h.frame.others
      own := h.frame.own
      cores := fun c hc => by rw [core_modCore, if_neg hc, h.frame.cores c hc]
      core := by
        rw [core_modCore, if_pos rfl, hf]
        exact h.frame.core
      closed := fun hn => absurd (hw.symm.trans hn) (by decide) }
  waves := h.waves
  iss := h.iss
  there := h.there
  core := h.core

theorem wg_modWg {s : State} {i : Nat} (h : (tabGet s.wgs i).isSome = true) (f : Workgroup → Workgroup) (k : Nat) :
    (s.modWg i f).wg k = if k = i then f (s.wg i) else s.wg k := by
  obtain ⟨g, hg⟩ := Option.isSome_iff_exists.1 h
  rw [State.wg, State.modWg_wgs, Laws.tabGet_tabMod]
  split
  · rw [State.wg, hg]
    rfl
  · rfl

/-- The pen itself is changed. -/
theorem PenWritten.modPen (h : PenWritten s t window) {f : Workgroup → Workgroup}
    (hf : ∀ g x y, { f g with pen := x, penPoison := y } = { g with pen := x, penPoison := y }) :
    PenWritten s (t.modWg s.curWg f) window where
  frame :=
    { rest := h.frame.rest
      issue := h.frame.issue
      others := fun g hg => by rw [wg_modWg h.there, if_neg hg, h.frame.others g hg]
      own := by
        rw [wg_modWg h.there, if_pos rfl, hf]
        exact h.frame.own
      cores := h.frame.cores
      core := h.frame.core
      closed := h.frame.closed }
  waves := h.waves
  iss := h.iss
  there := by rw [State.modWg_wgs, Laws.tabGet_tabMod, if_pos rfl, Option.isSome_map, h.there]
  core := by
    rw [wg_modWg h.there, if_pos rfl]
    exact (congrArg Workgroup.core (hf _ [] [])).trans h.core

theorem PenWritten.penSet (h : PenWritten s t window) (pa : Nat) (bs : List Byte) (hw : windowBase ≤ pa → window = true) :
    PenWritten s (t.penSet s.curWg pa bs) window := by
  unfold State.penSet
  split
  · rw [h.core]
    exact h.modWindow (hw ‹_›) fun _ _ => rfl
  · exact h.modPen fun _ _ _ => rfl

theorem PenWritten.claimWindow (h : PenWritten s s window) (es : List Elem) (hw : namesWindow es = true → window = true) :
    PenWritten s (s.claimWindow es) window := by
  unfold State.claimWindow
  split
  · exact h.modWindow (hw ‹_›) fun _ _ => rfl
  · exact h

/-- After pen writes the issuing wave alone is changed. -/
theorem PenWritten.then {u : State} {f : Wave → Wave} (h : PenWritten s t window) (k : Only t u f) :
    PenFrame s u window ∧ u.waves = tabMod s.waves s.iss.key f ∧ (∀ b, u.penByte s.curWg b = t.penByte s.curWg b) ∧
      (u.wg s.curWg).penPoison = (t.wg s.curWg).penPoison := by
  obtain ⟨krest, kiss, kwaves⟩ := k
  rw [h.iss] at kiss
  rw [h.waves, h.iss] at krest kwaves
  have hwg (g : Nat) : u.wg g = t.wg g := by
    rw [← krest]
    rfl
  have hcore (c : Nat) : u.core c = t.core c := by
    rw [← krest]
    rfl
  refine ⟨⟨?_, kiss, ?_, ?_, ?_, ?_, ?_⟩, kwaves, fun b => ?_, ?_⟩
  · rw [← h.frame.rest, ← krest]
  · intro g hg
    rw [hwg, h.frame.others g hg]
  · rw [hwg, h.frame.own]
  · intro c hc
    rw [hcore, h.frame.cores c hc]
  · rw [hcore, h.frame.core]
  · intro hw
    rw [hcore, h.frame.closed hw]
  · rw [penByte_eq, penByte_eq, hwg, hcore]
  · rw [hwg]

/-! ## What a write leaves -/

/-- A write on one side of the window's first address leaves its bytes where they go and else what was there. -/
theorem PenWritten.penByte_penSet (h : PenWritten s t window) {pa : Nat} {bs : List Byte}
    (hside : pa + bs.length ≤ windowBase ∨ windowBase ≤ pa) (b : Nat) :
    (t.penSet s.curWg pa bs).penByte s.curWg b = (lastAt (cellsFrom pa bs) b).getD (t.penByte s.curWg b) := by
  have hcell : ∀ c ∈ cellsFrom pa bs, pa ≤ c.1 ∧ c.1 < pa + bs.length := by
    intro c hc
    obtain ⟨i, hi, rfl⟩ := List.mem_mapIdx.1 hc
    exact ⟨by simp, by simpa using hi⟩
  have hnone : (windowBase ≤ pa → b < windowBase) → (pa < windowBase → windowBase ≤ b) → lastAt (cellsFrom pa bs) b = none := by
    intro h1 h2
    refine lastAt_eq_none fun c hc => ?_
    have := hcell c hc
    omega
  have hor (o p : Option Byte) (x : Byte) : (o.or p).getD x = o.getD (p.getD x) := by cases o <;> rfl
  unfold State.penSet
  split
  · rename_i hwin
    rw [penByte_eq, State.modCore_wg, core_modCore, if_pos rfl, penByte_eq]
    split
    · rw [Option.getD_some, tabGet_foldl_tabSet, hor]
    · rw [hnone (by omega) (by omega)]
      rfl
  · rename_i hwin
    rw [penByte_eq, wg_modWg h.there, if_pos rfl, State.modWg_core, penByte_eq]
    split
    · rw [hnone (by omega) (by omega)]
      rfl
    · rw [tabGet_foldl_tabSet, hor]

/-- The words of lost data that a write leaves: those of the pen that it does not write whole. -/
theorem PenWritten.mem_penPoison_penSet (h : PenWritten s t window) (pa : Nat) (bs : List Byte) (k : Nat) :
    k ∈ ((t.penSet s.curWg pa bs).wg s.curWg).penPoison ↔ k ∈ (t.wg s.curWg).penPoison ∧
      ¬ (4 ≤ bs.length ∧ pa < windowBase ∧ pa ≤ 4 * k ∧ 4 * k + 4 ≤ pa + bs.length) := by
  unfold State.penSet
  split
  · rw [State.modCore_wg]
    exact ⟨fun hk => ⟨hk, by omega⟩, fun hk => hk.1⟩
  · rw [wg_modWg h.there, if_pos rfl]
    dsimp only
    split
    · rw [List.mem_filter]
      refine and_congr_right fun _ => ?_
      simp
      omega
    · exact ⟨fun hk => ⟨hk, by omega⟩, fun hk => hk.1⟩

end Sys2Proof.Claims
end

section
/-! # The pen at once: STP, and ATOMP lane after lane -/

namespace Sys2Proof.Claims

open Sys2Proof Sys2Proof.Machine

variable {s t : State} {window : Bool}

/-- Aligned bytes lie on one side of the window's first address. -/
theorem aligned_side {w p : Nat} (hw : w ∣ windowBase) (hp : w ∣ p) : p + w ≤ windowBase ∨ windowBase ≤ p := by
  rcases Nat.lt_or_ge p windowBase with h | h
  · obtain ⟨k, hk⟩ := hw
    obtain ⟨j, rfl⟩ := hp
    have hjk : j < k := by
      rw [hk] at h
      exact Nat.lt_of_mul_lt_mul_left h
    left
    rw [hk, ← Nat.mul_succ]
    exact Nat.mul_le_mul_left w hjk
  · exact .inr h

theorem penElems_dvd {a : VSrc} {off : BitVec 7} {w : Nat} (h : offsetsFit w (s.penElems a off w)) :
    ∀ e ∈ s.penElems a off w, w ∣ e.a := by
  intro e he
  obtain ⟨l, -, rfl⟩ := List.mem_map.1 he
  exact Int.natCast_dvd_natCast.1 (Int.dvd_of_emod_eq_zero (h _ he).2)

theorem bytes_dvd_windowBase (w : Width) : w.bytes ∣ windowBase := by cases w <;> decide

theorem namesWindow_of_mem {e : Elem} {es : List Elem} (he : e ∈ es) (h : windowBase ≤ e.a) : namesWindow es = true :=
  List.any_eq_true.2 ⟨e, he, decide_eq_true h⟩

/-- The lanes go on as from the state before the writes. -/
theorem PenWritten.advanced (h : PenWritten s t window) (v : Wave) (f : Nat → Lane → Lane) : v.advanced t f = v.advanced s f := by
  unfold Wave.advanced State.active
  rw [h.iss]

/-! ## STP -/

/-- Lanes that store one after another: of two at one address the later stands. -/
theorem PenWritten.storeLanes {w : Nat} {bytes : Nat → List Byte} (hb : ∀ l, (bytes l).length = w) (hw : w ∣ windowBase) (es : List Elem) :
    ∀ t, PenWritten s t window → (∀ e ∈ es, w ∣ e.a ∧ (windowBase ≤ e.a → window = true)) →
      let u := es.foldl (fun t e => t.penSet t.curWg e.a (bytes e.lane)) t
      PenWritten s u window ∧ (∀ b, u.penByte s.curWg b = (lastAt (offsetCells es bytes) b).getD (t.penByte s.curWg b)) ∧
        ∀ k, k ∈ (u.wg s.curWg).penPoison ↔ k ∈ (t.wg s.curWg).penPoison ∧ ¬ wholeWord w es k := by
  induction es with
  | nil =>
    intro t ht _
    refine ⟨ht, fun b => rfl, fun k => ?_⟩
    simp [wholeWord]
  | cons e r ih =>
    intro t ht hes
    obtain ⟨hdvd, hwin⟩ := hes e List.mem_cons_self
    have hlen := hb e.lane
    have hside : e.a + (bytes e.lane).length ≤ windowBase ∨ windowBase ≤ e.a := hlen ▸ aligned_side hw hdvd
    rw [List.foldl_cons, ht.curWg]
    obtain ⟨hu, hbytes, hlost⟩ := ih _ (ht.penSet e.a (bytes e.lane) hwin) fun x hx => hes x (List.mem_cons_of_mem _ hx)
    refine ⟨hu, fun b => ?_, fun k => ?_⟩
    · rw [hbytes, ht.penByte_penSet hside, offsetCells_cons, lastAt_append]
      cases lastAt (offsetCells r bytes) b <;> rfl
    · rw [hlost, ht.mem_penPoison_penSet, hlen, and_assoc, ← not_or]
      refine and_congr_right fun _ => not_congr ?_
      unfold wholeWord windowBase
      simp only [List.mem_cons, exists_eq_or_imp]
      exact and_or_left.symm

theorem stp_spec (w : Width) (d a : VSrc) (off : BitVec 7) (s : State) (hp : Passes (.stp w d a off) s) :
    let es := s.penElems a off w.bytes
    offsetsFit w.bytes es → atHome s → ∃ t, exec (.stp w d a off) s = .next t ∧ PenFrame s t (namesWindow es) ∧
      t.waves = tabMod s.waves s.iss.key (fun v => { v.advanced s sameLane with
        penpass := v.penpass + BitVec.ofNat 32 (passesOf w.bytes (es.map (fun e => (e.lane, e.a)))) }) ∧
      (∀ b, t.penByte s.curWg b = (lastAt (offsetCells es (storeBytes s w d)) b).getD (s.penByte s.curWg b)) ∧
      ∀ k, k ∈ (t.wg s.curWg).penPoison ↔ k ∈ (s.wg s.curWg).penPoison ∧ ¬ wholeWord w.bytes es k := by
  intro es hes hhome
  have hclaim := (PenWritten.refl hhome (namesWindow es)).claimWindow es id
  obtain ⟨hu, hbytes, hlost⟩ := PenWritten.storeLanes (length_storeBytes s w d) (bytes_dvd_windowBase w) es _ hclaim
    fun e he => ⟨penElems_dvd hes e he, namesWindow_of_mem he⟩
  have honly := only_addPasses_adv ((Only.refl _).congr fun v => (v.lanesBy_same _).symm)
    (s := es.foldl (fun t e => t.penSet t.curWg e.a (storeBytes s w d e.lane)) (s.claimWindow es))
    (passesOf w.bytes (es.map (fun e => (e.lane, e.a))))
  obtain ⟨hframe, hwaves, hpen, hpoison⟩ := hu.then honly
  change ∃ t, execStp w d a off s = _ ∧ _
  refine ⟨_, hp.checked rfl (offsetTrap_fit hes) _, hframe, ?_, fun b => ?_, fun k => ?_⟩
  · simp only [hu.advanced] at hwaves
    exact hwaves
  · exact (hpen b).trans ((hbytes b).trans (by rw [penByte_claimWindow]))
  · rw [← wg_claimWindow s es, ← hlost k]
    exact iff_of_eq (congrArg (k ∈ ·) hpoison)

end Sys2Proof.Claims
end

section
/-! # ATOMP

Each lane reads the old value and writes what Table 9.7 gives (`PenWritten.penRmw`), so the lanes of the model run as the
manual's `atomRun` does. -/

namespace Sys2Proof.Claims

open Sys2Proof Sys2Proof.Machine

variable {s t : State} {window : Bool}

/-! ## Table 9.7 -/

theorem sextN_eq_toInt (n k : Nat) : sextN n k = (BitVec.ofNat k n).toInt := by
  rw [BitVec.toInt_eq_toNat_cond, BitVec.toNat_ofNat]
  rfl

/-- Where equal keys mean equal values, it is one which of the two is taken. -/
theorem ite_le_eq_ite_lt {α : Type} {i j : Int} {p q : α} (h : i = j → p = q) : (if i ≤ j then p else q) = if i < j then p else q := by
  rcases Int.lt_trichotomy i j with hlt | heq | hgt
  · rw [if_pos hlt.le, if_pos hlt]
  · rw [if_pos heq.le, if_neg (by omega), h heq]
  · rw [if_neg (by omega), if_neg (by omega)]

theorem ofNat_toInt_inj {k m n : Nat} (hm : m < 2 ^ k) (hn : n < 2 ^ k) (h : (BitVec.ofNat k m).toInt = (BitVec.ofNat k n).toInt) : m = n := by
  have := congrArg BitVec.toNat (BitVec.toInt_inj.1 h)
  rwa [BitVec.toNat_ofNat, BitVec.toNat_ofNat, Nat.mod_eq_of_lt hm, Nat.mod_eq_of_lt hn] at this

/-- The smaller and the larger of two signed numbers. -/
theorem ite_sextN_min {k m n : Nat} (hm : m < 2 ^ k) (hn : n < 2 ^ k) :
    (if sextN m k ≤ sextN n k then m else n) = if (BitVec.ofNat k m).slt (BitVec.ofNat k n) then m else n := by
  simp only [sextN_eq_toInt, BitVec.slt_eq_decide, decide_eq_true_eq]
  exact ite_le_eq_ite_lt fun h => ofNat_toInt_inj hm hn h
theorem ite_sextN_max {k m n : Nat} (hm : m < 2 ^ k) (hn : n < 2 ^ k) :
    (if sextN n k ≤ sextN m k then m else n) = if (BitVec.ofNat k n).slt (BitVec.ofNat k m) then m else n := by
  simp only [sextN_eq_toInt, BitVec.slt_eq_decide, decide_eq_true_eq]
  exact ite_le_eq_ite_lt fun h => (ofNat_toInt_inj hn hm h).symm

theorem min_eq_ite_ult {k m n : Nat} (hm : m < 2 ^ k) (hn : n < 2 ^ k) :
    Nat.min m n = if (BitVec.ofNat k m).ult (BitVec.ofNat k n) then m else n := by
  simp only [BitVec.ult, BitVec.toNat_ofNat, Nat.mod_eq_of_lt hm, Nat.mod_eq_of_lt hn, decide_eq_true_eq, Nat.min_def]
  split <;> split <;> omega
theorem max_eq_ite_ult {k m n : Nat} (hm : m < 2 ^ k) (hn : n < 2 ^ k) :
    Nat.max m n = if (BitVec.ofNat k n).ult (BitVec.ofNat k m) then m else n := by
  simp only [BitVec.ult, BitVec.toNat_ofNat, Nat.mod_eq_of_lt hm, Nat.mod_eq_of_lt hn, decide_eq_true_eq, Nat.max_def]
  split <;> split <;> omega

/-- What an operation leaves, where it writes nothing too. -/
theorem aopNew_eq (op : Aop) {old x : Nat} (y : Nat) (ho : old < 2 ^ (8 * aopBytes op)) (hx : x < 2 ^ (8 * aopBytes op)) :
    (aopNew op old x y).getD old = atomNew op old x y := by
  cases op with
  | add | add64 => simp only [aopNew, atomNew, Option.getD_some, BitVec.toNat_add, BitVec.toNat_ofNat, Nat.add_mod_mod, Nat.mod_add_mod]
  | min | min64 => exact ite_sextN_min ho hx
  | max => exact ite_sextN_max ho hx
  | minu | minu64 => exact min_eq_ite_ult ho hx
  | maxu | maxu64 => exact max_eq_ite_ult ho hx
  | and | or | xor =>
    have ho : old % 2 ^ 32 = old := Nat.mod_eq_of_lt ho
    have hx : x % 2 ^ 32 = x := Nat.mod_eq_of_lt hx
    simp only [aopNew, atomNew, Option.getD_some, BitVec.toNat_and, BitVec.toNat_or, BitVec.toNat_xor, BitVec.toNat_ofNat, ho, hx]
  | xchg | fadd => rfl
  | cas | cas64 =>
    unfold aopNew atomNew
    dsimp only
    split <;> rfl

theorem oldWords_eq (op : Aop) (old : Nat) : oldWords op old = aopWords op old := by cases op <;> rfl

theorem length_aopWords (op : Aop) (old : Nat) : (aopWords op old).length = if aopWide op then 2 else 1 := by cases op <;> rfl

theorem groupOperands_lt (w : Wave) (l : Nat) (op : Aop) (d : VReg) : (w.groupOperands l op d).1 < 2 ^ (8 * aopBytes op) := by
  have h0 := (w.vreg l (d.val + 0)).isLt
  have h1 := (w.vreg l (d.val + 1)).isLt
  cases op <;> simp only [Wave.groupOperands, aopBytes, aopWide, if_true, Bool.false_eq_true, if_false] <;> omega

/-! ## One lane -/

theorem aopBytes_cases (op : Aop) : aopBytes op = 4 ∨ aopBytes op = 8 := by cases op <;> decide

/-- A word that bytes within one access lie in is one of the words the access touches. -/
theorem mem_wordsOf {n p k : Nat} (hn : n = 4 ∨ n = 8) (hp : n ∣ p) (hlo : p ≤ 4 * k) (hhi : 4 * k + 4 ≤ p + n) : k ∈ wordsOf p n := by
  rcases hn with rfl | rfl
  · exact List.mem_map.2 ⟨k - p / 4, List.mem_range.2 (show k - p / 4 < 1 by omega), by omega⟩
  · exact List.mem_map.2 ⟨k - p / 4, List.mem_range.2 (show k - p / 4 < 2 by omega), by omega⟩

/-- A write that touches no word of lost data leaves them all. -/
theorem PenWritten.penPoison_penSet (h : PenWritten s t window) {pa : Nat} {bs : List Byte} (hn : bs.length = 4 ∨ bs.length = 8)
    (hdvd : bs.length ∣ pa) (hlost : ∀ k ∈ wordsOf pa bs.length, k ∉ (t.wg s.curWg).penPoison) :
    ((t.penSet s.curWg pa bs).wg s.curWg).penPoison = (t.wg s.curWg).penPoison := by
  unfold State.penSet
  split
  · rfl
  · rw [wg_modWg h.there, if_pos rfl]
    dsimp only
    split
    · refine List.filter_eq_self.2 fun k hk => ?_
      by_contra hcover
      have : pa ≤ 4 * k ∧ 4 * k + 4 ≤ pa + bs.length := by simpa using hcover
      exact hlost k (mem_wordsOf hn hdvd this.1 this.2) hk
    · rfl

theorem penRmw_of_none {op : Aop} {pa x y : Nat} (h : aopNew op (t.penNat t.curWg pa (aopBytes op)) x y = none) :
    t.penRmw op pa x y = (t.penNat t.curWg pa (aopBytes op), t) := by
  simp only [State.penRmw, h]

theorem penRmw_of_some {op : Aop} {pa x y new : Nat} (h : aopNew op (t.penNat t.curWg pa (aopBytes op)) x y = some new) :
    t.penRmw op pa x y =
      (t.penNat t.curWg pa (aopBytes op), t.penSet t.curWg pa (bytesOfNat (aopBytes op) new)) := by
  simp only [State.penRmw, h]

/-- The number at an address of a pen with these bytes. -/
def numberIn (m : Nat → Byte) (pa n : Nat) : Nat := natOfBytes ((List.range n).map (fun i => m (pa + i)))

theorem numberIn_lt (m : Nat → Byte) (pa n : Nat) : numberIn m pa n < 2 ^ (8 * n) := by
  have h := natOfBytes_lt ((List.range n).map (fun i => m (pa + i)))
  rwa [List.length_map, List.length_range, show 256 = 2 ^ 8 from rfl, ← pow_mul] at h

theorem numberIn_digit (m : Nat → Byte) {pa n b : Nat} (hb : pa ≤ b ∧ b < pa + n) :
    BitVec.ofNat 8 (numberIn m pa n / 256 ^ (b - pa)) = m b := by
  rw [numberIn, natOfBytes_digit _ _ (by rw [List.length_map, List.length_range]; omega), List.getElem_map, List.getElem_range,
    show pa + (b - pa) = b by omega]

/-- The bytes of a pen after one lane's operation. -/
def rmwBytes (op : Aop) (pa x y : Nat) (m : Nat → Byte) (b : Nat) : Byte :=
  if pa ≤ b ∧ b < pa + aopBytes op then BitVec.ofNat 8 (atomNew op (numberIn m pa (aopBytes op)) x y / 256 ^ (b - pa)) else m b

/-- One lane of ATOMP: it reads the old value, and leaves what Table 9.7 gives. -/
theorem PenWritten.penRmw (h : PenWritten s t window) {op : Aop} {pa x y : Nat} (hdvd : aopBytes op ∣ pa)
    (hwin : windowBase ≤ pa → window = true) (hx : x < 2 ^ (8 * aopBytes op))
    (hlost : ∀ k ∈ wordsOf pa (aopBytes op), k ∉ (t.wg s.curWg).penPoison) :
    (t.penRmw op pa x y).1 = numberIn (t.penByte s.curWg) pa (aopBytes op) ∧ PenWritten s (t.penRmw op pa x y).2 window ∧
    (t.penRmw op pa x y).2.penByte s.curWg = rmwBytes op pa x y (t.penByte s.curWg) ∧
    ((t.penRmw op pa x y).2.wg s.curWg).penPoison = (t.wg s.curWg).penPoison := by
  have hold : t.penNat t.curWg pa (aopBytes op) = numberIn (t.penByte s.curWg) pa (aopBytes op) := by
    rw [h.curWg]
    rfl
  have hnew := aopNew_eq op y (numberIn_lt (t.penByte s.curWg) pa (aopBytes op)) hx
  cases hop : aopNew op (t.penNat t.curWg pa (aopBytes op)) x y with
  | none =>
    rw [penRmw_of_none hop]
    refine ⟨hold, h, ?_, rfl⟩
    rw [hold] at hop
    rw [hop] at hnew
    funext b
    unfold rmwBytes
    rw [← hnew]
    split
    · exact (numberIn_digit _ ‹_›).symm
    · rfl
  | some new =>
    have hrmw : t.penRmw op pa x y =
        (numberIn (t.penByte s.curWg) pa (aopBytes op), t.penSet s.curWg pa (bytesOfNat (aopBytes op) new)) := by
      rw [penRmw_of_some hop, hold, h.curWg]
    rw [hrmw]
    have hlen := length_bytesOfNat (aopBytes op) new
    have hside : pa + (bytesOfNat (aopBytes op) new).length ≤ windowBase ∨ windowBase ≤ pa := by
      rw [hlen]
      exact aligned_side (by cases op <;> decide) hdvd
    have hpoison := h.penPoison_penSet (bs := bytesOfNat (aopBytes op) new) (pa := pa) (by rw [hlen]; exact aopBytes_cases op)
      (by rw [hlen]; exact hdvd) (by rw [hlen]; exact hlost)
    refine ⟨rfl, h.penSet pa _ hwin, ?_, hpoison⟩
    rw [hold] at hop
    rw [hop] at hnew
    funext b
    unfold rmwBytes
    rw [h.penByte_penSet hside, cellsFrom_bytesOfNat, lastAt_numberCells, ← hnew]
    split <;> rfl

/-! ## Lane after lane -/

/-- The lanes of ATOMP in turn, with the old values in front of theirs. -/
def rmwPen (op : Aop) (arg : Nat → Nat × Nat) (p : Tab (List Word) × State) (e : Elem) : Tab (List Word) × State :=
  (p.1 ++ [(e.lane, aopWords op (p.2.penRmw op e.a (arg e.lane).1 (arg e.lane).2).1)], (p.2.penRmw op e.a (arg e.lane).1 (arg e.lane).2).2)

theorem atomRun_cons (op : Aop) (arg : Nat → Nat × Nat) (l pa : Nat) (r : List (Nat × Nat)) (m : Nat → Byte) :
    atomRun op (fun _ => false) arg ((l, pa) :: r) m =
      ((l, numberIn m pa (aopBytes op)) :: (atomRun op (fun _ => false) arg r (rmwBytes op pa (arg l).1 (arg l).2 m)).1,
        (atomRun op (fun _ => false) arg r (rmwBytes op pa (arg l).1 (arg l).2 m)).2) := by
  have hm : rmwBytes op pa (arg l).1 (arg l).2 m = fun b => if pa ≤ b ∧ b < pa + aopBytes op ∧ (fun _ => false) b = false
      then BitVec.ofNat 8 (atomNew op (numberIn m pa (aopBytes op)) (arg l).1 (arg l).2 / 256 ^ (b - pa)) else m b := by
    funext b
    simp only [rmwBytes, and_true]
  rw [hm]
  rfl

/-- The lanes of ATOMP run as those of the manual: each on what the one before left. -/
theorem PenWritten.rmwLanes {op : Aop} {arg : Nat → Nat × Nat} (ha : ∀ l, (arg l).1 < 2 ^ (8 * aopBytes op)) (es : List Elem) :
    ∀ (olds : Tab (List Word)) (t : State), PenWritten s t window → (∀ e ∈ es, aopBytes op ∣ e.a ∧ (windowBase ≤ e.a → window = true)) →
      (∀ e ∈ es, ∀ k ∈ wordsOf e.a (aopBytes op), k ∉ (t.wg s.curWg).penPoison) →
      let p := es.foldl (rmwPen op arg) (olds, t)
      let run := atomRun op (fun _ => false) arg (es.map (fun e => (e.lane, e.a))) (t.penByte s.curWg)
      p.1 = olds ++ run.1.map (fun o => (o.1, aopWords op o.2)) ∧ PenWritten s p.2 window ∧ p.2.penByte s.curWg = run.2 ∧
        (p.2.wg s.curWg).penPoison = (t.wg s.curWg).penPoison := by
  induction es with
  | nil =>
    intro olds t ht _ _
    exact ⟨(List.append_nil olds).symm, ht, rfl, rfl⟩
  | cons e r ih =>
    intro olds t ht hes hlost
    obtain ⟨hdvd, hwin⟩ := hes e List.mem_cons_self
    obtain ⟨hold, hstep, hbytes, hpoison⟩ := ht.penRmw (y := (arg e.lane).2) hdvd hwin (ha e.lane) (hlost e List.mem_cons_self)
    obtain ⟨holds, hu, hrun, hkeep⟩ := ih (olds ++ [(e.lane, aopWords op (numberIn (t.penByte s.curWg) e.a (aopBytes op)))]) _ hstep
      (fun x hx => hes x (List.mem_cons_of_mem _ hx)) fun x hx => hpoison ▸ hlost x (List.mem_cons_of_mem _ hx)
    rw [hbytes] at holds hrun
    rw [List.foldl_cons, List.map_cons, atomRun_cons, rmwPen, hold]
    refine ⟨?_, hu, hrun, hkeep.trans hpoison⟩
    rw [holds, List.append_assoc]
    rfl

/-- Every lane of a run has an old value. -/
theorem atomRun_lanes (op : Aop) (arg : Nat → Nat × Nat) (ls : List (Nat × Nat)) (m : Nat → Byte) :
    (atomRun op (fun _ => false) arg ls m).1.map Prod.fst = ls.map Prod.fst := by
  induction ls generalizing m with
  | nil => rfl
  | cons x r ih =>
    obtain ⟨l, pa⟩ := x
    rw [atomRun_cons, List.map_cons, List.map_cons, ih]

/-- The words of a lane's old value, as the model and as the manual look them up. -/
theorem tabGet_olds (op : Aop) {olds : List (Nat × Nat)} {l : Nat} (hl : l ∈ olds.map Prod.fst) :
    (tabGet (olds.map (fun o => (o.1, aopWords op o.2))) l).getD [] = atomResult op olds l := by
  unfold atomResult
  induction olds with
  | nil => exact absurd hl List.not_mem_nil
  | cons o r ih =>
    rw [List.map_cons, tabGet, List.find?_cons]
    by_cases h : o.1 = l
    · rw [if_pos h, decide_eq_true h]
      exact (oldWords_eq op o.2).symm
    · rw [if_neg h, decide_eq_false h]
      exact ih ((List.mem_cons.1 hl).resolve_left (Ne.symm h))

theorem length_atomResult (op : Aop) (olds : List (Nat × Nat)) (l : Nat) : (atomResult op olds l).length = if aopWide op then 2 else 1 := by
  unfold atomResult
  split <;> rw [oldWords_eq, length_aopWords]

theorem PenWritten.giveWords (h : PenWritten s t window) (d : VDst) : giveWords t d = Claims.giveWords s d := by
  unfold Claims.giveWords State.give State.writes State.active State.cur State.wave
  rw [h.iss, h.waves]

theorem atomp_spec (op : Aop) (d : VReg) (a : VSrc) (off : BitVec 7) (spare : BitVec 6) (s : State) (hp : Passes (.atomp op d a off spare) s) :
    let es := s.penElems a off (aopBytes op)
    offsetsFit (aopBytes op) es → s.penLost s.curWg (aopBytes op) es = [] → atHome s →
    let run := atomRun op (fun _ => false) (fun l => s.src.groupOperands l op d) (es.map (fun e => (e.lane, e.a))) (s.penByte s.curWg)
    ∃ t, exec (.atomp op d a off spare) s = .next t ∧ PenFrame s t (namesWindow es) ∧
      t.waves = tabMod s.waves s.iss.key (fun v => { v.advanced s (fun l x => giveWords s (.reg d) l (atomResult op run.1 l) x) with
        penpass := v.penpass + BitVec.ofNat 32 (atomPasses (aopBytes op) (es.map (fun e => (e.lane, e.a)))) }) ∧
      (∀ b, t.penByte s.curWg b = run.2 b) ∧ (t.wg s.curWg).penPoison = (s.wg s.curWg).penPoison := by
  intro es hes hlost hhome run
  change s.penLost s.curWg (aopBytes op) (s.penElems a off (aopBytes op)) = [] at hlost
  let arg := fun (l : Nat) => s.src.groupOperands l op d
  have hbyte : (s.claimWindow es).penByte s.curWg = s.penByte s.curWg := funext fun b => penByte_claimWindow s es _ b
  have hclaim := (PenWritten.refl hhome (namesWindow es)).claimWindow es id
  have hsound : ∀ e ∈ es, ∀ k ∈ wordsOf e.a (aopBytes op), k ∉ ((s.claimWindow es).wg s.curWg).penPoison := by
    rw [wg_claimWindow]
    simpa [State.penLost] using hlost
  obtain ⟨holds, hu, hrun, hpoison⟩ := PenWritten.rmwLanes (arg := arg) (fun l => groupOperands_lt _ l op d) es [] _ hclaim
    (fun e he => ⟨penElems_dvd hes e he, namesWindow_of_mem he⟩) hsound
  rw [hbyte] at holds hrun
  rw [wg_claimWindow] at hpoison
  have hlanes : run.1.map Prod.fst = lanesOf s.active := by
    rw [atomRun_lanes, List.map_map]
    exact (List.map_map ..).trans (List.map_id _)
  have hexec : exec (.atomp op d a off spare) s = .next (State.adv (State.modCur
      ((es.foldl (rmwPen op arg) ([], s.claimWindow es)).2.putWords (.reg d) (if aopWide op then 2 else 1)
        (fun l => (tabGet (es.foldl (rmwPen op arg) ([], s.claimWindow es)).1 l).getD []))
      (fun v => v.addPasses (atomPasses (aopBytes op) (es.map (fun e => (e.lane, e.a))))))) := by
    refine (hp.checked rfl (offsetTrap_fit hes) _ : execAtomp op d a off spare s = _).trans ?_
    simp only [hlost, List.isEmpty_nil, Bool.not_true, Bool.false_eq_true, if_false]
    rfl
  refine ⟨_, hexec, ?_⟩
  clear hexec
  generalize es.foldl (rmwPen op arg) ([], s.claimWindow es) = p at holds hu hrun hpoison ⊢
  have hact : p.2.active = s.active := congrArg Issue.lanes hu.iss
  have hdata : ∀ l, p.2.active.getLsbD l = true → (tabGet p.1 l).getD [] = atomResult op run.1 l := by
    intro l hl
    rw [holds, List.nil_append]
    exact tabGet_olds op (hlanes ▸ mem_lanesOf.2 (hact ▸ hl))
  have hput := only_putWords p.2 (.reg d) (if aopWide op then 2 else 1) (fun l => (tabGet p.1 l).getD [])
    fun l hl => by rw [hdata l hl, length_atomResult]
  have hgive := hput.congr (g := fun v => v.lanesBy p.2.active (fun l x => giveWords s (.reg d) l (atomResult op run.1 l) x))
    fun v => lanesBy_congr fun l hl => by rw [hu.giveWords, hdata l hl]
  obtain ⟨hframe, hwaves, hpen, hlost'⟩ := hu.then (only_addPasses_adv hgive (atomPasses (aopBytes op) (es.map (fun e => (e.lane, e.a)))))
  simp only [hu.advanced] at hwaves
  exact ⟨hframe, hwaves, fun b => (hpen b).trans (congrFun hrun b), hlost'.trans hpoison⟩

/-- Settles O30: the loads deliver the words their bytes form; STP and ATOMP, by induction over their lanes, leave the pen as the
lanes in turn do. -/
theorem storeAndPenAccess : Obligations.StoreAndPenAccess := by
  unfold Obligations.StoreAndPenAccess
  exact ⟨⟨ldl_spec, stl_spec⟩, fun w d a off s hp hes hlost _ => ldp_spec w d a off s hp hes hlost, stp_spec, atomp_spec⟩

end Sys2Proof.Claims
end

section
/-! # Codes that fit their format

Every result of a 16-bit format is below 65536, so that two of them joined in a register keep apart. -/

namespace Sys2Proof.Claims

open Sys2Proof Sys2Proof.Machine

variable {F : FFmt}

/-! ## The codes of a format -/

theorem topCode_lt (F : FFmt) : F.topCode < 2 ^ F.magBits := by
  unfold FFmt.topCode FFmt.magBits
  split
  · rw [pow_add]
    exact Nat.mul_lt_mul_of_pos_right (Nat.sub_lt (Nat.two_pow_pos _) Nat.one_pos) (Nat.two_pow_pos _)
  · exact Nat.sub_lt (Nat.two_pow_pos _) Nat.one_pos

theorem nan_lt (hf : 0 < F.fracBits) : F.nan < 2 ^ F.magBits := by
  unfold FFmt.nan
  split
  next hi =>
    have hquiet : 2 ^ (F.fracBits - 1) < 2 ^ F.fracBits := Nat.pow_lt_pow_right (by decide) (by omega)
    have htop : F.topCode = 2 ^ F.magBits - 2 ^ F.fracBits := by
      rw [FFmt.topCode, if_pos hi, FFmt.magBits, pow_add, Nat.sub_mul, Nat.one_mul]
    have hle : 2 ^ F.fracBits ≤ 2 ^ F.magBits := Nat.pow_le_pow_right (by decide) (Nat.le_add_left _ _)
    omega
  next => exact topCode_lt F

theorem signed_lt {c : Nat} (h : c < 2 ^ F.magBits) (neg : Bool) : F.signed neg c < 2 ^ (F.magBits + 1) := by
  unfold FFmt.signed
  rw [pow_succ]
  split <;> omega

/-! ## Rounding -/

theorem roundMag_lt (F : FFmt) (mode : RMode) (neg : Bool) (num den : Nat) : (F.roundMag mode neg num den).1 < 2 ^ F.magBits := by
  have htop := topCode_lt F
  have hclamp (up : Bool) (c x y : Nat) :
      (if F.topCode ≤ c then (if up then F.topCode else F.topCode - 1, x) else (c, y)).1 < 2 ^ F.magBits := by
    split
    · dsimp only
      split <;> omega
    · dsimp only
      omega
  unfold FFmt.roundMag
  split
  · exact Nat.two_pow_pos _
  · exact hclamp ..

theorem roundRatio_lt (F : FFmt) (mode : RMode) (ftz neg : Bool) (num den : Nat) :
    (F.roundRatio mode ftz neg num den).1 < 2 ^ (F.magBits + 1) := by
  unfold FFmt.roundRatio
  dsimp only
  split
  · exact signed_lt (Nat.two_pow_pos _) neg
  · exact signed_lt (roundMag_lt F mode neg num den) neg

theorem round_lt (hf : 0 < F.fracBits) (mode : RMode) (ftz : Bool) (x : FVal) : (F.round mode ftz x).1 < 2 ^ (F.magBits + 1) := by
  have htop := topCode_lt F
  cases x with
  | nan sig => exact (nan_lt hf).trans (Nat.pow_lt_pow_right (by decide) (Nat.lt_succ_self _))
  | inf neg => exact signed_lt (by split <;> omega) neg
  | fin neg m e =>
    unfold FFmt.round
    dsimp only
    split <;> exact roundRatio_lt ..

theorem minMax_lt (hf : 0 < F.fracBits) (least ftz : Bool) {x y : Nat} (hx : x < 2 ^ (F.magBits + 1)) (hy : y < 2 ^ (F.magBits + 1)) :
    (F.minMax least ftz x y).1 < 2 ^ (F.magBits + 1) := by
  have hkeep (v : FVal) {c : Nat} (hc : c < 2 ^ (F.magBits + 1)) : (if v.isZero then F.signed v.neg 0 else c) < 2 ^ (F.magBits + 1) := by
    split
    · exact signed_lt (Nat.two_pow_pos _) v.neg
    · exact hc
  unfold FFmt.minMax
  dsimp only
  split
  · exact (nan_lt hf).trans (Nat.pow_lt_pow_right (by decide) (Nat.lt_succ_self _))
  split
  · exact hkeep _ hy
  split
  · exact hkeep _ hx
  split
  · exact hkeep _ hx
  · exact hkeep _ hy

end Sys2Proof.Claims
end

section
/-! # Results of one element, as the model and as the manual write them -/

namespace Sys2Proof.Claims

open Sys2Proof Sys2Proof.Machine

variable {F : FFmt}

/-! ## Two elements in a register (R62, R180) -/

theorem halfNo_lt (e : Nat) (x : Word) : halfNo e x < 65536 := Nat.mod_lt _ (by decide)

theorem toNat_halfLo (x : Word) : (halfLo x).toNat = halfNo 0 x := by
  rw [halfLo, BitVec.toNat_and, halfNo, Nat.mul_zero, pow_zero, Nat.div_one]
  exact Nat.and_two_pow_sub_one_eq_mod x.toNat 16

theorem toNat_halfHi (x : Word) : (halfHi x).toNat = halfNo 1 x := by
  have hx := x.isLt
  rw [halfHi, BitVec.toNat_ushiftRight, Nat.shiftRight_eq_div_pow, halfNo]
  omega

/-- A number below a power of two, and a multiple of it, share no bit. -/
theorem ofNat_add_mul_two_pow {m k : Nat} (hm : m < 2 ^ k) (q : Nat) :
    BitVec.ofNat 32 (m + q * 2 ^ k) = BitVec.ofNat 32 m ||| BitVec.ofNat 32 (q * 2 ^ k) := by
  rw [Nat.add_comm, Nat.mul_comm, Nat.two_pow_add_eq_or_of_lt hm, BitVec.ofNat_or, BitVec.or_comm]

theorem joinHalves_asWord {p : Nat × Nat} (hp : p.1 < 65536) (q : Nat × Nat) : joinHalves (asWord p) (asWord q) = pairOf p q := by
  have hshift : BitVec.ofNat 32 q.1 <<< 16 = BitVec.ofNat 32 (q.1 * 2 ^ 16) := by
    apply BitVec.eq_of_toNat_eq
    simp [Nat.shiftLeft_eq]
  rw [joinHalves, asWord, asWord, hshift, ← ofNat_add_mul_two_pow hp]
  rfl

/-- A packed form of two operands, each element by itself. -/
theorem packed2_eq {g : Wave → Nat → Nat → Nat × Nat} (hg : ∀ w x y, x < 65536 → y < 65536 → (g w x y).1 < 65536) :
    packed2 (fun w a b => asWord (g w a.toNat b.toNat)) = fun w x y => byHalves (g w) x y := by
  funext w x y
  simp only [packed2, toNat_halfLo, toNat_halfHi]
  exact joinHalves_asWord (hg w _ _ (halfNo_lt 0 x) (halfNo_lt 0 y)) _

/-- A packed form of three operands. -/
theorem packed3_eq {g : Wave → Nat → Nat → Nat → Nat × Nat} (hg : ∀ w x y z, (g w x y z).1 < 65536) :
    packed3 (fun w a b c => asWord (g w a.toNat b.toNat c.toNat)) = fun w x y z => byHalves3 (g w) x y z := by
  funext w x y z
  simp only [packed3, toNat_halfLo, toNat_halfHi]
  exact joinHalves_asWord (hg w _ _ _) _

/-- A format of 16 bits (Table 3.1). -/
def Sixteen (F : FFmt) : Prop := F.magBits = 15 ∧ 0 < F.fracBits

theorem sixteen_fp16 : Sixteen fp16 := ⟨rfl, by decide⟩
theorem sixteen_bf16 : Sixteen bf16 := ⟨rfl, by decide⟩

theorem Sixteen.rounded_lt (h : Sixteen F) (w : Wave) (x : FVal) : (rounded F w x).1 < 65536 := by
  have hlt := round_lt h.2 w.rm w.ftz x
  rwa [h.1] at hlt

theorem packed2_addF (h : Sixteen F) : packed2 (addF F) = fun w x y => byHalves (sumE F w) x y :=
  packed2_eq (g := sumE F) fun w _ _ _ _ => h.rounded_lt w _

theorem packed2_mulF (h : Sixteen F) : packed2 (mulF F) = fun w x y => byHalves (prodE F w) x y :=
  packed2_eq (g := prodE F) fun w _ _ _ _ => h.rounded_lt w _

theorem packed3_fmaF (h : Sixteen F) : packed3 (fmaF F) = fun w x y z => byHalves3 (fmaE F w) x y z :=
  packed3_eq (g := fmaE F) fun w _ _ _ => h.rounded_lt w _

theorem packed2_minmaxF (h : Sixteen F) (least : Bool) :
    packed2 (minmaxF F least) = fun w x y => byHalves (F.minMax least w.ftz) x y :=
  packed2_eq fun w x y hx hy => by
    have hlt := minMax_lt h.2 least w.ftz (x := x) (y := y) (by rwa [h.1]) (by rwa [h.1])
    rwa [h.1] at hlt

theorem packF_eq (h : Sixteen F) :
    packF F = fun w x y => pairOf (rounded F w (seen fp32 w x.toNat)) (rounded F w (seen fp32 w y.toNat)) := by
  funext w x y
  exact joinHalves_asWord (h.rounded_lt w _) _

/-- FDOT2H (R182). -/
theorem dot2h_eq : (fun w x y z => dot2h w z x y) = fun w x y z => asReg (rounded fp32 w (FVal.sum w.rm
    [seen fp32 w z.toNat, FVal.mul (seen fp16 w (halfNo 0 x)) (seen fp16 w (halfNo 0 y)),
      FVal.mul (seen fp16 w (halfNo 1 x)) (seen fp16 w (halfNo 1 y))])) := by
  funext w x y z
  simp only [dot2h, toNat_halfLo, toNat_halfHi]
  rfl

/-- CVT.F32.H and CVT.F32.B (R66). -/
theorem widen_halfLo (F : FFmt) : (fun (_ : Wave) x => (F.widen (halfLo x).toNat, 0)) = fun _ x => (F.widen (halfNo 0 x), 0) := by
  simp only [toNat_halfLo]
theorem widen_halfHi (F : FFmt) : (fun (_ : Wave) x => (F.widen (halfHi x).toNat, 0)) = fun _ x => (F.widen (halfNo 1 x), 0) := by
  simp only [toNat_halfHi]

/-! ## Comparisons (R181) -/

theorem fcmpF_eq (c : FCond) (w : Wave) (x y : Word) : fcmpF c w.ftz x.toNat y.toNat = (floatCond c w x y, condExc w x y) := by
  refine Prod.ext ?_ rfl
  cases c with
  | lt | le =>
    simp only [fcmpF, floatCond, seen, Bool.not_or]
    rfl
  | eq | ne | un | od => simp [fcmpF, floatCond, seen, beq_eq_decide]

/-! ## Bits of a word -/

/-- The sign bit alone. -/
theorem and_signBit (y : Word) : y &&& 0x80000000#32 = BitVec.ofNat 32 (y.toNat / 2 ^ 31 * 2 ^ 31) := by
  have hy := y.isLt
  apply BitVec.eq_of_toNat_eq
  rw [BitVec.toNat_and, show (0x80000000#32).toNat = 2 ^ 31 from rfl, Nat.and_two_pow, Nat.toNat_testBit, BitVec.toNat_ofNat]
  omega

/-- All but the sign bit. -/
theorem and_magBits (x : Word) : x &&& 0x7FFFFFFF#32 = BitVec.ofNat 32 (x.toNat % 2 ^ 31) := by
  apply BitVec.eq_of_toNat_eq
  rw [BitVec.toNat_and, show (0x7FFFFFFF#32).toNat = 2 ^ 31 - 1 from rfl, Nat.and_two_pow_sub_one_eq_mod, BitVec.toNat_ofNat]
  omega

/-- FCOPYSIGN (R183). -/
theorem copySign_eq : copySign = fun w x y =>
    if (seen fp32 w x.toNat).isNan then (0x7FC00000#32, if (seen fp32 w x.toNat).isSig then 16 else 0)
    else (BitVec.ofNat 32 ((if (seen fp32 w x.toNat).isZero then 0 else x.toNat % 2 ^ 31) + y.toNat / 2 ^ 31 * 2 ^ 31), 0) := by
  funext w x y
  have hsign (v : FVal) : (if v.isZero then 0#32 else x &&& 0x7FFFFFFF#32) ||| (y &&& 0x80000000#32) =
      BitVec.ofNat 32 ((if v.isZero then 0 else x.toNat % 2 ^ 31) + y.toNat / 2 ^ 31 * 2 ^ 31) := by
    rw [ofNat_add_mul_two_pow (by split <;> omega), and_signBit, and_magBits]
    split <;> rfl
  unfold copySign
  rw [show fp32.read w x.toNat = seen fp32 w x.toNat from rfl]
  cases seen fp32 w x.toNat with
  | nan sig => rfl
  | inf neg => exact congrArg (·, 0) (hsign (.inf neg))
  | fin neg m e => exact congrArg (·, 0) (hsign (.fin neg m e))

/-- Byte `k` of a word. -/
theorem fld_byte (x : Word) (k : Nat) : fld x (8 * k) 8 = byteAt x.toNat k := congrArg (x.toNat / · % 256) (pow_mul 2 8 k)

/-- The number of the byte that PK8 and UNPK8 name. -/
theorem fld_byteNo (y : Word) : fld y 0 2 = y.toNat % 4 := congrArg (· % 4) (Nat.div_one y.toNat)

/-- UNPK8 (R66). -/
theorem unpk8_eq (F : FFmt) : (fun (_ : Wave) x y => unpk8 F x y) =
    fun _ x y => (F.widen (byteAt x.toNat (y.toNat % 4)), 0) := by
  funext w x y
  rw [unpk8, fld_byteNo, fld_byte]

/-- A byte moved to its place. -/
theorem toNat_byte_shl (x : Word) {j : Nat} (hj : j < 4) : ((x &&& 0xFF#32) <<< (8 * j)).toNat = x.toNat % 256 * 256 ^ j := by
  have hlt : x.toNat % 256 * 256 ^ j < 2 ^ 32 :=
    calc x.toNat % 256 * 256 ^ j ≤ 255 * 256 ^ 3 :=
          Nat.mul_le_mul (by omega) (Nat.pow_le_pow_right (by decide) (by omega))
      _ < 2 ^ 32 := by decide
  rw [BitVec.toNat_shiftLeft, BitVec.toNat_and, show (0xFF#32).toNat = 2 ^ 8 - 1 from rfl, Nat.and_two_pow_sub_one_eq_mod,
    Nat.shiftLeft_eq, pow_mul]
  exact Nat.mod_eq_of_lt hlt

/-- A byte of a word, in its place. -/
theorem toNat_and_byte (x : Word) {j : Nat} (hj : j < 4) : (x &&& 0xFF#32 <<< (8 * j)).toNat = byteAt x.toNat j * 256 ^ j := by
  have hmove : x &&& 0xFF#32 <<< (8 * j) = (x >>> (8 * j) &&& 0xFF#32) <<< (8 * j) := by
    apply BitVec.eq_of_getLsbD_eq
    intro i hi
    simp only [BitVec.getLsbD_and, BitVec.getLsbD_shiftLeft, BitVec.getLsbD_ushiftRight]
    by_cases h : i < 8 * j
    · simp [h]
    · simp [h, hi, Nat.add_sub_cancel' (Nat.not_lt.1 h)]
  rw [hmove, toNat_byte_shl _ hj, BitVec.toNat_ushiftRight, Nat.shiftRight_eq_div_pow, pow_mul]
  rfl

/-- The bits of a word under a mask and those beside it share none. -/
theorem and_not_and_and {n : Nat} (a m c : BitVec n) : (a &&& ~~~m) &&& (c &&& m) = 0#n := by
  ext i
  simp only [BitVec.getElem_and, BitVec.getElem_not, BitVec.getElem_zero]
  cases m[i] <;> simp

/-- A number is its bits under a mask and those beside it. -/
theorem toNat_and_not_add {n : Nat} (a m : BitVec n) : (a &&& ~~~m).toNat + (a &&& m).toNat = a.toNat := by
  rw [← BitVec.toNat_add_of_and_eq_zero (and_not_and_and a m a), BitVec.add_eq_or_of_and_eq_zero _ _ (and_not_and_and a m a)]
  congr 1
  ext i
  simp only [BitVec.getElem_or, BitVec.getElem_and, BitVec.getElem_not]
  cases m[i] <;> simp

/-- PK8 (R65): a word with a byte replaced. -/
theorem putByte_eq (dd b x : Word) : putByte dd b x = BitVec.ofNat 32
    (dd.toNat - byteAt dd.toNat (b.toNat % 4) * 256 ^ (b.toNat % 4) + x.toNat % 256 * 256 ^ (b.toNat % 4)) := by
  have hj : b.toNat % 4 < 4 := Nat.mod_lt _ (by decide)
  rw [putByte, fld_byteNo]
  generalize b.toNat % 4 = j at hj
  change dd &&& ~~~(0xFF#32 <<< (8 * j)) ||| (x &&& 0xFF#32) <<< (8 * j) = _
  have hsplit := toNat_and_not_add dd (0xFF#32 <<< (8 * j))
  have hapart := and_not_and_and dd (0xFF#32 <<< (8 * j)) (x <<< (8 * j))
  rw [← BitVec.shiftLeft_and_distrib] at hapart
  rw [toNat_and_byte dd hj] at hsplit
  apply BitVec.eq_of_toNat_eq
  rw [← BitVec.add_eq_or_of_and_eq_zero _ _ hapart, BitVec.toNat_add, toNat_byte_shl x hj, BitVec.toNat_ofNat]
  omega

/-- CVT.F32.U32 (R73). -/
theorem cvtFromInt_toNat : (fun w (x : Word) => cvtFromInt w x.toNat) =
    fun w x => asReg (fp32.round w.rm false (.fin false x.toNat 0)) := by
  funext w x
  have h : FVal.ofInt x.toNat = .fin false x.toNat 0 := by simp [FVal.ofInt]
  rw [cvtFromInt, h]
  rfl

end Sys2Proof.Claims
end

section
/-! # Floating-point forms at issue

The forms of Tables 8.1 and 8.3 and the uniform ones differ in the lanes an upset strikes and in where the result goes.
`floatIssue` is what all of them do past that; `exec_of_floatRule` and `exec_of_uniFloatRule` say that they do it. -/

namespace Sys2Proof.Claims

open Sys2Proof Sys2Proof.Machine

variable {s : State} {i : Instr} {who : State → Mask} {put : (Nat → Word) → State → State}

/-! ## The checks of the results (R72, R77) -/

theorem fpTrap_of_unmet {fl : Nat → Nat} (h : metAll s fl &&& s.src.traps = 0) : s.fpTrap fl = none := if_pos h

theorem fpTrap_of_met {fl : Nat → Nat} (h : metAll s fl &&& s.src.traps ≠ 0) : s.fpTrap fl = some (fpexc s fl) := if_neg h

theorem shadowTrap_of_unfailed {m : Mask} {kind : FKind} {val : Nat → Word} (h : Unfailed s m (some kind) val) :
    s.shadowTrap m kind val = none := by
  refine if_pos (maskOf_eq_zero.2 fun l hl => ?_)
  by_cases hm : m.getLsbD l = true
  · rw [hm, Bool.true_and]
    exact h kind rfl l hl hm
  · rw [Bool.eq_false_of_not_eq_true hm, Bool.false_and]

theorem shadowTrap_of_failing {m : Mask} {kind : FKind} {val : Nat → Word} (h : failing s m kind val ≠ 0#32) :
    s.shadowTrap m kind val = some (shadowAt s (failing s m kind val)) := if_neg h

theorem spend_eq (s : State) (kind : FKind) : s.spend = spent s (some kind) := by
  unfold State.spend spent
  by_cases h : s.strikes = 0#32 <;> simp [h]

/-- Quarantined, the unit of a wave's quarter is listed, and nothing else differs (R417). -/
theorem quarantine_lists (s : State) (unit loc : Nat) :
    { s.quarantine unit loc with quarantined := s.quarantined } = s ∧
      ∃ q ∈ (s.quarantine unit loc).quarantined, q.unit = unit ∧ q.loc = loc := by
  unfold State.quarantine
  split
  next h =>
    obtain ⟨q, hq, hat⟩ := List.any_eq_true.1 h
    rw [Bool.and_eq_true, decide_eq_true_eq, decide_eq_true_eq] at hat
    exact ⟨rfl, q, hq, hat⟩
  next => exact ⟨rfl, _, List.mem_append_right _ List.mem_cons_self, rfl, rfl⟩

/-- What the model does on a failed check is what R78 and R417 say. -/
theorem shadowFound_found (s : State) (key : Nat) : ShadowFound s key (s.shadowFound key) := by
  obtain ⟨hrest, hlists⟩ := quarantine_lists s 1 (locOfCore (keyCore key) (keyQuarter key % 4))
  exact ⟨_, hrest, hlists, rfl⟩

/-! ## What a form does -/

/-- A form past the decoding: with a kind its results are shadow-checked in the lanes `who`, without one they are integers
(R179). -/
def floatIssue (who : State → Mask) (i : Instr) (k : Option FKind) (f : Wave → Nat → Word × Nat)
    (put : (Nat → Word) → State → State) (s : State) : Out :=
  match k with
  | some kind => floatingIn who i kind f put s
  | none => flagged i (fun w l => (f w l).2) (fun s => put (fun l => (f s.src l).1) s) s

theorem flagged_of_unmet {fl : Wave → Nat → Nat} {eff : State → State} (hp : Passes i s)
    (h : metAll s (fl s.src) &&& s.src.traps = 0) :
    flagged i fl eff s = .next ((eff s).raiseFlags (combined s.active (fl s.src))).adv :=
  hp.checked rfl (fpTrap_of_unmet h) _

theorem flagged_of_met {fl : Wave → Nat → Nat} {eff : State → State} (hp : Passes i s)
    (h : metAll s (fl s.src) &&& s.src.traps ≠ 0) : flagged i fl eff s = .next (s.raise (fpexc s (fl s.src))) :=
  checked_own hp (fpTrap_of_met h)

variable {k : Option FKind} {f : Wave → Nat → Word × Nat}

/-- A form whose check fails in no lane and which meets no enabled exception delivers its results. -/
theorem floatIssue_of_unmet (hp : Passes i s) (hu : Unfailed s (who s) k (fun l => (f s.src l).1))
    (h : metAll s (fun l => (f s.src l).2) &&& s.src.traps = 0) : floatIssue who i k f put s =
      .next ((put (delivered s (who s) k (fun l => (f s.src l).1)) (spent s k)).raiseFlags
        (combined s.active (fun l => (f s.src l).2))).adv := by
  cases k with
  | none => exact flagged_of_unmet (fl := fun w l => (f w l).2) hp h
  | some kind =>
    simp only [floatIssue, floatingIn, hp.issueTrap, shadowTrap_of_unfailed hu, fpTrap_of_unmet h, spend_eq s kind]
    rfl

/-- A form whose check fails in no lane and which meets an enabled exception raises FPEXC (R72). -/
theorem floatIssue_of_met (hp : Passes i s) (hu : Unfailed s (who s) k (fun l => (f s.src l).1))
    (h : metAll s (fun l => (f s.src l).2) &&& s.src.traps ≠ 0) :
    floatIssue who i k f put s = .next (s.raise (fpexc s (fun l => (f s.src l).2))) := by
  cases k with
  | none => exact flagged_of_met (fl := fun w l => (f w l).2) hp h
  | some kind => simp only [floatIssue, floatingIn, hp.issueTrap, shadowTrap_of_unfailed hu, fpTrap_of_met h]

/-- A form whose check fails raises SHADOW, whatever exceptions it also meets (R78, log entry 4). -/
theorem floatIssue_of_failing {kind : FKind} (hp : Passes i s) (h : failing s (who s) kind (fun l => (f s.src l).1) ≠ 0#32) :
    floatIssue who i (some kind) f put s =
      .next (s.shadowRecord.raise (shadowAt s (failing s (who s) kind (fun l => (f s.src l).1)))) := by
  simp only [floatIssue, floatingIn, hp.issueTrap, shadowTrap_of_failing h]

/-! ## Which form an instruction is -/

/-- A vector result: D, unless under NW, and the latches. -/
def putResult (n : Bool) (d : VDst) (v : Nat → Word) (s : State) : State :=
  (if n then s else s.putD d v).push false (fun l => (v l).setWidth 64)

/-- A uniform result: s d, from the one element that every active lane's is. -/
def putUniform (d : UDst) (v : Nat → Word) (s : State) : State := s.putU d (v ((lowestLane s.active).getD 0))

/-- A form of two operands, of three and of one, with the element result that the manual gives. -/
theorem fbin_congr {kind : FKind} {n : Bool} {d : VDst} {a b : VSrc} {g g' : Wave → Word → Word → Word × Nat} (h : g = g') :
    fbin i kind n d a b g s = floatIssue State.strikes i (some kind) (fun w l => g' w (w.v32 l a) (w.v32 l b)) (putResult n d) s := by
  rw [h]
  rfl
theorem fter_congr {kind : FKind} {n : Bool} {d : VDst} {a b : VSrc} {g g' : Wave → Word → Word → Word → Word × Nat} (h : g = g') :
    fter i kind n d a b g s =
      floatIssue State.strikes i (some kind) (fun w l => g' w (w.v32 l a) (w.v32 l b) (w.vd32 l d)) (putResult n d) s := by
  rw [h]
  rfl
theorem fun1_congr {kind : FKind} {n : Bool} {d : VDst} {a : VSrc} {g g' : Wave → Word → Word × Nat} (h : g = g') :
    fun1 i kind n d a g s = floatIssue State.strikes i (some kind) (fun w l => g' w (w.v32 l a)) (putResult n d) s := by
  rw [h]
  rfl

/-- A comparison (R181). -/
theorem fint_fcmpF (c : FCond) (n : Bool) (d : VDst) (a b : VSrc) :
    fint i n d (fun w l => (allOnes (fcmpF c w.ftz (w.v32 l a).toNat (w.v32 l b).toNat).1,
      (fcmpF c w.ftz (w.v32 l a).toNat (w.v32 l b).toNat).2)) s =
    floatIssue State.strikes i none (fun w l => (wordOf (floatCond c w (w.v32 l a) (w.v32 l b)), condExc w (w.v32 l a) (w.v32 l b)))
      (putResult n d) s := by
  simp only [fcmpF_eq]
  rfl

/-- Tables 8.1 and 8.3: each form's element results are the manual's; the cases named are those the model writes otherwise. -/
theorem exec_of_floatRule {n : Bool} {d : VDst} (h : floatRule i = some (n, d, k, f)) (s : State) :
    exec i s = floatIssue State.strikes i k f (putResult n d) s := by
  unfold floatRule at h
  dsimp only at h
  split at h
  all_goals cases h
  case h_9 | h_10 | h_11 | h_12 | h_13 | h_14 => exact fint_fcmpF ..          -- FCMP
  case h_15 => exact (fbin_congr (packed2_addF sixteen_fp16) :)               -- HADD2
  case h_16 => exact (fbin_congr (packed2_mulF sixteen_fp16) :)               -- HMUL2
  case h_17 => exact (fter_congr (packed3_fmaF sixteen_fp16) :)               -- HFMA2
  case h_18 => exact (fbin_congr (packed2_minmaxF sixteen_fp16 true) :)       -- HMIN2
  case h_19 => exact (fbin_congr (packed2_minmaxF sixteen_fp16 false) :)      -- HMAX2
  case h_20 => exact (fbin_congr (packed2_addF sixteen_bf16) :)               -- BADD2
  case h_21 => exact (fbin_congr (packed2_mulF sixteen_bf16) :)               -- BMUL2
  case h_22 => exact (fter_congr (packed3_fmaF sixteen_bf16) :)               -- BFMA2
  case h_23 => exact (fter_congr dot2h_eq :)                                  -- FDOT2H
  case h_25 => exact (fbin_congr copySign_eq :)                               -- FCOPYSIGN
  case h_40 => exact (fun1_congr cvtFromInt_toNat :)                          -- CVT.F32.U32
  case h_43 => exact (fbin_congr (packF_eq sixteen_fp16) :)                   -- PACKH
  case h_44 => exact (fbin_congr (packF_eq sixteen_bf16) :)                   -- PACKB
  case h_45 => exact (fun1_congr (widen_halfLo fp16) :)                       -- CVT.F32.H.LO
  case h_46 => exact (fun1_congr (widen_halfHi fp16) :)                       -- CVT.F32.H.HI
  case h_47 => exact (fun1_congr (widen_halfLo bf16) :)                       -- CVT.F32.B.LO
  case h_48 => exact (fun1_congr (widen_halfHi bf16) :)                       -- CVT.F32.B.HI
  case h_49 => exact (fbin_congr (unpk8_eq e4m3) :)                           -- UNPK8.E4
  case h_50 => exact (fbin_congr (unpk8_eq e5m2) :)                           -- UNPK8.E5
  all_goals rfl

/-- The uniform forms (R177). -/
theorem exec_of_uniFloatRule {d : UDst} {g : Wave → Word × Nat} (h : uniFloatRule i = some (d, k, g)) (s : State) :
    exec i s = floatIssue allStruck i k (fun w _ => g w) (putUniform d) s := by
  unfold uniFloatRule at h
  split at h
  all_goals cases h
  all_goals rfl

/-- The comparisons into a mask (R181). -/
theorem exec_of_maskFloatRule {d : MReg} {a b : VSrc} {c : FCond} (h : maskFloatRule i = some (d, a, b, c)) (s : State) :
    exec i s = flagged i (fun w l => condExc w (w.v32 l a) (w.v32 l b))
      (fun s => s.putM d (s.lanesWhere (fun l => floatCond c s.src (s.src.v32 l a) (s.src.v32 l b)))) s := by
  have hform : exec i s = fcmpm i d c a b s := by
    unfold maskFloatRule at h
    split at h
    all_goals cases h
    all_goals rfl
  rw [hform, fcmpm]
  simp only [fcmpF_eq]

end Sys2Proof.Claims
end

section
/-! # What a floating-point form changes -/

namespace Sys2Proof.Claims

open Sys2Proof Sys2Proof.Machine

variable {s : State} {i : Instr}

/-- A vector result changes the active lanes of the issuing wave. -/
theorem only_putResult (s : State) (n : Bool) (d : VDst) (v : Nat → Word) :
    Only s (putResult n d v s) (fun w => w.lanesBy s.active (fun l x =>
      (if n then x else s.give32 d l (v l) x).latched ((v l).setWidth 64) false)) := by
  cases n with
  | false => exact (only_putD s d v).lanes (only_push _ false _)
  | true => exact only_push s false _

/-- A change of the active lanes, then the exceptions in FPFLAGS and the lanes at next_pc. -/
theorem only_raiseFlags_adv {s t : State} {f : Nat → Lane → Lane} (h : Only s t (fun w => w.lanesBy s.active f)) (fl : Nat) :
    Only s (t.raiseFlags fl).adv (fun w => { w.advanced s f with fpflags := w.fpflags ||| BitVec.ofNat 32 (fl % 32) }) := by
  refine (h.trans (Only.modCur t _)).advAfter.congr fun w => ?_
  change { (w.lanesBy s.active f).lanesBy s.active (fun l x => { sameLane l x with pc := s.iss.next }) with
    fpflags := w.fpflags ||| BitVec.ofNat 32 (fl % 32) } = _
  rw [Wave.lanesBy_lanesBy]
  rfl

/-- Settles O6: whichever the form, it does what `floatIssue` does, with the manual's element results. -/
theorem floatResults : Obligations.FloatResults := by
  unfold Obligations.FloatResults
  intro i s n d k f hi hp hu hmet
  exact ⟨_, (exec_of_floatRule hi s).trans (floatIssue_of_unmet hp hu hmet), only_raiseFlags_adv (only_putResult (spent s k) n d _) _⟩

/-! ## PK8 (R65) -/

/-- Which form PK8 is. -/
theorem exec_of_packRule {n : Bool} {d : VDst} {b : VSrc} {kind : FKind} {f : Wave → Nat → Word × Nat}
    (h : packRule i = some (n, d, b, kind, f)) (s : State) :
    ∃ F a, exec i s = packByte i kind F n d a b s ∧ f = fun w l => asReg (F.pack8 (w.v32 l a).toNat) := by
  unfold packRule at h
  split at h
  all_goals cases h
  · exact ⟨e4m3, _, rfl, rfl⟩
  · exact ⟨e5m2, _, rfl, rfl⟩

theorem packByte_of_unfailed {n : Bool} {d : VDst} {a b : VSrc} {kind : FKind} {F : FFmt} (hp : Passes i s)
    (hu : Unfailed s s.strikes (some kind) (fun l => (asReg (F.pack8 (s.src.v32 l a).toNat)).1)) : packByte i kind F n d a b s =
      .next ((putResult n d (fun l => withByte s.src l d b (delivered s s.strikes (some kind)
        (fun l => (asReg (F.pack8 (s.src.v32 l a).toNat)).1) l)) (spent s (some kind))).raiseFlags
          (combined s.active (fun l => (asReg (F.pack8 (s.src.v32 l a).toNat)).2))).adv := by
  have hshadow := shadowTrap_of_unfailed hu
  simp only [asReg] at hshadow
  simp only [packByte, asWord, hp.issueTrap, hshadow, putByte_eq, spend_eq s kind]
  rfl

theorem packByte_of_failing {n : Bool} {d : VDst} {a b : VSrc} {kind : FKind} {F : FFmt} (hp : Passes i s)
    (hf : failing s s.strikes kind (fun l => (asReg (F.pack8 (s.src.v32 l a).toNat)).1) ≠ 0#32) : packByte i kind F n d a b s =
      .next (s.shadowRecord.raise (shadowAt s (failing s s.strikes kind (fun l => (asReg (F.pack8 (s.src.v32 l a).toNat)).1)))) := by
  have hshadow := shadowTrap_of_failing hf
  simp only [asReg] at hshadow ⊢
  simp only [packByte, asWord, hp.issueTrap, hshadow]

/-- Settles O7: no trap stands between the shadow check and the byte. -/
theorem packedByteResults : Obligations.PackedByteResults := by
  unfold Obligations.PackedByteResults
  intro i s n d b k f hi hp hu out
  obtain ⟨F, a, hexec, rfl⟩ := exec_of_packRule hi s
  exact ⟨_, hexec.trans (packByte_of_unfailed hp hu), only_raiseFlags_adv (only_putResult (spent s (some k)) n d out) _⟩

end Sys2Proof.Claims
end

section
/-! # FPEXC and SHADOW -/

namespace Sys2Proof.Claims

open Sys2Proof Sys2Proof.Machine

variable {s : State} {i : Instr}

/-- Settles O9: the three kinds of forms meet the same check (`fpTrap_of_met`). -/
theorem floatTraps : Obligations.FloatTraps := by
  unfold Obligations.FloatTraps
  exact ⟨fun i s n d k f hi hp hu hmet => (exec_of_floatRule hi s).trans (floatIssue_of_met hp hu hmet),
    fun i s d a b c hi hp hmet => (exec_of_maskFloatRule hi s).trans (flagged_of_met hp hmet),
    fun i s d k f hi hp hu hmet => (exec_of_uniFloatRule hi s).trans (floatIssue_of_met hp hu hmet)⟩

/-! ## FDIV (R184) -/

/-- The quotient of a lane. -/
def quotient (s : State) (a b : VSrc) (l : Nat) : Word × Nat :=
  asReg (fp32.div s.src.rm s.src.ftz (seen fp32 s.src (s.src.v32 l a).toNat) (seen fp32 s.src (s.src.v32 l b).toNat))

/-- An FDIV under an enabled trap whose check fails. -/
theorem exec_fdiv_trapped {d : VDst} {a b : VSrc} (hp : Passes (.fdiv d a b) s) (ht : s.src.traps ≠ 0)
    (hf : failing s s.strikes .single (fun l => (quotient s a b l).1) ≠ 0#32) :
    exec (.fdiv d a b) s = .next (s.shadowRecord.raise (shadowAt s (failing s s.strikes .single (fun l => (quotient s a b l).1)))) := by
  change execFdiv d a b s = _
  rw [execFdiv, hp.issueTrap]
  exact (if_pos ht).trans (if_pos hf)

/-- An FDIV that enables no trap owes its results, the lanes whose check fails marked (log entry 51). -/
theorem exec_fdiv_owes {r : VReg} {a b : VSrc} (hp : Passes (.fdiv (.reg r) a b) s) (ht : s.src.traps = 0) :
    exec (.fdiv (.reg r) a b) s = .next (s.spend.owe .fdiv (.vec (s.src.wb + r.val) 1) s.active
      (perLane s.active (s.struck s.strikes .single (fun l => (quotient s a b l).1))) (combined s.active (fun l => (quotient s a b l).2))
      (failing s s.strikes .single (fun l => (quotient s a b l).1)) false).adv := by
  change execFdiv (.reg r) a b s = _
  rw [execFdiv, hp.issueTrap]
  exact if_neg (not_not_intro ht)

/-- With D = 124 the failure is reported at once. -/
theorem exec_fdiv_discards {a b : VSrc} (hp : Passes (.fdiv .discard a b) s) (ht : s.src.traps = 0)
    (hf : failing s s.strikes .single (fun l => (quotient s a b l).1) ≠ 0#32) :
    exec (.fdiv .discard a b) s = .next s.shadowRecord.adv := by
  change execFdiv .discard a b s = _
  rw [execFdiv, hp.issueTrap]
  refine (if_neg (not_not_intro ht)).trans ?_
  exact congrArg (fun t => Host.Outcome.next (State.adv t)) (if_neg hf)

/-- Where no upset strikes no check fails. -/
theorem strikes_ne_zero_of_failing {kind : FKind} {val : Nat → Word} (hf : failing s s.strikes kind val ≠ 0#32) :
    s.strikes ≠ 0#32 := by
  intro h
  refine hf (maskOf_eq_zero.2 fun l _ => ?_)
  rw [h, BitVec.getLsbD_zero, Bool.false_and]

theorem HubSide.iss {a : State} (h : HubSide a s) : s.iss = a.iss := by rw [← h.1]

theorem quarantine_iss (s : State) (unit loc : Nat) : (s.quarantine unit loc).iss = s.iss := by
  unfold State.quarantine
  split <;> rfl

theorem shadowRecord_iss (s : State) : s.shadowRecord.iss = s.iss :=
  (HubSide.report .refl).iss.trans (quarantine_iss ..)

/-- The answer to a failed check: what R78 and R417 find, then the trap. -/
theorem raise_of_shadowRecord {i : Instr} {t : TrapReq} (h : exec i s = .next (s.shadowRecord.raise t)) :
    ∃ u, ShadowFound s s.iss.key u ∧ exec i s = .next (({ u with upset := none } : State).raise t) :=
  ⟨_, shadowFound_found s s.iss.key, h⟩

/-- Settles O10: of a trapping form the failed check is what stands first, and the record is the one R417 asks for. FDIV without
a trap goes on, and marks the lanes or reports the failure. -/
theorem shadowTraps : Obligations.ShadowTraps := by
  unfold Obligations.ShadowTraps
  refine ⟨fun i s kind val who hi hp hf => raise_of_shadowRecord ?_, ?_⟩
  · rcases hi with ⟨n, d, f, hi, rfl, hval⟩ | ⟨n, d, b, f, hi, rfl, hval⟩ | ⟨d, f, hi, rfl, hval⟩ |
      ⟨d, a, b, rfl, ht, rfl, rfl, hval⟩
    all_goals cases funext hval
    · exact (exec_of_floatRule hi s).trans (floatIssue_of_failing hp hf)
    · obtain ⟨F, a, hexec, rfl⟩ := exec_of_packRule hi s
      exact hexec.trans (packByte_of_failing hp hf)
    · exact (exec_of_uniFloatRule hi s).trans (floatIssue_of_failing (f := fun w _ => f w) hp hf)
    · exact exec_fdiv_trapped hp ht hf
  · intro d a b s hp ht q bad hbad
    have hspend : s.spend = { s with upset := none } := if_neg (strikes_ne_zero_of_failing hbad)
    cases d with
    | reg r =>
      refine ⟨_, exec_fdiv_owes hp ht, ?_⟩
      rw [hspend]
      exact (Only.modCur { s with upset := none, fresh := s.fresh + 1 } _).advAfter
    | discard =>
      refine ⟨_, _, exec_fdiv_discards hp ht hbad, shadowFound_found s s.iss.key, ?_⟩
      refine (only_adv s.shadowRecord).congr fun w => ?_
      unfold Wave.advanced State.active
      rw [shadowRecord_iss]
      rfl

end Sys2Proof.Claims
end

section
/-! # A store buffer that holds one byte twice

`Obligations.MemoryChanges` has a commit leave every byte as the workgroup sees it, whatever the store buffer lists. The clause of
a committed line asks that its bytes stand at rising addresses; the commit's asks no such thing of the buffer. Where a buffer
lists one address twice, the workgroup reads the first entry (R85) and the commit lets the last one stand (R86), so the clause
fails. Stores of the model enter the buffer by `tabSet`, which keeps its addresses rising. -/

namespace Sys2Proof.Claims

open Sys2Proof Sys2Proof.Machine

/-- A workgroup of core 0 whose store buffer lists the byte at 0 twice, as 1 and as 2. -/
def twiceBuffered : State :=
  { State.reset with wgs := [(0, { Workgroup.blank with sbuf := [(0, 1#8), (0, 2#8)] })] }

/-- The workgroup reads the first entry. -/
theorem viewByte_twiceBuffered : twiceBuffered.viewByte 0 0 0 = 1#8 := by decide

/-- What it has committed holds the last. -/
theorem viewByte_commit_twiceBuffered : (twiceBuffered.commit 0).viewByte 0 0 0 = 2#8 := by decide

/-- Refutes O34: of a byte its buffer holds twice, a workgroup sees 1 before the commit and 2 after it. -/
theorem not_memoryChanges : ¬ Obligations.MemoryChanges := by
  unfold Obligations.MemoryChanges
  rintro ⟨-, -, hcommit, -⟩
  obtain ⟨-, -, -, hview⟩ := hcommit twiceBuffered 0 rfl
  have hsame : (2#8 : Byte) = 1#8 := calc
    2#8 = (twiceBuffered.commit 0).viewByte 0 0 0 := viewByte_commit_twiceBuffered.symm
    _ = twiceBuffered.viewByte 0 0 0 := hview 0
    _ = 1#8 := viewByte_twiceBuffered
  exact absurd hsame (by decide)

end Sys2Proof.Claims
end

section
/-! # A wave that lists one operation twice

`Obligations.RaysGoOn` says of any wave what the end of a ray leaves of its operations in flight: `completedWave` drops every
entry equal to one that is credited. The model credits the entries that no older one of the class precedes (R100), each once, so
where a wave lists an operation a second time, behind one of its class still in flight, that entry stays and the statement fails.
`RayStands` asks nothing of the list of operations; operations of the model take numbers that were never used. -/

namespace Sys2Proof.Claims

open Sys2Proof Sys2Proof.Machine

/-- RAY_END of a ray that has ended writes the record of no hit with its status (R294). -/
theorem exec_rayEnd_of_ended {s : State} {r : Ray} {st : Nat} (hr : s.rays.find? (fun x => decide (x.id = r.id)) = some r)
    (hp : r.parked = none) (he : r.ended = some st) : exec (.rayEnd r.id) s = .next (s.endRay r st none) := by
  change execRayEnd r.id s = _
  simp only [execRayEnd, hr, hp, he, Option.isSome_none, Bool.false_eq_true, if_false]

/-- A ray of operation 7 that missed before it began, of the wave in slot 0. -/
def missedRay : Ray := ⟨8, 7, 0, 0, 0, 0, 0, none, some 1, 0, none, .none, false, [], none, 0, [], []⟩

/-- A wave with operation 7 in flight twice, operation 9 of the same class between. -/
def twiceInFlight : Wave :=
  { Wave.blank with ops := [⟨clsTrc, 7, false⟩, ⟨clsTrc, 9, false⟩, ⟨clsTrc, 7, false⟩], counts := ⟨0, 0, 3⟩ }

/-- The ray is the last of its operation, and its wave stands. -/
def missedState : State := { State.reset with waves := [(0, twiceInFlight)], rays := [missedRay] }

theorem missedState_rayStands : RayStands missedState missedRay twiceInFlight where
  found := rfl
  single := fun _ h _ => List.mem_singleton.1 h
  wave := rfl
  owed := fun _ h => nomatch h

/-- The model leaves the entry of operation 7 that operation 9 precedes. -/
theorem endRay_missedState_ops :
    ((missedState.endRay missedRay 1 none).wave 0).ops = [⟨clsTrc, 9, false⟩, ⟨clsTrc, 7, true⟩] := by decide +kernel

/-- The statement has both entries of operation 7 gone. -/
theorem goneRay_missedState_ops (record : List Word) :
    ((goneRay missedState missedRay 1 record).wave 0).ops = [⟨clsTrc, 9, false⟩] := rfl

/-- Refutes O44: a ray ends in a wave with its operation in flight twice, and the entry behind another operation stays. -/
theorem not_raysGoOn : ¬ Obligations.RaysGoOn := by
  unfold Obligations.RaysGoOn
  rintro ⟨hstands, -⟩
  obtain ⟨hended, -⟩ := hstands missedState missedRay twiceInFlight missedState_rayStands
  have hgone : exec (.rayEnd missedRay.id) missedState = .next (goneRay missedState missedRay 1 (hitWords 1 none)) := hended 1 rfl rfl
  have hstate : missedState.endRay missedRay 1 none = goneRay missedState missedRay 1 (hitWords 1 none) :=
    Host.Outcome.next.inj ((exec_rayEnd_of_ended missedState_rayStands.found rfl rfl).symm.trans hgone)
  have hops := congrArg (fun t : State => (t.wave 0).ops) hstate
  simp only [endRay_missedState_ops, goneRay_missedState_ops] at hops
  exact absurd hops (by decide)

end Sys2Proof.Claims
end

section
/-! # Branches, calls and jumps -/

namespace Sys2Proof.Claims

open Sys2Proof Sys2Proof.Machine

/-! ## Targets -/

/-- A target of the model is the target R109 names, modulo the address space. -/
theorem add_signExtend_shl {n : Nat} (x : Addr) (off : BitVec n) :
    x + (off.signExtend 48 <<< 2) = BitVec.ofInt 48 (x.toNat + 4 * off.toInt) := by
  have hshl : off.signExtend 48 <<< 2 = BitVec.ofInt 48 (4 * off.toInt) := by
    rw [BitVec.shiftLeft_eq_mul_twoPow, mul_comm, BitVec.ofInt_mul]
    rfl
  rw [hshl, BitVec.ofInt_add, BitVec.ofInt_natCast, BitVec.ofNat_toNat, BitVec.setWidth_eq]

theorem target20_eq (s : State) (off : BitVec 20) : s.target20 off = targetOf s off.toInt := add_signExtend_shl _ _
theorem target18_eq (s : State) (off : BitVec 18) : s.target18 off = targetOf s off.toInt := add_signExtend_shl _ _

/-! ## What the checks of Table 6.2 say of masks -/

theorem and_ne_zero_eq_any (m a : Mask) :
    (m &&& a != 0#32) = (List.range 32).any (fun l => m.getLsbD l && a.getLsbD l) := by
  rw [Bool.eq_iff_iff, bne_iff_ne, ne_eq, List.any_eq_true]
  constructor
  · intro h
    by_contra hn
    refine h (BitVec.eq_of_getLsbD_eq fun l hl => ?_)
    rw [BitVec.getLsbD_and, BitVec.getLsbD_zero]
    exact Bool.eq_false_iff.2 fun hb => hn ⟨l, List.mem_range.2 hl, hb⟩
  · rintro ⟨l, -, hb⟩ h
    have := congrArg (fun x : Mask => x.getLsbD l) h
    simp only [BitVec.getLsbD_and, BitVec.getLsbD_zero, hb] at this
    exact absurd this (by decide)

theorem and_not_eq_zero_eq_all (m a : Mask) :
    (a &&& ~~~ m == 0#32) = (List.range 32).all (fun l => m.getLsbD l || !a.getLsbD l) := by
  have h := and_ne_zero_eq_any a (~~~ m)
  rw [bne, Bool.not_eq_eq_eq_not] at h
  rw [h, List.not_any_eq_all_not]
  refine Bool.eq_iff_iff.2 ?_
  simp only [List.all_eq_true, List.mem_range]
  refine forall₂_congr fun l hl => ?_
  simp only [BitVec.getLsbD_not, hl, decide_true, Bool.true_and, Bool.not_and, Bool.not_not, Bool.or_comm]

theorem beq_zero_eq_decide (x : Word) : (x == 0#32) = decide (x.toNat = 0) := by
  rw [Bool.eq_iff_iff, beq_iff_eq, decide_eq_true_iff, ← BitVec.toNat_inj]
  rfl

/-! ## The return stack -/

/-- A write above the entries listed leaves them. -/
theorem map_getD_tabSet (t : Tab Dword) (n : Nat) (v : Dword) (other : Nat → Dword) :
    (List.range n).map (fun e => (tabGet (tabSet t n v) e).getD (other e)) = (List.range n).map (fun e => (tabGet t e).getD (other e)) :=
  List.map_congr_left fun e he => by rw [Laws.tabGet_tabSet, if_neg (List.mem_range.1 he).ne]

/-- A push adds the newest entry. -/
theorem stackOf_pushRet (w : Wave) (l : Nat) (x : Lane) (a : Addr) :
    stackOf w l (x.pushRet w.wg (w.laneIndex l) a) = stackOf w l x ++ [a.setWidth 64] := by
  unfold Lane.pushRet
  split
  next hroom =>
    simp only [stackOf, Nat.min_eq_left hroom.le, Nat.min_eq_left (Nat.succ_le_of_lt hroom), List.range_succ, List.map_append,
      List.append_assoc, List.map_singleton]
    congr 2
    · exact map_getD_tabSet ..
    · simp only [Lane.entry, Laws.tabGet_tabSet, if_true, Option.getD_some]
  next hfull =>
    simp only [stackOf, Nat.min_eq_right (Nat.le_of_not_lt hfull), List.range_succ, List.map_append, List.append_assoc, List.map_singleton]
    congr 1
    · exact map_getD_tabSet ..
    · simp only [Lane.spilledEntry, Laws.tabGet_tabSet, if_true, Option.getD_some]
      rfl

theorem sameButStack_pushRet (x : Lane) (wg n : Nat) (a : Addr) : sameButStack x (x.pushRet wg n a) := by
  unfold sameButStack Lane.pushRet
  split <;> rfl

/-- A refill moves an entry from the spilled part to the hardware part. -/
theorem stackOf_refill (w : Wave) (l : Nat) (x : Lane) : stackOf w l (x.refill w.wg (w.laneIndex l)) = stackOf w l x := by
  unfold Lane.refill
  split
  next h =>
    obtain ⟨hhw, hspilled⟩ := h
    obtain ⟨n, hn⟩ := Nat.exists_eq_succ_of_ne_zero hspilled
    simp only [stackOf, hhw, hn, Nat.succ_eq_add_one, Nat.add_sub_cancel, List.range_succ, List.map_append, List.map_singleton]
    simp [Lane.entry, Laws.tabGet_tabSet, Lane.spilledEntry, Wave.laneIndex]
  next => rfl

theorem refill_spilled {x : Lane} {wg n : Nat} (h : (x.refill wg n).hw = 0) : (x.refill wg n).spilled = 0 := by
  unfold Lane.refill at *
  split at h
  · cases h
  next hn => rw [if_neg hn]; by_contra hs; exact hn ⟨h, hs⟩

theorem sameButStack_refill (x : Lane) (wg n : Nat) : sameButStack x (x.refill wg n) := by
  unfold sameButStack Lane.refill
  split <;> rfl

/-- A pop gives the newest entry and leaves the others. -/
theorem stackOf_popRet (w : Wave) (l : Nat) {x : Lane} (h : x.hw + x.spilled ≠ 0) :
    stackOf w l x = stackOf w l (x.popRet w.wg (w.laneIndex l)).2 ++ [(x.popRet w.wg (w.laneIndex l)).1] := by
  unfold Lane.popRet
  dsimp only
  split
  next hempty =>
    have hhw : x.hw = 0 := by have : Nat.min x.hw 8 = min x.hw 8 := rfl; omega
    obtain ⟨n, hn⟩ := Nat.exists_eq_succ_of_ne_zero (n := x.spilled) (by omega)
    simp only [stackOf_refill]
    simp [stackOf, hhw, hn, List.range_succ, Lane.spilledEntry, Wave.laneIndex]
  next hsome =>
    obtain ⟨n, hn⟩ := Nat.exists_eq_succ_of_ne_zero hsome
    have hmin : min x.hw 8 = n + 1 := hn
    have hle : min n 8 = n := by omega
    rw [stackOf_refill, hn]
    simp only [stackOf, hmin, hle, List.range_succ, List.map_append, List.map_singleton, List.append_assoc, Nat.succ_eq_add_one, Nat.add_sub_cancel]
    rfl

theorem sameButStack.trans {x y z : Lane} (h : sameButStack x y) (k : sameButStack y z) : sameButStack x z := by
  unfold sameButStack at *
  rw [← h, ← k]

theorem sameButStack_popRet (x : Lane) (wg n : Nat) : sameButStack x (x.popRet wg n).2 := by
  unfold Lane.popRet
  dsimp only
  split
  · exact .trans (y := { x with spilled := x.spilled - 1 }) rfl (sameButStack_refill _ wg n)
  · exact .trans (y := { x with hw := Nat.min x.hw 8 - 1 }) rfl (sameButStack_refill _ wg n)

/-- After a pop the hardware part is empty only where the spilled part is. -/
theorem popRet_spilled {x : Lane} {wg n : Nat} (h : (x.popRet wg n).2.hw = 0) : (x.popRet wg n).2.spilled = 0 := by
  unfold Lane.popRet at *
  dsimp only at *
  split at h
  next he => rw [if_pos he]; exact refill_spilled h
  next he => rw [if_neg he]; exact refill_spilled h

/-! ## The effects -/

theorem only_branch (s : State) (t : Addr) (p : Nat → Bool) :
    Only s (s.branch t p) (fun w => w.lanesBy s.active (fun l x => { x with pc := if p l then t else s.iss.next })) :=
  Only.modCur s _

/-- What a CALL or CALLI whose callers are `ls` does to lane `l`. -/
def calledLane (s : State) (ls : Mask) (t : Nat → Addr) (w : Wave) (l : Nat) (x : Lane) : Lane :=
  { (if ls.getLsbD l then x.pushRet w.wg (w.laneIndex l) s.iss.next else x) with pc := if ls.getLsbD l then t l else s.iss.next }

theorem only_callStack {s : State} {ls : Mask} (h : ∀ l, ls.getLsbD l = true → s.active.getLsbD l = true) (t : Nat → Addr) :
    Only s (s.callStack ls t) (fun w => w.lanesBy s.active (calledLane s ls t w)) := by
  refine (Only.modCur s _).congr fun w => ?_
  simp only [Wave.modLanes, Wave.setPc, Wave.lanesBy, mapIdx_mapIdx]
  congr 1
  refine List.mapIdx_eq_mapIdx_iff.2 fun l _ => ?_
  cases ha : s.active.getLsbD l
  · have hc : ls.getLsbD l = false := Bool.eq_false_iff.2 fun hc => by rw [h l hc] at ha; cases ha
    simp only [hc, Bool.false_eq_true, if_false]
  · rfl

/-- A lane that calls has next_pc pushed; another one's stack stays. -/
theorem calledLane_spec (s : State) (ls : Mask) (t : Nat → Addr) (w : Wave) (l : Nat) (x : Lane) :
    sameButStack x (calledLane s ls t w l x) ∧
      (calledLane s ls t w l x).pc = (if ls.getLsbD l then t l else s.iss.next) ∧
      stackOf w l (calledLane s ls t w l x) = stackOf w l x ++ (if ls.getLsbD l then [s.iss.next.setWidth 64] else []) := by
  unfold calledLane
  split
  · exact ⟨sameButStack_pushRet x _ _ _, rfl, stackOf_pushRet w l x _⟩
  · exact ⟨rfl, rfl, (List.append_nil _).symm⟩

/-- What RET does to lane `l`. -/
def returnedLane (w : Wave) (l : Nat) (x : Lane) : Lane :=
  { (x.popRet w.wg (w.laneIndex l)).2 with pc := (x.popRet w.wg (w.laneIndex l)).1.setWidth 48 }

/-- A lane that returns takes its newest entry as its PC and loses it. -/
theorem returnedLane_spec (w : Wave) (l : Nat) (x : Lane) (h : x.hw + x.spilled ≠ 0) :
    stackOf w l x = stackOf w l (returnedLane w l x) ++ (stackOf w l x).drop ((stackOf w l x).length - 1) ∧
      (stackOf w l x).getLast?.map (fun e => e.setWidth 48) = some (returnedLane w l x).pc ∧
      ((returnedLane w l x).hw = 0 → (returnedLane w l x).spilled = 0) := by
  have hstack : stackOf w l x = stackOf w l (returnedLane w l x) ++ [(x.popRet w.wg (w.laneIndex l)).1] := stackOf_popRet w l h
  refine ⟨?_, ?_, popRet_spilled⟩
  · rw [hstack]; simp
  · rw [hstack, List.getLast?_concat]; rfl

/-! ## The statement -/

/-- An instruction whose effect is a branch. -/
theorem only_of_exec_branch {i : Instr} {s : State} {t tgt : Addr} {p taken : Nat → Bool} (he : exec i s = .next (s.branch t p))
    (ht : t = tgt) (hp : ∀ l, p l = taken l) :
    ∃ u, exec i s = .next u ∧
      Only s u (fun w => w.lanesBy s.active (fun l x => { x with pc := if taken l then tgt else s.iss.next })) := by
  obtain rfl := funext hp
  exact ⟨_, he, ht ▸ only_branch s t p⟩

/-- Each branch goes where its row of Table 6.2 says. -/
theorem only_of_branchRule {i : Instr} {s : State} {tgt : Addr} {taken : Nat → Bool} (hr : branchRule i s = some (tgt, taken))
    (hp : Passes i s) : ∃ t, exec i s = .next t ∧
      Only s t (fun w => w.lanesBy s.active (fun l x => { x with pc := if taken l then tgt else s.iss.next })) := by
  cases i with
  | bra off =>
    cases hr
    exact only_of_exec_branch (hp.plain fun s => s.branch (s.target20 off) (fun _ => true)) (target20_eq s off) fun _ => rfl
  | brin m off =>
    cases hr
    exact only_of_exec_branch (hp.plain fun s => s.branch (s.target20 off) (fun l => (s.src.mreg m.val).getLsbD l))
      (target20_eq s off) fun _ => rfl
  | brout m off =>
    cases hr
    exact only_of_exec_branch (hp.plain fun s => s.branch (s.target20 off) (fun l => !(s.src.mreg m.val).getLsbD l))
      (target20_eq s off) fun _ => rfl
  | bany m off =>
    cases hr
    exact only_of_exec_branch (hp.plain fun s => s.branch (s.target20 off) (fun _ => s.src.mreg m.val &&& s.active != 0#32))
      (target20_eq s off) fun _ => and_ne_zero_eq_any ..
  | ball m off =>
    cases hr
    exact only_of_exec_branch (hp.plain fun s => s.branch (s.target20 off) (fun _ => s.active &&& ~~~ s.src.mreg m.val == 0#32))
      (target20_eq s off) fun _ => and_not_eq_zero_eq_all ..
  | bsz r off =>
    cases hr
    exact only_of_exec_branch (hp.plain fun s => s.branch (s.target18 off) (fun _ => s.src.sreg r.val == 0#32))
      (target18_eq s off) fun _ => beq_zero_eq_decide _
  | bsnz r off =>
    cases hr
    exact only_of_exec_branch (hp.plain fun s => s.branch (s.target18 off) (fun _ => s.src.sreg r.val != 0#32))
      (target18_eq s off) fun _ => congrArg (!·) (beq_zero_eq_decide _)
  | nop => cases hr; exact ⟨_, hp.plain State.adv, only_adv s⟩
  | _ => cases hr

theorem fullStacks_eq_zero {s : State} {ls : Mask}
    (h : ∀ l < 32, ls.getLsbD l = true → (s.src.lane l).hw + (s.src.lane l).spilled ≠ 72) : s.fullStacks ls = 0#32 :=
  maskOf_eq_zero.2 fun l hl => by
    cases hc : ls.getLsbD l
    · rfl
    · exact decide_eq_false (h l hl hc)

theorem emptyStacks_eq_zero {s : State} {ls : Mask}
    (h : ∀ l < 32, ls.getLsbD l = true → (s.src.lane l).hw + (s.src.lane l).spilled ≠ 0) : s.emptyStacks ls = 0#32 :=
  maskOf_eq_zero.2 fun l hl => by
    cases hc : ls.getLsbD l
    · rfl
    · exact decide_eq_false (h l hl hc)

theorem badTargets_eq_zero {s : State} {a : VSrc} (h : ∀ l < 32, s.active.getLsbD l = true → ¬ noCode (s.src.v64 l a)) :
    s.badTargets a = 0#32 :=
  maskOf_eq_zero.2 fun l hl => by
    cases hc : s.active.getLsbD l
    · rfl
    · have hn := h l hl hc
      unfold noCode at hn
      obtain ⟨hword, hspace⟩ := not_or.1 hn
      simp only [Bool.true_and, Bool.or_eq_false_iff, bne_eq_false_iff_eq, decide_eq_false_iff_not]
      exact ⟨not_not.1 hword, hspace⟩

theorem callers_active {s : State} {m : Option MReg} {l : Nat} (h : (s.callers m).getLsbD l = true) : s.active.getLsbD l = true := by
  cases m with
  | none => exact h
  | some r => exact ((Bool.and_eq_true _ _).mp ((BitVec.getLsbD_and).symm.trans h)).1

/-! ## Calls, returns and jumps that trap in no lane -/

theorem exec_call {m : Option MReg} {off : BitVec 20} {s : State} (hp : Passes (.call m off) s)
    (h : s.fullStacks (s.callers m) = 0#32) :
    exec (.call m off) s = .next (s.callStack (s.callers m) (fun _ => s.target20 off)) := by
  change execCall m off s = _
  exact hp.checked rfl (if_pos h) _

theorem exec_calli {a : VSrc} {s : State} (hp : Passes (.calli a) s) (hf : s.fullStacks s.active = 0#32)
    (hb : s.badTargets a = 0#32) :
    exec (.calli a) s = .next (s.callStack s.active (fun l => (s.src.v64 l a).setWidth 48)) := by
  have htrap : s.calliTrap a = none := by simp only [State.calliTrap, hf, hb]; rfl
  change execCalli a s = _
  exact hp.checked rfl htrap _

theorem exec_ret {s : State} (hp : Passes .ret s) (h : s.emptyStacks s.active = 0#32) :
    exec .ret s = .next (s.modCur (fun w => w.lanesBy s.active (returnedLane w))) := by
  change execRet s = _
  exact hp.checked rfl (if_pos h) _

theorem exec_jmpi {a : VSrc} {s : State} (hp : Passes (.jmpi a) s) (h : s.badTargets a = 0#32) :
    exec (.jmpi a) s = .next (s.modCur (fun w => w.lanesBy s.active (fun l x => { x with pc := (s.src.v64 l a).setWidth 48 }))) := by
  change execJmpi a s = _
  exact hp.checked rfl (if_pos h) _

/-- Settles O11: the branches by their rows of Table 6.2; CALL and CALLI push what RET pops. -/
theorem branchesGo : Obligations.BranchesGo := by
  unfold Obligations.BranchesGo
  refine ⟨fun i s tgt taken hr hp => only_of_branchRule hr hp, ?_, ?_, ?_, ?_⟩
  · intro m off s hp hroom
    rw [← target20_eq]
    exact ⟨_, _, exec_call hp (fullStacks_eq_zero hroom), only_callStack (fun _ => callers_active) _, calledLane_spec s _ _⟩
  · intro a s hp h
    exact ⟨_, _, exec_calli hp (fullStacks_eq_zero fun l hl ha => (h l hl ha).1) (badTargets_eq_zero fun l hl ha => (h l hl ha).2),
      only_callStack (fun _ => id) _, calledLane_spec s _ _⟩
  · intro s hp h
    exact ⟨_, returnedLane, exec_ret hp (emptyStacks_eq_zero h), Only.modCur s _,
      fun w l x => ⟨sameButStack_popRet x _ _, returnedLane_spec w l x⟩⟩
  · intro a s hp h
    exact ⟨_, exec_jmpi hp (badTargets_eq_zero h), Only.modCur s _⟩

end Sys2Proof.Claims
end

section
/-! # Words of the manual's tables -/

namespace Sys2Proof.Claims

open Sys2Proof

/-- Settles O57: the decoder run on each of the eighteen words. -/
theorem decodesTableWords : Obligations.DecodesTableWords := by
  unfold Obligations.DecodesTableWords
  decide

end Sys2Proof.Claims
end

section
/-! # Operand codes read back

Each decoder of an operand field, said once: the operands it answers are those whose code the field holds, a literal being the
literal word of the frame (R114 to R118). -/

namespace Sys2Proof

variable {c : Nat} {lit : Word}

@[simp] theorem bind_eq_ok {α β : Type} {x : Dec α} {f : α → Dec β} {b : β} : (x >>= f) = .ok b ↔ ∃ a, x = .ok a ∧ f a = .ok b := by
  cases x with
  | error e => exact ⟨nofun, fun ⟨_, h, _⟩ => nomatch h⟩
  | ok a => exact ⟨fun h => ⟨a, rfl, h⟩, fun ⟨_, h, k⟩ => Except.ok.inj h ▸ k⟩

/-- A decoder that goes on where a condition holds and refuses the word elsewhere. -/
@[simp] theorem guard_eq_ok {α : Type} {p : Prop} [Decidable p] {e : DecodeErr} {x y : Dec α} {b : α} :
    (if p then (Except.ok () : Dec Unit) >>= fun _ => x else (Except.error e : Dec Unit) >>= fun _ => y) = .ok b ↔ p ∧ x = .ok b := by
  split
  next h => exact (and_iff_right h).symm
  next h => exact ⟨nofun, fun hb => absurd hb.1 h⟩

theorem refuse_eq_ok {α β : Type} {p : Prop} [Decidable p] {e : DecodeErr} {x : Dec α} {k : α → Dec β} {b : β} :
    (if p then (Except.error e : Dec α) >>= k else x >>= k) = .ok b ↔ ¬p ∧ (x >>= k) = .ok b := by
  split
  next h => exact ⟨nofun, fun hb => absurd h hb.1⟩
  next h => exact (and_iff_right h).symm

@[simp] theorem zeroField_eq_ok {u : Unit} : zeroField c = .ok u ↔ c = 0 := by simp [zeroField]
@[simp] theorem noNw_eq_ok {u : Unit} : noNw c = .ok u ↔ c = 0 := by simp [noNw]

@[simp] theorem below_eq_ok {n : Nat} {e : DecodeErr} {x : Fin n} : below n c e = .ok x ↔ c = x.val := by
  unfold below
  split
  · exact ⟨fun h => congrArg Fin.val (Except.ok.inj h), fun h => congrArg _ (Fin.ext h)⟩
  next h => exact ⟨nofun, fun hc => absurd (hc ▸ x.isLt) h⟩

@[simp] theorem sreg_eq_ok {x : SReg} : sreg c = .ok x ↔ c = x.val := below_eq_ok
@[simp] theorem vreg_eq_ok {x : VReg} : vreg c = .ok x ↔ c = x.val := below_eq_ok
@[simp] theorem mreg_eq_ok {x : MReg} : mreg c = .ok x ↔ c = x.val := below_eq_ok

@[simp] theorem vdst_eq_ok {d : VDst} : vdst c = .ok d ↔ c = d.code := by
  constructor
  · intro h
    unfold vdst at h
    split at h
    · cases h; rfl
    · split at h
      · cases h; assumption
      · cases h
  · rintro rfl
    cases d with
    | reg n => exact dif_pos n.isLt
    | discard => rfl

@[simp] theorem udst_eq_ok {d : UDst} : udst c = .ok d ↔ c = d.code := by
  constructor
  · intro h
    unfold udst at h
    split at h
    · cases h; rfl
    · split at h
      · cases h; assumption
      · cases h
  · rintro rfl
    cases d with
    | reg n => exact dif_pos n.isLt
    | discard => rfl

@[simp] theorem vsrc_eq_ok {a : VSrc} : vsrc lit c = .ok a ↔ c = a.code ∧ ∀ x ∈ a.lits, x = lit := by
  constructor
  · intro h
    unfold vsrc at h
    split at h
    · cases h; exact ⟨rfl, nofun⟩
    · split at h <;> cases h <;> simp [VSrc.code, VSrc.lits]
  · rintro ⟨rfl, hl⟩
    cases a with
    | reg n => exact dif_pos n.isLt
    | latch k => fin_cases k <;> rfl
    | sreg k => fin_cases k <;> rfl
    | zero | lane => rfl
    | lit w => rw [hl w List.mem_cons_self]; rfl

@[simp] theorem usrc_eq_ok {a : USrc} : usrc lit c = .ok a ↔ c = a.code ∧ ∀ x ∈ a.lits, x = lit := by
  constructor
  · intro h
    unfold usrc at h
    split at h
    · cases h; exact ⟨rfl, nofun⟩
    · split at h <;> cases h <;> simp [USrc.code, USrc.lits]
  · rintro ⟨rfl, hl⟩
    cases a with
    | reg n => exact dif_pos n.isLt
    | zero => rfl
    | lit w => rw [hl w List.mem_cons_self]; rfl

@[simp] theorem msrc_eq_ok {a : MSrc} : msrc c = .ok a ↔ c = a.code := by
  constructor
  · intro h
    unfold msrc at h
    split at h
    · cases h; rfl
    · split at h <;> cases h <;> rfl
  · rintro rfl
    cases a with
    | reg n => exact dif_pos n.isLt
    | active | none => rfl

@[simp] theorem mreg15_eq_ok {m : Option MReg} : mreg15 c = .ok m ↔ c = optM m := by
  constructor
  · intro h
    unfold mreg15 at h
    split at h
    · cases h; rfl
    · split at h
      · cases h; assumption
      · cases h
  · rintro rfl
    cases m with
    | some n => exact dif_pos n.isLt
    | none => rfl

/-- The code of REFILL's lanes: a mask register, or 14 (Table 12.1). -/
def refillCode : Option MReg → Nat
  | some m => m.val
  | none => 14

theorem refillCode_lt (m : Option MReg) : refillCode m < 128 := by cases m <;> simp only [refillCode] <;> omega

@[simp] theorem mreg14_eq_ok {m : Option MReg} : mreg14 c = .ok m ↔ c = refillCode m := by
  constructor
  · intro h
    unfold mreg14 at h
    split at h
    · cases h; rfl
    · split at h
      · cases h; assumption
      · cases h
  · rintro rfl
    cases m with
    | some n => exact dif_pos n.isLt
    | none => rfl

/-! ## Codes of the tables: each is read back, and nothing else is accepted -/

@[simp] theorem width_eq_ok {w : Width} : width c = .ok w ↔ c = w.code := by
  constructor
  · intro h; unfold width at h; split at h <;> cases h <;> rfl
  · rintro rfl; cases w <;> rfl

@[simp] theorem hint_eq_ok {w : Hint} : hint c = .ok w ↔ c = w.code := by
  constructor
  · intro h; unfold hint at h; split at h <;> cases h <;> rfl
  · rintro rfl; cases w <;> rfl

@[simp] theorem scope_eq_ok {w : Scope} : scope c = .ok w ↔ c = w.code := by
  constructor
  · intro h; unfold scope at h; split at h <;> cases h <;> rfl
  · rintro rfl; cases w <;> rfl

@[simp] theorem ord_eq_ok {w : Ord} : ord c = .ok w ↔ c = w.code := by
  constructor
  · intro h; unfold ord at h; split at h <;> cases h <;> rfl
  · rintro rfl; cases w <;> rfl

@[simp] theorem aop_eq_ok {w : Aop} : aop c = .ok w ↔ c = w.code := by
  constructor
  · intro h; unfold aop at h; split at h <;> cases h <;> rfl
  · rintro rfl; cases w <;> rfl

@[simp] theorem cmp_eq_ok {w : Cmp} : cmp c = .ok w ↔ c = w.code := by
  constructor
  · intro h; unfold cmp at h; split at h <;> cases h <;> rfl
  · rintro rfl; cases w <;> rfl

@[simp] theorem pfmt_eq_ok {w : PFmt} : pfmt c = .ok w ↔ c = w.code := by
  constructor
  · intro h; unfold pfmt at h; split at h <;> cases h <;> rfl
  · rintro rfl; cases w <;> rfl

@[simp] theorem acc_eq_ok {w : Acc} : acc c = .ok w ↔ c = w.code := by
  constructor
  · intro h; unfold acc at h; split at h <;> cases h <;> rfl
  · rintro rfl; cases w <;> rfl

@[simp] theorem texel_eq_ok {w : Texel} : texel c = .ok w ↔ c = w.code := by
  constructor
  · intro h; unfold texel at h; split at h <;> cases h <;> rfl
  · rintro rfl; cases w <;> rfl

@[simp] theorem planeKind_eq_ok {w : PlaneKind} : planeKind c = .ok w ↔ c = w.code := by
  constructor
  · intro h; unfold planeKind at h; split at h <;> cases h <;> rfl
  · rintro rfl; cases w <;> rfl

@[simp] theorem cull_eq_ok {w : Cull} : cull c = .ok w ↔ c = w.code := by
  constructor
  · intro h; unfold cull at h; split at h <;> cases h <;> rfl
  · rintro rfl; cases w <;> rfl

@[simp] theorem glen_eq_ok {g : Option GLen} : glen c = .ok g ↔ c = optG g := by
  constructor
  · intro h; unfold glen at h; split at h <;> cases h <;> rfl
  · rintro rfl
    cases g with
    | none => rfl
    | some g => cases g <;> rfl

end Sys2Proof
end

section
/-! # The fields of a word

For each format of a first word (Table 5.1) and each extension word: a word is the encoder's of some operands exactly where its
fields are theirs. -/

namespace Sys2Proof

theorem fld_lt (x : Word) (lo len : Nat) : fld x lo len < 2 ^ len := Nat.mod_lt _ (Nat.two_pow_pos len)

/-- A one-bit field is a flag's where it reads as the flag. -/
theorem fld_eq_boolToNat {x : Word} {lo : Nat} {b : Bool} : fld x lo 1 = b.toNat ↔ flag (fld x lo 1) = b := by
  have h := fld_lt x lo 1
  unfold flag
  cases b
  · simp; omega
  · simp

theorem ofNat_eq_iff_of_lt {n c : Nat} {k : BitVec n} (h : c < 2 ^ n) : BitVec.ofNat n c = k ↔ c = k.toNat := by
  rw [← BitVec.toNat_inj, BitVec.toNat_ofNat, Nat.mod_eq_of_lt h]

/-- A field as wide as an immediate is the immediate's where it reads as it. -/
theorem fld_eq_bvToNat {x : Word} {lo n : Nat} {k : BitVec n} : fld x lo n = k.toNat ↔ BitVec.ofNat n (fld x lo n) = k :=
  (ofNat_eq_iff_of_lt (fld_lt x lo n)).symm

/-- What of a word stands from bit `lo` upward. -/
def above (x : Word) (lo : Nat) : Nat := x.toNat / 2 ^ lo

theorem above_zero (x : Word) : above x 0 = x.toNat := Nat.div_one _
theorem above_top (x : Word) : above x 32 = 0 := Nat.div_eq_of_lt x.isLt

/-- A word is its fields one above the other. -/
theorem above_eq (x : Word) (lo len hi : Nat) (h : lo + len = hi) : above x lo = fld x lo len + 2 ^ len * above x hi := by
  unfold above fld
  rw [← h, Nat.pow_add, ← Nat.div_div_eq_div_mul, Nat.mod_add_div]

/-! ## First words -/

section FirstWords

variable {x : Word} {cls op nw d a b imm m off s q w h : Nat}

/-- Format R: the fields but the class and the op. -/
structure FieldsR (x : Word) (nw d a b : Nat) : Prop where
  nw : fld x 21 1 = nw
  d : fld x 14 7 = d
  a : fld x 7 7 = a
  b : fld x 0 7 = b

theorem fieldsR_iff : FieldsR x nw d a b ↔ fld x 21 1 = nw ∧ fld x 14 7 = d ∧ fld x 7 7 = a ∧ fld x 0 7 = b :=
  ⟨fun ⟨h0, h1, h2, h3⟩ => ⟨h0, h1, h2, h3⟩, fun ⟨h0, h1, h2, h3⟩ => ⟨h0, h1, h2, h3⟩⟩

theorem FieldsR.word (hcls : fld x 28 4 = cls) (hop : fld x 22 6 = op) (hf : FieldsR x nw d a b) : x = encR cls op nw d a b := by
  cases hf
  apply BitVec.eq_of_toNat_eq
  simp only [encR, fld, BitVec.toNat_ofNat] at *
  omega

theorem FieldsR.of_word (hx : x = encR cls op nw d a b) (hcls : cls < 16) (hop : op < 64) (hnw : nw < 2) (hd : d < 128) (ha : a < 128) (hb : b < 128) :
    fld x 28 4 = cls ∧ fld x 22 6 = op ∧ FieldsR x nw d a b := by
  subst hx
  exact ⟨encR_class _ _ _ _ _ _ hcls hop hnw hd ha hb, encR_op _ _ _ _ _ _ hop hnw hd ha hb,
    encR_nw _ _ _ _ _ _ hnw hd ha hb, encR_d _ _ _ _ _ _ hd ha hb, encR_a _ _ _ _ _ _ ha hb, encR_b _ _ _ _ _ _ hb⟩

/-- Format I, of class 3: the fields but the class and the op. -/
structure FieldsI (x : Word) (d a imm : Nat) : Prop where
  d : fld x 18 7 = d
  a : fld x 11 7 = a
  imm : fld x 0 11 = imm

theorem fieldsI_iff : FieldsI x d a imm ↔ fld x 18 7 = d ∧ fld x 11 7 = a ∧ fld x 0 11 = imm :=
  ⟨fun ⟨h0, h1, h2⟩ => ⟨h0, h1, h2⟩, fun ⟨h0, h1, h2⟩ => ⟨h0, h1, h2⟩⟩

theorem FieldsI.word (hcls : fld x 28 4 = 3) (hop : fld x 25 3 = op) (hf : FieldsI x d a imm) : x = encI op d a imm := by
  cases hf
  apply BitVec.eq_of_toNat_eq
  simp only [encI, fld, BitVec.toNat_ofNat] at *
  omega

theorem FieldsI.of_word (hx : x = encI op d a imm) (hop : op < 8) (hd : d < 128) (ha : a < 128) (himm : imm < 2048) :
    fld x 28 4 = 3 ∧ fld x 25 3 = op ∧ FieldsI x d a imm := by
  subst hx
  exact ⟨encI_class _ _ _ _ hop hd ha himm, encI_op _ _ _ _ hop hd ha himm,
    encI_d _ _ _ _ hd ha himm, encI_a _ _ _ _ ha himm, encI_imm _ _ _ _ himm⟩

/-- Format B, of class 0: the fields but the class and the op. -/
structure FieldsB (x : Word) (m off : Nat) : Prop where
  m : fld x 20 4 = m
  off : fld x 0 20 = off

theorem fieldsB_iff : FieldsB x m off ↔ fld x 20 4 = m ∧ fld x 0 20 = off :=
  ⟨fun ⟨h0, h1⟩ => ⟨h0, h1⟩, fun ⟨h0, h1⟩ => ⟨h0, h1⟩⟩

theorem FieldsB.word (hcls : fld x 28 4 = 0) (hop : fld x 24 4 = op) (hf : FieldsB x m off) : x = encB op m off := by
  cases hf
  apply BitVec.eq_of_toNat_eq
  simp only [encB, fld, BitVec.toNat_ofNat] at *
  omega

theorem FieldsB.of_word (hx : x = encB op m off) (hop : op < 16) (hm : m < 16) (hoff : off < 2 ^ 20) :
    fld x 28 4 = 0 ∧ fld x 24 4 = op ∧ FieldsB x m off := by
  subst hx
  exact ⟨encB_class _ _ _ hop hm hoff, encB_op _ _ _ hop hm hoff,
    encB_m _ _ _ hm hoff, encB_off _ _ _ hoff⟩

/-- Format BS, of class 0: the fields but the class and the op. -/
structure FieldsBS (x : Word) (s off : Nat) : Prop where
  s : fld x 18 6 = s
  off : fld x 0 18 = off

theorem fieldsBS_iff : FieldsBS x s off ↔ fld x 18 6 = s ∧ fld x 0 18 = off :=
  ⟨fun ⟨h0, h1⟩ => ⟨h0, h1⟩, fun ⟨h0, h1⟩ => ⟨h0, h1⟩⟩

theorem FieldsBS.word (hcls : fld x 28 4 = 0) (hop : fld x 24 4 = op) (hf : FieldsBS x s off) : x = encBS op s off := by
  cases hf
  apply BitVec.eq_of_toNat_eq
  simp only [encBS, fld, BitVec.toNat_ofNat] at *
  omega

theorem FieldsBS.of_word (hx : x = encBS op s off) (hop : op < 16) (hs : s < 64) (hoff : off < 2 ^ 18) :
    fld x 28 4 = 0 ∧ fld x 24 4 = op ∧ FieldsBS x s off := by
  subst hx
  exact ⟨encBS_class _ _ _ hop hs hoff, encBS_op _ _ _ hop hs hoff,
    encBS_s _ _ _ hs hoff, encBS_off _ _ _ hoff⟩

/-- Format J, of class 0; the fields it does not use are 0: the fields but the class and the op. -/
structure FieldsJ (x : Word) (m a : Nat) : Prop where
  m : fld x 20 4 = m
  a : fld x 7 7 = a
  spare : fld x 14 6 = 0
  b : fld x 0 7 = 0

theorem fieldsJ_iff : FieldsJ x m a ↔ fld x 20 4 = m ∧ fld x 7 7 = a ∧ fld x 14 6 = 0 ∧ fld x 0 7 = 0 :=
  ⟨fun ⟨h0, h1, h2, h3⟩ => ⟨h0, h1, h2, h3⟩, fun ⟨h0, h1, h2, h3⟩ => ⟨h0, h1, h2, h3⟩⟩

theorem FieldsJ.word (hcls : fld x 28 4 = 0) (hop : fld x 24 4 = op) (hf : FieldsJ x m a) : x = encJ op m a := by
  cases hf
  apply BitVec.eq_of_toNat_eq
  simp only [encJ, fld, BitVec.toNat_ofNat] at *
  omega

theorem FieldsJ.of_word (hx : x = encJ op m a) (hop : op < 16) (hm : m < 16) (ha : a < 128) :
    fld x 28 4 = 0 ∧ fld x 24 4 = op ∧ FieldsJ x m a := by
  subst hx
  exact ⟨encJ_class _ _ _ hop hm ha, encJ_op _ _ _ hop hm ha,
    encJ_m _ _ _ hm ha, encJ_a _ _ _ ha, encJ_spare _ _ _ ha, encJ_b _ _ _⟩

/-- Format M: the fields but the class and the op. -/
structure FieldsM (x : Word) (q w h d a : Nat) : Prop where
  q : fld x 20 4 = q
  w : fld x 17 3 = w
  h : fld x 14 3 = h
  d : fld x 7 7 = d
  a : fld x 0 7 = a

theorem fieldsM_iff : FieldsM x q w h d a ↔ fld x 20 4 = q ∧ fld x 17 3 = w ∧ fld x 14 3 = h ∧ fld x 7 7 = d ∧ fld x 0 7 = a :=
  ⟨fun ⟨h0, h1, h2, h3, h4⟩ => ⟨h0, h1, h2, h3, h4⟩, fun ⟨h0, h1, h2, h3, h4⟩ => ⟨h0, h1, h2, h3, h4⟩⟩

theorem FieldsM.word (hcls : fld x 28 4 = cls) (hop : fld x 24 4 = op) (hf : FieldsM x q w h d a) : x = encM cls op q w h d a := by
  cases hf
  apply BitVec.eq_of_toNat_eq
  simp only [encM, fld, BitVec.toNat_ofNat] at *
  omega

theorem FieldsM.of_word (hx : x = encM cls op q w h d a) (hcls : cls < 16) (hop : op < 16) (hq : q < 16) (hw : w < 8) (hh : h < 8) (hd : d < 128) (ha : a < 128) :
    fld x 28 4 = cls ∧ fld x 24 4 = op ∧ FieldsM x q w h d a := by
  subst hx
  exact ⟨encM_class _ _ _ _ _ _ _ hcls hop hq hw hh hd ha, encM_op _ _ _ _ _ _ _ hop hq hw hh hd ha,
    encM_q _ _ _ _ _ _ _ hq hw hh hd ha, encM_w _ _ _ _ _ _ _ hw hh hd ha, encM_h _ _ _ _ _ _ _ hh hd ha, encM_d _ _ _ _ _ _ _ hd ha, encM_a _ _ _ _ _ _ _ ha⟩

/-- Format P, of class 9: the fields but the class and the op. -/
structure FieldsP (x : Word) (w d a off : Nat) : Prop where
  w : fld x 21 3 = w
  d : fld x 14 7 = d
  a : fld x 7 7 = a
  off : fld x 0 7 = off

theorem fieldsP_iff : FieldsP x w d a off ↔ fld x 21 3 = w ∧ fld x 14 7 = d ∧ fld x 7 7 = a ∧ fld x 0 7 = off :=
  ⟨fun ⟨h0, h1, h2, h3⟩ => ⟨h0, h1, h2, h3⟩, fun ⟨h0, h1, h2, h3⟩ => ⟨h0, h1, h2, h3⟩⟩

theorem FieldsP.word (hcls : fld x 28 4 = 9) (hop : fld x 24 4 = op) (hf : FieldsP x w d a off) : x = encP op w d a off := by
  cases hf
  apply BitVec.eq_of_toNat_eq
  simp only [encP, fld, BitVec.toNat_ofNat] at *
  omega

theorem FieldsP.of_word (hx : x = encP op w d a off) (hop : op < 16) (hw : w < 8) (hd : d < 128) (ha : a < 128) (hoff : off < 128) :
    fld x 28 4 = 9 ∧ fld x 24 4 = op ∧ FieldsP x w d a off := by
  subst hx
  exact ⟨encP_class _ _ _ _ _ hop hw hd ha hoff, encP_op _ _ _ _ _ hop hw hd ha hoff,
    encP_w _ _ _ _ _ hw hd ha hoff, encP_d _ _ _ _ _ hd ha hoff, encP_a _ _ _ _ _ ha hoff, encP_off _ _ _ _ _ hoff⟩

end FirstWords

/-! ## Extension words -/

section ExtensionWords

variable {x : Word} {f : First}

theorem eq_encMemExt_iff {sc : Nat} {h : Hint} {n : Bool} {o : BitVec 24} (hsc : sc < 16) :
    x = encMemExt sc h n o ↔
      fld x 28 4 = sc ∧ fld x 25 3 = h.code ∧ fld x 24 1 = n.toNat ∧ fld x 0 24 = o.toNat := by
  have := h.code_lt
  have := n.toNat_lt
  have := o.isLt
  constructor
  · rintro rfl
    simp only [encMemExt, fld, BitVec.toNat_ofNat]
    refine ⟨?_, ?_, ?_, ?_⟩ <;> omega
  · rintro ⟨h0, h1, h2, h3⟩
    have := above_eq x 0 24 24 rfl
    have := above_eq x 24 1 25 rfl
    have := above_eq x 25 3 28 rfl
    have := above_eq x 28 4 32 rfl
    apply BitVec.eq_of_toNat_eq
    rw [encMemExt, BitVec.toNat_ofNat]
    have := above_zero x
    have := above_top x
    omega

theorem eq_atomWord_iff {y : AtomMod} :
    x = y.word ↔
      fld x 28 4 = y.op.code ∧ fld x 26 2 = y.ord.code ∧ fld x 22 4 = y.scope.code ∧ fld x 19 3 = y.hint.code ∧ fld x 16 3 = 0 ∧ fld x 0 16 = y.off.toNat := by
  have := y.op.code_lt
  have := y.ord.code_lt
  have := y.scope.code_lt
  have := y.hint.code_lt
  have := y.off.isLt
  constructor
  · rintro rfl
    simp only [AtomMod.word, fld, BitVec.toNat_ofNat]
    refine ⟨?_, ?_, ?_, ?_, ?_, ?_⟩ <;> omega
  · rintro ⟨h0, h1, h2, h3, h4, h5⟩
    have := above_eq x 0 16 16 rfl
    have := above_eq x 16 3 19 rfl
    have := above_eq x 19 3 22 rfl
    have := above_eq x 22 4 26 rfl
    have := above_eq x 26 2 28 rfl
    have := above_eq x 28 4 32 rfl
    apply BitVec.eq_of_toNat_eq
    rw [AtomMod.word, BitVec.toNat_ofNat]
    have := above_zero x
    have := above_top x
    omega

theorem eq_waitWord_iff {y : WaitMod} :
    x = y.word ↔
      fld x 29 3 = y.cmp.code ∧ fld x 23 6 = y.opnd.val ∧ fld x 17 6 = y.tmo.val ∧ fld x 13 4 = y.scope.code ∧ fld x 0 13 = 0 := by
  have := y.cmp.code_lt
  have := y.opnd.isLt
  have := y.tmo.isLt
  have := y.scope.code_lt
  constructor
  · rintro rfl
    simp only [WaitMod.word, fld, BitVec.toNat_ofNat]
    refine ⟨?_, ?_, ?_, ?_, ?_⟩ <;> omega
  · rintro ⟨h0, h1, h2, h3, h4⟩
    have := above_eq x 0 13 13 rfl
    have := above_eq x 13 4 17 rfl
    have := above_eq x 17 6 23 rfl
    have := above_eq x 23 6 29 rfl
    have := above_eq x 29 3 32 rfl
    apply BitVec.eq_of_toNat_eq
    rw [WaitMod.word, BitVec.toNat_ofNat]
    have := above_zero x
    have := above_top x
    omega

theorem eq_nevWord_iff {y : NevMod} :
    x = y.word ↔
      fld x 28 4 = y.q.val ∧ fld x 27 1 = y.mem.toNat ∧ fld x 23 4 = optM y.fmask ∧ fld x 16 7 = y.nin.toNat ∧ fld x 11 5 = y.nout.toNat ∧ fld x 10 1 = y.trapen.toNat ∧ fld x 0 10 = 0 := by
  have := y.q.isLt
  have := y.mem.toNat_lt
  have := optM_lt y.fmask
  have := y.nin.isLt
  have := y.nout.isLt
  have := y.trapen.toNat_lt
  constructor
  · rintro rfl
    simp only [NevMod.word, fld, BitVec.toNat_ofNat]
    refine ⟨?_, ?_, ?_, ?_, ?_, ?_, ?_⟩ <;> omega
  · rintro ⟨h0, h1, h2, h3, h4, h5, h6⟩
    have := above_eq x 0 10 10 rfl
    have := above_eq x 10 1 11 rfl
    have := above_eq x 11 5 16 rfl
    have := above_eq x 16 7 23 rfl
    have := above_eq x 23 4 27 rfl
    have := above_eq x 27 1 28 rfl
    have := above_eq x 28 4 32 rfl
    apply BitVec.eq_of_toNat_eq
    rw [NevMod.word, BitVec.toNat_ofNat]
    have := above_zero x
    have := above_top x
    omega

theorem eq_traceWord_iff {y : TraceMod} :
    x = y.word ↔
      fld x 26 6 = y.hdr.val ∧ fld x 20 6 = y.gen.val ∧ fld x 14 6 = y.tmo.val ∧ fld x 12 2 = y.cull.code ∧ fld x 0 12 = 0 := by
  have := y.hdr.isLt
  have := y.gen.isLt
  have := y.tmo.isLt
  have := y.cull.code_lt
  constructor
  · rintro rfl
    simp only [TraceMod.word, fld, BitVec.toNat_ofNat]
    refine ⟨?_, ?_, ?_, ?_, ?_⟩ <;> omega
  · rintro ⟨h0, h1, h2, h3, h4⟩
    have := above_eq x 0 12 12 rfl
    have := above_eq x 12 2 14 rfl
    have := above_eq x 14 6 20 rfl
    have := above_eq x 20 6 26 rfl
    have := above_eq x 26 6 32 rfl
    apply BitVec.eq_of_toNat_eq
    rw [TraceMod.word, BitVec.toNat_ofNat]
    have := above_zero x
    have := above_top x
    omega

theorem eq_encMat_iff {af bf acc rows grp sat ovr q kind : Nat} (haf : af < 8) (hbf : bf < 8) (hacc : acc < 4) (hrows : rows < 128) (hgrp : grp < 4) (hsat : sat < 2) (hovr : ovr < 2) (hq : q < 16) (hkind : kind < 8) :
    x = encMat af bf acc rows grp sat ovr q kind ↔
      fld x 29 3 = af ∧ fld x 26 3 = bf ∧ fld x 24 2 = acc ∧ fld x 17 7 = rows ∧ fld x 15 2 = grp ∧ fld x 14 1 = sat ∧ fld x 13 1 = ovr ∧ fld x 9 4 = q ∧ fld x 6 3 = kind ∧ fld x 0 6 = 0 := by
  constructor
  · rintro rfl
    simp only [encMat, fld, BitVec.toNat_ofNat]
    refine ⟨?_, ?_, ?_, ?_, ?_, ?_, ?_, ?_, ?_, ?_⟩ <;> omega
  · rintro ⟨h0, h1, h2, h3, h4, h5, h6, h7, h8, h9⟩
    have := above_eq x 0 6 6 rfl
    have := above_eq x 6 3 9 rfl
    have := above_eq x 9 4 13 rfl
    have := above_eq x 13 1 14 rfl
    have := above_eq x 14 1 15 rfl
    have := above_eq x 15 2 17 rfl
    have := above_eq x 17 7 24 rfl
    have := above_eq x 24 2 26 rfl
    have := above_eq x 26 3 29 rfl
    have := above_eq x 29 3 32 rfl
    apply BitVec.eq_of_toNat_eq
    rw [encMat, BitVec.toNat_ofNat]
    have := above_zero x
    have := above_top x
    omega

theorem eq_atompWord_iff {op : Aop} {spare : BitVec 6} :
    x = BitVec.ofNat 32 (op.code * 2 ^ 28 + spare.toNat * 2 ^ 22) ↔
      fld x 28 4 = op.code ∧ fld x 22 6 = spare.toNat ∧ fld x 0 22 = 0 := by
  have := op.code_lt
  have := spare.isLt
  constructor
  · rintro rfl
    simp only [fld, BitVec.toNat_ofNat]
    refine ⟨?_, ?_, ?_⟩ <;> omega
  · rintro ⟨h0, h1, h2⟩
    have := above_eq x 0 22 22 rfl
    have := above_eq x 22 6 28 rfl
    have := above_eq x 28 4 32 rfl
    apply BitVec.eq_of_toNat_eq
    rw [BitVec.toNat_ofNat]
    have := above_zero x
    have := above_top x
    omega

theorem eq_refillWord_iff {m : Option MReg} :
    x = BitVec.ofNat 32 (optM m * 2 ^ 28) ↔
      fld x 28 4 = optM m ∧ fld x 0 28 = 0 := by
  have := optM_lt m
  constructor
  · rintro rfl
    simp only [fld, BitVec.toNat_ofNat]
    refine ⟨?_, ?_⟩ <;> omega
  · rintro ⟨h0, h1⟩
    have := above_eq x 0 28 28 rfl
    have := above_eq x 28 4 32 rfl
    apply BitVec.eq_of_toNat_eq
    rw [BitVec.toNat_ofNat]
    have := above_zero x
    have := above_top x
    omega

end ExtensionWords

end Sys2Proof
end

section
/-! # What each layout of operands decodes

An equation for each decoder of an extension word and for each `Shape`: it answers exactly the instructions whose fields, extension
word and literals the words hold. -/

namespace Sys2Proof

variable {f : First} {i : Instr} {x : Word}

/-! ## Extension words -/

theorem memMod_eq_ok {y : MemMod} : memMod f = .ok y ↔ fld f.word 14 3 = y.h ∧ ∀ z ∈ y.words, f.ext = z := by
  change (if fld f.word 14 3 = 7 then _ else _) = _ ↔ _
  cases y with
  | short h =>
    have := h.code_lt
    simp only [MemMod.h, MemMod.words]
    split
    · simp only [bind_eq_ok]
      grind
    · simp only [bind_eq_ok, hint_eq_ok, First.h]
      grind
  | ext y =>
    obtain ⟨h, n, o⟩ := y
    simp only [MemMod.h, MemMod.words, List.forall_mem_singleton, eq_encMemExt_iff (show 0 < 16 by decide), fld_eq_boolToNat, fld_eq_bvToNat]
    split
    · simp only [bind_eq_ok, zeroField_eq_ok, hint_eq_ok, Except.ok.injEq]
      grind
    · simp only [bind_eq_ok]
      grind

theorem scopeMod_eq_ok {y : ScopeMod} : scopeMod f = .ok y ↔ fld f.word 14 3 = 7 ∧ f.ext = y.word := by
  obtain ⟨sc, h, n, o⟩ := y
  change (if fld f.word 14 3 = 7 then _ else _) = _ ↔ _
  rw [ScopeMod.word, eq_encMemExt_iff (Nat.lt_of_lt_of_le sc.code_lt (by decide))]
  simp only [fld_eq_boolToNat, fld_eq_bvToNat]
  split
  · simp only [bind_eq_ok, scope_eq_ok, hint_eq_ok, Except.ok.injEq]
    grind
  · grind

theorem atomMod_eq_ok {y : AtomMod} : atomMod f = .ok y ↔
    fld f.word 14 3 = 7 ∧ fld f.word 17 3 = (if y.op.wide then 3 else 2) ∧ f.ext = y.word := by
  obtain ⟨op, o, sc, h, off⟩ := y
  change (if fld f.word 14 3 = 7 then _ else _) = _ ↔ _
  rw [eq_atomWord_iff]
  simp only [fld_eq_bvToNat]
  split
  · simp only [bind_eq_ok, zeroField_eq_ok, aop_eq_ok, ord_eq_ok, scope_eq_ok, hint_eq_ok, First.w]
    grind
  · grind

theorem waitMod_eq_ok {y : WaitMod} : waitMod f = .ok y ↔ f.ext = y.word := by
  obtain ⟨c, o, t, sc⟩ := y
  rw [eq_waitWord_iff]
  simp only [waitMod, bind_eq_ok, zeroField_eq_ok, cmp_eq_ok, sreg_eq_ok, scope_eq_ok, Except.ok.injEq]
  grind

theorem nevMod_eq_ok {y : NevMod} : nevMod x = .ok y ↔ x = y.word := by
  obtain ⟨q, m, fm, nin, nout, te⟩ := y
  rw [eq_nevWord_iff]
  simp only [nevMod, bind_eq_ok, zeroField_eq_ok, below_eq_ok, mreg15_eq_ok, Except.ok.injEq, fld_eq_boolToNat, fld_eq_bvToNat]
  grind

theorem traceMod_eq_ok {y : TraceMod} : traceMod x = .ok y ↔ x = y.word := by
  obtain ⟨h, g, t, c⟩ := y
  rw [eq_traceWord_iff]
  simp only [traceMod, bind_eq_ok, zeroField_eq_ok, sreg_eq_ok, cull_eq_ok, Except.ok.injEq]
  grind

/-- The fields of the matrix extension word `x` (Table 11.2). -/
def matFields (x : Word) : MatExt :=
  ⟨fld x 29 3, fld x 26 3, fld x 24 2, fld x 17 7, fld x 15 2, fld x 14 1, fld x 13 1, fld x 9 4, fld x 6 3⟩

theorem matExt_eq_ok {e : MatExt} : matExt x = .ok e ↔ fld x 0 6 = 0 ∧ e = matFields x := by
  simp only [matExt, bind_eq_ok, zeroField_eq_ok, Except.ok.injEq, matFields]
  grind

theorem bFmt_eq_ok {g : BFmt} {q : Nat} (hq : q < 16) :
    x = g.word q ↔ fld x 0 6 = 0 ∧ fld x 9 4 = q ∧ bFmt (matFields x) = .ok g := by
  obtain ⟨b, l⟩ := g
  have := b.code_lt
  have := optG_lt l
  rw [BFmt.word, eq_encMat_iff (by decide) (by omega) (by decide) (by decide) (by omega) (by decide) (by decide) hq (by decide)]
  simp only [bFmt, matFields, bind_eq_ok, zeroField_eq_ok, pfmt_eq_ok, glen_eq_ok, Except.ok.injEq]
  grind

theorem mmaMod_eq_ok {y : MmaMod} {q : Nat} (hq : q < 16) :
    x = y.word q ↔ fld x 0 6 = 0 ∧ fld x 9 4 = q ∧ mmaMod (matFields x) = .ok y := by
  obtain ⟨a, ⟨b, l⟩, c, r, sat, ovr⟩ := y
  have := a.code_lt
  have := b.code_lt
  have hc := c.code_lt
  have := optG_lt l
  have := sat.toNat_lt
  have := ovr.toNat_lt
  rw [MmaMod.word, eq_encMat_iff (by omega) (by omega) (Nat.lt_succ_of_lt hc) r.isLt (by omega) (by omega) (by omega) hq (by decide)]
  simp only [mmaMod, matFields, bind_eq_ok, zeroField_eq_ok, pfmt_eq_ok, glen_eq_ok, acc_eq_ok, Except.ok.injEq, fld_eq_boolToNat, fld_eq_bvToNat]
  grind

theorem tileMod_eq_ok {y : TileMod} :
    x = y.word ↔ fld x 0 6 = 0 ∧ fld x 6 3 = 0 ∧ tileMod (matFields x) = .ok y := by
  obtain ⟨p, c, r, sat⟩ := y
  have := p.code_lt
  have hc := c.code_lt
  have := sat.toNat_lt
  rw [TileMod.word, eq_encMat_iff (by omega) (by decide) (Nat.lt_succ_of_lt hc) r.isLt (by decide) (by omega) (by decide) (by decide) (by decide)]
  simp only [tileMod, matFields, bind_eq_ok, zeroField_eq_ok, pfmt_eq_ok, acc_eq_ok, Except.ok.injEq, fld_eq_boolToNat, fld_eq_bvToNat]
  grind

theorem planeWord_iff {k : PlaneKind} :
    x = encMat 0 0 0 0 0 0 0 0 k.code ↔ fld x 0 6 = 0 ∧ fld x 29 3 + fld x 26 3 + fld x 24 2 + fld x 17 7 + fld x 15 2 + fld x 14 1 + fld x 13 1 + fld x 9 4 = 0 ∧
      fld x 6 3 = k.code := by
  have := k.code_lt
  rw [eq_encMat_iff (by decide) (by decide) (by decide) (by decide) (by decide) (by decide) (by decide) (by decide) (by omega)]
  omega

/-! ## Branches and masks (formats B, BS and J) -/

theorem Shape.bOff_eq_ok {mk : BitVec 20 → Instr} : Shape.bOff mk f = .ok i ↔
    ∃ o, mk o = i ∧ FieldsB f.word 15 o.toNat := by
  simp only [Shape.bOff, guard_eq_ok]
  simp only [Except.ok.injEq, fieldsB_iff, First.m, First.off20, fld_eq_bvToNat]
  grind

theorem Shape.bMask_eq_ok {mk : MReg → BitVec 20 → Instr} : Shape.bMask mk f = .ok i ↔
    ∃ m o, mk m o = i ∧ FieldsB f.word m.val o.toNat := by
  simp only [Shape.bMask, bind_eq_ok, mreg_eq_ok, Except.ok.injEq, fieldsB_iff, First.m, First.off20, fld_eq_bvToNat]
  grind

theorem Shape.bCall_eq_ok {mk : Option MReg → BitVec 20 → Instr} : Shape.bCall mk f = .ok i ↔
    ∃ m o, mk m o = i ∧ FieldsB f.word (optM m) o.toNat := by
  simp only [Shape.bCall, bind_eq_ok, mreg15_eq_ok, Except.ok.injEq, fieldsB_iff, First.m, First.off20, fld_eq_bvToNat]
  grind

theorem Shape.bs_eq_ok {mk : SReg → BitVec 18 → Instr} : Shape.bs mk f = .ok i ↔
    ∃ s o, mk s o = i ∧ FieldsBS f.word s.val o.toNat := by
  simp only [Shape.bs, bind_eq_ok, sreg_eq_ok, Except.ok.injEq, fieldsBS_iff, First.off18, fld_eq_bvToNat]
  grind

theorem Shape.jVec_eq_ok {mk : VSrc → Instr} : Shape.jVec mk f = .ok i ↔
    ∃ a, mk a = i ∧ FieldsJ f.word 15 a.code ∧ ∀ y ∈ a.lits, y = f.lit := by
  simp only [Shape.jVec, bind_eq_ok, guard_eq_ok]
  simp only [vsrc_eq_ok, zeroField_eq_ok, Except.ok.injEq, fieldsJ_iff, First.m, First.a, First.b]
  grind

theorem Shape.jNone_eq_ok {mk : Instr} : Shape.jNone mk f = .ok i ↔
    mk = i ∧ FieldsJ f.word 15 0 := by
  simp only [Shape.jNone, bind_eq_ok, guard_eq_ok]
  simp only [zeroField_eq_ok, Except.ok.injEq, fieldsJ_iff, First.m, First.a, First.b]
  grind

theorem Shape.jMask_eq_ok {mk : MReg → Instr} : Shape.jMask mk f = .ok i ↔
    ∃ m, mk m = i ∧ FieldsJ f.word m.val 0 := by
  simp only [Shape.jMask, bind_eq_ok, mreg_eq_ok, zeroField_eq_ok, Except.ok.injEq, fieldsJ_iff, First.m, First.a, First.b]
  grind

/-! ## Control (format R, class 1) -/

theorem Shape.r0_eq_ok {mk : Instr} : Shape.r0 mk f = .ok i ↔
    mk = i ∧ FieldsR f.word 0 0 0 0 := by
  simp only [Shape.r0, bind_eq_ok, noNw_eq_ok, zeroField_eq_ok, Except.ok.injEq, fieldsR_iff, First.nw, First.d, First.a, First.b]
  grind

theorem Shape.rTrap_eq_ok {mk : BitVec 14 → Instr} : Shape.rTrap mk f = .ok i ↔
    ∃ k, mk k = i ∧ FieldsR f.word 0 0 (k.toNat / 128) (k.toNat % 128) := by
  have hk (k : BitVec 14) : fld f.word 0 14 = k.toNat ↔ fld f.word 7 7 = k.toNat / 128 ∧ fld f.word 0 7 = k.toNat % 128 := by
    have := k.isLt
    simp only [fld]
    omega
  simp only [Shape.rTrap, bind_eq_ok, noNw_eq_ok, zeroField_eq_ok, Except.ok.injEq, fieldsR_iff, First.nw, First.d, ← hk, fld_eq_bvToNat]
  grind

theorem Shape.rWin_eq_ok {mk : BitVec 5 → Instr} : Shape.rWin mk f = .ok i ↔
    ∃ k, mk k = i ∧ FieldsR f.word 0 0 0 k.toNat := by
  have hk (k : BitVec 5) : fld f.word 0 7 = k.toNat ↔ fld f.word 0 7 / 32 = 0 ∧ BitVec.ofNat 5 (fld f.word 0 7) = k := by
    have := k.isLt
    rw [← BitVec.toNat_inj, BitVec.toNat_ofNat]
    omega
  simp only [Shape.rWin, bind_eq_ok, noNw_eq_ok, zeroField_eq_ok, Except.ok.injEq, fieldsR_iff, First.nw, First.d, First.a, First.b, hk]
  grind

theorem Shape.rWinadd_eq_ok {mk : BitVec 7 → Instr} : Shape.rWinadd mk f = .ok i ↔
    ∃ k, mk k = i ∧ FieldsR f.word 0 0 0 k.toNat := by
  simp only [Shape.rWinadd, bind_eq_ok, noNw_eq_ok, zeroField_eq_ok, Except.ok.injEq, fieldsR_iff, First.nw, First.d, First.a, First.b, fld_eq_bvToNat]
  grind

theorem Shape.rRdcr_eq_ok {mk : SReg → BitVec 7 → Instr} {c : Nat} (hc : f.a = c) : Shape.rRdcr mk f = .ok i ↔
    ∃ d k, mk d k = i ∧ FieldsR f.word 0 d.val c k.toNat := by
  subst hc
  simp only [Shape.rRdcr, bind_eq_ok, sreg_eq_ok, noNw_eq_ok, Except.ok.injEq, fieldsR_iff, First.nw, First.d, First.a, First.b, fld_eq_bvToNat]
  grind

theorem Shape.rRdcrD_eq_ok {mk : SReg → BitVec 7 → Instr} {c : Nat} (hc : f.a = c) : Shape.rRdcrD mk f = .ok i ↔
    ∃ d k, mk d k = i ∧ FieldsR f.word 0 d.val c k.toNat := by
  subst hc
  simp only [Shape.rRdcrD, bind_eq_ok, sreg_eq_ok, noNw_eq_ok, Except.ok.injEq, fieldsR_iff, First.nw, First.d, First.a, First.b, fld_eq_bvToNat]
  grind

theorem Shape.rWrcr_eq_ok {mk : USrc → BitVec 7 → Instr} : Shape.rWrcr mk f = .ok i ↔
    ∃ a k, mk a k = i ∧ FieldsR f.word 0 0 a.code k.toNat ∧ ∀ y ∈ a.lits, y = f.lit := by
  simp only [Shape.rWrcr, bind_eq_ok, usrc_eq_ok, noNw_eq_ok, zeroField_eq_ok, Except.ok.injEq, fieldsR_iff, First.nw, First.d, First.a, First.b, fld_eq_bvToNat]
  grind

theorem Shape.rRdst_eq_ok {mk : SReg → USrc → BitVec 7 → Instr} : Shape.rRdst mk f = .ok i ↔
    ∃ d a k, mk d a k = i ∧ FieldsR f.word 0 d.val a.code k.toNat ∧ ∀ y ∈ a.lits, y = f.lit := by
  simp only [Shape.rRdst, bind_eq_ok, sreg_eq_ok, usrc_eq_ok, noNw_eq_ok, Except.ok.injEq, fieldsR_iff, First.nw, First.d, First.a, First.b, fld_eq_bvToNat]
  grind

theorem Shape.rWrst_eq_ok {mk : USrc → USrc → BitVec 7 → Instr} : Shape.rWrst mk f = .ok i ↔
    ∃ d a k, mk d a k = i ∧ FieldsR f.word 0 d.code a.code k.toNat ∧ ∀ y ∈ d.lits ++ a.lits, y = f.lit := by
  simp only [Shape.rWrst, bind_eq_ok, usrc_eq_ok, noNw_eq_ok, Except.ok.injEq, List.forall_mem_append, fieldsR_iff, First.nw, First.d, First.a, First.b, fld_eq_bvToNat]
  grind

theorem Shape.rLaunch_eq_ok {mk : VReg → VReg → Instr} : Shape.rLaunch mk f = .ok i ↔
    ∃ d a, mk d a = i ∧ FieldsR f.word 0 d.val a.val 0 := by
  simp only [Shape.rLaunch, bind_eq_ok, vreg_eq_ok, noNw_eq_ok, zeroField_eq_ok, Except.ok.injEq, fieldsR_iff, First.nw, First.d, First.a, First.b]
  grind

/-- The uniform source of a class 1 form whose B field names the form: SLEEPT, SETMODE and NETLD. -/
theorem Shape.rSleept_eq_ok {mk : USrc → Instr} {c : Nat} (hc : f.b = c) : Shape.rSleept mk f = .ok i ↔
    ∃ a, mk a = i ∧ FieldsR f.word 0 0 a.code c ∧ ∀ y ∈ a.lits, y = f.lit := by
  subst hc
  simp only [Shape.rSleept, bind_eq_ok, usrc_eq_ok, noNw_eq_ok, zeroField_eq_ok, Except.ok.injEq, fieldsR_iff, First.nw, First.d, First.a, First.b]
  grind

/-! ## Arithmetic, masks and lanes (formats R and I) -/

theorem Shape.vvv_eq_ok {mk : Bool → VDst → VSrc → VSrc → Instr} : Shape.vvv mk f = .ok i ↔
    ∃ n d a b, mk n d a b = i ∧ FieldsR f.word n.toNat d.code a.code b.code ∧ ∀ y ∈ a.lits ++ b.lits, y = f.lit := by
  simp only [Shape.vvv, bind_eq_ok, vdst_eq_ok, vsrc_eq_ok, Except.ok.injEq, List.forall_mem_append, fieldsR_iff, First.nw, First.d, First.a, First.b, fld_eq_boolToNat]
  grind

theorem Shape.vv_eq_ok {mk : Bool → VDst → VSrc → Instr} : Shape.vv mk f = .ok i ↔
    ∃ n d a, mk n d a = i ∧ FieldsR f.word n.toNat d.code a.code 0 ∧ ∀ y ∈ a.lits, y = f.lit := by
  simp only [Shape.vv, bind_eq_ok, vdst_eq_ok, vsrc_eq_ok, zeroField_eq_ok, Except.ok.injEq, fieldsR_iff, First.nw, First.d, First.a, First.b, fld_eq_boolToNat]
  grind

theorem Shape.vvvQ_eq_ok {mk : VDst → VSrc → VSrc → Instr} : Shape.vvvQ mk f = .ok i ↔
    ∃ d a b, mk d a b = i ∧ FieldsR f.word 0 d.code a.code b.code ∧ ∀ y ∈ a.lits ++ b.lits, y = f.lit := by
  simp only [Shape.vvvQ, bind_eq_ok, vdst_eq_ok, vsrc_eq_ok, noNw_eq_ok, Except.ok.injEq, List.forall_mem_append, fieldsR_iff, First.nw, First.d, First.a, First.b]
  grind

theorem Shape.mvv_eq_ok {mk : MReg → VSrc → VSrc → Instr} : Shape.mvv mk f = .ok i ↔
    ∃ d a b, mk d a b = i ∧ FieldsR f.word 0 d.val a.code b.code ∧ ∀ y ∈ a.lits ++ b.lits, y = f.lit := by
  simp only [Shape.mvv, bind_eq_ok, mreg_eq_ok, vsrc_eq_ok, noNw_eq_ok, Except.ok.injEq, List.forall_mem_append, fieldsR_iff, First.nw, First.d, First.a, First.b]
  grind

theorem Shape.vi11_eq_ok {mk : VDst → VSrc → BitVec 11 → Instr} : Shape.vi11 mk f = .ok i ↔
    ∃ d a k, mk d a k = i ∧ FieldsI f.word d.code a.code k.toNat ∧ ∀ y ∈ a.lits, y = f.lit := by
  simp only [Shape.vi11, bind_eq_ok, vdst_eq_ok, vsrc_eq_ok, Except.ok.injEq, fieldsI_iff, First.id, First.ia, fld_eq_bvToNat]
  grind

theorem Shape.vi5_eq_ok {mk : VDst → VSrc → BitVec 5 → Instr} : Shape.vi5 mk f = .ok i ↔
    ∃ d a k, mk d a k = i ∧ FieldsI f.word d.code a.code k.toNat ∧ ∀ y ∈ a.lits, y = f.lit := by
  have hk (k : BitVec 5) : fld f.word 0 11 = k.toNat ↔ fld f.word 5 6 = 0 ∧ fld f.word 0 5 = k.toNat := by
    have := k.isLt
    simp only [fld]
    omega
  simp only [Shape.vi5, bind_eq_ok, vdst_eq_ok, vsrc_eq_ok, zeroField_eq_ok, Except.ok.injEq, fieldsI_iff, First.id, First.ia, hk, fld_eq_bvToNat]
  grind

theorem Shape.uv_eq_ok {mk : UDst → VSrc → Instr} : Shape.uv mk f = .ok i ↔
    ∃ d a, mk d a = i ∧ FieldsR f.word 0 d.code a.code 0 ∧ ∀ y ∈ a.lits, y = f.lit := by
  simp only [Shape.uv, bind_eq_ok, udst_eq_ok, vsrc_eq_ok, noNw_eq_ok, zeroField_eq_ok, Except.ok.injEq, fieldsR_iff, First.nw, First.d, First.a, First.b]
  grind

theorem Shape.v_eq_ok {mk : Bool → VDst → Instr} : Shape.v mk f = .ok i ↔
    ∃ n d, mk n d = i ∧ FieldsR f.word n.toNat d.code 0 0 := by
  simp only [Shape.v, bind_eq_ok, vdst_eq_ok, zeroField_eq_ok, Except.ok.injEq, fieldsR_iff, First.nw, First.d, First.a, First.b, fld_eq_boolToNat]
  grind

theorem Shape.mmm_eq_ok {mk : MReg → MSrc → MSrc → Instr} : Shape.mmm mk f = .ok i ↔
    ∃ d a b, mk d a b = i ∧ FieldsR f.word 0 d.val a.code b.code := by
  simp only [Shape.mmm, bind_eq_ok, mreg_eq_ok, msrc_eq_ok, noNw_eq_ok, Except.ok.injEq, fieldsR_iff, First.nw, First.d, First.a, First.b]
  grind

theorem Shape.m_eq_ok {mk : MReg → Instr} : Shape.m mk f = .ok i ↔
    ∃ d, mk d = i ∧ FieldsR f.word 0 d.val 0 0 := by
  simp only [Shape.m, bind_eq_ok, mreg_eq_ok, noNw_eq_ok, zeroField_eq_ok, Except.ok.injEq, fieldsR_iff, First.nw, First.d, First.a, First.b]
  grind

theorem Shape.um_eq_ok {mk : UDst → MSrc → Instr} : Shape.um mk f = .ok i ↔
    ∃ d a, mk d a = i ∧ FieldsR f.word 0 d.code a.code 0 := by
  simp only [Shape.um, bind_eq_ok, udst_eq_ok, msrc_eq_ok, noNw_eq_ok, zeroField_eq_ok, Except.ok.injEq, fieldsR_iff, First.nw, First.d, First.a, First.b]
  grind

theorem Shape.mv_eq_ok {mk : MReg → VSrc → Instr} : Shape.mv mk f = .ok i ↔
    ∃ d a, mk d a = i ∧ FieldsR f.word 0 d.val a.code 0 ∧ ∀ y ∈ a.lits, y = f.lit := by
  simp only [Shape.mv, bind_eq_ok, mreg_eq_ok, vsrc_eq_ok, noNw_eq_ok, zeroField_eq_ok, Except.ok.injEq, fieldsR_iff, First.nw, First.d, First.a, First.b]
  grind

theorem Shape.vm_eq_ok {mk : Bool → VDst → MSrc → Instr} : Shape.vm mk f = .ok i ↔
    ∃ n d a, mk n d a = i ∧ FieldsR f.word n.toNat d.code a.code 0 := by
  simp only [Shape.vm, bind_eq_ok, vdst_eq_ok, msrc_eq_ok, zeroField_eq_ok, Except.ok.injEq, fieldsR_iff, First.nw, First.d, First.a, First.b, fld_eq_boolToNat]
  grind

theorem Shape.mu_eq_ok {mk : MReg → USrc → Instr} : Shape.mu mk f = .ok i ↔
    ∃ d a, mk d a = i ∧ FieldsR f.word 0 d.val a.code 0 ∧ ∀ y ∈ a.lits, y = f.lit := by
  simp only [Shape.mu, bind_eq_ok, mreg_eq_ok, usrc_eq_ok, noNw_eq_ok, zeroField_eq_ok, Except.ok.injEq, fieldsR_iff, First.nw, First.d, First.a, First.b]
  grind

theorem Shape.uuu_eq_ok {mk : UDst → USrc → USrc → Instr} : Shape.uuu mk f = .ok i ↔
    ∃ d a b, mk d a b = i ∧ FieldsR f.word 0 d.code a.code b.code ∧ ∀ y ∈ a.lits ++ b.lits, y = f.lit := by
  simp only [Shape.uuu, bind_eq_ok, udst_eq_ok, usrc_eq_ok, noNw_eq_ok, Except.ok.injEq, List.forall_mem_append, fieldsR_iff, First.nw, First.d, First.a, First.b]
  grind

theorem Shape.vu_eq_ok {mk : VDst → USrc → Instr} : Shape.vu mk f = .ok i ↔
    ∃ d a, mk d a = i ∧ FieldsR f.word 0 d.code a.code 0 ∧ ∀ y ∈ a.lits, y = f.lit := by
  simp only [Shape.vu, bind_eq_ok, vdst_eq_ok, usrc_eq_ok, noNw_eq_ok, zeroField_eq_ok, Except.ok.injEq, fieldsR_iff, First.nw, First.d, First.a, First.b]
  grind

theorem Shape.uru_eq_ok {mk : UDst → VReg → USrc → Instr} : Shape.uru mk f = .ok i ↔
    ∃ d a b, mk d a b = i ∧ FieldsR f.word 0 d.code a.val b.code ∧ ∀ y ∈ b.lits, y = f.lit := by
  simp only [Shape.uru, bind_eq_ok, udst_eq_ok, vreg_eq_ok, usrc_eq_ok, noNw_eq_ok, Except.ok.injEq, fieldsR_iff, First.nw, First.d, First.a, First.b]
  grind

theorem Shape.vuu_eq_ok {mk : VDst → USrc → USrc → Instr} : Shape.vuu mk f = .ok i ↔
    ∃ d a b, mk d a b = i ∧ FieldsR f.word 0 d.code a.code b.code ∧ ∀ y ∈ a.lits ++ b.lits, y = f.lit := by
  simp only [Shape.vuu, bind_eq_ok, vdst_eq_ok, usrc_eq_ok, noNw_eq_ok, Except.ok.injEq, List.forall_mem_append, fieldsR_iff, First.nw, First.d, First.a, First.b]
  grind

theorem Shape.uu_eq_ok {mk : UDst → USrc → Instr} : Shape.uu mk f = .ok i ↔
    ∃ d a, mk d a = i ∧ FieldsR f.word 0 d.code a.code 0 ∧ ∀ y ∈ a.lits, y = f.lit := by
  simp only [Shape.uu, bind_eq_ok, udst_eq_ok, usrc_eq_ok, noNw_eq_ok, zeroField_eq_ok, Except.ok.injEq, fieldsR_iff, First.nw, First.d, First.a, First.b]
  grind

/-! ## Memory and the pen (formats M and P) -/

theorem Shape.mLd_eq_ok {mk : QReg → Width → MemMod → VDst → VSrc → Instr} : Shape.mLd mk f = .ok i ↔
    ∃ q w x d a, mk q w x d a = i ∧ FieldsM f.word q.val w.code x.h d.code a.code ∧ (∀ y ∈ x.words, f.ext = y) ∧ ∀ y ∈ a.lits, y = f.lit := by
  simp only [Shape.mLd, bind_eq_ok, below_eq_ok, width_eq_ok, memMod_eq_ok, vdst_eq_ok, vsrc_eq_ok, Except.ok.injEq, fieldsM_iff, First.q, First.w, First.a, First.b]
  grind

theorem Shape.mSt_eq_ok {mk : QReg → Width → MemMod → VSrc → VSrc → Instr} : Shape.mSt mk f = .ok i ↔
    ∃ q w x d a, mk q w x d a = i ∧ FieldsM f.word q.val w.code x.h d.code a.code ∧ (∀ y ∈ x.words, f.ext = y) ∧ ∀ y ∈ d.lits ++ a.lits, y = f.lit := by
  simp only [Shape.mSt, bind_eq_ok, below_eq_ok, width_eq_ok, memMod_eq_ok, vsrc_eq_ok, Except.ok.injEq, List.forall_mem_append, fieldsM_iff, First.q, First.w, First.a, First.b]
  grind

theorem Shape.mLdf_eq_ok {mk : QReg → MemMod → VDst → VSrc → Instr} : Shape.mLdf mk f = .ok i ↔
    ∃ q x d a, mk q x d a = i ∧ FieldsM f.word q.val 2 x.h d.code a.code ∧ (∀ y ∈ x.words, f.ext = y) ∧ ∀ y ∈ a.lits, y = f.lit := by
  simp only [Shape.mLdf, bind_eq_ok, guard_eq_ok]
  simp only [below_eq_ok, memMod_eq_ok, vdst_eq_ok, vsrc_eq_ok, Except.ok.injEq, fieldsM_iff, First.q, First.w, First.a, First.b]
  grind

theorem Shape.mPref_eq_ok {mk : QReg → Width → MemMod → VSrc → Instr} : Shape.mPref mk f = .ok i ↔
    ∃ q w x a, mk q w x a = i ∧ FieldsM f.word q.val w.code x.h 0 a.code ∧ (∀ y ∈ x.words, f.ext = y) ∧ ∀ y ∈ a.lits, y = f.lit := by
  simp only [Shape.mPref, bind_eq_ok, below_eq_ok, width_eq_ok, memMod_eq_ok, vsrc_eq_ok, zeroField_eq_ok, Except.ok.injEq, fieldsM_iff, First.q, First.w, First.a, First.b]
  grind

theorem Shape.mLdl_eq_ok {mk : Width → MemMod → VDst → VSrc → Instr} : Shape.mLdl mk f = .ok i ↔
    ∃ w x d a, mk w x d a = i ∧ FieldsM f.word 0 w.code x.h d.code a.code ∧ (∀ y ∈ x.words, f.ext = y) ∧ ∀ y ∈ a.lits, y = f.lit := by
  simp only [Shape.mLdl, bind_eq_ok, width_eq_ok, memMod_eq_ok, vdst_eq_ok, vsrc_eq_ok, zeroField_eq_ok, Except.ok.injEq, fieldsM_iff, First.q, First.w, First.a, First.b]
  grind

theorem Shape.mStl_eq_ok {mk : Width → MemMod → VSrc → VSrc → Instr} : Shape.mStl mk f = .ok i ↔
    ∃ w x d a, mk w x d a = i ∧ FieldsM f.word 0 w.code x.h d.code a.code ∧ (∀ y ∈ x.words, f.ext = y) ∧ ∀ y ∈ d.lits ++ a.lits, y = f.lit := by
  simp only [Shape.mStl, bind_eq_ok, width_eq_ok, memMod_eq_ok, vsrc_eq_ok, zeroField_eq_ok, Except.ok.injEq, List.forall_mem_append, fieldsM_iff, First.q, First.w, First.a, First.b]
  grind

theorem Shape.mLdu_eq_ok {mk : QReg → Width → MemMod → SReg → USrc → Instr} : Shape.mLdu mk f = .ok i ↔
    ∃ q w x d a, mk q w x d a = i ∧ FieldsM f.word q.val w.code x.h d.val a.code ∧ (∀ y ∈ x.words, f.ext = y) ∧ ∀ y ∈ a.lits, y = f.lit := by
  simp only [Shape.mLdu, bind_eq_ok, below_eq_ok, width_eq_ok, memMod_eq_ok, sreg_eq_ok, usrc_eq_ok, Except.ok.injEq, fieldsM_iff, First.q, First.w, First.a, First.b]
  grind

theorem Shape.mRecset_eq_ok {mk : QReg → SReg → Instr} : Shape.mRecset mk f = .ok i ↔
    ∃ q a, mk q a = i ∧ FieldsM f.word q.val 0 0 0 a.val := by
  simp only [Shape.mRecset, bind_eq_ok, below_eq_ok, sreg_eq_ok, zeroField_eq_ok, Except.ok.injEq, fieldsM_iff, First.q, First.w, First.h, First.a, First.b]
  grind

theorem Shape.mRecget_eq_ok {mk : QReg → SReg → Instr} : Shape.mRecget mk f = .ok i ↔
    ∃ q d, mk q d = i ∧ FieldsM f.word q.val 0 0 d.val 0 := by
  simp only [Shape.mRecget, bind_eq_ok, below_eq_ok, sreg_eq_ok, zeroField_eq_ok, Except.ok.injEq, fieldsM_iff, First.q, First.w, First.h, First.a, First.b]
  grind

theorem Shape.mSample_eq_ok {mk : QReg → Texel → MemMod → VReg → VReg → Instr} : Shape.mSample mk f = .ok i ↔
    ∃ q t x d a, mk q t x d a = i ∧ FieldsM f.word q.val t.code x.h d.val a.val ∧ (∀ y ∈ x.words, f.ext = y) := by
  simp only [Shape.mSample, bind_eq_ok, below_eq_ok, texel_eq_ok, memMod_eq_ok, vreg_eq_ok, Except.ok.injEq, fieldsM_iff, First.q, First.w, First.a, First.b]
  grind

theorem Shape.mCacheWb_eq_ok {mk : QReg → Width → VSrc → Instr} {c : Nat} (hc : f.h = c) : Shape.mCacheWb mk f = .ok i ↔
    ∃ q w a, mk q w a = i ∧ FieldsM f.word q.val w.code c 0 a.code ∧ ∀ y ∈ a.lits, y = f.lit := by
  subst hc
  simp only [Shape.mCacheWb, bind_eq_ok, below_eq_ok, width_eq_ok, vsrc_eq_ok, zeroField_eq_ok, Except.ok.injEq, fieldsM_iff, First.q, First.w, First.h, First.a, First.b]
  grind

theorem Shape.pLd_eq_ok {mk : Width → VDst → VSrc → BitVec 7 → Instr} : Shape.pLd mk f = .ok i ↔
    ∃ w d a o, mk w d a o = i ∧ FieldsP f.word w.code d.code a.code o.toNat ∧ ∀ y ∈ a.lits, y = f.lit := by
  simp only [Shape.pLd, bind_eq_ok, width_eq_ok, vdst_eq_ok, vsrc_eq_ok, Except.ok.injEq, fieldsP_iff, First.pw, First.d, First.a, First.b, fld_eq_bvToNat]
  grind

theorem Shape.pSt_eq_ok {mk : Width → VSrc → VSrc → BitVec 7 → Instr} : Shape.pSt mk f = .ok i ↔
    ∃ w d a o, mk w d a o = i ∧ FieldsP f.word w.code d.code a.code o.toNat ∧ ∀ y ∈ d.lits ++ a.lits, y = f.lit := by
  simp only [Shape.pSt, bind_eq_ok, width_eq_ok, vsrc_eq_ok, Except.ok.injEq, List.forall_mem_append, fieldsP_iff, First.pw, First.d, First.a, First.b, fld_eq_bvToNat]
  grind

theorem Shape.pAtom_eq_ok {mk : Aop → VReg → VSrc → BitVec 7 → BitVec 6 → Instr} : Shape.pAtom mk f = .ok i ↔
    ∃ op d a o spare, mk op d a o spare = i ∧ FieldsP f.word (if op.wide then 3 else 2) d.val a.code o.toNat ∧
      f.ext = BitVec.ofNat 32 (op.code * 2 ^ 28 + spare.toNat * 2 ^ 22) ∧ ∀ y ∈ a.lits, y = f.lit := by
  simp only [Shape.pAtom, bind_eq_ok, guard_eq_ok]
  simp only [eq_atompWord_iff, zeroField_eq_ok, aop_eq_ok, vreg_eq_ok, vsrc_eq_ok, Except.ok.injEq, fieldsP_iff,
    First.pw, First.d, First.a, First.b, fld_eq_bvToNat]
  grind

/-! ## Atomics, fences and waits (class 10) -/

theorem Shape.aAtom_eq_ok {mk : QReg → AtomMod → VReg → VSrc → Instr} : Shape.aAtom mk f = .ok i ↔
    ∃ q x d a, mk q x d a = i ∧ FieldsM f.word q.val (if x.op.wide then 3 else 2) 7 d.val a.code ∧ f.ext = x.word ∧ ∀ y ∈ a.lits, y = f.lit := by
  simp only [Shape.aAtom, bind_eq_ok, below_eq_ok, atomMod_eq_ok, vreg_eq_ok, vsrc_eq_ok, Except.ok.injEq, fieldsM_iff, First.q, First.a, First.b]
  grind

theorem Shape.aRed_eq_ok {mk : QReg → AtomMod → VSrc → VSrc → Instr} : Shape.aRed mk f = .ok i ↔
    ∃ q x d a, mk q x d a = i ∧ FieldsM f.word q.val (if x.op.wide then 3 else 2) 7 d.code a.code ∧ f.ext = x.word ∧
      ∀ y ∈ d.lits ++ a.lits, y = f.lit := by
  simp only [Shape.aRed, bind_eq_ok, below_eq_ok, atomMod_eq_ok, vsrc_eq_ok, Except.ok.injEq, List.forall_mem_append, fieldsM_iff, First.q, First.a, First.b]
  grind

theorem Shape.aWaitu_eq_ok {mk : QReg → Bool → SReg → USrc → WaitMod → Instr} : Shape.aWaitu mk f = .ok i ↔
    ∃ q wide d a x, mk q wide d a x = i ∧ FieldsM f.word q.val (if wide then 3 else 2) 7 d.val a.code ∧ f.ext = x.word ∧ ∀ y ∈ a.lits, y = f.lit := by
  have hw (wide : Bool) : fld f.word 17 3 = (if wide then 3 else 2) ↔ (fld f.word 17 3 = 2 ∨ fld f.word 17 3 = 3) ∧ (fld f.word 17 3 == 3) = wide := by
    cases wide <;> simp <;> omega
  simp only [Shape.aWaitu, bind_eq_ok, guard_eq_ok]
  simp only [below_eq_ok, sreg_eq_ok, usrc_eq_ok, waitMod_eq_ok, Except.ok.injEq, fieldsM_iff,
    First.q, First.w, First.h, First.a, First.b, hw]
  grind

theorem Shape.aStrel_eq_ok {mk : QReg → Width → ScopeMod → VSrc → VSrc → Instr} : Shape.aStrel mk f = .ok i ↔
    ∃ q w x d a, mk q w x d a = i ∧ FieldsM f.word q.val w.code 7 d.code a.code ∧ f.ext = x.word ∧ ∀ y ∈ d.lits ++ a.lits, y = f.lit := by
  simp only [Shape.aStrel, bind_eq_ok, below_eq_ok, width_eq_ok, scopeMod_eq_ok, vsrc_eq_ok, Except.ok.injEq, List.forall_mem_append, fieldsM_iff,
    First.q, First.w, First.a, First.b]
  grind

theorem Shape.aLdacq_eq_ok {mk : QReg → Width → ScopeMod → VDst → VSrc → Instr} : Shape.aLdacq mk f = .ok i ↔
    ∃ q w x d a, mk q w x d a = i ∧ FieldsM f.word q.val w.code 7 d.code a.code ∧ f.ext = x.word ∧ ∀ y ∈ a.lits, y = f.lit := by
  simp only [Shape.aLdacq, bind_eq_ok, below_eq_ok, width_eq_ok, scopeMod_eq_ok, vdst_eq_ok, vsrc_eq_ok, Except.ok.injEq, fieldsM_iff,
    First.q, First.w, First.a, First.b]
  grind

theorem Shape.aFenceAcq_eq_ok {mk : Scope → Instr} {c : Nat} (hc : f.w = c) : Shape.aFenceAcq mk f = .ok i ↔
    ∃ s, mk s = i ∧ FieldsM f.word s.code c 0 0 0 := by
  subst hc
  simp only [Shape.aFenceAcq, bind_eq_ok, scope_eq_ok, zeroField_eq_ok, Except.ok.injEq, fieldsM_iff, First.q, First.w, First.h, First.a, First.b]
  grind

theorem Shape.aFencero_eq_ok {mk : Scope → Instr} : Shape.aFencero mk f = .ok i ↔
    ∃ s, mk s = i ∧ FieldsM f.word s.code 0 0 0 0 := by
  simp only [Shape.aFencero, bind_eq_ok, scope_eq_ok, zeroField_eq_ok, Except.ok.injEq, fieldsM_iff, First.q, First.w, First.h, First.a, First.b]
  grind

/-! ## Copies, folds and counters (class 11) -/

theorem Shape.u_eq_ok {mk : UDst → Instr} : Shape.u mk f = .ok i ↔
    ∃ d, mk d = i ∧ FieldsR f.word 0 d.code 0 0 := by
  simp only [Shape.u, bind_eq_ok, udst_eq_ok, noNw_eq_ok, zeroField_eq_ok, Except.ok.injEq, fieldsR_iff, First.nw, First.d, First.a, First.b]
  grind

theorem Shape.ku_eq_ok {mk : Fold → USrc → Instr} : Shape.ku mk f = .ok i ↔
    ∃ k a, mk k a = i ∧ FieldsR f.word 0 k.val a.code 0 ∧ ∀ y ∈ a.lits, y = f.lit := by
  simp only [Shape.ku, bind_eq_ok, below_eq_ok, usrc_eq_ok, noNw_eq_ok, zeroField_eq_ok, Except.ok.injEq, fieldsR_iff, First.nw, First.d, First.a, First.b]
  grind

theorem Shape.uk_eq_ok {mk : UDst → Fold → Instr} : Shape.uk mk f = .ok i ↔
    ∃ d k, mk d k = i ∧ FieldsR f.word 0 d.code k.val 0 := by
  simp only [Shape.uk, bind_eq_ok, udst_eq_ok, below_eq_ok, noNw_eq_ok, zeroField_eq_ok, Except.ok.injEq, fieldsR_iff, First.nw, First.d, First.a, First.b]
  grind

/-- FARRIVE.RANK, where the opcode map has read the D field. -/
theorem Shape.kRank_eq_ok {mk : Fold → USrc → Instr} {c : Nat} (hc : f.d = c) : Shape.kRank mk f = .ok i ↔
    ∃ k b, mk k b = i ∧ FieldsR f.word 0 c (16 + k.val) b.code ∧ ∀ y ∈ b.lits, y = f.lit := by
  subst hc
  simp only [Shape.kRank, bind_eq_ok, refuse_eq_ok]
  simp only [noNw_eq_ok, below_eq_ok, usrc_eq_ok, Except.ok.injEq, fieldsR_iff, First.nw, First.d, First.a, First.b]
  grind

theorem Shape.uku_eq_ok {mk : UDst → Fold → USrc → Instr} : Shape.uku mk f = .ok i ↔
    ∃ d k b, mk d k b = i ∧ FieldsR f.word 0 d.code k.val b.code ∧ ∀ y ∈ b.lits, y = f.lit := by
  simp only [Shape.uku, bind_eq_ok, udst_eq_ok, below_eq_ok, usrc_eq_ok, noNw_eq_ok, Except.ok.injEq, fieldsR_iff, First.nw, First.d, First.a, First.b]
  grind

theorem Shape.kuu_eq_ok {mk : Fold → USrc → USrc → Instr} : Shape.kuu mk f = .ok i ↔
    ∃ k a b, mk k a b = i ∧ FieldsR f.word 0 k.val a.code b.code ∧ ∀ y ∈ a.lits ++ b.lits, y = f.lit := by
  simp only [Shape.kuu, bind_eq_ok, below_eq_ok, usrc_eq_ok, noNw_eq_ok, Except.ok.injEq, List.forall_mem_append, fieldsR_iff, First.nw, First.d, First.a, First.b]
  grind

theorem Shape.cu_eq_ok {mk : Fin 3 → USrc → Instr} : Shape.cu mk f = .ok i ↔
    ∃ c b, mk c b = i ∧ FieldsR f.word 0 0 c.val b.code ∧ ∀ y ∈ b.lits, y = f.lit := by
  simp only [Shape.cu, bind_eq_ok, below_eq_ok, usrc_eq_ok, noNw_eq_ok, zeroField_eq_ok, Except.ok.injEq, fieldsR_iff, First.nw, First.d, First.a, First.b]
  grind

theorem Shape.uc_eq_ok {mk : UDst → Fin 4 → Instr} : Shape.uc mk f = .ok i ↔
    ∃ d c, mk d c = i ∧ FieldsR f.word 0 d.code c.val 0 := by
  simp only [Shape.uc, bind_eq_ok, udst_eq_ok, below_eq_ok, noNw_eq_ok, zeroField_eq_ok, Except.ok.injEq, fieldsR_iff, First.nw, First.d, First.a, First.b]
  grind

theorem Shape.uCopy_eq_ok {mk : UDst → SReg → Instr} : Shape.uCopy mk f = .ok i ↔
    ∃ d a, mk d a = i ∧ FieldsR f.word 0 d.code a.val 0 := by
  simp only [Shape.uCopy, bind_eq_ok, udst_eq_ok, sreg_eq_ok, noNw_eq_ok, zeroField_eq_ok, Except.ok.injEq, fieldsR_iff, First.nw, First.d, First.a, First.b]
  grind

/-! ## The array and the flock (classes 12 and 13) -/

theorem Shape.sU_eq_ok {mk : USrc → Instr} : Shape.sU mk f = .ok i ↔
    ∃ a, mk a = i ∧ FieldsR f.word 0 0 a.code 0 ∧ ∀ y ∈ a.lits, y = f.lit := by
  simp only [Shape.sU, bind_eq_ok, usrc_eq_ok, noNw_eq_ok, zeroField_eq_ok, Except.ok.injEq, fieldsR_iff, First.nw, First.d, First.a, First.b]
  grind

theorem Shape.xMlds_eq_ok {mk : USrc → USrc → BFmt → Instr} : Shape.xMlds mk f = .ok i ↔
    ∃ a b g, mk a b g = i ∧ FieldsR f.word 0 0 a.code b.code ∧ f.ext = g.word 0 ∧ ∀ y ∈ a.lits ++ b.lits, y = f.lit := by
  simp only [Shape.xMlds, bind_eq_ok, noNw_eq_ok, zeroField_eq_ok, usrc_eq_ok, matExt_eq_ok, Except.ok.injEq, List.forall_mem_append, fieldsR_iff,
    First.nw, First.d, First.a, First.b, bFmt_eq_ok (show 0 < 16 by decide), matFields]
  grind

theorem Shape.xMldsg_eq_ok {mk : USrc → USrc → BFmt → QReg → Instr} : Shape.xMldsg mk f = .ok i ↔
    ∃ a b g q, mk a b g q = i ∧ FieldsR f.word 0 0 a.code b.code ∧ f.ext = g.word q.val ∧ ∀ y ∈ a.lits ++ b.lits, y = f.lit := by
  simp only [Shape.xMldsg, bind_eq_ok, noNw_eq_ok, zeroField_eq_ok, below_eq_ok, usrc_eq_ok, matExt_eq_ok, Except.ok.injEq, List.forall_mem_append,
    fieldsR_iff, First.nw, First.d, First.a, First.b, bFmt_eq_ok (Fin.isLt _), matFields]
  grind

theorem Shape.xScale_eq_ok {mk : USrc → Bool → GLen → Instr} : Shape.xScale mk f = .ok i ↔
    ∃ a int4 g, mk a int4 g = i ∧ FieldsR f.word 0 0 a.code ((if int4 then 4 else 0) + g.code) ∧ ∀ y ∈ a.lits, y = f.lit := by
  have hb (int4 : Bool) (g : GLen) : fld f.word 0 7 = (if int4 then 4 else 0) + g.code ↔
      fld f.word 0 7 / 8 = 0 ∧ flag (fld f.word 0 7 / 4) = int4 ∧ fld f.word 0 7 % 4 = optG (some g) := by
    have := g.code_lt
    simp only [flag, optG]
    cases int4 <;> simp <;> omega
  simp only [Shape.xScale, bind_eq_ok, noNw_eq_ok, zeroField_eq_ok, usrc_eq_ok, glen_eq_ok, fieldsR_iff, First.nw, First.d, First.a, First.b, hb]
  constructor
  · rintro ⟨-, hn, -, hd, a, ⟨ha, hl⟩, -, h8, g, hg, hi⟩
    cases g with
    | none => cases hi
    | some g =>
      cases hi
      exact ⟨a, _, g, rfl, ⟨hn, hd, ha, h8, rfl, hg⟩, hl⟩
  · rintro ⟨a, _, g, rfl, ⟨hn, hd, ha, h8, rfl, hg⟩, hl⟩
    exact ⟨(), hn, (), hd, a, ⟨ha, hl⟩, (), h8, some g, hg, rfl⟩

theorem Shape.xMma_eq_ok {mk : Slot → USrc → USrc → MmaMod → Instr} : Shape.xMma mk f = .ok i ↔
    ∃ t a b y, mk t a b y = i ∧ FieldsR f.word 0 t.val a.code b.code ∧ f.ext = y.word 0 ∧ ∀ y ∈ a.lits ++ b.lits, y = f.lit := by
  simp only [Shape.xMma, bind_eq_ok, noNw_eq_ok, zeroField_eq_ok, below_eq_ok, usrc_eq_ok, matExt_eq_ok, Except.ok.injEq, List.forall_mem_append,
    fieldsR_iff, First.nw, First.d, First.a, First.b, mmaMod_eq_ok (show 0 < 16 by decide), matFields]
  grind

theorem Shape.xMmag_eq_ok {mk : Slot → USrc → USrc → MmaMod → QReg → Instr} : Shape.xMmag mk f = .ok i ↔
    ∃ t a b y q, mk t a b y q = i ∧ FieldsR f.word 0 t.val a.code b.code ∧ f.ext = y.word q.val ∧ ∀ y ∈ a.lits ++ b.lits, y = f.lit := by
  simp only [Shape.xMmag, bind_eq_ok, noNw_eq_ok, below_eq_ok, usrc_eq_ok, matExt_eq_ok, Except.ok.injEq, List.forall_mem_append,
    fieldsR_iff, First.nw, First.d, First.a, First.b, mmaMod_eq_ok (Fin.isLt _), matFields]
  grind

theorem Shape.xZero_eq_ok {mk : Slot → Acc → Instr} : Shape.xZero mk f = .ok i ↔
    ∃ t c, mk t c = i ∧ FieldsR f.word 0 t.val c.code 0 := by
  simp only [Shape.xZero, bind_eq_ok, noNw_eq_ok, zeroField_eq_ok, below_eq_ok, acc_eq_ok, Except.ok.injEq, fieldsR_iff,
    First.nw, First.d, First.a, First.b]
  grind

/-- MST and MLD, where the opcode map has read KIND 0. -/
theorem Shape.xMst_eq_ok {mk : Slot → USrc → USrc → TileMod → Instr} (hk : fld f.ext 6 3 = 0) : Shape.xMst mk f = .ok i ↔
    ∃ t a b y, mk t a b y = i ∧ FieldsR f.word 0 t.val a.code b.code ∧ f.ext = y.word ∧ ∀ y ∈ a.lits ++ b.lits, y = f.lit := by
  simp only [Shape.xMst, bind_eq_ok, noNw_eq_ok, below_eq_ok, usrc_eq_ok, matExt_eq_ok, Except.ok.injEq, List.forall_mem_append,
    fieldsR_iff, First.nw, First.d, First.a, First.b, tileMod_eq_ok]
  grind

theorem Shape.xPlane_eq_ok {mk : USrc → PlaneKind → Instr} : Shape.xPlane mk f = .ok i ↔
    ∃ a k, mk a k = i ∧ FieldsR f.word 0 0 a.code 124 ∧ f.ext = encMat 0 0 0 0 0 0 0 0 k.code ∧ ∀ y ∈ a.lits, y = f.lit := by
  simp only [Shape.xPlane, bind_eq_ok, guard_eq_ok]
  simp only [noNw_eq_ok, zeroField_eq_ok, usrc_eq_ok, matExt_eq_ok, planeKind_eq_ok, Except.ok.injEq,
    fieldsR_iff, First.nw, First.d, First.a, First.b, planeWord_iff, matFields]
  grind

theorem Shape.xStat_eq_ok {mk : UDst → Bool → Instr} : Shape.xStat mk f = .ok i ↔
    ∃ d c, mk d c = i ∧ FieldsR f.word 0 d.code c.toNat 0 := by
  have hc (c : Bool) : fld f.word 7 7 = c.toNat ↔ fld f.word 7 7 < 2 ∧ flag (fld f.word 7 7) = c := by
    simp only [flag]
    cases c <;> simp <;> omega
  simp only [Shape.xStat, bind_eq_ok, guard_eq_ok]
  simp only [noNw_eq_ok, zeroField_eq_ok, udst_eq_ok, Except.ok.injEq, fieldsR_iff,
    First.nw, First.d, First.a, First.b, hc]
  grind

theorem Shape.nev_eq_ok {mk : VReg → VSrc → VSrc → NevMod → Instr} : Shape.nev mk f = .ok i ↔
    ∃ d a b y, mk d a b y = i ∧ FieldsR f.word 0 d.val a.code b.code ∧ f.ext = y.word ∧ ∀ y ∈ a.lits ++ b.lits, y = f.lit := by
  simp only [Shape.nev, bind_eq_ok, noNw_eq_ok, vreg_eq_ok, vsrc_eq_ok, nevMod_eq_ok, Except.ok.injEq, List.forall_mem_append,
    fieldsR_iff, First.nw, First.d, First.a, First.b]
  grind

theorem Shape.uuP_eq_ok {mk : UDst → USrc → SReg → Instr} : Shape.uuP mk f = .ok i ↔
    ∃ d a b, mk d a b = i ∧ FieldsR f.word 0 d.code a.code b.val ∧ ∀ y ∈ a.lits, y = f.lit := by
  simp only [Shape.uuP, bind_eq_ok, udst_eq_ok, usrc_eq_ok, sreg_eq_ok, noNw_eq_ok, Except.ok.injEq, fieldsR_iff, First.nw, First.d, First.a, First.b]
  grind

theorem Shape.uP_eq_ok {mk : UDst → SReg → Instr} : Shape.uP mk f = .ok i ↔
    ∃ d a, mk d a = i ∧ FieldsR f.word 0 d.code a.val 0 := by
  simp only [Shape.uP, bind_eq_ok, udst_eq_ok, sreg_eq_ok, noNw_eq_ok, zeroField_eq_ok, Except.ok.injEq, fieldsR_iff, First.nw, First.d, First.a, First.b]
  grind

/-! ## Rays and builds (class 14) -/

theorem Shape.trace_eq_ok {mk : VReg → VReg → TraceMod → Instr} : Shape.trace mk f = .ok i ↔
    ∃ d a x, mk d a x = i ∧ FieldsR f.word 0 d.val a.val 0 ∧ f.ext = x.word := by
  simp only [Shape.trace, bind_eq_ok, noNw_eq_ok, zeroField_eq_ok, vreg_eq_ok, traceMod_eq_ok, Except.ok.injEq, fieldsR_iff,
    First.nw, First.d, First.a, First.b]
  grind

theorem Shape.refill_eq_ok {mk : VReg → Option MReg → SReg → Option MReg → Instr} : Shape.refill mk f = .ok i ↔
    ∃ d a b o, mk d a b o = i ∧ FieldsR f.word 0 d.val (refillCode a) b.val ∧ f.ext = BitVec.ofNat 32 (optM o * 2 ^ 28) := by
  simp only [Shape.refill, eq_refillWord_iff, bind_eq_ok, noNw_eq_ok, zeroField_eq_ok, vreg_eq_ok, mreg14_eq_ok, sreg_eq_ok, mreg15_eq_ok,
    Except.ok.injEq, fieldsR_iff, First.nw, First.d, First.a, First.b]
  grind

theorem Shape.uPu_eq_ok {mk : UDst → SReg → USrc → Instr} : Shape.uPu mk f = .ok i ↔
    ∃ d a b, mk d a b = i ∧ FieldsR f.word 0 d.code a.val b.code ∧ ∀ y ∈ b.lits, y = f.lit := by
  simp only [Shape.uPu, bind_eq_ok, udst_eq_ok, sreg_eq_ok, usrc_eq_ok, noNw_eq_ok, Except.ok.injEq, fieldsR_iff, First.nw, First.d, First.a, First.b]
  grind

theorem Shape.pixpush_eq_ok {mk : VDst → VSrc → SReg → Instr} : Shape.pixpush mk f = .ok i ↔
    ∃ d a b, mk d a b = i ∧ FieldsR f.word 0 d.code a.code b.val ∧ ∀ y ∈ a.lits, y = f.lit := by
  simp only [Shape.pixpush, bind_eq_ok, vdst_eq_ok, vsrc_eq_ok, sreg_eq_ok, noNw_eq_ok, Except.ok.injEq, fieldsR_iff, First.nw, First.d, First.a, First.b]
  grind

theorem Shape.nodedec_eq_ok {mk : VReg → VReg → VReg → Instr} : Shape.nodedec mk f = .ok i ↔
    ∃ d a b, mk d a b = i ∧ FieldsR f.word 0 d.val a.val b.val := by
  simp only [Shape.nodedec, bind_eq_ok, vreg_eq_ok, noNw_eq_ok, Except.ok.injEq, fieldsR_iff, First.nw, First.d, First.a, First.b]
  grind

theorem Shape.morton_eq_ok {mk : VReg → VReg → SReg → Instr} : Shape.morton mk f = .ok i ↔
    ∃ d a b, mk d a b = i ∧ FieldsR f.word 0 d.val a.val b.val := by
  simp only [Shape.morton, bind_eq_ok, vreg_eq_ok, sreg_eq_ok, noNw_eq_ok, Except.ok.injEq, fieldsR_iff, First.nw, First.d, First.a, First.b]
  grind

end Sys2Proof
end

section
/-! # What a frame spells

A frame (a first word, with the extension word and the literal that follow it) spells an instruction where its words are the
instruction's own. Whatever the decoder answers, the frame spells it (R108 to R125). -/

namespace Sys2Proof

variable {f : First} {i : Instr}

/-- The words of the frame are the instruction's, each where it has one. -/
structure Spelled (f : First) (i : Instr) : Prop where
  word : f.word = i.word
  ext : ∀ x ∈ i.extWords, f.ext = x
  lit : ∀ x ∈ i.lits, x = f.lit

/-- The frame spells the instruction, and its class is the instruction's own: so it is none of the machine's events, which stand
in class 16. -/
structure Read (f : First) (i : Instr) : Prop extends Spelled f i where
  cls : i.cls = fld f.word 28 4

theorem decodeClass0_read (hc : fld f.word 28 4 = 0) (h : decodeClass0 f = .ok i) : Read f i := by
  unfold decodeClass0 at h
  split at h
  case h_1 ho =>
    obtain ⟨o, rfl, hr⟩ := Shape.bOff_eq_ok.1 h
    exact ⟨⟨hr.word hc ho, nofun, nofun⟩, hc.symm⟩
  case h_2 ho | h_3 ho | h_4 ho | h_5 ho =>
    obtain ⟨m, o, rfl, hr⟩ := Shape.bMask_eq_ok.1 h
    exact ⟨⟨hr.word hc ho, nofun, nofun⟩, hc.symm⟩
  case h_6 ho =>
    obtain ⟨m, o, rfl, hr⟩ := Shape.bCall_eq_ok.1 h
    exact ⟨⟨hr.word hc ho, nofun, nofun⟩, hc.symm⟩
  case h_7 ho | h_8 ho =>
    obtain ⟨s, o, rfl, hr⟩ := Shape.bs_eq_ok.1 h
    exact ⟨⟨hr.word hc ho, nofun, nofun⟩, hc.symm⟩
  case h_9 ho | h_10 ho =>
    obtain ⟨a, rfl, hr, hl⟩ := Shape.jVec_eq_ok.1 h
    exact ⟨⟨hr.word hc ho, nofun, hl⟩, hc.symm⟩
  case h_11 ho | h_15 ho =>
    obtain ⟨rfl, hr⟩ := Shape.jNone_eq_ok.1 h
    exact ⟨⟨hr.word hc ho, nofun, nofun⟩, hc.symm⟩
  case h_12 ho | h_13 ho | h_14 ho =>
    obtain ⟨m, rfl, hr⟩ := Shape.jMask_eq_ok.1 h
    exact ⟨⟨hr.word hc ho, nofun, nofun⟩, hc.symm⟩
  case h_16 => cases h

theorem decodeClass1_read (hc : fld f.word 28 4 = 1) (h : decodeClass1 f = .ok i) : Read f i := by
  unfold decodeClass1 at h
  split at h
  case h_1 ho | h_3 ho | h_4 ho | h_9 ho | h_13 ho | h_15 ho =>
    obtain ⟨rfl, hr⟩ := Shape.r0_eq_ok.1 h
    exact ⟨⟨hr.word hc ho, nofun, nofun⟩, hc.symm⟩
  case h_2 ho =>
    obtain ⟨k, rfl, hr⟩ := Shape.rTrap_eq_ok.1 h
    exact ⟨⟨hr.word hc ho, nofun, nofun⟩, hc.symm⟩
  case h_5 ho =>
    obtain ⟨k, rfl, hr⟩ := Shape.rWin_eq_ok.1 h
    exact ⟨⟨hr.word hc ho, nofun, nofun⟩, hc.symm⟩
  case h_6 ho =>
    obtain ⟨k, rfl, hr⟩ := Shape.rWinadd_eq_ok.1 h
    exact ⟨⟨hr.word hc ho, nofun, nofun⟩, hc.symm⟩
  case h_8 ho =>
    obtain ⟨a, k, rfl, hr, hl⟩ := Shape.rWrcr_eq_ok.1 h
    exact ⟨⟨hr.word hc ho, nofun, hl⟩, hc.symm⟩
  case h_10 ho =>
    obtain ⟨d, a, k, rfl, hr, hl⟩ := Shape.rRdst_eq_ok.1 h
    exact ⟨⟨hr.word hc ho, nofun, hl⟩, hc.symm⟩
  case h_11 ho =>
    obtain ⟨d, a, k, rfl, hr, hl⟩ := Shape.rWrst_eq_ok.1 h
    exact ⟨⟨hr.word hc ho, nofun, hl⟩, hc.symm⟩
  case h_12 ho =>
    obtain ⟨d, a, rfl, hr⟩ := Shape.rLaunch_eq_ok.1 h
    exact ⟨⟨hr.word hc ho, nofun, nofun⟩, hc.symm⟩
  case h_7 ho =>
    split at h
    next hb =>
      obtain ⟨d, k, rfl, hr⟩ := (Shape.rRdcr_eq_ok hb).1 h
      exact ⟨⟨hr.word hc ho, nofun, nofun⟩, hc.symm⟩
    split at h
    next hb =>
      obtain ⟨d, k, rfl, hr⟩ := (Shape.rRdcr_eq_ok hb).1 h
      exact ⟨⟨hr.word hc ho, nofun, nofun⟩, hc.symm⟩
    cases h
  case h_14 ho =>
    split at h
    next hb =>
      obtain ⟨a, rfl, hr, hl⟩ := (Shape.rSleept_eq_ok hb).1 h
      exact ⟨⟨hr.word hc ho, nofun, hl⟩, hc.symm⟩
    split at h
    next hb =>
      obtain ⟨a, rfl, hr, hl⟩ := (Shape.rSleept_eq_ok hb).1 h
      exact ⟨⟨hr.word hc ho, nofun, hl⟩, hc.symm⟩
    cases h
  case h_16 ho =>
    split at h
    next hb =>
      obtain ⟨a, rfl, hr, hl⟩ := (Shape.rSleept_eq_ok hb).1 h
      exact ⟨⟨hr.word hc ho, nofun, hl⟩, hc.symm⟩
    split at h
    next hb =>
      obtain ⟨a, rfl, hr, hl⟩ := (Shape.rSleept_eq_ok hb).1 h
      exact ⟨⟨hr.word hc ho, nofun, hl⟩, hc.symm⟩
    split at h
    next hb =>
      obtain ⟨a, rfl, hr, hl⟩ := (Shape.rSleept_eq_ok hb).1 h
      exact ⟨⟨hr.word hc ho, nofun, hl⟩, hc.symm⟩
    split at h
    next hb =>
      obtain ⟨a, rfl, hr, hl⟩ := (Shape.rSleept_eq_ok hb).1 h
      exact ⟨⟨hr.word hc ho, nofun, hl⟩, hc.symm⟩
    cases h
  case h_17 => cases h

theorem decodeClass2_read (hc : fld f.word 28 4 = 2) (h : decodeClass2 f = .ok i) : Read f i := by
  unfold decodeClass2 at h
  split at h
  case h_1 ho | h_2 ho | h_3 ho | h_4 ho | h_5 ho | h_6 ho | h_7 ho | h_8 ho | h_9 ho | h_10 ho | h_11 ho | h_12 ho | h_13 ho | h_14 ho | h_15 ho
    | h_16 ho | h_17 ho | h_18 ho | h_19 ho | h_20 ho | h_21 ho | h_22 ho | h_23 ho | h_24 ho | h_25 ho | h_26 ho | h_27 ho | h_28 ho | h_29 ho
    | h_30 ho | h_38 ho | h_39 ho | h_40 ho | h_41 ho | h_42 ho | h_43 ho | h_44 ho | h_45 ho | h_46 ho | h_53 ho | h_54 ho | h_55 ho | h_56 ho =>
    obtain ⟨n, d, a, b, rfl, hr, hl⟩ := Shape.vvv_eq_ok.1 h
    exact ⟨⟨hr.word hc ho, nofun, hl⟩, hc.symm⟩
  case h_31 ho | h_32 ho | h_33 ho =>
    obtain ⟨n, d, a, rfl, hr, hl⟩ := Shape.vv_eq_ok.1 h
    exact ⟨⟨hr.word hc ho, nofun, hl⟩, hc.symm⟩
  case h_34 ho | h_35 ho | h_36 ho | h_37 ho =>
    obtain ⟨d, a, b, rfl, hr, hl⟩ := Shape.vvvQ_eq_ok.1 h
    exact ⟨⟨hr.word hc ho, nofun, hl⟩, hc.symm⟩
  case h_47 ho | h_48 ho | h_49 ho | h_50 ho | h_51 ho | h_52 ho =>
    obtain ⟨d, a, b, rfl, hr, hl⟩ := Shape.mvv_eq_ok.1 h
    exact ⟨⟨hr.word hc ho, nofun, hl⟩, hc.symm⟩
  case h_57 => cases h

theorem decodeClass3_read (hc : fld f.word 28 4 = 3) (h : decodeClass3 f = .ok i) : Read f i := by
  unfold decodeClass3 at h
  split at h
  case h_1 ho | h_2 ho | h_3 ho | h_4 ho | h_8 ho =>
    obtain ⟨d, a, k, rfl, hr, hl⟩ := Shape.vi11_eq_ok.1 h
    exact ⟨⟨hr.word hc ho, nofun, hl⟩, hc.symm⟩
  case h_5 ho | h_6 ho | h_7 ho =>
    obtain ⟨d, a, k, rfl, hr, hl⟩ := Shape.vi5_eq_ok.1 h
    exact ⟨⟨hr.word hc ho, nofun, hl⟩, hc.symm⟩
  case h_9 => cases h

theorem decodeClass4_read (hc : fld f.word 28 4 = 4) (h : decodeClass4 f = .ok i) : Read f i := by
  unfold decodeClass4 at h
  split at h
  case h_1 ho | h_2 ho | h_3 ho | h_4 ho | h_5 ho | h_6 ho | h_7 ho | h_8 ho | h_9 ho | h_10 ho | h_11 ho | h_12 ho | h_13 ho | h_14 ho | h_21 ho
    | h_22 ho | h_23 ho | h_24 ho | h_25 ho | h_26 ho | h_27 ho | h_28 ho | h_29 ho | h_30 ho | h_31 ho | h_32 ho =>
    obtain ⟨n, d, a, b, rfl, hr, hl⟩ := Shape.vvv_eq_ok.1 h
    exact ⟨⟨hr.word hc ho, nofun, hl⟩, hc.symm⟩
  case h_15 ho | h_16 ho | h_17 ho | h_18 ho | h_19 ho | h_20 ho =>
    obtain ⟨d, a, b, rfl, hr, hl⟩ := Shape.mvv_eq_ok.1 h
    exact ⟨⟨hr.word hc ho, nofun, hl⟩, hc.symm⟩
  case h_33 ho =>
    obtain ⟨d, a, b, rfl, hr, hl⟩ := Shape.vvvQ_eq_ok.1 h
    exact ⟨⟨hr.word hc ho, nofun, hl⟩, hc.symm⟩
  case h_34 => cases h

theorem decodeClass5_read (hc : fld f.word 28 4 = 5) (h : decodeClass5 f = .ok i) : Read f i := by
  unfold decodeClass5 at h
  split at h
  case h_1 ho | h_2 ho | h_3 ho | h_4 ho | h_5 ho | h_6 ho | h_7 ho | h_8 ho | h_9 ho | h_10 ho | h_11 ho | h_12 ho | h_13 ho | h_14 ho | h_15 ho
    | h_16 ho | h_17 ho | h_19 ho | h_20 ho | h_22 ho | h_23 ho =>
    obtain ⟨n, d, a, rfl, hr, hl⟩ := Shape.vv_eq_ok.1 h
    exact ⟨⟨hr.word hc ho, nofun, hl⟩, hc.symm⟩
  case h_18 ho | h_21 ho | h_24 ho | h_25 ho | h_26 ho | h_27 ho =>
    obtain ⟨n, d, a, b, rfl, hr, hl⟩ := Shape.vvv_eq_ok.1 h
    exact ⟨⟨hr.word hc ho, nofun, hl⟩, hc.symm⟩
  case h_28 => cases h

theorem decodeClass6_read (hc : fld f.word 28 4 = 6) (h : decodeClass6 f = .ok i) : Read f i := by
  unfold decodeClass6 at h
  split at h
  case h_1 ho | h_2 ho | h_3 ho | h_4 ho =>
    obtain ⟨n, d, a, b, rfl, hr, hl⟩ := Shape.vvv_eq_ok.1 h
    exact ⟨⟨hr.word hc ho, nofun, hl⟩, hc.symm⟩
  case h_5 ho =>
    obtain ⟨d, a, rfl, hr, hl⟩ := Shape.uv_eq_ok.1 h
    exact ⟨⟨hr.word hc ho, nofun, hl⟩, hc.symm⟩
  case h_6 ho | h_7 ho | h_8 ho | h_11 ho | h_12 ho | h_13 ho | h_14 ho | h_15 ho | h_16 ho | h_28 ho =>
    obtain ⟨n, d, a, rfl, hr, hl⟩ := Shape.vv_eq_ok.1 h
    exact ⟨⟨hr.word hc ho, nofun, hl⟩, hc.symm⟩
  case h_9 ho | h_10 ho =>
    obtain ⟨n, d, rfl, hr⟩ := Shape.v_eq_ok.1 h
    exact ⟨⟨hr.word hc ho, nofun, nofun⟩, hc.symm⟩
  case h_17 ho | h_18 ho | h_19 ho | h_20 ho =>
    obtain ⟨d, a, b, rfl, hr⟩ := Shape.mmm_eq_ok.1 h
    exact ⟨⟨hr.word hc ho, nofun, nofun⟩, hc.symm⟩
  case h_21 ho | h_22 ho =>
    obtain ⟨d, rfl, hr⟩ := Shape.m_eq_ok.1 h
    exact ⟨⟨hr.word hc ho, nofun, nofun⟩, hc.symm⟩
  case h_23 ho | h_26 ho =>
    obtain ⟨d, a, rfl, hr⟩ := Shape.um_eq_ok.1 h
    exact ⟨⟨hr.word hc ho, nofun, nofun⟩, hc.symm⟩
  case h_24 ho =>
    obtain ⟨d, a, rfl, hr, hl⟩ := Shape.mv_eq_ok.1 h
    exact ⟨⟨hr.word hc ho, nofun, hl⟩, hc.symm⟩
  case h_25 ho =>
    obtain ⟨n, d, a, rfl, hr⟩ := Shape.vm_eq_ok.1 h
    exact ⟨⟨hr.word hc ho, nofun, nofun⟩, hc.symm⟩
  case h_27 ho =>
    obtain ⟨d, a, rfl, hr, hl⟩ := Shape.mu_eq_ok.1 h
    exact ⟨⟨hr.word hc ho, nofun, hl⟩, hc.symm⟩
  case h_29 => cases h

theorem decodeClass7_read (hc : fld f.word 28 4 = 7) (h : decodeClass7 f = .ok i) : Read f i := by
  unfold decodeClass7 at h
  split at h
  case h_1 ho | h_2 ho | h_3 ho | h_4 ho | h_5 ho | h_6 ho | h_7 ho | h_8 ho | h_9 ho | h_10 ho | h_11 ho | h_12 ho | h_13 ho | h_14 ho | h_15 ho
    | h_16 ho | h_17 ho | h_18 ho | h_19 ho | h_20 ho | h_21 ho | h_25 ho | h_26 ho | h_27 ho | h_28 ho | h_29 ho | h_30 ho =>
    obtain ⟨d, a, b, rfl, hr, hl⟩ := Shape.uuu_eq_ok.1 h
    exact ⟨⟨hr.word hc ho, nofun, hl⟩, hc.symm⟩
  case h_22 ho =>
    obtain ⟨d, a, rfl, hr, hl⟩ := Shape.vu_eq_ok.1 h
    exact ⟨⟨hr.word hc ho, nofun, hl⟩, hc.symm⟩
  case h_23 ho =>
    obtain ⟨d, a, b, rfl, hr, hl⟩ := Shape.uru_eq_ok.1 h
    exact ⟨⟨hr.word hc ho, nofun, hl⟩, hc.symm⟩
  case h_24 ho =>
    obtain ⟨d, a, b, rfl, hr, hl⟩ := Shape.vuu_eq_ok.1 h
    exact ⟨⟨hr.word hc ho, nofun, hl⟩, hc.symm⟩
  case h_31 ho | h_32 ho =>
    obtain ⟨d, a, rfl, hr, hl⟩ := Shape.uu_eq_ok.1 h
    exact ⟨⟨hr.word hc ho, nofun, hl⟩, hc.symm⟩
  case h_33 => cases h

theorem decodeClass8_read (hc : fld f.word 28 4 = 8) (h : decodeClass8 f = .ok i) : Read f i := by
  unfold decodeClass8 at h
  split at h
  case h_1 ho | h_3 ho =>
    obtain ⟨q, w, x, d, a, rfl, hr, hx, hl⟩ := Shape.mLd_eq_ok.1 h
    exact ⟨⟨hr.word hc ho, hx, hl⟩, hc.symm⟩
  case h_2 ho =>
    obtain ⟨q, w, x, d, a, rfl, hr, hx, hl⟩ := Shape.mSt_eq_ok.1 h
    exact ⟨⟨hr.word hc ho, hx, hl⟩, hc.symm⟩
  case h_4 ho =>
    obtain ⟨q, x, d, a, rfl, hr, hx, hl⟩ := Shape.mLdf_eq_ok.1 h
    exact ⟨⟨hr.word hc ho, hx, hl⟩, hc.symm⟩
  case h_5 ho =>
    obtain ⟨q, w, x, a, rfl, hr, hx, hl⟩ := Shape.mPref_eq_ok.1 h
    exact ⟨⟨hr.word hc ho, hx, hl⟩, hc.symm⟩
  case h_6 ho =>
    obtain ⟨w, x, d, a, rfl, hr, hx, hl⟩ := Shape.mLdl_eq_ok.1 h
    exact ⟨⟨hr.word hc ho, hx, hl⟩, hc.symm⟩
  case h_7 ho =>
    obtain ⟨w, x, d, a, rfl, hr, hx, hl⟩ := Shape.mStl_eq_ok.1 h
    exact ⟨⟨hr.word hc ho, hx, hl⟩, hc.symm⟩
  case h_8 ho =>
    obtain ⟨q, w, x, d, a, rfl, hr, hx, hl⟩ := Shape.mLdu_eq_ok.1 h
    exact ⟨⟨hr.word hc ho, hx, hl⟩, hc.symm⟩
  case h_9 ho | h_11 ho =>
    obtain ⟨q, a, rfl, hr⟩ := Shape.mRecset_eq_ok.1 h
    exact ⟨⟨hr.word hc ho, nofun, nofun⟩, hc.symm⟩
  case h_10 ho =>
    obtain ⟨q, d, rfl, hr⟩ := Shape.mRecget_eq_ok.1 h
    exact ⟨⟨hr.word hc ho, nofun, nofun⟩, hc.symm⟩
  case h_12 ho =>
    obtain ⟨q, t, x, d, a, rfl, hr, hx⟩ := Shape.mSample_eq_ok.1 h
    exact ⟨⟨hr.word hc ho, hx, nofun⟩, hc.symm⟩
  case h_13 ho =>
    split at h
    next hb =>
      obtain ⟨q, w, a, rfl, hr, hl⟩ := (Shape.mCacheWb_eq_ok hb).1 h
      exact ⟨⟨hr.word hc ho, nofun, hl⟩, hc.symm⟩
    split at h
    next hb =>
      obtain ⟨q, w, a, rfl, hr, hl⟩ := (Shape.mCacheWb_eq_ok hb).1 h
      exact ⟨⟨hr.word hc ho, nofun, hl⟩, hc.symm⟩
    cases h
  case h_14 => cases h

theorem decodeClass9_read (hc : fld f.word 28 4 = 9) (h : decodeClass9 f = .ok i) : Read f i := by
  unfold decodeClass9 at h
  split at h
  case h_1 ho | h_3 ho | h_5 ho =>
    obtain ⟨w, d, a, o, rfl, hr, hl⟩ := Shape.pLd_eq_ok.1 h
    exact ⟨⟨hr.word hc ho, nofun, hl⟩, hc.symm⟩
  case h_2 ho | h_4 ho | h_6 ho =>
    obtain ⟨w, d, a, o, rfl, hr, hl⟩ := Shape.pSt_eq_ok.1 h
    exact ⟨⟨hr.word hc ho, nofun, hl⟩, hc.symm⟩
  case h_7 ho =>
    obtain ⟨op, d, a, o, spare, rfl, hr, hx, hl⟩ := Shape.pAtom_eq_ok.1 h
    exact ⟨⟨hr.word hc ho, List.forall_mem_singleton.2 hx, hl⟩, hc.symm⟩
  case h_8 => cases h

theorem decodeClass10_read (hc : fld f.word 28 4 = 10) (h : decodeClass10 f = .ok i) : Read f i := by
  unfold decodeClass10 at h
  split at h
  case h_1 ho =>
    obtain ⟨q, x, d, a, rfl, hr, hx, hl⟩ := Shape.aAtom_eq_ok.1 h
    exact ⟨⟨hr.word hc ho, List.forall_mem_singleton.2 hx, hl⟩, hc.symm⟩
  case h_2 ho =>
    obtain ⟨q, x, d, a, rfl, hr, hx, hl⟩ := Shape.aRed_eq_ok.1 h
    exact ⟨⟨hr.word hc ho, List.forall_mem_singleton.2 hx, hl⟩, hc.symm⟩
  case h_4 ho =>
    obtain ⟨s, rfl, hr⟩ := Shape.aFencero_eq_ok.1 h
    exact ⟨⟨hr.word hc ho, nofun, nofun⟩, hc.symm⟩
  case h_5 ho =>
    obtain ⟨q, wide, d, a, x, rfl, hr, hx, hl⟩ := Shape.aWaitu_eq_ok.1 h
    exact ⟨⟨hr.word hc ho, List.forall_mem_singleton.2 hx, hl⟩, hc.symm⟩
  case h_6 ho =>
    obtain ⟨q, w, x, d, a, rfl, hr, hx, hl⟩ := Shape.aStrel_eq_ok.1 h
    exact ⟨⟨hr.word hc ho, List.forall_mem_singleton.2 hx, hl⟩, hc.symm⟩
  case h_7 ho =>
    obtain ⟨q, w, x, d, a, rfl, hr, hx, hl⟩ := Shape.aLdacq_eq_ok.1 h
    exact ⟨⟨hr.word hc ho, List.forall_mem_singleton.2 hx, hl⟩, hc.symm⟩
  case h_3 ho =>
    split at h
    next hb =>
      obtain ⟨s, rfl, hr⟩ := (Shape.aFenceAcq_eq_ok hb).1 h
      exact ⟨⟨hr.word hc ho, nofun, nofun⟩, hc.symm⟩
    split at h
    next hb =>
      obtain ⟨s, rfl, hr⟩ := (Shape.aFenceAcq_eq_ok hb).1 h
      exact ⟨⟨hr.word hc ho, nofun, nofun⟩, hc.symm⟩
    split at h
    next hb =>
      obtain ⟨s, rfl, hr⟩ := (Shape.aFenceAcq_eq_ok hb).1 h
      exact ⟨⟨hr.word hc ho, nofun, nofun⟩, hc.symm⟩
    split at h
    next hb =>
      obtain ⟨s, rfl, hr⟩ := (Shape.aFenceAcq_eq_ok hb).1 h
      exact ⟨⟨hr.word hc ho, nofun, nofun⟩, hc.symm⟩
    cases h
  case h_8 => cases h

theorem decodeClass11_read (hc : fld f.word 28 4 = 11) (h : decodeClass11 f = .ok i) : Read f i := by
  unfold decodeClass11 at h
  split at h
  case h_1 ho =>
    obtain ⟨d, a, b, rfl, hr, hl⟩ := Shape.uuu_eq_ok.1 h
    exact ⟨⟨hr.word hc ho, nofun, hl⟩, hc.symm⟩
  case h_2 ho =>
    obtain ⟨d, rfl, hr⟩ := Shape.u_eq_ok.1 h
    exact ⟨⟨hr.word hc ho, nofun, nofun⟩, hc.symm⟩
  case h_3 ho =>
    obtain ⟨k, a, rfl, hr, hl⟩ := Shape.ku_eq_ok.1 h
    exact ⟨⟨hr.word hc ho, nofun, hl⟩, hc.symm⟩
  case h_5 ho | h_6 ho =>
    obtain ⟨d, k, b, rfl, hr, hl⟩ := Shape.uku_eq_ok.1 h
    exact ⟨⟨hr.word hc ho, nofun, hl⟩, hc.symm⟩
  case h_7 ho =>
    obtain ⟨k, a, b, rfl, hr, hl⟩ := Shape.kuu_eq_ok.1 h
    exact ⟨⟨hr.word hc ho, nofun, hl⟩, hc.symm⟩
  case h_8 ho =>
    obtain ⟨c, b, rfl, hr, hl⟩ := Shape.cu_eq_ok.1 h
    exact ⟨⟨hr.word hc ho, nofun, hl⟩, hc.symm⟩
  case h_9 ho =>
    obtain ⟨d, c, rfl, hr⟩ := Shape.uc_eq_ok.1 h
    exact ⟨⟨hr.word hc ho, nofun, nofun⟩, hc.symm⟩
  case h_10 ho =>
    obtain ⟨d, a, rfl, hr⟩ := Shape.uCopy_eq_ok.1 h
    exact ⟨⟨hr.word hc ho, nofun, nofun⟩, hc.symm⟩
  case h_4 ho =>
    split at h
    next hd =>
      obtain ⟨k, b, rfl, hr, hl⟩ := (Shape.kRank_eq_ok hd.1).1 h
      exact ⟨⟨hr.word hc ho, nofun, hl⟩, hc.symm⟩
    next =>
      obtain ⟨d, k, rfl, hr⟩ := Shape.uk_eq_ok.1 h
      exact ⟨⟨hr.word hc ho, nofun, nofun⟩, hc.symm⟩
  case h_11 => cases h

theorem decodeClass12_read (hc : fld f.word 28 4 = 12) (h : decodeClass12 f = .ok i) : Read f i := by
  unfold decodeClass12 at h
  split at h
  case h_1 ho =>
    obtain ⟨a, rfl, hr, hl⟩ := Shape.sU_eq_ok.1 h
    exact ⟨⟨hr.word hc ho, nofun, hl⟩, hc.symm⟩
  case h_2 ho =>
    obtain ⟨a, b, g, rfl, hr, hx, hl⟩ := Shape.xMlds_eq_ok.1 h
    exact ⟨⟨hr.word hc ho, List.forall_mem_singleton.2 hx, hl⟩, hc.symm⟩
  case h_3 ho =>
    obtain ⟨a, b, g, q, rfl, hr, hx, hl⟩ := Shape.xMldsg_eq_ok.1 h
    exact ⟨⟨hr.word hc ho, List.forall_mem_singleton.2 hx, hl⟩, hc.symm⟩
  case h_4 ho =>
    obtain ⟨a, int4, g, rfl, hr, hl⟩ := Shape.xScale_eq_ok.1 h
    exact ⟨⟨hr.word hc ho, nofun, hl⟩, hc.symm⟩
  case h_5 ho | h_12 ho =>
    obtain ⟨rfl, hr⟩ := Shape.r0_eq_ok.1 h
    exact ⟨⟨hr.word hc ho, nofun, nofun⟩, hc.symm⟩
  case h_6 ho =>
    obtain ⟨t, a, b, y, rfl, hr, hx, hl⟩ := Shape.xMma_eq_ok.1 h
    exact ⟨⟨hr.word hc ho, List.forall_mem_singleton.2 hx, hl⟩, hc.symm⟩
  case h_7 ho =>
    obtain ⟨t, a, b, y, q, rfl, hr, hx, hl⟩ := Shape.xMmag_eq_ok.1 h
    exact ⟨⟨hr.word hc ho, List.forall_mem_singleton.2 hx, hl⟩, hc.symm⟩
  case h_8 ho =>
    obtain ⟨t, c, rfl, hr⟩ := Shape.xZero_eq_ok.1 h
    exact ⟨⟨hr.word hc ho, nofun, nofun⟩, hc.symm⟩
  case h_11 ho =>
    obtain ⟨d, c, rfl, hr⟩ := Shape.xStat_eq_ok.1 h
    exact ⟨⟨hr.word hc ho, nofun, nofun⟩, hc.symm⟩
  case h_9 ho =>
    split at h
    next hk =>
      obtain ⟨t, a, b, y, rfl, hr, hx, hl⟩ := (Shape.xMst_eq_ok hk).1 h
      exact ⟨⟨hr.word hc ho, List.forall_mem_singleton.2 hx, hl⟩, hc.symm⟩
    next =>
      obtain ⟨a, k, rfl, hr, hx, hl⟩ := Shape.xPlane_eq_ok.1 h
      exact ⟨⟨hr.word hc ho, List.forall_mem_singleton.2 hx, hl⟩, hc.symm⟩
  case h_10 ho =>
    split at h
    next hk =>
      obtain ⟨t, a, b, y, rfl, hr, hx, hl⟩ := (Shape.xMst_eq_ok hk).1 h
      exact ⟨⟨hr.word hc ho, List.forall_mem_singleton.2 hx, hl⟩, hc.symm⟩
    next =>
      obtain ⟨a, k, rfl, hr, hx, hl⟩ := Shape.xPlane_eq_ok.1 h
      exact ⟨⟨hr.word hc ho, List.forall_mem_singleton.2 hx, hl⟩, hc.symm⟩
  case h_13 => cases h

theorem decodeClass13_read (hc : fld f.word 28 4 = 13) (h : decodeClass13 f = .ok i) : Read f i := by
  unfold decodeClass13 at h
  split at h
  case h_1 ho =>
    obtain ⟨d, a, b, y, rfl, hr, hx, hl⟩ := Shape.nev_eq_ok.1 h
    exact ⟨⟨hr.word hc ho, List.forall_mem_singleton.2 hx, hl⟩, hc.symm⟩
  case h_3 ho =>
    obtain ⟨d, a, b, rfl, hr, hl⟩ := Shape.uuP_eq_ok.1 h
    exact ⟨⟨hr.word hc ho, nofun, hl⟩, hc.symm⟩
  case h_4 ho | h_5 ho =>
    obtain ⟨d, a, rfl, hr⟩ := Shape.uP_eq_ok.1 h
    exact ⟨⟨hr.word hc ho, nofun, nofun⟩, hc.symm⟩
  case h_2 ho =>
    split at h
    next hb =>
      obtain ⟨a, rfl, hr, hl⟩ := (Shape.rSleept_eq_ok hb).1 h
      exact ⟨⟨hr.word hc ho, nofun, hl⟩, hc.symm⟩
    split at h
    next hb =>
      obtain ⟨a, rfl, hr, hl⟩ := (Shape.rSleept_eq_ok hb).1 h
      exact ⟨⟨hr.word hc ho, nofun, hl⟩, hc.symm⟩
    cases h
  case h_6 => cases h

theorem decodeClass14_read (hc : fld f.word 28 4 = 14) (h : decodeClass14 f = .ok i) : Read f i := by
  unfold decodeClass14 at h
  split at h
  case h_1 ho | h_2 ho =>
    obtain ⟨d, a, x, rfl, hr, hx⟩ := Shape.trace_eq_ok.1 h
    exact ⟨⟨hr.word hc ho, List.forall_mem_singleton.2 hx, nofun⟩, hc.symm⟩
  case h_3 ho | h_4 ho =>
    obtain ⟨d, a, rfl, hr⟩ := Shape.uP_eq_ok.1 h
    exact ⟨⟨hr.word hc ho, nofun, nofun⟩, hc.symm⟩
  case h_5 ho | h_6 ho | h_7 ho =>
    obtain ⟨d, a, b, rfl, hr, hl⟩ := Shape.uPu_eq_ok.1 h
    exact ⟨⟨hr.word hc ho, nofun, hl⟩, hc.symm⟩
  case h_8 ho =>
    obtain ⟨d, a, b, o, rfl, hr, hx⟩ := Shape.refill_eq_ok.1 h
    exact ⟨⟨hr.word hc ho, List.forall_mem_singleton.2 hx, nofun⟩, hc.symm⟩
  case h_9 ho =>
    obtain ⟨d, a, b, rfl, hr, hl⟩ := Shape.pixpush_eq_ok.1 h
    exact ⟨⟨hr.word hc ho, nofun, hl⟩, hc.symm⟩
  case h_10 ho =>
    obtain ⟨d, a, b, rfl, hr⟩ := Shape.nodedec_eq_ok.1 h
    exact ⟨⟨hr.word hc ho, nofun, nofun⟩, hc.symm⟩
  case h_11 ho =>
    obtain ⟨d, a, b, rfl, hr⟩ := Shape.morton_eq_ok.1 h
    exact ⟨⟨hr.word hc ho, nofun, nofun⟩, hc.symm⟩
  case h_12 => cases h

theorem decodeFirst_read (h : decodeFirst f = .ok i) : Read f i := by
  unfold decodeFirst at h
  split at h
  case h_1 hc => exact decodeClass0_read hc h
  case h_2 hc => exact decodeClass1_read hc h
  case h_3 hc => exact decodeClass2_read hc h
  case h_4 hc => exact decodeClass3_read hc h
  case h_5 hc => exact decodeClass4_read hc h
  case h_6 hc => exact decodeClass5_read hc h
  case h_7 hc => exact decodeClass6_read hc h
  case h_8 hc => exact decodeClass7_read hc h
  case h_9 hc => exact decodeClass8_read hc h
  case h_10 hc => exact decodeClass9_read hc h
  case h_11 hc => exact decodeClass10_read hc h
  case h_12 hc => exact decodeClass11_read hc h
  case h_13 hc => exact decodeClass12_read hc h
  case h_14 hc => exact decodeClass13_read hc h
  case h_15 hc => exact decodeClass14_read hc h
  case h_16 => cases h

end Sys2Proof
end

section
/-! # A spelled instruction is decoded

The other way: a frame that spells an instruction of classes 0 to 14 decodes to it, and its first word says which words follow
(R108, Table 5.7). -/

namespace Sys2Proof

variable {f : First} {i : Instr} {w : Word}

/-! ## Which fields hold code 127, the literal (R118) -/

@[simp] theorem VSrc.code_beq_lit (a : VSrc) : (a.code == 127) = !a.lits.isEmpty := by
  cases a with
  | reg n => have := n.isLt; simp [VSrc.code, VSrc.lits]; omega
  | latch k => have := k.isLt; simp [VSrc.code, VSrc.lits]; omega
  | sreg k => have := k.isLt; simp [VSrc.code, VSrc.lits]; omega
  | zero | lane | lit => rfl

@[simp] theorem USrc.code_beq_lit (a : USrc) : (a.code == 127) = !a.lits.isEmpty := by
  cases a with
  | reg n => have := n.isLt; simp [USrc.code, USrc.lits]; omega
  | zero | lit => rfl

@[simp] theorem VDst.code_beq_lit (d : VDst) : (d.code == 127) = false := by
  cases d with
  | reg n => have := n.isLt; simp [VDst.code]; omega
  | discard => decide

@[simp] theorem UDst.code_beq_lit (d : UDst) : (d.code == 127) = false := by
  cases d with
  | reg n => have := n.isLt; simp [UDst.code]; omega
  | discard => decide

@[simp] theorem VReg.val_beq_lit (r : VReg) : (r.val == 127) = false := beq_false_of_ne (by omega)
@[simp] theorem SReg.val_beq_lit (r : SReg) : (r.val == 127) = false := beq_false_of_ne (by omega)

theorem MemMod.length_words (x : MemMod) : (x.h == 7).toNat = x.words.length := by
  cases x with
  | short h => cases h <;> rfl
  | ext y => rfl

theorem not_isEmpty_append {α : Type} (l k : List α) : (!(l ++ k).isEmpty) = (!l.isEmpty || !k.isEmpty) := by cases l <;> simp

/-! ## The frame -/

/-- The first word `w` says that `n` extension words follow, and a literal exactly where `lits` names one. -/
structure Framed (w : Word) (n : Nat) (lits : List Word) : Prop where
  ext : (hasExt w).toNat = n
  lit : hasLit w = !lits.isEmpty
  refused : extRefused w = false

theorem framed_iff {n : Nat} {lits : List Word} :
    Framed w n lits ↔ (hasExt w).toNat = n ∧ hasLit w = !lits.isEmpty ∧ extRefused w = false :=
  ⟨fun ⟨h0, h1, h2⟩ => ⟨h0, h1, h2⟩, fun ⟨h0, h1, h2⟩ => ⟨h0, h1, h2⟩⟩

/-- The frame decodes to the instruction, and its first word says which words follow. -/
structure Decoded (f : First) (i : Instr) : Prop where
  decode : decodeFirst f = .ok i
  framed : Framed f.word i.extWords.length i.lits

theorem Spelled.decode_class0 (h : Spelled f i) (hi : i.cls = 0) : Decoded f i := by
  cases i with
  | bra o =>
    obtain ⟨hc, ho, hr⟩ := FieldsB.of_word h.word (by decide) (by decide) o.isLt
    have hf : Framed f.word 0 [] := by
      simp [framed_iff, hasExt, hasLit, sourceCodes, extRefused, hc, ho]
    refine ⟨?_, hf⟩
    rw [decodeFirst, hc, decodeClass0, ho]
    exact Shape.bOff_eq_ok.2 ⟨o, rfl, hr⟩
  | brin m o | brout m o | bany m o | ball m o =>
    obtain ⟨hc, ho, hr⟩ := FieldsB.of_word h.word (by decide) (by omega) o.isLt
    have hf : Framed f.word 0 [] := by
      simp [framed_iff, hasExt, hasLit, sourceCodes, extRefused, hc, ho]
    refine ⟨?_, hf⟩
    rw [decodeFirst, hc, decodeClass0, ho]
    exact Shape.bMask_eq_ok.2 ⟨m, o, rfl, hr⟩
  | call m o =>
    obtain ⟨hc, ho, hr⟩ := FieldsB.of_word h.word (by decide) (optM_lt m) o.isLt
    have hf : Framed f.word 0 [] := by
      simp [framed_iff, hasExt, hasLit, sourceCodes, extRefused, hc, ho]
    refine ⟨?_, hf⟩
    rw [decodeFirst, hc, decodeClass0, ho]
    exact Shape.bCall_eq_ok.2 ⟨m, o, rfl, hr⟩
  | bsz s o | bsnz s o =>
    obtain ⟨hc, ho, hr⟩ := FieldsBS.of_word h.word (by decide) (by omega) o.isLt
    have hf : Framed f.word 0 [] := by
      simp [framed_iff, hasExt, hasLit, sourceCodes, extRefused, hc, ho]
    refine ⟨?_, hf⟩
    rw [decodeFirst, hc, decodeClass0, ho]
    exact Shape.bs_eq_ok.2 ⟨s, o, rfl, hr⟩
  | jmpi a | calli a =>
    obtain ⟨hc, ho, hr⟩ := FieldsJ.of_word h.word (by decide) (by decide) a.code_lt
    have hf : Framed f.word 0 a.lits := by
      simp [framed_iff, hasExt, hasLit, sourceCodes, extRefused, hc, ho, hr.a]
    refine ⟨?_, hf⟩
    rw [decodeFirst, hc, decodeClass0, ho]
    exact Shape.jVec_eq_ok.2 ⟨a, rfl, hr, h.lit⟩
  | ret | yield =>
    obtain ⟨hc, ho, hr⟩ := FieldsJ.of_word h.word (by decide) (by decide) (by decide)
    have hf : Framed f.word 0 [] := by
      simp [framed_iff, hasExt, hasLit, sourceCodes, extRefused, hc, ho]
    refine ⟨?_, hf⟩
    rw [decodeFirst, hc, decodeClass0, ho]
    exact Shape.jNone_eq_ok.2 ⟨rfl, hr⟩
  | join m | leave m | waitm m =>
    obtain ⟨hc, ho, hr⟩ := FieldsJ.of_word h.word (by decide) (by omega) (by decide)
    have hf : Framed f.word 0 [] := by
      simp [framed_iff, hasExt, hasLit, sourceCodes, extRefused, hc, ho]
    refine ⟨?_, hf⟩
    rw [decodeFirst, hc, decodeClass0, ho]
    exact Shape.jMask_eq_ok.2 ⟨m, rfl, hr⟩
  | _ => cases hi

theorem Spelled.decode_class1 (h : Spelled f i) (hi : i.cls = 1) : Decoded f i := by
  cases i with
  | nop | brk | exit | rte | gbar | wake =>
    obtain ⟨hc, ho, hr⟩ := FieldsR.of_word h.word (by decide) (by decide) (by decide) (by decide) (by decide) (by decide)
    have hf : Framed f.word 0 [] := by
      simp [framed_iff, hasExt, hasLit, sourceCodes, op6, extRefused, hc, ho]
    refine ⟨?_, hf⟩
    rw [decodeFirst, hc, decodeClass1, ho]
    exact Shape.r0_eq_ok.2 ⟨rfl, hr⟩
  | trap k =>
    obtain ⟨hc, ho, hr⟩ := FieldsR.of_word h.word (by decide) (by decide) (by decide) (by decide) (by omega) (by omega)
    have hf : Framed f.word 0 [] := by
      simp [framed_iff, hasExt, hasLit, sourceCodes, op6, extRefused, hc, ho]
    refine ⟨?_, hf⟩
    rw [decodeFirst, hc, decodeClass1, ho]
    exact Shape.rTrap_eq_ok.2 ⟨k, rfl, hr⟩
  | win k =>
    obtain ⟨hc, ho, hr⟩ := FieldsR.of_word h.word (by decide) (by decide) (by decide) (by decide) (by decide) (by omega)
    have hf : Framed f.word 0 [] := by
      simp [framed_iff, hasExt, hasLit, sourceCodes, op6, extRefused, hc, ho]
    refine ⟨?_, hf⟩
    rw [decodeFirst, hc, decodeClass1, ho]
    exact Shape.rWin_eq_ok.2 ⟨k, rfl, hr⟩
  | winadd k =>
    obtain ⟨hc, ho, hr⟩ := FieldsR.of_word h.word (by decide) (by decide) (by decide) (by decide) (by decide) k.isLt
    have hf : Framed f.word 0 [] := by
      simp [framed_iff, hasExt, hasLit, sourceCodes, op6, extRefused, hc, ho]
    refine ⟨?_, hf⟩
    rw [decodeFirst, hc, decodeClass1, ho]
    exact Shape.rWinadd_eq_ok.2 ⟨k, rfl, hr⟩
  | rdcr d k | rdcrD d k =>
    obtain ⟨hc, ho, hr⟩ := FieldsR.of_word h.word (by decide) (by decide) (by decide) (by omega) (by decide) k.isLt
    have hf : Framed f.word 0 [] := by
      simp [framed_iff, hasExt, hasLit, sourceCodes, op6, extRefused, hc, ho]
    have hb := show f.a = _ from hr.a
    refine ⟨?_, hf⟩
    simp [decodeFirst, hc, decodeClass1, ho, hb]
    exact (Shape.rRdcr_eq_ok hb).2 ⟨d, k, rfl, hr⟩
  | wrcr a k =>
    obtain ⟨hc, ho, hr⟩ := FieldsR.of_word h.word (by decide) (by decide) (by decide) (by decide) a.code_lt k.isLt
    have hf : Framed f.word 0 a.lits := by
      simp [framed_iff, hasExt, hasLit, sourceCodes, op6, extRefused, hc, ho, hr.a]
    refine ⟨?_, hf⟩
    rw [decodeFirst, hc, decodeClass1, ho]
    exact Shape.rWrcr_eq_ok.2 ⟨a, k, rfl, hr, h.lit⟩
  | rdst d a k =>
    obtain ⟨hc, ho, hr⟩ := FieldsR.of_word h.word (by decide) (by decide) (by decide) (by omega) a.code_lt k.isLt
    have hf : Framed f.word 0 a.lits := by
      simp [framed_iff, hasExt, hasLit, sourceCodes, op6, extRefused, hc, ho, hr.a]
    refine ⟨?_, hf⟩
    rw [decodeFirst, hc, decodeClass1, ho]
    exact Shape.rRdst_eq_ok.2 ⟨d, a, k, rfl, hr, h.lit⟩
  | wrst d a k =>
    obtain ⟨hc, ho, hr⟩ := FieldsR.of_word h.word (by decide) (by decide) (by decide) d.code_lt a.code_lt k.isLt
    have hf : Framed f.word 0 (d.lits ++ a.lits) := by
      simp [framed_iff, hasExt, hasLit, sourceCodes, op6, extRefused, hc, ho, hr.d, hr.a, not_isEmpty_append]
    refine ⟨?_, hf⟩
    rw [decodeFirst, hc, decodeClass1, ho]
    exact Shape.rWrst_eq_ok.2 ⟨d, a, k, rfl, hr, h.lit⟩
  | launch d a =>
    obtain ⟨hc, ho, hr⟩ := FieldsR.of_word h.word (by decide) (by decide) (by decide) (by omega) (by omega) (by decide)
    have hf : Framed f.word 0 [] := by
      simp [framed_iff, hasExt, hasLit, sourceCodes, op6, extRefused, hc, ho, hr.a]
    refine ⟨?_, hf⟩
    rw [decodeFirst, hc, decodeClass1, ho]
    exact Shape.rLaunch_eq_ok.2 ⟨d, a, rfl, hr⟩
  | sleept a | sleeptAbs a | setmodeFpmode a | setmodeFpflags a | setmodeOobflags a | setmodeDegencount a =>
    obtain ⟨hc, ho, hr⟩ := FieldsR.of_word h.word (by decide) (by decide) (by decide) (by decide) a.code_lt (by decide)
    have hf : Framed f.word 0 a.lits := by
      simp [framed_iff, hasExt, hasLit, sourceCodes, op6, extRefused, hc, ho, hr.a]
    have hb := show f.b = _ from hr.b
    refine ⟨?_, hf⟩
    simp [decodeFirst, hc, decodeClass1, ho, hb]
    exact (Shape.rSleept_eq_ok hb).2 ⟨a, rfl, hr, h.lit⟩
  | _ => cases hi

theorem Spelled.decode_class2 (h : Spelled f i) (hi : i.cls = 2) : Decoded f i := by
  cases i with
  | add n d a b | sub n d a b | mul n d a b | mulhi n d a b | mulhiu n d a b | mad n d a b | madw n d a b | add64 n d a b | sub64 n d a b
  | mul64 n d a b | min n d a b | max n d a b | minu n d a b | maxu n d a b | absd n d a b | csel n d a b | and n d a b | or n d a b | xor n d a b
  | andn n d a b | shl n d a b | srl n d a b | sra n d a b | rot n d a b | shl64 n d a b | srl64 n d a b | sra64 n d a b | bfe n d a b | bfeu n d a b
  | bfi n d a b | addsat n d a b | subsat n d a b | bmix n d a b | icmpEq n d a b | icmpNe n d a b | icmpLt n d a b | icmpLe n d a b | icmpLtu n d a b
  | icmpLeu n d a b | min64 n d a b | max64 n d a b | minu64 n d a b | maxu64 n d a b =>
    obtain ⟨hc, ho, hr⟩ := FieldsR.of_word h.word (by decide) (by decide) n.toNat_lt d.code_lt a.code_lt b.code_lt
    have hf : Framed f.word 0 (a.lits ++ b.lits) := by
      simp [framed_iff, hasExt, hasLit, sourceCodes, op6, extRefused, hc, ho, hr.d, hr.a, hr.b, not_isEmpty_append]
    refine ⟨?_, hf⟩
    rw [decodeFirst, hc, decodeClass2, ho]
    exact Shape.vvv_eq_ok.2 ⟨n, d, a, b, rfl, hr, h.lit⟩
  | popc n d a | clz n d a | brev n d a =>
    obtain ⟨hc, ho, hr⟩ := FieldsR.of_word h.word (by decide) (by decide) n.toNat_lt d.code_lt a.code_lt (by decide)
    have hf : Framed f.word 0 a.lits := by
      simp [framed_iff, hasExt, hasLit, sourceCodes, op6, extRefused, hc, ho, hr.a]
    refine ⟨?_, hf⟩
    rw [decodeFirst, hc, decodeClass2, ho]
    exact Shape.vv_eq_ok.2 ⟨n, d, a, rfl, hr, h.lit⟩
  | divs d a b | divu d a b | rems d a b | remu d a b =>
    obtain ⟨hc, ho, hr⟩ := FieldsR.of_word h.word (by decide) (by decide) (by decide) d.code_lt a.code_lt b.code_lt
    have hf : Framed f.word 0 (a.lits ++ b.lits) := by
      simp [framed_iff, hasExt, hasLit, sourceCodes, op6, extRefused, hc, ho, hr.a, hr.b, not_isEmpty_append]
    refine ⟨?_, hf⟩
    rw [decodeFirst, hc, decodeClass2, ho]
    exact Shape.vvvQ_eq_ok.2 ⟨d, a, b, rfl, hr, h.lit⟩
  | icmpmEq d a b | icmpmNe d a b | icmpmLt d a b | icmpmLe d a b | icmpmLtu d a b | icmpmLeu d a b =>
    obtain ⟨hc, ho, hr⟩ := FieldsR.of_word h.word (by decide) (by decide) (by decide) (by omega) a.code_lt b.code_lt
    have hf : Framed f.word 0 (a.lits ++ b.lits) := by
      simp [framed_iff, hasExt, hasLit, sourceCodes, op6, extRefused, hc, ho, hr.a, hr.b, not_isEmpty_append]
    refine ⟨?_, hf⟩
    rw [decodeFirst, hc, decodeClass2, ho]
    exact Shape.mvv_eq_ok.2 ⟨d, a, b, rfl, hr, h.lit⟩
  | _ => cases hi

theorem Spelled.decode_class3 (h : Spelled f i) (hi : i.cls = 3) : Decoded f i := by
  cases i with
  | addi d a k | andi d a k | ori d a k | xori d a k | muli d a k =>
    obtain ⟨hc, ho, hr⟩ := FieldsI.of_word h.word (by decide) d.code_lt a.code_lt k.isLt
    have hf : Framed f.word 0 a.lits := by
      simp [framed_iff, hasExt, hasLit, sourceCodes, extRefused, hc, hr.a]
    refine ⟨?_, hf⟩
    rw [decodeFirst, hc, decodeClass3, ho]
    exact Shape.vi11_eq_ok.2 ⟨d, a, k, rfl, hr, h.lit⟩
  | shli d a k | srli d a k | srai d a k =>
    obtain ⟨hc, ho, hr⟩ := FieldsI.of_word h.word (by decide) d.code_lt a.code_lt (by omega)
    have hf : Framed f.word 0 a.lits := by
      simp [framed_iff, hasExt, hasLit, sourceCodes, extRefused, hc, hr.a]
    refine ⟨?_, hf⟩
    rw [decodeFirst, hc, decodeClass3, ho]
    exact Shape.vi5_eq_ok.2 ⟨d, a, k, rfl, hr, h.lit⟩
  | _ => cases hi

theorem Spelled.decode_class4 (h : Spelled f i) (hi : i.cls = 4) : Decoded f i := by
  cases i with
  | fadd n d a b | fsub n d a b | fmul n d a b | ffma n d a b | ffms n d a b | fnma n d a b | fmin n d a b | fmax n d a b | fcmpEq n d a b
  | fcmpNe n d a b | fcmpLt n d a b | fcmpLe n d a b | fcmpUn n d a b | fcmpOd n d a b | hadd2 n d a b | hmul2 n d a b | hfma2 n d a b | hmin2 n d a b
  | hmax2 n d a b | badd2 n d a b | bmul2 n d a b | bfma2 n d a b | fdot2h n d a b | fdot4q8 n d a b | fcopysign n d a b | fldexp n d a b =>
    obtain ⟨hc, ho, hr⟩ := FieldsR.of_word h.word (by decide) (by decide) n.toNat_lt d.code_lt a.code_lt b.code_lt
    have hf : Framed f.word 0 (a.lits ++ b.lits) := by
      simp [framed_iff, hasExt, hasLit, sourceCodes, op6, extRefused, hc, ho, hr.d, hr.a, hr.b, not_isEmpty_append]
    refine ⟨?_, hf⟩
    rw [decodeFirst, hc, decodeClass4, ho]
    exact Shape.vvv_eq_ok.2 ⟨n, d, a, b, rfl, hr, h.lit⟩
  | fcmpmEq d a b | fcmpmNe d a b | fcmpmLt d a b | fcmpmLe d a b | fcmpmUn d a b | fcmpmOd d a b =>
    obtain ⟨hc, ho, hr⟩ := FieldsR.of_word h.word (by decide) (by decide) (by decide) (by omega) a.code_lt b.code_lt
    have hf : Framed f.word 0 (a.lits ++ b.lits) := by
      simp [framed_iff, hasExt, hasLit, sourceCodes, op6, extRefused, hc, ho, hr.a, hr.b, not_isEmpty_append]
    refine ⟨?_, hf⟩
    rw [decodeFirst, hc, decodeClass4, ho]
    exact Shape.mvv_eq_ok.2 ⟨d, a, b, rfl, hr, h.lit⟩
  | fdiv d a b =>
    obtain ⟨hc, ho, hr⟩ := FieldsR.of_word h.word (by decide) (by decide) (by decide) d.code_lt a.code_lt b.code_lt
    have hf : Framed f.word 0 (a.lits ++ b.lits) := by
      simp [framed_iff, hasExt, hasLit, sourceCodes, op6, extRefused, hc, ho, hr.a, hr.b, not_isEmpty_append]
    refine ⟨?_, hf⟩
    rw [decodeFirst, hc, decodeClass4, ho]
    exact Shape.vvvQ_eq_ok.2 ⟨d, a, b, rfl, hr, h.lit⟩
  | _ => cases hi

theorem Spelled.decode_class5 (h : Spelled f i) (hi : i.cls = 5) : Decoded f i := by
  cases i with
  | frcp n d a | frsq n d a | fsqrt n d a | fexp2 n d a | flog2 n d a | fsinp n d a | fcosp n d a | ffloor n d a | fceil n d a | ftrunc n d a
  | frint n d a | ffract n d a | fclass n d a | cvtF32S32 n d a | cvtF32U32 n d a | cvtS32F32 n d a | cvtU32F32 n d a | cvtF32HLo n d a
  | cvtF32HHi n d a | cvtF32BLo n d a | cvtF32BHi n d a =>
    obtain ⟨hc, ho, hr⟩ := FieldsR.of_word h.word (by decide) (by decide) n.toNat_lt d.code_lt a.code_lt (by decide)
    have hf : Framed f.word 0 a.lits := by
      simp [framed_iff, hasExt, hasLit, sourceCodes, op6, extRefused, hc, ho, hr.a]
    refine ⟨?_, hf⟩
    rw [decodeFirst, hc, decodeClass5, ho]
    exact Shape.vv_eq_ok.2 ⟨n, d, a, rfl, hr, h.lit⟩
  | packh n d a b | packb n d a b | pk8E4 n d a b | pk8E5 n d a b | unpk8E4 n d a b | unpk8E5 n d a b =>
    obtain ⟨hc, ho, hr⟩ := FieldsR.of_word h.word (by decide) (by decide) n.toNat_lt d.code_lt a.code_lt b.code_lt
    have hf : Framed f.word 0 (a.lits ++ b.lits) := by
      simp [framed_iff, hasExt, hasLit, sourceCodes, op6, extRefused, hc, ho, hr.d, hr.a, hr.b, not_isEmpty_append]
    refine ⟨?_, hf⟩
    rw [decodeFirst, hc, decodeClass5, ho]
    exact Shape.vvv_eq_ok.2 ⟨n, d, a, b, rfl, hr, h.lit⟩
  | _ => cases hi

theorem Spelled.decode_class6 (h : Spelled f i) (hi : i.cls = 6) : Decoded f i := by
  cases i with
  | shfl n d a b | shflup n d a b | shfldn n d a b | shflx n d a b =>
    obtain ⟨hc, ho, hr⟩ := FieldsR.of_word h.word (by decide) (by decide) n.toNat_lt d.code_lt a.code_lt b.code_lt
    have hf : Framed f.word 0 (a.lits ++ b.lits) := by
      simp [framed_iff, hasExt, hasLit, sourceCodes, op6, extRefused, hc, ho, hr.a, hr.b, not_isEmpty_append]
    refine ⟨?_, hf⟩
    rw [decodeFirst, hc, decodeClass6, ho]
    exact Shape.vvv_eq_ok.2 ⟨n, d, a, b, rfl, hr, h.lit⟩
  | ballot d a =>
    obtain ⟨hc, ho, hr⟩ := FieldsR.of_word h.word (by decide) (by decide) (by decide) d.code_lt a.code_lt (by decide)
    have hf : Framed f.word 0 a.lits := by
      simp [framed_iff, hasExt, hasLit, sourceCodes, op6, extRefused, hc, ho, hr.a]
    refine ⟨?_, hf⟩
    rw [decodeFirst, hc, decodeClass6, ho]
    exact Shape.uv_eq_ok.2 ⟨d, a, rfl, hr, h.lit⟩
  | vany n d a | vall n d a | matchEq n d a | redadd n d a | redmin n d a | redmax n d a | redand n d a | redor n d a | redxor n d a
  | prefixadd n d a =>
    obtain ⟨hc, ho, hr⟩ := FieldsR.of_word h.word (by decide) (by decide) n.toNat_lt d.code_lt a.code_lt (by decide)
    have hf : Framed f.word 0 a.lits := by
      simp [framed_iff, hasExt, hasLit, sourceCodes, op6, extRefused, hc, ho, hr.a]
    refine ⟨?_, hf⟩
    rw [decodeFirst, hc, decodeClass6, ho]
    exact Shape.vv_eq_ok.2 ⟨n, d, a, rfl, hr, h.lit⟩
  | elect n d | elects n d =>
    obtain ⟨hc, ho, hr⟩ := FieldsR.of_word h.word (by decide) (by decide) n.toNat_lt d.code_lt (by decide) (by decide)
    have hf : Framed f.word 0 [] := by
      simp [framed_iff, hasExt, hasLit, sourceCodes, op6, extRefused, hc, ho]
    refine ⟨?_, hf⟩
    rw [decodeFirst, hc, decodeClass6, ho]
    exact Shape.v_eq_ok.2 ⟨n, d, rfl, hr⟩
  | mand d a b | mor d a b | mxor d a b | mandn d a b =>
    obtain ⟨hc, ho, hr⟩ := FieldsR.of_word h.word (by decide) (by decide) (by decide) (by omega) (Nat.lt_of_lt_of_le a.code_lt (by decide)) (Nat.lt_of_lt_of_le b.code_lt (by decide))
    have hf : Framed f.word 0 [] := by
      simp [framed_iff, hasExt, hasLit, sourceCodes, op6, extRefused, hc, ho]
    refine ⟨?_, hf⟩
    rw [decodeFirst, hc, decodeClass6, ho]
    exact Shape.mmm_eq_ok.2 ⟨d, a, b, rfl, hr⟩
  | mact d | mclr d =>
    obtain ⟨hc, ho, hr⟩ := FieldsR.of_word h.word (by decide) (by decide) (by decide) (by omega) (by decide) (by decide)
    have hf : Framed f.word 0 [] := by
      simp [framed_iff, hasExt, hasLit, sourceCodes, op6, extRefused, hc, ho]
    refine ⟨?_, hf⟩
    rw [decodeFirst, hc, decodeClass6, ho]
    exact Shape.m_eq_ok.2 ⟨d, rfl, hr⟩
  | mpop d a | mtos d a =>
    obtain ⟨hc, ho, hr⟩ := FieldsR.of_word h.word (by decide) (by decide) (by decide) d.code_lt (Nat.lt_of_lt_of_le a.code_lt (by decide)) (by decide)
    have hf : Framed f.word 0 [] := by
      simp [framed_iff, hasExt, hasLit, sourceCodes, op6, extRefused, hc, ho]
    refine ⟨?_, hf⟩
    rw [decodeFirst, hc, decodeClass6, ho]
    exact Shape.um_eq_ok.2 ⟨d, a, rfl, hr⟩
  | mfromv d a =>
    obtain ⟨hc, ho, hr⟩ := FieldsR.of_word h.word (by decide) (by decide) (by decide) (by omega) a.code_lt (by decide)
    have hf : Framed f.word 0 a.lits := by
      simp [framed_iff, hasExt, hasLit, sourceCodes, op6, extRefused, hc, ho, hr.a]
    refine ⟨?_, hf⟩
    rw [decodeFirst, hc, decodeClass6, ho]
    exact Shape.mv_eq_ok.2 ⟨d, a, rfl, hr, h.lit⟩
  | mtov n d a =>
    obtain ⟨hc, ho, hr⟩ := FieldsR.of_word h.word (by decide) (by decide) n.toNat_lt d.code_lt (Nat.lt_of_lt_of_le a.code_lt (by decide)) (by decide)
    have hf : Framed f.word 0 [] := by
      simp [framed_iff, hasExt, hasLit, sourceCodes, op6, extRefused, hc, ho]
    refine ⟨?_, hf⟩
    rw [decodeFirst, hc, decodeClass6, ho]
    exact Shape.vm_eq_ok.2 ⟨n, d, a, rfl, hr⟩
  | mfroms d a =>
    obtain ⟨hc, ho, hr⟩ := FieldsR.of_word h.word (by decide) (by decide) (by decide) (by omega) a.code_lt (by decide)
    have hf : Framed f.word 0 a.lits := by
      simp [framed_iff, hasExt, hasLit, sourceCodes, op6, extRefused, hc, ho, hr.a]
    refine ⟨?_, hf⟩
    rw [decodeFirst, hc, decodeClass6, ho]
    exact Shape.mu_eq_ok.2 ⟨d, a, rfl, hr, h.lit⟩
  | _ => cases hi

theorem Spelled.decode_class7 (h : Spelled f i) (hi : i.cls = 7) : Decoded f i := by
  cases i with
  | sadd d a b | ssub d a b | smul d a b | smad d a b | sand d a b | sor d a b | sxor d a b | sshl d a b | sshr d a b | ssra d a b | smin d a b
  | smax d a b | sminu d a b | smaxu d a b | sadd64 d a b | scmpEq d a b | scmpNe d a b | scmpLt d a b | scmpLe d a b | scmpLtu d a b | scmpLeu d a b
  | sdivu d a b | sremu d a b | ssel d a b | sfadd d a b | sfmul d a b | sffma d a b =>
    obtain ⟨hc, ho, hr⟩ := FieldsR.of_word h.word (by decide) (by decide) (by decide) d.code_lt a.code_lt b.code_lt
    have hf : Framed f.word 0 (a.lits ++ b.lits) := by
      simp [framed_iff, hasExt, hasLit, sourceCodes, op6, extRefused, hc, ho, hr.d, hr.a, hr.b, not_isEmpty_append]
    refine ⟨?_, hf⟩
    rw [decodeFirst, hc, decodeClass7, ho]
    exact Shape.uuu_eq_ok.2 ⟨d, a, b, rfl, hr, h.lit⟩
  | sbcast d a =>
    obtain ⟨hc, ho, hr⟩ := FieldsR.of_word h.word (by decide) (by decide) (by decide) d.code_lt a.code_lt (by decide)
    have hf : Framed f.word 0 a.lits := by
      simp [framed_iff, hasExt, hasLit, sourceCodes, op6, extRefused, hc, ho, hr.a]
    refine ⟨?_, hf⟩
    rw [decodeFirst, hc, decodeClass7, ho]
    exact Shape.vu_eq_ok.2 ⟨d, a, rfl, hr, h.lit⟩
  | srdlane d a b =>
    obtain ⟨hc, ho, hr⟩ := FieldsR.of_word h.word (by decide) (by decide) (by decide) d.code_lt (by omega) b.code_lt
    have hf : Framed f.word 0 b.lits := by
      simp [framed_iff, hasExt, hasLit, sourceCodes, op6, extRefused, hc, ho, hr.a, hr.b]
    refine ⟨?_, hf⟩
    rw [decodeFirst, hc, decodeClass7, ho]
    exact Shape.uru_eq_ok.2 ⟨d, a, b, rfl, hr, h.lit⟩
  | swrlane d a b =>
    obtain ⟨hc, ho, hr⟩ := FieldsR.of_word h.word (by decide) (by decide) (by decide) d.code_lt a.code_lt b.code_lt
    have hf : Framed f.word 0 (a.lits ++ b.lits) := by
      simp [framed_iff, hasExt, hasLit, sourceCodes, op6, extRefused, hc, ho, hr.a, hr.b, not_isEmpty_append]
    refine ⟨?_, hf⟩
    rw [decodeFirst, hc, decodeClass7, ho]
    exact Shape.vuu_eq_ok.2 ⟨d, a, b, rfl, hr, h.lit⟩
  | scvtf d a | scvti d a =>
    obtain ⟨hc, ho, hr⟩ := FieldsR.of_word h.word (by decide) (by decide) (by decide) d.code_lt a.code_lt (by decide)
    have hf : Framed f.word 0 a.lits := by
      simp [framed_iff, hasExt, hasLit, sourceCodes, op6, extRefused, hc, ho, hr.a]
    refine ⟨?_, hf⟩
    rw [decodeFirst, hc, decodeClass7, ho]
    exact Shape.uu_eq_ok.2 ⟨d, a, rfl, hr, h.lit⟩
  | _ => cases hi

theorem Spelled.decode_class8 (h : Spelled f i) (hi : i.cls = 8) : Decoded f i := by
  cases i with
  | ld q w x d a | ldro q w x d a =>
    obtain ⟨hc, ho, hr⟩ := FieldsM.of_word h.word (by decide) (by decide) (by omega) w.code_lt x.h_lt d.code_lt a.code_lt
    have hf : Framed f.word x.words.length a.lits := by
      simp [framed_iff, hasExt, hasLit, sourceCodes, extRefused, hc, ho, hr.h, hr.a, MemMod.length_words]
    refine ⟨?_, hf⟩
    rw [decodeFirst, hc, decodeClass8, ho]
    exact Shape.mLd_eq_ok.2 ⟨q, w, x, d, a, rfl, hr, h.ext, h.lit⟩
  | st q w x d a =>
    obtain ⟨hc, ho, hr⟩ := FieldsM.of_word h.word (by decide) (by decide) (by omega) w.code_lt x.h_lt d.code_lt a.code_lt
    have hf : Framed f.word x.words.length (d.lits ++ a.lits) := by
      simp [framed_iff, hasExt, hasLit, sourceCodes, extRefused, hc, ho, hr.h, hr.d, hr.a, MemMod.length_words, not_isEmpty_append]
    refine ⟨?_, hf⟩
    rw [decodeFirst, hc, decodeClass8, ho]
    exact Shape.mSt_eq_ok.2 ⟨q, w, x, d, a, rfl, hr, h.ext, h.lit⟩
  | ldf q x d a =>
    obtain ⟨hc, ho, hr⟩ := FieldsM.of_word h.word (by decide) (by decide) (by omega) (by decide) x.h_lt d.code_lt a.code_lt
    have hf : Framed f.word x.words.length a.lits := by
      simp [framed_iff, hasExt, hasLit, sourceCodes, extRefused, hc, ho, hr.h, hr.a, MemMod.length_words]
    refine ⟨?_, hf⟩
    rw [decodeFirst, hc, decodeClass8, ho]
    exact Shape.mLdf_eq_ok.2 ⟨q, x, d, a, rfl, hr, h.ext, h.lit⟩
  | pref q w x a =>
    obtain ⟨hc, ho, hr⟩ := FieldsM.of_word h.word (by decide) (by decide) (by omega) w.code_lt x.h_lt (by decide) a.code_lt
    have hf : Framed f.word x.words.length a.lits := by
      simp [framed_iff, hasExt, hasLit, sourceCodes, extRefused, hc, ho, hr.h, hr.a, MemMod.length_words]
    refine ⟨?_, hf⟩
    rw [decodeFirst, hc, decodeClass8, ho]
    exact Shape.mPref_eq_ok.2 ⟨q, w, x, a, rfl, hr, h.ext, h.lit⟩
  | ldl w x d a =>
    obtain ⟨hc, ho, hr⟩ := FieldsM.of_word h.word (by decide) (by decide) (by decide) w.code_lt x.h_lt d.code_lt a.code_lt
    have hf : Framed f.word x.words.length a.lits := by
      simp [framed_iff, hasExt, hasLit, sourceCodes, extRefused, hc, ho, hr.h, hr.a, MemMod.length_words]
    refine ⟨?_, hf⟩
    rw [decodeFirst, hc, decodeClass8, ho]
    exact Shape.mLdl_eq_ok.2 ⟨w, x, d, a, rfl, hr, h.ext, h.lit⟩
  | stl w x d a =>
    obtain ⟨hc, ho, hr⟩ := FieldsM.of_word h.word (by decide) (by decide) (by decide) w.code_lt x.h_lt d.code_lt a.code_lt
    have hf : Framed f.word x.words.length (d.lits ++ a.lits) := by
      simp [framed_iff, hasExt, hasLit, sourceCodes, extRefused, hc, ho, hr.h, hr.d, hr.a, MemMod.length_words, not_isEmpty_append]
    refine ⟨?_, hf⟩
    rw [decodeFirst, hc, decodeClass8, ho]
    exact Shape.mStl_eq_ok.2 ⟨w, x, d, a, rfl, hr, h.ext, h.lit⟩
  | ldu q w x d a =>
    obtain ⟨hc, ho, hr⟩ := FieldsM.of_word h.word (by decide) (by decide) (by omega) w.code_lt x.h_lt (by omega) a.code_lt
    have hf : Framed f.word x.words.length a.lits := by
      simp [framed_iff, hasExt, hasLit, sourceCodes, extRefused, hc, ho, hr.h, hr.a, MemMod.length_words]
    refine ⟨?_, hf⟩
    rw [decodeFirst, hc, decodeClass8, ho]
    exact Shape.mLdu_eq_ok.2 ⟨q, w, x, d, a, rfl, hr, h.ext, h.lit⟩
  | recset q a | recld q a =>
    obtain ⟨hc, ho, hr⟩ := FieldsM.of_word h.word (by decide) (by decide) (by omega) (by decide) (by decide) (by decide) (by omega)
    have hf : Framed f.word 0 [] := by
      simp [framed_iff, hasExt, hasLit, sourceCodes, extRefused, hc, ho, hr.h, hr.a]
    refine ⟨?_, hf⟩
    simp only [decodeFirst, hc, decodeClass8, ho]
    exact Shape.mRecset_eq_ok.2 ⟨q, a, rfl, hr⟩
  | recget q d =>
    obtain ⟨hc, ho, hr⟩ := FieldsM.of_word h.word (by decide) (by decide) (by omega) (by decide) (by decide) (by omega) (by decide)
    have hf : Framed f.word 0 [] := by
      simp [framed_iff, hasExt, hasLit, sourceCodes, extRefused, hc, ho, hr.h]
    refine ⟨?_, hf⟩
    rw [decodeFirst, hc, decodeClass8, ho]
    exact Shape.mRecget_eq_ok.2 ⟨q, d, rfl, hr⟩
  | sample q t x d a =>
    obtain ⟨hc, ho, hr⟩ := FieldsM.of_word h.word (by decide) (by decide) (by omega) t.code_lt x.h_lt (by omega) (by omega)
    have hf : Framed f.word x.words.length [] := by
      simp [framed_iff, hasExt, hasLit, sourceCodes, extRefused, hc, ho, hr.h, hr.a, MemMod.length_words]
    refine ⟨?_, hf⟩
    rw [decodeFirst, hc, decodeClass8, ho]
    exact Shape.mSample_eq_ok.2 ⟨q, t, x, d, a, rfl, hr, h.ext⟩
  | cacheWb q w a | cacheInv q w a =>
    obtain ⟨hc, ho, hr⟩ := FieldsM.of_word h.word (by decide) (by decide) (by omega) w.code_lt (by decide) (by decide) a.code_lt
    have hf : Framed f.word 0 a.lits := by
      simp [framed_iff, hasExt, hasLit, sourceCodes, extRefused, hc, ho, hr.h, hr.a]
    have hb := show f.h = _ from hr.h
    refine ⟨?_, hf⟩
    simp [decodeFirst, hc, decodeClass8, ho, hb]
    exact (Shape.mCacheWb_eq_ok hb).2 ⟨q, w, a, rfl, hr, h.lit⟩
  | _ => cases hi

theorem Spelled.decode_class9 (h : Spelled f i) (hi : i.cls = 9) : Decoded f i := by
  cases i with
  | ldp w d a o | ldpd w d a o | ldc w d a o =>
    obtain ⟨hc, ho, hr⟩ := FieldsP.of_word h.word (by decide) w.code_lt d.code_lt a.code_lt o.isLt
    have hf : Framed f.word 0 a.lits := by
      simp [framed_iff, hasExt, hasLit, sourceCodes, extRefused, hc, ho, hr.a]
    refine ⟨?_, hf⟩
    rw [decodeFirst, hc, decodeClass9, ho]
    exact Shape.pLd_eq_ok.2 ⟨w, d, a, o, rfl, hr, h.lit⟩
  | stp w d a o | stpd w d a o | stc w d a o =>
    obtain ⟨hc, ho, hr⟩ := FieldsP.of_word h.word (by decide) w.code_lt d.code_lt a.code_lt o.isLt
    have hf : Framed f.word 0 (d.lits ++ a.lits) := by
      simp [framed_iff, hasExt, hasLit, sourceCodes, extRefused, hc, ho, hr.d, hr.a, not_isEmpty_append]
    refine ⟨?_, hf⟩
    rw [decodeFirst, hc, decodeClass9, ho]
    exact Shape.pSt_eq_ok.2 ⟨w, d, a, o, rfl, hr, h.lit⟩
  | atomp op d a o spare =>
    obtain ⟨hc, ho, hr⟩ := FieldsP.of_word h.word (by decide) (by split <;> decide) (by omega) a.code_lt o.isLt
    have hf : Framed f.word 1 a.lits := by
      simp [framed_iff, hasExt, hasLit, sourceCodes, extRefused, hc, ho, hr.d, hr.a]
    refine ⟨?_, hf⟩
    rw [decodeFirst, hc, decodeClass9, ho]
    exact Shape.pAtom_eq_ok.2 ⟨op, d, a, o, spare, rfl, hr, h.ext _ List.mem_cons_self, h.lit⟩
  | _ => cases hi

theorem Spelled.decode_class10 (h : Spelled f i) (hi : i.cls = 10) : Decoded f i := by
  cases i with
  | atom q x d a =>
    obtain ⟨hc, ho, hr⟩ := FieldsM.of_word h.word (by decide) (by decide) (by omega) (by split <;> decide) (by decide) (by omega) a.code_lt
    have hf : Framed f.word 1 a.lits := by
      simp [framed_iff, hasExt, hasLit, sourceCodes, extRefused, hc, ho, hr.d, hr.a]
    refine ⟨?_, hf⟩
    rw [decodeFirst, hc, decodeClass10, ho]
    exact Shape.aAtom_eq_ok.2 ⟨q, x, d, a, rfl, hr, h.ext _ List.mem_cons_self, h.lit⟩
  | red q x d a =>
    obtain ⟨hc, ho, hr⟩ := FieldsM.of_word h.word (by decide) (by decide) (by omega) (by split <;> decide) (by decide) d.code_lt a.code_lt
    have hf : Framed f.word 1 (d.lits ++ a.lits) := by
      simp [framed_iff, hasExt, hasLit, sourceCodes, extRefused, hc, ho, hr.d, hr.a, not_isEmpty_append]
    refine ⟨?_, hf⟩
    rw [decodeFirst, hc, decodeClass10, ho]
    exact Shape.aRed_eq_ok.2 ⟨q, x, d, a, rfl, hr, h.ext _ List.mem_cons_self, h.lit⟩
  | fenceAcq s | fenceRel s | fenceAr s | fenceSc s =>
    obtain ⟨hc, ho, hr⟩ := FieldsM.of_word h.word (by decide) (by decide) (Nat.lt_of_lt_of_le s.code_lt (by decide)) (by decide) (by decide) (by decide) (by decide)
    have hf : Framed f.word 0 [] := by
      simp [framed_iff, hasExt, hasLit, sourceCodes, extRefused, hc, ho, hr.h]
    have hb := show f.w = _ from hr.w
    refine ⟨?_, hf⟩
    simp [decodeFirst, hc, decodeClass10, ho, hb]
    exact (Shape.aFenceAcq_eq_ok hb).2 ⟨s, rfl, hr⟩
  | fencero s =>
    obtain ⟨hc, ho, hr⟩ := FieldsM.of_word h.word (by decide) (by decide) (Nat.lt_of_lt_of_le s.code_lt (by decide)) (by decide) (by decide) (by decide) (by decide)
    have hf : Framed f.word 0 [] := by
      simp [framed_iff, hasExt, hasLit, sourceCodes, extRefused, hc, ho, hr.h]
    refine ⟨?_, hf⟩
    rw [decodeFirst, hc, decodeClass10, ho]
    exact Shape.aFencero_eq_ok.2 ⟨s, rfl, hr⟩
  | waitu q wide d a x =>
    obtain ⟨hc, ho, hr⟩ := FieldsM.of_word h.word (by decide) (by decide) (by omega) (by split <;> decide) (by decide) (by omega) a.code_lt
    have hf : Framed f.word 1 a.lits := by
      simp [framed_iff, hasExt, hasLit, sourceCodes, extRefused, hc, ho, hr.a]
    refine ⟨?_, hf⟩
    rw [decodeFirst, hc, decodeClass10, ho]
    exact Shape.aWaitu_eq_ok.2 ⟨q, wide, d, a, x, rfl, hr, h.ext _ List.mem_cons_self, h.lit⟩
  | strel q w x d a =>
    obtain ⟨hc, ho, hr⟩ := FieldsM.of_word h.word (by decide) (by decide) (by omega) w.code_lt (by decide) d.code_lt a.code_lt
    have hf : Framed f.word 1 (d.lits ++ a.lits) := by
      simp [framed_iff, hasExt, hasLit, sourceCodes, extRefused, hc, ho, hr.d, hr.a, not_isEmpty_append]
    refine ⟨?_, hf⟩
    rw [decodeFirst, hc, decodeClass10, ho]
    exact Shape.aStrel_eq_ok.2 ⟨q, w, x, d, a, rfl, hr, h.ext _ List.mem_cons_self, h.lit⟩
  | ldacq q w x d a =>
    obtain ⟨hc, ho, hr⟩ := FieldsM.of_word h.word (by decide) (by decide) (by omega) w.code_lt (by decide) d.code_lt a.code_lt
    have hf : Framed f.word 1 a.lits := by
      simp [framed_iff, hasExt, hasLit, sourceCodes, extRefused, hc, ho, hr.a]
    refine ⟨?_, hf⟩
    rw [decodeFirst, hc, decodeClass10, ho]
    exact Shape.aLdacq_eq_ok.2 ⟨q, w, x, d, a, rfl, hr, h.ext _ List.mem_cons_self, h.lit⟩
  | _ => cases hi

theorem Spelled.decode_class11 (h : Spelled f i) (hi : i.cls = 11) : Decoded f i := by
  cases i with
  | kick d a b =>
    obtain ⟨hc, ho, hr⟩ := FieldsR.of_word h.word (by decide) (by decide) (by decide) d.code_lt a.code_lt b.code_lt
    have hf : Framed f.word 0 (a.lits ++ b.lits) := by
      simp [framed_iff, hasExt, hasLit, sourceCodes, op6, extRefused, hc, ho, hr.a, hr.b, not_isEmpty_append]
    refine ⟨?_, hf⟩
    rw [decodeFirst, hc, decodeClass11, ho]
    exact Shape.uuu_eq_ok.2 ⟨d, a, b, rfl, hr, h.lit⟩
  | advance d =>
    obtain ⟨hc, ho, hr⟩ := FieldsR.of_word h.word (by decide) (by decide) (by decide) d.code_lt (by decide) (by decide)
    have hf : Framed f.word 0 [] := by
      simp [framed_iff, hasExt, hasLit, sourceCodes, op6, extRefused, hc, ho]
    refine ⟨?_, hf⟩
    rw [decodeFirst, hc, decodeClass11, ho]
    exact Shape.u_eq_ok.2 ⟨d, rfl, hr⟩
  | finit k a =>
    obtain ⟨hc, ho, hr⟩ := FieldsR.of_word h.word (by decide) (by decide) (by decide) (by omega) a.code_lt (by decide)
    have hf : Framed f.word 0 a.lits := by
      simp [framed_iff, hasExt, hasLit, sourceCodes, op6, extRefused, hc, ho, hr.a]
    refine ⟨?_, hf⟩
    rw [decodeFirst, hc, decodeClass11, ho]
    exact Shape.ku_eq_ok.2 ⟨k, a, rfl, hr, h.lit⟩
  | farriveRank k b =>
    obtain ⟨hc, ho, hr⟩ := FieldsR.of_word h.word (by decide) (by decide) (by decide) (by decide) (by omega) b.code_lt
    have hf : Framed f.word 0 b.lits := by
      simp [framed_iff, hasExt, hasLit, sourceCodes, op6, extRefused, hc, ho, hr.b]
    have hb : f.d = 124 ∧ 16 ≤ f.a := ⟨hr.d, (Nat.le_add_right 16 k.val).trans_eq hr.a.symm⟩
    exact ⟨by simpa [decodeFirst, hc, decodeClass11, ho, hb] using (Shape.kRank_eq_ok hb.1).2 ⟨k, b, rfl, hr, h.lit⟩, hf⟩
  | farrive d k =>
    obtain ⟨hc, ho, hr⟩ := FieldsR.of_word h.word (by decide) (by decide) (by decide) d.code_lt (by omega) (by decide)
    have hf : Framed f.word 0 [] := by
      simp [framed_iff, hasExt, hasLit, sourceCodes, op6, extRefused, hc, ho, hr.b]
    have hb : ¬(f.d = 124 ∧ 16 ≤ f.a) := fun hk => by
      have := hk.2.trans_eq hr.a
      omega
    exact ⟨by simpa [decodeFirst, hc, decodeClass11, ho, hb] using Shape.uk_eq_ok.2 ⟨d, k, rfl, hr⟩, hf⟩
  | fwait d k b | ftest d k b =>
    obtain ⟨hc, ho, hr⟩ := FieldsR.of_word h.word (by decide) (by decide) (by decide) d.code_lt (by omega) b.code_lt
    have hf : Framed f.word 0 b.lits := by
      simp [framed_iff, hasExt, hasLit, sourceCodes, op6, extRefused, hc, ho, hr.b]
    refine ⟨?_, hf⟩
    rw [decodeFirst, hc, decodeClass11, ho]
    exact Shape.uku_eq_ok.2 ⟨d, k, b, rfl, hr, h.lit⟩
  | fexpect k a b =>
    obtain ⟨hc, ho, hr⟩ := FieldsR.of_word h.word (by decide) (by decide) (by decide) (by omega) a.code_lt b.code_lt
    have hf : Framed f.word 0 (a.lits ++ b.lits) := by
      simp [framed_iff, hasExt, hasLit, sourceCodes, op6, extRefused, hc, ho, hr.a, hr.b, not_isEmpty_append]
    refine ⟨?_, hf⟩
    rw [decodeFirst, hc, decodeClass11, ho]
    exact Shape.kuu_eq_ok.2 ⟨k, a, b, rfl, hr, h.lit⟩
  | waitc c b =>
    obtain ⟨hc, ho, hr⟩ := FieldsR.of_word h.word (by decide) (by decide) (by decide) (by decide) (by omega) b.code_lt
    have hf : Framed f.word 0 b.lits := by
      simp [framed_iff, hasExt, hasLit, sourceCodes, op6, extRefused, hc, ho, hr.b]
    refine ⟨?_, hf⟩
    rw [decodeFirst, hc, decodeClass11, ho]
    exact Shape.cu_eq_ok.2 ⟨c, b, rfl, hr, h.lit⟩
  | rdcnt d c =>
    obtain ⟨hc, ho, hr⟩ := FieldsR.of_word h.word (by decide) (by decide) (by decide) d.code_lt (by omega) (by decide)
    have hf : Framed f.word 0 [] := by
      simp [framed_iff, hasExt, hasLit, sourceCodes, op6, extRefused, hc, ho]
    refine ⟨?_, hf⟩
    rw [decodeFirst, hc, decodeClass11, ho]
    exact Shape.uc_eq_ok.2 ⟨d, c, rfl, hr⟩
  | copy d a =>
    obtain ⟨hc, ho, hr⟩ := FieldsR.of_word h.word (by decide) (by decide) (by decide) d.code_lt (by omega) (by decide)
    have hf : Framed f.word 0 [] := by
      simp [framed_iff, hasExt, hasLit, sourceCodes, op6, extRefused, hc, ho, hr.a]
    refine ⟨?_, hf⟩
    rw [decodeFirst, hc, decodeClass11, ho]
    exact Shape.uCopy_eq_ok.2 ⟨d, a, rfl, hr⟩
  | _ => cases hi

theorem Spelled.decode_class12 (h : Spelled f i) (hi : i.cls = 12) : Decoded f i := by
  cases i with
  | mshape a =>
    obtain ⟨hc, ho, hr⟩ := FieldsR.of_word h.word (by decide) (by decide) (by decide) (by decide) a.code_lt (by decide)
    have hf : Framed f.word 0 a.lits := by
      simp [framed_iff, hasExt, hasLit, sourceCodes, op6, extRefused, hc, ho, hr.a]
    refine ⟨?_, hf⟩
    rw [decodeFirst, hc, decodeClass12, ho]
    exact Shape.sU_eq_ok.2 ⟨a, rfl, hr, h.lit⟩
  | mlds a b g =>
    obtain ⟨hc, ho, hr⟩ := FieldsR.of_word h.word (by decide) (by decide) (by decide) (by decide) a.code_lt b.code_lt
    have hf : Framed f.word 1 (a.lits ++ b.lits) := by
      simp [framed_iff, hasExt, hasLit, sourceCodes, op6, extRefused, hc, ho, hr.a, hr.b, not_isEmpty_append]
    refine ⟨?_, hf⟩
    rw [decodeFirst, hc, decodeClass12, ho]
    exact Shape.xMlds_eq_ok.2 ⟨a, b, g, rfl, hr, h.ext _ List.mem_cons_self, h.lit⟩
  | mldsg a b g q =>
    obtain ⟨hc, ho, hr⟩ := FieldsR.of_word h.word (by decide) (by decide) (by decide) (by decide) a.code_lt b.code_lt
    have hf : Framed f.word 1 (a.lits ++ b.lits) := by
      simp [framed_iff, hasExt, hasLit, sourceCodes, op6, extRefused, hc, ho, hr.a, hr.b, not_isEmpty_append]
    refine ⟨?_, hf⟩
    rw [decodeFirst, hc, decodeClass12, ho]
    exact Shape.xMldsg_eq_ok.2 ⟨a, b, g, q, rfl, hr, h.ext _ List.mem_cons_self, h.lit⟩
  | mscale a int4 g =>
    obtain ⟨hc, ho, hr⟩ := FieldsR.of_word h.word (by decide) (by decide) (by decide) (by decide) a.code_lt (by have := g.code_lt; split <;> omega)
    have hf : Framed f.word 0 a.lits := by
      simp [framed_iff, hasExt, hasLit, sourceCodes, op6, extRefused, hc, ho, hr.a]
    refine ⟨?_, hf⟩
    rw [decodeFirst, hc, decodeClass12, ho]
    exact Shape.xScale_eq_ok.2 ⟨a, int4, g, rfl, hr, h.lit⟩
  | mswap | mrel =>
    obtain ⟨hc, ho, hr⟩ := FieldsR.of_word h.word (by decide) (by decide) (by decide) (by decide) (by decide) (by decide)
    have hf : Framed f.word 0 [] := by
      simp [framed_iff, hasExt, hasLit, sourceCodes, op6, extRefused, hc, ho]
    refine ⟨?_, hf⟩
    rw [decodeFirst, hc, decodeClass12, ho]
    exact Shape.r0_eq_ok.2 ⟨rfl, hr⟩
  | mma t a b y =>
    obtain ⟨hc, ho, hr⟩ := FieldsR.of_word h.word (by decide) (by decide) (by decide) (by omega) a.code_lt b.code_lt
    have hf : Framed f.word 1 (a.lits ++ b.lits) := by
      simp [framed_iff, hasExt, hasLit, sourceCodes, op6, extRefused, hc, ho, hr.a, hr.b, not_isEmpty_append]
    refine ⟨?_, hf⟩
    rw [decodeFirst, hc, decodeClass12, ho]
    exact Shape.xMma_eq_ok.2 ⟨t, a, b, y, rfl, hr, h.ext _ List.mem_cons_self, h.lit⟩
  | mmag t a b y q =>
    obtain ⟨hc, ho, hr⟩ := FieldsR.of_word h.word (by decide) (by decide) (by decide) (by omega) a.code_lt b.code_lt
    have hf : Framed f.word 1 (a.lits ++ b.lits) := by
      simp [framed_iff, hasExt, hasLit, sourceCodes, op6, extRefused, hc, ho, hr.a, hr.b, not_isEmpty_append]
    refine ⟨?_, hf⟩
    rw [decodeFirst, hc, decodeClass12, ho]
    exact Shape.xMmag_eq_ok.2 ⟨t, a, b, y, q, rfl, hr, h.ext _ List.mem_cons_self, h.lit⟩
  | mzero t c =>
    obtain ⟨hc, ho, hr⟩ := FieldsR.of_word h.word (by decide) (by decide) (by decide) (by omega) (Nat.lt_of_lt_of_le c.code_lt (by decide)) (by decide)
    have hf : Framed f.word 0 [] := by
      simp [framed_iff, hasExt, hasLit, sourceCodes, op6, extRefused, hc, ho]
    refine ⟨?_, hf⟩
    rw [decodeFirst, hc, decodeClass12, ho]
    exact Shape.xZero_eq_ok.2 ⟨t, c, rfl, hr⟩
  | mst t a b y | mld t a b y =>
    obtain ⟨hc, ho, hr⟩ := FieldsR.of_word h.word (by decide) (by decide) (by decide) (by omega) a.code_lt b.code_lt
    have hf : Framed f.word 1 (a.lits ++ b.lits) := by
      simp [framed_iff, hasExt, hasLit, sourceCodes, op6, extRefused, hc, ho, hr.a, hr.b, not_isEmpty_append]
    have hb : fld f.ext 6 3 = 0 := (tileMod_eq_ok.1 (h.ext _ List.mem_cons_self)).2.1
    exact ⟨by simpa [decodeFirst, hc, decodeClass12, ho, hb] using (Shape.xMst_eq_ok hb).2 ⟨t, a, b, y, rfl, hr, h.ext _ List.mem_cons_self, h.lit⟩, hf⟩
  | mstPlane a k | mldPlane a k =>
    obtain ⟨hc, ho, hr⟩ := FieldsR.of_word h.word (by decide) (by decide) (by decide) (by decide) a.code_lt (by decide)
    have hf : Framed f.word 1 a.lits := by
      simp [framed_iff, hasExt, hasLit, sourceCodes, op6, extRefused, hc, ho, hr.a, hr.b]
    have hb : fld f.ext 6 3 ≠ 0 := fun hk => by
      have := (planeWord_iff.1 (h.ext _ List.mem_cons_self)).2.2
      cases k <;> cases hk.symm.trans this
    exact ⟨by simpa [decodeFirst, hc, decodeClass12, ho, hb] using Shape.xPlane_eq_ok.2 ⟨a, k, rfl, hr, h.ext _ List.mem_cons_self, h.lit⟩, hf⟩
  | mstat d c =>
    obtain ⟨hc, ho, hr⟩ := FieldsR.of_word h.word (by decide) (by decide) (by decide) d.code_lt (Nat.lt_of_lt_of_le c.toNat_lt (by decide)) (by decide)
    have hf : Framed f.word 0 [] := by
      simp [framed_iff, hasExt, hasLit, sourceCodes, op6, extRefused, hc, ho]
    refine ⟨?_, hf⟩
    rw [decodeFirst, hc, decodeClass12, ho]
    exact Shape.xStat_eq_ok.2 ⟨d, c, rfl, hr⟩
  | _ => cases hi

theorem Spelled.decode_class13 (h : Spelled f i) (hi : i.cls = 13) : Decoded f i := by
  cases i with
  | nev d a b y =>
    obtain ⟨hc, ho, hr⟩ := FieldsR.of_word h.word (by decide) (by decide) (by decide) (by omega) a.code_lt b.code_lt
    have hf : Framed f.word 1 (a.lits ++ b.lits) := by
      simp [framed_iff, hasExt, hasLit, sourceCodes, op6, extRefused, hc, ho, hr.a, hr.b, not_isEmpty_append]
    refine ⟨?_, hf⟩
    rw [decodeFirst, hc, decodeClass13, ho]
    exact Shape.nev_eq_ok.2 ⟨d, a, b, y, rfl, hr, h.ext _ List.mem_cons_self, h.lit⟩
  | netldFetch a | netldDrop a =>
    obtain ⟨hc, ho, hr⟩ := FieldsR.of_word h.word (by decide) (by decide) (by decide) (by decide) a.code_lt (by decide)
    have hf : Framed f.word 0 a.lits := by
      simp [framed_iff, hasExt, hasLit, sourceCodes, op6, extRefused, hc, ho, hr.a]
    have hb := show f.b = _ from hr.b
    refine ⟨?_, hf⟩
    simp [decodeFirst, hc, decodeClass13, ho, hb]
    exact (Shape.rSleept_eq_ok hb).2 ⟨a, rfl, hr, h.lit⟩
  | emitc d a b =>
    obtain ⟨hc, ho, hr⟩ := FieldsR.of_word h.word (by decide) (by decide) (by decide) d.code_lt a.code_lt (by omega)
    have hf : Framed f.word 0 a.lits := by
      simp [framed_iff, hasExt, hasLit, sourceCodes, op6, extRefused, hc, ho, hr.a, hr.b]
    refine ⟨?_, hf⟩
    rw [decodeFirst, hc, decodeClass13, ho]
    exact Shape.uuP_eq_ok.2 ⟨d, a, b, rfl, hr, h.lit⟩
  | raster d a | present d a =>
    obtain ⟨hc, ho, hr⟩ := FieldsR.of_word h.word (by decide) (by decide) (by decide) d.code_lt (by omega) (by decide)
    have hf : Framed f.word 0 [] := by
      simp [framed_iff, hasExt, hasLit, sourceCodes, op6, extRefused, hc, ho, hr.a]
    refine ⟨?_, hf⟩
    rw [decodeFirst, hc, decodeClass13, ho]
    exact Shape.uP_eq_ok.2 ⟨d, a, rfl, hr⟩
  | _ => cases hi

theorem Spelled.decode_class14 (h : Spelled f i) (hi : i.cls = 14) : Decoded f i := by
  cases i with
  | trace d a x | traceocc d a x =>
    obtain ⟨hc, ho, hr⟩ := FieldsR.of_word h.word (by decide) (by decide) (by decide) (by omega) (by omega) (by decide)
    have hf : Framed f.word 1 [] := by
      simp [framed_iff, hasExt, hasLit, sourceCodes, op6, extRefused, hc, ho, hr.a]
    refine ⟨?_, hf⟩
    rw [decodeFirst, hc, decodeClass14, ho]
    exact Shape.trace_eq_ok.2 ⟨d, a, x, rfl, hr, h.ext _ List.mem_cons_self⟩
  | build d a | refit d a =>
    obtain ⟨hc, ho, hr⟩ := FieldsR.of_word h.word (by decide) (by decide) (by decide) d.code_lt (by omega) (by decide)
    have hf : Framed f.word 0 [] := by
      simp [framed_iff, hasExt, hasLit, sourceCodes, op6, extRefused, hc, ho, hr.a]
    refine ⟨?_, hf⟩
    rw [decodeFirst, hc, decodeClass14, ho]
    exact Shape.uP_eq_ok.2 ⟨d, a, rfl, hr⟩
  | cairnw d a b | genpin d a b | gendrop d a b =>
    obtain ⟨hc, ho, hr⟩ := FieldsR.of_word h.word (by decide) (by decide) (by decide) d.code_lt (by omega) b.code_lt
    have hf : Framed f.word 0 b.lits := by
      simp [framed_iff, hasExt, hasLit, sourceCodes, op6, extRefused, hc, ho, hr.a, hr.b]
    refine ⟨?_, hf⟩
    rw [decodeFirst, hc, decodeClass14, ho]
    exact Shape.uPu_eq_ok.2 ⟨d, a, b, rfl, hr, h.lit⟩
  | refill d a b o =>
    obtain ⟨hc, ho, hr⟩ := FieldsR.of_word h.word (a := refillCode a) (by decide) (by decide) (by decide) (by omega) (refillCode_lt a) (by omega)
    have hf : Framed f.word 1 [] := by
      simp [framed_iff, hasExt, hasLit, sourceCodes, op6, extRefused, hc, ho, hr.b]
    refine ⟨?_, hf⟩
    rw [decodeFirst, hc, decodeClass14, ho]
    exact Shape.refill_eq_ok.2 ⟨d, a, b, o, rfl, hr, h.ext _ List.mem_cons_self⟩
  | pixpush d a b =>
    obtain ⟨hc, ho, hr⟩ := FieldsR.of_word h.word (by decide) (by decide) (by decide) d.code_lt a.code_lt (by omega)
    have hf : Framed f.word 0 a.lits := by
      simp [framed_iff, hasExt, hasLit, sourceCodes, op6, extRefused, hc, ho, hr.a, hr.b]
    refine ⟨?_, hf⟩
    rw [decodeFirst, hc, decodeClass14, ho]
    exact Shape.pixpush_eq_ok.2 ⟨d, a, b, rfl, hr, h.lit⟩
  | nodedec d a b =>
    obtain ⟨hc, ho, hr⟩ := FieldsR.of_word h.word (by decide) (by decide) (by decide) (by omega) (by omega) (by omega)
    have hf : Framed f.word 0 [] := by
      simp [framed_iff, hasExt, hasLit, sourceCodes, op6, extRefused, hc, ho, hr.a, hr.b]
    refine ⟨?_, hf⟩
    rw [decodeFirst, hc, decodeClass14, ho]
    exact Shape.nodedec_eq_ok.2 ⟨d, a, b, rfl, hr⟩
  | morton d a b =>
    obtain ⟨hc, ho, hr⟩ := FieldsR.of_word h.word (by decide) (by decide) (by decide) (by omega) (by omega) (by omega)
    have hf : Framed f.word 0 [] := by
      simp [framed_iff, hasExt, hasLit, sourceCodes, op6, extRefused, hc, ho, hr.a, hr.b]
    refine ⟨?_, hf⟩
    rw [decodeFirst, hc, decodeClass14, ho]
    exact Shape.morton_eq_ok.2 ⟨d, a, b, rfl, hr⟩
  | _ => cases hi

theorem Instr.cls_ne_fifteen (i : Instr) : i.cls ≠ 15 := by
  cases i <;> exact Nat.ne_of_beq_eq_false rfl

/-- Every instruction that has a word is decoded from each frame that spells it, and its first word frames it. -/
theorem Spelled.decoded (h : Spelled f i) (hi : i.cls < 16) : Decoded f i :=
  match hc : i.cls, hi with
  | 0, _ => h.decode_class0 hc
  | 1, _ => h.decode_class1 hc
  | 2, _ => h.decode_class2 hc
  | 3, _ => h.decode_class3 hc
  | 4, _ => h.decode_class4 hc
  | 5, _ => h.decode_class5 hc
  | 6, _ => h.decode_class6 hc
  | 7, _ => h.decode_class7 hc
  | 8, _ => h.decode_class8 hc
  | 9, _ => h.decode_class9 hc
  | 10, _ => h.decode_class10 hc
  | 11, _ => h.decode_class11 hc
  | 12, _ => h.decode_class12 hc
  | 13, _ => h.decode_class13 hc
  | 14, _ => h.decode_class14 hc
  | 15, _ => absurd hc i.cls_ne_fifteen
  | _ + 16, hi => absurd hi (by omega)

end Sys2Proof
end

section
/-! # Decoding and encoding are inverse (R108, R118)

The frame of an instruction's own words spells it, so they decode to it; words that decode to an instruction begin with its own. -/

namespace Sys2Proof

variable {i : Instr} {w : Word}

/-! ## Lengths -/

theorem MemMod.length_words_le (x : MemMod) : x.words.length ≤ 1 := by
  rw [← x.length_words]
  exact Bool.toNat_le _

theorem Instr.length_extWords_le (i : Instr) : i.extWords.length ≤ 1 := by
  cases i with
  | ld _ _ x _ _ | st _ _ x _ _ | ldro _ _ x _ _ | ldf _ x _ _ | pref _ _ x _ | ldl _ x _ _ | stl _ x _ _ | ldu _ _ x _ _ | sample _ _ x _ _ =>
    exact x.length_words_le
  | _ => exact Nat.le_of_ble_eq_true rfl

theorem Instr.length_lits_le (h : i.wf = true) : i.lits.length ≤ 1 := by
  unfold Instr.wf at h
  simp_all

theorem Framed.frameLen {n : Nat} {lits : List Word} (hf : Framed w n lits) (hl : lits.length ≤ 1) : frameLen w = 1 + n + lits.length := by
  obtain ⟨he, hy, -⟩ := hf
  rw [Sys2Proof.frameLen, he, hy]
  match lits, hl with
  | [], _ => rfl
  | [_], _ => rfl

theorem length_encode : (encode i).length = 1 + i.extWords.length + i.lits.length := by
  rw [encode, List.length_cons, List.length_append]
  omega

/-! ## The words of an instruction decode to it -/

theorem headD_append_of_mem {l k : List Word} (h : l.length ≤ 1) : ∀ x ∈ l, (l ++ k).headD 0 = x := by
  match l, h with
  | [], _ => nofun
  | [_], _ => simp

theorem getD_append_of_mem {m l k : List Word} (h : l.length ≤ 1) : ∀ x ∈ l, x = (m ++ (l ++ k)).getD (m.length + l.length - 1) 0 := by
  match l, h with
  | [], _ => nofun
  | [_], _ => simp

/-- The frame an instruction's own words make, with `rest` after them. -/
def Instr.frame (i : Instr) (rest : List Word) : First :=
  ⟨i.word, (i.extWords ++ (i.lits ++ rest)).headD 0, (i.word :: i.extWords ++ (i.lits ++ rest)).getD ((i.word :: i.extWords).length + i.lits.length - 1) 0⟩

theorem spelled_frame (hl : i.lits.length ≤ 1) (rest : List Word) : Spelled (i.frame rest) i :=
  ⟨rfl, headD_append_of_mem i.length_extWords_le, getD_append_of_mem hl⟩

theorem framed_word (hi : i.cls < 16) (hw : i.wf = true) : Framed i.word i.extWords.length i.lits :=
  ((spelled_frame (Instr.length_lits_le hw) []).decoded hi).framed

theorem frameLen_word (hi : i.cls < 16) (hw : i.wf = true) : frameLen i.word = (encode i).length :=
  ((framed_word hi hw).frameLen (Instr.length_lits_le hw)).trans length_encode.symm

theorem decode_encode_append (hi : i.cls < 16) (hw : i.wf = true) (rest : List Word) : decode (encode i ++ rest) = .ok i := by
  have hl := Instr.length_lits_le hw
  have hf := framed_word hi hw
  have hlen := hf.frameLen hl
  have hd : decodeFirst (i.frame rest) = .ok i := ((spelled_frame hl rest).decoded hi).decode
  have he : encode i ++ rest = i.word :: (i.extWords ++ (i.lits ++ rest)) := by simp [encode]
  have hidx : frameLen i.word - 1 = (i.word :: i.extWords).length + i.lits.length - 1 := by rw [hlen, List.length_cons]; omega
  have hlong : ¬ (i.extWords ++ (i.lits ++ rest)).length + 1 < frameLen i.word := by simp only [List.length_append]; omega
  rw [he, decode, if_neg hlong, hf.refused, hidx]
  change (decodeFirst (i.frame rest) >>= _) = _
  rw [hd]
  exact if_pos hw

theorem wordOfBytes_bytesOfWord (w : Word) : wordOfBytes (w.extractLsb' 0 8) (w.extractLsb' 8 8) (w.extractLsb' 16 8) (w.extractLsb' 24 8) = w := by
  rw [wordOfBytes, BitVec.extractLsb'_append_extractLsb'_eq_extractLsb', BitVec.extractLsb'_append_extractLsb'_eq_extractLsb',
    BitVec.extractLsb'_append_extractLsb'_eq_extractLsb'] <;> simp

theorem wordsOfBytes_flatten (ws : List Word) : wordsOfBytes (ws.map bytesOfWord).flatten = ws := by
  induction ws with
  | nil => rfl
  | cons w ws ih => exact congrArg₂ List.cons (wordOfBytes_bytesOfWord w) ih

/-! ## Words that decode to an instruction are its own -/

theorem decode_eq_ok {ws : List Word} (h : decode ws = .ok i) : i.wf = true ∧ ∃ w rest, ws = w :: rest ∧ frameLen w ≤ rest.length + 1 ∧
    Read ⟨w, rest.headD 0, ws.getD (frameLen w - 1) 0⟩ i := by
  cases ws with
  | nil => cases h
  | cons w rest =>
    by_cases hshort : rest.length + 1 < frameLen w
    · cases (if_pos hshort).symm.trans h
    by_cases href : extRefused w = true
    · cases (if_pos href).symm.trans ((if_neg hshort).symm.trans h)
    obtain ⟨j, hj, hk⟩ := bind_eq_ok.1 ((if_neg href).symm.trans ((if_neg hshort).symm.trans h))
    by_cases hw : j.wf = true
    · cases (if_pos hw).symm.trans hk
      exact ⟨hw, w, rest, rfl, by omega, decodeFirst_read hj⟩
    · cases (if_neg hw).symm.trans hk

/-- A list at least as long as a frame begins with the frame's extension word and literal. -/
theorem eq_append_drop {e l rest : List Word} (he : e.length ≤ 1) (hl : l.length ≤ 1) (hlen : e.length + l.length ≤ rest.length)
    (hx : ∀ x ∈ e, rest.headD 0 = x) (hy : ∀ x ∈ l, x = (w :: rest).getD (e.length + l.length) 0) :
    rest = e ++ l ++ rest.drop (e.length + l.length) := by
  match e, l, rest, he, hl with
  | [], [], _, _, _ => rfl
  | [], [_], _ :: _, _, _ =>
    obtain rfl := hy _ List.mem_cons_self
    rfl
  | [_], [], _ :: _, _, _ =>
    obtain rfl := hx _ List.mem_cons_self
    rfl
  | [_], [_], _ :: _ :: _, _, _ =>
    obtain rfl := hx _ List.mem_cons_self
    obtain rfl := hy _ List.mem_cons_self
    rfl

theorem decode_eq_ok_append {ws : List Word} (h : decode ws = .ok i) : i.wf = true ∧ i.cls < 16 ∧ ∃ rest, ws = encode i ++ rest := by
  obtain ⟨hw, w, rest, rfl, hlong, hr⟩ := decode_eq_ok h
  have hi : i.cls < 16 := hr.cls ▸ fld_lt w 28 4
  have hl := Instr.length_lits_le hw
  have hlen := (framed_word hi hw).frameLen hl
  obtain ⟨hword, hext, hlit⟩ := hr.toSpelled
  change w = i.word at hword
  subst hword
  refine ⟨hw, hi, _, congrArg (List.cons i.word) (eq_append_drop (w := i.word) i.length_extWords_le hl (by omega) hext ?_)⟩
  rw [show frameLen i.word - 1 = i.extWords.length + i.lits.length by omega] at hlit
  exact hlit

end Sys2Proof

namespace Sys2Proof.Claims

open Sys2Proof

/-- Settles O58: an instruction's own frame spells it and each first word frames the words that follow it, so decoding and
encoding are inverse. -/
theorem decodeEncode : Obligations.DecodeEncode := by
  refine ⟨fun i rest hi hw => ⟨decode_encode_append hi hw rest, (frameLen_word hi hw).symm, ?_⟩, fun ws i h => decode_eq_ok_append h⟩
  rw [decodeBytes, wordsOfBytes_flatten]
  simpa using decode_encode_append hi hw []

end Sys2Proof.Claims
end

section
/-! # The checks at issue (R130)

Every entry begins with the trap of the checks at issue, alone where there is one; what follows it answers a next state. -/

namespace Sys2Proof.Claims

open Sys2Proof Sys2Proof.Machine

variable {i : Instr} {s : State} {b : Bool} {o : Out}

/-- An outcome that is a next state. -/
def Answers (o : Out) : Prop := ∃ t, o = .next t

theorem answers_next (t : State) : Answers (.next t) := ⟨t, rfl⟩

/-- What an entry does, `b` being what it calls ILLEGAL beyond its encoding: where a check at issue fails, its trap and nothing
else; elsewhere some next state. -/
structure Entry (i : Instr) (b : Bool) (s : State) (o : Out) : Prop where
  trapped : ∀ t, s.issueTrap i b = some t → o = .next (s.raise t)
  answers : Answers o

theorem Entry.of_cases (ht : ∀ t, s.issueTrap i b = some t → o = .next (s.raise t)) (hn : s.issueTrap i b = none → Answers o) :
    Entry i b s o where
  trapped := ht
  answers := by
    cases h : s.issueTrap i b with
    | none => exact hn h
    | some t => exact ⟨_, ht t h⟩

theorem entry_checked {bad : State → Bool} {own : State → Option TrapReq} {eff : State → State} (hb : bad s = b) :
    Entry i b s (checked i bad own eff s) := by
  subst hb
  refine .of_cases (fun t ht => by rw [checked, ht]) (fun hn => ?_)
  rw [checked, hn]
  cases own s <;> exact answers_next _

theorem entry_floatingIn (who : State → Mask) (i : Instr) (k : FKind) (f : Wave → Nat → Word × Nat) (put : (Nat → Word) → State → State) (s : State) :
    Entry i false s (floatingIn who i k f put s) := by
  refine .of_cases (fun t ht => by rw [floatingIn, ht]) (fun hn => ?_)
  rw [floatingIn, hn]
  dsimp only
  cases s.shadowTrap (who s) k (fun l => (f s.src l).1) with
  | some t => exact answers_next _
  | none => cases s.fpTrap (fun l => (f s.src l).2) <;> exact answers_next _

theorem entry_packByte {k : FKind} {F : FFmt} {n : Bool} {d : VDst} {a b : VSrc} :
    Entry i false s (packByte i k F n d a b s) := by
  refine .of_cases (fun t ht => by rw [packByte, ht]) (fun hn => ?_)
  rw [packByte, hn]
  dsimp only
  cases s.shadowTrap s.strikes k (fun l => (asWord (F.pack8 (s.src.v32 l a).toNat)).1) with
  | some t => exact answers_next _
  | none => exact answers_next _

section Forms

variable {n : Bool} {d : VDst} {a b' : VSrc} {u : UDst} {m : MReg} {k : FKind}

theorem entry_plain {eff} : Entry i false s (plain i eff s) := entry_checked rfl
theorem entry_recForm {q : QReg} {eff} : Entry i (recBad (s.src.qreg q.val)) s (recForm i q eff s) := entry_checked rfl
theorem entry_flagged {fl eff} : Entry i false s (flagged i fl eff s) := entry_checked rfl
theorem entry_setWindow {w} : Entry i false s (setWindow i w s) := entry_checked rfl
theorem entry_alu32 {f} : Entry i false s (alu32 i n d f s) := entry_plain
theorem entry_alu64 {f} : Entry i false s (alu64 i n d f s) := entry_plain
theorem entry_binary {f} : Entry i false s (binary i n d a b' f s) := entry_alu32
theorem entry_ternary {f} : Entry i false s (ternary i n d a b' f s) := entry_alu32
theorem entry_binary64 {f} : Entry i false s (binary64 i n d a b' f s) := entry_alu64
theorem entry_divide {kind f} : Entry i false s (divide i kind d f s) := entry_plain
theorem entry_icmpm {c} : Entry i false s (icmpm i m c a b' s) := entry_plain
theorem entry_shuffle {f} : Entry i false s (shuffle i n d a b' f s) := entry_alu32
theorem entry_gather {f} : Entry i false s (gather i n d f s) := entry_alu32
theorem entry_reduction {f} : Entry i false s (reduction i n d a f s) := entry_gather
theorem entry_maskForm {f} : Entry i false s (maskForm i m f s) := entry_plain
theorem entry_setForm {f} : Entry i false s (setForm i u f s) := entry_plain
theorem entry_uni32 {f} : Entry i false s (uni32 i u f s) := entry_plain
theorem entry_uniBin {x y f} : Entry i false s (uniBin i u x y f s) := entry_uni32
theorem entry_uniTer {x y f} : Entry i false s (uniTer i u x y f s) := entry_uni32
theorem entry_uniFp {f} : Entry i false s (uniFp i u f s) := entry_floatingIn ..
theorem entry_floating {f put} : Entry i false s (floating i k f put s) := entry_floatingIn ..
theorem entry_fbin {f} : Entry i false s (fbin i k n d a b' f s) := entry_floating
theorem entry_fter {f} : Entry i false s (fter i k n d a b' f s) := entry_floating
theorem entry_fun1 {f} : Entry i false s (fun1 i k n d a f s) := entry_floating
theorem entry_fint {f} : Entry i false s (fint i n d f s) := entry_flagged
theorem entry_fcmpm {c} : Entry i false s (fcmpm i m c a b' s) := entry_flagged

end Forms

theorem entry_fdiv (d : VDst) (a b : VSrc) (s : State) : Entry (.fdiv d a b) false s (execFdiv d a b s) := by
  refine .of_cases (fun t ht => by rw [execFdiv, ht]) (fun hn => ?_)
  rw [execFdiv, hn]
  dsimp only
  split
  · split
    · exact answers_next _
    · split
      · exact answers_next _
      · cases d <;> exact answers_next _
  · cases d <;> exact answers_next _

theorem entry_nev (d : VReg) (a b : VSrc) (x : NevMod) (s : State) :
    Entry (.nev d a b x) (x.mem && recBad (s.src.qreg x.q.val)) s (execNev d a b x s) := by
  refine .of_cases (fun t ht => by rw [execNev, ht]) (fun hn => ?_)
  rw [execNev, hn]
  cases s.nevTrap a x <;> exact answers_next _

theorem entry_globalOp {slots : List Nat} {q : QReg} {f : BFmt} {ef : PFmt} {a b : USrc} {count k : Nat} :
    Entry i (swizzled (s.src.qreg q.val)) s (s.globalOp i slots q f ef a b count k) := by
  refine .of_cases (fun t ht => by rw [State.globalOp, ht]; rfl) (fun hn => ?_)
  rw [State.globalOp, hn]
  cases s.arrayTrap slots with
  | some t => exact answers_next _
  | none => 
    change Answers (match s.globalTrap q f ef (s.src.u32 a).toNat (s.src.u32 b).toNat count k with | some t => _ | none => _)
    cases s.globalTrap q f ef (s.src.u32 a).toNat (s.src.u32 b).toNat count k <;> exact answers_next _

/-- Every instruction of classes 0 to 15 begins with the checks at issue, and answers. -/
theorem entry_exec (hi : i.cls < 16) : Entry i (s.ownIllegal i) s (exec i s) := by
  unfold exec
  cases i with
  | bra | brin | brout | bany | ball | bsz | bsnz | join | leave | waitm | yield | nop | exit | rte | sleept | sleeptAbs | wake | setmodeFpmode
  | setmodeFpflags | setmodeOobflags | setmodeDegencount | elects | sadd64 | sbcast | swrlane | recset | recget | fenceAcq | fenceRel | fenceAr
  | fenceSc | fencero | waitc | rdcnt | netldFetch | netldDrop | nodedec => exact entry_plain
  | call | jmpi | calli | ret | trap | brk | rdcr | rdcrD | wrcr | rdst | wrst | launch | gbar | ldf | ldl | stl | recld | sample | ldp | stp | ldpd
  | stpd | ldc | stc | atomp | kick | advance | finit | farrive | farriveRank | fwait | ftest | fexpect | copy | mshape | mlds | mscale | mswap | mma
  | mzero | mst | mld | mstPlane | mldPlane | mstat | mrel | emitc | raster | present | trace | traceocc | build | refit | cairnw | genpin | gendrop
  | refill | pixpush | morton => exact entry_checked (by rfl)
  | win | winadd => exact entry_setWindow
  | add | sub | mul | mulhi | mulhiu | min | max | minu | maxu | absd | and | or | xor | andn | shl | srl | sra | rot | bfe | bfeu | addsat | subsat
  | icmpEq | icmpNe | icmpLt | icmpLe | icmpLtu | icmpLeu => exact entry_binary
  | mad | csel | bfi | bmix => exact entry_ternary
  | madw | shl64 | srl64 | sra64 => exact entry_alu64
  | add64 | sub64 | mul64 | min64 | max64 | minu64 | maxu64 => exact entry_binary64
  | popc | clz | brev | addi | andi | ori | xori | shli | srli | srai | muli | fclass => exact entry_alu32
  | divs | divu | rems | remu => exact entry_divide
  | icmpmEq | icmpmNe | icmpmLt | icmpmLe | icmpmLtu | icmpmLeu => exact entry_icmpm
  | fadd | fsub | fmul | fmin | fmax | hadd2 | hmul2 | hmin2 | hmax2 | badd2 | bmul2 | fcopysign | fldexp | packh | packb | unpk8E4 | unpk8E5 => exact entry_fbin
  | ffma | ffms | fnma | hfma2 | bfma2 | fdot2h | fdot4q8 => exact entry_fter
  | fcmpEq | fcmpNe | fcmpLt | fcmpLe | fcmpUn | fcmpOd | cvtS32F32 | cvtU32F32 => exact entry_fint
  | fcmpmEq | fcmpmNe | fcmpmLt | fcmpmLe | fcmpmUn | fcmpmOd => exact entry_fcmpm
  | frcp | frsq | fsqrt | fexp2 | flog2 | fsinp | fcosp | ffloor | fceil | ftrunc | frint | ffract | cvtF32S32 | cvtF32U32 | cvtF32HLo | cvtF32HHi
  | cvtF32BLo | cvtF32BHi => exact entry_fun1
  | pk8E4 | pk8E5 => exact entry_packByte
  | shfl | shflup | shfldn | shflx => exact entry_shuffle
  | ballot | mpop | mtos => exact entry_setForm
  | vany | vall | matchEq | elect | mtov | prefixadd => exact entry_gather
  | redadd | redmin | redmax | redand | redor | redxor => exact entry_reduction
  | mand | mor | mxor | mandn | mact | mclr | mfromv | mfroms => exact entry_maskForm
  | sadd | ssub | smul | sand | sor | sxor | sshl | sshr | ssra | smin | smax | sminu | smaxu | scmpEq | scmpNe | scmpLt | scmpLe | scmpLtu | scmpLeu
  | sdivu | sremu => exact entry_uniBin
  | smad | ssel => exact entry_uniTer
  | srdlane => exact entry_uni32
  | sfadd | sfmul | sffma | scvtf => exact entry_uniFp
  | scvti => exact entry_flagged
  | ld | st | ldro | pref | ldu | cacheWb | cacheInv | atom | red | waitu | strel | ldacq => exact entry_recForm
  | mldsg | mmag => exact entry_globalOp
  | fdiv d a b => exact entry_fdiv d a b s
  | nev d a b x => exact entry_nev d a b x s
  | _ => exact absurd hi (Nat.lt_irrefl 16)

/-! ## What an entry calls ILLEGAL, in the manual's words -/

theorem ofBits_swz (x : BitVec 128) (k : Nat) (hk : k < 16) : (Rec.ofBits x).swz = k ↔ x.extractLsb' 100 4 = BitVec.ofNat 4 k := by
  simp only [Rec.ofBits, nbits_toNat, ← BitVec.toNat_inj, BitVec.toNat_ofNat]
  rw [Nat.mod_eq_of_lt hk]

theorem ofBits_stride (x : BitVec 128) : (Rec.ofBits x).stride = (x.extractLsb' 48 20).toNat := by
  simp [Rec.ofBits, nbits_toNat]

theorem noFold_iff {k : Fold} : s.noFold k = true ↔ (s.wg s.curWg).folds.length ≤ k.val := decide_eq_true_iff

theorem rawFold_iff {k : Fold} : s.rawFold k = true ↔
    (s.wg s.curWg).folds.length ≤ k.val ∨ ∀ f, (s.wg s.curWg).folds[k.val]? = some f → f.init = false := by
  rw [State.rawFold, Bool.or_eq_true, noFold_iff]
  refine or_congr_right' fun h => ?_
  obtain ⟨f, hf⟩ : ∃ f, (s.wg s.curWg).folds[k.val]? = some f := ⟨_, List.getElem?_eq_getElem (Nat.lt_of_not_le h)⟩
  simp [State.fold, List.getD_eq_getElem?_getD, hf]

theorem readCr_isNone {cr : Nat} : (s.readCr cr).isNone = true ↔ 16 ≤ cr ∧ (cr < 64 ∨ 92 ≤ cr) := by
  unfold State.readCr
  split
  · simp; omega
  · split
    · simp; omega
    · simp; omega

theorem noItem_iff {k : Nat} : s.noItem k = true ↔ 9 < k ∨ (k = 9 ∧ (s.core s.curCore).array.lessee ≠ some s.curWg) := by
  simp [State.noItem]

/-- What the model has an entry call ILLEGAL is what the manual says. -/
theorem ownIllegal_iff (i : Instr) (s : State) : s.ownIllegal i = true ↔ illegalNow i s := by
  unfold State.ownIllegal illegalNow
  cases i with
  | ld | ldro | st | pref | ldu | cacheWb | cacheInv | atom | red | waitu | strel | ldacq => exact recBad_iff _
  | ldf => simp [recBad_iff, ofBits_swz _ 0 (by decide), or_assoc]
  | sample => simp [recBad_iff, ofBits_swz _ 1 (by decide), ofBits_stride, or_assoc]
  | mldsg | mmag => simp [swizzled, recBad_iff, ofBits_swz _ 0 (by decide)]
  | nev => simp [recBad_iff]
  | finit | farriveRank => exact noFold_iff
  | farrive | fwait | ftest | fexpect => exact rawFold_iff
  | rdcr d cr =>
    simp only [Bool.and_eq_true, readCr_isNone, Bool.or_eq_true, decide_eq_true_eq]
    grind
  | wrcr a cr =>
    simp only [Bool.and_eq_true, Bool.not_eq_true', Bool.and_eq_false_iff, decide_eq_false_iff_not]
    grind
  | rdst | wrst => exact noItem_iff
  | _ => exact iff_of_false Bool.false_ne_true id

/-! ## Which check fails (R130) -/

theorem windowFails_iff {w : Wave} {vs : List Nat} : w.windowFails vs = true ↔ ∃ n ∈ vs, w.nregs ≤ w.wb + n := by
  simp [Wave.windowFails]

/-- The lanes of the issue in which a latch that the instruction reads is invalid. -/
theorem latchFails_getLsbD {w : Wave} {act : Mask} {ls : List Nat} {l : Nat} (hl : l < 32) :
    (w.latchFails act ls).getLsbD l = true ↔
      act.getLsbD l = true ∧ ∃ k ∈ ls, ((w.lane l).latches.getD k Latch.blank).valid = false := by
  simp only [Wave.latchFails, maskOf_getLsbD, hl, decide_true, Bool.true_and, Bool.and_eq_true, List.any_eq_true, Bool.not_eq_true']

theorem issueTrap_illegal (h : i.wf = false ∨ b = true) : s.issueTrap i b = some (trapAt s 0x01 0 s.active 0#48) :=
  if_pos (by simpa using h)

theorem issueTrap_privileged (hi : ¬ (i.wf = false ∨ b = true)) (hp : i.privileged = true ∧ s.src.handler = false) :
    s.issueTrap i b = some (trapAt s 0x02 0 s.active 0#48) := by
  rw [State.issueTrap, if_neg (by simpa using hi), if_pos (by simpa using hp)]
  rfl

theorem issueTrap_window (hi : ¬ (i.wf = false ∨ b = true)) (hp : ¬ (i.privileged = true ∧ s.src.handler = false))
    (hw : s.src.windowFails i.named.vs = true) : s.issueTrap i b = some (trapAt s 0x04 0 s.active 0#48) := by
  rw [State.issueTrap, if_neg (by simpa using hi), if_neg (by simpa using hp), if_pos hw]
  rfl

theorem issueTrap_latch (hi : ¬ (i.wf = false ∨ b = true)) (hp : ¬ (i.privileged = true ∧ s.src.handler = false))
    (hw : ¬ s.src.windowFails i.named.vs = true) (hl : s.src.latchFails s.active i.named.ls ≠ 0#32) :
    s.issueTrap i b = some (trapAt s 0x03 0 (s.src.latchFails s.active i.named.ls) 0#48) := by
  rw [State.issueTrap, if_neg (by simpa using hi), if_neg (by simpa using hp), if_neg hw, if_pos hl]
  rfl

/-- Settles O20: an entry's first trap is that of the checks at issue (`entry_exec`), made in R130's order. -/
theorem checksAtIssue : Obligations.ChecksAtIssue := by
  intro i s hi
  dsimp only
  rw [← ownIllegal_iff, ← windowFails_iff]
  have h := (entry_exec (s := s) hi).trapped
  refine ⟨fun hb => h _ (issueTrap_illegal hb), fun hb hp => h _ (issueTrap_privileged hb hp),
    fun hb hp hw => h _ (issueTrap_window hb hp hw), fun hb hp hw ⟨l, hl, hlat⟩ =>
      ⟨_, fun k hk => latchFails_getLsbD hk, h _ (issueTrap_latch hb hp hw fun h0 => ?_)⟩⟩
  rw [← latchFails_getLsbD hl, h0] at hlat
  simp at hlat

end Sys2Proof.Claims
end

section
/-! # Every step answers

The branches of each event, one theorem an event: whichever is taken, it ends in a next state. -/

namespace Sys2Proof.Claims

open Sys2Proof Sys2Proof.Machine

section Events

variable {s : State}

theorem answers_command {op ok run} : Answers (s.command op ok run) := by
  fun_cases State.command <;> exact answers_next _

/-! ## Waves, lanes and results owed -/

theorem answers_execPathStarvation {key} : Answers (execPathStarvation key s) := by
  fun_cases execPathStarvation <;> exact answers_next _

theorem answers_execReadyWaveStarvation {key} : Answers (execReadyWaveStarvation key s) := by
  fun_cases execReadyWaveStarvation <;> exact answers_next _

theorem answers_execLaneBurstCount {key lanes} : Answers (execLaneBurstCount key lanes s) := by
  fun_cases execLaneBurstCount <;> exact answers_next _

theorem answers_execDivideResult {key id} : Answers (execDivideResult key id s) := by
  fun_cases execDivideResult <;> exact answers_next _

theorem answers_execFdivResult {key id} : Answers (execFdivResult key id s) := by
  fun_cases execFdivResult <;> exact answers_next _

theorem answers_execLaunchStatus {key id} : Answers (execLaunchStatus key id s) := by
  fun_cases execLaunchStatus <;> exact answers_next _

/-! ## Stores and the paddock -/

theorem answers_execPaddockAccessPerform {core id} : Answers (execPaddockAccessPerform core id s) := by
  fun_cases execPaddockAccessPerform <;> exact answers_next _

theorem answers_execSideLogReplay {core index} : Answers (execSideLogReplay core index s) := by
  fun_cases execSideLogReplay <;> exact answers_next _

/-! ## Tethers and deadlines -/

theorem answers_execTetherArm {id} : Answers (execTetherArm id s) := by
  fun_cases execTetherArm <;> exact answers_next _

theorem answers_execTetherWake {index} : Answers (execTetherWake index s) := by
  fun_cases execTetherWake <;> exact answers_next _

theorem answers_execTetherTimeout {id} : Answers (execTetherTimeout id s) := by
  fun_cases execTetherTimeout <;> exact answers_next _

theorem answers_execTetherArmRetry {id} : Answers (execTetherArmRetry id s) := by
  fun_cases execTetherArmRetry <;> exact answers_next _

theorem answers_execSleeptDeadline {key} : Answers (execSleeptDeadline key s) := by
  fun_cases execSleeptDeadline <;> exact answers_next _

/-! ## Copies and folds -/

theorem answers_execCopyRowComplete {core id} : Answers (execCopyRowComplete core id s) := by
  fun_cases execCopyRowComplete <;> exact answers_next _

theorem answers_execCopyRequestFail {core id} : Answers (execCopyRequestFail core id s) := by
  fun_cases execCopyRequestFail <;> exact answers_next _

theorem answers_execRemoteArrivalApply {index} : Answers (execRemoteArrivalApply index s) := by
  fun_cases execRemoteArrivalApply <;> exact answers_next _

theorem answers_execFwaitWake {key} : Answers (execFwaitWake key s) := by
  fun_cases execFwaitWake <;> exact answers_next _

/-! ## The array and the flock -/

theorem answers_execArrayFillComplete {core id} : Answers (execArrayFillComplete core id s) := by
  fun_cases execArrayFillComplete <;> exact answers_next _

theorem answers_execMmaRowComplete {core id} : Answers (execMmaRowComplete core id s) := by
  fun_cases execMmaRowComplete <;> exact answers_next _

theorem answers_execArrayOpComplete {core id} : Answers (execArrayOpComplete core id s) := by
  fun_cases execArrayOpComplete <;> exact answers_next _

theorem answers_execArraySerialOpStart {core id} : Answers (execArraySerialOpStart core id s) := by
  fun_cases execArraySerialOpStart <;> exact answers_next _

theorem answers_execBandWake {core band} : Answers (execBandWake core band s) := by
  fun_cases execBandWake <;> exact answers_next _

theorem answers_execFlockTileClose {core tile} : Answers (execFlockTileClose core tile s) := by
  fun_cases execFlockTileClose <;> exact answers_next _

theorem answers_execFlockTileComplete {core tile} : Answers (execFlockTileComplete core tile s) := by
  fun_cases execFlockTileComplete <;> exact answers_next _

theorem answers_execNevHandleComplete {key id} : Answers (execNevHandleComplete key id s) := by
  fun_cases execNevHandleComplete <;> exact answers_next _

/-! ## Rays -/

theorem answers_execCairnPark {ray} : Answers (execCairnPark ray s) := by
  fun_cases execCairnPark <;> exact answers_next _

theorem answers_execCairnTimeout {ray} : Answers (execCairnTimeout ray s) := by
  fun_cases execCairnTimeout <;> exact answers_next _

theorem answers_execRayEnd {ray} : Answers (execRayEnd ray s) := by
  fun_cases execRayEnd <;> exact answers_next _

/-! ## Builds -/

theorem answers_execBuildStart {job} : Answers (execBuildStart job s) := by
  fun_cases execBuildStart <;> exact answers_next _

theorem answers_execBuildSlotTake {job} : Answers (execBuildSlotTake job s) := by
  fun_cases execBuildSlotTake <;> exact answers_next _

theorem answers_execCairnRaise {job cluster} : Answers (execCairnRaise job cluster s) := by
  fun_cases execCairnRaise <;> exact answers_next _

theorem answers_execTreeLink {job} : Answers (execTreeLink job s) := by
  fun_cases execTreeLink <;> exact answers_next _

theorem answers_execBuildFail {job status} : Answers (execBuildFail job status s) := by
  fun_cases execBuildFail <;> exact answers_next _

theorem answers_execCompactorReclaim {ctx hdr slot} : Answers (execCompactorReclaim ctx hdr slot s) := by
  fun_cases execCompactorReclaim <;> exact answers_next _

theorem answers_execCompactorFree {ctx hdr slot} : Answers (execCompactorFree ctx hdr slot s) := by
  fun_cases execCompactorFree <;> exact answers_next _

/-! ## Rasters and streams -/

theorem answers_execRasterStart {job} : Answers (execRasterStart job s) := by
  fun_cases execRasterStart <;> exact answers_next _

theorem answers_execRasterSmallqResume {job} : Answers (execRasterSmallqResume job s) := by
  fun_cases execRasterSmallqResume <;> exact answers_next _

theorem answers_execRasterTileFlush {job tile} : Answers (execRasterTileFlush job tile s) := by
  fun_cases execRasterTileFlush <;> exact answers_next _

theorem answers_execRasterTileFinish {job tile} : Answers (execRasterTileFinish job tile s) := by
  fun_cases execRasterTileFinish <;> exact answers_next _

theorem answers_execRasterDone {job} : Answers (execRasterDone job s) := by
  fun_cases execRasterDone <;> exact answers_next _

theorem answers_execPresentImageRead {stream} : Answers (execPresentImageRead stream s) := by
  fun_cases execPresentImageRead <;> exact answers_next _

theorem answers_execCollieDecision {stream} : Answers (execCollieDecision stream s) := by
  fun_cases execCollieDecision <;> exact answers_next _

theorem answers_execStreamSlotSend {stream} : Answers (execStreamSlotSend stream s) := by
  fun_cases execStreamSlotSend <;> exact answers_next _

/-! ## Grids and droves -/

theorem answers_execHostQueueTake {queue} : Answers (execHostQueueTake queue s) := by
  fun_cases execHostQueueTake <;> exact answers_next _

theorem answers_execChildLaunchTake {ctx} : Answers (execChildLaunchTake ctx s) := by
  fun_cases execChildLaunchTake <;> exact answers_next _

theorem answers_execWaitEventMet {grid} : Answers (execWaitEventMet grid s) := by
  fun_cases execWaitEventMet <;> exact answers_next _

theorem answers_execDrovePlace {grid cores} : Answers (execDrovePlace grid cores s) := by
  fun_cases execDrovePlace <;> exact answers_next _

theorem answers_execPenClaimComplete {core} : Answers (execPenClaimComplete core s) := by
  fun_cases execPenClaimComplete <;> exact answers_next _

theorem answers_execClaimTimeout {core} : Answers (execClaimTimeout core s) := by
  fun_cases execClaimTimeout <;> exact answers_next _

theorem answers_execBackfillStop {grid cluster} : Answers (execBackfillStop grid cluster s) := by
  fun_cases execBackfillStop <;> exact answers_next _

theorem answers_execTimesliceExpire {grid} : Answers (execTimesliceExpire grid s) := by
  fun_cases execTimesliceExpire <;> exact answers_next _

theorem answers_execDebugPreempt {drove} : Answers (execDebugPreempt drove s) := by
  fun_cases execDebugPreempt <;> exact answers_next _

theorem answers_execThermalMigrate {drove cores} : Answers (execThermalMigrate drove cores s) := by
  fun_cases execThermalMigrate <;> exact answers_next _

/-! ## Traps, saved work and ends -/

theorem answers_execTrapEntry {key} : Answers (execTrapEntry key s) := by
  fun_cases execTrapEntry <;> exact answers_next _

theorem answers_execSavedTetherWake {index} : Answers (execSavedTetherWake index s) := by
  fun_cases execSavedTetherWake <;> exact answers_next _

theorem answers_execSavedWaveDeadline {wg index} : Answers (execSavedWaveDeadline wg index s) := by
  fun_cases execSavedWaveDeadline <;> exact answers_next _

theorem answers_execDroveRestore {drove cores} : Answers (execDroveRestore drove cores s) := by
  fun_cases execDroveRestore <;> exact answers_next _

theorem answers_execWaveEnd {key} : Answers (execWaveEnd key s) := by
  fun_cases execWaveEnd <;> exact answers_next _

theorem answers_execGridRetire {grid} : Answers (execGridRetire grid s) := by
  fun_cases execGridRetire <;> exact answers_next _

/-! ## Contexts and blocks -/

theorem answers_execContextEnable {ctx} : Answers (execContextEnable ctx s) := by
  fun_cases execContextEnable <;> exact answers_next _

theorem answers_execContextKill {ctx} : Answers (execContextKill ctx s) := by
  fun_cases execContextKill <;> exact answers_next _

theorem answers_execSchedulerBlockRead : Answers (execSchedulerBlockRead s) := by
  fun_cases execSchedulerBlockRead <;> exact answers_next _

theorem answers_execPolicyBlockRead : Answers (execPolicyBlockRead s) := by
  fun_cases execPolicyBlockRead <;> exact answers_next _

theorem answers_execPowerBlockRead : Answers (execPowerBlockRead s) := by
  fun_cases execPowerBlockRead <;> exact answers_next _

theorem answers_execFabricBlockRead : Answers (execFabricBlockRead s) := by
  fun_cases execFabricBlockRead <;> exact answers_next _

theorem answers_execPagerTableRead {ctx} : Answers (execPagerTableRead ctx s) := by
  fun_cases execPagerTableRead <;> exact answers_next _

/-! ## Commands and pages -/

theorem answers_execInvalComplete {index} : Answers (execInvalComplete index s) := by
  fun_cases execInvalComplete <;> exact answers_next _

theorem answers_execMigrate : Answers (execMigrate s) := by
  unfold execMigrate
  cases s.busyCommand 2 with
  | some t => exact answers_next t
  | none => exact answers_command

theorem answers_execDup : Answers (execDup s) := by
  unfold execDup
  cases s.busyCommand 3 with
  | some t => exact answers_next t
  | none => exact answers_command

theorem answers_execUpcall {ctx va kind} : Answers (execUpcall ctx va kind s) := by
  fun_cases execUpcall <;> exact answers_next _

theorem answers_execPagerWaitTimeout {ctx index} : Answers (execPagerWaitTimeout ctx index s) := by
  fun_cases execPagerWaitTimeout <;> exact answers_next _

theorem answers_execPagerMap {ctx index} : Answers (execPagerMap ctx index s) := by
  fun_cases execPagerMap <;> exact answers_next _

theorem answers_execPagerRefuse {ctx index} : Answers (execPagerRefuse ctx index s) := by
  fun_cases execPagerRefuse <;> exact answers_next _

theorem answers_execHotIntervalEnd {die} : Answers (execHotIntervalEnd die s) := by
  fun_cases execHotIntervalEnd <;> exact answers_next _

theorem answers_execDupCollapseAck {entry site} : Answers (execDupCollapseAck entry site s) := by
  fun_cases execDupCollapseAck <;> exact answers_next _

/-! ## Links, errors and messages -/

theorem answers_execFlitReceive {link seq tag crc response} : Answers (execFlitReceive link seq tag crc response s) := by
  fun_cases execFlitReceive <;> exact answers_next _

theorem answers_execLinkRetrainDone {link good} : Answers (execLinkRetrainDone link good s) := by
  fun_cases execLinkRetrainDone <;> exact answers_next _

theorem answers_execEccCorrected {unit loc syndrome} : Answers (execEccCorrected unit loc syndrome s) := by
  fun_cases execEccCorrected <;> exact answers_next _

theorem answers_execSelftestStart {unit loc} : Answers (execSelftestStart unit loc s) := by
  fun_cases execSelftestStart <;> exact answers_next _

theorem answers_execSelftestResult {unit loc pass} : Answers (execSelftestResult unit loc pass s) := by
  fun_cases execSelftestResult <;> exact answers_next _

theorem answers_execHirselMessageReceive {peer seq from_ brand kind va bytes} : Answers (execHirselMessageReceive peer seq from_ brand kind va bytes s) := by
  fun_cases execHirselMessageReceive <;> exact answers_next _

theorem answers_execHirselAck {id bytes} : Answers (execHirselAck id bytes s) := by
  fun_cases execHirselAck <;> exact answers_next _

theorem answers_execHirselRetransmit {id} : Answers (execHirselRetransmit id s) := by
  fun_cases execHirselRetransmit <;> exact answers_next _

theorem answers_execFabricTimeout {id} : Answers (execFabricTimeout id s) := by
  fun_cases execFabricTimeout <;> exact answers_next _

/-! ## Time and power -/

theorem answers_execPtpMessage {offset} : Answers (execPtpMessage offset s) := by
  fun_cases execPtpMessage <;> exact answers_next _

theorem answers_execBudgetMessage {member demand freq} : Answers (execBudgetMessage member demand freq s) := by
  fun_cases execBudgetMessage <;> exact answers_next _

theorem answers_execBudgetEpoch : Answers (execBudgetEpoch s) := by
  fun_cases execBudgetEpoch <;> exact answers_next _

theorem answers_execThermalTripEnd {site} : Answers (execThermalTripEnd site s) := by
  fun_cases execThermalTripEnd <;> exact answers_next _

/-! ## Firmware and ports -/

theorem answers_execFirmwareFreeze : Answers (execFirmwareFreeze s) := by
  fun_cases execFirmwareFreeze <;> exact answers_next _

theorem answers_execWatchdogFloor : Answers (execWatchdogFloor s) := by
  fun_cases execWatchdogFloor <;> exact answers_next _

theorem answers_execFirmwareSlotTakeover : Answers (execFirmwareSlotTakeover s) := by
  fun_cases execFirmwareSlotTakeover <;> exact answers_next _

theorem answers_execFirmwareVerify {slot version image} : Answers (execFirmwareVerify slot version image s) := by
  fun_cases execFirmwareVerify <;> exact answers_next _

theorem answers_execFunctionReady {fn} : Answers (execFunctionReady fn s) := by
  fun_cases execFunctionReady <;> exact answers_next _

theorem answers_execPortmodeDrainDone : Answers (execPortmodeDrainDone s) := by
  fun_cases execPortmodeDrainDone <;> exact answers_next _

end Events

/-- Every event answers a next state. -/
theorem answers_event {i : Instr} {s : State} (hi : i.cls = 16) : Answers (exec i s) := by
  unfold exec
  cases i with
  | loadReturn | committedStorePerform | bandIdleOff | cairnResume | timedStart | hostRdmaWrite | hostRdmaRead | hostRdmaAtomic | uncorrectableError
  | announceTimeout | powerLimitStretch | currentLimitStretch | droopStretch | thermalTrip | firmwareSignal | hostWriteAck | portDown | portUp
  | clockStretchEnd | bandWakeRateWaitEnd => exact answers_next _
  | inval | undup | hotcfg | frames | brand | attest => exact answers_command
  | pathStarvation => exact answers_execPathStarvation
  | readyWaveStarvation => exact answers_execReadyWaveStarvation
  | laneBurstCount => exact answers_execLaneBurstCount
  | divideResult => exact answers_execDivideResult
  | fdivResult => exact answers_execFdivResult
  | launchStatus => exact answers_execLaunchStatus
  | paddockAccessPerform => exact answers_execPaddockAccessPerform
  | sideLogReplay => exact answers_execSideLogReplay
  | tetherArm => exact answers_execTetherArm
  | tetherWake => exact answers_execTetherWake
  | tetherTimeout => exact answers_execTetherTimeout
  | tetherArmRetry => exact answers_execTetherArmRetry
  | sleeptDeadline => exact answers_execSleeptDeadline
  | copyRowComplete => exact answers_execCopyRowComplete
  | copyRequestFail => exact answers_execCopyRequestFail
  | remoteArrivalApply => exact answers_execRemoteArrivalApply
  | fwaitWake => exact answers_execFwaitWake
  | arrayFillComplete => exact answers_execArrayFillComplete
  | mmaRowComplete => exact answers_execMmaRowComplete
  | arrayOpComplete => exact answers_execArrayOpComplete
  | arraySerialOpStart => exact answers_execArraySerialOpStart
  | bandWake => exact answers_execBandWake
  | flockTileClose => exact answers_execFlockTileClose
  | flockTileComplete => exact answers_execFlockTileComplete
  | nevHandleComplete => exact answers_execNevHandleComplete
  | cairnPark => exact answers_execCairnPark
  | cairnTimeout => exact answers_execCairnTimeout
  | rayEnd => exact answers_execRayEnd
  | buildStart => exact answers_execBuildStart
  | buildSlotTake => exact answers_execBuildSlotTake
  | cairnRaise => exact answers_execCairnRaise
  | treeLink => exact answers_execTreeLink
  | buildFail => exact answers_execBuildFail
  | compactorReclaim => exact answers_execCompactorReclaim
  | compactorFree => exact answers_execCompactorFree
  | rasterStart => exact answers_execRasterStart
  | rasterSmallqResume => exact answers_execRasterSmallqResume
  | rasterTileFlush => exact answers_execRasterTileFlush
  | rasterTileFinish => exact answers_execRasterTileFinish
  | rasterDone => exact answers_execRasterDone
  | presentImageRead => exact answers_execPresentImageRead
  | collieDecision => exact answers_execCollieDecision
  | streamSlotSend => exact answers_execStreamSlotSend
  | hostQueueTake => exact answers_execHostQueueTake
  | childLaunchTake => exact answers_execChildLaunchTake
  | waitEventMet => exact answers_execWaitEventMet
  | drovePlace => exact answers_execDrovePlace
  | penClaimComplete => exact answers_execPenClaimComplete
  | claimTimeout => exact answers_execClaimTimeout
  | backfillStop => exact answers_execBackfillStop
  | timesliceExpire => exact answers_execTimesliceExpire
  | debugPreempt => exact answers_execDebugPreempt
  | thermalMigrate => exact answers_execThermalMigrate
  | trapEntry => exact answers_execTrapEntry
  | savedTetherWake => exact answers_execSavedTetherWake
  | savedWaveDeadline => exact answers_execSavedWaveDeadline
  | droveRestore => exact answers_execDroveRestore
  | waveEnd => exact answers_execWaveEnd
  | gridRetire => exact answers_execGridRetire
  | contextEnable => exact answers_execContextEnable
  | contextKill => exact answers_execContextKill
  | schedulerBlockRead => exact answers_execSchedulerBlockRead
  | policyBlockRead => exact answers_execPolicyBlockRead
  | powerBlockRead => exact answers_execPowerBlockRead
  | fabricBlockRead => exact answers_execFabricBlockRead
  | pagerTableRead => exact answers_execPagerTableRead
  | invalComplete => exact answers_execInvalComplete
  | migrate => exact answers_execMigrate
  | dup => exact answers_execDup
  | upcall => exact answers_execUpcall
  | pagerWaitTimeout => exact answers_execPagerWaitTimeout
  | pagerMap => exact answers_execPagerMap
  | pagerRefuse => exact answers_execPagerRefuse
  | hotIntervalEnd => exact answers_execHotIntervalEnd
  | dupCollapseAck => exact answers_execDupCollapseAck
  | flitReceive => exact answers_execFlitReceive
  | linkRetrainDone => exact answers_execLinkRetrainDone
  | eccCorrected => exact answers_execEccCorrected
  | selftestStart => exact answers_execSelftestStart
  | selftestResult => exact answers_execSelftestResult
  | hirselMessageReceive => exact answers_execHirselMessageReceive
  | hirselAck => exact answers_execHirselAck
  | hirselRetransmit => exact answers_execHirselRetransmit
  | fabricTimeout => exact answers_execFabricTimeout
  | ptpMessage => exact answers_execPtpMessage
  | budgetMessage => exact answers_execBudgetMessage
  | budgetEpoch => exact answers_execBudgetEpoch
  | thermalTripEnd => exact answers_execThermalTripEnd
  | firmwareFreeze => exact answers_execFirmwareFreeze
  | watchdogFloor => exact answers_execWatchdogFloor
  | firmwareSlotTakeover => exact answers_execFirmwareSlotTakeover
  | firmwareVerify => exact answers_execFirmwareVerify
  | functionReady => exact answers_execFunctionReady
  | portmodeDrainDone => exact answers_execPortmodeDrainDone
  | _ => cases hi

end Sys2Proof.Claims
end

section
/-! # What stops a step

A step stops only where its agenda names an instruction as an event: preparing an issue stops nothing, and whatever is carried out
answers. -/

namespace Sys2Proof.Claims

open Sys2Proof Sys2Proof.Machine

variable {s : State} {i : Instr}

theorem cls_le_sixteen (i : Instr) : i.cls ≤ 16 := by
  cases i <;> exact Nat.le_of_ble_eq_true rfl

theorem answers_exec (i : Instr) (s : State) : Answers (exec i s) := by
  by_cases hi : i.cls < 16
  · exact (entry_exec hi).answers
  · exact answers_event (Nat.le_antisymm (cls_le_sixteen i) (Nat.le_of_not_lt hi))

/-! ## Steps of work that do not stop -/

/-- What a step does next is not a stop. -/
def Goes : Work → Prop
  | .stop _ => False
  | _ => True

theorem goes_prepare {a : Issue} {free beside stop held} : Goes (s.prepare a free beside stop held) := by
  fun_cases State.prepare <;> exact trivial

theorem goes_issueTurn : Goes s.issueTurn := by
  unfold State.issueTurn
  split
  · dsimp only
    split
    · exact goes_prepare
    · exact trivial
  split
  · exact trivial
  split
  · exact trivial
  split
  · exact trivial
  · exact goes_prepare

theorem work_eq_stop {due : Option Instr} {f : Fault} : s.work due = .stop f ↔
    f = .notAnEvent ∧ s.slotB = none ∧ ∃ e r, s.agenda = .occur e :: r ∧ e.cls ≠ 16 := by
  have hgo (t : State) : t.issueTurn ≠ .stop f := fun h => by
    have := goes_issueTurn (s := t)
    rwa [h] at this
  unfold State.work
  cases hB : s.slotB with
  | some b => simp [hgo]
  | none =>
    match hA : s.agenda with
    | [] => cases due <;> simp [hgo]
    | .issue :: r => simp [hgo]
    | .upset u :: r | .sense c x :: r => simp
    | .occur e :: r =>
      by_cases he : e.cls = 16
      · simp [he]
      · dsimp only
        rw [if_neg he]
        exact ⟨fun h => ⟨(Work.stop.inj h).symm, rfl, e, r, rfl, he⟩, fun h => h.1 ▸ rfl⟩

/-! ## Outcomes -/

theorem answers_ended {o : Out} (h : Answers o) : Answers (Machine.ended o) := by
  obtain ⟨t, rfl⟩ := h
  exact answers_next _

theorem answers_afterIssue {b : Option Issue} {o : Out} (h : Answers o) : Answers (afterIssue b o) := by
  obtain ⟨t, rfl⟩ := h
  exact answers_next _

/-- A step stops where its work does, and answers elsewhere. -/
theorem step_stops_or_answers (s : State) :
    (∃ f, s.work (if s.agenda.isEmpty then s.dueEvent else none) = .stop f ∧ step s = .fault f) ∨
      (∀ f, s.work (if s.agenda.isEmpty then s.dueEvent else none) ≠ .stop f) ∧ Answers (step s) := by
  unfold step
  cases s.work (if s.agenda.isEmpty then s.dueEvent else none) with
  | stop f => exact .inl ⟨f, rfl, rfl⟩
  | idle t => exact .inr ⟨nofun, answers_next t⟩
  | event e t => exact .inr ⟨nofun, answers_ended (answers_exec e t)⟩
  | issue i t b => exact .inr ⟨nofun, answers_ended (answers_afterIssue (answers_exec i t))⟩

/-- Settles O56: every entry and every event answers (`answers_exec`), so a step stops only where its work does. -/
theorem everyStepAnswers : Obligations.EveryStepAnswers := by
  refine ⟨answers_exec, fun s r h => ?_, fun s f => ?_⟩
  · rcases step_stops_or_answers s with ⟨f, -, hf⟩ | ⟨-, t, ht⟩
    · cases hf.symm.trans h
    · cases ht.symm.trans h
  · rw [← work_eq_stop (due := if s.agenda.isEmpty then s.dueEvent else none)]
    rcases step_stops_or_answers s with ⟨g, hg, hf⟩ | ⟨hw, t, ht⟩
    · rw [hg, hf]
      exact ⟨fun h => by cases h; rfl, fun h => by cases h; rfl⟩
    · rw [ht]
      exact iff_of_false nofun (hw f)

end Sys2Proof.Claims
end
section
/-! # Integer results, as the model and as the manual write them -/

namespace Sys2Proof.Claims

open Sys2Proof Sys2Proof.Machine

theorem ofNat_toNat_same {n : Nat} (x : BitVec n) : BitVec.ofNat n x.toNat = x := by rw [BitVec.ofNat_toNat, BitVec.setWidth_eq]

theorem eq_zero_iff_toNat {n : Nat} (x : BitVec n) : x = 0#n ↔ x.toNat = 0 := by rw [← BitVec.toNat_inj, BitVec.toNat_zero]

/-! ## Sums, products and the lesser and greater, at any width (Table 7.1) -/

section

variable {n : Nat} (x y z : BitVec n)

theorem add_eq_ofInt : x + y = BitVec.ofInt n (x.toNat + y.toNat) := by simp [BitVec.ofInt_add]

theorem mul_eq_ofInt : x * y = BitVec.ofInt n (x.toNat * y.toNat) := by simp [BitVec.ofInt_mul]

theorem sub_eq_ofInt : x - y = BitVec.ofInt n (x.toNat - y.toNat) := by
  simp [Int.sub_eq_add_neg, BitVec.ofInt_add, BitVec.ofInt_neg, BitVec.sub_eq_add_neg]

theorem mad_eq_ofInt : z + x * y = BitVec.ofInt n (z.toNat + x.toNat * y.toNat) := by simp [BitVec.ofInt_add, BitVec.ofInt_mul]

/-- A signed choice is the choice of the values, and an unsigned one too. -/
theorem ite_toInt_le : (if x.toInt ≤ y.toInt then x else y) = BitVec.ofInt n (min x.toInt y.toInt) := by
  rw [min_def]
  split <;> exact BitVec.ofInt_toInt.symm
theorem ite_toInt_ge : (if y.toInt ≤ x.toInt then x else y) = BitVec.ofInt n (max x.toInt y.toInt) := by
  rw [max_comm, max_def]
  split <;> exact BitVec.ofInt_toInt.symm
theorem ite_toNat_le : (if x.toNat ≤ y.toNat then x else y) = BitVec.ofNat n (min x.toNat y.toNat) := by
  rw [min_def]
  split <;> exact (ofNat_toNat_same _).symm
theorem ite_toNat_ge : (if y.toNat ≤ x.toNat then x else y) = BitVec.ofNat n (max x.toNat y.toNat) := by
  rw [max_comm, max_def]
  split <;> exact (ofNat_toNat_same _).symm

/-! ## Shifts (R165) -/

theorem shl_eq_ofNat (k : Nat) : x <<< k = BitVec.ofNat n (x.toNat * 2 ^ k) := by
  apply BitVec.eq_of_toNat_eq
  rw [BitVec.toNat_shiftLeft, Nat.shiftLeft_eq, BitVec.toNat_ofNat]

theorem srl_eq_ofNat (k : Nat) : x >>> k = BitVec.ofNat n (x.toNat / 2 ^ k) := by
  rw [← Nat.shiftRight_eq_div_pow, ← BitVec.toNat_ushiftRight, ofNat_toNat_same]

theorem sra_eq_ofInt (k : Nat) : x.sshiftRight k = BitVec.ofInt n (x.toInt / 2 ^ k) := by
  rw [← BitVec.ofInt_toInt (x := x.sshiftRight k), BitVec.toInt_sshiftRight, Int.shiftRight_eq_div_pow]
  norm_cast

end

theorem count5_eq (y : Word) : count5 y = y.toNat % 32 := congrArg (· % 32) (Nat.div_one y.toNat)
theorem count6_eq (y : Word) : count6 y = y.toNat % 64 := congrArg (· % 64) (Nat.div_one y.toNat)

theorem shl32_eq (x y : Word) : shl32 x y = BitVec.ofNat 32 (x.toNat * 2 ^ (y.toNat % 32)) := by rw [shl32, count5_eq, shl_eq_ofNat]
theorem srl32_eq (x y : Word) : srl32 x y = BitVec.ofNat 32 (x.toNat / 2 ^ (y.toNat % 32)) := by rw [srl32, count5_eq, srl_eq_ofNat]
theorem sra32_eq (x y : Word) : sra32 x y = trunc32 (x.toInt / 2 ^ (y.toNat % 32)) := by
  rw [sra32, count5_eq, sra_eq_ofInt, trunc32]

theorem rotl32_eq (x y : Word) : rotl32 x y =
    BitVec.ofNat 32 (x.toNat * 2 ^ (y.toNat % 32)) ||| BitVec.ofNat 32 (x.toNat / 2 ^ (32 - y.toNat % 32)) := by
  rw [rotl32, count5_eq, BitVec.rotateLeft_def, Nat.mod_mod, shl_eq_ofNat, srl_eq_ofNat]

theorem shl64_eq (x : Dword) (y : Word) : x <<< count6 y = BitVec.ofNat 64 (x.toNat * 2 ^ (y.toNat % 64)) := by
  rw [count6_eq, shl_eq_ofNat]
theorem srl64_eq (x : Dword) (y : Word) : x >>> count6 y = BitVec.ofNat 64 (x.toNat / 2 ^ (y.toNat % 64)) := by
  rw [count6_eq, srl_eq_ofNat]
theorem sra64_eq (x : Dword) (y : Word) : x.sshiftRight (count6 y) = trunc64 (x.toInt / 2 ^ (y.toNat % 64)) := by
  rw [count6_eq, sra_eq_ofInt, trunc64]

/-! ## Halves of products, differences and saturation -/

/-- The high word of an exact integer. -/
theorem hi32_trunc64 (v : Int) : hi32 (trunc64 v) = trunc32 (v / 2 ^ 32) := by
  rw [hi32, trunc64, trunc32]
  apply BitVec.eq_of_toNat_eq
  rw [BitVec.extractLsb'_toNat, Nat.shiftRight_eq_div_pow, BitVec.toNat_ofInt, BitVec.toNat_ofInt]
  omega

theorem mulhiU_eq (x y : Word) : mulhiU x y = BitVec.ofNat 32 (x.toNat * y.toNat / 2 ^ 32) := by
  rw [mulhiU, hi32_trunc64, trunc32, ← BitVec.ofInt_natCast]
  norm_cast

theorem madw_eq (x y : Word) (z : Dword) :
    z + x.setWidth 64 * y.setWidth 64 = BitVec.ofNat 64 (z.toNat + x.toNat * y.toNat) := by
  rw [BitVec.ofNat_add, BitVec.ofNat_mul, ofNat_toNat_same, BitVec.ofNat_toNat, BitVec.ofNat_toNat]

theorem absDiff_eq (x y : Word) : absDiff x y = trunc32 (max (x.toInt - y.toInt) (y.toInt - x.toInt)) := by
  rw [absDiff]
  congr 1
  omega

theorem clampS_eq (v : Int) : clampS v = trunc32 (max (-(2 ^ 31)) (min (2 ^ 31 - 1) v)) := by
  rw [clampS]
  congr 1
  split
  · omega
  · split <;> omega

theorem csel_eq (x y z : Word) : (if z ≠ 0#32 then x else y) = if z.toNat = 0 then y else x := by
  rw [ite_not]
  exact if_congr (eq_zero_iff_toNat _) rfl rfl

/-! ## Bit by bit (R164) -/

theorem eq_maskOf {x : Word} {p : Nat → Bool} (h : ∀ k < 32, x.getLsbD k = p k) : x = maskOf p := by
  apply BitVec.eq_of_getLsbD_eq
  intro k hk
  rw [maskOf_getLsbD, h k hk, decide_eq_true hk, Bool.true_and]

theorem and_eq_maskOf (x y : Word) : x &&& y = maskOf (fun k => x.getLsbD k && y.getLsbD k) := eq_maskOf fun _ _ => BitVec.getLsbD_and
theorem or_eq_maskOf (x y : Word) : x ||| y = maskOf (fun k => x.getLsbD k || y.getLsbD k) := eq_maskOf fun _ _ => BitVec.getLsbD_or
theorem xor_eq_maskOf (x y : Word) : x ^^^ y = maskOf (fun k => x.getLsbD k != y.getLsbD k) := eq_maskOf fun _ _ => BitVec.getLsbD_xor
theorem andn_eq_maskOf (x y : Word) : x &&& ~~~y = maskOf (fun k => x.getLsbD k && !y.getLsbD k) :=
  eq_maskOf fun k hk => by rw [BitVec.getLsbD_and, BitVec.getLsbD_not, decide_eq_true hk, Bool.true_and]

/-! ## Immediates (R173) -/

theorem imm32_getLsbD (k : BitVec 11) {j : Nat} (hj : j < 32) : (imm32 k).getLsbD j = k.getLsbD (min j 10) := by
  rw [imm32, BitVec.getLsbD_signExtend, decide_eq_true hj, Bool.true_and]
  split
  · rw [Nat.min_eq_left (by omega)]
  · rw [Nat.min_eq_right (by omega), BitVec.msb_eq_getLsbD_last]

theorem imm32_eq_ofInt (k : BitVec 11) : imm32 k = BitVec.ofInt 32 k.toInt := rfl

theorem addi_eq (x : Word) (k : BitVec 11) : x + imm32 k = trunc32 (x.toNat + k.toInt) := by
  simp [trunc32, BitVec.ofInt_add, imm32_eq_ofInt]
theorem muli_eq (x : Word) (k : BitVec 11) : x * imm32 k = trunc32 (x.toNat * k.toInt) := by
  simp [trunc32, BitVec.ofInt_mul, imm32_eq_ofInt]
theorem andi_eq (x : Word) (k : BitVec 11) : x &&& imm32 k = maskOf (fun j => x.getLsbD j && k.getLsbD (min j 10)) :=
  eq_maskOf fun j hj => by rw [BitVec.getLsbD_and, imm32_getLsbD k hj]
theorem ori_eq (x : Word) (k : BitVec 11) : x ||| imm32 k = maskOf (fun j => x.getLsbD j || k.getLsbD (min j 10)) :=
  eq_maskOf fun j hj => by rw [BitVec.getLsbD_or, imm32_getLsbD k hj]
theorem xori_eq (x : Word) (k : BitVec 11) : x ^^^ imm32 k = maskOf (fun j => x.getLsbD j != k.getLsbD (min j 10)) :=
  eq_maskOf fun j hj => by rw [BitVec.getLsbD_xor, imm32_getLsbD k hj]

/-! ## Conditions (Table 7.3) -/

theorem holds_eq (c : ICond) (x y : Word) : c.holds x y = intCond c x y := by
  cases c with
  | eq => exact decide_eq_decide.2 BitVec.toNat_inj.symm
  | ne => exact (decide_eq_decide.2 (not_congr BitVec.toNat_inj.symm)).trans decide_not
  | le | leu => exact (decide_eq_decide.2 not_lt.symm).trans decide_not
  | lt | ltu => rfl

theorem allOnes_holds (c : ICond) (x y : Word) : allOnes (c.holds x y) = wordOf (intCond c x y) := congrArg allOnes (holds_eq c x y)

/-! ## Division (R169, Table 7.4) -/

theorem divS_eq (x y : Word) : divS x y = quotS x y := if_congr (eq_zero_iff_toNat _) rfl rfl
theorem divU_eq (x y : Word) : divU x y = quotU x y := if_congr (eq_zero_iff_toNat _) rfl rfl
theorem remS_eq (x y : Word) : remS x y = restS x y :=
  if_congr (eq_zero_iff_toNat _) rfl (congrArg trunc32 (Int.tmod_def _ _))
theorem remU_eq (x y : Word) : remU x y = restU x y :=
  if_congr (eq_zero_iff_toNat _) rfl (congrArg (BitVec.ofNat 32) (Nat.mod_eq_sub_mul_div ..))

end Sys2Proof.Claims
end
section
/-! # Bit fields, counts and byte mixes, as the model and as the manual write them -/

namespace Sys2Proof.Claims

open Sys2Proof Sys2Proof.Machine

/-! ## Counts (R164) -/

theorem popcN_eq_countP (n x : Nat) : popcN n x = (List.range n).countP x.testBit := by
  induction n with
  | zero => rfl
  | succ n ih =>
    rw [popcN, List.range_succ, List.foldl_append, ← popcN, ih, List.countP_append, List.foldl_cons, List.foldl_nil,
      List.countP_singleton, ← Nat.toNat_testBit]
    cases x.testBit n <;> rfl

theorem popcount_eq (x : Word) : popcount x = BitVec.ofNat 32 ((List.range 32).countP (fun k => x.getLsbD k)) :=
  congrArg (BitVec.ofNat 32) (popcN_eq_countP 32 x.toNat)

/-- The numbers above `m` below `n`. -/
theorem countP_range_lt (m n : Nat) : (List.range n).countP (fun k => decide (m < k)) = n - 1 - m := by
  induction n with
  | zero => simp
  | succ n ih =>
    rw [List.range_succ, List.countP_append, ih, List.countP_singleton]
    by_cases h : m < n
    · rw [if_pos (decide_eq_true h)]
      omega
    · rw [if_neg (by rwa [decide_eq_true_eq])]
      omega

theorem leadingZeros_eq (x : Word) :
    leadingZeros x = BitVec.ofNat 32 ((List.range 32).countP (fun k => decide (x.toNat < 2 ^ k))) := by
  by_cases hx : x = 0#32
  · subst hx
    rfl
  · have hlt (k : Nat) : x.toNat < 2 ^ k ↔ Nat.log2 x.toNat < k := (Nat.log2_lt (mt (eq_zero_iff_toNat x).2 hx)).symm
    simp only [leadingZeros, if_neg hx, hlt, countP_range_lt]

/-! ## Bit fields (R166) -/

theorem fld_fieldAt (y : Word) : fld y 0 5 = fieldAt y := congrArg (· % 32) (Nat.div_one y.toNat)

theorem bfLen_eq (y : Word) : bfLen y = fieldLen y := congrArg (fun a => Nat.min (fld y 8 6) (32 - a)) (fld_fieldAt y)

theorem fieldLen_le (y : Word) : fieldLen y ≤ 32 := (Nat.min_le_right _ _).trans (Nat.sub_le _ _)

/-- A bit of a field of a word. -/
theorem testBit_fld (x : Word) (lo len k : Nat) : (fld x lo len).testBit k = (decide (k < len) && x.getLsbD (lo + k)) := by
  rw [fld, Nat.testBit_mod_two_pow, Nat.testBit_div_two_pow, Nat.add_comm]
  rfl

theorem bfeU_eq (x y : Word) : bfeU x y = maskOf (fun k => decide (k < fieldLen y) && x.getLsbD (fieldAt y + k)) :=
  eq_maskOf fun k hk => by
    rw [bfeU, bfLen_eq, fld_fieldAt, BitVec.getLsbD_ofNat, decide_eq_true hk, Bool.true_and, testBit_fld]

theorem bfeS_eq (x y : Word) :
    bfeS x y = maskOf (fun k => decide (0 < fieldLen y) && x.getLsbD (fieldAt y + min k (fieldLen y - 1))) := by
  refine eq_maskOf fun k hk => ?_
  rw [bfeS, bfLen_eq, fld_fieldAt]
  by_cases hlen : fieldLen y = 0
  · simp [hlen]
  · have hpos : 0 < fieldLen y := Nat.pos_of_ne_zero hlen
    rw [if_neg hlen, trunc32_sextN, BitVec.getLsbD_signExtend, decide_eq_true hk, decide_eq_true hpos, BitVec.msb_eq_getLsbD_last,
      BitVec.getLsbD_ofNat, BitVec.getLsbD_ofNat, testBit_fld, testBit_fld]
    by_cases hin : k < fieldLen y
    · simp [hin, Nat.min_eq_left (show k ≤ fieldLen y - 1 by omega)]
    · simp [hin, hpos, Nat.min_eq_right (show fieldLen y - 1 ≤ k by omega)]

theorem bfMask_getLsbD (y : Word) {k : Nat} (hk : k < 32) :
    (bfMask y).getLsbD k = decide (fieldAt y ≤ k ∧ k < fieldAt y + fieldLen y) := by
  rw [bfMask, bfLen_eq, fld_fieldAt, BitVec.getLsbD_ofNat, Nat.testBit_mul_two_pow, Nat.testBit_two_pow_sub_one,
    decide_eq_true hk, Bool.true_and, ← Bool.decide_and]
  exact decide_eq_decide.2 (by omega)

theorem bfInsert_eq (x y z : Word) : bfInsert z x y = maskOf (fun k =>
    if fieldAt y ≤ k ∧ k < fieldAt y + fieldLen y then x.getLsbD (k - fieldAt y) else z.getLsbD k) := by
  refine eq_maskOf fun k hk => ?_
  rw [bfInsert, fld_fieldAt, BitVec.getLsbD_or, BitVec.getLsbD_and, BitVec.getLsbD_and, BitVec.getLsbD_not,
    BitVec.getLsbD_shiftLeft, bfMask_getLsbD y hk, decide_eq_true hk]
  split
  next hin => simp [hin]
  next hout => simp [hout]

/-! ## BMIX (R167) -/

theorem bmixByte_eq (v : Dword) (f : Nat) : bmixByte v f = mixed v.toNat f := by
  have hbyte : nbits v.toNat (8 * (f % 8) + 7) (8 * (f % 8)) = byteAt v.toNat (f % 8) := by
    rw [nbits, show 8 * (f % 8) + 7 + 1 - 8 * (f % 8) = 8 by omega]
    exact congrArg (v.toNat / · % 256) (pow_mul 2 8 _)
  have hf : f / 8 % 4 < 4 := Nat.mod_lt _ (by decide)
  unfold bmixByte mixed
  dsimp only
  rw [hbyte]
  split
  next h => rw [if_pos h]
  next h => rw [if_neg (by omega), if_pos h]
  next h =>
    rw [h]
    exact (if_congr not_lt.symm rfl rfl).trans (ite_not ..)
  next h0 h1 h2 => rw [if_neg h0, if_neg h1, if_neg h2]

theorem mixed_lt (v f : Nat) : mixed v f < 256 := by
  have hbyte : byteAt v (f % 8) < 256 := Nat.mod_lt _ (by decide)
  unfold mixed
  dsimp only
  split_ifs <;> omega

/-- The controls are the four fields of five bits. -/
theorem fld_control (y : Word) (i : Nat) : fld y (5 * i) 5 = y.toNat / 32 ^ i % 32 := congrArg (y.toNat / · % 32) (pow_mul 2 5 i)

theorem toNat_pair64 (z x : Word) : (pair64 z x).toNat = x.toNat + z.toNat * 2 ^ 32 := by
  rw [pair64, BitVec.toNat_append, ← Nat.shiftLeft_add_eq_or_of_lt x.isLt, Nat.shiftLeft_eq, Nat.add_comm]

theorem bmix_eq (x y z : Word) : bmix z x y =
    BitVec.ofNat 32 (mixed (x.toNat + z.toNat * 2 ^ 32) (y.toNat % 32) + mixed (x.toNat + z.toNat * 2 ^ 32) (y.toNat / 32 % 32) * 256 +
      mixed (x.toNat + z.toNat * 2 ^ 32) (y.toNat / 1024 % 32) * 65536 +
      mixed (x.toNat + z.toNat * 2 ^ 32) (y.toNat / 32768 % 32) * 16777216) := by
  have hbytes (b : Nat → Nat) (hb : ∀ i, b i < 256) : natOfBytes ((List.range 4).map fun i => BitVec.ofNat 8 (b i)) =
      b 0 + b 1 * 256 + b 2 * 65536 + b 3 * 16777216 := by
    simp only [List.range_succ, List.range_zero, List.nil_append, List.cons_append, List.map_cons, List.map_nil, natOfBytes,
      BitVec.toNat_ofNat, Nat.mod_eq_of_lt (hb _)]
    omega
  simp only [bmix, bmixByte_eq, fld_control, toNat_pair64]
  rw [hbytes _ fun i => mixed_lt _ _, pow_zero, Nat.div_one, pow_one]
  norm_num

end Sys2Proof.Claims
end
section
/-! # The integer forms of classes 2 and 3 -/

namespace Sys2Proof.Claims

open Sys2Proof Sys2Proof.Machine

variable {s : State} {i : Instr}

/-! ## Which form an instruction is -/

theorem alu32_congr {n : Bool} {d : VDst} {f g : Wave → Nat → Word} (h : ∀ w l, f w l = g w l) :
    alu32 i n d f s = alu32 i n d g s := by
  rw [funext fun w => funext (h w)]

theorem alu64_congr {n : Bool} {d : VDst} {f g : Wave → Nat → Dword} (h : ∀ w l, f w l = g w l) :
    alu64 i n d f s = alu64 i n d g s := by
  rw [funext fun w => funext (h w)]

/-- Tables 7.1, 7.3 and 7.6: each form's result is the manual's. -/
theorem exec_of_intRule {n : Bool} {d : VDst} {f : Wave → Nat → Word} (h : intRule i = some (n, d, f)) (s : State) :
    exec i s = alu32 i n d f s := by
  unfold intRule at h
  dsimp only at h
  split at h
  all_goals cases h
  · exact alu32_congr fun _ _ => add_eq_ofInt ..                    -- ADD
  · exact alu32_congr fun _ _ => sub_eq_ofInt ..                    -- SUB
  · exact alu32_congr fun _ _ => mul_eq_ofInt ..                    -- MUL
  · exact alu32_congr fun _ _ => hi32_trunc64 _                     -- MULHI
  · exact alu32_congr fun _ _ => mulhiU_eq ..                       -- MULHIU
  · exact alu32_congr fun _ _ => mad_eq_ofInt ..                    -- MAD
  · exact alu32_congr fun _ _ => ite_toInt_le ..                    -- MIN
  · exact alu32_congr fun _ _ => ite_toInt_ge ..                    -- MAX
  · exact alu32_congr fun _ _ => ite_toNat_le ..                    -- MINU
  · exact alu32_congr fun _ _ => ite_toNat_ge ..                    -- MAXU
  · exact alu32_congr fun _ _ => absDiff_eq ..                      -- ABSD
  · exact alu32_congr fun _ _ => csel_eq ..                         -- CSEL
  · exact alu32_congr fun _ _ => and_eq_maskOf ..                   -- AND
  · exact alu32_congr fun _ _ => or_eq_maskOf ..                    -- OR
  · exact alu32_congr fun _ _ => xor_eq_maskOf ..                   -- XOR
  · exact alu32_congr fun _ _ => andn_eq_maskOf ..                  -- ANDN
  · exact alu32_congr fun _ _ => shl32_eq ..                        -- SHL
  · exact alu32_congr fun _ _ => srl32_eq ..                        -- SRL
  · exact alu32_congr fun _ _ => sra32_eq ..                        -- SRA
  · exact alu32_congr fun _ _ => rotl32_eq ..                       -- ROT
  · exact alu32_congr fun _ _ => bfeS_eq ..                         -- BFE
  · exact alu32_congr fun _ _ => bfeU_eq ..                         -- BFEU
  · exact alu32_congr fun _ _ => bfInsert_eq ..                     -- BFI
  · exact alu32_congr fun _ _ => popcount_eq _                      -- POPC
  · exact alu32_congr fun _ _ => leadingZeros_eq _                  -- CLZ
  · rfl                                                             -- BREV
  · exact alu32_congr fun _ _ => clampS_eq _                        -- ADDSAT
  · exact alu32_congr fun _ _ => clampS_eq _                        -- SUBSAT
  · exact alu32_congr fun _ _ => bmix_eq ..                         -- BMIX
  iterate 6 · exact alu32_congr fun _ _ => allOnes_holds ..         -- ICMP
  · exact alu32_congr fun _ _ => addi_eq ..                         -- ADDI
  · exact alu32_congr fun _ _ => andi_eq ..                         -- ANDI
  · exact alu32_congr fun _ _ => ori_eq ..                          -- ORI
  · exact alu32_congr fun _ _ => xori_eq ..                         -- XORI
  · exact alu32_congr fun _ _ => shl_eq_ofNat ..                    -- SHLI
  · exact alu32_congr fun _ _ => srl_eq_ofNat ..                    -- SRLI
  · exact alu32_congr fun _ _ => sra_eq_ofInt ..                    -- SRAI
  · exact alu32_congr fun _ _ => muli_eq ..                         -- MULI

/-- The 64-bit forms of Table 7.1. -/
theorem exec_of_wideRule {n : Bool} {d : VDst} {f : Wave → Nat → Dword} (h : wideRule i = some (n, d, f)) (s : State) :
    exec i s = alu64 i n d f s := by
  unfold wideRule at h
  dsimp only at h
  split at h
  all_goals cases h
  · exact alu64_congr fun _ _ => add_eq_ofInt ..                    -- ADD64
  · exact alu64_congr fun _ _ => sub_eq_ofInt ..                    -- SUB64
  · exact alu64_congr fun _ _ => mul_eq_ofInt ..                    -- MUL64
  · exact alu64_congr fun _ _ => madw_eq ..                         -- MADW
  · exact alu64_congr fun _ _ => ite_toInt_le ..                    -- MIN64
  · exact alu64_congr fun _ _ => ite_toInt_ge ..                    -- MAX64
  · exact alu64_congr fun _ _ => ite_toNat_le ..                    -- MINU64
  · exact alu64_congr fun _ _ => ite_toNat_ge ..                    -- MAXU64
  · exact alu64_congr fun _ _ => shl64_eq ..                        -- SHL64
  · exact alu64_congr fun _ _ => srl64_eq ..                        -- SRL64
  · exact alu64_congr fun _ _ => sra64_eq ..                        -- SRA64

/-- Settles O1: each form has the manual's result (`exec_of_intRule`, `exec_of_wideRule`), and one of its width is delivered alike
whatever the form. -/
theorem integerResults : Obligations.IntegerResults := by
  unfold Obligations.IntegerResults
  exact ⟨fun i s n d f hi hp => ⟨_, (exec_of_intRule hi s).trans (hp.plain _), only_result32 s n d f⟩,
    fun i s n d f hi hp => ⟨_, (exec_of_wideRule hi s).trans (hp.plain _), only_result64 s n d f⟩⟩

end Sys2Proof.Claims
end
section
/-! # Divisions -/

namespace Sys2Proof.Claims

open Sys2Proof Sys2Proof.Machine

variable {s : State} {i : Instr}

/-- A scoreboard slot taken, then the active lanes at next_pc. -/
theorem only_owe_adv (s : State) (kind : OwedKind) (dest : OwedDest) (data : Tab (List Word)) (flags : Nat) :
    Only { s with fresh := s.fresh + 1 } (s.owe kind dest s.active data flags 0#32 false).adv (fun w => { w.advanced s sameLane with
      owed := w.owed ++ [⟨s.fresh, kind, dest, s.active, data, flags, 0#32, false, false, 0#32, s.iss.pc⟩] }) :=
  (Only.modCur { s with fresh := s.fresh + 1 } _).advAfter

/-! ## Integer divisions (R169, R171) -/

/-- A division with the result that the manual gives. -/
theorem divide_congr {d : VDst} {a b : VSrc} {f g : Word → Word → Word} (h : ∀ x y, f x y = g x y) :
    divide i .div d (fun w l => f (w.v32 l a) (w.v32 l b)) s = divide i .div d (fun w l => g (w.v32 l a) (w.v32 l b)) s := by
  rw [funext fun x => funext (h x)]

theorem exec_of_divRule {d : VDst} {a b : VSrc} {f : Word → Word → Word} (h : divRule i = some (d, a, b, f)) (s : State) :
    exec i s = divide i .div d (fun w l => f (w.v32 l a) (w.v32 l b)) s := by
  unfold divRule at h
  split at h
  all_goals cases h
  · exact (divide_congr divS_eq :)
  · exact (divide_congr divU_eq :)
  · exact (divide_congr remS_eq :)
  · exact (divide_congr remU_eq :)

/-! ## FDIV (R184) -/

theorem failing_of_unfailed {m : Mask} {kind : FKind} {val : Nat → Word} (h : Unfailed s m (some kind) val) :
    failing s m kind val = 0#32 := by
  by_contra hf
  cases (shadowTrap_of_unfailed h).symm.trans (shadowTrap_of_failing hf)

/-- The slot of an FDIV whose check fails in no lane. -/
def owesQuotient (s : State) (r : VReg) (a b : VSrc) : State :=
  s.spend.owe .fdiv (.vec (s.src.wb + r.val) 1) s.active
    (perLane s.active (s.struck s.strikes .single (fun l => (quotient s a b l).1)))
    (combined s.active (fun l => (quotient s a b l).2)) 0#32 false

/-- The quotients, as the model computes them. -/
theorem shadowLanes_quotF {a b : VSrc} (h : Unfailed s s.strikes (some .single) (fun l => (quotient s a b l).1)) :
    s.shadowLanes s.strikes .single (fun l => (quotF s.src (s.src.v32 l a) (s.src.v32 l b)).1) = 0#32 := failing_of_unfailed h

section

variable {d : VDst} {a b : VSrc} (hp : Passes (.fdiv d a b) s)
  (hu : Unfailed s s.strikes (some .single) (fun l => (quotient s a b l).1))
include hp hu

/-- An FDIV whose check fails in no lane and which meets no enabled exception: where a trap is enabled the wave waits for the
result, and with D = 124 the exceptions join FPFLAGS at once. -/
theorem exec_fdiv_of_unmet (h : metAll s (fun l => (quotient s a b l).2) &&& s.src.traps = 0) :
    exec (.fdiv d a b) s = match d with
      | .reg r => .next (if s.src.traps ≠ 0 then (owesQuotient s r a b).modCur (fun w => { w with wait := .fdiv })
          else owesQuotient s r a b).adv
      | .discard => .next (s.spend.raiseFlags (combined s.active (fun l => (quotient s a b l).2))).adv := by
  have htrap : s.fpTrap (fun l => (quotF s.src (s.src.v32 l a) (s.src.v32 l b)).2) = none := fpTrap_of_unmet h
  change execFdiv d a b s = _
  rw [execFdiv, hp.issueTrap]
  dsimp only
  rw [shadowLanes_quotF hu, htrap]
  cases d with
  | reg r | discard => by_cases ht : s.src.traps = 0 <;> simp [ht] <;> rfl

/-- An FDIV that meets an enabled exception raises FPEXC at its own address. -/
theorem exec_fdiv_of_met (h : metAll s (fun l => (quotient s a b l).2) &&& s.src.traps ≠ 0) :
    exec (.fdiv d a b) s = .next (s.raise (fpexc s (fun l => (quotient s a b l).2))) := by
  have htrap : s.fpTrap (fun l => (quotF s.src (s.src.v32 l a) (s.src.v32 l b)).2) = some (fpexc s (fun l => (quotient s a b l).2)) :=
    fpTrap_of_met h
  have ht : s.src.traps ≠ 0 := fun ht => h (by rw [ht, Nat.and_zero])
  change execFdiv d a b s = _
  rw [execFdiv, hp.issueTrap]
  dsimp only
  rw [shadowLanes_quotF hu, htrap]
  exact if_pos ht

end

/-- A wave that owes a quotient is changed in that, and in its wait where a trap is enabled. -/
theorem only_owesQuotient (s : State) (r : VReg) (a b : VSrc) : Only { spent s (some .single) with fresh := s.fresh + 1 }
    (if s.src.traps ≠ 0 then (owesQuotient s r a b).modCur (fun w => { w with wait := .fdiv }) else owesQuotient s r a b).adv
    (fun w => { w.advanced s sameLane with
      wait := if s.src.traps ≠ 0 then .fdiv else w.wait
      owed := w.owed ++ [⟨s.fresh, .fdiv, .vec (s.src.wb + r.val) 1, s.active,
        (lanesOf s.active).map (fun l => (l, [delivered s s.strikes (some .single) (fun l => (quotient s a b l).1) l])),
        combined s.active (fun l => (quotient s a b l).2), 0#32, false, false, 0#32, s.iss.pc⟩] }) := by
  rw [owesQuotient, spend_eq s .single]
  have howe := Only.modCur { spent s (some .single) with fresh := s.fresh + 1 } (fun w => { w with
    owed := w.owed ++ [⟨s.fresh, .fdiv, .vec (s.src.wb + r.val) 1, s.active,
      perLane s.active (s.struck s.strikes .single (fun l => (quotient s a b l).1)),
      combined s.active (fun l => (quotient s a b l).2), 0#32, false, false, 0#32, s.iss.pc⟩] })
  by_cases ht : s.src.traps = 0
  · simp only [ht, ne_eq, not_true_eq_false, if_false]
    exact howe.advAfter
  · simp only [ht, ne_eq, not_false_eq_true, if_true]
    exact (howe.trans (Only.modCur _ _)).advAfter

/-- Settles O3: a division owes its results as its slot is taken; an FDIV past its two checks owes them too, or with D = 124 keeps
only the exceptions. -/
theorem divisionsIssue : Obligations.DivisionsIssue := by
  unfold Obligations.DivisionsIssue
  constructor
  · intro i s d a b f hi hp
    have hexec := (exec_of_divRule hi s).trans (hp.plain _)
    cases d with
    | reg r => exact ⟨_, hexec, only_owe_adv ..⟩
    | discard => exact ⟨_, hexec, only_adv s⟩
  · intro d a b s hp q met hu
    refine ⟨fun hmet => ?_, exec_fdiv_of_met hp hu⟩
    have hexec := exec_fdiv_of_unmet hp hu hmet
    cases d with
    | reg r => exact ⟨_, hexec, only_owesQuotient s r a b⟩
    | discard =>
      rw [spend_eq s .single] at hexec
      exact ⟨_, hexec, only_raiseFlags_adv ((Only.refl _).congr fun w => (w.lanesBy_same _).symm) _⟩

end Sys2Proof.Claims
end
section
/-! # The uniform forms -/

namespace Sys2Proof.Claims

open Sys2Proof Sys2Proof.Machine

variable {s : State} {i : Instr}

/-! ## Writes of s registers (R174) -/

theorem only_putS (s : State) (n : Nat) (v : Word) : Only s (s.putS n v) (fun w => { w with s := s.giveS n v w.s }) := by
  unfold State.putS State.giveS
  split
  next => exact Only.refl s
  next => exact ⟨rfl, by unfold SameIssue; split <;> rfl, rfl⟩

theorem only_putU (s : State) (d : UDst) (v : Word) : Only s (s.putU d v) (fun w => { w with s := s.giveU d v w.s }) := by
  cases d with
  | reg n => exact only_putS s n.val v
  | discard => exact Only.refl s

/-- What slot A has written does not change by what an instruction of slot B writes, and slot A is not held by its own. -/
theorem giveS_putS (s : State) (n : Nat) (v : Word) : (s.putS n v).giveS = s.giveS := by
  funext m x rs
  unfold State.giveS State.putS
  cases hB : s.iss.slotB
  · simp [hB]
  · cases hkept : s.iss.keptS.contains n <;> simp [hB, State.modCur, State.modWave]

/-- Settles O8: the forms do what `floatIssue` does, and their one result is delivered from the lowest active lane. -/
theorem uniformFloatResults : Obligations.UniformFloatResults := by
  unfold Obligations.UniformFloatResults
  intro i s d k f b hi hp hb hu hmet
  refine ⟨_, (exec_of_uniFloatRule hi s).trans (floatIssue_of_unmet (f := fun w _ => f w) hp hu hmet), ?_⟩
  have hput : Only (spent s k) (putUniform d (delivered s (allStruck s) k (fun _ => (f s.src).1)) (spent s k)) (fun w =>
      { w with s := s.giveU d (delivered s (allStruck s) k (fun _ => (f s.src).1) b) w.s }) := by
    have hlow : (lowestLane (spent s k).active).getD 0 = b := congrArg (·.getD 0) hb
    rw [putUniform, hlow]
    exact only_putU (spent s k) d _
  exact (hput.trans (Only.modCur _ _)).advAfter

/-! ## The forms with one result -/

variable {d : UDst} {a b : USrc}

/-- A form of two operands, and one that reads d, with the result that the manual gives. -/
theorem uniBin_congr {f g : Word → Word → Word} (h : ∀ x y, f x y = g x y) :
    uniBin i d a b f s = setForm i d (fun _ w => g (w.u32 a) (w.u32 b)) s := by
  rw [funext fun x => funext (h x)]
  rfl
theorem uniTer_congr {f g : Word → Word → Word → Word} (h : ∀ x y z, f z x y = g x y z) :
    uniTer i d a b f s = setForm i d (fun _ w => g (w.u32 a) (w.u32 b) (w.ud32 d)) s := by
  rw [show f = fun z x y => g x y z from funext fun z => funext fun x => funext fun y => h x y z]
  rfl

theorem bit_holds (c : ICond) (x y : Word) :
    (if c.holds x y then 1#32 else 0#32) = BitVec.ofNat 32 (if intCond c x y then 1 else 0) := by
  rw [holds_eq]
  split <;> rfl

theorem bne_zero_eq (x : Word) : (x != 0#32) = decide (x.toNat ≠ 0) := by
  rw [Bool.eq_iff_iff, bne_iff_ne, decide_eq_true_eq]
  exact not_congr (eq_zero_iff_toNat x)

theorem popcount_eq_length (m : Mask) : popcount m = BitVec.ofNat 32 (lanesOf m).length :=
  (popcount_eq m).trans (congrArg (BitVec.ofNat 32) List.countP_eq_length_filter)

theorem laneNo_eq (w : Wave) (b : USrc) : w.laneNo b = (w.u32 b).toNat % 32 := fld_fieldAt _

theorem execSrdlane_eq (n : VReg) : execSrdlane d n b s =
    setForm (.srdlane d n b) d (fun _ w => w.vreg ((w.u32 b).toNat % 32) n.val) s := by
  simp only [execSrdlane, laneNo_eq]
  rfl

theorem execBallot_eq (v : VSrc) : execBallot d v s =
    setForm (.ballot d v) d (fun act w => maskOf (fun l => act.getLsbD l && decide ((w.v32 l v).toNat ≠ 0))) s := by
  simp only [execBallot, lanesThat, bne_zero_eq]

theorem execMpop_eq (m : MSrc) :
    execMpop d m s = setForm (.mpop d m) d (fun act w => BitVec.ofNat 32 (lanesOf (w.msrc act m)).length) s := by
  simp only [execMpop, popcount_eq_length]

/-- Tables 7.7 and 8.8: each form's result is the manual's. -/
theorem exec_of_uniRule {f : Mask → Wave → Word} (h : uniRule i = some (d, f)) (s : State) : exec i s = setForm i d f s := by
  unfold uniRule at h
  dsimp only at h
  split at h
  all_goals cases h
  · exact (uniBin_congr add_eq_ofInt :)                             -- SADD
  · exact (uniBin_congr sub_eq_ofInt :)                             -- SSUB
  · exact (uniBin_congr mul_eq_ofInt :)                             -- SMUL
  · exact (uniTer_congr mad_eq_ofInt :)                             -- SMAD
  · exact (uniBin_congr and_eq_maskOf :)                            -- SAND
  · exact (uniBin_congr or_eq_maskOf :)                             -- SOR
  · exact (uniBin_congr xor_eq_maskOf :)                            -- SXOR
  · exact (uniBin_congr shl32_eq :)                                 -- SSHL
  · exact (uniBin_congr srl32_eq :)                                 -- SSHR
  · exact (uniBin_congr sra32_eq :)                                 -- SSRA
  · exact (uniBin_congr ite_toInt_le :)                             -- SMIN
  · exact (uniBin_congr ite_toInt_ge :)                             -- SMAX
  · exact (uniBin_congr ite_toNat_le :)                             -- SMINU
  · exact (uniBin_congr ite_toNat_ge :)                             -- SMAXU
  iterate 6 · exact (uniBin_congr (bit_holds _) :)                  -- SCMP
  · exact execSrdlane_eq _                                          -- SRDLANE
  · exact (uniBin_congr divU_eq :)                                  -- SDIVU
  · exact (uniBin_congr remU_eq :)                                  -- SREMU
  · exact (uniTer_congr csel_eq :)                                  -- SSEL
  · exact execBallot_eq _                                           -- BALLOT
  · exact execMpop_eq _                                             -- MPOP
  · rfl                                                             -- MTOS

/-! ## SWRLANE (R176) -/

/-- Registers written in some lanes, not where slot A wrote. -/
theorem only_putV_in (s : State) (ls : Mask) (n : Nat) (f : Nat → Word) : Only s (s.putV ls n f) (fun w =>
    w.lanesBy (ls &&& ~~~s.iss.blockedV (s.cur.wb + n)) (fun l x => x.given (s.cur.wb + n) (f l))) :=
  ⟨rfl, by simp only [State.putV, Issue.noteV, SameIssue]; split <;> rfl, rfl⟩

theorem one_shl_getLsbD {k : Nat} (hk : k < 32) (l : Nat) : (1#32 <<< k).getLsbD l = decide (l = k) := by
  rw [BitVec.getLsbD_shiftLeft, BitVec.getLsbD_one]
  by_cases h : l = k
  · simp [h, hk]
  · simp [h]
    omega

/-- The lane SWRLANE writes: the one it names, where it is live and slot A has not written the register. -/
theorem target_getLsbD (s : State) (b : USrc) (r l : Nat) : (s.src.target b &&& ~~~s.iss.blockedV r).getLsbD l = true ↔
    l = (s.src.u32 b).toNat % 32 ∧ (s.src.lane l).state.live = true ∧
      ¬(s.iss.slotB = true ∧ ∃ k ∈ s.iss.keptV, k.1 = r ∧ k.2.getLsbD l = true) := by
  have hk : (s.src.u32 b).toNat % 32 < 32 := Nat.mod_lt _ (by decide)
  rw [Wave.target, laneNo_eq, Wave.live, BitVec.getLsbD_and, BitVec.getLsbD_and, BitVec.getLsbD_not, blockedV_getLsbD,
    maskOf_getLsbD, one_shl_getLsbD hk]
  by_cases hl : l = (s.src.u32 b).toNat % 32
  · have hl32 : l < 32 := hl ▸ hk
    simp only [← hl, hl32, decide_true, Bool.true_and, Bool.and_true, true_and, Bool.and_eq_true, Bool.not_eq_true',
      ← Bool.not_eq_true, List.any_eq_true, decide_eq_true_eq]
  · simp [hl]

theorem only_swrlane (s : State) (r : VReg) (b : USrc) (v : Word) : Only s (s.putV (s.src.target b) r.val (fun _ => v)).adv (fun w =>
    { w with lanes := w.lanes.mapIdx (fun l x =>
        let y := if l = (s.src.u32 b).toNat % 32 ∧ (s.src.lane l).state.live = true ∧
            ¬(s.iss.slotB = true ∧ ∃ k ∈ s.iss.keptV, k.1 = s.cur.wb + r.val ∧ k.2.getLsbD l = true)
          then x.given (s.cur.wb + r.val) v else x
        if s.active.getLsbD l then { y with pc := s.iss.next } else y) }) := by
  refine (only_putV_in s _ r.val _).advAfter.congr fun w => ?_
  simp only [Wave.advanced, Wave.lanesBy, mapIdx_mapIdx, target_getLsbD]
  rfl

/-- SADD64: slot A's value remains in each register by itself. -/
theorem only_putU64 (s : State) (n : SReg) (x : Dword) : Only s (s.putU64 (.reg n) x)
    (fun w => { w with s := s.giveS (n.val + 1) (hi32 x) (s.giveS n.val (lo32 x) w.s) }) := by
  refine ((only_putS s n.val _).trans (only_putS _ (n.val + 1) _)).congr fun w => ?_
  rw [giveS_putS]

/-- Settles O5: the forms with one result are one write of an s register (`exec_of_uniRule`); of the others each is its own write,
then the advance of the active lanes. -/
theorem uniformResults : Obligations.UniformResults := by
  unfold Obligations.UniformResults
  refine ⟨fun i s d f hi hp => ⟨_, (exec_of_uniRule hi s).trans (hp.plain _), (only_putU s d _).advAfter⟩, ?_, ?_, ?_, ?_, ?_⟩
  · intro d a s hp
    exact ⟨_, hp.plain fun s => (s.putD d (fun _ => s.src.u32 a)).adv, (only_putD s d _).adv⟩
  · intro r a b s hp
    exact ⟨_, hp.plain fun s => (s.putV (s.src.target b) r.val (fun _ => s.src.u32 a)).adv, only_swrlane s r b _⟩
  · intro a b s hp
    exact ⟨_, hp.plain State.adv, only_adv s⟩
  · intro n a b s hp
    refine ⟨_, hp.plain fun s => (s.putU64 (.reg n) (s.src.u64 a + s.src.u64 b)).adv, ?_⟩
    rw [add_eq_ofInt]
    exact (only_putU64 s n _).advAfter
  · intro a b s hp
    exact ⟨_, hp.plain State.adv, only_adv s⟩

end Sys2Proof.Claims
end
section
/-! # Votes, elections and folds over the active lanes, as the model and as the manual write them -/

namespace Sys2Proof.Claims

open Sys2Proof Sys2Proof.Machine

/-! ## Votes (R194) -/

theorem lanesThat_eq_zero {act : Mask} {p : Nat → Bool} : lanesThat act p = 0#32 ↔ ∀ l ∈ lanesOf act, p l = false := by
  simp only [lanesThat, maskOf_eq_zero, Bool.and_eq_false_imp, mem_lanesOf]
  exact ⟨fun h l hl => h l (BitVec.lt_of_getLsbD hl) hl, fun h l _ => h l⟩

theorem vany_eq (act : Mask) (w : Wave) (a : VSrc) :
    (if lanesThat act (fun l => w.v32 l a != 0#32) ≠ 0#32 then 0xFFFFFFFF#32 else 0#32) = wordOf (!(nonzero act w a).isEmpty) := by
  refine if_congr ?_ rfl rfl
  rw [Bool.not_eq_true', ← Bool.not_eq_true, List.isEmpty_iff, nonzero, List.filter_eq_nil_iff, ne_eq, lanesThat_eq_zero]
  simp only [bne_zero_eq, Bool.not_eq_true]

theorem vall_eq (act : Mask) (w : Wave) (a : VSrc) :
    (if lanesThat act (fun l => w.v32 l a == 0#32) = 0#32 then 0xFFFFFFFF#32 else 0#32) =
      wordOf ((nonzero act w a).length == (lanesOf act).length) := by
  refine if_congr ?_ rfl rfl
  rw [beq_iff_eq, nonzero, List.length_filter_eq_length_iff, lanesThat_eq_zero]
  simp only [← bne_zero_eq, bne, Bool.not_eq_true']

theorem beq_eq_decide_toNat (x y : Word) : (x == y) = decide (x.toNat = y.toNat) := decide_eq_decide.2 BitVec.toNat_inj.symm

theorem matchEq_eq (act : Mask) (w : Wave) (a : VSrc) (l : Nat) : lanesThat act (fun k => w.v32 k a == w.v32 l a) =
    maskOf (fun k => act.getLsbD k && decide ((w.v32 k a).toNat = (w.v32 l a).toNat)) := by
  simp only [lanesThat, beq_eq_decide_toNat]

/-! ## Elections (R196) -/

theorem lowestLane_eq_some_iff {m : Mask} {l : Nat} : lowestLane m = some l ↔ l ∈ lanesOf m ∧ ∀ k ∈ lanesOf m, l ≤ k := by
  rw [lowestLane, lanesOf, List.head?_filter, List.find?_range_eq_some, ← lanesOf]
  simp only [mem_lanesOf, List.mem_range, Bool.not_eq_true', ← Bool.not_eq_true]
  constructor
  · rintro ⟨hl, -, hlow⟩
    exact ⟨hl, fun k hk => not_lt.1 fun h => hlow k h hk⟩
  · rintro ⟨hl, hlow⟩
    exact ⟨hl, BitVec.lt_of_getLsbD hl, fun k hk h => (hlow k h).not_gt hk⟩

theorem bellwether_eq {act : Mask} {l : Nat} (hl : act.getLsbD l = true) :
    bellwether act l = BitVec.ofNat 32 (if (lanesOf act).all (fun k => decide (l ≤ k)) then 1 else 0) := by
  have hlow : lowestLane act = some l ↔ (lanesOf act).all (fun k => decide (l ≤ k)) = true := by
    simp only [lowestLane_eq_some_iff, mem_lanesOf.2 hl, true_and, List.all_eq_true, decide_eq_true_eq]
  rw [bellwether, if_congr hlow rfl rfl]
  split <;> rfl

/-! ## Folds (R195) -/

theorem foldl_add_eq_sum {α : Type} (val : α → Word) (xs : List α) :
    xs.foldl (fun acc k => acc + val k) 0#32 = BitVec.ofNat 32 ((xs.map (fun k => (val k).toNat)).sum) := by
  rw [List.sum_eq_foldl, List.foldl_map]
  exact List.foldl_hom (BitVec.ofNat 32) fun n k => by rw [BitVec.ofNat_add, ofNat_toNat_same]

theorem toInt_minS (x y : Word) : (minS x y).toInt = min x.toInt y.toInt := by rw [minS, apply_ite BitVec.toInt, min_def]
theorem toInt_maxS (x y : Word) : (maxS x y).toInt = max x.toInt y.toInt := by
  rw [maxS, apply_ite BitVec.toInt, max_comm, max_def]

/-- A signed fold is the fold of the values. -/
theorem foldl_toInt {f : Word → Word → Word} {g : Int → Int → Int} (h : ∀ x y, (f x y).toInt = g x.toInt y.toInt) (e : Word)
    (xs : List Word) : xs.foldl f e = trunc32 ((xs.map BitVec.toInt).foldl g e.toInt) := by
  rw [List.foldl_map, List.foldl_hom BitVec.toInt fun x y => (h x y).symm]
  exact BitVec.ofInt_toInt.symm

theorem foldl_and_eq (xs : List Word) : xs.foldl (· &&& ·) 0xFFFFFFFF#32 = maskOf (fun k => xs.all (fun x => x.getLsbD k)) := by
  have hbit (k : Nat) (e : Word) : (xs.foldl (· &&& ·) e).getLsbD k = (e.getLsbD k && xs.all (fun x => x.getLsbD k)) := by
    induction xs generalizing e with
    | nil => simp
    | cons x r ih => rw [List.foldl_cons, ih, BitVec.getLsbD_and, List.all_cons, Bool.and_assoc]
  exact eq_maskOf fun k hk => by
    rw [hbit, show 0xFFFFFFFF#32 = BitVec.allOnes 32 from rfl, BitVec.getLsbD_allOnes, decide_eq_true hk, Bool.true_and]

theorem foldl_or_eq (xs : List Word) : xs.foldl (· ||| ·) 0#32 = maskOf (fun k => xs.any (fun x => x.getLsbD k)) := by
  have hbit (k : Nat) (e : Word) : (xs.foldl (· ||| ·) e).getLsbD k = (e.getLsbD k || xs.any (fun x => x.getLsbD k)) := by
    induction xs generalizing e with
    | nil => simp
    | cons x r ih => rw [List.foldl_cons, ih, BitVec.getLsbD_or, List.any_cons, Bool.or_assoc]
  exact eq_maskOf fun k hk => by rw [hbit, BitVec.getLsbD_zero, Bool.false_or]

theorem foldl_xor_eq (xs : List Word) :
    xs.foldl (· ^^^ ·) 0#32 = maskOf (fun k => xs.countP (fun x => x.getLsbD k) % 2 == 1) := by
  have hbit (k : Nat) (e : Word) :
      (xs.foldl (· ^^^ ·) e).getLsbD k = (e.getLsbD k ^^ (xs.countP (fun x => x.getLsbD k) % 2 == 1)) := by
    induction xs generalizing e with
    | nil => simp
    | cons x r ih =>
      rw [List.foldl_cons, ih, BitVec.getLsbD_xor, List.countP_cons, Bool.xor_assoc]
      congr 1
      cases x.getLsbD k with
      | false => simp
      | true =>
        rcases Nat.mod_two_eq_zero_or_one (r.countP (fun x => x.getLsbD k)) with h | h <;> simp [h, Nat.add_mod]
  exact eq_maskOf fun k hk => by rw [hbit, BitVec.getLsbD_zero, Bool.false_xor]

/-- Of one lane or more, a reduction is a fold from an element that leaves every value as it is. -/
theorem reduceLanes_eq_foldl {act : Mask} {f : Word → Word → Word} {e : Word} (he : ∀ x, f e x = x) {l : Nat}
    (hl : act.getLsbD l = true) (val : Nat → Word) : reduceLanes act f val = ((lanesOf act).map val).foldl f e := by
  unfold reduceLanes
  split
  next hnil => cases hnil ▸ mem_lanesOf.2 hl
  next b r hcons => rw [hcons, List.map_cons, List.foldl_cons, he, List.foldl_map]

theorem minS_top (x : Word) : minS 0x7FFFFFFF#32 x = x := by
  rw [← BitVec.toInt_inj, toInt_minS]
  exact min_eq_right (Int.le_of_lt_add_one x.toInt_lt)
theorem maxS_bottom (x : Word) : maxS 0x80000000#32 x = x := by
  rw [← BitVec.toInt_inj, toInt_maxS]
  exact max_eq_right x.le_toInt

section

variable {act : Mask} {l : Nat} (hl : act.getLsbD l = true) (val : Nat → Word)
include hl

theorem redadd_eq : reduceLanes act (fun x y => x + y) val =
    BitVec.ofNat 32 ((((lanesOf act).map val).map BitVec.toNat).sum) :=
  (reduceLanes_eq_foldl BitVec.zero_add hl val).trans (foldl_add_eq_sum id _)
theorem redmin_eq : reduceLanes act minS val = trunc32 ((((lanesOf act).map val).map BitVec.toInt).foldl min (2 ^ 31 - 1)) :=
  (reduceLanes_eq_foldl minS_top hl val).trans (foldl_toInt toInt_minS _ _)
theorem redmax_eq : reduceLanes act maxS val = trunc32 ((((lanesOf act).map val).map BitVec.toInt).foldl max (-(2 ^ 31))) :=
  (reduceLanes_eq_foldl maxS_bottom hl val).trans (foldl_toInt toInt_maxS _ _)
theorem redand_eq : reduceLanes act (fun x y => x &&& y) val =
    maskOf (fun k => ((lanesOf act).map val).all (fun x => x.getLsbD k)) :=
  (reduceLanes_eq_foldl (fun _ => BitVec.allOnes_and) hl val).trans (foldl_and_eq _)
theorem redor_eq : reduceLanes act (fun x y => x ||| y) val =
    maskOf (fun k => ((lanesOf act).map val).any (fun x => x.getLsbD k)) :=
  (reduceLanes_eq_foldl (fun _ => BitVec.zero_or) hl val).trans (foldl_or_eq _)
theorem redxor_eq : reduceLanes act (fun x y => x ^^^ y) val =
    maskOf (fun k => ((lanesOf act).map val).countP (fun x => x.getLsbD k) % 2 == 1) :=
  (reduceLanes_eq_foldl (fun _ => BitVec.zero_xor) hl val).trans (foldl_xor_eq _)

end

theorem scanBelow_eq (act : Mask) (val : Nat → Word) (l : Nat) : scanBelow act val l =
    BitVec.ofNat 32 ((((lanesOf act).filter (fun k => decide (k < l))).map (fun k => (val k).toNat)).sum) := by
  rw [← foldl_add_eq_sum, List.foldl_filter]
  simp only [scanBelow, decide_eq_true_eq]

/-! ## Classes (R188) -/

/-- The significand of a zero encoding is 0. -/
theorem value_of_mag_zero {F : FFmt} {x m : Nat} {neg : Bool} {e : Int} (h : F.value x = .fin neg m e) (hx : x % 2 ^ F.magBits = 0) :
    m = 0 := by
  unfold FFmt.value at h
  simp only [hx, Nat.zero_div, Nat.zero_mod, if_true] at h
  split at h
  · split at h <;> cases h
  · cases h
    rfl

theorem subnormal_iff {F : FFmt} {x : Nat} (hx : x % 2 ^ F.magBits ≠ 0) :
    F.subnormal x = true ↔ x % 2 ^ F.magBits < 2 ^ F.fracBits := by simp [FFmt.subnormal, hx]

/-- FCLASS numbers the classes as Table 8.5 does. -/
theorem classF_eq (x : Word) : classF x = BitVec.ofNat 32 (2 ^ classBit x) := by
  cases hval : fp32.value x.toNat with
  | nan sig =>
    simp only [classF, classBit, hval]
    cases sig <;> rfl
  | inf neg =>
    simp only [classF, classBit, hval]
    cases x.getLsbD 31 <;> rfl
  | fin neg m e =>
    simp only [classF, classBit, hval]
    by_cases hm : m = 0
    · rw [if_pos hm, if_pos hm]
      cases x.getLsbD 31 <;> rfl
    · have hsub : fp32.subnormal x.toNat = true ↔ x.toNat % 2 ^ 31 < 2 ^ 23 :=
        subnormal_iff fun hmag => hm (value_of_mag_zero hval hmag)
      rw [if_neg hm, if_neg hm, if_congr hsub rfl rfl]
      cases x.getLsbD 31 <;> split <;> rfl

end Sys2Proof.Claims
end
section
/-! # The lane forms -/

namespace Sys2Proof.Claims

open Sys2Proof Sys2Proof.Machine

variable {s : State} {i : Instr} {n : Bool} {d : VDst}

/-- Tables 8.5 and 8.8: in each active lane, each form's result is the manual's. -/
theorem exec_of_laneRule {f : Mask → Wave → Nat → Word} (h : laneRule i = some (n, d, f)) (s : State) :
    ∃ g, exec i s = alu32 i n d g s ∧ ∀ l, s.active.getLsbD l = true → g s.src l = f s.active s.src l := by
  unfold laneRule at h
  dsimp only at h
  split at h
  all_goals cases h
  · exact ⟨_, rfl, fun _ _ => classF_eq _⟩                          -- FCLASS
  · exact ⟨_, rfl, fun _ _ => by rw [count5_eq]⟩                    -- SHFL
  · exact ⟨_, rfl, fun _ _ => by simp only [count5_eq, ← not_le, ite_not]⟩ -- SHFLUP
  · exact ⟨_, rfl, fun _ _ => by simp only [count5_eq, ← not_le, ite_not]⟩ -- SHFLDN
  · exact ⟨_, rfl, fun _ _ => by rw [count5_eq]⟩                    -- SHFLX
  · exact ⟨_, rfl, fun _ _ => vany_eq ..⟩                           -- VANY
  · exact ⟨_, rfl, fun _ _ => vall_eq ..⟩                           -- VALL
  · exact ⟨_, rfl, fun _ _ => matchEq_eq ..⟩                        -- MATCH
  · exact ⟨_, rfl, fun _ hl => bellwether_eq hl⟩                    -- ELECT
  · exact ⟨_, rfl, fun _ hl => redadd_eq hl _⟩                      -- REDADD
  · exact ⟨_, rfl, fun _ hl => redmin_eq hl _⟩                      -- REDMIN
  · exact ⟨_, rfl, fun _ hl => redmax_eq hl _⟩                      -- REDMAX
  · exact ⟨_, rfl, fun _ hl => redand_eq hl _⟩                      -- REDAND
  · exact ⟨_, rfl, fun _ hl => redor_eq hl _⟩                       -- REDOR
  · exact ⟨_, rfl, fun _ hl => redxor_eq hl _⟩                      -- REDXOR
  · exact ⟨_, rfl, fun _ _ => rfl⟩                                  -- MTOV
  · exact ⟨_, rfl, fun _ _ => scanBelow_eq ..⟩                      -- PREFIXADD

/-- A 32-bit result is what it is in the active lanes. -/
theorem only_result32_of_active {g : Wave → Nat → Word} {v : Nat → Word} (h : ∀ l, s.active.getLsbD l = true → g s.src l = v l) :
    Only s (s.result32 n d g) (fun w => w.advanced s (fun l x =>
      (if n then x else s.give32 d l (v l) x).latched ((v l).setWidth 64) false)) :=
  (only_result32 s n d g).congr fun _ => lanesBy_congr fun l hl => by simp only [h l hl]

/-! ## ELECTS (R196, R159) -/

/-- The lanes that ELECTS puts to sleep are the active ones but the lowest. -/
theorem sleepUnder_eq {act : Mask} {b : Fin 32} (hb : lowestLane act = some b.val) (w : Wave) :
    w.sleepUnder act = w.lanesBy act (fun l x => if l = b.val then x else { x with state := .sleeper b }) := by
  have hlow : (⟨b.val % 32, Nat.mod_lt _ (by decide)⟩ : Fin 32) = b := Fin.ext (Nat.mod_eq_of_lt b.isLt)
  simp only [Wave.sleepUnder, hb, Wave.modLanes, Wave.lanesBy, hlow]
  congr 1
  refine List.mapIdx_eq_mapIdx_iff.mpr fun l _ => ?_
  rw [BitVec.getLsbD_and, BitVec.getLsbD_not, one_shl_getLsbD b.isLt]
  cases hact : act.getLsbD l with
  | false => simp
  | true => by_cases hl : l = b.val <;> simp [hl, BitVec.lt_of_getLsbD hact]

/-- The lowest active lane is elected. -/
theorem bellwether_of_lowest {act : Mask} {b : Nat} (hb : lowestLane act = some b) (l : Nat) :
    bellwether act l = if l = b then 1#32 else 0#32 := by
  rw [bellwether, hb]
  exact if_congr (Option.some_inj.trans eq_comm) rfl rfl

/-- Settles O4: each form has the manual's result in the active lanes (`exec_of_laneRule`), where alone it is delivered; ELECTS
delivers who is elected and then puts the others to sleep (`sleepUnder_eq`). -/
theorem laneResults : Obligations.LaneResults := by
  unfold Obligations.LaneResults
  constructor
  · intro i s n d f hi hp
    obtain ⟨g, hexec, hg⟩ := exec_of_laneRule hi s
    exact ⟨_, hexec.trans (hp.plain _), only_result32_of_active hg⟩
  · intro n d s b hp hb
    have hdeliver := only_result32_of_active (s := s) (n := n) (d := d) (g := fun _ l => bellwether s.active l)
      fun l _ => bellwether_of_lowest hb l
    refine ⟨_, hp.plain fun s => (s.result32 n d (fun _ l => bellwether s.active l)).modCur (fun w => w.sleepUnder s.active),
      (hdeliver.trans (Only.modCur _ _)).congr fun w => ?_⟩
    rw [sleepUnder_eq hb]
    simp only [apply_ite (BitVec.setWidth 64)]
    rfl

end Sys2Proof.Claims
end

section
/-! # A reduction whose release ends the grid of another drove

`Obligations.GlobalAtomics` has the entries that RED leaves in the side log name the context of the state in which it issues. The
model takes the context anew after the release. A paddock access that the release carries out may meet lost data and end the
grid that the wave's workgroup finds by the number of its drove; where no table lists that drove, the wave itself stays, and its
context is no longer the one it had. -/

namespace Sys2Proof.Claims

open Sys2Proof Sys2Proof.Machine

/-- How the reduction acts: an ADD that releases at group scope. -/
def releasingAdd : AtomMod := ⟨.add, .rel, .group, .normal, 0#16⟩

/-- RED.ADD of zero to word 0 of q0. -/
def releasingRed : Instr := .red 0 releasingAdd .zero .zero

/-- A load by the wave in slot 0 of a word in the pen of workgroup 5. -/
def lostPadLoad : PadAcc := ⟨0, 0, 0, 5, 4, false, false, [(0, 0, [])], none, false⟩

/-- The wave in slot 0, one lane of which issues, with q0 four bytes at VA 0. Its workgroup 0 and drove 0 are in no table, so that
it is of grid 0, of context 1, in which VA 0 lies in a page under maintenance. Its paddock load reads a lost word. -/
def droveless : State :=
  { State.reset with
    waves := [(0, { Wave.blank with q := [BitVec.ofNat 128 (4 * 2 ^ 68)] })]
    wgs := [(5, { Workgroup.blank with penPoison := [0] })]
    grids := [(0, { Grid.blank with ctx := 1 })]
    cores := [(0, { Core.init with paddock := [lostPadLoad] })]
    blockedWalks := [(1, 0)]
    iss := { Issue.init with lanes := 1#32 } }

/-- The word that the lane adds to, whose page is absent and waited for. -/
def drovelessAccess : Access := ⟨0, 4, true, [⟨0, true, 0⟩]⟩

theorem elems_droveless : elemsOf (Rec.ofBits (droveless.src.qreg 0)) droveless.active 0 4 (fun l => droveless.src.v32 l .zero) =
    [⟨0, true, 0⟩] := by
  decide +kernel

theorem accessRule_droveless : accessRule releasingRed droveless = some drovelessAccess :=
  congrArg (fun es => some (⟨0, 4, true, es⟩ : Access)) elems_droveless

theorem passes_droveless : Passes releasingRed droveless where
  encoding := by decide
  privilege := fun h => absurd h (by decide)
  window := by decide
  latch := fun _ _ _ k hk => absurd hk (by rw [show releasingRed.named.ls = [] from rfl]; exact List.not_mem_nil)

theorem lawful_droveless : ¬ badRecord (droveless.src.qreg 0) := by unfold badRecord; decide +kernel

theorem fits_droveless : drovelessAccess.Fits droveless where
  rights := by decide +kernel
  bounds := by decide
  aligned := by decide
  below := by decide

theorem page_droveless : drovelessAccess.page droveless ⟨0, true, 0⟩ = .absent := by decide +kernel

theorem stored_droveless : drovelessAccess.Stored droveless where
  pages := by
    intro e he _
    obtain rfl := List.mem_singleton.1 he
    exact .inr ⟨page_droveless, by decide +kernel⟩
  settled := by
    intro e he _ hpresent
    obtain rfl := List.mem_singleton.1 he
    exact absurd page_droveless hpresent
  room := by decide +kernel

theorem reached_droveless : drovelessAccess.reached droveless = [] := by decide +kernel

/-- What the release leaves. -/
theorem droveless_released : Stays droveless (releasedAt droveless Scope.group.code) ∧
    (releasedAt droveless Scope.group.code).releaseWaits droveless.curWg .group = false := by
  unfold Stays
  decide +kernel

/-- The wave issues in context 1. -/
theorem curCtx_droveless : droveless.curCtx = 1 := by decide +kernel

/-- What RED.ADD answers. -/
def drovelessRed : State :=
  droveless.atomic 0 releasingAdd .zero (fun l => (droveless.src.redOperand l .add .zero, 0)) false (fun _ absent t =>
    (t.sideLogAdd 0 absent (some .add) (Rec.ofBits (droveless.src.qreg 0)).xdata
      (fun l => bytesOfNat 4 (droveless.src.redOperand l .add .zero))).adv)

theorem exec_droveless : exec releasingRed droveless = .next drovelessRed := by
  change execRed 0 releasingAdd .zero .zero droveless = _
  exact recForm_passes passes_droveless lawful_droveless

/-- The one entry it leaves in the side log is of context 0, that of a grid in no table. -/
theorem sideLog_drovelessRed : (drovelessRed.core 0).sideLog.map SideEntry.ctx = [0] := by decide +kernel

/-- Refutes O32: the entry of `drovelessRed` is of context 0, where the statement has it of context 1, that of the wave as the
instruction issues. Droves of the model's waves are in their table, so that no such state comes about from reset; the statement is
about every state. -/
theorem not_globalAtomics : ¬ Obligations.GlobalAtomics := by
  unfold Obligations.GlobalAtomics
  intro h
  obtain ⟨-, hred, -⟩ := h releasingRed droveless drovelessAccess releasingAdd accessRule_droveless passes_droveless lawful_droveless
    fits_droveless stored_droveless rfl
  simp only [reached_droveless] at hred
  obtain ⟨t, ht, -, -, -, hlog, -⟩ := hred 0 .zero .zero rfl (fun _ => droveless_released) ⟨by simp, by simp⟩
  obtain rfl : drovelessRed = t := Host.Outcome.next.inj (exec_droveless.symm.trans ht)
  have hctx : droveless.curCtx ∈ (drovelessRed.core 0).sideLog.map SideEntry.ctx := by
    rw [show (0 : Nat) = droveless.curCore from rfl, hlog, List.map_append, List.mem_append]
    exact .inr (by decide +kernel)
  rw [sideLog_drovelessRed, curCtx_droveless] at hctx
  exact absurd hctx (by decide)

end Sys2Proof.Claims
end

section
/-! # A store that finds the buffers full and one byte buffered twice

`Obligations.RecordStores` has a store leave every byte but its own as the workgroup sees it. Where the buffers of a core are full the
workgroup's own buffer commits first (R87), and of a byte that it lists twice the last entry stands then, where the workgroup
has read the first. Stores of the model enter the buffer by `tabSet`, which keeps its addresses rising; `RecordStores` asks no such
thing of the buffer. -/

namespace Sys2Proof.Claims

open Sys2Proof Sys2Proof.Machine

/-- ST of a zero word through q0. -/
def zeroStore : Instr := .st 0 .w4 (.short .normal) .zero .zero

/-- One lane of the wave in slot 0 issues, with q0 four bytes at VA 0x10000 in a page of 512 MiB that is mapped to frame 0. Its
workgroup 0 has the byte at 0x20000 in its buffer twice, as 1 and as 2; 32 other workgroups of the core have 16 lines each in
theirs. -/
def fullBuffers : State :=
  { State.reset with
    mem := [(0, 1#8), (9, 0x40#8), (0x4000, 11#8)]
    waves := [(0, { Wave.blank with q := [BitVec.ofNat 128 (0x10000 + 4 * 2 ^ 68)] })]
    wgs := (0, { Workgroup.blank with sbuf := [(0x20000, 1#8), (0x20000, 2#8)] }) ::
      (List.range 32).map (fun g => (g + 1, { Workgroup.blank with sbuf := (List.range 16).map (fun i => (128 * i, 0#8)) }))
    iss := { Issue.init with lanes := 1#32 } }

/-- The word that the lane stores to. -/
def fullBuffersAccess : Access := ⟨0, 4, true, [⟨0, true, 0x10000⟩]⟩

theorem elems_fullBuffers : elemsOf (Rec.ofBits (fullBuffers.src.qreg 0)) fullBuffers.active 0 4 (fun l => fullBuffers.src.v32 l .zero) =
    [⟨0, true, 0x10000⟩] := by
  decide +kernel

theorem accessRule_fullBuffers : accessRule zeroStore fullBuffers = some fullBuffersAccess :=
  congrArg (fun es => some (⟨0, 4, true, es⟩ : Access)) elems_fullBuffers

theorem passes_fullBuffers : Passes zeroStore fullBuffers where
  encoding := by decide
  privilege := fun h => absurd h (by decide)
  window := by decide
  latch := fun _ _ _ k hk => absurd hk (by rw [show zeroStore.named.ls = [] from rfl]; exact List.not_mem_nil)

theorem lawful_fullBuffers : ¬ badRecord (fullBuffers.src.qreg 0) := by unfold badRecord; decide +kernel

theorem fits_fullBuffers : fullBuffersAccess.Fits fullBuffers where
  rights := by decide +kernel
  bounds := by decide
  aligned := by decide
  below := by decide

theorem page_fullBuffers : fullBuffersAccess.page fullBuffers ⟨0, true, 0x10000⟩ = .ok 0x10000 11 ⟨0, 0, 2 ^ 29, 11, 0x4000⟩ := by
  decide +kernel

theorem stored_fullBuffers : fullBuffersAccess.Stored fullBuffers where
  pages := by
    intro e he _
    obtain rfl := List.mem_singleton.1 he
    exact .inl ⟨_, _, _, page_fullBuffers⟩
  settled := by
    intro e he _ _
    obtain rfl := List.mem_singleton.1 he
    decide +kernel
  room := by decide +kernel

theorem atHome_fullBuffers : atHome fullBuffers := by unfold atHome; decide +kernel

/-- What the store answers. -/
def fullBuffersStored : State := fullBuffers.recordStore 0 .w4 0 .zero .zero State.adv

theorem exec_fullBuffers : exec zeroStore fullBuffers = .next fullBuffersStored := by
  change execSt 0 .w4 (.short .normal) .zero .zero fullBuffers = _
  exact recForm_passes passes_fullBuffers lawful_fullBuffers

/-- The workgroup reads the first entry before the store. -/
theorem viewByte_seen_fullBuffers : (fullBuffersAccess.seen fullBuffers).viewByte 0 0 0x20000 = 1#8 := by decide +kernel

/-- What it has committed for the store holds the last. -/
theorem viewByte_fullBuffersStored : fullBuffersStored.viewByte 0 0 0x20000 = 2#8 := by decide +kernel

/-- Refutes O28: of a byte its buffer holds twice, a workgroup sees 1 before a store elsewhere and 2 after it. -/
theorem not_recordStores : ¬ Obligations.RecordStores := by
  unfold Obligations.RecordStores
  rintro ⟨hst, -⟩
  obtain ⟨t, ht, hstored⟩ := hst fullBuffers fullBuffersAccess 0 .w4 (.short .normal) .zero .zero accessRule_fullBuffers
    passes_fullBuffers lawful_fullBuffers fits_fullBuffers atHome_fullBuffers stored_fullBuffers
  obtain rfl : fullBuffersStored = t := Host.Outcome.next.inj (exec_fullBuffers.symm.trans ht)
  have helsewhere : lastAt (fullBuffersAccess.cells fullBuffers (storeBytes fullBuffers .w4 .zero))
      ((fullBuffersAccess.seen fullBuffers).homeOf 0x20000) = none := by decide +kernel
  have hseen := hstored.seen 0x20000
  rw [helsewhere] at hseen
  have hsame : (2#8 : Byte) = 1#8 := calc
    2#8 = fullBuffersStored.viewByte 0 0 0x20000 := viewByte_fullBuffersStored.symm
    _ = (fullBuffersAccess.seen fullBuffers).viewByte 0 0 0x20000 := hseen
    _ = 1#8 := viewByte_seen_fullBuffers
  exact absurd hsame (by decide)

end Sys2Proof.Claims
end

section
/-! # Releases and fences -/

namespace Sys2Proof.Claims

open Sys2Proof Sys2Proof.Machine

variable {s : State}

/-! ## A wave held, and a wave that goes on -/

theorem only_retry (s : State) (st : LaneState) :
    Only s (s.retry st) (fun w => (s.iss.start.getD w).lanesBy s.active (fun _ x => { x with state := st })) := Only.modCur s _

theorem only_advanced (s : State) : Only s s.adv (fun w => w.advanced s sameLane) := (Only.refl s).advAfter

/-! ## Releases (R91) -/

theorem release_eq (s : State) (c : Scope) : s.release s.curWg c = releasedAt s c.code := by
  unfold State.release State.releaseCode releasedAt
  by_cases h : 3 ≤ c.code
  · simp only [if_pos h, if_neg (Nat.not_lt.2 h)]
  · simp only [if_neg h, if_pos (Nat.lt_of_not_le h)]

theorem stillHere_of_stays {v : State} (h : Stays s v) (eff : State → State) : v.stillHere s.iss.key eff = eff v := if_pos h

theorem stillHere_of_gone {v : State} (h : ¬ Stays s v) (eff : State → State) : v.stillHere s.iss.key eff = v := if_neg h

/-- A release that nothing holds is followed by what comes after it. -/
theorem releasing_of_complete {c : Scope} (hs : Stays s (releasedAt s c.code))
    (hw : (releasedAt s c.code).releaseWaits s.curWg c = false) (eff : State → State) :
    s.releasing c eff = eff (releasedAt s c.code) := by
  rw [State.releasing, release_eq, stillHere_of_stays hs, hw]
  rfl

/-- A release that something holds leaves the lanes at the instruction. -/
theorem releasing_of_held {c : Scope} (hs : Stays s (releasedAt s c.code))
    (hw : (releasedAt s c.code).releaseWaits s.curWg c = true) (eff : State → State) :
    s.releasing c eff = (releasedAt s c.code).retry .stalled := by
  rw [State.releasing, release_eq, stillHere_of_stays hs, hw]
  rfl

theorem releasing_of_gone {c : Scope} (hs : ¬ Stays s (releasedAt s c.code)) (eff : State → State) :
    s.releasing c eff = releasedAt s c.code := by
  rw [State.releasing, release_eq, stillHere_of_gone hs]

/-! ## Fences (R216, R217) -/

theorem fenceAcq_spec (c : Scope) (s : State) (hp : Passes (.fenceAcq c) s) :
    let u := if c = .lane then s else s.padAll s.curWg
    (Stays s u → ∃ t, exec (.fenceAcq c) s = .next t ∧ Only u t (fun w => w.advanced u sameLane)) ∧
    (¬ Stays s u → exec (.fenceAcq c) s = .next u) := by
  intro u
  have hexec : exec (.fenceAcq c) s = .next (u.stillHere s.iss.key State.adv) := by
    have hlane : (c.code = 0) = (c = .lane) := by cases c <;> decide
    change execFenceAcq c s = _
    rw [execFenceAcq, hp.plain]
    simp only [hlane]
    rfl
  rw [hexec]
  refine ⟨fun hs => ⟨u.adv, ?_, only_advanced u⟩, fun hs => ?_⟩
  · rw [stillHere_of_stays hs]
  · rw [stillHere_of_gone hs]

/-- A fence that releases at its scope. -/
theorem releasingFence_spec {i : Instr} {c : Scope} (hexec : exec i s = .next (s.releasing c State.adv)) :
    let u := releasedAt s c.code
    (Stays s u → u.releaseWaits s.curWg c = false → ∃ t, exec i s = .next t ∧ Only u t (fun w => w.advanced u sameLane)) ∧
    (Stays s u → u.releaseWaits s.curWg c = true → ∃ t, exec i s = .next t ∧
      Only u t (fun w => (u.iss.start.getD w).lanesBy u.active (fun _ x => { x with state := .stalled }))) ∧
    (¬ Stays s u → exec i s = .next u) := by
  intro u
  rw [hexec]
  refine ⟨fun hs hw => ⟨u.adv, ?_, only_advanced u⟩, fun hs hw => ⟨u.retry .stalled, ?_, only_retry u .stalled⟩, fun hs => ?_⟩
  · rw [releasing_of_complete hs hw]
  · rw [releasing_of_held hs hw]
  · rw [releasing_of_gone hs]

theorem exec_releasingFence {i : Instr} {c : Scope} (hi : i = .fenceRel c ∨ i = .fenceAr c ∨ i = .fenceSc c) (hp : Passes i s) :
    exec i s = .next (s.releasing c State.adv) := by
  rcases hi with rfl | rfl | rfl
  · change execFenceRel c s = _
    exact hp.plain _
  · change execFenceAr c s = _
    exact hp.plain _
  · change execFenceSc c s = _
    exact hp.plain _

/-- What FENCE.RO drops of a core's path and weight cache, `own` the lines its workgroup has written. -/
def roDropped (wide : Prop) [Decidable wide] (own : List Nat) (k : Core) : Core :=
  if wide then { k with path := [], weights := [] } else { k with path := k.path.filter (fun l => !own.contains l.1) }

theorem dropPathOf_eq (u : State) (wg : Nat) (c : Scope) : u.dropPathOf wg c =
    { u with
      cores := tabSet u.cores (u.wg wg).core (roDropped (3 ≤ c.code) (u.wg wg).roTouched (u.core (u.wg wg).core))
      wgs := tabMod u.wgs wg (fun g => { g with roTouched := [], roSeen := g.sbuf }) } := rfl

theorem fencero_spec (c : Scope) (s : State) (hp : Passes (.fencero c) s) :
    let wide := c ∉ [Scope.lane, Scope.wave, Scope.group]
    let u := if wide then s.padAll s.curWg else s
    let core := (u.wg u.curWg).core
    let dropped := fun (k : Core) => if wide then { k with path := [], weights := [] }
      else { k with path := k.path.filter (fun l => !(u.wg u.curWg).roTouched.contains l.1) }
    (Stays s u → ∃ t, exec (.fencero c) s = .next t ∧ Only { u with
        cores := tabSet u.cores core (dropped (u.core core))
        wgs := tabMod u.wgs u.curWg (fun g => { g with roTouched := [], roSeen := g.sbuf }) } t
      (fun w => w.advanced u sameLane)) ∧
    (¬ Stays s u → exec (.fencero c) s = .next u) := by
  intro wide u core dropped
  have hwide : (3 ≤ c.code) = wide := by cases c <;> decide
  have hexec : exec (.fencero c) s = .next (u.stillHere s.iss.key (fun t => (t.dropPathOf t.curWg c).adv)) := by
    change execFencero c s = _
    rw [execFencero, hp.plain]
    simp only [hwide]
    rfl
  rw [hexec]
  refine ⟨fun hs => ⟨(u.dropPathOf u.curWg c).adv, ?_, ?_⟩, fun hs => ?_⟩
  · rw [stillHere_of_stays hs]
  · rw [dropPathOf_eq]
    simp only [hwide]
    exact only_advanced _
  · rw [stillHere_of_gone hs]

/-- Settles O33: each fence is a release or a load of what stands before it, and then its lanes go on. -/
theorem fencesRelease : Obligations.FencesRelease := by
  unfold Obligations.FencesRelease
  exact ⟨fenceAcq_spec, fun c s i hi hp => releasingFence_spec (exec_releasingFence hi hp), fencero_spec⟩

end Sys2Proof.Claims
end

section
/-! # What a load through a record reads

The walks of an access leave marks in memory, on the cached entries and on the memory dies alone (`Walked`), so that the issue and
the tables of waves, workgroups, droves and grids read as before. An access whose elements fit, are mapped and sound goes on with
every element in bounds and its translation (`reading_of_sound`). -/

namespace Sys2Proof.Claims

open Sys2Proof Sys2Proof.Machine

variable {s t : State} {a : Access}

/-! ## What walks leave -/

/-- `t` differs from `s` in memory with what a write of it brings, in the cores and in the memory dies alone. -/
def Walked (s t : State) : Prop :=
  { t with
    mem := s.mem
    old := s.old
    tethers := s.tethers
    freed := s.freed
    wakes := s.wakes
    cores := s.cores
    dies := s.dies } = s

theorem Walked.refl (s : State) : Walked s s := rfl

theorem Walked.trans {u : State} (h : Walked s t) (k : Walked t u) : Walked s u := by
  unfold Walked at *
  rw [← h, ← k]

theorem Walked.foldl {α : Type} {f : State → α → State} (hf : ∀ t x, Walked t (f t x)) (l : List α) (s : State) :
    Walked s (l.foldl f s) := List.foldlRecOn l f (.refl s) fun t k x _ => k.trans (hf t x)

theorem Walked.waves (h : Walked s t) : t.waves = s.waves := by rw [← h]
theorem Walked.iss (h : Walked s t) : t.iss = s.iss := by rw [← h]
theorem Walked.wgs (h : Walked s t) : t.wgs = s.wgs := by rw [← h]
theorem Walked.droves (h : Walked s t) : t.droves = s.droves := by rw [← h]
theorem Walked.grids (h : Walked s t) : t.grids = s.grids := by rw [← h]
theorem Walked.fresh (h : Walked s t) : t.fresh = s.fresh := by rw [← h]

theorem walked_touch (s : State) (core : Nat) (x : TlbEntry) (write : Bool) : Walked s (s.touch core x write) := by
  unfold State.touch State.orLeaf
  extract_lets
  split <;> rfl

theorem walked_touchAll (s : State) (core : Nat) (write : Bool) (ts : List Trans) : Walked s (s.touchAll core write ts) :=
  .foldl (fun t x => match x with
    | .ok _ _ x => walked_touch t core x write
    | .absent | .denied | .malformed _ => .refl t) ts s

theorem walked_hotCount (s : State) (core : Nat) (pas : List Nat) : Walked s (s.hotCount core pas) := by
  unfold State.hotCount
  split <;> rfl

theorem walked_pathFill (s : State) (core line : Nat) : Walked s (s.pathFill core line) := by
  unfold State.pathFill
  extract_lets
  split <;> rfl

theorem walked_seen (s : State) (a : Access) : Walked (oobNoted s a) (a.seen s) :=
  (walked_touchAll ..).trans (walked_hotCount ..)

/-! ## The issuing wave once out-of-bounds elements are noted -/

theorem oobNoted_eq (s : State) (a : Access) : ∃ f : Wave → Wave, oobNoted s a = s.modCur f ∧
    ∀ w, (f w).wg = w.wg ∧ (f w).wb = w.wb := by
  unfold oobNoted
  split
  · exact ⟨_, rfl, fun _ => ⟨rfl, rfl⟩⟩
  · exact ⟨fun w => w, by rw [State.modCur, State.modWave, tabMod_id], fun _ => ⟨rfl, rfl⟩⟩

theorem oobNoted_iss (s : State) (a : Access) : (oobNoted s a).iss = s.iss := by
  obtain ⟨f, hf, -⟩ := oobNoted_eq s a
  rw [hf]
  rfl

theorem oobNoted_fresh (s : State) (a : Access) : (oobNoted s a).fresh = s.fresh := by
  obtain ⟨f, hf, -⟩ := oobNoted_eq s a
  rw [hf]
  rfl

theorem oobNoted_curWg (s : State) (a : Access) : (oobNoted s a).curWg = s.curWg := by
  obtain ⟨f, hf, hkeep⟩ := oobNoted_eq s a
  rw [hf]
  exact (Only.modCur s f).curKeeps Wave.wg fun w => (hkeep w).1

theorem oobNoted_curCtx (s : State) (a : Access) : (oobNoted s a).curCtx = s.curCtx := by
  have hwg : (oobNoted s a).cur.wg = s.cur.wg := oobNoted_curWg s a
  obtain ⟨f, hf, -⟩ := oobNoted_eq s a
  unfold State.curCtx
  rw [hwg, hf]
  rfl

theorem Walked.cur (h : Walked s t) : t.cur = s.cur := by
  unfold State.cur State.wave
  rw [h.iss, h.waves]
theorem Walked.src (h : Walked s t) : t.src = s.src := by
  unfold State.src
  rw [h.iss, h.cur]
theorem Walked.active (h : Walked s t) : t.active = s.active := congrArg Issue.lanes h.iss
theorem Walked.curCore (h : Walked s t) : t.curCore = s.curCore := congrArg (fun i : Issue => keyCore i.key) h.iss
theorem Walked.curWg (h : Walked s t) : t.curWg = s.curWg := congrArg Wave.wg h.cur
theorem Walked.curCtx (h : Walked s t) : t.curCtx = s.curCtx := by
  unfold State.curCtx State.wgCtx State.wgGrid State.wg State.drove State.grid
  rw [h.cur, h.wgs, h.droves, h.grids]

theorem seen_iss (a : Access) (s : State) : (a.seen s).iss = s.iss := (walked_seen s a).iss.trans (oobNoted_iss s a)
theorem seen_fresh (a : Access) (s : State) : (a.seen s).fresh = s.fresh := (walked_seen s a).fresh.trans (oobNoted_fresh s a)
theorem seen_active (a : Access) (s : State) : (a.seen s).active = s.active := congrArg Issue.lanes (seen_iss a s)
theorem seen_curCore (a : Access) (s : State) : (a.seen s).curCore = s.curCore := congrArg (fun i : Issue => keyCore i.key) (seen_iss a s)
theorem seen_curWg (a : Access) (s : State) : (a.seen s).curWg = s.curWg := (walked_seen s a).curWg.trans (oobNoted_curWg s a)
theorem seen_curCtx (a : Access) (s : State) : (a.seen s).curCtx = s.curCtx := (walked_seen s a).curCtx.trans (oobNoted_curCtx s a)

/-! ## A result owed -/

theorem owing_congr (h : t.iss = s.iss) (o : Owed) : owing t o = owing s o := by
  unfold owing Wave.advanced State.active
  rw [h]

theorem advanced_congr (h : t.iss = s.iss) (w : Wave) (f : Nat → Lane → Lane) : w.advanced t f = w.advanced s f := by
  unfold Wave.advanced State.active
  rw [h]

/-- A result owed to the active lanes of a state that has come of `s` within the issue, and the lanes at next_pc. -/
theorem only_owe_owing (h : t.iss = s.iss) (kind : OwedKind) (dest : OwedDest) (data : Tab (List Word)) (acq : Bool) :
    Only { t with fresh := t.fresh + 1 } (t.owe kind dest t.active data 0 0#32 acq).adv (owing s (slot t kind dest data acq)) := by
  rw [← owing_congr h]
  exact (Only.modCur { t with fresh := t.fresh + 1 } _).advAfter

/-! ## The elements reached -/

theorem page_not_absent (hm : a.Mapped s) {e : Elem} (he : e ∈ a.es.filter Elem.inb) : (a.page s e).isAbsent = false := by
  obtain ⟨hmem, hin⟩ := List.mem_filter.1 he
  obtain ⟨pa, leaf, x, hok⟩ := hm.pages e hmem hin
  rw [hok]
  rfl

/-- Of a mapped access every element in bounds is reached. -/
theorem reached_of_mapped (hm : a.Mapped s) : a.reached s = (a.es.filter Elem.inb).map (fun e => (e, a.page s e)) := by
  refine List.filter_eq_self.2 fun y hy => ?_
  obtain ⟨e, he, rfl⟩ := List.mem_map.1 hy
  simp only [page_not_absent hm he, Bool.not_false]

theorem mem_reached {y : Elem × Trans} (hy : y ∈ a.reached s) : y.1 ∈ a.es ∧ y.1.inb = true ∧ y.2 = a.page s y.1 := by
  obtain ⟨e, he, rfl⟩ := List.mem_map.1 (List.mem_of_mem_filter hy)
  obtain ⟨hmem, hin⟩ := List.mem_filter.1 he
  exact ⟨hmem, hin, rfl⟩

/-- Elements whose pages all allow the access are all reached. -/
theorem reach_of_pages {n : Need} {es : List Elem}
    (h : ∀ e ∈ es, e.inb = true → ∃ pa leaf x, s.translate s.curCore s.curCtx e.a n = .ok pa leaf x) (q : Nat) :
    s.reach q n es = .all ((es.filter Elem.inb).map (fun e => (e, s.translate s.curCore s.curCtx e.a n))) := by
  have hrefused : ((es.filter Elem.inb).map (fun e => (e, s.translate s.curCore s.curCtx e.a n))).filter
      (s.refusedElem s.curCtx) = [] := by
    refine List.filter_eq_nil_iff.2 fun y hy => ?_
    obtain ⟨e, he, rfl⟩ := List.mem_map.1 hy
    obtain ⟨hmem, hin⟩ := List.mem_filter.1 he
    obtain ⟨pa, leaf, x, hok⟩ := h e hmem hin
    simp [State.refusedElem, hok]
  have habsent : ((es.filter Elem.inb).map (fun e => (e, s.translate s.curCore s.curCtx e.a n))).filter
      (fun x => x.2.isAbsent) = [] := by
    refine List.filter_eq_nil_iff.2 fun y hy => ?_
    obtain ⟨e, he, rfl⟩ := List.mem_map.1 hy
    obtain ⟨hmem, hin⟩ := List.mem_filter.1 he
    obtain ⟨pa, leaf, x, hok⟩ := h e hmem hin
    simp [hok, Trans.isAbsent]
  simp only [State.reach, hrefused, habsent, List.map_nil, List.isEmpty_nil, if_true]

/-- A mapped access reaches all of its elements in bounds. -/
theorem reach_of_mapped (hm : a.Mapped s) (q : Nat) : s.reach q (a.need s) a.es = .all (a.reached s) := by
  rw [reach_of_pages hm.pages, reached_of_mapped hm]
  rfl

/-- A load that passes the checks of its elements goes on once they are mapped and sound. -/
theorem reading_of_checked {q kind : Nat} {r : Rec} {eff : List (Elem × Trans) → State → State}
    (hc : s.checkElems r q a.w a.w a.es = none) (hs : a.store = false) (hm : a.Mapped s) (hl : a.Sound s) :
    s.reading q a.w a.w r a.es kind eff = eff (a.reached s) (((s.noteOob q a.es).touchAll s.curCore false
      ((a.reached s).map Prod.snd)).hotCount s.curCore ((a.reached s).map (fun x => x.2.pa))) := by
  have hneed : a.need s = .read := by rw [Access.need, hs]; rfl
  have hreach := reach_of_mapped hm q
  have hside : (a.reached s).any (fun x => s.sideWaits s.curCore s.curWg s.curCtx x.1.a) = false := by
    refine List.any_eq_false.2 fun y hy => ?_
    obtain ⟨hmem, hin, -⟩ := mem_reached hy
    rw [hm.settled _ hmem hin]
    exact Bool.false_ne_true
  have hlost : (a.reached s).filter (fun x => s.poisonedRead s.curCore s.curWg x.2.pa a.w) = [] := by
    refine List.filter_eq_nil_iff.2 fun y hy => ?_
    obtain ⟨hmem, hin, hpage⟩ := mem_reached hy
    rw [hpage, hl _ hmem hin]
    exact Bool.false_ne_true
  rw [hneed] at hreach
  simp only [State.reading, hc, hreach, hside, hlost, Bool.false_eq_true, if_false]

/-- The same of a load through its record. -/
theorem reading_of_sound {kind : Nat} {eff : List (Elem × Trans) → State → State} (hs : a.store = false) (hf : a.Fits s)
    (hm : a.Mapped s) (hl : a.Sound s) :
    s.reading a.q.val a.w a.w (a.record s) a.es kind eff = eff (a.reached s) (a.seen s) := by
  rw [reading_of_checked (checkElems_fits hf) hs hm hl, Access.seen, hs]
  rfl

end Sys2Proof.Claims
end

section
/-! # Records, and lines asked for -/

namespace Sys2Proof.Claims

open Sys2Proof Sys2Proof.Machine

variable {s : State}

/-! ## Records written and read as words -/

theorem natOfBytes_append (bs cs : List Byte) : natOfBytes (bs ++ cs) = natOfBytes bs + 256 ^ bs.length * natOfBytes cs := by
  induction bs with
  | nil => simp [natOfBytes]
  | cons b r ih => rw [List.cons_append, natOfBytes, natOfBytes, ih, List.length_cons, pow_succ]; ring

theorem natOfBytes_bytesOfNat (n x : Nat) : natOfBytes (bytesOfNat n x) = x % 256 ^ n := by
  induction n generalizing x with
  | zero => rw [pow_zero, Nat.mod_one]; rfl
  | succ n ih =>
    rw [bytesOfNat, natOfBytes, ih, BitVec.toNat_ofNat, pow_succ' 256 n, show (2 : Nat) ^ 8 = 256 from rfl, Nat.mod_mul]

/-- The number that words form, the first lowest. -/
def numberOfWords (ws : List Word) : Nat := ws.foldr (fun x n => x.toNat + 2 ^ 32 * n) 0

theorem recordOf_eq (ws : List Word) : recordOf ws = BitVec.ofNat 128 (numberOfWords ws) := by
  rw [recordOf, ← List.flatMap_eq_foldl]
  congr 1
  induction ws with
  | nil => rfl
  | cons x r ih =>
    rw [List.flatMap_cons, natOfBytes_append, ih, natOfBytes_bytesOfNat, length_bytesOfNat,
      Nat.mod_eq_of_lt (show x.toNat < 256 ^ 4 from x.isLt)]
    rfl

theorem toNat_append_add {v w : Nat} (x : BitVec v) (y : BitVec w) : (x ++ y).toNat = y.toNat + 2 ^ w * x.toNat := by
  rw [BitVec.toNat_append, ← Nat.shiftLeft_add_eq_or_of_lt y.isLt, Nat.shiftLeft_eq]
  ring

/-- Four words joined, the last one lowest. -/
theorem append_words (x y z w : Word) : w ++ z ++ y ++ x = BitVec.ofNat 128 (numberOfWords [x, y, z, w]) := by
  have hnum : (w ++ z ++ y ++ x).toNat = numberOfWords [x, y, z, w] := by
    rw [toNat_append_add, toNat_append_add, toNat_append_add]
    rfl
  rw [← hnum]
  rw [BitVec.ofNat_toNat]
  exact (BitVec.setWidth_eq _).symm

theorem only_putQ (s : State) (n : Nat) (x : BitVec 128) : Only s (s.putQ n x) (fun w => { w with q := giveQ s n x w.q }) := by
  unfold State.putQ giveQ
  split
  next => exact Only.refl s
  next => exact ⟨rfl, by unfold SameIssue; split <;> rfl, rfl⟩

/-- Several s registers written in turn. -/
theorem only_foldl_putS (ks : List Nat) (n : Nat → Nat) (v : Nat → Word) (s : State) :
    Only s (ks.foldl (fun t k => t.putS (n k) (v k)) s)
      (fun w => { w with s := ks.foldl (fun rs k => s.giveS (n k) (v k) rs) w.s }) := by
  induction ks generalizing s with
  | nil => exact Only.refl s
  | cons k r ih =>
    refine ((only_putS s (n k) (v k)).trans (ih _)).congr fun w => ?_
    rw [giveS_putS]
    rfl

theorem word_eq_extract (x : BitVec 128) (k : Nat) : BitVec.ofNat 32 (x.toNat / 2 ^ k) = x.extractLsb' k 32 := by
  apply BitVec.eq_of_toNat_eq
  rw [BitVec.toNat_ofNat, BitVec.extractLsb'_toNat, Nat.shiftRight_eq_div_pow]

theorem recset_spec (q : QReg) (a : SReg) (s : State) (hp : Passes (.recset q a) s) : ∃ t, exec (.recset q a) s = .next t ∧
    Only s t (fun w => { w.advanced s sameLane with
      q := giveQ s q.val (s.src.sreg (a.val + 3) ++ s.src.sreg (a.val + 2) ++ s.src.sreg (a.val + 1) ++ s.src.sreg a.val) w.q }) := by
  have hrecord : recordOf ((List.range 4).map (fun i => s.src.sreg (a.val + i))) =
      s.src.sreg (a.val + 3) ++ s.src.sreg (a.val + 2) ++ s.src.sreg (a.val + 1) ++ s.src.sreg a.val := by
    rw [recordOf_eq, append_words]
    rfl
  change ∃ t, execRecset q a s = _ ∧ _
  refine ⟨_, hp.plain _, ?_⟩
  rw [hrecord]
  exact (only_putQ s q.val _).advAfter

theorem recget_spec (q : QReg) (d : SReg) (s : State) (hp : Passes (.recget q d) s) : ∃ t, exec (.recget q d) s = .next t ∧
    Only s t (fun w => { w.advanced s sameLane with
      s := (List.range 4).foldl (fun rs k => s.giveS (d.val + k) ((s.src.qreg q.val).extractLsb' (32 * k) 32) rs) w.s }) := by
  change ∃ t, execRecget q d s = _ ∧ _
  refine ⟨_, hp.plain _, ?_⟩
  simp only [word_eq_extract]
  exact (only_foldl_putS (List.range 4) (fun k => d.val + k) _ s).advAfter

/-! ## RECLD (R209) -/

/-- Every active lane's element of a RECLD: the record at one address. -/
def recldAccess (s : State) (va : Nat) : Access := ⟨0, 16, false, (lanesOf s.active).map (fun l => ⟨l, true, (va : Int)⟩)⟩

/-- An entry whose own trap arises. -/
theorem recld_traps {q : QReg} {a : SReg} (hp : Passes (.recld q a) s) {cause : Nat}
    (ht : s.recldTrap a = some (s.mkTrap cause 16 s.active ((s.src.sreg64 a.val).toNat % 2 ^ 48))) :
    exec (.recld q a) s = .next (s.raise (trapAt s cause 16 s.active (BitVec.ofNat 48 (s.src.sreg64 a.val).toNat))) := by
  have hva : BitVec.ofNat 48 ((s.src.sreg64 a.val).toNat % 2 ^ 48) = BitVec.ofNat 48 (s.src.sreg64 a.val).toNat := by
    apply BitVec.eq_of_toNat_eq
    rw [BitVec.toNat_ofNat, BitVec.toNat_ofNat, Nat.mod_mod]
  change execRecld q a s = _
  refine (checked_own hp ht).trans ?_
  rw [State.mkTrap, hva]
  rfl

theorem recldElems_checked {va : Nat} (hal : va % 16 = 0) (hlt : va < 2 ^ 48) :
    s.checkElems Rec.all 16 16 16 (recldAccess s va).es = none := by
  have hin : ∀ e ∈ (recldAccess s va).es, e.inb = true ∧ e.va = va := by
    intro e he
    obtain ⟨l, -, rfl⟩ := List.mem_map.1 he
    exact ⟨rfl, rfl⟩
  have hmis : ((recldAccess s va).es.filter Elem.inb).filter (fun e => decide (e.va % (16 : Int) ≠ 0)) = [] := by
    refine List.filter_eq_nil_iff.2 fun e he => ?_
    rw [(hin e (List.mem_of_mem_filter he)).2, decide_eq_true_eq]
    omega
  have hfar : ((recldAccess s va).es.filter Elem.inb).filter (fun e => decide ((2 : Int) ^ 48 < e.va + 16)) = [] := by
    refine List.filter_eq_nil_iff.2 fun e he => ?_
    rw [(hin e (List.mem_of_mem_filter he)).2, decide_eq_true_eq]
    omega
  unfold State.checkElems
  simp only [Nat.cast_ofNat, hmis, hfar]
  rfl

theorem recld_spec (q : QReg) (a : SReg) (s : State) (hp : Passes (.recld q a) s) :
    let va := (s.src.sreg64 a.val).toNat
    let x : Access := ⟨0, 16, false, (lanesOf s.active).map (fun l => ⟨l, true, (va : Int)⟩)⟩
    let trap := fun (cause : Nat) => exec (.recld q a) s = .next (s.raise (trapAt s cause 16 s.active (BitVec.ofNat 48 va)))
    (va % 16 ≠ 0 → trap 0x05) ∧ (va % 16 = 0 → 2 ^ 48 ≤ va → trap 0x07) ∧
    (va % 16 = 0 → va < 2 ^ 48 → x.Mapped s → x.Sound s → s.active ≠ 0#32 → ∃ t, exec (.recld q a) s = .next t ∧
      Only { x.seen s with fresh := s.fresh + 1 } t (owing s (slot (x.seen s) .record (.recd q.val)
        [(0, match x.reached s with
          | y :: _ => loaded .w16 (seenNumber (x.seen s) s.curCore s.curWg y.2.pa 16)
          | [] => [])] false))) := by
  intro va x trap
  refine ⟨fun hal => recld_traps hp (if_pos hal), fun hal hbig => recld_traps hp ?_, fun hal hlt hm hl _ => ?_⟩
  · rw [State.recldTrap, if_neg (not_not.2 hal), if_pos hbig]
    rfl
  · have htrap : s.recldTrap a = none := by rw [State.recldTrap, if_neg (not_not.2 hal), if_neg (Nat.not_le.2 hlt)]
    have hnote : s.noteOob 16 x.es = s := by
      refine if_neg (ne_true_of_eq_false (List.any_eq_false.2 fun e he => ?_))
      obtain ⟨l, -, rfl⟩ := List.mem_map.1 he
      exact Bool.false_ne_true
    have hnoted : oobNoted s x = s := by
      refine if_neg (ne_true_of_eq_false (List.any_eq_false.2 fun e he => ?_))
      obtain ⟨l, -, rfl⟩ := List.mem_map.1 he
      exact Bool.false_ne_true
    have hread := reading_of_checked (a := x) (q := 16) (kind := 0) (eff := fun ts t =>
        (t.owe .record (.recd q.val) t.active
          [(0, (ts.head?.map (fun y => widthLoad .w16 (t.viewBytes t.curCore t.curWg y.2.pa 16))).getD [])]
          0 0#32 false).adv) (recldElems_checked hal hlt) rfl hm hl
    have hseen : ((s.noteOob 16 x.es).touchAll s.curCore false ((x.reached s).map Prod.snd)).hotCount s.curCore
        ((x.reached s).map (fun y => y.2.pa)) = x.seen s := by
      rw [hnote, Access.seen, hnoted]
    rw [hseen] at hread
    refine ⟨_, (hp.checked rfl htrap _ : execRecld q a s = _).trans (congrArg Host.Outcome.next hread), ?_⟩
    have honly := only_owe_owing (seen_iss x s) .record (.recd q.val)
      [(0, ((x.reached s).head?.map (fun y => widthLoad .w16 ((x.seen s).viewBytes (x.seen s).curCore (x.seen s).curWg y.2.pa 16))).getD [])]
      false
    rw [seen_curCore, seen_curWg, seen_fresh] at honly
    rw [seen_curCore, seen_curWg]
    cases hr : x.reached s with
    | nil =>
      rw [hr] at honly
      exact honly
    | cons y r =>
      rw [hr] at honly
      simp only [List.head?_cons, Option.map_some, Option.getD_some, widthLoad_eq] at honly ⊢
      exact honly

/-! ## PREF and CACHE (R205, R210) -/

/-- The translations of the elements that pass every check. -/
def askedPages (s : State) (q : QReg) (w : Width) (o : Int) (b : VSrc) : List Trans :=
  ((elemsOf (Rec.ofBits (s.src.qreg q.val)) s.active o w.bytes (fun l => s.src.v32 l b)).filter
    (fun e => e.inb && !uneven w.bytes e && !beyond w.bytes e)).map (fun e => s.translate s.curCore s.curCtx e.a .read)

theorem askable_eq (s : State) (q : QReg) (w : Width) (o : Int) (b : VSrc) : s.askable q w o b = askedPages s q w o b := by
  unfold State.askable askedPages
  dsimp only
  congr 1
  refine List.filter_congr fun e _ => ?_
  unfold uneven beyond
  cases e.inb
  · rfl
  · simp only [Bool.true_and, ← decide_not, not_not, not_lt]

theorem linesOf_contains (t : Tab Byte) (line : Nat) : (linesOf t).contains line = t.any (fun c => decide (c.1 / 128 = line)) := by
  rw [Bool.eq_iff_iff, List.contains_iff_mem, linesOf, List.mem_eraseDups, List.mem_map, List.any_eq_true]
  simp only [decide_eq_true_eq]
  rfl

theorem cacheLine_eq (s : State) (core : Nat) (drop : Bool) (line : Nat) : s.cacheLine core drop line = cachedLine core drop line s := by
  unfold State.cacheLine cachedLine
  simp only [linesOf_contains]
  cases drop
  · simp only [Bool.false_eq_true, if_false, Bool.false_and, Bool.not_false, List.filter_true]
  · rfl

theorem cacheLine_iss (s : State) (core : Nat) (drop : Bool) (line : Nat) : (s.cacheLine core drop line).iss = s.iss := by
  have hperform (t : State) : (t.performLine core line).iss = t.iss := by
    unfold State.performLine
    split
    next => rfl
    next => split <;> rfl
  have hspread : (s.performSpread core line).iss = s.iss := by
    unfold State.performSpread
    dsimp only
    split
    · exact hperform s
    · exact hperform s
  unfold State.cacheLine
  split
  · rfl
  · dsimp only
    split
    · exact hspread
    · exact hspread

theorem pref_spec (s : State) (q : QReg) (w : Width) (x : MemMod) (b : VSrc) (hp : Passes (.pref q w x b) s)
    (hb : ¬ badRecord (s.src.qreg q.val)) : ∃ t, exec (.pref q w x b) s = .next t ∧
      Only (s.touchAll s.curCore false (askedPages s q w x.offset b)) t (fun v => v.advanced s sameLane) := by
  change ∃ t, execPref q w x b s = _ ∧ _
  refine ⟨_, recForm_passes hp hb, ?_⟩
  rw [State.askLines, askable_eq]
  exact (only_advanced _).congr fun v => advanced_congr (walked_touchAll ..).iss v sameLane

/-- The lines that a CACHE acts on. -/
def cachedLines (s : State) (ts : List Trans) : List Nat :=
  (ts.filterMap (fun x => match x with
    | .ok pa _ _ => some (s.homeOf pa / 128)
    | .absent | .denied | .malformed _ => none)).eraseDups

theorem cacheLines_foldl_iss (core : Nat) (drop : Bool) (ls : List Nat) (t : State) :
    (ls.foldl (fun u l => cachedLine core drop l u) t).iss = t.iss :=
  List.foldlRecOn ls _ (motive := fun u : State => u.iss = t.iss) rfl fun u hu l _ => by
    rw [← cacheLine_eq, cacheLine_iss, hu]

theorem cacheLines_spec (s : State) (q : QReg) (w : Width) (b : VSrc) (drop : Bool) :
    Only ((cachedLines s (askedPages s q w 0 b)).foldl (fun u l => cachedLine s.curCore drop l u)
      (s.touchAll s.curCore false (askedPages s q w 0 b))) (s.cacheLines q w b drop) (fun v => v.advanced s sameLane) := by
  have hlines : s.cacheLines q w b drop = ((cachedLines s (askedPages s q w 0 b)).foldl (fun u l => cachedLine s.curCore drop l u)
      (s.touchAll s.curCore false (askedPages s q w 0 b))).adv := by
    unfold State.cacheLines
    simp only [askable_eq, cacheLine_eq]
    rfl
  rw [hlines]
  exact (only_advanced _).congr fun v =>
    advanced_congr ((cacheLines_foldl_iss ..).trans (walked_touchAll ..).iss) v sameLane

theorem cache_spec (i : Instr) (s : State) (q : QReg) (w : Width) (b : VSrc) (drop : Bool)
    (hi : (i = .cacheWb q w b ∧ drop = false) ∨ (i = .cacheInv q w b ∧ drop = true)) (hp : Passes i s)
    (hb : ¬ badRecord (s.src.qreg q.val)) : ∃ t, exec i s = .next t ∧
      Only ((cachedLines s (askedPages s q w 0 b)).foldl (fun u l => cachedLine s.curCore drop l u)
        (s.touchAll s.curCore false (askedPages s q w 0 b))) t (fun v => v.advanced s sameLane) := by
  refine ⟨s.cacheLines q w b drop, ?_, cacheLines_spec s q w b drop⟩
  obtain ⟨rfl, rfl⟩ | ⟨rfl, rfl⟩ := hi
  · change execCacheWb q w b s = _
    exact recForm_passes hp hb
  · change execCacheInv q w b s = _
    exact recForm_passes hp hb

/-- Settles O29: each form by its own rule; a RECLD reads as a load of sixteen bytes does. -/
theorem recordRegisters : Obligations.RecordRegisters := by
  unfold Obligations.RecordRegisters
  exact ⟨recset_spec, recget_spec, recld_spec, pref_spec, cache_spec⟩

end Sys2Proof.Claims
end

section
/-! # Loads through a record

LD, LDACQ, LDRO, LDU and SAMPLE read what their elements hold (`reading_of_sound`) and owe it to their destination; a load through
the path cache brings in its lines first. -/

namespace Sys2Proof.Claims

open Sys2Proof Sys2Proof.Machine

variable {s t : State} {a : Access}

/-! ## What is owed -/

theorem oobNoted_wb (s : State) (a : Access) : (oobNoted s a).src.wb = s.src.wb := by
  obtain ⟨f, hf, hkeep⟩ := oobNoted_eq s a
  rw [hf]
  unfold State.src
  change (s.iss.before.getD (s.modCur f).cur).wb = _
  cases s.iss.before with
  | some w => rfl
  | none => exact (Only.modCur s f).curKeeps Wave.wb fun w => (hkeep w).2

theorem seen_wb (a : Access) (s : State) : (a.seen s).src.wb = s.src.wb :=
  (congrArg Wave.wb (walked_seen s a).src).trans (oobNoted_wb s a)

/-- A load owed to a vector destination after its walks, and the lanes at next_pc. -/
theorem owed_load (hi : t.iss = s.iss) (hwb : t.src.wb = s.src.wb) (d : VDst) (n : Nat) (acq : Bool) (data : Tab (List Word)) :
    match d with
    | .reg r => Only { t with fresh := t.fresh + 1 } (t.owed .load d n acq data).adv
        (owing s (slot t .load (.vec (s.src.wb + r.val) n) data acq))
    | .discard => Only t (t.owed .load d n acq data).adv (fun v => v.advanced s sameLane) := by
  cases d with
  | reg r =>
    rw [← hwb]
    exact only_owe_owing hi .load _ data acq
  | discard => exact (Only.refl t).advAfter.congr fun v => advanced_congr hi v sameLane

/-! ## Lines brought into the path cache -/

/-- Lines brought into the path cache of a core. -/
def pathFilled (core : Nat) (ls : List Nat) (t : State) : State := ls.foldl (fun t l => t.pathFill core l) t

theorem walked_pathFilled (core : Nat) (ls : List Nat) (t : State) : Walked t (pathFilled core ls t) :=
  .foldl (fun t l => walked_pathFill t core l) ls t

theorem foldl_pathFill (ls : List Nat) (t : State) : ls.foldl (fun t l => t.pathFill t.curCore l) t = pathFilled t.curCore ls t := by
  induction ls generalizing t with
  | nil => rfl
  | cons l r ih =>
    rw [List.foldl_cons, ih, (walked_pathFill t t.curCore l).curCore]
    rfl

/-- The state of a load through the path cache: its walks made, its lines brought in. -/
def pathed (s : State) (a : Access) : State :=
  pathFilled s.curCore ((a.reached s).map (fun x => lineOf x.2.pa)).eraseDups (a.seen s)

theorem walked_pathed (s : State) (a : Access) : Walked (a.seen s) (pathed s a) := walked_pathFilled ..
theorem pathed_iss (s : State) (a : Access) : (pathed s a).iss = s.iss := (walked_pathed s a).iss.trans (seen_iss a s)
theorem pathed_active (s : State) (a : Access) : (pathed s a).active = s.active := congrArg Issue.lanes (pathed_iss s a)
theorem pathed_wb (s : State) (a : Access) : (pathed s a).src.wb = s.src.wb :=
  (congrArg Wave.wb (walked_pathed s a).src).trans (seen_wb a s)
theorem pathed_curCore (s : State) (a : Access) : (pathed s a).curCore = s.curCore := (walked_pathed s a).curCore.trans (seen_curCore a s)
theorem pathed_curWg (s : State) (a : Access) : (pathed s a).curWg = s.curWg := (walked_pathed s a).curWg.trans (seen_curWg a s)

theorem foldl_pathFill_seen (s : State) (a : Access) :
    ((a.reached s).map (fun x => lineOf x.2.pa)).eraseDups.foldl (fun t l => t.pathFill t.curCore l) (a.seen s) = pathed s a := by
  rw [foldl_pathFill, seen_curCore]
  rfl

/-! ## The words of each lane -/

theorem widthZeros_eq (w : Width) : widthZeros w = zeros w := by rw [widthZeros, zeros, length_loaded]

/-- The words a lane loads from its element's address, zero out of bounds. -/
def laneWord (s : State) (a : Access) (w : Width) (f : Nat → Nat) (l : Nat) : List Word :=
  match a.home s l with
  | some pa => loaded w (f pa)
  | none => zeros w

theorem loadWords_reached (s : State) (a : Access) (w : Width) (bytes : Nat → List Byte) :
    loadWords s.active w (a.reached s) bytes =
      (lanesOf s.active).map (fun l => (l, laneWord s a w (fun pa => natOfBytes (bytes pa)) l)) := by
  refine List.map_congr_left fun l _ => ?_
  unfold laneWord Access.home
  cases (a.reached s).find? (fun x => decide (x.1.lane = l)) with
  | none => exact congrArg (Prod.mk l) (widthZeros_eq w)
  | some y => exact congrArg (Prod.mk l) (widthLoad_eq w _)

/-! ## LD, LDACQ and LDRO (R204, R52) -/

/-- The access of a load through a record with an index in each lane. -/
def loadAccess (s : State) (q : QReg) (w : Width) (o : Int) (b : VSrc) : Access :=
  ⟨q, w.bytes, false, elemsOf (Rec.ofBits (s.src.qreg q.val)) s.active o w.bytes (fun l => s.src.v32 l b)⟩

/-- A load through a record leaves its destination owed the words of its lanes, in state `v` with its lanes at next_pc. -/
def Loaded (s v t : State) (a : Access) (w : Width) (d : VDst) (f : Nat → Nat) (acq : Bool) : Prop :=
  match d with
  | .reg r => Only { v with fresh := v.fresh + 1 } t
      (owing s (slot v .load (.vec (s.src.wb + r.val) w.regs) ((lanesOf s.active).map (fun l => (l, laneWord s a w f l))) acq))
  | .discard => Only v t (fun x => x.advanced s sameLane)

section Loads

variable {q : QReg} {w : Width} {o : Int} {d : VDst} {b : VSrc}
  (hf : (loadAccess s q w o b).Fits s) (hm : (loadAccess s q w o b).Mapped s) (hl : (loadAccess s q w o b).Sound s)

include hf hm hl

theorem recordLoad_through (acq : Bool) :
    Loaded s ((loadAccess s q w o b).seen s) (s.recordLoad q w o d b false acq) (loadAccess s q w o b) w d
      (fun pa => seenNumber ((loadAccess s q w o b).seen s) s.curCore s.curWg pa w.bytes) acq := by
  refine (congrArg (fun t => Loaded s _ t _ w d _ acq) (reading_of_sound rfl hf hm hl)).mpr ?_
  simp only [Bool.false_eq_true, if_false, seen_active, seen_curCore, seen_curWg, loadWords_reached]
  exact owed_load (seen_iss _ s) (seen_wb _ s) d w.regs acq _

theorem recordLoad_path :
    Loaded s (pathed s (loadAccess s q w o b)) (s.recordLoad q w o d b true false) (loadAccess s q w o b) w d
      (fun pa => pathNumber (pathed s (loadAccess s q w o b)) s.curCore s.curWg pa w.bytes) false := by
  refine (congrArg (fun t => Loaded s _ t _ w d _ false) (reading_of_sound rfl hf hm hl)).mpr ?_
  simp only [if_true, foldl_pathFill_seen, pathed_active, pathed_curCore, pathed_curWg, loadWords_reached]
  exact owed_load (pathed_iss s _) (pathed_wb s _) d w.regs false _

end Loads

/-! ## LDU (R208) -/

/-- What LDU does with the element it reaches. -/
def lduEff (d : SReg) (w : Width) (ts : List (Elem × Trans)) (t : State) : State :=
  (t.owedU d w.regs (match ts with
    | y :: _ => widthLoad w (t.viewBytes t.curCore t.curWg y.2.pa w.bytes)
    | [] => widthZeros w)).adv

theorem lduEff_seen (d : SReg) (w : Width) (a : Access) (ts : List (Elem × Trans)) (s : State) :
    Only { a.seen s with fresh := (a.seen s).fresh + 1 } (lduEff d w ts (a.seen s)) (owing s (slot (a.seen s) .load (.uni d.val w.regs)
      [(0, match ts with
        | y :: _ => loaded w (seenNumber (a.seen s) s.curCore s.curWg y.2.pa w.bytes)
        | [] => zeros w)] false)) := by
  have honly (data : List Word) : Only { a.seen s with fresh := (a.seen s).fresh + 1 } ((a.seen s).owedU d w.regs data).adv
      (owing s (slot (a.seen s) .load (.uni d.val w.regs) [(0, data)] false)) :=
    only_owe_owing (seen_iss a s) .load (.uni d.val w.regs) [(0, data)] false
  cases ts with
  | nil =>
    rw [lduEff, widthZeros_eq]
    exact honly _
  | cons y r =>
    rw [lduEff, widthLoad_eq, seen_curCore, seen_curWg]
    exact honly _

theorem ldu_spec {q : QReg} {w : Width} {x : MemMod} {d : SReg} {b : USrc} (ha : accessRule (.ldu q w x d b) s = some a)
    (hp : Passes (.ldu q w x d b) s) (hb : ¬ badRecord (s.src.qreg q.val)) (hf : a.Fits s) (hm : a.Mapped s) (hl : a.Sound s) :
    ∃ t, exec (.ldu q w x d b) s = .next t ∧
      Only { a.seen s with fresh := (a.seen s).fresh + 1 } t (owing s (slot (a.seen s) .load (.uni d.val w.regs)
        [(0, match a.reached s with
          | y :: _ => loaded w (seenNumber (a.seen s) s.curCore s.curWg y.2.pa w.bytes)
          | [] => zeros w)] false)) := by
  have hread := reading_of_sound (kind := 0) (eff := lduEff d w) (show a.store = false by cases ha; rfl) hf hm hl
  have hexec : exec (.ldu q w x d b) s = .next (s.reading a.q.val a.w a.w (a.record s) a.es 0 (lduEff d w)) := by
    change execLdu q w x d b s = _
    obtain rfl := Option.some.inj ha
    exact recForm_passes hp hb
  exact ⟨_, hexec.trans (congrArg Host.Outcome.next hread), lduEff_seen d w a (a.reached s) s⟩

/-! ## SAMPLE (R206) -/

/-- The elements that lane `l` reaches. -/
def laneReached (s : State) (a : Access) (l : Nat) : List (Elem × Trans) := (a.reached s).filter (fun y => decide (y.1.lane = l))

/-- The texels a lane blends: their weights and the bytes read at their addresses. -/
def texelReads (s : State) (a : Access) (b : VReg) (l : Nat) (rd : Nat → List Byte) : List (Nat × List Byte) :=
  ((laneTexels s (a.record s) b l).zip (laneReached s a l)).map (fun y => (y.1.2, rd y.2.2.pa))

/-- The access of a SAMPLE. -/
def sampleAccess (s : State) (q : QReg) (f : Texel) (o : Int) (b : VReg) : Access :=
  ⟨q, texelBytes f, false, ((lanesOf s.active).map (fun l => (laneTexels s (Rec.ofBits (s.src.qreg q.val)) b l).map (fun y =>
    (⟨l, (Rec.ofBits (s.src.qreg q.val)).inb y.1 o (texelBytes f), (Rec.ofBits (s.src.qreg q.val)).addr y.1 o⟩ : Elem)))).flatten⟩

/-- A lane without texels reaches none. -/
theorem laneReached_of_no_texel {q : QReg} {f : Texel} {o : Int} {b : VReg} {l : Nat}
    (h : laneTexels s (Rec.ofBits (s.src.qreg q.val)) b l = []) : laneReached s (sampleAccess s q f o b) l = [] := by
  refine List.filter_eq_nil_iff.2 fun y hy => ?_
  obtain ⟨hmem, -, -⟩ := mem_reached hy
  obtain ⟨es, hes, hin⟩ := List.mem_flatten.1 hmem
  obtain ⟨k, -, rfl⟩ := List.mem_map.1 hes
  obtain ⟨x, hx, hxy⟩ := List.mem_map.1 hin
  rw [decide_eq_true_eq, ← hxy]
  rintro rfl
  rw [h] at hx
  exact List.not_mem_nil hx

theorem texelReads_eq_nil {q : QReg} {f : Texel} {o : Int} {b : VReg} {l : Nat} {rd : Nat → List Byte} :
    texelReads s (sampleAccess s q f o b) b l rd = [] ↔ laneReached s (sampleAccess s q f o b) l = [] := by
  rw [texelReads, List.map_eq_nil_iff, List.zip_eq_nil_iff]
  exact or_iff_right_of_imp laneReached_of_no_texel

/-- What SAMPLE does with the elements it reaches, `texels` being each lane's texels. -/
def sampleEff (f : Texel) (d : VReg) (texels : Nat → List (Nat × Nat)) (ts : List (Elem × Trans)) (z : State) : State :=
  let z1 := (ts.map (fun x => lineOf x.2.pa)).eraseDups.foldl (fun z l => z.pathFill z.curCore l) z
  let rd := fun pa => (List.range (texelBytes f)).map (fun i => z1.pathByte z1.curCore z1.curWg (pa + i))
  let data := (lanesOf z1.active).map (fun l =>
    let mine := ts.filter (fun x => decide (x.1.lane = l))
    (l, if mine.isEmpty then [0#32, 0#32, 0#32, 0#32]
      else sampleOf f ((texels l).zipWith (fun y (x : Elem × Trans) => (y.2, rd x.2.pa)) mine)))
  (z1.owed .load (.reg d) 4 false data).adv

theorem sample_eq (s : State) (q : QReg) (f : Texel) (o : Int) (d b : VReg) :
    s.sample q f o d b = s.reading q.val (texelBytes f) (texelBytes f) (Rec.ofBits (s.src.qreg q.val)) (sampleAccess s q f o b).es 0
      (sampleEff f d (laneTexels s (Rec.ofBits (s.src.qreg q.val)) b)) := by
  unfold State.sample
  dsimp only
  rw [sampleElems_eq]
  simp only [texelsOf_eq]
  rfl

/-- The words of a lane of SAMPLE. -/
def laneSample (s : State) (a : Access) (f : Texel) (b : VReg) (rd : Nat → List Byte) (l : Nat) : List Word :=
  if texelReads s a b l rd = [] then [0#32, 0#32, 0#32, 0#32] else sampleOf f (texelReads s a b l rd)

theorem sampleWords_eq (q : QReg) (f : Texel) (o : Int) (b : VReg) (rd : Nat → List Byte) (l : Nat) :
    (if (laneReached s (sampleAccess s q f o b) l).isEmpty then [0#32, 0#32, 0#32, 0#32]
      else sampleOf f ((laneTexels s (Rec.ofBits (s.src.qreg q.val)) b l).zipWith (fun y (x : Elem × Trans) => (y.2, rd x.2.pa))
        (laneReached s (sampleAccess s q f o b) l))) = laneSample s (sampleAccess s q f o b) f b rd l := by
  unfold laneSample
  simp only [texelReads_eq_nil, List.isEmpty_iff]
  rw [texelReads, List.map_zip_eq_zipWith]
  rfl

/-- The bytes of a texel through the path cache. -/
def texelBytesAt (s : State) (a : Access) (f : Texel) (pa : Nat) : List Byte :=
  (List.range (texelBytes f)).map (fun k => (pathed s a).pathByte s.curCore s.curWg (pa + k))

theorem sampleEff_eq (q : QReg) (f : Texel) (o : Int) (d b : VReg) (a : Access) (h : a = sampleAccess s q f o b) :
    sampleEff f d (laneTexels s (Rec.ofBits (s.src.qreg q.val)) b) (a.reached s) (a.seen s) =
      ((pathed s a).owed .load (.reg d) 4 false
        ((lanesOf s.active).map (fun l => (l, laneSample s a f b (texelBytesAt s a f) l)))).adv := by
  have hwords (l : Nat) := sampleWords_eq (s := s) q f o b (texelBytesAt s a f) l
  rw [← h] at hwords
  unfold sampleEff
  dsimp only
  rw [foldl_pathFill_seen, pathed_active, pathed_curCore, pathed_curWg]
  exact congrArg (fun data => ((pathed s a).owed .load (.reg d) 4 false data).adv)
    (List.map_congr_left fun l _ => congrArg (Prod.mk l) (hwords l))

theorem sampleEff_seen (q : QReg) (f : Texel) (o : Int) (d b : VReg) (a : Access) (h : a = sampleAccess s q f o b) :
    Only { pathed s a with fresh := (pathed s a).fresh + 1 }
      (sampleEff f d (laneTexels s (Rec.ofBits (s.src.qreg q.val)) b) (a.reached s) (a.seen s))
      (owing s (slot (pathed s a) .load (.vec (s.src.wb + d.val) 4)
        ((lanesOf s.active).map (fun l => (l, laneSample s a f b (texelBytesAt s a f) l))) false)) := by
  rw [sampleEff_eq q f o d b a h]
  exact owed_load (pathed_iss s a) (pathed_wb s a) (.reg d) 4 false _

theorem sample_eq_reading (q : QReg) (f : Texel) (o : Int) (d b : VReg) (a : Access) (h : a = sampleAccess s q f o b) :
    s.sample q f o d b = s.reading a.q.val a.w a.w (a.record s) a.es 0
      (sampleEff f d (laneTexels s (Rec.ofBits (s.src.qreg q.val)) b)) := by
  rw [h]
  exact sample_eq s q f o d b

theorem sample_spec {q : QReg} {f : Texel} {x : MemMod} {d b : VReg} (hp : Passes (.sample q f x d b) s)
    (hb : ¬ illegalNow (.sample q f x d b) s) (h : a = sampleAccess s q f x.offset b) (hf : a.Fits s) (hm : a.Mapped s)
    (hl : a.Sound s) :
    exec (.sample q f x d b) s =
      .next (sampleEff f d (laneTexels s (Rec.ofBits (s.src.qreg q.val)) b) (a.reached s) (a.seen s)) := by
  have hstore : a.store = false := by rw [h]; rfl
  change execSample q f x d b s = _
  refine (hp.checked (sampleBad_eq_false hb) rfl _).trans (congrArg Host.Outcome.next ?_)
  rw [sample_eq_reading q f x.offset d b a h]
  exact reading_of_sound hstore hf hm hl

/-! ## The loads, each by its name -/

theorem ld_loads {q : QReg} {w : Width} {x : MemMod} {d : VDst} {b : VSrc} (ha : accessRule (.ld q w x d b) s = some a)
    (hp : Passes (.ld q w x d b) s) (hb : ¬ badRecord (s.src.qreg q.val)) (hf : a.Fits s) (hm : a.Mapped s) (hl : a.Sound s) :
    ∃ t, exec (.ld q w x d b) s = .next t ∧
      Loaded s (a.seen s) t a w d (fun pa => seenNumber (a.seen s) s.curCore s.curWg pa w.bytes) false := by
  obtain rfl : loadAccess s q w x.offset b = a := Option.some.inj ha
  change ∃ t, execLd q w x d b s = _ ∧ _
  exact ⟨_, recForm_passes hp hb, recordLoad_through hf hm hl false⟩

theorem ldacq_loads {q : QReg} {w : Width} {x : ScopeMod} {d : VDst} {b : VSrc} (ha : accessRule (.ldacq q w x d b) s = some a)
    (hp : Passes (.ldacq q w x d b) s) (hb : ¬ badRecord (s.src.qreg q.val)) (hf : a.Fits s) (hm : a.Mapped s) (hl : a.Sound s) :
    ∃ t, exec (.ldacq q w x d b) s = .next t ∧
      Loaded s (a.seen s) t a w d (fun pa => seenNumber (a.seen s) s.curCore s.curWg pa w.bytes) true := by
  obtain rfl : loadAccess s q w x.off.toInt b = a := Option.some.inj ha
  change ∃ t, execLdacq q w x d b s = _ ∧ _
  exact ⟨_, recForm_passes hp hb, recordLoad_through hf hm hl true⟩

theorem ldro_loads {q : QReg} {w : Width} {x : MemMod} {d : VDst} {b : VSrc} (ha : accessRule (.ldro q w x d b) s = some a)
    (hp : Passes (.ldro q w x d b) s) (hb : ¬ badRecord (s.src.qreg q.val)) (hf : a.Fits s) (hm : a.Mapped s) (hl : a.Sound s) :
    ∃ t, exec (.ldro q w x d b) s = .next t ∧
      Loaded s (pathed s a) t a w d (fun pa => pathNumber (pathed s a) s.curCore s.curWg pa w.bytes) false := by
  obtain rfl : loadAccess s q w x.offset b = a := Option.some.inj ha
  change ∃ t, execLdro q w x d b s = _ ∧ _
  exact ⟨_, recForm_passes hp hb, recordLoad_path hf hm hl⟩

end Sys2Proof.Claims
end

section
/-! # LDF

The elements of LDF take the size of the format of BASE's page (R55). What it does with the elements it reaches (`ldfEff`) is one of
two: a page of another size raises FORMAT, else each lane is owed its element's value, a grouped one by its scale entry (R56, R57). -/

namespace Sys2Proof.Claims

open Sys2Proof Sys2Proof.Machine

variable {s t : State} {a : Access}

/-! ## Page formats (Table 2.6) -/

theorem fmtBits_pteFmt (leaf : Nat) : fmtBits (pteFmt leaf) = formatBits leaf := by
  have hlt : formatOf leaf < 8 := Nat.mod_lt _ (by decide)
  change fmtBits (formatOf leaf) = _
  unfold formatBits
  generalize formatOf leaf = f at hlt ⊢
  interval_cases f <;> rfl

theorem grouped_eq_isGrouped (leaf : Nat) : grouped leaf = isGrouped leaf := (Bool.decide_or _ _).symm

theorem scaleOf_eq (x : Elem × Trans) (bit : Nat) : scaleOf x.2 x.1.a bit = scaleVaOf x bit := by
  obtain ⟨e, p⟩ := x
  cases p with
  | ok pa leaf page =>
    simp only [scaleOf, scaleVaOf, scaleVa, scaleEntryVa, fmtBits_pteFmt]
    rfl
  | absent | denied | malformed => rfl

/-- A grouped element is `s × (q − z)` by its scale entry. -/
theorem decoded_of_grouped {leaf : Nat} (h : isGrouped leaf = true) (x scale : Nat) :
    decoded leaf x scale = BitVec.ofNat 32 (fp32.rne (groupedValue (groupedInt (pteFmt leaf) x) scale)) := by
  have hf : pteFmt leaf = formatOf leaf := rfl
  simp only [groupedValue, groupedInt, sextN_eq_toInt, hf]
  unfold decoded
  obtain h6 | h7 := of_decide_eq_true h
  · rw [h6]
    rfl
  · rw [h7]
    rfl

/-- Any other element of a tagged page is widened. -/
theorem decoded_of_widened {leaf : Nat} (h : isGrouped leaf = false) (hb : formatBits leaf ≠ 0) (x scale : Nat) :
    decoded leaf x scale = decodeElem (pteFmt leaf) x := by
  have hlt : formatOf leaf < 8 := Nat.mod_lt _ (by decide)
  have hungrouped := of_decide_eq_false h
  change _ = decodeElem (formatOf leaf) x
  unfold decoded formatBits at *
  generalize formatOf leaf = f at *
  interval_cases f
  exacts [absurd rfl hb, rfl, rfl, rfl, rfl, rfl, absurd (.inl rfl) hungrouped, absurd (.inr rfl) hungrouped]

/-! ## What LDF does with the elements it reaches -/

/-- The scale entries of elements, as elements of their own. -/
def scaleElems (bit : Nat → Nat) (ts : List (Elem × Trans)) : List Elem :=
  (ts.filter (fun x => grouped x.2.leaf)).map (fun x => ⟨x.1.lane, true, (scaleOf x.2 x.1.a (bit x.1.lane) : Int)⟩)

/-- The value of an element, `us` being the scale entries reached. -/
def ldfValue (t : State) (w bits : Nat) (bit : Nat → Nat) (us : List (Elem × Trans)) (x : Elem × Trans) : Word :=
  let raw := t.viewNat t.curCore t.curWg x.2.pa w / 2 ^ bit x.1.lane % 2 ^ bits
  match us.find? (fun u => decide (u.1.lane = x.1.lane)) with
  | some u => BitVec.ofNat 32 (fp32.rne (groupedValue (groupedInt (pteFmt x.2.leaf) raw) (t.viewNat t.curCore t.curWg u.2.pa 4)))
  | none => decodeElem (pteFmt x.2.leaf) raw

/-- The values owed to the lanes, zero out of bounds. -/
def ldfWords (t : State) (w bits : Nat) (bit : Nat → Nat) (ts us : List (Elem × Trans)) : Tab (List Word) :=
  (lanesOf t.active).map (fun l => (l, match ts.find? (fun x => decide (x.1.lane = l)) with
    | some x => [ldfValue t w bits bit us x]
    | none => [0#32]))

/-- What LDF does with the elements it reaches. -/
def ldfEff (s : State) (q : QReg) (d : VDst) (w bits : Nat) (bit : Nat → Nat) (ts : List (Elem × Trans)) (t : State) : State :=
  let wrong := ts.filter (fun x => decide (fmtBits (pteFmt x.2.leaf) ≠ bits))
  if !wrong.isEmpty then t.raise (s.elemTrap causeFormat 0 (wrong.map Prod.fst))
  else
    match s.reach q.val .read (scaleElems bit ts) with
    | .access tr bad va => t.refuse tr bad va
    | .some _ absent => s.awaitPage 3 q.val absent
    | .all us =>
      let odd := us.filter (fun u => decide (pteFmt u.2.leaf ≠ 0))
      let lost := us.filter (fun u => s.poisonedRead s.curCore s.curWg u.2.pa 4)
      if us.any (fun u => s.sideWaits s.curCore s.curWg s.curCtx u.1.a) then s.retry .stalled
      else if !odd.isEmpty then t.raise (s.elemTrap causeFormat 0 (odd.map Prod.fst))
      else if !lost.isEmpty then
        t.consume (laneSet (lost.map Prod.fst)) (faddrOf (lost.map Prod.fst)) ((lost.head?.map (fun u => u.2.pa)).getD 0)
      else
        let t1 := t.touchAll t.curCore false (us.map Prod.snd)
        (t1.owed .load d 1 false (ldfWords t1 w bits bit ts us)).adv

theorem decodeLoad_eq (s : State) (q : QReg) (d : VDst) (r : Rec) (bits : Nat) (es : List Elem) (bit : Nat → Nat) :
    s.decodeLoad q d r bits es bit = s.reading q.val (Nat.max 1 (bits / 8)) (Nat.max 1 (bits / 8)) r es 0
      (ldfEff s q d (Nat.max 1 (bits / 8)) bits bit) := rfl

section Eff

variable {q : QReg} {d : VDst} {w bits : Nat} {bit : Nat → Nat} {ts us : List (Elem × Trans)}

theorem ldfEff_of_wrong (h : ∃ y ∈ ts, formatBits y.2.leaf ≠ bits) : ldfEff s q d w bits bit ts t =
    t.raise (s.elemTrap causeFormat 0 ((ts.filter (fun x => decide (formatBits x.2.leaf ≠ bits))).map Prod.fst)) := by
  have hne : (!(ts.filter (fun x => decide (formatBits x.2.leaf ≠ bits))).isEmpty) = true := by
    obtain ⟨y, hy, hbits⟩ := h
    rw [Bool.not_eq_true', List.isEmpty_eq_false_iff]
    exact List.ne_nil_of_mem (List.mem_filter.2 ⟨hy, decide_eq_true hbits⟩)
  simp only [ldfEff, fmtBits_pteFmt, hne, if_true]

theorem ldfEff_of_right (h : ∀ y ∈ ts, formatBits y.2.leaf = bits) (hr : s.reach q.val .read (scaleElems bit ts) = .all us)
    (hraw : ∀ u ∈ us, formatOf u.2.leaf = 0) (hside : ∀ u ∈ us, s.sideWaits s.curCore s.curWg s.curCtx u.1.a = false)
    (hlost : ∀ u ∈ us, s.poisonedRead s.curCore s.curWg u.2.pa 4 = false) : ldfEff s q d w bits bit ts t =
      ((t.touchAll t.curCore false (us.map Prod.snd)).owed .load d 1 false
        (ldfWords (t.touchAll t.curCore false (us.map Prod.snd)) w bits bit ts us)).adv := by
  have hwrong : ts.filter (fun x => decide (formatBits x.2.leaf ≠ bits)) = [] :=
    List.filter_eq_nil_iff.2 fun y hy => by simp [h y hy]
  have hodd : us.filter (fun u => decide (pteFmt u.2.leaf ≠ 0)) = [] :=
    List.filter_eq_nil_iff.2 fun u hu => by
      rw [show pteFmt u.2.leaf = 0 from hraw u hu]
      decide
  have hlost' : us.filter (fun u => s.poisonedRead s.curCore s.curWg u.2.pa 4) = [] :=
    List.filter_eq_nil_iff.2 fun u hu => by rw [hlost u hu]; exact Bool.false_ne_true
  have hside' : us.any (fun u => s.sideWaits s.curCore s.curWg s.curCtx u.1.a) = false :=
    List.any_eq_false.2 fun u hu => by rw [hside u hu]; exact Bool.false_ne_true
  simp only [ldfEff, fmtBits_pteFmt, hwrong, hr, hodd, hlost', hside', List.isEmpty_nil, Bool.not_true, Bool.false_eq_true, if_false]

end Eff

end Sys2Proof.Claims
end

section
/-! # LDF through its record -/

namespace Sys2Proof.Claims

open Sys2Proof Sys2Proof.Machine

variable {s t v : State} {a : Access}

/-! ## The scale entries of grouped elements (R57) -/

/-- The scale entry of an element, as an element reached. -/
def scaleReached (s : State) (bit : Nat → Nat) (x : Elem × Trans) : Elem × Trans :=
  (⟨x.1.lane, true, (scaleVaOf x (bit x.1.lane) : Int)⟩, s.translate s.curCore s.curCtx (scaleVaOf x (bit x.1.lane)) .read)

/-- The scale entries of the grouped elements of a list. -/
def scalePages (s : State) (bit : Nat → Nat) (ts : List (Elem × Trans)) : List (Elem × Trans) :=
  (ts.filter (fun x => isGrouped x.2.leaf)).map (scaleReached s bit)

theorem scaleElems_eq (bit : Nat → Nat) (ts : List (Elem × Trans)) :
    scaleElems bit ts = (ts.filter (fun x => isGrouped x.2.leaf)).map (fun x => (scaleReached s bit x).1) := by
  simp only [scaleElems, grouped_eq_isGrouped, scaleOf_eq]
  rfl

theorem reach_scaleElems {bit : Nat → Nat} {ts : List (Elem × Trans)}
    (h : ∀ y ∈ ts, isGrouped y.2.leaf = true → ∃ pa leaf x, (scaleReached s bit y).2 = .ok pa leaf x) (q : Nat) :
    s.reach q .read (scaleElems bit ts) = .all (scalePages s bit ts) := by
  rw [scaleElems_eq (s := s), reach_of_pages]
  · rw [List.filter_eq_self.2, List.map_map]
    · rfl
    · intro e he
      obtain ⟨x, -, rfl⟩ := List.mem_map.1 he
      rfl
  · intro e he _
    obtain ⟨x, hx, rfl⟩ := List.mem_map.1 he
    obtain ⟨hmem, hgrouped⟩ := List.mem_filter.1 hx
    exact h x hmem hgrouped

/-- Elements of distinct lanes. -/
def lanesDistinct (ts : List (Elem × Trans)) : Prop := ∀ x ∈ ts, ∀ y ∈ ts, x.1.lane = y.1.lane → x = y

theorem find_scalePages {bit : Nat → Nat} {ts : List (Elem × Trans)} {x : Elem × Trans} (hinj : lanesDistinct ts) (hx : x ∈ ts) :
    (scalePages s bit ts).find? (fun u => decide (u.1.lane = x.1.lane)) =
      if isGrouped x.2.leaf = true then some (scaleReached s bit x) else none := by
  rw [scalePages, List.find?_map, List.find?_filter]
  split
  next hg =>
    cases hfind : ts.find? (fun y => decide (isGrouped y.2.leaf = true ∧
        ((fun u : Elem × Trans => decide (u.1.lane = x.1.lane)) ∘ scaleReached s bit) y = true)) with
    | none =>
      refine absurd (List.find?_eq_none.1 hfind x hx) ?_
      simp [hg, scaleReached]
    | some y =>
      have hlane := List.find?_some hfind
      simp only [Function.comp_apply, decide_eq_true_eq] at hlane
      rw [hinj y (List.mem_of_find?_eq_some hfind) x hx hlane.2]
      rfl
  next hg =>
    rw [List.find?_eq_none.2]
    · rfl
    · intro y hy hlane
      simp only [Function.comp_apply, decide_eq_true_eq] at hlane
      exact hg (hinj y hy x hx hlane.2 ▸ hlane.1)

/-! ## The values -/

theorem ldfValue_eq {w bits : Nat} {bit : Nat → Nat} {ts : List (Elem × Trans)} {x : Elem × Trans} (hinj : lanesDistinct ts)
    (hx : x ∈ ts) (hb : formatBits x.2.leaf ≠ 0) :
    ldfValue t w bits bit (scalePages s bit ts) x =
      decoded x.2.leaf (seenNumber t t.curCore t.curWg x.2.pa w / 2 ^ bit x.1.lane % 2 ^ bits)
        (seenNumber t t.curCore t.curWg (scaleReached s bit x).2.pa 4) := by
  unfold ldfValue
  rw [find_scalePages hinj hx]
  cases hg : isGrouped x.2.leaf
  · exact (decoded_of_widened hg hb _ _).symm
  · exact (decoded_of_grouped hg _ _).symm

/-- The value of each lane: that of its element, zero out of bounds. -/
def laneValue (s t : State) (w bits : Nat) (bit : Nat → Nat) (ts : List (Elem × Trans)) (l : Nat) : Word :=
  match ts.find? (fun y => decide (y.1.lane = l)) with
  | some y => decoded y.2.leaf (seenNumber t t.curCore t.curWg y.2.pa w / 2 ^ bit l % 2 ^ bits)
      (seenNumber t t.curCore t.curWg (s.translate s.curCore s.curCtx (scaleVaOf y (bit y.1.lane)) .read).pa 4)
  | none => 0#32

theorem ldfWords_eq {w bits : Nat} {bit : Nat → Nat} {ts : List (Elem × Trans)} (hinj : lanesDistinct ts)
    (hb : ∀ x ∈ ts, formatBits x.2.leaf ≠ 0) :
    ldfWords t w bits bit ts (scalePages s bit ts) = (lanesOf t.active).map (fun l => (l, [laneValue s t w bits bit ts l])) := by
  refine List.map_congr_left fun l _ => congrArg (Prod.mk l) ?_
  unfold laneValue
  cases hfind : ts.find? (fun x => decide (x.1.lane = l)) with
  | none => rfl
  | some y =>
    have hmem := List.mem_of_find?_eq_some hfind
    have hlane : y.1.lane = l := by simpa only [decide_eq_true_eq] using List.find?_some hfind
    change [ldfValue t w bits bit (scalePages s bit ts) y] = _
    rw [ldfValue_eq hinj hmem (hb y hmem), hlane]
    simp only [scaleReached, hlane]

/-! ## Its elements -/

section Format

variable {q : QReg} {b : VSrc} {d : VDst} {bits : Nat}

theorem format_lanesDistinct : lanesDistinct ((formatAccess s q b bits).reached s) := by
  intro x hx y hy hlane
  obtain ⟨hx, -, hxp⟩ := mem_reached hx
  obtain ⟨hy, -, hyp⟩ := mem_reached hy
  obtain ⟨k, -, hk⟩ := List.mem_map.1 hx
  obtain ⟨l, -, hl⟩ := List.mem_map.1 hy
  have hkl : k = l := by
    rw [← hk, ← hl] at hlane
    exact hlane
  have he : x.1 = y.1 := by rw [← hk, ← hl, hkl]
  exact Prod.ext he (by rw [hxp, hyp, he])

/-- What FORMAT's trap names of the elements that lie on a page of another format. -/
theorem wrong_elems (hm : a.Mapped s) (bits : Nat) :
    ((a.reached s).filter (fun x => decide (formatBits x.2.leaf ≠ bits))).map Prod.fst =
      a.es.filter (fun e => (a.reached s).any (fun y => decide (y.1 = e) && decide (formatBits y.2.leaf ≠ bits))) := by
  have hany : ∀ e ∈ a.es, (a.reached s).any (fun y => decide (y.1 = e) && decide (formatBits y.2.leaf ≠ bits)) =
      (e.inb && decide (formatBits (a.page s e).leaf ≠ bits)) := by
    intro e he
    rw [Bool.eq_iff_iff, List.any_eq_true]
    simp only [Bool.and_eq_true, decide_eq_true_eq]
    constructor
    · rintro ⟨y, hy, rfl, hbits⟩
      obtain ⟨-, hin, hpage⟩ := mem_reached hy
      exact ⟨hin, hpage ▸ hbits⟩
    · rintro ⟨hin, hbits⟩
      refine ⟨(e, a.page s e), ?_, rfl, hbits⟩
      rw [reached_of_mapped hm]
      exact List.mem_map.2 ⟨e, List.mem_filter.2 ⟨he, hin⟩, rfl⟩
  rw [List.filter_congr hany, reached_of_mapped hm, List.filter_map, List.map_map, List.filter_filter]
  refine (List.map_id _).trans (List.filter_congr fun e _ => Bool.and_comm _ _)

/-! ## Its issue -/

theorem execLdf_eq {x : MemMod} (hp : Passes (.ldf q x d b) s) (hb : ¬ illegalNow (.ldf q x d b) s) :
    exec (.ldf q x d b) s = .next (s.formatLoad q d b) := by
  have hbad : (recBad (s.src.qreg q.val) || decide ((Rec.ofBits (s.src.qreg q.val)).swz ≠ 0) || decide (x.offset ≠ 0)) = false := by
    change ¬ (badRecord _ ∨ _ ∨ _) at hb
    simp only [not_or, ne_eq, Decidable.not_not, ← BitVec.toNat_inj] at hb
    obtain ⟨hrec, hswz, hoff⟩ := hb
    rw [Bool.eq_false_iff.2 (mt (recBad_iff _).1 hrec)]
    simp only [Rec.ofBits, nbits_toNat, hswz, hoff]
    simp
  change execLdf q x d b s = _
  exact hp.checked hbad rfl _

/-- The active lanes whose index lies in the record's extent. -/
def formatInb (s : State) (q : QReg) (b : VSrc) : List Nat :=
  (lanesOf s.active).filter (fun l => decide ((s.src.v32 l b).toNat < (Rec.ofBits (s.src.qreg q.val)).extent))

/-- The record of an LDF lets its lanes lie out of bounds, or none does. -/
def formatFits (s : State) (q : QReg) (b : VSrc) : Prop :=
  (Rec.ofBits (s.src.qreg q.val)).oob = true → ∀ l ∈ lanesOf s.active, l ∈ formatInb s q b

theorem format_inb (h : formatFits s q b) (ho : (Rec.ofBits (s.src.qreg q.val)).oob = true) :
    ∀ e ∈ (formatAccess s q b bits).es, e.inb = true := by
  intro e he
  obtain ⟨l, hl, rfl⟩ := List.mem_map.1 he
  exact (List.mem_filter.1 (h ho l hl)).2

theorem format_bounds (h : formatFits s q b) :
    ((Rec.ofBits (s.src.qreg q.val)).oob && !((formatAccess s q b 8).es.filter (fun e => !e.inb)).isEmpty) = false := by
  cases ho : (Rec.ofBits (s.src.qreg q.val)).oob
  · rfl
  · have hout : (formatAccess s q b 8).es.filter (fun e => !e.inb) = [] :=
      List.filter_eq_nil_iff.2 fun e he => by simp [format_inb h ho e he]
    rw [hout]
    rfl

theorem formatLoad_of_none (h : formatFits s q b) (hn : formatInb s q b = []) :
    s.formatLoad q d b = s.decodeLoad q d (Rec.ofBits (s.src.qreg q.val)) 8 (formatAccess s q b 8).es (fun _ => 0) := by
  unfold formatInb at hn
  unfold State.formatLoad
  extract_lets r idx inb place out s0
  have hb : (r.oob && !(out 8).isEmpty) = false := format_bounds h
  rw [hb, show inb = [] from hn]
  rfl

/-- The elements of BASE's page that the lanes in bounds stand for. -/
def baseElems (s : State) (q : QReg) (b : VSrc) : List Elem :=
  (formatInb s q b).map (fun l => ⟨l, true, ((Rec.ofBits (s.src.qreg q.val)).base : Int)⟩)

/-- The translation of BASE's page. -/
def basePage (s : State) (q : QReg) : Trans := s.translate s.curCore s.curCtx (Rec.ofBits (s.src.qreg q.val)).base .read

theorem reach_baseElems {pa leaf : Nat} {page : TlbEntry} (h : basePage s q = .ok pa leaf page) :
    s.reach q.val .read (baseElems s q b) = .all ((baseElems s q b).map (fun e => (e, basePage s q))) := by
  have hpage : ∀ e ∈ baseElems s q b, s.translate s.curCore s.curCtx e.a .read = basePage s q ∧ e.inb = true := by
    intro e he
    obtain ⟨l, -, rfl⟩ := List.mem_map.1 he
    exact ⟨rfl, rfl⟩
  rw [reach_of_pages fun e he _ => ⟨pa, leaf, page, (hpage e he).1.trans h⟩, List.filter_eq_self.2 fun e he => (hpage e he).2]
  exact congrArg Reach.all (List.map_congr_left fun e he => congrArg (Prod.mk e) (hpage e he).1)

/-- With a lane in bounds and BASE's page mapped, LDF goes by the format of that page. -/
theorem formatLoad_of_base (h : formatFits s q b) (hn : formatInb s q b ≠ []) {pa leaf : Nat} {page : TlbEntry}
    (hbase : basePage s q = .ok pa leaf page) : s.formatLoad q d b = match s.baseBits (Rec.ofBits (s.src.qreg q.val)) with
      | none => (oobNoted s (formatAccess s q b 8)).raise (s.elemTrap causeFormat 0 (baseElems s q b))
      | some bits => (s.touchAll s.curCore false ((formatInb s q b).map (fun _ => basePage s q))).decodeLoad q d
          (Rec.ofBits (s.src.qreg q.val)) bits (formatAccess s q b bits).es (formatBit s b bits) := by
  obtain ⟨k, ks, hcons⟩ := List.exists_cons_of_ne_nil hn
  unfold State.formatLoad
  extract_lets r idx inb place out s0 base
  have hb : (r.oob && !(out 8).isEmpty) = false := format_bounds h
  have hreach : s.reach q.val .read base = .all ((baseElems s q b).map (fun e => (e, basePage s q))) := reach_baseElems hbase
  have hpages : ((baseElems s q b).map (fun e => (e, basePage s q))).map Prod.snd = (formatInb s q b).map (fun _ => basePage s q) := by
    rw [baseElems, List.map_map, List.map_map]
    rfl
  rw [hb, show inb = k :: ks from hcons, hreach]
  dsimp only
  rw [hpages]
  rfl

theorem baseBits_eq {r : Rec} {pa leaf : Nat} {page : TlbEntry} (h : s.translate s.curCore s.curCtx r.base .read = .ok pa leaf page) :
    s.baseBits r = if formatBits leaf = 0 then none else some (formatBits leaf) := by
  unfold State.baseBits
  rw [h]
  simp only [fmtBits_pteFmt]

/-- An LDF leaves its destination owed a value for each lane, in state `u` with its lanes at next_pc. -/
def Decoded (s u t : State) (d : VDst) (value : Nat → Word) : Prop :=
  match d with
  | .reg k => Only { u with fresh := u.fresh + 1 } t (owing s (slot u .load (.vec (s.src.wb + k.val) 1)
      ((lanesOf s.active).map (fun l => (l, [value l]))) false))
  | .discard => Only u t (fun w => w.advanced s sameLane)

/-- What LDF answers where all its elements are on pages of one format and have their scale entries. -/
theorem ldfEff_decoded (hi : v.iss = s.iss) (hwb : v.src.wb = s.src.wb) (h : ∀ y ∈ a.reached v, formatBits y.2.leaf = bits)
    (hb : a.reached v ≠ [] → bits ≠ 0) (hinj : lanesDistinct (a.reached v)) {bit : Nat → Nat}
    (hs : ∀ y ∈ a.reached v, isGrouped y.2.leaf = true → ∃ pa leaf x, (scaleReached v bit y).2 = .ok pa leaf x ∧
      formatOf leaf = 0 ∧ v.sideWaits v.curCore v.curWg v.curCtx (scaleVaOf y (bit y.1.lane)) = false ∧ v.poisonedRead v.curCore v.curWg pa 4 = false) :
    let u := (a.seen v).touchAll v.curCore false
      (((a.reached v).filter (fun y => isGrouped y.2.leaf)).map (fun y => (scaleReached v bit y).2))
    Decoded s u (ldfEff v q d a.w bits bit (a.reached v) (a.seen v)) d (laneValue v u a.w bits bit (a.reached v)) := by
  intro u
  have hmem : ∀ z ∈ scalePages v bit (a.reached v), ∃ y ∈ a.reached v, isGrouped y.2.leaf = true ∧ scaleReached v bit y = z := by
    intro z hz
    obtain ⟨y, hy, rfl⟩ := List.mem_map.1 hz
    obtain ⟨hy, hg⟩ := List.mem_filter.1 hy
    exact ⟨y, hy, hg, rfl⟩
  have hreach : v.reach q.val .read (scaleElems bit (a.reached v)) = .all (scalePages v bit (a.reached v)) :=
    reach_scaleElems (fun y hy hg => by
      obtain ⟨pa, leaf, x, hok, -⟩ := hs y hy hg
      exact ⟨pa, leaf, x, hok⟩) q.val
  have hu : (a.seen v).touchAll (a.seen v).curCore false ((scalePages v bit (a.reached v)).map Prod.snd) = u := by
    rw [seen_curCore, scalePages, List.map_map]
    rfl
  have hiu : u.iss = s.iss := ((walked_touchAll ..).iss.trans (seen_iss a v)).trans hi
  have hwu : u.src.wb = s.src.wb := (congrArg Wave.wb (walked_touchAll ..).src).trans ((seen_wb a v).trans hwb)
  rw [ldfEff_of_right h hreach, hu, ldfWords_eq hinj fun y hy => by rw [h y hy]; exact hb (List.ne_nil_of_mem hy),
    show u.active = s.active from congrArg Issue.lanes hiu]
  · exact owed_load hiu hwu d 1 false _
  · intro z hz
    obtain ⟨y, hy, hg, rfl⟩ := hmem z hz
    obtain ⟨pa, leaf, x, hok, hraw, -⟩ := hs y hy hg
    rw [hok]
    exact hraw
  · intro z hz
    obtain ⟨y, hy, hg, rfl⟩ := hmem z hz
    obtain ⟨pa, leaf, x, -, -, hside, -⟩ := hs y hy hg
    exact hside
  · intro z hz
    obtain ⟨y, hy, hg, rfl⟩ := hmem z hz
    obtain ⟨pa, leaf, x, hok, -, -, hlost⟩ := hs y hy hg
    rw [hok]
    exact hlost

/-- The elements of an LDF are read once they fit, are mapped and sound. -/
theorem decodeLoad_of_sound (h : a = formatAccess v q b bits) (hf : a.Fits v) (hm : a.Mapped v) (hl : a.Sound v) (bit : Nat → Nat) :
    v.decodeLoad q d (Rec.ofBits (v.src.qreg q.val)) bits (formatAccess v q b bits).es bit =
      ldfEff v q d a.w bits bit (a.reached v) (a.seen v) := by
  have hstore : a.store = false := by rw [h]; rfl
  have hdecode : v.decodeLoad q d (Rec.ofBits (v.src.qreg q.val)) bits (formatAccess v q b bits).es bit =
      v.reading a.q.val a.w a.w (a.record v) a.es 0 (ldfEff v q d a.w bits bit) := by
    rw [h]
    exact decodeLoad_eq ..
  exact hdecode.trans (reading_of_sound hstore hf hm hl)

theorem formatAccess_walked (h : Walked s v) : formatAccess v q b bits = formatAccess s q b bits := by
  unfold formatAccess
  rw [h.src, h.active]

theorem formatBit_walked (h : Walked s v) : formatBit v b bits = formatBit s b bits := by
  unfold formatBit
  rw [h.src]

theorem not_inb_of_none (hn : formatInb s q b = []) : ∀ e ∈ (formatAccess s q b bits).es, e.inb = false := by
  intro e he
  obtain ⟨l, hl, rfl⟩ := List.mem_map.1 he
  exact Bool.eq_false_iff.2 fun hin => List.filter_eq_nil_iff.1 hn l hl hin

/-- With no lane in bounds LDF owes zeros. -/
theorem ldf_of_none (h : formatFits s q b) (hn : formatInb s q b = []) :
    Decoded s ((formatAccess s q b 8).seen s) (s.formatLoad q d b) d (fun _ => 0#32) := by
  have hout := not_inb_of_none (bits := 8) hn
  have hno {e : Elem} {P : Prop} (he : e ∈ (formatAccess s q b 8).es) (hin : e.inb = true) : P :=
    absurd hin (Bool.eq_false_iff.1 (hout e he))
  have hf : (formatAccess s q b 8).Fits s :=
    ⟨fun hs => absurd hs Bool.false_ne_true, format_inb h, fun e he => by simp [uneven, hout e he],
      fun e he => by simp [beyond, hout e he]⟩
  have hm : (formatAccess s q b 8).Mapped s := ⟨fun e he hin => hno he hin, fun e he hin => hno he hin⟩
  have hnil : (formatAccess s q b 8).reached s = [] := by
    rw [reached_of_mapped hm, List.filter_eq_nil_iff.2 fun e he hin => hno he hin]
    rfl
  have hany {y : Elem × Trans} {P : Prop} (hy : y ∈ (formatAccess s q b 8).reached s) : P := by
    rw [hnil] at hy
    exact absurd hy List.not_mem_nil
  rw [formatLoad_of_none h hn, decodeLoad_of_sound rfl hf hm fun e he hin => hno he hin]
  have hdec := ldfEff_decoded (s := s) (q := q) (d := d) (a := formatAccess s q b 8) (bits := 8) (bit := fun _ => 0) rfl rfl
    (fun y hy => hany hy) (fun _ => by decide) (fun y hy => hany hy) fun y hy => hany hy
  rw [hnil] at hdec ⊢
  exact hdec

/-- A raw page at BASE raises FORMAT. -/
theorem ldf_of_raw (h : formatFits s q b) (hn : formatInb s q b ≠ []) {pa leaf : Nat} {page : TlbEntry}
    (hbase : basePage s q = .ok pa leaf page) (hraw : formatBits leaf = 0) : s.formatLoad q d b =
      (oobNoted s (formatAccess s q b 8)).raise (trapAt s 0x08 0 (maskOf (fun l => decide (l ∈ formatInb s q b)))
        (BitVec.ofNat 48 (Rec.ofBits (s.src.qreg q.val)).base)) := by
  rw [formatLoad_of_base h hn hbase, baseBits_eq hbase, if_pos hraw]
  have hlanes : laneSet (baseElems s q b) = maskOf (fun l => decide (l ∈ formatInb s q b)) := by
    refine congrArg maskOf (funext fun l => ?_)
    rw [baseElems, List.any_map, Bool.eq_iff_iff, List.any_eq_true, decide_eq_true_eq]
    simp
  have hfaddr : BitVec.ofNat 48 (faddrOf (baseElems s q b)) = BitVec.ofNat 48 (Rec.ofBits (s.src.qreg q.val)).base := by
    obtain ⟨k, ks, hcons⟩ := List.exists_cons_of_ne_nil hn
    rw [baseElems, hcons]
    apply BitVec.eq_of_toNat_eq
    rw [BitVec.toNat_ofNat, BitVec.toNat_ofNat]
    change (((Rec.ofBits (s.src.qreg q.val)).base : Int) % 2 ^ 48).toNat % 2 ^ 48 = _
    omega
  rw [State.elemTrap, State.mkTrap, hlanes, hfaddr]
  rfl

/-- LDF on a tagged page: FORMAT for a page of another size, else the values. -/
theorem ldf_of_tagged (h : formatFits s q b) (hn : formatInb s q b ≠ []) {pa leaf : Nat} {page : TlbEntry}
    (hbase : basePage s q = .ok pa leaf page) (htag : formatBits leaf ≠ 0) (hv : v = s.touchAll s.curCore false
      ((formatInb s q b).map (fun _ => basePage s q))) (ha : a = formatAccess v q b (formatBits leaf)) (hf : a.Fits v) (hm : a.Mapped v)
    (hl : a.Sound v) : s.formatLoad q d b =
      ldfEff v q d a.w (formatBits leaf) (formatBit v b (formatBits leaf)) (a.reached v) (a.seen v) := by
  have hw : Walked s v := hv ▸ walked_touchAll ..
  rw [← decodeLoad_of_sound ha hf hm hl, formatLoad_of_base h hn hbase, baseBits_eq hbase, if_neg htag, formatBit_walked hw,
    formatAccess_walked hw, hw.src, hv]

end Format

/-- Settles O27: each load reads as `reading_of_sound` says and owes what it read. -/
theorem recordLoads : Obligations.RecordLoads := by
  unfold Obligations.RecordLoads
  constructor
  · intro i s a ha hp hb hf hm hl u p word through path lanes owes
    refine ⟨?_, ?_, ?_, ?_, ?_⟩
    · rintro q w x d b rfl
      exact ld_loads ha hp hb hf hm hl
    · rintro q w x d b rfl
      exact ldacq_loads ha hp hb hf hm hl
    · rintro q w x d b rfl
      exact ldro_loads ha hp hb hf hm hl
    · rintro q w x d b rfl
      exact ldu_spec ha hp hb hf hm hl
    · rintro q f x d b rfl
      have h : a = sampleAccess s q f x.offset b := (Option.some.inj ha).symm
      exact ⟨_, sample_spec hp hb h hf hm hl, sampleEff_seen q f x.offset d b a h⟩
  · intro q x d b s i r inb base hp hb hoob owes
    have hexec := execLdf_eq hp hb
    refine ⟨fun hn => ⟨_, hexec, ldf_of_none hoob hn⟩,
      fun hn pa leaf page hbase hraw => hexec.trans (congrArg Host.Outcome.next (ldf_of_raw hoob hn hbase hraw)), ?_⟩
    intro hn pa leaf page hbase htag bits v a hf hm hl es bit scaleAt
    have hv : Walked s v := walked_touchAll ..
    have hload : s.formatLoad q d b = ldfEff v q d a.w bits bit es (a.seen v) := ldf_of_tagged hoob hn hbase htag rfl rfl hf hm hl
    rw [hload] at hexec
    refine ⟨fun hwrong => hexec.trans (congrArg Host.Outcome.next ?_), fun hright hscale => ⟨_, hexec, ?_⟩⟩
    · rw [ldfEff_of_wrong hwrong, State.elemTrap, wrong_elems hm bits]
      rfl
    · exact ldfEff_decoded hv.iss (congrArg Wave.wb hv.src) hright (fun _ => htag) format_lanesDistinct hscale

end Sys2Proof.Claims
end

section
/-! # Tethers

A WAITU posts a tether (R218), whose life is told by three things said once: the comparison of the model is that of Table 9.8
(`cmpHolds_eq`), an arming goes one of four ways (`arm_of_holds` and the lemmas after it), and what the hub writes of a status block
or a spill area changes no more than a write of memory brings (`HubFrame`). -/

namespace Sys2Proof.Claims

open Sys2Proof Sys2Proof.Machine

variable {s t : State} {a : Access}

/-! ## WAITU (R218) -/

theorem only_waituNow (s : State) (wide : Bool) (d : SReg) (value status : Nat) :
    Only s (s.waituNow wide d value status) (fun w => { w with s := waituRegs s.giveS wide d.val value status w.s }) := by
  have hfirst := only_putS s d.val (word32 value)
  have hsecond := (only_putS (s.putS d.val (word32 value)) (d.val + 1) (word32 (value / 2 ^ 32)))
  unfold State.waituNow waituRegs
  cases wide
  · have hlast := hfirst.trans (only_putS _ (d.val + 1) (word32 status))
    simp only [giveS_putS] at hlast
    exact hlast
  · have hlast := (hfirst.trans hsecond).trans (only_putS _ (d.val + 2) (word32 status))
    simp only [giveS_putS] at hlast
    exact hlast

theorem giveS_congr (h : t.iss = s.iss) : t.giveS = s.giveS := by
  unfold State.giveS
  rw [h]

/-- What WAITU does with the element it reaches. -/
def waituEff (s : State) (wide : Bool) (d : SReg) (x : WaitMod) (ts : List (Elem × Trans)) (t : State) : State :=
  match ts with
  | [] => (t.waituNow wide d 0 3).adv
  | y :: _ =>
    let pa := homePa y.1.a y.2
    let t1 := if t.buffers t.curWg pa (if wide then 8 else 4) then t.commit t.curWg else t
    let (id, t2) := t1.freshId
    let y := if wide then (s.src.sreg64 x.opnd.val).toNat else (s.src.sreg x.opnd.val).toNat
    let tmo := (s.src.sreg x.tmo.val).toNat
    let tether : Tether :=
      ⟨id, pa, wide, x.cmp, y, if tmo = 0 then none else some tmo, t.curCtx, .wave s.iss.key, none, false, x.scope⟩
    (({ t2 with unarmed := t2.unarmed ++ [tether] }).modCur (fun v => { v with wait := .waitu d.val wide })).adv

theorem exec_waitu {q : QReg} {wide : Bool} {d : SReg} {b : USrc} {x : WaitMod} (ha : accessRule (.waitu q wide d b x) s = some a)
    (hp : Passes (.waitu q wide d b x) s) (hb : ¬ badRecord (s.src.qreg q.val)) (hf : a.Fits s) (hm : a.Mapped s) (hl : a.Sound s) :
    exec (.waitu q wide d b x) s = .next (waituEff s wide d x (a.reached s) (a.seen s)) := by
  have hread := reading_of_sound (kind := 0) (eff := waituEff s wide d x) (show a.store = false by cases ha; rfl) hf hm hl
  have hexec : exec (.waitu q wide d b x) s = .next (s.reading a.q.val a.w a.w (a.record s) a.es 0 (waituEff s wide d x)) := by
    change execWaitu q wide d b x s = _
    obtain rfl := Option.some.inj ha
    exact recForm_passes hp hb
  exact hexec.trans (congrArg Host.Outcome.next hread)

/-- Out of bounds a WAITU answers at once. -/
theorem waituEff_nil (wide : Bool) (d : SReg) (x : WaitMod) : Only (a.seen s) (waituEff s wide d x [] (a.seen s))
    (fun w => { w.advanced s sameLane with s := waituRegs s.giveS wide d.val 0 3 w.s }) := by
  refine (only_waituNow (a.seen s) wide d 0 3).advAfter.congr fun w => ?_
  rw [advanced_congr (seen_iss a s), giveS_congr (seen_iss a s)]
  rfl

/-- A tether left to be armed. -/
def tetherPosted (v : State) (k : Tether) : State := { v with fresh := v.fresh + 1, unarmed := v.unarmed ++ [k] }

theorem only_tetherPosted {v : State} (h : v.iss = s.iss) (k : Tether) (wt : Wait) :
    Only (tetherPosted v k) ((tetherPosted v k).modCur (fun w => { w with wait := wt })).adv
      (fun w => { w.advanced s sameLane with wait := wt }) := by
  have hiss : (tetherPosted v k).iss = s.iss := h
  refine (Only.modCur (tetherPosted v k) _).advAfter.congr fun w => ?_
  rw [advanced_congr hiss]
  rfl

/-- The workgroup's own stores to a location of `n` bytes are committed where it has any. -/
def storesCommitted (u : State) (home n : Nat) : State :=
  if (List.range n).any (fun k => (tabGet (u.wg u.curWg).sbuf (home + k)).isSome) then u.commit u.curWg else u

theorem storesCommitted_iss (u : State) (home n : Nat) : (storesCommitted u home n).iss = u.iss := by
  unfold storesCommitted
  split <;> rfl

/-- The number a WAITU compares with. -/
def waituOpnd (s : State) (wide : Bool) (x : WaitMod) : Nat :=
  if wide then (s.src.sreg x.opnd.val).toNat + 2 ^ 32 * (s.src.sreg (x.opnd.val + 1)).toNat else (s.src.sreg x.opnd.val).toNat

/-- The tether of a WAITU on location `home`. -/
def waituTether (s v : State) (wide : Bool) (x : WaitMod) (home : Nat) : Tether :=
  ⟨v.fresh, home, wide, x.cmp, waituOpnd s wide x, if (s.src.sreg x.tmo.val).toNat = 0 then none else some (s.src.sreg x.tmo.val).toNat,
    s.curCtx, .wave s.iss.key, none, false, x.scope⟩

/-- The element of a WAITU leaves a tether to be armed. -/
theorem waituEff_cons {wide : Bool} (d : SReg) (x : WaitMod) (e : Elem) (pa leaf : Nat) (page : TlbEntry) (r : List (Elem × Trans))
    {v : State} (hv : v = storesCommitted (a.seen s) (ptePa leaf + (e.a - page.va)) (if wide then 8 else 4)) :
    waituEff s wide d x ((e, .ok pa leaf page) :: r) (a.seen s) =
      ((tetherPosted v (waituTether s v wide x (ptePa leaf + (e.a - page.va)))).modCur
        (fun w => { w with wait := .waitu d.val wide })).adv := by
  have hy : (if wide then (s.src.sreg64 x.opnd.val).toNat else (s.src.sreg x.opnd.val).toNat) = waituOpnd s wide x := by
    rw [Wave.sreg64, toNat_pair64, Nat.mul_comm, waituOpnd]
  rw [hv, waituTether, ← hy, ← seen_curCtx a s]
  rfl

theorem waitu_spec (q : QReg) (wide : Bool) (d : SReg) (b : USrc) (x : WaitMod) (s : State) (a : Access) :
    let i := Instr.waitu q wide d b x
    accessRule i s = some a → Passes i s → ¬ illegalNow i s → a.Fits s → a.Mapped s → a.Sound s →
    let u := a.seen s
    (a.reached s = [] → ∃ t, exec i s = .next t ∧
      Only u t (fun w => { w.advanced s sameLane with s := waituRegs s.giveS wide d.val 0 3 w.s })) ∧
    (∀ e pa leaf page r, a.reached s = (e, .ok pa leaf page) :: r →
      let home := ptePa leaf + (e.a - page.va)
      let v := if (List.range a.w).any (fun k => (tabGet (u.wg u.curWg).sbuf (home + k)).isSome) then u.commit u.curWg else u
      let y := if wide then (s.src.sreg x.opnd.val).toNat + 2 ^ 32 * (s.src.sreg (x.opnd.val + 1)).toNat else (s.src.sreg x.opnd.val).toNat
      let tmo := (s.src.sreg x.tmo.val).toNat
      ∃ t, exec i s = .next t ∧ Only { v with
          fresh := v.fresh + 1
          unarmed := v.unarmed ++ [⟨v.fresh, home, wide, x.cmp, y, if tmo = 0 then none else some tmo, s.curCtx, .wave s.iss.key, none,
            false, x.scope⟩] } t
        (fun w => { w.advanced s sameLane with wait := .waitu d.val wide })) := by
  intro i ha hp hb hf hm hl u
  have hexec := exec_waitu ha hp hb hf hm hl
  have hw : a.w = if wide then 8 else 4 := by cases ha; rfl
  constructor
  · intro hnil
    rw [hnil] at hexec
    exact ⟨_, hexec, waituEff_nil wide d x⟩
  · intro e pa leaf page r hcons
    rw [hcons] at hexec
    intro home v y tmo
    have hv : v = storesCommitted u home (if wide then 8 else 4) := by
      rw [← hw]
      rfl
    rw [waituEff_cons d x e pa leaf page r hv] at hexec
    exact ⟨_, hexec, only_tetherPosted (hv ▸ (storesCommitted_iss ..).trans (seen_iss a s)) _ _⟩

/-! ## The comparison (Table 9.8) -/

theorem toNat_ofNat_of_lt {n x : Nat} (h : x < 2 ^ n) : (BitVec.ofNat n x).toNat = x := by
  rw [BitVec.toNat_ofNat, Nat.mod_eq_of_lt h]

theorem ofNat_inj {n x y : Nat} (hx : x < 2 ^ n) (hy : y < 2 ^ n) : BitVec.ofNat n x = BitVec.ofNat n y ↔ x = y := by
  rw [← BitVec.toNat_inj, toNat_ofNat_of_lt hx, toNat_ofNat_of_lt hy]

theorem ofNat_and_eq_zero {n x y : Nat} (hx : x < 2 ^ n) (hy : y < 2 ^ n) :
    BitVec.ofNat n x &&& BitVec.ofNat n y = 0 ↔ x &&& y = 0 := by
  rw [← BitVec.toNat_inj, BitVec.toNat_and, toNat_ofNat_of_lt hx, toNat_ofNat_of_lt hy]
  exact Iff.of_eq (congrArg (x &&& y = ·) (by simp))

theorem cmpHolds_width (c : Cmp) {n x y : Nat} (hx : x < 2 ^ n) (hy : y < 2 ^ n) :
    (match c with
      | .eq => decide (x = y)
      | .ne => decide (x ≠ y)
      | .lt => decide (sextN x n < sextN y n)
      | .ge => decide (sextN y n ≤ sextN x n)
      | .ltu => decide (x < y)
      | .geu => decide (y ≤ x)
      | .anyset => decide (x &&& y ≠ 0)
      | .allclr => decide (x &&& y = 0)) =
    match c with
      | .eq => decide (BitVec.ofNat n x = BitVec.ofNat n y)
      | .ne => decide (BitVec.ofNat n x ≠ BitVec.ofNat n y)
      | .lt => (BitVec.ofNat n x).slt (BitVec.ofNat n y)
      | .ge => (BitVec.ofNat n y).sle (BitVec.ofNat n x)
      | .ltu => (BitVec.ofNat n x).ult (BitVec.ofNat n y)
      | .geu => (BitVec.ofNat n y).ule (BitVec.ofNat n x)
      | .anyset => decide (BitVec.ofNat n x &&& BitVec.ofNat n y ≠ 0)
      | .allclr => decide (BitVec.ofNat n x &&& BitVec.ofNat n y = 0) := by
  cases c with
  | eq => exact decide_eq_decide.2 (ofNat_inj hx hy).symm
  | ne => exact decide_eq_decide.2 (not_congr (ofNat_inj hx hy)).symm
  | lt =>
    dsimp only
    rw [BitVec.slt_eq_decide, sextN_eq_toInt, sextN_eq_toInt]
  | ge =>
    dsimp only
    rw [BitVec.sle_eq_decide, sextN_eq_toInt, sextN_eq_toInt]
  | ltu =>
    dsimp only
    rw [BitVec.ult, toNat_ofNat_of_lt hx, toNat_ofNat_of_lt hy]
  | geu =>
    dsimp only
    rw [BitVec.ule, toNat_ofNat_of_lt hx, toNat_ofNat_of_lt hy]
  | anyset => exact decide_eq_decide.2 (not_congr (ofNat_and_eq_zero hx hy)).symm
  | allclr => exact decide_eq_decide.2 (ofNat_and_eq_zero hx hy).symm

/-- The comparison of a tether is that of Table 9.8. -/
theorem cmpHolds_eq {k : Tether} (hk : opndFits k) {x : Nat} (hx : x < 2 ^ (if k.wide then 64 else 32)) :
    cmpHolds k.cmp k.wide x k.opnd = tetherHolds k x := by
  have hy : k.opnd < 2 ^ (if k.wide then 64 else 32) := by
    have h := hk
    unfold opndFits at h
    cases hw : k.wide <;> simpa [hw] using h
  exact cmpHolds_width k.cmp hx hy

theorem valueAt_lt (s : State) (k : Tether) : valueAt s k < 2 ^ (if k.wide then 64 else 32) := by
  have h := natOfBytes_lt ((List.range (if k.wide then 8 else 4)).map (fun i => s.mem.get (k.pa + i)))
  rw [List.length_map, List.length_range] at h
  unfold valueAt
  revert h
  cases k.wide <;> exact id

/-! ## Arming (R102, R221) -/

/-- The tethers still to be armed when `k` has been. -/
def unarmedLeft (s : State) (k : Tether) : List Tether := s.unarmed.filter (fun u => decide (u.id ≠ k.id))

/-- A tether of a saved wave that is armed notes its deadline (R372). -/
def deadlineNoted (s : State) (k : Tether) (v : State) : State :=
  match k.waiter, (armed s k).deadline with
  | .saved wg ix, some d => v.setStatus wg ix [(6, BitVec.ofNat 32 d), (7, BitVec.ofNat 32 (d / 2 ^ 32))]
  | _, _ => v

section Arm

variable {k : Tether} (hk : opndFits k)

include hk

theorem arm_holds : cmpHolds k.cmp k.wide (s.mem.nat k.pa k.bytes) k.opnd = tetherHolds k (valueAt s k) :=
  cmpHolds_eq hk (valueAt_lt s k)

/-- Where the comparison holds the wake is posted at once. -/
theorem arm_of_holds (h : tetherHolds k (valueAt s k) = true) :
    s.arm k = { s with unarmed := unarmedLeft s k, wakes := s.wakes ++ [⟨k.waiter, valueAt s k, 2⟩] } := by
  unfold State.arm
  extract_lets value s1
  have hvalue : cmpHolds k.cmp k.wide value k.opnd = true := (arm_holds hk).trans h
  rw [if_pos hvalue]
  rfl

theorem arm_of_not (h : tetherHolds k (valueAt s k) = false) : s.arm k =
    if s.tableRoom (homeDie k.pa) then deadlineNoted s k { s with unarmed := unarmedLeft s k, tethers := s.tethers ++ [armed s k] }
    else match s.freeSpill k.ctx with
      | some n => deadlineNoted s k (({ s with
          unarmed := unarmedLeft s k
          tethers := s.tethers ++ [{ armed s k with spill := some n }] } : State).syncSpill k.ctx)
      | none =>
        let s2 := { s with unarmed := s.unarmed.map (fun u => if u.id = k.id then { u with parked := true } else u) }
        if k.parked then s2 else s2.report { Report.plain 0x24 1 with ctx := k.ctx, addr := k.pa } := by
  unfold State.arm
  extract_lets value s1
  have hvalue : cmpHolds k.cmp k.wide value k.opnd = false := (arm_holds hk).trans h
  rw [if_neg (ne_true_of_eq_false hvalue)]
  rfl

end Arm

/-- A free entry lies in the area, and no tether of its context has it. -/
theorem freeSpill_spec {c n : Nat} (h : s.freeSpill c = some n) :
    n < (s.ctx c).spillcap ∧ ∀ u ∈ s.tethers, u.ctx = c → u.spill ≠ some n := by
  have hfree := List.find?_some h
  simp only [Bool.and_eq_true, decide_eq_true_eq, Bool.not_eq_true', List.any_eq_false, not_and] at hfree
  exact ⟨hfree.1, hfree.2⟩

/-- A store that its wave's core has committed to the line, and not performed, stands before the arming. -/
def armWaits (s : State) (k : Tether) : Prop :=
  ∃ key c, k.waiter = .wave key ∧ c ∈ (s.core (key / 64)).committed ∧ c.line = k.pa / 128

theorem armBlocked_iff (s : State) (k : Tether) : s.armBlocked k = true ↔ armWaits s k := by
  unfold State.armBlocked armWaits
  cases k.waiter with
  | wave key =>
    simp only [List.any_eq_true, decide_eq_true_eq, Waiter.wave.injEq]
    exact ⟨fun ⟨c, hc, hline⟩ => ⟨key, c, rfl, hc, hline⟩, fun ⟨_, c, hkey, hc, hline⟩ => ⟨c, hkey ▸ hc, hline⟩⟩
  | saved | ray | grid => simp

theorem exec_tetherArm {k : Tether} (h : s.unarmed.find? (fun u => decide (u.id = k.id) && (u.parked == false)) = some k) :
    exec (.tetherArm k.id) s = .next (if s.armBlocked k then s else s.arm k) := by
  have hfind : s.unarmed.find? (fun u => decide (u.id = k.id) && !u.parked) = some k := by
    rw [← h]
    congr 1
    funext u
    cases u.parked <;> rfl
  change execTetherArm k.id s = _
  rw [execTetherArm, hfind]

theorem exec_tetherArmRetry {k : Tether} (h : s.unarmed.find? (fun u => decide (u.id = k.id) && (u.parked == true)) = some k) :
    exec (.tetherArmRetry k.id) s = .next (if s.tableRoom (homeDie k.pa) || (s.freeSpill k.ctx).isSome then s.arm k else s) := by
  have hfind : s.unarmed.find? (fun u => decide (u.id = k.id) && u.parked) = some k := by
    rw [← h]
    congr 1
    funext u
    cases u.parked <;> rfl
  change execTetherArmRetry k.id s = _
  rw [execTetherArmRetry, hfind]

theorem tableRoom_iff (s : State) (k : Tether) : s.tableRoom (homeDie k.pa) = true ↔ tableFree s k := decide_eq_true_iff

/-- An arming that nothing stands before is carried out; one made again has room. -/
theorem exec_arm {k : Tether} {retry : Bool} (h : s.unarmed.find? (fun u => decide (u.id = k.id) && (u.parked == retry)) = some k)
    (hb : ¬ (retry = false ∧ armWaits s k)) (hr : retry = false ∨ tableFree s k ∨ s.freeSpill k.ctx ≠ none) :
    exec (if retry then .tetherArmRetry k.id else .tetherArm k.id) s = .next (s.arm k) := by
  cases retry with
  | false =>
    have hblocked : ¬ s.armBlocked k = true := fun hw => hb ⟨rfl, (armBlocked_iff s k).1 hw⟩
    exact (exec_tetherArm h).trans (congrArg Host.Outcome.next (if_neg hblocked))
  | true =>
    have hroom : (s.tableRoom (homeDie k.pa) || (s.freeSpill k.ctx).isSome) = true := by
      rw [Bool.or_eq_true, tableRoom_iff, Option.isSome_iff_ne_none]
      exact hr.resolve_left (by decide)
    exact (exec_tetherArmRetry h).trans (congrArg Host.Outcome.next (if_pos hroom))

theorem arm_spec (s : State) (k : Tether) (retry : Bool)
    (h : s.unarmed.find? (fun u => decide (u.id = k.id) && (u.parked == retry)) = some k) (hk : opndFits k) :
    let i := if retry then Instr.tetherArmRetry k.id else Instr.tetherArm k.id
    let left := s.unarmed.filter (fun u => decide (u.id ≠ k.id))
    let blocked := retry = false ∧ ∃ key c, k.waiter = .wave key ∧ c ∈ (s.core (key / 64)).committed ∧ c.line = k.pa / 128
    let noted := fun (v : State) => match k.waiter, (armed s k).deadline with
      | .saved wg ix, some d => v.setStatus wg ix [(6, BitVec.ofNat 32 d), (7, BitVec.ofNat 32 (d / 2 ^ 32))]
      | _, _ => v
    (blocked → exec i s = .next s) ∧
    (¬ blocked → tetherHolds k (valueAt s k) = true → retry = false ∨ tableFree s k ∨ s.freeSpill k.ctx ≠ none →
      exec i s = .next { s with unarmed := left, wakes := s.wakes ++ [⟨k.waiter, valueAt s k, 2⟩] }) ∧
    (¬ blocked → tetherHolds k (valueAt s k) = false → tableFree s k →
      exec i s = .next (noted { s with unarmed := left, tethers := s.tethers ++ [armed s k] })) ∧
    (¬ blocked → tetherHolds k (valueAt s k) = false → ¬ tableFree s k → ∀ n, s.freeSpill k.ctx = some n →
      n < (s.ctx k.ctx).spillcap ∧ (∀ u ∈ s.tethers, u.ctx = k.ctx → u.spill ≠ some n) ∧
      exec i s = .next (noted (({ s with
        unarmed := left
        tethers := s.tethers ++ [{ armed s k with spill := some n }] } : State).syncSpill k.ctx))) ∧
    (¬ blocked → ¬ tableFree s k → s.freeSpill k.ctx = none →
      (retry = true → exec i s = .next s) ∧
      (retry = false → tetherHolds k (valueAt s k) = false → exec i s = .next (State.report { s with
        unarmed := s.unarmed.map (fun u => if u.id = k.id then { u with parked := true } else u) }
          { Report.plain 0x24 1 with ctx := k.ctx, addr := k.pa }))) := by
  intro i left blocked noted
  refine ⟨fun hb => ?_, fun hb hholds hroom => ?_, fun hb hnot hfree => ?_, fun hb hnot hfull n hn => ?_,
    fun hb hfull hn => ⟨fun hr => ?_, fun hr hnot => ?_⟩⟩
  · obtain ⟨rfl, hw⟩ := hb
    exact (exec_tetherArm h).trans (congrArg Host.Outcome.next (if_pos ((armBlocked_iff s k).2 hw)))
  · exact (exec_arm h hb hroom).trans (congrArg Host.Outcome.next (arm_of_holds hk hholds))
  · have harm := arm_of_not hk hnot
    rw [if_pos ((tableRoom_iff s k).2 hfree)] at harm
    exact (exec_arm h hb (.inr (.inl hfree))).trans (congrArg Host.Outcome.next harm)
  · have harm := arm_of_not hk hnot
    rw [if_neg (mt (tableRoom_iff s k).1 hfull), hn] at harm
    obtain ⟨hcap, hown⟩ := freeSpill_spec hn
    exact ⟨hcap, hown, (exec_arm h hb (.inr (.inr (by rw [hn]; exact Option.some_ne_none n)))).trans (congrArg Host.Outcome.next harm)⟩
  · subst hr
    have hroom : ¬ (s.tableRoom (homeDie k.pa) || (s.freeSpill k.ctx).isSome) = true := by
      rw [Bool.or_eq_true, tableRoom_iff, hn]
      exact not_or_intro hfull Bool.false_ne_true
    exact (exec_tetherArmRetry h).trans (congrArg Host.Outcome.next (if_neg hroom))
  · have hparked : k.parked = false := by
      have hfound := List.find?_some h
      rw [Bool.and_eq_true, beq_iff_eq, hr] at hfound
      exact hfound.2
    have harm := arm_of_not hk hnot
    rw [if_neg (mt (tableRoom_iff s k).1 hfull), hn] at harm
    dsimp only at harm
    rw [if_neg (ne_true_of_eq_false hparked)] at harm
    exact (exec_arm h hb (.inl hr)).trans (congrArg Host.Outcome.next harm)

/-! ## What the hub writes of a status block and a spill area (R344, R345) -/

section Hub

variable {v : State}

theorem HubFrame.refl (s : State) : HubFrame s s := rfl

theorem HubFrame.ite {c : Prop} [Decidable c] {t u : State} (ht : HubFrame v t) (hu : HubFrame v u) :
    HubFrame v (if c then t else u) := by split <;> assumption

theorem HubFrame.foldl {α : Type} {f : State → α → State} {l : List α} (hf : ∀ t x, HubFrame v t → HubFrame v (f t x))
    (h : HubFrame v s) : HubFrame v (l.foldl f s) := List.foldlRecOn l f h fun t k x _ => hf t x k

theorem HubFrame.perform {cells : List (Nat × Byte)} (h : HubFrame v s) : HubFrame v (s.perform cells) := h

theorem HubFrame.orLeaf {pa bits : Nat} (h : HubFrame v s) : HubFrame v (s.orLeaf pa bits) := .ite h h

theorem HubFrame.askPage {ctx va kind : Nat} (h : HubFrame v s) : HubFrame v (s.askPage ctx va kind) := by
  unfold State.askPage
  extract_lets
  split
  · refine .ite h ?_
    split
    · exact h
    · exact h
  · exact h

theorem HubFrame.hubSeen {ctx va n : Nat} {need : Need} (h : HubFrame v s) : HubFrame v (s.hubSeen ctx va n need) := by
  refine .foldl (fun t x k => ?_) h
  split
  · exact .orLeaf k
  all_goals exact k

theorem HubFrame.hubWrite {ctx va : Nat} {bs : List Byte} (h : HubFrame v s) : HubFrame v (s.hubWrite ctx va bs) := by
  unfold State.hubWrite
  split
  · extract_lets u
    have hu : HubFrame v u := .hubSeen h
    split
    · exact hu
    · exact .perform hu
  · exact h

theorem HubFrame.hubPost {ctx : Nat} {parts : List (Nat × List Byte)} (h : HubFrame v s) : HubFrame v (s.hubPost ctx parts) := by
  unfold State.hubPost
  extract_lets
  split
  · exact .askPage (s := { s with posted := _ }) h
  · exact .foldl (fun _ _ k => .hubWrite k) h

theorem HubFrame.wgs (h : HubFrame s t) : t.wgs = s.wgs := by rw [← h]

end Hub

theorem modWg_status (s : State) (wg ix : Nat) (ws : List (Nat × Word)) :
    s.modWg wg (fun g => { g with status := modAt g.status ix (fun t => ws.foldl (fun t x => tabSet t x.1 x.2) t) }) =
      { s with wgs := statusSet s wg ix ws } := by
  simp only [State.modWg, statusSet, modAt_eq_modify]

theorem setStatus_hubFrame (s : State) (wg ix : Nat) (ws : List (Nat × Word)) :
    HubFrame { s with wgs := statusSet s wg ix ws } (s.setStatus wg ix ws) := by
  unfold State.setStatus
  rw [modWg_status]
  exact .ite (.refl _) (.foldl (fun _ _ k => .ite (.hubPost k) k) (.refl _))

theorem setStatus_of_no_area {wg ix : Nat} {ws : List (Nat × Word)} (h : (s.wg wg).saveBase = 0) :
    s.setStatus wg ix ws = { s with wgs := statusSet s wg ix ws } := by
  unfold State.setStatus
  rw [modWg_status]
  exact if_pos h

theorem syncSpill_hubFrame (s : State) (ctx : Nat) : HubFrame s (s.syncSpill ctx) := by
  refine .foldl (fun u t k => ?_) (.refl s)
  split
  · exact .hubWrite k
  · exact k

/-- A context none of whose tethers is spilled has nothing written. -/
theorem syncSpill_of_none {ctx : Nat} (h : ∀ u ∈ s.tethers, u.ctx = ctx → u.spill = none) : s.syncSpill ctx = s := by
  unfold State.syncSpill
  refine List.foldlRecOn (motive := fun u : State => u = s) _ _ rfl fun u hu k hk => ?_
  obtain ⟨hmem, hctx⟩ := List.mem_filter.1 hk
  rw [h k hmem (of_decide_eq_true hctx)]
  exact hu

/-! ## Waking and timing out (R219, R220) -/

theorem exec_tetherWake {index key value status : Nat} {w : Wave} (hk : s.wakes[index]? = some ⟨.wave key, value, status⟩)
    (hw : tabGet s.waves key = some w) {rs : List Word} (h : w.wake value status = { w with wait := .none, s := rs }) :
    exec (.tetherWake index) s = .next { s with
      wakes := s.wakes.eraseIdx index
      waves := tabMod s.waves key (fun v => { v with wait := .none, s := rs }) } := by
  have hwake : tabMod s.waves key (fun v => v.wake value status) = tabMod s.waves key (fun v => { v with wait := .none, s := rs }) :=
    tabMod_congr fun v hv => by rw [Option.some.inj (hv.symm.trans hw), h]
  change execTetherWake index s = _
  rw [execTetherWake, hk]
  exact congrArg (fun ws => Host.Outcome.next { s with wakes := s.wakes.eraseIdx index, waves := ws }) hwake

theorem wake_waitu {w : Wave} {d : Nat} {wide : Bool} (h : w.wait = .waitu d wide) (value status : Nat) :
    w.wake value status = { w with wait := .none, s := waituRegs (fun n x rs => rs.set n x) wide d value status w.s } := by
  unfold Wave.wake
  rw [h]
  cases wide <;> rfl

/-- The s registers after a CAIRNW: the status, where it has a destination. -/
def cairnwRegs (d : Option Nat) (status : Nat) (rs : List Word) : List Word :=
  match d with
  | some r => rs.set r (BitVec.ofNat 32 status)
  | none => rs

theorem wake_cairnw {w : Wave} {d : Option Nat} (h : w.wait = .cairnw d) (value status : Nat) :
    w.wake value status = { w with wait := .none, s := cairnwRegs d status w.s } := by
  unfold Wave.wake
  rw [h]
  rfl

theorem exec_tetherTimeout {k : Tether} {n : Nat} (hk : s.tethers.find? (fun u => decide (u.id = k.id)) = some k)
    (hd : k.deadline = some n) : exec (.tetherTimeout k.id) s = if n ≤ s.time.toNat then .next { s with
      tethers := s.tethers.filter (fun u => decide (u.id ≠ k.id))
      freed := s.freed ++ (match k.spill with
        | some j => [(k.ctx, j)]
        | none => [])
      wakes := s.wakes ++ [⟨k.waiter, valueAt s k, 1⟩] } else .next s := by
  have hspill : spilledEntries [k] = match k.spill with
      | some j => [(k.ctx, j)]
      | none => [] := by
    unfold spilledEntries
    cases hs : k.spill <;> simp [hs]
  change execTetherTimeout k.id s = _
  rw [execTetherTimeout, hk]
  dsimp only
  rw [hd, hspill]
  rfl

/-! ## Saved waves (R344, R372, R373) -/

/-- The state in which a wake has been written into the status block of a saved wave. -/
def wakeSaved (s : State) (index wg ix value status : Nat) : State :=
  ({ s with wakes := s.wakes.eraseIdx index } : State).setStatus wg ix
    [(2, BitVec.ofNat 32 value), (3, BitVec.ofNat 32 (value / 2 ^ 32)), (4, BitVec.ofNat 32 status), (16, 1#32)]

theorem wakeSaved_wg {index wg ix value status : Nat} {g : Workgroup} (hg : tabGet s.wgs wg = some g) :
    (wakeSaved s index wg ix value status).wg wg = { g with status := g.status.modify ix (fun t =>
      tabSet (tabSet (tabSet (tabSet t 2 (BitVec.ofNat 32 value)) 3 (BitVec.ofNat 32 (value / 2 ^ 32))) 4
        (BitVec.ofNat 32 status)) 16 1#32) } := by
  have hwgs : (wakeSaved s index wg ix value status).wgs = statusSet s wg ix
      [(2, BitVec.ofNat 32 value), (3, BitVec.ofNat 32 (value / 2 ^ 32)), (4, BitVec.ofNat 32 status), (16, 1#32)] :=
    (setStatus_hubFrame { s with wakes := s.wakes.eraseIdx index } wg ix _).wgs
  rw [State.wg, hwgs, statusSet, Laws.tabGet_tabMod, if_pos rfl, hg]
  rfl

/-- A word of the status block after the wake is written. -/
theorem wakeSaved_status {index wg ix value status : Nat} {g : Workgroup} (hg : tabGet s.wgs wg = some g) (hix : ix < g.status.length)
    (i : Nat) : (wakeSaved s index wg ix value status).status wg ix i = ((tabGet (tabSet (tabSet (tabSet (tabSet (g.status[ix]) 2
      (BitVec.ofNat 32 value)) 3 (BitVec.ofNat 32 (value / 2 ^ 32))) 4 (BitVec.ofNat 32 status)) 16 1#32) i).getD 0#32).toNat := by
  rw [State.status, wakeSaved_wg hg]
  dsimp only
  rw [List.getD_eq_getElem _ _ (by rw [List.length_modify]; exact hix), List.getElem_modify, if_pos rfl]

theorem exec_savedTetherWake {index wg ix value status : Nat} {g : Workgroup}
    (hk : s.wakes[index]? = some ⟨.saved wg ix, value, status⟩) (hg : tabGet s.wgs wg = some g) :
    exec (.savedTetherWake index) s = .next { wakeSaved s index wg ix value status with
      droves := tabMod (wakeSaved s index wg ix value status).droves g.drove (fun d =>
        if d.phase = .saved ∨ d.phase.halts = true then
          { d with wakes := d.wakes + 1, waitSince := if d.wakes = 0 then s.time.toNat else d.waitSince }
        else d) } := by
  have hexec : exec (.savedTetherWake index) s = .next ((wakeSaved s index wg ix value status).modDrove
      ((wakeSaved s index wg ix value status).wg wg).drove (fun d => d.woken s.now)) := by
    change execSavedTetherWake index s = _
    rw [execSavedTetherWake, hk]
    rfl
  rw [hexec, wakeSaved_wg hg]
  unfold State.modDrove Drove.woken
  simp only [Bool.or_eq_true, beq_iff_eq, or_comm]
  rfl

theorem savedTetherWake_spec (s : State) (index wg ix value status : Nat) (g : Workgroup)
    (hk : s.wakes[index]? = some ⟨.saved wg ix, value, status⟩) (hg : tabGet s.wgs wg = some g) (hix : ix < g.status.length) :
    let v := ({ s with wakes := s.wakes.eraseIdx index } : State).setStatus wg ix
      [(2, BitVec.ofNat 32 value), (3, BitVec.ofNat 32 (value / 2 ^ 32)), (4, BitVec.ofNat 32 status), (16, 1#32)]
    exec (.savedTetherWake index) s = .next { v with droves := tabMod v.droves g.drove (fun d =>
      if d.phase = .saved ∨ d.phase.halts = true then
        { d with wakes := d.wakes + 1, waitSince := if d.wakes = 0 then s.time.toNat else d.waitSince }
      else d) } ∧
    v.status wg ix 2 = value % 2 ^ 32 ∧ v.status wg ix 3 = value / 2 ^ 32 % 2 ^ 32 ∧ v.status wg ix 4 = status % 2 ^ 32 := by
  intro v
  refine ⟨exec_savedTetherWake hk hg, ?_, ?_, ?_⟩
  all_goals
    refine (wakeSaved_status hg hix _).trans ?_
    simp only [Laws.tabGet_tabSet]
    rfl

theorem savedWaveDeadline_spec (s : State) (wg ix : Nat) (d : Drove) (hd : tabGet s.droves (s.wg wg).drove = some d)
    (hp : d.phase = .saved) (hw : d.wakes = 0) :
    let deadline := s.status wg ix 6 + 2 ^ 32 * s.status wg ix 7
    deadline ≠ 0 → deadline ≤ s.time.toNat →
    exec (.savedWaveDeadline wg ix) s = .next { s with
      droves := tabMod s.droves (s.wg wg).drove (fun d => { d with wakes := 1, waitSince := s.time.toNat }) } := by
  intro deadline h0 hle
  have hdl : s.savedDeadline wg ix = deadline := by
    unfold State.savedDeadline
    rw [Nat.mul_comm (s.status wg ix 7)]
  have hdrove : s.drove (s.wg wg).drove = d := by rw [State.drove, hd]; rfl
  have hwoken : tabMod s.droves (s.wg wg).drove (fun d => d.woken s.now) =
      tabMod s.droves (s.wg wg).drove (fun d => { d with wakes := 1, waitSince := s.time.toNat }) := by
    refine tabMod_congr fun e he => ?_
    obtain rfl := Option.some.inj (he.symm.trans hd)
    simp only [Drove.woken, hp, hw]
    rfl
  change execSavedWaveDeadline wg ix s = _
  unfold execSavedWaveDeadline
  dsimp only
  rw [hdl, hdrove, hp, hw, decide_eq_true h0, decide_eq_true (show deadline ≤ s.now from hle), State.modDrove, hwoken]
  rfl

/-- Settles O36: a WAITU and each event of a tether's life by its own rule. -/
theorem tethers : Obligations.Tethers := by
  unfold Obligations.Tethers
  refine ⟨waitu_spec, arm_spec,
    fun s wg ix ws => ⟨setStatus_hubFrame s wg ix ws, setStatus_of_no_area, syncSpill_hubFrame s ix, syncSpill_of_none⟩,
    fun s index key value status w hk hw => ⟨fun d wide h => exec_tetherWake hk hw (wake_waitu h value status),
      fun d h => exec_tetherWake hk hw (wake_cairnw h value status)⟩,
    fun s k n hk hd => ⟨fun hn => (exec_tetherTimeout hk hd).trans (if_pos hn),
      fun hn => (exec_tetherTimeout hk hd).trans (if_neg (Nat.not_le.2 hn))⟩,
    savedTetherWake_spec, savedWaveDeadline_spec⟩

end Sys2Proof.Claims
end

section
/-! # A result arrives

What the model does with a result that arrives (`Wave.arrive`) is what R201, R184 and R24 say of it (`arrive_eq`): the two agree on the
words written, on the lanes that issue again and on the slots that are free. -/

namespace Sys2Proof.Claims

open Sys2Proof Sys2Proof.Machine

variable {s t : State} {w : Wave} {o : Owed}

/-! ## Words in their registers -/

/-- Registers written one after another hold the words from the first. -/
theorem foldl_setAt (ws rs : List Word) (r : Nat) :
    (ws.foldl (fun (p : List Word × Nat) v => (setAt p.1 p.2 v, p.2 + 1)) (rs, r)).1 = wordsFrom rs r ws := by
  induction ws generalizing rs r with
  | nil => apply List.ext_getElem <;> simp [wordsFrom]
  | cons x ws ih =>
    rw [List.foldl_cons, ih]
    refine List.ext_getElem (by simp [wordsFrom, setAt]) fun k hk hk' => ?_
    simp only [wordsFrom, setAt, List.getElem_mapIdx, List.getElem_set]
    obtain hlt | rfl | hgt := Nat.lt_trichotomy k r
    · rw [if_neg (by omega), if_neg (by omega), if_neg (by omega)]
    · rw [if_neg (by omega), if_pos rfl, if_pos (Nat.le_refl _), Nat.sub_self]
      rfl
    · rw [if_pos (by omega), if_neg (by omega), if_pos (by omega), show k - r = (k - (r + 1)) + 1 by omega]
      rfl

theorem mem_vs_vec {r n p : Nat} : (OwedDest.vec r n).vs.contains p = !decide (p < r ∨ r + n ≤ p) := by
  rw [Bool.eq_iff_iff, List.contains_iff_mem]
  simp only [OwedDest.vs, List.mem_map, List.mem_range, Bool.not_eq_true', decide_eq_false_iff_not]
  exact ⟨fun ⟨i, hi, hp⟩ => by omega, fun h => ⟨p - r, by omega, by omega⟩⟩

/-! ## Lanes that are live -/

theorem live_getLsbD (w : Wave) (l : Nat) : w.live.getLsbD l = (decide (l < 32) && (w.lane l).state.live) := maskOf_getLsbD _ l

/-- A change of the live lanes of a set. -/
theorem modLanes_live (w : Wave) (m : Mask) (f : Nat → Lane → Lane) :
    w.modLanes (m &&& w.live) f = w.lanesBy m (fun l x => if x.state.live then f l x else x) := by
  unfold Wave.modLanes Wave.lanesBy
  congr 1
  refine List.mapIdx_eq_mapIdx_iff.mpr fun l hl => ?_
  have hlane : w.lane l = w.lanes[l] := List.getD_eq_getElem _ _ hl
  rw [BitVec.getLsbD_and, live_getLsbD, hlane]
  cases hm : m.getLsbD l
  · rfl
  · have h32 : l < 32 := BitVec.lt_of_getLsbD hm
    simp only [h32, decide_true, Bool.true_and, if_true]

/-- A change of lanes that brings none to life and ends none. -/
theorem lane_lanesBy_live (w : Wave) (m : Mask) {f : Nat → Lane → Lane} (hf : ∀ l x, (f l x).state.live = x.state.live) (l : Nat) :
    ((w.lanesBy m f).lane l).state.live = (w.lane l).state.live := by
  simp only [Wave.lane, Wave.lanesBy, List.getD_eq_getElem?_getD, List.getElem?_mapIdx]
  cases w.lanes[l]? with
  | none => rfl
  | some x =>
    simp only [Option.map_some, Option.getD_some]
    split
    · exact hf l x
    · rfl

/-! ## What arrives -/

theorem receive_eq_landed (o : Owed) (w : Wave) : w.receive o = landed o w := by
  unfold Wave.receive landed
  cases o.dest with
  | vec r n => simp only [modLanes_live, foldl_setAt, mem_vs_vec, Bool.not_not]
  | uni r n => simp only [foldl_setAt]
  | recd q => exact congrArg (fun x => { w with q := w.q.set q x }) (recordOf_eq _)
  | nowhere => rfl

theorem defer_eq_reported (o : Owed) (w : Wave) : w.defer o = reported o w := by
  unfold Wave.defer reported
  cases o.dest with
  | vec r n => exact modLanes_live w o.lanes _
  | uni | recd | nowhere => rfl

/-- What the wave has of the result, before its scoreboard is looked at. -/
def broughtIn (o : Owed) (w : Wave) : Wave := if o.bad = 0#32 then landed o w else reported o w

theorem lane_broughtIn_live (o : Owed) (w : Wave) (l : Nat) : ((broughtIn o w).lane l).state.live = (w.lane l).state.live := by
  unfold broughtIn landed reported
  cases o.dest with
  | vec r n =>
    split
    · exact lane_lanesBy_live w o.lanes (fun l x => by split <;> rfl) l
    · exact lane_lanesBy_live w o.lanes (fun l x => by split <;> rfl) l
  | uni | recd | nowhere => split <;> rfl

theorem broughtIn_owed (o : Owed) (w : Wave) : (broughtIn o w).owed = w.owed := by
  unfold broughtIn landed reported
  cases o.dest <;> (split <;> rfl)

/-! ## The scoreboard (R24) -/

/-- The slots of a wave once one has its result. -/
def slotsArrived (id : Nat) (w : Wave) : List Owed := w.owed.map (fun x => if x.id = id then { x with arrived := true } else x)

/-- The lanes that a LAUNCH of the slots holds. -/
def launchHolds (slots : List Owed) (l : Nat) : Bool := slots.any (fun x => decide (x.kind = .launch) && !x.arrived && x.lanes.getLsbD l)

theorem launching_getLsbD (w : Wave) (l : Nat) : w.launching.getLsbD l = launchHolds w.owed l := by
  have hfold (os : List Owed) (m : Mask) :
      (os.foldl (fun m o => if o.kind = .launch && !o.arrived then m ||| o.lanes else m) m).getLsbD l =
        (m.getLsbD l || launchHolds os l) := by
    induction os generalizing m with
    | nil => exact (Bool.or_false _).symm
    | cons x os ih =>
      rw [List.foldl_cons, ih, launchHolds, launchHolds, List.any_cons]
      cases hc : decide (x.kind = .launch) && !x.arrived
      · simp
      · simp [BitVec.getLsbD_or, Bool.or_assoc]
  exact (hfold w.owed 0#32).trans (by rw [BitVec.getLsbD_zero, Bool.false_or])

/-- A slot is free (R24), the lanes being those of wave `w`. -/
def slotFree (w : Wave) (x : Owed) : Bool :=
  x.arrived && (decide (x.dest = .nowhere) || decide (x.kind = .launch) ||
    (List.range 32).all (fun l => !mayName x l || !(w.lane l).state.live || x.named.getLsbD l))

theorem namers_getLsbD (x : Owed) (w : Wave) {l : Nat} (hl : l < 32) :
    (x.namers w &&& w.live).getLsbD l = (mayName x l && (w.lane l).state.live) := by
  have hlive : w.live.getLsbD l = (w.lane l).state.live := by rw [live_getLsbD, decide_eq_true hl, Bool.true_and]
  unfold Owed.namers mayName
  rw [BitVec.getLsbD_and, hlive]
  cases x.dest with
  | vec r n =>
    cases n with
    | zero => simp [OwedDest.vs, hlive]
    | succ n => simp [OwedDest.vs]
  | uni | recd | nowhere => simp [OwedDest.vs, hlive]

theorem unnamed_eq_zero (x : Owed) (w : Wave) : ((x.namers w &&& w.live &&& ~~~ x.named) == 0#32) =
    (List.range 32).all (fun l => !mayName x l || !(w.lane l).state.live || x.named.getLsbD l) := by
  have hbit {l : Nat} (hl : l < 32) : (!mayName x l || !(w.lane l).state.live || x.named.getLsbD l) =
      !(x.namers w &&& w.live &&& ~~~ x.named).getLsbD l := by
    rw [BitVec.getLsbD_and, namers_getLsbD x w hl, BitVec.getLsbD_not, decide_eq_true hl, Bool.true_and, Bool.not_and, Bool.not_and,
      Bool.not_not]
  rw [Bool.eq_iff_iff, beq_iff_eq, List.all_eq_true]
  constructor
  · intro h l hl
    rw [hbit (List.mem_range.1 hl), h, BitVec.getLsbD_zero]
    rfl
  · intro h
    refine BitVec.eq_of_getLsbD_eq fun l hl => ?_
    have hnamed := h l (List.mem_range.2 hl)
    rw [hbit hl, Bool.not_eq_true'] at hnamed
    rw [hnamed, BitVec.getLsbD_zero]

theorem spent_eq_slotFree (x : Owed) (w : Wave) : x.spent w = slotFree w x := by
  rw [Owed.spent, slotFree, unnamed_eq_zero, Bool.or_assoc, Bool.or_comm]

theorem slotFree_congr {v : Wave} (h : ∀ l, (v.lane l).state.live = (w.lane l).state.live) (x : Owed) : slotFree v x = slotFree w x := by
  unfold slotFree
  simp only [h]

/-! ## The wave after a result -/

/-- Lanes held for a register issue again but for those that a LAUNCH of the slots holds. -/
theorem wakeRegs_lanes (w : Wave) : w.wakeRegs.lanes = w.lanes.mapIdx (fun l x =>
    if l < 32 ∧ x.state = .regWait ∧ launchHolds w.owed l = false then { x with state := .ready } else x) := by
  unfold Wave.wakeRegs Wave.modLanes
  refine List.mapIdx_eq_mapIdx_iff.mpr fun l hl => ?_
  rw [BitVec.getLsbD_not, launching_getLsbD]
  refine (ite_and ..).symm.trans (if_congr ?_ rfl rfl)
  rw [Bool.and_eq_true, decide_eq_true_eq, Bool.not_eq_true', and_assoc, and_comm (a := launchHolds w.owed l = false)]

theorem lane_wakeRegs_live (w : Wave) (l : Nat) : (w.wakeRegs.lane l).state.live = (w.lane l).state.live :=
  lane_lanesBy_live w (~~~ w.launching) (fun l x => by
    split
    next h =>
      rw [h]
      rfl
    next => rfl) l

/-- FPFLAGS with the exceptions of a result joined. -/
def flagsJoined (o : Owed) (w : Wave) : Word := if o.bad = 0#32 then w.fpflags ||| BitVec.ofNat 32 (o.flags % 32) else w.fpflags

/-- The wave with the result in it and its slot marked, before anything issues again. -/
def marked (o : Owed) (w : Wave) : Wave := { broughtIn o w with owed := slotsArrived o.id w, fpflags := flagsJoined o w }

theorem marked_eq (o : Owed) (w : Wave) :
    { (if o.bad = 0#32 then { w.receive o with fpflags := w.fpflags ||| BitVec.ofNat 32 (o.flags % 32) } else w.defer o) with
      owed := slotsArrived o.id w } = marked o w := by
  unfold marked broughtIn flagsJoined
  rw [receive_eq_landed, defer_eq_reported]
  split
  · rfl
  · have hflags : (reported o w).fpflags = w.fpflags := by
      unfold reported
      cases o.dest <;> rfl
    rw [← hflags]

/-- An arrival is what R201, R184 and R24 say of it. -/
theorem arrive_eq {id : Nat} (h : w.owed.find? (fun x => decide (x.id = id)) = some o) (ha : o.arrived = false) :
    w.arrive id = arrivedWave o w := by
  obtain rfl : o.id = id := by simpa only [decide_eq_true_eq] using List.find?_some h
  have howed : (if o.bad = 0#32 then { w.receive o with fpflags := w.fpflags ||| BitVec.ofNat 32 (o.flags % 32) }
      else w.defer o).owed = w.owed := by
    rw [receive_eq_landed, defer_eq_reported, ← broughtIn_owed o w, broughtIn]
    split <;> rfl
  have harrive : w.arrive o.id = { (marked o w).wakeRegs with
      owed := (marked o w).wakeRegs.owed.filter (fun x => !x.spent (marked o w).wakeRegs) } := by
    unfold Wave.arrive
    rw [h]
    dsimp only
    rw [if_neg (ne_true_of_eq_false ha), ← marked_eq, slotsArrived, howed]
  have hlive (l : Nat) : (((marked o w).wakeRegs.lane l)).state.live = (w.lane l).state.live :=
    (lane_wakeRegs_live (marked o w) l).trans (lane_broughtIn_live o w l)
  have hlanes : (marked o w).wakeRegs.lanes = (broughtIn o w).lanes.mapIdx (fun l x =>
      if l < 32 ∧ x.state = .regWait ∧ launchHolds (slotsArrived o.id w) l = false then { x with state := .ready } else x) :=
    wakeRegs_lanes (marked o w)
  rw [harrive]
  simp only [spent_eq_slotFree, slotFree_congr hlive]
  change { marked o w with
    lanes := (marked o w).wakeRegs.lanes
    owed := (slotsArrived o.id w).filter (fun x => !slotFree w x) } = _
  rw [hlanes]
  rfl

/-- What arrives for the wave of a key. -/
theorem modWave_arrive {key id : Nat} (hw : tabGet s.waves key = some w)
    (h : w.owed.find? (fun x => decide (x.id = id)) = some o) (ha : o.arrived = false) :
    s.modWave key (fun v => v.arrive id) = { s with waves := tabMod s.waves key (arrivedWave o) } :=
  congrArg (fun ws => { s with waves := ws }) (tabMod_congr fun v hv => by
    rw [Option.some.inj (hv.symm.trans hw), arrive_eq h ha])

theorem wave_of_get {key : Nat} (hw : tabGet s.waves key = some w) : s.wave key = w := by
  rw [State.wave, hw]
  rfl

/-! ## LOAD_RETURN, DIVIDE_RESULT and FDIV_RESULT (R171, R184, R201) -/

theorem none_left {key id : Nat} (h : allIn s key id) : (s.core (keyCore key)).paddock.any (fun p => decide (p.owed = some id)) = false :=
  List.any_eq_false.2 fun p hp => by
    rw [decide_eq_true_eq]
    exact h p hp

theorem loadReturn_spec (s : State) (key id : Nat) (w : Wave) (o : Owed) (hw : tabGet s.waves key = some w)
    (h : w.owed.find? (fun x => decide (x.id = id)) = some o) (ha : o.arrived = false) (hin : allIn s key id)
    (hk : o.kind = .load ∨ o.kind = .atomic ∨ o.kind = .record) :
    exec (.loadReturn key id) s = .next { s with waves := tabMod s.waves key (arrivedWave o) } := by
  have hkinds : [OwedKind.load, .atomic, .record].contains o.kind = true := by
    rw [List.contains_iff_mem]
    simpa using hk
  change execLoadReturn key id s = _
  rw [execLoadReturn, State.arrival, wave_of_get hw, h]
  dsimp only
  rw [hkinds, none_left hin, ← modWave_arrive hw h ha]
  rfl

/-- The first slot of a kind still to arrive is one still to arrive. -/
theorem not_arrived_of_find {k : OwedKind} {os : List Owed} (h : os.find? (fun x => decide (x.kind = k) && !x.arrived) = some o) :
    o.arrived = false := by
  have hfound := List.find?_some h
  rw [Bool.and_eq_true, Bool.not_eq_true'] at hfound
  exact hfound.2

theorem divideResult_spec {key : Nat} (hw : tabGet s.waves key = some w) (h : w.owed.find? (fun x => decide (x.id = o.id)) = some o)
    (hd : w.owed.find? (fun x => decide (x.kind = .div) && !x.arrived) = some o) :
    exec (.divideResult key o.id) s = .next { s with waves := tabMod s.waves key (arrivedWave o) } := by
  change execDivideResult key o.id s = _
  rw [execDivideResult, wave_of_get hw, hd]
  dsimp only
  rw [if_pos rfl, modWave_arrive hw h (not_arrived_of_find hd)]

/-- A wave held for an FDIV goes on with the last of them. -/
def fdivsOver (w : Wave) : Wave :=
  if w.wait = .fdiv ∧ ∀ x ∈ w.owed, x.kind = .fdiv → x.arrived = true then { w with wait := .none } else w

theorem fdivsOver_eq (w : Wave) : (if w.wait = .fdiv ∧ ¬ (w.owed.any (fun o => decide (o.kind = .fdiv) && !o.arrived)) = true then
    { w with wait := .none } else w) = fdivsOver w := by
  have hall : (¬ (w.owed.any (fun o => decide (o.kind = .fdiv) && !o.arrived)) = true) ↔
      ∀ x ∈ w.owed, x.kind = .fdiv → x.arrived = true := by
    rw [Bool.not_eq_true, List.any_eq_false]
    refine forall_congr' fun x => forall_congr' fun _ => ?_
    cases x.arrived <;> simp
  simp only [fdivsOver, hall]

theorem fdivResult_spec {key : Nat} (hw : tabGet s.waves key = some w) (h : w.owed.find? (fun x => decide (x.id = o.id)) = some o)
    (hd : w.owed.find? (fun x => decide (x.kind = .fdiv) && !x.arrived) = some o) {t : State}
    (ht : t = { s with waves := tabMod s.waves key (fun v => fdivsOver (arrivedWave o v)) }) :
    (o.bad = 0#32 → exec (.fdivResult key o.id) s = .next t) ∧
    (o.bad ≠ 0#32 → ∃ u, ShadowFound t key u ∧ exec (.fdivResult key o.id) s = .next u) := by
  have hwaves : tabMod s.waves key (fun v => fdivsOver (v.arrive o.id)) = tabMod s.waves key (fun v => fdivsOver (arrivedWave o v)) :=
    tabMod_congr fun v hv => by rw [Option.some.inj (hv.symm.trans hw), arrive_eq h (not_arrived_of_find hd)]
  have hmod : s.modWave key (fun v => fdivsOver (v.arrive o.id)) = t := by rw [ht, State.modWave, hwaves]
  have hexec : exec (.fdivResult key o.id) s = .next (if o.bad = 0#32 then t else t.shadowFound key) := by
    change execFdivResult key o.id s = _
    rw [execFdivResult, wave_of_get hw, hd]
    simp only [fdivsOver_eq, if_true, hmod]
  exact ⟨fun hb => hexec.trans (congrArg Host.Outcome.next (if_pos hb)),
    fun hb => ⟨_, shadowFound_found t key, hexec.trans (congrArg Host.Outcome.next (if_neg hb))⟩⟩

end Sys2Proof.Claims
end

section
/-! # A LAUNCH answered (R160)

What the shepherd writes and reports of a record leaves the waves and the paddocks of the cores as they are (`HubSide`), so the answer of
a lane (`answer_eq`) is the same in every case. -/

namespace Sys2Proof.Claims

open Sys2Proof Sys2Proof.Machine

variable {s t : State} {w : Wave} {o : Owed}

/-! ## What the shepherd leaves -/

theorem HubSide.stopped {v : State} {ctx : Nat} {e : BuildStop} (h : HubSide v s) : HubSide v (s.stopped ctx e) := by
  cases e with
  | wait va => exact .askPage h
  | fail x => exact h
  | malformed va => exact .report h

theorem HubSide.metPage {v : State} {ctx : Nat} {m : Option BuildStop} (h : HubSide v s) : HubSide v (s.metPage ctx m) := by
  cases m with
  | none => exact h
  | some e => exact .stopped h

theorem HubSide.launchSeen {v : State} {ctx va : Nat} (h : HubSide v s) : HubSide v (s.launchSeen ctx va) := by
  unfold State.launchSeen
  split
  · exact h
  · exact .hubSeen (.hubSeen (.hubSeen h))

/-! ## The answer of a lane -/

/-- A slot of a LAUNCH with the answer of lane `l` noted. -/
def answerNoted (l status handle : Nat) (o : Owed) : Owed := { o with data := tabSet o.data l [word32 status, word32 handle] }

/-- The wave of a LAUNCH with the answer of lane `l` noted. -/
def waveNoted (id l status handle : Nat) (w : Wave) : Wave :=
  { w with owed := w.owed.map (fun o => if o.id = id then answerNoted l status handle o else o) }

theorem find_waveNoted {id l status handle : Nat} (h : w.owed.find? (fun x => decide (x.id = id)) = some o) :
    (waveNoted id l status handle w).owed.find? (fun x => decide (x.id = id)) = some (answerNoted l status handle o) := by
  have hid : o.id = id := by simpa only [decide_eq_true_eq] using List.find?_some h
  have hsame : ((fun x : Owed => decide (x.id = id)) ∘ fun x => if x.id = id then answerNoted l status handle x else x) =
      fun x => decide (x.id = id) := by
    funext x
    by_cases hx : x.id = id
    · simp [hx, answerNoted]
    · simp [hx]
  rw [waveNoted, List.find?_map, hsame, h, Option.map_some, if_pos hid]

/-- The lanes of a LAUNCH still without an answer. -/
def unanswered (o : Owed) : Bool := o.data.any (fun d => decide (d.2.length = 3))

theorem answeredWave_eq {id : Nat} (l status handle : Nat) (h : w.owed.find? (fun x => decide (x.id = id)) = some o) :
    answeredWave id l status handle w = if unanswered (answerNoted l status handle o) then waveNoted id l status handle w
      else arrivedWave (answerNoted l status handle o) (waveNoted id l status handle w) := by
  unfold answeredWave
  rw [h]
  rfl

/-- A lane answered: the last of them brings the result. -/
theorem answer_eq {key id : Nat} (l status handle : Nat) (ht : t.waves = s.waves) (hin : allIn t key id)
    (hw : tabGet s.waves key = some w) (h : w.owed.find? (fun x => decide (x.id = id)) = some o) (hk : o.kind = .launch)
    (ha : o.arrived = false) :
    t.answer key id l status handle = { t with waves := tabMod s.waves key (answeredWave id l status handle) } := by
  have hnoted := find_waveNoted (l := l) (status := status) (handle := handle) h
  have hget : tabGet (t.modWave key (waveNoted id l status handle)).waves key = some (waveNoted id l status handle w) := by
    rw [State.modWave, ht, Laws.tabGet_tabMod, if_pos rfl, hw]
    rfl
  have hwave : (t.modWave key (waveNoted id l status handle)).wave key = waveNoted id l status handle w := wave_of_get hget
  have hanswer : t.answer key id l status handle = if unanswered (answerNoted l status handle o)
      then t.modWave key (waveNoted id l status handle) else (t.modWave key (waveNoted id l status handle)).arrival key id [.launch] := by
    have hleft : (((t.modWave key (waveNoted id l status handle)).wave key).owed.find? (fun o => decide (o.id = id))).any
        (fun o => o.data.any (fun d => decide (d.2.length = 3))) = unanswered (answerNoted l status handle o) := by
      rw [hwave, hnoted]
      rfl
    rw [← hleft]
    rfl
  have harrival : (t.modWave key (waveNoted id l status handle)).arrival key id [.launch] =
      (t.modWave key (waveNoted id l status handle)).modWave key (fun v => v.arrive id) := by
    have hkind : ([OwedKind.launch].contains (answerNoted l status handle o).kind &&
        !((t.modWave key (waveNoted id l status handle)).core (keyCore key)).paddock.any (fun p => decide (p.owed = some id))) = true := by
      rw [none_left (s := t.modWave key (waveNoted id l status handle)) hin, show (answerNoted l status handle o).kind = .launch from hk]
      rfl
    rw [State.arrival, hwave, hnoted]
    exact if_pos hkind
  have hanswered (v : Wave) (hv : tabGet s.waves key = some v) : answeredWave id l status handle v =
      if unanswered (answerNoted l status handle o) then waveNoted id l status handle v
      else arrivedWave (answerNoted l status handle o) (waveNoted id l status handle v) := by
    rw [Option.some.inj (hv.symm.trans hw), answeredWave_eq l status handle h]
  rw [hanswer, tabMod_congr hanswered]
  split
  · rw [State.modWave, ht]
  · rw [harrival, modWave_arrive hget hnoted ha, State.modWave, ht, tabMod_tabMod]

/-! ## LAUNCH_STATUS -/

/-- The slot of a number is the first of those that meet more besides. -/
theorem find_launch {id : Nat} (h : w.owed.find? (fun x => decide (x.id = id)) = some o) (hk : o.kind = .launch) (ha : o.arrived = false) :
    w.owed.find? (fun o => decide (o.id = id) && decide (o.kind = .launch) && !o.arrived) = some o := by
  obtain ⟨hid, as, bs, heq, hbefore⟩ := List.find?_eq_some_iff_append.1 h
  refine List.find?_eq_some_iff_append.2 ⟨by simp [of_decide_eq_true hid, hk, ha], as, bs, heq, fun x hx => ?_⟩
  have hx' := hbefore x hx
  rw [Bool.not_eq_true'] at hx' ⊢
  rw [hx', Bool.false_and, Bool.false_and]

/-- The first lane without an answer is judged. -/
theorem exec_launchStatus {key id l : Nat} {ws : List Word} (hw : tabGet s.waves key = some w)
    (h : w.owed.find? (fun x => decide (x.id = id)) = some o) (hk : o.kind = .launch) (ha : o.arrived = false)
    (hd : o.data.find? (fun d => decide (d.2.length = 3)) = some (l, ws)) :
    exec (.launchStatus key id) s =
      .next (s.judge key id l ((ws.getD 0 0#32).toNat + 2 ^ 32 * (ws.getD 1 0#32).toNat)) := by
  change execLaunchStatus key id s = _
  rw [execLaunchStatus, wave_of_get hw, find_launch h hk ha]
  dsimp only
  rw [hd]
  dsimp only
  rw [toNat_pair64, Nat.mul_comm]

/-- The state with a child accepted into its context's queue. -/
def childTaken (s v : State) (key : Nat) (g c : Grid) : State :=
  { v with
    fresh := v.fresh + 1
    grids := tabSet v.grids v.fresh { c with
      parent := some (s.waveGrid key)
      depth := g.depth + 1
      phase := .queued
      queue := 1024
      child := true
      eligibleAt := s.time.toNat }
    ctxs := tabMod v.ctxs g.ctx (fun x => { x with childq := x.childq ++ [v.fresh] }) }

section Judge

variable {key id l va : Nat} {g : Grid} (hg : g = s.grid (s.waveGrid key))

include hg

theorem judge_deep (h : 10 ≤ g.depth) : s.judge key id l va = s.answer key id l 1 0 := by
  subst hg
  exact if_pos h

theorem judge_full (h : g.depth < 10) (hf : 1024 ≤ (s.ctx g.ctx).childq.length) : s.judge key id l va = s.answer key id l 5 0 := by
  subst hg
  exact (if_neg (Nat.not_le.2 h)).trans (if_pos hf)

theorem judge_read (h : g.depth < 10) (hf : (s.ctx g.ctx).childq.length < 1024) : s.judge key id l va =
    match s.readLaunch g.ctx va with
    | .wait p => s.askPage g.ctx p 0
    | .bad st c m => (if c.records.isEmpty then s.metPage g.ctx m else (s.metPage g.ctx m).signal 0 c (signalStatus st) false).answer
        key id l st 0
    | .ok c => (childTaken s (s.launchSeen g.ctx va) key g c).answer key id l 0 (s.launchSeen g.ctx va).fresh := by
  subst hg
  exact (if_neg (Nat.not_le.2 h)).trans (if_neg (Nat.not_le.2 hf))

end Judge

theorem launchStatus_spec (s : State) (key id l : Nat) (ws : List Word) (w : Wave) (o : Owed) (hw : tabGet s.waves key = some w)
    (h : w.owed.find? (fun x => decide (x.id = id)) = some o) (hk : o.kind = .launch) (ha : o.arrived = false) (hin : allIn s key id)
    (hd : o.data.find? (fun d => decide (d.2.length = 3)) = some (l, ws)) :
    let g := s.grid (s.waveGrid key)
    let va := (ws.getD 0 0#32).toNat + 2 ^ 32 * (ws.getD 1 0#32).toNat
    let answered := fun (t : State) (status handle : Nat) => { t with waves := tabMod s.waves key (answeredWave id l status handle) }
    (10 ≤ g.depth → exec (.launchStatus key id) s = .next (answered s 1 0)) ∧
    (g.depth < 10 → 1024 ≤ (s.ctx g.ctx).childq.length → exec (.launchStatus key id) s = .next (answered s 5 0)) ∧
    (g.depth < 10 → (s.ctx g.ctx).childq.length < 1024 →
      (∀ p, s.readLaunch g.ctx va = .wait p → exec (.launchStatus key id) s = .next (s.askPage g.ctx p 0)) ∧
      (∀ st c m, s.readLaunch g.ctx va = .bad st c m →
        let v := s.metPage g.ctx m
        exec (.launchStatus key id) s = .next (answered (if c.records = [] then v else v.signal 0 c (if st = 4 then 1 else st) false) st 0)) ∧
      (∀ c, s.readLaunch g.ctx va = .ok c →
        let v := s.launchSeen g.ctx va
        exec (.launchStatus key id) s = .next (answered { v with
          fresh := v.fresh + 1
          grids := tabSet v.grids v.fresh { c with
            parent := some (s.waveGrid key)
            depth := g.depth + 1
            phase := .queued
            queue := 1024
            child := true
            eligibleAt := s.time.toNat }
          ctxs := tabMod v.ctxs g.ctx (fun x => { x with childq := x.childq ++ [v.fresh] }) } 0 v.fresh))) := by
  intro g va answered
  have hexec := exec_launchStatus hw h hk ha hd
  have hans (t : State) (status handle : Nat) (ht : t.waves = s.waves) (hc : t.cores = s.cores) :
      t.answer key id l status handle = answered t status handle := by
    refine answer_eq l status handle ht ?_ hw h hk ha
    unfold allIn State.core at hin ⊢
    rw [hc]
    exact hin
  refine ⟨fun hdeep => ?_, fun hdepth hfull => ?_,
    fun hdepth hroom => ⟨fun p hread => ?_, fun st c m hread => ?_, fun c hread => ?_⟩⟩
  · rw [hexec, judge_deep rfl hdeep, hans s 1 0 rfl rfl]
  · rw [hexec, judge_full rfl hdepth hfull, hans s 5 0 rfl rfl]
  · rw [hexec, judge_read rfl hdepth hroom, hread]
  · intro v
    have hv : HubSide s v := .metPage .refl
    have hu : HubSide s (if c.records = [] then v else v.signal 0 c (if st = 4 then 1 else st) false) := .ite hv (.signal hv)
    rw [hexec, judge_read rfl hdepth hroom, hread, ← hans _ st 0 hu.waves hu.cores]
    simp only [List.isEmpty_iff]
    rfl
  · intro v
    have hv : HubSide s v := .launchSeen .refl
    rw [hexec, judge_read rfl hdepth hroom, hread]
    exact congrArg Host.Outcome.next (hans (childTaken s v key g c) 0 v.fresh hv.waves hv.cores)

end Sys2Proof.Claims
end

section
/-! # An entry of the side log replayed (R389, R390)

A plain write whose page now allows it: its workgroup commits, the line is performed, the page's leaf is marked (`replayBase`), and then
the entry's bytes are performed, the line itself having nothing committed any more. -/

namespace Sys2Proof.Claims

open Sys2Proof Sys2Proof.Machine

variable {s t : State}

/-! ## Memory written (R8, R374) -/

theorem get_setCells {m : Memory} (h : m.wf = true) (cs : List (Nat × Byte)) (a : Nat) :
    (m.setCells cs).get a = (lastAt cs a).getD (m.get a) := by
  induction cs generalizing m with
  | nil => rfl
  | cons c r ih =>
    have hstep : m.setCells (c :: r) = (m.set c.1 c.2).setCells r := rfl
    rw [hstep, ih (Laws.wf_set h c.1 c.2), Laws.get_set h, ← List.singleton_append, lastAt_append]
    cases lastAt r a with
    | some b => rfl
    | none =>
      by_cases hc : a = c.1
      · simp [lastAt, hc]
      · simp [lastAt, hc, Ne.symm hc]

/-- Bytes that heed the read-only fields leave those as they are. -/
theorem get_perform_heeded (h : s.memOk) (cells : List (Nat × Byte)) (a : Nat) :
    (s.perform (s.heeded cells)).mem.get a = if s.readOnly a then s.mem.get a else (lastAt cells a).getD (s.mem.get a) := by
  have hlast : lastAt (s.heeded cells) a = if s.readOnly a then none else lastAt cells a := by
    unfold State.heeded lastAt
    rw [← List.filter_reverse, List.find?_filter]
    split
    next hr =>
      rw [List.find?_eq_none.2]
      · rfl
      · rintro c - hc
        simp only [decide_eq_true_eq, Bool.not_eq_true'] at hc
        exact absurd (hc.2 ▸ hr) (ne_true_of_eq_false hc.1)
    next hr =>
      congr 2
      funext c
      rw [Bool.eq_iff_iff]
      simp only [decide_eq_true_eq, Bool.not_eq_true']
      exact ⟨fun hc => hc.2, fun hc => ⟨hc ▸ Bool.eq_false_iff.2 hr, hc⟩⟩
  change (s.mem.setCells (s.heeded cells)).get a = _
  rw [get_setCells h, hlast]
  split <;> rfl

theorem memOk_perform (h : s.memOk) (cells : List (Nat × Byte)) : (s.perform cells).memOk := Laws.wf_setCells h cells

theorem memOk_touch (h : s.memOk) (core : Nat) (x : TlbEntry) (write : Bool) : (s.touch core x write).memOk := by
  unfold State.touch State.orLeaf
  extract_lets
  split
  · exact h
  · exact memOk_perform h _

theorem memOk_touchAll (h : s.memOk) (core : Nat) (write : Bool) (ts : List Trans) : (s.touchAll core write ts).memOk :=
  List.foldlRecOn ts _ h fun _ ht x _ => match x with
    | .ok _ _ y => memOk_touch ht core y write
    | .absent | .denied | .malformed _ => ht

theorem memOk_performLine (h : s.memOk) (core line : Nat) : (s.performLine core line).memOk := by
  unfold State.performLine
  split
  · exact h
  · split
    · exact h
    · exact Laws.wf_setCells h _

/-! ## What the core keeps -/

theorem core_congr (h : t.cores = s.cores) (k : Nat) : t.core k = s.core k := by
  unfold State.core
  rw [h]

/-- The cached translations of a core are all that a walk leaves in it. -/
theorem core_touch (s : State) (core : Nat) (x : TlbEntry) (write : Bool) (k : Nat) :
    ((s.touch core x write).core k).committed = (s.core k).committed ∧ ((s.touch core x write).core k).sideLog = (s.core k).sideLog := by
  have hleaf (pa bits : Nat) : (s.orLeaf pa bits).core k = s.core k := by
    refine core_congr ?_ k
    unfold State.orLeaf
    extract_lets
    split <;> rfl
  unfold State.touch
  extract_lets bits y
  have hcore := hleaf x.leafPa bits
  rw [core_modCore]
  split
  next hk =>
    rw [← hk, ← hcore]
    exact ⟨rfl, rfl⟩
  next =>
    rw [hcore]
    exact ⟨rfl, rfl⟩

theorem core_touchAll (s : State) (core : Nat) (write : Bool) (ts : List Trans) (k : Nat) :
    ((s.touchAll core write ts).core k).committed = (s.core k).committed ∧
      ((s.touchAll core write ts).core k).sideLog = (s.core k).sideLog :=
  List.foldlRecOn (motive := fun t : State => (t.core k).committed = (s.core k).committed ∧ (t.core k).sideLog = (s.core k).sideLog)
    ts _ ⟨rfl, rfl⟩ fun t ht x _ => match x with
    | .ok _ _ y => ⟨(core_touch t core y write k).1.trans ht.1, (core_touch t core y write k).2.trans ht.2⟩
    | .absent | .denied | .malformed _ => ht

theorem sideLog_commit (s : State) (wg k : Nat) : ((s.commit wg).core k).sideLog = (s.core k).sideLog := by
  have hcore : (s.commit wg).core k = (s.modCore (s.wg wg).core (fun c =>
      { c with
        committed := (s.wg wg).sbuf.foldl (fun cs x => addCommitted (s.wg wg).whole cs x.1 x.2) c.committed
        path := c.path.filter (fun l => !(linesOf (s.wg wg).roSeen).contains l.1) })).core k := rfl
  rw [hcore, core_modCore]
  split
  next hk => rw [hk]
  next => rfl

theorem performLine_waves {core line : Nat} (h : s.dupOf (line * 128) = none) : (s.performLine core line).waves = s.waves := by
  unfold State.performLine
  rw [h]
  split <;> rfl

theorem performLine_readOnly {core line : Nat} (h : s.dupOf (line * 128) = none) : (s.performLine core line).readOnly = s.readOnly := by
  unfold State.performLine
  rw [h]
  split <;> rfl

theorem sideLog_performLine {core line : Nat} (h : s.dupOf (line * 128) = none) (k : Nat) :
    ((s.performLine core line).core k).sideLog = (s.core k).sideLog := by
  unfold State.performLine
  rw [h]
  split
  next => rfl
  next c hc =>
    change ((s.modCore core (fun d => { d with committed := d.committed.filter (fun d => decide (d.line ≠ line)) })).core k).sideLog = _
    rw [core_modCore]
    split
    next hk => rw [hk]
    next => rfl

/-- A line once performed is committed no more. -/
theorem committed_performLine {core line : Nat} (h : s.dupOf (line * 128) = none) :
    ((s.performLine core line).core core).committed.find? (fun c => decide (c.line = line)) = none := by
  unfold State.performLine
  rw [h]
  split
  next hnone => exact hnone
  next c hc =>
    change ((s.modCore core (fun d => { d with committed := d.committed.filter (fun d => decide (d.line ≠ line)) })).core
      core).committed.find? _ = none
    rw [core_modCore, if_pos rfl]
    refine List.find?_eq_none.2 fun d hd => ?_
    have hline := of_decide_eq_true (List.mem_filter.1 hd).2
    rw [decide_eq_true_eq]
    exact hline

theorem performLine_of_none {core line : Nat} (h : (s.core core).committed.find? (fun c => decide (c.line = line)) = none) :
    s.performLine core line = s := by
  unfold State.performLine
  rw [h]

/-- Bytes of a line of which the core has nothing committed are performed at once. -/
theorem performFrom_of_none {core line : Nat} {cells : List (Nat × Byte)} (hline : ∀ c ∈ cells, c.1 / 128 = line)
    (h : (s.core core).committed.find? (fun c => decide (c.line = line)) = none) : s.performFrom core cells =
      { s.perform (s.heeded cells) with
        poisoned := s.poisoned.filter (fun l => !(wholeBlocks cells).contains l)
        hostWrites := s.hostWrites ++ (((cells.map (fun c => lineOf c.1)).eraseDups).filter (fun l => hostAperture (l * 128))).map
          (fun l => ⟨core, l⟩) } := by
  have hlines : ((cells.map (fun c => lineOf c.1)).eraseDups).foldl (fun t l => t.performLine core l) s = s := by
    refine List.foldlRecOn (motive := fun t : State => t = s) _ _ rfl fun t ht l hl => ?_
    obtain ⟨c, hc, rfl⟩ := List.mem_map.1 (List.mem_eraseDups.1 hl)
    rw [ht, show lineOf c.1 = line from hline c hc, performLine_of_none h]
  unfold State.performFrom
  extract_lets lines s1
  have hs1 : s1 = s.perform (s.heeded cells) := congrArg (fun t : State => t.perform (s.heeded cells)) hlines
  rw [hs1]
  rfl

/-! ## GBAR -/

theorem gbarChecks_of_none (h : ∀ x ∈ s.waves, x.2.wait ≠ .gbar) : s.gbarChecks = s := by
  have hwaits (g : Nat) : s.waves.any (fun x => decide (s.wgGrid x.2.wg = g) && decide (x.2.wait = .gbar)) = false :=
    List.any_eq_false.2 fun x hx => by simp [h x hx]
  have hcheck (g : Nat) : s.gbarCheck g = s := by
    unfold State.gbarCheck State.gbarDone
    simp only [hwaits, Bool.and_false, Bool.false_and, Bool.false_eq_true, if_false]
  exact List.foldlRecOn (motive := fun t : State => t = s) _ _ rfl fun t ht g _ => by rw [ht, hcheck]

/-- Room in the side log leaves none waiting at GBAR that did not. -/
theorem logFreed_wait {core : Nat} {ws : Tab Wave} (h : ∀ x ∈ ws, x.2.wait ≠ .gbar) :
    ∀ x ∈ logFreed core ws, x.2.wait ≠ .gbar := by
  intro x hx
  obtain ⟨y, hy, rfl⟩ := List.mem_map.1 hx
  have hy' := h y hy
  dsimp only
  split
  · split
    · exact Wait.noConfusion
    · exact hy'
  · exact hy'

/-! ## The replay -/

/-- The state in which an entry's bytes are performed: its workgroup has committed, the line is performed and the page's leaf marked. -/
def replayBase (s : State) (core : Nat) (e : SideEntry) (pa leaf : Nat) (x : TlbEntry) : State :=
  ((s.commit e.wg).performLine core (pa / 128)).touchAll core true [.ok pa leaf x]

section Replay

variable {core : Nat} {e : SideEntry} {pa leaf : Nat} {x : TlbEntry}

theorem dupOf_line (h : s.dupOf pa = none) : (s.commit e.wg).dupOf (pa / 128 * 128) = none := by
  have hpage : pa / 128 * 128 / 2 ^ 16 = pa / 2 ^ 16 := by omega
  have hdups : (s.commit e.wg).dupOf (pa / 128 * 128) = s.dupOf pa := by
    unfold State.dupOf
    rw [hpage]
    rfl
  rw [hdups, h]

theorem replayBase_walked : Walked ((s.commit e.wg).performLine core (pa / 128)) (replayBase s core e pa leaf x) := walked_touchAll ..

theorem replayBase_waves (h : s.dupOf pa = none) : (replayBase s core e pa leaf x).waves = s.waves :=
  replayBase_walked.waves.trans (performLine_waves (dupOf_line (e := e) h))

theorem Walked.readOnly (h : Walked s t) : t.readOnly = s.readOnly := by
  rw [← h]
  rfl

theorem replayBase_readOnly (h : s.dupOf pa = none) : (replayBase s core e pa leaf x).readOnly = s.readOnly :=
  replayBase_walked.readOnly.trans (performLine_readOnly (dupOf_line (e := e) h))

theorem replayBase_sideLog (h : s.dupOf pa = none) : ((replayBase s core e pa leaf x).core core).sideLog = (s.core core).sideLog :=
  ((core_touchAll ..).2.trans (sideLog_performLine (dupOf_line h) core)).trans (sideLog_commit s e.wg core)

theorem replayBase_committed (h : s.dupOf pa = none) :
    ((replayBase s core e pa leaf x).core core).committed.find? (fun c => decide (c.line = pa / 128)) = none := by
  have hcommitted : ((replayBase s core e pa leaf x).core core).committed =
      (((s.commit e.wg).performLine core (pa / 128)).core core).committed := (core_touchAll ..).1
  rw [hcommitted]
  exact committed_performLine (dupOf_line h)

theorem replayBase_memOk (h : s.memOk) : (replayBase s core e pa leaf x).memOk :=
  memOk_touchAll (memOk_performLine (s := s.commit e.wg) h core _) core true _

end Replay

/-- `t` differs from `v` in memory with what a write of it brings, in the waves, the cores, the workgroups and the notes of lines alone. -/
def PerformFrame (v t : State) : Prop :=
  { t with
    mem := v.mem
    waves := v.waves
    cores := v.cores
    wgs := v.wgs
    old := v.old
    tethers := v.tethers
    freed := v.freed
    wakes := v.wakes
    poisoned := v.poisoned
    hostWrites := v.hostWrites } = v

section Frame

variable {v : State} (h : PerformFrame v t)

include h

theorem PerformFrame.touchRo {wg : Nat} {lines : List Nat} : PerformFrame v (t.touchRo wg lines) := h
theorem PerformFrame.perform {cells : List (Nat × Byte)} : PerformFrame v (t.perform cells) := h
theorem PerformFrame.noted {ls : List Nat} {hs : List HostWrite} : PerformFrame v { t with poisoned := ls, hostWrites := hs } := h
theorem PerformFrame.dropEntry {core index : Nat} : PerformFrame v (t.dropEntry core index) := h

end Frame

/-- Bytes of an entry performed in state `v`, and the entry gone from the log. -/
def entryPerformed (v : State) (core index wg line : Nat) (cells : List (Nat × Byte)) : State :=
  ((v.touchRo wg [line]).performFrom core cells).dropEntry core index

section Performed

variable {v : State} {core index wg line : Nat} {cells : List (Nat × Byte)} (hc : ∀ c ∈ cells, c.1 / 128 = line)
  (hn : (v.core core).committed.find? (fun c => decide (c.line = line)) = none)

include hc hn

theorem entryPerformed_eq : entryPerformed v core index wg line cells =
    ({ (v.touchRo wg [line]).perform ((v.touchRo wg [line]).heeded cells) with
        poisoned := v.poisoned.filter (fun l => !(wholeBlocks cells).contains l)
        hostWrites := v.hostWrites ++ (((cells.map (fun c => lineOf c.1)).eraseDups).filter (fun l => hostAperture (l * 128))).map
          (fun l => ⟨core, l⟩) } : State).dropEntry core index :=
  congrArg (fun t : State => t.dropEntry core index) (performFrom_of_none (s := v.touchRo wg [line]) hc hn)

theorem entryPerformed_get (hm : v.memOk) (a : Nat) : (entryPerformed v core index wg line cells).mem.get a =
    if v.readOnly a then v.mem.get a else (lastAt cells a).getD (v.mem.get a) := by
  rw [entryPerformed_eq hc hn]
  exact get_perform_heeded (s := v.touchRo wg [line]) hm cells a

theorem entryPerformed_waves : (entryPerformed v core index wg line cells).waves = logFreed core v.waves := by
  rw [entryPerformed_eq hc hn]
  rfl

theorem entryPerformed_cores : (entryPerformed v core index wg line cells).cores =
    tabSet v.cores core { v.core core with sideLog := (v.core core).sideLog.eraseIdx index } := by
  rw [entryPerformed_eq hc hn]
  rfl

theorem entryPerformed_wgs : (entryPerformed v core index wg line cells).wgs =
    tabMod v.wgs wg (fun g => { g with roTouched := (g.roTouched ++ [line]).eraseDups }) := by
  rw [entryPerformed_eq hc hn]
  rfl

theorem entryPerformed_frame : PerformFrame v (entryPerformed v core index wg line cells) := by
  rw [entryPerformed_eq hc hn]
  exact .dropEntry (.noted (.perform (.touchRo (v := v) (t := v) rfl)))

end Performed

theorem replay_plain {core : Nat} {e : SideEntry} {pa leaf : Nat} {x : TlbEntry} (index : Nat) (h : s.dupOf pa = none) (hr : e.red = none) :
    s.replay core index e (.ok pa leaf x) =
      entryPerformed (replayBase s core e pa leaf x) core index e.wg (pa / 128) (e.cells pa) := by
  unfold State.replay
  change (match s.dupOf pa with | some i => _ | none => _) = _
  rw [h, hr]
  rfl

/-! ## SIDE_LOG_REPLAY -/

section Events

variable {core index : Nat} {e : SideEntry}

/-- The translation of an entry's page, which no command that blocks the page holds. -/
def replayPage (s : State) (core : Nat) (e : SideEntry) : Trans :=
  ({ s with blockedWalks := [] } : State).translate core e.ctx e.va (.write e.xdata)

/-- The first entry of its page goes by what the page answers. -/
theorem exec_sideLogReplay (he : (s.core core).sideLog[index]? = some e)
    (hf : ∀ x ∈ (s.core core).sideLog.take index, ¬ (x.ctx = e.ctx ∧ x.va / 65536 = e.va / 65536)) :
    exec (.sideLogReplay core index) s = match replayPage s core e with
      | .ok pa leaf page => .next ((s.replay core index e (.ok pa leaf page)).gbarChecks)
      | .absent => .next (if s.servable e.ctx e.va then s.askPage e.ctx e.va 1 else (s.dropEntry core index).refuseEntry e)
      | .denied => .next ((s.dropEntry core index).refuseEntry e)
      | .malformed _ => .next (((s.dropEntry core index).malformed e.ctx (s.wgGrid e.wg) e.va).refuseEntry e) := by
  have hbehind : (s.core core).entryBehind index e = false := by
    refine List.any_eq_false.2 fun x hx hsame => hf x hx ?_
    rw [Bool.and_eq_true, decide_eq_true_eq, decide_eq_true_eq] at hsame
    exact hsame
  change execSideLogReplay core index s = _
  unfold execSideLogReplay
  dsimp only
  rw [he]
  dsimp only
  rw [hbehind]
  rfl

theorem replay_plain_spec {pa leaf : Nat} {x : TlbEntry} (he : (s.core core).sideLog[index]? = some e)
    (hf : ∀ x ∈ (s.core core).sideLog.take index, ¬ (x.ctx = e.ctx ∧ x.va / 65536 = e.va / 65536))
    (hg : ∀ x ∈ s.waves, x.2.wait ≠ .gbar) (hp : replayPage s core e = .ok pa leaf x) (hd : s.dupOf pa = none) (hr : e.red = none)
    (hm : s.memOk) (hc : ∀ c ∈ e.cells pa, c.1 / 128 = pa / 128) {v : State} (hv : v = replayBase s core e pa leaf x) :
    ∃ t, exec (.sideLogReplay core index) s = .next t ∧
      (∀ a, t.mem.get a = if s.readOnly a then v.mem.get a else (lastAt (e.cells pa) a).getD (v.mem.get a)) ∧
      t.waves = logFreed core s.waves ∧
      t.cores = tabSet v.cores core { v.core core with sideLog := (s.core core).sideLog.eraseIdx index } ∧
      t.wgs = tabMod v.wgs e.wg (fun g => { g with roTouched := (g.roTouched ++ [pa / 128]).eraseDups }) ∧
      { t with
        mem := v.mem
        waves := v.waves
        cores := v.cores
        wgs := v.wgs
        old := v.old
        tethers := v.tethers
        freed := v.freed
        wakes := v.wakes
        poisoned := v.poisoned
        hostWrites := v.hostWrites } = v := by
  have hwaves : v.waves = s.waves := hv ▸ replayBase_waves hd
  have hread : v.readOnly = s.readOnly := hv ▸ replayBase_readOnly hd
  have hlog : (v.core core).sideLog = (s.core core).sideLog := hv ▸ replayBase_sideLog hd
  have hnone : (v.core core).committed.find? (fun c => decide (c.line = pa / 128)) = none := hv ▸ replayBase_committed hd
  have hmem : v.memOk := hv ▸ replayBase_memOk hm
  have hfreed : (entryPerformed v core index e.wg (pa / 128) (e.cells pa)).waves = logFreed core s.waves := by
    rw [entryPerformed_waves hc hnone, hwaves]
  have hgbar : (entryPerformed v core index e.wg (pa / 128) (e.cells pa)).gbarChecks =
      entryPerformed v core index e.wg (pa / 128) (e.cells pa) :=
    gbarChecks_of_none (by rw [hfreed]; exact logFreed_wait hg)
  have hexec : exec (.sideLogReplay core index) s = .next (entryPerformed v core index e.wg (pa / 128) (e.cells pa)) := by
    rw [exec_sideLogReplay he hf, hp]
    dsimp only
    rw [replay_plain index hd hr, ← hv, hgbar]
  refine ⟨_, hexec, fun a => ?_, hfreed, ?_, entryPerformed_wgs hc hnone, entryPerformed_frame hc hnone⟩
  · rw [entryPerformed_get hc hnone hmem, hread]
  · rw [entryPerformed_cores hc hnone, hlog]

/-- A wave held for room in the side log of a core goes on. -/
def waveFreed (core : Nat) (x : Nat × Wave) : Wave :=
  match x.2.wait with
  | .page _ _ 1 _ => if x.1 / 64 = core then { x.2 with wait := .none } else x.2
  | _ => x.2

theorem waveFreed_keeps (core : Nat) (x : Nat × Wave) :
    (waveFreed core x).wg = x.2.wg ∧ (waveFreed core x).index = x.2.index ∧ (waveFreed core x).live = x.2.live := by
  unfold waveFreed
  split
  · split <;> exact ⟨rfl, rfl, rfl⟩
  · exact ⟨rfl, rfl, rfl⟩

/-- The wave that issued an entry: its workgroup's wave of its number, with a lane alive. -/
def issuedBy (e : SideEntry) (x : Nat × Wave) : Bool :=
  decide (x.2.wg = e.wg) && decide (x.2.index = e.wave) && decide (x.2.live ≠ 0#32)

theorem find_logFreed (core : Nat) (e : SideEntry) (ws : Tab Wave) :
    ((logFreed core ws).find? (issuedBy e)).map Prod.fst = (ws.find? (issuedBy e)).map Prod.fst := by
  have hsame : issuedBy e ∘ (fun x => (x.1, waveFreed core x)) = issuedBy e := by
    funext x
    obtain ⟨hwg, hindex, hlive⟩ := waveFreed_keeps core x
    simp only [issuedBy, Function.comp_apply, hwg, hindex, hlive]
  have hmap : logFreed core ws = ws.map (fun x => (x.1, waveFreed core x)) := rfl
  rw [hmap, List.find?_map, hsame, Option.map_map]
  rfl

/-- A page that refuses the write drops the entry, and ACCESS falls due in the wave that issued it. -/
theorem refuseEntry_found {key : Nat} {w : Wave} (hk : s.waves.find? (issuedBy e) = some (key, w)) :
    (s.dropEntry core index).refuseEntry e = { s with
      cores := tabSet s.cores core { s.core core with sideLog := (s.core core).sideLog.eraseIdx index }
      waves := tabMod (logFreed core s.waves) key (fun v => { v with causes := v.causes ++
        [⟨0x07, BitVec.ofNat 32 (256 + e.recq), e.lanes, e.iaddr, 0#48, BitVec.ofNat 48 ((e.writes.head?.map Prod.fst).getD e.va),
          false, false, false, false⟩] }) } := by
  have hissuer : ((s.dropEntry core index).waves.find? (fun x => decide (x.2.wg = e.wg) && decide (x.2.index = e.wave) &&
      decide (x.2.live ≠ 0#32))).map Prod.fst = some key := (find_logFreed core e s.waves).trans (by rw [hk]; rfl)
  unfold State.refuseEntry
  dsimp only
  rw [hissuer]
  rfl

end Events

/-- Settles O35: each event by its own rule; the arrivals share `arrive_eq`, the answers `answer_eq`. -/
theorem resultsArrive : Obligations.ResultsArrive := by
  unfold Obligations.ResultsArrive
  refine ⟨loadReturn_spec, fun s key w o hw h => ⟨divideResult_spec hw h, fun hd => fdivResult_spec hw h hd rfl⟩,
    launchStatus_spec, ?_⟩
  intro s core index e he hf hg page log
  have hexec := exec_sideLogReplay he hf
  refine ⟨?_, ?_, ?_⟩
  · intro pa leaf x hp hd hr hm cells hc v
    exact replay_plain_spec he hf hg hp hd hr hm hc
      (congrArg (fun y => ((s.commit e.wg).performLine core (pa / 128)).touchAll core true [y]) hp)
  · intro hp hserve
    rw [hexec, show replayPage s core e = .absent from hp]
    exact congrArg Host.Outcome.next (if_pos hserve)
  · intro hp key w hk
    rw [hexec, show replayPage s core e = .denied from hp]
    exact congrArg Host.Outcome.next (refuseEntry_found hk)

end Sys2Proof.Claims
end
